-- ==== Sys2Proof/Word.lean ====
section
/-!
DEFINITION. The word types of the model and their plainest arithmetic: bytes, the 64-bit register word,
bit fields, and the keyed tables that hold sparse state in one canonical order.
-/

namespace Sys2Proof

/-- One byte of memory. -/
abbrev Byte := BitVec 8

/-- One BAR0 register, or any 64-bit word of the manual (R13). -/
abbrev W64 := BitVec 64

/-- Field `[hi:lo]` of a word, as a number (the manual writes bit ranges `[hi:lo]`). -/
def fieldOf (w : W64) (hi lo : Nat) : Nat := (w.toNat / 2 ^ lo) % 2 ^ (hi + 1 - lo)

/-- Bit `i` of a word. -/
def bitOf (w : W64) (i : Nat) : Bool := w.toNat / 2 ^ i % 2 == 1

/-- Bit `i` of a number. -/
def natBit (n i : Nat) : Bool := n / 2 ^ i % 2 == 1

/-- `1` for `true`, `0` for `false`. -/
def bit (b : Bool) : Nat := if b then 1 else 0

/-- The little-endian value of a list of bytes: byte 0 is the least significant. -/
def leVal : List Byte → Nat
  | [] => 0
  | b :: bs => b.toNat + 256 * leVal bs

/-- `n` little-endian bytes of a number. -/
def leBytes : Nat → Nat → List Byte
  | 0, _ => []
  | n + 1, v => BitVec.ofNat 8 v :: leBytes n (v / 256)

/-- Bytes `[off, off + n)` of a list, absent bytes read as 0. -/
def sliceBytes (bs : List Byte) (off n : Nat) : List Byte :=
  ((bs.drop off).take n) ++ List.replicate (n - (bs.length - off)) 0

/-- The little-endian number in bytes `[off, off + n)`. -/
def fieldBytes (bs : List Byte) (off n : Nat) : Nat := leVal (sliceBytes bs off n)

/-- Ceiling division. -/
def ceilDiv (a b : Nat) : Nat := (a + b - 1) / b

/-- A sum that stops at `top` (a saturating counter). -/
def satAdd (top a b : Nat) : Nat := min top (a + b)

/-- A sum that wraps to 0 after `2 ^ w - 1` (a wrapping counter). -/
def wrapAdd (w a b : Nat) : Nat := (a + b) % 2 ^ w

/-- A sparse table: entries `(key, value)` in rising key order. -/
abbrev Tbl (α : Type) := List (Nat × α)

/-- The value a table lists for a key. -/
def Tbl.find {α : Type} : Tbl α → Nat → Option α
  | [], _ => none
  | (k, v) :: t, i => if k == i then some v else Tbl.find t i

/-- The value of a key, `d` when the table lists none. -/
def Tbl.get {α : Type} (t : Tbl α) (d : α) (i : Nat) : α := (Tbl.find t i).getD d

/-- The table with a key set to a value, keys kept in rising order. -/
def Tbl.set {α : Type} : Tbl α → Nat → α → Tbl α
  | [], i, a => [(i, a)]
  | (k, v) :: t, i, a =>
    if i < k then (i, a) :: (k, v) :: t
    else if i = k then (i, a) :: t
    else (k, v) :: Tbl.set t i a

/-- The table without a key. -/
def Tbl.del {α : Type} (t : Tbl α) (i : Nat) : Tbl α := t.filter (fun e => !(e.1 == i))

/-- Change the entry of a key where the table lists one. -/
def Tbl.upd {α : Type} (t : Tbl α) (i : Nat) (f : α → α) : Tbl α :=
  t.map (fun e => if e.1 == i then (e.1, f e.2) else e)

/-- Keys rise strictly. -/
def Tbl.sorted {α : Type} : Tbl α → Bool
  | [] => true
  | [_] => true
  | (k, _) :: (k', v') :: t => decide (k < k') && Tbl.sorted ((k', v') :: t)

/-- The least number from `i`, within `fuel` tries, that a test accepts. -/
def firstFrom (p : Nat → Bool) : Nat → Nat → Option Nat
  | 0, _ => none
  | fuel + 1, i => if p i then some i else firstFrom p fuel (i + 1)

/-- Replace every element that a test accepts. -/
def mapIf {α : Type} (p : α → Bool) (f : α → α) (l : List α) : List α :=
  l.map (fun x => if p x then f x else x)

end Sys2Proof
end

