-- ==== Sys2Proof/Syntax.lean ====
section
/-!
DEFINITION. The commands of the block: one constructor of `Instr` for each row of spec/opcode_table.json, with the
operands the spec gives the step, and the records those operands are made of (message bodies, register writes,
page entries, state records, model descriptors, composition maps).
-/

namespace Sys2Proof

/-- A 64-bit handle (R63). -/
abbrev Handle := Nat

/-- Who makes a PCIe access: a function of a port, or a peer requester on it (R543, R547). Port 0 is A, 1 is B. -/
structure Req where
  port : Nat
  fn : Nat
  peer : Option Nat
  deriving DecidableEq, Repr

/-- Bytes the host stored into the I/O virtual space of one function before the step (R72, R91). -/
structure Poke where
  port : Nat
  fn : Nat
  addr : Nat
  bytes : List Byte
  deriving DecidableEq, Repr

/-- What a delivered frame or whole message says of itself (R399): source, composition, epoch, class, redirection, and for the transport
its QP number, incarnation, the PSN of its first packet, its number of packets, and the acknowledgement it carries. -/
structure Hdr where
  src : Nat
  comp : Nat
  epoch : Nat
  cls : Nat
  redirected : Bool
  qp : Nat
  inc : Nat
  psn : Nat
  packets : Nat
  ack : Option Nat
  deriving DecidableEq, Repr

/-- A page entry (R214). `tiers`: bit 0 stacks, bit 1 host memory. -/
structure PageEntry where
  number : Nat
  lost : Bool
  tiers : Nat
  tokens : Nat
  deriving DecidableEq, Repr

/-- One item of an ENTRIES message: layer, index in the layer's list, entry (R224). -/
structure EntryItem where
  layer : Nat
  index : Nat
  entry : PageEntry
  deriving DecidableEq, Repr

/-- The state record of a sequence (R213). `pages` holds one list of entries a layer. -/
structure SeqRecord where
  handle : Handle
  owner : Nat
  partner : Nat
  epoch : Nat
  version : Nat
  model : Handle
  pfx : Handle
  prefixLen : Nat
  privateLen : Nat
  customer : Nat
  cls : Nat
  state : Nat
  target : Nat
  comp : Nat
  layers : Nat
  pages : List (List PageEntry)
  deriving DecidableEq, Repr

/-- A model descriptor record (R558). -/
structure ModelRec where
  layers : Nat
  heads : Nat
  kind : Nat
  kvHeads : Nat
  latent : Nat
  rotary : Nat
  keyWidth : Nat
  valueWidth : Nat
  storage : Nat
  pageLog2 : Nat
  frame4k : Nat
  weightFormat : Nat
  window : Nat
  weightAddr : Nat
  weightPort : Nat
  deriving DecidableEq, Repr

/-- A member entry of a composition map (R479). -/
structure MapMember where
  device : Nat
  pers : Nat
  parting : Bool
  domain : Nat
  partner : Nat
  ring : Nat
  position : Nat
  ingestGroup : Nat
  successor : Nat
  deriving DecidableEq, Repr

/-- A ring entry of a composition map (R480). -/
structure MapRing where
  rack : Nat
  segment : Nat
  kind : Nat
  length : Nat
  spare : Nat
  spareDevice : Nat
  deriving DecidableEq, Repr

/-- A departed entry of a composition map (R480). -/
structure MapDeparted where
  device : Nat
  successor : Nat
  epoch : Nat
  deriving DecidableEq, Repr

/-- A composition map (R478 to R480). `magicOk`: MAGIC is right and every reserved byte is 0; `crcOk`: the CRC field matches the record. -/
structure CompMap where
  magicOk : Bool
  crcOk : Bool
  comp : Nat
  epoch : Nat
  baseEpoch : Nat
  index : Nat
  shards : Nat
  drainMs : Nat
  members : List MapMember
  rings : List MapRing
  departed : List MapDeparted
  deriving DecidableEq, Repr

/-- A lease-renewal entry of RENEW (R388): the draft, and the writer's port and function. -/
structure RenewItem where
  object : Handle
  port : Nat
  fn : Nat
  deriving DecidableEq, Repr

/-- The PMATCH result record (R121). -/
structure MatchResult where
  matched : Nat
  node : Handle
  baseVersion : Nat
  draft : Handle
  holders : List Nat
  shardBlocks : Nat
  deriving DecidableEq, Repr

/-- The body of INDEX_COMMIT (R388). -/
structure NodeCommit where
  parent : Handle
  baseVersion : Nat
  digests : List Nat
  holders : List Nat
  shardBlocks : Nat
  deriving DecidableEq, Repr

/-- What a packed image of purpose 3 carries (R322, R496): a record; a node version with its bound descriptor, blocks, path and shard map; a page of
one, as plaintext; a node of the prefix tree with its references. -/
inductive MirrorItem
  | record (r : SeqRecord)
  | hold (comp : Nat) (node parent : Handle) (model : ModelRec) (blocks first count : Nat) (holders : List Nat) (shardBlocks : Nat)
  | page (node : Handle) (layer index tokens : Nat) (bytes : List Byte)
  | tree (comp : Nat) (node : Handle) (version refs seqNo : Nat) (c : NodeCommit)
  deriving DecidableEq, Repr

/-- A buffer reference (R68), its reserved bits kept so that step 3 of R92 can refuse them. -/
structure BufRef where
  offset : Nat
  device : Nat
  key : Nat
  reserved : Nat
  deriving DecidableEq, Repr

/-- The fields of a TZ instruction word (R85). -/
structure Entry where
  opcode : Nat
  flags : Nat
  counter : Nat
  customer : Nat
  cls : Nat
  format : Nat
  a : Nat
  b : Nat
  c : Nat
  deriving DecidableEq, Repr

/-- One entry of a combinable add (R445): requester, its QP and INC, its tag, the addends or previous values. -/
structure AddEntry where
  device : Nat
  qp : Nat
  inc : Nat
  tag : Nat
  vals : List Nat
  deriving DecidableEq, Repr

/-- One packet of a WRITE or REDUCE message (R399, R434): KEY, OFFSET, MSG_LEN, FIRST, LAST, ACK_REQ, the port and function that the message acts for (R374),
and the payload. -/
structure Packet where
  key : Nat
  off : Nat
  msgLen : Nat
  first : Bool
  last : Bool
  ackReq : Bool
  port : Nat
  fn : Nat
  bytes : List Byte
  deriving DecidableEq, Repr

/-- What a REDUCE message asks for (R162): operation, format, deterministic, the number its fetch is answered under, rows per tuple and their width. -/
structure RedSpec where
  op : Nat
  fmt : Nat
  det : Bool
  fetch : Option Nat
  rowsPer : Nat
  d : Nat
  deriving DecidableEq, Repr

/-- The bodies of the fabric messages of this device, sent or received. CONTROL types carry the number of the table that
defines them (R224, R388, R482, R497); the rest are the OPs of R400. -/
inductive Msg
  -- castling and record messages (R224)
  | offer (epoch comp privBytes weightBytes : Nat) (model : ModelRec) (desc : SeqRecord)
  | decline (epoch code : Nat)
  | pull (epoch kind : Nat) (entry : PageEntry)
  | page (epoch kind : Nat) (entry : PageEntry) (bytes : List Byte)
  | accept (epoch : Nat) (entries : List PageEntry)
  | abort (epoch code : Nat)
  | commit (epoch target : Nat) (entries : List PageEntry)
  | committed (epoch code version : Nat)
  | take (epoch : Nat)
  | taken (epoch : Nat)
  | ask (epoch : Nat) (complete : Bool) (side : Nat) (reply : Bool) (entries : List PageEntry)
  | hold (epoch : Nat)
  | ruling (epoch owner code : Nat)
  | entries (epoch kind state target comp : Nat) (items : List EntryItem)
  | entriesAck (epoch code version : Nat)
  | release (epoch : Nat)
  | released (epoch code : Nat)
  -- mirrors (R497)
  | recordMsg (version : Nat) (desc : SeqRecord)
  | recordAck (code version : Nat)
  | recordDelete (version : Nat)
  | treeMsg (kind : Nat) (commit : Option NodeCommit) (change : Int)
  | treeAck (code : Nat)
  | image (purpose offset : Nat) (items : List MirrorItem)
  | imageDone (purpose length crc : Nat)
  | imageAck (code : Nat)
  -- publishing, leases and the prefix index (R388)
  | renew (items : List RenewItem)
  | lookup (comp : Nat) (reserve takeRef : Bool) (digests : List Nat)
  | lookupResult (code : Nat) (result : MatchResult)
  | reserve (device : Nat) (digests : List Nat)
  | reserved (code : Nat) (draft : Handle)
  | shardMapReq
  | shardMap (code : Nat) (holders : List Nat) (shardBlocks : Nat)
  | ref (change : Int)
  | distribute (layer first count : Nat) (bytes : List Byte)
  | descriptor (model : ModelRec)
  | share (ancestor : Handle) (first count : Nat)
  | distributed (code : Nat)
  | indexCommit (c : NodeCommit)
  | indexCommitted (code version : Nat)
  | retire
  -- data and submission OPs (R400)
  | write (key offset port fn : Nat) (bytes : List Byte)
  | readReq (id key offset len : Nat) (combinable : Bool)
  | readResp (id code : Nat) (bytes : List Byte)
  | combResp (tag code off : Nat) (last : Bool) (bytes : List Byte)
  | combAdd (key offset : Nat) (entries : List AddEntry)
  | combAddResp (code : Nat) (entries : List AddEntry)
  | reduce (key offset op format : Nat) (det : Bool) (fetch : Option Nat) (rowsPer d port fn : Nat) (bytes : List Byte)
  | submit (tag queue port fn : Nat) (entry : Entry) (blk : List Byte)
  | complete (tag code counter version : Nat)
  | signal (counter : Handle) (set clearFail : Bool) (value : Nat)
  | mcastOpen (group psn key offset len port fn : Nat)
  | mcastData (group offset : Nat) (bytes : List Byte)
  -- composition control (R482)
  | propose (map : CompMap)
  | prepare (map : CompMap)
  | vote (epoch code : Nat)
  | mapCommit (epoch : Nat)
  | mapAbort (epoch code : Nat)
  | applied (epoch : Nat)
  | beat (frames seqs : Nat) (updating : Bool)
  | ringMove (device position : Nat)
  | restoreReq (device : Nat)
  | drainDone
  | result (epoch code voter : Nat)
  | datagram (bytes : List Byte)
  deriving DecidableEq, Repr

/-- A message as the device sends it: destination, composition and epoch (R486), class (R402), REDIRECTED (R487), SUBJECT. -/
structure OutMsg where
  dst : Nat
  comp : Nat
  epoch : Nat
  cls : Nat
  redirected : Bool
  subject : Handle
  msg : Msg
  deriving DecidableEq, Repr

/-- A ring slot's header and body length (R396): the device it is for, FULL, who filled it, HOPS, class, pause and fairness fields. -/
structure Slot where
  dest : Nat
  full : Bool
  src : Nat
  hops : Nat
  cls : Nat
  xoff : Nat
  xoffSrc : Nat
  hungry : Bool
  hungrySrc : Nat
  bytes : Nat
  deriving DecidableEq, Repr

/-- What the check of a slot's header finds (R412, R414): HCRC holds, or it fails, with the header that FEC or retry corrects it to where there is one. -/
inductive HeaderRead
  | passes
  | fails (corrected : Option Slot)
  deriving DecidableEq, Repr

/-- What an OPEN names to write to (R441): a key of the member, or, with KEY 0, the draft node that is the message's SUBJECT (R27). -/
structure OpenDest where
  subject : Handle
  key : Nat
  deriving DecidableEq, Repr

/-- What a remote completion brings (R79, R130): a reason code, and the version that a forwarded PUBLISH reports. -/
structure RemoteResult where
  code : Nat
  version : Nat
  deriving DecidableEq, Repr

/-- Where a sector of the stacks lies (R298): in a page's frame, in the save area of a task, in the tag array (with the pages whose tags it holds), in a record, in the work
area, or elsewhere. -/
inductive StackArea
  | page (number : Nat)
  | save (task : Nat)
  | tags (pages : List Nat)
  | record (h : Handle)
  | work
  | other
  deriving DecidableEq, Repr

/-- A stacks block that the re-code engine comes to (R319): block `i` of a page, a carve block, a weight block. -/
inductive RecodePlace
  | page (number i : Nat)
  | carve (i : Nat)
  | weight (i : Nat)
  deriving DecidableEq, Repr

/-- An error that a unit detects on its own and no other command reports (R577): an uncorrectable word of a running task's tile, of hub SRAM, a control core fault, a
crossbar protocol error. -/
inductive HwError
  | tileWord (tile : Nat)
  | hubSram
  | controlCore (core : Nat)
  | crossbar
  deriving DecidableEq, Repr

/-- A management request (R544 to R546): an SPDM measurement, PLDM sensors, FRU data, an error record (0 primary, 1 secondary), a cold reset, `secured` where it comes
inside a secured session with a requester whose certificates chain to Kalmund's management root. -/
inductive MgmtReq
  | measurement (index : Nat)
  | sensors
  | fru
  | errors (which : Nat)
  | coldReset (secured : Bool)
  deriving DecidableEq, Repr

/-- The commands: one for each row of spec/opcode_table.json. `id` numbers a started instruction, `h` and `subject` are a delivered message's header
and SUBJECT (R399, R401), `who` makes a PCIe access. The commands without operands stand last: compiled code can build only the first 245 constructors that carry data. -/
inductive Instr
  /-- NOP (R167): NOP completes as soon as it starts. -/
  | nop (id : Nat)
  /-- FENCE (R167): FENCE starts only after every earlier instruction of its queue has completed, then completes. -/
  | fence (id : Nat)
  /-- WAITCNT (R83): WAITCNT holds its queue in WAITING until the named counter reaches the target or the timeout runs out. -/
  | waitcnt (id : Nat)
  /-- SIGNAL (R169): SIGNAL applies one atomic add, set or FAIL clear to a local or remote counter. -/
  | signal (id : Nat)
  /-- HALTQ (R170): HALTQ halts the named queue as the HALT bit does. -/
  | haltq (id : Nat)
  /-- TRACE (R171): TRACE records a user trace point when that point is enabled. -/
  | trace (id : Nat)
  /-- BUDGET_SET_RATE_AND_BURST (R172): BUDGET action 0x0 sets a customer's rate and burst. -/
  | budgetSetRateAndBurst (id : Nat)
  /-- BUDGET_ADD_CREDIT (R172): BUDGET action 0x1 adds credit to a customer's bucket, saturating at the burst. -/
  | budgetAddCredit (id : Nat)
  /-- BUDGET_SET_WEIGHT (R172): BUDGET action 0x2 sets a customer's weight within its class. -/
  | budgetSetWeight (id : Nat)
  /-- PMOVE (R107): PMOVE places the covered pages in the destination tier of the executing device. -/
  | pmove (id : Nat)
  /-- PCOPY (R110): PCOPY makes a clean copy of prefix-node or sequence pages in a destination tier. -/
  | pcopy (id : Nat)
  /-- PINGEST (R116): PINGEST converts accelerator rows to MX storage form and writes them into sequence pages, multicasting completed prefix pages. -/
  | pingest (id : Nat)
  /-- PEVICT_VACATE (R118): PEVICT in vacate form removes covered pages' copies from a tier, writing back newest copies first. -/
  | pevictVacate (id : Nat)
  /-- PEVICT_RELEASE (R119): PEVICT in release form frees a sequence's private pages and releases its record at the home. -/
  | pevictRelease (id : Nat)
  /-- PPIN (R120): PPIN brings covered pages into the stacks and raises their pin counts. -/
  | ppin (id : Nat)
  /-- PUNPIN (R120): PUNPIN lowers the pin count of each covered page above 0. -/
  | punpin (id : Nat)
  /-- PMATCH (R123): PMATCH looks up a prefix by chained digests at the index member, attaches a reference and may reserve a draft. -/
  | pmatch (id : Nat)
  /-- REGISTER (R126): REGISTER takes a free key index and registers a region with its rights and scope. -/
  | register (id : Nat)
  /-- REVOKE (R128): REVOKE raises the key generation, drains accepted messages, discards drafts and frees the index. -/
  | revoke (id : Nat)
  /-- PUBLISH (R130): PUBLISH makes the submitter's draft of a region the next version when its base version is current. -/
  | publish (id : Nat)
  /-- PUBLISH_DRAFT_NODE (R385): PUBLISH on a draft node distributes shards and commits the node into the prefix tree. -/
  | publishDraftNode (id : Nat)
  /-- DISCARD (R132): DISCARD empties the submitter's draft, releasing a draft node's handle. -/
  | discard (id : Nat)
  /-- CLAIM_CREATE (R23): CLAIM in create form allocates a sequence handle, creates its record and mirrors it. -/
  | claimCreate (id : Nat)
  /-- CLAIM_ASSERT (R134): CLAIM in assert form asks the home to record the executing device as owner of a sequence it holds a complete copy of. -/
  | claimAssert (id : Nat)
  /-- CASTLE (R225): CASTLE starts the ownership handoff of a sequence from its owner to a target. -/
  | castle (id : Nat)
  /-- RWRITE (R138): RWRITE moves bytes from a local buffer to a registered buffer as one message. -/
  | rwrite (id : Nat)
  /-- RREAD (R138): RREAD reads bytes from a registered buffer into a local buffer. -/
  | rread (id : Nat)
  /-- MCAST (R441): MCAST replicates data along a multicast group's tree to each member. -/
  | mcast (id : Nat)
  /-- RREDUCE (R163): RREDUCE combines source data into a destination by sum, max, min, integer add with fetch or softmax-merge. -/
  | rreduce (id : Nat)
  /-- ATTEND (R175): ATTEND computes attention of the query tokens over resident key/value state and returns rows or a tuple. -/
  | attend (id : Nat)
  /-- AMERGE (R155): AMERGE combines partial attention tuples that lie in memory. -/
  | amerge (id : Nat)
  /-- EXPAND (R157): EXPAND exports per-head keys and values formed from stored latents. -/
  | expand (id : Nat)
  /-- CONVERT_ROW (R158): CONVERT in row form writes a sequence's private rows in storage format at the owner. -/
  | convertRow (id : Nat)
  /-- CONVERT_BUFFER (R159): CONVERT in buffer form converts elements between formats. -/
  | convertBuffer (id : Nat)
  /-- GEMM (R160): GEMM computes a matrix product, optionally accumulating, in fast or deterministic mode. -/
  | gemm (id : Nat)
  /-- VOP (R161): VOP runs an elementwise or row operation on the vector engines. -/
  | vop (id : Nat)
  /-- LOOKAHEAD_EXPIRY (R191): A look-ahead copy unused by any ATTEND for 100 us is discarded. -/
  | lookaheadExpiry (page : Nat)
  /-- DETERMINISTIC_PASS_TWO_START (R188): When every holder's pass-1 maxima are in, the G device sends the pass-2 holder ATTENDs. -/
  | deterministicPassTwoStart (id : Nat)
  /-- QDB_TAIL_WRITE (R71): A doorbell write makes entries available, is ignored, or halts the queue on overflow. -/
  | qdbTailWrite (who : Req) (q t : Nat)
  /-- QUEUE_ENABLE (R74): Setting ENABLE checks the queue and makes it ACTIVE or leaves it DISABLED with a reason. -/
  | queueEnable (who : Req) (q : Nat) (v : W64)
  /-- QUEUE_DISABLE (R77): Clearing ENABLE puts the queue in DRAINING, failing unstarted fetched entries. -/
  | queueDisable (who : Req) (q : Nat) (v : W64)
  /-- QUEUE_HALT (R73): The HALT bit halts an ACTIVE or WAITING queue. -/
  | queueHalt (who : Req) (q : Nat) (v : W64)
  /-- QUEUE_RESUME (R73): The RESUME bit returns a HALTED queue to ACTIVE. -/
  | queueResume (who : Req) (q : Nat) (v : W64)
  /-- QUEUE_FLUSH (R73): The FLUSH bit completes every unstarted entry of a HALTED queue with TZ_QUEUE_HALTED. -/
  | queueFlush (who : Req) (q : Nat) (v : W64)
  /-- QDB_BIND_WRITE (R75): A physical function binds a disabled queue to a function, customer and class. -/
  | qdbBindWrite (who : Req) (q : Nat) (v : W64)
  /-- INSTRUCTION_FETCH (R72): The device copies an available queue entry and advances HEAD. -/
  | instructionFetch (q : Nat) (pokes : List Poke)
  /-- INSTRUCTION_START (R92): A ready instruction is checked in order, admitted and charged, and begins execution or fails. -/
  | instructionStart (pokes : List Poke)
  /-- LIFECYCLE_WAIT_END (R97): A data instruction that waited behind a lifecycle instruction is checked again from step 4. -/
  | lifecycleWaitEnd (id : Nat)
  /-- INSTRUCTION_COMPLETE (R82): An instruction completes once its effects are visible and signals its counter when asked. -/
  | instructionComplete (id : Nat)
  /-- WAITCNT_TIMEOUT (R83): A pending WAITCNT whose timeout runs out completes with TZ_WAIT_TIMEOUT. -/
  | waitcntTimeout (id : Nat)
  /-- OFFER (R225): A target receiving OFFER reserves frames, adopts the model descriptor and starts pulling, or declines. -/
  | offer (h : Hdr) (subject : Handle) (epoch comp privBytes weightBytes : Nat) (model : ModelRec) (desc : SeqRecord)
  /-- DECLINE (R225): DECLINE completes CASTLE with the declined code and restores the home record. -/
  | decline (h : Hdr) (subject : Handle) (epoch code : Nat)
  /-- PULL (R225): The owner answers a PULL with the page's stored bytes, or aborts on an unreadable page. -/
  | pull (h : Hdr) (subject : Handle) (epoch kind : Nat) (entry : PageEntry)
  /-- PAGE (R224): A pulled page's bytes arrive at the target and are stored. -/
  | page (h : Hdr) (subject : Handle) (epoch kind : Nat) (entry : PageEntry) (bytes : List Byte)
  /-- ACCEPT (R225): ACCEPT moves the owner to COMMITTING and it sends COMMIT. -/
  | accept (h : Hdr) (subject : Handle) (epoch : Nat) (entries : List PageEntry)
  /-- ABORT (R228): ABORT ends the castle at the receiving side, freeing pulled frames. -/
  | abort (h : Hdr) (subject : Handle) (epoch code : Nat)
  /-- COMMIT (R225): The home checks owner and epoch, records the new owner at epoch plus one and answers COMMITTED. -/
  | commit (h : Hdr) (subject : Handle) (epoch target : Nat) (entries : List PageEntry)
  /-- COMMITTED (R225): The old owner frees its private pages and sends TAKE, or is fenced as stale. -/
  | committed (h : Hdr) (subject : Handle) (epoch code version : Nat)
  /-- TAKE (R225): The target becomes owner at the new epoch, raises the commit notification and returns TAKEN. -/
  | take (h : Hdr) (subject : Handle) (epoch : Nat)
  /-- TAKEN (R225): CASTLE completes with success at the old owner. -/
  | taken (h : Hdr) (subject : Handle) (epoch : Nat)
  /-- ASK (R229): The home serves an ASK by gathering copy statuses and ruling as arbiter. -/
  | ask (h : Hdr) (subject : Handle) (epoch : Nat) (complete : Bool) (side : Nat) (isReply : Bool) (entries : List PageEntry)
  /-- HOLD (R229): A side answers HOLD with an ASK reporting its copy status. -/
  | hold (h : Hdr) (subject : Handle) (epoch : Nat)
  /-- ARBITER_HOLD_EXPIRY (R229): A side that does not answer HOLD within the castle timeout is treated as holding no complete copy. -/
  | arbiterHoldExpiry (subject : Handle) (device : Nat)
  /-- ARBITER_RULE (R230): The home applies the arbiter's rule, mirrors the ruling and sends RULING. -/
  | arbiterRule (subject : Handle)
  /-- RULING (R231): A side keeps or frees its copy as ruled and completes a pending CASTLE. -/
  | ruling (h : Hdr) (subject : Handle) (epoch owner code : Nat)
  /-- CASTLE_TIMEOUT_EXPIRY (R226): A castle wait runs past T_c and the side aborts, resends to the partner or asks the home. -/
  | castleTimeoutExpiry (subject : Handle)
  /-- ENTRIES (R216): The home applies owner page-entry or state updates to the record after mirroring. -/
  | entries (h : Hdr) (subject : Handle) (epoch kind state target comp : Nat) (items : List EntryItem)
  /-- ENTRIES_ACK (R218): The owner receives the home's answer to an entries update, or frees its copy if stale. -/
  | entriesAck (h : Hdr) (subject : Handle) (epoch code version : Nat)
  /-- RELEASE (R34): The home deletes the record and its mirror and drops prefix references. -/
  | release (h : Hdr) (subject : Handle) (epoch : Nat)
  /-- RELEASED (R34): The release completes at the owner on the home's acknowledgement. -/
  | released (h : Hdr) (subject : Handle) (epoch code : Nat)
  /-- RECORD (R215): The partner keeps a mirrored record update with higher VERSION and acknowledges. -/
  | record (h : Hdr) (subject : Handle) (version : Nat) (desc : SeqRecord)
  /-- RECORD_ACK (R215): The home applies the pending update once the partner acknowledges it. -/
  | recordAck (h : Hdr) (subject : Handle) (code version : Nat)
  /-- RECORD_DELETE (R497): The partner deletes its mirror of a record. -/
  | recordDelete (h : Hdr) (subject : Handle) (version : Nat)
  /-- MIRROR_RETRY_TIMEOUT (R215): An unacknowledged mirror update is offered again once per castle timeout. -/
  | mirrorRetryTimeout (subject : Handle)
  /-- SEQUENCE_SWAP (R235): A chosen sequence is marked SWAPPED, waits for started instructions and moves its unpinned pages to host memory. -/
  | sequenceSwap (subject : Handle)
  /-- RENEW (R378): A lease renewal message renews the listed drafts at the registering device. -/
  | renew (h : Hdr) (items : List RenewItem)
  /-- LEASE_EXPIRY (R379): A draft whose lease runs out is discarded, its units freed and the expiry recorded and logged. -/
  | leaseExpiry (object : Handle) (device port fn : Nat)
  /-- LOOKUP (R383): The index member serves a prefix lookup, taking a reference and reserving a draft when asked. -/
  | lookup (h : Hdr) (subject : Handle) (comp : Nat) (reserve takeRef : Bool) (digests : List Nat)
  /-- LOOKUP_RESULT (R24): The executing device receives the PMATCH result and completes the instruction. -/
  | lookupResult (h : Hdr) (subject : Handle) (code : Nat) (result : MatchResult)
  /-- RESERVE (R123): The owner of the parent creates a draft child node for unmatched digests. -/
  | reserve (h : Hdr) (subject : Handle) (device : Nat) (digests : List Nat)
  /-- RESERVED (R388): The index member receives the draft handle from the parent's owner. -/
  | reserved (h : Hdr) (subject : Handle) (code : Nat) (draft : Handle)
  /-- SHARD_MAP_REQ (R110): A node's home answers a request for its shard map. -/
  | shardMapReq (h : Hdr) (subject : Handle)
  /-- SHARD_MAP (R110): The requester receives the shard map and proceeds with its copy. -/
  | shardMap (h : Hdr) (subject : Handle) (code : Nat) (holders : List Nat) (shardBlocks : Nat)
  /-- REF (R386): The index member changes the reference count of a node version. -/
  | ref (h : Hdr) (subject : Handle) (change : Int)
  /-- DISTRIBUTE (R385): A holder or partner stores shard pages, or adopts a descriptor record, for a new node version. -/
  | distribute (h : Hdr) (subject : Handle) (layer first count : Nat) (bytes : List Byte) (descriptor : Option ModelRec)
  /-- SHARE (R385): A holder adds references to ancestor pages it already holds for a new version. -/
  | share (h : Hdr) (subject : Handle) (ancestor : Handle) (first count : Nat)
  /-- DISTRIBUTED (R385): The owner records a holder's completion of distribution. -/
  | distributed (h : Hdr) (subject : Handle) (code : Nat)
  /-- INDEX_COMMIT (R131): The index member commits a published node into the tree or reports a conflict. -/
  | indexCommit (h : Hdr) (subject : Handle) (c : NodeCommit)
  /-- INDEX_COMMITTED (R385): The owner receives the index's commit result and completes PUBLISH. -/
  | indexCommitted (h : Hdr) (subject : Handle) (code version : Nat)
  /-- RETIRE (R386): A holder drops the references of a retired node version, freeing pages at count 0. -/
  | retire (h : Hdr) (subject : Handle)
  /-- NODE_RETIREMENT (R387): The index member retires a node unreferenced for RETAIN seconds with no children. -/
  | nodeRetirement (node : Handle)
  /-- TREE (R497): The index member's partner applies a mirrored tree commit, retirement or reference change. -/
  | tree (h : Hdr) (subject : Handle) (kind : Nat) (commit : Option NodeCommit) (change : Int)
  /-- TREE_ACK (R497): The index member completes a tree update on its partner's acknowledgement. -/
  | treeAck (h : Hdr) (subject : Handle) (code : Nat)
  /-- REVOKE_DRAIN_COMPLETE (R380): When a revoking index has no accepted message, REVOKE discards drafts, folds back and frees the index. -/
  | revokeDrainComplete (index : Nat)
  /-- FOLD_BACK (R377): A relocated region page is copied to base memory once no older-version read remains. -/
  | foldBack (index page : Nat)
  /-- PROPOSE (R483): The leader receives a proposed map and starts a change, or refuses with CMP_EPOCH_CONFLICT. -/
  | propose (h : Hdr) (map : CompMap)
  /-- PREPARE (R481): A device checks a proposed map, stores it as prepared and votes. -/
  | prepare (h : Hdr) (map : CompMap)
  /-- VOTE (R483): The leader collects a vote and commits or aborts once the outcome is known. -/
  | vote (h : Hdr) (epoch code : Nat)
  /-- COMPOSITION_COMMIT (R483): Each device applies the committed map, discards the map two epochs old and sends APPLIED. -/
  | compositionCommit (h : Hdr) (epoch : Nat)
  /-- COMPOSITION_ABORT (R483): Each device discards the prepared map of an aborted change. -/
  | compositionAbort (h : Hdr) (epoch code : Nat)
  /-- APPLIED (R483): The leader records APPLIED and completes the change when all have arrived. -/
  | applied (h : Hdr) (epoch : Nat)
  /-- COMPOSITION_RESULT (R483): The proposing member writes the result into CMP_MAP_STATUS and completes the proposal. -/
  | compositionResult (h : Hdr) (epoch code voter : Nat)
  /-- VOTE_TIMEOUT (R484): A member failing to vote or apply within VOTE_TO is declared lost. -/
  | voteTimeout (comp : Nat)
  /-- LEADER_SILENCE_TIMEOUT (R483): A voter hearing neither COMMIT nor ABORT in 2 x VOTE_TO re-sends its vote to a new leader. -/
  | leaderSilenceTimeout (comp : Nat)
  /-- CMP_MAP_GO (R483): A host write of CMP_MAP_CMD.GO checks the map and sends PROPOSE to the leader. -/
  | cmpMapGo (who : Req) (v : W64)
  /-- BEAT (R490): A BEAT from a member or leader refreshes its liveness and reports frames and sequences. -/
  | beat (h : Hdr) (frames seqs : Nat) (updating : Bool)
  /-- MEMBER_LOSS (R491): A member silent for LOSS x BEAT is declared lost and a map removing it is committed. -/
  | memberLoss (comp device : Nat)
  /-- REMOVED_SELF (R492): A device removed as lost drops its membership, sequences and shards for the composition. -/
  | removedSelf (comp : Nat)
  /-- RING_MOVE (R495): Each ring device sets HOPS_E of the stood-in device's route to the spare's position. -/
  | ringMove (h : Hdr) (device position : Nat)
  /-- RESTORE_REQ (R496): The partner of a departed device sends the spare the mirror it holds. -/
  | restoreReq (h : Hdr) (device : Nat)
  /-- DRAIN_DONE (R489): The leader commits the map removing a parting member that has drained. -/
  | drainDone (h : Hdr)
  /-- DRAIN_DEADLINE_EXPIRY (R489): At DRAIN_MS the parting member is removed and its remaining sequences are ruled lost. -/
  | drainDeadlineExpiry (comp device : Nat)
  /-- PARTING_CASTLE_ISSUE (R233): Firmware of a parting G member castles each owned sequence to a remaining G member. -/
  | partingCastleIssue (comp : Nat)
  /-- IMAGE (R497): The receiver stores a chunk of a rebuild or restore image. -/
  | image (h : Hdr) (purpose offset : Nat) (items : List MirrorItem)
  /-- IMAGE_DONE (R497): The receiver checks the completed image, imports it and answers IMAGE_ACK. -/
  | imageDone (h : Hdr) (purpose length crc : Nat)
  /-- IMAGE_ACK (R497): The sender completes the rebuild or restore on the receiver's acknowledgement. -/
  | imageAck (h : Hdr) (code : Nat)
  /-- MULTICAST_OPEN (R441): A member checks an MCAST OPEN, which decides the transfer for that member. -/
  | multicastOpen (h : Hdr) (group psn : Nat) (dest : OpenDest) (offset len port fn : Nat)
  /-- MANAGEMENT_MESSAGE (R498): A management CONTROL message from the fabric manager writes a multicast group entry or is discarded. -/
  | managementMessage (h : Hdr) (group : Nat) (v : W64)
  /-- WRITE (R438): A WRITE packet is checked on its first packet and applied at the destination. -/
  | write (h : Hdr) (p : Packet)
  /-- READ_REQ (R435): A READ_REQ is checked and answered with a READ_RESP message. -/
  | readReq (h : Hdr) (subject : Handle) (id key offset len : Nat)
  /-- READ_RESP (R425): A READ_RESP packet is written to the reader's buffer and the last completes the read. -/
  | readResp (h : Hdr) (id code off : Nat) (last ackReq : Bool) (bytes : List Byte)
  /-- REDUCE (R438): A REDUCE packet's contributions are applied atomically by the reduction unit. -/
  | reduce (h : Hdr) (p : Packet) (red : RedSpec)
  /-- SUBMIT (R79): A remote submission is checked and queued at the target queue. -/
  | submit (h : Hdr) (tag queue port fn : Nat) (entry : Entry) (blk : List Byte)
  /-- COMPLETE (R79): A remote completion arrives and the submitting device signals its counter. -/
  | complete (h : Hdr) (tag : Nat) (result : RemoteResult) (counter : Nat)
  /-- ACK (R422): A cumulative acknowledgement frees packets and resets the sender's tries. -/
  | ack (h : Hdr) (psn code : Nat)
  /-- NAK (R422): A NAK of kind SEQ, RNR or STALE_INC triggers retransmission or failure of the queue pair. -/
  | nak (h : Hdr) (psn kind : Nat)
  /-- CONNECT (R421): A CONNECT establishes a queue pair with a new incarnation and is answered with CONNECTED. -/
  | connect (h : Hdr) (qp inc : Nat)
  /-- CONNECTED (R421): The initiator completes queue-pair establishment. -/
  | connected (h : Hdr) (qp inc : Nat)
  /-- CLOSE (R420): A queue pair is released. -/
  | close (h : Hdr)
  /-- DATAGRAM (R402): A class 7 datagram is delivered if buffer room exists, otherwise dropped. -/
  | datagram (h : Hdr) (bytes : List Byte)
  /-- REDIRECT_RESEND (R488): A message refused for epoch or membership is re-resolved and resent once. -/
  | redirectResend (id : Nat)
  /-- RETRANSMIT_TIMER_EXPIRY (R422): The sender retransmits from the oldest unacknowledged packet, or fails after seven tries. -/
  | retransmitTimerExpiry (peer cls : Nat)
  /-- QUEUE_PAIR_IDLE_CLOSE (R420): A queue pair idle for 10 ms is released with CLOSE. -/
  | queuePairIdleClose (peer cls : Nat)
  /-- ACK_DELAY_EXPIRY (R424): ACK_DELAY after the oldest unacknowledged accepted packet, the receiver sends an acknowledgement. -/
  | ackDelayExpiry (peer cls : Nat)
  /-- COMBINABLE_REQUEST (R446): A combinable request at a combining point joins an earlier one or is forwarded. -/
  | combinableRequest (h : Hdr) (subject : Handle) (key off len tag : Nat) (adds : List AddEntry)
  /-- COMBINED_RESPONSE (R447): A response passing a combining point is copied to each joiner or split per entry. -/
  | combinedResponse (h : Hdr) (tag code off : Nat) (last : Bool) (bytes : List Byte) (adds : List AddEntry)
  /-- COMBINABLE_REPEAT_EXPIRY (R444): A combinable request not answered within its wait is repeated whole or fails after seven tries. -/
  | combinableRepeatExpiry (id : Nat)
  /-- RING_SLOT (R412): An arriving ring slot is taken, filled, forwarded or regenerated. -/
  | ringSlot (dir : Nat) (slot : Slot) (header : HeaderRead)
  /-- HUNGRY (R415): A device waiting 2 us for an empty slot sets HUNGRY in the other direction. -/
  | hungry (dir : Nat)
  /-- RING_XOFF_TICK (R404): Once per us a congested device writes XOFF into passing ring slots. `occupied`: the bytes of each class in the ring's receive buffers. -/
  | ringXoffTick (occupied : List Nat)
  /-- PAUSE_WATCHDOG_EXPIRY (R406): A lossless class paused longer than PAUSE_WD stalls the port or ring direction. -/
  | pauseWatchdogExpiry (p dest cls : Nat)
  /-- STALL_HOLD_EXPIRY (R407): A stall ends after the pause has been released for STALL_HOLD. -/
  | stallHoldExpiry (p dest : Nat)
  /-- CLEAR_STALL (R429): A CLEAR_STALL write ends a stall when no pause is in force. -/
  | clearStall (who : Req) (p : Nat)
  /-- PORT_ENABLE (R408): Writing FAB_PORT_CTRL.ENABLE brings a port into TRAINING or takes it down. -/
  | portEnable (who : Req) (p : Nat) (v : W64)
  /-- TRAINING_COMPLETE (R408): All eight lanes train and the port goes UP. -/
  | trainingComplete (p : Nat)
  /-- TRAINING_FAILED (R408): Three failed training attempts make the port FAILED. -/
  | trainingFailed (p : Nat)
  /-- SIGNAL_LOSS (R408): Loss of signal puts a ring port in RELOCK or a trunk port in TRAINING. -/
  | signalLoss (p : Nat)
  /-- RELOCK (R409): A relocking port returns to UP within 10 us or retrains. -/
  | relock (p : Nat)
  /-- RELOCK_TIMEOUT (R408): No lock within 10 us sends the port to TRAINING. -/
  | relockTimeout (p : Nat)
  /-- ADAPTATION_WINDOW (R410): Every INTERVAL a port spends a 1 us window on link adaptation. -/
  | adaptationWindow (p : Nat)
  /-- FLOW_MONITOR_WINDOW (R453): At the end of a window with a hot trunk port an event is raised and a rebalance may start. -/
  | flowMonitorWindow (queued : List Nat)
  /-- QUEUE_PAIR_MOVE (R453): A queue pair is rebound to a new trunk port once none of its packets is unacknowledged. -/
  | queuePairMove (peer cls : Nat)
  /-- FAB_FLOW_KEY_NEXT_WRITE (R454): Writing the next flow key starts a key replacement. -/
  | fabFlowKeyNextWrite (who : Req) (v : W64)
  /-- FAB_SHAPE_WRITE (R475): A write to an egress bucket sets its rate and burst, starting it at BURST when leaving unshaped. -/
  | fabShapeWrite (who : Req) (p t : Nat) (v : W64)
  /-- ADM_CUST_ID_WRITE (R464): A write to a customer entry validates, invalidates or changes it. -/
  | admCustIdWrite (who : Req) (i : Nat) (v : W64)
  /-- SPINDLE_SWAP (R250): Writing SWAP checks the inactive bank and arms it to become active. -/
  | spindleSwap (who : Req) (v : W64)
  /-- SPINDLE_SWAP_ABORT (R247): Writing ABORT cancels a pending swap. -/
  | spindleSwapAbort (who : Req) (v : W64)
  /-- TILE_FREE (R253): A tile freed by completion, save, wake or boundary takes the first eligible ready task. -/
  | tileFree (t : Nat)
  /-- TASK_COMPLETE (R252): A tile task completes and leaves its tile free. -/
  | taskComplete (t : Nat)
  /-- SAVE_END (R264): A save ends and the tile re-applies displacement rows and is refilled. -/
  | saveEnd (t : Nat)
  /-- RESTORE_END (R264): A restore ends and the task continues from its pre-emption point. -/
  | restoreEnd (t : Nat)
  /-- TILE_WAKE_END (R265): A waking tile finishes its wake and starts its placed task or clock-gates. -/
  | tileWakeEnd (t : Nat)
  /-- TILE_POWER_GATE (R265): A tile clock-gated for GATE_DELAY us is power-gated. -/
  | tilePowerGate (t : Nat)
  /-- TILE_PRE_WAKE (R266): The sequencer wakes a gated tile held for class 0 ahead of its boundary. -/
  | tilePreWake (t : Nat)
  /-- CROSS_HALF_WAIT_EXPIRY (R258): A task that waited XHALF_WAIT us for its half crosses to the other half. -/
  | crossHalfWaitExpiry (task : Nat)
  /-- TIL_POWER_CTRL_WRITE (R267): Clearing PG_EN wakes power-gated tiles to clock-gated. -/
  | tilPowerCtrlWrite (who : Req) (v : W64)
  /-- MEM_XHALF_CTRL_WRITE (R50): A legal write of die-link shares takes effect on both links within 1 us. -/
  | memXhalfCtrlWrite (who : Req) (v : W64)
  /-- PAGE_FETCH_COMPLETE (R282): A fetch MOVE completes and the page's READ descriptor is issued. -/
  | pageFetchComplete (desc : Nat)
  /-- DESCRIPTOR_COMPLETE (R38): A tile or mover finishes one page descriptor. -/
  | descriptorComplete (desc : Nat)
  /-- HOTSPOT_WINDOW (R289): At the end of a window with a hot channel the monitor raises an event and may start a rekey. -/
  | hotspotWindow (means : List (Nat × Nat × Nat))
  /-- MEM_HASH_NEXT_WRITE (R292): Writing the next hash key loads it, or is refused while migrating. -/
  | memHashNextWrite (who : Req) (v : W64)
  /-- REKEY_START (R294): Writing START begins a rekey when a next key is loaded and the state is IDLE. -/
  | rekeyStart (who : Req) (v : W64)
  /-- REKEY_ROW (R293): One row is locked, moved to the next key's channels and unlocked, and the fence advances. -/
  | rekeyRow (half : Nat)
  /-- PATROL_SCRUB_SECTOR (R298): Scrub reads and decodes one sector, correcting or marking it uncorrectable. `error` is the error that the sector's word has suffered: for a symbol's
  position in the codeword of R328 (36 and 37 are the address's) what is added to it. -/
  | patrolScrubSector (area : StackArea) (channel sector : Nat) (error : List (Nat × Nat)) (last : Bool)
  /-- CHANNEL_RETRAIN (R54): A memory channel retrains on temperature movement or interval expiry. -/
  | channelRetrain (channel : Nat) (moved : Bool)
  /-- TABLE_LOAD (R318): Writing CXE_TABLE_CMD.GO checks a Drilia table file and places it in a slot for the named kinds. -/
  | tableLoad (who : Req) (v : W64)
  /-- CXE_COMP_SEL_WRITE (R330): A write of the kind selection moves slots between SELECTED and RETIRING. -/
  | cxeCompSelWrite (who : Req) (v : W64)
  /-- RECODE_BLOCK (R319): The re-code engine re-codes one stacks block tagged by a RETIRING slot. -/
  | recodeBlock (place : RecodePlace)
  /-- KEY_LOAD (R332): CXE_KEY_CMD LOAD loads key material into an empty XTS slot. -/
  | keyLoad (who : Req) (slot : Nat)
  /-- KEY_DESTROY (R327): CXE_KEY_CMD DESTROY zeroises a slot and starts its sweep. -/
  | keyDestroy (who : Req) (slot : Nat)
  /-- KEY_SWEEP (R327): The sweep frees pages, zeroes region blocks and discards saved tasks under a destroyed key. -/
  | keySweep (slot : Nat)
  /-- FLASH_READ (R344): A flash codeword read climbs the retry ladder until it decodes or is uncorrectable. -/
  | flashRead (addr step bits : Nat)
  /-- FLASH_PROGRAM_COMPLETE (R348): A program operation completes, retiring the block on FAIL. -/
  | flashProgramComplete (ffn : Nat) (ok : Bool)
  /-- FLASH_ERASE_COMPLETE (R348): An erase completes, retiring the block on FAIL or at rated cycles. -/
  | flashEraseComplete (block : Nat) (ok : Bool)
  /-- FLASH_BUSY_TIMEOUT (R348): A target busy beyond twice its time is reset or taken out of service. -/
  | flashBusyTimeout (block : Nat)
  /-- REFRESH (R345): A queued block's valid frames are relocated and the block is erased. -/
  | refresh (block : Nat)
  /-- RECLAIM (R349): Reclaim copies a closed block's valid frames and erases it to keep free blocks. -/
  | reclaim (plane : Nat)
  /-- WEAR_RELOCATION (R350): The lowest-count closed block is relocated when the wear spread exceeds WL_SPREAD. -/
  | wearRelocation (plane : Nat)
  /-- FLASH_PATROL (R352): Patrol reads every programmed page once per PERIOD and queues refreshes. -/
  | flashPatrol (block : Nat) (reads : List (Nat × Nat × Nat)) (last : Bool)
  /-- FLASH_RECOVERY (R358): At start-up step 9 the flash map is recovered from checkpoint and journal. -/
  | flashRecovery (badA badB : Bool) (readable : Nat)
  /-- FIRMWARE_LOAD (R505): FWM_LOAD_CMD.GO copies an image into a slot and the boot ROM verifies it. -/
  | firmwareLoad (who : Req) (v : W64)
  /-- FIRMWARE_ACTIVATE (R508): ACTIVATE starts the first image or a live update, or is deferred under emergency. -/
  | firmwareActivate (who : Req) (target : Nat)
  /-- HANDOFF_ABORT (R514): A refused tenon, brake, watchdog or 4.5 ms overrun restarts the old image. -/
  | handoffAbort (refused : Bool)
  /-- ACTIVATION_CANCEL (R513): CANCEL withdraws a deferred activation. -/
  | activationCancel (who : Req)
  /-- HEARTBEAT (R516): A write to FWM_HB attaches the port or counts as a heartbeat. -/
  | heartbeat (who : Req) (v : W64)
  /-- HEARTBEAT_MISS (R516): MISSES intervals without heartbeat orphan the port. -/
  | heartbeatMiss (p : Nat)
  /-- DETACH (R516): DETACH orphans an attached port at once. -/
  | detach (who : Req)
  /-- ATTACH (R519): ATTACH reattaches an orphaned port, restoring queues and draining the backlog. -/
  | attach (who : Req)
  /-- REATTACH_LEASE_EXPIRY (R518): At lease end the port's regions are revoked, windows retired and functions reset. -/
  | reattachLeaseExpiry (p : Nat)
  /-- LOG_ENABLE (R524): Setting log ENABLE resets HEAD and TAIL and drains the backlog. -/
  | logEnable (who : Req) (v : W64)
  /-- LOG_TAIL_WRITE (R523): Advancing TAIL frees ring room and lets backlogged entries be written. -/
  | logTailWrite (who : Req) (t : Nat)
  /-- TRACE_RECORD (R527): An enabled trace point writes a record or is dropped. -/
  | traceRecord (point source queue customer : Nat) (payload : List Byte)
  /-- TRACE_ENABLE (R528): Setting trace ENABLE resets HEAD and TAIL. -/
  | traceEnable (who : Req) (v : W64)
  /-- COUNTER_ALLOC (R538): Mailbox command 0x01 allocates consecutive counters to a function. -/
  | counterAlloc (who : Req) (req : List Byte)
  /-- COUNTER_FREE (R538): Mailbox command 0x02 frees a function's counters. -/
  | counterFree (who : Req) (req : List Byte)
  /-- COUNTER_ECHO (R538): Mailbox command 0x03 sets a counter's echo and vector. -/
  | counterEcho (who : Req) (req : List Byte)
  /-- COUNTER_GRANT (R538): Mailbox command 0x04 grants or withdraws counter rights to another function. -/
  | counterGrant (who : Req) (req : List Byte)
  /-- COUNTER_FABRIC (R538): Mailbox command 0x05 opens or closes a counter to remote SIGNAL. -/
  | counterFabric (who : Req) (req : List Byte)
  /-- PEER_OPEN (R543): Mailbox command 0x06 lets a peer requester ring a queue's doorbell. -/
  | peerOpen (who : Req) (req : List Byte)
  /-- PEER_CLOSE (R538): Mailbox command 0x07 withdraws a peer opening. -/
  | peerClose (who : Req) (req : List Byte)
  /-- VF_APERTURE (R541): Mailbox command 0x08 sets a virtual function's BAR2 window. -/
  | vfAperture (who : Req) (req : List Byte)
  /-- NOTIFY (R538): Mailbox command 0x09 sets the vector for commit notifications. -/
  | notify (who : Req) (req : List Byte)
  /-- BAR2_ACCESS (R534): A BAR2 read or write reaches the region carve in plaintext. -/
  | bar2Access (who : Req) (off n : Nat) (bytes : Option (List Byte))
  /-- FUNCTION_RESET (R540): FLR, VF Enable clear or D3hot to D0 resets a function and what it owns. -/
  | functionReset (p fn : Nat)
  /-- PORT_RESET (R540): PERST_N, hot reset or link down resets a port and retrains its link. -/
  | portReset (p : Nat)
  /-- DEVICE_RESET (R542): GLB_RESET.DEVICE resets the device outside the always-on domain. -/
  | deviceReset (who : Req) (confirm : Nat)
  /-- COLD_RESET (R540): Power-on, GLB_RESET.COLD or a management reset returns every register to reset. -/
  | coldReset (who : Req) (confirm : Nat)
  /-- CONFIG_LOAD (R560): CFG_LOAD_CMD.GO copies an image into a copy slot and checks it. -/
  | configLoad (who : Req) (v : W64) (cut : Bool)
  /-- CONFIG_ENABLE (R562): ENABLE runs the enable check and on CFG_OK applies the configuration. -/
  | configEnable (who : Req) (v : W64) (flash : Option (Nat × Nat))
  /-- LIVE_RE_ENABLE (R568): ENABLE while ENABLED applies permitted changes of a newer copy in service. -/
  | liveReEnable (who : Req) (v : W64) (flash : Option (Nat × Nat))
  /-- REPLACING_ENABLE (R569): ENABLE with REPLACE clears the old configuration and applies a new one while on the ring. -/
  | replacingEnable (who : Req) (v : W64) (flash : Option (Nat × Nat))
  /-- SHUTDOWN (R571): SHUTDOWN quiesces the device, writing a warm-start image under C. -/
  | shutdown (who : Req) (v : W64)
  /-- WARM_START_IMPORT (R573): After flash recovery the warm-start image is checked and restored to its LBAs. -/
  | warmStartImport (bad : List Nat) (broken : Bool)
  /-- STACK_TRAINING_COMPLETE (R567): Stack training ends, taking a failed stack's half out of service. -/
  | stackTrainingComplete (failed : List Nat)
  /-- ERROR_CAPTURE (R580): A recorded error event is captured into a record with escalation or overflow. -/
  | errorCapture (e : HwError)
  /-- ERROR_RECORD_RELEASE (R581): Writing VALID releases a record and moves the secondary up. -/
  | errorRecordRelease (who : Req) (which : Nat)
  /-- ERROR_HOLD_TIMEOUT (R581): A degraded record is released after HOLD_TIMEOUT seconds. -/
  | errorHoldTimeout (which : Nat)
  /-- DUMP (R586): ERR_DUMP_CMD.GO writes a packed dump image to host memory. -/
  | dump (who : Req) (v : W64)
  /-- REFERENCE_LOSS (R593): A lost reference or lock makes a PLL coast at its lowest frequency. -/
  | referenceLoss (which : Nat)
  /-- REFERENCE_RETURN (R595): A reference valid for 10 ms lets a coasting PLL relock and return. -/
  | referenceReturn (which : Nat)
  /-- GATE_HOLD_OFF (R598): CPM_GATE_CMD HOLD_OFF holds a tile, engine or half off. -/
  | gateHoldOff (who : Req) (node : Nat)
  /-- GATE_RELEASE (R598): CPM_GATE_CMD RELEASE releases a node and every node below it. -/
  | gateRelease (who : Req) (node : Nat)
  /-- LADDER_TICK (R601): Every 10 us the ladder compares power and temperature and enters notice or throttle. -/
  | ladderTick (power : Nat) (temp : Int) (crit : Bool)
  /-- LADDER_CLEAR (R602): A step whose condition has ceased for 10 ms clears. -/
  | ladderClear (step : Nat)
  /-- TRIP (R601): A trip cause stops and unpowers the fast domains and drops BYP_EN. -/
  | trip (critical : Bool)
  /-- SIDEBAND_INPUT_CHANGE (R608): A filtered input change becomes a recognised event or an overrun. -/
  | sidebandInputChange (pin : Nat) (asserted : Bool)
  /-- OVERRUN_RELEASE (R608): An overrun input deasserted for 10 ms is released. -/
  | overrunRelease (pin : Nat)
  /-- SIDEBAND_STUCK (R609): An input asserted past its stuck limit is recorded as degraded. -/
  | sidebandStuck (pin : Nat)
  /-- TELEMETRY_SAMPLE (R612): Each PERIOD the sensors are sampled and a telemetry record exported. -/
  | telemetrySample (tiles stackTemps hubs powers : List Nat)
  /-- REGISTER_WRITE (R14): A write to a register with no behaviour of its own sets its fields per access code. -/
  | registerWrite (who : Req) (off size : Nat) (v : W64)
  /-- TRUNK_FLIT_RECEIVE (R405): A flit arriving on a trunk port updates the paused classes from its XOFF bits, counts an uncorrectable codeword or failed frame CRC and discards the frames concerned, and sends the port to TRAINING past 16 uncorrectable codewords in 1 ms. `occupied`: the bytes of each class in the port's receive buffer. -/
  | trunkFlitReceive (p xoff : Nat) (corrected uncorrectable : Bool) (crcErrors noRoom : Nat) (occupied : List Nat)
  /-- REMOTE_SIGNAL (R169): A remote SIGNAL message arrives at the counter's device, which checks the counter is open to the fabric and applies the atomic update. -/
  | remoteSignal (h : Hdr) (counter : Handle) (set clearFail : Bool) (value : Nat)
  /-- PCIE_LINK_TRAINED (R567): A PCIe port's link finishes training, or retrains at a new width or rate, and the port answers configuration requests without Request Retry Status. -/
  | pcieLinkTrained (p width rate : Nat)
  /-- MSI_X_UNMASK (R536): The host unmasks an MSI-X vector, and the device sends once a vector held pending while masked. -/
  | msiXUnmask (p fn vec : Nat)
  /-- SRIOV_VF_ENABLE (R530): Setting VF Enable brings a port's virtual functions into being with their BARs and MSI-X tables. -/
  | sriovVfEnable (p n : Nat)
  /-- CONTROL_UNKNOWN_TYPE (R401): A CONTROL message of reserved or unassigned type is discarded and acknowledged with TZ_FORMAT. -/
  | controlUnknownType (h : Hdr)
  /-- DIE_LINK_LANE_LOSS (R52): A die link losing lanes retrains onto spares or takes its half out of service. -/
  | dieLinkLaneLoss (half groups : Nat)
  /-- FLASH_CHANNEL_RETRAIN (R337): A flash channel retrains after 10 consecutive bus CRC failures or at its interval. -/
  | flashChannelRetrain (channel : Nat)
  /-- SPDM_RAISE_SVN (R546): A secured management request raises the fused minimum SVN. -/
  | spdmRaiseSvn (secured : Bool) (svn : Nat)
  /-- SPDM_REVOKE_KEY_INDEX (R546): A secured management request revokes a signing-key index. -/
  | spdmRevokeKeyIndex (secured : Bool) (k : Nat)
  /-- MANAGEMENT_REQUEST (R544): The management core answers an MCTP, PLDM or SPDM request. -/
  | managementRequest (tag : Nat) (r : MgmtReq)
  /-- OSCILLATOR_QUALIFICATION (R592): The crystal is qualified by an 8,192-cycle count, restarting after 10 ms. -/
  | oscillatorQualification (counted : Bool)
  /-- BOOT_ROM_DONE (R567): The boot ROM completes its self-check and fuse read. -/
  | bootRomDone (ok : Bool)
  /-- JTAG_INSTRUCTION (R632): A TAP instruction is honoured or acts as BYPASS by device state. -/
  | jtagInstruction (op : Nat)
  /-- IDLE_LOW_POWER_ENTRY (R600): A memory channel, control core or flash channel that has been idle for its stated time enters power-down, self-refresh, clock-gating or PHY idle. -/
  | idleLowPowerEntry (unit index : Nat)
  /-- PREEMPTION (R234): Under G, falling free frames start pre-emption of candidate sequences in the stated order. -/
  | preemption
  /-- LEASE_RENEWAL_TICK (R378): Every T_L/4 the writer's device sends renewals for the drafts it holds. -/
  | leaseRenewalTick
  /-- MESSAGE_ABANDON (R380): An accepted message that receives no packet for 5 ms is abandoned at the receiver. -/
  | messageAbandon
  /-- DESTAGE (R280): A C holder writes a newly published stacks-only page to flash or host memory in the background. -/
  | destage
  /-- BEAT_SEND_TICK (R490): Hub hardware sends BEAT every BEAT interval. -/
  | beatSendTick
  /-- MIRROR_REBUILD (R496): A primary sends a device taking up a partner role everything it should mirror. -/
  | mirrorRebuild
  /-- FLOW_KEY_REPLACEMENT_END (R454): At the end of the window the new flow key takes effect once all queue pairs are rebound. -/
  | flowKeyReplacementEnd
  /-- BUCKET_REFILL_TICK (R465): Every 1 us each valid customer's bucket is refilled by RATE/1,000. -/
  | bucketRefillTick
  /-- SLOT_BOUNDARY (R254): At each slot boundary the sequencer applies the new entry and displaces occupants as required. -/
  | slotBoundary
  /-- REKEY_HOLDOFF_EXPIRY (R293): After HOLDOFF seconds the rekey state returns to IDLE. -/
  | rekeyHoldoffExpiry
  /-- SECTOR_REWRITE (R329): A corrected sector is rewritten at the channel's next idle slot. -/
  | sectorRewrite
  /-- JOURNAL_RECORD (R356): A journal record is programmed to both sides, making its mapping present. -/
  | journalRecord
  /-- CHECKPOINT (R357): A checkpoint copy is written after record count, interval or shutdown. -/
  | checkpoint
  /-- FLASH_ERASURE_SWEEP (R362): Blocks holding frames of a destroyed key are reclaimed and erased. -/
  | flashErasureSweep
  /-- HANDOFF_COMMIT_POINT (R508): The new image adopts the tenon block and becomes ACTIVE. -/
  | handoffCommitPoint
  /-- DEFERRED_ACTIVATION_START (R513): 100 ms after the last emergency step clears the deferred update starts. -/
  | deferredActivationStart
  /-- HUB_WATCHDOG_EXPIRY (R502): No firmware progress for 100 ms aborts a handoff or records a fatal error. -/
  | hubWatchdogExpiry
  /-- LOG_ENTRY_WRITE (R523): A log entry is written to the ring or backlogged, displacing lesser entries when full. -/
  | logEntryWrite
  /-- CONFIG_APPLY (R563): The checked copy is put in force and the device enters ENABLED. -/
  | configApply
  /-- AON_POWER_GOOD (R567): VDD_AON in range brings the always-on domain out of reset. -/
  | aonPowerGood
  /-- CONTAINED_RECORD_LOGGED (R581): A contained record is released once firmware has logged it. -/
  | containedRecordLogged
  /-- CRYSTAL_LOSS (R592): No crystal edge for 10 us trips the device. -/
  | crystalLoss
  /-- BRAKE (R601): PWR_BRAKE_N effectively asserted slows every tile to 500 MHz. -/
  | brake
  /-- TRIP_RESTART (R605): After every trip cause is absent for 1 s the cold reset proceeds. -/
  | tripRestart
  /-- AVS_ACK_TIMEOUT (R624): A regulator not acknowledging within 10 ms leaves the core at 0.85 V. -/
  | avsAckTimeout
  /-- SUPPLY_DIP (R626): A fast-domain supply below range for 1 us takes the fast domains down. -/
  | supplyDip
  /-- FAST_SUPPLIES_IN_RANGE (R626): One ms after supply groups 2 to 5 are all in range, step 4 of start-up begins. -/
  | fastSuppliesInRange
  /-- AON_POWER_LOSS (R630): VDD_AON drops out of range: BYP_EN falls, and the always-on domain and the fast domains stop. -/
  | aonPowerLoss
  /-- AVS_ACKNOWLEDGE (R623): The VDD_CORE regulator acknowledges a voltage target on AVSBus, letting the device raise the tile PLLs or take the next voltage step. -/
  | avsAcknowledge
  /-- COMBINED_ADD_RECORD_EXPIRY (R448): Five ms after a combined add entry is applied, the target discards its record of that entry's previous values. -/
  | combinedAddRecordExpiry
  /-- JTAG_TAP_RESET (R632): TRST_N low, or group 1 coming into range, resets the TAP to its reset instruction IDCODE. -/
  | jtagTapReset
  deriving DecidableEq, Repr

end Sys2Proof
end

