-- ==== Sys2Proof/Machine/Crc.lean ====
section
/-!
DEFINITION. CRC-32C (the Castagnoli polynomial), the check of every record, table and image the manual checks by CRC.
-/

namespace Sys2Proof.Machine

open Sys2Proof

/-- One bit of the reflected CRC. -/
def crcBit (c : BitVec 32) : BitVec 32 := if c &&& 1#32 = 1#32 then (c >>> 1) ^^^ 0x82F63B78#32 else c >>> 1

/-- One byte of the CRC. -/
def crcByte (c : BitVec 32) (b : Byte) : BitVec 32 :=
  crcBit (crcBit (crcBit (crcBit (crcBit (crcBit (crcBit (crcBit (c ^^^ b.setWidth 32))))))))

/-- CRC-32C of bytes: initial value and final inversion all ones. -/
def crc32c (bs : List Byte) : Nat := ((bs.foldl crcByte 0xFFFFFFFF#32) ^^^ 0xFFFFFFFF#32).toNat

/-- Whether a record whose bytes `[at, at + 4)` hold its CRC-32C, taken as 0, checks. -/
def crcHolds (bs : List Byte) (at_ : Nat) : Bool :=
  crc32c (bs.take at_ ++ [0, 0, 0, 0] ++ bs.drop (at_ + 4)) == fieldBytes bs at_ 4

end Sys2Proof.Machine
end

