-- ==== Sys2Proof/Config.lean ====
section
/-!
DEFINITION. The free values of the model: constants without a body, which stand for every value the manual leaves open,
and the constants of the part that no register shows.
-/

namespace Sys2Proof.Config

/-- The n-th free value, as a number of any width: the model takes it modulo the width it needs. Nothing constrains it. -/
opaque freeNat : Nat → Nat

/-- The n-th free choice between two outcomes. -/
opaque freeBool : Nat → Bool

/-- The n-th free value of a fast-mode computation that is named by what it works on: an attended row comes out the same however its heads are split (R181). -/
opaque fastNat : List Nat → Nat → Nat

/-- The bytes a ring of a given LENGTH delivers in one circuit at line rate in both directions (R404), which the length of its links decides. -/
opaque ringCircuit : Nat → Nat

/-- The NUMBER of the page that holds a place of a prefix node at the device that holds it: node, layer, index (R444 asks by a number the requester is not told). -/
opaque pageNumber : Nat → Nat → Nat → Nat

/-- AES-256-XTS of a 2 KiB block or a frame under key material, tweak and plaintext (R325): the ciphertext is not computed. -/
opaque cipher : List Byte → Nat → List Byte → List Byte

/-- Whether an image's signature verifies under its key index (R504): the cryptography is not computed. -/
opaque signatureOk : List Byte → Nat → Bool

/-- A parity byte of an LDPC codeword (R339): the manual gives the code's rate and not its matrix. -/
opaque ldpcParity : List Byte → Nat → Byte

/-- The SHA-384 digest of a measured object (R545). -/
opaque sha384 : List Byte → List Byte

/-- The boot ROM's bytes (R545), which the manual does not give. -/
opaque bootRom : List Byte

end Sys2Proof.Config
end

