-- ==== Sys2Proof/Machine/Codes.lean ====
section
/-!
DEFINITION. The reason codes of R589, each under the name the manual gives it. 0x0000 is success, or no code.
-/

namespace Sys2Proof.Machine.Code

/-- Success, or no code (R589). -/
def ok : Nat := 0

/-- CFG_OK: enable check passed (R562) (R589). -/
def cfgOk : Nat := 0x0100

/-- CFG_NO_VALID_COPY: neither copy valid (R561) (R589). -/
def cfgNoValidCopy : Nat := 0x0101

/-- CFG_PERSONALITY_INVALID: personality missing, illegal or changed (R562, R568) (R589). -/
def cfgPersonalityInvalid : Nat := 0x0102

/-- CFG_REGION_OVERLAP: host windows overlap (R272) (R589). -/
def cfgRegionOverlap : Nat := 0x0103

/-- CFG_CAPACITY_EXCEEDED: carve, windows, customers or metadata do not fit (R562) (R589). -/
def cfgCapacityExceeded : Nat := 0x0104

/-- CFG_PAGE_GEOMETRY: a MODEL record breaks R276 or R558 (R589). -/
def cfgPageGeometry : Nat := 0x0105

/-- CFG_PORT_ROLE_CONFLICT: port, ring, route or partner roles inconsistent (R562) (R589). -/
def cfgPortRoleConflict : Nat := 0x0106

/-- CFG_SPINDLE_OVERCOMMIT: spindle table fails R251 (R589). -/
def cfgSpindleOvercommit : Nat := 0x0107

/-- CFG_KEY_MISSING: hash, flow or XTS key missing or unusable (R562) (R589). -/
def cfgKeyMissing : Nat := 0x0108

/-- CFG_CLOCK_PLAN: clock record out of range or reference absent (R556) (R589). -/
def cfgClockPlan : Nat := 0x0109

/-- CFG_SEQUENCE_STALE: copy not newer than the one last in force (R561) (R589). -/
def cfgSequenceStale : Nat := 0x010A

/-- CFG_ATTACHMENT_MISMATCH: identity, attachments or flash differ from the image (R562, R568) (R589). -/
def cfgAttachmentMismatch : Nat := 0x010B

/-- TZ_BAD_OPCODE: opcode not implemented (R89) (R589). -/
def tzBadOpcode : Nat := 0x0201

/-- TZ_BAD_HANDLE: handle does not resolve (R66) (R589). -/
def tzBadHandle : Nat := 0x0202

/-- TZ_RIGHTS: function, customer, class, personality or object right missing (R92) (R589). -/
def tzRights : Nat := 0x0203

/-- TZ_WAIT_TIMEOUT: WAITCNT timeout ran out (R83) (R589). -/
def tzWaitTimeout : Nat := 0x0204

/-- TZ_VERSION: contract level too high (R74, R92) (R589). -/
def tzVersion : Nat := 0x0205

/-- TZ_FORMAT: encoding, field range or format wrong (R92) (R589). -/
def tzFormat : Nat := 0x0206

/-- TZ_QUEUE_HALTED: queue halted, flushed or not accepting (R71, R77) (R589). -/
def tzQueueHalted : Nat := 0x0207

/-- KEY_INVALID: key unissued, or newer generation (R127) (R589). -/
def keyInvalid : Nat := 0x0301

/-- KEY_REVOKED: key revoked (R127, R380) (R589). -/
def keyRevoked : Nat := 0x0302

/-- KEY_BOUNDS: range outside the region (R127) (R589). -/
def keyBounds : Nat := 0x0303

/-- KEY_RIGHTS: right or scope missing (R372) (R589). -/
def keyRights : Nat := 0x0304

/-- MEM_EXHAUSTED: no frame, index, counter or buffer space (R589). -/
def memExhausted : Nat := 0x0305

/-- MEM_UNCORRECTABLE: data unreadable in every tier (R577) (R589). -/
def memUncorrectable : Nat := 0x0306

/-- MEM_REKEY_BUSY: rekey or next key refused while migrating (R292, R294) (R589). -/
def memRekeyBusy : Nat := 0x0307

/-- PUB_CONFLICT: base version is not current (R130, R131) (R589). -/
def pubConflict : Nat := 0x0401

/-- PUB_LEASE_EXPIRED: the draft ended at lease expiry (R379) (R589). -/
def pubLeaseExpired : Nat := 0x0402

/-- PUB_DRAFT_DISCARDED: no draft to act on (R132) (R589). -/
def pubDraftDiscarded : Nat := 0x0403

/-- PUB_NOT_REGISTERED: region not drafted, or revoking (R132) (R589). -/
def pubNotRegistered : Nat := 0x0404

/-- OWN_NOT_OWNER: device is not the owner (R66, R218) (R589). -/
def ownNotOwner : Nat := 0x0501

/-- OWN_STALEMATE_RESOLVED: the arbiter ruled (R230) (R589). -/
def ownStalemateResolved : Nat := 0x0502

/-- OWN_STATE_LOST: no complete copy remains (R230) (R589). -/
def ownStateLost : Nat := 0x0503

/-- OWN_PREEMPTED_SWAPPED: sequence swapped to host memory (R235) (R589). -/
def ownPreemptedSwapped : Nat := 0x0504

/-- OWN_CASTLE_TIMEOUT: home and partner did not answer (R23, R226) (R589). -/
def ownCastleTimeout : Nat := 0x0505

/-- XPT_RETRY_EXCEEDED: seven tries failed (R422) (R589). -/
def xptRetryExceeded : Nat := 0x0601

/-- XPT_STALE_INCARNATION: peer's queue pair was re-established (R422) (R589). -/
def xptStaleIncarnation : Nat := 0x0602

/-- XPT_PORT_STALLED: pause watchdog tripped or no path remains (R407, R419) (R589). -/
def xptPortStalled : Nat := 0x0603

/-- XPT_STALE_EPOCH: epoch two or more behind (R486) (R589). -/
def xptStaleEpoch : Nat := 0x0604

/-- ADM_POLICED: beyond the current bucket level (R466) (R589). -/
def admPoliced : Nat := 0x0701

/-- ADM_BUDGET_EXHAUSTED: charge above BURST, or RATE 0 (R466) (R589). -/
def admBudgetExhausted : Nat := 0x0702

/-- ADM_CLASS_CLOSED: class closed (R461) (R589). -/
def admClassClosed : Nat := 0x0703

/-- CMP_NOT_MEMBER: no common composition at the epoch (R486, R487) (R589). -/
def cmpNotMember : Nat := 0x0801

/-- CMP_PARTING: member is parting (R489) (R589). -/
def cmpParting : Nat := 0x0802

/-- CMP_LOST_MEMBER: a member was lost (R491) (R589). -/
def cmpLostMember : Nat := 0x0803

/-- CMP_EPOCH_CONFLICT: proposal on a stale base or during a change (R483) (R589). -/
def cmpEpochConflict : Nat := 0x0804

/-- CMP_MAP_REJECTED: map fails R481 (R589). -/
def cmpMapRejected : Nat := 0x0806

/-- FW_SIGNATURE: image fails verification (R504) (R589). -/
def fwSignature : Nat := 0x0901

/-- FW_ACTIVATION_DEFERRED: activation waits for an emergency to clear (R513) (R589). -/
def fwActivationDeferred : Nat := 0x0902

/-- FW_HANDOFF_ABORTED: old image resumed (R514) (R589). -/
def fwHandoffAborted : Nat := 0x0903

/-- FW_HOST_ORPHANED: heartbeats missed (R516) (R589). -/
def fwHostOrphaned : Nat := 0x0904

/-- FW_LOAD_REQUIRED: no firmware running, or target not verified (R506) (R589). -/
def fwLoadRequired : Nat := 0x0905

/-- FL_UNCORRECTABLE: flash frame unreadable (R346); target out (R577) (R589). -/
def flUncorrectable : Nat := 0x0A01

/-- FL_BLOCK_RETIRED: block retired (R348) (R589). -/
def flBlockRetired : Nat := 0x0A02

/-- FL_WEAR_LIMIT: tier READ_ONLY (R351) (R589). -/
def flWearLimit : Nat := 0x0A03

/-- FL_META_ROLLBACK: map recovered from an older state (R359) (R589). -/
def flMetaRollback : Nat := 0x0A04

/-- CT_NO_FREE_SLOT: no FREE table slot (R318) (R589). -/
def ctNoFreeSlot : Nat := 0x0B01

/-- CT_TABLE_INVALID: table file fails R316 (R589). -/
def ctTableInvalid : Nat := 0x0B02

/-- CT_GENERATION_MISMATCH: expected generation differs, or image table not held (R318, R323) (R589). -/
def ctGenerationMismatch : Nat := 0x0B03

/-- CT_RAW_FALLBACK: blocks stored raw for lack of a table (R308) (R589). -/
def ctRawFallback : Nat := 0x0B04

/-- CLK_CHILD_ACTIVE: gate refused while a child is on (R589). -/
def clkChildActive : Nat := 0x0C01

/-- CLK_REF_LOST: PLL coasting without reference (R589). -/
def clkRefLost : Nat := 0x0C02

/-- PWR_EMERGENCY: an emergency ladder step is in force (R589). -/
def pwrEmergency : Nat := 0x0C03

/-- SB_INPUT_STUCK: input asserted beyond its stuck limit (R589). -/
def sbInputStuck : Nat := 0x0C04

/-- SB_INPUT_OVERRUN: input events above the rate limit (R589). -/
def sbInputOverrun : Nat := 0x0C05

/-- CLK_OSC_NOT_STABLE: oscillator count not complete in 10 ms (R567) (R589). -/
def clkOscNotStable : Nat := 0x0C06

end Sys2Proof.Machine.Code
end

