-- ==== Sys2Proof/Machine/Numeric.lean ====
section
/-!
DEFINITION. Arithmetic, formats and precision (spec chapter 07): the element formats of R195, the one rounding
of every conversion (R199), the MX block of R196 to R198, the correctly rounded exponential (R203) and the wide
accumulator cell (R204 to R208). Every value is an exact dyadic number until its one rounding.
-/

namespace Sys2Proof.Machine

/-- The floating-point element formats of R195. -/
inductive Fmt
  | fp32 | bf16 | fp16 | e4m3 | e5m2 | e3m2 | e2m1
  deriving DecidableEq, Repr

/-- Exponent field width of a format (R195). -/
def Fmt.ebits : Fmt → Nat
  | .fp32 => 8 | .bf16 => 8 | .fp16 => 5 | .e4m3 => 4 | .e5m2 => 5 | .e3m2 => 3 | .e2m1 => 2

/-- Mantissa field width of a format (R195). -/
def Fmt.mbits : Fmt → Nat
  | .fp32 => 23 | .bf16 => 7 | .fp16 => 10 | .e4m3 => 3 | .e5m2 => 2 | .e3m2 => 2 | .e2m1 => 1

/-- Exponent bias of a format (R195). -/
def Fmt.bias : Fmt → Nat
  | .fp32 => 127 | .bf16 => 127 | .fp16 => 15 | .e4m3 => 7 | .e5m2 => 15 | .e3m2 => 3 | .e2m1 => 1

/-- Bits of the largest finite magnitude (R195). -/
def Fmt.maxFinite : Fmt → Nat
  | .fp32 => 0x7F7FFFFF | .bf16 => 0x7F7F | .fp16 => 0x7BFF | .e4m3 => 0x7E | .e5m2 => 0x7B
  | .e3m2 => 0x1F | .e2m1 => 0x07

/-- Whether a format has infinities (R195). -/
def Fmt.hasInf : Fmt → Bool
  | .fp32 => true | .bf16 => true | .fp16 => true | .e5m2 => true
  | .e4m3 => false | .e3m2 => false | .e2m1 => false

/-- The canonical NaN of a format (R195); 0 for the two MX elements that have none. -/
def Fmt.canonNaN : Fmt → Nat
  | .fp32 => 0x7FC00000 | .bf16 => 0x7FC0 | .fp16 => 0x7E00 | .e4m3 => 0x7F | .e5m2 => 0x7E
  | .e3m2 => 0 | .e2m1 => 0

/-- Bits of one element. -/
def Fmt.width (f : Fmt) : Nat := 1 + f.ebits + f.mbits

/-- Exponent of the smallest normal number (R195). -/
def Fmt.emin (f : Fmt) : Int := 1 - (f.bias : Int)

/-- Bits of +infinity, in a format that has it. -/
def Fmt.infBits (f : Fmt) : Nat := (2 ^ f.ebits - 1) * 2 ^ f.mbits

/-- A value read from an element: a signed dyadic `± mant × 2 ^ exp`, an infinity or a NaN. -/
inductive Fv
  | fin (neg : Bool) (mant : Nat) (exp : Int)
  | inf (neg : Bool)
  | nan
  deriving DecidableEq, Repr

/-- The sign of zero and of everything else; a NaN counts as positive. -/
def Fv.sign : Fv → Bool
  | .fin n _ _ => n
  | .inf n => n
  | .nan => false

/-- A finite value. -/
def Fv.isFin : Fv → Bool
  | .fin _ _ _ => true
  | _ => false

/-- Negation (a NaN stays a NaN). -/
def Fv.neg : Fv → Fv
  | .fin n m e => .fin (!n) m e
  | .inf n => .inf (!n)
  | .nan => .nan

/-- The value of an element's bits (R195). Any NaN encoding reads as the NaN. -/
def Fmt.read (f : Fmt) (bits : Nat) : Fv :=
  let neg := natBit bits (f.width - 1)
  let e := bits / 2 ^ f.mbits % 2 ^ f.ebits
  let m := bits % 2 ^ f.mbits
  let top := 2 ^ f.ebits - 1
  if e = top ∧ f.hasInf then (if m = 0 then .inf neg else .nan)
  else if f = .e4m3 ∧ e = top ∧ m = 7 then .nan
  else if e = 0 then .fin neg m (f.emin - f.mbits)
  else .fin neg (m + 2 ^ f.mbits) ((e : Int) - 1 + f.emin - f.mbits)

/-- `num / den` rounded to the nearest integer, ties to even. -/
def rneDiv (num den : Nat) : Nat :=
  let q := num / den
  let r := num % den
  if 2 * r < den then q else if 2 * r > den then q + 1 else if q % 2 = 0 then q else q + 1

/-- `num / den` rounded down. -/
def truncDiv (num den : Nat) : Nat := num / den

/-- `num × 2 ^ s / den`, as a pair numerator, denominator without a negative power. -/
def scaleRat (num den : Nat) (s : Int) : Nat × Nat :=
  if s ≥ 0 then (num * 2 ^ s.toNat, den) else (num, den * 2 ^ (-s).toNat)

/-- The exponent `e` with `2 ^ e ≤ num / den < 2 ^ (e + 1)`, for `num > 0`. -/
def ratExp (num den : Nat) : Int :=
  let e : Int := (Nat.log2 num : Int) - (Nat.log2 den : Int)
  let (a, b) := scaleRat num den (-e)
  if a < b then e - 1 else e

/-- Magnitude bits of `num / den` in a format with unbounded exponent, under a rounding of integers:
the encoding grows past `maxFinite` where the value overflows. -/
def Fmt.magBits (f : Fmt) (rnd : Nat → Nat → Nat) (num den : Nat) : Nat :=
  if num = 0 then 0 else
  let e := max (ratExp num den) f.emin
  let (a, b) := scaleRat num den ((f.mbits : Int) - e)
  (e - f.emin).toNat * 2 ^ f.mbits + rnd a b

/-- What a conversion writes where the magnitude passes the largest finite value (R199). -/
def Fmt.overflowBits : Fmt → Nat
  | .e4m3 => 0x7E
  | .e5m2 => 0x7B
  | .e3m2 => 0x1F
  | .e2m1 => 0x07
  | f => f.infBits

/-- Put a sign on magnitude bits. -/
def Fmt.withSign (f : Fmt) (neg : Bool) (mag : Nat) : Nat :=
  if neg then mag + 2 ^ (f.width - 1) else mag

/-- `± num / den` rounded once to a format, round-to-nearest-even, overflow as R199 states. -/
def Fmt.roundRat (f : Fmt) (neg : Bool) (num den : Nat) : Nat :=
  let b := f.magBits rneDiv num den
  f.withSign neg (if b > f.maxFinite then f.overflowBits else b)

/-- A value rounded once to a format (R199): infinities and NaN as the table's last two columns. -/
def Fmt.write (f : Fmt) : Fv → Nat
  | .fin neg m e =>
    let (a, b) := scaleRat m 1 e
    f.roundRat neg a b
  | .inf neg => if f.hasInf then f.withSign neg f.infBits else f.canonNaN
  | .nan => f.canonNaN

/-- The value after one rounding to FP32. -/
def rn32 (v : Fv) : Fv := Fmt.fp32.read (Fmt.fp32.write v)

/-- The FP8 input flush of R200: a subnormal FP8 operand of a matrix engine becomes a zero of its sign. -/
def fp8Flush (f : Fmt) (v : Fv) : Fv :=
  match v with
  | .fin n m e =>
    if (f = .e4m3 ∨ f = .e5m2) ∧ m < 2 ^ f.mbits then .fin n 0 e else .fin n m e
  | v => v

/-- An exact dyadic number `m × 2 ^ e`. -/
structure Dy where
  m : Int
  e : Int
  deriving DecidableEq, Repr

/-- The dyadic of a finite value. -/
def Fv.dy? : Fv → Option Dy
  | .fin neg m e => some ⟨if neg then -(m : Int) else m, e⟩
  | _ => none

/-- Exact sum of dyadics. -/
def Dy.add (a b : Dy) : Dy :=
  if a.e ≤ b.e then ⟨a.m + b.m * 2 ^ (b.e - a.e).toNat, a.e⟩
  else ⟨a.m * 2 ^ (a.e - b.e).toNat + b.m, b.e⟩

/-- Exact product of dyadics. -/
def Dy.mul (a b : Dy) : Dy := ⟨a.m * b.m, a.e + b.e⟩

/-- The dyadic zero. -/
def Dy.zero : Dy := ⟨0, 0⟩

/-- A dyadic as a finite value; a zero is +0. -/
def Dy.toFv (d : Dy) : Fv := .fin (d.m < 0) d.m.natAbs d.e

/-- Exact product of two values; 0 × infinity and any NaN give NaN. -/
def Fv.mul (a b : Fv) : Fv :=
  match a, b with
  | .nan, _ => .nan
  | _, .nan => .nan
  | .inf n, .inf k => .inf (n != k)
  | .inf n, .fin k m _ => if m = 0 then .nan else .inf (n != k)
  | .fin n m _, .inf k => if m = 0 then .nan else .inf (n != k)
  | .fin n m e, .fin k m' e' => .fin (n != k) (m * m') (e + e')

/-- Exact sum of two values; opposite infinities and any NaN give NaN. -/
def Fv.add (a b : Fv) : Fv :=
  match a, b with
  | .nan, _ => .nan
  | _, .nan => .nan
  | .inf n, .inf k => if n = k then .inf n else .nan
  | .inf n, _ => .inf n
  | _, .inf k => .inf k
  | .fin n m e, .fin k m' e' =>
    let d := Dy.add ⟨if n then -(m : Int) else m, e⟩ ⟨if k then -(m' : Int) else m', e'⟩
    if d.m = 0 then .fin (n && k) 0 0 else d.toFv

/-- `a < b` on values, NaN compares false, zeros are equal. -/
def Fv.lt (a b : Fv) : Bool :=
  match a, b with
  | .nan, _ => false
  | _, .nan => false
  | .inf n, .inf k => n && !k
  | .inf n, _ => n
  | _, .inf k => !k
  | .fin n m e, .fin k m' e' =>
    decide ((Dy.add ⟨if n then -(m : Int) else m, e⟩ ⟨if k then (m' : Int) else -(m' : Int), e'⟩).m < 0)

/-- The larger of two values; a NaN on either side gives NaN, of two zeros the first is taken (where a rule does not say so: DESIGN CHOICE, log 41). -/
def Fv.max (a b : Fv) : Fv :=
  match a, b with
  | .nan, _ => .nan
  | _, .nan => .nan
  | a, b => if a.lt b then b else a

/-- The smaller of two values; a NaN on either side gives NaN, of two zeros the first is taken (where a rule does not say so: DESIGN CHOICE, log 41). -/
def Fv.min (a b : Fv) : Fv :=
  match a, b with
  | .nan, _ => .nan
  | _, .nan => .nan
  | a, b => if b.lt a then b else a

/-- Exact sum of a list of exact products, the whole dot product of R201; not finite where any term is not. -/
def dot : List Fv → List Fv → Fv
  | a :: as, b :: bs => (a.mul b).add (dot as bs)
  | _, _ => .fin false 0 0

/-- Fractional bits of the fixed-point evaluation of the exponential: far past what any FP32 argument needs. -/
def expBits : Nat := 400

/-- Taylor terms of `exp` in fixed point with `expBits` fraction bits: `acc + t + t y / k + …`. -/
def expTaylor : Nat → Nat → Nat → Nat → Nat → Nat
  | 0, _, _, _, acc => acc
  | fuel + 1, k, y, t, acc =>
    let t' := t * y / 2 ^ expBits / k
    expTaylor fuel (k + 1) y t' (acc + t')

/-- Repeated squaring of a fixed-point number. -/
def squareN : Nat → Nat → Nat
  | 0, a => a
  | n + 1, a => squareN n (a * a / 2 ^ expBits)

/-- `exp |x|` for a dyadic `|x| = m × 2 ^ e` below 256, in fixed point with `expBits` fraction bits. -/
def expFixed (m : Nat) (e : Int) : Nat :=
  let (a, b) := scaleRat m 1 (e + expBits - 10)
  let y := a / b
  squareN 10 (expTaylor 70 1 y (2 ^ expBits) (2 ^ expBits))

/-- `exp x` for a finite `x`, as numerator and denominator; arguments beyond ±256 are cut to it, where every
FP32 result has long overflowed or vanished (R202). -/
def expRat (neg : Bool) (m : Nat) (e : Int) : Nat × Nat :=
  let (a, b) := scaleRat m 1 e
  let v := if a ≥ 256 * b then expFixed 1 8 else expFixed m e
  if neg then (2 ^ expBits, v) else (v, 2 ^ expBits)

/-- `RN32(exp x)`, the correctly rounded exponential of R203. -/
def exp32 : Fv → Fv
  | .nan => .nan
  | .inf neg => if neg then .fin false 0 0 else .inf false
  | .fin neg m e =>
    if m = 0 then .fin false 1 0 else
    let (a, b) := expRat neg m e
    Fmt.fp32.read (Fmt.fp32.roundRat false a b)

/-- The faithful exponential of R202: one of the two FP32 neighbours of `exp x`; which one the part returns is
open: `other` takes the one that is not nearest. The special values and the overflow and underflow points are those of
the correctly rounded one. -/
def expFaithful (other : Bool) (x : Fv) : Fv :=
  match x with
  | .fin neg m e =>
    if m = 0 then .fin false 1 0 else
    let (a, b) := expRat neg m e
    let rn := Fmt.fp32.roundRat false a b
    if rn = Fmt.fp32.infBits then .inf false
    else if rn = 0 then .fin false 0 0
    else
      let lo := Fmt.fp32.magBits truncDiv a b
      let pick := if other then (if rn = lo then lo + 1 else lo) else rn
      Fmt.fp32.read (if pick > Fmt.fp32.maxFinite then Fmt.fp32.maxFinite else if pick = 0 then 1 else pick)
  | x => exp32 x

/-! ### MX blocks -/

/-- The MX storage forms, named by their FORMAT code (R88): the element format of codes 0x10 to 0x13. -/
def mxElem : Nat → Option Fmt
  | 0x10 => some .e4m3
  | 0x11 => some .e5m2
  | 0x12 => some .e3m2
  | 0x13 => some .e2m1
  | _ => none

/-- The plain floating-point formats, named by their FORMAT code (R88): codes 0x01 to 0x05. -/
def plainFmt : Nat → Option Fmt
  | 0x01 => some .fp32
  | 0x02 => some .bf16
  | 0x03 => some .fp16
  | 0x04 => some .e4m3
  | 0x05 => some .e5m2
  | _ => none

/-- Element bytes of one block of 32 (R196). -/
def mxBlockBytes (f : Fmt) : Nat := 32 * f.width / 8

/-- Stored bytes of a row of `n` elements: packed elements, then one scale byte a block (R196). -/
def mxRowBytes (f : Fmt) (n : Nat) : Nat := n / 32 * (mxBlockBytes f + 1)

/-- The largest finite magnitude of an element format, as a dyadic. -/
def Fmt.maxVal (f : Fmt) : Fv := f.read f.maxFinite

/-- The smallest `x` in `[x0, x0 + fuel)` with `a ≤ maxval × 2 ^ x`, else the last. -/
def mxScaleFrom (f : Fmt) (a : Fv) : Nat → Int → Int
  | 0, x => x
  | fuel + 1, x =>
    if (f.maxVal.mul (.fin false 1 x)).lt a then mxScaleFrom f a fuel (x + 1) else x

/-- The magnitude of a value. -/
def Fv.abs : Fv → Fv
  | .fin _ m e => .fin false m e
  | .inf _ => .inf false
  | .nan => .nan

/-- One block encoded as R197 states: the scale byte and the element bits. -/
def mxEncode (f : Fmt) (vs : List Fv) : Nat × List Nat :=
  if vs.any (fun v => !v.isFin) then (0xFF, vs.map (fun _ => 0))
  else
    let a := vs.foldl (fun acc v => acc.max v.abs) (.fin false 0 0)
    let x : Int := if a = .fin false 0 0 then -127 else mxScaleFrom f a 254 (-127)
    ((x + 127).toNat, vs.map (fun v => f.write (v.mul (.fin false 1 (-x)))))

/-- One stored element decoded (R198), as the exact value `element × 2 ^ (scale − 127)`; a scale of 0xFF is
the NaN. Overflow past FP32 is the conversion's, not the decoding's (R212). -/
def mxDecode (f : Fmt) (scale bits : Nat) : Fv :=
  if scale = 0xFF then .nan else (f.read bits).mul (.fin false 1 ((scale : Int) - 127))

/-- Little-endian bit packing of equal-width elements (R196): element j lies at bits `[w j + w − 1 : w j]`. -/
def packBits (w : Nat) : List Nat → Nat
  | [] => 0
  | b :: bs => b + 2 ^ w * packBits w bs

/-- Cut a list into runs of `n`, given fuel for their number. -/
def chunks {α : Type} (n : Nat) : Nat → List α → List (List α)
  | 0, _ => []
  | k + 1, l => l.take n :: chunks n k (l.drop n)

/-- A row of values stored in an MX form (R196, R197): element bytes of all blocks, then the scale bytes. -/
def mxStore (f : Fmt) (vs : List Fv) : List Byte :=
  let blocks := (chunks 32 (vs.length / 32) vs).map (mxEncode f)
  (blocks.flatMap (fun b => leBytes (mxBlockBytes f) (packBits f.width b.2)))
    ++ blocks.map (fun b => BitVec.ofNat 8 b.1)

/-- The values of a stored row of `n` elements (R196, R198), exact. -/
def mxLoad (f : Fmt) (n : Nat) (row : List Byte) : List Fv :=
  let nb := n / 32
  let eb := mxBlockBytes f
  (List.range nb).flatMap (fun i =>
    let word := fieldBytes row (i * eb) eb
    let scale := fieldBytes row (nb * eb + i) 1
    (List.range 32).map (fun j => mxDecode f scale (word / 2 ^ (f.width * j) % 2 ^ f.width)))

/-- The values of a stored row taken to FP32, the first step of every conversion (R199): an element of 2^128 or more becomes an infinity (R198). Every other one is exact there. -/
def mxLoad32 (f : Fmt) (n : Nat) (row : List Byte) : List Fv := (mxLoad f n row).map rn32

/-- The bytes of packed plain elements. -/
def storePlain (f : Fmt) (vs : List Fv) : List Byte :=
  vs.flatMap (fun v => leBytes (f.width / 8) (f.write v))

/-- The values of packed plain elements. -/
def loadPlain (f : Fmt) (n : Nat) (bs : List Byte) : List Fv :=
  (List.range n).map (fun i => f.read (fieldBytes bs (i * (f.width / 8)) (f.width / 8)))

/-! ### The wide accumulator cell -/

/-- A wide accumulator cell (R204): VALUE a 96-bit two's-complement integer, ANCHOR, the NAN flag. -/
structure Cell96 where
  val : BitVec 96
  anchor : Int
  nan : Bool
  deriving DecidableEq, Repr

/-- The empty cell of anchor 0 (R204). -/
def Cell96.empty : Cell96 := ⟨0, 0, false⟩

/-- The 16 bytes of a cell (R204); reserved bits and bytes are written 0. -/
def Cell96.bytes (c : Cell96) : List Byte :=
  leBytes 12 c.val.toNat ++ leBytes 1 (c.anchor % 256).toNat ++ leBytes 1 (bit c.nan) ++ [0, 0]

/-- The cell in 16 bytes (R204); reserved bits are ignored. -/
def Cell96.ofBytes (bs : List Byte) : Cell96 :=
  let a := fieldBytes bs 12 1
  ⟨BitVec.ofNat 96 (fieldBytes bs 0 12), if a ≥ 128 then (a : Int) - 256 else a, natBit (fieldBytes bs 13 1) 0⟩

/-- Nearest integer to `m × 2 ^ s`, ties to even. -/
def rneInt (m : Int) (s : Int) : Int :=
  let (a, b) := scaleRat m.natAbs 1 s
  let q := rneDiv a b
  if m < 0 then -(q : Int) else q

/-- Add an exact term to a cell (R205): converted by `RNE(t × 2 ^ (64 − A))` modulo 2^96; NaN or infinity sets
NAN and adds nothing. -/
def Cell96.addTerm (c : Cell96) (t : Fv) : Cell96 :=
  match t.dy? with
  | none => { c with nan := true }
  | some d => { c with val := c.val + BitVec.ofInt 96 (rneInt d.m (d.e + 64 - c.anchor)) }

/-- Cell-to-cell addition at equal anchors (R205). -/
def Cell96.add (c d : Cell96) : Cell96 := { c with val := c.val + d.val, nan := c.nan || d.nan }

/-- The exact value of a cell, `VALUE × 2 ^ (A − 64)` (R204). -/
def Cell96.value (c : Cell96) : Fv :=
  if c.nan then .nan else Dy.toFv ⟨c.val.toInt, c.anchor - 64⟩

/-- A cell converted to a format, one rounding (R199, R207). -/
def Cell96.convert (f : Fmt) (c : Cell96) : Nat := f.write c.value

/-- `RN_fmt(O / L)` from the exact values of two cells (R186, R207). -/
def Cell96.quot (f : Fmt) (o l : Cell96) : Nat :=
  if o.nan || l.nan then f.canonNaN else
  let n := o.val.toInt * 2 ^ (o.anchor + 128).toNat
  let d := l.val.toInt * 2 ^ (l.anchor + 128).toNat
  if d = 0 then f.canonNaN
  else f.roundRat ((n < 0) != (d < 0)) n.natAbs d.natAbs

/-- `RN32(a / b)` of two FP32 values (fast mode's division, R209); division by zero is NaN or an infinity. -/
def div32 (a b : Fv) : Fv :=
  match a, b with
  | .nan, _ => .nan
  | _, .nan => .nan
  | .inf _, .inf _ => .nan
  | .inf n, .fin k _ _ => .inf (n != k)
  | .fin n _ _, .inf k => .fin (n != k) 0 0
  | .fin n m e, .fin k m' e' =>
    if m' = 0 then (if m = 0 then .nan else .inf (n != k))
    else
      let (x, y) := scaleRat m m' (e - e')
      Fmt.fp32.read (Fmt.fp32.roundRat (n != k) x y)

end Sys2Proof.Machine
end

