-- ==== Sys2Proof/Machine/State.lean ====
section
/-!
DEFINITION. The state of one QX-9 as plain data: every register, queue, table, buffer and counter the spec gives the part,
the queue of waiting commands, and the state after reset.
-/

namespace Sys2Proof.Machine

open Sys2Proof

/-! ### Queues, instructions in progress and completion counters (spec chapter 03) -/

/-- The personalities of R4. -/
inductive Pers
  | prompt | generation | cache
  deriving DecidableEq, Repr

/-- The queue states of R77. -/
inductive QState
  | disabled | active | waiting | halted | draining | orphaned
  deriving DecidableEq, Repr

/-- Where a remote submission came from (R79): the submitting device, the composition and epoch of its message,
the tag that its completion carries back, and the port and function that the submission acts for (R374). -/
structure Submitter where
  device : Nat
  comp : Nat
  epoch : Nat
  tag : Nat
  port : Nat
  fn : Nat
  deriving DecidableEq, Repr

/-- A fetched entry that has not started: its ring index, its word, the parameter block and data a remote submission brought with it, its submitter when it is remote, and whether a BUDGET lowered its customer's burst while it was queued (R173). -/
structure Fetched where
  index : Nat
  ent : Entry
  blk : List Byte
  sub : Option Submitter
  caught : Bool
  deriving DecidableEq, Repr

/-- One queue's register set and what the device keeps of it (R69 to R77). `ctrl` holds the RW fields of QDB_CTRL
other than ENABLE, which `state` gives; `prior` is the state held before orphaning; `lastStart` orders R460. -/
structure Queue where
  state : QState
  prior : QState
  tail : Nat
  head : Nat
  base : W64
  ctrl : W64
  bind : W64
  lastReason : Nat
  failCount : Nat
  failIndex : Nat
  vector : W64
  peer : Option Nat
  fetched : List Fetched
  lastStart : Nat
  deriving DecidableEq, Repr

/-- A queue after reset: the Reset columns of R70, R73, R75 and R76. -/
def Queue.init : Queue :=
  { state := .disabled, prior := .disabled, tail := 0, head := 0, base := 0, ctrl := 0x00003E8001020000,
    bind := 0, lastReason := 0, failCount := 0, failIndex := 0, vector := 0, peer := none, fetched := [],
    lastStart := 0 }

/-- How far a started instruction is. -/
inductive Phase
  /-- waits behind a lifecycle instruction of its object (R97) -/
  | behind
  /-- passed the checks, its execution has not run -/
  | ready
  /-- execution runs on: a message, a record change or a counter is outstanding -/
  | waiting
  /-- finished at step 7 with this reason code; its completion is still to be made -/
  | done (code : Nat)
  deriving DecidableEq, Repr

/-- A started instruction (R94): its queue and ring index, the word, the parameter block as read at start (R91),
the charge made (R466), where it came from, and when it started. `aux` is the running count of outstanding answers, `codes`
the failures among them (of an instruction behind a lifecycle instruction: the code that one has left it), `inputs` the operands read from other devices so far; `runs`
are the runs of pages its tile tasks were formed from (R179), and `caught` is carried on from its entry (R173). -/
structure Running where
  id : Nat
  queue : Nat
  index : Nat
  ent : Entry
  blk : List Byte
  sub : Option Submitter
  fid : Nat
  phase : Phase
  charge : Nat
  aux : Nat
  codes : List (Nat × Nat)
  inputs : List (Nat × List Byte)
  startAt : Nat
  runs : List (List Nat)
  caught : Bool
  deriving DecidableEq, Repr

/-- A completion counter (R80) with its owner function, echo and grants (R538). -/
structure Counter where
  owner : Option Nat
  fail : Nat
  count : Nat
  echo : Option Nat
  vecOn : Bool
  vector : Nat
  coalesce : Nat
  vecDue : Bool
  vecAt : Nat
  grants : List (Nat × Nat)
  fabric : Option Nat
  deriving DecidableEq, Repr

/-- A counter no command has touched: unallocated and 0. -/
def Counter.init : Counter :=
  { owner := none, fail := 0, count := 0, echo := none, vecOn := false, vector := 0, coalesce := 0, vecDue := false,
    vecAt := 0, grants := [], fabric := none }

/-- A holder's part of a G-side ATTEND (R33, R149, R188): holder device, shard index, token range, and whether its
current pass has been answered. -/
structure HolderPart where
  device : Nat
  shard : Nat
  first : Nat
  count : Nat
  answered : Bool
  deriving DecidableEq, Repr

/-- One row of a merge buffer or of GMAX: its maximum, its sum and its elements, fast (FP32 bits) or wide. -/
structure MergeRow where
  m : Nat
  l : Cell96
  o : List Cell96
  lf : Nat
  of : List Nat
  deriving DecidableEq, Repr

/-- The split of one ATTEND at a G device: its pass (1 or 2 in deterministic mode, 2 in fast mode), its holders, the
internal GMAX and the merge buffer, rows in layer, query and head order. -/
structure Split where
  instr : Nat
  det : Bool
  pass : Nat
  parts : List HolderPart
  ownDone : Bool
  rows : List MergeRow
  code : List (Nat × Nat)
  deriving DecidableEq, Repr

/-- Chapter 03's state: queues, started instructions, counters, splits. `nextId` numbers started instructions,
`seqNo` orders starts. -/
structure Tz where
  queues : Tbl Queue
  started : List Running
  counters : Tbl Counter
  splits : List Split
  nextId : Nat
  seqNo : Nat
  deriving DecidableEq, Repr

/-! ### Admission (spec chapter 16) -/

/-- A customer entry (R463) with its exact level in thousandths of a unit as of `filledAt` (R465) and its virtual times (R471). -/
structure Customer where
  valid : Bool
  keySlot : Nat
  weight : Nat
  customer : Nat
  burst : Nat
  rate : Nat
  level : Nat
  filledAt : Nat
  admitted : Nat
  policed : Nat
  exhausted : Nat
  vt : List Nat
  deriving DecidableEq, Repr

/-- An unused customer entry (R463). -/
def Customer.init : Customer :=
  { valid := false, keySlot := 0, weight := 1, customer := 0xFFFF, burst := 1, rate := 0, level := 0, filledAt := 0, admitted := 0,
    policed := 0, exhausted := 0, vt := [0, 0, 0, 0] }

/-- Chapter 16's state: customer entries, class virtual times (R471) and the totals of R473, and the level of each
egress bucket in bytes (R474), keyed by 8 × port + class. -/
structure Adm where
  customers : Tbl Customer
  classVt : List Nat
  policed : Nat
  exhausted : Nat
  closed : Nat
  shape : Tbl Int
  deriving DecidableEq, Repr

/-- Memory: listed cells in rising address order, none of them 0; an unlisted byte reads 0. -/
abbrev Mem := List Host.Cell

/-! ### Pages and frames (spec chapter 10) -/

/-- An extent of the frame pool in 4 KiB units (R275). -/
structure Frame where
  half : Nat
  start : Nat
  units : Nat
  deriving DecidableEq, Repr

/-- What a page belongs to and what kind of copy it is. -/
inductive PageKind
  /-- a private page of a sequence this device owns or is pulling -/
  | priv
  /-- a staged copy of a prefix page (R25) -/
  | staged
  /-- a page of a shard this device holds or mirrors (R384) -/
  | shard
  /-- a page of a draft this device owns or mirrors (R27) -/
  | draft
  /-- an up-projection or region weight page (R278) -/
  | weight
  deriving DecidableEq, Repr

/-- One page held here: the object it belongs to, its place, its copies with one dirty bit a tier (R279), pins (R120),
references (R386) and rows, each the stored bytes of one position (R277). `newest` is a tier code (R103). `acked` says that
the home has acknowledged its entry (R216). -/
structure Page where
  number : Nat
  kind : PageKind
  obj : Handle
  layer : Nat
  index : Nat
  units : Nat
  stack : Option Frame
  stackDirty : Bool
  host : Option Nat
  hostDirty : Bool
  flash : Option Nat
  flashDirty : Bool
  newest : Nat
  tokens : Nat
  lost : Bool
  pin : Nat
  refs : Nat
  acked : Bool
  lookahead : Bool
  lookAt : Nat
  lastRead : Nat
  busy : Nat
  pubOrder : Nat
  rows : Tbl (List Byte)
  deriving DecidableEq, Repr

/-- A model descriptor object held here (R174, R223): its record and whether adoption created it. -/
structure Model where
  number : Nat
  desc : ModelRec
  created : Bool
  weightPages : Nat
  weights : Mem
  deriving DecidableEq, Repr

/-! ### Ownership (spec chapter 08) -/

/-- The castle states of R228; `stale` is a device refused as stale owner (R218), which answers OWN_NOT_OWNER. -/
inductive CastleSt
  | owner | offered | pulled | committing | freed | pulling | accepted | stale
  deriving DecidableEq, Repr

/-- What a side does once the home has applied or refused the record change it asked for. -/
inductive Cont
  /-- the pages' entries are acknowledged (R216); the instruction that writes into them learns of a refusal (R217) -/
  | acked (pages : List Nat) (writer : Option Nat)
  /-- the instruction finishes with this code -/
  | instr (id code : Nat)
  /-- the creating CLAIM finishes and reports (R23) -/
  | claim (id : Nat)
  /-- step 1 of castling ends and OFFER leaves (R225) -/
  | castleOffer
  /-- the record is deleted and the release completes (R34) -/
  | released
  /-- the moved residency is recorded: the swap ends (R235) -/
  | swapEnd
  /-- the sequence is back in the stacks (R237) -/
  | resumed
  deriving DecidableEq, Repr

/-- A change of a record at its home (R215). -/
inductive RecUpd
  | create (r : SeqRecord)
  | add (items : List EntryItem)
  | change (items : List EntryItem)
  | remove (items : List EntryItem)
  | setState (state target comp : Nat)
  | commit (target comp : Nat) (entries : List PageEntry)
  | ruling (owner epoch : Nat) (entries : Option (List PageEntry))
  | setPrefix (node : Handle) (len comp : Nat)
  | resend
  | delete
  deriving DecidableEq, Repr

/-- The device's own copy of a sequence, as owner or castle target (R222, R228). `model` is the descriptor bound here
(R223). `pulls` are the entries still to pull, `peer` is the other side of the castle, `waits` are the changes asked of the home and not yet answered, each with what follows. -/
structure SeqCopy where
  handle : Handle
  st : CastleSt
  epoch : Nat
  desc : SeqRecord
  model : Handle
  pages : List (List Nat)
  peer : Nat
  castleComp : Nat
  castleInstr : Option Nat
  claimInstr : Option Nat
  weightPulls : List Nat
  pulls : List EntryItem
  outstanding : Nat
  tries : Nat
  waits : List (RecUpd × Cont)
  swapped : Bool
  swapMark : Nat
  lastAttend : Nat
  resumedAt : Nat
  due : Nat
  deriving DecidableEq, Repr

/-- Whom the home answers when an update has been applied (R215). -/
inductive Ans
  | none
  /-- the owner on this device goes on -/
  | here (k : Cont)
  /-- ENTRIES_ACK to a device -/
  | entriesAck (device : Nat)
  /-- COMMITTED to a device, or to the owner here -/
  | committed (device : Nat)
  /-- RELEASED to a device, or to the owner here -/
  | released (device : Nat)
  /-- RULING to the sides: each device with its code (R230) -/
  | ruled (owner epoch : Nat) (sides : List (Nat × Nat))
  deriving DecidableEq, Repr

/-- A side's copy status as an ASK reported it (R229). -/
structure CopyStatus where
  device : Nat
  side : Nat
  complete : Bool
  epoch : Nat
  entries : List PageEntry
  deriving DecidableEq, Repr

/-- The arbiter's work on one record (R229): the ASK being served and the STATE, TARGET and composition the record had then, the sides, ASKs waiting, statuses gathered, and the sides asked by
HOLD that have not answered and until when they may. -/
structure Arbiter where
  ask : Option CopyStatus
  prior : Nat × Nat × Nat
  sides : List Nat
  asks : List CopyStatus
  statuses : List CopyStatus
  held : List Nat
  due : Nat
  deriving DecidableEq, Repr

/-- An update that waits at its home (R215): the change, whom to answer, and the owner and epoch it was asked under (R218), none for the home's own. -/
structure QueuedUpd where
  upd : RecUpd
  ans : Ans
  under : Option (Nat × Nat)
  deriving DecidableEq, Repr

/-- A record held as home (R213, R215): the record, the updates waiting in order (the first is in flight when
`inflight` gives its VERSION), and the arbiter's work. `unmirrored`: its granule waits for a partner;
`before`: the owner before the last commit or ruling that named another; `due`: when the update in flight has waited for T_c. -/
structure HomeRec where
  desc : SeqRecord
  queue : List QueuedUpd
  inflight : Option Nat
  unmirrored : Bool
  damaged : Bool
  castleComp : Nat
  before : Nat
  arb : Option Arbiter
  due : Nat
  deriving DecidableEq, Repr

/-- A release that waits for its home (R34): the sequence, the epoch it was held at and the composition of its record. -/
structure Releasing where
  handle : Handle
  epoch : Nat
  comp : Nat
  deriving DecidableEq, Repr

/-- Chapter 08's state: records held as home, mirrors held as partner, copies held as owner or target, and the counts
of R240. `nextNum` numbers new objects of each class in turn (R67); `short` says that an allocation of frames has found none (R234). -/
structure Own where
  homes : List HomeRec
  mirrors : List SeqRecord
  copies : List SeqCopy
  nextNum : Tbl Nat
  castlesOut : Nat
  castlesIn : Nat
  rulings : Nat
  lostCount : Nat
  preemptions : Nat
  resumes : Nat
  releasing : List Releasing
  preempting : List Handle
  preemptStop : Bool
  short : Bool
  deriving DecidableEq, Repr

/-! ### Regions, drafts and the prefix tree (spec chapter 13) -/

/-- The states of a key index (R369). -/
inductive KeyState
  | free | live | revoking
  deriving DecidableEq, Repr

/-- A 4 KiB unit of a draft or a relocated page: the region page it stands for and its bytes, sparse. -/
structure Unit4K where
  page : Nat
  bytes : List Host.Cell
  deriving DecidableEq, Repr

/-- A writer (R374): device, port and function. -/
structure Writer where
  device : Nat
  port : Nat
  fn : Nat
  deriving DecidableEq, Repr

/-- A draft of a region (R374): its writer, START_VERSION and units. `holds` counts messages and PUBLISH instructions that hold
its lease (R378); `renewed` is the time of the last renewal and `term` the lease length in force since. -/
structure Draft where
  writer : Writer
  startVersion : Nat
  units : List Unit4K
  holds : Nat
  renewed : Nat
  term : Nat
  deriving DecidableEq, Repr

/-- A key index (R369). `accepted` counts accepted messages in progress; `oldReads` those of older versions; `ended` lists the writers whose
last draft ended, with the code their next PUBLISH or DISCARD receives (R132, R379). -/
structure KeyEntry where
  state : KeyState
  gen : Nat
  issued : Bool
  freedAt : Nat
  region : Handle
  loc : Nat
  addr : Nat
  len : Nat
  rights : Nat
  drafted : Bool
  scope : Nat
  port : Nat
  fn : Nat
  customer : Nat
  version : Nat
  drafts : List Draft
  relocated : List Unit4K
  ended : List (Writer × Nat)
  accepted : Nat
  revoker : Option Nat
  deriving DecidableEq, Repr

/-- A key index after cold reset (R369). -/
def KeyEntry.init : KeyEntry :=
  { state := .free, gen := 1, issued := false, freedAt := 0, region := 0, loc := 0, addr := 0, len := 0, rights := 0,
    drafted := false, scope := 0, port := 0, fn := 0, customer := 0, version := 0, drafts := [], relocated := [], ended := [],
    accepted := 0, revoker := none }

/-- A node of a prefix tree this device indexes, in its newest version (R382): its block digests, version, shard map, children
count by handle, references and the time it was last unreferenced. `old` are superseded versions still referenced. -/
structure TreeNode where
  handle : Handle
  comp : Nat
  parent : Handle
  digests : List Nat
  version : Nat
  holders : List Nat
  shardBlocks : Nat
  refs : Nat
  freeSince : Nat
  drafts : Nat
  seqNo : Nat
  deriving DecidableEq, Repr

/-- A draft node owned here (R123): its parent, digests, reserver and bound descriptor (R637), its lease, and how far its
PUBLISH is: devices that still owe DISTRIBUTED. -/
structure DraftNode where
  handle : Handle
  comp : Nat
  parent : Handle
  digests : List Nat
  model : Option Handle
  reserver : Nat
  port : Nat
  fn : Nat
  renewed : Nat
  term : Nat
  holds : Nat
  publisher : Option Nat
  baseVersion : Nat
  awaiting : List Nat
  failed : List (Nat × Nat)
  published : Bool
  deriving DecidableEq, Repr

/-- A node version as a holder, owner or partner knows it: descriptor bound here (R637), path blocks, shard map, and the blocks
`[first, first + count)` held here. `digest` is the node's own first digest and `since` the version its parent had when it was published (R131), where this device is its home. -/
structure NodeHold where
  handle : Handle
  comp : Nat
  parent : Handle
  model : Handle
  blocks : Nat
  first : Nat
  count : Nat
  holders : List Nat
  shardBlocks : Nat
  digest : Nat
  since : Nat
  deriving DecidableEq, Repr

/-- A shard map the device received (R110): the node version, its holders and blocks a holder, the blocks of its path, `exact` where PMATCH gave them (a SHARD_MAP message gives
only what the holders can hold at most), and the descriptor of the sequence that matched it. -/
structure ShardMap where
  node : Handle
  holders : List Nat
  shardBlocks : Nat
  matched : Nat
  exact : Bool
  model : Option Handle
  deriving DecidableEq, Repr

/-- A draft that the device holds the lease of, here or elsewhere (R378): the object, its registering device, port, function; of a draft node also the descriptor it is bound to
(R637), the blocks of the path before its own (R123), and whether its owner and mirror have been sent the descriptor. -/
structure LeaseHeld where
  object : Handle
  device : Nat
  port : Nat
  fn : Nat
  model : Option Handle
  base : Nat
  told : Bool
  deriving DecidableEq, Repr

/-- A lookup waiting at the index member for the draft it reserved (R123). -/
structure LookupWait where
  requester : Nat
  comp : Nat
  subject : Handle
  result : MatchResult
  deriving DecidableEq, Repr

/-- A tree change waiting for TREE_ACK (R497): the node, what to answer. -/
structure TreeWait where
  node : Handle
  commit : Option NodeCommit
  answer : Nat
  comp : Nat
  deriving DecidableEq, Repr

/-- Chapter 13's state and the counts of R390; `renewAt` is when this device last sent its lease renewals (R378). -/
structure Rgn where
  keys : Tbl KeyEntry
  freeSeq : Nat
  tree : List TreeNode
  mirrorTree : List TreeNode
  rootVersion : Tbl Nat
  drafts : List DraftNode
  holds : List NodeHold
  maps : List ShardMap
  leases : List LeaseHeld
  endedDrafts : List (Handle × Nat)
  lookups : List LookupWait
  treeWaits : List TreeWait
  invalidCnt : Nat
  revokedCnt : Nat
  boundsCnt : Nat
  rightsCnt : Nat
  publishes : Nat
  conflicts : Nat
  expired : Nat
  retired : Nat
  renewAt : Nat
  deriving DecidableEq, Repr

/-- What a read of another device is for: an RREAD's destination, a staged page (node, layer, index, tier), the previous values of an add with fetch,
a page refetched from its mirror (R346), an input operand of a compute instruction that lies on another device. -/
inductive ReadFor
  | buffer (instr key off : Nat)
  | stage (instr : Nat) (node : Handle) (layer index tier tokens : Nat)
  | refetch (page : Nat)
  | operand (instr place : Nat)
  deriving DecidableEq, Repr

/-- A read sent and not answered (R425, R435, R444): its message number or request tag, the device asked, and what it asked for. `tries` counts the issues of a combinable
one, 0 while it waits to be issued, `due` is when its wait ends (R444); `adds` are the addends of a combinable add; `got` are the pieces that came. -/
structure ReadWait where
  id : Nat
  dst : Nat
  subject : Handle
  cls : Nat
  key : Nat
  off : Nat
  len : Nat
  comb : Bool
  tries : Nat
  due : Nat
  what : ReadFor
  adds : List Nat
  got : List (Nat × List Byte)
  deriving DecidableEq, Repr

/-! ### What every part of the device uses -/

/-- An entry for a host's log ring that an event has made and LOG_ENTRY_WRITE has not yet written (R521 to R523); `port` none is both rings. -/
structure LogEv where
  event : Nat
  code : Nat
  severity : Nat
  queue : Nat
  customer : Nat
  object : Handle
  args : List Nat
  port : Option Nat
  at_ : Nat
  deriving DecidableEq, Repr

/-- An error record (R578); `hold` is HOLD_TIMEOUT when it was captured (R582). -/
structure ErrRec where
  escalated : Bool
  severity : Nat
  own : Nat
  unit_ : Nat
  index : Nat
  code : Nat
  object : Nat
  at_ : Nat
  queue : Nat
  customer : Nat
  cause : Nat
  hold : Nat
  deriving DecidableEq, Repr

/-- Chapter 21's state: the two records, ERR_OVERFLOW, CAUSE of ERR_STATUS, the counts of ERR_CNT, and RESULT of the last dump (R587). -/
structure Err where
  primary : Option ErrRec
  secondary : Option ErrRec
  ovCount : Nat
  ovUnit : Nat
  ovCode : Nat
  cause : Nat
  corrected : Nat
  contained : Nat
  degraded : Nat
  dumpResult : Nat
  deriving DecidableEq, Repr

/-- A trace record on its way to the trace buffer (R526). -/
structure TraceEv where
  point : Nat
  source : Nat
  queue : Nat
  customer : Nat
  payload : List Byte
  deriving DecidableEq, Repr

/-- A composition membership (R478, R486): the map in force, the map of the epoch before, the map this device has voted for.
`slot` is its number n in CMP_MEMBER_n (R499). -/
structure Membership where
  slot : Nat
  map : CompMap
  prev : Option CompMap
  prepared : Option CompMap
  deriving DecidableEq, Repr

/-- A host window (R272). -/
structure HostWindow where
  port : Nat
  addr : Nat
  len : Nat
  retired : Bool
  deriving DecidableEq, Repr

/-- What of the configuration in force the other chapters use (R555, R557, R272, R286). -/
structure Ident where
  device : Nat
  domain : Nat
  partner : Nat
  node : Nat
  nodeDevices : Nat
  nodeIndex : Nat
  ports : Nat
  mirrors : Nat
  fmEndpoint : Nat
  capacityMiB : Nat
  recordMiB : Nat
  regionMiB : Nat
  weightMiB : Nat
  frameMiB : Nat
  pinCeiling : Nat
  windows : List HostWindow
  flash : Bool
  deriving DecidableEq, Repr

/-- A page descriptor issued and not complete (R282, R283): KIND (1 READ to a tile, 3 MOVE between tiers), the instruction, its tile task,
the page, and the frame a MOVE fills. -/
structure Desc where
  id : Nat
  kind : Nat
  instr : Nat
  task : Nat
  page : Nat
  frame : Option Frame
  deriving DecidableEq, Repr

/-! ### Tiles (spec chapter 09) -/

/-- The tile states of R268. -/
inductive TileSt
  | powerGated | clockGated | waking | running | saving | restoring | outOfService
  deriving DecidableEq, Repr

/-- A tile (R265, R268, R269): its state, the task it runs, saves, restores or waits for, the tasks in its save area (R262), the pages left in its page buffers (R257) and its
look-ahead copies (R191), the time it was clock-gated, and whether CPM_GATE_CMD holds it off (R598). -/
structure Tile where
  st : TileSt
  task : Option Nat
  saved : List Nat
  scratch : List Nat
  ahead : List Nat
  since : Nat
  heldOff : Bool
  busyUs : Nat
  saves : Nat
  restores : Nat
  deriving DecidableEq, Repr

/-- A tile after reset (R269). -/
def Tile.init : Tile :=
  { st := .powerGated, task := none, saved := [], scratch := [], ahead := [], since := 0, heldOff := false, busyUs := 0, saves := 0, restores := 0 }

/-- A tile task (R179, R257, R260): its instruction, half, class, customer, pages, live ceiling and live granules, the tile it is on,
and when it became ready. `cross` lets it cross halves (R258). -/
structure Task where
  id : Nat
  instr : Nat
  half : Nat
  cls : Nat
  customer : Nat
  pages : List Nat
  ceiling : Nat
  live : Nat
  tile : Option Nat
  since : Nat
  cross : Bool
  deriving DecidableEq, Repr

/-- A walk that waits for a frame (R282): the pages still to come, each with its task. -/
structure Walk where
  instr : Nat
  todo : List (Nat × Nat)
  deriving DecidableEq, Repr

/-- Chapter 09's state: the spindle table's bank, swap, timing and last check (R249), the time of the last boundary, tiles, tasks, halves out of service and lane groups each
die link has lost (R52). `swap`: 0 none, 2 checked and waiting for entry 0. The entries themselves are registers. -/
structure Til where
  bank : Nat
  swap : Nat
  result : Nat
  failSlot : Nat
  cycleSlots : Nat
  slotLen : Nat
  cur : Nat
  slotAt : Nat
  tiles : Tbl Tile
  tasks : List Task
  nextTask : Nat
  walks : List Walk
  descs : List Desc
  nextDesc : Nat
  halfOut : List Nat
  lanesLost : Tbl Nat
  deriving DecidableEq, Repr

/-! ### Fabric (spec chapters 14 and 15) -/

/-- The port states of R408. -/
inductive PortSt
  | disabled | training | up | relock | stalled | bypassed | failed
  deriving DecidableEq, Repr

/-- One fabric port (R404 to R410, R429): state, role (0 unused, 1 ring west, 2 ring east, 3 trunk), pauses toward and from this device, failed attempts,
the classes congested in its receive buffer, the paused periods running (class, start), the classes released since (class, when), uncorrectable codewords of the last ms, the end of its adaptation
window, and its counters. -/
structure Port where
  st : PortSt
  role : Nat
  xoffIn : Nat
  xoffOut : Nat
  congested : Nat
  lanes : Nat
  lastReason : Nat
  attempts : Nat
  paused : Tbl Nat
  released : Tbl Nat
  badAt : List Nat
  adaptEnd : Nat
  since : Nat
  corrected : Nat
  uncorrectable : Nat
  crcErrors : Nat
  rxDrops : Nat
  wdTrips : Nat
  retrains : Nat
  deriving DecidableEq, Repr

/-- A port before configuration. -/
def Port.init : Port :=
  { st := .disabled, role := 0, xoffIn := 0, xoffOut := 0, congested := 0, lanes := 0, lastReason := 0, attempts := 0, paused := [], released := [], badAt := [],
    adaptEnd := 0, since := 0, corrected := 0, uncorrectable := 0, crcErrors := 0, rxDrops := 0, wdTrips := 0, retrains := 0 }

/-- The XOFFs seen of a device and class (R405, R406): since when the paused period runs, and when one was seen last. -/
structure XoffSeen where
  device : Nat
  cls : Nat
  start : Nat
  last : Nat
  deriving DecidableEq, Repr

/-- The ring (R404 to R418): BYP_EN as driven, the neighbours seen present, counters, XOFFs seen, destinations stalled by direction, sightings of HUNGRY (starved
direction, time), the directions this device is hungry in, the XOFF masks due in a passing slot (direction, mask), the classes congested and when they were last marked in slots, slots held during an adaptation
window, and the slots sent on. Direction 0 is west, out of port 0; 1 is east, out of port 1. -/
structure Ring where
  bypEn : Bool
  nbrE : Bool
  nbrW : Bool
  breaks : Nat
  hopsExpired : Nat
  hungryCnt : Nat
  xoffs : List XoffSeen
  stalled : List (Nat × Nat)
  hungrySeen : List (Nat × Nat)
  hungry : List Nat
  xoffDue : List (Nat × Nat)
  congested : Nat
  xoffAt : Nat
  transit : List (Nat × Slot)
  out : List (Nat × Slot)
  deriving DecidableEq, Repr

/-- A message in the hands of the transport (R434, R436): its packets, how many have a PSN, the instruction waiting for it, the key index it counts in as an
accepted message with the version of the region then (R377), and whether it is the one resend of R488. -/
structure SendMsg where
  id : Nat
  out : OutMsg
  tag : Option Nat
  packets : Nat
  cut : Nat
  holds : Option Nat
  version : Nat
  resent : Bool
  deriving DecidableEq, Repr

/-- A run of packets sent and not acknowledged (R422). `last`: it ends with its message's LAST packet. -/
structure Unacked where
  psn : Nat
  count : Nat
  msg : Nat
  last : Bool
  deriving DecidableEq, Repr

/-- A message arriving in packets (R425, R434, R437): its fields, the OFFSET of its next packet, its code so far, whether its first packet's check refused it, the key
index it is counted in (0 for an internal buffer), the port and function it acts for, the bytes held back (a row begun, or previous values to fetch), and the time of its last packet. -/
structure RxMsg where
  op : Nat
  key : Nat
  first : Nat
  len : Nat
  next : Nat
  code : Nat
  refused : Bool
  index : Nat
  port : Nat
  fn : Nat
  part : List Byte
  lastAt : Nat
  deriving DecidableEq, Repr

/-- A queue pair (R420 to R424). `inc` is the incarnation of the incoming direction; `timer` the moment the retransmit timer or RNR wait ends, `rto` its value, `tries` the tries of packet `tryPsn`;
`owed` and `owedAt` the accepted packets not acknowledged; `port` the trunk port bound (R450), `moveTo` a move under way until `moveBy`, `rekey` that it must still
be rebound under the new key (R454), `sent` the bytes of this window (R453). -/
structure QPair where
  peer : Nat
  cls : Nat
  num : Nat
  inc : Nat
  peerNum : Nat
  peerInc : Nat
  up : Bool
  nextPsn : Nat
  expPsn : Nat
  msgs : List SendMsg
  unacked : List Unacked
  tries : Nat
  tryPsn : Nat
  rto : Nat
  timer : Option Nat
  owed : Nat
  owedAt : Nat
  rx : List RxMsg
  lastUse : Nat
  port : Option Nat
  moveTo : Option Nat
  movedAt : Nat
  moveBy : Nat
  rekey : Bool
  sent : Nat
  deriving DecidableEq, Repr

/-- Frames waiting to leave (R397, R405, R412, R451, R474): a run of packets of a queue pair on a port, with the bytes of each frame, the bytes already laid into ring
slots, and since when they wait. -/
structure Egress where
  port : Nat
  dst : Nat
  cls : Nat
  qp : Nat
  msg : Nat
  count : Nat
  frame : Nat
  laid : Nat
  since : Nat
  deriving DecidableEq, Repr

/-- A frame of the transport itself, as sent (R400, R421, R424, R432). -/
inductive CtlFrame
  | ack (dst qp inc psn code : Nat)
  | nak (dst qp inc psn kind : Nat)
  | connect (dst cls qp inc : Nat)
  | connected (dst cls qp inc : Nat)
  | close (dst cls : Nat)
  deriving DecidableEq, Repr

/-- A requester at a combining point (R447): device, its QP number and incarnation, its tag. -/
structure Joiner where
  device : Nat
  qp : Nat
  inc : Nat
  tag : Nat
  deriving DecidableEq, Repr

/-- A pending read at this device's crossbar (R446, R447): the request, its requester and joiners, whether a response frame of it has left, and, where this device is
the target, the outcome of its check with the key index it is counted in and the version of the region then (R377). -/
structure CombRead where
  id : Nat
  dst : Nat
  subject : Handle
  key : Nat
  off : Nat
  len : Nat
  comp : Nat
  epoch : Nat
  cls : Nat
  first : Joiner
  joiners : List Joiner
  left : Bool
  code : Nat
  bytes : List Byte
  index : Option Nat
  version : Nat
  deriving DecidableEq, Repr

/-- A combinable add frame waiting in the egress queue under a message number (R446, R448). -/
structure CombAdd where
  msg : Nat
  dst : Nat
  key : Nat
  off : Nat
  len : Nat
  comp : Nat
  epoch : Nat
  cls : Nat
  entries : List AddEntry
  deriving DecidableEq, Repr

/-- The record a target keeps of an applied add entry (R448): requester, tag, previous values, when. -/
structure AddRec where
  device : Nat
  tag : Nat
  prev : List Nat
  at_ : Nat
  deriving DecidableEq, Repr

/-- A member of an MCAST in progress (R441, R442): its place in the block, the device, whether its OPEN is answered, its code, how many packets it has acknowledged, and whether that is all. -/
structure McastMember where
  place : Nat
  device : Nat
  opened : Bool
  code : Nat
  upto : Nat
  acked : Bool
  deriving DecidableEq, Repr

/-- An MCAST in progress (R441): instruction, group, first PSN, data and members; `subject` is the draft node of an ingest multicast (R27), 0 for one that names keys. `data`: every OPEN
is answered. Of the stream (R422, R441) `cut` packets have been sent, its timer runs until `due` with the value `rto`, and packet `tryAt` has been tried `tries` times. -/
structure McastSend where
  instr : Nat
  group : Nat
  subject : Handle
  cls : Nat
  inc : Nat
  psn : Nat
  bytes : List Byte
  members : List McastMember
  data : Bool
  cut : Nat
  due : Nat
  rto : Nat
  tries : Nat
  tryAt : Nat
  deriving DecidableEq, Repr

/-- A member's record of a multicast that its OPEN let in (R441): its first PSN, the member's key (or the draft node of an ingest multicast), DEST_OFFSET and LENGTH, the port and
function it acts for, the next PSN, the time of its last packet, and bytes that came and are not yet written. -/
structure McastRx where
  src : Nat
  group : Nat
  inc : Nat
  psn : Nat
  subject : Handle
  key : Nat
  off : Nat
  len : Nat
  port : Nat
  fn : Nat
  next : Nat
  lastAt : Nat
  part : List Byte
  deriving DecidableEq, Repr

/-- Chapters 14 and 15: ports, ring, queue pairs and what waits, the castling and record messages that failed on their way, each with its code (R226), combining, multicast, the flow monitor (R453 to R455) with the ends of its window and of a key replacement (R454), and the counters of R429 to R432. `prevInc` is
the last incarnation used with a peer, `madeAt` when a queue pair of a peer and class (8 × peer + class) was established. -/
structure Fab where
  ports : List Port
  ring : Ring
  qps : List QPair
  prevInc : Tbl Nat
  madeAt : Tbl Nat
  waiting : List SendMsg
  egress : List Egress
  frames : List CtlFrame
  refused : List SendMsg
  failed : List (OutMsg × Nat)
  nextMsg : Nat
  combReads : List CombRead
  combAdds : List CombAdd
  addRecs : List AddRec
  mcasts : List McastSend
  mrx : List McastRx
  mcastPsn : Tbl Nat
  flowKey : W64
  nextKey : Option W64
  flowEvents : Nat
  flowRatio : Nat
  flowMoves : Nat
  hotPort : Nat
  flowEnd : Nat
  keyEnd : Nat
  joined : Nat
  retransmits : Nat
  duplicates : Nat
  staleInc : Nat
  retryExceeded : Nat
  nakSeq : Nat
  nakRnr : Nat
  naks : List (Nat × Nat × Nat)
  discards : Nat
  deriving DecidableEq, Repr

/-! ### Compositions (spec chapter 17) -/

/-- A change of a map that this device leads (R483): the proposing device (0x7FFF: the leader's own map), the devices asked, who voted yes, whether COMMIT has been
sent, who has applied, since when it waits, and whether it was taken over from a lost leader. -/
structure CmpChange where
  map : CompMap
  proposer : Nat
  asked : List Nat
  yes : List Nat
  committed : Bool
  applied : List Nat
  since : Nat
  takeover : Bool
  deriving DecidableEq, Repr

/-- The last BEAT of a device in a composition (R490). -/
structure BeatSeen where
  comp : Nat
  device : Nat
  at_ : Nat
  frames : Nat
  seqs : Nat
  updating : Bool
  deriving DecidableEq, Repr

/-- A yes vote not followed by COMMIT or ABORT (R483): composition, epoch, when. -/
structure Voted where
  comp : Nat
  epoch : Nat
  at_ : Nat
  deriving DecidableEq, Repr

/-- An image being received (R497): sender, purpose, what has come. -/
structure Inbox where
  src : Nat
  purpose : Nat
  items : List MirrorItem
  deriving DecidableEq, Repr

/-- Chapter 17's state: the proposal in progress and CMP_MAP_STATUS, the changes led, maps prepared of compositions not held, votes waiting, beats, devices and when this device last sent its own, devices declared
lost (composition, device), drains running (composition, device, since) and ended, compositions told DRAIN_DONE, images arriving, and the fields of
CMP_RESTORE_STATUS, CMP_MIRROR_STATUS and CMP_MGMT_CNT. -/
structure Cmp where
  busy : Option Nat
  result : Nat
  voter : Nat
  epoch : Nat
  changes : List CmpChange
  joins : List CompMap
  votes : List Voted
  beats : List BeatSeen
  beatAt : Nat
  lost : List (Nat × Nat)
  drains : List (Nat × Nat × Nat)
  drained : List (Nat × Nat)
  told : List Nat
  inbox : List Inbox
  restoreState : Nat
  restoreResult : Nat
  restoreUnits : Nat
  mirrorState : Nat
  mirrorUnits : Nat
  mgmtDiscarded : Nat
  deriving DecidableEq, Repr

/-! ### Memory and its layers (spec chapters 10 and 11) -/

/-- Chapter 10's state: the hot-spot monitor's event (R291) and the end of its window (R289), the rekey (R297: state 0 IDLE, 1 MIGRATING, 2 HOLDOFF; the halves done, the end of HOLDOFF), scrub counts (R300),
corrected sectors still to be rewritten (R329), each channel's last retrain (R301), and the bytes read across halves in 64-byte units (R51). -/
structure Memc where
  hotEvents : Nat
  hotChannel : Nat
  hotRatio : Nat
  hotEnd : Nat
  rekey : Nat
  nextKey : Option W64
  fence0 : Nat
  fence1 : Nat
  halvesDone : List Nat
  rekeyReason : Nat
  holdUntil : Nat
  scrubCorrected : Nat
  scrubBad : Nat
  scrubPasses : Nat
  rewrites : Nat
  retrained : Tbl Nat
  xhalf0 : Nat
  xhalf1 : Nat
  deriving DecidableEq, Repr

/-- A table slot (R317): 0 FREE, 1 LOADING, 2 SELECTED, 3 RETIRING; its generation, the TABLE_ID, code lengths and run lengths it holds. -/
structure TableSlot where
  st : Nat
  gen : Nat
  id : Nat
  lens : List Nat
  runs : List Nat
  deriving DecidableEq, Repr

/-- A slot that holds nothing. -/
def TableSlot.free : TableSlot := { st := 0, gen := 0, id := 0, lens := [], runs := [] }

/-- The block tags of a page (R309): of its stacks copy and of its copies in lower tiers, empty where it has none. -/
structure PageTags where
  number : Nat
  up : List Nat
  low : List Nat
  deriving DecidableEq, Repr

/-- Chapter 11's state: table slots, the generation counter, the last load's result (R330), a load that waits for firmware (R333), the last key command's result (R332), the key material of each slot, block
tags of pages, region carve and weights (zero form is not listed), and whether the raw fallback of R308 has been logged. -/
structure Cx where
  slots : List TableSlot
  genCounter : Nat
  loadResult : Nat
  loadSlot : Nat
  loadGen : Nat
  loadWaiting : Option W64
  keyResult : Nat
  keys : Tbl (List W64)
  pageTags : List PageTags
  carveTags : Tbl Nat
  weightTags : Tbl Nat
  rawNoted : Bool
  deriving DecidableEq, Repr

/-! ### Flash (spec chapter 12) -/

/-- A flash geometry record (R335, R559): its bytes, and the fields the device uses. `bad` are the addresses of the initial bad blocks. -/
structure FlashGeom where
  raw : List Byte
  channels : Nat
  ces : List Nat
  luns : Nat
  planes : Nat
  blocks : Nat
  pages : Nat
  rated : Nat
  metaBlocks : Nat
  tBusy : Nat
  bad : List Nat
  deriving DecidableEq, Repr

/-- A block's record (R347): STATE, program/erase count, reads since erase, and sectors written or padded. -/
structure FlBlock where
  st : Nat
  pe : Nat
  reads : Nat
  used : Nat
  deriving DecidableEq, Repr

/-- A block no record lists: free, and erased before its first use (R359). -/
def FlBlock.init : FlBlock := { st := 1, pe := 0, reads := 0, used := 0 }

/-- A flash frame (R341, R342): KIND, what it is of (a page NUMBER, a map-page index, the node handle of a shard record), the page it is a copy of, start sector and LENGTH, its
former location until the new one is journaled (R368), and how far it is: 0 being programmed, 1 programmed, 2 mapped, 3 MISSING. -/
structure FlFrame where
  kind : Nat
  about : Nat
  page : Option Page
  start : Nat
  len : Nat
  st : Nat
  prev : Option (Nat × Nat)
  deriving DecidableEq, Repr

/-- A journal record (R356): SEQ, TYPE, its first argument, and the entry, block record or shard it is about. -/
structure JRec where
  seq : Nat
  type : Nat
  arg : Nat
  frame : Option FlFrame
  block : Option FlBlock
  hold : Option NodeHold
  deriving DecidableEq, Repr

/-- A warm-start image (R361, R570): the prefix-node versions held, their pages in the stacks, the trees, the weight pool, the tables its blocks name, and its manifest: DEVICE,
the MEMORY_CARVE body, and a verifier for each key slot. -/
structure WarmImage where
  holds : List NodeHold
  pages : List Page
  tree : List TreeNode
  mirrorTree : List TreeNode
  weights : List (Nat × Mem)
  tableIds : List Nat
  device : Nat
  carve : List Byte
  keys : List (Nat × Nat)
  deriving DecidableEq, Repr

/-- A checkpoint copy (R355): SEQUENCE, JOURNAL_SEQ, the geometry record it was made under, map, block table, shard list, and the warm-start image it names with its WARM_FFN. -/
structure FlCopy where
  seq : Nat
  journalSeq : Nat
  geom : List Byte
  frames : Tbl FlFrame
  blocks : Tbl FlBlock
  shards : List NodeHold
  warm : Option WarmImage
  warmFfn : Nat
  deriving DecidableEq, Repr

/-- Chapter 12's state. `opens` names the open block of a plane; `next` counts frames placed; `jq` are records to be programmed, `journal` those programmed since the newest
checkpoint; `ckptRecords` is CKPT_RECORDS as of the last enable (R366), `warmFound` the warm-start image that recovery found (R361); `erasing` are blocks being erased, `refresh` those queued (R345), `toErase` frames a key sweep freed and `erasePending` their blocks (R362); `resets` the last reset
of a target. `frames` is keyed by FFN, map pages (KIND 2) by 2^36 plus their index; `dirty` are map pages that have changed since they were written (R357). `marked` are blocks whose factory
marker reads bad (R347), a property of the attached NAND. `patrolAt` is when the last pass of patrol began, `patrolled` the last block it took in order (none between passes), `patrolling`
the block being read, and `overread` are blocks past RD_LIMIT that patrol has read ahead of the order (R352). Journal and copies survive power loss. -/
structure Fl where
  tier : Nat
  geom : Option FlashGeom
  blocks : Tbl FlBlock
  opens : Tbl Nat
  frames : Tbl FlFrame
  next : Nat
  jq : List JRec
  journal : List JRec
  jseq : Nat
  copyA : Option FlCopy
  copyB : Option FlCopy
  ckptAt : Nat
  ckptRecords : Nat
  warmFound : Option WarmImage
  erasing : List Nat
  refresh : List Nat
  toErase : List Nat
  erasePending : List Nat
  shards : List NodeHold
  targetsOut : List Nat
  resets : Tbl Nat
  busFails : Tbl Nat
  retrained : Tbl Nat
  reason : Nat
  failCh : Nat
  failCe : Nat
  retired : Nat
  uncorrectable : Nat
  retries : Nat
  soft : Nat
  refreshes : Nat
  passes : Nat
  dirty : List Nat
  marked : List Nat
  patrolAt : Nat
  patrolled : Option Nat
  patrolling : Option Nat
  overread : List Nat
  deriving DecidableEq, Repr

/-! ### The part, firmware, hosts and trace (spec chapters 00, 18 and 19) -/

/-- What is fused or built into the part (R2, R3, R504, R546, R623): VARIANT, stepping letter and digit, serial number, key hashes by index, minimum SVN, revoked key
indexes, and the core-voltage target in mV. -/
structure Part where
  variant : Nat
  letter : Nat
  digit : Nat
  serial : Nat
  keyHash : List (List Byte)
  minSvn : Nat
  revoked : List Nat
  avsTarget : Nat
  deriving DecidableEq, Repr

/-- An image slot (R503, R507): 0 EMPTY, 2 VERIFIED, 3 ACTIVE, and what its header says. -/
structure FwSlot where
  st : Nat
  version : Nat
  svn : Nat
  keyIndex : Nat
  tenonMin : Nat
  tenonMax : Nat
  tenonOut : Nat
  image : List Byte
  deriving DecidableEq, Repr

/-- An empty image slot. -/
def FwSlot.empty : FwSlot := { st := 0, version := 0, svn := 0, keyIndex := 0, tenonMin := 0, tenonMax := 0, tenonOut := 0, image := [] }

/-- The header of the tenon block (R509), without its magic and CRCs; `sealed` is STATE SEALED, else ADOPTED. -/
structure Tenon where
  version : Nat
  sealed : Bool
  handoff : Nat
  fromVersion : Nat
  toVersion : Nat
  deriving DecidableEq, Repr

/-- Firmware's state (R501 to R514): slots, ACTIVE, RESULT of FWM_STATUS, TARGET of FWM_CTRL, the handoff in progress (its target and since when), the tenon block, and
handoffs since cold reset. RUN is `State.fwRun`. -/
structure Fw where
  slots : List FwSlot
  active : Nat
  result : Nat
  target : Nat
  goal : Nat
  since : Nat
  tenon : Option Tenon
  handoffs : Nat
  deriving DecidableEq, Repr

/-- A log ring with its backlog (R521 to R524): HEAD, TAIL, the next SEQ, entries waiting, LOST, and the entries lost since the last LOG_LOST entry with the times of the
first and the last. -/
structure LogRing where
  head : Nat
  tail : Nat
  seq : Nat
  backlog : List LogEv
  lost : Nat
  lostNew : Nat
  lostFirst : Nat
  lostLast : Nat
  deriving DecidableEq, Repr

/-- A log ring after cold reset. -/
def LogRing.init : LogRing := { head := 0, tail := 0, seq := 1, backlog := [], lost := 0, lostNew := 0, lostFirst := 0, lostLast := 0 }

/-- A PCIe port and its host (R516 to R520, R530 to R543): attachment state (0 DETACHED, 1 ATTACHED, 2 ORPHANED), the last heartbeat and the limit in force from it, the
orphaning and its lease, the log ring, the mailbox's result and response, virtual functions enabled, their apertures, the BAR2 size and discards, function resets in progress
(function, since), whether the link is up, its width and rate in units of 0.1 GT/s. -/
structure HostPort where
  att : Nat
  hb : W64
  hbAt : Nat
  limit : Nat
  reason : Nat
  orphanAt : Nat
  lease : Nat
  log : LogRing
  mboxResult : Nat
  mboxRsp : List Byte
  vfs : Nat
  apertures : Tbl (Nat × Nat)
  bar2Log2 : Nat
  discarded : Nat
  resets : Tbl Nat
  link : Bool
  width : Nat
  rate : Nat
  deriving DecidableEq, Repr

/-- A port after cold reset. -/
def HostPort.init : HostPort :=
  { att := 0, hb := 0, hbAt := 0, limit := 0, reason := 0, orphanAt := 0, lease := 0, log := LogRing.init, mboxResult := 0, mboxRsp := [], vfs := 0, apertures := [],
    bar2Log2 := 34, discarded := 0, resets := [], link := false, width := 0, rate := 0 }

/-- The trace buffer (R527, R528): HEAD, TAIL, DROPPED, and the records written in the current second. -/
structure Trc where
  head : Nat
  tail : Nat
  dropped : Nat
  second : Nat
  count : Nat
  deriving DecidableEq, Repr

/-! ### Configuration (spec chapter 20) -/

/-- A copy slot (R560): 0 EMPTY, 2 VALID, 3 INVALID, and its bytes. -/
structure CfgCopy where
  st : Nat
  bytes : List Byte
  deriving DecidableEq, Repr

/-- Configuration (R560 to R571): the copies, the copy in force (0 none, 1 A, 2 B) with its bytes and SEQUENCE, CFG_LAST_SEQ, REASON, RECORD and MEMBER of CFG_STATUS, the
copy a passed check has chosen, whether the enable is a replacing one, a check that waits (R574: the STATE it was asked in, REPLACE, the flash target that does not agree), and
whether INSERT has still to set BYP_EN_REQ (R567). STATE is `State.cfgState`. -/
structure Cfg where
  copyA : CfgCopy
  copyB : CfgCopy
  used : Nat
  force : List Byte
  seq : Nat
  lastSeq : Nat
  reason : Nat
  record : Nat
  member : Bool
  chosen : Nat
  replacing : Bool
  waiting : Option (Nat × Bool × Option (Nat × Nat))
  insert : Bool
  deriving DecidableEq, Repr

/-! ### Clocks, power and sideband (spec chapters 22 and 23) -/

/-- A sideband input (R607 to R609): filtered and effective levels (true: asserted), the last recognised event, OVERRUN as software sees it, whether an overrun holds the
input asserted, since when it is filtered-deasserted and effectively asserted, the stuck limit of this assertion in s, and STUCK. -/
structure SbIn where
  filtered : Bool
  effective : Bool
  last : Option Nat
  overrun : Bool
  held : Bool
  offSince : Nat
  onSince : Nat
  limit : Nat
  stuck : Bool
  deriving DecidableEq, Repr

/-- An input that is not asserted. -/
def SbIn.off : SbIn :=
  { filtered := false, effective := false, last := none, overrun := false, held := false, offSince := 0, onSince := 0, limit := 0, stuck := false }

/-- A step of the ladder (R601, R602): in force since, and since when its condition has ceased. -/
structure Step where
  on : Bool
  at_ : Nat
  ceased : Option Nat
  deriving DecidableEq, Repr

/-- A step that is not in force. -/
def Step.off : Step := { on := false, at_ := 0, ceased := none }

/-- Telemetry (R610 to R612): HEAD, TAIL, the last SEQ, DROPPED, bytes sent in the last second by path (time, path, bytes; path 0 is the buffer, 1 the fabric), and the sensors
as last sampled and when. -/
structure Telem where
  head : Nat
  tail : Nat
  seq : Nat
  dropped : Nat
  sent : List (Nat × Nat × Nat)
  last : List Byte
  lastAt : Nat
  deriving DecidableEq, Repr

/-- Chapters 22 and 23: start-up as far as it has come (R567: the always-on domain, the crystal, the boot ROM, supply groups 2 to 5, stack training), references present (R593)
and PLLs coasting, clock limits in units of 100 MHz (R556), gates held (R598), the steps below trip, CPM_LADDER_STATUS (R616), trip causes that hold now and since when none
does (R605), when the last step cleared (R513), inputs, telemetry, the core voltage (R623: mV driven, whether a target waits for its acknowledgement and since when, whether one timed out),
units in a low-power state (R600), the TAP's instruction (R632), and answers of the management core (R544). -/
structure Cpm where
  aon : Bool
  osc : Bool
  oscReason : Nat
  rom : Bool
  supplies : Bool
  trained : Bool
  ref100 : Bool
  fabRef : Nat
  coast : List Nat
  tileMax : Nat
  hubMax : Nat
  gateResult : Nat
  held : List Nat
  notice : Step
  throttle : Step
  brakeOn : Bool
  notices : Nat
  throttles : Nat
  brakes : Nat
  cause : Nat
  tripNow : Nat
  tripGone : Nat
  clearAt : Nat
  sb : List SbIn
  telem : Telem
  avs : Nat
  avsDue : Option Nat
  avsAt : Nat
  avsLate : Bool
  idle : List (Nat × Nat)
  jtag : Nat
  mgmt : List (Nat × List Byte)
  deriving DecidableEq, Repr

/-- The machine. -/
structure State where
  pers : Option Pers
  ident : Ident
  now : Nat
  free : Nat
  tz : Tz
  adm : Adm
  pages : List Page
  models : List Model
  own : Own
  rgn : Rgn
  comps : List Membership
  cmp : Cmp
  regs : Tbl W64
  dev : Mem
  host : Mem
  sent : List OutMsg
  fab : Fab
  err : Err
  logQ : List LogEv
  traceQ : List TraceEv
  reads : List ReadWait
  nextRead : Nat
  vecPending : List (Nat × Nat)
  vecOpen : List (Nat × Nat)
  vecSent : List (Nat × Nat)
  notify : List (Nat × Nat)
  hashKey : W64
  mc : Memc
  cx : Cx
  ladder : Nat
  keySlots : Tbl Nat
  hostTraffic : List (Nat × Nat × Nat)
  fl : Fl
  til : Til
  halted : Bool
  tripped : Bool
  part : Part
  fw : Fw
  fwRun : Nat
  hosts : List HostPort
  bar2Out : List Byte
  trc : Trc
  cfg : Cfg
  cfgState : Nat
  cpm : Cpm
  pending : List Instr
  deriving DecidableEq, Repr

/-- The ports that are ORPHANED (R516). -/
def State.orphans (s : State) : List Nat := (List.range 2).filter (fun p => match s.hosts[p]? with | some x => x.att == 2 | none => false)

/-- A function is being reset (R541): nothing is written to its I/O addresses. -/
def State.resetting (s : State) (fid : Nat) : Bool := match s.hosts[fid / 64]? with | some x => (x.resets.find (fid % 64)).isSome | none => false

/-! ### Reset (R16, R540) -/

/-- The machine right after reset: power on, every register at its Reset column, nothing configured, no firmware, memory without a listed byte. Values the spec does not give
(DESIGN CHOICE): the part's own data and the counters of the model (`free`, `nextId` and their like). -/
def State.reset : State :=
  { pers := none
    ident := {
      device := 0x7FFF, domain := 0, partner := 0x7FFF, node := 0, nodeDevices := 1, nodeIndex := 0, ports := 0, mirrors := 0, fmEndpoint := 0, capacityMiB := 0,
      recordMiB := 0, regionMiB := 0, weightMiB := 0, frameMiB := 0, pinCeiling := 0, windows := [], flash := false }
    now := 0
    free := 0
    tz := { queues := [], started := [], counters := [], splits := [], nextId := 1, seqNo := 0 }
    adm := { customers := [], classVt := [0, 0, 0, 0], policed := 0, exhausted := 0, closed := 0, shape := [] }
    pages := []
    models := []
    own := {
      homes := [], mirrors := [], copies := [], nextNum := [], castlesOut := 0, castlesIn := 0, rulings := 0, lostCount := 0, preemptions := 0, resumes := 0,
      releasing := [], preempting := [], preemptStop := false, short := false }
    rgn := {
      keys := [], freeSeq := 0, tree := [], mirrorTree := [], rootVersion := [], drafts := [], holds := [], maps := [], leases := [], endedDrafts := [], lookups := [],
      treeWaits := [], invalidCnt := 0, revokedCnt := 0, boundsCnt := 0, rightsCnt := 0, publishes := 0, conflicts := 0, expired := 0, retired := 0, renewAt := 0 }
    comps := []
    cmp := {
      busy := none, result := 0, voter := 0x7FFF, epoch := 0, changes := [], joins := [], votes := [], beats := [], beatAt := 0, lost := [], drains := [], drained := [], told := [],
      inbox := [], restoreState := 0, restoreResult := 0, restoreUnits := 0, mirrorState := 0, mirrorUnits := 0, mgmtDiscarded := 0 }
    regs := []
    dev := []
    host := []
    sent := []
    fab := {
      ports := List.replicate 8 Port.init
      ring := {
        bypEn := false, nbrE := false, nbrW := false, breaks := 0, hopsExpired := 0, hungryCnt := 0, xoffs := [], stalled := [], hungrySeen := [], hungry := [], xoffDue := [],
        congested := 0, xoffAt := 0, transit := [], out := [] }
      qps := [], prevInc := [], madeAt := [], waiting := [], egress := [], frames := [], refused := [], failed := [], nextMsg := 1, combReads := [], combAdds := [], addRecs := [],
      mcasts := [], mrx := [], mcastPsn := [], flowKey := 0, nextKey := none, flowEvents := 0, flowRatio := 0, flowMoves := 0, hotPort := 0, flowEnd := 1000, keyEnd := 0, joined := 0, retransmits := 0,
      duplicates := 0, staleInc := 0, retryExceeded := 0, nakSeq := 0, nakRnr := 0, naks := [], discards := 0 }
    err := { primary := none, secondary := none, ovCount := 0, ovUnit := 0, ovCode := 0, cause := 0, corrected := 0, contained := 0, degraded := 0, dumpResult := 0 }
    logQ := []
    traceQ := []
    reads := []
    nextRead := 1
    vecPending := []
    vecOpen := []
    vecSent := []
    notify := []
    hashKey := 0
    mc := {
      hotEvents := 0, hotChannel := 0, hotRatio := 0, hotEnd := 100000, rekey := 0, nextKey := none, fence0 := 0, fence1 := 0, halvesDone := [], rekeyReason := 0, holdUntil := 0,
      scrubCorrected := 0, scrubBad := 0, scrubPasses := 0, rewrites := 0, retrained := [], xhalf0 := 0, xhalf1 := 0 }
    cx := {
      slots := List.replicate 4 TableSlot.free, genCounter := 0, loadResult := 0, loadSlot := 0, loadGen := 0, loadWaiting := none, keyResult := 0, keys := [], pageTags := [], carveTags := [],
      weightTags := [], rawNoted := false }
    ladder := 0
    keySlots := []
    hostTraffic := []
    fl := {
      tier := 0, geom := none, blocks := [], opens := [], frames := [], next := 0, jq := [], journal := [], jseq := 0, copyA := none, copyB := none, ckptAt := 0,
      ckptRecords := 0x14, warmFound := none, erasing := [], refresh := [], toErase := [], erasePending := [], shards := [], targetsOut := [], resets := [], busFails := [],
      retrained := [], reason := 0, failCh := 0, failCe := 0, retired := 0, uncorrectable := 0, retries := 0, soft := 0, refreshes := 0, passes := 0, dirty := [], marked := [],
      patrolAt := 0, patrolled := none, patrolling := none, overread := [] }
    til := {
      bank := 0, swap := 0, result := 0, failSlot := 0, cycleSlots := 0x400, slotLen := 0x0F, cur := 0, slotAt := 0, tiles := [], tasks := [], nextTask := 1, walks := [],
      descs := [], nextDesc := 1, halfOut := [], lanesLost := [] }
    halted := false
    tripped := false
    part := { variant := 1, letter := 0x41, digit := 0x31, serial := 0, keyHash := List.replicate 4 [], minSvn := 0, revoked := [], avsTarget := 750 }
    fw := { slots := List.replicate 2 FwSlot.empty, active := 0, result := 0, target := 0, goal := 0, since := 0, tenon := none, handoffs := 0 }
    fwRun := 0
    hosts := List.replicate 2 HostPort.init
    bar2Out := []
    trc := { head := 0, tail := 0, dropped := 0, second := 0, count := 0 }
    cfg := {
      copyA := { st := 0, bytes := [] }, copyB := { st := 0, bytes := [] }, used := 0, force := [], seq := 0, lastSeq := 0, reason := 0, record := 0xFFFF, member := false,
      chosen := 0, replacing := false, waiting := none, insert := false }
    cfgState := 0
    cpm := {
      aon := false, osc := false, oscReason := 0, rom := false, supplies := false, trained := false, ref100 := false, fabRef := 0, coast := [], tileMax := 20, hubMax := 16,
      gateResult := 0, held := [], notice := Step.off, throttle := Step.off, brakeOn := false, notices := 0, throttles := 0, brakes := 0, cause := 0, tripNow := 0,
      tripGone := 0, clearAt := 0, sb := List.replicate 6 SbIn.off
      telem := { head := 0, tail := 0, seq := 0, dropped := 0, sent := [], last := [], lastAt := 0 }
      avs := 850, avsDue := none, avsAt := 0, avsLate := false, idle := [], jtag := 1, mgmt := [] }
    pending := [] }

/-- The faults. The spec lets no command stop the block: an access outside the carve or to an unassigned offset reads 0 and discards (R13, R534), and an error is a state (R576). -/
inductive Fault
  /-- an access to an address the spec says does not exist; no meaning raises it, since R13 and R534 give such accesses an effect (safe) -/
  | absentAddress (addr : Nat)
  deriving DecidableEq, Repr

/-- The refusals: no command is refused. -/
inductive Refusal
  /-- the command's meaning is not written (raised by Dispatch only; safe) -/
  | notModelled (mnemonic : String)
  deriving DecidableEq, Repr

end Sys2Proof.Machine
end

