-- ==== Sys2Proof/Machine/Link.lean ====
section
/-!
DEFINITION. The sending side of the fabric (spec chapter 14, R398 to R436; R450, R474): message lengths, ports, routes, the flow hash, queue pairs and the window,
and what leaves a port. Ops hands every message to it.
-/

namespace Sys2Proof.Machine

open Sys2Proof

/-- Body bytes of an INDEX_COMMIT (R388). -/
def commitBytes (c : NodeCommit) : Nat := 32 + ceilDiv (2 * c.holders.length) 8 * 8 + 16 * c.digests.length

/-- Bytes of a record (R213). -/
def recordBytes (r : SeqRecord) : Nat := 256 + ceilDiv (4 * r.layers) 64 * 64 + 8 * r.pages.flatten.length

/-- Bytes of a composition map (R478 to R480). -/
def mapBytes (m : CompMap) : Nat := 64 + 16 * m.members.length + 16 * m.rings.length + 8 * m.departed.length

/-- Bytes of an item of a packed image: a page as its plaintext, anything else in whole 4 KiB blocks. -/
def itemBytes : MirrorItem → Nat
  | .page _ _ _ _ bs => bs.length
  | .record r => ceilDiv (recordBytes r) 4096 * 4096
  | _ => 4096

/-- Bytes of a packed image (R322): header, index and data. -/
def imageBytes (items : List MirrorItem) : Nat := 256 + items.foldl (fun n i => n + 16 + itemBytes i) 0

/-- MSG_LEN of a message (R399, R401): for a CONTROL message 16 bytes and its body. -/
def msgBytes : Msg → Nat
  | .offer _ _ _ _ _ d => 104 + recordBytes d
  | .decline _ _ => 22
  | .pull _ _ _ => 32
  | .page _ _ _ bs => 40 + bs.length
  | .accept _ es => 24 + 8 * es.length
  | .abort _ _ => 22
  | .commit _ _ es => 32 + 8 * es.length
  | .committed _ _ _ => 32
  | .take _ => 20
  | .taken _ => 20
  | .ask _ _ _ _ es => 32 + 8 * es.length
  | .hold _ => 20
  | .ruling _ _ _ => 24
  | .entries _ _ _ _ _ items => 32 + 16 * items.length
  | .entriesAck _ _ _ => 32
  | .release _ => 20
  | .released _ _ => 22
  | .recordMsg _ d => 24 + recordBytes d
  | .recordAck _ _ => 32
  | .recordDelete _ => 24
  | .treeMsg _ c _ => 24 + (match c with | some c => commitBytes c | none => 4)
  | .treeAck _ => 18
  | .image _ _ items => 32 + imageBytes items
  | .imageDone _ _ _ => 36
  | .imageAck _ => 18
  | .renew items => 20 + 16 * items.length
  | .lookup _ _ _ ds => 24 + 16 * ds.length
  | .lookupResult _ _ => 152
  | .reserve _ ds => 24 + 16 * ds.length
  | .reserved _ _ => 32
  | .shardMapReq => 16
  | .shardMap _ hs _ => 24 + 2 * hs.length
  | .ref _ => 20
  | .distribute _ _ _ bs => 32 + bs.length
  | .descriptor _ => 32 + 64
  | .share _ _ _ => 32
  | .distributed _ => 18
  | .indexCommit c => 16 + commitBytes c
  | .indexCommitted _ _ => 32
  | .retire => 16
  | .write _ _ _ _ bs => bs.length
  | .readReq _ _ _ _ _ => 0
  | .readResp _ _ bs => bs.length
  | .combResp _ _ _ _ bs => bs.length
  | .combAdd _ _ es => es.foldl (fun n e => n + 8 + 8 * e.vals.length) 0
  | .combAddResp _ es => es.foldl (fun n e => n + 8 + 8 * e.vals.length) 0
  | .reduce _ _ _ _ _ _ _ _ _ _ bs => bs.length
  | .submit _ _ _ _ _ blk => 32 + blk.length
  | .complete _ _ _ _ => 0
  | .signal _ _ _ _ => 16
  | .mcastOpen _ _ _ _ _ _ _ => 40
  | .mcastData _ _ bs => bs.length
  | .propose m => 16 + mapBytes m
  | .prepare m => 16 + mapBytes m
  | .vote _ _ => 24
  | .mapCommit _ => 20
  | .mapAbort _ _ => 24
  | .applied _ => 20
  | .beat _ _ _ => 32
  | .ringMove _ _ => 20
  | .restoreReq _ => 18
  | .drainDone => 16
  | .result _ _ _ => 24
  | .datagram bs => bs.length

/-- Packets of a message (R434). -/
def packetsOf (m : Msg) : Nat := max 1 (ceilDiv (msgBytes m) 4096)

/-- Bytes of a frame with `n` payload bytes (R398). -/
def frameBytesOf (n : Nat) : Nat := ceilDiv (44 + n) 8 * 8

/-- `mix` of R285 on 64-bit words. -/
def mix (x : W64) : W64 :=
  let x := x ^^^ (x >>> 31)
  let x := x * 0x9e3779b97f4a7c15
  let x := x ^^^ (x >>> 29)
  let x := x * 0xd1b54a32d192ed03
  x ^^^ (x >>> 32)

/-! ### Ports and routes -/

/-- A port. -/
def getP (s : State) (p : Nat) : Port := s.fab.ports.getD p Port.init

/-- Change a port. -/
def modP (s : State) (p : Nat) (f : Port → Port) : State :=
  { s with fab := { s.fab with ports := s.fab.ports.zipIdx.map (fun x => if x.2 = p then f x.1 else x.1) } }

/-- Whether a port is one of the ring's (R429). -/
def Port.onRing (p : Port) : Bool := p.role == 1 || p.role == 2

/-- FAB_RING_CTRL (R430). -/
def ringCtrl (s : State) : W64 := s.regs.get 0 0x501000
/-- Positions of the ring, LENGTH + 1 (R413). -/
def ringPositions (s : State) : Nat := fieldOf (ringCtrl s) 41 32 + 1
/-- RMA_XPT_CTRL (R432). -/
def xptCtrl (s : State) : W64 := s.regs.get 0x0000001410000A10 0x600000
/-- RTO in µs (R432). -/
def rtoOf (s : State) : Nat := fieldOf (xptCtrl s) 47 32
/-- WINDOW in packets (R432). -/
def windowOf (s : State) : Nat := fieldOf (xptCtrl s) 28 16
/-- FAB_ROUTE of a device (R431). -/
def routeOf (s : State) (d : Nat) : W64 := if d = 0x7FFF then 0 else s.regs.get 0 (0x580000 + 8 * d)

/-- Whether a ring direction may carry frames to a device: its port is UP and the destination not stalled there (R406, R419). -/
def ringOpen (s : State) (dir d : Nat) : Bool :=
  decide ((getP s dir).st = .up) && (getP s dir).onRing && !(s.fab.ring.stalled.contains (dir, d))

/-- The direction a route prefers (R419, R431): DIR 1 east, 2 west, 0 the shorter way, east on a tie. -/
def ringFirst (s : State) (r : W64) : Nat :=
  match fieldOf r 1 0 with
  | 1 => 1
  | 2 => 0
  | _ => if fieldOf r 25 16 ≤ ringPositions s - fieldOf r 25 16 then 1 else 0

/-- Trunk ports of a route entry that are UP (R419, R450). -/
def trunkSet (s : State) (r : W64) : List Nat :=
  (List.range 8).filter (fun k => 2 ≤ k && bitOf r (8 + k) && decide ((getP s k).st = .up))

/-- The trunk port the flow hash binds (R450). -/
def hashPort (key : W64) (set : List Nat) (d cls : Nat) : Option Nat :=
  match set with
  | [] => none
  | p :: _ => some (set.getD ((mix (key ^^^ BitVec.ofNat 64 (d * 256 + cls))).toNat % set.length) p)

/-- The key that binds new queue pairs (R450, R454): the next one while a replacement is in progress. -/
def flowKeyNow (s : State) : W64 := s.fab.nextKey.getD s.fab.flowKey

/-- The port a message to a device leaves by (R419), `bound` the trunk port of its queue pair while that port serves. -/
def pathOf (s : State) (d cls : Nat) (bound : Option Nat) : Option Nat :=
  let r := routeOf s d
  let onRing : Bool := fieldOf r 25 16 != 0
  let set := trunkSet s r
  let trunk := match bound with
    | some p => if set.contains p then some p else hashPort (flowKeyNow s) set d cls
    | none => hashPort (flowKeyNow s) set d cls
  let dir := ringFirst s r
  let ring := if onRing then (if ringOpen s dir d then some dir else if ringOpen s (1 - dir) d then some (1 - dir) else none) else none
  if bitOf r 2 ∧ onRing = true then (match ring with | some p => some p | none => trunk)
  else (match trunk with | some p => some p | none => ring)

/-! ### What leaves a port -/

/-- FAB_SHAPE of a port and class (R475). -/
def shapeReg (s : State) (p t : Nat) : W64 := s.regs.get 0x000000400000FFFF (0x500800 + 0x40 * p + 8 * t)

/-- OVERHEAD of FAB_SHAPE_CTRL (R476). -/
def shapeOverhead (s : State) : Nat := fieldOf (s.regs.get 0x18 0x500A00) 7 0

/-- Whether a class's bucket on a port lets a frame start (R474). -/
def shapeOpen (s : State) (p t : Nat) : Bool :=
  fieldOf (shapeReg s p t) 15 0 == 0xFFFF || decide (0 < s.adm.shape.get 0 (8 * p + t))

/-- Take the shaped length of frames from a bucket (R474). -/
def shapeTake (s : State) (p t bytes : Nat) : State :=
  if fieldOf (shapeReg s p t) 15 0 = 0xFFFF then s
  else { s with adm := { s.adm with shape := s.adm.shape.set (8 * p + t) (s.adm.shape.get 0 (8 * p + t) - (bytes : Int)) } }

/-- Whether a trunk port may start a frame of a class (R405, R410, R474). -/
def mayStart (s : State) (p cls : Nat) : Bool :=
  let P := getP s p
  decide (P.st = .up) && !(natBit P.xoffIn cls) && decide (P.adaptEnd ≤ s.now) && shapeOpen s p cls

/-- Change the queue pairs that a test accepts. -/
def modQp (s : State) (p : QPair → Bool) (f : QPair → QPair) : State := { s with fab := { s.fab with qps := mapIf p f s.fab.qps } }

/-- The queue pair with a peer in a class. -/
def findQp (s : State) (peer cls : Nat) : Option QPair := s.fab.qps.find? (fun q => q.peer == peer && q.cls == cls)

/-- The queue of a port after one frame of its first run in a class has left (R451): the queue pair of that frame goes behind the others of the class. -/
def turned (l : List Egress) (e : Egress) : List Egress :=
  let mine := fun (y : Egress) => y.port == e.port && y.cls == e.cls && y.qp == e.qp && y.dst == e.dst
  let rest := if 1 < e.count then [{ e with count := e.count - 1 }] else []
  l.filter (fun y => !(mine y)) ++ rest ++ (l.erase e).filter mine

/-- One turn of a trunk port in a class (R405, R451, R474): one frame of the queue pair whose turn it is, where the class may start one. -/
def portTurn (s : State) (p c : Nat) : State :=
  match s.fab.egress.find? (fun e => e.port == p && e.cls == c) with
  | none => s
  | some e =>
    if (getP s p).onRing ∨ mayStart s p c = false then s
    else shapeTake { s with fab := { s.fab with egress := turned s.fab.egress e } } p c (e.frame + shapeOverhead s)

/-- Turns of a port in a class, as many as there are frames. -/
def portTurns (p c : Nat) : Nat → State → State
  | 0, s => s
  | n + 1, s => portTurns p c n (portTurn s p c)

/-- Frames that wait on a port in a class. -/
def framesOn (s : State) (p c : Nat) : Nat := s.fab.egress.foldl (fun n e => if e.port = p ∧ e.cls = c then n + e.count else n) 0

/-- Frames leave a trunk port, or wait in its queue; on the ring they wait for an empty slot (R412). -/
def launch (s : State) (e : Egress) : State :=
  let s := modQp s (fun q => q.num == e.qp && q.peer == e.dst) (fun q => { q with sent := q.sent + e.count * e.frame })
  let s := { s with fab := { s.fab with egress := s.fab.egress ++ [e] } }
  portTurns e.port e.cls (framesOn s e.port e.cls) s

/-- Let out what trunk ports held, the classes of a port in their strict order (R402, R405, R451). -/
def release (s : State) : State :=
  (List.range 8).foldl (fun s c => (List.range 8).foldl (fun s p => portTurns p c (framesOn s p c) s) s) s

/-! ### Queue pairs -/

/-- Packets unacknowledged (R422). -/
def QPair.inFlight (q : QPair) : Nat := q.unacked.foldl (fun n u => n + u.count) 0

/-- One turn of a queue pair (R436): up to 16 packets of the next message that has packets to send, within the window. -/
def QPair.turn (w : Nat) (q : QPair) : Option (QPair × SendMsg × Nat) :=
  match q.msgs.find? (fun m => decide (m.cut < m.packets)) with
  | none => none
  | some m =>
    let n := min 16 (min (w - q.inFlight) (m.packets - m.cut))
    if n = 0 then none
    else
      let m' := { m with cut := m.cut + n }
      let u : Unacked := { psn := q.nextPsn, count := n, msg := m.id, last := m'.cut == m.packets }
      let others := q.msgs.filter (fun x => x.id != m.id)
      some ({ q with msgs := others ++ [m'], unacked := q.unacked ++ [u], nextPsn := (q.nextPsn + n) % 2 ^ 24 }, m', n)

/-- The turns of a queue pair until its window or its messages end, with the runs they sent. -/
def QPair.turns (w : Nat) : Nat → QPair → List (SendMsg × Nat) → QPair × List (SendMsg × Nat)
  | 0, q, out => (q, out)
  | n + 1, q, out => match q.turn w with
    | some x => QPair.turns w n x.1 (out ++ [(x.2.1, x.2.2)])
    | none => (q, out)

/-- Send what a queue pair may send (R422, R436): none while it is not established or being moved (R453). -/
def pumpQp (s : State) (peer cls : Nat) : State :=
  match findQp s peer cls with
  | none => s
  | some q =>
    if q.up = false ∨ q.moveTo.isSome then s
    else
      match pathOf s peer cls q.port with
      | none => s
      | some p =>
        let x := q.turns (windowOf s) 4096 []
        let timer := if x.1.unacked.isEmpty then none else some (q.timer.getD (s.now + q.rto))
        let q' := { x.1 with timer := timer, lastUse := s.now, port := if 2 ≤ p then some p else q.port }
        let s := modQp s (fun y => y.peer == peer && y.cls == cls) (fun _ => q')
        x.2.foldl (fun s r => launch s {
          port := p, dst := peer, cls := cls, qp := q'.num, msg := r.1.id, count := r.2,
          frame := frameBytesOf (min 4096 (msgBytes r.1.out.msg)), laid := 0, since := s.now }) s

/-- The incarnation of a new queue pair's incoming direction (R421): the previous with that peer plus 1, wrapping from 0xFF to 0x01; the first a free value, and the
state with it recorded. -/
def nextInc (s : State) (peer : Nat) : Nat × State :=
  let f := Config.freeNat s.free % 256
  let n := match s.fab.prevInc.find peer with
    | some i => if i = 0xFF then 1 else i + 1
    | none => f
  (n, { s with free := s.free + 1, fab := { s.fab with prevInc := s.fab.prevInc.set peer n } })

/-- The lowest QP number not in use (R421); numbers from 0x8000 are those of multicast groups (R441). -/
def freeQpNum (s : State) : Nat := (firstFrom (fun n => !(s.fab.qps.any (fun q => q.num == n))) 0x8000 0).getD 0

/-- Room for a queue pair (R420): the least recently used one without an unacknowledged packet is closed when the table is full. -/
def qpRoom (s : State) : Option State :=
  if s.fab.qps.length < 8192 then some s
  else
    match (s.fab.qps.filter (fun q => q.unacked.isEmpty && q.msgs.isEmpty)).foldl (fun (b : Option QPair) q => match b with
        | none => some q
        | some x => if q.lastUse < x.lastUse then some q else b) none with
    | none => none
    | some q => some { s with fab := { s.fab with
        qps := s.fab.qps.filter (fun x => !(x.num == q.num)), frames := s.fab.frames ++ [.close q.peer q.cls] } }

/-- A queue pair may be established with a peer in a class once per 100 µs (R421). -/
def mayEstablish (s : State) (peer cls : Nat) : Bool :=
  match s.fab.madeAt.find (8 * peer + cls) with
  | some t => decide (t + 100 ≤ s.now)
  | none => true

/-- A new queue pair of this device. -/
def newQp (s : State) (peer cls num inc : Nat) (msgs : List SendMsg) : QPair :=
  { peer := peer, cls := cls, num := num, inc := inc, peerNum := 0, peerInc := 0, up := false, nextPsn := 0, expPsn := 0, msgs := msgs, unacked := [],
    tries := 1, tryPsn := 0, rto := rtoOf s, timer := some (s.now + rtoOf s), owed := 0, owedAt := 0, rx := [], lastUse := s.now, port := none, moveTo := none, movedAt := 0, moveBy := 0, rekey := false,
    sent := 0 }

/-- Establish a queue pair for messages that wait for it (R420, R421): CONNECT leaves. -/
def establish (s : State) (peer cls : Nat) (msgs : List SendMsg) : Option State :=
  if mayEstablish s peer cls = false then none
  else
    (qpRoom s).map (fun s =>
      let i := nextInc s peer
      let s := i.2
      let num := freeQpNum s
      { s with fab := { s.fab with
        qps := s.fab.qps ++ [newQp s peer cls num i.1 msgs]
        madeAt := s.fab.madeAt.set (8 * peer + cls) s.now
        frames := s.fab.frames ++ [.connect peer cls num i.1] } })

/-- Hand a message to the transport (R420, R422, R436): on its queue pair, or to wait for one. -/
def enqueue (s : State) (m : SendMsg) : State :=
  match findQp s m.out.dst m.out.cls with
  | some _ => pumpQp (modQp s (fun q => q.peer == m.out.dst && q.cls == m.out.cls) (fun q => { q with msgs := q.msgs ++ [m] })) m.out.dst m.out.cls
  | none =>
    match establish s m.out.dst m.out.cls [m] with
    | some s' => s'
    | none => { s with fab := { s.fab with waiting := s.fab.waiting ++ [m] } }

/-- The established queue pair with a peer in a class, establishing one where there is none (R420, R443). -/
def ensureQp (s : State) (peer cls : Nat) : State × Option QPair :=
  match findQp s peer cls with
  | some q => (s, if q.up then some q else none)
  | none => ((establish s peer cls []).getD s, none)

/-- A frame outside the sequence of its queue pair leaves (R443): recorded as sent and handed to its port. -/
def launchFrame (s : State) (o : OutMsg) (q : QPair) : State :=
  let id := s.fab.nextMsg
  let s := { s with sent := s.sent ++ [o], fab := { s.fab with nextMsg := id + 1 } }
  match pathOf s o.dst o.cls q.port with
  | some p => launch s { port := p, dst := o.dst, cls := o.cls, qp := q.num, msg := id, count := 1, frame := frameBytesOf (min 4096 (msgBytes o.msg)), laid := 0, since := s.now }
  | none => s

/-- Take up what waited for a queue pair, a window or a port. -/
def serve (s : State) : State :=
  let w := s.fab.waiting
  let s := w.foldl enqueue { s with fab := { s.fab with waiting := [] } }
  release (s.fab.qps.foldl (fun s q => pumpQp s q.peer q.cls) s)

end Sys2Proof.Machine
end

