-- ==== Sys2Proof/Machine/Ops.lean ====
section
/-!
DEFINITION. The named operations every family uses: handles, free values, memory, log entries and vectors, counters, queues,
membership and sending. Each changes the state in one place, so that a meaning says only what its rule says.
-/

namespace Sys2Proof.Machine

open Sys2Proof

/-- The outcome of a command. -/
abbrev Out := Host.Outcome State Fault Refusal

/-! ### Handles (R63 to R67) -/

/-- HOME of a handle (R63). -/
def hHome (h : Handle) : Nat := h / 2 ^ 49 % 2 ^ 15
/-- CLASS of a handle (R63). -/
def hCls (h : Handle) : Nat := h / 2 ^ 40 % 2 ^ 9
/-- NUMBER of a handle (R63). -/
def hNum (h : Handle) : Nat := h % 2 ^ 40
/-- A handle from its fields (R63). -/
def mkHandle (home cls num : Nat) : Handle := home * 2 ^ 49 + cls * 2 ^ 40 + num
/-- The null handle (R65). -/
def nullHandle : Handle := 0xFFFFFFFFFFFFFFFF
/-- The device ID that means none or all (R12). -/
def noDevice : Nat := 0x7FFF

/-- Object class codes (R64). -/
def clsSeq : Nat := 1
def clsPage : Nat := 2
def clsRegion : Nat := 3
def clsNode : Nat := 4
def clsModel : Nat := 5
def clsCounter : Nat := 6
def clsQueue : Nat := 7
def clsSlot : Nat := 8

/-- This device's ID (R555); none before a configuration is in force. -/
def self (s : State) : Nat := s.ident.device

/-- The number that names a function of a port among all functions of the device. -/
def fidOf (port fn : Nat) : Nat := port * 64 + fn

/-- A free value below `2 ^ w`, and the state with the next one due. -/
def takeFree (w : Nat) (s : State) : Nat × State :=
  (Config.freeNat s.free % 2 ^ w, { s with free := s.free + 1 })

/-- Whether the device's personality is one of a list. -/
def persIn (s : State) (l : List Pers) : Bool :=
  match s.pers with
  | some p => l.contains p
  | none => false

/-! ### Memory -/

/-- One byte of a memory; an unlisted byte reads 0. -/
def Mem.byte (m : Mem) (a : Nat) : Byte := Tbl.get m (0 : Byte) a

/-- The memory with one byte written; a 0 is not listed, so that equal memories are equal lists. -/
def Mem.put (m : Mem) (a : Nat) (b : Byte) : Mem := if b = 0 then Tbl.del m a else Tbl.set m a b

/-- `n` bytes from an address. -/
def Mem.read (m : Mem) (a n : Nat) : List Byte := (List.range n).map (fun i => Mem.byte m (a + i))

/-- The memory with bytes written from an address on. -/
def Mem.write : Mem → Nat → List Byte → Mem
  | m, _, [] => m
  | m, a, b :: bs => Mem.write (Mem.put m a b) (a + 1) bs

/-- The canonical form of a memory: addresses rise strictly and no listed byte is 0. -/
def Mem.wf (m : Mem) : Bool := Tbl.sorted m && m.all (fun c => c.2 != 0)

/-- The first offset of the region-carve space (R533). -/
def carveBase : Nat := 0x4000000000

/-- Bytes of the region carve (R274, R557). -/
def carveLen (s : State) : Nat := s.ident.regionMiB * 2 ^ 20

/-- FWM_CARVE_BASE (R535): the device logical address of carve byte 0, after the half-0 parts of areas 1 to 5 of R274. -/
def carveLogical (s : State) : Nat :=
  let cap := s.ident.capacityMiB * 2 ^ 20
  (32 + 384) * 2 ^ 20 + cap / 2048 / 2 + cap / 128 / 2 + s.ident.recordMiB * 2 ^ 19

/-- The carve offset that a device logical address names, and the bytes from it to the end of its part (R533). -/
def logicalCarve (s : State) (a : Nat) : Option (Nat × Nat) :=
  let b := carveLogical s
  let h := s.ident.capacityMiB * 2 ^ 19
  let l := carveLen s / 2
  if b ≤ a ∧ a < b + l then some (carveBase + (a - b), b + l - a)
  else if b + h ≤ a ∧ a < b + h + l then some (carveBase + l + (a - b - h), b + h + l - a)
  else none

/-- Whether `n` bytes at an offset lie wholly inside the region-carve space (R533). -/
def inCarve (s : State) (a n : Nat) : Bool := decide (carveBase ≤ a ∧ a + n ≤ carveBase + carveLen s)

/-- The key of a host byte: each function has its own I/O virtual address space. -/
def hostKey (fid a : Nat) : Nat := fid * 2 ^ 64 + a % 2 ^ 64

/-- Read host memory of a function. -/
def hostRead (s : State) (fid a n : Nat) : List Byte := s.host.read (hostKey fid a) n

/-- Write host memory of a function, but for one that is being reset (R541). -/
def hostWrite (s : State) (fid a : Nat) (bs : List Byte) : State :=
  if s.resetting fid then s else { s with host := s.host.write (hostKey fid a) bs }

/-- Apply what the host stored in its own memory before the step (R72, R91). -/
def applyPokes (s : State) (ps : List Poke) : State :=
  ps.foldl (fun s p => { s with host := s.host.write (hostKey (fidOf p.port p.fn) p.addr) p.bytes }) s

/-- Read bytes at a LOC and address (R73, R90): LOC 1 is the region-carve space, LOC 0 the function's host memory. -/
def locRead (s : State) (loc fid a n : Nat) : List Byte :=
  if loc = 1 then s.dev.read a n else hostRead s fid a n

/-- Write bytes at a LOC and address. -/
def locWrite (s : State) (loc fid a : Nat) (bs : List Byte) : State :=
  if loc = 1 then { s with dev := s.dev.write a bs } else hostWrite s fid a bs

/-! ### Log entries and vectors -/

/-- An event of R522 without a queue or customer, for both rings. -/
def evOf (event code severity : Nat) (object : Handle) (args : List Nat) : LogEv :=
  { event := event, code := code, severity := severity, queue := 0xFFFF, customer := 0xFFFF, object := object, args := args, port := none, at_ := 0 }

/-- Raise a log entry, to be written by LOG_ENTRY_WRITE (R523). -/
def logEvent (s : State) (e : LogEv) : State := { s with logQ := s.logQ ++ [{ e with at_ := s.now }] }

/-- Send an MSI-X vector of a function, or hold it pending while masked, once however often it was raised (R536); none goes to an orphaned port (R517). -/
def raiseVec (s : State) (fid vec : Nat) : State :=
  if s.orphans.contains (fid / 64) ∨ s.resetting fid then s
  else if s.vecOpen.contains (fid, vec) = false then
    if s.vecPending.contains (fid, vec) then s else { s with vecPending := s.vecPending ++ [(fid, vec)] }
  else { s with vecSent := s.vecSent ++ [(fid, vec)] }

/-! ### Errors (R575 to R584) -/

/-- Severities (R575). -/
def sevInfo : Nat := 0
def sevCorrected : Nat := 1
def sevContained : Nat := 2
def sevDegraded : Nat := 3
def sevFatal : Nat := 4

/-- Word 0 of an error record (R578). -/
def ErrRec.word0 (r : ErrRec) : Nat :=
  2 ^ 63 + bit r.escalated * 2 ^ 62 + r.severity * 2 ^ 59 + r.own * 2 ^ 56 + r.unit_ * 2 ^ 48 + r.index * 2 ^ 32 + r.code

/-- Count a corrected event (R576). -/
def countCorrected (s : State) : State := { s with err := { s.err with corrected := satAdd 0xFFFFFFFF s.err.corrected 1 } }

/-- The fatal state (R584): nothing but the always-on domain, ring transit and the ERR block goes on; RUN becomes STOPPED. -/
def enterFatal (s : State) (cause : Nat) : State := { s with halted := true, fwRun := 4, err := { s.err with cause := cause } }

/-- The log entry of an error record: its words 0 to 2 (R522). -/
def logErr (s : State) (r : ErrRec) : State :=
  logEvent s { evOf 0x0B r.code r.severity r.object [r.word0, r.object, r.at_ * 1000] with queue := r.queue, customer := r.customer }

/-- Capture a recorded event (R580): into the primary record, or raised into the secondary; a third one is fatal. -/
def captureErr (s : State) (r : ErrRec) : State :=
  let r := { r with at_ := s.now, severity := r.own, escalated := false, hold := fieldOf (s.regs.get 0x3C 0xA00058) 15 0 }
  let counted : State :=
    { s with err := { s.err with ovCount := satAdd 0xFFFFFFFF s.err.ovCount 1, ovUnit := r.unit_, ovCode := r.code } }
  let count := fun (e : Err) (sev : Nat) =>
    if sev = sevContained then { e with contained := satAdd 0xFFFF e.contained 1 }
    else if sev = sevDegraded then { e with degraded := satAdd 0xFFFF e.degraded 1 } else e
  if s.err.cause ≠ 0 then counted
  else
    match s.err.primary, s.err.secondary with
    | none, _ =>
      let s := logErr { s with err := count { s.err with primary := some r } r.severity } r
      if r.severity = sevFatal then enterFatal s 1 else s
    | some _, none =>
      let up := min sevFatal (r.own + 1)
      let r := { r with severity := up, escalated := up != r.own }
      let s := logErr { s with err := count { s.err with secondary := some r } up } r
      if up = sevFatal then enterFatal s 2 else s
    | some _, some _ => enterFatal counted 3

/-- A recorded event of a unit (R577). -/
def raiseErr (s : State) (unit_ index own code cause : Nat) (object : Nat) : State :=
  captureErr s {
    escalated := false, severity := own, own := own, unit_ := unit_, index := index, code := code, object := object, at_ := 0, queue := 0xFFFF,
    customer := 0xFFFF, cause := cause, hold := 0 }

/-- MSI-X table entries of a function (R536). -/
def vecTable (fid : Nat) : Nat := if fid % 64 = 0 then 2048 else 32

/-! ### Queues (R69 to R77) -/

/-- The first of firmware's internal queues (R78). -/
def firmwareQueue : Nat := 4032

/-- A queue's registers; firmware's internal queues take entries whenever firmware runs (R78). -/
def getQ (s : State) (q : Nat) : Queue :=
  s.tz.queues.get (if firmwareQueue ≤ q then { Queue.init with state := .active } else Queue.init) q

/-- Set a queue's registers. -/
def setQ (s : State) (q : Nat) (v : Queue) : State := { s with tz := { s.tz with queues := s.tz.queues.set q v } }

/-- Change a queue's registers. -/
def modQ (s : State) (q : Nat) (f : Queue → Queue) : State := setQ s q (f (getQ s q))

/-- STATE of QDB_STATUS (R77). -/
def QState.code : QState → Nat
  | .disabled => 0 | .active => 1 | .waiting => 2 | .halted => 3 | .draining => 4 | .orphaned => 5

/-- SIZE of a queue's ring in entries (R73). -/
def Queue.size (q : Queue) : Nat := 2 ^ (fieldOf q.ctrl 11 8 + 6)
/-- LOC of a queue's ring (R73). -/
def Queue.loc (q : Queue) : Nat := fieldOf q.base 0 0
/-- Ring address (R73). -/
def Queue.addr (q : Queue) : Nat := fieldOf q.base 63 12 * 4096
/-- LEVEL a queue declares (R73). -/
def Queue.level (q : Queue) : Nat := fieldOf q.ctrl 31 16
/-- WAIT_TO in ms (R73). -/
def Queue.waitTo (q : Queue) : Nat := fieldOf q.ctrl 51 36
/-- REMOTE (R73). -/
def Queue.remote (q : Queue) : Bool := bitOf q.ctrl 5
/-- FAIL_STOP (R73). -/
def Queue.failStop (q : Queue) : Bool := bitOf q.ctrl 4
/-- The bound function (R75). -/
def Queue.fid (q : Queue) : Nat := fidOf (fieldOf q.bind 39 39) (fieldOf q.bind 38 32)
/-- MIN_CLASS (R75). -/
def Queue.minClass (q : Queue) : Nat := fieldOf q.bind 19 18
/-- CUST_LOCK, which a queue bound to a virtual function behaves as having (R75). -/
def Queue.custLock (q : Queue) : Bool := bitOf q.bind 16 || fieldOf q.bind 38 32 != 0
/-- CUSTOMER a queue enforces (R75). -/
def Queue.customer (q : Queue) : Nat := fieldOf q.bind 15 0
/-- Send the queue's vector when EN is set (R76). -/
def queueVec (s : State) (q : Nat) : State :=
  let Q := getQ s q
  if bitOf Q.vector 15 then raiseVec s Q.fid (fieldOf Q.vector 10 0) else s

/-- The started instructions of a queue that have not completed. -/
def inFlight (s : State) (q : Nat) : List Running := s.tz.started.filter (fun r => r.queue == q)

/-- Change the started instructions that a test accepts. -/
def modRun (s : State) (p : Running → Bool) (f : Running → Running) : State :=
  { s with tz := { s.tz with started := mapIf p f s.tz.started } }

/-- The started instruction with an id. -/
def findRun (s : State) (id : Nat) : Option Running := s.tz.started.find? (fun r => r.id == id)

/-- Step 7 of an instruction ends with a code (R92). -/
def finish (s : State) (id code : Nat) : State :=
  modRun s (fun r => r.id == id) (fun r => { r with phase := .done code })

/-- An instruction's execution runs on until something answers. -/
def await (s : State) (id : Nat) : State :=
  modRun s (fun r => r.id == id) (fun r => { r with phase := .waiting })

/-- A WAITCNT that has started and is not satisfied yet (R77, R83): its row may still be to come. -/
def pendingWait (r : Running) : Bool := r.ent.opcode == 2 && (decide (r.phase = .waiting) || decide (r.phase = .ready))

/-- A pending WAITCNT of a queue completes with TZ_QUEUE_HALTED when its queue halts or drains (R77). -/
def endWaits (s : State) (q : Nat) : State :=
  modRun s (fun r => r.queue == q && pendingWait r)
    (fun r => { r with phase := .done Code.tzQueueHalted })

/-- Halt an ACTIVE or WAITING queue with a reason (R73, R77, R170). -/
def haltQueue (s : State) (q reason : Nat) : State :=
  let Q := getQ s q
  if Q.state = .active ∨ Q.state = .waiting then
    queueVec (endWaits (setQ s q { Q with state := .halted, lastReason := reason }) q) q
  else s

/-- Record a failure of a queue: FAIL_COUNT, LAST_REASON, QDB_FAIL_INDEX, the vector, and FAIL_STOP (R76, R93). -/
def failRecord (s : State) (q index code : Nat) : State :=
  let Q := getQ s q
  let s := setQ s q { Q with failCount := satAdd 0xFFFFFFFF Q.failCount 1, lastReason := code, failIndex := index }
  if Q.failStop ∧ (Q.state = .active ∨ Q.state = .waiting) then haltQueue s q code else queueVec s q

/-- A DRAINING queue without started instructions is DISABLED (R77). -/
def drainEnd (s : State) (q : Nat) : State :=
  if (getQ s q).state = .draining ∧ (inFlight s q).isEmpty then modQ s q (fun Q => { Q with state := .disabled }) else s

/-! ### Completion counters (R80 to R84) -/

/-- A counter. -/
def getC (s : State) (i : Nat) : Counter := s.tz.counters.get Counter.init i

/-- Set a counter. -/
def setC (s : State) (i : Nat) (c : Counter) : State :=
  { s with tz := { s.tz with counters := s.tz.counters.set i c } }

/-- The 64 bits of a counter (R80). -/
def Counter.word (c : Counter) : Nat := c.fail * 2 ^ 48 + c.count

/-- Pending WAITCNTs on a counter observe it: each whose target is met finishes with the counter's FAIL (R83, R84). -/
def observe (s : State) (i : Nat) : State :=
  let c := getC s i
  modRun s
    (fun r => pendingWait r && r.ent.a % 2 ^ 16 == i && decide (r.ent.b ≤ c.count))
    (fun r => { r with phase := .done c.fail })

/-- One update of a counter becomes visible: the echo, one 8-byte write, then the vector (R81, R538), then the WAITCNTs. -/
def counterUpdated (s : State) (i : Nat) : State :=
  let c := getC s i
  let s := match c.owner, c.echo with
    | some f, some a => if s.orphans.contains (f / 64) then s else hostWrite s f a (leBytes 8 c.word)
    | _, _ => s
  let s := match c.owner with
    | some f =>
      if c.vecOn then
        if c.coalesce = 0 ∨ c.vecAt + c.coalesce ≤ s.now then
          setC (raiseVec s f c.vector) i { c with vecAt := s.now, vecDue := false }
        else setC s i { c with vecDue := true }
      else s
    | none => s
  observe s i

/-- A completion signal: COUNT + 1, and FAIL when it is the first failure, in one update (R81). -/
def signalCounter (s : State) (i code : Nat) : State :=
  let c := getC s i
  if c.owner = none then s
  else
    counterUpdated (setC s i { c with
      count := wrapAdd 48 c.count 1,
      fail := if c.fail = 0 then code else c.fail }) i

/-- Rights of a function on a counter: 3 for its own, else what it was granted, bit 0 read, bit 1 write (R538). -/
def counterRights (s : State) (fid i : Nat) : Nat :=
  let c := getC s i
  match c.owner with
  | none => 0
  | some o => if o = fid then 3 else ((c.grants.find? (fun g => g.1 == fid)).map (·.2)).getD 0

/-! ### Composition membership (R486, R487) -/

/-- A member of a map. -/
def mapMember (m : CompMap) (d : Nat) : Option MapMember := m.members.find? (fun x => x.device == d)

/-- The membership of this device in a composition. -/
def membership? (s : State) (comp : Nat) : Option Membership := s.comps.find? (fun m => m.map.comp == comp)

/-- Whether a device is a member of a composition at the current epoch, with this device. -/
def inComp (s : State) (comp d : Nat) : Bool :=
  match membership? s comp with
  | some m => (mapMember m.map d).isSome && (mapMember m.map (self s)).isSome
  | none => false

/-- Whether a device is in some composition at the current map epoch. -/
def present (s : State) (d : Nat) : Bool := s.comps.any (fun m => (mapMember m.map d).isSome)

/-- The membership of the lowest composition ID. -/
def lowestComp (l : List Membership) : Option Membership :=
  l.foldl (fun b m => match b with
    | none => some m
    | some x => if m.map.comp < x.map.comp then some m else b) none

/-- The composition a message to a device goes through where nothing names one (R487): the lowest that both are members of, else the lowest that names a successor
for it, else the lowest that names it as departed (DESIGN CHOICE, log 40). -/
def commonComp (s : State) (d : Nat) : Option Membership :=
  let both := s.comps.filter (fun m => (mapMember m.map d).isSome && (mapMember m.map (self s)).isSome)
  let followed := s.comps.filter (fun m => m.map.departed.any (fun x => x.device == d && x.successor != noDevice))
  let gone := s.comps.filter (fun m => m.map.departed.any (fun x => x.device == d))
  match lowestComp both with
  | some m => some m
  | none =>
    match lowestComp followed with
    | some m => some m
    | none => lowestComp gone

/-- Where a message for a device goes in a map (R487): the device and REDIRECTED, or the code. -/
def resolve (m : CompMap) (d : Nat) : Except Nat (Nat × Bool) :=
  match mapMember m d with
  | some _ => .ok (d, false)
  | none =>
    match m.departed.find? (fun x => x.device == d) with
    | some x => if x.successor = noDevice then .error Code.cmpLostMember else .ok (x.successor, true)
    | none => .error Code.cmpNotMember

/-- The traffic class of an instruction's data (R458). -/
def dataClass (cls : Nat) : Nat := cls + 2

/-- A customer's bucket refilled up to now (R465): RATE thousandths of a unit for each µs, capped at BURST. -/
def Customer.refilled (k : Customer) (now : Nat) : Customer :=
  if k.valid then { k with level := min (k.burst * 1000) (k.level + k.rate * (now - k.filledAt)), filledAt := now } else k

/-- Hand a message to the transport, with the started instruction that its acknowledgement completes and the key index it is counted in, if any; traffic class 7 has
no queue pair (R402). -/
def transmitHeld (s : State) (o : OutMsg) (tag holds : Option Nat) : State :=
  let version := match holds with | some i => (s.rgn.keys.get KeyEntry.init i).version | none => 0
  let m : SendMsg := { id := s.fab.nextMsg, out := o, tag := tag, packets := packetsOf o.msg, cut := 0, holds := holds, version := version, resent := false }
  let s := { s with sent := s.sent ++ [o], fab := { s.fab with nextMsg := s.fab.nextMsg + 1 } }
  if o.cls = 7 then s else enqueue s m

/-- Hand a message to the transport. -/
def transmit (s : State) (o : OutMsg) (tag : Option Nat) : State := transmitHeld s o tag none

/-- Where a message for a device goes through a membership (R487): the device, the map and REDIRECTED; the code when it cannot be sent. -/
def addressIn (s : State) (m : Option Membership) (d cls : Nat) : Except Nat (Nat × CompMap × Bool) :=
  match m with
  | none => .error Code.cmpNotMember
  | some m =>
    match resolve m.map d with
    | .error c => .error c
    | .ok (d', red) => if pathOf s d' cls none = none then .error Code.xptPortStalled else .ok (d', m.map, red)

/-- Where a message for a device goes that names no composition. -/
def address (s : State) (d cls : Nat) : Except Nat (Nat × CompMap × Bool) := addressIn s (commonComp s d) d cls

/-- The membership a message of a composition goes through (R36, R232): that composition where its map knows the device, else one that is shared. -/
def viaComp (s : State) (comp d : Nat) : Option Membership :=
  match membership? s comp with
  | some m => if (mapMember m.map d).isSome ∨ m.map.departed.any (fun x => x.device == d) then some m else commonComp s d
  | none => commonComp s d

/-- Send a message to a device through a composition it shares (R487); the code when it cannot be sent. -/
def sendTo (s : State) (d cls : Nat) (subject : Handle) (msg : Msg) (tag : Option Nat) : Except Nat State :=
  match address s d cls with
  | .error c => .error c
  | .ok a => .ok (transmit s ⟨a.1, a.2.1.comp, a.2.1.epoch % 2 ^ 16, cls, a.2.2, subject, msg⟩ tag)

/-- Send a CONTROL message on traffic class 1 where the device is reachable; a message that cannot be sent is not sent. -/
def control (s : State) (d : Nat) (subject : Handle) (msg : Msg) : State :=
  match sendTo s d 1 subject msg none with
  | .ok s' => s'
  | .error _ => s

/-- A castling, record or reservation message whose failure ends or repeats what sent it (R124, R139, R216, R226). -/
def watched : Msg → Bool
  | .offer .. | .pull .. | .page .. | .entries .. | .release .. | .reserve .. => true
  | _ => false

/-- Keep a watched message that failed, with its code. -/
def noteFailed (s : State) (o : OutMsg) (code : Nat) : State :=
  if watched o.msg then { s with fab := { s.fab with failed := s.fab.failed ++ [(o, code)] } } else s

/-- Send a CONTROL message on traffic class 1 through a composition (R224, R232); one that cannot be sent has failed with its code. -/
def controlVia (s : State) (comp d : Nat) (subject : Handle) (msg : Msg) : State :=
  match addressIn s (viaComp s comp d) d 1 with
  | .ok a => transmit s ⟨a.1, a.2.1.comp, a.2.1.epoch % 2 ^ 16, 1, a.2.2, subject, msg⟩ none
  | .error c => noteFailed s ⟨d, comp, 0, 1, false, subject, msg⟩ c

/-- Answer the sender of a message, with the composition and epoch of its request (R486). -/
def reply (s : State) (h : Hdr) (subject : Handle) (msg : Msg) : State :=
  transmit s ⟨h.src, h.comp, h.epoch, h.cls, false, subject, msg⟩ none

/-- The epoch check of a first packet (R486): 0 where accepted, else the code. -/
def epochCheck (s : State) (h : Hdr) : Nat :=
  if h.comp = 0xFFFF then Code.ok else
  match membership? s h.comp with
  | none => Code.cmpNotMember
  | some m =>
    let d := (h.epoch + 2 ^ 16 - m.map.epoch % 2 ^ 16) % 2 ^ 16
    let both : Option CompMap → Bool := fun mp => match mp with
      | some mp => (mapMember mp h.src).isSome && (mapMember mp (self s)).isSome
      | none => false
    if d = 0 then (if both (some m.map) then Code.ok else Code.cmpNotMember)
    else if d = 2 ^ 16 - 1 then (if both m.prev then Code.ok else Code.cmpNotMember)
    else if d < 2 ^ 15 then (if d = 1 ∧ both m.prepared then Code.ok else Code.cmpNotMember)
    else Code.xptStaleEpoch

/-- A home is absent from the composition a record is served through (R36, R232): its map names it as departed, or for a record of none no map names it. -/
def homeGone (s : State) (comp home : Nat) : Bool :=
  match membership? s comp with
  | some m => (mapMember m.map home).isNone && m.map.departed.any (fun x => x.device == home)
  | none => !(present s home)

/-- A home, or the partner that answers as home, can still be addressed (R232). -/
def homeFound (s : State) (comp home : Nat) : Bool :=
  home == self s || (match viaComp s comp home with
    | none => false
    | some m => match resolve m.map home with
      | .error _ => false
      | .ok a => (mapMember m.map a.1).isSome)

/-- The next object number of a class, skipping the live ones (R67), and the state with it taken. -/
def newNumber (s : State) (cls : Nat) (live : Nat → Bool) : Nat × State :=
  let n0 := s.own.nextNum.get 1 cls
  let n := (firstFrom (fun n => !live (n % 2 ^ 40)) (2 ^ 40) n0).getD n0 % 2 ^ 40
  (n, { s with own := { s.own with nextNum := s.own.nextNum.set cls ((n + 1) % 2 ^ 40) } })

end Sys2Proof.Machine
end

