-- ==== Sys2Proof/Machine/Blocks.lean ====
section
/-!
DEFINITION. Blocks and their tags (spec chapter 11, R306 to R317): the block code, the form a block takes, and how the tags follow what is written. `alive` applies
`retag` after every step.
-/

namespace Sys2Proof.Machine

open Sys2Proof

/-- CXE_COMP_SEL (R330). -/
def compSel (s : State) : W64 := s.regs.get 0xFFFF 0x300000

/-- The selection of a kind: a slot, or 15 for raw (R330). -/
def kindSel (s : State) (kind : Nat) : Nat := fieldOf (compSel s) (4 * kind + 3) (4 * kind)

/-- The zero form's tag (R309). -/
def tagZero : Nat := 0x80
/-- The raw form's tag (R309). -/
def tagRaw : Nat := 0x9F

/-- Symbols of a table whose codeword has `k` bits (R312). -/
def TableSlot.count (t : TableSlot) (k : Nat) : Nat := (t.lens.filter (fun n => n == k)).length

/-- The first codeword of `k` bits (R312). -/
def TableSlot.first (t : TableSlot) : Nat → Nat
  | 0 => 0
  | k + 1 => 2 * (t.first k + if k = 0 then 0 else t.count k)

/-- A symbol's codeword (R312): its bits and its value, in ascending order of symbols of one length; none where the symbol is absent. -/
def TableSlot.code (t : TableSlot) (sym : Nat) : Option (Nat × Nat) :=
  match t.lens.getD sym 0 with
  | 0 => none
  | k => some (k, t.first k + ((t.lens.take sym).filter (fun n => n == k)).length)

/-- The present run symbol with the longest run not above `r` (R313): its run and the symbol. -/
def TableSlot.run (t : TableSlot) (r : Nat) : Option (Nat × Nat) :=
  (List.range 32).foldl (fun b i =>
    let len := t.runs.getD i 0
    if t.lens.getD (256 + i) 0 ≠ 0 ∧ len ≤ r ∧ (match b with | some (x : Nat × Nat) => decide (x.1 < len) | none => true) = true then some (len, 256 + i) else b) none

/-- The symbols that stand for some bytes (R313): greedy, each run of zeros by the longest run symbol. -/
def TableSlot.symbols (t : TableSlot) : Nat → List Byte → List Nat
  | 0, _ => []
  | _, [] => []
  | fuel + 1, b :: bs =>
    if b ≠ 0 then b.toNat :: t.symbols fuel bs
    else
      match t.run ((b :: bs).takeWhile (fun x => x == 0)).length with
      | some x => x.2 :: t.symbols fuel ((b :: bs).drop x.1)
      | none => 0 :: t.symbols fuel bs

/-- Bits of the coded stream of some bytes; none where a needed symbol is absent (R308, R313). -/
def TableSlot.coded (t : TableSlot) (bs : List Byte) : Option Nat :=
  let l := (t.symbols (bs.length + 1) bs).map (fun y => t.lens.getD y 0)
  if l.contains 0 then none else some l.sum

/-- The low `k` bits of a number, most significant first (R312). -/
def bitsMsb : Nat → Nat → List Bool
  | 0, _ => []
  | k + 1, c => natBit c k :: bitsMsb k c

/-- The bits of a symbol's codeword. -/
def TableSlot.word (t : TableSlot) (sym : Nat) : List Bool := match t.code sym with | some c => bitsMsb c.1 c.2 | none => []

/-- Bits as `n` bytes, filled from bit 0 of byte 0 upward, zeros behind (R312, R313). -/
def bitBytes (n : Nat) (l : List Bool) : List Byte :=
  (List.range n).map (fun i => BitVec.ofNat 8 ((List.range 8).foldl (fun v j => v + bit (l.getD (8 * i + j) false) * 2 ^ j) 0))

/-- The bits of bytes in that order. -/
def byteBits (bs : List Byte) : List Bool := bs.flatMap (fun b => (List.range 8).map (fun j => natBit b.toNat j))

/-- The symbol whose codeword stands at the front of a stream (R314); none where no codeword matches, within the 15 bits of the longest or within what is left of the stream. -/
def TableSlot.symAt (t : TableSlot) (bits : List Bool) : Option Nat :=
  (List.range 288).find? (fun y => t.lens.getD y 0 != 0 && bits.take (t.lens.getD y 0) == t.word y)

/-- The decoder (R314): `need` bytes from a stream; none where the block is damaged: no codeword matches, a run carries past the end, or the stream ends too soon. -/
def TableSlot.decode (t : TableSlot) : Nat → List Bool → Nat → Option (List Byte)
  | _, _, 0 => some []
  | 0, _, _ => none
  | fuel + 1, bits, need =>
    match t.symAt bits with
    | none => none
    | some y =>
      let rest := bits.drop (t.lens.getD y 0)
      let n := if y < 256 then 1 else t.runs.getD (y - 256) 0
      if need < n then none else (t.decode fuel rest (need - n)).map (List.replicate n (if y < 256 then BitVec.ofNat 8 y else 0) ++ ·)

/-- The tag of a block of a kind with some contents (R308, R309). -/
def blockTag (s : State) (kind : Nat) (bs : List Byte) : Nat :=
  if bs.all (fun b => b == 0) then tagZero
  else
    match s.cx.slots[kindSel s kind]? with
    | none => tagRaw
    | some t =>
      match t.coded bs with
      | some n => if n ≤ 31 * 512 then kindSel s kind * 32 + (ceilDiv n 512 - 1) else tagRaw
      | none => tagRaw

/-- Sectors a tag says a block is stored in (R309). -/
def tagSectors (n : Nat) : Nat := if n < 0x80 then n % 32 + 1 else if n = tagRaw then 32 else 0

/-- A block compressed as its tag says, before encryption (R304, R308, R313): nothing in zero form, the block itself in raw form, else its coded stream in whole sectors. -/
def packBlock (s : State) (tag : Nat) (plain : List Byte) : List Byte :=
  if tag = tagRaw then plain
  else
    match s.cx.slots[tag / 32]? with
    | some t => if tag < 0x80 then bitBytes (64 * tagSectors tag) ((t.symbols 2049 plain).flatMap t.word) else []
    | none => []

/-- A block expanded (R309, R314): none where it is unreadable, because its tag is reserved or names a slot that is FREE or LOADING, or because its stream is damaged. -/
def expandBlock (s : State) (tag : Nat) (packed : List Byte) : Option (List Byte) :=
  if tag = tagZero then some (List.replicate 2048 0)
  else if tag = tagRaw then some packed
  else
    match s.cx.slots[tag / 32]? with
    | some t => if tag < 0x80 ∧ tag % 32 ≠ 31 ∧ (t.st = 2 ∨ t.st = 3) then t.decode 2049 (byteBits packed) 2048 else none
    | none => none

/-- The bytes of block `i` of a page: its rows back to back, then zeros (R277). -/
def pageBlock (p : Page) (i : Nat) : List Byte :=
  let b := max 1 (p.rows.foldl (fun n r => max n r.2.length) 0)
  (List.range 2048).map (fun k => (p.rows.get [] ((2048 * i + k) / b)).getD ((2048 * i + k) % b) 0)

/-- A page with a block that its tag or its stream makes unreadable (R309, R314), in the copy that is read: in the stacks, else below. -/
def damaged (s : State) (p : Page) : Bool :=
  match s.cx.pageTags.find? (fun t => t.number == p.number) with
  | none => false
  | some t => ((if p.stack.isSome then t.up else t.low).zipIdx).any (fun x => (expandBlock s x.1 (packBlock s x.1 (pageBlock p x.2))).isNone)

/-- The tags of a page's blocks as just written. -/
def newTags (s : State) (p : Page) : List Nat :=
  if p.rows.isEmpty then List.replicate (2 * p.units) tagZero
  else (List.range (2 * p.units)).map (fun i => blockTag s (if p.kind = .weight then 3 else 0) (pageBlock p i))

/-- A page's tags after a step (R305, R311): a copy that moves keeps them, a written stacks copy gets new ones. -/
def pageTagsOf (s k : State) (p : Page) : PageTags :=
  let q := s.pages.find? (fun x => x.number == p.number)
  let old := (s.cx.pageTags.find? (fun t => t.number == p.number)).getD { number := p.number, up := [], low := [] }
  let same := q.any (fun x => x.rows == p.rows)
  let up := if p.stack.isNone then [] else if same && !old.up.isEmpty then old.up else if same && !old.low.isEmpty then old.low else newTags k p
  let had := q.any (fun x => (x.host.isSome && !x.hostDirty) || (x.flash.isSome && !x.flashDirty))
  let has := (p.host.isSome && !p.hostDirty) || (p.flash.isSome && !p.flashDirty)
  let low :=
    if p.host.isNone && p.flash.isNone then []
    else if has && !(had && same) then (if !old.up.isEmpty && same then old.up else if up.isEmpty then newTags k p else up)
    else old.low
  { number := p.number, up := up, low := low }

/-- Blocks of a memory that differ between two states. -/
def changedBlocks (a b : Mem) : List Nat :=
  (((a.filter (fun c => !(b.contains c))) ++ (b.filter (fun c => !(a.contains c)))).map (fun c => c.1 / 2048)).foldl
    (fun l x => if l.contains x then l else l ++ [x]) []

/-- Set the tag of a block; the zero form is not listed. -/
def putTag (t : Tbl Nat) (i v : Nat) : Tbl Nat := if v = tagZero then t.del i else t.set i v

/-- References to a slot (R317). -/
def slotRefs (c : Cx) (i : Nat) : Nat :=
  let hit := fun (n : Nat) => decide (n < 0x80 ∧ n / 32 = i)
  c.pageTags.foldl (fun n t => n + (t.up.filter hit).length + (t.low.filter hit).length) 0 +
  (c.carveTags.filter (fun x => hit x.2)).length + (c.weightTags.filter (fun x => hit x.2)).length

/-- A RETIRING slot without references is FREE (R317). -/
def freeSlots (c : Cx) : Cx :=
  { c with slots := c.slots.zipIdx.map (fun x => if x.1.st = 3 ∧ slotRefs c x.2 = 0 then TableSlot.free else x.1) }

/-- The tags after a step that turned `s` into `k`. -/
def tagsAfter (s k : State) : Cx :=
  let pages := k.pages.map (pageTagsOf s k)
  let carve := (changedBlocks s.dev k.dev).foldl (fun t i => putTag t i (blockTag k 2 (k.dev.read (2048 * i) 2048))) k.cx.carveTags
  let weights := k.models.foldl (fun t m =>
    let old := match s.models.find? (fun x => x.number == m.number) with | some x => x.weights | none => []
    (changedBlocks old m.weights).foldl (fun t i => putTag t (m.number * 2 ^ 40 + i) (blockTag k 3 (m.weights.read (2048 * i) 2048))) t) k.cx.weightTags
  freeSlots { k.cx with pageTags := pages, carveTags := carve, weightTags := weights }

/-- Whether a kind that selects no slot has stored a block raw (R308). -/
def fellBack (k : State) (c : Cx) : Bool :=
  (kindSel k 0 == 15 && c.pageTags.any (fun t => t.up.contains tagRaw)) || (kindSel k 2 == 15 && c.carveTags.any (fun x => x.2 == tagRaw)) ||
  (kindSel k 3 == 15 && c.weightTags.any (fun x => x.2 == tagRaw))

/-- The first raw fallback after enable is logged (R308, R522). -/
def evFallback (k : State) : LogEv := { evOf 0x05 Code.ctRawFallback sevInfo 0 [] with at_ := k.now }

/-- Discard the look-ahead copies of some pages (R191), wherever they lie. -/
def dropAhead (s : State) (ns : List Nat) : State :=
  { s with
    pages := mapIf (fun p => ns.contains p.number) (fun p => { p with lookahead := false }) s.pages
    til := { s.til with tiles := s.til.tiles.map (fun x => (x.1, { x.2 with ahead := x.2.ahead.filter (fun n => !ns.contains n) })) } }

/-- A scratchpad copy is stale after a step: its page was written, or has left the stacks (R191). -/
def scratchStale (s k : State) (n : Nat) : Bool :=
  match s.pages.find? (fun p => p.number == n), k.pages.find? (fun p => p.number == n) with
  | some p, some q => p.rows != q.rows || q.stack.isNone
  | none, some q => q.stack.isNone
  | _, none => true

/-- Copies in scratchpads follow the pages (R191, R257). -/
def dropStale (s k : State) : State :=
  let stale := (k.til.tiles.flatMap (fun x => x.2.scratch ++ x.2.ahead)).filter (scratchStale s k)
  if stale.isEmpty then k
  else
    let k := dropAhead k stale
    { k with til := { k.til with tiles := k.til.tiles.map (fun x => (x.1, { x.2 with scratch := x.2.scratch.filter (fun n => !stale.contains n) })) } }

/-- Frame-pool units of one half (R274, R275): the pool is split equally, in 4 KiB units. -/
def poolUnits (s : State) : Nat := s.ident.frameMiB * 128

/-- Free units of one half (R302). -/
def freeUnits (s : State) (half : Nat) : Nat :=
  poolUnits s - s.pages.foldl (fun n p => match p.stack with
    | some f => if f.half == half then n + f.units else n
    | none => n) 0

/-- A level in frames of the largest frame size among the loaded descriptors (R275). -/
def largestFrame (s : State) : Nat := s.models.foldl (fun n m => max n m.desc.frame4k) 1

/-- Frames of the pool, and free frames, in frames of the largest size (R239, R275). -/
def poolFrames (s : State) : Nat := 2 * poolUnits s / largestFrame s
def freeFrames (s : State) : Nat := (freeUnits s 0 + freeUnits s 1) / largestFrame s

/-- LOW_WATER and HIGH_WATER as frame counts (R239). -/
def lowWater (s : State) : Nat := fieldOf (s.regs.get 0x00000A0100180010 0x804008) 15 0 * poolFrames s / 1024
def highWater (s : State) : Nat := fieldOf (s.regs.get 0x00000A0100180010 0x804008) 31 16 * poolFrames s / 1024

/-- Pre-emption that has stopped is armed again as soon as free frames exceed LOW_WATER (R236). -/
def rearm (k : State) : State :=
  if k.own.preemptStop = true ∧ lowWater k < freeFrames k then { k with own := { k.own with preemptStop := false, short := false } } else k

/-- Tags, and copies in scratchpads, follow what a step wrote; pre-emption is armed again where frames have come free. -/
def retag (s k : State) : State :=
  if s.pages = k.pages ∧ s.dev = k.dev ∧ s.models = k.models then k
  else
    let k := rearm (dropStale s k)
    { k with
      cx := { tagsAfter s k with rawNoted := k.cx.rawNoted || fellBack k (tagsAfter s k) }
      logQ := if k.cx.rawNoted = false ∧ fellBack k (tagsAfter s k) = true then k.logQ ++ [evFallback k] else k.logQ }

end Sys2Proof.Machine
end

