-- ==== Sys2Proof/Machine/Operands.lean ====
section
/-!
DEFINITION. The operand forms of the TZ instructions: the word of R85, span words (R101), tier codes (R103), buffer references
(R68), parameter blocks and their sizes (R90), and what a model descriptor fixes (R174, R558).
-/

namespace Sys2Proof

/-- Flag bit `i` of a word. -/
def Entry.flag (e : Entry) (i : Nat) : Bool := natBit e.flags i
/-- FLAGS 7:4 of a word. -/
def Entry.op74 (e : Entry) : Nat := e.flags / 16 % 16
/-- Priority class of a word (R85). -/
def Entry.prio (e : Entry) : Nat := e.cls % 4
/-- SIGNAL (R86). -/
def Entry.signal (e : Entry) : Bool := natBit e.flags 0
/-- FENCE, implied by the FENCE opcode (R95, R167). -/
def Entry.fence (e : Entry) : Bool := natBit e.flags 1 || e.opcode == 0x01
/-- DETERMINISTIC (R86). -/
def Entry.det (e : Entry) : Bool := natBit e.flags 2
/-- COMBINABLE (R86). -/
def Entry.combinable (e : Entry) : Bool := natBit e.flags 3

end Sys2Proof

namespace Sys2Proof.Machine

open Sys2Proof

/-- The fields of 32 instruction bytes (R85). -/
def entryOfBytes (bs : List Byte) : Entry :=
  { opcode := fieldBytes bs 0 1, flags := fieldBytes bs 1 1, counter := fieldBytes bs 2 2,
    customer := fieldBytes bs 4 2, cls := fieldBytes bs 6 1, format := fieldBytes bs 7 1,
    a := fieldBytes bs 8 8, b := fieldBytes bs 16 8, c := fieldBytes bs 24 8 }

/-- The 32 bytes of an instruction (R85). -/
def entryBytes (e : Entry) : List Byte :=
  leBytes 1 e.opcode ++ leBytes 1 e.flags ++ leBytes 2 e.counter ++ leBytes 2 e.customer ++ leBytes 1 e.cls ++
  leBytes 1 e.format ++ leBytes 8 e.a ++ leBytes 8 e.b ++ leBytes 8 e.c

/-- The opcodes (R89). -/
def opNop : Nat := 0x00
def opFence : Nat := 0x01
def opWaitcnt : Nat := 0x02
def opSignal : Nat := 0x03
def opHaltq : Nat := 0x04
def opTrace : Nat := 0x05
def opBudget : Nat := 0x06
def opPmove : Nat := 0x10
def opPcopy : Nat := 0x11
def opPingest : Nat := 0x12
def opPevict : Nat := 0x13
def opPpin : Nat := 0x14
def opPunpin : Nat := 0x15
def opPmatch : Nat := 0x16
def opRegister : Nat := 0x20
def opRevoke : Nat := 0x21
def opPublish : Nat := 0x22
def opDiscard : Nat := 0x23
def opCastle : Nat := 0x28
def opClaim : Nat := 0x29
def opRwrite : Nat := 0x30
def opRread : Nat := 0x31
def opRreduce : Nat := 0x32
def opMcast : Nat := 0x33
def opAttend : Nat := 0x40
def opAmerge : Nat := 0x41
def opExpand : Nat := 0x42
def opConvert : Nat := 0x43
def opGemm : Nat := 0x44
def opVop : Nat := 0x45

/-- The implemented opcodes, the bits of GLB_OPCODES0 and GLB_OPCODES1 (R62, R89). -/
def implemented (op : Nat) : Bool :=
  natBit (0x000F030F007F007F + 2 ^ 64 * 0x3F) op && decide (op < 128)

/-- A span word (R101). -/
structure Span where
  layerFirst : Nat
  layerCount : Nat
  tokenFirst : Nat
  tokenCount : Nat
  deriving DecidableEq, Repr

/-- The fields of a span word (R101). -/
def spanOf (w : Nat) : Span :=
  { layerFirst := w / 2 ^ 56 % 256, layerCount := w / 2 ^ 48 % 256, tokenFirst := w / 2 ^ 24 % 2 ^ 24,
    tokenCount := w % 2 ^ 24 }

/-- The layers a span names, under a layer count (R101). -/
def Span.layers (sp : Span) (total : Nat) : List Nat :=
  let n := if sp.layerCount = 0 then total - sp.layerFirst else sp.layerCount
  (List.range n).map (· + sp.layerFirst)

/-- Whether a span's layers lie within a layer count (R102). -/
def Span.layersOk (sp : Span) (total : Nat) : Bool :=
  decide (sp.layerFirst < total ∧ sp.layerFirst + sp.layerCount ≤ total)

/-- Whether a page whose slots stand for positions `[lo, hi)` holds a position of the span, in an object that holds `held` positions (R101, R102). -/
def Span.covers (sp : Span) (held lo hi : Nat) : Bool :=
  let last := if sp.tokenCount = 0 then held else min held (sp.tokenFirst + sp.tokenCount)
  decide (max lo sp.tokenFirst < min last hi)

/-- The buffer reference at an offset of a block (R68); `reserved` is not 0 when a reserved bit is set. -/
def bufAt (blk : List Byte) (off : Nat) : BufRef :=
  { offset := fieldBytes blk off 6, device := fieldBytes blk (off + 6) 2 % 2 ^ 15,
    key := fieldBytes blk (off + 8) 4,
    reserved := fieldBytes blk (off + 6) 2 / 2 ^ 15 + fieldBytes blk (off + 12) 4 }

/-- An all-zero reference. -/
def bufZero (b : BufRef) : Bool := b.offset == 0 && b.device == 0 && b.key == 0 && b.reserved == 0

/-- The buffer references of an instruction (R68, R90): offsets in its parameter block. -/
def bufOffsets (e : Entry) : List Nat :=
  if e.opcode = opPingest then [16]
  else if e.opcode = opPmatch ∨ e.opcode = opRwrite ∨ e.opcode = opRread ∨ e.opcode = opExpand then [16, 32]
  else if e.opcode = opRreduce ∨ e.opcode = opVop then [16, 32, 48]
  else if e.opcode = opMcast then [16]
  else if e.opcode = opAttend then [32, 64, 80]
  else if e.opcode = opAmerge then 32 :: (List.range (e.a % 256)).map (fun i => 64 + 16 * i)
  else if e.opcode = opConvert then (if e.flag 4 then [16] else [16, 32])
  else if e.opcode = opGemm then [32, 48, 64, 80]
  else []

/-- Whether OPERAND_C is a parameter-block pointer (the reference entries of chapters 04 and 05). -/
def hasBlock (e : Entry) : Bool :=
  [opPingest, opPmatch, opRegister, opRwrite, opRread, opRreduce, opMcast, opAttend, opAmerge, opExpand, opConvert,
   opGemm, opVop].contains e.opcode

/-- The bytes of the parameter block that the word alone gives: AMERGE's input count stands in OPERAND_A, MCAST's in the block. -/
def blockSize (e : Entry) : Nat :=
  if e.opcode = opAttend then 256
  else if e.opcode = opGemm then 128
  else if e.opcode = opRegister then 32
  else if e.opcode = opAmerge then 64 + 16 * (e.a % 256)
  else 64

/-- The bytes of the whole parameter block, `b` being the part that `blockSize` gives: MCAST's MEMBER_COUNT adds its entries (R90, R140). -/
def blockLen (e : Entry) (b : List Byte) : Nat := if e.opcode = opMcast then 64 + 8 * fieldBytes b 2 1 else blockSize e

/-- The report address an instruction carries, if any (R104, R125, R130, R133). -/
def reportAddr (e : Entry) (blk : List Byte) : Option Nat :=
  if e.opcode = opRegister then some (fieldBytes blk 24 8)
  else if e.opcode = opClaim then some e.c
  else if (e.opcode = opCastle ∨ e.opcode = opPublish) ∧ e.flag 4 then some e.c
  else none

/-! ### Model descriptors -/

/-- Elements of a stored row: latent then rotary, or key and value of each KV head (R558). -/
def rowElems (m : ModelRec) : Nat :=
  if m.kind = 0 then m.latent + m.rotary else m.kvHeads * (m.keyWidth + m.valueWidth)

/-- The element format of a descriptor's storage form (R88). -/
def storageFmt (m : ModelRec) : Fmt := (mxElem m.storage).getD .e3m2

/-- Stored bytes per token per layer, b (R558). -/
def rowBytes (m : ModelRec) : Nat := mxRowBytes (storageFmt m) (rowElems m)

/-- Tokens per page (R276). -/
def perPage (m : ModelRec) : Nat := 2 ^ m.pageLog2

/-- 4 KiB units of a frame (R276). -/
def frameUnits (m : ModelRec) : Nat := m.frame4k

/-- 2 MiB weight pages of a descriptor's up-projection weights (R558). -/
def weightPagesOf (m : ModelRec) : Nat :=
  if m.weightFormat ≠ 2 ∧ m.weightFormat ≠ 4 ∧ m.weightFormat ≠ 5 then 0
  else
    let bytes := m.layers * m.latent * m.heads * (m.keyWidth + m.valueWidth) * (if m.weightFormat = 2 then 2 else 1)
    ceilDiv bytes (2 ^ 21)

/-- The rules a descriptor must meet (R276, R558). -/
def modelOk (m : ModelRec) : Bool :=
  decide (1 ≤ m.layers ∧ m.layers ≤ 255 ∧ 1 ≤ m.heads ∧ m.heads ≤ 255) &&
  (if m.kind = 0 then decide (m.kvHeads = 0 ∧ 32 ≤ m.latent ∧ m.latent ≤ 4096 ∧ m.rotary ≤ 1024)
   else decide (m.kind = 1 ∧ 1 ≤ m.kvHeads ∧ m.kvHeads ≤ m.heads ∧ m.latent = 0 ∧ m.rotary = 0)) &&
  decide (32 ≤ m.keyWidth ∧ m.keyWidth ≤ 1024 ∧ 32 ≤ m.valueWidth ∧ m.valueWidth ≤ 1024) &&
  decide (m.latent % 32 = 0 ∧ m.rotary % 32 = 0 ∧ m.keyWidth % 32 = 0 ∧ m.valueWidth % 32 = 0) &&
  (mxElem m.storage).isSome && decide (4 ≤ m.pageLog2 ∧ m.pageLog2 ≤ 8) &&
  decide (4 ≤ m.frame4k ∧ m.frame4k ≤ 64 ∧ perPage m * rowBytes m ≤ m.frame4k * 4096) &&
  [0x00, 0x02, 0x04, 0x05].contains m.weightFormat &&
  decide (m.weightAddr % 4096 = 0 ∧ (m.weightFormat = 0 → m.weightAddr = 0) ∧ m.weightPort < 2)

/-- Equality of two descriptors in every field that R223 compares: all but WEIGHT_ADDR and WEIGHT_PORT. -/
def modelEq (a b : ModelRec) : Bool := { a with weightAddr := 0, weightPort := 0 } == { b with weightAddr := 0, weightPort := 0 }

/-- The descriptor object a handle names here. -/
def findModel (s : State) (h : Handle) : Option Model :=
  if hCls h = clsModel ∧ hHome h = self s then s.models.find? (fun m => m.number == hNum h) else none

/-- The handle of a descriptor held here. -/
def modelHandle (s : State) (m : Model) : Handle := mkHandle (self s) clsModel m.number

end Sys2Proof.Machine
end

