-- ==== Sys2Proof/Machine/Flags.lean ====
section
/-!
DEFINITION. The flags of an instruction word: which apply to which opcode (R86), which bits of FLAGS 7:4 an opcode defines
(chapters 04 and 05), and the level each belongs to (R59).
-/

namespace Sys2Proof.Machine

open Sys2Proof

/-- Whether DETERMINISTIC applies: ATTEND, AMERGE, GEMM, and RREDUCE with a sum or softmax-merge in a floating format (R86, R162). -/
def detApplies (e : Entry) : Bool :=
  e.opcode == opAttend || e.opcode == opAmerge || e.opcode == opGemm ||
  (e.opcode == opRreduce && (e.op74 == 0 || e.op74 == 4) && (e.format == 1 || e.format == 2))

/-- Whether COMBINABLE applies: PCOPY, RREAD, and RREDUCE with integer add with fetch (R86). -/
def combApplies (e : Entry) : Bool :=
  e.opcode == opPcopy || e.opcode == opRread || (e.opcode == opRreduce && e.op74 == 3)

/-- Whether FLAGS 7:4 hold only what the opcode defines, with the values it accepts. -/
def op74Ok (e : Entry) : Bool :=
  let o := e.op74
  if e.opcode = opSignal then decide (o < 4)
  else if e.opcode = opBudget then decide (o < 3)
  else if e.opcode = opPingest ∨ e.opcode = opPevict ∨ e.opcode = opPmatch ∨ e.opcode = opPublish ∨
    e.opcode = opCastle ∨ e.opcode = opGemm then decide (o < 2)
  else if e.opcode = opRegister then decide (o ≠ 0)
  else if e.opcode = opRreduce then decide (o < 5)
  else if e.opcode = opExpand then decide (1 ≤ o ∧ o < 4)
  else if e.opcode = opConvert then decide (o < 3)
  else if e.opcode = opVop then decide (o < 10)
  else decide (o = 0)

/-- Flag applicability and the reserved bits of FLAGS and CLASS (R86). -/
def flagsOk (e : Entry) : Bool :=
  (!e.det || detApplies e) && (!e.combinable || combApplies e) && op74Ok e && decide (e.cls < 4)

/-- The minor level an instruction word needs, as an encoded level (R59, R58). -/
def wordLevel (e : Entry) : Nat :=
  if e.opcode = opBudget ∨ e.det ∨ (e.opcode = opRreduce ∧ e.op74 = 4) then 0x0102
  else if e.opcode = opClaim ∨ e.opcode = opCastle ∨ e.opcode = opPmatch ∨ e.combinable then 0x0101
  else 0x0100

/-- The level the field values of a parameter block need (R59): ATTEND with 9 to 16 query tokens, OUTPUT_MODE 2. -/
def blockLevel (e : Entry) (blk : List Byte) : Nat :=
  if e.opcode = opAttend ∧ (fieldBytes blk 3 1 > 8 ∨ fieldBytes blk 8 1 = 2) then 0x0102 else 0x0100

end Sys2Proof.Machine
end

