-- ==== Sys2Proof/Machine/Regions.lean ====
section
/-!
DEFINITION. Keys, the access check, drafts and versions (spec chapter 13, R127, R369 to R377): every use of a registered buffer,
by a local instruction or a remote message, reads and writes bytes through this file.
-/

namespace Sys2Proof.Machine

open Sys2Proof

/-- Right bits of a region (R125): READ, WRITE, REDUCE, PUBLISH. -/
def rRead : Nat := 0
def rWrite : Nat := 1
def rReduce : Nat := 2
def rPublish : Nat := 3

/-- INDEX of a key (R126). -/
def keyIndex (k : Nat) : Nat := k % 2 ^ 16
/-- GENERATION of a key (R126). -/
def keyGen (k : Nat) : Nat := k / 2 ^ 16 % 2 ^ 16

/-- A key index. -/
def getK (s : State) (i : Nat) : KeyEntry := s.rgn.keys.get KeyEntry.init i

/-- Set a key index. -/
def setK (s : State) (i : Nat) (k : KeyEntry) : State := { s with rgn := { s.rgn with keys := s.rgn.keys.set i k } }

/-- Whether generation `g` is older than the current `c` (R370). -/
def genOlder (g c : Nat) : Bool :=
  let d := (c + 65535 - g) % 65535
  decide (1 ≤ d ∧ d ≤ 32767)

/-- The generation after `g`, which wraps from 0xFFFF to 0x0001 (R128). -/
def genNext (g : Nat) : Nat := if g = 0xFFFF then 1 else g + 1

/-- The access check of R127: 0 where it passes. `scope` is the composition a remote message came through, none for a local access,
which satisfies every scope (R371). -/
def keyCheck (s : State) (key off len right : Nat) (scope : Option Nat) : Nat :=
  let i := keyIndex key
  let k := getK s i
  if i = 0 ∨ k.issued = false then Code.keyInvalid
  else if keyGen key ≠ k.gen then (if genOlder (keyGen key) k.gen then Code.keyRevoked else Code.keyInvalid)
  else if k.state = .free then Code.keyInvalid
  else if k.state = .revoking then Code.keyRevoked
  else if k.len < off + len then Code.keyBounds
  else if natBit k.rights right = false then Code.keyRights
  else
    match scope with
    | none => Code.ok
    | some c => if c = 0xFFFF then Code.keyRights else if k.scope = 0xFFFF ∨ k.scope = c then Code.ok else Code.keyRights

/-- Count a refused access (R390). -/
def keyRefused (s : State) (code : Nat) : State :=
  let r := s.rgn
  { s with rgn :=
    if code = Code.keyInvalid then { r with invalidCnt := satAdd 0xFFFF r.invalidCnt 1 }
    else if code = Code.keyRevoked then { r with revokedCnt := satAdd 0xFFFF r.revokedCnt 1 }
    else if code = Code.keyBounds then { r with boundsCnt := satAdd 0xFFFF r.boundsCnt 1 }
    else if code = Code.keyRights then { r with rightsCnt := satAdd 0xFFFF r.rightsCnt 1 }
    else r }

/-- Draft and relocated units in use, in 4 KiB (R390). -/
def unitsInUse (s : State) : Nat :=
  s.rgn.keys.foldl (fun n e => n + e.2.relocated.length + e.2.drafts.foldl (fun n d => n + d.units.length) 0) 0

/-- 4 KiB units of the region carve that LOC 1 regions do not cover. -/
def unitRoom (s : State) : Nat :=
  carveLen s / 4096 -
    s.rgn.keys.foldl (fun n e => if e.2.state != .free && e.2.loc == 1 then n + e.2.len / 4096 else n) 0

/-- One byte of the region's memory, without its versions. -/
def baseByte (s : State) (k : KeyEntry) (off : Nat) : Byte :=
  if k.loc = 1 then Mem.byte s.dev (k.addr + off) else Mem.byte s.host (hostKey (fidOf k.port k.fn) (k.addr + off))

/-- One byte of the current version: its relocated page, else the base memory (R376, R377). -/
def versionByte (s : State) (k : KeyEntry) (off : Nat) : Byte :=
  match k.relocated.find? (fun u => u.page == off / 4096) with
  | some u => Mem.byte u.bytes (off % 4096)
  | none => baseByte s k off

/-- Bytes of the current version of a region (R138). -/
def regionRead (s : State) (k : KeyEntry) (off n : Nat) : List Byte :=
  (List.range n).map (fun i => versionByte s k (off + i))

/-- Write bytes to the region's memory. -/
def baseWrite (s : State) (k : KeyEntry) (off : Nat) (bs : List Byte) : State :=
  locWrite s k.loc (fidOf k.port k.fn) (k.addr + off) bs

/-- Lease length T_L in µs (R378). -/
def leaseTerm (s : State) : Nat := fieldOf (s.regs.get 0x28 0x608000) 15 0 * 100000

/-- Region pages `[off, off + n)` touches. -/
def pagesOf (off n : Nat) : List Nat :=
  if n = 0 then [] else (List.range ((off + n - 1) / 4096 - off / 4096 + 1)).map (· + off / 4096)

/-- The writer's draft of a region. -/
def draftOf (k : KeyEntry) (w : Writer) : Option Draft := k.drafts.find? (fun d => d.writer == w)

/-- Units a write still has to reserve (R375). -/
def unitsNeeded (k : KeyEntry) (w : Writer) (off n : Nat) : Nat :=
  match draftOf k w with
  | none => (pagesOf off n).length
  | some d => ((pagesOf off n).filter (fun p => !(d.units.any (fun u => u.page == p)))).length

/-- Whether the carve can supply the units of a write (R375). -/
def unitsOk (s : State) (k : KeyEntry) (w : Writer) (off n : Nat) : Bool :=
  decide (unitsInUse s + unitsNeeded k w off n ≤ unitRoom s)

/-- A unit filled with page `p` of the current version (R374). -/
def unitOf (s : State) (k : KeyEntry) (p : Nat) : Unit4K :=
  { page := p, bytes := Mem.write [] 0 (regionRead s k (p * 4096) 4096) }

/-- Write one byte into a draft unit. -/
def Draft.putByte (d : Draft) (off : Nat) (b : Byte) : Draft :=
  { d with units := mapIf (fun u => u.page == off / 4096) (fun u => { u with bytes := Mem.put u.bytes (off % 4096) b }) d.units }

/-- Write bytes into a draft, byte by byte from an offset. -/
def Draft.write : Draft → Nat → List Byte → Draft
  | d, _, [] => d
  | d, off, b :: bs => Draft.write (Draft.putByte d off b) (off + 1) bs

/-- An accepted write into the writer's draft (R374): the draft begins with its first write, each page is filled from the current version
when first touched, and the write renews the lease (R378) and clears the record of an earlier end (R379). -/
def draftWrite (s : State) (i : Nat) (w : Writer) (off : Nat) (bs : List Byte) : State :=
  let k := getK s i
  let d := (draftOf k w).getD
    { writer := w, startVersion := k.version, units := [], holds := 0, renewed := s.now, term := leaseTerm s }
  let fresh := (pagesOf off bs.length).filter (fun p => !(d.units.any (fun u => u.page == p)))
  let d := { d with units := d.units ++ fresh.map (unitOf s k), renewed := s.now, term := leaseTerm s }
  let d := d.write off bs
  setK s i { k with
    drafts := k.drafts.filter (fun x => !(x.writer == w)) ++ [d]
    ended := k.ended.filter (fun x => !(x.1 == w)) }

/-- A write into a region: to the writer's draft when it is DRAFTED, else to its memory (R138, R377). After a failure in transport R139 leaves the destination's bytes undefined: here the
packets that landed stand, and no other byte has changed (DESIGN CHOICE, log 41). -/
def regionWrite (s : State) (i : Nat) (w : Writer) (off : Nat) (bs : List Byte) : State :=
  let k := getK s i
  if k.drafted then draftWrite s i w off bs else baseWrite s k off bs

/-- Brake or trip is in force (R54, R303, R333). -/
def braking (s : State) : Bool := decide (3 ≤ s.ladder)

/-- The key slot of a customer's data (R326). -/
def customerSlot (s : State) (cust : Nat) : Nat :=
  match s.adm.customers.find? (fun x => x.2.valid && x.2.customer == cust) with | some x => x.2.keySlot | none => 0

/-- A region lies under a destroyed key (R327): its bytes are unreadable from that moment until the sweep has made them zero. -/
def regionDead (s : State) (k : KeyEntry) : Bool := k.loc == 1 && s.keySlots.get 0 (customerSlot s k.customer) == 2

/-- A read of a region reaches bytes that cannot be read (R109, R327, R389): its key is destroyed, or the 2 MiB unit they lie in is lost in every tier. -/
def regionUnreadable (s : State) (k : KeyEntry) (off n : Nat) : Bool :=
  regionDead s k || s.pages.any (fun p => p.kind == .weight && p.obj == k.region && p.lost && decide (p.index * 2 ^ 21 < off + n ∧ off < (p.index + 1) * 2 ^ 21))

/-- What a local read of a registered buffer gives: bytes, or the code (R327, R371). -/
def bufRead (s : State) (b : BufRef) (off n right : Nat) : Except Nat (List Byte) :=
  let c := keyCheck s b.key (b.offset + off) n right none
  let k := getK s (keyIndex b.key)
  if c ≠ 0 then .error c
  else if regionUnreadable s k (b.offset + off) n then .error Code.memUncorrectable
  else .ok (regionRead s k (b.offset + off) n)

/-- A local write of a registered buffer by a writer: the state, or the code. -/
def bufWrite (s : State) (b : BufRef) (off : Nat) (bs : List Byte) (right : Nat) (w : Writer) : Except Nat State :=
  let c := keyCheck s b.key (b.offset + off) bs.length right none
  let k := getK s (keyIndex b.key)
  if c ≠ 0 then .error c
  else if k.drafted ∧ unitsOk s k w (b.offset + off) bs.length = false then .error Code.xptRetryExceeded
  else .ok (regionWrite s (keyIndex b.key) w (b.offset + off) bs)

/-- End the draft of a writer: its units are freed, and what its next PUBLISH or DISCARD receives is recorded (R132, R379). -/
def endDraft (k : KeyEntry) (w : Writer) (code : Nat) : KeyEntry :=
  { k with
    drafts := k.drafts.filter (fun d => !(d.writer == w))
    ended := k.ended.filter (fun x => !(x.1 == w)) ++ (if code = 0 then [] else [(w, code)]) }

/-- Commit a draft as the next version (R376). -/
def commitDraft (k : KeyEntry) (d : Draft) : KeyEntry :=
  let kept := k.relocated.filter (fun u => !(d.units.any (fun v => v.page == u.page)))
  endDraft { k with version := k.version + 1, relocated := kept ++ d.units } d.writer 0

/-- Fold one relocated page back to base memory (R377). -/
def foldBack (s : State) (i : Nat) (u : Unit4K) : State :=
  let k := getK s i
  let s := baseWrite s k (u.page * 4096) (Mem.read u.bytes 0 4096)
  setK s i { k with relocated := k.relocated.filter (fun v => !(v.page == u.page)) }

/-- Fold every relocated page of an index back (R380). -/
def foldAll (s : State) (i : Nat) : State := (getK s i).relocated.foldl (fun s u => foldBack s i u) s

/-- Step 1 of REVOKE (R128, R380): the generation rises and the index is REVOKING. -/
def revokeStart (s : State) (i : Nat) (by_ : Option Nat) : State :=
  let k := getK s i
  setK s i { k with state := .revoking, gen := genNext k.gen, revoker := by_ }

/-- Steps 3 to 5 of REVOKE (R380): drafts discarded, relocated pages folded back, the index freed and the handle released. -/
def revokeEnd (s : State) (i : Nat) : State :=
  let k := getK s i
  let k := { k with ended := k.ended ++ k.drafts.map (fun d => (d.writer, Code.pubDraftDiscarded)), drafts := [] }
  let s := foldAll (setK s i k) i
  let k := getK s i
  let s := setK s i { k with state := .free, freedAt := s.rgn.freeSeq + 1, region := 0, revoker := none }
  { s with rgn := { s.rgn with freeSeq := s.rgn.freeSeq + 1 } }

/-- The index REGISTER takes: the FREE one freed longest ago; indices never used count as freed at reset, in index order (R369). -/
def nextFreeKey (s : State) : Option Nat :=
  let never := firstFrom (fun i => decide ((s.rgn.keys.find i).isNone)) 65535 1
  match never with
  | some i => if i < 65536 then some i else none
  | none =>
    (s.rgn.keys.filter (fun e => e.2.state == .free)).foldl
      (fun (best : Option (Nat × Nat)) e => match best with
        | none => some (e.2.freedAt, e.1)
        | some b => if e.2.freedAt < b.1 then some (e.2.freedAt, e.1) else some b) none |>.map (·.2)

/-- Bytes of host memory that windows and LOC 0 regions map (R126, R272). -/
def mappedHost (s : State) : Nat :=
  s.ident.windows.foldl (fun n w => n + w.len) 0 +
    s.rgn.keys.foldl (fun n e => if e.2.state != .free && e.2.loc == 0 then n + e.2.len else n) 0

/-- The key index a region handle names, in a LIVE or REVOKING state. -/
def regionIndex (s : State) (h : Handle) : Option Nat :=
  (s.rgn.keys.find? (fun e => e.2.state != .free && e.2.region == h)).map (·.1)

/-! ### Objects -/

/-- The page with a number. -/
def findPage (s : State) (n : Nat) : Option Page := s.pages.find? (fun p => p.number == n)

/-- The copy of a sequence held here. -/
def findCopy (s : State) (h : Handle) : Option SeqCopy := s.own.copies.find? (fun c => c.handle == h)

/-- A node version held here. -/
def findHold (s : State) (h : Handle) : Option NodeHold := s.rgn.holds.find? (fun n => n.handle == h)

/-- The object an object handle stands for: a page's own object, any other handle itself. -/
def objectOf (s : State) (h : Handle) : Handle :=
  if hCls h = clsPage then ((findPage s (hNum h)).map (·.obj)).getD h else h

/-- The descriptor of a prefix node that is neither held nor drafted here (R102, R637): of a draft reserved here, the one its lease is bound to; else that of the sequence whose
PMATCH named the node (its digests commit to the model, R381), or of a sequence that refers to it; else the first descriptor (DEDUCED, log 7). -/
def knownModel (s : State) (node : Handle) : Option Model :=
  match s.rgn.leases.find? (fun l => l.object == node) with
  | some l => l.model.bind (findModel s)
  | none =>
    let mapped := (s.rgn.maps.find? (fun m => m.node == node)).bind (·.model)
    let referring := (s.own.copies.find? (fun c => c.desc.pfx == node)).map (·.model)
    match mapped <|> referring with
    | some h => findModel s h
    | none => s.models.head?

/-- The descriptor bound here to a sequence, prefix node or page (R102, R637). -/
def boundModel (s : State) (h : Handle) : Option Model :=
  let o := objectOf s h
  match findCopy s o with
  | some c => findModel s c.model
  | none =>
    match findHold s o with
    | some n => findModel s n.model
    | none =>
      match s.rgn.drafts.find? (fun d => d.handle == o) with
      | some d => d.model.bind (findModel s)
      | none => if hCls o = clsNode then knownModel s o else none

end Sys2Proof.Machine
end

