-- ==== Sys2Proof/Machine/Transport.lean ====
section
/-!
DEFINITION. Messages as they complete and arrive (spec chapter 14, R403, R420 to R425; R486, R488): acknowledgements, the sequence check, what a completed or failed
message does to what waited for it, and the common form of a delivered CONTROL message.
-/

namespace Sys2Proof.Machine

open Sys2Proof

/-- Nothing but the always-on domain acts in the fatal state, at trip or without supplies (R584, R605): the step changes nothing. Otherwise it has its effect, and the
block tags follow what it wrote (R308). -/
def alive (s k : State) : Out := .next (if s.halted then s else retag s k)

/-- Firmware pauses for a live update (R501, R508). -/
def paused (s : State) : Bool := s.fwRun == 3

/-- What firmware does: in a pause it waits, and the row comes again (R501). -/
def awake (s k : State) : Out := alive s (if paused s then s else k)

/-- One of the answers an instruction waits for has come; with the last it finishes, with the first code among them that is not 0. One that has finished meanwhile waits for none. -/
def tagDone (s : State) (id code : Nat) : State :=
  match findRun s id with
  | none => s
  | some r =>
    let codes := r.codes ++ (if code = 0 then [] else [(r.codes.length, code)])
    if r.phase ≠ .waiting then s
    else if r.aux ≤ 1 then finish s id ((codes.map (·.2)).headD 0)
    else modRun s (fun x => x.id == id) (fun x => { x with aux := x.aux - 1, codes := codes })

/-! ### Reads -/

/-- The instruction a read is for; 0 is none. -/
def ReadFor.instr : ReadFor → Nat
  | .buffer i _ _ => i
  | .stage i _ _ _ _ _ => i
  | .refetch _ => 0
  | .operand i _ => i

/-- A key index has one accepted message less (R371). -/
def keyLeave (s : State) (i : Nat) : State := setK s i { getK s i with accepted := (getK s i).accepted - 1 }

/-- A key index has one accepted message more (R371). -/
def keyEnter (s : State) (i : Nat) : State := setK s i { getK s i with accepted := (getK s i).accepted + 1 }

/-- A page that a remote copy asked for and that its node does not have (R101): past the end of the last holder's remainder, where the shard map does not tell the end. -/
def pastEnd (s : State) (node : Handle) (index code : Nat) : Bool :=
  decide (code = Code.tzBadHandle) && s.rgn.maps.any (fun m => m.node == node && !m.exact &&
    (match boundModel s node with | some d => decide ((m.holders.length - 1) * m.shardBlocks * 64 ≤ index * perPage d.desc) | none => false))

/-- An accepted message enters its key index and holds its writer's draft (R371, R378). -/
def enterMsg (s : State) (i : Nat) (w : Writer) (off n : Nat) : State :=
  let s := keyEnter s i
  if (getK s i).drafted = false ∨ n = 0 then s
  else
    let k := getK s i
    let d := (draftOf k w).getD { writer := w, startVersion := k.version, units := [], holds := 0, renewed := s.now, term := leaseTerm s }
    let fresh := (pagesOf off n).filter (fun p => !(d.units.any (fun u => u.page == p)))
    setK s i { k with
      drafts := k.drafts.filter (fun x => !(x.writer == w)) ++ [{ d with units := d.units ++ fresh.map (unitOf s k), holds := d.holds + 1 }] }

/-- An accepted message leaves its key index and its writer's draft, which its last packet renews (R371, R378). -/
def leaveMsg (s : State) (i : Nat) (w : Writer) : State :=
  let s := keyLeave s i
  let k := getK s i
  setK s i { k with drafts := mapIf (fun d => d.writer == w && decide (0 < d.holds)) (fun d => { d with holds := d.holds - 1, renewed := s.now, term := leaseTerm s }) k.drafts }

/-- A read that fails (R139, R444): it waits no longer, and what it was for learns the code. -/
def dropRead (s : State) (id code : Nat) : State :=
  match s.reads.find? (fun r => r.id == id) with
  | none => s
  | some w =>
    let s := { s with reads := s.reads.filter (fun r => !(r.id == id)) }
    match w.what with
    | .buffer instr key _ => tagDone (keyLeave s (keyIndex key)) instr code
    | .stage instr node _ index _ _ => tagDone s instr (if pastEnd s node index code then 0 else code)
    | .refetch page =>
      let gone := fun (p : Page) => p.number == page && p.stack.isNone && p.host.isNone && p.flash.isNone
      { s with pages := mapIf gone (fun p => { p with lost := true }) s.pages }
    | .operand instr _ => finish s instr code

/-- FAB_COMB_CTRL (R449). -/
def combCtrl (s : State) : W64 := s.regs.get 3 0x503000

/-- A pending read of this crossbar that a request can join (R446). -/
def joinable (s : State) (dst : Nat) (subject : Handle) (key off len comp epoch cls : Nat) : Option CombRead :=
  s.fab.combReads.find? (fun e => e.dst == dst && e.subject == subject && e.key == key && e.off == off && e.len == len && e.comp == comp &&
    e.epoch == epoch && e.cls == cls && !e.left && decide (e.joiners.length < 64))

/-- Change a pending read of this crossbar. -/
def modComb (s : State) (id : Nat) (f : CombRead → CombRead) : State :=
  { s with fab := { s.fab with combReads := mapIf (fun e => e.id == id) f s.fab.combReads } }

/-- Count a joined request (R449). -/
def countJoined (s : State) : State := { s with fab := { s.fab with joined := wrapAdd 32 s.fab.joined 1 } }

/-- A combinable read frame reaches this device's crossbar on its way out (R446): it joins an earlier one, or is forwarded and stands for later ones. -/
def issueRead (s : State) (w : ReadWait) (o : OutMsg) (q : QPair) : State :=
  let en := bitOf (combCtrl s) 0
  let me : Joiner := { device := self s, qp := q.num, inc := q.inc, tag := w.id }
  let own := s.fab.combReads.any (fun e => e.dst != self s && (e.first.tag == w.id || e.joiners.any (fun j => j.tag == w.id)))
  match (if en ∧ own = false then joinable s o.dst w.subject w.key w.off w.len o.comp o.epoch w.cls else none) with
  | some e => countJoined (modComb s e.id (fun e => { e with joiners := e.joiners ++ [me] }))
  | none =>
    let id := s.fab.nextMsg
    let s := launchFrame s o q
    if en = false ∨ own ∨ 16384 ≤ s.fab.combReads.length then s
    else
      { s with fab := { s.fab with combReads := s.fab.combReads ++ [{
        id := id, dst := o.dst, subject := w.subject, key := w.key, off := w.off, len := w.len, comp := o.comp, epoch := o.epoch, cls := w.cls, first := me, joiners := [],
        left := false, code := 0, bytes := [], index := none, version := 0 }] } }

/-- A combinable add frame reaches this device's crossbar on its way out (R446, R448): its entry goes into a frame that still waits, or it becomes one. -/
def issueAdd (s : State) (w : ReadWait) (o : OutMsg) (q : QPair) : State :=
  let e : AddEntry := { device := self s, qp := q.num, inc := q.inc, tag := w.id, vals := w.adds }
  let size := 8 + 8 * w.adds.length
  let waits := fun (a : CombAdd) =>
    s.fab.egress.any (fun x => x.msg == a.msg) && a.dst == o.dst && a.key == w.key && a.off == w.off && a.len == w.len && a.comp == o.comp && a.epoch == o.epoch &&
    a.cls == w.cls && decide ((a.entries.length + 1) * size ≤ 4096)
  match (if bitOf (combCtrl s) 1 then s.fab.combAdds.find? waits else none) with
  | some a =>
    let grown := a.entries ++ [e]
    countJoined { s with
      sent := s.sent.map (fun x => if x.msg == .combAdd a.key a.off a.entries && x.dst == a.dst then { x with msg := .combAdd a.key a.off grown } else x)
      fab := { s.fab with
        combAdds := mapIf (fun x => x.msg == a.msg) (fun x => { x with entries := grown }) s.fab.combAdds
        egress := mapIf (fun x => x.msg == a.msg) (fun x => { x with frame := frameBytesOf (grown.length * size) }) s.fab.egress } }
  | none =>
    let id := s.fab.nextMsg
    let s := launchFrame s { o with msg := .combAdd w.key w.off [e] } q
    { s with fab := { s.fab with combAdds := (s.fab.combAdds.filter (fun a => s.fab.egress.any (fun x => x.msg == a.msg))) ++ [{
      msg := id, dst := o.dst, key := w.key, off := w.off, len := w.len, comp := o.comp, epoch := o.epoch, cls := w.cls, entries := [e] }] } }

/-- Issue or repeat a combinable request (R443, R444): whole, with its tag, each repeat doubling the wait; while it has no established queue pair it waits for one. -/
def issueComb (s : State) (w : ReadWait) : State :=
  match address s w.dst w.cls with
  | .error c => dropRead s w.id c
  | .ok a =>
    match ensureQp s a.1 w.cls with
    | (s, none) => s
    | (s, some q) =>
      let o : OutMsg := ⟨a.1, a.2.1.comp, a.2.1.epoch % 2 ^ 16, w.cls, a.2.2, w.subject, .readReq w.id w.key w.off w.len true⟩
      let s := { s with reads := mapIf (fun x => x.id == w.id) (fun x => { x with tries := x.tries + 1, due := s.now + rtoOf s * 2 ^ x.tries }) s.reads }
      if w.adds.isEmpty then issueRead s w o q else issueAdd s w o q

/-- Issue the combinable requests of an instruction that are due, WINDOW outstanding at most (R444). -/
def pumpComb (s : State) (instr : Nat) : State :=
  let mine := s.reads.filter (fun w => w.comb && w.what.instr == instr)
  let open_ := (mine.filter (fun w => decide (0 < w.tries))).length
  ((mine.filter (fun w => w.tries == 0)).take (windowOf s - open_)).foldl issueComb s

/-- A read fails, and the next of its instruction goes out. -/
def readFailed (s : State) (id code : Nat) : State :=
  match s.reads.find? (fun r => r.id == id) with
  | none => s
  | some w => if w.comb then pumpComb (dropRead s id code) w.what.instr else dropRead s id code

/-- Ask another device for bytes (R435): a READ_REQ on the queue pair, or a combinable request. The code where it cannot be sent. -/
def sendRead (s : State) (dst cls : Nat) (subject : Handle) (key off len : Nat) (comb : Bool) (what : ReadFor) : Except Nat State :=
  let id := s.nextRead
  let w : ReadWait := { id := id, dst := dst, subject := subject, cls := cls, key := key, off := off, len := len, comb := comb, tries := 0, due := 0, what := what, adds := [], got := [] }
  let s := { s with reads := s.reads ++ [w], nextRead := id + 1 }
  if comb then (address s dst cls).map (fun _ => s)
  else sendTo s dst cls subject (.readReq id key off len false) none

/-- A split whose every part is answered, with a failure among them, fails its ATTEND with the code of the lowest shard index (R153). -/
def splitFailed (s : State) (instr : Nat) : State :=
  match s.tz.splits.find? (fun x => x.instr == instr) with
  | none => s
  | some x =>
    if x.ownDone ∧ x.parts.all (·.answered) ∧ !x.code.isEmpty then
      let low := x.code.foldl (fun (b : Nat × Nat) c => if c.1 < b.1 then c else b) (x.code.headD (0, 0))
      finish { s with tz := { s.tz with splits := s.tz.splits.filter (fun y => !(y.instr == instr)) } } instr low.2
    else s

/-- A holder has answered its part of a split (R153, R188). -/
def partAnswered (s : State) (instr device code : Nat) : State :=
  { s with tz := { s.tz with splits := mapIf (fun x => x.instr == instr) (fun x =>
      match x.parts.find? (fun p => p.device == device && !p.answered) with
      | none => x
      | some p =>
        { x with
          parts := mapIf (fun y => y.shard == p.shard) (fun y => { y with answered := true }) x.parts
          code := if code = 0 then x.code else x.code ++ [(p.shard, code)] }) s.tz.splits } }

/-- A holder of a split is lost (R153, R194): the part it has not answered fails, and in the first of two passes also the one it has, since pass 2 would need it. -/
def partLost (s : State) (instr device : Nat) : State :=
  let two := (findRun s instr).any (fun r => r.ent.det && fieldBytes r.blk 7 1 == 0)
  let f : Split → Split := fun x =>
    let gone := x.parts.filter (fun p => p.device == device && (!p.answered || (two && x.pass == 1 && !(x.code.any (fun c => c.1 == p.shard)))))
    { x with
      parts := mapIf (fun p => p.device == device) (fun p => { p with answered := true }) x.parts
      code := x.code ++ gone.map (fun p => (p.shard, Code.cmpLostMember)) }
  { s with tz := { s.tz with splits := mapIf (fun x => x.instr == instr) f s.tz.splits } }

/-- A submission that failed or was refused on its way (R129, R153): the split learns of it, or the instruction ends. -/
def submitFailed (s : State) (tag device code : Nat) : State :=
  if tag = 0 then s
  else if s.tz.splits.any (fun x => x.instr == tag - 1) then splitFailed (partAnswered s (tag - 1) device code) (tag - 1)
  else finish s (tag - 1) code

/-! ### Multicast -/

/-- FAB_MCAST_GROUP of a group (R440). -/
def groupEntry (s : State) (g : Nat) : W64 := s.regs.get 0 (0x504000 + 8 * g)

/-- A multicast is known by its group and first PSN. -/
def McastSend.is (x : McastSend) (group psn : Nat) : Bool := x.group == group && x.psn == psn

/-- Change the multicast of a group and first PSN. -/
def modCast (s : State) (group psn : Nat) (f : McastSend → McastSend) : State :=
  { s with fab := { s.fab with mcasts := mapIf (fun x => x.is group psn) f s.fab.mcasts } }

/-- Take the sequence's next PSNs of a group for some packets (R441): the first of them, and the state. -/
def takePsn (s : State) (group packets : Nat) : Nat × State :=
  let psn := s.fab.mcastPsn.get 0 group
  (psn, { s with fab := { s.fab with mcastPsn := s.fab.mcastPsn.set group ((psn + packets) % 2 ^ 24) } })

/-- Send one member its OPEN (R441); one that cannot be reached is settled at once. -/
def sendOpen (s : State) (place device cls : Nat) (subject : Handle) (open_ : Msg) (tag : Nat) : State × McastMember :=
  let m : McastMember := { place := place, device := device, opened := false, code := 0, upto := 0, acked := false }
  match sendTo s device cls subject open_ (some tag) with
  | .ok s' => (s', m)
  | .error c => (s, { m with opened := true, code := c })

/-- The reserver's side of a draft node's end (R131, R378): the lease is over. Once it is published, its staged pages are clean copies of the published ones (R25). -/
def endLease (s : State) (node : Handle) (published : Bool) : State :=
  { s with
    pages := if published then mapIf (fun p => p.obj == node && p.kind == .staged) (fun p => { p with acked := true }) s.pages else s.pages
    rgn := { s.rgn with leases := s.rgn.leases.filter (fun l => !(l.object == node)) } }

/-- A draft that no longer exists at its owner (R117): the code for its next PUBLISH or DISCARD is kept, and the lease is over. -/
def draftGone (s : State) (node : Handle) (code : Nat) : State :=
  endLease { s with rgn := { s.rgn with endedDrafts := s.rgn.endedDrafts.filter (fun x => !(x.1 == node)) ++ [(node, code)] } } node false

/-- The code of the lowest-indexed dropped member, 0 where none was (R141, R442). -/
def McastSend.verdict (x : McastSend) : Nat := ((x.members.find? (fun m => m.code != 0)).map (·.code)).getD 0

/-- Packets of a multicast (R441). -/
def McastSend.packets (x : McastSend) : Nat := packetsOf (.mcastData x.group 0 x.bytes)

/-- The oldest packet of a multicast that some open member has not acknowledged (R422, R441). -/
def McastSend.base (x : McastSend) : Nat :=
  (x.members.filter (fun m => m.code == 0 && !m.acked)).foldl (fun n m => min n m.upto) x.cut

/-- Some copies of `n` packets of a group stream leave by a port (R441). -/
def mcastCopy (s : State) (x : McastSend) (dst port n : Nat) : State :=
  launch s { port := port, dst := dst, cls := x.cls, qp := 0x8000 + x.group, msg := x.instr, count := n, frame := frameBytesOf (min 4096 x.bytes.length), laid := 0, since := s.now }

/-- Packets `k` to `k + n - 1` of a multicast leave (R441): a copy by each port of PORTS, and one to each open member the tree does not reach through them. -/
def mcastRun (s : State) (x : McastSend) (k n : Nat) : State :=
  if n = 0 then s
  else
    let ports := fieldOf (groupEntry s x.group) 23 16
    let s := (List.range 8).foldl (fun s p => if natBit ports p then mcastCopy s x 0x7FFF p n else s) s
    let o : OutMsg := ⟨0x7FFF, 0xFFFF, 0, x.cls, false, 0, .mcastData x.group (4096 * k) (sliceBytes x.bytes (4096 * k) (min (4096 * n) (x.bytes.length - 4096 * k)))⟩
    let s := { s with sent := s.sent ++ [o] }
    (x.members.filter (fun m => m.code == 0 && !m.acked)).foldl (fun s m =>
      let reached := (List.range 8).any (fun p => natBit ports p && bitOf (routeOf s m.device) (8 + p))
      match (if reached then none else pathOf s m.device x.cls none) with
      | some p => mcastCopy { s with sent := s.sent ++ [{ o with dst := m.device }] } x m.device p n
      | none => s) s

/-- Packets of a group's multicasts that are on their way (R422, R441). -/
def groupFlight (s : State) (group : Nat) : Nat := s.fab.mcasts.foldl (fun n x => if x.group = group then n + (x.cut - x.base) else n) 0

/-- The next multicast of a group sends what its window allows (R422, R441), in the order of the group's PSNs: none while an earlier one has packets to send. -/
def castNext (acc : State × Bool) (x : McastSend) : State × Bool :=
  if acc.2 || !x.data then (acc.1, true)
  else
    let n := min (x.packets - x.cut) (windowOf acc.1 - groupFlight acc.1 x.group)
    let sent := fun (y : McastSend) => { y with cut := y.cut + n, due := if y.base = y.cut then acc.1.now + y.rto else y.due }
    (mcastRun (modCast acc.1 x.group x.psn sent) x x.cut n, decide (x.cut + n < x.packets))

/-- The multicasts of a group send what the window of RMA_XPT_CTRL allows (R422, R441). -/
def mcastPump (s : State) (group : Nat) : State := ((s.fab.mcasts.filter (fun x => x.group == group)).foldl castNext (s, false)).1

/-- One more try of a packet of a multicast (R422, R441). -/
def McastSend.tried (x : McastSend) (k : Nat) : McastSend := if x.tryAt = k then { x with tries := x.tries + 1 } else { x with tries := 2, tryAt := k }

/-- Go back to packet `k` of a multicast (R422, R441): it is sent again from there, to the whole tree, and so is what followed it in the group; the timer runs from now. -/
def groupBack (s : State) (x : McastSend) (k : Nat) : State :=
  let again := fun (s : State) (y : McastSend) =>
    let from_ := if y.psn = x.psn then k else y.base
    let s := modCast s y.group y.psn (fun z => { z with due := s.now + z.rto })
    mcastRun { s with fab := { s.fab with retransmits := wrapAdd 32 s.fab.retransmits (y.cut - from_) } } y from_ (y.cut - from_)
  ((s.fab.mcasts.filter (fun y => y.group == x.group)).dropWhile (fun y => y.psn != x.psn)).foldl again s

/-- An MCAST is over (R117, R442): the instruction learns its code. Where an ingest multicast finds the draft gone, PINGEST ends and sends nothing further. -/
def castOver (s : State) (x : McastSend) : State :=
  let s := { s with fab := { s.fab with mcasts := s.fab.mcasts.filter (fun y => !(y.is x.group x.psn)) } }
  let gone := x.verdict = Code.pubDraftDiscarded ∨ x.verdict = Code.pubLeaseExpired
  if x.subject ≠ 0 ∧ gone then
    finish (draftGone { s with fab := { s.fab with mcasts := s.fab.mcasts.filter (fun y => !(y.instr == x.instr && !y.data)) } } x.subject x.verdict) x.instr x.verdict
  else tagDone s x.instr x.verdict

/-- Go on with an MCAST (R441, R442): data once every OPEN is answered, as the window allows, the end once every member has acknowledged or been dropped. -/
def mcastGo (s : State) (group psn : Nat) : State :=
  match s.fab.mcasts.find? (fun x => x.is group psn) with
  | none => s
  | some x =>
    if x.members.any (fun m => !m.opened && m.code == 0) then s
    else if x.members.all (fun m => m.acked || m.code != 0) then mcastPump (castOver s x) group
    else mcastPump (modCast s group psn (fun y => { y with data := true })) group

/-- A member's OPEN is answered (R441, R442). -/
def openAnswered (s : State) (group psn device code : Nat) : State :=
  mcastGo (modCast s group psn (fun x => { x with
    members := mapIf (fun m => m.device == device && !m.opened) (fun m => { m with opened := true, code := code }) x.members })) group psn

/-- A message of this device has completed with a code (R425); one refused for epoch or membership is kept for its resend (R488). -/
def messageDone (s : State) (m : SendMsg) (code : Nat) : State :=
  if (code = Code.cmpNotMember ∨ code = Code.xptStaleEpoch) ∧ m.resent = false then
    { s with fab := { s.fab with refused := s.fab.refused ++ [m] } }
  else
    let s := match m.holds with | some i => keyLeave s i | none => s
    match m.out.msg with
    | .readReq id _ _ _ _ => if code = 0 then s else readFailed s id code
    | .reduce _ _ _ _ _ (some f) _ _ _ _ _ =>
      match m.tag with
      | some id => tagDone (if code = 0 then s else dropRead s f code) id code
      | none => s
    | .submit tag _ _ _ _ _ => if code = 0 then s else submitFailed s tag m.out.dst code
    | .restoreReq _ =>
      if code = 0 ∨ s.cmp.restoreState ≠ 1 then s
      else { s with cmp := { s.cmp with restoreState := 3, restoreResult := Code.cmpLostMember } }
    | .mcastOpen group psn _ _ _ _ _ => openAnswered s group psn m.out.dst code
    | .lookup .. | .shardMapReq => match m.tag with | some id => if code = 0 then s else finish s id code | none => s
    | _ => match m.tag with | some id => tagDone s id code | none => if code = 0 then s else noteFailed s m.out code

/-- Runs left after `k` packets are acknowledged, and the messages whose LAST packet is among them, in order. -/
def dropAcked : Nat → List Unacked → List Unacked × List Nat
  | _, [] => ([], [])
  | k, u :: us =>
    if k = 0 then (u :: us, [])
    else if k < u.count then ({ u with psn := (u.psn + k) % 2 ^ 24, count := u.count - k } :: us, [])
    else
      let r := dropAcked (k - u.count) us
      (r.1, if u.last then u.msg :: r.2 else r.2)

/-- A cumulative acknowledgement reaches a queue pair (R422): packets up to it are freed, tries and timer reset, and messages that completed end; the code belongs to
the message whose LAST packet it names. -/
def ackApply (s : State) (q : QPair) (psn code : Nat) : State :=
  match q.unacked with
  | [] => s
  | u :: _ =>
    let k := (psn + 1 + 2 ^ 24 - u.psn) % 2 ^ 24
    if k = 0 ∨ q.inFlight < k then s
    else
      let r := dropAcked k q.unacked
      let done := q.msgs.filter (fun m => r.2.contains m.id)
      let q' := { q with
        unacked := r.1, msgs := q.msgs.filter (fun m => !r.2.contains m.id), tries := 1, rto := rtoOf s
        timer := if r.1.isEmpty then none else some (s.now + rtoOf s), lastUse := s.now }
      let s := modQp s (fun x => x.num == q.num && x.peer == q.peer) (fun _ => q')
      let s := { s with fab := { s.fab with egress := s.fab.egress.filter (fun e => !(e.qp == q.num && e.dst == q.peer && r.2.contains e.msg)) } }
      let final := r.2.getLast?
      let s := done.foldl (fun s m => messageDone s m (if final = some m.id then code else 0)) s
      pumpQp s q.peer q.cls

/-- Close a queue pair, failing its messages with a code (R407, R422): all of them, or those that have a packet unacknowledged. -/
def closeQp (s : State) (q : QPair) (code : Nat) (all : Bool) : State :=
  let lost := q.msgs.filter (fun m => all || q.unacked.any (fun u => u.msg == m.id))
  let keep := q.msgs.filter (fun m => !(all || q.unacked.any (fun u => u.msg == m.id)))
  let s := { s with fab := { s.fab with
    qps := s.fab.qps.filter (fun x => !(x.num == q.num && x.peer == q.peer))
    egress := s.fab.egress.filter (fun e => !(e.qp == q.num && e.dst == q.peer))
    waiting := s.fab.waiting ++ keep } }
  lost.foldl (fun s m => messageDone s m code) s

/-! ### Arrival -/

/-- Send a standalone acknowledgement of everything accepted on a queue pair, with the reason code of the LAST packet it answers (R424). -/
def sendAck (s : State) (q : QPair) (code : Nat) : State :=
  let s := modQp s (fun x => x.num == q.num && x.peer == q.peer) (fun x => { x with owed := 0 })
  { s with fab := { s.fab with frames := s.fab.frames ++ [.ack q.peer q.peerNum q.peerInc ((q.expPsn + 2 ^ 24 - 1) % 2 ^ 24) code] } }

/-- Send a NAK of kind SEQ or STALE_INC, at most one per RTO and queue pair (R403, R423). -/
def sendNak (s : State) (dst qp inc psn kind : Nat) : State :=
  if s.fab.naks.any (fun x => x.1 == dst && x.2.1 == qp && decide (s.now < x.2.2 + rtoOf s)) then s
  else { s with fab := { s.fab with
    naks := s.fab.naks.filter (fun x => !(x.1 == dst && x.2.1 == qp)) ++ [(dst, qp, s.now)]
    frames := s.fab.frames ++ [.nak dst qp inc psn kind]
    nakSeq := if kind = 1 then satAdd 0xFFFF s.fab.nakSeq 1 else s.fab.nakSeq } }

/-- The established queue pair a frame names (R403, step 6). -/
def qpOf (s : State) (h : Hdr) : Option QPair :=
  s.fab.qps.find? (fun q => q.peer == h.src && q.num == h.qp && q.inc == h.inc && q.up)

/-- Steps 6 to 8 of R403 for a frame, or for a whole message of `h.packets` frames: the state, and whether it is accepted. A carried acknowledgement is applied
whatever happens to the rest. -/
def arrive (s : State) (h : Hdr) : State × Bool :=
  match qpOf s h with
  | none =>
    (sendNak { s with fab := { s.fab with staleInc := satAdd 0xFFFF s.fab.staleInc 1 } } h.src h.qp h.inc h.psn 3, false)
  | some q0 =>
    let s := match h.ack with | some p => ackApply s q0 p 0 | none => s
    match qpOf s h with
    | none => (s, false)
    | some q =>
      let d := (h.psn + 2 ^ 24 - q.expPsn) % 2 ^ 24
      if d = 0 then
        (modQp s (fun x => x.num == q.num && x.peer == q.peer) (fun x => { x with
          expPsn := (x.expPsn + h.packets) % 2 ^ 24, lastUse := s.now, owed := x.owed + h.packets
          owedAt := if x.owed = 0 then s.now else x.owedAt }), true)
      else if d ≤ 4095 then (sendNak s q.peer q.peerNum q.peerInc q.expPsn 1, false)
      else if 2 ^ 24 - 4096 ≤ d then
        (sendAck { s with fab := { s.fab with duplicates := wrapAdd 32 s.fab.duplicates 1 } } q 0, false)
      else ({ s with fab := { s.fab with discards := s.fab.discards + 1 } }, false)

/-- The first packet of a message cannot be taken for want of draft units (R375, R403): NAK of kind RNR, and the packet is not accepted. -/
def refuseRnr (s : State) (h : Hdr) : State :=
  match qpOf s h with
  | none => s
  | some q =>
    let s := modQp s (fun x => x.num == q.num && x.peer == q.peer) (fun x => { x with expPsn := h.psn, owed := x.owed - h.packets })
    { s with fab := { s.fab with
      frames := s.fab.frames ++ [.nak q.peer q.peerNum q.peerInc h.psn 2], nakRnr := satAdd 0xFFFF s.fab.nakRnr 1 } }

/-- Acknowledge a LAST packet with its message's code (R424). -/
def ackLast (s : State) (h : Hdr) (code : Nat) : State :=
  match qpOf s h with
  | some q => sendAck s q code
  | none => s

/-- Acknowledge an accepted packet that is not LAST when one is due (R424): asked for, or every ACK_EVERY packets. -/
def ackDue (s : State) (h : Hdr) (asked : Bool) : State :=
  match qpOf s h with
  | some q => if asked ∨ fieldOf (xptCtrl s) 6 0 ≤ q.owed then sendAck s q 0 else s
  | none => s

/-- A whole message delivered without an epoch check (R486): sequenced, handled, acknowledged with the code its handling gives. -/
def deliveredHw (s : State) (h : Hdr) (k : State → State × Nat) : Out :=
  alive s (
    let a := arrive s h
    if a.2 = false then a.1
    else
      let r := k a.1
      ackLast r.1 h r.2)

/-- The same for a message that firmware handles: it waits through a pause (R501). -/
def deliveredAs (s : State) (h : Hdr) (k : State → State × Nat) : Out :=
  awake s (
    let a := arrive s h
    if a.2 = false then a.1
    else
      let r := k a.1
      ackLast r.1 h r.2)

/-- A delivered CONTROL message: sequenced, refused for its epoch or membership (R486) with that code, else handled. -/
def delivered (s : State) (h : Hdr) (k : State → State) : Out :=
  deliveredAs s h (fun s =>
    let c := epochCheck s h
    if c = 0 then (k s, 0) else (s, c))

end Sys2Proof.Machine
end

