-- ==== Sys2Proof/Machine/Pages.lean ====
section
/-!
DEFINITION. Pages, frames and tiers (spec chapter 10, R271 to R282): allocation in the frame pool and the host windows, copies and
dirty bits, the pages a span covers, and the reading and writing of rows.
-/

namespace Sys2Proof.Machine

open Sys2Proof

/-- Tier codes (R103). -/
def tStacks : Nat := 0
def tHost : Nat := 1
def tFlash : Nat := 2

/-- Whether a frame leaves an extent free. -/
def Frame.clear (f : Option Frame) (half start units : Nat) : Bool :=
  match f with
  | some f => f.half != half || decide (start + units ≤ f.start ∨ f.start + f.units ≤ start)
  | none => true

/-- Whether an extent of the pool is free (R275): no page and no fetch in progress holds a part of it, and its half is in service (R52). -/
def extentFree (s : State) (half start units : Nat) : Bool :=
  !s.til.halfOut.contains half && s.pages.all (fun p => Frame.clear p.stack half start units) &&
  s.til.descs.all (fun d => Frame.clear d.frame half start units)

/-- The lowest free extent of a frame's size, aligned to it, in one half (R275). -/
def extentIn (s : State) (half units : Nat) : Option Frame :=
  if units = 0 then none
  else (firstFrom (fun k => extentFree s half (k * units) units) (poolUnits s / units) 0).map
    (fun k => { half := half, start := k * units, units := units })

/-- A frame in the half that R281 selects, else in the other half. -/
def allocFrame (s : State) (half units : Nat) : Option Frame :=
  match extentIn s half units with
  | some f => some f
  | none => extentIn s (1 - half) units

/-- The half of a new page of a sequence (R281). -/
def pageHalf (s : State) (obj : Handle) (layer k : Nat) : Nat :=
  let x := s.hashKey ^^^ BitVec.ofNat 64 (hNum obj) ^^^ BitVec.ofNat 64 (layer * 2 ^ 40)
  (k + (mix x).toNat % 2) % 2

/-- Units of host windows in use on a port (R302). -/
def hostUsed (s : State) (port : Nat) : Nat :=
  s.pages.foldl (fun n p => if p.host == some port then n + p.units else n) 0

/-- Units of the host windows of a port that are in service (R272, R518). -/
def hostRoom (s : State) (port : Nat) : Nat :=
  s.ident.windows.foldl (fun n w => if w.port == port && !w.retired then n + w.len / 4096 else n) 0

/-- Bytes of host-tier traffic a port carried in the last 1 ms (R273). -/
def portTraffic (s : State) (port : Nat) : Nat :=
  s.hostTraffic.foldl (fun n e => if e.2.1 == port && decide (s.now < e.1 + 1000) then n + e.2.2 else n) 0

/-- The port a new host-tier frame is placed on (R273): the one that carried less, ties to A; the other when its windows are full. -/
def placeHost (s : State) (units : Nat) : Option Nat :=
  let first := if portTraffic s 1 < portTraffic s 0 then 1 else 0
  if hostUsed s first + units ≤ hostRoom s first then some first
  else if hostUsed s (1 - first) + units ≤ hostRoom s (1 - first) then some (1 - first)
  else none

/-- Count host-tier bytes of a port. -/
def hostBytes (s : State) (port units : Nat) : State :=
  { s with hostTraffic := (s.hostTraffic.filter (fun e => decide (s.now < e.1 + 1000))) ++ [(s.now, port, units * 4096)] }

/-! ### The page table -/

/-- Put a page back in the table. -/
def setPage (s : State) (p : Page) : State := { s with pages := mapIf (fun x => x.number == p.number) (fun _ => p) s.pages }

/-- Add a page. -/
def addPage (s : State) (p : Page) : State := { s with pages := s.pages ++ [p] }

/-- Free every page that a test accepts, in every tier (R119, R225). -/
def freePages (s : State) (q : Page → Bool) : State := { s with pages := s.pages.filter (fun p => !q p) }

/-- The number of a new page object (R67). -/
def newPageNumber (s : State) : Nat × State := newNumber s clsPage (fun n => s.pages.any (fun p => p.number == n))

/-- Whether a page has a copy in a tier. -/
def Page.inTier (p : Page) (t : Nat) : Bool :=
  if t = tStacks then p.stack.isSome else if t = tHost then p.host.isSome else if t = tFlash then p.flash.isSome else false

/-- Whether a page's copy in a tier is dirty (R279). -/
def Page.dirtyIn (p : Page) (t : Nat) : Bool :=
  if t = tStacks then p.stackDirty else if t = tHost then p.hostDirty else p.flashDirty

/-- A copy in a tier that is clean relative to the newest (R107). -/
def Page.cleanIn (p : Page) (t : Nat) : Bool := p.inTier t && !p.dirtyIn t

/-- Remove a page's copy from a tier. -/
def Page.dropTier (p : Page) (t : Nat) : Page :=
  if t = tStacks then { p with stack := none, stackDirty := false, lookahead := false }
  else if t = tHost then { p with host := none, hostDirty := false }
  else { p with flash := none, flashDirty := false }

/-- Tiers that hold a copy, highest first. -/
def Page.tiers (p : Page) : List Nat := [tStacks, tHost, tFlash].filter p.inTier

/-- The TIERS field of a page entry (R214). -/
def Page.tierBits (p : Page) : Nat := bit p.stack.isSome + 2 * bit p.host.isSome

/-- The page entry of a page (R214). -/
def Page.entry (p : Page) : PageEntry := { number := p.number, lost := p.lost, tiers := p.tierBits, tokens := p.tokens }

/-- Give a page a clean copy in a tier, made from its newest copy (R279). None where the tier has no free frame. A flash copy is there once its frame is journaled
(R343): `viaFlash` places it first. -/
def copyInto (s : State) (p : Page) (t : Nat) : Option (State × Page) :=
  if p.cleanIn t then some (s, p)
  else if t = tStacks then
    match p.stack with
    | some _ => some (s, { p with stackDirty := false, newest := tStacks })
    | none => (allocFrame s (pageHalf s p.obj p.layer p.index) p.units).map
        (fun f => (match p.host with | some port => hostBytes s port p.units | none => s,
                   { p with stack := some f, stackDirty := false, newest := tStacks }))
  else if t = tHost then
    match p.host with
    | some port => some (hostBytes s port p.units, { p with hostDirty := false })
    | none => (placeHost s p.units).map
        (fun port => (hostBytes s port p.units, { p with host := some port, hostDirty := false }))
  else
    none

/-- The next lower tier under the personality (R103, R118). -/
def lowerTier (s : State) (t : Nat) : Option Nat :=
  if t = tStacks then some tHost
  else if t = tHost ∧ s.pers = some .cache then some tFlash
  else none

/-- Move a page to a tier as PMOVE does (R107): no transfer where a clean copy lies there; moving down frees the higher copies. -/
def movePage (s : State) (p : Page) (dest : Nat) : Option (State × Page) :=
  (copyInto s p dest).map (fun sp =>
    let p := sp.2
    let p := if dest > tStacks then p.dropTier tStacks else p
    let p := if dest > tHost then p.dropTier tHost else p
    (sp.1, { p with newest := if p.inTier p.newest then p.newest else dest }))

/-- A write into the stacks copy of a page: it becomes newest, and every lower copy dirty (R279); a look-ahead copy is discarded (R191). -/
def Page.written (p : Page) : Page :=
  { p with newest := tStacks, stackDirty := false, hostDirty := p.host.isSome, flashDirty := p.flash.isSome, lookahead := false }

/-! ### Objects and spans -/

/-- Change the copy of a sequence. -/
def modCopy (s : State) (h : Handle) (f : SeqCopy → SeqCopy) : State :=
  { s with own := { s.own with copies := mapIf (fun c => c.handle == h) f s.own.copies } }

/-- The castle timeout T_c in µs (R238). -/
def castleTo (s : State) : Nat := fieldOf (s.regs.get 0x14 0x804000) 15 0 * 100

/-- Start the timer of a wait in castling (R226); one that runs keeps its value (R238). -/
def armCastle (s : State) (h : Handle) : State := modCopy s h (fun c => { c with due := s.now + castleTo s })

/-- Remove the copy of a sequence. -/
def dropCopy (s : State) (h : Handle) : State :=
  { s with own := { s.own with copies := s.own.copies.filter (fun c => !(c.handle == h)) } }

/-- Positions a sequence holds in one layer: the written ones, its prefix included (R115). -/
def heldIn (s : State) (c : SeqCopy) (layer : Nat) : Nat :=
  let per := match findModel s c.model with | some m => perPage m.desc | none => 1
  let nums := c.pages.getD layer []
  c.desc.prefixLen +
    (nums.zipIdx.foldl (fun n x => match findPage s x.1 with
      | some p => if p.tokens = 0 then n else x.2 * per + p.tokens
      | none => n) 0)

/-- Positions held in every one of some layers. -/
def heldAll (s : State) (c : SeqCopy) (layers : List Nat) : Nat :=
  match layers with
  | [] => c.desc.prefixLen
  | l :: ls => ls.foldl (fun n l => min n (heldIn s c l)) (heldIn s c l)

/-- Positions a sequence holds: the highest one written in any layer, with its prefix (R145, R213). -/
def heldMost (s : State) (c : SeqCopy) : Nat :=
  (List.range c.pages.length).foldl (fun n l => max n (heldIn s c l)) c.desc.prefixLen

/-- A node and its ancestors, as this device knows them: a version's pages are its own and its ancestors' (R384, R385). -/
def nodeChain (s : State) : Nat → Handle → List Handle
  | 0, h => [h]
  | n + 1, h => match findHold s h with
    | some x => h :: (if x.parent = nullHandle ∨ x.parent = 0 then [] else nodeChain s n x.parent)
    | none => [h]

/-- Pages of one layer of a prefix node held here, in position order: shards, staged copies and drafts of it and its ancestors. -/
def nodePages (s : State) (h : Handle) (layer : Nat) : List Page :=
  let chain := nodeChain s 64 h
  let ps := s.pages.filter (fun p => chain.contains p.obj && p.layer == layer)
  (List.range (ps.foldl (fun n p => max n (p.index + 1)) 0)).filterMap (fun k => ps.find? (fun p => p.index == k))

/-- Blocks of a node's path held here, as positions. -/
def NodeHold.range (n : NodeHold) : Nat × Nat := (n.first * 64, (n.first + n.count) * 64)

/-- A hold that takes in the blocks `[first, first + count)` as well (R385, R388). -/
def NodeHold.extend (n : NodeHold) (first count : Nat) : NodeHold :=
  if count = 0 then n
  else if n.count = 0 then { n with first := first, count := count }
  else { n with first := min n.first first, count := max (n.first + n.count) (first + count) - min n.first first }

/-- The end of the positions that pages of an object here hold in one layer. -/
def pagesEnd (s : State) (obj : Handle) (per layer : Nat) : Nat :=
  s.pages.foldl (fun n p => if p.obj == obj && p.layer == layer && p.tokens != 0 then max n (p.index * per + p.tokens) else n) 0

/-- The end of the positions that the copy of a prefix node here holds, in the layer that holds most (R145, R157). -/
def nodeHeld (s : State) (h : Handle) (m : ModelRec) : Nat :=
  (List.range m.layers).foldl (fun n l => (nodeChain s 64 h).foldl (fun n o => max n (pagesEnd s o (2 ^ m.pageLog2) l)) n) 0

/-- The pages a page instruction covers, in page-list order (R101, R107): a page handle covers its page; a sequence its private
pages whose positions meet the span; a node the shard or staged pages held here. -/
def covered (s : State) (h : Handle) (sp : Span) : List Page :=
  if hCls h = clsPage then (findPage s (hNum h)).toList
  else
    match boundModel s h with
    | none => []
    | some m =>
      let per := perPage m.desc
      (sp.layers m.desc.layers).flatMap (fun l =>
        match findCopy s h with
        | some c =>
          (c.pages.getD l []).zipIdx.filterMap (fun x =>
            let lo := c.desc.prefixLen + x.2 * per
            if sp.covers (heldIn s c l) lo (lo + per) then findPage s x.1 else none)
        | none =>
          (nodePages s h l).filter (fun p => sp.covers (p.index * per + p.tokens) (p.index * per) ((p.index + 1) * per)))

/-- A page an issued descriptor is using (R280). -/
def pageBusy (s : State) (n : Nat) : Bool := s.til.descs.any (fun d => d.page == n)

/-- A page that is in no tier while it is fetched again from its mirror (R346): what needs it waits. -/
def awaited (p : Page) : Bool := !p.lost && p.tiers.isEmpty

/-- Frame-pool units of pinned pages (R302). -/
def pinnedUnits (s : State) : Nat := s.pages.foldl (fun n p => if p.pin > 0 && p.stack.isSome then n + p.units else n) 0

/-- The XTS key slot of a page (R326): that of the customer of the sequence or region it belongs to. -/
def pageKeySlot (s : State) (p : Page) : Nat :=
  match findCopy s p.obj with
  | some c => customerSlot s c.desc.customer
  | none =>
    match (if p.kind = .weight then regionIndex s p.obj else none) with
    | some i => customerSlot s (getK s i).customer
    | none => 0

/-- A new page in the stacks, its slots zero (R277). -/
def freshPage (n : Nat) (kind : PageKind) (obj : Handle) (layer index : Nat) (f : Frame) : Page :=
  { number := n, kind := kind, obj := obj, layer := layer, index := index, units := f.units, stack := some f,
    stackDirty := false, host := none, hostDirty := false, flash := none, flashDirty := false, newest := tStacks, tokens := 0,
    lost := false, pin := 0, refs := 0, acked := true, lookahead := false, lookAt := 0, lastRead := 0, busy := 0,
    pubOrder := 0, rows := [] }

/-! ### Published region versions at a C device (R389) -/

/-- Where the stacks copy of a region's 2 MiB unit lies: in the region's own memory and the weight pool, no unit of the frame pool. -/
def weightFrame : Frame := { half := 0, start := 0, units := 0 }

/-- The 4 KiB pages of unit `u` of a region's current version that are not all zeros. -/
def unitRows (s : State) (k : KeyEntry) (u : Nat) : Tbl (List Byte) :=
  (List.range 512).filterMap (fun j =>
    let off := (512 * u + j) * 4096
    if k.len ≤ off then none
    else
      let bs := regionRead s k off 4096
      if bs.all (fun b => b == 0) then none else some (j, bs))

/-- Weight pages of regions in the stacks, and the 2 MiB pages that all models use of the weight pool (R278). -/
def weightsUp (s : State) : Nat := (s.pages.filter (fun p => p.kind == .weight && p.stack.isSome)).length + s.models.foldl (fun n m => n + m.weightPages) 0

/-- While the weight pool is over-full, the stacks copy of the least recently read region unit that has a clean lower copy is dropped (R280, R389). -/
def trimWeights : Nat → State → State
  | 0, s => s
  | n + 1, s =>
    if weightsUp s ≤ s.ident.weightMiB / 2 then s
    else
      match (s.pages.filter (fun p => p.kind == .weight && p.stack.isSome && (p.cleanIn tHost || p.cleanIn tFlash))).foldl (fun (b : Option Page) p => match b with
          | none => some p
          | some q => if p.lastRead < q.lastRead then some p else b) none with
      | none => s
      | some p => trimWeights n (setPage s { p.dropTier tStacks with newest := if p.host.isSome then tHost else tFlash })

/-- A 2 MiB unit of a region's newest version is held as a weight page, newest in the stacks (R278, R279, R389). -/
def publishUnit (i : Nat) (s : State) (u : Nat) : State :=
  let k := getK s i
  let rows := unitRows s k u
  match s.pages.find? (fun p => p.kind == .weight && p.obj == k.region && p.index == u) with
  | some p => setPage s { p.written with stack := some weightFrame, rows := rows, pubOrder := s.tz.seqNo }
  | none =>
    let n := newPageNumber s
    addPage n.2 { { freshPage n.1 .weight k.region 0 u weightFrame with units := 512 } with rows := rows, refs := 1, pubOrder := s.tz.seqNo }

/-- After a commit at a C device the units of the version that the draft changed are weight pages (R389). -/
def publishUnits (s : State) (i : Nat) (d : Draft) : State :=
  if s.pers = some .cache then
    let us := d.units.foldl (fun l v => if l.contains (v.page / 512) then l else l ++ [v.page / 512]) []
    let s := us.foldl (publishUnit i) s
    trimWeights s.pages.length s
  else s

/-- An accepted read of a region: units held only in a lower tier are brought up first (R389). -/
def unitsUp (s : State) (i off n : Nat) : State :=
  let hit : Page → Bool := fun p => p.kind == .weight && p.obj == (getK s i).region && decide (p.index * 2 ^ 21 < off + n ∧ off < (p.index + 1) * 2 ^ 21)
  if s.pages.any hit = false then s
  else
    let up := fun (p : Page) => if p.stack.isSome ∨ p.lost then { p with lastRead := s.now } else { p with stack := some weightFrame, stackDirty := false, newest := tStacks, lastRead := s.now }
    let down := s.pages.filter (fun p => hit p && p.stack.isNone && !p.lost)
    let s := down.foldl (fun s p => match p.host with | some port => hostBytes s port p.units | none => s) s
    trimWeights s.pages.length { s with pages := mapIf hit up s.pages }

/-- The key of a page has been destroyed (R327): it is unreadable from that moment. -/
def keyDead (s : State) (p : Page) : Bool := s.keySlots.get 0 (pageKeySlot s p) == 2

/-- A page that cannot be read (R52, R109, R309): lost, a block of it damaged, its key destroyed, or its newest copy on a half out of service. -/
def unreadable (s : State) (p : Page) : Bool :=
  p.lost || damaged s p || keyDead s p || (p.newest == tStacks && (match p.stack with | some f => s.til.halfOut.contains f.half | none => false))

/-- The rows of a page as the plaintext form carries them: every slot in order, b bytes each (R277, R305). -/
def pageBytes (b per : Nat) (p : Page) : List Byte :=
  (List.range per).flatMap (fun t => p.rows.get (List.replicate b 0) t)

/-- The rows of plaintext page bytes: the slots below TOKENS. -/
def rowsOfBytes (b tokens : Nat) (bs : List Byte) : Tbl (List Byte) :=
  (List.range tokens).map (fun t => (t, sliceBytes bs (t * b) b))

/-- An executing ATTEND or EXPAND reads a page (R25): its object, layer and positions are among those the instruction names. -/
def readByAttend (s : State) (p : Page) : Bool :=
  s.tz.started.any (fun r =>
    let b := r.blk
    let att := r.ent.opcode == 0x40
    let lo := if att then fieldBytes b 4 1 else fieldBytes b 2 1
    let n := if att then fieldBytes b 5 1 else fieldBytes b 3 1
    let first := if att then fieldBytes b 20 3 else fieldBytes b 8 3
    let last := if att then (if fieldBytes b 24 3 = 0 then fieldBytes b 16 3 else first + fieldBytes b 24 3) else first + fieldBytes b 12 4
    let node := match findCopy s r.ent.b with | some c => c.desc.pfx | none => r.ent.b
    let per := match boundModel s r.ent.b with | some m => perPage m.desc | none => 1
    (att || r.ent.opcode == 0x42) && (decide (r.phase = .ready) || decide (r.phase = .waiting)) && decide (lo ≤ p.layer ∧ p.layer < lo + n) &&
    decide (p.index * per < last ∧ first < (p.index + 1) * per) && (nodeChain s 64 node).contains p.obj)

/-- Free stack frames of least recently read pages that a test lets go, until an extent of the size exists (R25, R280). -/
def freeOwn : Nat → State → (Page → Bool) → (Page → Page) → Nat → Nat → Option (State × Frame)
  | 0, _, _, _, _, _ => none
  | fuel + 1, s, may, drop, half, units =>
    match allocFrame s half units with
    | some f => some (s, f)
    | none =>
      let cands := s.pages.filter (fun p => may p && p.pin == 0 && p.stack.isSome && !pageBusy s p.number)
      match cands.foldl (fun (b : Option Page) p => match b with
          | none => some p
          | some q => if p.lastRead < q.lastRead then some p else b) none with
      | none => none
      | some p =>
        let p' := drop p
        let s' := if p'.tiers.isEmpty then { s with pages := s.pages.filter (fun x => !(x.number == p.number)) } else setPage s p'
        freeOwn fuel s' may drop half units

/-- A stack frame for a new copy, freeing what the personality frees on its own (R280): staged copies under P, stacks copies of published pages
with a clean lower copy under C. Under G nothing; pre-emption is the device's own step (R234). A page that an executing ATTEND reads stays (R25), as do staged rows not yet sent
to their owner and the pages that `keep` names. -/
def takeFrame (s : State) (keep : Page → Bool) (half units : Nat) : Option (State × Frame) :=
  match s.pers with
  | some .prompt => freeOwn (s.pages.length + 1) s (fun p => p.kind == .staged && p.acked && !keep p && !readByAttend s p) (fun p => p.dropTier tStacks) half units
  | some .cache =>
    freeOwn (s.pages.length + 1) s (fun p => p.kind == .shard && (p.cleanIn tHost || p.cleanIn tFlash) && !keep p)
      (fun p => { p.dropTier tStacks with newest := if p.host.isSome then tHost else tFlash }) half units
  | _ => (allocFrame s half units).map (fun f => (s, f))

/-- Put a page's newest copy in the stacks, freeing what the personality frees but for the pages `keep` names (R282). -/
def bringUp (s : State) (keep : Page → Bool) (p : Page) : Option (State × Page) :=
  if p.stack.isSome then copyInto s p tStacks
  else
    match takeFrame s keep (pageHalf s p.obj p.layer p.index) p.units with
    | none => none
    | some (s', f) =>
      let s' := match p.host with | some port => hostBytes s' port p.units | none => s'
      some (s', { p with stack := some f, stackDirty := false, newest := tStacks })

/-- An allocation of frames has found none (R234). -/
def noFrame (s : State) : State := { s with own := { s.own with short := true } }

/-- Whether a G device refuses new admissions for want of frames (R236): pre-emption stopped and frames not above LOW_WATER, or
ENABLE 0 and a shortage. -/
def refusesFrames (s : State) : Bool :=
  s.pers == some .generation &&
  (s.own.preemptStop || !bitOf (s.regs.get 0x00000A0100180010 0x804008) 32) && decide (freeFrames s ≤ lowWater s)

end Sys2Proof.Machine
end

