-- ==== Sys2Proof/Machine/FlashMap.lean ====
section
/-!
DEFINITION. Where frames lie on flash (spec chapter 12, R338 to R343, R347 to R351, R356): block addresses, write points, the placing of frames, journal records, retirement.
-/

namespace Sys2Proof.Machine

open Sys2Proof

/-! ### Registers -/

/-- FBE_BG_CTRL (R364). -/
def flBgCtrl (s : State) : W64 := s.regs.get 0x105 0x400000
/-- FBE_PATROL_CTRL (R365). -/
def flPatrolCtrl (s : State) : W64 := s.regs.get 0x00A8006400C80004 0x400008
/-- FBE_WEAR_CTRL (R365). -/
def flWearCtrl (s : State) : W64 := s.regs.get 0x01F40005 0x400010
/-- FBE_META_CTRL (R366). -/
def flMetaCtrl (s : State) : W64 := s.regs.get 0x003C0014 0x400018

/-! ### Addresses and blocks -/

/-- Change the flash state. -/
def modFl (s : State) (f : Fl → Fl) : State := { s with fl := f s.fl }

/-- A block's address (R338): the sector address of its first sector. -/
def blockAddr (ch ce lun plane b : Nat) : Nat := ch * 2 ^ 40 + ce * 2 ^ 37 + lun * 2 ^ 35 + plane * 2 ^ 33 + b * 2 ^ 19

/-- The plane of a sector address: its channel, chip enable, LUN and plane. -/
def planeOf (a : Nat) : Nat := a / 2 ^ 33 * 2 ^ 33
/-- The block of a sector address. -/
def blockOf (a : Nat) : Nat := a / 2 ^ 19 * 2 ^ 19
/-- The target of a sector address: 8 × channel + chip enable (R579). -/
def targetOf (a : Nat) : Nat := a / 2 ^ 37

/-- The LUNs in the order new frames go to them (R340): channels first, then chip enables, then LUNs; targets out of service are left out. -/
def writePoints (s : State) (g : FlashGeom) : List Nat :=
  (List.range g.luns).flatMap (fun lun => (List.range 8).flatMap (fun ce => (List.range 16).filterMap (fun ch =>
    if natBit g.channels ch && natBit (g.ces.getD ch 0) ce && !(s.fl.targetsOut.contains (8 * ch + ce)) then some (blockAddr ch ce lun 0 0) else none)))

/-- Sectors of a block. -/
def blockSectors (g : FlashGeom) : Nat := 256 * g.pages

/-- A block's record. -/
def getB (s : State) (b : Nat) : FlBlock := s.fl.blocks.get FlBlock.init b

/-- A block of the metadata area (R354). -/
def metaBlock (g : FlashGeom) (b : Nat) : Bool := decide (b % 2 ^ 40 = b / 2 ^ 19 % 2 ^ 14 * 2 ^ 19 ∧ b / 2 ^ 19 % 2 ^ 14 < g.metaBlocks)

/-- Log a flash event with its reason (R522), which FBE_STATUS shows (R367). -/
def logFl (s : State) (code severity a : Nat) : State :=
  logEvent (modFl s (fun f => { f with reason := code })) (evOf 0x06 code severity 0 [a, targetOf a])

/-- Note a journal record to be programmed (R356). -/
def note (s : State) (type arg : Nat) (frame : Option FlFrame) (block : Option FlBlock) : State :=
  modFl s (fun f => { f with jq := f.jq ++ [{ seq := 0, type := type, arg := arg, frame := frame, block := block, hold := none }] })

/-- Set a block's record, and journal it. -/
def putB (s : State) (b : Nat) (v : FlBlock) : State := note (modFl s (fun f => { f with blocks := f.blocks.set b v })) 4 b none (some v)

/-- Data blocks of the geometry (R351). -/
def dataBlocks (s : State) (g : FlashGeom) : Nat :=
  (writePoints { s with fl := { s.fl with targetsOut := [] } } g).length * g.planes * g.blocks -
    ((List.range 16).filter (fun ch => natBit g.channels ch)).length * g.metaBlocks

/-- The tier becomes READ_ONLY when too many blocks are bad (R351). -/
def checkWear (s : State) : State :=
  match s.fl.geom with
  | none => s
  | some g =>
    let bad := (s.fl.blocks.filter (fun x => x.2.st == 5 || x.2.st == 6)).length
    if s.fl.tier = 2 ∧ fieldOf (flWearCtrl s) 4 0 * dataBlocks s g < 100 * bad then
      raiseErr (logFl (modFl s (fun f => { f with tier := 3 })) Code.flWearLimit sevDegraded 0) 0x09 0 sevDegraded Code.flWearLimit 0x01 0
    else s

/-- A free block becomes BAD_GROWN (R347): its factory marker reads bad, or the record lists it. -/
def markBad (s : State) (b : Nat) : State :=
  checkWear (logFl (modFl (putB s b { getB s b with st := 6 }) (fun f => { f with retired := satAdd 0xFFFFFFFF f.retired 1 })) Code.flBlockRetired sevInfo b)

/-- A free block that may not be used (R347): one the record lists bad, and one whose marker reads bad before its first erase. -/
def badFree (s : State) (g : FlashGeom) (b : Nat) : Bool := g.bad.contains b || (s.fl.marked.contains b && (s.fl.blocks.find b).isNone)

/-- The free blocks of a plane that matter to a choice: those listed, and the first that no record lists. -/
def freeBlocks (s : State) (g : FlashGeom) (plane : Nat) : List (Nat × FlBlock) :=
  let listed := s.fl.blocks.filter (fun x => planeOf x.1 == plane && (x.2.st == 0 || x.2.st == 1) && !metaBlock g x.1 && !(s.fl.erasing.contains x.1))
  let fresh := firstFrom (fun n => (s.fl.blocks.find (plane + n * 2 ^ 19)).isNone && !metaBlock g (plane + n * 2 ^ 19)) g.blocks 0
  listed ++ (match fresh with | some n => [(plane + n * 2 ^ 19, FlBlock.init)] | none => [])

/-- The free block of a plane with the lowest count (R340, R350). -/
def bestFree (s : State) (g : FlashGeom) (plane : Nat) : Option Nat :=
  ((freeBlocks s g plane).foldl (fun (b : Option (Nat × FlBlock)) x => match b with
    | none => some x
    | some y => if x.2.pe < y.2.pe ∨ (x.2.pe = y.2.pe ∧ x.1 < y.1) then some x else b) none).map (·.1)

/-- Free blocks of a plane (R349). -/
def freeCount (s : State) (g : FlashGeom) (plane : Nat) : Nat :=
  let here := s.fl.blocks.filter (fun x => planeOf x.1 == plane && !metaBlock g x.1)
  let metas := if plane % 2 ^ 40 = 0 then g.metaBlocks else 0
  (g.blocks - metas - here.length) + (here.filter (fun x => (x.2.st == 0 || x.2.st == 1) && !(s.fl.erasing.contains x.1))).length

/-- The block a plane opens next (R340, R350); free blocks that may not be used are retired on the way (R347). -/
def nextFree (g : FlashGeom) (plane floor : Nat) : Nat → State → State × Option Nat
  | 0, s => (s, none)
  | k + 1, s =>
    match (if freeCount s g plane ≤ floor then none else bestFree s g plane) with
    | none => (s, none)
    | some n => if badFree s g n then nextFree g plane floor k (markBad s n) else (s, some n)

/-- Room for a frame at a plane's write point (R340): the open block where it fits, else a new one, the old one closed. At the floor of R349 only reclaim (`floor` 0)
takes a new block. -/
def roomAt (s : State) (g : FlashGeom) (plane len floor : Nat) : Option (State × Nat) :=
  let fits : Option Nat := (s.fl.opens.find plane).bind (fun b => if (getB s b).used + len ≤ blockSectors g then some b else none)
  match fits with
  | some b => some (modFl s (fun f => { f with blocks := f.blocks.set b { getB s b with used := (getB s b).used + len } }), b + (getB s b).used)
  | none =>
    match nextFree g plane floor (g.bad.length + s.fl.marked.length + 1) s with
    | (_, none) => none
    | (s, some n) =>
      let s := match s.fl.opens.find plane with
        | some b => putB s b { getB s b with st := 3, used := blockSectors g }
        | none => s
      let v := getB s n
      let s := putB s n { v with st := 2, used := len, reads := 0, pe := if v.st = 1 ∧ (s.fl.blocks.find n).isSome then min 1048575 (v.pe + 1) else v.pe }
      some (modFl s (fun f => { f with opens := f.opens.set plane n }), n)

/-- Room for a frame at the next write point that has some. -/
def roomFrom (s : State) (g : FlashGeom) (points : List Nat) (len floor : Nat) : Nat → Nat → Option (State × Nat)
  | 0, _ => none
  | n + 1, i =>
    match points[i % points.length]? with
    | none => none
    | some l =>
      match roomAt s g (l + i / points.length % g.planes * 2 ^ 33) len floor with
      | some x => some (modFl x.1 (fun f => { f with next := i + 1 }), x.2)
      | none => roomFrom s g points len floor n (i + 1)

/-- LENGTH of a page's frame (R341, R342): header sectors and its blocks as stored. -/
def frameSectors (s : State) (p : Page) : Nat :=
  let tags := match s.cx.pageTags.find? (fun t => t.number == p.number) with
    | some t => if t.up.isEmpty then t.low else t.up
    | none => List.replicate (2 * p.units) tagRaw
  1 + ceilDiv (2 * p.units - 32) 64 + tags.foldl (fun n t => n + tagSectors t) 0

/-- The lowest FFN not in use. -/
def freeFfn (s : State) : Nat := (firstFrom (fun n => (s.fl.frames.find n).isNone) (s.fl.frames.length + 1) 1).getD 1

/-- Place a frame for a page (R340, R343): none where every plane waits for reclaim. -/
def placeFrame (s : State) (p : Page) : Option State :=
  match s.fl.geom with
  | none => none
  | some g =>
    let pts := writePoints s g
    let len := frameSectors s p
    let ffn := p.flash.getD (freeFfn s)
    match roomFrom s g pts len 2 (pts.length * g.planes) s.fl.next with
    | none => none
    | some (s, a) =>
      let old := s.fl.frames.find ffn
      let fr : FlFrame := {
        kind := if p.kind = .weight then 1 else 0, about := p.number, page := some p, start := a, len := len, st := 0,
        prev := old.bind (fun o => if o.st = 2 then some (o.start, o.len) else none) }
      some (modFl s (fun f => { f with frames := f.frames.set ffn fr }))

/-! ### Map pages (R342, R357) -/

/-- The map as journaled: a frame being moved is where it was, and one not yet mapped is not there. -/
def mapNow (s : State) : Tbl FlFrame :=
  s.fl.frames.filterMap (fun x =>
    if x.2.st = 2 ∨ x.2.st = 3 then some x
    else x.2.prev.map (fun p => (x.1, { x.2 with start := p.1, len := p.2, st := 2, prev := none })))

/-- Where a map page stands among the frames: above every FFN. -/
def mapKey (index : Nat) : Nat := 2 ^ 36 + index

/-- A map entry (R342): VALID, MISSING, LENGTH and start sector address. -/
def mapEntry (f : FlFrame) : Nat := 2 ^ 63 + bit (f.st == 3) * 2 ^ 62 + f.len % 2 ^ 16 * 2 ^ 44 + f.start % 2 ^ 44

/-- The bytes of a map page (R342): 2,048 entries, 0 where an FFN is not in use. -/
def mapPageBytes (s : State) (index : Nat) : List Byte :=
  let m : Tbl FlFrame := (mapNow s).filter (fun x => x.1 / 2048 == index)
  (List.range 2048).flatMap (fun i => leBytes 8 (match m.find (2048 * index + i) with | some f => mapEntry f | none => 0))

/-- A journal record programmed at once, after those already programmed (R356). -/
def journalNow (s : State) (j : JRec) : State := modFl s (fun f => { f with jseq := f.jseq + 1, journal := f.journal ++ [{ j with seq := f.jseq + 1 }] })

/-- Write a dirty map page as a new frame of KIND 2 and journal its DIR record (R342, R357); the directory names none for a map page without an entry. Its blocks are of the device
domain; where no plane has room it stays dirty. -/
def writeMapPage (s : State) (index : Nat) : State :=
  let clean := fun (s : State) => modFl s (fun f => { f with dirty := f.dirty.filter (fun x => x != index) })
  match s.fl.geom with
  | none => s
  | some g =>
    if (mapNow s).any (fun x => x.1 / 2048 == index) = false then
      clean (journalNow (modFl s (fun f => { f with frames := f.frames.del (mapKey index) })) { seq := 0, type := 5, arg := index, frame := none, block := none, hold := none })
    else
      let pts := writePoints s g
      let len := 1 + ((chunks 2048 8 (mapPageBytes s index)).map (fun b => tagSectors (blockTag s 2 b))).sum
      match roomFrom s g pts len 0 (pts.length * g.planes) s.fl.next with
      | none => s
      | some (s, a) =>
        let fr : FlFrame := { kind := 2, about := index, page := none, start := a, len := len, st := 2, prev := none }
        clean (journalNow (modFl s (fun f => { f with frames := f.frames.set (mapKey index) fr })) { seq := 0, type := 5, arg := index, frame := some fr, block := none, hold := none })

/-- Write every dirty map page (R357). -/
def writeMapPages (s : State) : State := s.fl.dirty.foldl writeMapPage s

/-- Place a frame that is no page's, of a LENGTH its content has (R341): a shard record (KIND 3) or a warm-start image (KIND 4). Answers its FFN. -/
def placeOther (s : State) (kind about len floor : Nat) : Option (State × Nat) :=
  match s.fl.geom with
  | none => none
  | some g =>
    let pts := writePoints s g
    let ffn := freeFfn s
    (roomFrom s g pts len floor (pts.length * g.planes) s.fl.next).map (fun x =>
      (modFl x.1 (fun f => { f with frames := f.frames.set ffn { kind := kind, about := about, page := none, start := x.2, len := len, st := 0, prev := none } }), ffn))

/-! ### The two sides of the metadata (R354, R356) -/

/-- A side of the metadata cannot be used (R354, R356, R368): 0 is A, 1 is B. None of its channels is configured, or chip enable 0 of one of them, where the metadata lies, is out of service. -/
def sideOut (s : State) (side : Nat) : Bool :=
  match s.fl.geom with
  | none => true
  | some g =>
    let chs := (List.range 8).filter (fun i => natBit g.channels (8 * side + i))
    chs.isEmpty || chs.any (fun i => s.fl.targetsOut.contains (8 * (8 * side + i)))

/-- A frame for this content of a page is on its way to flash. -/
def frameComing (s : State) (p : Page) : Bool :=
  s.fl.frames.any (fun x => decide (x.2.st < 2) && x.2.page.any (fun q => q.number == p.number && q.rows == p.rows))

/-- Have pages copied to flash (R107, R343): MEM_EXHAUSTED where the tier takes no new frame (R351); the Bool says that some copies are still on their way. -/
def stageFlash (s : State) (ps : List Page) : State × Nat × Bool :=
  let need := ps.filter (fun p => (findPage s p.number).any (fun q => !(q.cleanIn tFlash)))
  if need.isEmpty then (s, 0, false)
  else if s.fl.tier ≠ 2 then (s, if s.fl.tier = 1 then 0 else Code.memExhausted, true)
  else ((need.filter (fun p => !(frameComing s p))).foldl (fun s p => (placeFrame s p).getD s) s, 0, true)

/-- Go on with a transfer to flash once every page's frame is journaled; the instruction stays as it is until then. -/
def viaFlash (s : State) (id : Nat) (dest : Nat) (ps : List Page) (k : State → State) : State :=
  if dest ≠ tFlash then k s
  else
    let x := stageFlash s (ps.filter (fun p => !unreadable s p))
    if x.2.1 ≠ 0 then finish x.1 id x.2.1
    else if x.2.2 then x.1
    else k x.1

end Sys2Proof.Machine
end

