-- ==== Sys2Proof/Machine/Records.lean ====
section
/-!
DEFINITION. The state records (spec chapter 08, R213 to R219): how a home changes a record through its partner, how an owner asks for
a change, and what goes on when the change is applied.
-/

namespace Sys2Proof.Machine

open Sys2Proof

/-- The record this device holds as home. -/
def findHome (s : State) (h : Handle) : Option HomeRec := s.own.homes.find? (fun r => r.desc.handle == h)

/-- Change a record held as home. -/
def modHome (s : State) (h : Handle) (f : HomeRec → HomeRec) : State :=
  { s with own := { s.own with homes := mapIf (fun r => r.desc.handle == h) f s.own.homes } }

/-- Cut a flat list of entries into layer lists of the lengths given (R213, record order). -/
def relist : List Nat → List PageEntry → List (List PageEntry)
  | [], _ => []
  | n :: ns, es => es.take n :: relist ns (es.drop n)

/-- Put an entry at an index of a layer's list; an index at the end adds it (R224, ENTRIES). -/
def putEntry (pages : List (List PageEntry)) (it : EntryItem) : List (List PageEntry) :=
  pages.zipIdx.map (fun x =>
    if x.2 = it.layer then
      (if it.index < x.1.length then x.1.set it.index it.entry else x.1 ++ [it.entry])
    else x.1)

/-- Remove an entry at an index of a layer's list. -/
def cutEntry (pages : List (List PageEntry)) (it : EntryItem) : List (List PageEntry) :=
  pages.zipIdx.map (fun x => if x.2 = it.layer then x.1.eraseIdx it.index else x.1)

/-- PRIVATE_LEN from the entries: the highest written position + 1, less the prefix (R213). -/
def privateLen (per : Nat) (pages : List (List PageEntry)) : Nat :=
  pages.foldl (fun n l => max n (l.zipIdx.foldl (fun n e => if e.1.tokens = 0 then n else e.2 * per + e.1.tokens) 0)) 0

/-- A record with its page lists replaced, PRIVATE_LEN following them. -/
def SeqRecordPages (per : Nat) (r : SeqRecord) (pages : List (List PageEntry)) : SeqRecord :=
  { r with pages := pages, privateLen := privateLen per pages }

/-- The record after an update, under the VERSION that rises by 1 (R213); none when the record is deleted. -/
def applyUpd (per : Nat) (u : RecUpd) (r : SeqRecord) : Option SeqRecord :=
  let r' := { r with version := r.version + 1 }
  match u with
  | .create n => some { n with version := 1 }
  | .add items => some (SeqRecordPages per r' (items.foldl putEntry r.pages))
  | .change items => some (SeqRecordPages per r' (items.foldl putEntry r.pages))
  | .remove items => some (SeqRecordPages per r' (items.foldl cutEntry r.pages))
  | .setState st target _ =>
    some { r' with state := st, target := if st = 1 then target else noDevice }
  | .commit target comp es =>
    some { SeqRecordPages per r' (relist (r.pages.map List.length) es) with
      owner := target, epoch := r.epoch + 1, state := 0, target := noDevice,
      comp := if r.comp = 0xFFFF then comp else r.comp }
  | .ruling owner epoch es =>
    let r'' := match es with
      | some es => SeqRecordPages per r' (relist (r.pages.map List.length) es)
      | none => r'
    some { r'' with owner := owner, epoch := epoch, state := 0, target := noDevice }
  | .setPrefix node len comp => some { r' with pfx := node, prefixLen := len, comp := comp }
  | .resend => some r'
  | .delete => none

/-- The mirror partner answers and takes updates: it is named and present at the current map epoch (R215). -/
def partnerUp (s : State) : Bool := s.ident.partner != noDevice && present s s.ident.partner

/-- The memory a queue's pointers name (R90): LOC and function; a remote submission uses device memory. -/
def queueMem (s : State) (r : Running) : Nat × Nat :=
  if r.sub.isSome then (1, r.fid) else ((getQ s r.queue).loc, r.fid)

/-- The writer an instruction acts as (R374): its own function's, or the one a forwarding device names. -/
def writerOf (s : State) (r : Running) : Writer :=
  match r.sub with
  | some d => { device := d.device, port := d.port, fn := d.fn }
  | none => { device := self s, port := r.fid / 64, fn := r.fid % 64 }

/-- Write the 16-byte report block of an instruction (R104). -/
def writeReport (s : State) (r : Running) (bs : List Byte) : State :=
  match reportAddr r.ent r.blk with
  | some a =>
    let m := queueMem s r
    locWrite s m.1 m.2 a (bs ++ List.replicate (16 - bs.length) 0)
  | none => s

/-- The report of CLAIM and CASTLE (R133): handle, owner, epoch. -/
def ownReport (h : Handle) (owner epoch : Nat) : List Byte :=
  leBytes 8 h ++ leBytes 2 owner ++ [0, 0] ++ leBytes 4 epoch

/-- Finish a CASTLE or CLAIM, with its report on the codes that report (R133). -/
def finishOwn (s : State) (id code : Nat) (h : Handle) (owner epoch : Nat) : State :=
  match findRun s id with
  | some r =>
    let s := if code = 0 ∨ code = Code.ownStalemateResolved then writeReport s r (ownReport h owner epoch) else s
    finish s id code
  | none => s

/-- The log event OWNERSHIP (R522). -/
def evOwnership : Nat := 0x02

/-- The entries of a sequence's pages here, layer by layer (R214). -/
def copyEntries (s : State) (c : SeqCopy) : List (List PageEntry) :=
  c.pages.map (fun l => l.map (fun n => match findPage s n with
    | some p => p.entry
    | none => { number := n, lost := true, tiers := 0, tokens := 0 }))

/-- A side holds a complete copy: every entry of the record is present and readable, in its stacks or host memory (R222). -/
def completeCopy (s : State) (c : SeqCopy) : Bool :=
  (c.st == .owner || c.st == .offered || c.st == .pulled || c.st == .committing || c.st == .accepted) &&
  (c.st != .accepted || c.pages.map List.length == c.desc.pages.map List.length) &&
  c.pages.all (fun l => l.all (fun n => match findPage s n with
    | some p => !p.lost && !unreadable s p && (p.stack.isSome || p.host.isSome)
    | none => false))

/-- Free a side's copy of a sequence's private pages and its pins (R218, R225). -/
def freeCopyPages (s : State) (h : Handle) : State := freePages s (fun p => p.obj == h && p.kind == .priv)

/-- The OFFER of a sequence (R224, R225 step 1). -/
def sendOffer (s : State) (h : Handle) : State :=
  match findCopy s h with
  | none => s
  | some c =>
    match findModel s c.model with
    | none => s
    | some m =>
      let desc := { c.desc with state := 1, target := c.peer, pages := copyEntries s c }
      let toks := c.pages.flatten.foldl (fun n x => n + (match findPage s x with | some p => p.tokens | none => 0)) 0
      let bytes := rowBytes m.desc * toks
      let s := armCastle (modCopy s h (fun c => { c with st := .offered, tries := 0 })) h
      controlVia s c.castleComp c.peer h (.offer c.epoch c.castleComp bytes (m.weightPages * 2 ^ 21) m.desc desc)

/-- The size of a record in 4 KiB granules (R213, R214). -/
def recordGranules (r : SeqRecord) : Nat :=
  ceilDiv (256 + ceilDiv (4 * r.layers) 64 * 64 + 8 * r.pages.flatten.length) 4096

/-- Granules in use in the record area, records and mirrors (R217). -/
def granulesUsed (s : State) : Nat :=
  s.own.homes.foldl (fun n r => n + recordGranules r.desc) 0 + s.own.mirrors.foldl (fun n r => n + recordGranules r) 0

/-- Whether the record area takes further granules (R217). -/
def granuleRoom (s : State) (n : Nat) : Bool := decide (granulesUsed s + n ≤ s.ident.recordMiB * 256)

/-- A message to the home of a sequence, or to the partner that answers as home (R36), through the composition its record is served through. -/
def toHome (s : State) (comp : Nat) (h : Handle) (msg : Msg) : State := controlVia s comp (hHome h) h msg

/-- The home has answered a release (R34): a record that is gone takes the copy here with it, else the owner that was refused keeps a stale one (R218). -/
def releaseEnd (s : State) (h : Handle) (code : Nat) : State :=
  let s := { s with own := { s.own with releasing := s.own.releasing.filter (fun w => !(w.handle == h)) } }
  let s := if code = Code.ownNotOwner then s else dropCopy s h
  match s.tz.started.find? (fun r => r.ent.opcode == opPevict && r.ent.flag 4 && r.ent.a == h && decide (r.phase = .waiting)) with
  | some r => finish s r.id code
  | none => s

/-- The instruction that waits for a change of the record. -/
def Cont.waiter : Cont → Option Nat
  | .acked _ w => w
  | .instr id _ => some id
  | .claim id => some id
  | _ => none

/-- An owner that is refused as stale frees its copy (R218): it answers OWN_NOT_OWNER from then on, or TZ_BAD_HANDLE where the record is gone. A target that has not
accepted learns of it by ABORT; one that has accepted asks the home after T_c and learns of it by RULING (R226, R227), since the COMMIT may have been applied. -/
def fenceCopy (s : State) (h : Handle) (code : Nat) : State :=
  match findCopy s h with
  | none => s
  | some c =>
    let s := (c.waits.filterMap (fun x => x.2.waiter)).foldl (fun s id => finish s id code) s
    let s := match c.castleInstr with | some id => finishOwn s id code h noDevice 0 | none => s
    let s := if c.st = .offered ∨ c.st = .pulled then controlVia s c.castleComp c.peer h (.abort c.epoch code) else s
    let s := freeCopyPages s h
    let s := { s with own := { s.own with preempting := s.own.preempting.filter (fun x => !(x == h)) } }
    if code = Code.ownStateLost then dropCopy s h
    else modCopy s h (fun c => { c with st := .stale, pages := [], waits := [], castleInstr := none, swapped := false })

/-- The message an owner sends its home for an update (R224). -/
def updMsg (epoch : Nat) (u : RecUpd) : Msg :=
  match u with
  | .add items => .entries epoch 0 0 0 0 items
  | .change items => .entries epoch 1 0 0 0 items
  | .remove items => .entries epoch 2 0 0 0 items
  | .setState st target comp => .entries epoch 3 st (if st = 1 then target else noDevice) (if st = 1 then comp else 0) []
  | _ => .entries epoch 1 0 0 0 []

/-- What an owner does once the home has answered the change it asked for. -/
def runCont (s : State) (h : Handle) (k : Cont) : State :=
  match k with
  | .acked ns _ => { s with pages := mapIf (fun p => ns.contains p.number) (fun p => { p with acked := true }) s.pages }
  | .instr id code => finish s id code
  | .claim id => finishOwn s id 0 h (self s) 1
  | .castleOffer => sendOffer s h
  | .released => releaseEnd s h 0
  | .swapEnd => { s with own := { s.own with preempting := s.own.preempting.filter (fun x => !(x == h)) } }
  | .resumed =>
    let s := modCopy s h (fun c => { c with swapped := false, resumedAt := s.now })
    { s with own := { s.own with resumes := wrapAdd 32 s.own.resumes 1 } }

/-- The home refuses a change an owner asked for (R217, R218): a page whose entry finds no granule is gone again, and an owner that is stale frees its copy; what waited for it ends with the
code. -/
def contRefused (s : State) (h : Handle) (k : Cont) (code : Nat) : State :=
  let s :=
    if code = Code.memExhausted then
      match k with
      | .acked ns _ =>
        modCopy (freePages s (fun p => ns.contains p.number && !p.acked)) h (fun c => { c with pages := c.pages.map (fun l => l.filter (fun n => !(ns.contains n))) })
      | _ => s
    else if k = .released then releaseEnd s h code
    else fenceCopy s h code
  match k.waiter with
  | some id => finish s id code
  | none => s

/-- The old owner on COMMITTED (R225 step 6): its private pages and pins go, and TAKE is sent. A second CASTLE that waits behind will find that this device is no longer owner (R242). -/
def ownerCommitted (s : State) (h : Handle) (epoch : Nat) : State :=
  match findCopy s h with
  | some c =>
    if c.st = .committing then
      let s := freeCopyPages s h
      let s := armCastle (modCopy s h (fun c => { c with st := .freed, epoch := epoch, pages := [], tries := 0 })) h
      let s := modRun s (fun r => decide (r.phase = .behind) && r.ent.opcode == opCastle && r.ent.a == h) (fun r => { r with codes := [(self s, Code.ownNotOwner)] })
      controlVia s c.castleComp c.peer h (.take epoch)
    else s
  | none => s

/-- The ownership log entry a side writes on its own host's ring (R231, R235). -/
def ownLog (s : State) (h : Handle) (code owner epoch : Nat) : State :=
  logEvent s (evOf evOwnership code (if code = Code.ownStateLost ∨ code = Code.ownNotOwner ∨ code = Code.ownCastleTimeout then sevContained else sevInfo) h [owner, epoch])

/-- The commit notification of R30: the vector NOTIFY has set on each port, and the log entry OWNER_TAKEN with the new epoch and the old owner. -/
def commitNotice (s : State) (h : Handle) (epoch old : Nat) : State :=
  logEvent (s.notify.foldl (fun s n => raiseVec s n.1 n.2) s) (evOf 0x01 0 sevInfo h [epoch, old])

/-- The tail reserve a target took at the OFFER joins its page lists once it is owner (R216, R225): the entries go to the home without holding anything. A target is under G and homes no
record (R217). -/
def listReserve (s : State) (h : Handle) : State :=
  match findCopy s h with
  | none => s
  | some c =>
    let listed := c.pages.flatten
    let fresh := s.pages.filter (fun p => p.obj == h && p.kind == .priv && !(listed.contains p.number))
    let ns := fresh.map (·.number)
    let items := fresh.map (fun p => ({ layer := p.layer, index := p.index, entry := p.entry } : EntryItem))
    let s := { s with pages := mapIf (fun p => ns.contains p.number) (fun p => { p with acked := false }) s.pages }
    let s := modCopy s h (fun c => { c with
      pages := c.pages.zipIdx.map (fun x => x.1 ++ (fresh.filter (fun p => p.layer == x.2)).map (·.number))
      waits := if items.isEmpty then c.waits else c.waits ++ [(.add items, .acked ns none)] })
    if items.isEmpty then s else toHome s c.desc.comp h (updMsg c.epoch (.add items))

/-- The target is owner at an epoch (R225 step 7, R231): so says its record, its tail reserve is listed, and the commit notification of R30 is raised. -/
def becomeOwner (s : State) (h : Handle) (epoch comp : Nat) : State :=
  match findCopy s h with
  | none => s
  | some c =>
    let s := modCopy s h (fun c => { c with
      st := .owner, epoch := epoch, peer := noDevice, castleInstr := none, claimInstr := none, pulls := [], outstanding := 0, lastAttend := s.now
      desc := { c.desc with owner := self s, epoch := epoch, state := 0, target := noDevice, comp := comp } })
    commitNotice (listReserve s h) h epoch c.peer

/-- A side on RULING (R231): named owner, it keeps or takes its copy and is owner at the ruled epoch; not named, it frees its copy.
A pending CASTLE completes with the code, a pending asserting CLAIM likewise; every side writes a log entry. -/
def rulingAtSide (s : State) (h : Handle) (epoch owner code : Nat) : State :=
  match findCopy s h with
  | none => ownLog s h code owner epoch
  | some c =>
    let s := match c.castleInstr with | some id => finishOwn s id code h owner epoch | none => s
    let s := match c.claimInstr with | some id => finishOwn s id code h owner epoch | none => s
    let s :=
      if owner = self s then
        if c.st = .accepted then becomeOwner s h epoch c.desc.comp
        else modCopy s h (fun c => { c with st := .owner, epoch := epoch, castleInstr := none, claimInstr := none, peer := noDevice, pulls := [], outstanding := 0 })
      else if c.st = .accepted ∧ c.castleInstr = none ∧ c.claimInstr.isSome ∧ code = Code.ownNotOwner then
        modCopy s h (fun c => { c with claimInstr := none })
      else
        let s := freeCopyPages s h
        if owner = noDevice then dropCopy s h
        else if c.st = .pulling ∨ c.st = .accepted ∨ c.st = .freed then dropCopy s h
        else modCopy s h (fun c => { c with st := .stale, pages := [], castleInstr := none, claimInstr := none })
    ownLog s h code owner epoch

/-- The home answers whoever asked for the update it has applied (R215). -/
def doAns (s : State) (h : Handle) (desc : SeqRecord) (a : Ans) : State :=
  match a with
  | .none => s
  | .here k => runCont s h k
  | .entriesAck d => control s d h (.entriesAck desc.epoch 0 desc.version)
  | .committed d => if d = self s then ownerCommitted s h desc.epoch else control s d h (.committed desc.epoch 0 desc.version)
  | .released d => control s d h (.released desc.epoch 0)
  | .ruled owner epoch sides =>
    sides.foldl (fun s x =>
      if x.1 = self s then rulingAtSide s h epoch owner x.2 else control s x.1 h (.ruling epoch owner x.2)) s

/-- The home refuses an update (R217, R218): whoever asked for it learns the code. -/
def refuseAns (s : State) (h : Handle) (desc : SeqRecord) (code : Nat) (a : Ans) : State :=
  match a with
  | .here k => contRefused s h k code
  | .entriesAck d => control s d h (.entriesAck desc.epoch code desc.version)
  | .committed d => if d = self s then fenceCopy s h code else control s d h (.committed desc.epoch code 0)
  | .released d => control s d h (.released desc.epoch code)
  | _ => s

/-- Drop the reference a record holds on a prefix node (R34, R123, R386): REF −1 to the index member. -/
def dropRef (s : State) (comp : Nat) (node : Handle) : State :=
  if node = nullHandle ∨ node = 0 then s else
  match membership? s comp with
  | none => s
  | some m =>
    if m.map.index = self s then
      let tree := mapIf (fun n => n.handle == node) (fun n => { n with refs := n.refs - 1, freeSince := s.now }) s.rgn.tree
      { s with rgn := { s.rgn with tree := tree } }
    else control s m.map.index node (.ref (-1))

/-- Rulings made as home and records deleted (R240). -/
def countRuling (s : State) (lost : Bool) : State :=
  { s with own := { s.own with
      rulings := wrapAdd 32 s.own.rulings 1
      lostCount := if lost then wrapAdd 32 s.own.lostCount 1 else s.own.lostCount } }

/-- Tokens per page of the descriptor a home's record names. -/
def homePer (s : State) (r : SeqRecord) : Nat := match findModel s r.model with | some m => perPage m.desc | none => 64

/-- The check of a waiting update as it is to be applied (R217, R218): under the recorded owner and epoch, with a granule for what it adds. -/
def headCode (s : State) (r : HomeRec) (w : QueuedUpd) : Nat :=
  if w.under.any (fun x => x.1 != r.desc.owner || x.2 != r.desc.epoch) then Code.ownNotOwner
  else
    match applyUpd (homePer s r.desc) w.upd r.desc with
    | some d => if granuleRoom s (recordGranules d - recordGranules r.desc) then 0 else Code.memExhausted
    | none => 0

/-- Apply the first waiting update of a record and answer it (R215). With a deletion the record's reference to a prefix node is dropped (R34). -/
def applyHead (s : State) (h : Handle) : State :=
  match findHome s h with
  | none => s
  | some r =>
    match r.queue with
    | [] => s
    | w :: rest =>
      match applyUpd (homePer s r.desc) w.upd r.desc with
      | some d =>
        let s := modHome s h (fun r => { r with
          desc := d, queue := rest, inflight := none,
          castleComp := match w.upd with | .setState 1 _ c => c | _ => r.castleComp
          before := if d.owner = r.desc.owner then r.before else r.desc.owner })
        doAns s h d w.ans
      | none =>
        let s := dropRef { s with own := { s.own with homes := s.own.homes.filter (fun r => !(r.desc.handle == h)) } } r.desc.comp r.desc.pfx
        doAns (match w.ans with | .ruled _ _ _ => countRuling s true | _ => s) h r.desc w.ans

/-- Start waiting updates of a record: each is checked, goes to the partner whole with its VERSION (a deletion by RECORD_DELETE), and is applied when acknowledged; while the partner is absent,
updates are applied unmirrored (R215). `fuel` bounds how many apply at once. -/
def pump : Nat → State → Handle → State
  | 0, s, _ => s
  | fuel + 1, s, h =>
    match findHome s h with
    | none => s
    | some r =>
      match r.queue, r.inflight with
      | w :: rest, none =>
        let code := headCode s r w
        if code ≠ 0 then pump fuel (refuseAns (modHome s h (fun r => { r with queue := rest })) h r.desc code w.ans) h
        else if partnerUp s then
          let v := r.desc.version + 1
          control (modHome s h (fun r => { r with inflight := some v, due := s.now + castleTo s })) s.ident.partner h
            (match applyUpd (homePer s r.desc) w.upd r.desc with | some d => .recordMsg d.version d | none => .recordDelete v)
        else pump fuel (applyHead (modHome s h (fun r => { r with unmirrored := true })) h) h
      | _, _ => s

/-- Start every waiting update of a record that can start. -/
def pumpAll (s : State) (h : Handle) : State := pump (((findHome s h).map (·.queue.length)).getD 0 + 1) s h

/-- Offer an update of a record held here (R215), asked for by an owner at an epoch, or by none. -/
def homeAsk (s : State) (h : Handle) (under : Option (Nat × Nat)) (u : RecUpd) (a : Ans) : State :=
  pumpAll (modHome s h (fun r => { r with queue := r.queue ++ [{ upd := u, ans := a, under := under }] })) h

/-- Offer an update of the home's own. -/
def homeUpdate (s : State) (h : Handle) (u : RecUpd) (a : Ans) : State := homeAsk s h none u a

/-- An owner asks for a change of a record: at its home here, or by ENTRIES (R216). With home and partner both gone the sequence is freed (R232). -/
def changeRecord (s : State) (h : Handle) (u : RecUpd) (k : Cont) : State :=
  match findCopy s h with
  | none => s
  | some c =>
    if (findHome s h).isSome then homeAsk s h (some (self s, c.epoch)) u (.here k)
    else
      let s := modCopy s h (fun c => { c with waits := c.waits ++ [(u, k)] })
      if homeFound s c.desc.comp (hHome h) then toHome s c.desc.comp h (updMsg c.epoch u) else fenceCopy s h Code.ownStateLost

/-- A release goes to its home (R34, R36), again where it has to; with home and partner both gone it ends with OWN_STATE_LOST (R232). -/
def releaseAgain (s : State) (w : Releasing) : State :=
  if (findHome s w.handle).isSome then
    homeAsk s w.handle (some (self s, w.epoch)) .delete (.here .released)
  else if homeFound s w.comp (hHome w.handle) then toHome s w.comp w.handle (.release w.epoch)
  else releaseEnd s w.handle Code.ownStateLost

/-- A sequence's ENTRIES of which no packet has left. -/
def unsentEntries (h : Handle) (q : Option QPair) (m : SendMsg) : Bool :=
  m.out.subject == h && (match m.out.msg with | .entries .. => true | _ => false) &&
  (match q with | some q => q.unacked.all (fun u => u.msg != m.id) | none => true)

/-- Ask again for every change of a record not yet answered, in order (R36, R216): of the home, of the partner that answers as home, or of the record here. -/
def askAgain (s : State) (h : Handle) : State :=
  match findCopy s h with
  | none => s
  | some c =>
    let s := { s with fab := { s.fab with
      waiting := s.fab.waiting.filter (fun m => !(unsentEntries h none m)), refused := s.fab.refused.filter (fun m => !(unsentEntries h none m))
      qps := s.fab.qps.map (fun q => { q with msgs := q.msgs.filter (fun m => !(unsentEntries h (some q) m)) }) } }
    if (findHome s h).isSome then
      c.waits.foldl (fun s x => homeAsk s h (some (self s, c.epoch)) x.1 (.here x.2)) (modCopy s h (fun c => { c with waits := [] }))
    else if c.waits.isEmpty then s
    else if homeFound s c.desc.comp (hHome h) then c.waits.foldl (fun s x => toHome s c.desc.comp h (updMsg c.epoch x.1)) s
    else fenceCopy s h Code.ownStateLost

/-- The owner of a castle that ends before ACCEPT is OWNER again, and CASTLE completes with the code (R225, R226, R228). -/
def castleBack (s : State) (h : Handle) (code : Nat) : State :=
  match findCopy s h with
  | none => s
  | some c =>
    let s := modCopy s h (fun c => { c with st := .owner, castleInstr := none, peer := noDevice })
    match c.castleInstr with
    | some id => finishOwn s id code h (self s) c.epoch
    | none => s

/-- A castle ends before ACCEPT: the home's STATE goes back to 0 and TARGET to 0x7FFF (R225). -/
def castleEnds (s : State) (h : Handle) (code : Nat) : State := changeRecord (castleBack s h code) h (.setState 0 noDevice 0) (.acked [] none)

/-- The ENTRIES items for some pages of a sequence, each at its place (R224). -/
def itemsFor (s : State) (c : SeqCopy) (ps : List Page) : List EntryItem :=
  ps.filterMap (fun p =>
    if p.obj = c.handle then (findPage s p.number).map (fun q => { layer := q.layer, index := q.index, entry := q.entry }) else none)

/-- Every update the owner has sent is applied (R216): a lifecycle instruction and a swap wait for this. -/
def updatesDone (s : State) (h : Handle) : Bool :=
  (match findCopy s h with | some c => c.waits.isEmpty | none => true) &&
  (match findHome s h with | some r => r.queue.isEmpty | none => true)

/-- A record whose STATE the device never writes, or whose check bits fail, is lost: it is deleted with its mirror (R219). -/
def recordDamaged (r : HomeRec) : Bool := r.damaged || decide (r.desc.state > 3)

end Sys2Proof.Machine
end

