-- ==== Sys2Proof/Machine/Checks.lean ====
section
/-!
DEFINITION. The checks an instruction passes at its start, in the order of R92: level, format, rights, handles and the objects they
name (R636), and admission (R466) with its charge (R105, R143, R467).
-/

namespace Sys2Proof.Machine

open Sys2Proof

/-- What the checks look at: the instruction, its parameter block, and the queue it came through. -/
structure Ctx where
  e : Entry
  blk : List Byte
  q : Nat
  fid : Nat
  loc : Nat
  level : Nat
  remote : Bool

/-- All bytes `[off, off + n)` of a block are 0. -/
def zeros (blk : List Byte) (off n : Nat) : Bool := fieldBytes blk off n == 0

/-- The first code whose condition fails. -/
def firstFail : List (Bool × Nat) → Nat
  | [] => 0
  | (okay, c) :: t => if okay then firstFail t else c

/-- An aligned pointer that, for LOC 1, names memory inside the carve (R90, R104). -/
def pointerOk (s : State) (loc a align n : Nat) : Bool := a % align == 0 && (loc == 0 || inCarve s a n)

/-- Whether the parameter block is at hand: OPERAND_C names memory that can hold it (R90), or a remote submission brought it along. -/
def blockOk (s : State) (c : Ctx) : Bool := (c.remote && !c.blk.isEmpty) || pointerOk s c.loc c.e.c 64 (blockLen c.e c.blk)

/-- Step 2 of R92; a major level other than 1 is refused (R58). -/
def levelOk (s : State) (c : Ctx) : Bool :=
  decide (wordLevel c.e ≤ c.level) &&
  (!(hasBlock c.e && blockOk s c) ||
    (decide (blockLevel c.e c.blk ≤ c.level) && decide (fieldBytes c.blk 0 2 ≤ c.level ∧ fieldBytes c.blk 0 2 / 256 = 1)))

/-- A buffer reference without reserved bits (R68). -/
def refOk (b : BufRef) : Bool := b.reserved == 0

/-- Range of a length operand (R137, R140, R162): 1 to 256 MiB. -/
def lengthOk (n : Nat) : Bool := decide (1 ≤ n ∧ n ≤ 0x10000000)

/-- The fields of the PINGEST and CONVERT row parameter block that depend on no object (R113). -/
def ingestOk (s : State) (b : List Byte) : Bool :=
  decide (1 ≤ fieldBytes b 2 1 ∧ fieldBytes b 2 1 ≤ 3) && decide (1 ≤ fieldBytes b 4 1) && zeros b 5 3 &&
  zeros b 11 1 && decide (1 ≤ fieldBytes b 12 4 ∧ fieldBytes b 12 4 ≤ 65536) && refOk (bufAt b 16) &&
  decide ((bufAt b 16).device = self s) && decide (fieldBytes b 32 4 % 4 = 0) && zeros b 36 4 &&
  decide (fieldBytes b 40 8 % 64 = 0) && zeros b 56 8

/-- Row `i` of an explicit mask is legal (R147): its own bit set, no bit at or above QUERY_COUNT; later rows are 0. -/
def maskOk (b : List Byte) : Bool :=
  let qc := fieldBytes b 3 1
  if fieldBytes b 6 1 = 0 then zeros b 96 32
  else (List.range 16).all (fun i =>
    let row := fieldBytes b (96 + 2 * i) 2
    if i < qc then natBit row i && decide (row < 2 ^ qc) else decide (row = 0))

/-- The combinations of R151, with R150 for OUTPUT_MODE 0. -/
def attendModesOk (det : Bool) (b : List Byte) : Bool :=
  let ph := fieldBytes b 7 1
  let om := fieldBytes b 8 1
  (if det then (ph == 0 && om == 0) || ((ph == 1 || ph == 2) && (om == 1 || om == 2)) else ph == 0 && decide (om ≤ 2)) &&
  (om != 0 || (zeros b 20 4 && zeros b 24 4))

/-- Fields of the ATTEND block that depend on no object (R145). -/
def attendOk (s : State) (e : Entry) (b : List Byte) : Bool :=
  let f := Fmt.fp32.read (fieldBytes b 28 4)
  let qc := fieldBytes b 3 1
  let om := fieldBytes b 8 1
  let ph := fieldBytes b 7 1
  [2, 4, 5].contains e.format && decide (fieldBytes b 2 1 ≤ 1) && decide (1 ≤ qc ∧ qc ≤ 16) &&
  decide (1 ≤ fieldBytes b 5 1) && decide (fieldBytes b 6 1 ≤ 1) && decide (ph ≤ 2) && decide (om ≤ 2) &&
  (fieldBytes b 9 1 == 1 || (fieldBytes b 9 1 == 2 && om == 0)) && zeros b 12 4 && zeros b 19 1 && zeros b 23 1 && zeros b 27 1 &&
  decide (qc ≤ fieldBytes b 16 3) && f.isFin && (f.dy?.map (·.m)) != some 0 &&
  refOk (bufAt b 32) && refOk (bufAt b 64) && refOk (bufAt b 80) &&
  decide (fieldBytes b 48 8 % 64 = 0) && decide (fieldBytes b 56 8 % 64 = 0) &&
  (ph != 1 || zeros b 64 16) && (ph != 0 || zeros b 80 16) &&
  (ph != 2 || decide ((bufAt b 80).device = self s)) && maskOk b && zeros b 128 128 && attendModesOk e.det b

/-- Fields of the ATTEND block measured against the descriptor the handle names (R145, R177). They depend on an object, so they are checked at step 5 (R636 names CONTEXT_LENGTH
alone of ATTEND's fields: DEDUCED, log 32). -/
def attendModelOk (e : Entry) (b : List Byte) (m : ModelRec) : Bool :=
  let hc := if fieldBytes b 11 1 = 0 then m.heads - fieldBytes b 10 1 else fieldBytes b 11 1
  let qc := fieldBytes b 3 1
  let alg := fieldBytes b 2 1
  let el := if alg = 0 then (if m.kind = 0 then m.latent + m.rotary else m.keyWidth) else m.keyWidth + m.rotary
  let d := if alg = 0 then (if m.kind = 0 then m.latent else m.valueWidth) else m.valueWidth
  let qb := if e.format = 2 then 2 else 1
  let om := fieldBytes b 8 1
  let rowB := if om = 0 then d * (if fieldBytes b 9 1 = 2 then 2 else 4)
    else if e.det then d * 16 + 32 else d * 4 + 8
  decide (fieldBytes b 4 1 + fieldBytes b 5 1 ≤ m.layers) && decide (fieldBytes b 10 1 < m.heads) &&
  decide (fieldBytes b 10 1 + hc ≤ m.heads) && (alg != 1 || (m.kind == 0 && m.weightFormat != 0)) &&
  decide (qc * hc * el * qb ≤ fieldBytes b 48 8) && (fieldBytes b 7 1 == 1 || decide (qc * hc * rowB ≤ fieldBytes b 56 8))

/-- Element size of RREDUCE's SOURCE, or the size of one tuple (R162). -/
def reduceUnit (e : Entry) : Nat :=
  if e.op74 = 4 then
    let d := e.b / 2 ^ 32 % 256 * 32
    let rows := e.b % 2 ^ 32
    rows * (if e.det then d * 16 + 32 else d * 4 + 8)
  else if e.format = 2 then 2
  else if e.format = 0x21 then 8
  else 4

/-- Whether a combinable add meets R445: 8 to 64 bytes within one aligned block of 64. -/
def addUnitOk (len off : Nat) : Bool := decide (8 ≤ len ∧ len ≤ 64 ∧ off / 64 = (off + len - 1) / 64)

/-- The forms of RREDUCE (R162), with R445 for a combinable one. -/
def reduceOk (s : State) (e : Entry) (b : List Byte) : Bool :=
  let op := e.op74
  (match op with
   | 0 => if e.det then e.format == 1 else e.format == 1 || e.format == 2
   | 1 | 2 => [0x01, 0x02, 0x20, 0x21].contains e.format
   | 3 => e.format == 0x21
   | 4 => e.format == 1
   | _ => false) &&
  (if op = 4 then decide (e.b / 2 ^ 40 = 0 ∧ 1 ≤ e.b / 2 ^ 32 % 256 ∧ e.b / 2 ^ 32 % 256 ≤ 128 ∧ 1 ≤ e.b % 2 ^ 32) else e.b == 0) &&
  lengthOk e.a && decide (e.a % reduceUnit e = 0) && (!e.combinable || addUnitOk e.a (bufAt b 32).offset) && zeros b 2 14 && refOk (bufAt b 16) && refOk (bufAt b 32) && refOk (bufAt b 48) &&
  decide ((bufAt b 16).device = self s) &&
  (if op = 3 then decide ((bufAt b 48).device = self s) else bufZero (bufAt b 48))

/-- The forms of VOP (R161). -/
def vopOk (e : Entry) (b : List Byte) : Bool :=
  let op := e.op74
  let needB := [0, 1, 3, 4, 6, 7].contains op
  [1, 2, 3].contains e.format && decide (1 ≤ e.a ∧ e.a ≤ 2 ^ 28) && e.b == 0 && zeros b 2 2 && zeros b 12 4 &&
  refOk (bufAt b 16) && refOk (bufAt b 32) && refOk (bufAt b 48) && (needB != bufZero (bufAt b 32)) &&
  decide (1 ≤ fieldBytes b 4 4 ∧ fieldBytes b 4 4 ≤ 65536) && (op != 6 || e.a % 2 == 0) &&
  ((op != 8 && op != 9) || decide (e.a % fieldBytes b 4 4 = 0))

/-- The forms of GEMM (R160). -/
def gemmOk (e : Entry) (b : List Byte) : Bool :=
  let m := fieldBytes b 8 4
  let n := fieldBytes b 12 4
  let k := fieldBytes b 16 4
  [2, 4, 5].contains e.format && e.a == 0 && e.b == 0 && decide (1 ≤ fieldBytes b 2 1 ∧ fieldBytes b 2 1 ≤ 2) && zeros b 3 5 &&
  decide (1 ≤ m ∧ m ≤ 65536 ∧ 1 ≤ n ∧ n ≤ 65536 ∧ 1 ≤ k ∧ k ≤ 65536) &&
  decide (k ≤ fieldBytes b 20 4 ∧ n ≤ fieldBytes b 24 4 ∧ n ≤ fieldBytes b 28 4) &&
  refOk (bufAt b 32) && refOk (bufAt b 48) && refOk (bufAt b 64) && refOk (bufAt b 80) &&
  (e.flag 4 || bufZero (bufAt b 64)) && zeros b 96 32

/-- The forms of AMERGE (R154). -/
def amergeOk (e : Entry) (b : List Byte) : Bool :=
  let d := fieldBytes b 4 2
  let qh := fieldBytes b 2 1 * fieldBytes b 3 1
  let tup := qh * (if e.det then d * 16 + 32 else d * 4 + 8)
  let om := fieldBytes b 7 1
  let outB := if om = 0 then qh * d * (if fieldBytes b 8 1 = 2 then 2 else 4) else tup
  e.format == 1 && decide (2 ≤ e.a ∧ e.a ≤ 64) && e.b == 0 && decide (1 ≤ fieldBytes b 2 1 ∧ fieldBytes b 2 1 ≤ 16) &&
  decide (1 ≤ fieldBytes b 3 1) && decide (32 ≤ d ∧ d ≤ 4096 ∧ d % 32 = 0) && decide (1 ≤ fieldBytes b 6 1) && decide (om ≤ 1) &&
  (fieldBytes b 8 1 == 1 || (fieldBytes b 8 1 == 2 && om == 0)) && zeros b 9 7 && zeros b 48 16 && refOk (bufAt b 32) &&
  decide (fieldBytes b 16 8 % 64 = 0 ∧ tup ≤ fieldBytes b 16 8 ∧ fieldBytes b 24 8 % 64 = 0 ∧ outB ≤ fieldBytes b 24 8) &&
  (List.range e.a).all (fun i => refOk (bufAt b (64 + 16 * i)))

/-- The forms of EXPAND that depend on no object (R156). -/
def expandOk (e : Entry) (b : List Byte) : Bool :=
  [2, 4, 5].contains e.format && decide (1 ≤ fieldBytes b 3 1) && zeros b 6 2 && zeros b 11 1 &&
  decide (1 ≤ fieldBytes b 12 4 ∧ fieldBytes b 12 4 ≤ 65536) && refOk (bufAt b 16) && refOk (bufAt b 32) &&
  (e.flag 4 || bufZero (bufAt b 16)) && (e.flag 5 || bufZero (bufAt b 32)) &&
  decide (fieldBytes b 48 8 % 64 = 0 ∧ fieldBytes b 56 8 % 64 = 0)

/-- The buffer form of CONVERT (R159). -/
def convertBufOk (e : Entry) (b : List Byte) : Bool :=
  let src := fieldBytes b 2 1
  let isF := fun f => (plainFmt f).isSome || (mxElem f).isSome
  let mx := (mxElem src).isSome || (mxElem e.format).isSome
  decide (1 ≤ e.a ∧ e.a ≤ 2 ^ 28) && e.b == 0 && zeros b 3 13 && zeros b 48 16 && refOk (bufAt b 16) && refOk (bufAt b 32) &&
  (if e.flag 5 then src == 0 && (e.format == 1 || e.format == 2) else isF src && isF e.format && (!mx || e.a % 32 == 0))

/-- What step 3 asks of an opcode's FORMAT, operands and parameter block (chapters 04 and 05). -/
def operandsOk (s : State) (c : Ctx) : Bool :=
  let e := c.e
  let b := c.blk
  let plain := e.format == 0
  if e.opcode = opNop ∨ e.opcode = opFence then plain && e.a == 0 && e.b == 0 && e.c == 0
  else if e.opcode = opWaitcnt then plain && decide (e.b < 2 ^ 48 ∧ e.c ≤ 60000)
  else if e.opcode = opSignal then plain && decide (e.b < 2 ^ 48 ∧ e.c = 0)
  else if e.opcode = opHaltq then plain && e.b == 0 && e.c == 0
  else if e.opcode = opTrace then plain && decide (0xE0 ≤ e.a ∧ e.a ≤ 0xFF ∧ e.b < 2 ^ 48 ∧ e.c = 0)
  else if e.opcode = opBudget then
    plain && decide (e.a < 2 ^ 16) &&
    (if e.op74 = 0 then decide (e.b < 2 ^ 32 ∧ 1 ≤ e.c ∧ e.c < 2 ^ 32)
     else if e.op74 = 1 then decide (e.b < 2 ^ 32 ∧ e.c = 0)
     else decide (1 ≤ e.b ∧ e.b < 2 ^ 16 ∧ e.c = 0))
  else if e.opcode = opPmove then plain && decide (e.c < 3) && (hCls e.a != clsPage || e.b == 0)
  else if e.opcode = opPevict then
    plain && (if e.flag 4 then e.b == 0 && e.c == 0 else decide (e.c < 3) && (hCls e.a != clsPage || e.b == 0))
  else if e.opcode = opPcopy then plain && decide (e.c < 2 ^ 20 ∧ e.c / 2 ^ 15 % 2 = 0 ∧ e.c / 2 ^ 16 < 3)
  else if e.opcode = opPpin ∨ e.opcode = opPunpin then plain && e.c == 0 && (hCls e.a != clsPage || e.b == 0)
  else if e.opcode = opPingest then (mxElem e.format).isSome && ingestOk s b
  else if e.opcode = opPmatch then
    plain && decide (e.b < 2 ^ 12) && zeros b 2 2 && decide (1 ≤ fieldBytes b 4 4 ∧ fieldBytes b 4 4 ≤ 16384) && zeros b 8 8 &&
    refOk (bufAt b 16) && refOk (bufAt b 32) && zeros b 48 16
  else if e.opcode = opRegister then
    plain && decide (e.a < 0x1000 ∨ e.a = 0xFFFF) && e.b == 0 && decide (fieldBytes b 2 1 < 2 ∧ fieldBytes b 3 1 < 2) &&
    (!e.flag 7 || fieldBytes b 3 1 == 1) && zeros b 4 4 && decide (fieldBytes b 8 8 % 4096 = 0) &&
    decide (fieldBytes b 16 8 % 4096 = 0 ∧ 4096 ≤ fieldBytes b 16 8 ∧ fieldBytes b 16 8 ≤ 2 ^ 40)
  else if e.opcode = opRevoke ∨ e.opcode = opDiscard then plain && e.b == 0 && e.c == 0
  else if e.opcode = opPublish then plain && decide (e.b < 2 ^ 48) && (e.flag 4 || e.c == 0)
  else if e.opcode = opClaim then plain && (e.a == nullHandle || e.b == 0)
  else if e.opcode = opCastle then plain && decide (e.b < 2 ^ 28 ∧ e.b / 2 ^ 15 % 2 = 0) && (e.flag 4 || e.c == 0)
  else if e.opcode = opRwrite ∨ e.opcode = opRread then
    plain && lengthOk e.a && e.b == 0 && zeros b 2 14 && zeros b 48 16 && refOk (bufAt b 16) && refOk (bufAt b 32) &&
    decide ((bufAt b (if e.opcode = opRwrite then 16 else 32)).device = self s) &&
    (!e.combinable || decide ((bufAt b 16).offset % 64 = 0 ∧ e.a % 64 = 0))
  else if e.opcode = opMcast then
    plain && lengthOk e.a && decide (e.b < 2 ^ 16) && decide (1 ≤ fieldBytes b 2 1 ∧ fieldBytes b 2 1 ≤ 64) && zeros b 3 13 &&
    refOk (bufAt b 16) && decide ((bufAt b 16).device = self s) && zeros b 38 26 &&
    (List.range (fieldBytes b 2 1)).all (fun i => decide (fieldBytes b (64 + 8 * i) 2 < 2 ^ 15) && zeros b (66 + 8 * i) 2)
  else if e.opcode = opRreduce then reduceOk s e b
  else if e.opcode = opAttend then
    attendOk s e b
  else if e.opcode = opAmerge then amergeOk e b
  else if e.opcode = opExpand then expandOk e b
  else if e.opcode = opConvert then
    (if e.flag 4 then (mxElem e.format).isSome && ingestOk s b && decide (fieldBytes b 48 8 = nullHandle) else convertBufOk e b)
  else if e.opcode = opGemm then gemmOk e b
  else if e.opcode = opVop then vopOk e b
  else false

/-- Step 3 of R92. -/
def formatOk (s : State) (c : Ctx) : Bool :=
  decide (c.e.customer ≠ 0xFFFF) && flagsOk c.e && (!c.e.signal || decide (c.e.counter ≠ 0xFFFF)) &&
  (!hasBlock c.e || blockOk s c) && operandsOk s c &&
  (match reportAddr c.e c.blk with | some a => pointerOk s c.loc a 16 16 | none => true)

/-- The customer entry that makes an ID known to admission (R462): VALID, and its key slot LOADED (state 1). -/
def knownCustomer (s : State) (id : Nat) : Option Nat :=
  (s.adm.customers.find? (fun x => x.2.valid && x.2.customer == id && s.keySlots.get 0 x.2.keySlot == 1)).map (·.1)

/-- Whether the personality has the opcode (R5, R6, R108, R133 to R135, R145). -/
def persOk (s : State) (e : Entry) : Bool :=
  let cacheOnly := s.pers == some .cache
  if e.opcode = opPingest then persIn s [.prompt]
  else if e.opcode = opMcast then persIn s [.prompt, .cache]
  else if e.opcode = opClaim then (if e.a = nullHandle then persIn s [.prompt] else persIn s [.prompt, .generation])
  else if e.opcode = opCastle then persIn s [.prompt, .generation]
  else if e.opcode = opPmove then (cacheOnly || (e.c != tFlash && hCls e.a != clsNode))
  else if e.opcode = opPevict ∧ e.flag 4 = false then cacheOnly || e.c != tFlash
  else if e.opcode = opPcopy then cacheOnly || e.c / 2 ^ 16 != tFlash
  else if e.opcode = opAttend then hCls e.b != clsNode || persIn s [.prompt, .cache]
  else true

/-- A handle that names a counter of this device; a NUMBER beyond the counters names none (R66, R80). -/
def localCounter (s : State) (h : Handle) : Bool := hCls h == clsCounter && hHome h == self s && decide (hNum h < 0xFFFF)

/-- Step 4 of R92. -/
def rightsOk (s : State) (c : Ctx) : Bool :=
  let e := c.e
  let fw := decide (firmwareQueue ≤ c.q) && !(c.remote && e.opcode == opAttend)
  let Q := getQ s c.q
  (!e.signal || c.remote || fw || (getC s e.counter).owner == some c.fid) &&
  (e.opcode != opWaitcnt || !(localCounter s e.a) || natBit (counterRights s c.fid (e.a % 2 ^ 16)) 0) &&
  (e.opcode != opSignal || !(localCounter s e.a) || natBit (counterRights s c.fid (e.a % 2 ^ 16)) 1) &&
  (e.opcode != opBudget || ((fw || c.fid % 64 == 0) && (knownCustomer s (e.a % 2 ^ 16)).isSome)) &&
  (fw || ((!Q.custLock || e.customer == Q.customer) && decide (Q.minClass ≤ e.prio))) &&
  persOk s e && (fw || (knownCustomer s e.customer).isSome)

/-- How a sequence handle resolves (R66): 0 at its owner, OWN_NOT_OWNER where its record or pages are held, else TZ_BAD_HANDLE. An old owner whose pages are freed (R225) holds neither. -/
def resolveSeq (s : State) (h : Handle) : Nat :=
  if hCls h ≠ clsSeq then Code.tzBadHandle
  else
    match findCopy s h with
    | some c =>
      if c.st = .owner ∨ c.st = .offered ∨ c.st = .pulled ∨ c.st = .committing then Code.ok
      else if c.st = .freed ∧ (findHome s h).isNone then Code.tzBadHandle else Code.ownNotOwner
    | none => if (findHome s h).isSome then Code.ownNotOwner else Code.tzBadHandle

/-- A page handle at its holder (R66). -/
def resolvePage (s : State) (h : Handle) : Nat :=
  if hCls h = clsPage ∧ hHome h = self s ∧ (findPage s (hNum h)).isSome then
    (if hCls (objectOf s h) = clsSeq then resolveSeq s (objectOf s h) else Code.ok)
  else Code.tzBadHandle

/-- A prefix node at a device that holds its shard, its draft or its staged copy (R66, R107). -/
def resolveNode (s : State) (h : Handle) : Nat :=
  if hCls h = clsNode ∧ ((findHold s h).isSome ∨ s.rgn.drafts.any (fun d => d.handle == h) ∨ s.pages.any (fun p => p.obj == h)) then Code.ok
  else Code.tzBadHandle

/-- A sequence, page or prefix node handle. -/
def resolveObj (s : State) (h : Handle) : Nat :=
  if hCls h = clsSeq then resolveSeq s h
  else if hCls h = clsPage then resolvePage s h
  else if hCls h = clsNode then resolveNode s h
  else Code.tzBadHandle

/-- A model descriptor handle. -/
def resolveModel (s : State) (h : Handle) : Nat := if (findModel s h).isSome then Code.ok else Code.tzBadHandle

/-- A draft node that this device reserved or owns, or one of these that has ended (R66, R117, R132). -/
def resolveDraft (s : State) (h : Handle) : Nat :=
  if hCls h = clsNode ∧ (s.rgn.leases.any (fun l => l.object == h) ∨ s.rgn.drafts.any (fun d => d.handle == h) ∨ s.rgn.endedDrafts.any (fun x => x.1 == h)) then Code.ok
  else Code.tzBadHandle

/-- The device that holds a draft or region handle, and whether the handle names one here (R129). A draft that has ended answers with its own code (R132). -/
def resolveShared (s : State) (h : Handle) : Nat :=
  if hCls h = clsRegion then
    (if hHome h = self s then (if (regionIndex s h).isSome then Code.ok else Code.tzBadHandle) else Code.ok)
  else if hCls h = clsNode then
    (if hHome h = self s then (if s.rgn.drafts.any (fun d => d.handle == h) ∨ s.rgn.endedDrafts.any (fun x => x.1 == h) then Code.ok else Code.tzBadHandle) else Code.ok)
  else Code.tzBadHandle

/-- Handle resolution of step 5 (R66), opcode by opcode. -/
def handlesCode (s : State) (c : Ctx) : Nat :=
  let e := c.e
  let both := fun (a b : Nat) => if a ≠ 0 then a else b
  if e.opcode = opWaitcnt then
    (if localCounter s e.a then Code.ok else Code.tzBadHandle)
  else if e.opcode = opSignal then (if hCls e.a = clsCounter ∧ hNum e.a < 0xFFFF then Code.ok else Code.tzBadHandle)
  else if e.opcode = opHaltq then
    (if hCls e.a = clsQueue ∧ hHome e.a = self s ∧ hNum e.a < 4096 then Code.ok else Code.tzBadHandle)
  else if e.opcode = opPmove ∨ e.opcode = opPpin ∨ e.opcode = opPunpin then resolveObj s e.a
  else if e.opcode = opPevict then (if e.flag 4 then resolveSeq s e.a else resolveObj s e.a)
  else if e.opcode = opPcopy then
    (if hCls e.a = clsNode then
      (if s.pers = some .cache ∧ (e.c % 2 ^ 15 = noDevice ∨ e.c % 2 ^ 15 = self s) then resolveNode s e.a else Code.ok)
     else resolveSeq s e.a)
  else if e.opcode = opPingest then
    both (both (resolveModel s e.a) (resolveSeq s e.b)) (if fieldBytes c.blk 48 8 = nullHandle then Code.ok else resolveDraft s (fieldBytes c.blk 48 8))
  else if e.opcode = opPmatch then
    (if e.a = nullHandle then Code.ok
     else if hCls e.a = clsSeq ∧ hHome e.a = self s ∧ (findHome s e.a).isSome then Code.ok else Code.tzBadHandle)
  else if e.opcode = opRevoke then
    (if hCls e.a = clsRegion ∧ hHome e.a = self s ∧ (regionIndex s e.a).isSome then Code.ok else Code.tzBadHandle)
  else if e.opcode = opPublish ∨ e.opcode = opDiscard then resolveShared s e.a
  else if e.opcode = opClaim then
    (if e.a = nullHandle then resolveModel s e.b
     else if hCls e.a = clsSeq ∧ ((findCopy s e.a).isSome ∨ (findHome s e.a).isSome) then Code.ok else Code.tzBadHandle)
  else if e.opcode = opCastle then resolveSeq s e.a
  else if e.opcode = opAttend then
    both (resolveModel s e.a) (if hCls e.b = clsNode then resolveNode s e.b else resolveSeq s e.b)
  else if e.opcode = opExpand then
    both (resolveModel s e.a) (if hCls e.b = clsNode then resolveNode s e.b else resolveSeq s e.b)
  else if e.opcode = opConvert ∧ e.flag 4 then both (resolveModel s e.a) (resolveSeq s e.b)
  else Code.ok

/-- Whether an instruction carries a span word, and over which object. -/
def spanObject (e : Entry) : Option Handle :=
  if e.opcode = opPmove ∨ e.opcode = opPcopy ∨ e.opcode = opPpin ∨ e.opcode = opPunpin ∨ (e.opcode = opPevict ∧ e.flag 4 = false) then
    (if hCls e.a = clsPage then none else some e.a)
  else none

/-- The descriptor an instruction names equals the one bound to its object here (R636). -/
def namedModelOk (s : State) (named obj : Handle) : Bool :=
  match findModel s named, boundModel s obj with
  | some a, some b => a.number == b.number || modelEq a.desc b.desc
  | _, none => true
  | none, _ => false

/-- PINGEST and CONVERT against the sequence and draft (R113 to R115, R158). -/
def ingestObjectOk (s : State) (e : Entry) (b : List Byte) : Bool :=
  match findModel s e.a, findCopy s e.b with
  | some m, some c =>
    let first := fieldBytes b 8 3
    let layers := (List.range (fieldBytes b 4 1)).map (· + fieldBytes b 3 1)
    let draft := fieldBytes b 48 8
    let elemB := if fieldBytes b 2 1 = 1 then 4 else 2
    e.format == m.desc.storage && decide (fieldBytes b 3 1 + fieldBytes b 4 1 ≤ m.desc.layers) &&
    decide (rowElems m.desc * elemB ≤ fieldBytes b 32 4) &&
    (if draft = nullHandle then decide (c.desc.prefixLen ≤ first) && decide (first ≤ heldAll s c layers)
     else layers.all (fun l => decide (first ≤ max (pagesEnd s draft (perPage m.desc) l) c.desc.prefixLen)))
  | _, _ => true

/-- ATTEND against the object (R145, R149): CONTEXT_LENGTH within the positions held; under C the range within the shards held. `holder` is a G device's ATTEND, which
carries the CONTEXT_LENGTH of the accelerator's instruction; a holder that does not know how long the node's path is (`blocks` 0) compares the range alone. -/
def attendObjectCode (s : State) (e : Entry) (b : List Byte) (holder : Bool) : Nat :=
  let ctx := fieldBytes b 16 3
  let first := fieldBytes b 20 3
  let last := if fieldBytes b 24 3 = 0 then ctx else first + fieldBytes b 24 3
  match findCopy s e.b with
  | some c => if heldMost s c < ctx then Code.tzFormat else Code.ok
  | none =>
    match findHold s e.b, findModel s e.a with
    | some n, _ =>
      let last := if n.blocks = 0 then last else min last (n.blocks * 64)
      if holder = false ∧ n.blocks ≠ 0 ∧ n.blocks * 64 < ctx then Code.tzFormat
      else if s.pers = some .cache ∧ first < last ∧ ¬ (n.range.1 ≤ first ∧ last ≤ n.range.2) then Code.tzBadHandle else Code.ok
    | none, some m => if nodeHeld s e.b m.desc < ctx then Code.tzFormat else Code.ok
    | none, none => Code.ok

/-- EXPAND against the object and its descriptor (R156, R157), all at step 5 (R636 names the token range alone: DEDUCED, log 32). -/
def expandObjectCode (s : State) (e : Entry) (b : List Byte) : Nat :=
  match findModel s e.a with
  | none => Code.tzBadHandle
  | some m =>
    let hc := if fieldBytes b 5 1 = 0 then m.desc.heads - fieldBytes b 4 1 else fieldBytes b 5 1
    let last := fieldBytes b 8 3 + fieldBytes b 12 4
    let ofNode := match findHold s e.b with
      | some n => n.range
      | none => (0, nodeHeld s e.b m.desc)
    let held := match findCopy s e.b with
      | some q => (0, heldMost s q)
      | none => ofNode
    if namedModelOk s e.a e.b && m.desc.weightFormat != 0 && m.desc.kind == 0 &&
      decide (fieldBytes b 2 1 + fieldBytes b 3 1 ≤ m.desc.layers ∧ fieldBytes b 4 1 < m.desc.heads) &&
      decide (fieldBytes b 4 1 + hc ≤ m.desc.heads ∧ held.1 ≤ fieldBytes b 8 3 ∧ last ≤ held.2) then Code.ok else Code.tzFormat

/-- The checks of operands against the objects (R636). -/
def objectCode (s : State) (c : Ctx) : Nat :=
  let e := c.e
  let b := c.blk
  let span := match spanObject e with
    | some h => (match boundModel s h with | some m => (spanOf e.b).layersOk m.desc.layers | none => true)
    | none => true
  if !span then Code.tzFormat
  else if e.opcode = opPcopy then
    let dest := e.c / 2 ^ 16
    let src := e.c % 2 ^ 15
    if hCls e.a = clsSeq then
      (if (src = noDevice ∨ src = self s) ∧ (covered s e.a (spanOf e.b)).all (fun p => decide (p.newest < dest)) then Code.ok
       else Code.tzFormat)
    else if s.pers = some .cache ∧ (findHold s e.a).isSome ∧ src ≠ noDevice ∧ src ≠ self s then Code.tzFormat
    else Code.ok
  else if e.opcode = opPingest ∨ (e.opcode = opConvert ∧ e.flag 4) then
    let target := if e.opcode = opPingest ∧ fieldBytes b 48 8 ≠ nullHandle then fieldBytes b 48 8 else e.b
    if namedModelOk s e.a e.b && namedModelOk s e.a target && ingestObjectOk s e b then Code.ok else Code.tzFormat
  else if e.opcode = opAttend then
    if namedModelOk s e.a e.b && (findModel s e.a).any (fun m => attendModelOk e b m.desc) then attendObjectCode s e b (c.remote && decide (firmwareQueue ≤ c.q)) else Code.tzFormat
  else if e.opcode = opExpand then expandObjectCode s e b
  else Code.ok

/-- Step 5 of R92: the handles, then R636. -/
def step5 (s : State) (c : Ctx) : Nat :=
  let h := handlesCode s c
  if h ≠ 0 then h else objectCode s c

/-- Steps 1 to 3 of R92. -/
def steps13 (s : State) (c : Ctx) : Nat :=
  firstFail [(implemented c.e.opcode, Code.tzBadOpcode), (levelOk s c, Code.tzVersion), (formatOk s c, Code.tzFormat)]

/-- Steps 4 and 5 of R92. -/
def steps45 (s : State) (c : Ctx) : Nat := if rightsOk s c then step5 s c else Code.tzRights

/-! ### The charge and admission -/

/-- Frame bytes of an object's pages. -/
def frameBytes (s : State) (h : Handle) : Nat := match boundModel s h with | some m => m.desc.frame4k * 4096 | none => 0

/-- The pages of a node version a span names, by layer and index, with the positions each holds (R110). -/
def nodeSpan (m : ModelRec) (sp : Span) (positions : Nat) : List (Nat × Nat × Nat) :=
  let per := perPage m
  (sp.layers m.layers).flatMap (fun l =>
    (List.range (ceilDiv positions per)).filterMap (fun k =>
      if sp.covers positions (k * per) ((k + 1) * per) then some (l, k, min per (positions - k * per)) else none))

/-- A PCOPY of a prefix node from other devices (R110). -/
def remoteCopy (s : State) (e : Entry) : Bool :=
  e.opcode == opPcopy && hCls e.a != clsSeq &&
  !(s.pers == some .cache && (findHold s e.a).isSome && (e.c % 2 ^ 15 == noDevice || e.c % 2 ^ 15 == self s))

/-- Pages a remote PCOPY covers (R105): of the node version as its shard map gives it, else of the positions that the span itself names. -/
def remotePages (s : State) (e : Entry) : Nat :=
  let sp := spanOf e.b
  let positions := match s.rgn.maps.find? (fun x => x.node == e.a) with
    | some x => x.matched * 64
    | none => if sp.tokenCount = 0 then 0 else sp.tokenFirst + sp.tokenCount
  match boundModel s e.a with
  | some m => (nodeSpan m.desc sp positions).length
  | none => 0

/-- Charged bytes or units of the variable charge (R105, R143), in whole charge units. -/
def variableCharge (s : State) (c : Ctx) : Nat :=
  let e := c.e
  let b := c.blk
  let kib := fun n => ceilDiv n 1024
  if e.opcode = opPmove ∨ e.opcode = opPcopy then
    if remoteCopy s e then kib (remotePages s e * frameBytes s e.a) else kib ((covered s e.a (spanOf e.b)).foldl (fun n p => n + p.units * 4096) 0)
  else if e.opcode = opPingest then
    let per := match findModel s e.a with | some m => rowBytes m.desc | none => 0
    kib (fieldBytes b 12 4 * fieldBytes b 4 1 * per * (if fieldBytes b 48 8 = nullHandle then 1 else 3))
  else if e.opcode = opPmatch then kib (16 * fieldBytes b 4 4)
  else if e.opcode = opCastle then
    kib ((match findCopy s e.a with | some q => q.pages.flatten.length | none => 0) * frameBytes s e.a)
  else if e.opcode = opRwrite ∨ e.opcode = opRread ∨ e.opcode = opRreduce then kib e.a
  else if e.opcode = opMcast then kib (e.a * fieldBytes b 2 1)
  else if e.opcode = opAttend then
    if fieldBytes b 7 1 = 1 then 0
    else
      let ctx := fieldBytes b 16 3
      let first := fieldBytes b 20 3
      let last := if fieldBytes b 24 3 = 0 then ctx else first + fieldBytes b 24 3
      let lo := match findCopy s e.b with
        | some q => if s.pers = some .generation then max first q.desc.prefixLen else first
        | none => first
      kib (fieldBytes b 3 1 * (last - lo) * fieldBytes b 5 1)
  else if e.opcode = opAmerge then
    let row := fieldBytes b 4 2 * (if e.det then 16 else 4) + (if e.det then 32 else 8)
    kib (e.a * fieldBytes b 2 1 * fieldBytes b 3 1 * fieldBytes b 6 1 * row)
  else if e.opcode = opExpand then
    match findModel s e.a with
    | none => 0
    | some m =>
      let hc := if fieldBytes b 5 1 = 0 then m.desc.heads - fieldBytes b 4 1 else fieldBytes b 5 1
      let w := (if e.flag 4 then m.desc.keyWidth + m.desc.rotary else 0) + (if e.flag 5 then m.desc.valueWidth else 0)
      kib (fieldBytes b 3 1 * fieldBytes b 12 4 * hc * w * (if e.format = 2 then 2 else 1))
  else if e.opcode = opConvert then
    if e.flag 4 then
      kib (fieldBytes b 12 4 * fieldBytes b 4 1 * (match findModel s e.a with | some m => rowBytes m.desc | none => 0))
    else
      let plain := match plainFmt e.format with
        | some f => e.a * f.width / 8
        | none => 0
      kib (match mxElem e.format with
        | some f => mxRowBytes f e.a
        | none => plain)
  else if e.opcode = opVop then
    let w := if e.format = 1 then 4 else 2
    kib ((if e.op74 = 8 ∨ e.op74 = 9 then e.a / max 1 (fieldBytes b 4 4) else e.a) * w)
  else if e.opcode = opGemm then ceilDiv (fieldBytes b 8 4 * fieldBytes b 12 4 * fieldBytes b 16 4) 1048576
  else 0

/-- Reset of ADM_FIXED_n (R468): 1 for an implemented opcode other than BUDGET. -/
def admFixedReset (n : Nat) : W64 :=
  BitVec.ofNat 64 ((List.range 4).foldl (fun v k =>
    if implemented (4 * n + k) && 4 * n + k != opBudget then v + 2 ^ (16 * k) else v) 0)

/-- The fixed charge of an opcode (R468). -/
def fixedCharge (s : State) (op : Nat) : Nat :=
  fieldOf (s.regs.get (admFixedReset (op / 4)) (0x701000 + 8 * (op / 4))) (16 * (op % 4) + 15) (16 * (op % 4))

/-- The charge of an instruction (R467). -/
def chargeOf (s : State) (c : Ctx) : Nat := fixedCharge s c.e.opcode + variableCharge s c

/-- Signed comparison of virtual times by their 64-bit difference (R471): `a` comes before `b`. -/
def vtBefore (a b : Nat) : Bool := decide ((b + 2 ^ 64 - a) % 2 ^ 64 < 2 ^ 63 ∧ a ≠ b)

/-- Set one element of a list of four. -/
def setAt (l : List Nat) (i v : Nat) : List Nat := l.set i v

/-- Whether a customer is active in a class: an instruction of it fetched and not completed (R472). -/
def activeIn (s : State) (cust cls : Nat) : Bool :=
  s.tz.started.any (fun r => r.ent.customer == cust && r.ent.prio == cls) ||
  s.tz.queues.any (fun x => x.2.fetched.any (fun f => f.ent.customer == cust && f.ent.prio == cls))

/-- V[c]: the lowest virtual time over the active customers; it keeps its value when none is active and never decreases (R471). -/
def classVt (s : State) (cls : Nat) : Nat :=
  let act := s.adm.customers.filter (fun x => x.2.valid && activeIn s x.2.customer cls)
  let v0 := s.adm.classVt.getD cls 0
  match act with
  | [] => v0
  | x :: xs =>
    let low := xs.foldl (fun v y => if vtBefore (y.2.vt.getD cls 0) v then y.2.vt.getD cls 0 else v) (x.2.vt.getD cls 0)
    if vtBefore v0 low then low else v0

/-- Bring V[c] up to date (R471). -/
def refreshVt (s : State) (cls : Nat) : State :=
  { s with adm := { s.adm with classVt := setAt s.adm.classVt cls (classVt s cls) } }

/-- Admission (R466): the state after it and the code. Firmware's internal queues pass without a charge (R467). -/
def admitEntry (s : State) (q : Nat) (e : Entry) (charge : Nat) : State × Nat :=
  if firmwareQueue ≤ q then (s, Code.ok)
  else if !(natBit (fieldOf (s.regs.get 0xF 0x700000) 3 0) e.prio) then
    ({ s with adm := { s.adm with closed := satAdd 0xFFFF s.adm.closed 1 } }, Code.admClassClosed)
  else
    match knownCustomer s e.customer with
    | none => (s, Code.tzRights)
    | some i =>
      let k := s.adm.customers.get Customer.init i
      if charge * 1000 ≤ k.level then
        let vt := (k.vt.getD e.prio 0 + ceilDiv (charge * 65536) k.weight) % 2 ^ 64
        let k := { k with level := k.level - charge * 1000, admitted := wrapAdd 32 k.admitted 1, vt := setAt k.vt e.prio vt }
        (refreshVt { s with adm := { s.adm with customers := s.adm.customers.set i k } } e.prio, Code.ok)
      else if k.burst < charge ∨ k.rate = 0 then
        let k := { k with exhausted := satAdd 0xFFFFFFFF k.exhausted 1 }
        ({ s with adm := { s.adm with customers := s.adm.customers.set i k, exhausted := satAdd 0xFFFF s.adm.exhausted 1 } },
          Code.admBudgetExhausted)
      else
        let k := { k with policed := satAdd 0xFFFFFFFF k.policed 1 }
        ({ s with adm := { s.adm with customers := s.adm.customers.set i k, policed := satAdd 0xFFFFFFFF s.adm.policed 1 } },
          Code.admPoliced)

end Sys2Proof.Machine
end

