-- ==== Sys2Proof/Machine/Tiles.lean ====
section
/-!
DEFINITION. Tiles, tile tasks, the spindle table and the walk (spec chapter 09; R179, R191, R257, R282): how an instruction's pages become
tasks and descriptors, where tasks are placed, and what a boundary displaces.
-/

namespace Sys2Proof.Machine

open Sys2Proof

/-- Scheduling goes on: RUN is RUNNING or DEFERRED (R507), and the device is neither fatal, tripped nor unpowered. -/
def scheduling (s : State) : Bool := !s.halted && (s.fwRun == 1 || s.fwRun == 2)

/-- A configuration serves (R563, R568): STATE is ENABLED, or CHECKING while a check asked for in ENABLED waits. -/
def enabled (s : State) : Bool := s.cfgState == 3 || s.cfg.waiting.any (fun w => w.1 == 3)

/-- Queues are fetched and instructions start (R501, R563, R571): scheduling goes on and the configuration is ENABLED. -/
def fetching (s : State) : Bool := scheduling s && enabled s

/-- A tile. -/
def getT (s : State) (t : Nat) : Tile := s.til.tiles.get Tile.init t

/-- Set a tile. -/
def setT (s : State) (t : Nat) (v : Tile) : State := { s with til := { s.til with tiles := s.til.tiles.set t v } }

/-- The half a tile stands in (R37): tiles 0 to 15 on half 0. -/
def tileHalf (t : Nat) : Nat := t / 16

/-- A task. -/
def findTask (s : State) (i : Nat) : Option Task := s.til.tasks.find? (fun k => k.id == i)

/-- Change a task. -/
def modTask (s : State) (i : Nat) (f : Task → Task) : State :=
  { s with til := { s.til with tasks := mapIf (fun k => k.id == i) f s.til.tasks } }

/-- TIL_PLACE_CTRL (R259). -/
def placeCtrl (s : State) : W64 := s.regs.get 0x0000000108000008 0x120000
/-- TIL_POWER_CTRL (R267). -/
def powerCtrl (s : State) : W64 := s.regs.get 0x10032 0x120008
/-- CMP_SPINDLE_CTRL (R247). -/
def spindleCtrl (s : State) : W64 := s.regs.get 0x0000000400000000 0x802000
/-- CMP_SPINDLE_NEXT (R248). -/
def spindleNext (s : State) : W64 := s.regs.get 0x0400000F 0x802008

/-- Word `w` of entry `k` of a bank (R244, R246). -/
def spindleWord (s : State) (bank k w : Nat) : W64 := s.regs.get 0 (0x808000 + 0x8000 * bank + 32 * k + 8 * w)

/-- GRANT field `c` of an entry (R244). -/
def grantBits (s : State) (bank k c : Nat) : Nat :=
  fieldOf (spindleWord s bank k (c / 2)) (32 * (c % 2) + 31) (32 * (c % 2))

/-- The class a tile is held (0) or reserved for in an entry; none when unreserved (R244). A grant naming a tile out of service lapses (R270). -/
def grantOf (s : State) (bank k t : Nat) : Option Nat :=
  if (getT s t).st = .outOfService then none
  else (List.range 4).find? (fun c => natBit (grantBits s bank k c) t)

/-- LEND0 of an entry (R244). -/
def lend0 (s : State) (bank k : Nat) : Bool := bitOf (spindleWord s bank k 2) 0

/-- The bank and entry that follow the one in force: entry 0 of the new bank where a checked swap waits (R250). -/
def nextEntry (s : State) : Nat × Nat :=
  if s.til.cycleSlots ≤ s.til.cur + 1 then ((if s.til.swap = 2 then 1 - s.til.bank else s.til.bank), 0)
  else (s.til.bank, s.til.cur + 1)

/-- The grant of a tile in the entry in force. -/
def grantNow (s : State) (t : Nat) : Option Nat := grantOf s s.til.bank s.til.cur t

/-- The tile whose save area holds a task (R262, R263). -/
def savedAt (s : State) (k : Task) : Option Nat := (s.til.tiles.find? (fun x => x.2.saved.contains k.id)).map (·.1)

/-- A new task that is ready: neither on a tile nor saved. -/
def readyTask (s : State) (k : Task) : Bool := k.tile.isNone && (savedAt s k).isNone

/-- Whether a class 0 task is ready in a half (R245): a new one whose pages lie there, or one saved on a tile of the half, which is ready too (R253, R256). -/
def class0Ready (s : State) (half : Nat) : Bool :=
  s.til.tasks.any (fun k => k.cls == 0 && k.tile.isNone && (match savedAt s k with | some t => tileHalf t == half | none => k.half == half))

/-- Whether a tile is lent now (R245). -/
def lentNow (s : State) (t : Nat) : Bool :=
  grantNow s t == some 0 && lend0 s s.til.bank s.til.cur && !class0Ready s (tileHalf t)

/-- In service and not held off (R52, R598). -/
def tileUsable (s : State) (t : Nat) : Bool := (getT s t).st != .outOfService && !(getT s t).heldOff

/-- Whether a tile may serve a class now (R257): held or reserved for it, lent, or unreserved. -/
def tileFor (s : State) (t c : Nat) : Bool :=
  tileUsable s t && (grantNow s t == none || grantNow s t == some c || lentNow s t)

/-- Tiles of a half eligible for a class (R257). -/
def eligibleTiles (s : State) (half c : Nat) : List Nat :=
  ((List.range 16).map (· + 16 * half)).filter (fun t => tileFor s t c)

/-- Save granules a tile's saved tasks occupy (R262). -/
def saveUsed (s : State) (t : Nat) : Nat :=
  (getT s t).saved.foldl (fun n i => n + (match findTask s i with | some k => k.live + 1 | none => 0)) 0

/-- Room in a tile's save area for a task (R262). For a task restored from this area its own saved state is left out of both counts, since the restore gives it up: otherwise a
tile with 16 saved tasks could restore none of them (DEDUCED, log 15). -/
def saveRoom (s : State) (t : Nat) (k : Task) : Bool :=
  let others := (getT s t).saved.filter (fun i => i != k.id)
  decide (k.ceiling + 1 + others.foldl (fun n i => n + (match findTask s i with | some x => x.live + 1 | none => 0)) 0 ≤ 384) &&
  decide (others.length < 16)

/-- The look-ahead bar of R255: a large task of class 1 to 3 on a tile held for class 0 in the following entry. -/
def barred (s : State) (t : Nat) (k : Task) : Bool :=
  let sw := fieldOf (spindleCtrl s) 39 32
  let n := nextEntry s
  k.cls != 0 && sw != 0xFF && decide (sw < k.ceiling) && grantOf s n.1 n.2 t == some 0

/-- A tile without a task, save or restore (R252, R265); a waking tile counts as free until a task is placed. -/
def tileFree (s : State) (t : Nat) : Bool :=
  tileUsable s t && (getT s t).task.isNone &&
  ((getT s t).st == .powerGated || (getT s t).st == .clockGated || (getT s t).st == .waking)

/-- A task of a tile's own half could start on it, by save room and bar; of another half, where it may cross at once (R253, R258). -/
def startsOn (s : State) (t : Nat) (k : Task) : Bool :=
  saveRoom s t k && !barred s t k && (k.half == tileHalf t || (bitOf (placeCtrl s) 32 && (k.cross || fieldOf (placeCtrl s) 23 16 == 0)))

/-- No task of a class is eligible for a tile (R245): neither one saved on it nor a new one. -/
def classIdle (s : State) (t c : Nat) : Bool :=
  !(s.til.tasks.any (fun k => k.cls == c && k.tile.isNone &&
    (match savedAt s k with | some u => u == t && saveRoom s t k && !barred s t k | none => startsOn s t k)))

/-- Whether a free tile may take a task of a class (R245, R252): as `tileFor` says, or reserved for a class 1 to 3 of which no task is eligible. -/
def tileTakes (s : State) (t c : Nat) : Bool :=
  tileFor s t c || (tileUsable s t && (match grantNow s t with | some g => g != 0 && classIdle s t g | none => true))

/-- Free tiles of a half on which a task could start by class, save room and bar. -/
def freeFor (s : State) (half : Nat) (k : Task) : List Nat :=
  ((List.range 16).map (· + 16 * half)).filter (fun t => tileFree s t && tileTakes s t k.cls && saveRoom s t k && !barred s t k)

/-- Ready pages of a class waiting for a half, times the eligible tiles of the other side of the comparison (R258, second case). -/
def waitingPages (s : State) (half c : Nat) : Nat :=
  s.til.tasks.foldl (fun n k => if k.cls == c && k.half == half && readyTask s k then n + k.pages.length else n) 0

/-- Whether a task may be placed on the other half (R258). -/
def mayCross (s : State) (k : Task) : Bool :=
  let h := k.half
  let h' := 1 - h
  let e := (eligibleTiles s h k.cls).length
  let e' := (eligibleTiles s h' k.cls).length
  let wait := fieldOf (placeCtrl s) 23 16
  bitOf (placeCtrl s) 32 && !(freeFor s h' k).isEmpty &&
  (((freeFor s h k).isEmpty && (k.cross || wait == 0)) ||
   (e' != 0 && (if e = 0 then waitingPages s h k.cls != 0
      else decide (waitingPages s h' k.cls * e + fieldOf (placeCtrl s) 7 0 * e * e' < waitingPages s h k.cls * e'))))

/-- A new task is eligible for a tile (R253). -/
def eligible (s : State) (t : Nat) (k : Task) : Bool :=
  tileUsable s t && saveRoom s t k && !barred s t k && (k.half == tileHalf t || mayCross s k)

/-- A ready task, new or saved, could take a tile (R253, R263): a saved one only the tile that saved it. -/
def couldTake (s : State) (t : Nat) (k : Task) : Bool :=
  k.tile.isNone && (match savedAt s k with | some u => u == t && tileUsable s t && saveRoom s t k && !barred s t k | none => eligible s t k)

/-- A free tile is eligible for a ready task (R254): of its half, or of the other where it may cross; for a saved task, its own tile. -/
def freeEligible (s : State) (k : Task) : Bool :=
  match savedAt s k with
  | some t => tileFree s t && tileTakes s t k.cls && couldTake s t k
  | none => !(freeFor s k.half k).isEmpty || mayCross s k

/-- The virtual time of a customer in a class (R471). -/
def vtOf (s : State) (cust cls : Nat) : Nat :=
  match s.adm.customers.find? (fun x => x.2.valid && x.2.customer == cust) with
  | some x => x.2.vt.getD cls 0
  | none => 0

/-- Task order within one class: lowest virtual time, then the order their instructions started (R253). -/
def taskBefore (s : State) (a b : Task) : Bool :=
  let va := vtOf s a.customer a.cls
  let vb := vtOf s b.customer b.cls
  vtBefore va vb || (va == vb && decide (a.id < b.id))

/-- The first task of a list under R253. -/
def firstTask (s : State) (l : List Task) : Option Task :=
  l.foldl (fun b k => match b with
    | none => some k
    | some x => if taskBefore s k x then some k else b) none

/-- Saved tasks of a tile of a class that may be restored there (R263). -/
def savedOf (s : State) (t c : Nat) : List Task :=
  (getT s t).saved.filterMap (fun i => (findTask s i).filter (fun k => k.cls == c && saveRoom s t k && !barred s t k))

/-- New ready tasks of a class eligible for a tile. -/
def newOf (s : State) (t c : Nat) : List Task :=
  s.til.tasks.filter (fun k => k.cls == c && readyTask s k && eligible s t k)

/-- A class's choice for a tile: its saved tasks, then new ones. -/
def classPick (s : State) (t c : Nat) : Option Task :=
  match firstTask s (savedOf s t c) with
  | some k => some k
  | none => firstTask s (newOf s t c)

/-- The task a free tile takes (R253). -/
def pickFor (s : State) (t : Nat) : Option Task :=
  let byClass := (List.range 4).findSome? (classPick s t)
  match grantNow s t with
  | none => byClass
  | some c =>
    match classPick s t c with
    | some k => some k
    | none => if c ≠ 0 ∨ lentNow s t then byClass else none

/-- Put a task on a free tile: a saved task is restored (R263), a new one runs; a gated tile wakes first (R265). -/
def place (s : State) (t : Nat) (k : Task) : State :=
  let T := getT s t
  let restored := T.saved.contains k.id
  let st : TileSt := if T.st = .powerGated ∨ T.st = .waking then .waking else if restored then .restoring else .running
  modTask (setT s t { T with st := st, task := some k.id }) k.id (fun k => { k with tile := some t })

/-- Clock-gate a tile without a task (R265). -/
def clockGate (s : State) (t : Nat) : State :=
  let T := getT s t
  if T.task.isNone ∧ (T.st = .running ∨ T.st = .saving ∨ T.st = .waking ∨ T.st = .restoring) then
    setT s t { T with st := .clockGated, since := s.now }
  else s

/-- Whether a power-gated tile may be woken for a task (R257): no clock-gated or waking tile of its half is eligible and free. For a saved task no other tile is (R263). -/
def wakeable (s : State) (t : Nat) (k : Task) : Bool :=
  (getT s t).st != .powerGated || (savedAt s k).isSome ||
  !((freeFor s (tileHalf t) k).any (fun u => (getT s u).st == .clockGated || (getT s u).st == .waking))

/-- Fill a free tile (R253), and clock-gate it when it takes none. Nothing is placed during a scheduling pause (R270). -/
def fillTile (s : State) (t : Nat) : State :=
  if tileFree s t ∧ scheduling s then
    match pickFor s t with
    | some k => if wakeable s t k then place s t k else s
    | none => clockGate s t
  else s

/-- Bytes of a task's pages already in a tile's scratchpad, from page buffers or look-ahead copies (R257). -/
def scratchBytes (s : State) (t : Nat) (k : Task) : Nat :=
  (k.pages.filter (fun p => (getT s t).scratch.contains p || (getT s t).ahead.contains p)).foldl (fun n p => match findPage s p with
    | some q => q.rows.foldl (fun n r => n + r.2.length) n
    | none => n) 0

/-- Rank of a free tile for a task (R257): bytes held, then gating, then tile number; lower is better. -/
def tileRank (s : State) (k : Task) (t : Nat) : Nat :=
  let g := match (getT s t).st with | .clockGated => 0 | .waking => 1 | _ => 2
  (2 ^ 40 - scratchBytes s t k) * 1000 + g * 100 + t

/-- The best free tile for a task: its own half's first, else one of the other half where it may cross (R257, R258). -/
def bestTile (s : State) (k : Task) : Option Nat :=
  let pick : List Nat → Option Nat := fun l => l.foldl (fun b t => match b with
    | none => some t
    | some u => if tileRank s k t < tileRank s k u then some t else b) none
  match pick (freeFor s k.half k) with
  | some t => some t
  | none => if mayCross s k then pick (freeFor s (1 - k.half) k) else none

/-- Ready tasks in the order they are served: most urgent class, then R253. -/
def servedBefore (s : State) (a b : Task) : Bool := decide (a.cls < b.cls) || (a.cls == b.cls && taskBefore s a b)

/-- Insert a task in serving order. -/
def insTask (s : State) (k : Task) : List Task → List Task
  | [] => [k]
  | x :: xs => if servedBefore s k x then k :: x :: xs else x :: insTask s k xs

/-- Place what is ready on free tiles (R257). -/
def placeReady (s : State) : State :=
  if scheduling s then
    ((s.til.tasks.filter (readyTask s)).foldl (fun l k => insTask s k l) []).foldl (fun s k => match bestTile s k with
      | some t => place s t k
      | none => s) s
  else s

/-- Displace the occupant of a tile (R254, R260, R261): it is saved, its look-ahead copies and consumed page buffers discarded. -/
def displace (s : State) (t : Nat) : State :=
  let s := dropAhead s (getT s t).ahead
  let T := getT s t
  setT s t { T with st := .saving, scratch := [], saves := wrapAdd 32 T.saves 1 }

/-- The first and fourth rows of R254, and the second where asked, for one running tile. -/
def rowDisplaces (s : State) (t : Nat) (fourth : Bool) : Bool :=
  match (getT s t).task.bind (findTask s) with
  | none => false
  | some k =>
    if (getT s t).st ≠ .running then false
    else
      (match grantNow s t with
       | some 0 => k.cls != 0 && !(lend0 s s.til.bank s.til.cur && !class0Ready s (tileHalf t))
       | some c => k.cls != c && s.til.tasks.any (fun x => x.cls == c && couldTake s t x && !freeEligible s x)
       | none => false) ||
      (fourth && barred s t k)

/-- Occupants the third row of R254 may displace for a waiting task: less urgent, on an unreserved or lent tile of its half, small enough. -/
def thirdRow (s : State) (k : Task) : List (Nat × Task) :=
  let dm := fieldOf (placeCtrl s) 31 24
  (List.range 32).filterMap (fun t =>
    match (getT s t).task.bind (findTask s) with
    | some o =>
      if (getT s t).st = .running ∧ (grantNow s t = none ∨ lentNow s t = true) ∧ k.cls < o.cls ∧
        (dm = 0xFF ∨ (dm ≠ 0 ∧ o.live ≤ dm)) ∧ couldTake s t k = true then some (t, o) else none
    | none => none)

/-- The occupant displaced first (R254): least urgent class, then largest virtual time, then highest tile. -/
def worse (s : State) (a b : Nat × Task) : Bool :=
  let va := vtOf s a.2.customer a.2.cls
  let vb := vtOf s b.2.customer b.2.cls
  decide (b.2.cls < a.2.cls) || (a.2.cls == b.2.cls && (vtBefore vb va || (va == vb && decide (b.1 < a.1))))

/-- The displacements of a boundary (R254): rows 1, 2 and 4 for every running tile, then one occupant for each waiting task. -/
def boundaryDisplace (s : State) : State :=
  let s1 := ((List.range 32).filter (fun t => rowDisplaces s t true)).foldl displace s
  if scheduling s1 then
    (s1.til.tasks.filter (fun k => k.tile.isNone)).foldl (fun s k =>
      if freeEligible s k = false then
        match (thirdRow s k).foldl (fun b x => match b with
            | none => some x
            | some y => if worse s x y then some x else b) none with
        | some x => displace s x.1
        | none => s
      else s) s1
  else s1

/-- Fill every free tile in tile order. -/
def fillAll (s : State) : State := (List.range 32).foldl fillTile s

/-! ### The walk -/

/-- Tokens a page of an object holds. -/
def objPer (s : State) (h : Handle) : Nat := match boundModel s h with | some m => perPage m.desc | none => 64

/-- Pages of one layer of an object with the position of their first row, in page-list order: at an owner its private pages, under P its prefix's
staged copy before them (R148, R189); of a node the pages held here. -/
def objPages (s : State) (h : Handle) (layer : Nat) : List (Page × Nat) :=
  let per := objPer s h
  match findCopy s h with
  | some c =>
    let pre := if s.pers = some .prompt ∧ c.desc.pfx ≠ nullHandle then
        (nodePages s c.desc.pfx layer).filterMap (fun p => if p.index * per < c.desc.prefixLen then some (p, p.index * per) else none)
      else []
    pre ++ (c.pages.getD layer []).zipIdx.filterMap (fun x => (findPage s x.1).map (fun p => (p, c.desc.prefixLen + x.2 * per)))
  | none => (nodePages s h layer).map (fun p => (p, p.index * per))

/-- The end of the positions read from a page whose first row stands for `pos`: a prefix's staged copy under a sequence is read as far as the prefix goes (R189). -/
def pageEnd (s : State) (h : Handle) (x : Page × Nat) : Nat :=
  let stop := x.2 + objPer s h
  match findCopy s h with
  | some c => if x.1.obj = h then stop else min stop c.desc.prefixLen
  | none => stop

/-- The positions and layers an ATTEND or EXPAND reads (R147, R149, R156): layer first, count, position first, end. -/
def readRange (e : Entry) (b : List Byte) : Nat × Nat × Nat × Nat :=
  if e.opcode = opAttend then
    let ctx := fieldBytes b 16 3
    let first := fieldBytes b 20 3
    (fieldBytes b 4 1, fieldBytes b 5 1, first, if fieldBytes b 24 3 = 0 then ctx else first + fieldBytes b 24 3)
  else (fieldBytes b 2 1, fieldBytes b 3 1, fieldBytes b 8 3, fieldBytes b 8 3 + fieldBytes b 12 4)

/-- Whether an instruction reads pages on tiles. -/
def readsPages (e : Entry) : Bool := e.opcode == opAttend || e.opcode == opExpand

/-- Whether an instruction works on tiles without reading pages of an object: one task stands for it. -/
def pageless (e : Entry) : Bool :=
  [opAmerge, opConvert, opGemm, opVop, opPingest].contains e.opcode

/-- The pages an ATTEND or EXPAND walks, layer by layer (R282). -/
def walkPages (s : State) (e : Entry) (b : List Byte) : List Page :=
  let r := readRange e b
  ((List.range r.2.1).map (· + r.1)).flatMap (fun l =>
    (objPages s e.b l).filterMap (fun x => if x.2 < r.2.2.2 ∧ r.2.2.1 < pageEnd s e.b x then some x.1 else none))

/-- The half a page lies in, or will be fetched into (R281). -/
def halfOf (s : State) (p : Page) : Nat := match p.stack with | some f => f.half | none => pageHalf s p.obj p.layer p.index

/-- The live ceiling of an ATTEND task in granules, its live state at a page boundary (R189, R260): queries, partial rows, statistics, one page buffer. -/
def attendLive (s : State) (e : Entry) (b : List Byte) : Nat :=
  match findModel s e.a with
  | none => 1
  | some m =>
    let m := m.desc
    let hc := if fieldBytes b 11 1 = 0 then m.heads - fieldBytes b 10 1 else fieldBytes b 11 1
    let qc := fieldBytes b 3 1
    let alg := fieldBytes b 2 1
    let el := if alg = 0 then (if m.kind = 0 then m.latent + m.rotary else m.keyWidth) else m.keyWidth + m.rotary
    let d := if alg = 0 then (if m.kind = 0 then m.latent else m.valueWidth) else m.valueWidth
    let row := if e.det then d * 16 + 32 else d * 4 + 8
    ceilDiv (qc * hc * el * (if e.format = 2 then 2 else 1) + qc * hc * row + m.frame4k * 4096) 65536

/-- Cut a list into `k` runs. -/
def runsOf (k : Nat) (l : List Nat) : List (List Nat) :=
  (List.range k).map (fun i => (l.drop (i * l.length / k)).take ((i + 1) * l.length / k - i * l.length / k))

/-- Tasks of each half (R179, R257). -/
def taskCounts (s : State) (cls n0 n1 : Nat) : Nat × Nat :=
  let e0 := (eligibleTiles s 0 cls).length
  let e1 := (eligibleTiles s 1 cls).length
  let c0 := min e0 n0
  let c1 := min e1 n1
  if e0 = 0 ∧ e1 = 0 then (min 1 n0, min 1 n1)
  else if e0 = 0 then (min n0 (max 1 c1), c1)
  else if e1 = 0 then (c0, min n1 (max 1 c0))
  else (c0, c1)

/-- A live state up to a ceiling (R260): a free value, since the spec gives the ceiling alone (log 15). -/
def freeLive (s : State) (ceiling : Nat) : Nat × State :=
  let f := takeFree 16 s
  (f.1 % (ceiling + 1), f.2)

/-- Add a task with its live ceiling and answer its number. -/
def addTask (s : State) (r : Running) (half ceiling : Nat) (pages : List Nat) : Nat × State :=
  let f := freeLive s ceiling
  let s := f.2
  let k : Task := {
    id := s.til.nextTask, instr := r.id, half := half, cls := r.ent.prio, customer := r.ent.customer, pages := pages,
    ceiling := ceiling, live := f.1, tile := none, since := s.now, cross := false }
  (k.id, { s with til := { s.til with tasks := s.til.tasks ++ [k], nextTask := s.til.nextTask + 1 } })

/-- READ descriptors accepted for a task and not yet executed, n_q (R260); the queue of the tile that runs the task holds these. -/
def queued (s : State) (instr task : Nat) : Nat := (s.til.descs.filter (fun d => d.kind == 1 && d.task == task && d.instr == instr)).length

/-- Whether a control core may issue a READ descriptor of a task: its queue holds fewer than 512 (R39, R260), and no firmware pause runs (R53, R501). -/
def issuable (s : State) (instr task : Nat) : Bool := s.fwRun != 3 && decide (queued s instr task < 512)

/-- Add a descriptor. -/
def addDesc (s : State) (kind instr task page : Nat) (frame : Option Frame) : State :=
  let d : Desc := { id := s.til.nextDesc, kind := kind, instr := instr, task := task, page := page, frame := frame }
  { s with til := { s.til with descs := s.til.descs ++ [d], nextDesc := s.til.nextDesc + 1 } }

/-- Whether a frame or freeing may still make room for a fetch (R282): under G, pre-emption is on its way. -/
def roomComing (s : State) : Bool := s.pers == some .generation && (!s.own.preempting.isEmpty || s.own.copies.any (·.swapped))

/-- The code of a page that a walk cannot read (R52, R153, R282, R346): under C a lost page is one whose flash frame is MISSING and that the mirror could not supply. -/
def lostCode (s : State) (p : Page) : Nat :=
  if s.pers = some .cache ∧ p.lost = true ∧ p.stack.isNone ∧ p.host.isNone then Code.flUncorrectable else Code.memUncorrectable

/-- Walk the pages still to come of an instruction (R282). It waits at a page whose task has a full queue (R39), through a firmware pause (R53), and for the home to record a page that was
fetched (R216). -/
def walkOn (s : State) (instr : Nat) : List (Nat × Nat) → State
  | [] => { s with til := { s.til with walks := s.til.walks.filter (fun w => !(w.instr == instr)) } }
  | (n, task) :: rest =>
    match findPage s n with
    | none => walkOn s instr rest
    | some p =>
      if issuable s instr task = false then
        { s with til := { s.til with walks := s.til.walks.filter (fun w => !(w.instr == instr)) ++ [{ instr := instr, todo := (n, task) :: rest }] } }
      else if p.lost = true ∨ keyDead s p = true ∨ (match p.stack with | some f => s.til.halfOut.contains f.half | none => false) = true then
        let s := finish s instr (lostCode s p)
        { s with til := { s.til with walks := s.til.walks.filter (fun w => !(w.instr == instr)) } }
      else if p.kind = .priv ∧ p.stack.isSome = true ∧ p.acked = false then
        { s with til := { s.til with walks := s.til.walks.filter (fun w => !(w.instr == instr)) ++ [{ instr := instr, todo := (n, task) :: rest }] } }
      else if p.stack.isSome then walkOn (addDesc (setPage s { p with lastRead := s.now }) 1 instr task n none) instr rest
      else
        match takeFrame s (fun q => q.number == n || rest.any (fun x => x.1 == q.number)) (pageHalf s p.obj p.layer p.index) p.units with
        | some (s', f) =>
          let s' := match p.host with | some port => hostBytes s' port p.units | none => s'
          walkOn (addDesc (setPage s' { p with lastRead := s'.now }) 3 instr task n (some f)) instr rest
        | none =>
          let others := s.til.walks.filter (fun w => !(w.instr == instr))
          if roomComing s then { s with til := { s.til with walks := others ++ [{ instr := instr, todo := (n, task) :: rest }] } }
          else { finish s instr Code.memExhausted with til := { s.til with walks := others } }

/-- Take up every walk that waited: for a frame (R282), for room in a queue (R39), or for the end of a pause (R53). -/
def walksOn (s : State) : State := s.til.walks.foldl (fun s w => walkOn s w.instr w.todo) s

/-- 4 KiB units of a tile's 16 MiB scratchpad (R260) that its granted task, which can hold up to its live ceiling, leaves free. -/
def scratchFree (s : State) (t : Nat) : Nat :=
  match (getT s t).task.bind (findTask s) with
  | some k => 4096 - 16 * k.ceiling
  | none => 4096

/-- The first of some pages that fit into a number of 4 KiB units. -/
def fitting (s : State) : Nat → List Nat → List Nat
  | _, [] => []
  | room, n :: ns =>
    let u := match findPage s n with | some p => p.units | none => 0
    if u ≤ room then n :: fitting s (room - u) ns else []

/-- Look-ahead (R191): the resident pages of the layer after an ATTEND's are read into the scratchpads of tiles of their half, as far as granted tasks leave room. -/
def lookAhead (s : State) (e : Entry) (b : List Byte) : State :=
  let r := readRange e b
  let total := match boundModel s e.b with | some m => m.desc.layers | none => 1
  let l := if total ≤ r.1 + r.2.1 then 0 else r.1 + r.2.1
  let ps := (objPages s e.b l).filterMap (fun x =>
    if x.2 < r.2.2.2 ∧ r.2.2.1 < pageEnd s e.b x ∧ x.1.stack.isSome then some x.1 else none)
  let s := dropAhead s (ps.map (·.number))
  [0, 1].foldl (fun s h =>
    let ts := eligibleTiles s h e.prio
    let hp := (ps.filter (fun p => halfOf s p == h)).map (·.number)
    (ts.zip (runsOf ts.length hp)).foldl (fun s x =>
      let kept := (getT s x.1).ahead.foldl (fun n p => n + (match findPage s p with | some q => q.units | none => 0)) 0
      let new := fitting s (scratchFree s x.1 - kept) x.2
      let s := { s with pages := mapIf (fun p => new.contains p.number) (fun p => { p with lookahead := true, lookAt := s.now }) s.pages }
      setT s x.1 { getT s x.1 with ahead := (getT s x.1).ahead ++ new }) s) s

/-- An instruction's walk at its start (R179, R257, R282): its tasks are formed and their runs of pages noted, its descriptors issued, ready tasks placed. Instructions that
work on tiles without an object's pages form one task, with a free live ceiling within a whole tile's 320 granules (R261). -/
def startWalk (s : State) (r : Running) : State :=
  if readsPages r.ent then
    let ps := walkPages s r.ent r.blk
    let h0 := (ps.filter (fun p => halfOf s p == 0)).map (·.number)
    let h1 := (ps.filter (fun p => halfOf s p != 0)).map (·.number)
    let c := taskCounts s r.ent.prio h0.length h1.length
    let fl := takeFree 16 s
    let live := if r.ent.opcode = opAttend then attendLive s r.ent r.blk else fl.1 % 320 + 1
    let s := if r.ent.opcode = opAttend then s else fl.2
    let mk : State × List (Nat × Nat) → Nat × List Nat → State × List (Nat × Nat) := fun acc x =>
      let t := addTask acc.1 r x.1 live x.2
      (t.2, acc.2 ++ x.2.map (fun p => (p, t.1)))
    let s := modRun s (fun x => x.id == r.id) (fun x => { x with runs := runsOf c.1 h0 ++ runsOf c.2 h1 })
    let acc := ((runsOf c.1 h0).map (fun l => (0, l)) ++ (runsOf c.2 h1).map (fun l => (1, l))).foldl mk (s, [])
    let todo := ps.filterMap (fun p => acc.2.find? (fun x => x.1 == p.number))
    let s := walkOn acc.1 r.id todo
    placeReady (if r.ent.opcode = opAttend then lookAhead s r.ent r.blk else s)
  else if pageless r.ent then
    let fl := takeFree 16 s
    let half := if s.til.halfOut.contains 0 then 1 else 0
    placeReady (addTask fl.2 r half (fl.1 % 320 + 1) []).2
  else s

/-- An instruction's tile work is over: no task, descriptor or walk of it is left. -/
def tileWorkDone (s : State) (id : Nat) : Bool :=
  !(s.til.tasks.any (fun k => k.instr == id)) && !(s.til.descs.any (fun d => d.instr == id)) &&
  !(s.til.walks.any (fun w => w.instr == id))

/-- A task's descriptors and fetches are all done. -/
def taskDone (s : State) (k : Task) : Bool :=
  !(s.til.descs.any (fun d => d.task == k.id && d.instr == k.instr)) &&
  !(s.til.walks.any (fun w => w.todo.any (fun x => x.2 == k.id)))

/-- A task leaves its tile and the task list. Its pages stay in the tile's page buffers (R257). -/
def endTask (s : State) (k : Task) : State :=
  let s := match k.tile with
    | some t => setT s t { getT s t with task := none, scratch := k.pages }
    | none => s
  { s with til := { s.til with tasks := s.til.tasks.filter (fun x => !(x.id == k.id)) } }

/-- Take a half out of service (R52, R263, R268): its tiles stop, its saved and running tasks are lost with their instructions, its pages become
unreadable. -/
def halfOutOfService (s : State) (h : Nat) : State :=
  if s.til.halfOut.contains h then s else
  let ts := (List.range 16).map (· + 16 * h)
  let lostTasks := s.til.tasks.filter (fun k => ts.any (fun t => (getT s t).task == some k.id || (getT s t).saved.contains k.id))
  let s := { s with til := { s.til with halfOut := s.til.halfOut ++ [h] } }
  let s := ts.foldl (fun s t => setT s t { getT s t with st := .outOfService, task := none, saved := [], scratch := [], ahead := [] }) s
  let s := lostTasks.foldl (fun s k =>
    if (findRun s k.instr).any (fun r => decide (r.phase = .ready)) then finish s k.instr Code.memUncorrectable else s) s
  let gone := fun (k : Task) => lostTasks.any (fun x => x.instr == k.instr)
  { s with til := { s.til with
      tasks := s.til.tasks.filter (fun k => !gone k)
      descs := s.til.descs.filter (fun d => !(lostTasks.any (fun x => x.instr == d.instr))) } }

end Sys2Proof.Machine
end

