-- ==== Sys2Proof/Machine/Queues.lean ====
section
/-!
DEFINITION. Queues and the course of an instruction (spec chapter 03; R460, R466 to R472): doorbells, QDB_CTRL and QDB_BIND writes, fetch, start,
the wait behind a lifecycle instruction, completion and the timeout of WAITCNT.
-/

namespace Sys2Proof.Machine

open Sys2Proof

/-- Whether a register write to a queue's set comes from its bound function (R75, R543); firmware's queues take none (R78). -/
def ownsQueue (s : State) (who : Req) (q : Nat) : Bool :=
  decide (q < firmwareQueue) && who.peer.isNone && fidOf who.port who.fn == (getQ s q).fid

/-- Whether a doorbell write is accepted from a requester: the bound function, or the peer opened to the queue (R543). -/
def mayRing (s : State) (who : Req) (q : Nat) : Bool :=
  ownsQueue s who q || (decide (q < firmwareQueue) && who.peer.isSome && who.peer == (getQ s q).peer)

/-- QDB_TAIL_WRITE (R71). -/
def execQdbTailWrite (who : Req) (q t : Nat) (s : State) : Out :=
  let Q := getQ s q
  alive s (
    if mayRing s who q = false ∨ ¬ (Q.state = .active ∨ Q.state = .waiting) ∨ t < Q.tail then s
    else if Q.head + Q.size < t then haltQueue s q Code.tzQueueHalted
    else setQ s q { Q with tail := t })

/-- The fields of QDB_CTRL that a write of `v` leaves (R73); `dis` while the queue is DISABLED. -/
def ctrlAfter (dis : Bool) (old v : W64) : W64 :=
  let wait := if 1 ≤ fieldOf v 51 36 ∧ fieldOf v 51 36 ≤ 60000 then fieldOf v 51 36 else fieldOf old 51 36
  let level := if dis then fieldOf v 31 16 else fieldOf old 31 16
  let size := if dis ∧ fieldOf v 11 8 ≤ 10 then fieldOf v 11 8 else fieldOf old 11 8
  let remote := if dis then bit (bitOf v 5) else bit (bitOf old 5)
  BitVec.ofNat 64 (wait * 2 ^ 36 + level * 2 ^ 16 + size * 256 + remote * 32 + bit (bitOf v 4) * 16)

/-- Tell the submitter of a remote instruction its reason code, its counter, 0xFFFF for none, and for a PUBLISH the region's version (R79, R130, R400). -/
def sendComplete (s : State) (d : Submitter) (e : Entry) (code version : Nat) : State :=
  transmit s ⟨d.device, d.comp, d.epoch, dataClass e.prio, false, 0, .complete d.tag code (if e.signal then e.counter else 0xFFFF) version⟩ none

/-- The completion signal of an instruction of a queue (R81, R87): for a counter allocated to the queue's function. After a failure at steps 1 to 3 of R92, where step 4 has not been
reached, the same test decides: R93 asks only that the counter passed step 4 (DESIGN CHOICE, log 32). -/
def signalOwn (s : State) (q : Nat) (e : Entry) (code : Nat) : State :=
  if e.signal ∧ e.counter ≠ 0xFFFF ∧ (firmwareQueue ≤ q ∨ (getC s e.counter).owner = some (getQ s q).fid) then
    signalCounter s e.counter code
  else s

/-- Report a completion where it belongs: the submitting device, or the local counter. -/
def reportDone (s : State) (q : Nat) (e : Entry) (sub : Option Submitter) (code version : Nat) : State :=
  match sub with
  | some d => sendComplete s d e code version
  | none => signalOwn s q e code

/-- A fetched entry that never starts completes with TZ_QUEUE_HALTED, a failure under R93 (R73, R77). -/
def failFetched (s : State) (q : Nat) (f : Fetched) : State :=
  reportDone (failRecord s q f.index Code.tzQueueHalted) q f.ent f.sub Code.tzQueueHalted 0

/-- The entry in a ring slot (R72). -/
def ringEntry (s : State) (q i : Nat) : Entry :=
  let Q := getQ s q
  entryOfBytes (locRead s Q.loc Q.fid (Q.addr + 32 * (i % Q.size)) 32)

/-- ENABLE set on a DISABLED queue (R74, R506, R563). -/
def enableQueue (s : State) (q : Nat) : State :=
  let Q := getQ s q
  if Q.state ≠ .disabled ∨ s.fwRun = 0 ∨ s.fwRun = 4 ∨ enabled s = false then s
  else if Q.level < 0x0100 ∨ 0x0102 < Q.level then setQ s q { Q with lastReason := Code.tzVersion }
  else if Q.remote = true ∧ Q.loc = 0 then setQ s q { Q with lastReason := Code.tzRights }
  else if Q.loc = 1 ∧ inCarve s Q.addr (32 * Q.size) = false then setQ s q { Q with lastReason := Code.tzFormat }
  else setQ s q { Q with state := .active, head := 0, tail := 0, lastReason := 0, failCount := 0, fetched := [] }

/-- Every fetched entry that has not started completes in ring order (R73, R77). -/
def failAllFetched (s : State) (q : Nat) : State :=
  let fs := (getQ s q).fetched
  fs.foldl (fun s f => failFetched s q f) (modQ s q (fun Q => { Q with fetched := [] }))

/-- ENABLE cleared (R77): the queue drains. -/
def disableQueue (s : State) (q : Nat) : State :=
  let Q := getQ s q
  if Q.state = .active ∨ Q.state = .waiting ∨ Q.state = .halted then
    drainEnd (failAllFetched (endWaits (setQ s q { Q with state := .draining }) q) q) q
  else s

/-- FLUSH of a HALTED queue (R73). -/
def flushQueue (s : State) (q : Nat) : State :=
  let Q := getQ s q
  if Q.state = .halted then
    let rest := (List.range (Q.tail - Q.head)).map (fun i => ({ index := Q.head + i, ent := ringEntry s q (Q.head + i), blk := [], sub := none, caught := false } : Fetched))
    rest.foldl (fun s f => failFetched s q f) (modQ (failAllFetched s q) q (fun Q => { Q with head := Q.tail }))
  else s

/-- RESUME of a HALTED queue (R73). -/
def resumeQueue (s : State) (q : Nat) : State :=
  if (getQ s q).state = .halted then modQ s q (fun Q => { Q with state := .active }) else s

/-- A write of QDB_CTRL (R73): its fields, then ENABLE, HALT, FLUSH and RESUME in this order. -/
def ctrlWrite (s : State) (who : Req) (q : Nat) (v : W64) : State :=
  if ownsQueue s who q then
    let Q := getQ s q
    let s := setQ s q { Q with ctrl := ctrlAfter (decide (Q.state = .disabled)) Q.ctrl v }
    let s := if bitOf v 0 then enableQueue s q else disableQueue s q
    let s := if bitOf v 1 then haltQueue s q Code.tzQueueHalted else s
    let s := if bitOf v 3 then flushQueue s q else s
    if bitOf v 2 then resumeQueue s q else s
  else s

/-- QUEUE_ENABLE (R74): a QDB_CTRL write with ENABLE 1. -/
def execQueueEnable (who : Req) (q : Nat) (v : W64) (s : State) : Out := alive s (ctrlWrite s who q (v ||| 1))
/-- QUEUE_DISABLE (R77): a QDB_CTRL write with ENABLE 0. -/
def execQueueDisable (who : Req) (q : Nat) (v : W64) (s : State) : Out := alive s (ctrlWrite s who q (v &&& ~~~1))
/-- QUEUE_HALT (R73): a QDB_CTRL write with HALT 1. -/
def execQueueHalt (who : Req) (q : Nat) (v : W64) (s : State) : Out := alive s (ctrlWrite s who q (v ||| 2))
/-- QUEUE_RESUME (R73): a QDB_CTRL write with RESUME 1. -/
def execQueueResume (who : Req) (q : Nat) (v : W64) (s : State) : Out := alive s (ctrlWrite s who q (v ||| 4))
/-- QUEUE_FLUSH (R73): a QDB_CTRL write with FLUSH 1. -/
def execQueueFlush (who : Req) (q : Nat) (v : W64) (s : State) : Out := alive s (ctrlWrite s who q (v ||| 8))

/-- QDB_BIND_WRITE (R75): by a physical function, while the queue is DISABLED. -/
def execQdbBindWrite (who : Req) (q : Nat) (v : W64) (s : State) : Out :=
  let Q := getQ s q
  let fn := if fieldOf v 38 32 < 64 then fieldOf v 38 32 else fieldOf Q.bind 38 32
  let w := BitVec.ofNat 64 (bit (bitOf v 39) * 2 ^ 39 + fn * 2 ^ 32 + fieldOf v 19 18 * 2 ^ 18 + bit (bitOf v 16) * 2 ^ 16 + fieldOf v 15 0)
  alive s (if who.fn = 0 ∧ who.peer = none ∧ q < firmwareQueue ∧ Q.state = .disabled then setQ s q { Q with bind := w } else s)

/-- A customer becomes active in a class (R472): its virtual time rises to the class's. -/
def activate (s : State) (cust cls : Nat) : State :=
  let v := classVt s cls
  let s := refreshVt s cls
  { s with adm := { s.adm with customers := s.adm.customers.map (fun x =>
      if x.2.valid && x.2.customer == cust && vtBefore (x.2.vt.getD cls 0) v then (x.1, { x.2 with vt := setAt x.2.vt cls v }) else x) } }

/-- Take an entry into a queue's fetched list, its customer becoming active where it was not (R472). -/
def enterFetched (s : State) (q : Nat) (f : Fetched) : State :=
  let s := if activeIn s f.ent.customer f.ent.prio then s else activate s f.ent.customer f.ent.prio
  modQ s q (fun Q => { Q with fetched := Q.fetched ++ [f] })

/-- INSTRUCTION_FETCH (R72, R77): the entry at HEAD is copied as the ring holds it at that moment. -/
def execInstructionFetch (q : Nat) (pokes : List Poke) (s : State) : Out :=
  let s1 := applyPokes s pokes
  let Q := getQ s1 q
  .next (
    if fetching s = true ∧ Q.state = .active ∧ Q.head < Q.tail ∧ (inFlight s1 q).length < 256 then
      modQ (enterFetched s1 q { index := Q.head, ent := ringEntry s1 q Q.head, blk := [], sub := none, caught := false }) q (fun Q => { Q with head := Q.head + 1 })
    else s1)

/-! ### Start -/

/-- The regions of this device that an instruction's buffers lie in (R97, R371): by the keys its references name, and those of MCAST's members here. -/
def regionsOf (s : State) (e : Entry) (b : List Byte) : List Handle :=
  let refs := (bufOffsets e).map (fun o => ((bufAt b o).device, (bufAt b o).key))
  let members := if e.opcode = opMcast then (List.range (fieldBytes b 2 1)).map (fun i => (fieldBytes b (64 + 8 * i) 2, fieldBytes b (68 + 8 * i) 4)) else []
  (refs ++ members).filterMap (fun x =>
    let k := getK s (keyIndex x.2)
    if x.1 = self s ∧ keyIndex x.2 ≠ 0 ∧ k.state ≠ .free then some k.region else none)

/-- The objects an instruction acts on, for R97: a page stands for its object, a buffer for its region. -/
def objectsOf (s : State) (e : Entry) (b : List Byte) : List Handle :=
  if [opPmove, opPcopy, opPevict, opPpin, opPunpin, opCastle, opRevoke, opPublish, opDiscard].contains e.opcode then [objectOf s e.a]
  else if e.opcode = opClaim then (if e.a = nullHandle then [] else [e.a])
  else if e.opcode = opPingest then e.b :: fieldBytes b 48 8 :: regionsOf s e b
  else if e.opcode = opAttend ∨ e.opcode = opExpand ∨ (e.opcode = opConvert ∧ e.flag 4) then e.b :: regionsOf s e b
  else if e.opcode = opPmatch then e.a :: regionsOf s e b
  else regionsOf s e b

/-- A lifecycle instruction (R97). -/
def isLifecycle (e : Entry) : Bool :=
  e.opcode == opCastle || e.opcode == opRevoke || e.opcode == opPublish || e.opcode == opDiscard ||
  (e.opcode == opClaim && e.a != nullHandle) || (e.opcode == opPevict && e.flag 4)

/-- A PPIN and a PMOVE or vacating PEVICT that cover the same page (R142): whichever starts first holds the page. -/
def pinMeets (s : State) (x r : Entry) : Bool :=
  let moves := fun (e : Entry) => e.opcode == opPmove || (e.opcode == opPevict && !e.flag 4)
  ((x.opcode == opPpin && moves r) || (moves x && r.opcode == opPpin)) &&
  (covered s x.a (spanOf x.b)).any (fun p => (covered s r.a (spanOf r.b)).any (fun q => p.number == q.number))

/-- Whether an earlier started instruction stands before `r` at one of its objects (R97): any for a lifecycle instruction, a lifecycle
one for a data instruction; PPIN and the instructions that move its pages wait for each other (R142). The order is that of starting, and a lifecycle instruction that itself still
waits already stands before the data instructions that start after it (DESIGN CHOICE, log 32: R97 says 'holds'). -/
def mustWait (s : State) (r : Running) : Bool :=
  let os := objectsOf s r.ent r.blk
  s.tz.started.any (fun x => decide (x.id < r.id) && (((isLifecycle r.ent || isLifecycle x.ent) &&
    (objectsOf s x.ent x.blk).any (fun o => o != nullHandle && os.contains o)) || pinMeets s x.ent r.ent))

/-- The check context of a started instruction. -/
def ctxOf (s : State) (r : Running) : Ctx :=
  { e := r.ent, blk := r.blk, q := r.queue, fid := r.fid, loc := (queueMem s r).1, level := (getQ s r.queue).level,
    remote := r.sub.isSome }

/-- Set the phase of a started instruction. -/
def setPhase (s : State) (id : Nat) (p : Phase) : State := modRun s (fun x => x.id == id) (fun x => { x with phase := p })

/-- An instruction dropped by the time control of its customer (R466). -/
def policeEntry (s : State) (i : Nat) : State :=
  { s with adm := { s.adm with customers := s.adm.customers.upd i (fun k => { k with policed := satAdd 0xFFFFFFFF k.policed 1 }), policed := satAdd 0xFFFFFFFF s.adm.policed 1 } }

/-- Step 6 for a started instruction: one that was queued when a BUDGET lowered its customer's burst, and whose charge lies beyond the burst now, is dropped with ADM_POLICED (R173), where
R466 gives ADM_BUDGET_EXHAUSTED to every other. -/
def admitQueued (s : State) (q : Nat) (r : Running) (charge : Nat) : State × Nat :=
  let a := admitEntry s q r.ent charge
  match knownCustomer s r.ent.customer with
  | some i => if r.caught = true ∧ a.2 = Code.admBudgetExhausted ∧ (s.adm.customers.get Customer.init i).burst < charge then (policeEntry s i, Code.admPoliced) else a
  | none => a

/-- Step 6 and the beginning of step 7 (R92): admission and charge, the queue WAITING at a WAITCNT, the walk. -/
def admitStart (s : State) (r : Running) : State :=
  let c := chargeOf s (ctxOf s r)
  let a := admitQueued s (if r.sub.isSome && r.ent.opcode == opAttend then 0 else r.queue) r c
  if a.2 ≠ 0 then setPhase a.1 r.id (.done a.2)
  else
    let s := modRun a.1 (fun x => x.id == r.id) (fun x => { x with phase := .ready, charge := c })
    let s := if r.ent.opcode = opWaitcnt then modQ s r.queue (fun Q => { Q with state := .waiting }) else s
    startWalk s r

/-- A fetched entry may start (R460): its queue is ACTIVE with room in flight, and no FENCE holds it. -/
def headReady (s : State) (q : Nat) : Option Fetched :=
  let Q := getQ s q
  match Q.fetched with
  | [] => none
  | f :: _ =>
    if Q.state = .active ∧ (inFlight s q).length < 256 ∧ (f.ent.fence = true → (inFlight s q).isEmpty) then some f else none

/-- Start order between two ready queues (R460): class, virtual time, the queue that started least recently, then queue number. -/
def startBefore (s : State) (a b : Nat × Fetched) : Bool :=
  let va := vtOf s a.2.ent.customer a.2.ent.prio
  let vb := vtOf s b.2.ent.customer b.2.ent.prio
  decide (a.2.ent.prio < b.2.ent.prio) ||
  (a.2.ent.prio == b.2.ent.prio &&
    (vtBefore va vb || (va == vb && decide ((getQ s a.1).lastStart < (getQ s b.1).lastStart))))

/-- The queue whose entry starts next (R460). -/
def nextStart (s : State) : Option (Nat × Fetched) :=
  (s.tz.queues.filterMap (fun x => (headReady s x.1).map (fun f => (x.1, f)))).foldl
    (fun b x => match b with
      | none => some x
      | some y => if startBefore s x y then some x else b) none

/-- The started instruction made of a fetched entry, its parameter block read now (R91). -/
def mkRunning (s : State) (q : Nat) (f : Fetched) : Running :=
  let Q := getQ s q
  let loc := if f.sub.isSome ∨ firmwareQueue ≤ q then 1 else Q.loc
  let read := fun (n : Nat) => if hasBlock f.ent && pointerOk s loc f.ent.c 64 n then locRead s loc Q.fid f.ent.c n else []
  let blk := if !f.blk.isEmpty then f.blk else read (blockLen f.ent (read (blockSize f.ent)))
  { id := s.tz.nextId, queue := q, index := f.index, ent := f.ent, blk := blk, sub := f.sub, fid := Q.fid, phase := .behind,
    charge := 0, aux := 0, codes := [], inputs := [], startAt := s.now, runs := [], caught := f.caught }

/-- Take an instruction out of its queue's fetched list into the started ones. -/
def enterStarted (s : State) (q : Nat) (r : Running) : State :=
  let s := modQ s q (fun Q => { Q with fetched := Q.fetched.drop 1, lastStart := s.tz.seqNo + 1 })
  { s with tz := { s.tz with started := s.tz.started ++ [r], nextId := s.tz.nextId + 1, seqNo := s.tz.seqNo + 1 } }

/-- INSTRUCTION_START (R92, R460): the next ready instruction is checked in order; one that must wait behind another at its object waits
(R97), else it is admitted and begins. -/
def execInstructionStart (pokes : List Poke) (s : State) : Out :=
  let s1 := applyPokes s pokes
  .next (
    if fetching s then
      match nextStart s1 with
      | none => s1
      | some (q, f) =>
        let r := mkRunning s1 q f
        let s2 := enterStarted s1 q r
        let c := ctxOf s2 r
        let c3 := steps13 s2 c
        if c3 ≠ 0 then setPhase s2 r.id (.done c3)
        else
          let c5 := steps45 s2 c
          if c5 ≠ 0 then setPhase s2 r.id (.done c5)
          else if mustWait s2 r then s2
          else admitStart s2 r
    else s1)

/-- LIFECYCLE_WAIT_END (R97): once nothing stands before it, a waiting instruction is checked again from step 4 and admitted. One whose sequence a castle took meanwhile gets OWN_NOT_OWNER
(R97, R142, R242). -/
def execLifecycleWaitEnd (id : Nat) (s : State) : Out :=
  alive s (
    match findRun s id with
    | none => s
    | some r =>
      if r.phase = .behind ∧ mustWait s r = false then
        let c5 := steps45 s (ctxOf s r)
        let code := if c5 = Code.tzBadHandle then ((r.codes.map (·.2)).headD c5) else c5
        if code ≠ 0 then setPhase s id (.done code) else admitStart s r
      else s)

/-! ### Completion -/

/-- Credit a refunded charge (R469), saturating at BURST. -/
def refund (s : State) (cust charge : Nat) : State :=
  { s with adm := { s.adm with customers := s.adm.customers.map (fun x =>
      if x.2.valid && x.2.customer == cust then (x.1, { x.2 with level := min (x.2.burst * 1000) (x.2.level + charge * 1000) }) else x) } }

/-- INSTRUCTION_COMPLETE (R82, R93): the instruction leaves its queue, its failure is recorded, its counter signalled or its submitter told,
and what it held is released, a PMATCH's access to RESULT with it (R371); an ATTEND's end is noted at its sequence (R234). The WAITCNT that holds a queue WAITING is the last one started of it, since none starts while it does (R83). -/
def completeRun (s : State) (r : Running) (code : Nat) : State :=
  let s := { s with tz := { s.tz with started := s.tz.started.filter (fun x => !(x.id == r.id)) } }
  let s := if r.ent.opcode = opAttend then modCopy s r.ent.b (fun c => { c with lastAttend := s.now }) else s
  let s := if r.ent.opcode = opPmatch ∧ r.aux = 1 then leaveMsg s (keyIndex (bufAt r.blk 32).key) (writerOf s r) else s
  let s := if code = Code.ownPreemptedSwapped then refund s r.ent.customer r.charge else s
  let s := if code ≠ 0 then failRecord s r.queue r.index code else s
  let later := (inFlight s r.queue).any (fun x => x.ent.opcode == opWaitcnt && decide (r.id < x.id))
  let s := if r.ent.opcode = opWaitcnt ∧ (getQ s r.queue).state = .waiting ∧ later = false then modQ s r.queue (fun Q => { Q with state := .active }) else s
  let s := reportDone s r.queue r.ent r.sub code (if r.ent.opcode = opPublish then r.aux else 0)
  refreshVt (drainEnd s r.queue) r.ent.prio

/-- INSTRUCTION_COMPLETE (R82). -/
def execInstructionComplete (id : Nat) (s : State) : Out :=
  alive s (
    match findRun s id with
    | none => s
    | some r =>
      match r.phase with
      | .done code => completeRun s r code
      | _ => s)

/-- The timeout of a WAITCNT in µs (R83, R166): its own, else the queue's WAIT_TO. -/
def waitPeriod (s : State) (r : Running) : Nat := (if r.ent.c % 2 ^ 16 = 0 then (getQ s r.queue).waitTo else r.ent.c % 2 ^ 16) * 1000

/-- WAITCNT_TIMEOUT (R83, R98): once the timeout has run out, with scheduling not paused; the counter is looked at first. -/
def execWaitcntTimeout (id : Nat) (s : State) : Out :=
  alive s (
    match findRun s id with
    | none => s
    | some r =>
      let c := getC s (r.ent.a % 2 ^ 16)
      if pendingWait r = true ∧ scheduling s = true ∧ r.startAt + waitPeriod s r ≤ s.now then finish s id (if r.ent.b ≤ c.count then c.fail else Code.tzWaitTimeout)
      else s)

/-- What firmware does of an instruction's work (R501): page and region state, ownership, the prefix index. -/
def firmwareOp (e : Entry) : Bool := decide (0x10 ≤ e.opcode ∧ e.opcode < 0x30)

/-- The common form of the opcode rows: what a started instruction of that opcode does once its tile work is over (R92, step 7). -/
def runOp (s : State) (id : Nat) (is : Entry → Bool) (f : Running → State) : Out :=
  alive s (
    match findRun s id with
    | none => s
    | some r => if r.phase = .ready ∧ is r.ent = true ∧ tileWorkDone s id = true ∧ (paused s && firmwareOp r.ent) = false then f r else s)

end Sys2Proof.Machine
end

