-- ==== Sys2Proof/Machine/Control.lean ====
section
/-!
DEFINITION. The control instructions (spec chapter 05, R166 to R172): NOP, FENCE, WAITCNT, SIGNAL, HALTQ, TRACE and BUDGET.
-/

namespace Sys2Proof.Machine

open Sys2Proof

/-- NOP (R167). -/
def execNop (id : Nat) (s : State) : Out := runOp s id (fun e => e.opcode == opNop) (fun _ => finish s id 0)

/-- FENCE (R167): it started only once every earlier instruction of its queue had completed. -/
def execFence (id : Nat) (s : State) : Out := runOp s id (fun e => e.opcode == opFence) (fun _ => finish s id 0)

/-- WAITCNT (R83, R168): it completes at once where COUNT has reached the target, else it waits. -/
def execWaitcnt (id : Nat) (s : State) : Out :=
  runOp s id (fun e => e.opcode == opWaitcnt) (fun r =>
    let c := getC s (r.ent.a % 2 ^ 16)
    if r.ent.b ≤ c.count then finish s id c.fail else await s id)

/-- The one atomic update of SIGNAL (R84, R169). -/
def counterUpdate (s : State) (i : Nat) (set clearFail : Bool) (value : Nat) : State :=
  let c := getC s i
  counterUpdated (setC s i { c with
    count := if set then value % 2 ^ 48 else wrapAdd 48 c.count value
    fail := if clearFail then 0 else c.fail }) i

/-- SIGNAL (R169): a local counter is updated here; a remote one by a message, which a common composition must carry. -/
def execSignal (id : Nat) (s : State) : Out :=
  runOp s id (fun e => e.opcode == opSignal) (fun r =>
    if hHome r.ent.a = self s then
      finish (counterUpdate s (r.ent.a % 2 ^ 16) (r.ent.flag 4) (r.ent.flag 5) r.ent.b) id 0
    else
      match sendTo s (hHome r.ent.a) (dataClass r.ent.prio) r.ent.a (.signal r.ent.a (r.ent.flag 4) (r.ent.flag 5) r.ent.b) (some id) with
      | .ok s' => await s' id
      | .error c => finish s id c)

/-- HALTQ (R170, R98). -/
def execHaltq (id : Nat) (s : State) : Out :=
  runOp s id (fun e => e.opcode == opHaltq) (fun r =>
    let q := r.ent.a % 2 ^ 12
    let Q := getQ s q
    let mine := decide (q < firmwareQueue) && (Q.fid == r.fid || (r.fid % 64 == 0 && Q.fid / 64 == r.fid / 64))
    if ¬ (mine = true ∨ firmwareQueue ≤ r.queue) then finish s id Code.tzRights
    else
      match Q.state with
      | .active | .waiting => finish (haltQueue s q Code.tzQueueHalted) id 0
      | .halted => finish s id 0
      | _ => finish s id Code.tzQueueHalted)

/-- Whether a trace point records (R525, R528): its mask bit and ENABLE. -/
def traceOn (s : State) (p : Nat) : Bool :=
  bitOf (s.regs.get 0 (0xB00000 + 8 * (p / 64))) (p % 64) && bitOf (s.regs.get 0 0xB00038) 0

/-- TRACE (R171): a user record where its point is enabled. -/
def execTrace (id : Nat) (s : State) : Out :=
  runOp s id (fun e => e.opcode == opTrace) (fun r =>
    let ev : TraceEv := {
      point := r.ent.a % 256, source := 9, queue := r.queue, customer := r.ent.customer, payload := leBytes 6 r.ent.b }
    finish (if traceOn s (r.ent.a % 256) then { s with traceQ := s.traceQ ++ [ev] } else s) id 0)

/-- Change the entry of a customer known to admission, or TZ_RIGHTS (R172). -/
def budget (s : State) (id cust : Nat) (f : Customer → Customer) : State :=
  match knownCustomer s cust with
  | none => finish s id Code.tzRights
  | some i => finish { s with adm := { s.adm with customers := s.adm.customers.upd i f } } id 0

/-- A new BURST clips LEVEL (R464). -/
def Customer.setBurst (k : Customer) (b : Nat) : Customer := { k with burst := b, level := min k.level (b * 1000) }

/-- The instructions of a customer that a device holds before their step 6 are noted as queued while its burst is lowered (R173). -/
def catchQueued (s : State) (cust : Nat) : State :=
  let s := modRun s (fun r => decide (r.phase = .behind) && r.ent.customer == cust) (fun r => { r with caught := true })
  { s with tz := { s.tz with queues := s.tz.queues.map (fun x =>
      (x.1, { x.2 with fetched := mapIf (fun f => f.ent.customer == cust) (fun f => { f with caught := true }) x.2.fetched })) } }

/-- Whether a BUDGET lowers a known customer's burst. -/
def lowersBurst (s : State) (cust burst : Nat) : Bool := (knownCustomer s cust).any (fun i => decide (burst < (s.adm.customers.get Customer.init i).burst))

/-- BUDGET action 0x0 (R172, R173, R464): rate and burst, the refill up to now still at the old rate. -/
def execBudgetSetRateAndBurst (id : Nat) (s : State) : Out :=
  runOp s id (fun e => e.opcode == opBudget && e.op74 == 0) (fun r =>
    let cust := r.ent.a % 2 ^ 16
    let s := if lowersBurst s cust (r.ent.c % 2 ^ 32) then catchQueued s cust else s
    budget s id cust (fun k => { (k.refilled s.now).setBurst (r.ent.c % 2 ^ 32) with rate := r.ent.b % 2 ^ 32 }))

/-- BUDGET action 0x1 (R172): credit, saturating at the burst. -/
def execBudgetAddCredit (id : Nat) (s : State) : Out :=
  runOp s id (fun e => e.opcode == opBudget && e.op74 == 1) (fun r =>
    budget s id (r.ent.a % 2 ^ 16) (fun k => { k with level := min (k.burst * 1000) (k.level + r.ent.b % 2 ^ 32 * 1000) }))

/-- BUDGET action 0x2 (R172): the weight within a class. -/
def execBudgetSetWeight (id : Nat) (s : State) : Out :=
  runOp s id (fun e => e.opcode == opBudget && e.op74 == 2) (fun r =>
    budget s id (r.ent.a % 2 ^ 16) (fun k => { k with weight := r.ent.b % 2 ^ 16 }))

end Sys2Proof.Machine
end

