-- ==== Sys2Proof/Machine/PageInstr.lean ====
section
/-!
DEFINITION. The page instructions (spec chapter 04, R107 to R120; R216): PMOVE, PCOPY, PINGEST, PEVICT, PPIN and PUNPIN, and the writing of rows that
PINGEST and CONVERT share.
-/

namespace Sys2Proof.Machine

open Sys2Proof

/-- Take pages in order through a transfer; a page freed meanwhile is skipped (R109). The first failure ends it with its code; an unreadable page is
marked lost. -/
def movePages (op : State → Page → Option (State × Page)) : State → List Page → State × Nat
  | s, [] => (s, 0)
  | s, p :: ps =>
    match findPage s p.number with
    | none => movePages op s ps
    | some p =>
      if unreadable s p then (setPage s { p with lost := true }, Code.memUncorrectable)
      else
        match op s p with
        | none => (s, Code.memExhausted)
        | some (s', p') => movePages op (setPage s' p') ps

/-- What a transfer left, with a shortage of frames remembered (R234). -/
def shortOn (m : State × Nat) : State := if m.2 = Code.memExhausted then noFrame m.1 else m.1

/-- PMOVE of one page (R107): up by way of the frames the personality frees, which are not those of the pages the instruction covers, else as `movePage` says. -/
def moveOne (dest : Nat) (ps : List Page) (s : State) (p : Page) : Option (State × Page) :=
  if dest = tStacks then bringUp s (fun q => ps.any (fun x => x.number == q.number)) p else movePage s p dest

/-- Whether the home must learn of the pages' residency (R216): a sequence's private pages. -/
def entriesChanged (s : State) (before : List Page) : List Page :=
  before.filter (fun p => (findPage s p.number).any (fun q => q.entry != p.entry) && p.kind == .priv)

/-- Complete an instruction once the home has applied the changed entries of a sequence (R216); at once where none changed. -/
def recordThen (s : State) (id : Nat) (h : Handle) (before : List Page) (code : Nat) : State :=
  match findCopy s h with
  | none => finish s id code
  | some c =>
    match itemsFor s c (entriesChanged s before) with
    | [] => finish s id code
    | items => changeRecord (await s id) h (.change items) (.instr id code)

/-- A SWAPPED sequence whose every page is back in the stacks returns to STATE 0 (R237). -/
def maybeResume (s : State) (h : Handle) : State :=
  match findCopy s h with
  | none => s
  | some c =>
    if c.swapped ∧ c.pages.flatten.all (fun n => (findPage s n).any (fun p => p.stack.isSome)) then
      changeRecord s h (.setState 0 noDevice 0) .resumed
    else s

/-- PMOVE (R107 to R109). -/
def execPmove (id : Nat) (s : State) : Out :=
  runOp s id (fun e => e.opcode == opPmove) (fun r =>
    let ps := covered s r.ent.a (spanOf r.ent.b)
    let h := objectOf s r.ent.a
    if r.ent.c ≠ tStacks ∧ ps.any (fun p => decide (0 < p.pin)) then finish s id Code.tzRights
    else if ps.any (fun p => pageBusy s p.number || awaited p) then s
    else
      viaFlash s id r.ent.c ps (fun s =>
        let m := movePages (moveOne r.ent.c ps) s ps
        recordThen (maybeResume (shortOn m) h) id h ps m.2))

/-! ### PCOPY -/

/-- A layer with a page's index, or with a position, as OFFSET of a message that names it (DESIGN CHOICE, log 16). -/
def pagePlace (layer index : Nat) : Nat := layer * 2 ^ 32 + index

/-- Ask a device for a page of a node version's shard (R110): the read names the layer and the page's index under the null key. -/
def readPage (s : State) (dst : Nat) (cls : Nat) (node : Handle) (layer index len : Nat) (comb : Bool) (what : ReadFor) : Except Nat State :=
  if comb then sendRead s dst cls node 0 (Config.pageNumber node layer index % 2 ^ 40) len true what
  else sendRead s dst cls node 0 (pagePlace layer index) len false what

/-- The holder of a block under a shard map: consecutive blocks, SHARD_BLOCKS each (R121, R384). -/
def ShardMap.holderOf (m : ShardMap) (blockNo : Nat) : Nat :=
  m.holders.getD (min (blockNo / max 1 m.shardBlocks) (m.holders.length - 1)) noDevice

/-- Send the reads of a remote prefix copy: every covered page that is not here already (R110, R111). The first that cannot be sent gives its
code. -/
def stageReads (s : State) (r : Running) (m : ModelRec) (map : ShardMap) : State × Nat × Nat :=
  let src := r.ent.c % 2 ^ 15
  let tier := r.ent.c / 2 ^ 16
  (nodeSpan m (spanOf r.ent.b) (map.matched * 64)).foldl (fun acc x =>
    let (s, n, code) := acc
    let have_ := s.pages.any (fun p => p.obj == r.ent.a && p.layer == x.1 && p.index == x.2.1 && (p.inTier tier || tier == tFlash))
    if code ≠ 0 ∨ have_ then acc
    else
      let dst := if src = noDevice then map.holderOf (x.2.1 * perPage m / 64) else src
      match readPage s dst (dataClass r.ent.prio) r.ent.a x.1 x.2.1 (if r.ent.combinable then m.frame4k * 4096 else perPage m * rowBytes m) r.ent.combinable
        (.stage r.id r.ent.a x.1 x.2.1 tier x.2.2) with
      | .ok s' => (s', n + 1, 0)
      | .error c => (s, n, c)) (s, 0, 0)

/-- The end of a remote prefix copy whose pages are all here (R110, R343): copies for flash go there from the stacks, and stay only there. -/
def stageEnd (s : State) (r : Running) : State :=
  if r.ent.c / 2 ^ 16 ≠ tFlash then finish s r.id 0
  else
    let ps := (covered s r.ent.a (spanOf r.ent.b)).filter (fun p => p.kind == .staged)
    viaFlash s r.id tFlash ps (fun s =>
      let m := movePages (fun s p => movePage s p tFlash) s ps
      finish m.1 r.id m.2)

/-- Begin a remote prefix copy with a shard map in hand. Where a read cannot be sent, those already sent are still waited for (R106, R112). -/
def startStage (s : State) (r : Running) (map : ShardMap) : State :=
  match boundModel s r.ent.a with
  | none => finish s r.id Code.tzBadHandle
  | some m =>
    let x := stageReads s r m.desc map
    if x.2.1 ≠ 0 then
      pumpComb (modRun (await x.1 r.id) (fun q => q.id == r.id) (fun q => { q with aux := x.2.1, codes := if x.2.2 = 0 then [] else [(0, x.2.2)] })) r.id
    else if x.2.2 ≠ 0 then finish x.1 r.id x.2.2
    else stageEnd x.1 r

/-- PCOPY (R110 to R112): a local copy between the holder's tiers, a backing copy of a sequence, or a staged copy from the holders. -/
def execPcopy (id : Nat) (s : State) : Out :=
  runOp s id (fun e => e.opcode == opPcopy) (fun r =>
    let src := r.ent.c % 2 ^ 15
    let dest := r.ent.c / 2 ^ 16
    let ps := covered s r.ent.a (spanOf r.ent.b)
    let local_ : Bool := hCls r.ent.a == clsSeq || (s.pers == some .cache && (findHold s r.ent.a).isSome && (src == noDevice || src == self s))
    if local_ then
      if ps.any awaited then s else
      viaFlash s id dest ps (fun s =>
        let m := movePages (fun s p => copyInto s p dest) s ps
        recordThen m.1 id (objectOf s r.ent.a) ps m.2)
    else
      match s.rgn.maps.find? (fun m => m.node == r.ent.a) with
      | some map => startStage s r map
      | none =>
        match sendTo s (hHome r.ent.a) 1 r.ent.a .shardMapReq (some id) with
        | .ok s' => await s' id
        | .error c => finish s id c)

/-! ### Writing rows -/

/-- Bytes of one source row (R114). -/
def sourceRowBytes (m : ModelRec) (fmt : Nat) : Nat := rowElems m * (if fmt = 1 then 4 else 2)

/-- The rows of a PINGEST or CONVERT, as stored bytes with their layer and position, or the KEY code of SOURCE (R114, R371): the check covers the
whole range read. -/
def sourceRows (s : State) (r : Running) (m : ModelRec) : Except Nat (List (Nat × Nat × List Byte)) :=
  let b := r.blk
  let lc := fieldBytes b 4 1
  let tc := fieldBytes b 12 4
  let stride := fieldBytes b 32 4
  let lstride := fieldBytes b 40 8
  let w := sourceRowBytes m (fieldBytes b 2 1)
  let src := bufAt b 16
  let c := keyCheck s src.key src.offset ((lc - 1) * lstride + (tc - 1) * stride + w) rRead none
  if c ≠ 0 then .error c
  else
    let k := getK s (keyIndex src.key)
    let f := (plainFmt (fieldBytes b 2 1)).getD .fp32
    .ok ((List.range lc).flatMap (fun i => (List.range tc).map (fun t =>
      (fieldBytes b 3 1 + i, fieldBytes b 8 3 + t,
        mxStore (storageFmt m) (loadPlain f (rowElems m) (regionRead s k (src.offset + i * lstride + t * stride) w))))))

/-- Write one row into a page (R277, R279). -/
def Page.putRow (p : Page) (slot : Nat) (bs : List Byte) : Page :=
  { p.written with rows := p.rows.set slot bs, tokens := max p.tokens (slot + 1) }

/-- Allocate the next page of a layer of a sequence (R216, R281): none where no frame is free or admissions are refused (R236). -/
def growLayer (s : State) (c : SeqCopy) (m : ModelRec) (layer : Nat) : Option (State × Page) :=
  let k := (c.pages.getD layer []).length
  if refusesFrames s then none
  else
    match takeFrame s (fun _ => false) (pageHalf s c.handle layer k) (frameUnits m) with
    | none => none
    | some (s', f) =>
      let n := newPageNumber s'
      let p := { freshPage n.1 .priv c.handle layer k f with acked := false }
      let s := addPage n.2 p
      some (modCopy s c.handle (fun c => { c with pages := c.pages.zipIdx.map (fun x => if x.2 = layer then x.1 ++ [n.1] else x.1) }), p)

/-- Allocate a layer's next page and tell the home of its entry (R216), for an instruction that waits to write into it or as a reserve. -/
def growAndTell (s : State) (h : Handle) (m : ModelRec) (layer : Nat) (writer : Option Nat) : Option State :=
  match findCopy s h with
  | none => none
  | some c =>
    (growLayer s c m layer).map (fun x =>
      changeRecord x.1 h (.add [{ layer := layer, index := x.2.index, entry := x.2.entry }]) (.acked [x.2.number] writer))

/-- Keep the tail reserve of a layer (R216): allocate while fewer than 16 unwritten slots lie beyond the highest written position. -/
def tailReserve : Nat → State → Handle → ModelRec → Nat → State
  | 0, s, _, _, _ => s
  | n + 1, s, h, m, layer =>
    match findCopy s h with
    | none => s
    | some c =>
      let slots := (c.pages.getD layer []).length * perPage m
      if heldIn s c layer - c.desc.prefixLen + 16 ≤ slots then s
      else
        match growAndTell s h m layer none with
        | some s' => tailReserve n s' h m layer
        | none => noFrame s

/-- The page index a position falls in. -/
def pageIndexOf (c : SeqCopy) (m : ModelRec) (pos : Nat) : Nat := (pos - c.desc.prefixLen) / perPage m

/-- Pages a write needs and the sequence has not allocated, one a layer at a time: the first layer short of pages. -/
def missingLayer (c : SeqCopy) (m : ModelRec) (rows : List (Nat × Nat × List Byte)) : Option Nat :=
  (rows.find? (fun x => decide ((c.pages.getD x.1 []).length ≤ pageIndexOf c m x.2.1))).map (·.1)

/-- Allocate every missing page of a write; `false` when one finds no frame. -/
def allocMissing : Nat → State → Nat → Handle → ModelRec → List (Nat × Nat × List Byte) → State × Bool
  | 0, s, _, _, _, _ => (s, false)
  | n + 1, s, id, h, m, rows =>
    match findCopy s h with
    | none => (s, false)
    | some c =>
      match missingLayer c m rows with
      | none => (s, true)
      | some l =>
        match growAndTell s h m l (some id) with
        | some s' => allocMissing n s' id h m rows
        | none => (noFrame s, false)

/-- Whether a page of a write still waits for the home's acknowledgement of its entry (R216). -/
def rowsUnacked (s : State) (c : SeqCopy) (m : ModelRec) (rows : List (Nat × Nat × List Byte)) : Bool :=
  rows.any (fun x => match (c.pages.getD x.1 [])[pageIndexOf c m x.2.1]? with
    | some n => (findPage s n).any (fun p => !p.acked)
    | none => false)

/-- Write the rows that have a page into a sequence's private pages. -/
def putRows (s : State) (c : SeqCopy) (m : ModelRec) (rows : List (Nat × Nat × List Byte)) : State :=
  rows.foldl (fun s x =>
    match ((c.pages.getD x.1 [])[pageIndexOf c m x.2.1]?).bind (findPage s) with
    | some p => setPage s (p.putRow ((x.2.1 - c.desc.prefixLen) % perPage m) x.2.2)
    | none => s) s

/-- Tell the home of changed TOKENS and residency without holding the instruction (R216). -/
def tellTokens (s : State) (h : Handle) (before : List Page) : State :=
  match findCopy s h with
  | none => s
  | some c =>
    match itemsFor s c (entriesChanged s before) with
    | [] => s
    | items => changeRecord s h (.change items) (.acked [] none)

/-- Tell the home that a page has come into the stacks; it counts as there once the home has recorded it (R216). -/
def tellMoved (s : State) (before : Page) : State :=
  match findCopy s before.obj with
  | none => s
  | some c =>
    match itemsFor s c (entriesChanged s [before]) with
    | [] => s
    | items =>
      changeRecord { s with pages := mapIf (fun p => p.number == before.number) (fun p => { p with acked := false }) s.pages } before.obj
        (.change items) (.acked [before.number] none)

/-- Rows of a write that end before the first one without a page (R117). -/
def rowsBefore (c : SeqCopy) (m : ModelRec) (rows : List (Nat × Nat × List Byte)) : List (Nat × Nat × List Byte) :=
  rows.takeWhile (fun x => decide (pageIndexOf c m x.2.1 < (c.pages.getD x.1 []).length))

/-- The pages a write of rows goes to. -/
def rowPages (s : State) (c : SeqCopy) (m : ModelRec) (rows : List (Nat × Nat × List Byte)) : List Page :=
  rows.filterMap (fun x => ((c.pages.getD x.1 [])[pageIndexOf c m x.2.1]?).bind (findPage s))

/-- Pages of a write that lie in a lower tier only are brought up first; none where no frame is free. -/
def bringRows (s : State) (c : SeqCopy) (m : ModelRec) (rows : List (Nat × Nat × List Byte)) : Option State :=
  rows.foldl (fun os x => os.bind (fun s =>
    match ((c.pages.getD x.1 [])[pageIndexOf c m x.2.1]?).bind (findPage s) with
    | some p => if p.stack.isSome then some s else (bringUp s (fun _ => false) p).map (fun y => setPage y.1 y.2)
    | none => some s)) (some s)

/-- Write converted rows into a sequence's private pages (R115, R116, R158, R216), unless a home has refused this owner meanwhile (R218): missing pages are allocated and their entries acknowledged before any
row is written; an unreadable page is marked lost (R52, R298); a page that had to be brought up holds the instruction until its home has recorded it; no frame gives MEM_EXHAUSTED with the rows of pages already there. -/
def writePrivate (s : State) (r : Running) (m : ModelRec) (rows : List (Nat × Nat × List Byte)) : State :=
  match findCopy s r.ent.b with
  | none => finish s r.id Code.ownStateLost
  | some c =>
    if c.st = .stale then finish s r.id Code.ownNotOwner
    else if (missingLayer c m rows).isSome then
      let a := allocMissing (rows.length + 1) s r.id r.ent.b m rows
      if a.2 then a.1
      else
        match findCopy a.1 r.ent.b with
        | none => a.1
        | some c' =>
          if rowsUnacked a.1 c' m (rowsBefore c' m rows) then a.1
          else finish (tellTokens (putRows a.1 c' m (rowsBefore c' m rows)) r.ent.b a.1.pages) r.id Code.memExhausted
    else if rowsUnacked s c m rows then s
    else if (rowPages s c m rows).any (unreadable s) then
      let lost := fun (p : Page) => (rowPages s c m rows).any (fun q => q.number == p.number) && unreadable s p
      recordThen { s with pages := mapIf lost (fun p => { p with lost := true }) s.pages } r.id r.ent.b s.pages Code.memUncorrectable
    else
      match bringRows s c m rows with
      | none => finish (noFrame s) r.id Code.memExhausted
      | some s1 =>
        let s2 := putRows s1 c m rows
        let moved := (rowPages s c m rows).any (fun p => p.stack.isNone)
        let s3 := if moved then recordThen s2 r.id r.ent.b s.pages 0 else finish (tellTokens s2 r.ent.b s.pages) r.id 0
        let layers := (List.range (fieldBytes r.blk 4 1)).map (· + fieldBytes r.blk 3 1)
        layers.foldl (fun s l => tailReserve 4 s r.ent.b m l) s3

/-- The draft a prefix-form PINGEST writes for, as this device holds its lease (R116, R117). -/
def draftLease (s : State) (node : Handle) : Option LeaseHeld := s.rgn.leases.find? (fun l => l.object == node)

/-- Change the lease of a draft. -/
def modLease (s : State) (node : Handle) (f : LeaseHeld → LeaseHeld) : State :=
  { s with rgn := { s.rgn with leases := mapIf (fun l => l.object == node) f s.rgn.leases } }

/-- Write rows of prefix material into the staged pages of a draft (R116): MEM_EXHAUSTED leaves the rows of pages already written. A page that changed has still to be sent. -/
def putStaged : State → Handle → ModelRec → List (Nat × Nat × List Byte) → State × Bool
  | s, _, _, [] => (s, true)
  | s, node, m, x :: xs =>
    let k := x.2.1 / perPage m
    match s.pages.find? (fun p => p.obj == node && p.layer == x.1 && p.index == k && p.stack.isSome) with
    | some p => putStaged (setPage s { p.putRow (x.2.1 % perPage m) x.2.2 with acked := false }) node m xs
    | none =>
      match takeFrame s (fun q => q.obj == node) (pageHalf s node x.1 k) (frameUnits m) with
      | none => (s, false)
      | some (s', f) =>
        let n := newPageNumber s'
        putStaged (addPage n.2 { (freshPage n.1 .staged node x.1 k f).putRow (x.2.1 % perPage m) x.2.2 with acked := false }) node m xs

/-- Every token slot of a draft's page that lies in the draft has been written: those below the position where the draft begins belong to its ancestors. -/
def pageFull (m : ModelRec) (from_ : Nat) (p : Page) : Bool :=
  (List.range (perPage m)).all (fun t => decide (p.index * perPage m + t < from_) || (p.rows.find t).isSome)

/-- Pages of a draft that are complete (R116): every slot written, or the last page of its layer when FINAL is set. -/
def completePages (s : State) (node : Handle) (m : ModelRec) (from_ : Nat) (final : Bool) (rows : List (Nat × Nat × List Byte)) : List Page :=
  let touched := s.pages.filter (fun p => p.obj == node && p.kind == .staged && rows.any (fun x => x.1 == p.layer && x.2.1 / perPage m == p.index))
  touched.filter (fun p => pageFull m from_ p ||
    (final && !(s.pages.any (fun q => q.obj == node && q.layer == p.layer && decide (p.index < q.index)))))

/-- The ingest group of a draft's owner (R27, R442, R479) and its members, the owner and its mirror; none where the map names no group in force. -/
def ingestGroup (s : State) (owner : Nat) : Option (Nat × List Nat) :=
  match (commonComp s owner).bind (fun x => mapMember x.map owner) with
  | none => none
  | some me =>
    if 4096 ≤ me.ingestGroup ∨ bitOf (groupEntry s me.ingestGroup) 0 = false then none
    else some (me.ingestGroup, owner :: (if me.partner = noDevice then [] else [me.partner]))

/-- The code of an ingest that has no group (R117, R440): the owner is lost, or no group in force is named for it (DEDUCED, log 20). -/
def noGroupCode (s : State) (owner cls : Nat) : Nat :=
  match address s owner cls with
  | .error c => if c = Code.cmpNotMember then c else Code.cmpLostMember
  | .ok a => if a.2.2 then Code.cmpLostMember else Code.cmpNotMember

/-- Begin the MCAST of one completed page, without the positions below the one where the draft begins (R27, R116, R441): its OPENs go to the owner and the mirror. -/
def castPage (r : Running) (node : Handle) (g : Nat) (members : List Nat) (m : ModelRec) (from_ : Nat) (s : State) (p : Page) : State :=
  let slot := from_ - p.index * perPage m
  let bs := (pageBytes (rowBytes m) p.tokens p).drop (slot * rowBytes m)
  let cls := dataClass r.ent.prio
  let n := takePsn s g (packetsOf (.mcastData g 0 bs))
  let open_ : Msg := .mcastOpen g n.1 0 (pagePlace p.layer (p.index * perPage m + slot)) bs.length (r.fid / 64) (r.fid % 64)
  let x := members.zipIdx.foldl (fun (acc : State × List McastMember) d =>
    let y := sendOpen acc.1 d.2 d.1 cls node open_ r.id
    (y.1, acc.2 ++ [y.2])) (n.2, [])
  let cast : McastSend := {
    instr := r.id, group := g, subject := node, cls := cls, inc := fieldOf (groupEntry s g) 31 24, psn := n.1, bytes := bs, members := x.2, data := false, cut := 0, due := 0, rto := rtoOf x.1, tries := 1, tryAt := 0 }
  setPage { x.1 with fab := { x.1.fab with mcasts := x.1.fab.mcasts ++ [cast] } } { p with acked := true }

/-- Tell the owner and the mirror of a draft the descriptor it is bound to, ahead of its first page (R637; the message is DISTRIBUTE's descriptor form, DESIGN CHOICE, log 16). -/
def tellDraft (s : State) (r : Running) (node : Handle) (m : ModelRec) (members : List Nat) : State :=
  if (draftLease s node).any (·.told) then s
  else
    let send := fun (s : State) (d : Nat) => match sendTo s d (dataClass r.ent.prio) node (.descriptor m) none with
      | .ok s' => s'
      | .error _ => s
    modLease (members.foldl send s) node (fun l => { l with told := true })

/-- PINGEST in prefix form (R27, R116, R117, R637): staged pages here, and one MCAST for each page that becomes complete. -/
def ingestPrefix (s : State) (r : Running) (m : ModelRec) (rows : List (Nat × Nat × List Byte)) : State :=
  let node := fieldBytes r.blk 48 8
  match draftLease s node with
  | none => finish s r.id (((s.rgn.endedDrafts.find? (fun x => x.1 == node)).map (·.2)).getD Code.pubDraftDiscarded)
  | some l =>
    let w := putStaged (modLease s node (fun l => { l with model := some (l.model.getD r.ent.a) })) node m rows
    if !w.2 then finish w.1 r.id Code.memExhausted
    else
      match completePages w.1 node m (l.base * 64) (r.ent.flag 4) rows with
      | [] => finish w.1 r.id 0
      | ps =>
        match ingestGroup w.1 (hHome node) with
        | none => finish w.1 r.id (noGroupCode w.1 (hHome node) (dataClass r.ent.prio))
        | some (g, members) =>
          let s1 := ps.foldl (castPage r node g members m (l.base * 64)) (tellDraft w.1 r node m members)
          let s2 := modRun (await s1 r.id) (fun q => q.id == r.id) (fun q => { q with aux := ps.length })
          (s2.fab.mcasts.filter (fun x => x.instr == r.id)).foldl (fun s x => mcastGo s x.group x.psn) s2

/-- Instructions a SWAPPED sequence refuses end with OWN_PREEMPTED_SWAPPED; started after the choice, they are not refunded (R235, R469). -/
def swapRefused (s : State) (id : Nat) : State :=
  finish (modRun s (fun r => r.id == id) (fun r => { r with charge := 0 })) id Code.ownPreemptedSwapped

/-- Whether pre-emption chose the sequence of an instruction before it began (R153, R173, R235): it started afterwards, or was still waiting behind another. -/
def isSwapped (s : State) (r : Running) : Bool :=
  (findCopy s r.ent.b).any (fun c => c.swapped && (decide (c.swapMark ≤ r.id) || r.codes.any (fun x => x.2 == Code.ownPreemptedSwapped)))

/-- PINGEST (R113 to R117). -/
def execPingest (id : Nat) (s : State) : Out :=
  runOp s id (fun e => e.opcode == opPingest) (fun r =>
    match findModel s r.ent.a with
    | none => finish s id Code.tzBadHandle
    | some m =>
      match sourceRows s r m.desc with
      | .error c => finish (keyRefused s c) id c
      | .ok rows => if fieldBytes r.blk 48 8 = nullHandle then writePrivate s r m.desc rows else ingestPrefix s r m.desc rows)

/-! ### PEVICT, PPIN and PUNPIN -/

/-- Whether a page's copy in a tier is its last one that no lower tier of the personality can take (R118). -/
def lastCopy (s : State) (t : Nat) (p : Page) : Bool :=
  p.inTier t && p.kind != .staged && p.tiers == [t] && (lowerTier s t).isNone

/-- Vacate a tier of one page (R118): its newest copy is written back to the next lower tier first. -/
def vacateOne (t : Nat) (s : State) (p : Page) : Option (State × Page) :=
  if p.inTier t = false then some (s, p)
  else if p.kind = .staged then some (s, p.dropTier t)
  else
    let clean := [tStacks, tHost, tFlash].filter (fun u => u != t && p.cleanIn u)
    if p.newest ≠ t ∨ !clean.isEmpty then
      let q := p.dropTier t
      some (s, { q with newest := if p.newest = t then clean.headD tHost else p.newest })
    else
      match lowerTier s t with
      | none => none
      | some u => (copyInto s p u).map (fun x => (x.1, { x.2.dropTier t with newest := u }))

/-- Staged pages without any copy are gone. -/
def dropEmpty (s : State) : State := { s with pages := s.pages.filter (fun p => !p.tiers.isEmpty) }

/-- PEVICT in vacate form (R118). -/
def execPevictVacate (id : Nat) (s : State) : Out :=
  runOp s id (fun e => e.opcode == opPevict && !e.flag 4) (fun r =>
    let ps := covered s r.ent.a (spanOf r.ent.b)
    let t := r.ent.c
    if (t = tStacks ∧ ps.any (fun p => decide (0 < p.pin))) ∨ ps.any (lastCopy s t) then finish s id Code.tzRights
    else if ps.any (fun p => pageBusy s p.number) then s
    else
      let down := ps.filter (fun p => p.newest == t && p.inTier t && p.kind != .staged &&
        ([tStacks, tHost, tFlash].filter (fun u => u != t && p.cleanIn u)).isEmpty)
      viaFlash s id ((lowerTier s t).getD tHost) down (fun s =>
        let m := movePages (vacateOne t) s ps
        recordThen (dropEmpty m.1) id (objectOf s r.ent.a) ps m.2))

/-- PEVICT in release form (R34, R119): pins and private pages go, then the home deletes the record. -/
def execPevictRelease (id : Nat) (s : State) : Out :=
  runOp s id (fun e => e.opcode == opPevict && e.flag 4) (fun r =>
    let h := r.ent.a
    if mustWait s r ∨ updatesDone s h = false then s
    else
      match findCopy s h with
      | none => finish s id Code.ownNotOwner
      | some c =>
        if c.st ≠ .owner then finish s id Code.ownNotOwner
        else
          let s1 := await (modCopy (freeCopyPages s h) h (fun c => { c with st := .stale, pages := [] })) id
          releaseAgain { s1 with own := { s1.own with releasing := s1.own.releasing ++ [⟨h, c.epoch, c.desc.comp⟩] } } ⟨h, c.epoch, c.desc.comp⟩)

/-- PPIN (R120). -/
def execPpin (id : Nat) (s : State) : Out :=
  runOp s id (fun e => e.opcode == opPpin) (fun r =>
    let ps := covered s r.ent.a (spanOf r.ent.b)
    let h := objectOf s r.ent.a
    let fresh := ps.foldl (fun n p => if p.pin = 0 then n + p.units else n) 0
    if ps.any (fun p => decide (255 ≤ p.pin)) then finish s id Code.tzRights
    else if s.ident.pinCeiling * (2 * poolUnits s) / 1024 < pinnedUnits s + fresh then finish s id Code.memExhausted
    else if ps.any (fun p => pageBusy s p.number) then s
    else
      let m := movePages (moveOne tStacks ps) s ps
      if m.2 ≠ 0 then finish (shortOn (s, m.2)) id m.2
      else
        let s1 := { m.1 with pages := mapIf (fun p => ps.any (fun q => q.number == p.number)) (fun p => { p with pin := p.pin + 1 }) m.1.pages }
        recordThen (maybeResume s1 h) id h ps 0)

/-- PUNPIN (R120). -/
def execPunpin (id : Nat) (s : State) : Out :=
  runOp s id (fun e => e.opcode == opPunpin) (fun r =>
    let ps := covered s r.ent.a (spanOf r.ent.b)
    finish { s with pages := mapIf (fun p => ps.any (fun q => q.number == p.number)) (fun p => { p with pin := p.pin - 1 }) s.pages } id 0)

end Sys2Proof.Machine
end

