-- ==== Sys2Proof/Machine/Castling.lean ====
section
/-!
DEFINITION. Ownership (spec chapter 08): CLAIM and CASTLE, the castling messages, the arbiter, record updates and mirrors, and the pre-emption of
sequences under G.
-/

namespace Sys2Proof.Machine

open Sys2Proof

/-- The partner of a departed home answers as home (R36): its mirror becomes the record. -/
def asHome (s : State) (h : Handle) : State :=
  match findHome s h, s.own.mirrors.find? (fun m => m.handle == h) with
  | none, some m =>
    if homeGone s m.comp (hHome h) = false then s
    else { s with own := { s.own with
      mirrors := s.own.mirrors.filter (fun x => !(x.handle == h))
      homes := s.own.homes ++ [{ desc := m, queue := [], inflight := none, unmirrored := true, damaged := false, castleComp := 0, before := noDevice, arb := none, due := 0 }] } }
  | _, _ => s

/-! ### CLAIM and CASTLE -/

/-- A fresh copy of a sequence at this device. -/
def newCopy (h : Handle) (st : CastleSt) (epoch : Nat) (desc : SeqRecord) (model : Handle) (layers : Nat) : SeqCopy :=
  { handle := h, st := st, epoch := epoch, desc := desc, model := model, pages := List.replicate layers [], peer := noDevice,
    castleComp := 0, castleInstr := none, claimInstr := none, weightPulls := [], pulls := [], outstanding := 0, tries := 0, waits := [],
    swapped := false, swapMark := 0, lastAttend := 0, resumedAt := 0, due := 0 }

/-- CLAIM in create form (R23, R134, R217): the record is written through the partner before the instruction completes. -/
def execClaimCreate (id : Nat) (s : State) : Out :=
  runOp s id (fun e => e.opcode == opClaim && e.a == nullHandle) (fun r =>
    match findModel s r.ent.b with
    | none => finish s id Code.tzBadHandle
    | some m =>
      if s.comps.any (fun c => (mapMember c.map (self s)).any (·.parting)) then finish s id Code.cmpParting
      else
      let n := newNumber s clsSeq (fun n => s.own.homes.any (fun x => hNum x.desc.handle == n))
      let h := mkHandle (self s) clsSeq n.1
      let d : SeqRecord := {
        handle := h, owner := self s, partner := s.ident.partner, epoch := 1, version := 0, model := r.ent.b, pfx := nullHandle, prefixLen := 0,
        privateLen := 0, customer := r.ent.customer, cls := r.ent.prio, state := 0, target := noDevice, comp := 0xFFFF, layers := m.desc.layers,
        pages := List.replicate m.desc.layers [] }
      if !(granuleRoom s (recordGranules d)) then finish s id Code.memExhausted
      else
        let s1 := n.2
        let hr : HomeRec := { desc := d, queue := [], inflight := none, unmirrored := false, damaged := false, castleComp := 0, before := noDevice, arb := none, due := 0 }
        let s2 := { s1 with own := { s1.own with homes := s1.own.homes ++ [hr], copies := s1.own.copies ++ [newCopy h .owner 1 d r.ent.b m.desc.layers] } }
        homeUpdate (await s2 id) h (.create d) (.here (.claim id)))

/-- The page entries of a side's copy, in record order. -/
def sideEntries (s : State) (c : SeqCopy) : List PageEntry := (copyEntries s c).flatten

/-- A side's copy status (R222, R229). -/
def sideStatus (s : State) (h : Handle) (d side : Nat) : CopyStatus :=
  match findCopy s h with
  | some c =>
    let full := completeCopy s c
    { device := d, side := side, complete := full, epoch := c.epoch, entries := if full then sideEntries s c else [] }
  | none => { device := d, side := side, complete := false, epoch := 0, entries := [] }

/-- Send RULING to devices, this one included (R230, R231). -/
def tellRuling (s : State) (h : Handle) (owner epoch : Nat) (sides : List (Nat × Nat)) : State :=
  sides.foldl (fun s x =>
    if x.1 = self s then rulingAtSide s h epoch owner x.2 else control s x.1 h (.ruling epoch owner x.2)) s

/-- The record and its mirror are deleted with OWN_STATE_LOST (R219, R230): updates that wait are refused with it, and so is every ASK; the sides and the host's log are told. -/
def ruleLost (s : State) (h : Handle) (sides : List Nat) : State :=
  match findHome s h with
  | none => s
  | some r =>
    let waiting := (r.arb.map (fun a => (a.asks.map (·.device)))).getD []
    let told := (sides ++ waiting.filter (fun d => !(sides.contains d))).map (fun d => (d, Code.ownStateLost))
    let version := r.inflight.getD r.desc.version
    let s := modHome s h (fun r => { r with queue := [], inflight := none, arb := none, desc := { r.desc with version := version } })
    let s := r.queue.foldl (fun s w => refuseAns s h r.desc Code.ownStateLost w.ans) s
    homeUpdate (ownLog s h Code.ownStateLost noDevice r.desc.epoch) h .delete (.ruled noDevice r.desc.epoch told)

/-! ### The arbiter -/

/-- The sides of an arbitration (R229): the recorded owner, the castle's target, and whoever asked. -/
def arbSides (r : HomeRec) (c : CopyStatus) : List Nat :=
  let l := [r.desc.owner, c.device] ++ (if r.desc.target = noDevice then [] else [r.desc.target])
  l.foldl (fun acc d => if acc.contains d then acc else acc ++ [d]) []

/-- Begin to serve an ASK (R229): STATE 3, and HOLD to every side that has not reported and is present. -/
def serveAsk (s : State) (h : Handle) (r : HomeRec) (c : CopyStatus) (asks : List CopyStatus) : State :=
  let sides := arbSides r c
  let others := sides.filter (fun d => d != c.device)
  let here := if others.contains (self s) then [sideStatus s h (self s) (if r.desc.owner = self s then 0 else 1)] else []
  let told := asks.filter (fun x => x.device != c.device && x.device != self s)
  let held := others.filter (fun d => d != self s && present s d && !(told.any (fun x => x.device == d)))
  let s1 := homeUpdate s h (.setState 3 noDevice 0) .none
  let s2 := modHome s1 h (fun x => { x with arb := some {
    ask := some c, prior := (r.desc.state, r.desc.target, r.castleComp), sides := sides, asks := asks, statuses := c :: (here ++ told), held := held, due := s.now + castleTo s } })
  held.foldl (fun s d => control s d h (.hold r.desc.epoch)) s2

/-- A record found damaged is lost (R219): its owner and a castle's target learn of it. -/
def dropDamaged (s : State) (h : Handle) : State :=
  match findHome s h with
  | some r => if recordDamaged r then ruleLost s h ([r.desc.owner, r.desc.target].filter (fun d => d == self s || present s d)) else s
  | none => s

/-- An ASK at the home (R229): served at once, or in its turn behind others of the record, to which it reports its side's copy. -/
def startArb (s : State) (h : Handle) (c : CopyStatus) : State :=
  match findHome s h with
  | none => tellRuling s h noDevice c.epoch [(c.device, Code.ownStateLost)]
  | some r =>
    match r.arb with
    | some a => modHome s h (fun r => { r with arb := some { a with
        asks := a.asks ++ [c], statuses := a.statuses.filter (fun x => !(x.device == c.device)) ++ [c]
        held := a.held.filter (fun d => d != c.device) } })
    | none => serveAsk s h r c []

/-- CLAIM in assert form (R134, R220). -/
def execClaimAssert (id : Nat) (s : State) : Out :=
  runOp s id (fun e => e.opcode == opClaim && e.a != nullHandle) (fun r =>
    let h := r.ent.a
    if mustWait s r then s
    else
      match findCopy s h with
      | none => finish s id Code.ownNotOwner
      | some c =>
        if c.epoch = 0xFFFFFFFF then finish s id Code.tzRights
        else if c.st = .owner ∨ c.st = .offered ∨ c.st = .pulled ∨ c.st = .committing then finishOwn s id 0 h (self s) c.epoch
        else
          let s1 := modCopy (await s id) h (fun c => { c with claimInstr := some id })
          let st := sideStatus s1 h (self s) 2
          if (findHome s1 h).isSome then startArb s1 h st
          else toHome s1 c.desc.comp h (.ask st.epoch st.complete 2 false st.entries))

/-- CASTLE (R135, R220, R225 step 1). -/
def execCastle (id : Nat) (s : State) : Out :=
  runOp s id (fun e => e.opcode == opCastle) (fun r =>
    let h := r.ent.a
    let target := r.ent.b % 2 ^ 15
    let comp := r.ent.b / 2 ^ 16 % 2 ^ 12
    if mustWait s r ∨ updatesDone s h = false then s
    else
      match findCopy s h with
      | none => finish s id Code.ownNotOwner
      | some c =>
        if c.st ≠ .owner then finish s id Code.ownNotOwner
        else if target = self s ∨ 0xFFFFFFFE ≤ c.epoch then finish s id Code.tzRights
        else
          match (membership? s comp).bind (fun m => mapMember m.map target) with
          | none => finish s id Code.cmpNotMember
          | some m =>
            if !(inComp s comp target) then finish s id Code.cmpNotMember
            else if m.pers ≠ 2 then finish s id Code.tzRights
            else if m.parting then finish s id Code.cmpParting
            else
              let s1 := modCopy (await s id) h (fun c => { c with peer := target, castleComp := comp, castleInstr := some id })
              changeRecord s1 h (.setState 1 target comp) .castleOffer)

/-! ### The target -/

/-- Bytes of weight pages held for descriptors. -/
def weightUsed (s : State) : Nat := s.models.foldl (fun n m => n + m.weightPages) 0

/-- Free the weights of created descriptors no sequence here is bound to (R223). -/
def dropUnusedModels (s : State) : State :=
  { s with models := s.models.filter (fun m => !(m.created && m.weightPages != 0 &&
      !(s.own.copies.any (fun c => c.model == modelHandle s m)) && !(s.rgn.holds.any (fun n => n.model == modelHandle s m)))) }

/-- Adopt a descriptor (R223): an equal one held here, or a new one; none where it cannot be. The Bool says it was created. -/
def adoptModel (s : State) (d : ModelRec) : Option (State × Model × Bool) :=
  match s.models.find? (fun m => modelEq m.desc d) with
  | some m => some (s, m, false)
  | none =>
    if 64 ≤ s.models.length ∨ modelOk d = false then none
    else
      let need := weightPagesOf d
      let s := if s.ident.weightMiB / 2 < weightUsed s + need then dropUnusedModels s else s
      if s.ident.weightMiB / 2 < weightUsed s + need then none
      else
        let n := s.models.foldl (fun n m => max n (m.number + 1)) 0
        let m : Model := { number := n, desc := d, created := true, weightPages := need, weights := [] }
        some ({ s with models := s.models ++ [m] }, m, true)

/-- Reserve a page and its frame for every entry of one layer, and its tail reserve (R216, R225 step 2). -/
def reserveLayer (h : Handle) (m : ModelRec) (layer : Nat) : State → Nat → List PageEntry → Option (State × List Nat)
  | s, _, [] => some (s, [])
  | s, k, e :: es =>
    match takeFrame s (fun _ => false) (pageHalf s h layer k) (frameUnits m) with
    | none => none
    | some (s', f) =>
      let n := newPageNumber s'
      let p := { freshPage n.1 .priv h layer k f with tokens := e.tokens }
      (reserveLayer h m layer (addPage n.2 p) (k + 1) es).map (fun x => (x.1, n.1 :: x.2))

/-- Entries of a layer with the empty ones for which the target reserves its tail (R216, R225 step 2); the reserve joins the page list at TAKE. -/
def withReserve (m : ModelRec) (es : List PageEntry) : List PageEntry :=
  let written := es.zipIdx.foldl (fun n x => if x.1.tokens = 0 then n else x.2 * perPage m + x.1.tokens) 0
  let short := written + 16 - es.length * perPage m
  es ++ List.replicate (ceilDiv short (perPage m)) { number := 0, lost := false, tiers := 1, tokens := 0 }

/-- Reserve every frame of a castle (R225 step 2); none where one is missing. -/
def reserveAll (h : Handle) (m : ModelRec) : State → Nat → List (List PageEntry) → Option (State × List (List Nat))
  | s, _, [] => some (s, [])
  | s, l, es :: rest =>
    (reserveLayer h m l s 0 (withReserve m es)).bind (fun x =>
      (reserveAll h m x.1 (l + 1) rest).map (fun y => (y.1, x.2.take es.length :: y.2)))

/-- Send PULLs, weight pages first, while fewer than 256 are outstanding (R225 step 2). -/
def sendPulls : Nat → State → Handle → State
  | 0, s, _ => s
  | n + 1, s, h =>
    match findCopy s h with
    | none => s
    | some c =>
      if 256 ≤ c.outstanding then s
      else
        match c.weightPulls, c.pulls with
        | w :: ws, _ =>
          let s := controlVia s c.castleComp c.peer h (.pull c.epoch 1 { number := w, lost := false, tiers := 0, tokens := 0 })
          sendPulls n (modCopy s h (fun c => { c with weightPulls := ws, outstanding := c.outstanding + 1 })) h
        | [], it :: its =>
          let s := controlVia s c.castleComp c.peer h (.pull c.epoch 0 it.entry)
          sendPulls n (modCopy s h (fun c => { c with pulls := its, outstanding := c.outstanding + 1 })) h
        | [], [] => s

/-- With every page stored the target sends ACCEPT with its own entries (R225 step 4). -/
def maybeAccept (s : State) (h : Handle) : State :=
  match findCopy s h with
  | none => s
  | some c =>
    if c.st = .pulling ∧ c.outstanding = 0 ∧ c.pulls.isEmpty ∧ c.weightPulls.isEmpty then
      let es := sideEntries s c
      controlVia (armCastle (modCopy s h (fun c => { c with st := .accepted, desc := { c.desc with pages := copyEntries s c } })) h) c.castleComp c.peer h (.accept c.epoch es)
    else s

/-- OFFER (R223, R225 step 2, R236, R242): declined below LOW_WATER. -/
def execOffer (h : Hdr) (subject : Handle) (epoch comp privBytes weightBytes : Nat) (model : ModelRec) (desc : SeqRecord) (s : State) : Out :=
  let _ := (privBytes, weightBytes)
  delivered s h (fun s =>
    if !(inComp s comp h.src) then control s h.src subject (.decline epoch Code.cmpNotMember)
    else if s.pers ≠ some .generation ∨ (findCopy s subject).any (fun c => c.st != .stale) ∨ refusesFrames s = true ∨ freeFrames s < lowWater s then
      control s h.src subject (.decline epoch Code.memExhausted)
    else
      match adoptModel (dropCopy s subject) model with
      | none => control s h.src subject (.decline epoch Code.memExhausted)
      | some (s1, m, created) =>
        match reserveAll subject m.desc s1 0 desc.pages with
        | none => control (noFrame s) h.src subject (.decline epoch Code.memExhausted)
        | some (s2, nums) =>
          let items := desc.pages.zipIdx.flatMap (fun l => l.1.zipIdx.map (fun e => ({ layer := l.2, index := e.2, entry := e.1 } : EntryItem)))
          let c := { newCopy subject .pulling epoch desc (modelHandle s2 m) desc.pages.length with
            pages := nums, peer := h.src, castleComp := comp, pulls := items,
            weightPulls := if created then List.range m.weightPages else [] }
          let s3 := { s2 with own := { s2.own with copies := s2.own.copies ++ [c] } }
          maybeAccept (sendPulls 256 (armCastle s3 subject) subject) subject)

/-- DECLINE (R225): CASTLE completes with the declined code, the home's STATE back to 0. -/
def execDecline (h : Hdr) (subject : Handle) (epoch code : Nat) (s : State) : Out :=
  delivered s h (fun s =>
    match findCopy s subject with
    | some c =>
      if (c.st = .offered ∨ c.st = .pulled) ∧ c.epoch = epoch ∧ c.peer = h.src then
        castleEnds s subject code
      else s
    | none => s)

/-- The owner asks the home to rule (R225 step 3, R226). -/
def askHome (s : State) (h : Handle) (side : Nat) (statusOf : CopyStatus) (startArb : State → Handle → CopyStatus → State) : State :=
  if (findHome s h).isSome then startArb s h { statusOf with side := side }
  else
    let comp := match findCopy s h with | some c => c.desc.comp | none => 0xFFFF
    toHome s comp h (.ask statusOf.epoch statusOf.complete side false statusOf.entries)

/-- ASK (R218, R229): an answer to HOLD joins the arbitration in progress; any other, an assertion by CLAIM (R134) too, is served in order of arrival. -/
def execAsk (h : Hdr) (subject : Handle) (epoch : Nat) (complete : Bool) (side : Nat) (isReply : Bool) (entries : List PageEntry) (s : State) : Out :=
  let c : CopyStatus := { device := h.src, side := side, complete := complete, epoch := epoch, entries := entries }
  delivered s h (fun s =>
    let s1 := asHome s subject
    if isReply then
      modHome s1 subject (fun r => { r with arb := r.arb.map (fun a => { a with
        statuses := a.statuses.filter (fun x => !(x.device == c.device)) ++ [c], held := a.held.filter (fun d => d != c.device) }) })
    else startArb s1 subject c)

/-- HOLD (R229): the side answers with its copy status, whatever its state. -/
def execHold (h : Hdr) (subject : Handle) (epoch : Nat) (s : State) : Out :=
  let _ := epoch
  let side := match findCopy s subject with
    | some c => if c.st = .pulling ∨ c.st = .accepted then 1 else 0
    | none => 0
  let c := sideStatus s subject (self s) side
  delivered s h (fun s => control s h.src subject (.ask c.epoch c.complete side true c.entries))

/-- ARBITER_HOLD_EXPIRY (R229): a side that has not answered within T_c is treated as holding no complete copy. -/
def execArbiterHoldExpiry (subject : Handle) (device : Nat) (s : State) : Out :=
  awake s (modHome s subject (fun r => { r with arb := r.arb.map (fun a => if s.now < a.due then a else { a with held := a.held.filter (fun d => d != device) }) }))

/-- The newest complete copy of a list. -/
def newestCopy (l : List CopyStatus) : Option CopyStatus :=
  (l.filter (·.complete)).foldl (fun b c => match b with
    | none => some c
    | some x => if x.epoch < c.epoch then some c else b) none

/-- The ruling on an assertion by CLAIM (R134): it goes to the asserting device, and a record that keeps its owner has its STATE and TARGET again. -/
def ruleAssert (s : State) (h : Handle) (r : HomeRec) (a : Arbiter) (c : CopyStatus) : State :=
  if r.desc.owner ≠ c.device ∧ r.desc.owner ≠ self s ∧ present s r.desc.owner = false ∧ c.complete = true ∧ c.epoch = r.desc.epoch then
    homeUpdate (countRuling s false) h (.ruling c.device (r.desc.epoch + 1) (some c.entries)) (.ruled c.device (r.desc.epoch + 1) [(c.device, 0)])
  else
    homeUpdate s h (.setState a.prior.1 a.prior.2.1 a.prior.2.2)
      (.ruled r.desc.owner r.desc.epoch [(c.device, if r.desc.owner = c.device then 0 else Code.ownNotOwner)])

/-- The arbiter's rule (R230): RULING goes to both sides, whether or not they answered. -/
def rule (s : State) (h : Handle) (r : HomeRec) (a : Arbiter) : State :=
  let sides := a.sides.filter (fun d => d == self s || present s d)
  let ownerOk := a.statuses.any (fun c => c.device == r.desc.owner && c.complete && (c.epoch == r.desc.epoch || c.epoch + 1 == r.desc.epoch))
  let told := sides.map (fun d => (d, Code.ownStalemateResolved))
  if ownerOk then
    homeUpdate (countRuling s false) h (.ruling r.desc.owner r.desc.epoch none) (.ruled r.desc.owner r.desc.epoch told)
  else
    match newestCopy (a.statuses.filter (fun c => c.device != r.desc.owner)) with
    | some c =>
      homeUpdate (countRuling s false) h (.ruling c.device (r.desc.epoch + 1) (some c.entries)) (.ruled c.device (r.desc.epoch + 1) told)
    | none => ruleLost s h sides

/-- ARBITER_RULE (R229, R230): once every side asked has answered or run out, the home rules; once the ruling is recorded, the next ASK is served. -/
def execArbiterRule (subject : Handle) (s : State) : Out :=
  awake s (
    match findHome s subject with
    | none => s
    | some r =>
      match r.arb with
      | none => s
      | some a =>
        if !(r.queue.isEmpty) then s
        else
          match a.ask, a.asks with
          | some c, asks =>
            if !(a.held.isEmpty) then s
            else
              let s1 := modHome s subject (fun r => { r with arb := if asks.isEmpty then none else some { a with ask := none } })
              if c.side = 2 then ruleAssert s1 subject r a c else rule s1 subject r a
          | none, c :: rest => serveAsk s subject r c rest
          | none, [] => modHome s subject (fun r => { r with arb := none }))

/-- RULING (R231, R134). -/
def execRuling (h : Hdr) (subject : Handle) (epoch owner code : Nat) (s : State) : Out :=
  delivered s h (fun s => rulingAtSide s subject epoch owner code)

/-! ### Pages and the commit -/

/-- PULL (R225 step 3): the page's stored bytes, or the end of the castle when it cannot be read. -/
def execPull (h : Hdr) (subject : Handle) (epoch kind : Nat) (entry : PageEntry) (s : State) : Out :=
  delivered s h (fun s =>
    match findCopy s subject with
    | none => s
    | some c =>
      if (c.st = .offered ∨ c.st = .pulled) ∧ c.epoch = epoch ∧ c.peer = h.src then
        match findModel s c.model with
        | none => s
        | some m =>
          let s1 := armCastle (modCopy s subject (fun c => { c with st := .pulled })) subject
          if kind = 1 then controlVia s1 c.castleComp h.src subject (.page epoch 1 entry (m.weights.read (entry.number * 2 ^ 21) (2 ^ 21)))
          else
            match findPage s1 entry.number with
            | none => s1
            | some p =>
              if unreadable s1 p then
                let s2 := setPage s1 { p with lost := true }
                let s3 := tellTokens s2 subject s1.pages
                let s4 := controlVia s3 c.castleComp h.src subject (.abort epoch Code.ownStateLost)
                askHome s4 subject 0 { device := self s4, side := 0, complete := false, epoch := c.epoch, entries := [] } startArb
              else controlVia (setPage s1 { p with lastRead := s1.now }) c.castleComp h.src subject
                (.page epoch 0 entry (pageBytes (rowBytes m.desc) (perPage m.desc) p))
      else s)

/-- PAGE (R224): a pulled page's bytes are stored at the place its entry has in the record. -/
def execPage (h : Hdr) (subject : Handle) (epoch kind : Nat) (entry : PageEntry) (bytes : List Byte) (s : State) : Out :=
  delivered s h (fun s =>
    match findCopy s subject with
    | none => s
    | some c =>
      if c.st = .pulling ∧ c.epoch = epoch ∧ c.peer = h.src then
        match findModel s c.model with
        | none => s
        | some m =>
          let s1 :=
            if kind = 1 then
              { s with models := mapIf (fun x => x.number == m.number) (fun x => { x with weights := x.weights.write (entry.number * 2 ^ 21) bytes }) s.models }
            else
              let place := c.desc.pages.zipIdx.findSome? (fun l =>
                (l.1.zipIdx.find? (fun e => e.1.number == entry.number)).map (fun e => (l.2, e.2)))
              match place.bind (fun x => (c.pages.getD x.1 [])[x.2]?) with
              | some n =>
                let rows := rowsOfBytes (rowBytes m.desc) entry.tokens bytes
                let put : Page → Page := fun p => { p.written with rows := rows, tokens := entry.tokens }
                { s with pages := mapIf (fun p => p.number == n) put s.pages }
              | none => s
          let s2 := armCastle (modCopy s1 subject (fun c => { c with outstanding := c.outstanding - 1, tries := 0 })) subject
          maybeAccept (sendPulls 256 s2 subject) subject
      else s)

/-- The owner commits (R225 step 5): the home here applies the record, or COMMIT goes to it. -/
def sendCommit (s : State) (h : Handle) (epoch target comp : Nat) (entries : List PageEntry) : State :=
  if (findHome s h).isSome then homeAsk s h (some (self s, epoch)) (.commit target comp entries) (.committed (self s))
  else
    let served := match findCopy s h with | some c => c.desc.comp | none => 0xFFFF
    toHome s served h (.commit epoch target entries)

/-- ACCEPT (R225 step 5, R228): only the state PULLED takes it. -/
def execAccept (h : Hdr) (subject : Handle) (epoch : Nat) (entries : List PageEntry) (s : State) : Out :=
  delivered s h (fun s =>
    match findCopy s subject with
    | none => s
    | some c =>
      if c.st = .pulled ∧ c.epoch = epoch ∧ c.peer = h.src then
        let s1 := modCopy s subject (fun c => { c with
          st := .committing, tries := 0
          desc := { c.desc with pages := relist (c.desc.pages.map List.length) entries } })
        sendCommit (armCastle s1 subject) subject epoch h.src c.castleComp entries
      else s)

/-- ABORT (R225, R228): the target frees what it reserved and pulled; the owner goes back to OWNER and CASTLE completes with the code. -/
def execAbort (h : Hdr) (subject : Handle) (epoch code : Nat) (s : State) : Out :=
  delivered s h (fun s =>
    match findCopy s subject with
    | none => s
    | some c =>
      if c.epoch ≠ epoch ∨ c.peer ≠ h.src then s
      else if c.st = .pulling ∨ c.st = .accepted then dropCopy (freeCopyPages s subject) subject
      else if c.st = .offered ∨ c.st = .pulled then castleEnds s subject code
      else s)

/-- COMMIT (R218, R225 step 5, R226): checked and recorded at the home, in its turn; a partner forwards it to a home that is present. What a forwarded COMMIT cannot be applied to is
answered to the owner the record had before, who sent it. -/
def execCommit (h : Hdr) (subject : Handle) (epoch target : Nat) (entries : List PageEntry) (s : State) : Out :=
  delivered s h (fun s =>
    let s1 := asHome s subject
    match findHome s1 subject with
    | none =>
      if hHome subject ≠ self s1 ∧ present s1 (hHome subject) ∧ s1.own.mirrors.any (fun m => m.handle == subject) then
        let served := match s1.own.mirrors.find? (fun m => m.handle == subject) with | some m => m.comp | none => 0xFFFF
        toHome s1 served subject (.commit epoch target entries)
      else control s1 h.src subject (.committed epoch Code.ownStateLost 0)
    | some r =>
      let from_ := if h.src = s1.ident.partner ∧ r.desc.owner ≠ h.src then (if r.desc.epoch = epoch then r.desc.owner else r.before) else h.src
      homeAsk s1 subject (some (from_, epoch)) (.commit target r.castleComp entries) (.committed from_))

/-- COMMITTED (R218, R225 step 6). -/
def execCommitted (h : Hdr) (subject : Handle) (epoch code version : Nat) (s : State) : Out :=
  let _ := version
  delivered s h (fun s =>
    match findCopy s subject with
    | none => s
    | some c =>
      if c.st ≠ .committing then s
      else if code = 0 then ownerCommitted s subject epoch
      else fenceCopy s subject code)

/-- TAKE (R225 step 7): the target is owner at the new epoch and raises the commit notification. -/
def execTake (h : Hdr) (subject : Handle) (epoch : Nat) (s : State) : Out :=
  delivered s h (fun s =>
    match findCopy s subject with
    | none => s
    | some c =>
      if c.st = .accepted ∧ c.peer = h.src then
        let s1 := { s with own := { s.own with castlesIn := wrapAdd 32 s.own.castlesIn 1 } }
        controlVia (becomeOwner s1 subject epoch (if c.desc.comp = 0xFFFF then c.castleComp else c.desc.comp)) c.castleComp h.src subject (.taken epoch)
      else if c.st = .owner ∧ c.epoch = epoch then control s h.src subject (.taken epoch)
      else s)

/-- TAKEN (R225 step 8). -/
def execTaken (h : Hdr) (subject : Handle) (epoch : Nat) (s : State) : Out :=
  delivered s h (fun s =>
    match findCopy s subject with
    | none => s
    | some c =>
      if c.st = .freed ∧ c.peer = h.src then
        let s1 := dropCopy { s with own := { s.own with castlesOut := wrapAdd 32 s.own.castlesOut 1 } } subject
        match c.castleInstr with
        | some id => finishOwn s1 id 0 subject h.src epoch
        | none => s1
      else s)

/-- CASTLE_TIMEOUT_EXPIRY (R226, R227, R238): T_c has run out since the wait's timer was started; ASKs are repeated once per T_c. -/
def execCastleTimeoutExpiry (subject : Handle) (s : State) : Out :=
  awake s (
    match findCopy s subject with
    | none => s
    | some c =>
      if s.now < c.due then s
      else
      match c.st with
      | .offered | .pulled =>
        castleEnds (controlVia s c.castleComp c.peer subject (.abort c.epoch Code.xptRetryExceeded)) subject Code.xptRetryExceeded
      | .pulling =>
        dropCopy (freeCopyPages (controlVia s c.castleComp c.peer subject (.abort c.epoch Code.xptRetryExceeded)) subject) subject
      | .committing =>
        if c.tries = 0 then
          armCastle (modCopy (control s c.desc.partner subject (.commit c.epoch c.peer c.desc.pages.flatten)) subject (fun c => { c with tries := 1 })) subject
        else
          let s1 := modCopy s subject (fun c => { c with st := .owner, castleInstr := none, peer := noDevice, tries := 0 })
          match c.castleInstr with
          | some id => finishOwn s1 id Code.ownCastleTimeout subject (self s) c.epoch
          | none => s1
      | .accepted => askHome (armCastle s subject) subject 1 (sideStatus s subject (self s) 1) startArb
      | .freed => askHome (armCastle s subject) subject 0 (sideStatus s subject (self s) 0) startArb
      | _ => s)

/-! ### Record messages -/

/-- ENTRIES (R216 to R218): the home applies an owner's update in its turn, unless it is stale or finds no granule. -/
def execEntries (h : Hdr) (subject : Handle) (epoch kind state target comp : Nat) (items : List EntryItem) (s : State) : Out :=
  delivered s h (fun s =>
    let s1 := asHome s subject
    match findHome s1 subject with
    | none => control s1 h.src subject (.entriesAck epoch Code.ownStateLost 0)
    | some _ =>
      let u : RecUpd := match kind with
        | 0 => .add items
        | 1 => .change items
        | 2 => .remove items
        | _ => .setState state target comp
      homeAsk s1 subject (some (h.src, epoch)) u (.entriesAck h.src))

/-- ENTRIES_ACK (R216 to R218). -/
def execEntriesAck (h : Hdr) (subject : Handle) (epoch code version : Nat) (s : State) : Out :=
  let _ := (epoch, version)
  delivered s h (fun s =>
    match findCopy s subject with
    | none => s
    | some c =>
      match c.waits with
      | [] => s
      | k :: ks =>
        let s1 := modCopy s subject (fun c => { c with waits := ks })
        walksOn (if code = 0 then runCont s1 subject k.2 else contRefused s1 subject k.2 code))

/-- RELEASE (R34, R215, R218): the record and its mirror are deleted, the prefix reference dropped, and RELEASED follows once the partner has acknowledged. -/
def execRelease (h : Hdr) (subject : Handle) (epoch : Nat) (s : State) : Out :=
  delivered s h (fun s =>
    let s1 := asHome s subject
    match findHome s1 subject with
    | none => control s1 h.src subject (.released epoch Code.ownStateLost)
    | some _ => homeAsk s1 subject (some (h.src, epoch)) .delete (.released h.src))

/-- A castling or record message failed on its way (R216, R226, R232). An OFFER, PAGE or PULL, or the STATE change before an OFFER, ends the castle with the code; an update
or a release goes again, once a home that was declared lost has left the map. -/
def messageFailed (s : State) (x : OutMsg × Nat) : State :=
  let h := x.1.subject
  let code := x.2
  match x.1.msg with
  | .release epoch =>
    match s.own.releasing.find? (fun w => w.handle == h && w.epoch == epoch) with
    | some w => if code = Code.cmpLostMember ∧ homeFound s w.comp (hHome h) then s else releaseAgain s w
    | none => s
  | m =>
    match findCopy s h with
    | none => s
    | some c =>
      match m with
      | .entries epoch kind st _ _ _ =>
        if c.epoch ≠ epoch ∨ (code = Code.cmpLostMember ∧ homeFound s c.desc.comp (hHome h)) then s
        else if kind = 3 ∧ st = 1 ∧ c.waits.any (fun w => w.2 == .castleOffer) then
          castleBack (modCopy s h (fun c => { c with waits := c.waits.filter (fun w => w.2 != .castleOffer) })) h code
        else askAgain s h
      | .pull epoch _ _ =>
        if c.st = .pulling ∧ c.epoch = epoch ∧ c.peer = x.1.dst ∧ code ≠ Code.cmpLostMember then
          dropCopy (freeCopyPages (controlVia s c.castleComp c.peer h (.abort c.epoch code)) h) h
        else s
      | .offer epoch _ _ _ _ _ | .page epoch _ _ _ =>
        if (c.st = .offered ∨ c.st = .pulled) ∧ c.epoch = epoch ∧ c.peer = x.1.dst then
          castleEnds (controlVia s c.castleComp c.peer h (.abort c.epoch code)) h code
        else s
      | _ => s

/-- What the messages that failed since the last tick bring about. -/
def ownFailures (s : State) : State := s.fab.failed.foldl messageFailed { s with fab := { s.fab with failed := [] } }

/-- RELEASED (R34): the release completes at the owner with the home's code. -/
def execReleased (h : Hdr) (subject : Handle) (epoch code : Nat) (s : State) : Out :=
  let _ := epoch
  delivered s h (fun s => releaseEnd s subject code)

/-- RECORD (R215, R496): the partner keeps the copy with the higher VERSION and acknowledges with the VERSION it holds; a home that has been restored takes what its partner has applied since. -/
def execRecord (h : Hdr) (subject : Handle) (version : Nat) (desc : SeqRecord) (s : State) : Out :=
  let old := s.own.mirrors.find? (fun m => m.handle == subject)
  let take := match old with | some m => decide (m.version < version) | none => true
  let room := granuleRoom s (recordGranules desc - (match old with | some m => recordGranules m | none => 0))
  delivered s h (fun s =>
    if (findHome s subject).isSome then
      control (modHome s subject (fun r => if r.desc.version < version then { r with desc := desc } else r)) h.src subject (.recordAck 0 version)
    else if take && !room then control s h.src subject (.recordAck Code.memExhausted version)
    else
      let s1 := if take then
          { s with own := { s.own with mirrors := s.own.mirrors.filter (fun m => !(m.handle == subject)) ++ [desc] } }
        else s
      control s1 h.src subject (.recordAck 0 (if take then version else (old.map (·.version)).getD version)))

/-- RECORD_ACK (R215): the pending update is applied and the next one offered. A partner that holds a later VERSION has not taken it: it is offered again above that one, so that the mirror does
not stay ahead (DEDUCED, log 18). -/
def execRecordAck (h : Hdr) (subject : Handle) (code version : Nat) (s : State) : Out :=
  delivered s h (fun s =>
    match findHome s subject with
    | some r =>
      if code ≠ 0 then s
      else if r.inflight = some version then walksOn (pumpAll (applyHead s subject) subject)
      else if r.inflight.any (fun v => decide (v < version)) then
        pumpAll (modHome s subject (fun r => { r with inflight := none, desc := { r.desc with version := version } })) subject
      else s
    | none => s)

/-- RECORD_DELETE (R215, R497): the partner deletes its mirror and acknowledges with RECORD_ACK, as it does every update (DEDUCED, log 18). -/
def execRecordDelete (h : Hdr) (subject : Handle) (version : Nat) (s : State) : Out :=
  delivered s h (fun s =>
    control { s with own := { s.own with mirrors := s.own.mirrors.filter (fun m => !(m.handle == subject && decide (m.version < version))) } } h.src subject (.recordAck 0 version))

/-- MIRROR_RETRY_TIMEOUT (R23, R215, R238), T_c after the update was offered: a creation ends with OWN_CASTLE_TIMEOUT; any other update is offered again after the current record under a new
VERSION, above the pending one's (R213), or applied unmirrored when the partner has left every composition. -/
def execMirrorRetryTimeout (subject : Handle) (s : State) : Out :=
  awake s (
    match findHome s subject with
    | none => s
    | some r =>
      match r.inflight, r.queue with
      | some v, w :: _ =>
        if partnerUp s = true ∧ s.now < r.due then s
        else if !(partnerUp s) then pumpAll (applyHead (modHome s subject (fun r => { r with unmirrored := true, inflight := none })) subject) subject
        else
          match w.upd, w.ans with
          | .create _, .here (.claim id) =>
            let s1 := dropCopy { s with own := { s.own with homes := s.own.homes.filter (fun x => !(x.desc.handle == subject)) } } subject
            finish s1 id Code.ownCastleTimeout
          | _, _ =>
            let d := { r.desc with version := v + 1 }
            let s1 := control (modHome s subject (fun r => { r with desc := d, inflight := none })) s.ident.partner subject (.recordMsg d.version d)
            pumpAll s1 subject
      | _, _ => s)

/-! ### Pre-emption of sequences (R234 to R237) -/

/-- Whether a lifecycle instruction holds a sequence (R234). -/
def lifecycleHeld (s : State) (h : Handle) : Bool :=
  s.tz.started.any (fun r => isLifecycle r.ent && (objectsOf s r.ent r.blk).contains h)

/-- A candidate for pre-emption (R234). -/
def preemptable (s : State) (c : SeqCopy) : Bool :=
  c.st == .owner && !c.swapped && !lifecycleHeld s c.handle &&
  (c.resumedAt == 0 || decide (c.resumedAt + fieldOf (s.regs.get 0x00000A0100180010 0x804008) 47 40 * 1000 ≤ s.now))

/-- A customer's budget deficit in thousandths of a unit (R234). -/
def deficit (s : State) (cust : Nat) : Nat :=
  match s.adm.customers.find? (fun x => x.2.valid && x.2.customer == cust) with
  | some x => x.2.burst * 1000 - x.2.level
  | none => 0

/-- Which of two candidates is chosen first (R234). -/
def chosenBefore (s : State) (a b : SeqCopy) : Bool :=
  let da := deficit s a.desc.customer
  let db := deficit s b.desc.customer
  decide (b.desc.cls < a.desc.cls) || (a.desc.cls == b.desc.cls && (decide (db < da) || (da == db &&
    (decide (a.desc.customer < b.desc.customer) || (a.desc.customer == b.desc.customer &&
      (decide (a.lastAttend < b.lastAttend) || (a.lastAttend == b.lastAttend && decide (hNum a.handle < hNum b.handle))))))))

/-- An admitted instruction on a sequence whose tile work has not begun. -/
def notBegun (s : State) (h : Handle) (r : Running) : Bool :=
  decide (r.phase = .ready) && (r.ent.opcode == opAttend || r.ent.opcode == opExpand || r.ent.opcode == opConvert) &&
  (objectsOf s r.ent r.blk).contains h && !tileWorkDone s r.id &&
  s.til.tasks.all (fun k => !(k.instr == r.id) || readyTask s k)

/-- Choose a sequence (R235 step 1): STATE 2, and its instructions that have not begun end with OWN_PREEMPTED_SWAPPED and are refunded (R469). -/
def chooseSwap (s : State) (h : Handle) : State :=
  let gone := (s.tz.started.filter (notBegun s h)).map (·.id)
  let s := gone.foldl (fun s id => finish s id Code.ownPreemptedSwapped) s
  let s := { s with til := { s.til with
    tasks := s.til.tasks.filter (fun k => !(gone.contains k.instr)), descs := s.til.descs.filter (fun d => !(gone.contains d.instr))
    walks := s.til.walks.filter (fun w => !(gone.contains w.instr)) } }
  let s := modCopy s h (fun c => { c with swapped := true, swapMark := s.tz.nextId })
  let s := modRun s (fun r => decide (r.phase = .behind) && (objectsOf s r.ent r.blk).contains h) (fun r => { r with codes := [(self s, Code.ownPreemptedSwapped)] })
  let s := { s with own := { s.own with preempting := s.own.preempting ++ [h] } }
  changeRecord s h (.setState 2 noDevice 0) (.acked [] none)

/-- Choose the next sequence in the order of R234 while free frames lie below HIGH_WATER. -/
def chooseNext (s : State) : State :=
  if highWater s ≤ freeFrames s then s
  else
    match (s.own.copies.filter (preemptable s)).foldl (fun b c => match b with
        | none => some c
        | some x => if chosenBefore s c x then some c else b) none with
    | none => s
    | some c => chooseSwap s c.handle

/-- PREEMPTION (R234, R236): under G, with none being swapped, when free frames lie below LOW_WATER or an allocation has found none. -/
def execPreemption (s : State) : Out :=
  awake s (
    let s := rearm s
    if s.pers = some .generation ∧ bitOf (s.regs.get 0x00000A0100180010 0x804008) 32 = true ∧ s.own.preemptStop = false ∧
      s.own.preempting = [] ∧ (freeFrames s < lowWater s ∨ s.own.short = true ∨ s.til.walks ≠ []) then
      chooseNext { s with own := { s.own with short := false } }
    else s)

/-- Move a sequence's unpinned pages to host memory, as far as it has room; clean copies of prefix pages make way, staged ones even where they lie nowhere else (R25, R236). -/
def swapPages : Nat → State → Handle → State × Bool
  | 0, s, _ => (s, false)
  | n + 1, s, h =>
    match s.pages.find? (fun p => p.obj == h && p.kind == .priv && p.pin == 0 && p.stack.isSome && !unreadable s p) with
    | none => (s, true)
    | some p =>
      match movePage s p tHost with
      | some x => swapPages n (setPage x.1 x.2) h
      | none =>
        match (s.pages.filter (fun q => q.kind != .priv && q.cleanIn tHost && (q.kind == .staged || decide (1 < q.tiers.length)))).foldl
            (fun (b : Option Page) q => match b with
              | none => some q
              | some x => if q.lastRead < x.lastRead then some q else b) none with
        | some q => swapPages n (dropEmpty (setPage s (q.dropTier tHost))) h
        | none => (s, false)

/-- SEQUENCE_SWAP (R235, R236): with nothing started on the sequence and every update applied, its unpinned pages move to host memory and the move is
recorded, and the next is chosen; where host memory cannot take it, pre-emption stops. -/
def execSequenceSwap (subject : Handle) (s : State) : Out :=
  awake s (
    match findCopy s subject with
    | none => { s with own := { s.own with preempting := s.own.preempting.filter (fun x => !(x == subject)) } }
    | some c =>
      let busy := s.tz.started.any (fun r => (objectsOf s r.ent r.blk).contains subject &&
        decide (r.id < c.swapMark) && (decide (r.phase = .ready) || decide (r.phase = .waiting)))
      if !(s.own.preempting.contains subject) ∨ busy ∨ updatesDone s subject = false then s
      else
        let m := swapPages (2 * s.pages.length + 1) s subject
        let s1 := ownLog m.1 subject Code.ownPreemptedSwapped (self s) c.epoch
        let s2 := { s1 with own := { s1.own with
          preemptions := wrapAdd 32 s1.own.preemptions 1
          preemptStop := s1.own.preemptStop || !m.2 } }
        let s3 := match findCopy s2 subject with
          | some c' =>
            match itemsFor s2 c' (entriesChanged s2 s.pages) with
            | [] => runCont s2 subject .swapEnd
            | items => changeRecord s2 subject (.change items) .swapEnd
          | none => s2
        walksOn (if m.2 then chooseNext s3 else s3))

end Sys2Proof.Machine
end

