-- ==== Sys2Proof/Machine/RegionInstr.lean ====
section
/-!
DEFINITION. Regions, drafts and leases as instructions and events (spec chapters 04 and 13): REGISTER, REVOKE, PUBLISH and DISCARD on regions,
the drain of a revoked key, fold-back, and leases.
-/

namespace Sys2Proof.Machine

open Sys2Proof

/-- REGISTER (R125, R126). -/
def execRegister (id : Nat) (s : State) : Out :=
  runOp s id (fun e => e.opcode == opRegister) (fun r =>
    let b := r.blk
    let loc := fieldBytes b 2 1
    let addr := fieldBytes b 8 8
    let len := fieldBytes b 16 8
    match nextFreeKey s with
    | none => finish s id Code.memExhausted
    | some i =>
      if (loc = 0 ∧ 2 ^ 44 < mappedHost s + len) ∨ (loc = 1 ∧ inCarve s addr len = false) then finish s id Code.memExhausted
      else
        let n := newNumber s clsRegion (fun n => s.rgn.keys.any (fun e => e.2.state != .free && hNum e.2.region == n))
        let h := mkHandle (self s) clsRegion n.1
        let k := getK n.2 i
        let s1 := setK n.2 i { k with
          state := .live, issued := true, region := h, loc := loc, addr := addr, len := len, rights := r.ent.op74
          drafted := fieldBytes b 3 1 == 1, scope := r.ent.a, port := r.fid / 64, fn := r.fid % 64, customer := r.ent.customer, version := 1, drafts := []
          relocated := [], ended := [], accepted := 0, revoker := none }
        finish (writeReport s1 r (leBytes 4 (k.gen * 65536 + i) ++ leBytes 4 0 ++ leBytes 8 h)) id 0)

/-- REVOKE (R128, R380): step 1; it completes when the index has drained. -/
def execRevoke (id : Nat) (s : State) : Out :=
  runOp s id (fun e => e.opcode == opRevoke) (fun r =>
    if mustWait s r then s
    else
      match regionIndex s r.ent.a with
      | none => finish s id Code.tzBadHandle
      | some i =>
        let k := getK s i
        let fw := decide (firmwareQueue ≤ r.queue)
        if !(fw || (r.fid / 64 == k.port && (r.fid % 64 == k.fn || r.fid % 64 == 0))) then finish s id Code.tzRights
        else if k.state = .revoking then finish s id Code.tzBadHandle
        else revokeStart (await s id) i (some id))

/-- REVOKE_DRAIN_COMPLETE (R380 steps 3 to 5). -/
def execRevokeDrainComplete (index : Nat) (s : State) : Out :=
  awake s (
    let k := getK s index
    if k.state = .revoking ∧ k.accepted = 0 then
      let s1 := revokeEnd (freePages s (fun p => p.kind == .weight && p.obj == k.region)) index
      match k.revoker with
      | some id => finish s1 id 0
      | none => s1
    else s)

/-- Forward an instruction to the home of its handle as a remote submission (R129); it completes on the home's answer. -/
def forwardHome (s : State) (r : Running) : State :=
  match sendTo s (hHome r.ent.a) (dataClass r.ent.prio) r.ent.a
    (.submit (r.id + 1) firmwareQueue (r.fid / 64) (r.fid % 64) { r.ent with flags := r.ent.flags % 16, c := 0 } r.blk) none with
  | .ok s' => await s' r.id
  | .error c => finish s r.id c

/-- The version report of PUBLISH (R130); a remote submitter is told the version with the completion. -/
def publishReport (s : State) (r : Running) (version : Nat) : State :=
  modRun (writeReport s r (leBytes 6 version)) (fun x => x.id == r.id) (fun x => { x with aux := version })

/-- What PUBLISH or DISCARD finds of a writer's draft (R132): 0 where it has one. -/
def draftCode (k : KeyEntry) (w : Writer) : Nat :=
  if k.drafted = false ∨ k.state = .revoking then Code.pubNotRegistered
  else
    match draftOf k w with
    | some _ => 0
    | none => ((k.ended.find? (fun x => x.1 == w)).map (·.2)).getD Code.pubDraftDiscarded

/-- PUBLISH on a region (R130, R376). -/
def execPublish (id : Nat) (s : State) : Out :=
  runOp s id (fun e => e.opcode == opPublish && hCls e.a == clsRegion) (fun r =>
    if mustWait s r then s
    else if hHome r.ent.a ≠ self s then forwardHome s r
    else
      match regionIndex s r.ent.a with
      | none => finish s id Code.tzBadHandle
      | some i =>
        let k := getK s i
        let w := writerOf s r
        let c := draftCode k w
        if c ≠ 0 then finish s id c
        else if natBit k.rights rPublish = false then finish s id Code.keyRights
        else if k.version ≠ r.ent.b % 2 ^ 48 ∨ k.version = 0xFFFFFFFFFFFF then
          let s1 := { s with rgn := { s.rgn with conflicts := satAdd 0xFFFF s.rgn.conflicts 1 } }
          finish (publishReport s1 r k.version) id Code.pubConflict
        else
          match draftOf k w with
          | none => finish s id Code.pubDraftDiscarded
          | some d =>
            if d.holds ≠ 0 then s
            else
              let k' := commitDraft k d
              let s1 := publishUnits (setK s i k') i d
              let s2 := { s1 with rgn := { s1.rgn with publishes := wrapAdd 32 s1.rgn.publishes 1 } }
              finish (publishReport s2 r k'.version) id 0)

/-- An accepted read of a version of a region older than the current one is in progress (R377). -/
def olderRead (s : State) (i : Nat) : Bool :=
  let v := (getK s i).version
  let sending := fun (m : SendMsg) => m.holds == some i && decide (m.version < v) && (match m.out.msg with | .readResp .. => true | _ => false)
  s.fab.qps.any (fun q => q.msgs.any sending) || (s.fab.waiting ++ s.fab.refused).any sending ||
    s.fab.combReads.any (fun e => e.dst == self s && e.index == some i && decide (e.version < v))

/-- FOLD_BACK (R377, R391): a relocated page goes to base memory, unless the brake holds or an older read is in progress. -/
def execFoldBack (index page : Nat) (s : State) : Out :=
  awake s (
    let k := getK s index
    match k.relocated.find? (fun u => u.page == page) with
    | some u => if k.state = .live ∧ braking s = false ∧ olderRead s index = false then foldBack s index u else s
    | none => s)

/-- A PUBLISH has started on an object and is not over: it holds the object's drafts (R142, R378). -/
def publishing (s : State) (object : Handle) : Bool :=
  s.tz.started.any (fun r => r.ent.opcode == opPublish && r.ent.a == object && (decide (r.phase = .behind) || decide (r.phase = .ready) || decide (r.phase = .waiting)))

/-- The code a draft node's PUBLISH or DISCARD receives when it no longer exists (R132). -/
def endedCode (s : State) (node : Handle) : Nat :=
  ((s.rgn.endedDrafts.find? (fun x => x.1 == node)).map (·.2)).getD Code.pubDraftDiscarded

/-- Release a draft node (R132, R379): its pages go here and at the mirror, its handle names nothing. -/
def dropDraft (s : State) (node : Handle) (code : Nat) : State :=
  let s1 := freePages s (fun p => p.obj == node && (p.kind == .draft || p.kind == .shard))
  let s2 := { s1 with rgn := { s1.rgn with
    drafts := s1.rgn.drafts.filter (fun d => !(d.handle == node))
    endedDrafts := s1.rgn.endedDrafts.filter (fun x => !(x.1 == node)) ++ (if code = 0 then [] else [(node, code)]) } }
  if s2.ident.partner ≠ noDevice ∧ present s2 s2.ident.partner then control s2 s2.ident.partner node .retire else s2

/-- DISCARD (R132): of a region's draft, or of a draft node with its handle. It waits for writes into the draft that were accepted before it (R97). -/
def execDiscard (id : Nat) (s : State) : Out :=
  runOp s id (fun e => e.opcode == opDiscard) (fun r =>
    if mustWait s r then s
    else if hHome r.ent.a ≠ self s then forwardHome s r
    else if hCls r.ent.a = clsRegion then
      match regionIndex s r.ent.a with
      | none => finish s id Code.tzBadHandle
      | some i =>
        let k := getK s i
        let w := writerOf s r
        let c := draftCode k w
        if c ≠ 0 then finish s id c
        else if (draftOf k w).any (fun d => d.holds != 0) then s
        else finish (setK s i (endDraft k w Code.pubDraftDiscarded)) id 0
    else
      match s.rgn.drafts.find? (fun d => d.handle == r.ent.a) with
      | none => finish s id (endedCode s r.ent.a)
      | some d =>
        if d.reserver ≠ (writerOf s r).device then finish s id Code.pubDraftDiscarded
        else if d.holds ≠ 0 then s
        else finish (dropDraft (endLease s r.ent.a false) r.ent.a Code.pubDraftDiscarded) id 0)

/-- Renew a draft's lease (R378): the length in force from now. -/
def renewDraft (s : State) (object : Handle) (w : Writer) : State :=
  let node := mapIf (fun (d : DraftNode) => d.handle == object && d.reserver == w.device)
    (fun d => { d with renewed := s.now, term := leaseTerm s }) s.rgn.drafts
  let keys := s.rgn.keys.map (fun e =>
    if e.2.state != .free && e.2.region == object then
      (e.1, { e.2 with drafts := mapIf (fun d => d.writer == w) (fun d => { d with renewed := s.now, term := leaseTerm s }) e.2.drafts })
    else e)
  { s with rgn := { s.rgn with drafts := node, keys := keys } }

/-- RENEW (R378, R388). -/
def execRenew (h : Hdr) (items : List RenewItem) (s : State) : Out :=
  delivered s h (fun s => items.foldl (fun s it => renewDraft s it.object { device := h.src, port := it.port, fn := it.fn }) s)

/-- A heartbeat of a port's host renews the drafts that its writers have on this device (R378). -/
def renewHost (s : State) (p : Nat) : State :=
  let mine : Writer → Bool := fun w => w.device == self s && w.port == p
  { s with rgn := { s.rgn with
    drafts := mapIf (fun d => d.reserver == self s && d.port == p) (fun d => { d with renewed := s.now, term := leaseTerm s }) s.rgn.drafts
    keys := s.rgn.keys.map (fun e => (e.1, { e.2 with drafts := mapIf (fun d => mine d.writer) (fun d => { d with renewed := s.now, term := leaseTerm s }) e.2.drafts })) } }

/-- One message of renewals to a registering device. -/
def sendRenewals (live : List LeaseHeld) (s : State) (d : Nat) : State :=
  match sendTo s d 0 0 (.renew ((live.filter (fun l => l.device == d)).map (fun l => { object := l.object, port := l.port, fn := l.fn }))) none with
  | .ok s' => s'
  | .error _ => s

/-- LEASE_RENEWAL_TICK (R378): every T_L / 4 renewals for the drafts this device holds on other devices and whose host is not orphaned, one message a registering device. -/
def execLeaseRenewalTick (s : State) : Out :=
  awake s (
    if s.now < s.rgn.renewAt + leaseTerm s / 4 then s
    else
      let live := s.rgn.leases.filter (fun l => l.device != self s && !(s.orphans.contains l.port))
      let devs := live.foldl (fun acc l => if acc.contains l.device then acc else acc ++ [l.device]) []
      devs.foldl (sendRenewals live) { s with rgn := { s.rgn with renewAt := s.now } })

/-- The log entry of an expired lease (R379). -/
def leaseLog (s : State) (object : Handle) (w : Writer) : State :=
  let s1 := { s with rgn := { s.rgn with expired := satAdd 0xFFFF s.rgn.expired 1 } }
  logEvent s1 (evOf 0x03 Code.pubLeaseExpired sevContained object [w.device, w.port * 128 + w.fn])

/-- LEASE_EXPIRY (R378, R379): a draft whose lease has run out and that neither a message nor a PUBLISH holds is discarded. -/
def execLeaseExpiry (object : Handle) (device port fn : Nat) (s : State) : Out :=
  let w : Writer := { device := device, port := port, fn := fn }
  awake s (
    if hCls object = clsRegion then
      match regionIndex s object with
      | none => s
      | some i =>
        match draftOf (getK s i) w with
        | some d => if d.holds = 0 ∧ publishing s object = false ∧ d.renewed + d.term ≤ s.now then leaseLog (setK s i (endDraft (getK s i) w Code.pubLeaseExpired)) object w else s
        | none => s
    else
      match s.rgn.drafts.find? (fun d => d.handle == object) with
      | some d => if d.holds = 0 ∧ d.publisher = none ∧ publishing s object = false ∧ d.renewed + d.term ≤ s.now then leaseLog (dropDraft s object Code.pubLeaseExpired) object w else s
      | none => s)

end Sys2Proof.Machine
end

