-- ==== Sys2Proof/Machine/Publishing.lean ====
section
/-!
DEFINITION. The prefix index and publishing (spec chapter 13, R381 to R388, R637; R24, R121 to R124, R131): PMATCH and lookups, reservation of drafts,
shard maps, distribution, the commit into the tree, references, retirement and destage.
-/

namespace Sys2Proof.Machine

open Sys2Proof

/-! ### The tree at the index member -/

/-- The version of a composition's root (R121): it starts at 1. -/
def rootVersionOf (s : State) (comp : Nat) : Nat := s.rgn.rootVersion.get 1 comp

/-- A node of the tree. -/
def findNode (s : State) (h : Handle) : Option TreeNode := s.rgn.tree.find? (fun n => n.handle == h)

/-- A child that a lookup may take (R383): it matches whole. -/
def childFits (digests : List Nat) (n : TreeNode) : Bool := !n.digests.isEmpty && n.digests == digests.take n.digests.length

/-- The child a lookup takes under a parent (R383): most digests, then newest. -/
def bestChild (s : State) (comp : Nat) (parent : Handle) (digests : List Nat) : Option TreeNode :=
  (s.rgn.tree.filter (fun n => n.comp == comp && n.parent == parent && childFits digests n)).foldl (fun b n => match b with
    | none => some n
    | some x => if x.digests.length < n.digests.length ∨ (x.digests.length = n.digests.length ∧ x.seqNo < n.seqNo) then some n else b) none

/-- A lookup (R383): the deepest node taken and the blocks matched. -/
def lookupFrom : Nat → State → Nat → Handle → List Nat → Nat → Option TreeNode → Option TreeNode × Nat
  | 0, _, _, _, _, n, best => (best, n)
  | fuel + 1, s, comp, parent, digests, n, best =>
    match bestChild s comp parent digests with
    | none => (best, n)
    | some c => lookupFrom fuel s comp c.handle (digests.drop c.digests.length) (n + c.digests.length) (some c)

/-- The result record of a lookup without a draft (R121). -/
def resultOf (s : State) (comp : Nat) (x : Option TreeNode × Nat) : MatchResult :=
  match x.1 with
  | some n => { matched := x.2, node := n.handle, baseVersion := n.version, draft := nullHandle, holders := n.holders, shardBlocks := n.shardBlocks }
  | none => { matched := 0, node := nullHandle, baseVersion := rootVersionOf s comp, draft := nullHandle, holders := [], shardBlocks := 0 }

/-- Tell the index member's partner of a change of the tree (R497). -/
def tellTree (s : State) (comp : Nat) (node : Handle) (kind : Nat) (c : Option NodeCommit) (change : Int) : State :=
  match (membership? s comp).bind (fun m => mapMember m.map (self s)) with
  | some me => if me.partner ≠ noDevice ∧ me.partner ≠ self s ∧ present s me.partner then control s me.partner node (.treeMsg kind c change) else s
  | none => s

/-- Change the references of a node (R24, R386): the time it was last unreferenced counts for retirement. -/
def refNode (s : State) (node : Handle) (change : Int) : State :=
  match findNode s node with
  | none => s
  | some n =>
    let refs := ((n.refs : Int) + change).toNat
    let s1 := { s with rgn := { s.rgn with tree := mapIf (fun x => x.handle == node) (fun x => { x with refs := refs, freeSince := s.now }) s.rgn.tree } }
    tellTree s1 n.comp node 3 none change

/-- Whether this device is PARTING in a composition (R489). -/
def partingIn (s : State) (comp : Nat) : Bool :=
  match (membership? s comp).bind (fun m => mapMember m.map (self s)) with
  | some x => x.parting
  | none => false

/-- Create a draft node (R123): under a parent at its owner, or under the root at the index member. -/
def createDraft (s : State) (comp : Nat) (parent : Handle) (digests : List Nat) (reserver : Nat) (model : Option Handle) (version : Nat) : State × Handle :=
  let n := newNumber s clsNode (fun n => s.rgn.drafts.any (fun d => hNum d.handle == n) || s.rgn.holds.any (fun d => hNum d.handle == n && hHome d.handle == self s))
  let h := mkHandle (self s) clsNode n.1
  let d : DraftNode := {
    handle := h, comp := comp, parent := parent, digests := digests, model := model, reserver := reserver, port := 0, fn := 0, renewed := s.now,
    term := leaseTerm s, holds := 0, publisher := none, baseVersion := version, awaiting := [], failed := [], published := false }
  ({ n.2 with rgn := { n.2.rgn with drafts := n.2.rgn.drafts ++ [d], endedDrafts := n.2.rgn.endedDrafts.filter (fun x => !(x.1 == h)) } }, h)

/-- Write the result record and finish a PMATCH (R121). -/
def resultBytes (m : MatchResult) : List Byte :=
  leBytes 4 m.matched ++ leBytes 4 0 ++ leBytes 8 (if m.matched = 0 then nullHandle else m.node) ++ leBytes 6 m.baseVersion ++ leBytes 2 0 ++
  leBytes 8 m.draft ++ leBytes 1 m.holders.length ++ leBytes 3 0 ++ leBytes 4 m.shardBlocks ++ leBytes 8 0 ++
  (List.range 32).flatMap (fun i => leBytes 2 (m.holders.getD i 0x7FFF)) ++ leBytes 16 0

/-- The PMATCH that waits for a lookup of a subject. -/
def waitingMatch (s : State) (subject : Handle) : Option Running :=
  s.tz.started.find? (fun r => r.ent.opcode == opPmatch && r.ent.a == subject && decide (r.phase = .waiting))

/-- Give up a reference that a lookup took (R123, R124). -/
def giveRef (s : State) (comp : Nat) (node : Handle) : State := if node = nullHandle then s else
  match membership? s comp with
  | some m => if m.map.index = self s then refNode s node (-1) else control s m.map.index node (.ref (-1))
  | none => s

/-- What a PMATCH keeps of its result (R110, R378, R637): the shard map of the node, the lease of the draft, each with the sequence's descriptor. -/
def keepMatch (s : State) (r : Running) (m : MatchResult) : State :=
  let model := (findCopy s r.ent.a).map (·.model)
  let map : ShardMap := { node := m.node, holders := m.holders, shardBlocks := m.shardBlocks, matched := m.matched, exact := true, model := model }
  let lease : LeaseHeld := { object := m.draft, device := hHome m.draft, port := r.fid / 64, fn := r.fid % 64, model := model, base := m.matched, told := false }
  { s with rgn := { s.rgn with
    maps := if m.matched = 0 then s.rgn.maps else s.rgn.maps.filter (fun x => !(x.node == m.node)) ++ [map]
    leases := if m.draft = nullHandle then s.rgn.leases else s.rgn.leases.filter (fun l => !(l.object == m.draft)) ++ [lease] } }

/-- A PMATCH ends with its result (R24, R123, R124): RESULT, whose access was accepted when the PMATCH ran, is written, the sequence's reference replaced and the old one dropped. A
result for a sequence that is gone gives its reference back. With MATCHED 0 the sequence keeps the reference it holds: the spec does not say what becomes of it (DESIGN CHOICE,
log 17). -/
def matchDone (s : State) (r : Running) (m : MatchResult) : State :=
  let comp := r.ent.b % 2 ^ 12
  let res := bufAt r.blk 32
  let s := keepMatch (regionWrite s (keyIndex res.key) (writerOf s r) res.offset (resultBytes m)) r m
  if r.ent.a = nullHandle ∨ m.matched = 0 then finish s r.id 0
  else
    match findHome s r.ent.a with
    | none => finish (giveRef s comp m.node) r.id Code.tzBadHandle
    | some hr =>
      let len := m.matched * 64
      let s := dropRef s hr.desc.comp hr.desc.pfx
      let s := modCopy s r.ent.a (fun c => { c with desc := { c.desc with pfx := m.node, prefixLen := len, comp := comp } })
      homeUpdate (await s r.id) r.ent.a (.setPrefix m.node len comp) (.here (.instr r.id 0))

/-- Serve a lookup at the index member (R383): the result, with a reference taken where asked; `some` names the owner to ask for a draft. -/
def serveLookup (s : State) (comp : Nat) (reserve takeRef : Bool) (digests : List Nat) (requester : Nat) : State × MatchResult × Option (Handle × List Nat) :=
  let x := lookupFrom (digests.length + 1) s comp nullHandle digests 0 none
  let res := resultOf s comp x
  let s1 := match x.1 with
    | some n => if takeRef then refNode s n.handle 1 else s
    | none => s
  if reserve ∧ x.2 < digests.length then
    match x.1 with
    | some n => (s1, res, some (n.handle, digests.drop x.2))
    | none =>
      let d := createDraft s1 comp nullHandle digests requester none (rootVersionOf s1 comp)
      (d.1, { res with draft := d.2 }, none)
  else (s1, res, none)

/-- The model a draft under a node is bound to when the node's owner creates it (R637): the node's own. -/
def draftModel (s : State) (parent : Handle) : Option Handle := (findHold s parent).map (·.model)

/-- Count a reserved draft child at a node of the tree (R387). -/
def countDraft (s : State) (node : Handle) (n : Int) : State :=
  { s with rgn := { s.rgn with tree := mapIf (fun x => x.handle == node) (fun x => { x with drafts := ((x.drafts : Int) + n).toNat }) s.rgn.tree } }

/-- The check of PMATCH's RESULT (R124, R371, R375). -/
def resultAccess (s : State) (r : Running) : Nat :=
  let b := bufAt r.blk 32
  let c := keyCheck s b.key b.offset 128 rWrite none
  let k := getK s (keyIndex b.key)
  if c ≠ 0 then c else if k.drafted = true ∧ unitsOk s k (writerOf s r) b.offset 128 = false then Code.xptRetryExceeded else 0

/-- PMATCH's access to RESULT is accepted (R371, R378): the key index and the writer's draft wait for it until the instruction completes. -/
def acceptResult (s : State) (r : Running) : State :=
  let b := bufAt r.blk 32
  modRun (enterMsg s (keyIndex b.key) (writerOf s r) b.offset 128) (fun x => x.id == r.id) (fun x => { x with aux := 1 })

/-- PMATCH (R123, R124): served here when this device is the index member, else by a LOOKUP to it. DIGESTS and RESULT are checked before anything is asked. -/
def execPmatch (id : Nat) (s : State) : Out :=
  runOp s id (fun e => e.opcode == opPmatch) (fun r =>
    let comp := r.ent.b % 2 ^ 12
    match membership? s comp with
    | none => finish s id Code.cmpNotMember
    | some m =>
      if !(inComp s comp (self s)) then finish s id Code.cmpNotMember
      else
        match bufRead s (bufAt r.blk 16) 0 (16 * fieldBytes r.blk 4 4) rRead with
        | .error c => finish (keyRefused s c) id c
        | .ok bs =>
          let digests := (chunks 16 (fieldBytes r.blk 4 4) bs).map leVal
          let rc := resultAccess s r
          if rc ≠ 0 then finish (keyRefused s rc) id rc
          else
          let s := acceptResult s r
          if m.map.index = self s then
            let x := serveLookup s comp (r.ent.flag 4) (r.ent.a != nullHandle) digests (self s)
            match x.2.2 with
            | none => matchDone x.1 r x.2.1
            | some (parent, rest) =>
              if hHome parent = self s ∧ partingIn s comp = true then finish s id Code.cmpParting
              else if hHome parent = self s then
                let d := createDraft (countDraft x.1 parent 1) comp parent rest (self s) (draftModel x.1 parent) x.2.1.baseVersion
                matchDone d.1 r { x.2.1 with draft := d.2 }
              else
                let s1 := { x.1 with rgn := { x.1.rgn with lookups := x.1.rgn.lookups ++
                  [{ requester := self s, comp := comp, subject := r.ent.a, result := x.2.1 }] } }
                control (await s1 id) (hHome parent) parent (.reserve (self s) rest)
          else
            match sendTo s m.map.index 1 r.ent.a (.lookup comp (r.ent.flag 4) (r.ent.a != nullHandle) digests) (some id) with
            | .ok s' => await s' id
            | .error c => finish s id c)

/-- LOOKUP (R24, R123, R383). -/
def execLookup (h : Hdr) (subject : Handle) (comp : Nat) (reserve takeRef : Bool) (digests : List Nat) (s : State) : Out :=
  let none_ : MatchResult := { matched := 0, node := nullHandle, baseVersion := 0, draft := nullHandle, holders := [], shardBlocks := 0 }
  delivered s h (fun s =>
    match membership? s comp with
    | none => control s h.src subject (.lookupResult Code.cmpNotMember none_)
    | some m =>
      if m.map.index ≠ self s ∨ (mapMember m.map h.src).isNone then control s h.src subject (.lookupResult Code.cmpNotMember none_)
      else
        let x := serveLookup s comp reserve takeRef digests h.src
        match x.2.2 with
        | none => control x.1 h.src subject (.lookupResult 0 x.2.1)
        | some (parent, rest) =>
          if hHome parent = self s ∧ partingIn s comp = true then control s h.src subject (.lookupResult Code.cmpParting none_)
          else if hHome parent = self s then
            let d := createDraft (countDraft x.1 parent 1) comp parent rest h.src (draftModel x.1 parent) x.2.1.baseVersion
            control d.1 h.src subject (.lookupResult 0 { x.2.1 with draft := d.2 })
          else
            let s1 := { x.1 with rgn := { x.1.rgn with lookups := x.1.rgn.lookups ++
              [{ requester := h.src, comp := comp, subject := subject, result := x.2.1 }] } }
            control s1 (hHome parent) parent (.reserve h.src rest))

/-- LOOKUP_RESULT (R24, R121). -/
def execLookupResult (h : Hdr) (subject : Handle) (code : Nat) (result : MatchResult) (s : State) : Out :=
  delivered s h (fun s =>
    match waitingMatch s subject with
    | none => s
    | some r => if code ≠ 0 then finish s r.id code else matchDone s r result)

/-- RESERVE (R123): the owner of the parent creates the draft child. -/
def execReserve (h : Hdr) (subject : Handle) (device : Nat) (digests : List Nat) (s : State) : Out :=
  delivered s h (fun s =>
    match findHold s subject with
    | none => control s h.src subject (.reserved Code.tzBadHandle nullHandle)
    | some n =>
      if partingIn s h.comp then control s h.src subject (.reserved Code.cmpParting nullHandle)
      else
      let d := createDraft s h.comp subject digests device (some n.model) 0
      control d.1 h.src subject (.reserved 0 d.2))

/-- A lookup that gets no draft because its reservation failed (R124, R489): it ends with the code, and no reference stays. -/
def lookupRefused (s : State) (l : LookupWait) (code : Nat) : State :=
  let s := { s with rgn := { s.rgn with lookups := s.rgn.lookups.erase l } }
  let s := if l.subject = nullHandle then s else refNode s l.result.node (-1)
  if l.requester = self s then
    match waitingMatch s l.subject with
    | some r => finish s r.id code
    | none => s
  else control s l.requester l.subject (.lookupResult code l.result)

/-- Reservations whose message failed on its way (R124): their lookups end with its code. -/
def reserveFailures (s : State) : State :=
  s.fab.failed.foldl (fun s x => match x.1.msg with
    | .reserve .. =>
      (match s.rgn.lookups.find? (fun l => l.result.node == x.1.subject) with
       | some l => lookupRefused s l x.2
       | none => s)
    | _ => s) s

/-- RESERVED (R123, R388, R489): the waiting lookup of that parent is answered, with the draft where one was made; an owner that is parting ends it with its
code, and no reference stays. -/
def execReserved (h : Hdr) (subject : Handle) (code : Nat) (draft : Handle) (s : State) : Out :=
  delivered s h (fun s =>
    match s.rgn.lookups.find? (fun l => l.result.node == subject) with
    | none => s
    | some l =>
      if code = Code.cmpParting then lookupRefused s l code
      else
      let s1 := { s with rgn := { s.rgn with lookups := s.rgn.lookups.erase l } }
      let s2 := if code = 0 then countDraft s1 subject 1 else s1
      let res := { l.result with draft := if code = 0 then draft else nullHandle }
      if l.requester = self s then
        match waitingMatch s2 l.subject with
        | some r => matchDone s2 r res
        | none => s2
      else control s2 l.requester l.subject (.lookupResult 0 res))

/-! ### Shard maps -/

/-- SHARD_MAP_REQ (R110): the node's home answers with the map it holds. -/
def execShardMapReq (h : Hdr) (subject : Handle) (s : State) : Out :=
  delivered s h (fun s =>
    match findHold s subject with
    | some n => control s h.src subject (.shardMap 0 n.holders n.shardBlocks)
    | none => control s h.src subject (.shardMap Code.tzBadHandle [] 0))

/-- SHARD_MAP (R110): the copy that waits for it proceeds, or ends with the code. -/
def execShardMap (h : Hdr) (subject : Handle) (code : Nat) (holders : List Nat) (shardBlocks : Nat) (s : State) : Out :=
  delivered s h (fun s =>
    let map : ShardMap := {
      node := subject, holders := holders, shardBlocks := shardBlocks, matched := holders.length * shardBlocks, exact := false
      model := (s.rgn.maps.find? (fun x => x.node == subject)).bind (·.model) }
    let s1 := if code = 0 then { s with rgn := { s.rgn with maps := s.rgn.maps.filter (fun x => !(x.node == subject)) ++ [map] } } else s
    let s1 := modRun s1 (fun r => r.ent.opcode == opAttend && decide (r.phase = .waiting) && !(s1.tz.splits.any (fun x => x.instr == r.id)) &&
        (findCopy s1 r.ent.b).any (fun c => c.desc.pfx == subject)) (fun r => { r with phase := if code = 0 then .ready else .done code })
    match s1.tz.started.find? (fun r => r.ent.opcode == opPcopy && r.ent.a == subject && decide (r.phase = .waiting) && r.aux == 0) with
    | some r => if code = 0 then startStage s1 r map else finish s1 r.id code
    | none => s1)

/-- REF (R34, R386): the index member changes a node's references. -/
def execRef (h : Hdr) (subject : Handle) (change : Int) (s : State) : Out := delivered s h (fun s => refNode s subject change)

/-! ### Distribution -/

/-- Drop a version's references at a holder (R386): pages whose count falls to 0 are freed in every tier. -/
def dropVersion (s : State) (node : Handle) : State :=
  let chain := match findHold s node with
    | some _ => nodeChain s 64 node
    | none => [node]
  let down := mapIf (fun (p : Page) => chain.contains p.obj && (p.kind == .shard || p.kind == .draft)) (fun p => { p with refs := p.refs - 1 }) s.pages
  { s with
    pages := down.filter (fun p => !(chain.contains p.obj && (p.kind == .shard || p.kind == .draft) && p.refs == 0))
    rgn := { s.rgn with holds := s.rgn.holds.filter (fun n => !(n.handle == node)) } }

/-- RETIRE (R386, R387). -/
def execRetire (h : Hdr) (subject : Handle) (s : State) : Out :=
  delivered s h (fun s => { dropVersion s subject with rgn := { (dropVersion s subject).rgn with
    drafts := s.rgn.drafts.filter (fun d => !(d.handle == subject)) } })

/-- Store rows of one page of a node here from a slot on, of a shard, a staged copy or a draft (R27, R110, R385): MEM_EXHAUSTED where no frame is free. -/
def storeNodePage (s : State) (node : Handle) (kind : PageKind) (m : ModelRec) (layer index slot : Nat) (bytes : List Byte) : State × Nat :=
  let b := rowBytes m
  let n := bytes.length / max 1 b
  let put := fun (t : Tbl (List Byte)) => (List.range n).foldl (fun t i => t.set (slot + i) (sliceBytes bytes (i * b) b)) t
  match s.pages.find? (fun p => p.obj == node && p.layer == layer && p.index == index) with
  | some p => (setPage s { p.written with kind := kind, rows := put p.rows, tokens := max p.tokens (slot + n) }, 0)
  | none =>
    match takeFrame s (fun _ => false) (pageHalf s node layer index) (frameUnits m) with
    | none => (s, Code.memExhausted)
    | some (s', f) =>
      let x := newPageNumber s'
      let p := { freshPage x.1 kind node layer index f with rows := put [], tokens := slot + n, refs := 1, pubOrder := s'.tz.seqNo }
      (addPage x.2 p, 0)

/-- The rows of a run of blocks cut into pages: page index, first slot, bytes. -/
def blockPages (m : ModelRec) (first : Nat) (bytes : List Byte) : List (Nat × Nat × List Byte) :=
  let b := rowBytes m
  let per := perPage m
  let lo := first * 64
  let hi := lo + bytes.length / max 1 b
  (List.range (ceilDiv hi per - lo / per)).map (fun i =>
    let from_ := max lo ((lo / per + i) * per)
    let to_ := min hi ((lo / per + i + 1) * per)
    (lo / per + i, from_ % per, sliceBytes bytes ((from_ - lo) * b) ((to_ - from_) * b)))

/-- The hold of a node version takes in blocks that came for it (R385, R386). -/
def extendHold (s : State) (node : Handle) (first count : Nat) : State :=
  { s with rgn := { s.rgn with holds := mapIf (fun n => n.handle == node) (fun n => n.extend first count) s.rgn.holds } }

/-- A descriptor record that arrives for a node (R637): its draft here is bound to it, or a hold of the version begins. One that differs from the draft's own is refused. -/
def bindNode (s : State) (node : Handle) (comp : Nat) (m : Model) : State × Nat :=
  let h := modelHandle s m
  match s.rgn.drafts.find? (fun d => d.handle == node) with
  | some d =>
    if (d.model.bind (findModel s)).any (fun x => x.number != m.number && !(modelEq x.desc m.desc)) then (s, Code.tzFormat)
    else ({ s with rgn := { s.rgn with drafts := mapIf (fun x => x.handle == node) (fun x => { x with model := some (x.model.getD h) }) s.rgn.drafts } }, 0)
  | none =>
    let hold : NodeHold := {
      handle := node, comp := comp, parent := nullHandle, model := h, blocks := 0, first := 0, count := 0, holders := [], shardBlocks := 0, digest := 0, since := 0 }
    (if (findHold s node).isSome then s else { s with rgn := { s.rgn with holds := s.rgn.holds ++ [hold] } }, 0)

/-- DISTRIBUTE (R385, R637): layer 0xFFFFFFFF carries the descriptor that the shard or draft is bound to; any other layer the rows of blocks. -/
def execDistribute (h : Hdr) (subject : Handle) (layer first count : Nat) (bytes : List Byte) (descriptor : Option ModelRec) (s : State) : Out :=
  delivered s h (fun s =>
    match descriptor with
    | some d =>
      match adoptModel s d with
      | none => control s h.src subject (.distributed Code.memExhausted)
      | some (s1, m, _) =>
        let x := bindNode s1 subject h.comp m
        control x.1 h.src subject (.distributed x.2)
    | none =>
      match boundModel s subject with
      | none => control s h.src subject (.distributed Code.tzBadHandle)
      | some m =>
        let kind : PageKind := if s.rgn.drafts.any (fun d => d.handle == subject) then .draft else .shard
        let x := (blockPages m.desc first bytes).foldl (fun acc p => if acc.2 ≠ 0 then acc else storeNodePage acc.1 subject kind m.desc layer p.1 p.2.1 p.2.2) (s, 0)
        control (if x.2 = 0 then extendHold x.1 subject first count else x.1) h.src subject (.distributed x.2))

/-- SHARE (R385, R386): references to ancestor pages already held here; those missing are read from the ancestor's holders. -/
def execShare (h : Hdr) (subject : Handle) (ancestor : Handle) (first count : Nat) (s : State) : Out :=
  delivered s h (fun s =>
    match boundModel s subject with
    | none => control s h.src subject (.distributed Code.tzBadHandle)
    | some m =>
      let per := perPage m.desc
      let chain := nodeChain s 64 ancestor
      let hit : Page → Bool := fun p => chain.contains p.obj && (p.kind == .shard || p.kind == .draft) && decide (first * 64 < (p.index + 1) * per ∧ p.index * per < (first + count) * 64)
      let s1 := { s with pages := mapIf hit (fun p => { p with refs := p.refs + 1 }) s.pages }
      let s2 := extendHold { s1 with rgn := { s1.rgn with holds := mapIf (fun n => n.handle == subject) (fun n => { n with parent := ancestor }) s1.rgn.holds } } subject first count
      let map := s2.rgn.maps.find? (fun x => x.node == ancestor)
      let missing := (List.range m.desc.layers).flatMap (fun l =>
        (List.range (ceilDiv (count * 64) per)).filterMap (fun i =>
          let k := first * 64 / per + i
          if s2.pages.any (fun p => chain.contains p.obj && p.layer == l && p.index == k) then none else some (l, k)))
      let s3 := missing.foldl (fun s x =>
        let dst := match map with
          | some mp => mp.holderOf (x.2 * per / 64)
          | none => h.src
        match readPage s dst 6 ancestor x.1 x.2 (per * rowBytes m.desc) false (.stage 0 ancestor x.1 x.2 tStacks per) with
        | .ok s' => s'
        | .error _ => s) s2
      control s3 h.src subject (.distributed 0))

/-! ### PUBLISH on a draft node -/

/-- C members of a composition from the owner on, in map order (R384). -/
def cacheMembers (m : CompMap) (owner : Nat) : List Nat :=
  let cs := (m.members.filter (fun x => x.pers == 3)).map (·.device)
  let i := cs.findIdx (fun d => d == owner)
  cs.drop i ++ cs.take i

/-- Blocks on the path of a draft: its ancestors' and its own (R384). -/
def pathBlocks (s : State) (d : DraftNode) : Nat :=
  (match findHold s d.parent with | some n => n.blocks | none => 0) + d.digests.length

/-- The shard map of a new version (R384): holders and blocks a holder. -/
def shardMapOf (m : CompMap) (owner path : Nat) : List Nat × Nat :=
  let cs := cacheMembers m owner
  let n := min (min (max 1 m.shards) cs.length) (min 32 path)
  (cs.take n, ceilDiv path (max 1 n))

/-- Rows of a run of blocks of one layer as this device holds them, or none where one is missing (R385). -/
def blockRows (s : State) (node : Handle) (m : ModelRec) (layer first count : Nat) : Option (List Byte) :=
  let per := perPage m
  let chain := nodeChain s 64 node
  let rows := (List.range (count * 64)).map (fun i =>
    let pos := first * 64 + i
    chain.findSome? (fun o => (s.pages.find? (fun p => p.obj == o && p.layer == layer && p.index == pos / per)).bind (fun p => p.rows.find (pos % per))))
  if rows.all (·.isSome) then some (rows.flatMap (fun r => r.getD [])) else none

/-- Every page of every block of a draft is here (R385 step 2). -/
def draftWhole (s : State) (d : DraftNode) (m : ModelRec) (from_ : Nat) : Bool :=
  (List.range m.layers).all (fun l => (blockRows s d.handle m l from_ d.digests.length).isSome)

/-- Send one message of a distribution and count the answer it owes. -/
def distSend (s : State) (node : Handle) (dst : Nat) (msg : Msg) : State :=
  match sendTo s dst 6 node msg none with
  | .ok s' => { s' with rgn := { s'.rgn with drafts := mapIf (fun d => d.handle == node) (fun d => { d with awaiting := d.awaiting ++ [dst] }) s'.rgn.drafts } }
  | .error c => { s with rgn := { s.rgn with drafts := mapIf (fun d => d.handle == node) (fun d => { d with failed := d.failed ++ [(dst, c)] }) s.rgn.drafts } }

/-- What one holder or partner of blocks `[first, first + count)` receives (R385 step 3): the descriptor, references to its ancestors' blocks, the
rows of the draft's own. -/
def distTo (s : State) (d : DraftNode) (m : ModelRec) (base dst first count : Nat) : State :=
  let s1 := distSend s d.handle dst (.descriptor m)
  let sharedTo := min (first + count) base
  let s2 := if first < sharedTo then distSend s1 d.handle dst (.share d.parent first (sharedTo - first)) else s1
  let own := max first base
  if own < first + count then
    (List.range m.layers).foldl (fun s l => match blockRows s d.handle m l own (first + count - own) with
      | some bs => distSend s d.handle dst (.distribute l own (first + count - own) bs)
      | none => s) s2
  else s2

/-- Distribute a draft's shards to holders and their partners (R384, R385 step 3). -/
def distributeAll (s : State) (d : DraftNode) (m : ModelRec) (map : CompMap) : State :=
  let path := pathBlocks s d
  let base := path - d.digests.length
  let sm := shardMapOf map (self s) path
  sm.1.zipIdx.foldl (fun s x =>
    let first := x.2 * sm.2
    let count := min sm.2 (path - first)
    let partner := (mapMember map x.1).map (·.partner)
    ([some x.1, partner].filterMap id).foldl (fun s dst =>
      if dst = self s ∨ dst = noDevice then s else distTo s d m base dst first count) s) s

/-- A holder and its partner both failed (R385). -/
def bothLost (map : CompMap) (holders : List Nat) (failed : List (Nat × Nat)) : Bool :=
  let bad : Nat → Bool := fun d => failed.any (fun x => x.1 == d && x.2 != Code.memExhausted)
  holders.any (fun h => bad h && (match (mapMember map h).map (·.partner) with | some p => bad p || p == noDevice | none => true))

/-- The commit goes to the index member (R385 step 4), here or by message. -/
def commitBody (s : State) (d : DraftNode) (map : CompMap) : NodeCommit :=
  let sm := shardMapOf map (self s) (pathBlocks s d)
  { parent := d.parent, baseVersion := d.baseVersion, digests := d.digests, holders := sm.1, shardBlocks := sm.2 }

/-- A draft's PUBLISH ends with a code and the draft is kept (R385). -/
def publishFails (s : State) (d : DraftNode) (code : Nat) : State :=
  let clear : DraftNode → DraftNode := fun x => { x with publisher := none, awaiting := [], failed := [] }
  let s1 := { s with rgn := { s.rgn with drafts := mapIf (fun x => x.handle == d.handle) clear s.rgn.drafts } }
  match d.publisher with
  | some id => finish s1 id code
  | none => s1

/-- The owner's side of a commit (R131, R385 step 5, R386): the draft becomes a version, of which the owner keeps its own shard. -/
def publishDone (s : State) (d : DraftNode) (map : CompMap) (model : Handle) (version : Nat) : State :=
  let path := pathBlocks s d
  let sm := shardMapOf map (self s) path
  let per := objPer s d.handle
  let kept := min sm.2 path
  let hold : NodeHold := {
    handle := d.handle, comp := d.comp, parent := d.parent, model := model, blocks := path, first := 0, count := kept, holders := sm.1, shardBlocks := sm.2
    digest := d.digests.headD 0, since := version }
  let mine : Page → Bool := fun p => p.obj == d.handle && p.kind == .draft
  let pages := (s.pages.filter (fun p => !(mine p && decide (kept * 64 ≤ p.index * per)))).map
    (fun p => if mine p then { p with kind := .shard, refs := 1, pubOrder := s.tz.seqNo } else p)
  let s1 := { s with
    pages := pages
    rgn := { s.rgn with
      drafts := s.rgn.drafts.filter (fun x => !(x.handle == d.handle))
      holds := s.rgn.holds.filter (fun x => !(x.handle == d.handle)) ++ [hold]
      publishes := wrapAdd 32 s.rgn.publishes 1 } }
  let s2 := endLease s1 d.handle true
  match d.publisher with
  | some id => finish s2 id 0
  | none => s2

/-- The conflict check of R28, R131 and R385: a child published under the parent since, or one whose commit waits for the index's partner. -/
def commitConflict (s : State) (comp : Nat) (c : NodeCommit) : Bool :=
  s.rgn.tree.any (fun n => n.comp == comp && n.parent == c.parent && decide (c.baseVersion < n.seqNo) && n.digests.head? == c.digests.head?) ||
  s.rgn.treeWaits.any (fun w => w.comp == comp && w.commit.any (fun x => x.parent == c.parent && x.digests.head? == c.digests.head?))

/-- The conflict check as a draft's owner can make it before it distributes (R385): it owns the parent, and with it every child published there; drafts under the root lie at the
index member. -/
def draftConflict (s : State) (d : DraftNode) (base : Nat) : Bool :=
  let first := d.digests.headD 0
  s.rgn.holds.any (fun n => n.parent == d.parent && n.comp == d.comp && hHome n.handle == self s && decide (base < n.since) && n.digest == first) ||
  commitConflict s d.comp { parent := d.parent, baseVersion := base, digests := d.digests, holders := [], shardBlocks := 0 }

/-- Enter a node into a tree (R131, R382): version 1, its parent's version up by 1. The answer is the parent's version after. -/
def enterNode (s : State) (comp : Nat) (h : Handle) (c : NodeCommit) : State × Nat :=
  let v := (match findNode s c.parent with | some p => p.version | none => rootVersionOf s comp) + 1
  let n : TreeNode := {
    handle := h, comp := comp, parent := c.parent, digests := c.digests, version := 1, holders := c.holders, shardBlocks := c.shardBlocks, refs := 0,
    freeSince := s.now, drafts := 0, seqNo := v }
  let s1 := countDraft s c.parent (-1)
  let s2 := { s1 with rgn := { s1.rgn with
    tree := mapIf (fun x => x.handle == c.parent) (fun x => { x with version := v }) s1.rgn.tree ++ [n]
    rootVersion := if c.parent = nullHandle then s1.rgn.rootVersion.set comp v else s1.rgn.rootVersion } }
  (s2, v)

/-- The owner learns the index's verdict (R385). -/
def indexVerdict (s : State) (node : Handle) (code version : Nat) : State :=
  match s.rgn.drafts.find? (fun d => d.handle == node) with
  | none => s
  | some d =>
    match membership? s d.comp with
    | none => s
    | some m =>
      if code = 0 then publishDone s d m.map (d.model.getD nullHandle) version
      else
        let s1 := { s with rgn := { s.rgn with conflicts := satAdd 0xFFFF s.rgn.conflicts 1 } }
        let sm := shardMapOf m.map (self s) (pathBlocks s d)
        let others := sm.1.flatMap (fun x => [x] ++ ((mapMember m.map x).map (·.partner)).toList)
        publishFails ((others.filter (fun x => x != self s && x != noDevice)).foldl (fun s x => control s x node .retire) s1) d code

/-- A commit at the index member (R385 step 4): complete once its partner has acknowledged it. -/
def commitAtIndex (s : State) (comp : Nat) (node : Handle) (c : NodeCommit) (owner : Nat) : State :=
  let answer : State → Nat → Nat → State := fun s code v =>
    if owner = self s then indexVerdict s node code v else control s owner node (.indexCommitted code v)
  if commitConflict s comp c then answer s Code.pubConflict (match findNode s c.parent with | some p => p.version | none => rootVersionOf s comp)
  else
    match (membership? s comp).bind (fun m => mapMember m.map (self s)) with
    | some me =>
      if me.partner ≠ noDevice ∧ me.partner ≠ self s ∧ present s me.partner then
        let s1 := { s with rgn := { s.rgn with treeWaits := s.rgn.treeWaits ++ [{ node := node, commit := some c, answer := owner, comp := comp }] } }
        control s1 me.partner node (.treeMsg 1 (some c) 0)
      else
        let x := enterNode s comp node c
        answer x.1 0 x.2
    | none => answer s Code.cmpNotMember 0

/-- Go on when every device of a distribution has answered (R385). -/
def distributionDone (s : State) (node : Handle) : State :=
  match s.rgn.drafts.find? (fun d => d.handle == node) with
  | none => s
  | some d =>
    match membership? s d.comp with
    | none => s
    | some m =>
      if d.publisher = none ∨ !d.awaiting.isEmpty then s
      else if d.failed.any (fun x => x.2 == Code.memExhausted) then publishFails s d Code.memExhausted
      else if bothLost m.map (shardMapOf m.map (self s) (pathBlocks s d)).1 d.failed then publishFails s d Code.cmpLostMember
      else if m.map.index = self s then commitAtIndex s d.comp node (commitBody s d m.map) (self s)
      else control s m.map.index node (.indexCommit (commitBody s d m.map))

/-- PUBLISH on a draft node (R131, R132, R385). -/
def execPublishDraftNode (id : Nat) (s : State) : Out :=
  runOp s id (fun e => e.opcode == opPublish && hCls e.a == clsNode) (fun r =>
    if mustWait s r then s
    else if hHome r.ent.a ≠ self s then forwardHome s r
    else
      match s.rgn.drafts.find? (fun d => d.handle == r.ent.a) with
      | none => finish s id (endedCode s r.ent.a)
      | some d =>
        let version := r.ent.b % 2 ^ 48
        if d.reserver ≠ (writerOf s r).device then finish s id Code.pubDraftDiscarded
        else if draftConflict s d version then finish { s with rgn := { s.rgn with conflicts := satAdd 0xFFFF s.rgn.conflicts 1 } } id Code.pubConflict
        else if d.holds ≠ 0 then s
        else
          match boundModel s d.handle, membership? s d.comp with
          | some m, some mem =>
            let base := pathBlocks s d - d.digests.length
            if !(draftWhole s d m.desc base) then finish s id Code.tzFormat
            else
              let d' := { d with publisher := some id, awaiting := [], failed := [], baseVersion := version }
              let s1 := { await s id with rgn := { s.rgn with drafts := mapIf (fun x => x.handle == d.handle) (fun _ => d') s.rgn.drafts } }
              distributionDone (distributeAll s1 d' m.desc mem.map) d.handle
          | _, _ => finish s id Code.tzFormat)

/-- DISTRIBUTED (R385, R637): the answer of a holder or partner. For a PINGEST it answers the descriptor: one that cannot adopt it ends the instruction, and nothing further is
sent. -/
def execDistributed (h : Hdr) (subject : Handle) (code : Nat) (s : State) : Out :=
  delivered s h (fun s =>
    match s.rgn.drafts.find? (fun d => d.handle == subject && d.awaiting.contains h.src) with
    | some d =>
      let d' := { d with awaiting := d.awaiting.erase h.src, failed := if code = 0 then d.failed else d.failed ++ [(h.src, code)] }
      distributionDone { s with rgn := { s.rgn with drafts := mapIf (fun x => x.handle == subject) (fun _ => d') s.rgn.drafts } } subject
    | none =>
      match s.tz.started.find? (fun r => r.ent.opcode == opPingest && fieldBytes r.blk 48 8 == subject && decide (r.phase = .waiting)) with
      | some r =>
        if code = 0 then s
        else finish { s with fab := { s.fab with mcasts := s.fab.mcasts.filter (fun y => !(y.instr == r.id && !y.data)) } } r.id code
      | none => s)

/-- INDEX_COMMIT (R131, R385). -/
def execIndexCommit (h : Hdr) (subject : Handle) (c : NodeCommit) (s : State) : Out :=
  delivered s h (fun s => commitAtIndex s h.comp subject c h.src)

/-- INDEX_COMMITTED (R385). -/
def execIndexCommitted (h : Hdr) (subject : Handle) (code version : Nat) (s : State) : Out :=
  delivered s h (fun s => indexVerdict s subject code version)

/-- Take a node out of the tree and tell its holders and their partners (R386, R387). -/
def retireNode (s : State) (n : TreeNode) : State :=
  let s1 := { s with rgn := { s.rgn with
    tree := s.rgn.tree.filter (fun x => !(x.handle == n.handle)), retired := wrapAdd 32 s.rgn.retired 1 } }
  let s2 := tellTree s1 n.comp n.handle 2 none 0
  let devs := n.holders.flatMap (fun x => [x] ++ (match (membership? s n.comp).bind (fun m => mapMember m.map x) with
    | some me => if me.partner = noDevice then [] else [me.partner]
    | none => []))
  devs.foldl (fun s d => if d = self s then dropVersion s n.handle else control s d n.handle .retire) s2

/-- NODE_RETIREMENT (R387). -/
def execNodeRetirement (node : Handle) (s : State) : Out :=
  let retain := fieldOf (s.regs.get 0x0E10 0x608008) 15 0
  awake s (
    match findNode s node with
    | none => s
    | some n =>
      if n.refs = 0 ∧ retain ≠ 0 ∧ n.freeSince + retain * 1000000 ≤ s.now ∧ n.drafts = 0 ∧ !(s.rgn.tree.any (fun x => x.parent == node)) ∧
        !(s.rgn.drafts.any (fun d => d.parent == node)) then retireNode s n
      else s)

/-- TREE (R497): the partner keeps the tree as mirrored, and acknowledges. -/
def execTree (h : Hdr) (subject : Handle) (kind : Nat) (commit : Option NodeCommit) (change : Int) (s : State) : Out :=
  let mt := s.rgn.mirrorTree
  let mt' : List TreeNode := match kind, commit with
    | 1, some c => mt.filter (fun n => !(n.handle == subject)) ++ [{
        handle := subject, comp := h.comp, parent := c.parent, digests := c.digests, version := 1, holders := c.holders, shardBlocks := c.shardBlocks,
        refs := 0, freeSince := s.now, drafts := 0, seqNo := c.baseVersion + 1 }]
    | 2, _ => mt.filter (fun n => !(n.handle == subject))
    | 3, _ => mapIf (fun n => n.handle == subject) (fun n => { n with refs := ((n.refs : Int) + change).toNat, freeSince := s.now }) mt
    | _, _ => mt
  delivered s h (fun s => control { s with rgn := { s.rgn with mirrorTree := mt' } } h.src subject (.treeAck 0))

/-- TREE_ACK (R385, R497): the waiting commit of that node enters the tree and its owner is answered. -/
def execTreeAck (h : Hdr) (subject : Handle) (code : Nat) (s : State) : Out :=
  delivered s h (fun s =>
    match s.rgn.treeWaits.find? (fun w => w.node == subject) with
    | none => s
    | some w =>
      let s1 := { s with rgn := { s.rgn with treeWaits := s.rgn.treeWaits.erase w } }
      match w.commit with
      | some c =>
        if code ≠ 0 then s1
        else
          let x := enterNode s1 w.comp subject c
          if w.answer = self s then indexVerdict x.1 subject 0 x.2 else control x.1 w.answer subject (.indexCommitted 0 x.2)
      | none => s1)

/-- DESTAGE (R280): under C, until shutdown stops it (R361), the published page, or unit of a region's version (R389), earliest in publish order that lies only in the stacks gets a copy in flash, or in host memory. -/
def execDestage (s : State) : Out :=
  awake s (
    if s.pers = some .cache ∧ s.cfgState ≠ 5 then
      match (s.pages.filter (fun p => (p.kind == .shard || p.kind == .weight) && p.tiers == [tStacks] && !(frameComing s p))).foldl (fun (b : Option Page) p => match b with
          | none => some p
          | some x => if p.pubOrder < x.pubOrder then some p else b) none with
      | some p =>
        if s.ident.flash ∧ s.fl.tier ≠ 3 then (stageFlash s [p]).1
        else
          match copyInto s p tHost with
          | some x => setPage x.1 x.2
          | none => s
      | none => s
    else s)

end Sys2Proof.Machine
end

