-- ==== Sys2Proof/Machine/Admission.lean ====
section
/-!
DEFINITION. Admission as the host and the clock act on it (spec chapter 16): customer entries, the refill of buckets, and egress shaping.
-/

namespace Sys2Proof.Machine

open Sys2Proof

/-- A write by a physical function (R463, R475, R547). -/
def byPhysical (who : Req) : Bool := who.fn == 0 && who.peer.isNone

/-- The fields of ADM_CUST_ID that a write leaves in an entry (R463). -/
def custFields (k : Customer) (v : W64) : Customer :=
  { k with
    weight := if fieldOf v 47 32 = 0 then k.weight else fieldOf v 47 32
    keySlot := if k.valid then k.keySlot else fieldOf v 57 48
    customer := if k.valid then k.customer else fieldOf v 15 0 }

/-- Set VALID from 0 to 1 (R464, R472): the bucket full, ADMITTED clear, every virtual time level with its class. -/
def validate (s : State) (k : Customer) : Customer :=
  { k with
    valid := true, level := k.burst * 1000, filledAt := s.now, admitted := 0
    vt := (List.range 4).map (fun c =>
      let v := classVt s c
      if vtBefore (k.vt.getD c 0) v then v else k.vt.getD c 0) }

/-- ADM_CUST_ID_WRITE (R463, R464). -/
def execAdmCustIdWrite (who : Req) (n : Nat) (v : W64) (s : State) : Out :=
  alive s (
    if byPhysical who = false ∨ 4096 ≤ n then s
    else
      let k := s.adm.customers.get Customer.init n
      let k1 := custFields k v
      let taken := s.adm.customers.any (fun x => x.1 != n && x.2.valid && x.2.customer == k1.customer)
      let k2 := if bitOf v 63 then (if k.valid ∨ k1.customer = 0xFFFF ∨ taken then k1 else validate s k1) else { k1 with valid := false }
      { s with adm := { s.adm with customers := s.adm.customers.set n k2 } })

/-- BUCKET_REFILL_TICK (R465): every valid customer's level rises by RATE thousandths of a unit for each µs that has passed, capped at BURST. -/
def execBucketRefillTick (s : State) : Out :=
  alive s { s with adm := { s.adm with customers := s.adm.customers.map (fun x => (x.1, x.2.refilled s.now)) } }

/-- FAB_SHAPE_WRITE (R475): legal fields are taken; leaving unshaped starts the bucket at BURST. -/
def execFabShapeWrite (who : Req) (p t : Nat) (v : W64) (s : State) : Out :=
  alive s (
    if byPhysical who = false ∨ 8 ≤ p ∨ 8 ≤ t then s
    else
      let old := shapeReg s p t
      let burst := if 5 ≤ fieldOf v 47 32 then fieldOf v 47 32 else fieldOf old 47 32
      let rate := if fieldOf v 15 0 = 0 then fieldOf old 15 0 else fieldOf v 15 0
      let s1 := { s with regs := s.regs.set (0x500800 + 0x40 * p + 8 * t) (BitVec.ofNat 64 (burst * 2 ^ 32 + rate)) }
      if fieldOf old 15 0 = 0xFFFF ∧ rate ≠ 0xFFFF then
        { s1 with adm := { s1.adm with shape := s1.adm.shape.set (8 * p + t) (burst * 1024 : Int) } }
      else s1)

end Sys2Proof.Machine
end

