-- ==== Sys2Proof/Machine/Reduce.lean ====
section
/-!
DEFINITION. The reduction unit (R155, R162 to R164, R187, R203, R205, R209, R437, R438): how one contribution combines into its destination. RREDUCE, the REDUCE packets of other
devices, ATTEND and AMERGE all merge through it.
-/

namespace Sys2Proof.Machine

open Sys2Proof

/-- What a contribution does (R162): the operation, the element format, deterministic or fast, and for softmax-merge the rows a tuple holds and their width. -/
structure RedOp where
  op : Nat
  fmt : Nat
  det : Bool
  rowsPer : Nat
  d : Nat
  deriving DecidableEq, Repr

/-- Bytes of one source element (R162). -/
def elemBytes (fmt : Nat) : Nat := if fmt = 2 then 2 else if fmt = 0x21 then 8 else 4

/-- A `w`-bit number as a signed one. -/
def signedOf (w n : Nat) : Int := if 2 ^ (w - 1) ≤ n % 2 ^ w then (n % 2 ^ w : Int) - 2 ^ w else n % 2 ^ w

/-- One element combined (R163): sum rounded once to the format, max, min, and the wrapping integer add. A maximum or minimum with a NaN, and the sign of a zero, which R162 and R163 do not
state, are as in VOP (DESIGN CHOICE, log 41). -/
def combineElem (k : RedOp) (old new : List Byte) : List Byte :=
  match plainFmt k.fmt with
  | some f =>
    let a := f.read (leVal old)
    let b := f.read (leVal new)
    leBytes (f.width / 8) (f.write (if k.op = 0 then a.add b else if k.op = 1 then a.max b else a.min b))
  | none =>
    let n := elemBytes k.fmt
    let a := signedOf (8 * n) (leVal old)
    let b := signedOf (8 * n) (leVal new)
    leBytes n (if k.op = 1 then (if a < b then leVal new else leVal old)
      else if k.op = 2 then (if b < a then leVal new else leVal old)
      else (leVal old + leVal new) % 2 ^ (8 * n))

/-- One FP32 element added into its destination cell (R163, R205, R206); the reserved bytes are written 0. -/
def combineCell (old new : List Byte) : List Byte := ((Cell96.ofBytes old).addTerm (Fmt.fp32.read (leVal new))).bytes

/-! ### Rows of tuples -/

/-- Minus infinity in FP32 (R152). -/
def negInf32 : Nat := 0xFF800000

/-- A cell of a tuple: its anchor counts as 0 whatever the byte holds (R206). -/
def tupleCell (bs : List Byte) : Cell96 := { Cell96.ofBytes bs with anchor := 0 }

/-- Bytes of a wire row (R437). -/
def wireBytes (det : Bool) (d : Nat) : Nat := if det then 32 + 16 * d else 8 + 4 * d

/-- A row from its statistics and elements (R152, R437). -/
def rowOf (det : Bool) (d : Nat) (stats elems : List Byte) : MergeRow :=
  if det then
    { m := fieldBytes stats 0 4, l := tupleCell (sliceBytes stats 16 16), lf := 0
      o := (List.range d).map (fun j => tupleCell (sliceBytes elems (16 * j) 16)), of := [] }
  else
    { m := fieldBytes stats 0 4, l := Cell96.empty, lf := fieldBytes stats 4 4, o := []
      of := (List.range d).map (fun j => fieldBytes elems (4 * j) 4) }

/-- The statistics of a row (R152). -/
def rowStats (det : Bool) (r : MergeRow) : List Byte :=
  if det then leBytes 4 r.m ++ leBytes 12 0 ++ r.l.bytes else leBytes 4 r.m ++ leBytes 4 r.lf

/-- The elements of a row (R152). -/
def rowElemsBytes (det : Bool) (r : MergeRow) : List Byte :=
  if det then r.o.flatMap Cell96.bytes else r.of.flatMap (leBytes 4)

/-- A row on the wire (R437): statistics, then elements. -/
def wireRow (det : Bool) (r : MergeRow) : List Byte := rowStats det r ++ rowElemsBytes det r

/-- A row from the wire. -/
def rowOfWire (det : Bool) (d : Nat) (bs : List Byte) : MergeRow :=
  let n := if det then 32 else 8
  rowOf det d (bs.take n) (bs.drop n)

/-- The empty row of a tuple (R148, R152). -/
def emptyRow (det : Bool) (d : Nat) : MergeRow :=
  { m := negInf32, l := Cell96.empty, lf := 0, o := if det then List.replicate d Cell96.empty else []
    of := if det then [] else List.replicate d 0 }

/-- A NaN row (R187). -/
def nanRow (det : Bool) (d : Nat) : MergeRow :=
  let c : Cell96 := { Cell96.empty with nan := true }
  { m := 0x7FC00000, l := if det then c else Cell96.empty, lf := if det then 0 else 0x7FC00000, o := if det then List.replicate d c else []
    of := if det then [] else List.replicate d 0x7FC00000 }

/-- Whether a row counts as a NaN row (R187): its m is NaN or +infinity, or its l is NaN. -/
def isNanRow (det : Bool) (r : MergeRow) : Bool :=
  let m := Fmt.fp32.read r.m
  m == .nan || m == .inf false || (if det then r.l.nan else Fmt.fp32.read r.lf == .nan)

/-- Softmax-merge of row `b` into target row `a` (R164, R187, R209): the row, and whether it fails with TZ_FORMAT and stays as it was. -/
def mergeRow (det : Bool) (a b : MergeRow) : MergeRow × Bool :=
  let d := if det then a.o.length else a.of.length
  let ma := Fmt.fp32.read a.m
  let mb := Fmt.fp32.read b.m
  if isNanRow det a || isNanRow det b then (nanRow det d, false)
  else if det then
    if mb = .inf true then (a, false)
    else if ma ≠ .inf true ∧ (ma.lt mb ∨ mb.lt ma) then (a, true)
    else
      ({ a with m := if ma = .inf true then b.m else a.m, l := a.l.add b.l, o := (a.o.zip b.o).map (fun x => x.1.add x.2) }, false)
  else
    let m := ma.max mb
    if m = .inf true then (a, false)
    else
      let fa := exp32 (ma.add m.neg)
      let fb := exp32 (mb.add m.neg)
      let mix2 := fun (x y : Nat) => Fmt.fp32.write ((fa.mul (Fmt.fp32.read x)).add (fb.mul (Fmt.fp32.read y)))
      ({ a with m := Fmt.fp32.write m, lf := mix2 a.lf b.lf, of := (a.of.zip b.of).map (fun x => mix2 x.1 x.2) }, false)

/-! ### At the destination -/

/-- A byte as a writer's own draft holds it, else the current version (R374). -/
def peekByte (s : State) (k : KeyEntry) (w : Writer) (off : Nat) : Byte :=
  let u := if k.drafted then (draftOf k w).bind (fun d => d.units.find? (fun u => u.page == off / 4096)) else none
  match u with
  | some u => Mem.byte u.bytes (off % 4096)
  | none => versionByte s k off

/-- The destination bytes a contribution combines into. -/
def peek (s : State) (i : Nat) (w : Writer) (off n : Nat) : List Byte :=
  let k := getK s i
  (List.range n).map (fun j => peekByte s k w (off + j))

/-- Destination bytes of a contribution of `n` source bytes: a deterministic sum has a 16-byte cell for each 4-byte element (R162). -/
def destBytes (k : RedOp) (n : Nat) : Nat := if k.op = 0 ∧ k.det = true then 4 * n else n

/-- Combine the elements of a contribution that begins at source byte `at_` of its message (R163). -/
def combineElems (s : State) (i : Nat) (w : Writer) (off at_ : Nat) (k : RedOp) (bs : List Byte) : State :=
  let e := elemBytes k.fmt
  let cell : Bool := decide (k.op = 0) && k.det
  let n := if cell then 16 else e
  (List.range (bs.length / e)).foldl (fun s j =>
    let dst := off + (at_ / e + j) * n
    let old := peek s i w dst n
    let new := sliceBytes bs (j * e) e
    regionWrite s i w dst (if cell then combineCell old new else combineElem k old new)) s

/-- Where row `r` of a stream of tuples keeps its elements and its statistics (R152, R437). -/
def rowPlace (k : RedOp) (off r : Nat) : Nat × Nat :=
  let e := if k.det then 16 else 4
  let st := if k.det then 32 else 8
  let rp := max 1 k.rowsPer
  let base := off + r / rp * (rp * (k.d * e + st))
  (base + r % rp * (k.d * e), base + rp * (k.d * e) + r % rp * st)

/-- Merge one row of a stream into its place (R164): elements, m and l together; `true` where it fails. -/
def mergeAt (s : State) (i : Nat) (w : Writer) (off r : Nat) (k : RedOp) (b : MergeRow) : State × Bool :=
  let p := rowPlace k off r
  let old := rowOf k.det k.d (peek s i w p.2 (if k.det then 32 else 8)) (peek s i w p.1 (k.d * (if k.det then 16 else 4)))
  let x := mergeRow k.det old b
  if x.2 then (s, true)
  else (regionWrite (regionWrite s i w p.1 (rowElemsBytes k.det x.1)) i w p.2 (rowStats k.det x.1), false)

/-- Merge a list of rows that begins with row `r0` of its stream; a row that fails leaves the others standing (R164). -/
def mergeRows (s : State) (i : Nat) (w : Writer) (off r0 : Nat) (k : RedOp) (rows : List MergeRow) : State × Bool :=
  rows.zipIdx.foldl (fun acc x =>
    let y := mergeAt acc.1 i w off (r0 + x.2) k x.1
    (y.1, acc.2 || y.2)) (s, false)

/-- The rows of tuples in the layout of R152, in stream order. -/
def tupleRows (k : RedOp) (bs : List Byte) : List MergeRow :=
  let rp := max 1 k.rowsPer
  let e := if k.det then 16 else 4
  let st := if k.det then 32 else 8
  let tup := rp * (k.d * e + st)
  (List.range (bs.length / tup * rp)).map (fun r =>
    let p := rowPlace k 0 r
    rowOf k.det k.d (sliceBytes bs p.2 st) (sliceBytes bs p.1 (k.d * e)))

/-- Tuples in the layout of R152, one `rowsPer` rows long. -/
def tupleBytes (det : Bool) (rows : List MergeRow) : List Byte :=
  rows.flatMap (rowElemsBytes det) ++ rows.flatMap (rowStats det)

/-- A whole contribution whose source bytes are at hand (R163): the state and whether a row failed. -/
def reduceAll (s : State) (i : Nat) (w : Writer) (off : Nat) (k : RedOp) (bs : List Byte) : State × Bool :=
  if k.op = 4 then mergeRows s i w off 0 k (tupleRows k bs) else (combineElems s i w off 0 k bs, false)

/-- The source bytes as the wire carries them (R437). -/
def wireStream (k : RedOp) (bs : List Byte) : List Byte := if k.op = 4 then (tupleRows k bs).flatMap (wireRow k.det) else bs

end Sys2Proof.Machine
end

