-- ==== Sys2Proof/Machine/Compute.lean ====
section
/-!
DEFINITION. The compute instructions (spec chapters 05 to 07): ATTEND with its split across holders, AMERGE, EXPAND, CONVERT, GEMM and VOP; how their operands are read
and their results written.
-/

namespace Sys2Proof.Machine

open Sys2Proof

/-! ### Operands in, results out -/

/-- Operands at hand, or what reading them led to. -/
inductive Gathered
  | bytes (l : List (List Byte))
  | waits (s : State)
  | fails (s : State) (code : Nat)

/-- The code of the first local input that fails its check over its whole range (R371). -/
def inputsCode (s : State) (refs : List (BufRef × Nat)) : Nat :=
  firstFail (refs.map (fun x =>
    let c := if x.1.device = self s then keyCheck s x.1.key x.1.offset x.2 rRead none else 0
    (c == 0, c)))

/-- Ask for the remote inputs that have not come (R138). -/
def askInputs (s : State) (r : Running) (refs : List ((BufRef × Nat) × Nat)) : State × Nat :=
  refs.foldl (fun acc x =>
    if acc.2 ≠ 0 then acc
    else
      match sendRead acc.1 x.1.1.device (dataClass r.ent.prio) 0 x.1.1.key x.1.1.offset x.1.2 false (.operand r.id x.2) with
      | .error c => (acc.1, c)
      | .ok s' => (s', 0)) (s, 0)

/-- Read input operands: local ones in place, remote ones by READ_REQ first. QUERIES are read as the row runs, and again at pass 2; R194 leaves the rows undefined where they change before
completion, and here they follow from what was read (DESIGN CHOICE, log 41). -/
def gather (s : State) (r : Running) (refs : List (BufRef × Nat)) : Gathered :=
  let c := inputsCode s refs
  if c ≠ 0 then .fails (keyRefused s c) c
  else
    let missing := refs.zipIdx.filter (fun x => x.1.1.device != self s && !(r.inputs.any (fun y => y.1 == x.2)))
    if missing.isEmpty then
      .bytes (refs.zipIdx.map (fun x =>
        if x.1.1.device = self s then regionRead s (getK s (keyIndex x.1.1.key)) x.1.1.offset x.1.2
        else ((r.inputs.find? (fun y => y.1 == x.2)).map (·.2)).getD []))
    else
      let a := askInputs s r missing
      if a.2 ≠ 0 then .fails a.1 a.2
      else .waits (modRun (await a.1 r.id) (fun x => x.id == r.id) (fun x => { x with aux := missing.length }))

/-- How a result reaches its buffer: written, or combined by the reduction unit. -/
inductive Emit
  | write
  | red (k : RedOp)
  deriving DecidableEq, Repr

/-- One result: the buffer, how, and the pieces as offset and bytes. -/
structure Result where
  buf : BufRef
  how : Emit
  pieces : List (Nat × List Byte)
  deriving DecidableEq, Repr

/-- Bytes a piece covers at its destination. -/
def Emit.span (how : Emit) (n : Nat) : Nat := match how with | .write => n | .red k => destBytes k n

/-- The right a result needs (R372). -/
def Emit.right (how : Emit) : Nat := match how with | .write => rWrite | .red _ => rReduce

/-- The check of one local result over its whole range; 0 for a remote one. -/
def resultCode (s : State) (w : Writer) (x : Result) : Nat :=
  if x.buf.device ≠ self s then 0
  else
    let last := x.pieces.foldl (fun n p => max n (p.1 + x.how.span p.2.length)) 0
    let c := keyCheck s x.buf.key x.buf.offset last x.how.right none
    let k := getK s (keyIndex x.buf.key)
    if c ≠ 0 then c else if k.drafted = true ∧ unitsOk s k w x.buf.offset last = false then Code.xptRetryExceeded else 0

/-- Put a local result in place; the code is TZ_FORMAT where a row of a deterministic merge fails (R164). R144 leaves the destination undefined after a failure in step 7: here it is as far
as it was written, and otherwise unchanged (DESIGN CHOICE, log 41). -/
def putLocal (s : State) (w : Writer) (x : Result) : State × Nat :=
  let i := keyIndex x.buf.key
  x.pieces.foldl (fun acc p =>
    match x.how with
    | .write => (regionWrite acc.1 i w (x.buf.offset + p.1) p.2, acc.2)
    | .red k =>
      let y := reduceAll acc.1 i w (x.buf.offset + p.1) k p.2
      (y.1, if y.2 then Code.tzFormat else acc.2)) (s, 0)

/-- The message that carries a piece to another device (R435, R437). -/
def pieceMsg (x : Result) (w : Writer) (p : Nat × List Byte) : Msg :=
  match x.how with
  | .write => .write x.buf.key (x.buf.offset + p.1) w.port w.fn p.2
  | .red k => .reduce x.buf.key (x.buf.offset + p.1) k.op k.fmt k.det none k.rowsPer k.d w.port w.fn (wireStream k p.2)

/-- Send the pieces of a remote result: the state, how many went, and the code of one that could not go. -/
def sendPieces (r : Running) (w : Writer) (acc : State × Nat × Nat) (x : Result) : State × Nat × Nat :=
  x.pieces.foldl (fun acc p =>
    if acc.2.2 ≠ 0 then acc
    else
      match sendTo acc.1 x.buf.device (dataClass r.ent.prio) 0 (pieceMsg x w p) (some r.id) with
      | .ok s' => (s', acc.2.1 + 1, 0)
      | .error c => (acc.1, acc.2.1, c)) acc

/-- Deliver the results of an instruction and finish it: local buffers are checked first and written, remote ones leave as messages whose acknowledgements end it. Every operand has been
read by then: where OUT or DEST overlaps an operand or another result in a way that leaves bytes undefined (R155, R159, R160, R194), the computed bytes are written all the same, and after
a failure (R144) what was written stands (DESIGN CHOICE, log 41). -/
def emit (s : State) (r : Running) (xs : List Result) : State :=
  let w := writerOf s r
  let c := firstFail (xs.map (fun x => let c := resultCode s w x; (c == 0, c)))
  if c ≠ 0 then finish (keyRefused s c) r.id c
  else
    let l := (xs.filter (fun x => x.buf.device == self s)).foldl (fun acc x =>
      let y := putLocal acc.1 w x
      (y.1, if acc.2 = 0 then y.2 else acc.2)) (s, 0)
    let m := (xs.filter (fun x => x.buf.device != self s)).foldl (sendPieces r w) (l.1, 0, 0)
    let code := if l.2 ≠ 0 then l.2 else m.2.2
    if m.2.1 = 0 ∨ m.2.2 ≠ 0 then finish m.1 r.id code
    else
      modRun (await m.1 r.id) (fun x => x.id == r.id)
        (fun x => { x with aux := m.2.1, codes := if code = 0 then [] else [(0, code)] })

/-- A sum in FP32 with round-to-nearest-even, in an order that the tiling chooses (R201): a free value of the sequence `f` picks the partial sum added next, and whether it was rounded
before. `n` counts free values. -/
def freeSum (f : Nat → Nat) : Nat → Nat → Fv → List Fv → Nat × Fv
  | 0, n, acc, _ => (n, acc)
  | fuel + 1, n, acc, l =>
    if l.isEmpty then (n, acc)
    else
      let i := f n % l.length
      let x := l.getD i (.fin false 0 0)
      freeSum f fuel (n + 1) (rn32 (acc.add (if f n / l.length % 2 = 1 then rn32 x else x))) (l.eraseIdx i)

/-- A dot product off the score path in fast mode (R201): exact sums of 64 products, added in FP32, with a further addend where there is one. -/
def freeDot (f : Nat → Nat) (n : Nat) (as bs : List Fv) (c : Option Fv) : Nat × Fv :=
  let k := ceilDiv as.length 64
  match ((chunks 64 k as).zip (chunks 64 k bs)).map (fun x => dot x.1 x.2) ++ c.toList with
  | [] => (n, .fin false 0 0)
  | [x] => (n, rn32 x)
  | l =>
    let i := f n % l.length
    freeSum f l.length (n + 1) (rn32 (l.getD i (.fin false 0 0))) (l.eraseIdx i)

/-- An FP32 value within a bound of an exact one: a free value where it lies within, else the nearest; the nearest alone where the bound leaves no room. -/
def freeNear (free : Nat) (x bound : Fv) : Fv :=
  let v := Fmt.fp32.read (free % 2 ^ 32)
  if x.isFin && bound.isFin && (Fv.fin false 0 0).lt bound && v.isFin && !(bound.lt (v.add x.neg).abs) then v else rn32 x

/-! ### ATTEND -/

/-- The quantities of an ATTEND (R145, R174): the descriptor, its widths E and D, and the fields of the block. -/
structure Att where
  det : Bool
  qfmt : Fmt
  alg : Nat
  qc : Nat
  layer0 : Nat
  layers : Nat
  explicit : Bool
  masks : List Nat
  phase : Nat
  om : Nat
  ofmt : Fmt
  head0 : Nat
  hc : Nat
  ctx : Nat
  first : Nat
  last : Nat
  scale : Fv
  e : Nat
  d : Nat
  deriving DecidableEq, Repr

/-- The quantities of an ATTEND from its word, block and descriptor (R145, R146, R148). -/
def attOf (e : Entry) (b : List Byte) (m : ModelRec) : Att :=
  let alg := fieldBytes b 2 1
  let ctx := fieldBytes b 16 3
  let first := fieldBytes b 20 3
  { det := e.det, qfmt := (plainFmt e.format).getD .bf16, alg := alg, qc := fieldBytes b 3 1, layer0 := fieldBytes b 4 1, layers := fieldBytes b 5 1
    explicit := fieldBytes b 6 1 == 1, masks := (List.range 16).map (fun i => fieldBytes b (96 + 2 * i) 2), phase := fieldBytes b 7 1
    om := fieldBytes b 8 1, ofmt := (plainFmt (fieldBytes b 9 1)).getD .fp32, head0 := fieldBytes b 10 1
    hc := if fieldBytes b 11 1 = 0 then m.heads - fieldBytes b 10 1 else fieldBytes b 11 1, ctx := ctx, first := first
    last := if fieldBytes b 24 3 = 0 then ctx else first + fieldBytes b 24 3, scale := Fmt.fp32.read (fieldBytes b 28 4)
    e := if alg = 0 then (if m.kind = 0 then m.latent + m.rotary else m.keyWidth) else m.keyWidth + m.rotary
    d := if alg = 0 then (if m.kind = 0 then m.latent else m.valueWidth) else m.valueWidth }

/-- Rows a layer of an ATTEND gives (R152). -/
def Att.rows (a : Att) : Nat := a.qc * a.hc

/-- Bytes of a layer's queries (R146). -/
def Att.queryBytes (a : Att) : Nat := a.rows * a.e * (a.qfmt.width / 8)

/-- Whether query `i` sees position `t` (R147, R148, R178). -/
def Att.sees (a : Att) (window i t : Nat) : Bool :=
  let p0 := a.ctx - a.qc
  let p := p0 + i
  decide (a.first ≤ t ∧ t < a.last ∧ t < a.ctx) &&
  (decide (t < p0) || (if a.explicit then natBit (a.masks.getD i 0) (t - p0) else decide (t ≤ p))) &&
  (window == 0 || decide (p < t + window))

/-- Query `i` of head `j` of a layer (R146), flushed at the input stage (R200). -/
def Att.query (a : Att) (layerBytes : List Byte) (i j : Nat) : List Fv :=
  let w := a.qfmt.width / 8
  (loadPlain a.qfmt a.e (sliceBytes layerBytes ((i * a.hc + j) * a.e * w) (a.e * w))).map (fp8Flush a.qfmt)

/-- One element of the up-projection weights (R558): layer, latent element, head, then keys before values. -/
def weightElem (m : ModelRec) (w : Mem) (layer c h x : Nat) : Fv :=
  let f := (plainFmt m.weightFormat).getD .bf16
  let n := f.width / 8
  let k := ((layer * m.latent + c) * m.heads + h) * (m.keyWidth + m.valueWidth) + x
  f.read (leVal (w.read (k * n) n))

/-- The exact dot product of a latent with one column of the up-projection (R177). -/
def expandDot (m : ModelRec) (w : Mem) (layer h x : Nat) (latent : List Fv) : Fv :=
  dot latent ((List.range m.latent).map (fun c => weightElem m w layer c h x))

/-- The key and the value of a stored row for one head (R148, R174, R177): as stored, or expanded and each element rounded once to FP32. -/
def kvOf (m : ModelRec) (w : Mem) (alg layer h : Nat) (row : List Fv) : List Fv × List Fv :=
  if alg = 1 then
    let lat := row.take m.latent
    ((List.range m.keyWidth).map (fun x => rn32 (expandDot m w layer h x lat)) ++ row.drop m.latent,
     (List.range m.valueWidth).map (fun x => rn32 (expandDot m w layer h (m.keyWidth + x) lat)))
  else if m.kind = 0 then (row, row.take m.latent)
  else
    let b := h * m.kvHeads / max 1 m.heads * (m.keyWidth + m.valueWidth)
    ((row.drop b).take m.keyWidth, (row.drop (b + m.keyWidth)).take m.valueWidth)

/-- The stored rows of a layer that an ATTEND may see, page by page, each page with its number and each row with its position (R148, R149). -/
def storedPages (s : State) (h : Handle) (m : ModelRec) (layer lo hi : Nat) : List (Nat × List (Nat × List Fv)) :=
  (objPages s h layer).map (fun x =>
    (x.1.number, (List.range (perPage m)).filterMap (fun t =>
      let pos := x.2 + t
      if lo ≤ pos ∧ pos < min hi (pageEnd s h x) then
        some (pos, mxLoad (storageFmt m) (rowElems m) (x.1.rows.get (List.replicate (rowBytes m) 0) t)) else none)))

/-- The stored rows of a layer that an ATTEND may see, with their positions. -/
def storedRows (s : State) (h : Handle) (m : ModelRec) (layer lo hi : Nat) : List (Nat × List Fv) :=
  (storedPages s h m layer lo hi).flatMap (·.2)

/-- The score of one position (R175, R201): RN32(SCALE × (q · k)). A block scale of NaN in the key or the value makes it NaN, since every query that sees the position gets a NaN row
(R187, R212). -/
def Att.score (a : Att) (q : List Fv) (kv : List Fv × List Fv) : Fv :=
  if (kv.1 ++ kv.2).any (fun v => v == .nan) then .nan else rn32 (a.scale.mul (dot q kv.1))

/-- The scores of one query and head with the values they weigh (R175). -/
def Att.scores (a : Att) (m : Model) (layer i h : Nat) (q : List Fv) (rows : List (Nat × List Fv)) : List (Fv × List Fv) :=
  rows.filterMap (fun x =>
    if a.sees m.desc.window i x.1 then
      let kv := kvOf m.desc m.weights a.alg layer h x.2
      some (a.score q kv, kv.2)
    else none)

/-- The largest score as FP32 bits: minus infinity of none, the canonical NaN where one is not finite (R184, R187). -/
def maxScore (sc : List (Fv × List Fv)) : Nat :=
  if sc.isEmpty then negInf32
  else if sc.any (fun x => !x.1.isFin) then 0x7FC00000
  else Fmt.fp32.write (sc.foldl (fun m x => m.max x.1) (.inf true))

/-- The weight-flush limit of R185. -/
def flushLimit : Fv := .fin false 1 (-40)

/-- One deterministic row against a maximum M (R185, R186). -/
def detRow (d mBits : Nat) (sc : List (Fv × List Fv)) : MergeRow :=
  if sc.isEmpty then emptyRow true d
  else
    let M := Fmt.fp32.read mBits
    if !M.isFin || sc.any (fun x => !x.1.isFin) then nanRow true d
    else
      let kept := sc.filterMap (fun x =>
        let w := exp32 (rn32 (x.1.add M.neg))
        if w.lt flushLimit then none else some (w, x.2))
      { m := mBits, l := kept.foldl (fun c x => c.addTerm x.1) Cell96.empty, lf := 0
        o := (List.range d).map (fun j => kept.foldl (fun c x => c.addTerm (x.1.mul (x.2.getD j (.fin false 0 0)))) Cell96.empty), of := [] }

/-- The key and the value of a stored row for one head in fast mode (R177, R201): an expanded element is an FP32 sum in an order that the tiling chooses. -/
def kvFast (f : Nat → Nat) (m : ModelRec) (w : Mem) (alg layer h : Nat) (row : List Fv) : List Fv × List Fv :=
  if alg = 1 then
    let lat := row.take m.latent
    let e := (List.range (m.keyWidth + m.valueWidth)).foldl (fun (acc : Nat × List Fv) x =>
      let y := freeDot f acc.1 lat ((List.range m.latent).map (fun c => weightElem m w layer c h x)) none
      (y.1, acc.2 ++ [y.2])) (0, [])
    (e.2.take m.keyWidth ++ row.drop m.latent, e.2.drop m.keyWidth)
  else kvOf m w alg layer h row

/-- A page as one head reads it: its number, and the keys and values of its positions. -/
abbrev HeadPage := Nat × List (Nat × (List Fv × List Fv))

/-- The pages of a layer as one head reads them in fast mode: one key and one value a row, whatever the query (R177). -/
def headPages (obj : Handle) (m : Model) (alg layer h : Nat) (pages : List (Nat × List (Nat × List Fv))) : List HeadPage :=
  pages.map (fun p => (p.1, p.2.map (fun x => (x.1, kvFast (Config.fastNat [0, obj, layer, h, x.1]) m.desc m.weights alg layer h x.2))))

/-- The scores of one query over one page, with the values they weigh. -/
def Att.pageScores (a : Att) (window i : Nat) (q : List Fv) (p : HeadPage) : List (Fv × List Fv) :=
  p.2.filterMap (fun x => if a.sees window i x.1 then some (a.score q x.2, x.2.2) else none)

/-- The running row of a fast tile task (R182): maximum, sum and elements, kept exact, for each element the sum of its terms' magnitudes, the positions seen, and whether a rescale by
another factor than 1 has taken place. -/
structure FastSum where
  m : Fv
  l : Fv
  o : List Fv
  mag : List Fv
  count : Nat
  scaled : Bool
  deriving DecidableEq, Repr

/-- The row of a task that has seen nothing (R182). -/
def FastSum.zero (d : Nat) : FastSum :=
  { m := .inf true, l := .fin false 0 0, o := List.replicate d (.fin false 0 0), mag := List.replicate d (.fin false 0 0), count := 0, scaled := false }

/-- One page of a fast tile task (R182, R209): a page that raises the maximum rescales the row by the correctly rounded factor; each weight is faithful. -/
def fastStep (f : Nat → Nat) (d n : Nat) (t : FastSum) (sc : List (Fv × List Fv)) : Nat × FastSum :=
  if sc.isEmpty then (n, t)
  else
    let mn := sc.foldl (fun m x => m.max x.1) t.m
    let a := if t.m = .inf true then Fv.fin false 0 0 else exp32 (t.m.add mn.neg)
    let ws := sc.zipIdx.map (fun x => (expFaithful (f (n + x.2) % 2 == 1) (x.1.1.add mn.neg), x.1.2))
    let sum := fun (z : Fv) (g : Fv → List Fv → Fv) => ws.foldl (fun o w => o.add (g w.1 w.2)) (a.mul z)
    (n + sc.length,
     { m := mn, l := sum t.l (fun w _ => w)
       o := (List.range d).map (fun j => sum (t.o.getD j (.fin false 0 0)) (fun w v => w.mul (v.getD j (.fin false 0 0))))
       mag := (List.range d).map (fun j => sum (t.mag.getD j (.fin false 0 0)) (fun w v => w.mul (v.getD j (.fin false 0 0)).abs))
       count := t.count + sc.length, scaled := t.scaled || (decide (t.count ≠ 0) && t.m != mn) })

/-- The tuple of a tile task (R209): sum and elements rounded once from their compensated pairs. R210 gives each of them 2u, of the sum and of the sum of the element's terms; where a pair
holds the exact value, the sum of at most two weights and the single product, the rounding alone is left (DEDUCED, log 10). -/
def fastTuple (f : Nat → Nat) (n : Nat) (t : FastSum) : Nat × FastSum :=
  let u2 := Fv.fin false 1 (-23)
  (n + 1 + t.o.length,
   { t with
     l := if t.count ≤ 2 ∧ t.scaled = false then rn32 t.l else freeNear (f n) t.l (u2.mul t.l)
     o := (t.o.zip t.mag).zipIdx.map (fun x => if t.count = 1 then rn32 x.1.1 else freeNear (f (n + 1 + x.2)) x.1.1 (u2.mul x.1.2)) })

/-- The tile tasks of a row (R179): the runs of pages formed when the instruction started; a page in none of them is a task of its own. -/
def fastTasks (f : Nat → Nat) (d : Nat) (runs : List (List Nat)) (pages : List (Nat × List (Fv × List Fv))) : List FastSum :=
  let alone := (pages.filter (fun p => !(runs.any (fun r => r.contains p.1)))).map (fun p => [p.1])
  ((runs ++ alone).foldl (fun (acc : Nat × List FastSum) run =>
    let t := (pages.filter (fun p => run.contains p.1)).foldl (fun y p => fastStep f d y.1 y.2 p.2) (acc.1, FastSum.zero d)
    if t.2.count = 0 then (t.1, acc.2)
    else
      let y := fastTuple f t.1 t.2
      (y.1, acc.2 ++ [y.2])) (0, [])).2

/-- The merge of the tile tuples in the device, all at once (R209): products with the correctly rounded factors are added in anchor-0 cells and each sum is rounded once to FP32. -/
def fastMerge (d : Nat) (ts : List FastSum) : MergeRow :=
  let m := ts.foldl (fun m t => m.max t.m) (.inf true)
  let fs := ts.map (fun t => (exp32 (t.m.add m.neg), t))
  { m := Fmt.fp32.write m, l := Cell96.empty, lf := (fs.foldl (fun c x => c.addTerm (x.1.mul x.2.l)) Cell96.empty).convert .fp32, o := []
    of := (List.range d).map (fun j => (fs.foldl (fun c x => c.addTerm (x.1.mul (x.2.o.getD j (.fin false 0 0)))) Cell96.empty).convert .fp32) }

/-- One fast row from the scores of its pages (R182, R187, R209). -/
def fastRow (f : Nat → Nat) (d : Nat) (runs : List (List Nat)) (pages : List (Nat × List (Fv × List Fv))) : MergeRow :=
  let all := pages.flatMap (·.2)
  if all.isEmpty then emptyRow false d
  else if all.any (fun x => !x.1.isFin) then nanRow false d
  else fastMerge d (fastTasks f d runs pages)

/-- Where the queries of a layer lie: dense behind the block a G device sent, else in QUERIES (R146). -/
def layerQueries (a : Att) (r : Running) (q : List Byte) (li : Nat) : List Byte :=
  if r.sub.isSome ∧ 256 < r.blk.length then sliceBytes r.blk (256 + li * a.queryBytes) a.queryBytes
  else sliceBytes q (li * fieldBytes r.blk 48 8) a.queryBytes

/-- Every (layer index, query, head) of an ATTEND in the order of R152. -/
def Att.places (a : Att) : List (Nat × Nat × Nat) :=
  (List.range a.layers).flatMap (fun l => (List.range a.qc).flatMap (fun i => (List.range a.hc).map (fun j => (l, i, j))))

/-- The scores of one place. -/
def placeScores (s : State) (r : Running) (a : Att) (m : Model) (q : List Byte) (lo : Nat) (x : Nat × Nat × Nat) : List (Fv × List Fv) :=
  a.scores m (a.layer0 + x.1) x.2.1 (a.head0 + x.2.2) (a.query (layerQueries a r q x.1) x.2.1 x.2.2)
    (storedRows s r.ent.b m.desc (a.layer0 + x.1) (max lo a.first) (min a.last a.ctx))

/-- The maxima of the positions this device attends (R184). -/
def ownMaxima (s : State) (r : Running) (a : Att) (m : Model) (q : List Byte) (lo : Nat) : List Nat :=
  a.places.map (fun x => maxScore (placeScores s r a m q lo x))

/-- What names the free values of a fast row (R181): its object, layer, head and position, and the division into tile tasks; not the other heads of its instruction. -/
def rowKey (r : Running) (layer h pos : Nat) : List Nat := [1, r.ent.b, layer, h, pos] ++ r.runs.flatMap (fun l => l.length :: l)

/-- The fast rows of one layer. -/
def fastLayer (s : State) (r : Running) (a : Att) (m : Model) (q : List Byte) (lo l : Nat) : List MergeRow :=
  let layer := a.layer0 + l
  let pages := storedPages s r.ent.b m.desc layer (max lo a.first) (min a.last a.ctx)
  let heads := (List.range a.hc).map (fun j => headPages r.ent.b m a.alg layer (a.head0 + j) pages)
  (a.places.filter (fun x => x.1 == l)).map (fun x =>
    let query := a.query (layerQueries a r q l) x.2.1 x.2.2
    fastRow (Config.fastNat (rowKey r layer (a.head0 + x.2.2) (a.ctx - a.qc + x.2.1))) a.d r.runs
      ((heads.getD x.2.2 []).map (fun p => (p.1, a.pageScores m.desc.window x.2.1 query p))))

/-- The rows of the positions this device attends: deterministic against given maxima, or fast. -/
def ownRows (s : State) (r : Running) (a : Att) (m : Model) (q : List Byte) (lo : Nat) (gmax : List Nat) : List MergeRow :=
  if a.det then a.places.zipIdx.map (fun x => detRow a.d (gmax.getD x.2 negInf32) (placeScores s r a m q lo x.1))
  else (List.range a.layers).flatMap (fastLayer s r a m q lo)

/-- A normalised element row (R186, R207, R209). -/
def normalRow (det : Bool) (f : Fmt) (x : MergeRow) : List Byte :=
  let w := f.width / 8
  if isNanRow det x then (List.replicate (if det then x.o.length else x.of.length) f.canonNaN).flatMap (leBytes w)
  else if det then x.o.flatMap (fun o => leBytes w (Cell96.quot f o x.l))
  else x.of.flatMap (fun o => leBytes w (f.write (div32 (Fmt.fp32.read o) (Fmt.fp32.read x.lf))))

/-- Layer stride of GMAX (R152). -/
def Att.gmaxStride (a : Att) : Nat := ceilDiv (a.rows * 4) 64 * 64

/-- Layer stride of the wide or fast tuples in an internal merge buffer. -/
def Att.bufStride (a : Att) : Nat := ceilDiv (a.rows * (if a.det then a.d * 16 + 32 else a.d * 4 + 8)) 64 * 64

/-- Pieces of one layer each, at a stride. -/
def layerPieces (a : Att) (stride : Nat) (rows : List MergeRow) (f : List MergeRow → List Byte) : List (Nat × List Byte) :=
  (List.range a.layers).map (fun l => (l * stride, f ((rows.drop (l * a.rows)).take a.rows)))

/-- Head groups of eight in head order, the last of what is left (R192): the first head of each and how many it has. -/
def Att.groups (a : Att) : List (Nat × Nat) := (List.range (ceilDiv a.hc 8)).map (fun g => (8 * g, min 8 (a.hc - 8 * g)))

/-- The pieces of one head group: for each query its rows of `w` bytes each in a block that begins at `base`. -/
def groupRows (a : Att) (base w : Nat) (rows : List MergeRow) (f : MergeRow → List Byte) (g : Nat × Nat) : List (Nat × List Byte) :=
  (List.range a.qc).map (fun i => (base + (i * a.hc + g.1) * w, ((rows.drop (i * a.hc + g.1)).take g.2).flatMap f))

/-- The rows of an ATTEND, layer by layer and in each head group by head group (R192): elements of `w` bytes a row, and statistics of `st` bytes a row behind them where there are any. -/
def groupPieces (a : Att) (stride w st : Nat) (rows : List MergeRow) (f stats : MergeRow → List Byte) : List (Nat × List Byte) :=
  (List.range a.layers).flatMap (fun l =>
    let mine := (rows.drop (l * a.rows)).take a.rows
    a.groups.flatMap (fun g =>
      groupRows a (l * stride) w mine f g ++ (if st = 0 then [] else groupRows a (l * stride + a.rows * w) st mine stats g)))

/-- Deliver the outcome of an ATTEND (R151, R152, R192): maxima, normalised rows, a tuple, or a tuple merged into OUT. A merged tuple goes as one stream a layer, query-major and then head,
which R437 gives a REDUCE message; a row is applied as its last byte comes. -/
def attOutput (s : State) (r : Running) (a : Att) (rows : List MergeRow) : State :=
  if a.phase = 1 then
    let ps := layerPieces a a.gmaxStride rows (fun l => l.flatMap (fun x => leBytes 4 x.m))
    emit s r [{ buf := bufAt r.blk 80, how := if a.om = 1 then .write else .red { op := 1, fmt := 1, det := false, rowsPer := 0, d := 0 }, pieces := ps }]
  else
    let stride := fieldBytes r.blk 56 8
    let out := bufAt r.blk 64
    if a.om = 0 then emit s r [{ buf := out, how := .write, pieces := groupPieces a stride (a.d * (a.ofmt.width / 8)) 0 rows (normalRow a.det a.ofmt) (rowStats a.det) }]
    else if a.om = 1 then
      emit s r [{ buf := out, how := .write
                  pieces := groupPieces a stride (a.d * (if a.det then 16 else 4)) (if a.det then 32 else 8) rows (rowElemsBytes a.det) (rowStats a.det) }]
    else
      emit s r [{ buf := out, how := .red { op := 4, fmt := 1, det := a.det, rowsPer := a.rows, d := a.d }
                  pieces := layerPieces a stride rows (tupleBytes a.det) }]

/-- Rows that hold only maxima (R184). -/
def maxRows (a : Att) (ms : List Nat) : List MergeRow := ms.map (fun m => { emptyRow a.det a.d with m := m })

/-! ### The split across holders -/

/-- The key of an ATTEND's internal merge buffer or GMAX: index 0, which REGISTER never issues. -/
def splitKey (instr : Nat) : Nat := (instr % 65535 + 1) * 65536

/-- The holders whose shards meet the range of a G-side ATTEND (R33, R149), with the positions each attends. -/
def holderParts (a : Att) (prefixLen : Nat) (map : ShardMap) : List HolderPart :=
  map.holders.zipIdx.filterMap (fun x =>
    let lo := max a.first (x.2 * map.shardBlocks * 64)
    let hi := min (min a.last prefixLen) ((x.2 + 1) * map.shardBlocks * 64)
    if lo < hi then some { device := x.1, shard := x.2, first := lo, count := hi - lo, answered := false } else none)

/-- Bytes with others put over them from an offset. -/
def setBytes (bs : List Byte) (off : Nat) (new : List Byte) : List Byte := bs.take off ++ new ++ bs.drop (off + new.length)

/-- A buffer reference as bytes (R68). -/
def refBytes (off device key : Nat) : List Byte := leBytes 6 off ++ leBytes 2 device ++ leBytes 4 key ++ leBytes 4 0

/-- The parameter block of a holder ATTEND (R149, R188), with the queries behind it and, for pass 2, the final maxima. -/
def holderBlock (s : State) (r : Running) (a : Att) (q : List Byte) (phase : Nat) (ms : List Nat) (p : HolderPart) : List Byte :=
  let k := splitKey r.id
  let b := setBytes (r.blk.take 256) 7 (leBytes 1 phase ++ leBytes 1 2 ++ leBytes 1 1)
  let b := setBytes b 20 (leBytes 4 p.first ++ leBytes 4 p.count)
  let b := setBytes b 56 (leBytes 8 a.bufStride)
  let b := setBytes b 64 (if phase = 1 then leBytes 16 0 else refBytes 0 (self s) k)
  let b := setBytes b 80 (if phase = 0 then leBytes 16 0 else refBytes 0 (if phase = 1 then self s else p.device) k)
  b ++ (List.range a.layers).flatMap (layerQueries a r q) ++ (if phase = 2 then ms.flatMap (leBytes 4) else [])

/-- The maxima that pass 2 of a holder ATTEND brings along, or that GMAX holds (R145, R188). -/
def phaseTwoMaxima (a : Att) (r : Running) (g : List Byte) : List Nat :=
  let dense := r.sub.isSome && decide (256 < r.blk.length)
  a.places.map (fun x =>
    let k := x.2.1 * a.hc + x.2.2
    if dense then fieldBytes r.blk (256 + a.layers * a.queryBytes + (x.1 * a.rows + k) * 4) 4
    else fieldBytes g (x.1 * a.gmaxStride + k * 4) 4)

/-- Send one holder its ATTEND; a holder that cannot be reached has failed (R153). -/
def sendHolder (r : Running) (node : Handle) (blk : HolderPart → List Byte) (s : State) (p : HolderPart) : State :=
  let e : Entry := { r.ent with b := node, c := 0, counter := 0xFFFF, flags := if r.ent.det then 4 else 0 }
  match sendTo s p.device (dataClass r.ent.prio) node (.submit (r.id + 1) (firmwareQueue + 1) (r.fid / 64) (r.fid % 64) e (blk p)) none with
  | .ok s' => s'
  | .error c => partAnswered s r.id p.device c

/-- Begin a split (R149, R188): the buffer is prepared as empty tuples, this device's own part is in it, and the holder ATTENDs leave. -/
def startSplit (s : State) (r : Running) (a : Att) (q : List Byte) (node : Handle) (parts : List HolderPart) (phase : Nat) (ms : List Nat) (own : List MergeRow) : State :=
  let x : Split := {
    instr := r.id, det := a.det, pass := if phase = 1 then 1 else 2, parts := parts, ownDone := true, rows := own, code := [] }
  let s := { s with tz := { s.tz with splits := s.tz.splits.filter (fun y => !(y.instr == r.id)) ++ [x] } }
  splitFailed (parts.foldl (sendHolder r node (holderBlock s r a q phase ms)) (await s r.id)) r.id

/-- A split whose parts are all answered without a failure delivers its result (R33, R151, R188), unless pass 2 is still to come. -/
def splitDone (s : State) (r : Running) : State :=
  match s.tz.splits.find? (fun x => x.instr == r.id), findModel s r.ent.a with
  | some x, some m =>
    let a := attOf r.ent r.blk m.desc
    if x.ownDone = false ∨ x.parts.all (·.answered) = false ∨ x.code.isEmpty = false ∨ (a.det = true ∧ a.phase = 0 ∧ x.pass = 1) then s
    else attOutput { s with tz := { s.tz with splits := s.tz.splits.filter (fun y => !(y.instr == r.id)) } } r a x.rows
  | _, _ => s

/-! ### The instruction -/

/-- Positions of a layer in a range that this device must hold and does not: a staged page dropped, or a page that cannot be read (R25, R153). -/
def uncovered (s : State) (h : Handle) (layer lo hi : Nat) : Bool :=
  let spans := (objPages s h layer).map (fun x => (x.2, pageEnd s h x))
  (lo :: spans.map (·.2)).any (fun t => decide (lo ≤ t ∧ t < hi) && !(spans.any (fun v => decide (v.1 ≤ t ∧ t < v.2))))

/-- The pages an ATTEND or EXPAND reads are used now (R191). -/
def touchPages (s : State) (r : Running) : State :=
  (walkPages s r.ent r.blk).foldl (fun s p => setPage s { p with lastRead := s.now, lookAt := s.now }) s

/-- The first position this device attends itself (R149): under G the first private one. -/
def ownFirst (s : State) (h : Handle) : Nat :=
  match findCopy s h with
  | some c => if s.pers = some .generation then c.desc.prefixLen else 0
  | none => 0

/-- What an ATTEND or EXPAND finds wrong with its pages (R153): 0, MEM_EXHAUSTED for a staged page dropped, else MEM_UNCORRECTABLE. -/
def pagesCode (s : State) (r : Running) (layers : List Nat) (lo hi : Nat) : Nat :=
  if (walkPages s r.ent r.blk).any (unreadable s) then Code.memUncorrectable
  else if layers.any (fun l => uncovered s r.ent.b l lo hi) then
    (if s.pers = some .prompt then Code.memExhausted else Code.memUncorrectable)
  else 0

/-- The queries of an ATTEND, and GMAX for PHASE 2, as inputs to read. -/
def attInputs (s : State) (r : Running) (a : Att) : List (BufRef × Nat) :=
  if r.sub.isSome ∧ 256 < r.blk.length then []
  else
    [(bufAt r.blk 32, (a.layers - 1) * fieldBytes r.blk 48 8 + a.queryBytes)] ++
    (if a.phase = 2 then [({ bufAt r.blk 80 with device := self s }, (a.layers - 1) * a.gmaxStride + a.rows * 4)] else [])

/-- An ATTEND that this device computes whole (R151, R179, R184 to R186, R189). -/
def attendHere (s : State) (r : Running) (a : Att) (m : Model) (q g : List Byte) : State :=
  let lo := ownFirst s r.ent.b
  if a.phase = 1 then attOutput s r a (maxRows a (ownMaxima s r a m q lo))
  else
    let ms := if a.phase = 2 then phaseTwoMaxima a r g else if a.det then ownMaxima s r a m q lo else []
    attOutput s r a (ownRows s r a m q lo ms)

/-- An ATTEND at a G device whose range has prefix positions (R33, R149, R188). -/
def attendSplit (s : State) (r : Running) (a : Att) (m : Model) (c : SeqCopy) (q g : List Byte) (parts : List HolderPart) : State :=
  let lo := c.desc.prefixLen
  if a.phase = 1 ∨ (a.det = true ∧ a.phase = 0) then
    startSplit s r a q c.desc.pfx parts 1 [] (maxRows a (ownMaxima s r a m q lo))
  else
    let ms := if a.phase = 2 then phaseTwoMaxima a r g else []
    startSplit s r a q c.desc.pfx parts a.phase ms (ownRows s r a m q lo ms)

/-- The shard map of a prefix, asked for where this device has none (R110). -/
def needMap (s : State) (r : Running) (node : Handle) : State :=
  match sendTo s (hHome node) 1 node .shardMapReq (some r.id) with
  | .ok s' => await s' r.id
  | .error c => finish s r.id c

/-- ATTEND (R145 to R153, R173, R175 to R189). Holder ATTENDs are not sent in a firmware pause: the instruction stays as it is and its row runs again. -/
def execAttend (id : Nat) (s : State) : Out :=
  runOp s id (fun e => e.opcode == opAttend) (fun r =>
    match findModel s r.ent.a with
    | none => finish s id Code.tzBadHandle
    | some m =>
      let a := attOf r.ent r.blk m.desc
      if isSwapped s r then swapRefused s id
      else
        let lo := max a.first (ownFirst s r.ent.b)
        let pc := pagesCode s r ((List.range a.layers).map (· + a.layer0)) lo (min a.last a.ctx)
        if pc ≠ 0 then finish s id pc
        else
          match gather s r (attInputs s r a) with
          | .fails s' c => finish s' id c
          | .waits s' => s'
          | .bytes l =>
            let q := l.headD []
            let g := (l.drop 1).headD []
            let s := touchPages s r
            match findCopy s r.ent.b with
            | none => attendHere s r a m q g
            | some c =>
              if s.pers = some .generation ∧ c.desc.pfx ≠ nullHandle ∧ a.first < c.desc.prefixLen then
                match s.rgn.maps.find? (fun x => x.node == c.desc.pfx) with
                | none => needMap s r c.desc.pfx
                | some map => if scheduling s then attendSplit s r a m c q g (holderParts a c.desc.prefixLen map) else s
              else attendHere s r a m q g)

/-- DETERMINISTIC_PASS_TWO_START (R188 step 3, R194), outside a firmware pause: every holder's maxima and the own ones are in; the holders get the final maxima, and this device's own pass 2 is in the buffer. -/
def execDeterministicPassTwoStart (id : Nat) (s : State) : Out :=
  awake s (
    match findRun s id, s.tz.splits.find? (fun x => x.instr == id) with
    | some r, some x =>
      match findModel s r.ent.a, findCopy s r.ent.b with
      | some m, some c =>
        let a := attOf r.ent r.blk m.desc
        if a.det = true ∧ a.phase = 0 ∧ x.pass = 1 ∧ x.ownDone = true ∧ x.parts.all (·.answered) = true ∧ x.code.isEmpty = true ∧ r.phase = .waiting ∧ scheduling s = true then
          match gather s r (attInputs s r a) with
          | .bytes l =>
            let ms := x.rows.map (·.m)
            startSplit s r a (l.headD []) c.desc.pfx (x.parts.map (fun p => { p with answered := false })) 2 ms (ownRows s r a m (l.headD []) c.desc.prefixLen ms)
          | .fails s' code => finish s' id code
          | .waits s' => s'
        else s
      | _, _ => s
    | _, _ => s)

/-- LOOKAHEAD_EXPIRY (R191): a look-ahead copy that no ATTEND used within 100 µs is discarded. -/
def execLookaheadExpiry (page : Nat) (s : State) : Out :=
  alive s (
    match findPage s page with
    | none => s
    | some p =>
      if p.lookahead ∧ p.lookAt + 100 ≤ s.now then dropAhead s [page] else s)

/-! ### AMERGE -/

/-- The rows of one AMERGE input, layer by layer. -/
def mergeInput (det : Bool) (rows d layers stride : Nat) (bs : List Byte) : List MergeRow :=
  let k : RedOp := { op := 4, fmt := 1, det := det, rowsPer := rows, d := d }
  (List.range layers).flatMap (fun l => tupleRows k (sliceBytes bs (l * stride) (rows * (if det then d * 16 + 32 else d * 4 + 8))))

/-- AMERGE (R154, R155; an OUT over another input than the first as log 41 says): inputs merged in index order; in deterministic mode a maximum that differs fails with TZ_FORMAT. -/
def execAmerge (id : Nat) (s : State) : Out :=
  runOp s id (fun e => e.opcode == opAmerge) (fun r =>
    let b := r.blk
    let det := r.ent.det
    let d := fieldBytes b 4 2
    let rows := fieldBytes b 2 1 * fieldBytes b 3 1
    let layers := fieldBytes b 6 1
    let tup := rows * (if det then d * 16 + 32 else d * 4 + 8)
    let inStride := fieldBytes b 16 8
    let outStride := fieldBytes b 24 8
    let refs := (List.range (r.ent.a % 256)).map (fun i => (bufAt b (64 + 16 * i), (layers - 1) * inStride + tup))
    match gather s r refs with
    | .fails s' c => finish s' id c
    | .waits s' => s'
    | .bytes l =>
      let ins := l.map (mergeInput det rows d layers inStride)
      let acc := (ins.drop 1).foldl (fun (acc : List (MergeRow × Bool)) t =>
        (acc.zip t).map (fun x => let y := mergeRow det x.1.1 x.2; (y.1, x.1.2 || y.2))) ((ins.headD []).map (fun x => (x, false)))
      if acc.any (·.2) then finish s id Code.tzFormat
      else
        let out := acc.map (·.1)
        let f := (plainFmt (fieldBytes b 8 1)).getD .fp32
        let layer := fun (x : List MergeRow) => if fieldBytes b 7 1 = 0 then x.flatMap (normalRow det f) else tupleBytes det x
        emit s r [{ buf := bufAt b 32, how := .write, pieces := (List.range layers).map (fun i => (i * outStride, layer ((out.drop (i * rows)).take rows))) }])

/-! ### EXPAND and CONVERT -/

/-- Elements of an expanded vector in the output format (R157, R177, R201). -/
def expandVec (s : State) (m : Model) (f : Fmt) (layer h x0 n : Nat) (latent : List Fv) : State × List Byte :=
  let y := (List.range n).foldl (fun (acc : Nat × List Byte) x =>
    let v := freeDot Config.freeNat acc.1 latent ((List.range m.desc.latent).map (fun c => weightElem m.desc m.weights layer c h (x0 + x))) none
    (v.1, acc.2 ++ leBytes (f.width / 8) (f.write v.2))) (s.free, [])
  ({ s with free := y.1 }, y.2)

/-- Keys or values of one layer (R157): token-major, then head. -/
def expandLayer (s : State) (m : Model) (f : Fmt) (keys : Bool) (layer head0 hc : Nat) (rows : List (Nat × List Fv)) : State × List Byte :=
  rows.foldl (fun acc x =>
    (List.range hc).foldl (fun acc j =>
      let lat := x.2.take m.desc.latent
      let v := expandVec acc.1 m f layer (head0 + j) (if keys then 0 else m.desc.keyWidth) (if keys then m.desc.keyWidth else m.desc.valueWidth) lat
      let rot := if keys then (x.2.drop m.desc.latent).flatMap (fun y => leBytes (f.width / 8) (f.write (rn32 y))) else []
      (v.1, acc.2 ++ v.2 ++ rot)) acc) (s, [])

/-- One buffer of EXPAND, layer by layer at its stride. -/
def expandBuf (s : State) (r : Running) (m : Model) (keys : Bool) : State × List (Nat × List Byte) :=
  let b := r.blk
  let f := (plainFmt r.ent.format).getD .bf16
  let hc := if fieldBytes b 5 1 = 0 then m.desc.heads - fieldBytes b 4 1 else fieldBytes b 5 1
  let stride := fieldBytes b (if keys then 48 else 56) 8
  (List.range (fieldBytes b 3 1)).foldl (fun acc i =>
    let layer := fieldBytes b 2 1 + i
    let rows := storedRows acc.1 r.ent.b m.desc layer (fieldBytes b 8 3) (fieldBytes b 8 3 + fieldBytes b 12 4)
    let y := expandLayer acc.1 m f keys layer (fieldBytes b 4 1) hc rows
    (y.1, acc.2 ++ [(i * stride, y.2)])) (s, [])

/-- EXPAND (R156, R157). -/
def execExpand (id : Nat) (s : State) : Out :=
  runOp s id (fun e => e.opcode == opExpand) (fun r =>
    match findModel s r.ent.a with
    | none => finish s id Code.tzBadHandle
    | some m =>
      if isSwapped s r then swapRefused s id
      else
        let b := r.blk
        let pc := pagesCode s r ((List.range (fieldBytes b 3 1)).map (· + fieldBytes b 2 1)) (fieldBytes b 8 3) (fieldBytes b 8 3 + fieldBytes b 12 4)
        if pc ≠ 0 then finish s id pc
        else
          let s := touchPages s r
          let k := if r.ent.flag 4 then expandBuf s r m true else (s, [])
          let v := if r.ent.flag 5 then expandBuf k.1 r m false else (k.1, [])
          emit v.1 r ((if r.ent.flag 4 then [{ buf := bufAt b 16, how := .write, pieces := k.2 }] else []) ++
            (if r.ent.flag 5 then [{ buf := bufAt b 32, how := .write, pieces := v.2 }] else [])))

/-- CONVERT in row form (R158). -/
def execConvertRow (id : Nat) (s : State) : Out :=
  runOp s id (fun e => e.opcode == opConvert && e.flag 4) (fun r =>
    if isSwapped s r then swapRefused s id
    else
      match findModel s r.ent.a with
      | none => finish s id Code.tzBadHandle
      | some m =>
        match sourceRows s r m.desc with
        | .error c => finish (keyRefused s c) id c
        | .ok rows => writePrivate s r m.desc rows)

/-- Stored bytes of `n` elements in a format (R88, R196). -/
def formatBytes (fmt n : Nat) : Nat :=
  match plainFmt fmt, mxElem fmt with
  | some f, _ => n * (f.width / 8)
  | none, some f => mxRowBytes f n
  | none, none => 0

/-- CONVERT in buffer form (R159, R198, R199): the source is taken to FP32 first. A DEST over SOURCE, which R159 leaves undefined, gets what it would get elsewhere (DESIGN CHOICE, log 41). -/
def execConvertBuffer (id : Nat) (s : State) : Out :=
  runOp s id (fun e => e.opcode == opConvert && !e.flag 4) (fun r =>
    let b := r.blk
    let n := r.ent.a
    let src := fieldBytes b 2 1
    let wide := r.ent.flag 5
    match gather s r [(bufAt b 16, if wide then 16 * n else formatBytes src n)] with
    | .fails s' c => finish s' id c
    | .waits s' => s'
    | .bytes l =>
      let bs := l.headD []
      let vs := if wide then (List.range n).map (fun i => (Cell96.ofBytes (sliceBytes bs (16 * i) 16)).value)
        else match plainFmt src, mxElem src with
          | some f, _ => loadPlain f n bs
          | none, some f => mxLoad32 f n bs
          | none, none => []
      let out := match plainFmt r.ent.format, mxElem r.ent.format with
        | some f, _ => storePlain f vs
        | none, some f => mxStore f vs
        | none, none => []
      emit s r [{ buf := bufAt b 32, how := .write, pieces := [(0, out)] }])

/-! ### GEMM and VOP -/

/-- The anchor of GEMM's cells (R206). -/
def gemmAnchor (f : Fmt) : Int := match f with | .e4m3 => 16 | .e5m2 => 32 | _ => 40

/-- One element of GEMM (R160, R201): deterministic through a wide cell; fast as FP32 sums in an order that the tiling chooses. -/
def gemmElem (s : State) (det : Bool) (f out : Fmt) (as bs : List Fv) (c : Option Fv) : State × Nat :=
  if det then
    let cell : Cell96 := { Cell96.empty with anchor := gemmAnchor f }
    let cell := (as.zip bs).foldl (fun a x => a.addTerm (x.1.mul x.2)) cell
    let cell := match c with | some v => cell.addTerm v | none => cell
    (s, cell.convert out)
  else
    let y := freeDot Config.freeNat s.free as bs c
    ({ s with free := y.1 }, out.write y.2)

/-- GEMM (R160). A D over A or B, which R160 leaves undefined, gets what it would get elsewhere (DESIGN CHOICE, log 41). -/
def execGemm (id : Nat) (s : State) : Out :=
  runOp s id (fun e => e.opcode == opGemm) (fun r =>
    let b := r.blk
    let f := (plainFmt r.ent.format).getD .bf16
    let out := (plainFmt (fieldBytes b 2 1)).getD .fp32
    let w := f.width / 8
    let ow := out.width / 8
    let m := fieldBytes b 8 4
    let n := fieldBytes b 12 4
    let k := fieldBytes b 16 4
    let lda := fieldBytes b 20 4
    let ldb := fieldBytes b 24 4
    let ldd := fieldBytes b 28 4
    let acc := r.ent.flag 4
    let refs := [(bufAt b 32, ((m - 1) * lda + k) * w), (bufAt b 48, ((k - 1) * ldb + n) * w)] ++
      (if acc then [(bufAt b 64, ((m - 1) * ldd + n) * ow)] else [])
    match gather s r refs with
    | .fails s' c => finish s' id c
    | .waits s' => s'
    | .bytes l =>
      let av := l.headD []
      let bv := (l.drop 1).headD []
      let cv := (l.drop 2).headD []
      let elem := fun (bs : List Byte) (g : Fmt) (i : Nat) => g.read (fieldBytes bs (i * (g.width / 8)) (g.width / 8))
      let row := fun (s : State) (i : Nat) =>
        let as := (List.range k).map (fun x => fp8Flush f (elem av f (i * lda + x)))
        (List.range n).foldl (fun (acc2 : State × List Byte) j =>
          let bs := (List.range k).map (fun x => fp8Flush f (elem bv f (x * ldb + j)))
          let y := gemmElem acc2.1 r.ent.det f out as bs (if acc then some (elem cv out (i * ldd + j)) else none)
          (y.1, acc2.2 ++ leBytes ow y.2)) (s, [])
      let res := (List.range m).foldl (fun (acc2 : State × List (Nat × List Byte)) i =>
        let y := row acc2.1 i
        (y.1, acc2.2 ++ [(i * ldd * ow, y.2)])) (s, [])
      emit res.1 r [{ buf := bufAt b 80, how := .write, pieces := res.2 }])

/-- Elementwise operations of VOP on one element (R161): arithmetic in FP32. The exponential is faithful: which neighbour it takes is free (R202). R161 does not say what a maximum or
minimum of a NaN is, nor the sign of a zero: a NaN gives NaN, of two zeros the first is taken, and a sum that is zero is −0 only where both terms are (DESIGN CHOICE, log 41). -/
def vopElem (op : Nat) (imm a b : Fv) (up mask : Bool) : Fv :=
  match op with
  | 0 => rn32 (a.add b)
  | 1 => rn32 (a.mul b)
  | 2 => rn32 (a.mul imm)
  | 3 => a.max b
  | 4 => a.min b
  | 5 => expFaithful up a
  | _ => if mask then a else imm

/-- The rotary pairs of VOP (R161). -/
def rotary : List Fv → List Fv → List Fv
  | a0 :: a1 :: as, c :: sn :: bs =>
    rn32 ((rn32 (a0.mul c)).add (rn32 (a1.mul sn)).neg) :: rn32 ((rn32 (a0.mul sn)).add (rn32 (a1.mul c))) :: rotary as bs
  | _, _ => []

/-- The results of VOP (R161); maxima and zeros of a row as for one element (log 41). -/
def vopVals (op w free : Nat) (imm : Fv) (as : List Fv) (bs : List Fv) (mask : List Byte) : List Fv :=
  if op = 6 then rotary as bs
  else if op = 8 then (chunks w (as.length / max 1 w) as).map (fun l => (l.drop 1).foldl Fv.max (l.headD .nan))
  else if op = 9 then (chunks w (as.length / max 1 w) as).map (fun l => (l.drop 1).foldl (fun x y => rn32 (x.add y)) (l.headD .nan))
  else as.zipIdx.map (fun x =>
    vopElem op imm x.1 (bs.getD x.2 (.fin false 0 0)) (Config.freeBool (free + x.2)) (natBit (fieldBytes mask (x.2 / 8) 1) (x.2 % 8)))

/-- VOP (R161). -/
def execVop (id : Nat) (s : State) : Out :=
  runOp s id (fun e => e.opcode == opVop) (fun r =>
    let b := r.blk
    let op := r.ent.op74
    let n := r.ent.a
    let f := (plainFmt r.ent.format).getD .fp32
    let w := f.width / 8
    let bBytes := if op = 7 then ceilDiv n 8 else n * w
    let useB := [0, 1, 3, 4, 6, 7].contains op
    match gather s r ([(bufAt b 16, n * w)] ++ (if useB then [(bufAt b 32, bBytes)] else [])) with
    | .fails s' c => finish s' id c
    | .waits s' => s'
    | .bytes l =>
      let as := loadPlain f n (l.headD [])
      let second := (l.drop 1).headD []
      let bs := if useB && op != 7 then loadPlain f n second else []
      let out := vopVals op (fieldBytes b 4 4) s.free (Fmt.fp32.read (fieldBytes b 8 4)) as bs second
      emit { s with free := s.free + n } r [{ buf := bufAt b 48, how := .write, pieces := [(0, storePlain f out)] }])

end Sys2Proof.Machine
end

