-- ==== Sys2Proof/Machine/Transfers.lean ====
section
/-!
DEFINITION. Transfers (spec chapters 04, 05 and 15; R79, R137 to R141, R162 to R164, R434 to R442): RWRITE, RREAD, RREDUCE and MCAST, the data packets that arrive, remote submissions,
their completions and remote signals.
-/

namespace Sys2Proof.Machine

open Sys2Proof

/-! ### The instructions -/

/-- RWRITE (R137 to R139): SOURCE is checked first; the bytes go as one message, or within the device. -/
def execRwrite (id : Nat) (s : State) : Out :=
  runOp s id (fun e => e.opcode == opRwrite) (fun r =>
    match bufRead s (bufAt r.blk 16) 0 r.ent.a rRead with
    | .error c => finish (keyRefused s c) id c
    | .ok bs => emit s r [{ buf := bufAt r.blk 32, how := .write, pieces := [(0, bs)] }])

/-- The units of a combinable RREAD (R444): the parts of its range that lie in one aligned 4,096-byte block. -/
def combUnits (off len : Nat) : List (Nat × Nat) :=
  (pagesOf off len).map (fun p =>
    let lo := max off (p * 4096)
    (lo, min (off + len) ((p + 1) * 4096) - lo))

/-- RREAD (R137 to R139, R444): DEST is checked first. -/
def execRread (id : Nat) (s : State) : Out :=
  runOp s id (fun e => e.opcode == opRread) (fun r =>
    let src := bufAt r.blk 16
    let dst := bufAt r.blk 32
    let w := writerOf s r
    let c := resultCode s w { buf := dst, how := .write, pieces := [(0, List.replicate r.ent.a 0)] }
    if c ≠ 0 then finish (keyRefused s c) id c
    else if src.device = self s then
      match bufRead s src 0 r.ent.a rRead with
      | .error c => finish (keyRefused s c) id c
      | .ok bs => emit (unitsUp s (keyIndex src.key) src.offset r.ent.a) r [{ buf := dst, how := .write, pieces := [(0, bs)] }]
    else
      let parts := if r.ent.combinable then combUnits src.offset r.ent.a else [(src.offset, r.ent.a)]
      let x := parts.foldl (fun (acc : State × Nat) u =>
        if acc.2 ≠ 0 then acc
        else
          match sendRead acc.1 src.device (dataClass r.ent.prio) 0 src.key u.1 u.2 r.ent.combinable (.buffer id dst.key (dst.offset + (u.1 - src.offset))) with
          | .ok s' => (keyEnter s' (keyIndex dst.key), 0)
          | .error c => (acc.1, c)) (s, 0)
      if x.2 ≠ 0 then finish x.1 id x.2
      else pumpComb (modRun (await x.1 id) (fun q => q.id == id) (fun q => { q with aux := parts.length })) id)

/-- The reduction a RREDUCE asks for (R162). -/
def reduceOf (e : Entry) : RedOp := { op := e.op74, fmt := e.format, det := e.det, rowsPer := e.b % 2 ^ 32, d := e.b / 2 ^ 32 % 256 * 32 }

/-- An integer add with fetch whose DEST is on another device (R439, R445): the fetch is a read that the destination answers. -/
def sendFetch (s : State) (r : Running) (w : Writer) (bs : List Byte) : State :=
  let dst := bufAt r.blk 32
  let fet := bufAt r.blk 48
  let f := s.nextRead
  let cls := dataClass r.ent.prio
  let words := (List.range (bs.length / 8)).map (fun i => fieldBytes bs (8 * i) 8)
  let x : ReadWait := {
    id := f, dst := dst.device, subject := 0, cls := cls, key := dst.key, off := dst.offset, len := bs.length, comb := r.ent.combinable, tries := 0, due := 0
    what := .buffer r.id fet.key fet.offset, adds := if r.ent.combinable then words else [], got := [] }
  let s1 := keyEnter { s with reads := s.reads ++ [x], nextRead := f + 1 } (keyIndex fet.key)
  if r.ent.combinable then
    match address s dst.device cls with
    | .error c => finish s r.id c
    | .ok _ => pumpComb (modRun (await s1 r.id) (fun q => q.id == r.id) (fun q => { q with aux := 1 })) r.id
  else
    match sendTo s1 dst.device cls 0 (.reduce dst.key dst.offset 3 r.ent.format false (some f) 0 0 w.port w.fn bs) (some r.id) with
    | .error c => finish s r.id c
    | .ok s' => modRun (await s' r.id) (fun q => q.id == r.id) (fun q => { q with aux := 2 })

/-- RREDUCE (R162 to R164, R435, R439, R445). -/
def execRreduce (id : Nat) (s : State) : Out :=
  runOp s id (fun e => e.opcode == opRreduce) (fun r =>
    let k := reduceOf r.ent
    let dst := bufAt r.blk 32
    let fet := bufAt r.blk 48
    let w := writerOf s r
    match bufRead s (bufAt r.blk 16) 0 r.ent.a rRead with
    | .error c => finish (keyRefused s c) id c
    | .ok bs =>
      if k.op ≠ 3 then emit s r [{ buf := dst, how := .red k, pieces := [(0, bs)] }]
      else
        let fc := resultCode s w { buf := fet, how := .write, pieces := [(0, bs)] }
        if fc ≠ 0 then finish (keyRefused s fc) id fc
        else if dst.device = self s then
          let c := resultCode s w { buf := dst, how := .red k, pieces := [(0, bs)] }
          if c ≠ 0 then finish (keyRefused s c) id c
          else
            let old := peek s (keyIndex dst.key) w dst.offset bs.length
            let s1 := (reduceAll s (keyIndex dst.key) w dst.offset k bs).1
            finish (regionWrite s1 (keyIndex fet.key) w fet.offset old) id 0
        else sendFetch s r w bs)

/-- The members of an MCAST (R140), each with its place, device and key. -/
def mcastMembers (b : List Byte) : List (Nat × Nat × Nat) :=
  (List.range (fieldBytes b 2 1)).map (fun i => (i, fieldBytes b (64 + 8 * i) 2, fieldBytes b (68 + 8 * i) 4))

/-- Send one member its OPEN (R441); a member that cannot be reached, and this device itself, are settled at once. -/
def openMember (r : Running) (w : Writer) (g psn : Nat) (bs : List Byte) (acc : State × List McastMember) (x : Nat × Nat × Nat) : State × List McastMember :=
  let off := fieldBytes r.blk 32 6
  if x.2.1 = self acc.1 then
    let m : McastMember := { place := x.1, device := x.2.1, opened := true, code := 0, upto := 0, acked := false }
    match bufWrite acc.1 { offset := off, device := x.2.1, key := x.2.2, reserved := 0 } 0 bs rWrite w with
    | .ok s' => (s', acc.2 ++ [{ m with acked := true }])
    | .error c => (keyRefused acc.1 c, acc.2 ++ [{ m with code := c }])
  else
    let y := sendOpen acc.1 x.1 x.2.1 (dataClass r.ent.prio) 0 (.mcastOpen g psn x.2.2 off bs.length w.port w.fn) r.id
    (y.1, acc.2 ++ [y.2])

/-- A device that a composition's map shows to be outside a group (R141, R442, R479): the group is the ingest group of another member, which is that member and its mirror. Of other
groups this device knows the number of members only (log 20). -/
def outsideGroup (s : State) (g device : Nat) : Bool :=
  s.comps.any (fun m => m.map.members.any (fun x => x.ingestGroup == g && x.device != device && x.partner != device) &&
    !(m.map.members.any (fun x => x.ingestGroup == g && (x.device == device || x.partner == device))))

/-- MCAST (R140, R141, R440 to R442): an unknown group, or a member that shares no composition or goes beyond the group's members, ends it before anything is sent. -/
def execMcast (id : Nat) (s : State) : Out :=
  runOp s id (fun e => e.opcode == opMcast) (fun r =>
    let g := r.ent.b % 2 ^ 16
    let ms := mcastMembers r.blk
    if 4096 ≤ g ∨ bitOf (groupEntry s g) 0 = false ∨ fieldOf (groupEntry s g) 14 8 < ms.length ∨
        ms.any (fun x => x.2.1 != self s && ((commonComp s x.2.1).isNone || outsideGroup s g x.2.1)) then finish s id Code.cmpNotMember
    else
      match bufRead s (bufAt r.blk 16) 0 r.ent.a rRead with
      | .error c => finish (keyRefused s c) id c
      | .ok bs =>
        let n := takePsn s g (packetsOf (.mcastData g 0 bs))
        let x := ms.foldl (openMember r (writerOf s r) g n.1 bs) (await n.2 id, [])
        let m : McastSend := {
          instr := id, group := g, subject := 0, cls := dataClass r.ent.prio, inc := fieldOf (groupEntry s g) 31 24, psn := n.1, bytes := bs, members := x.2, data := false, cut := 0, due := 0, rto := rtoOf x.1, tries := 1, tryAt := 0 }
        mcastGo { x.1 with fab := { x.1.fab with mcasts := x.1.fab.mcasts ++ [m] } } g n.1)

/-! ### Messages that arrive -/

/-- The check of a remote message's key (R127, R371, R487): one that was redirected names a key of another device. -/
def remoteCheck (s : State) (h : Hdr) (key off len right : Nat) : Nat :=
  if h.redirected then Code.keyInvalid else keyCheck s key off len right (some h.comp)

/-- The split whose internal buffer a key names. -/
def splitOf (s : State) (key : Nat) : Option Split :=
  if keyIndex key = 0 ∧ key ≠ 0 then s.tz.splits.find? (fun x => splitKey x.instr == key) else none

/-- The check of a first packet that writes (R403, step 9): epoch, then key, with an internal buffer open to the holders of its split. -/
def writeCheck (s : State) (h : Hdr) (key off len right : Nat) : Nat :=
  let c := epochCheck s h
  if c ≠ 0 then c
  else
    match splitOf s key with
    | some x => if x.parts.any (fun p => p.device == h.src) then 0 else Code.keyRights
    | none => remoteCheck s h key off len right

/-- The writer a message acts for (R374). -/
def msgWriter (h : Hdr) (port fn : Nat) : Writer := { device := h.src, port := port, fn := fn }

/-- Change the arriving messages of the queue pair a frame came on. -/
def modRx (s : State) (h : Hdr) (f : List RxMsg → List RxMsg) : State :=
  modQp s (fun q => q.peer == h.src && q.num == h.qp) (fun q => { q with rx := f q.rx })

/-- The arriving message that a packet continues (R434): same OP, KEY and MSG_LEN, and its next OFFSET. -/
def rxOf (s : State) (h : Hdr) (op : Nat) (p : Packet) : Option RxMsg :=
  (qpOf s h).bind (fun q => q.rx.find? (fun m => m.op == op && m.key == p.key && m.len == p.msgLen && m.next == p.off))

/-- What a packet of a write stores at once, and what waits for the rest of its last 64-byte sector (R96): nothing waits at the end of a message. -/
def sectorCut (start : Nat) (bs : List Byte) (last : Bool) : List Byte × List Byte :=
  let n := if last then bs.length else bs.length - (start + bs.length) % 64
  (bs.take n, bs.drop n)

/-- The end of a packet's handling (R424, R425): acknowledged, and with LAST the message is over. -/
def packetEnd (s : State) (h : Hdr) (p : Packet) (m : RxMsg) : State :=
  if p.last then
    let s := if m.refused ∨ m.index = 0 then s else leaveMsg s m.index (msgWriter h m.port m.fn)
    ackLast s h m.code
  else ackDue (modRx s h (fun l => l ++ [{ m with next := p.off + 4096, lastAt := s.now }])) h p.ackReq

/-- A packet of a WRITE or REDUCE message (R403 steps 6 to 10, R425): `right` and `span` give the check of a first packet, `apply` what its bytes do. -/
def packetIn (s : State) (h : Hdr) (op right : Nat) (p : Packet) (span : Nat) (apply : State → RxMsg → State × RxMsg) : State :=
  let a := arrive s h
  if a.2 = false then a.1
  else
    let s := a.1
    let w := msgWriter h p.port p.fn
    if p.first then
      let c := writeCheck s h p.key p.off span right
      let i := keyIndex p.key
      if c = 0 ∧ i ≠ 0 ∧ (getK s i).drafted = true ∧ unitsOk s (getK s i) w p.off span = false then refuseRnr s h
      else
        let m : RxMsg := { op := op, key := p.key, first := p.off, len := p.msgLen, next := p.off, code := c, refused := c != 0, index := i, port := p.port, fn := p.fn, part := [], lastAt := s.now }
        if c ≠ 0 then packetEnd (keyRefused s c) h p m
        else
          let x := apply (if i = 0 then s else enterMsg s i w p.off span) m
          packetEnd x.1 h p x.2
    else
      match rxOf s h op p with
      | none => if p.last then ackLast s h Code.xptRetryExceeded else ackDue s h p.ackReq
      | some m =>
        let s := modRx s h (fun l => l.erase m)
        if m.refused then packetEnd s h p m
        else
          let x := apply s m
          packetEnd x.1 h p x.2

/-- The NAK or ACK of a member for a group stream (R441), the ACK with a code. -/
def groupAck (s : State) (x : McastRx) (nak : Bool) (code : Nat) : State :=
  { s with fab := { s.fab with
    frames := s.fab.frames ++ [if nak then .nak x.src (0x8000 + x.group) x.inc x.next 1 else .ack x.src (0x8000 + x.group) x.inc ((x.next + 2 ^ 24 - 1) % 2 ^ 24) code]
    nakSeq := if nak then satAdd 0xFFFF s.fab.nakSeq 1 else s.fab.nakSeq } }

/-- An ingest multicast opens at a draft node, or is over (R378): the draft is held meanwhile and renewed at the end. -/
def holdDraft (s : State) (node : Handle) (taken : Bool) : State :=
  let f : DraftNode → DraftNode := fun d =>
    if taken then { d with holds := d.holds + 1 } else { d with holds := d.holds - 1, renewed := s.now, term := leaseTerm s }
  { s with rgn := { s.rgn with drafts := mapIf (fun d => d.handle == node) f s.rgn.drafts } }

/-- The layer and first position that the place of an ingest multicast names, and how many rows its bytes are (log 16). -/
def ingestPlace (m : ModelRec) (off len : Nat) : Nat × Nat × Nat := (off / 2 ^ 32, off % 2 ^ 32, len / max 1 (rowBytes m))

/-- The check of an ingest OPEN (R27, R116, R117; DESIGN CHOICE, logs 16 and 20): the draft is there and reserved by the sender at its owner, or its descriptor is here at the mirror; the
rows lie in one page of a layer of the descriptor. -/
def ingestCheck (s : State) (h : Hdr) (node : Handle) (off len : Nat) : Nat :=
  let ended := ((s.rgn.endedDrafts.find? (fun x => x.1 == node)).map (·.2)).getD Code.pubDraftDiscarded
  let known : Bool := if hHome node = self s then s.rgn.drafts.any (fun d => d.handle == node && d.reserver == h.src) else (findHold s node).isSome
  if known = false then (if hHome node = self s then ended else Code.tzBadHandle)
  else
    match boundModel s node with
    | none => Code.tzBadHandle
    | some m =>
      let x := ingestPlace m.desc off len
      if x.1 < m.desc.layers ∧ len = x.2.2 * rowBytes m.desc ∧ x.2.1 % perPage m.desc + x.2.2 ≤ perPage m.desc then 0 else Code.tzFormat

/-- The rows of a whole ingest multicast are stored in the draft (R27, R116): MEM_EXHAUSTED where no frame is free. -/
def ingestLand (s : State) (x : McastRx) (bs : List Byte) : State × Nat :=
  match boundModel s x.subject with
  | none => (s, Code.tzBadHandle)
  | some m =>
    let y := ingestPlace m.desc x.off x.len
    let kind : PageKind := if s.rgn.drafts.any (fun d => d.handle == x.subject) then .draft else .shard
    storeNodePage s x.subject kind m.desc y.1 (y.2.1 / perPage m.desc) (y.2.1 % perPage m.desc) bs

/-- A packet of a group stream at a member (R96, R441): written at the member's own offset under go-back-N over the group; of an ingest multicast, the rows are stored when all are here. -/
def groupPacket (s : State) (h : Hdr) (p : Packet) : State :=
  let g := h.qp - 0x8000
  let mine : McastRx → Bool := fun x => x.src == h.src && x.group == g &&
    decide ((h.psn + 2 ^ 24 - x.psn) % 2 ^ 24 < max 1 (ceilDiv x.len 4096))
  match s.fab.mrx.find? mine with
  | none => { s with fab := { s.fab with discards := s.fab.discards + 1 } }
  | some x =>
    if x.inc ≠ 256 ∧ x.inc ≠ h.inc then { s with fab := { s.fab with discards := s.fab.discards + 1 } }
    else
      let x := { x with inc := h.inc }
      let d := (h.psn + 2 ^ 24 - x.next) % 2 ^ 24
      if d = 0 then
        let off := (h.psn + 2 ^ 24 - x.psn) % 2 ^ 24 * 4096
        let i := keyIndex x.key
        let w := msgWriter h x.port x.fn
        let last : Bool := decide (x.len ≤ off + 4096)
        let start := x.off + off - x.part.length
        let all := x.part ++ p.bytes
        let cut := if x.subject = 0 then sectorCut start all last else if last then (all, []) else ([], all)
        let y := if x.subject = 0 then (regionWrite s i w start cut.1, 0) else if last then ingestLand s x cut.1 else (s, 0)
        let x' := { x with next := (h.psn + 1) % 2 ^ 24, lastAt := s.now, part := cut.2 }
        let s := { y.1 with fab := { y.1.fab with mrx := y.1.fab.mrx.filter (fun y => !(mine y)) ++ [x'] } }
        if last then groupAck (if x.subject = 0 then leaveMsg s i w else holdDraft s x.subject false) x' false y.2
        else if p.ackReq then groupAck s x' false 0
        else s
      else if d < 4096 then groupAck s x true 0
      else groupAck { s with fab := { s.fab with duplicates := wrapAdd 32 s.fab.duplicates 1 } } x false 0

/-- WRITE (R96, R138, R371, R403, R423 to R425, R441): the payload lands at its OFFSET, whole sectors at a time, in the writer's draft where the region is DRAFTED. -/
def execWrite (h : Hdr) (p : Packet) (s : State) : Out :=
  alive s (
    if 0x8000 ≤ h.qp then groupPacket s h p
    else
      packetIn s h 1 rWrite p p.msgLen (fun s m =>
        if m.index = 0 then (s, { m with code := Code.keyInvalid, refused := true })
        else
          let start := p.off - m.part.length
          let x := sectorCut start (m.part ++ p.bytes) p.last
          (regionWrite s m.index (msgWriter h m.port m.fn) start x.1, { m with part := x.2 })))

/-- Merge wire rows into a split's buffer, or take maxima into its GMAX (R184, R188). -/
def splitReduce (s : State) (x : Split) (red : RedSpec) (row0 : Nat) (bs : List Byte) : State × Bool :=
  let put := fun (i : Nat) (f : MergeRow → MergeRow × Bool) (rows : List MergeRow) =>
    (rows.zipIdx.map (fun y => if y.2 = i then (f y.1).1 else y.1), rows.zipIdx.any (fun y => y.2 == i && (f y.1).2))
  let n := if red.op = 4 then wireBytes red.det red.d else 4
  let step := fun (acc : List MergeRow × Bool) (j : Nat) =>
    let b := sliceBytes bs (j * n) n
    let y := put (row0 + j) (fun (old : MergeRow) =>
      if red.op = 4 then mergeRow red.det old (rowOfWire red.det red.d b)
      else ({ old with m := leVal (combineElem { op := 1, fmt := 1, det := false, rowsPer := 0, d := 0 } (leBytes 4 old.m) b) }, false)) acc.1
    (y.1, acc.2 || y.2)
  let r := (List.range (bs.length / n)).foldl step (x.rows, false)
  ({ s with tz := { s.tz with splits := mapIf (fun y => y.instr == x.instr) (fun y => { y with rows := r.1 }) s.tz.splits } }, r.2)

/-- The rows of one layer in a split's buffer, and its stride, as the REDUCE's OFFSET counts them. -/
def splitRow (s : State) (x : Split) (red : RedSpec) (off : Nat) : Nat :=
  match findRun s x.instr with
  | none => 0
  | some r =>
    match findModel s r.ent.a with
    | none => 0
    | some m =>
      let a := attOf r.ent r.blk m.desc
      if red.op = 4 then off / max 1 a.bufStride * a.rows else off / max 1 a.gmaxStride * a.rows + off % max 1 a.gmaxStride / 4

/-- What the bytes of a REDUCE packet do (R163, R164, R437): elements in place, whole rows of a softmax-merge as they are complete, with the previous values kept for a fetch. -/
def reduceApply (h : Hdr) (red : RedSpec) (off : Nat) (bs : List Byte) (s : State) (m : RxMsg) : State × RxMsg :=
  let k : RedOp := { op := red.op, fmt := red.fmt, det := red.det, rowsPer := red.rowsPer, d := red.d }
  let w := msgWriter h m.port m.fn
  let at_ := off - m.first
  let n := if red.op = 4 then wireBytes red.det red.d else elemBytes red.fmt
  let all := m.part ++ bs
  let whole := all.length / n * n
  let start := (at_ - m.part.length) / n
  let failed := fun (y : State × Bool) (rest : List Byte) => (y.1, { m with part := rest, code := if y.2 then Code.tzFormat else m.code })
  match splitOf s m.key with
  | some x => failed (splitReduce s x red (splitRow s x red m.first + start) (all.take whole)) (all.drop whole)
  | none =>
    if red.op = 4 then
      failed (mergeRows s m.index w m.first start k ((List.range (whole / n)).map (fun j => rowOfWire red.det red.d (sliceBytes all (j * n) n)))) (all.drop whole)
    else
      let old := if red.op = 3 then peek s m.index w off bs.length else []
      (combineElems s m.index w m.first at_ k bs, { m with part := m.part ++ old })

/-- REDUCE (R163, R164, R437 to R439): contributions applied in arrival order; with fetch, the previous values go back. -/
def execReduce (h : Hdr) (p : Packet) (red : RedSpec) (s : State) : Out :=
  alive s (
    let span := if red.op = 4 then p.msgLen else destBytes { op := red.op, fmt := red.fmt, det := red.det, rowsPer := red.rowsPer, d := red.d } p.msgLen
    packetIn s h 4 rReduce p span (fun s m =>
      let x := reduceApply h red p.off p.bytes s m
      match red.fetch with
      | some f =>
        if p.last then (transmit x.1 ⟨h.src, h.comp, h.epoch, h.cls, false, 0, .readResp f 0 x.2.part⟩ none, { x.2 with part := [] }) else x
      | none => x))

/-! ### Reads -/

/-- The bytes of a page that a reader of a node's shard gets (R110, R305, R444), padded to what it asked for: by layer and index, or by number. -/
def pageAnswer (s : State) (node : Handle) (off len : Nat) (byNumber : Bool) : Except Nat (List Byte) :=
  let p := if byNumber then findPage s off else (nodePages s node (off / 2 ^ 32)).find? (fun p => p.index == off % 2 ^ 32)
  match p, boundModel s node with
  | some p, some m => if unreadable s p then .error Code.memUncorrectable else .ok (sliceBytes (pageBytes (rowBytes m.desc) (perPage m.desc) p) 0 len)
  | _, _ => .error Code.tzBadHandle

/-- What a read finds at the target (R127, R138, R371): the version current now, or a code; the key index it counts in. -/
def readAnswer (s : State) (h : Hdr) (subject : Handle) (key off len : Nat) (comb : Bool) : Except Nat (List Byte × Option Nat) :=
  let c := epochCheck s h
  if c ≠ 0 then .error c
  else if key = 0 then (pageAnswer s subject off len comb).map (fun b => (b, none))
  else
    let c := remoteCheck s h key off len rRead
    let k := getK s (keyIndex key)
    if c ≠ 0 then .error c
    else if regionUnreadable s k off len then .error Code.memUncorrectable
    else .ok (regionRead s k off len, some (keyIndex key))

/-- READ_REQ (R138, R403, R425, R435): checked on its one packet, and answered by one READ_RESP message; a refusal goes back in the acknowledgement. -/
def execReadReq (h : Hdr) (subject : Handle) (id key offset len : Nat) (s : State) : Out :=
  deliveredHw s h (fun s =>
    match readAnswer s h subject key offset len false with
    | .error c => (keyRefused s c, c)
    | .ok x =>
      let s := match x.2 with | some i => keyEnter (unitsUp s i offset len) i | none => s
      (transmitHeld s ⟨h.src, h.comp, h.epoch, h.cls, false, subject, .readResp id 0 x.1⟩ none x.2, 0))

/-- Bytes of a read that have come, from an offset of it. -/
def ReadWait.bytesAt (w : ReadWait) (off n : Nat) : List Byte := Mem.read (w.got.foldl (fun m p => Mem.write m p.1 p.2) []) off n

/-- Bytes of a read that have come, put together. -/
def ReadWait.assembled (w : ReadWait) : List Byte := w.bytesAt 0 w.len

/-- Whether every byte of a read has come. -/
def ReadWait.whole (w : ReadWait) : Bool :=
  (List.range w.len).all (fun i => w.got.any (fun p => decide (p.1 ≤ i ∧ i < p.1 + p.2.length)))

/-- The writer that an instruction of this device acts for. -/
def runWriter (s : State) (instr : Nat) : Writer := match findRun s instr with | some r => writerOf s r | none => { device := self s, port := 0, fn := 0 }

/-- Bytes of a read arrive at an offset of it, in order: whole sectors go into the reader's buffer at once (R96), the rest is kept. -/
def readPiece (s : State) (w : ReadWait) (off : Nat) (bs : List Byte) : State :=
  let s := { s with reads := mapIf (fun x => x.id == w.id) (fun x => { x with got := x.got ++ [(off, bs)] }) s.reads }
  match w.what with
  | .buffer instr key base =>
    if w.comb then s
    else
      let held := min off ((base + off) % 64)
      let start := base + off - held
      regionWrite s (keyIndex key) (runWriter s instr) start (sectorCut start (w.bytesAt (off - held) held ++ bs) (decide (w.len ≤ off + bs.length))).1
  | _ => s

/-- The bytes of a combinable read (R96, R444): those of its instruction come in any order and are written once the last of them is here. -/
def combLand (s : State) (instr key base : Nat) (bs : List Byte) : State :=
  let s := modRun s (fun r => r.id == instr) (fun r => { r with inputs := r.inputs ++ [(base, bs)] })
  match findRun s instr with
  | some r => if r.aux ≤ 1 then r.inputs.foldl (fun s x => regionWrite s (keyIndex key) (writerOf s r) x.1 x.2) s else s
  | none => s

/-- Whether the inputs of a compute instruction are all here; with the last it is ready again. -/
def inputCame (s : State) (instr place : Nat) (bs : List Byte) : State :=
  modRun s (fun r => r.id == instr && decide (r.phase = .waiting)) (fun r =>
    { r with inputs := r.inputs ++ [(place, bs)], aux := r.aux - 1, phase := if r.aux ≤ 1 then .ready else r.phase })

/-- A page read for PCOPY is stored as a staged copy (R25, R110, R111); one read for a shard (instruction 0, R385) as the shard's. Copies for flash lie in the stacks until the last
of them is here, and the instruction is ready again. -/
def stagePage (s : State) (instr : Nat) (node : Handle) (layer index tier tokens : Nat) (bs : List Byte) : State :=
  match boundModel s node with
  | none => tagDone s instr Code.tzBadHandle
  | some m =>
    let kind : PageKind := if instr = 0 then .shard else .staged
    let x := storeNodePage s node kind m.desc layer index 0 (bs.take (tokens * rowBytes m.desc))
    let last := fun (r : Running) => r.id == instr && decide (r.aux ≤ 1) && r.codes.isEmpty && decide (r.phase = .waiting)
    if x.2 = 0 ∧ tier = tFlash ∧ x.1.tz.started.any last then modRun x.1 last (fun r => { r with phase := .ready, aux := 0 })
    else if x.2 ≠ 0 ∨ tier = tStacks ∨ tier = tFlash then tagDone x.1 instr x.2
    else
      match x.1.pages.find? (fun p => p.obj == node && p.layer == layer && p.index == index) with
      | none => tagDone x.1 instr Code.memExhausted
      | some p =>
        match movePage x.1 p tier with
        | some y => tagDone (setPage y.1 y.2) instr 0
        | none => tagDone (freePages x.1 (fun q => q.number == p.number)) instr Code.memExhausted

/-- A page fetched again from its mirror is whole here (R346): in the stacks, or as a new flash frame. -/
def refetched (s : State) (page : Nat) (bs : List Byte) : State :=
  match findPage s page with
  | none => s
  | some p =>
    match boundModel s p.obj with
    | none => s
    | some m =>
      let rows := rowsOfBytes (rowBytes m.desc) p.tokens bs
      if p.stack.isSome then setPage s { p.written with lost := false, rows := rows }
      else
        let p := { p with lost := false, rows := rows }
        (placeFrame (setPage s p) p).getD (setPage s p)

/-- A read is complete (R425): what it was for has its bytes. -/
def readEnd (s : State) (w : ReadWait) : State :=
  let s := { s with reads := s.reads.filter (fun x => !(x.id == w.id)) }
  let s := match w.what with
    | .buffer instr key base => tagDone (keyLeave (if w.comb then combLand s instr key base w.assembled else s) (keyIndex key)) instr 0
    | .stage instr node layer index tier tokens => stagePage s instr node layer index tier tokens w.assembled
    | .refetch page => refetched s page w.assembled
    | .operand instr place => inputCame s instr place w.assembled
  if w.comb then pumpComb s w.what.instr else s

/-- READ_RESP (R425, R435): a packet goes to the reader's buffer, the last completes the read with its code. -/
def execReadResp (h : Hdr) (id code off : Nat) (last ackReq : Bool) (bytes : List Byte) (s : State) : Out :=
  alive s (
    let a := arrive s h
    if a.2 = false then a.1
    else
      let s := match a.1.reads.find? (fun w => w.id == id && !w.comb) with
        | none => a.1
        | some w =>
          if code ≠ 0 then (if last then readFailed a.1 id code else a.1)
          else
            let s := readPiece a.1 w off bytes
            match (if last then s.reads.find? (fun x => x.id == id) else none) with
            | some w => readEnd s w
            | none => s
      if last then ackLast s h 0 else ackDue s h ackReq)

/-! ### Submissions, completions, signals -/

/-- A holder's ATTEND names this device's own descriptor of the node (R149, R637). -/
def holderEntry (s : State) (queue : Nat) (e : Entry) (blk : List Byte) : Entry :=
  if queue = firmwareQueue + 1 ∧ e.opcode = opAttend ∧ blk.isEmpty = false then
    match boundModel s e.b with
    | some m => { e with a := modelHandle s m }
    | none => e
  else e

/-- SUBMIT (R78, R79): taken into a queue open to the fabric, in order of arrival; a queue that takes none answers with COMPLETE. -/
def execSubmit (h : Hdr) (tag queue port fn : Nat) (entry : Entry) (blk : List Byte) (s : State) : Out :=
  deliveredAs s h (fun s =>
    let c := epochCheck s h
    if c ≠ 0 then (s, c)
    else
      let Q := getQ s queue
      let sub : Submitter := { device := h.src, comp := h.comp, epoch := h.epoch, tag := tag, port := port, fn := fn }
      if 4096 ≤ queue ∨ (queue < firmwareQueue ∧ Q.remote = false) then (sendComplete s sub entry Code.tzRights 0, 0)
      else if Q.state ≠ .active ∧ Q.state ≠ .waiting then (sendComplete s sub entry Code.tzQueueHalted 0, 0)
      else (enterFetched s queue { index := Q.head, ent := holderEntry s queue entry blk, blk := blk, sub := some sub, caught := false }, 0))

/-- A forwarded PUBLISH or DISCARD ends (R129): PUBLISH on a region reports the version the home gives (R130); a draft node's lease is over, and with success its publisher's staged pages
stand for the published ones (R131). -/
def forwardDone (s : State) (r : Running) (code version : Nat) : State :=
  if hCls r.ent.a = clsNode ∧ code ≠ Code.pubConflict ∧ (code = 0 ∨ code = Code.pubDraftDiscarded ∨ code = Code.pubLeaseExpired) then
    finish (endLease s r.ent.a (r.ent.opcode == opPublish && code == 0)) r.id code
  else if r.ent.opcode = opPublish ∧ hCls r.ent.a = clsRegion ∧ (code = 0 ∨ code = Code.pubConflict) then finish (publishReport s r version) r.id code
  else finish s r.id code

/-- COMPLETE (R79, R153): the counter of the submitting device is signalled, or what waited for the submission goes on. -/
def execComplete (h : Hdr) (tag : Nat) (result : RemoteResult) (counter : Nat) (s : State) : Out :=
  deliveredAs s h (fun s =>
    if tag = 0 then (if counter = 0xFFFF then s else signalCounter s counter result.code, 0)
    else
      match findRun s (tag - 1) with
      | none => (s, 0)
      | some r =>
        if s.tz.splits.any (fun x => x.instr == r.id) then
          let s := splitFailed (partAnswered s r.id h.src result.code) r.id
          (match findRun s r.id with
           | some r => if r.phase = .waiting then splitDone s r else s
           | none => s, 0)
        else (forwardDone s r result.code result.version, 0))

/-- REMOTE_SIGNAL (R84, R169, R538): the counter must be open to signals from the message's composition. -/
def execRemoteSignal (h : Hdr) (counter : Handle) (set clearFail : Bool) (value : Nat) (s : State) : Out :=
  deliveredHw s h (fun s =>
    let c := epochCheck s h
    let k := getC s (counter % 2 ^ 16)
    if c ≠ 0 then (s, c)
    else if counter % 2 ^ 16 = 0xFFFF ∨ k.owner = none ∨ ¬ (k.fabric = some h.comp ∨ k.fabric = some 0xFFFF) then (s, Code.tzRights)
    else (counterUpdate s (counter % 2 ^ 16) set clearFail value, 0))

/-- MULTICAST_OPEN (R27, R371, R441): the check decides the transfer for this member. With KEY 0 and a SUBJECT it opens an ingest multicast of that draft node (log 16), which waits while
the draft is being published (R142). -/
def execMulticastOpen (h : Hdr) (group psn : Nat) (dest : OpenDest) (offset len port fn : Nat) (s : State) : Out :=
  alive s (
    let subject := dest.subject
    let key := dest.key
    let a := arrive s h
    if a.2 = false then a.1
    else
      let s := a.1
      let c0 := epochCheck s h
      let ingest : Bool := key == 0 && subject != 0
      let c := if c0 ≠ 0 then c0 else if ingest then ingestCheck s h subject offset len else remoteCheck s h key offset len rWrite
      let i := keyIndex key
      let w := msgWriter h port fn
      if c ≠ 0 then ackLast (keyRefused s c) h c
      else if ingest = true ∧ s.rgn.drafts.any (fun d => d.handle == subject && d.publisher.isSome) then refuseRnr s h
      else if (getK s i).drafted = true ∧ unitsOk s (getK s i) w offset len = false then refuseRnr s h
      else
        let ended : McastRx → Bool := fun x => x.src == h.src && x.group == group && decide (x.len ≤ (x.next + 2 ^ 24 - x.psn) % 2 ^ 24 * 4096)
        let own := groupEntry s group
        let x : McastRx := {
          src := h.src, group := group, inc := if bitOf own 0 then fieldOf own 31 24 else 256, psn := psn
          subject := if ingest then subject else 0, key := key, off := offset, len := len, port := port, fn := fn, next := psn, lastAt := s.now, part := [] }
        let s := if ingest then holdDraft s subject true else enterMsg s i w offset len
        ackLast { s with fab := { s.fab with mrx := s.fab.mrx.filter (fun y => !ended y) ++ [x] } } h 0)

/-- MESSAGE_ABANDON (R380, R425): every accepted message that received no packet for 5 ms is abandoned. -/
def execMessageAbandon (s : State) : Out :=
  alive s (
    let late : Nat → Bool := fun t => decide (t + 5000 ≤ s.now)
    let gone := s.fab.qps.flatMap (fun q => (q.rx.filter (fun m => late m.lastAt)).map (fun m => (q.peer, m)))
    let s1 : State := gone.foldl (fun (s : State) (x : Nat × RxMsg) =>
      if x.2.refused ∨ x.2.index = 0 then s else leaveMsg s x.2.index { device := x.1, port := x.2.port, fn := x.2.fn }) s
    let s2 := modQp s1 (fun _ => true) (fun q => { q with rx := q.rx.filter (fun m => !(late m.lastAt)) })
    let doneRx : McastRx → Bool := fun x => decide (x.len ≤ (x.next + 2 ^ 24 - x.psn) % 2 ^ 24 * 4096)
    let goneM := s2.fab.mrx.filter (fun x => late x.lastAt && !doneRx x)
    let s3 := goneM.foldl (fun s (x : McastRx) =>
      if x.subject = 0 then leaveMsg s (keyIndex x.key) { device := x.src, port := x.port, fn := x.fn } else holdDraft s x.subject false) s2
    { s3 with fab := { s3.fab with mrx := s3.fab.mrx.filter (fun x => !(late x.lastAt && !doneRx x)) } })

end Sys2Proof.Machine
end

