-- ==== Sys2Proof/Machine/Fabric.lean ====
section
/-!
DEFINITION. The transport's own frames and timers, and combining (spec chapters 14 and 15; R403, R420 to R425, R443 to R449, R488).
-/

namespace Sys2Proof.Machine

open Sys2Proof

/-! ### Go-back-N at the sender -/

/-- A frame for no established queue pair, or of another incarnation (R403, step 6). -/
def staleFrame (s : State) (h : Hdr) : State :=
  sendNak { s with fab := { s.fab with staleInc := satAdd 0xFFFF s.fab.staleInc 1 } } h.src h.qp h.inc h.psn 3

/-- Runs from a PSN on. -/
def runsFrom (psn : Nat) : List Unacked → List Unacked
  | [] => []
  | u :: us =>
    let k := (psn + 2 ^ 24 - u.psn) % 2 ^ 24
    if k = 0 then u :: us
    else if k < u.count then { u with psn := psn, count := u.count - k } :: us
    else runsFrom psn us

/-- Send again every unacknowledged packet from a PSN (R422); the timer runs from now. -/
def retransmit (s : State) (q : QPair) (psn : Nat) : State :=
  let runs := runsFrom psn q.unacked
  let n := runs.foldl (fun n u => n + u.count) 0
  let s := { s with fab := { s.fab with
    retransmits := wrapAdd 32 s.fab.retransmits n
    egress := s.fab.egress.filter (fun e => !(e.qp == q.num && e.dst == q.peer && runs.any (fun u => u.msg == e.msg))) } }
  let s := modQp s (fun x => x.num == q.num && x.peer == q.peer) (fun x => { x with timer := some (s.now + x.rto) })
  match pathOf s q.peer q.cls q.port with
  | none => s
  | some p =>
    runs.foldl (fun s u =>
      let bytes := match q.msgs.find? (fun m => m.id == u.msg) with | some m => msgBytes m.out.msg | none => 4096
      launch s { port := p, dst := q.peer, cls := q.cls, qp := q.num, msg := u.msg, count := u.count, frame := frameBytesOf (min 4096 bytes), laid := 0, since := s.now }) s

/-- A queue pair with one more try of a packet counted (R422). -/
def QPair.tried (q : QPair) (psn : Nat) : QPair :=
  if q.tryPsn = psn then { q with tries := q.tries + 1 } else { q with tryPsn := psn, tries := 2 }

/-- The oldest unacknowledged PSN. -/
def QPair.oldest (q : QPair) : Nat := ((q.unacked.head?).map (·.psn)).getD q.nextPsn

/-- A member of a multicast has acknowledged its first `k` packets (R422, R441). -/
def McastMember.passed (m : McastMember) (k packets : Nat) : McastMember := { m with upto := max m.upto k, acked := m.acked || decide (packets ≤ max m.upto k) }

/-- A cumulative acknowledgement of a member reaches a multicast of its group (R422, R441, R442): with a code it is the member's end, else its packets up to there are acknowledged; where
the oldest packet on its way is past, tries and timer begin anew. -/
def castAcked (src psn code : Nat) (s : State) (at_ : Nat × Nat) : State :=
  match s.fab.mcasts.find? (fun x => x.is at_.1 at_.2) with
  | none => s
  | some x =>
    let d := (psn + 1 + 2 ^ 24 - x.psn) % 2 ^ 24
    if x.data = false ∨ d = 0 ∨ 2 ^ 23 ≤ d then s
    else
      let f := fun (m : McastMember) => if code ≠ 0 ∧ d ≤ x.packets then { m with code := code } else m.passed (min d x.cut) x.packets
      let y := { x with members := mapIf (fun m => m.device == src && m.code == 0) f x.members }
      let y := if x.base < y.base then { y with tries := 1, tryAt := y.base, rto := rtoOf s, due := s.now + rtoOf s } else y
      mcastGo (modCast s x.group x.psn (fun _ => y)) x.group x.psn

/-- A member's acknowledgement of a group stream (R441); it is cumulative, so earlier multicasts of the group are acknowledged with it. -/
def groupAcked (s : State) (src group psn code : Nat) : State :=
  ((s.fab.mcasts.filter (fun x => x.group == group)).map (fun x => (x.group, x.psn))).foldl (castAcked src psn code) s

/-- A member's NAK SEQ of a group stream (R422, R441): from the packet it names the stream is sent again at once. -/
def groupNak (s : State) (group psn : Nat) : State :=
  match s.fab.mcasts.find? (fun x => x.group == group && x.data && decide ((psn + 2 ^ 24 - x.psn) % 2 ^ 24 < x.cut)) with
  | none => s
  | some x =>
    let k := (psn + 2 ^ 24 - x.psn) % 2 ^ 24
    groupBack (modCast s group x.psn (fun y => y.tried k)) (x.tried k) k

/-- ACK (R403, R422, R425, R441). -/
def execAck (h : Hdr) (psn code : Nat) (s : State) : Out :=
  alive s (
    if 0x8000 ≤ h.qp then groupAcked s h.src (h.qp - 0x8000) psn code
    else
      match qpOf s h with
      | none => staleFrame s h
      | some q => ackApply s q psn code)

/-- NAK (R422, R441): SEQ sends again at once, RNR after the timer value, STALE_INC ends the messages on their way and the queue pair is established anew. -/
def execNak (h : Hdr) (psn kind : Nat) (s : State) : Out :=
  alive s (
    if 0x8000 ≤ h.qp then (if kind = 1 then groupNak s (h.qp - 0x8000) psn else s)
    else if kind = 3 then
      match s.fab.qps.find? (fun q => q.peer == h.src && q.peerNum == h.qp && q.peerInc == h.inc && q.up) with
      | some q => serve (closeQp s q Code.xptStaleIncarnation false)
      | none => s
    else
      match qpOf s h with
      | none => staleFrame s h
      | some q =>
        let q' := q.tried psn
        if kind = 1 then retransmit (modQp s (fun x => x.num == q.num && x.peer == q.peer) (fun _ => q')) q' psn
        else if kind = 2 then
          modQp s (fun x => x.num == q.num && x.peer == q.peer) (fun x => { x with timer := some (s.now + x.rto) })
        else s)

/-- A group's wait ends (R422, R441, R442): the stream goes again from its oldest packet not acknowledged, with the wait doubled; after the wait that follows the seventh try of that
packet the members that lack it are dropped. -/
def groupTimer (s : State) (group : Nat) : State :=
  match s.fab.mcasts.find? (fun x => x.group == group && x.data && decide (x.base < x.cut)) with
  | none => s
  | some x =>
    if s.now < x.due then s
    else if x.tryAt = x.base ∧ 7 ≤ x.tries then
      let stuck := fun (m : McastMember) => !m.acked && m.code == 0 && m.upto == x.base
      let y := { x with members := mapIf stuck (fun m => { m with code := Code.xptRetryExceeded }) x.members }
      let y := { y with tries := 1, tryAt := y.base, rto := rtoOf s, due := s.now + rtoOf s }
      mcastGo (modCast { s with fab := { s.fab with retryExceeded := satAdd 0xFFFF s.fab.retryExceeded 1 } } x.group x.psn (fun _ => y)) x.group x.psn
    else
      let y := { x.tried x.base with rto := 2 * x.rto }
      groupBack (modCast s group x.psn (fun _ => y)) y x.base

/-- RETRANSMIT_TIMER_EXPIRY (R422): for the queue pair of a peer and class, or, with the peer 0x7FFF, for a multicast group. A CONNECT not answered is sent again under
the same timer. -/
def execRetransmitTimerExpiry (peer cls : Nat) (s : State) : Out :=
  alive s (
    if peer = 0x7FFF then groupTimer s cls
    else
      match findQp s peer cls with
      | none => s
      | some q =>
        match q.timer with
        | none => s
        | some t =>
          if s.now < t then s
          else if 7 ≤ q.tries then
            serve (closeQp { s with fab := { s.fab with retryExceeded := satAdd 0xFFFF s.fab.retryExceeded 1 } } q Code.xptRetryExceeded (!q.up))
          else
            let q' := { q.tried q.oldest with rto := 2 * q.rto, timer := some (s.now + 2 * q.rto) }
            let s := modQp s (fun x => x.num == q.num && x.peer == q.peer) (fun _ => q')
            if q.up then retransmit s q' q.oldest
            else { s with fab := { s.fab with frames := s.fab.frames ++ [.connect peer cls q.num q.inc] } })

/-! ### Establishment and release -/

/-- Every read that waits for a queue pair or for room goes out (R444). -/
def pumpReads (s : State) : State :=
  (s.reads.filter (fun w => w.comb && w.tries == 0)).foldl (fun s w => pumpComb s w.what.instr) s

/-- CONNECT (R421): a queue pair with a new incarnation, answered with CONNECTED. One already in use with that peer and class is replaced. -/
def execConnect (h : Hdr) (qp inc : Nat) (s : State) : Out :=
  alive s (
    match findQp s h.src h.cls with
    | some q =>
      if q.up = false then
        let s := modQp s (fun x => x.num == q.num && x.peer == q.peer)
          (fun x => { x with peerNum := qp, peerInc := inc, up := true, timer := none, tries := 1, rto := rtoOf s })
        pumpQp { s with fab := { s.fab with frames := s.fab.frames ++ [.connected h.src h.cls q.num q.inc] } } h.src h.cls
      else if mayEstablish s h.src h.cls = false then s
      else
        let msgs := q.msgs.filter (fun m => !(q.unacked.any (fun u => u.msg == m.id)))
        let s := closeQp s { q with msgs := q.msgs.filter (fun m => q.unacked.any (fun u => u.msg == m.id)) } Code.xptStaleIncarnation true
        let i := nextInc s h.src
        let s := i.2
        let num := freeQpNum s
        let n := { newQp s h.src h.cls num i.1 msgs with peerNum := qp, peerInc := inc, up := true, timer := none }
        pumpQp { s with fab := { s.fab with
          qps := s.fab.qps ++ [n], madeAt := s.fab.madeAt.set (8 * h.src + h.cls) s.now
          frames := s.fab.frames ++ [.connected h.src h.cls num i.1] } } h.src h.cls
    | none =>
      if mayEstablish s h.src h.cls = false then s
      else
        match qpRoom s with
        | none => s
        | some s =>
          let i := nextInc s h.src
          let s := i.2
          let num := freeQpNum s
          let n := { newQp s h.src h.cls num i.1 [] with peerNum := qp, peerInc := inc, up := true, timer := none }
          pumpReads { s with fab := { s.fab with
            qps := s.fab.qps ++ [n], madeAt := s.fab.madeAt.set (8 * h.src + h.cls) s.now
            frames := s.fab.frames ++ [.connected h.src h.cls num i.1] } })

/-- CONNECTED (R421): establishment is complete, and what waited goes. -/
def execConnected (h : Hdr) (qp inc : Nat) (s : State) : Out :=
  alive s (
    match findQp s h.src h.cls with
    | none => s
    | some q =>
      if q.up then s
      else
        let s := modQp s (fun x => x.num == q.num && x.peer == q.peer)
          (fun x => { x with peerNum := qp, peerInc := inc, up := true, timer := none, tries := 1, rto := rtoOf s, nextPsn := 0, expPsn := 0, lastUse := s.now })
        pumpReads (pumpQp s h.src h.cls))

/-- CLOSE (R420): the queue pair is released; messages whose packets are on their way have lost it. -/
def execClose (h : Hdr) (s : State) : Out :=
  alive s (
    match findQp s h.src h.cls with
    | some q => serve (closeQp s q Code.xptStaleIncarnation false)
    | none => s)

/-- QUEUE_PAIR_IDLE_CLOSE (R420): 10 ms without an unacknowledged packet. -/
def execQueuePairIdleClose (peer cls : Nat) (s : State) : Out :=
  alive s (
    match findQp s peer cls with
    | some q =>
      if q.unacked.isEmpty ∧ q.msgs.isEmpty ∧ q.lastUse + 10000 ≤ s.now then
        { s with fab := { s.fab with
          qps := s.fab.qps.filter (fun x => !(x.num == q.num && x.peer == q.peer)), frames := s.fab.frames ++ [.close peer cls] } }
      else s
    | none => s)

/-- ACK_DELAY_EXPIRY (R424): ACK_DELAY, in 100 ns, after the oldest accepted packet not acknowledged. -/
def execAckDelayExpiry (peer cls : Nat) (s : State) : Out :=
  alive s (
    match findQp s peer cls with
    | some q => if 0 < q.owed ∧ 10 * q.owedAt + fieldOf (xptCtrl s) 15 8 ≤ 10 * s.now then sendAck s q 0 else s
    | none => s)

/-- DATAGRAM (R402, R403): class 7 has no queue pair and no acknowledgement; delivered or dropped, it changes nothing of this device. -/
def execDatagram (h : Hdr) (bytes : List Byte) (s : State) : Out :=
  let _ := (h, bytes)
  .next s

/-- CONTROL_UNKNOWN_TYPE (R401): discarded, acknowledged with TZ_FORMAT, no state changed. -/
def execControlUnknownType (h : Hdr) (s : State) : Out :=
  deliveredHw s h (fun s =>
    let c := epochCheck s h
    (s, if c ≠ 0 then c else Code.tzFormat))

/-- REDIRECT_RESEND (R488): the destination is resolved again at the current epoch and the message sent once more, as a new one. -/
def execRedirectResend (id : Nat) (s : State) : Out :=
  alive s (
    match s.fab.refused.find? (fun m => m.id == id) with
    | none => s
    | some m =>
      let s := { s with fab := { s.fab with refused := s.fab.refused.filter (fun x => !(x.id == id)) } }
      match address s m.out.dst m.out.cls with
      | .error c => messageDone s { m with resent := true } c
      | .ok a =>
        let o := { m.out with dst := a.1, comp := a.2.1.comp, epoch := a.2.1.epoch % 2 ^ 16, redirected := a.2.2 }
        let n := { m with id := s.fab.nextMsg, out := o, cut := 0, resent := true }
        enqueue { s with sent := s.sent ++ [o], fab := { s.fab with nextMsg := s.fab.nextMsg + 1 } } n)

/-! ### Combining -/

/-- Response frames of a combined read to one requester (R444, R447): 4,096 bytes each, with their offsets. -/
def respond (s : State) (e : CombRead) (j : Joiner) : State :=
  match findQp s j.device e.cls with
  | none => s
  | some q =>
    let n := max 1 (ceilDiv e.bytes.length 4096)
    (List.range n).foldl (fun s k =>
      launchFrame s ⟨j.device, e.comp, e.epoch, e.cls, false, e.subject, .combResp j.tag e.code (4096 * k) (k + 1 == n) (sliceBytes e.bytes (4096 * k) (min 4096 (e.bytes.length - 4096 * k)))⟩ q) s

/-- A combinable read arrives at this device as its target (R443, R446, R447): it joins a pending one, or is checked now and waits for its response. -/
def combReadIn (s : State) (h : Hdr) (q : QPair) (subject : Handle) (key off len tag : Nat) : State :=
  let en := bitOf (combCtrl s) 0
  let j : Joiner := { device := h.src, qp := q.peerNum, inc := q.peerInc, tag := tag }
  if s.fab.combReads.any (fun e => e.dst == self s && (e.first == j || e.joiners.contains j)) then s
  else
    match (if en then joinable s (self s) subject key off len h.comp h.epoch h.cls else none) with
    | some e => countJoined (modComb s e.id (fun e => { e with joiners := e.joiners ++ [j] }))
    | none =>
      let base : CombRead := {
        id := s.fab.nextMsg, dst := self s, subject := subject, key := key, off := off, len := len, comp := h.comp, epoch := h.epoch, cls := h.cls, first := j, joiners := [],
        left := false, code := 0, bytes := [], index := none, version := 0 }
      let x : State × CombRead := match readAnswer s h subject key off len true with
        | .error c => (keyRefused s c, { base with code := c })
        | .ok a => (match a.2 with | some i => keyEnter (unitsUp s i off len) i | none => s, { base with bytes := a.1, index := a.2, version := match a.2 with | some i => (getK s i).version | none => 0 })
      let s := { x.1 with fab := { x.1.fab with nextMsg := x.1.fab.nextMsg + 1 } }
      if en = false ∨ 16384 ≤ s.fab.combReads.length then
        respond (match x.2.index with | some i => keyLeave s i | none => s) x.2 j
      else { s with fab := { s.fab with combReads := s.fab.combReads ++ [x.2] } }

/-- One entry of a combinable add at its target (R448): applied once, its previous values on record for 5 ms. -/
def applyAdd (key off : Nat) (acc : State × List AddEntry) (e : AddEntry) : State × List AddEntry :=
  let s := acc.1
  match s.fab.addRecs.find? (fun r => r.device == e.device && r.tag == e.tag) with
  | some r => (s, acc.2 ++ [{ e with vals := r.prev }])
  | none =>
    let i := keyIndex key
    let w : Writer := { device := e.device, port := 0, fn := 0 }
    let n := 8 * e.vals.length
    let old := peek s i w off n
    let prev := (List.range e.vals.length).map (fun k => fieldBytes old (8 * k) 8)
    let s := combineElems s i w off 0 { op := 3, fmt := 0x21, det := false, rowsPer := 0, d := 0 } (e.vals.flatMap (leBytes 8))
    ({ s with fab := { s.fab with addRecs := s.fab.addRecs ++ [{ device := e.device, tag := e.tag, prev := prev, at_ := s.now }] } }, acc.2 ++ [{ e with vals := prev }])

/-- A combinable add frame arrives at this device as its target (R445, R448): its entries are applied in order and answered in one frame. -/
def combAddIn (s : State) (h : Hdr) (q : QPair) (key off : Nat) (adds : List AddEntry) : State :=
  let n := 8 * ((adds.head?).map (·.vals.length)).getD 0
  let c0 := epochCheck s h
  let c := if c0 ≠ 0 then c0 else remoteCheck s h key off n rReduce
  let k := getK s (keyIndex key)
  let answer := fun (s : State) (code : Nat) (es : List AddEntry) =>
    launchFrame s ⟨h.src, h.comp, h.epoch, h.cls, false, 0, .combAddResp code es⟩ q
  if c ≠ 0 then answer (keyRefused s c) c (adds.map (fun e => { e with vals := [] }))
  else if k.drafted = true ∧ adds.any (fun e => !(unitsOk s k { device := e.device, port := 0, fn := 0 } off n)) then s
  else
    let x := adds.foldl (applyAdd key off) (s, [])
    answer x.1 0 x.2

/-- COMBINABLE_REQUEST (R443 to R448): a frame for this device that is not sequenced and not acknowledged; with `adds` it is an add, else a read. -/
def execCombinableRequest (h : Hdr) (subject : Handle) (key off len tag : Nat) (adds : List AddEntry) (s : State) : Out :=
  alive s (
    match qpOf s h with
    | none => staleFrame s h
    | some q => if adds.isEmpty then combReadIn s h q subject key off len tag else combAddIn s h q key off adds)

/-- A response for one of this device's own requests (R444): one for a tag already complete is discarded. -/
def combArrived (s : State) (tag code off : Nat) (bytes : List Byte) : State :=
  match s.reads.find? (fun w => w.id == tag && w.comb) with
  | none => s
  | some w =>
    if code ≠ 0 then readFailed s tag code
    else
      let s := readPiece s w off bytes
      match s.reads.find? (fun x => x.id == tag) with
      | some x => if x.whole then readEnd s x else s
      | none => s

/-- A read's response frame for a requester at this crossbar (R447): its own, or passed on. -/
def combCopy (e : CombRead) (code off : Nat) (last : Bool) (bytes : List Byte) (s : State) (j : Joiner) : State :=
  if j.device = self s then combArrived s j.tag code off bytes
  else
    match findQp s j.device e.cls with
    | some q => launchFrame s ⟨j.device, e.comp, e.epoch, e.cls, false, e.subject, .combResp j.tag code off last bytes⟩ q
    | none => s

/-- COMBINED_RESPONSE (R447, R448): with this device as source, the response of the pending read `tag` leaves for its requester and joiners; else a response frame that
arrives is copied to each joiner, or split entry by entry. -/
def execCombinedResponse (h : Hdr) (tag code off : Nat) (last : Bool) (bytes : List Byte) (adds : List AddEntry) (s : State) : Out :=
  alive s (
    if h.src = self s then
      match s.fab.combReads.find? (fun e => e.id == tag && e.dst == self s) with
      | none => s
      | some e =>
        let s := (e.first :: e.joiners).foldl (fun s j => respond s e j) s
        let s := match e.index with | some i => keyLeave s i | none => s
        { s with fab := { s.fab with combReads := s.fab.combReads.filter (fun x => !(x.id == tag)) } }
    else
      match qpOf s h with
      | none => staleFrame s h
      | some q =>
        if !adds.isEmpty then
          adds.foldl (fun s e =>
            if e.device = self s then combArrived s e.tag code 0 (e.vals.flatMap (leBytes 8))
            else launchFrame s ⟨e.device, h.comp, h.epoch, h.cls, false, 0, .combAddResp code [e]⟩ q) s
        else
          match s.fab.combReads.find? (fun e => e.dst == h.src && e.first.tag == tag) with
          | none => combArrived s tag code off bytes
          | some e =>
            let s := modComb s e.id (fun e => { e with left := true })
            let s := if last then { s with fab := { s.fab with combReads := s.fab.combReads.filter (fun x => !(x.id == e.id)) } } else s
            (e.first :: e.joiners).foldl (combCopy e code off last bytes) s)

/-- COMBINABLE_REPEAT_EXPIRY (R444): the request is repeated whole with its tag; after the wait that follows the seventh try it fails. -/
def execCombinableRepeatExpiry (id : Nat) (s : State) : Out :=
  alive s (
    match s.reads.find? (fun w => w.id == id && w.comb) with
    | none => s
    | some w =>
      if w.tries = 0 ∨ s.now < w.due then s
      else if 7 ≤ w.tries then
        readFailed { s with fab := { s.fab with combReads := s.fab.combReads.filter (fun e => !(e.dst != self s && e.first.tag == id)) } } id Code.xptRetryExceeded
      else issueComb s w)

/-- COMBINED_ADD_RECORD_EXPIRY (R448): records older than 5 ms are discarded. -/
def execCombinedAddRecordExpiry (s : State) : Out :=
  alive s { s with fab := { s.fab with addRecs := s.fab.addRecs.filter (fun r => !(decide (r.at_ + 5000 ≤ s.now))) } }

end Sys2Proof.Machine
end

