-- ==== Sys2Proof/Machine/Ports.lean ====
section
/-!
DEFINITION. Fabric ports, pause, the ring and flow hashing (spec chapters 14 and 15; R404 to R418, R429, R430, R450 to R455).
-/

namespace Sys2Proof.Machine

open Sys2Proof

/-! ### Port states -/

/-- The number of a port state (R408). -/
def PortSt.code : PortSt → Nat
  | .disabled => 0 | .training => 1 | .up => 2 | .relock => 3 | .stalled => 4 | .bypassed => 5 | .failed => 6

/-- Physical functions of each port write the fabric's registers; others are ignored. -/
def isPhysical (who : Req) : Bool := who.fn == 0 && who.peer.isNone

/-- FAB_PORT_CTRL of a port (R429). -/
def portCtrl (s : State) (p : Nat) : W64 := s.regs.get 0 (0x500000 + 0x40 * p)

/-- Set a register. -/
def setReg (s : State) (off : Nat) (v : W64) : State := { s with regs := s.regs.set off v }

/-- A word with a field replaced. -/
def putField (w : W64) (hi lo v : Nat) : W64 :=
  BitVec.ofNat 64 (w.toNat - fieldOf w hi lo * 2 ^ lo + v % 2 ^ (hi + 1 - lo) * 2 ^ lo)

/-- A ring port has trained (R416): it stands in a state that follows training. -/
def Port.trained (p : Port) : Bool := p.lanes == 0xFF

/-- Frames queued on a port that left UP are lost; their queue pairs send them again (R419). -/
def dropQueued (s : State) (p : Nat) : State := { s with fab := { s.fab with egress := s.fab.egress.filter (fun e => e.port != p) } }

/-- Put a port in a state from now on. -/
def toPort (s : State) (p : Nat) (st : PortSt) : State :=
  let s := modP s p (fun x => { x with st := st, since := s.now })
  if st = .up ∨ st = .relock ∨ st = .bypassed then s else dropQueued s p

/-- Drive BYP_EN (R416): high only while it is asked for, both ring ports have trained and the device is not tripped. It stays high in the fatal state. -/
def bypEval (s : State) : State :=
  let want := bitOf (ringCtrl s) 1 && (getP s 0).trained && (getP s 1).trained && !s.tripped
  if want = s.fab.ring.bypEn then s
  else
    let s := { s with fab := { s.fab with ring := { s.fab.ring with bypEn := want } } }
    [0, 1].foldl (fun s p =>
      if want then modP s p (fun x => { x with since := s.now })
      else if (getP s p).st = .up then toPort s p .bypassed
      else s) s

/-- The port leaves UP for TRAINING (R408). -/
def retrain (s : State) (p : Nat) : State :=
  bypEval (toPort (modP s p (fun x => { x with retrains := satAdd 0xFFFF x.retrains 1, attempts := 0, lanes := 0, badAt := [] })) p .training)

/-- A write of FAB_PORT_CTRL (R407, R408, R429). -/
def portCtrlWrite (s : State) (who : Req) (p : Nat) (v : W64) : State :=
  if isPhysical who = false ∨ 8 ≤ p then s
  else
    let old := portCtrl s p
    let P := getP s p
    let en := if bitOf v 0 = false ∧ P.onRing ∧ s.fab.ring.bypEn then bitOf old 0 else bitOf v 0
    let med := if bitOf old 0 = false ∧ fieldOf v 19 18 ≠ 3 then fieldOf v 19 18 else fieldOf old 19 18
    let s := setReg s (0x500000 + 0x40 * p) (BitVec.ofNat 64 (med * 2 ^ 18 + bit en))
    let s :=
      if bitOf old 0 = false ∧ en then toPort (modP s p (fun x => { x with attempts := 0, lanes := 0 })) p .training
      else if bitOf old 0 ∧ en = false then bypEval (toPort (modP s p (fun x => { x with lanes := 0 })) p .disabled)
      else s
    if bitOf v 1 = false then s
    else if P.onRing then
      let held := fun (d : Nat) => s.fab.ring.xoffs.any (fun x => x.device == d && decide (s.now < x.last + 10))
      { s with fab := { s.fab with ring := { s.fab.ring with stalled := s.fab.ring.stalled.filter (fun x => x.1 != p || held x.2) } } }
    else if (getP s p).st = .stalled ∧ P.xoffIn = 0 then serve (toPort s p .up)
    else s

/-- PORT_ENABLE (R408, R429): a write of FAB_PORT_CTRL. -/
def execPortEnable (who : Req) (p : Nat) (v : W64) (s : State) : Out := alive s (portCtrlWrite s who p v)

/-- CLEAR_STALL (R407): a write of FAB_PORT_CTRL with CLEAR_STALL 1; its other fields as they stand. -/
def execClearStall (who : Req) (p : Nat) (s : State) : Out := alive s (portCtrlWrite s who p (portCtrl s p ||| 2))

/-- TRAINING_COMPLETE (R408): all eight lanes have trained. -/
def execTrainingComplete (p : Nat) (s : State) : Out :=
  alive s (
    if (getP s p).st = .training then serve (bypEval (toPort (modP s p (fun x => { x with lanes := 0xFF, attempts := 0 })) p .up)) else s)

/-- The FABRIC log entry of a port (R522). -/
def fabricLog (s : State) (p code sev : Nat) (old new : PortSt) : State := logEvent s (evOf 0x07 code sev 0 [p, old.code, new.code])

/-- TRAINING_FAILED (R408, R577): after three failed attempts the port is FAILED, a degraded error. -/
def execTrainingFailed (p : Nat) (s : State) : Out :=
  alive s (
    let P := getP s p
    if P.st ≠ .training then s
    else if P.attempts + 1 < 3 then modP s p (fun x => { x with attempts := x.attempts + 1, since := s.now })
    else
      let s := toPort (modP s p (fun x => { x with attempts := 3, lanes := 0 })) p .failed
      bypEval (raiseErr (fabricLog s p 0 sevDegraded .training .failed) 0x07 p sevDegraded 0 0x05 0))

/-- SIGNAL_LOSS (R408, R417). -/
def execSignalLoss (p : Nat) (s : State) : Out :=
  alive s (
    let P := getP s p
    if P.st ≠ .up then s
    else if P.onRing then
      let s := { s with fab := { s.fab with ring := { s.fab.ring with breaks := wrapAdd 32 s.fab.ring.breaks 1 } } }
      toPort s p .relock
    else retrain s p)

/-- RELOCK (R408, R409): lock within 10 µs. -/
def execRelock (p : Nat) (s : State) : Out :=
  alive s (
    let P := getP s p
    if (P.st = .relock ∨ (P.st = .bypassed ∧ s.fab.ring.bypEn)) ∧ s.now ≤ P.since + 10 then serve (toPort s p .up) else s)

/-- RELOCK_TIMEOUT (R408). -/
def execRelockTimeout (p : Nat) (s : State) : Out :=
  alive s (
    let P := getP s p
    if (P.st = .relock ∨ (P.st = .bypassed ∧ s.fab.ring.bypEn)) ∧ P.since + 10 ≤ s.now then
      bypEval (toPort (modP s p (fun x => { x with attempts := 0, lanes := 0 })) p .training)
    else s)

/-- FAB_ADAPT_CTRL (R430). -/
def adaptCtrl (s : State) : W64 := s.regs.get 0x84 0x501020

/-- A port's next adaptation window is due (R54, R410): INTERVAL, in 0.25 ms, after its last; on port 1 no sooner than half an interval after that of port 0, and never on both
ring ports at once. -/
def adaptDue (s : State) (p : Nat) : Bool :=
  let step := 250 * fieldOf (adaptCtrl s) 6 0
  let last := fun (q : Nat) => (getP s q).adaptEnd
  (last p == 0 || decide (last p + step ≤ s.now + 1)) &&
  (p != 1 || last 0 == 0 || decide (last 0 + step / 2 ≤ s.now + 1)) && (p != 0 || decide (last 1 ≤ s.now))

/-- ADAPTATION_WINDOW (R54, R410): for 1 µs the port starts no frame and asserts no pause. -/
def execAdaptationWindow (p : Nat) (s : State) : Out :=
  alive s (
    if bitOf (adaptCtrl s) 7 ∧ (getP s p).st = .up ∧ adaptDue s p = true then modP s p (fun x => { x with adaptEnd := s.now + 1, xoffOut := 0 }) else s)

/-! ### Pause -/

/-- FAB_PAUSE_CTRL (R430). -/
def pauseCtrl (s : State) : W64 := s.regs.get 0x640014 0x501018

/-- The classes congested in a receive buffer (R404), a bit each: of `size` bytes divided equally among classes 0 to 6, a class that passes its share minus `headroom` is, until it
falls below half its share. -/
def congestedIn (size headroom was : Nat) (occupied : List Nat) : Nat :=
  (List.range 7).foldl (fun m c =>
    let n := occupied.getD c 0
    if size < 7 * (n + headroom) ∨ (natBit was c = true ∧ size ≤ 14 * n) then m + 2 ^ c else m) 0

/-- The paused periods of a port after its XOFF bits were received (R406): a release shorter than 10 µs does not end one. -/
def pauseTimes (now xoff : Nat) (P : Port) : Port :=
  (List.range 7).foldl (fun P c =>
    let open_ := match P.released.find c with | some t => decide (t + 10 ≤ now) | none => false
    if natBit xoff c then
      { P with
        paused := if (P.paused.find c).isSome ∧ open_ = false then P.paused else P.paused.set c now
        released := P.released.del c }
    else if (P.paused.find c).isSome then
      (if (P.released.find c).isSome then P else { P with released := P.released.set c now })
    else P) { P with xoffIn := xoff % 2 ^ 7 }

/-- TRUNK_FLIT_RECEIVE (R403, R405, R408): XOFF bits, a corrected or uncorrectable codeword, frames that fail their CRC, frames of a class without room, and the
bytes of each class in the port's 1 MiB receive buffer (R404). The frames of good flits are commands of their own. -/
def execTrunkFlitReceive (p xoff : Nat) (corrected uncorrectable : Bool) (crcErrors noRoom : Nat) (occupied : List Nat) (s : State) : Out :=
  alive s (
    let P := getP s p
    if P.role ≠ 3 ∨ ¬ (P.st = .up ∨ P.st = .stalled) then s
    else
      let s := modP s p (fun x =>
        let x := if uncorrectable then x else pauseTimes s.now xoff x
        let full := congestedIn (2 ^ 20) (2 ^ 16) x.congested occupied
        { x with
          congested := full
          xoffOut := if s.now < x.adaptEnd then 0 else full
          corrected := if corrected then wrapAdd 32 x.corrected 1 else x.corrected
          uncorrectable := if uncorrectable then satAdd 0xFFFFFFFF x.uncorrectable 1 else x.uncorrectable
          badAt := (x.badAt.filter (fun t => decide (s.now < t + 1000))) ++ (if uncorrectable then [s.now] else [])
          crcErrors := satAdd 0xFFFF x.crcErrors crcErrors
          rxDrops := satAdd 0xFFFF x.rxDrops noRoom })
      let s := if (getP s p).st = .up ∧ 16 < (getP s p).badAt.length then retrain s p else s
      release s)

/-- Messages with a frame waiting in a transmit queue that stalls complete with XPT_PORT_STALLED, and their queue pairs are closed (R407). -/
def failQueued (s : State) (hit : Egress → Bool) : State :=
  let qps := s.fab.qps.filter (fun q => s.fab.egress.any (fun e => hit e && e.qp == q.num && e.dst == q.peer))
  let s := qps.foldl (fun s q => closeQp s q Code.xptPortStalled false) s
  { s with fab := { s.fab with egress := s.fab.egress.filter (fun e => !(hit e)) } }

/-- PAUSE_WATCHDOG_EXPIRY (R406, R407, R577): a lossless class paused for longer than PAUSE_WD stalls a trunk port, or on the ring a destination in that direction. -/
def execPauseWatchdogExpiry (p dest cls : Nat) (s : State) : Out :=
  alive s (
    let P := getP s p
    let limit := fieldOf (pauseCtrl s) 15 0 * 100
    if P.st ≠ .up ∨ 7 ≤ cls then s
    else if P.onRing then
      if s.fab.ring.xoffs.any (fun x => x.device == dest && x.cls == cls && decide (s.now < x.last + 10 ∧ x.start + limit < s.now)) ∧
          s.fab.ring.stalled.contains (p, dest) = false then
        let s := { s with fab := { s.fab with ring := { s.fab.ring with stalled := s.fab.ring.stalled ++ [(p, dest)] } } }
        serve (fabricLog (failQueued s (fun e => e.port == p && e.dst == dest)) p Code.xptPortStalled sevDegraded .up .up)
      else s
    else if natBit P.xoffIn cls && (match P.paused.find cls with | some t => decide (t + limit < s.now) | none => false) then
      let s := modP s p (fun x => { x with st := .stalled, since := s.now, lastReason := Code.xptPortStalled, wdTrips := satAdd 0xFFFF x.wdTrips 1 })
      let s := failQueued s (fun e => e.port == p)
      serve (raiseErr (fabricLog s p Code.xptPortStalled sevDegraded .up .stalled) 0x07 p sevDegraded Code.xptPortStalled 0x03 0)
    else s)

/-- STALL_HOLD_EXPIRY (R407): the pause has been released without interruption for STALL_HOLD. -/
def execStallHoldExpiry (p dest : Nat) (s : State) : Out :=
  alive s (
    let P := getP s p
    let hold := fieldOf (pauseCtrl s) 31 16 * 100
    if hold = 0 then s
    else if P.onRing then
      if s.fab.ring.stalled.contains (p, dest) ∧ s.fab.ring.xoffs.all (fun x => x.device != dest || decide (x.last + 10 + hold ≤ s.now)) then
        serve { s with fab := { s.fab with ring := { s.fab.ring with stalled := s.fab.ring.stalled.filter (fun x => x != (p, dest)) } } }
      else s
    else if P.st = .stalled ∧ P.xoffIn = 0 ∧ P.released.all (fun r => decide (r.2 + hold ≤ s.now)) then
      serve (toPort (modP s p (fun x => { x with paused := [], released := [] })) p .up)
    else s)

/-! ### Ring slots -/

/-- Whether the ring holds back a class for a destination (R405). -/
def ringPaused (s : State) (d c : Nat) : Bool := s.fab.ring.xoffs.any (fun x => x.device == d && x.cls == c && decide (s.now < x.last + 10))

/-- Note the XOFF of a slot (R405, R406). -/
def seeXoff (s : State) (x : Slot) : State :=
  if x.xoff = 0 ∨ x.xoffSrc = self s ∨ x.xoffSrc = 0x7FFF then s
  else
    let note := fun (l : List XoffSeen) (c : Nat) =>
      if natBit x.xoff c = false then l
      else
        match l.find? (fun y => y.device == x.xoffSrc && y.cls == c) with
        | some y =>
          l.map (fun z => if z.device == x.xoffSrc && z.cls == c then { z with start := if s.now ≤ y.last + 20 then y.start else s.now, last := s.now } else z)
        | none => l ++ [{ device := x.xoffSrc, cls := c, start := s.now, last := s.now }]
    { s with fab := { s.fab with ring := { s.fab.ring with xoffs := (List.range 7).foldl note s.fab.ring.xoffs } } }

/-- Frames that may be put into an empty slot of a direction (R402, R405, R410, R415, R474): the most urgent class that nothing holds, first come first. -/
def insertable (s : State) (dir : Nat) : Option Egress :=
  let P := getP s dir
  let starved := s.fab.ring.hungrySeen.any (fun x => x.1 == dir && decide (s.now < x.2 + 1)) && !(s.fab.ring.hungry.contains dir)
  if P.st ≠ .up ∨ s.now < P.adaptEnd ∨ starved ∨ s.fab.ring.transit.any (fun x => x.1 == dir) then none
  else
    ((List.range 8).flatMap (fun c => s.fab.egress.filter (fun e => e.port == dir && e.cls == c))).find?
      (fun e => !(ringPaused s e.dst e.cls) && (e.laid % max 1 e.frame != 0 || shapeOpen s dir e.cls))

/-- Bytes of a slot's body (R396). -/
def slotBody : Nat := 616

/-- Fill an empty slot (R397, R412, R413): bytes of one destination and class; the bucket pays each frame at its start (R474). -/
def fillSlot (s : State) (dir : Nat) (x : Slot) : State × Slot :=
  match insertable s dir with
  | none => (s, x)
  | some e =>
    let total := e.count * e.frame
    let n := min slotBody (total - e.laid)
    let starts := ((List.range e.count).filter (fun k => decide (e.laid ≤ k * e.frame ∧ k * e.frame < e.laid + n))).length
    let rest := if e.laid + n < total then [{ e with laid := e.laid + n, since := s.now }] else []
    let s := shapeTake s dir e.cls (starts * (e.frame + shapeOverhead s))
    let s := { s with fab := { s.fab with
      egress := s.fab.egress.flatMap (fun y => if y = e then rest else [y])
      ring := { s.fab.ring with hungry := s.fab.ring.hungry.filter (fun d => d != dir) } } }
    (s, { x with dest := e.dst, full := true, src := self s, hops := ringPositions s, cls := e.cls, bytes := n })

/-- What becomes of a slot whose header passes its check (R412, R413). -/
def handleSlot (s : State) (dir : Nat) (x : Slot) : State × Slot :=
  if x.full ∧ x.dest = self s then (s, { x with full := false, dest := 0x7FFF, bytes := 0 })
  else if x.full = false then (if s.halted then (s, x) else fillSlot s dir x)
  else if x.hops ≤ 1 then
    ({ s with fab := { s.fab with ring := { s.fab.ring with hopsExpired := satAdd 0xFFFFFFFF s.fab.ring.hopsExpired 1 } } },
     { x with full := false, dest := 0x7FFF, hops := 0, bytes := 0 })
  else (s, { x with hops := x.hops - 1 })

/-- The pause and fairness fields of a slot as it leaves (R404, R415). -/
def markSlot (s : State) (dir : Nat) (x : Slot) : State × Slot :=
  let x := if x.xoffSrc = self s then { x with xoff := 0, xoffSrc := 0x7FFF } else x
  let x := if x.hungry ∧ x.hungrySrc = self s then { x with hungry := false } else x
  let x := if s.fab.ring.hungry.contains (1 - dir) ∧ x.hungry = false then { x with hungry := true, hungrySrc := self s } else x
  match (if x.xoff = 0 then s.fab.ring.xoffDue.find? (fun d => d.1 == dir) else none) with
  | some d => ({ s with fab := { s.fab with ring := { s.fab.ring with xoffDue := s.fab.ring.xoffDue.filter (fun y => y.1 != dir) } } }, { x with xoff := d.2, xoffSrc := self s })
  | none => (s, x)

/-- Send a slot on (R410): during an adaptation window it waits in the transit buffer, and what waits leaves first. -/
def emitSlot (s : State) (dir : Nat) (x : Slot) : State :=
  let held := s.fab.ring.transit.filter (fun y => y.1 == dir)
  let others := s.fab.ring.transit.filter (fun y => y.1 != dir)
  let put := fun (tr out : List (Nat × Slot)) => { s with fab := { s.fab with ring := { s.fab.ring with transit := tr, out := s.fab.ring.out ++ out } } }
  if s.now < (getP s dir).adaptEnd then put (others ++ held ++ [(dir, x)]) []
  else
    match held with
    | [] => put others [(dir, x)]
    | y :: ys => put (others ++ ys ++ (if x.full then [(dir, x)] else [])) [y]

/-- REGEN (R414, R430): this position decodes, corrects and re-encodes every slot. -/
def regenerates (s : State) : Bool := bitOf (ringCtrl s) 8

/-- The header that R412 is applied to: as received where its HCRC passes, at a regenerating position as corrected (R414); none where neither passes. -/
def checkedHeader (s : State) (slot : Slot) : HeaderRead → Option Slot
  | .passes => some slot
  | .fails corrected => if regenerates s then corrected else none

/-- Note the HUNGRY mark of a slot that travels in a direction (R415). -/
def seeHungry (s : State) (dir : Nat) (slot : Slot) : State :=
  if slot.hungry ∧ slot.hungrySrc ≠ self s then
    { s with fab := { s.fab with ring := { s.fab.ring with hungrySeen := s.fab.ring.hungrySeen.filter (fun x => x.1 != 1 - dir) ++ [(1 - dir, s.now)] } } }
  else s

/-- RING_SLOT (R404, R405, R410 to R415): a slot that arrives travelling in a direction, on a ring port in state UP, with its header as correction gives it, none where the
codeword is beyond correction. One whose header does not pass goes on unchanged, its marks unread (DEDUCED, log 20: HCRC covers them). Its frames are commands of their own.
Ring transit goes on in the fatal state. -/
def execRingSlot (dir : Nat) (slot : Slot) (header : HeaderRead) (s : State) : Out :=
  .next (
    if s.tripped ∨ 2 ≤ dir ∨ (getP s (1 - dir)).st ≠ .up ∨ (getP s (1 - dir)).onRing = false then s
    else
      match checkedHeader s slot header with
      | none => emitSlot s dir slot
      | some x =>
        let a := handleSlot (seeHungry (seeXoff s x) dir x) dir x
        let b := markSlot a.1 dir a.2
        emitSlot b.1 dir b.2)

/-- HUNGRY (R415): a lossless frame has waited 2 µs for an empty slot in a direction. -/
def execHungry (dir : Nat) (s : State) : Out :=
  alive s (
    if s.fab.ring.hungry.contains dir = false ∧ s.fab.egress.any (fun e => e.port == dir && decide (e.cls < 7 ∧ e.since + 2 ≤ s.now) && (getP s dir).onRing) then
      { s with fab := { s.fab with ring := { s.fab.ring with
        hungry := s.fab.ring.hungry ++ [dir], hungryCnt := satAdd 0xFFFFFFFF s.fab.ring.hungryCnt 1 } } }
    else s)

/-- RING_XOFF_TICK (R404): once per µs the classes congested in the ring ports' 4 MiB of receive buffers are to be written into the next slot of each direction. -/
def execRingXoffTick (occupied : List Nat) (s : State) : Out :=
  alive s (
    if s.now ≤ s.fab.ring.xoffAt then s
    else
      let m := congestedIn (2 ^ 22) (Config.ringCircuit (fieldOf (ringCtrl s) 41 32)) s.fab.ring.congested occupied
      let s := [0, 1].foldl (fun s p => modP s p (fun x => if x.onRing then { x with xoffOut := m } else x)) s
      { s with fab := { s.fab with ring := { s.fab.ring with congested := m, xoffAt := s.now, xoffDue := if m = 0 then [] else [(0, m), (1, m)] } } })

/-! ### Flow hashing -/

/-- FAB_FLOW_CTRL (R455). -/
def flowCtrl (s : State) : W64 := s.regs.get 0x006404080001000A 0x502000

/-- A queue pair is to move to a port, within 2 × RTO (R453). -/
def QPair.moving (q : QPair) (s : State) (p : Nat) : QPair := { q with moveTo := some p, moveBy := s.now + 2 * rtoOf s }

/-- Bytes the queue pairs of a port sent in the window (R453). -/
def portSent (s : State) (p : Nat) : Nat := s.fab.qps.foldl (fun n q => if q.port = some p then n + q.sent else n) 0

/-- The next queue pair to consider: the one that sent most, of those not considered. -/
def busiest (qs : List QPair) : Option QPair :=
  qs.foldl (fun (b : Option QPair) q => match b with | none => some q | some x => if x.sent < q.sent then some q else b) none

/-- The moves of a rebalance (R453): at most 64, in decreasing order of bytes, each to the least used port of the queue pair's set, only where both ports end below the
hot one's count. -/
def rebalance (s : State) (hot : Nat) : Nat → List QPair → List (Nat × Nat) → List (Nat × Nat × Nat) → List (Nat × Nat × Nat)
  | 0, _, _, acc => acc
  | n + 1, qs, load, acc =>
    match busiest qs with
    | none => acc
    | some q =>
      let rest := qs.erase q
      let cnt := fun (p : Nat) => ((load.find? (fun x => x.1 == p)).map (·.2)).getD 0
      let best := ((trunkSet s (routeOf s q.peer)).filter (fun p => p != hot)).foldl
        (fun (b : Option Nat) p => match b with | none => some p | some x => if cnt p < cnt x then some p else b) none
      match best with
      | none => rebalance s hot n rest load acc
      | some p =>
        if acc.length < 64 ∧ 0 < q.sent ∧ cnt p + q.sent < cnt hot then
          rebalance s hot n rest (load.map (fun x => if x.1 = p then (p, x.2 + q.sent) else if x.1 = hot then (hot, x.2 - q.sent) else x)) (acc ++ [(q.num, q.peer, p)])
        else rebalance s hot n rest load acc

/-- The hottest trunk port and its ratio in 1/256 (R453, R455), from each port's mean queued bytes over the window. -/
def hottest (s : State) (queued : List Nat) : Option (Nat × Nat) :=
  let up := (List.range 8).filter (fun p => (getP s p).role == 3 && decide ((getP s p).st = .up))
  let hot := up.filterMap (fun p =>
    let q := queued.getD p 0
    let others := up.filter (fun x => x != p)
    let sum := others.foldl (fun n x => n + queued.getD x 0) 0
    if others.isEmpty = false ∧ fieldOf (flowCtrl s) 47 40 * 16384 ≤ q ∧ fieldOf (flowCtrl s) 39 32 * sum ≤ 4 * q * others.length then
      some (p, if sum = 0 then 0xFFFF else min 0xFFFF (256 * q * others.length / sum))
    else none)
  hot.foldl (fun (b : Option (Nat × Nat)) x => match b with | none => some x | some y => if y.2 < x.2 then some x else b) none

/-- WINDOW of the flow monitor in µs (R455). -/
def flowWindow (s : State) : Nat := fieldOf (flowCtrl s) 15 0 * 100

/-- FLOW_MONITOR_WINDOW (R453, R454): the window ends with the mean bytes queued at each port, and the next begins. Queue pairs a replacement left behind are moved again. -/
def execFlowMonitorWindow (queued : List Nat) (s : State) : Out :=
  alive s (
    if s.now < s.fab.flowEnd then s
    else
      let s : State := { s with fab := { s.fab with flowEnd := s.now + flowWindow s } }
      let s := match hottest s queued with
        | none => s
        | some (p, ratio) =>
          let s := { s with fab := { s.fab with flowEvents := wrapAdd 32 s.fab.flowEvents 1, flowRatio := ratio, flowMoves := 0, hotPort := p } }
          let s := logEvent s (evOf 0x07 0 sevInfo 0 [p, PortSt.up.code, PortSt.up.code])
          if bitOf (flowCtrl s) 16 = false ∨ s.fab.nextKey.isSome then s
          else
            let hold := fieldOf (flowCtrl s) 63 48 * 1000
            let qs := s.fab.qps.filter (fun q => q.port == some p && (q.movedAt == 0 || decide (q.movedAt + hold ≤ s.now)))
            let load := (List.range 8).map (fun x => (x, portSent s x))
            (rebalance s p qs.length qs load []).foldl (fun s m => modQp s (fun q => q.num == m.1 && q.peer == m.2.1) (fun q => q.moving s m.2.2)) s
      modQp s (fun _ => true) (fun q =>
        let q := { q with sent := 0 }
        if q.rekey ∧ q.moveTo = none then
          (match hashPort (flowKeyNow s) (trunkSet s (routeOf s q.peer)) q.peer q.cls with | some p => q.moving s p | none => q)
        else q))

/-- QUEUE_PAIR_MOVE (R453, R454): once none of its packets is unacknowledged the queue pair is bound to its new port; after 2 × RTO it stays where it is for this time. -/
def execQueuePairMove (peer cls : Nat) (s : State) : Out :=
  alive s (
    match findQp s peer cls with
    | none => s
    | some q =>
      match q.moveTo with
      | none => s
      | some p =>
        let here : QPair → Bool := fun x => x.peer == peer && x.cls == cls
        if q.unacked.isEmpty then
          let s := { s with fab := { s.fab with flowMoves := if q.rekey then s.fab.flowMoves else min 64 (s.fab.flowMoves + 1) } }
          pumpQp (modQp s here (fun x => { x with port := some p, moveTo := none, rekey := false, movedAt := s.now })) peer cls
        else if q.moveBy ≤ s.now then pumpQp (modQp s here (fun x => { x with moveTo := none })) peer cls
        else s)

/-- FAB_FLOW_KEY_NEXT_WRITE (R454: the replacement lasts to the end of the next window; the register keeps what was last written, for a write of one half, and reads 0): every queue pair on a trunk port is to be rebound under the new key; ignored while a replacement is in progress. -/
def execFabFlowKeyNextWrite (who : Req) (v : W64) (s : State) : Out :=
  alive s (
    if isPhysical who = false ∨ s.fab.nextKey.isSome then s
    else
      let s := setReg { s with fab := { s.fab with nextKey := some v, keyEnd := max s.now s.fab.flowEnd + flowWindow s } } 0x502008 v
      modQp s (fun q => q.port.isSome) (fun q =>
        match hashPort v (trunkSet s (routeOf s q.peer)) q.peer q.cls with
        | some p => { q.moving s p with rekey := true }
        | none => q))

/-- FLOW_KEY_REPLACEMENT_END (R454): once the window of the replacement has ended, the new key is the flow key. -/
def execFlowKeyReplacementEnd (s : State) : Out :=
  alive s (
    match (if s.fab.keyEnd ≤ s.now then s.fab.nextKey else none) with
    | some k => { s with fab := { s.fab with flowKey := k, nextKey := none } }
    | none => s)

end Sys2Proof.Machine
end

