-- ==== Sys2Proof/Machine/Composition.lean ====
section
/-!
DEFINITION. Compositions (spec chapter 17): the map and its checks, the epoch commit, beats and losses, parting, stand-in and restore, mirror rebuild, and the
fabric manager's messages.
-/

namespace Sys2Proof.Machine

open Sys2Proof

/-! ### Registers and the map record -/

/-- CMP_CTRL (R499). -/
def cmpCtrl (s : State) : W64 := s.regs.get 0x0000000A030003E8 0x800000
/-- VOTE_TO in µs (R499). -/
def voteTo (s : State) : Nat := fieldOf (cmpCtrl s) 39 32 * 100
/-- LOSS × BEAT in µs (R490). -/
def lossTime (s : State) : Nat := fieldOf (cmpCtrl s) 27 24 * fieldOf (cmpCtrl s) 15 0
/-- BEAT in µs (R499). -/
def beatTime (s : State) : Nat := fieldOf (cmpCtrl s) 15 0

/-- A member entry from its 16 bytes (R479), and whether its reserved bits are 0. -/
def memberOfBytes (bs : List Byte) : MapMember × Bool :=
  let dev := fieldBytes bs 0 2
  let part := fieldBytes bs 6 2
  let succ := fieldBytes bs 14 2
  let flags := fieldBytes bs 3 1
  ({ device := dev % 2 ^ 15, pers := fieldBytes bs 2 1, parting := natBit flags 0, domain := fieldBytes bs 4 2, partner := part % 2 ^ 15,
     ring := fieldBytes bs 8 2, position := fieldBytes bs 10 2, ingestGroup := fieldBytes bs 12 2, successor := succ % 2 ^ 15 },
   decide (dev < 2 ^ 15 ∧ part < 2 ^ 15 ∧ succ < 2 ^ 15 ∧ flags < 2))

/-- A ring entry from its 16 bytes (R480). -/
def ringOfBytes (bs : List Byte) : MapRing × Bool :=
  ({ rack := fieldBytes bs 0 2, segment := fieldBytes bs 2 1, kind := fieldBytes bs 3 1, length := fieldBytes bs 4 2, spare := fieldBytes bs 6 2,
     spareDevice := fieldBytes bs 8 2 }, decide (fieldBytes bs 10 6 = 0))

/-- A departed entry from its 8 bytes (R480). -/
def departedOfBytes (bs : List Byte) : MapDeparted := { device := fieldBytes bs 0 2, successor := fieldBytes bs 2 2, epoch := fieldBytes bs 4 4 }

/-- A map record from device memory (R478 to R480). -/
def mapAt (m : Mem) (a : Nat) : CompMap :=
  let hd := m.read a 64
  let nm := fieldBytes hd 10 2
  let nr := fieldBytes hd 23 1
  let nd := fieldBytes hd 24 2
  let fits := decide (nm ≤ 1024 ∧ nr ≤ 64 ∧ nd ≤ 1024)
  let body := if fits then m.read (a + 64) (16 * nm + 16 * nr + 8 * nd) else []
  let ms := if fits then (List.range nm).map (fun i => memberOfBytes (sliceBytes body (16 * i) 16)) else []
  let rs := if fits then (List.range nr).map (fun i => ringOfBytes (sliceBytes body (16 * nm + 16 * i) 16)) else []
  let ds := if fits then (List.range nd).map (fun i => departedOfBytes (sliceBytes body (16 * nm + 16 * nr + 8 * i) 8)) else []
  { magicOk := fits && decide (fieldBytes hd 0 8 = 0x3150414D43395851) && decide (fieldBytes hd 28 32 = 0) && decide (fieldBytes hd 8 2 < 2 ^ 12) &&
      decide (fieldBytes hd 20 2 < 2 ^ 15) && ms.all (·.2) && rs.all (·.2)
    crcOk := fits && crcHolds (hd ++ body) 60
    comp := fieldBytes hd 8 2 % 2 ^ 12, epoch := fieldBytes hd 12 4, baseEpoch := fieldBytes hd 16 4, index := fieldBytes hd 20 2 % 2 ^ 15,
    shards := fieldBytes hd 22 1, drainMs := fieldBytes hd 26 2, members := ms.map (·.1), rings := rs.map (·.1), departed := ds }

/-- The map that CMP_MAP_CMD names (R483, R533): one that cannot be read, or crosses the parts of the carve, fails check 1. -/
def mapNamed (s : State) (a : Nat) : CompMap :=
  match logicalCarve s a with
  | some x =>
    let m := mapAt s.dev x.1
    if 64 ≤ x.2 ∧ mapBytes m ≤ x.2 then m else { m with magicOk := false }
  | none => { mapAt [] 0 with magicOk := false }

/-! ### Checks on a proposed map (R481) -/

/-- Devices of a map. -/
def mapDevices (m : CompMap) : List Nat := m.members.map (·.device)

/-- No number occurs twice. -/
def distinct : List Nat → Bool
  | [] => true
  | x :: xs => !(xs.contains x) && distinct xs

/-- Check 1: the record is well formed, its values are not reserved, and no device is listed twice. -/
def mapCheck1 (m : CompMap) : Bool :=
  m.magicOk && m.crcOk && distinct (mapDevices m) &&
  decide (m.comp < 4096 ∧ 1 ≤ m.members.length ∧ m.members.length ≤ 1024 ∧ m.rings.length ≤ 64 ∧ m.departed.length ≤ 1024 ∧ 1 ≤ m.epoch ∧
    m.epoch ≤ 0xFFFFFFFE ∧ 1 ≤ m.shards ∧ m.shards ≤ 32) &&
  (decide (0xA ≤ m.drainMs ∧ m.drainMs ≤ 0x2710) || (m.drainMs == 0 && m.baseEpoch == 0)) &&
  m.members.all (fun x => decide (x.device < noDevice ∧ 1 ≤ x.pers ∧ x.pers ≤ 3) && (x.parting || x.successor == noDevice) &&
    (x.pers == 3 || x.ingestGroup == 0xFFFF)) &&
  m.rings.all (fun r => decide (r.segment ≤ 3 ∧ r.kind ≤ 1 ∧ 2 ≤ r.length ∧ (r.spare < r.length ∨ r.spare = 0xFFFF)))

/-- Check 5: partners of P and C members are of their personality in another domain, where they are members; a G member has none. -/
def mapCheck5 (m : CompMap) : Bool :=
  m.members.all (fun x =>
    if x.pers = 2 then x.partner == noDevice
    else
      x.partner != x.device && (match mapMember m x.partner with
        | some p => p.pers == x.pers && p.domain != x.domain
        | none => true))

/-- Check 6: INDEX names a C member that is not parting, and is absent only without a C member. -/
def mapCheck6 (m : CompMap) : Bool :=
  if m.index = noDevice then m.members.all (fun x => x.pers != 3)
  else match mapMember m m.index with
    | some x => x.pers == 3 && !x.parting
    | none => false

/-- Check 7: ring lengths, segments of a rack, spares, positions. -/
def mapCheck7 (m : CompMap) : Bool :=
  m.rings.all (fun r =>
    if r.kind = 0 then
      decide (r.length ≤ 64) && (decide (8 ≤ r.length) == (r.spare != 0xFFFF)) &&
      decide ((m.rings.filter (fun x => x.kind == 0 && x.rack == r.rack)).length ≤ 4)
    else decide (r.length ≤ 1024)) &&
  m.members.all (fun x => x.ring == 0xFFFF || (match m.rings[x.ring]? with
    | some r => decide (x.position < r.length)
    | none => false))

/-- Check 10, for a host's map (R481, R494): it removes no member, names as SUCCESSOR of a parting member its partner or none, and keeps the departed entries but those of
devices it lists again. -/
def mapCheck10 (old : Option CompMap) (m : CompMap) : Bool :=
  let before := match old with | some o => o.members | none => []
  let gone := match old with | some o => o.departed | none => []
  before.all (fun x => (mapMember m x.device).isSome) &&
  m.members.all (fun x => x.successor == noDevice || x.successor == x.partner) &&
  m.departed == gone.filter (fun d => (mapMember m d.device).isNone)

/-- The first check of R481 that a map fails here, as a code; 0 where none does. `host` adds check 10, which the leader makes. -/
def checkMap (s : State) (m : CompMap) (host : Bool) : Nat :=
  let held := membership? s m.comp
  let stale := match held with | some h => h.map.epoch != m.baseEpoch | none => false
  let other := match held with
    | some h => match h.prepared with | some p => p.epoch == m.epoch && p != m | none => false
    | none => s.cmp.joins.any (fun j => j.comp == m.comp && j.epoch == m.epoch && j != m)
  if mapCheck1 m = false then Code.cmpMapRejected
  else if stale || other then Code.cmpEpochConflict
  else if m.epoch ≠ m.baseEpoch + 1 ∨ (m.baseEpoch = 0 ∧ held.isSome) then Code.cmpMapRejected
  else if (match mapMember m (self s) with
      | some x => x.pers != (match s.pers with | some .prompt => 1 | some .generation => 2 | some .cache => 3 | none => 0) || x.domain != s.ident.domain ||
          x.partner != s.ident.partner
      | none => false) then Code.cmpMapRejected
  else if mapCheck5 m = false then Code.cmpMapRejected
  else if mapCheck6 m = false then Code.cmpMapRejected
  else if mapCheck7 m = false then Code.cmpMapRejected
  else if held.isNone ∧ (mapMember m (self s)).isSome ∧ 64 ≤ s.comps.length then Code.cmpMapRejected
  else if s.cmp.restoreState = 1 ∨ s.cmp.restoreState = 3 then Code.cmpMapRejected
  else if host ∧ mapCheck10 (held.map (·.map)) m = false then Code.cmpMapRejected
  else 0

/-! ### Sending, the leader and the proposal's result -/

/-- Send composition control: on class 0, under this device's epoch of the composition or 0 (R482, R486). -/
def ctl (s : State) (comp d : Nat) (msg : Msg) : State :=
  let e := match membership? s comp with | some m => m.map.epoch % 2 ^ 16 | none => 0
  transmit s ⟨d, comp, e, 0, false, 0, msg⟩ none

/-- Whether a device has been declared lost in a composition (R490). -/
def isLost (s : State) (comp d : Nat) : Bool := s.cmp.lost.contains (comp, d)

/-- The lowest of some device IDs; none is 0x7FFF. -/
def lowest (l : List Nat) : Nat := l.foldl min noDevice

/-- The leader of a composition (R482). -/
def leaderOf (s : State) (m : CompMap) : Nat :=
  lowest ((m.members.filter (fun x => !x.parting && !(isLost s m.comp x.device))).map (·.device))

/-- Whether this device leads a composition. -/
def leads (s : State) (comp : Nat) : Bool :=
  match membership? s comp with
  | some m => leaderOf s m.map == self s
  | none => false

/-- The proposal of this device completes (R483): CMP_MAP_STATUS. -/
def proposalDone (s : State) (comp code voter : Nat) (epoch : Option Nat) : State :=
  if s.cmp.busy = some comp then
    { s with cmp := { s.cmp with busy := none, result := code, voter := voter, epoch := epoch.getD s.cmp.epoch } }
  else s

/-- The change this device leads in a composition. -/
def findChange (s : State) (comp : Nat) : Option CmpChange := s.cmp.changes.find? (fun c => c.map.comp == comp)

/-- Change the change led in a composition. -/
def modChange (s : State) (comp : Nat) (f : CmpChange → CmpChange) : State :=
  { s with cmp := { s.cmp with changes := mapIf (fun c => c.map.comp == comp) f s.cmp.changes } }

/-- Report a proposal's result (R482, R483): to the proposing member; a leader that took a change over tells every device asked. -/
def report (s : State) (c : CmpChange) (code voter : Nat) : State :=
  let e := if code = 0 then c.map.epoch else match membership? s c.map.comp with | some m => m.map.epoch | none => 0
  let told := if c.takeover then c.asked else if c.proposer = noDevice then [] else [c.proposer]
  told.foldl (fun s d => if d = self s then proposalDone s c.map.comp code voter (some e) else ctl s c.map.comp d (.result e code voter)) s

/-- Discard the prepared map of an epoch (R483). -/
def dropPrepared (s : State) (comp epoch : Nat) : State :=
  { s with
    comps := mapIf (fun m => m.map.comp == comp && m.prepared.any (fun p => p.epoch == epoch)) (fun m => { m with prepared := none }) s.comps
    cmp := { s.cmp with
      joins := s.cmp.joins.filter (fun (j : CompMap) => !(j.comp == comp && j.epoch == epoch))
      votes := s.cmp.votes.filter (fun (v : Voted) => !(v.comp == comp && v.epoch == epoch)) } }

/-! ### What a departure does -/

/-- A record is served through a composition as far as a device's departure from it goes (R232): it names it, or it names none and the device is in no other. -/
def servedBy (s : State) (recComp comp d : Nat) : Bool := recComp == comp || (recComp == 0xFFFF && !(present s d))

/-- Instructions end with a code and their tile work is dropped. -/
def cancelWork (s : State) (ids : List Nat) (code : Nat) : State :=
  let s := ids.foldl (fun s i => finish s i code) s
  { s with til := { s.til with
    tasks := s.til.tasks.filter (fun k => !(ids.contains k.instr)), descs := s.til.descs.filter (fun d => !(ids.contains d.instr))
    walks := s.til.walks.filter (fun w => !(ids.contains w.instr)) } }

/-- Every message to a lost device that is unacknowledged or awaits completion ends with CMP_LOST_MEMBER (R491); one under another composition it shares goes on. -/
def endMessages (s : State) (comp d : Nat) : State :=
  let code := Code.cmpLostMember
  let hit := fun (m : SendMsg) => m.out.dst == d && m.out.comp == comp
  let qmsgs := (s.fab.qps.flatMap (·.msgs)).filter hit
  let loose := (s.fab.waiting ++ s.fab.refused).filter hit
  let quiet := fun (m : SendMsg) => { m with tag := none, holds := none, resent := true }
  let s := { s with fab := { s.fab with
    waiting := s.fab.waiting.filter (fun m => !(hit m)), refused := s.fab.refused.filter (fun m => !(hit m))
    qps := s.fab.qps.map (fun q => { q with msgs := mapIf hit quiet q.msgs }) } }
  let s := (qmsgs ++ loose).foldl (fun s m => messageDone s { m with resent := true } code) s
  let s := ((s.reads.filter (fun r => r.dst == d)).map (·.id)).foldl (fun s i => readFailed s i code) s
  let fwd := s.tz.started.filter (fun r => decide (r.phase = .waiting) && (r.ent.opcode == opPublish || r.ent.opcode == opDiscard) && hHome r.ent.a == d)
  let s := fwd.foldl (fun s r => finish s r.id code) s
  let s := (s.tz.splits.filter (fun x => x.parts.any (fun p => p.device == d))).foldl (fun s x => splitFailed (partLost s x.instr d) x.instr) s
  let idx := match membership? s comp with | some m => m.map.index == d | none => false
  let look := if idx then s.tz.started.filter (fun r => r.ent.opcode == opPmatch && r.ent.b % 2 ^ 12 == comp && decide (r.phase = .waiting)) else []
  let s := look.foldl (fun s r => finish s r.id code) s
  let drop := fun (m : McastMember) => if m.device = d ∧ m.acked = false ∧ m.code = 0 then { m with opened := true, code := code } else m
  let casts := (s.fab.mcasts.filter (fun x => x.members.any (fun m => m.device == d))).map (fun x => (x.group, x.psn))
  let s := { s with fab := { s.fab with mcasts := s.fab.mcasts.map (fun x => { x with members := x.members.map drop }) } }
  casts.foldl (fun s x => mcastGo s x.1 x.2) s

/-- Castles with a device that has gone (R232): an owner before ACCEPT takes its sequence back; a target before ACCEPT frees what it has and asks the home. -/
def endCastles (s : State) (comp d : Nat) : State :=
  let mine := s.own.copies.filter (fun c => c.peer == d && c.castleComp == comp)
  mine.foldl (fun s c =>
    if c.st = .offered ∨ c.st = .pulled then castleEnds s c.handle Code.cmpLostMember
    else if c.st = .pulling then
      let s := dropCopy (freeCopyPages s c.handle) c.handle
      askHome s c.handle 1 { device := self s, side := 1, complete := false, epoch := c.epoch, entries := [] } startArb
    else s) s

/-- Members and leader beat only to each other (R490): where the leader is another than `old`, the silence of every member counts from now (DEDUCED, log 21). -/
def newLeader (s : State) (comp old : Nat) : State :=
  if (membership? s comp).any (fun m => leaderOf s m.map == old) then s
  else { s with cmp := { s.cmp with beats := mapIf (fun b => b.comp == comp) (fun b => { b with at_ := s.now }) s.cmp.beats } }

/-- The leader of a composition this device is in; 0x7FFF for another. -/
def leaderNow (s : State) (comp : Nat) : Nat := match membership? s comp with | some m => leaderOf s m.map | none => noDevice

/-- A device is declared lost in a composition (R490, R491). -/
def declareLost (s : State) (comp d : Nat) : State :=
  if isLost s comp d then s
  else
    let old := leaderNow s comp
    let s := newLeader { s with cmp := { s.cmp with lost := s.cmp.lost ++ [(comp, d)] } } comp old
    let s := if s.cmp.restoreState = 1 ∧ d = s.ident.partner then
        { s with cmp := { s.cmp with restoreState := 3, restoreResult := Code.cmpLostMember } } else s
    let epoch := match membership? s comp with | some m => m.map.epoch | none => 0
    endMessages (logEvent s (evOf 0x08 Code.cmpLostMember sevContained 0 [comp, epoch, d])) comp d

/-- Homes rule on their own the records whose owner has gone without a castle in progress (R232), and at a drain deadline those whose castle has not completed (R233). -/
def ruleOwners (s : State) (comp d : Nat) (deadline : Bool) : State :=
  let lost := s.own.homes.filter (fun r => r.desc.owner == d && servedBy s r.desc.comp comp d && (r.desc.state != 1 || deadline) && r.arb.isNone)
  lost.foldl (fun s r => ruleLost s r.desc.handle ([r.desc.target].filter (present s))) s

/-- The partner of a departed home answers for the records it mirrors, and mirrors them whole under a new VERSION (R36). -/
def adoptHomes (s : State) (comp d : Nat) : State :=
  let mine := s.own.mirrors.filter (fun m => hHome m.handle == d && servedBy s m.comp comp d)
  mine.foldl (fun s m =>
    let s := asHome s m.handle
    if partnerUp s ∧ (findHome s m.handle).isSome then homeUpdate s m.handle .resend .none else s) s

/-- A home device is back (R36): this partner sends it each record it has answered for, holds it again as its mirror, and has it deleted at its own partner. -/
def homesBack (s : State) (comp d : Nat) : State :=
  let mine := s.own.homes.filter (fun r => hHome r.desc.handle == d && d != self s && (r.desc.comp == comp || r.desc.comp == 0xFFFF))
  mine.foldl (fun s r =>
    let h := r.desc.handle
    let s := { s with own := { s.own with
      homes := s.own.homes.filter (fun x => !(x.desc.handle == h)), mirrors := s.own.mirrors.filter (fun m => !(m.handle == h)) ++ [r.desc] } }
    let s := if partnerUp s then control s s.ident.partner h (.recordDelete (r.desc.version + 1)) else s
    controlVia s comp d h (.recordMsg r.desc.version r.desc)) s

/-- Owners ask the partner that answers as home for what the home that has gone had not answered, and a home that is back for what its partner had not (R36, R216). -/
def ownersGoOn (s : State) (served : Nat → Bool) (d : Nat) : State :=
  let mine := s.own.copies.filter (fun c => hHome c.handle == d && served c.desc.comp && !c.waits.isEmpty)
  let s := mine.foldl (fun s c => askAgain s c.handle) s
  (s.own.releasing.filter (fun w => hHome w.handle == d && served w.comp)).foldl releaseAgain s

/-- Publishing while a device has gone (R385, R391): it owes no more answers, and an index whose partner has gone waits for none. -/
def endPublishing (s : State) (comp d : Nat) : State :=
  let wait := s.rgn.drafts.filter (fun x => x.comp == comp && x.awaiting.contains d)
  let s := wait.foldl (fun s x =>
    let f := fun (y : DraftNode) => { y with awaiting := y.awaiting.filter (fun a => a != d), failed := y.failed ++ [(d, Code.cmpLostMember)] }
    distributionDone { s with rgn := { s.rgn with drafts := mapIf (fun y => y.handle == x.handle) f s.rgn.drafts } } x.handle) s
  if d = s.ident.partner then
    (s.rgn.treeWaits.filter (fun w => w.comp == comp)).foldl (fun s w =>
      let s := { s with rgn := { s.rgn with treeWaits := s.rgn.treeWaits.erase w } }
      match w.commit with
      | some c =>
        let x := enterNode s comp w.node c
        if w.answer = self s then indexVerdict x.1 w.node 0 x.2 else control x.1 w.answer w.node (.indexCommitted 0 x.2)
      | none => s) s
  else s

/-- What the removal of a member does here once the map without it is in force (R489, R491). -/
def memberGone (s : State) (comp : Nat) (x : MapMember) (m : CompMap) : State :=
  let d := x.device
  let s := endMessages s comp d
  let s := endCastles s comp d
  let s := adoptHomes s comp d
  let s := ruleOwners s comp d (x.parting && !(isLost s comp d))
  let s := ownersGoOn s (fun k => servedBy s k comp d) d
  let s := endPublishing s comp d
  let succ := match m.departed.find? (fun y => y.device == d) with | some y => y.successor | none => noDevice
  let renamed := fun (n : TreeNode) => { n with holders := n.holders.map (fun h => if h = d then succ else h) }
  let s := if x.parting then { s with rgn := { s.rgn with
      tree := mapIf (fun n => n.comp == comp) renamed s.rgn.tree, mirrorTree := mapIf (fun n => n.comp == comp) renamed s.rgn.mirrorTree } } else s
  { s with
    rgn := { s.rgn with leases := s.rgn.leases.filter (fun l => !(l.device == d && hCls l.object == clsNode && !(present s d))) }
    cmp := { s.cmp with
      lost := s.cmp.lost.filter (fun y => y != (comp, d)), beats := s.cmp.beats.filter (fun b => !(b.comp == comp && b.device == d))
      drains := s.cmp.drains.filter (fun y => !(y.1 == comp && y.2.1 == d)), drained := s.cmp.drained.filter (fun y => y != (comp, d)) } }

/-- The index role passes to this device (R489, R491): with the tree it mirrors, else with a tree that holds only the root. -/
def takeIndex (s : State) (comp : Nat) : State :=
  let mine := s.rgn.mirrorTree.filter (fun n => n.comp == comp)
  let top := (mine.filter (fun n => n.parent == nullHandle)).foldl (fun v n => max v n.seqNo) (rootVersionOf s comp)
  { s with rgn := { s.rgn with
    tree := s.rgn.tree.filter (fun n => n.comp != comp) ++ mine, mirrorTree := s.rgn.mirrorTree.filter (fun n => n.comp != comp)
    rootVersion := if mine.isEmpty then s.rgn.rootVersion.set comp 1 else s.rgn.rootVersion.set comp top } }

/-- This device leaves a composition (R489, R492): its membership, its sequences and shards of it, its drafts and its trees go, and the instructions on them end with
CMP_LOST_MEMBER. -/
def leaveComp (s : State) (comp : Nat) : State :=
  let s := { s with
    comps := s.comps.filter (fun m => m.map.comp != comp)
    cmp := { s.cmp with
      changes := s.cmp.changes.filter (fun c => c.map.comp != comp), votes := s.cmp.votes.filter (fun v => v.comp != comp)
      beats := s.cmp.beats.filter (fun b => b.comp != comp), lost := s.cmp.lost.filter (fun y => y.1 != comp)
      drains := s.cmp.drains.filter (fun y => y.1 != comp), drained := s.cmp.drained.filter (fun y => y.1 != comp)
      told := s.cmp.told.filter (fun y => y != comp) } }
  let seqs := (s.own.copies.filter (fun c => servedBy s c.desc.comp comp (self s))).map (·.handle)
  let nodes := (s.rgn.holds.filter (fun n => n.comp == comp)).map (·.handle) ++ (s.rgn.drafts.filter (fun n => n.comp == comp)).map (·.handle)
  let busy := (s.tz.started.filter (fun r => (objectsOf s r.ent r.blk).any (fun h => seqs.contains h || nodes.contains h))).map (·.id)
  let s := cancelWork s busy Code.cmpLostMember
  let s := freePages s (fun p => seqs.contains p.obj || nodes.contains p.obj)
  { s with
    own := { s.own with
      copies := s.own.copies.filter (fun c => !(seqs.contains c.handle)), homes := s.own.homes.filter (fun r => r.desc.comp != comp)
      mirrors := s.own.mirrors.filter (fun r => r.comp != comp), preempting := s.own.preempting.filter (fun h => !(seqs.contains h)) }
    rgn := { s.rgn with
      holds := s.rgn.holds.filter (fun n => n.comp != comp), drafts := s.rgn.drafts.filter (fun n => n.comp != comp)
      tree := s.rgn.tree.filter (fun n => n.comp != comp), mirrorTree := s.rgn.mirrorTree.filter (fun n => n.comp != comp) } }

/-! ### Applying a map -/

/-- Units of state this device mirrors at its partner (R496). -/
def mirrorUnits (s : State) : Nat :=
  s.own.homes.foldl (fun n r => n + recordGranules r.desc) 0 + s.pages.foldl (fun n p => if p.kind == .shard then n + p.units else n) 0

/-- CMP_MIRROR_STATUS after the set of members present has changed (R496): a partner that has come is to be rebuilt, one that has gone leaves updates unmirrored. -/
def mirrorEval (was : Bool) (s : State) : State :=
  if s.ident.partner = noDevice ∨ self s = noDevice then s
  else if present s s.ident.partner then
    (if was ∧ s.cmp.mirrorState ≠ 1 then s else { s with cmp := { s.cmp with mirrorState := 2, mirrorUnits := mirrorUnits s } })
  else { s with cmp := { s.cmp with mirrorState := 1, mirrorUnits := mirrorUnits s } }

/-- Apply a committed map (R483 step 5, R484): the map before it stays as the map of E − 1. -/
def applyMap (s : State) (m : CompMap) : State :=
  let m := if m.baseEpoch = 0 ∧ m.drainMs = 0 then { m with drainMs := 0x32 } else m
  let was := present s s.ident.partner
  let then_ := s
  let old := membership? s m.comp
  if (mapMember m (self s)).isNone then mirrorEval was (leaveComp (dropPrepared s m.comp m.epoch) m.comp)
  else
    let free := (firstFrom (fun n => !(s.comps.any (fun x => x.slot == n))) 64 0).getD 0
    let s := dropPrepared s m.comp m.epoch
    let keep := fun (x : Membership) => { x with map := m, prev := old.map (·.map), prepared := none }
    let comps : List Membership :=
      if old.isSome then mapIf (fun x => x.map.comp == m.comp) keep s.comps else s.comps ++ [{ slot := free, map := m, prev := none, prepared := none }]
    let s := { s with comps := comps }
    let s := newLeader s m.comp (match old with | some o => leaderOf then_ o.map | none => noDevice)
    let before := match old with | some o => o.map.members | none => []
    let fresh := m.members.filter (fun x => !(before.any (fun y => y.device == x.device)))
    let parting := m.members.filter (fun x => x.parting && !(before.any (fun y => y.device == x.device && y.parting)))
    let seen := fresh.map (fun x => ({ comp := m.comp, device := x.device, at_ := s.now, frames := 0, seqs := 0, updating := false } : BeatSeen))
    let s := { s with cmp := { s.cmp with
      beats := s.cmp.beats ++ seen, drains := s.cmp.drains ++ parting.map (fun x => (m.comp, x.device, s.now)) } }
    let s := (before.filter (fun (x : MapMember) => (mapMember m x.device).isNone)).foldl (fun s x => memberGone s m.comp x m) s
    let s := fresh.foldl (fun s x => ownersGoOn (homesBack s m.comp x.device) (fun k => k == m.comp || k == 0xFFFF) x.device) s
    let passed := match old with | some o => o.map.index != self s | none => false
    let s := if passed && m.index == self s then takeIndex s m.comp else s
    serve (mirrorEval was s)

/-! ### The leader's side of a change -/

/-- The change is complete when every device asked, but those lost, has applied it (R483, R484). -/
def tryEnd (s : State) (comp : Nat) : State :=
  match findChange s comp with
  | none => s
  | some c =>
    if c.committed ∧ c.asked.all (fun d => c.applied.contains d || isLost s comp d) then
      report { s with cmp := { s.cmp with changes := s.cmp.changes.filter (fun x => x.map.comp != comp) } } c 0 noDevice
    else s

/-- COMMIT (R483 step 4). -/
def commitChange (s : State) (comp : Nat) : State :=
  match findChange s comp with
  | none => s
  | some c =>
    let s := (c.asked.filter (fun d => d != self s)).foldl (fun s d => ctl s comp d (.mapCommit c.map.epoch)) s
    let fresh := match membership? s comp with | some m => decide (m.map.epoch < c.map.epoch) | none => true
    let s := if fresh then applyMap s c.map else s
    tryEnd (modChange s comp (fun x => { x with committed := true, since := s.now, applied := c.applied ++ [self s] })) comp

/-- ABORT (R483 step 4, R484). -/
def abortChange (s : State) (comp code voter : Nat) : State :=
  match findChange s comp with
  | none => s
  | some c =>
    let s := (c.asked.filter (fun d => d != self s)).foldl (fun s d => ctl s comp d (.mapAbort c.map.epoch code)) s
    let s := dropPrepared { s with cmp := { s.cmp with changes := s.cmp.changes.filter (fun x => x.map.comp != comp) } } comp c.map.epoch
    report s c code voter

/-- With every answer in, a change commits, or one taken over that nobody had applied aborts (R483). -/
def tryCommit (s : State) (comp : Nat) : State :=
  match findChange s comp with
  | none => s
  | some c =>
    if c.committed ∨ !(c.asked.all (fun d => c.yes.contains d || isLost s comp d)) then s
    else if c.takeover then abortChange s comp Code.cmpLostMember noDevice
    else commitChange s comp

/-- Store a map this device votes yes for (R483 step 3). -/
def prepareMap (s : State) (m : CompMap) : State :=
  let s := match membership? s m.comp with
    | some _ => { s with comps := mapIf (fun x => x.map.comp == m.comp) (fun x => { x with prepared := some m }) s.comps }
    | none => { s with cmp := { s.cmp with joins := s.cmp.joins.filter (fun (j : CompMap) => j.comp != m.comp) ++ [m] } }
  let v : Voted := { comp := m.comp, epoch := m.epoch, at_ := s.now }
  { s with cmp := { s.cmp with votes := s.cmp.votes.filter (fun (v : Voted) => v.comp != m.comp) ++ [v] } }

/-- Begin a change (R483 step 3): PREPARE to every member of the base map and of the new one; the leader checks the map itself. -/
def startChange (s : State) (m : CompMap) (proposer : Nat) (takeover : Bool) : State :=
  let base := match membership? s m.comp with
    | some x => mapDevices (if x.map.epoch = m.epoch then x.prev.getD x.map else x.map)
    | none => []
  let asked := base ++ (mapDevices m).filter (fun d => !(base.contains d))
  let c : CmpChange := {
    map := m, proposer := proposer, asked := asked, yes := [], committed := false, applied := [], since := s.now, takeover := takeover }
  let s := { s with cmp := { s.cmp with changes := s.cmp.changes ++ [c] } }
  let s := (asked.filter (fun d => d != self s)).foldl (fun s d => ctl s m.comp d (.prepare m)) s
  if takeover then
    if (membership? s m.comp).any (fun x => x.map.epoch == m.epoch) then commitChange s m.comp
    else tryCommit (modChange s m.comp (fun x => { x with yes := [self s] })) m.comp
  else
    let code := checkMap s m (proposer != noDevice)
    if code ≠ 0 then abortChange s m.comp code (self s)
    else tryCommit (modChange (prepareMap s m) m.comp (fun x => { x with yes := [self s] })) m.comp

/-- The map that removes some members (R485, R489, R491): departed entries name their successors, INDEX passes on. -/
def removalMap (m : CompMap) (gone : List Nat) : CompMap :=
  let left := m.members.filter (fun x => !(gone.contains x.device))
  let out := m.members.filter (fun x => gone.contains x.device)
  let succ := fun (x : MapMember) => if x.parting then x.successor else if x.pers = 2 then noDevice else x.partner
  let index :=
    match out.find? (fun x => x.device == m.index) with
    | none => m.index
    | some x =>
      if left.any (fun y => y.device == succ x && y.pers == 3 && !y.parting) then succ x
      else lowest ((left.filter (fun y => y.pers == 3 && !y.parting)).map (·.device))
  { m with
    epoch := m.epoch + 1, baseEpoch := m.epoch, index := index, members := left
    departed := m.departed.filter (fun d => !(gone.contains d.device)) ++
      out.map (fun x => { device := x.device, successor := succ x, epoch := m.epoch + 1 }) }

/-- The leader makes the map that is due (R485): it removes the members declared lost and those drained. The last member that parts dissolves the composition. -/
def leaderNext : Nat → State → Nat → State
  | 0, s, _ => s
  | n + 1, s, comp =>
    match membership? s comp with
    | none => s
    | some m =>
      let due := (mapDevices m.map).filter (fun d => isLost s comp d || s.cmp.drained.contains (comp, d))
      if due.isEmpty ∨ (findChange s comp).isSome then s
      else if leaderOf s m.map = self s ∧ m.map.epoch < 0xFFFFFFFE then leaderNext n (startChange s (removalMap m.map due) noDevice false) comp
      else if mapDevices m.map = [self s] then leaveComp s comp
      else s

/-- Go on with what the leader of a composition owes. -/
def leaderGo (s : State) (comp : Nat) : State := leaderNext 4 s comp

/-! ### Composition control messages -/

/-- PROPOSE (R483 step 2, R500). -/
def execPropose (h : Hdr) (map : CompMap) (s : State) : Out :=
  deliveredAs s h (fun s =>
    let held := membership? s map.comp
    let epoch := match held with | some m => m.map.epoch | none => 0
    let mayLead := match held with
      | some m => leaderOf s m.map == self s
      | none => map.baseEpoch == 0 && lowest (mapDevices map) == self s
    let s :=
      if mayLead = false ∨ (findChange s map.comp).isSome ∨ map.baseEpoch ≠ epoch then
        ctl s map.comp h.src (.result epoch (if held.isNone ∧ map.baseEpoch ≠ 0 then Code.cmpNotMember else Code.cmpEpochConflict) noDevice)
      else leaderGo (startChange s map h.src false) map.comp
    (s, 0))

/-- PREPARE (R481, R483 step 3): check, store as prepared, VOTE; a device that has applied the map says so, one that has voted for it votes again. -/
def execPrepare (h : Hdr) (map : CompMap) (s : State) : Out :=
  deliveredAs s h (fun s =>
    let held := membership? s map.comp
    let s :=
      if held.any (fun m => m.map.epoch == map.epoch) then ctl s map.comp h.src (.applied map.epoch)
      else if held.any (fun m => m.prepared == some map) || s.cmp.joins.contains map then
        ctl (prepareMap s map) map.comp h.src (.vote map.epoch 0)
      else
        let code := checkMap s map false
        ctl (if code = 0 then prepareMap s map else s) map.comp h.src (.vote map.epoch code)
    (s, 0))

/-- The map of an epoch that this device has prepared or applied. -/
def knownMap (s : State) (comp epoch : Nat) : Option CompMap :=
  match membership? s comp with
  | some m => if m.map.epoch = epoch then some m.map else m.prepared.bind (fun p => if p.epoch = epoch then some p else none)
  | none => s.cmp.joins.find? (fun j => j.comp == comp && j.epoch == epoch)

/-- VOTE (R483, R484): counted; a vote sent again after the leader's silence makes this device the new leader of that change. -/
def execVote (h : Hdr) (epoch code : Nat) (s : State) : Out :=
  deliveredAs s h (fun s =>
    let s := match findChange s h.comp with
      | some c =>
        if c.map.epoch ≠ epoch ∨ c.committed then s
        else if code ≠ 0 ∧ c.takeover = false then abortChange s h.comp code h.src
        else tryCommit (modChange s h.comp (fun x => { x with yes := x.yes ++ [h.src] })) h.comp
      | none =>
        if code ≠ 0 then s
        else match knownMap s h.comp epoch with
          | some m => startChange s m noDevice true
          | none => ctl s h.comp h.src (.mapAbort epoch Code.cmpLostMember)
    (leaderGo s h.comp, 0))

/-- COMPOSITION_COMMIT (R483 step 5): the map is applied and APPLIED sent. -/
def execCompositionCommit (h : Hdr) (epoch : Nat) (s : State) : Out :=
  deliveredAs s h (fun s =>
    let s := match knownMap s h.comp epoch with
      | some m =>
        let done := (membership? s h.comp).any (fun x => x.map.epoch == epoch)
        let s := if done then s else applyMap s m
        ctl s h.comp h.src (.applied epoch)
      | none => s
    (s, 0))

/-- COMPOSITION_ABORT (R483): the prepared map is discarded. -/
def execCompositionAbort (h : Hdr) (epoch code : Nat) (s : State) : Out :=
  let _ := code
  deliveredAs s h (fun s => (dropPrepared s h.comp epoch, 0))

/-- APPLIED (R483, R484): counted; after a takeover it shows that the change stands. -/
def execApplied (h : Hdr) (epoch : Nat) (s : State) : Out :=
  deliveredAs s h (fun s =>
    let s := match findChange s h.comp with
      | some c =>
        if c.map.epoch ≠ epoch then s
        else
          let s := modChange s h.comp (fun x => { x with applied := x.applied ++ [h.src] })
          if c.committed then tryEnd s h.comp
          else if c.takeover then commitChange s h.comp
          else s
      | none => s
    (leaderGo s h.comp, 0))

/-- COMPOSITION_RESULT (R483): CMP_MAP_STATUS is written and the proposal completes. -/
def execCompositionResult (h : Hdr) (epoch code voter : Nat) (s : State) : Out :=
  deliveredAs s h (fun s => (proposalDone s h.comp code voter (some epoch), 0))

/-- VOTE_TIMEOUT (R484): a member that has not voted, or not applied, within VOTE_TO is declared lost; a member in a live update has 5 ms more. -/
def execVoteTimeout (comp : Nat) (s : State) : Out :=
  awake s (
    match findChange s comp with
    | none => s
    | some c =>
      let upd := fun (d : Nat) => s.cmp.beats.any (fun b => b.comp == comp && b.device == d && b.updating)
      let late := c.asked.filter (fun d => d != self s && !(isLost s comp d) && !((if c.committed then c.applied else c.yes).contains d) &&
        decide (c.since + voteTo s + (if upd d then 5000 else 0) ≤ s.now))
      match late with
      | [] => s
      | d :: _ =>
        let s := late.foldl (fun s d => declareLost s comp d) s
        let s :=
          if c.committed then tryEnd s comp
          else abortChange s comp Code.cmpLostMember (if c.takeover then noDevice else d)
        leaderGo s comp)

/-- LEADER_SILENCE_TIMEOUT (R483): a vote that met neither COMMIT nor ABORT for 2 × VOTE_TO goes to the lowest-ID live member of the base map, which leads. -/
def execLeaderSilenceTimeout (comp : Nat) (s : State) : Out :=
  awake s (
    match s.cmp.votes.find? (fun v => v.comp == comp && decide (v.at_ + 2 * voteTo s ≤ s.now)) with
    | none => s
    | some v =>
      if (findChange s comp).isSome then s
      else
        let base := match membership? s comp with
          | some m => mapDevices m.map
          | none => (s.cmp.joins.filter (fun (j : CompMap) => j.comp == comp)).flatMap mapDevices
        let taker := lowest (base.filter (fun d => !(isLost s comp d)))
        let s := { s with cmp := { s.cmp with votes := mapIf (fun x => x == v) (fun x => { x with at_ := s.now }) s.cmp.votes } }
        if taker = self s then
          match knownMap s comp v.epoch with
          | some m => leaderGo (startChange s m noDevice true) comp
          | none => s
        else ctl s comp taker (.vote v.epoch 0))

/-- CMP_MAP_GO (R483 step 1, R499): a write of CMP_MAP_CMD. -/
def execCmpMapGo (who : Req) (v : W64) (s : State) : Out :=
  alive s (
    if isPhysical who = false then s
    else
      let s := setReg s 0x800008 (BitVec.ofNat 64 (fieldOf v 63 12 * 4096))
      if bitOf v 0 = false ∨ s.cmp.busy.isSome then s
      else
        let m := mapNamed s (fieldOf v 63 12 * 4096)
        let s := { s with cmp := { s.cmp with busy := some m.comp } }
        if mapCheck1 m = false then proposalDone s m.comp Code.cmpMapRejected noDevice none
        else
          match membership? s m.comp with
          | none =>
            if m.baseEpoch ≠ 0 ∨ (mapMember m (self s)).isNone then proposalDone s m.comp Code.cmpNotMember noDevice none
            else if lowest (mapDevices m) = self s then leaderGo (startChange s m (self s) false) m.comp
            else ctl s m.comp (lowest (mapDevices m)) (.propose m)
          | some x =>
            let l := leaderOf s x.map
            if l = self s then
              if (findChange s m.comp).isSome ∨ m.baseEpoch ≠ x.map.epoch then proposalDone s m.comp Code.cmpEpochConflict noDevice (some x.map.epoch)
              else leaderGo (startChange s m (self s) false) m.comp
            else ctl s m.comp l (.propose m))

/-! ### Beats, losses and parting -/

/-- BEAT (R490). -/
def execBeat (h : Hdr) (frames seqs : Nat) (updating : Bool) (s : State) : Out :=
  deliveredHw s h (fun s =>
    let b : BeatSeen := { comp := h.comp, device := h.src, at_ := s.now, frames := frames, seqs := seqs, updating := updating }
    let s := if (membership? s h.comp).any (fun m => (mapMember m.map h.src).isSome) then
        { s with cmp := { s.cmp with beats := s.cmp.beats.filter (fun x => !(x.comp == h.comp && x.device == h.src)) ++ [b] } }
      else s
    (s, 0))

/-- BEAT_SEND_TICK (R490): every BEAT the leader beats to every member, every member to the leader. -/
def execBeatSendTick (s : State) : Out :=
  let msg : Msg := .beat (freeFrames s) ((s.own.copies.filter (fun c => c.st == .owner || c.st == .offered || c.st == .pulled || c.st == .committing)).length)
    (s.fwRun == 3)
  alive s (if s.now < s.cmp.beatAt + beatTime s then s else s.comps.foldl (fun s m =>
    let l := leaderOf s m.map
    if l = self s then ((mapDevices m.map).filter (fun d => d != self s)).foldl (fun s d => ctl s m.map.comp d msg) s
    else if l = noDevice then s
    else ctl s m.map.comp l msg) { s with cmp := { s.cmp with beatAt := s.now } })

/-- Since when a device has sent no BEAT in a composition. -/
def silentSince (s : State) (comp d : Nat) : Nat := match s.cmp.beats.find? (fun b => b.comp == comp && b.device == d) with | some b => b.at_ | none => 0

/-- MEMBER_LOSS (R490, R491): silent for LOSS × BEAT, a member is declared lost by the leader, the leader by the members; a change that still needed its vote fails (R484), and
whoever leads commits the map without it. -/
def execMemberLoss (comp device : Nat) (s : State) : Out :=
  awake s (
    match membership? s comp with
    | none => s
    | some m =>
      let l := leaderOf s m.map
      if (l = self s ∨ l = device) ∧ device ≠ self s ∧ (mapMember m.map device).isSome ∧ silentSince s comp device + lossTime s ≤ s.now then
        let s := declareLost s comp device
        let s := match findChange s comp with
          | some c =>
            if c.committed then tryEnd s comp
            else if c.takeover then tryCommit s comp
            else if c.asked.contains device && !(c.yes.contains device) then abortChange s comp Code.cmpLostMember device
            else s
          | none => s
        leaderGo s comp
      else s)

/-- REMOVED_SELF (R492): a map that removes this device has come, or no BEAT from the leader for LOSS × BEAT. -/
def execRemovedSelf (comp : Nat) (s : State) : Out :=
  awake s (
    match membership? s comp with
    | none => s
    | some m =>
      let l := leaderOf s m.map
      let out := m.prepared.any (fun p => (mapMember p (self s)).isNone)
      if out ∨ (l ≠ self s ∧ l ≠ noDevice ∧ silentSince s comp l + lossTime s ≤ s.now) then leaveComp s comp else s)

/-- DRAIN_DONE (R489). -/
def execDrainDone (h : Hdr) (s : State) : Out :=
  deliveredAs s h (fun s =>
    let ok := leads s h.comp && (membership? s h.comp).any (fun m => (mapMember m.map h.src).any (·.parting))
    (if ok then leaderGo { s with cmp := { s.cmp with drained := s.cmp.drained ++ [(h.comp, h.src)] } } h.comp else s, 0))

/-- DRAIN_DEADLINE_EXPIRY (R489): DRAIN_MS after the epoch that marked the member. -/
def execDrainDeadlineExpiry (comp device : Nat) (s : State) : Out :=
  awake s (
    match membership? s comp with
    | none => s
    | some m =>
      if leads s comp ∧ s.cmp.drains.any (fun d => d.1 == comp && d.2.1 == device && decide (d.2.2 + m.map.drainMs * 1000 ≤ s.now)) then
        leaderGo { s with cmp := { s.cmp with drained := s.cmp.drained ++ [(comp, device)] } } comp
      else s)

/-- Firmware's internal queue for the castles of a parting member (R78, R233). -/
def partingQueue : Nat := 4034

/-- The remaining G member whose last BEAT reported the most free frames (R489). -/
def partingTarget (s : State) (m : CompMap) : Option Nat :=
  let frames := fun (d : Nat) => match s.cmp.beats.find? (fun b => b.comp == m.comp && b.device == d) with | some b => b.frames | none => 0
  ((m.members.filter (fun x => x.pers == 2 && !x.parting && x.device != self s && !(isLost s m.comp x.device))).map (·.device)).foldl
    (fun (b : Option Nat) d => match b with
      | none => some d
      | some x => if frames x < frames d ∨ (frames x = frames d ∧ d < x) then some d else b) none

/-- PARTING_CASTLE_ISSUE (R233, R489): firmware of a parting G member castles its sequences, 16 at a time; a member that owns none and runs nothing of the composition
sends DRAIN_DONE. -/
def execPartingCastleIssue (comp : Nat) (s : State) : Out :=
  awake s (
    match membership? s comp with
    | none => s
    | some m =>
      if partingIn s comp = false ∨ s.cmp.told.contains comp ∨ ¬ (s.fwRun = 1 ∨ s.fwRun = 2) then s
      else
        let mine := s.own.copies.filter (fun c => (c.desc.comp == comp || c.desc.comp == 0xFFFF) && c.st != .stale && c.st != .freed)
        let q := getQ s partingQueue
        let queued := (inFlight s partingQueue).map (fun r => r.ent.a) ++ q.fetched.map (fun f => f.ent.a)
        let runs := s.tz.started.any (fun r => (r.sub.any (fun x => x.comp == comp)) ||
          (objectsOf s r.ent r.blk).any (fun o => s.own.homes.any (fun x => x.desc.handle == o && x.desc.comp == comp)))
        if mine.isEmpty ∧ runs = false then
          let l := leaderOf s m.map
          let s := { s with cmp := { s.cmp with told := s.cmp.told ++ [comp] } }
          if l = noDevice then leaderGo { s with cmp := { s.cmp with drained := s.cmp.drained ++ [(comp, self s)] } } comp else ctl s comp l .drainDone
        else if s.pers ≠ some .generation then s
        else
          match partingTarget s m.map with
          | none => s
          | some t =>
            let next := (mine.filter (fun c => c.st == .owner && !(queued.contains c.handle))).take (16 - queued.length)
            let entOf := fun (c : SeqCopy) => ({
              opcode := opCastle, flags := 0, counter := 0, customer := c.desc.customer, cls := c.desc.cls, format := 0, a := c.handle,
              b := t + comp * 2 ^ 16, c := 0 } : Entry)
            modQ s partingQueue (fun Q => { Q with fetched := Q.fetched ++ next.map (fun c => { index := Q.head, ent := entOf c, blk := [], sub := none, caught := false }) }))

/-! ### Stand-in, restore and rebuild -/

/-- RING_MOVE (R495): HOPS_E of the stood-in device's route entry is the hop count to the spare's position. -/
def execRingMove (h : Hdr) (device position : Nat) (s : State) : Out :=
  deliveredAs s h (fun s =>
    let n := ringPositions s
    let own := fieldOf (ringCtrl s) 25 16
    let hops := (position + n - own % n) % n
    (if device = 0x7FFF ∨ device = self s ∨ hops = 0 then s
     else setReg s (0x580000 + 8 * device) (putField (routeOf s device) 25 16 hops), 0))

/-- The device that holds the first of a node's blocks kept here, as far as this device knows the shard map. -/
def shardOwner (s : State) (n : NodeHold) : Option Nat :=
  if n.holders.isEmpty then ((s.rgn.maps.find? (fun m => m.node == n.handle)).map (fun m => m.holderOf n.first))
  else some (n.holders.getD (n.first / max 1 n.shardBlocks) noDevice)

/-- The items of an image for shards held for a device, and the trees. -/
def shardItems (s : State) (d : Nat) (tree : List TreeNode) : List MirrorItem :=
  let ns := s.rgn.holds.filter (fun n => match shardOwner s n with | some x => x == d | none => true)
  ns.flatMap (fun n =>
    match findModel s n.model with
    | none => []
    | some m =>
      .hold n.comp n.handle n.parent m.desc n.blocks n.first n.count n.holders n.shardBlocks ::
      (s.pages.filter (fun p => p.obj == n.handle && p.kind == .shard)).map
        (fun p => .page n.handle p.layer p.index p.tokens (pageBytes (rowBytes m.desc) (perPage m.desc) p))) ++
  tree.map (fun t => .tree t.comp t.handle t.version t.refs t.seqNo
    { parent := t.parent, baseVersion := t.seqNo - 1, digests := t.digests, holders := t.holders, shardBlocks := t.shardBlocks })

/-- Send a packed image of purpose 3 (R321, R496, R497): IMAGE and IMAGE_DONE on class 6, under the composition shared or 0xFFFF. -/
def sendImage (s : State) (comp d purpose : Nat) (items : List MirrorItem) : State :=
  let e := match membership? s comp with | some m => m.map.epoch % 2 ^ 16 | none => 0
  let x := takeFree 32 s
  let s := transmit x.2 ⟨d, comp, e, 6, false, 0, .image purpose 0 items⟩ none
  transmit s ⟨d, comp, e, 6, false, 0, .imageDone purpose (imageBytes items) x.1⟩ none

/-- RESTORE_REQ (R496): the partner sends the device that stands in everything it mirrors of it. -/
def execRestoreReq (h : Hdr) (device : Nat) (s : State) : Out :=
  deliveredAs s h (fun s =>
    let recs := (s.own.mirrors.filter (fun m => hHome m.handle == device)) ++ ((s.own.homes.filter (fun r => hHome r.desc.handle == device)).map (·.desc))
    (sendImage s h.comp h.src 2 (recs.map .record ++ shardItems s device s.rgn.mirrorTree), 0))

/-- MIRROR_REBUILD (R324, R496): the primary sends its partner everything it should mirror, while that role is unmirrored and the partner present. -/
def execMirrorRebuild (s : State) : Out :=
  awake s (
    if s.cmp.mirrorState = 2 ∧ present s s.ident.partner then
      match commonComp s s.ident.partner with
      | some m =>
        let items := s.own.homes.map (fun r => .record r.desc) ++ shardItems s (self s) s.rgn.tree
        sendImage s m.map.comp s.ident.partner 1 items
      | none => s
    else if s.cmp.mirrorState = 2 ∧ present s s.ident.partner = false then { s with cmp := { s.cmp with mirrorState := 1 } }
    else s)

/-- 4 KiB units of items. -/
def itemUnits (items : List MirrorItem) : Nat := items.foldl (fun n i => n + ceilDiv (itemBytes i) 4096) 0

/-- IMAGE (R497): the items are kept until the image is complete. -/
def execImage (h : Hdr) (purpose offset : Nat) (items : List MirrorItem) (s : State) : Out :=
  let _ := offset
  deliveredAs s h (fun s =>
    let s := { s with cmp := { s.cmp with inbox := s.cmp.inbox ++ [{ src := h.src, purpose := purpose, items := items }] } }
    (if purpose = 2 ∧ s.cmp.restoreState = 1 then
        { s with cmp := { s.cmp with restoreUnits := satAdd (2 ^ 40 - 1) s.cmp.restoreUnits (itemUnits items) } } else s, 0))

/-- Take one item of an image in (R323, R496): the copy with the higher VERSION, or the one already here, stays. A failure is MEM_EXHAUSTED. -/
def importItem (purpose : Nat) (acc : State × Nat) (i : MirrorItem) : State × Nat :=
  let s := acc.1
  if acc.2 ≠ 0 then acc
  else
    match i with
    | .record r =>
      if purpose = 2 then
        match findHome s r.handle with
        | some x => (if x.desc.version < r.version then modHome s r.handle (fun x => { x with desc := r }) else s, 0)
        | none =>
          if granuleRoom s (recordGranules r) then
            ({ s with own := { s.own with homes := s.own.homes ++ [{
              desc := r, queue := [], inflight := none, unmirrored := false, damaged := false, castleComp := 0, before := noDevice, arb := none, due := 0 }] } }, 0)
          else (s, Code.memExhausted)
      else
        match s.own.mirrors.find? (fun m => m.handle == r.handle) with
        | some m => (if m.version < r.version then { s with own := { s.own with mirrors := mapIf (fun m => m.handle == r.handle) (fun _ => r) s.own.mirrors } } else s, 0)
        | none =>
          if granuleRoom s (recordGranules r) then ({ s with own := { s.own with mirrors := s.own.mirrors ++ [r] } }, 0) else (s, Code.memExhausted)
    | .hold comp node parent model blocks first count holders shardBlocks =>
      if (findHold s node).isSome then (s, 0)
      else
        match adoptModel s model with
        | none => (s, Code.memExhausted)
        | some (s, m, _) =>
          let n : NodeHold := {
            handle := node, comp := comp, parent := parent, model := modelHandle s m, blocks := blocks, first := first, count := count, holders := holders,
            shardBlocks := shardBlocks, digest := 0, since := 0 }
          ({ s with rgn := { s.rgn with holds := s.rgn.holds ++ [n] } }, 0)
    | .page node layer index tokens bytes =>
      if s.pages.any (fun p => p.obj == node && p.layer == layer && p.index == index) then (s, 0)
      else
        match boundModel s node with
        | none => (s, 0)
        | some m => storeNodePage s node .shard m.desc layer index 0 (bytes.take (tokens * rowBytes m.desc))
    | .tree comp node version refs seqNo c =>
      let t : TreeNode := {
        handle := node, comp := comp, parent := c.parent, digests := c.digests, version := version, holders := c.holders, shardBlocks := c.shardBlocks,
        refs := refs, freeSince := s.now, drafts := 0, seqNo := seqNo }
      if purpose = 2 then
        (if s.rgn.tree.any (fun x => x.handle == node) then s else { s with rgn := { s.rgn with tree := s.rgn.tree ++ [t] } }, 0)
      else
        (if s.rgn.mirrorTree.any (fun x => x.handle == node) then s else { s with rgn := { s.rgn with mirrorTree := s.rgn.mirrorTree ++ [t] } }, 0)

/-- IMAGE_DONE (R323, R496, R497): the image is imported and answered; a restore ends. -/
def execImageDone (h : Hdr) (purpose length crc : Nat) (s : State) : Out :=
  let _ := (length, crc)
  deliveredAs s h (fun s =>
    let mine := s.cmp.inbox.filter (fun b => b.src == h.src && b.purpose == purpose)
    let s := { s with cmp := { s.cmp with inbox := s.cmp.inbox.filter (fun b => !(b.src == h.src && b.purpose == purpose)) } }
    let r := (mine.flatMap (·.items)).foldl (importItem purpose) (s, 0)
    let s := if purpose = 2 ∧ r.1.cmp.restoreState = 1 then
        { r.1 with cmp := { r.1.cmp with
            restoreState := if r.2 = 0 then 2 else 3, restoreResult := if r.2 = 0 then 0 else Code.cmpLostMember } }
      else r.1
    (transmit s ⟨h.src, h.comp, h.epoch, 6, false, 0, .imageAck r.2⟩ none, 0))

/-- IMAGE_ACK (R496, R497): the partner holds the mirror, or the role stays unmirrored. -/
def execImageAck (h : Hdr) (code : Nat) (s : State) : Out :=
  deliveredAs s h (fun s =>
    (if h.src = s.ident.partner ∧ s.cmp.mirrorState = 2 then
      { s with
        cmp := { s.cmp with mirrorState := if code = 0 then 0 else 1, mirrorUnits := if code = 0 then 0 else s.cmp.mirrorUnits }
        own := { s.own with homes := mapIf (fun _ => code == 0) (fun r => { r with unmirrored := false }) s.own.homes } }
    else s, 0))

/-- MANAGEMENT_MESSAGE (R440, R498): only the fabric manager's endpoint, on class 0, writes a multicast group's entry; any other message is discarded and counted. -/
def execManagementMessage (h : Hdr) (group : Nat) (v : W64) (s : State) : Out :=
  deliveredAs s h (fun s =>
    (if h.src = s.ident.fmEndpoint ∧ h.cls = 0 then
      (if group < 4096 then setReg s (0x504000 + 8 * group) (v &&& 0x00000000FFFC7F01) else s)
    else { s with cmp := { s.cmp with mgmtDiscarded := satAdd 0xFFFFFFFF s.cmp.mgmtDiscarded 1 } }, 0))

end Sys2Proof.Machine
end

