-- ==== Sys2Proof/Machine/CheckBytes.lean ====
section
/-!
DEFINITION. The check bytes of a sector (spec chapter 11, R328, R329): a Reed–Solomon code over GF(2^16). A sector's check bytes follow from its stored bytes and its logical address.
-/

namespace Sys2Proof.Machine

open Sys2Proof

/-- Multiplication by x in GF(2^16) with the field polynomial x^16 + x^12 + x^3 + x + 1 (R328); α is x. -/
def gfDouble (a : Nat) : Nat := if a < 2 ^ 15 then 2 * a else (2 * a) ^^^ 0x1100B

/-- The product of a field element with the low `n` bits of another. -/
def gfMulBits : Nat → Nat → Nat → Nat
  | 0, _, _ => 0
  | n + 1, a, b => (if b % 2 = 1 then a else 0) ^^^ gfMulBits n (gfDouble a) (b / 2)

/-- The product in GF(2^16). -/
def gfMul (a b : Nat) : Nat := gfMulBits 16 a b

/-- α^n. -/
def gfAlpha : Nat → Nat
  | 0 => 1
  | n + 1 => gfDouble (gfAlpha n)

/-- A polynomial, lowest coefficient first, times x + r. -/
def polyTimes (l : List Nat) (r : Nat) : List Nat := ((0 :: l).zip (l.map (gfMul r) ++ [0])).map (fun x => x.1 ^^^ x.2)

/-- The generator (x + 1)(x + α)(x + α^2)(x + α^3), lowest coefficient first (R328). -/
def generator : List Nat := [1, gfAlpha 1, gfAlpha 2, gfAlpha 3].foldl polyTimes [1]

/-- One step of the division by the generator: a further symbol, the highest first, into the remainder. -/
def divStep (rem : List Nat) (c : Nat) : List Nat :=
  let f := c ^^^ rem.getD 3 0
  ((0 :: rem.take 3).zip generator).map (fun x => x.1 ^^^ gfMul f x.2)

/-- The data and address symbols of a sector, c_4 to c_37 (R328). `addr` is its logical address. -/
def dataSymbols (addr : Nat) (sector : List Byte) : List Nat :=
  (List.range 32).map (fun i => fieldBytes sector (2 * i) 2) ++ [addr / 64 % 2 ^ 16, addr / 64 / 2 ^ 16 % 2 ^ 16]

/-- The check symbols c_0 to c_3 of a sector (R328). -/
def checkSymbols (addr : Nat) (sector : List Byte) : List Nat := (dataSymbols addr sector).reverse.foldl divStep [0, 0, 0, 0]

/-- The 8 check bytes of a sector (R328). -/
def checkBytes (addr : Nat) (sector : List Byte) : List Byte := (checkSymbols addr sector).flatMap (leBytes 2)

/-- The syndrome S_j of a word of 38 symbols, lowest first (R329). -/
def syndrome (j : Nat) : List Nat → Nat
  | [] => 0
  | c :: cs => c ^^^ gfMul (gfAlpha j) (syndrome j cs)

/-- What a read finds from its syndromes (R329): 0 clean, 1 one symbol corrected, 2 uncorrectable. -/
def verdict (s0 s1 s2 s3 : Nat) : Nat :=
  if s0 = 0 ∧ s1 = 0 ∧ s2 = 0 ∧ s3 = 0 then 0
  else if s0 ≠ 0 ∧ (List.range 36).any (fun p => let a := gfAlpha p; s1 == gfMul s0 a && s2 == gfMul s1 a && s3 == gfMul s2 a) then 1
  else 2

/-- The word read where a sector with its check bytes has suffered an error, which gives symbol positions and what is added to them. -/
def readWord (addr : Nat) (sector : List Byte) (error : List (Nat × Nat)) : List Nat :=
  (checkSymbols addr sector ++ dataSymbols addr sector).zipIdx.map (fun x => error.foldl (fun v e => if e.1 = x.2 then v ^^^ e.2 else v) x.1)

/-- What reading a word finds (R329). -/
def wordRead (w : List Nat) : Nat := verdict (syndrome 0 w) (syndrome 1 w) (syndrome 2 w) (syndrome 3 w)

/-- What reading a sector with an error finds. The code is linear and a stored word has no syndromes of its own, so the error alone decides: it is read as the word that it adds. -/
def errorRead (error : List (Nat × Nat)) : Nat :=
  wordRead ((List.range 38).map (fun i => error.foldl (fun v e => if e.1 = i then v ^^^ e.2 else v) 0))

end Sys2Proof.Machine
end

