-- ==== Sys2Proof/Machine/Schedule.lean ====
section
/-!
DEFINITION. The slot sequencer, tile events and die links (spec chapter 09, R243 to R270; R49 to R52, R282).
-/

namespace Sys2Proof.Machine

open Sys2Proof

/-! ### The spindle table -/

/-- A field of a register that keeps its value where the new one is not legal. -/
def keepField (ok : Bool) (old new : W64) (hi lo : Nat) : W64 := if ok then putField old hi lo (fieldOf new hi lo) else old

/-- Whether an entry of a bank holds a tile for class 0. -/
def holdsClass0 (s : State) (bank tile k : Nat) : Bool := natBit (grantBits s bank k 0) tile

/-- Entries of the run, beginning at `k` and taken cyclically, that hold a tile for class 0 (R251, check 4). -/
def runFrom (s : State) (bank tile cycle : Nat) : Nat → Nat → Nat
  | 0, _ => 0
  | n + 1, k => if holdsClass0 s bank tile (k % cycle) then 1 + runFrom s bank tile cycle n (k + 1) else 0

/-- The over-commit check of one entry (R251): whether it fails. A run of check 4 is a run of one tile (DEDUCED from the reason R251 gives). -/
def entryFails (s : State) (bank cycle slotLen k : Nat) : Bool :=
  let w := spindleWord s bank k
  let g := grantBits s bank k
  let anyTile := fun (p : Nat → Bool) => (List.range 32).any p
  decide (fieldOf (w 2) 63 1 ≠ 0 ∨ (w 3).toNat ≠ 0) ||
  anyTile (fun t => decide (1 < ((List.range 4).filter (fun c => natBit (g c) t)).length)) ||
  anyTile (fun t => (getT s t).st == .outOfService && (List.range 4).any (fun c => natBit (g c) t)) ||
  anyTile (fun t => holdsClass0 s bank t k && !(holdsClass0 s bank t ((k + cycle - 1) % cycle)) && decide (runFrom s bank t cycle cycle k * (slotLen + 1) < 2))

/-- The first entry of a bank that fails the check of R251. -/
def spindleFails (s : State) (bank cycle slotLen : Nat) : Option Nat :=
  (List.range cycle).find? (entryFails s bank cycle slotLen)

/-- A write of CMP_SPINDLE_CTRL (R247, R250): the bar, an abort of a pending swap, and a swap, whose check runs at once. -/
def spindleCtrlWrite (s : State) (who : Req) (v : W64) : State :=
  if isPhysical who = false then s
  else
    let s := setReg s 0x802000 (BitVec.ofNat 64 (fieldOf v 39 32 * 2 ^ 32))
    if s.til.swap ≠ 0 then (if bitOf v 1 then { s with til := { s.til with swap := 0 } } else s)
    else if bitOf v 0 = false then s
    else
      let n := spindleNext s
      match spindleFails s (1 - s.til.bank) (fieldOf n 26 16) (fieldOf n 5 0) with
      | some k =>
        logEvent { s with til := { s.til with result := Code.cfgSpindleOvercommit, failSlot := k } }
          (evOf 0x0A Code.cfgSpindleOvercommit sevContained 0 [k])
      | none => { s with til := { s.til with result := Code.cfgOk, failSlot := 0, swap := 2 } }

/-- SPINDLE_SWAP (R247, R250): a write of CMP_SPINDLE_CTRL with SWAP 1. -/
def execSpindleSwap (who : Req) (v : W64) (s : State) : Out := alive s (spindleCtrlWrite s who (v ||| 1))

/-- SPINDLE_SWAP_ABORT (R247): a write of CMP_SPINDLE_CTRL with ABORT 1. -/
def execSpindleSwapAbort (who : Req) (v : W64) (s : State) : Out := alive s (spindleCtrlWrite s who (v ||| 2))

/-- SLOT_BOUNDARY (R243, R250, R254): after SLOT_LEN + 1 µs the next entry comes into force, with a checked bank at entry 0; occupants are displaced and free tiles filled. -/
def execSlotBoundary (s : State) : Out :=
  let n := nextEntry s
  let x := spindleNext s
  let til := if n.2 = 0 ∧ s.til.swap = 2 then
      { s.til with bank := n.1, cur := 0, slotAt := s.now, swap := 0, cycleSlots := fieldOf x 26 16, slotLen := fieldOf x 5 0 }
    else { s.til with cur := n.2, slotAt := s.now }
  alive s (if s.til.slotAt + s.til.slotLen + 1 ≤ s.now then fillAll (boundaryDisplace { s with til := til }) else s)

/-! ### Tiles -/

/-- A tile becomes free (R252, R253, R265): it takes the next task, or is clock-gated. -/
def freeTile (s : State) (t : Nat) : State := fillTile (clockGate s t) t

/-- TILE_FREE (R253). -/
def execTileFree (t : Nat) (s : State) : Out := alive s (if t < 32 then fillTile s t else s)

/-- TASK_COMPLETE (R252): a running task whose descriptors are all executed leaves its tile. -/
def execTaskComplete (t : Nat) (s : State) : Out :=
  alive s (
    match (getT s t).task.bind (findTask s) with
    | some k => if (getT s t).st = .running ∧ taskDone s k then freeTile (endTask s k) t else s
    | none => s)

/-- SAVE_END (R262, R264): the task lies in the tile's save area; the tile is filled. -/
def execSaveEnd (t : Nat) (s : State) : Out :=
  alive s (
    let T := getT s t
    match T.st, T.task with
    | .saving, some i =>
      let s := setT s t { T with task := none, saved := T.saved ++ [i] }
      freeTile (modTask s i (fun k => { k with tile := none })) t
    | _, _ => s)

/-- RESTORE_END (R264): the task runs on from its pre-emption point; the first two rows of R254 apply. -/
def execRestoreEnd (t : Nat) (s : State) : Out :=
  alive s (
    let T := getT s t
    match T.st, T.task with
    | .restoring, some i =>
      let s := setT s t { T with st := .running, saved := T.saved.filter (fun x => x != i), restores := wrapAdd 32 T.restores 1 }
      if rowDisplaces s t false then displace s t else s
    | _, _ => s)

/-- TILE_WAKE_END (R265, R268). -/
def execTileWakeEnd (t : Nat) (s : State) : Out :=
  alive s (
    let T := getT s t
    if T.st = .waking then
      match T.task with
      | some i => setT s t { T with st := if T.saved.contains i then .restoring else .running }
      | none => fillTile (setT s t { T with st := .clockGated, since := s.now }) t
    else s)

/-- The bank and index of the entry `j` boundaries ahead (R250). -/
def entryAhead (s : State) (j : Nat) : Nat × Nat :=
  if s.til.swap = 2 ∧ s.til.cycleSlots ≤ s.til.cur + j then
    (1 - s.til.bank, (s.til.cur + j - s.til.cycleSlots) % max 1 (fieldOf (spindleNext s) 26 16))
  else (s.til.bank, (s.til.cur + j) % max 1 s.til.cycleSlots)

/-- A tile is held for class 0 in an entry that begins within some µs (R265, R266). -/
def heldWithin (s : State) (t us : Nat) : Bool :=
  let slot := s.til.slotLen + 1
  (List.range (us / slot + 2)).any (fun j =>
    let e := entryAhead s (j + 1)
    decide (s.til.slotAt + (j + 1) * slot ≤ s.now + us) && grantOf s e.1 e.2 t == some 0)

/-- TILE_POWER_GATE (R265): clock-gated for GATE_DELAY, neither held for class 0 nor soon to be, the tile loses power and its scratchpad. -/
def execTilePowerGate (t : Nat) (s : State) : Out :=
  alive s (
    let T := getT s t
    let delay := fieldOf (powerCtrl s) 15 0
    if T.st = .clockGated ∧ T.task.isNone ∧ bitOf (powerCtrl s) 16 ∧ T.since + delay ≤ s.now ∧ grantNow s t ≠ some 0 ∧ heldWithin s t (delay + 2) = false then
      let s := dropAhead s T.ahead
      setT s t { getT s t with st := .powerGated, scratch := [] }
    else s)

/-- TILE_PRE_WAKE (R266): a power-gated tile held for class 0 in an entry that begins within 2 µs wakes. -/
def execTilePreWake (t : Nat) (s : State) : Out :=
  alive s (
    let T := getT s t
    if T.st = .powerGated ∧ T.heldOff = false ∧ heldWithin s t 2 then setT s t { T with st := .waking } else s)

/-- CROSS_HALF_WAIT_EXPIRY (R258): a ready task that has waited XHALF_WAIT may cross. -/
def execCrossHalfWaitExpiry (task : Nat) (s : State) : Out :=
  alive s (
    match findTask s task with
    | some k =>
      if readyTask s k ∧ bitOf (placeCtrl s) 32 ∧ k.since + fieldOf (placeCtrl s) 23 16 ≤ s.now then
        placeReady (modTask s task (fun k => { k with cross := true }))
      else s
    | none => s)

/-- TIL_POWER_CTRL_WRITE (R267): power-gated tiles wake when power gating is turned off. -/
def execTilPowerCtrlWrite (who : Req) (v : W64) (s : State) : Out :=
  alive s (
    if isPhysical who = false then s
    else
      let delay := if fieldOf v 15 0 = 0 then fieldOf (powerCtrl s) 15 0 else fieldOf v 15 0
      let s := setReg s 0x120008 (BitVec.ofNat 64 (bit (bitOf v 16) * 2 ^ 16 + delay))
      if bitOf v 16 then s
      else { s with til := { s.til with tiles := (List.range 32).foldl (fun m t =>
          let T := m.get Tile.init t
          if T.st = .powerGated then m.set t { T with st := .waking } else m) s.til.tiles } })

/-! ### Die links and descriptors -/

/-- MEM_XHALF_CTRL_WRITE (R49, R50). -/
def execMemXhalfCtrlWrite (who : Req) (v : W64) (s : State) : Out :=
  alive s (
    let hub := fieldOf v 11 8
    let cap := fieldOf v 3 0
    if isPhysical who ∧ 2 ≤ hub ∧ hub ≤ 7 ∧ 2 ≤ cap ∧ cap ≤ 10 ∧ hub + cap ≤ 15 then setReg s 0x200F00 (BitVec.ofNat 64 (hub * 256 + cap)) else s)

/-- DIE_LINK_LANE_LOSS (R52, R577): two spare lane groups replace failed ones; beyond them the half goes out of service, a degraded error. -/
def execDieLinkLaneLoss (half groups : Nat) (s : State) : Out :=
  alive s (
    if 2 ≤ half ∨ s.til.halfOut.contains half then s
    else
      let n := s.til.lanesLost.get 0 half + groups
      let s := { s with til := { s.til with lanesLost := s.til.lanesLost.set half n } }
      if n ≤ 2 then s else raiseErr (halfOutOfService s half) 0x03 half sevDegraded Code.memUncorrectable 0x04 0)

/-- Remove a descriptor. -/
def dropDesc (s : State) (id : Nat) : State := { s with til := { s.til with descs := s.til.descs.filter (fun d => d.id != id) } }

/-- A page whose READ cannot be issued yet comes first in what is left of its instruction's walk. -/
def walkFirst (s : State) (instr : Nat) (x : Nat × Nat) : State :=
  let rest := ((s.til.walks.find? (fun w => w.instr == instr)).map (·.todo)).getD []
  { s with til := { s.til with walks := s.til.walks.filter (fun w => !(w.instr == instr)) ++ [{ instr := instr, todo := x :: rest }] } }

/-- PAGE_FETCH_COMPLETE (R53, R216, R282, R346): a MOVE into the stacks ends: the page lies there with its lower copy clean, and once its home has recorded it, its
READ is issued, in a firmware pause only after it. One whose flash frame was unreadable
waits for the mirror's copy, and ends the instruction where the mirror has none. -/
def execPageFetchComplete (desc : Nat) (s : State) : Out :=
  alive s (
    match s.til.descs.find? (fun d => d.id == desc) with
    | none => s
    | some d =>
      if d.kind ≠ 3 ∨ (findPage s d.page).any (fun p => !p.lost && p.tiers.isEmpty) then s
      else
        let s := dropDesc s desc
        match findPage s d.page with
        | none => s
        | some p =>
          if p.lost then finish s d.instr (lostCode s p)
          else
            let s := if p.stack.isSome then s else setPage s { p with stack := d.frame, stackDirty := false, newest := tStacks }
            walksOn (tellMoved (walkFirst s d.instr (d.page, d.task)) p))

/-- Sectors that a read of a page's whole stacks copy takes (R309). -/
def pageSectors (s : State) (p : Page) : Nat :=
  match s.cx.pageTags.find? (fun t => t.number == p.number) with
  | some t => t.up.foldl (fun n g => n + tagSectors g) 0
  | none => 64 * p.units

/-- KV heads that the heads of an ATTEND use under a per-head descriptor (R174, R181). -/
def usedKvHeads (m : ModelRec) (b : List Byte) : Nat :=
  let h0 := fieldBytes b 10 1
  let hc := if fieldBytes b 11 1 = 0 then m.heads - h0 else fieldBytes b 11 1
  (h0 + hc - 1) * m.kvHeads / max 1 m.heads - h0 * m.kvHeads / max 1 m.heads + 1

/-- Sectors that an instruction reads of a page: the whole stacks copy, or for a head split of a per-head descriptor the stored bytes of the KV heads in use, rounded up to sectors a
row (R181). -/
def readSectors (s : State) (p : Page) (instr : Nat) : Nat :=
  match (findRun s instr).bind (fun r => if r.ent.opcode = opAttend then (findModel s r.ent.a).map (fun m => (r.blk, m.desc)) else none) with
  | some (b, m) =>
    let used := usedKvHeads m b
    let n := used * (m.keyWidth + m.valueWidth)
    if m.kind ≠ 0 ∧ used < m.kvHeads then
      min (pageSectors s p) (perPage m * ceilDiv (ceilDiv (n * (storageFmt m).width) 8 + ceilDiv n 32) 64)
    else pageSectors s p
  | none => pageSectors s p

/-- A read across the halves is counted in 64-byte units (R51). -/
def countCross (s : State) (page instr tile : Nat) : State :=
  match (findPage s page).bind (fun p => p.stack.map (fun f => (p, f))) with
  | some (p, f) =>
    if f.half = tileHalf tile then s
    else if f.half = 0 then { s with mc := { s.mc with xhalf0 := wrapAdd 64 s.mc.xhalf0 (readSectors s p instr) } }
    else { s with mc := { s.mc with xhalf1 := wrapAdd 64 s.mc.xhalf1 (readSectors s p instr) } }
  | none => s

/-- DESCRIPTOR_COMPLETE (R38, R39, R51, R260): the tile that runs the task finishes the first of its descriptors and stands at a pre-emption point; a walk that waited for room goes on. -/
def execDescriptorComplete (desc : Nat) (s : State) : Out :=
  alive s (
    match s.til.descs.find? (fun d => d.id == desc) with
    | none => s
    | some d =>
      let first := (s.til.descs.filter (fun x => x.kind == 1 && x.task == d.task && x.instr == d.instr)).all (fun x => decide (d.id ≤ x.id))
      match (findTask s d.task).bind (·.tile) with
      | some t =>
        if d.kind = 1 ∧ first ∧ (getT s t).st = .running then
          let f := freeLive s (((findTask s d.task).map (·.ceiling)).getD 0)
          walksOn (dropDesc (countCross (modTask f.2 d.task (fun k => { k with live := f.1 })) d.page d.instr t) desc)
        else s
      | none => s)

end Sys2Proof.Machine
end

