-- ==== Sys2Proof/Machine/Memory.lean ====
section
/-!
DEFINITION. The stacks' hot-spot monitor, rekey, scrub and retraining (spec chapter 10, R285 to R303), tables, selection, re-coding and keys (chapter 11, R315 to R333).
-/

namespace Sys2Proof.Machine

open Sys2Proof

/-- Change chapter 10's state. -/
def modMc (s : State) (f : Memc → Memc) : State := { s with mc := f s.mc }

/-- Change chapter 11's state. -/
def modCx (s : State) (f : Cx → Cx) : State := { s with cx := f s.cx }

/-! ### Hot spots and rekey -/

/-- MEM_HOTSPOT_CTRL (R290). -/
def hotspotCtrl (s : State) : W64 := s.regs.get 0x000000100C000064 0x201000
/-- MEM_REKEY_CTRL (R296), its RW fields. -/
def rekeyCtrl (s : State) : W64 := s.regs.get 0x003C0010 0x201018

/-- Start a rekey (R293 step 1). -/
def startRekey (s : State) : State := modMc s (fun m => { m with rekey := 1, fence0 := 0, fence1 := 0, halvesDone := [], rekeyReason := 0 })

/-- A channel's means over a window: the channel, its mean depth and its half's mean, both in 1/256 request (R289). -/
def hotChannel (s : State) (x : Nat × Nat × Nat) : Bool :=
  decide (fieldOf (hotspotCtrl s) 39 32 * 256 ≤ x.2.1 ∧ fieldOf (hotspotCtrl s) 31 24 * x.2.2 ≤ 4 * x.2.1)

/-- RATIO of a channel (R291). -/
def hotRatio (x : Nat × Nat × Nat) : Nat := if x.2.2 = 0 then 0xFFFF else min 0xFFFF (x.2.1 * 256 / x.2.2)

/-- The hottest of the channels hot over a window (R289). -/
def hottestChannel (s : State) (means : List (Nat × Nat × Nat)) : Option (Nat × Nat × Nat) :=
  (means.filter (hotChannel s)).foldl (fun b x => match b with
    | none => some x
    | some y => if hotRatio y < hotRatio x then some x else b) none

/-- The window that begins now ends WINDOW, in ms, later (R289, R290). -/
def nextHotWindow (s : State) : State := modMc s (fun m => { m with hotEnd := s.now + fieldOf (hotspotCtrl s) 15 0 * 1000 })

/-- HOTSPOT_WINDOW (R289): at the end of a window the event of one in which some channel is hot, and the rekey it may start. -/
def execHotspotWindow (means : List (Nat × Nat × Nat)) (s : State) : Out :=
  alive s (
    if s.now < s.mc.hotEnd then s
    else
      match hottestChannel s means with
      | none => nextHotWindow s
      | some x =>
        let go := bitOf (hotspotCtrl s) 16 && s.mc.nextKey.isSome && s.mc.rekey == 0
        let s := modMc (nextHotWindow s) (fun m => { m with hotEvents := wrapAdd 32 m.hotEvents 1, hotChannel := x.1, hotRatio := hotRatio x })
        let s := logEvent s (evOf 0x04 0 sevInfo 0 [x.1, hotRatio x, bit go])
        if go then startRekey s else s)

/-- MEM_HASH_NEXT_WRITE (R292). The register keeps what was last written, for a write of one half (R13); it reads 0. -/
def execMemHashNextWrite (who : Req) (v : W64) (s : State) : Out :=
  alive s (
    if isPhysical who = false then s
    else if s.mc.rekey = 1 then modMc s (fun m => { m with rekeyReason := Code.memRekeyBusy })
    else modMc (setReg s 0x201010 v) (fun m => { m with nextKey := some v }))

/-- A write of MEM_REKEY_CTRL (R294, R296). -/
def rekeyCtrlWrite (s : State) (who : Req) (v : W64) : State :=
  if isPhysical who = false then s
  else
    let old := rekeyCtrl s
    let hold := if 1 ≤ fieldOf v 31 16 ∧ fieldOf v 31 16 ≤ 0xE10 then fieldOf v 31 16 else fieldOf old 31 16
    let rate := if 4 ≤ fieldOf v 7 0 ∧ fieldOf v 7 0 ≤ 0x40 then fieldOf v 7 0 else fieldOf old 7 0
    let s := setReg s 0x201018 (BitVec.ofNat 64 (hold * 65536 + rate))
    if bitOf v 8 = false ∨ s.mc.nextKey.isNone then s
    else if s.mc.rekey = 0 then startRekey s
    else modMc s (fun m => { m with rekeyReason := Code.memRekeyBusy })

/-- REKEY_START (R294): a write of MEM_REKEY_CTRL with START 1. -/
def execRekeyStart (who : Req) (v : W64) (s : State) : Out := alive s (rekeyCtrlWrite s who (v ||| 0x100))

/-- The last row of a half that holds an allocated block (R274, R285, R293): the areas before the frame pool are allocated whole, of the pool what frames take. -/
def lastRow (s : State) (half : Nat) : Nat :=
  let base := carveLogical s + s.ident.regionMiB * 2 ^ 19 + s.ident.weightMiB * 2 ^ 19
  let used := s.pages.foldl (fun n p => match p.stack with
    | some f => if f.half = half then max n ((f.start + f.units) * 4096) else n
    | none => n) 0
  (base + used - 1) / 196608

/-- The end of a rekey (R293): the next key is the current one, HOLDOFF begins. -/
def endRekey (s : State) : State :=
  let s := { s with hashKey := s.mc.nextKey.getD s.hashKey }
  let s := modMc s (fun m => { m with nextKey := none, rekey := 2, holdUntil := s.now + fieldOf (rekeyCtrl s) 31 16 * 1000000 })
  logEvent s (evOf 0x04 0 sevInfo 0 [])

/-- REKEY_ROW (R293): the row at a half's fence is moved and the fence advances; brake holds the fences (R303). -/
def execRekeyRow (half : Nat) (s : State) : Out :=
  alive s (
    if s.mc.rekey ≠ 1 ∨ 2 ≤ half ∨ s.mc.halvesDone.contains half ∨ braking s then s
    else
      let f := if half = 0 then s.mc.fence0 else s.mc.fence1
      let s := modMc s (fun m => if half = 0 then { m with fence0 := f + 1 } else { m with fence1 := f + 1 })
      if lastRow s half ≤ f then
        let s := modMc s (fun m => { m with halvesDone := m.halvesDone ++ [half] })
        if s.mc.halvesDone.length = 2 then endRekey s else s
      else s)

/-- The key that places a row of a half (R285, R293): during a rekey the next key below the fence. -/
def hashKeyOf (s : State) (half row : Nat) : W64 :=
  if s.mc.rekey = 1 ∧ row < (if half = 0 then s.mc.fence0 else s.mc.fence1) then s.mc.nextKey.getD s.hashKey else s.hashKey

/-- The 32 integers in 1 to 95 coprime to 96, ascending (R285). -/
def unit96 : List Nat := (List.range 96).filter (fun a => Nat.gcd a 96 == 1)

/-- The blocks of a half, B_h of R285. -/
def halfBlocks (s : State) : Nat := s.ident.capacityMiB * 256

/-- The factor `a` and the summand `c` that place a row's blocks (R285). -/
def rowPlacing (s : State) (half row : Nat) : Nat × Nat :=
  let x := mix (hashKeyOf s half row ^^^ BitVec.ofNat 64 (2 * row + half))
  (unit96.getD ((x >>> 8).toNat % 32) 1, x.toNat % 96)

/-- Channel and slot of logical block `b` (R285). -/
def blockPlace (s : State) (b : Nat) : Nat × Nat :=
  let half := b / halfBlocks s
  let r := b % halfBlocks s / 96
  let ac := rowPlacing s half r
  (96 * half + (ac.1 * (b % halfBlocks s % 96) + ac.2) % 96, r)

/-- The logical block that a slot of a channel holds (R285, the other way). -/
def blockAt (s : State) (channel slot : Nat) : Nat :=
  let ac := rowPlacing s (channel / 96) slot
  let j := ((List.range 96).find? (fun j => (ac.1 * j + ac.2) % 96 == channel % 96)).getD 0
  channel / 96 * halfBlocks s + 96 * slot + j

/-- REKEY_HOLDOFF_EXPIRY (R293). -/
def execRekeyHoldoffExpiry (s : State) : Out :=
  alive s (if s.mc.rekey = 2 ∧ s.mc.holdUntil ≤ s.now then modMc s (fun m => { m with rekey := 0 }) else s)

/-! ### Scrub and retraining -/

/-- An uncorrectable sector of a page's stacks copy (R298): the copy is freed where another tier holds it clean or it is staged; else the page is lost at its home. The Bool
says that it was lost. -/
def pageSectorBad (s : State) (n : Nat) : State × Bool :=
  match findPage s n with
  | none => (s, false)
  | some p =>
    let before := s.pages
    if p.kind = .staged then ({ s with pages := s.pages.filter (fun x => x.number != n) }, false)
    else if p.cleanIn tHost ∨ p.cleanIn tFlash then
      (setPage s { p.dropTier tStacks with newest := if p.cleanIn tHost then tHost else tFlash }, false)
    else (tellTokens (setPage s { p with lost := true }) p.obj before, true)

/-- An uncorrectable sector of an area is met (R219, R298, R329, R577). -/
def sectorBad (s : State) (area : StackArea) (channel addr : Nat) : State :=
  let record := fun (s : State) => raiseErr s 0x02 channel sevContained Code.memUncorrectable 0x01 addr
  match area with
  | .page n =>
    let x := pageSectorBad s n
    if x.2 then record x.1 else x.1
  | .save task =>
    match findTask s task with
    | some k => if readyTask s k then s else record (cancelWork s [k.instr] Code.memUncorrectable)
    | none => s
  | .tags pages => record (pages.foldl (fun s n => (pageSectorBad s n).1) s)
  | .record h => record (dropDamaged (modHome s h (fun r => { r with damaged := true })) h)
  | .work => raiseErr s 0x02 channel sevFatal Code.memUncorrectable 0x01 addr
  | .other => logEvent s (evOf 0x04 Code.memUncorrectable sevContained 0 [channel])

/-- PATROL_SCRUB_SECTOR (R298 to R300, R328, R329): the channel's next sector in slot order, 32 of 64 bytes to a slot, is decoded with its check bytes, `error` being what its word
has suffered; its address is that of the block in the slot (R285); `last` ends a pass. -/
def execPatrolScrubSector (area : StackArea) (channel sector : Nat) (error : List (Nat × Nat)) (last : Bool) (s : State) : Out :=
  alive s (
    if bitOf (s.regs.get 0x102 0x201028) 8 = false then s
    else
      let s := if last then modMc s (fun m => { m with scrubPasses := wrapAdd 16 m.scrubPasses 1 }) else s
      let addr := 2048 * blockAt s channel (sector / 32) + 64 * (sector % 32)
      match errorRead error with
      | 1 =>
        let s := modMc s (fun m => { m with scrubCorrected := satAdd 0xFFFFFFFF m.scrubCorrected 1, rewrites := m.rewrites + 1 })
        logEvent (countCorrected s) (evOf 0x04 0 sevCorrected 0 [channel])
      | 2 => sectorBad (modMc s (fun m => { m with scrubBad := satAdd 0xFFFF m.scrubBad 1 })) area channel addr
      | _ => s)

/-- SECTOR_REWRITE (R329): a corrected sector is written back. -/
def execSectorRewrite (s : State) : Out := alive s (modMc s (fun m => { m with rewrites := m.rewrites - 1 }))

/-- CHANNEL_RETRAIN (R54, R301): the stack's temperature has moved 5 °C or the interval has run out, and 100 ms have passed since the channel's last. -/
def execChannelRetrain (channel : Nat) (moved : Bool) (s : State) : Out :=
  alive s (
    let last := s.mc.retrained.find channel
    let interval := fieldOf (s.regs.get 0xA 0x201038) 6 0 * 100000
    let due : Bool := match last with
      | some t => decide (t + 100000 ≤ s.now) && (moved || decide (t + interval ≤ s.now))
      | none => true
    if channel < 192 ∧ due then modMc s (fun m => { m with retrained := m.retrained.set channel s.now }) else s)

/-! ### Table files (R315, R316) -/

/-- A section of a table file: TYPE, whether bytes 2 and 3 are 0, body. -/
abbrev TableSection := Nat × Bool × List Byte

/-- Cut a file's sections; none where they do not end exactly at its end. -/
def sectionsOf : Nat → List Byte → Option (List TableSection)
  | 0, _ => none
  | _, [] => some []
  | n + 1, bs =>
    let len := fieldBytes bs 4 4
    if bs.length < 8 ∨ bs.length < 8 + len then none
    else (sectionsOf n (bs.drop (8 + len))).map (fun l => (fieldBytes bs 0 2, fieldBytes bs 2 2 == 0, sliceBytes bs 8 len) :: l)

/-- Run lengths rise strictly within 2 to 2,048. -/
def runsOk : Nat → List Nat → Bool
  | _, [] => true
  | p, r :: rs => decide (p < r ∧ 2 ≤ r ∧ r ≤ 2048) && runsOk r rs

/-- The table a file of `len` bytes in 64-byte units holds (R316): TABLE_ID, code lengths, run lengths. -/
def parseTable (bs : List Byte) (len : Nat) : Option (Nat × List Nat × List Nat) :=
  let fl := fieldBytes bs 12 4
  let file := bs.take fl
  let hd := fieldBytes bs 0 8 == 0x425441494C495244 && fieldBytes bs 8 2 == 1 && fieldBytes bs 10 2 == 64 && fieldBytes bs 24 1 == 1 &&
    decide (296 ≤ fl ∧ fl ≤ 4096 ∧ ceilDiv fl 64 = len ∧ bs.length ≥ fl) && fieldBytes bs 27 5 == 0 && fieldBytes bs 16 8 != 0 &&
    crc32c (bs.take 60) == fieldBytes bs 60 4 && crc32c (file.drop 64) == fieldBytes bs 56 4
  if hd = false then none
  else
    match sectionsOf 600 (file.drop 64) with
    | none => none
    | some ss =>
      let of_ := fun (t : Nat) => ss.filter (fun (x : TableSection) => x.1 == t)
      let known := ss.all (fun (x : TableSection) => x.2.1 && (x.1 == 1 || x.1 == 2 || x.1 == 0xFF || decide (0x8000 ≤ x.1 ∧ x.1 ≤ 0xFFFE)))
      let final : Bool := match ss.getLast? with | some (x : TableSection) => x.1 == 0xFF && x.2.2.isEmpty | none => false
      match of_ 1, of_ 2, of_ 0xFF with
      | [l], [r], [_] =>
        let lens := (List.range 288).map (fun i => fieldBytes l.2.2 (i / 2) 1 / 16 ^ (i % 2) % 16)
        let runs := (List.range 32).map (fun i => fieldBytes r.2.2 (2 * i) 2)
        let used := lens.filter (fun n => n != 0)
        let sum := used.foldl (fun n k => n + 2 ^ (15 - k)) 0
        let top := fieldBytes bs 25 1
        if known ∧ final ∧ l.2.2.length = 144 ∧ r.2.2.length = 64 ∧ 1 ≤ top ∧ top ≤ 15 ∧ lens.all (fun n => decide (n ≤ top)) ∧ 2 ≤ used.length ∧ sum = 2 ^ 15 ∧
          runsOk 0 runs then some (fieldBytes bs 16 8, lens, runs) else none
      | _, _, _ => none

/-- The file CXE_TABLE_CMD names (R533): none where it cannot be read. -/
def tableFile (s : State) (a len : Nat) : Option (List Byte) :=
  match logicalCarve s a with
  | some x => if 64 * len ≤ x.2 then some (s.dev.read x.1 (64 * len)) else
      let n := fieldBytes (s.dev.read x.1 (min 16 x.2)) 12 4
      if 16 ≤ x.2 ∧ n ≤ x.2 ∧ ceilDiv n 64 = len then some (s.dev.read x.1 n) else none
  | none => none

/-! ### Slots and selection -/

/-- Slot states follow the selection (R317, R330): a named slot is SELECTED, one that is no longer named RETIRING, or FREE without references. -/
def selectSlots (s : State) : State :=
  let named := fun (i : Nat) => (List.range 4).any (fun k => kindSel s k == i)
  modCx s (fun c => freeSlots { c with slots := c.slots.zipIdx.map (fun x =>
    if x.1.st = 2 ∨ x.1.st = 3 then { x.1 with st := if named x.2 then 2 else 3 } else x.1) })

/-- A write of CXE_COMP_SEL (R330). -/
def compSelWrite (s : State) (who : Req) (v : W64) : State :=
  if isPhysical who = false then s
  else
    let legal := fun (n : Nat) => n == 15 || (match s.cx.slots[n]? with | some t => t.st == 2 || t.st == 3 | none => false)
    let pick := fun (k : Nat) => if legal (fieldOf v (4 * k + 3) (4 * k)) then fieldOf v (4 * k + 3) (4 * k) else kindSel s k
    selectSlots (setReg s 0x300000 (BitVec.ofNat 64 (pick 0 + 16 * pick 1 + 256 * pick 2 + 4096 * pick 3)))

/-- CXE_COMP_SEL_WRITE (R330). -/
def execCxeCompSelWrite (who : Req) (v : W64) (s : State) : Out := alive s (compSelWrite s who v)

/-- The handle of a table slot (R64, R320). -/
def slotHandle (s : State) (i : Nat) : Handle := mkHandle (self s) clsSlot i

/-- Select a slot for kinds (R318 step 6) and report the load (R330). -/
def loadDone (s : State) (slot kinds : Nat) : State :=
  let pick := fun (k : Nat) => if natBit kinds k then slot else kindSel s k
  let gen := match s.cx.slots[slot]? with | some t => t.gen | none => 0
  let s := setReg s 0x300000 (BitVec.ofNat 64 (pick 0 + 16 * pick 1 + 256 * pick 2 + 4096 * pick 3))
  selectSlots (modCx s (fun c => { c with loadResult := 0, loadSlot := slot, loadGen := gen }))

/-- A load fails (R318): the result is reported and logged. -/
def loadFails (s : State) (code : Nat) : State :=
  logEvent (modCx s (fun c => { c with loadResult := code })) (evOf 0x05 code sevContained 0 [])

/-- A load that GO started, as firmware runs it (R318 steps 2 to 6). -/
def tableLoad (s : State) (v : W64) : State :=
  let addr := fieldOf v 63 26 * 64
  let len := fieldOf v 25 19
  let kinds := fieldOf v 18 15
  let expect := fieldOf (s.regs.get 0 0x300018) 31 0
  let genOf := fun (k : Nat) => match s.cx.slots[kindSel s k]? with | some t => t.gen | none => 0
  match (if 5 ≤ len ∧ len ≤ 0x40 then (tableFile s addr len).bind (fun bs => parseTable bs len) else none) with
  | none => loadFails s Code.ctTableInvalid
  | some (id, lens, runs) =>
    if expect ≠ 0 ∧ (List.range 4).any (fun k => natBit kinds k && genOf k != expect) then loadFails s Code.ctGenerationMismatch
    else
      match s.cx.slots.findIdx? (fun t => (t.st == 2 || t.st == 3) && t.id == id) with
      | some i => loadDone s i kinds
      | none =>
        match s.cx.slots.findIdx? (fun t => t.st == 0) with
        | none => loadFails s Code.ctNoFreeSlot
        | some i =>
          let gen := s.cx.genCounter + 1
          let s := modCx s (fun c => { c with genCounter := gen, slots := c.slots.set i { st := 2, gen := gen, id := id, lens := lens, runs := runs } })
          loadDone s i kinds

/-- TABLE_LOAD (R318, R330, R333): a write of CXE_TABLE_CMD with GO 1. GO is ignored with no kind named or while a load is in progress; while firmware does not schedule the load waits. -/
def execTableLoad (who : Req) (v : W64) (s : State) : Out :=
  alive s (
    if isPhysical who = false then s
    else
      let s := setReg s 0x300010 (v &&& 0xFFFFFFFFFFFF8000)
      if fieldOf v 18 15 = 0 ∨ s.cx.loadWaiting.isSome then s
      else if scheduling s then tableLoad s v
      else modCx s (fun c => { c with loadWaiting := some v }))

/-- A load that waited for firmware runs (R333). -/
def tableServe (s : State) : State :=
  match s.cx.loadWaiting with
  | some v => if scheduling s then tableLoad (modCx s (fun c => { c with loadWaiting := none })) v else s
  | none => s

/-- The tag of a stacks block re-coded under its kind's selection (R319). -/
def recodeTag (s : State) (t : PageTags) (i : Nat) : PageTags :=
  match findPage s t.number with
  | some p => { t with up := t.up.set i (blockTag s (if p.kind = .weight then 3 else 0) (pageBlock p i)) }
  | none => t

/-- A tag names a RETIRING slot. -/
def tagRetiring (s : State) (n : Nat) : Bool := decide (n < 0x80) && (match s.cx.slots[n / 32]? with | some t => t.st == 3 | none => false)

/-- RECODE_BLOCK (R319, R333): one stacks block tagged by a RETIRING slot is coded again; blocks under a destroyed key are skipped, and brake holds the engine. `place` is a
page's block, a carve block or a weight block. -/
def execRecodeBlock (place : RecodePlace) (s : State) : Out :=
  alive s (
    if bitOf (s.regs.get 0x108 0x300008) 8 = false ∨ braking s then s
    else
      match place with
      | .page n i =>
        if (findPage s n).any (fun p => keyDead s p) ∨ !(s.cx.pageTags.any (fun t => t.number == n && (t.up[i]?).any (tagRetiring s))) then s
        else modCx s (fun c => freeSlots { c with pageTags := mapIf (fun t => t.number == n) (fun t => recodeTag s t i) c.pageTags })
      | .carve i =>
        if (s.cx.carveTags.find i).any (tagRetiring s) then
          modCx s (fun c => freeSlots { c with carveTags := putTag c.carveTags i (blockTag s 2 (s.dev.read (2048 * i) 2048)) })
        else s
      | .weight i =>
        if (s.cx.weightTags.find i).any (tagRetiring s) then
          let bytes := match s.models.find? (fun m => m.number == i / 2 ^ 40) with | some m => m.weights.read (2048 * (i % 2 ^ 40)) 2048 | none => []
          modCx s (fun c => freeSlots { c with weightTags := putTag c.weightTags i (blockTag s 3 bytes) })
        else s)

/-! ### Keys (R327, R332) -/

/-- The key bytes written to CXE_KEY_DATA (R332). -/
def keyData (s : State) : List W64 := (List.range 8).map (fun k => s.regs.get 0 (0x300100 + 8 * k))

/-- CXE_KEY_DATA is cleared after every GO (R332). -/
def clearKeyData (s : State) : State := (List.range 8).foldl (fun s k => { s with regs := s.regs.del (0x300100 + 8 * k) }) s

/-- A write of CXE_KEY_CMD (R327, R332). -/
def keyCmdWrite (s : State) (who : Req) (v : W64) : State :=
  if isPhysical who = false then s
  else
    let old := s.regs.get 0 0x300140
    let op := if fieldOf v 17 16 = 1 ∨ fieldOf v 17 16 = 2 then fieldOf v 17 16 else fieldOf old 17 16
    let slot := fieldOf v 9 0
    let s := setReg s 0x300140 (BitVec.ofNat 64 (op * 65536 + slot))
    if bitOf v 46 = false then s
    else
      let st := s.keySlots.get 0 slot
      let d := keyData s
      let s := clearKeyData s
      let done := fun (s : State) (code : Nat) => modCx s (fun c => { c with keyResult := code })
      if slot = 0 then done s Code.keyInvalid
      else if op = 1 then
        if st ≠ 0 ∨ d.take 4 = d.drop 4 then done s Code.keyInvalid
        else done { modCx s (fun c => { c with keys := c.keys.set slot d }) with keySlots := s.keySlots.set slot 1 } 0
      else if op = 2 then
        if st ≠ 1 then done s Code.keyInvalid
        else done { modCx s (fun c => { c with keys := c.keys.del slot }) with keySlots := s.keySlots.set slot 2 } 0
      else s

/-- KEY_LOAD (R332): a write of CXE_KEY_CMD with GO 1 and OP LOAD. -/
def execKeyLoad (who : Req) (slot : Nat) (s : State) : Out := alive s (keyCmdWrite s who (BitVec.ofNat 64 (2 ^ 46 + 65536 + slot % 1024)))

/-- KEY_DESTROY (R327, R332): a write of CXE_KEY_CMD with GO 1 and OP DESTROY. -/
def execKeyDestroy (who : Req) (slot : Nat) (s : State) : Out := alive s (keyCmdWrite s who (BitVec.ofNat 64 (2 ^ 46 + 2 * 65536 + slot % 1024)))

/-- KEY_SWEEP (R327, R333): page frames under the slot are freed in every tier and lost at their homes, region blocks with those of drafts and relocated pages become zero (R391), saved tasks go, and flash frames are passed
on for erasure; the slot is EMPTY. -/
def execKeySweep (slot : Nat) (s : State) : Out :=
  alive s (
    if s.keySlots.get 0 slot ≠ 2 ∨ bitOf (s.regs.get 0x108 0x300008) 8 = false ∨ braking s then s
    else
      let dead := s.pages.filter (fun p => pageKeySlot s p == slot)
      let gone := dead.map (·.number)
      let erase := dead.filterMap (·.flash)
      let objs := dead.foldl (fun l p => if l.contains p.obj then l else l ++ [p.obj]) []
      let before := s.pages
      let empty := fun (p : Page) => { p with stack := none, host := none, flash := none, lost := true, rows := [], pin := 0 }
      let s := { s with pages := mapIf (fun p => gone.contains p.number) empty s.pages }
      let s := objs.foldl (fun s o => tellTokens s o before) s
      let regions := (s.rgn.keys.filter (fun k => k.2.state != .free && k.2.loc == 1 && customerSlot s k.2.customer == slot)).map (·.2)
      let s := regions.foldl (fun s k => { s with dev := s.dev.filter (fun c => !(decide (k.addr ≤ c.1 ∧ c.1 < k.addr + k.len))) }) s
      let clear := fun (l : List Unit4K) => l.map (fun u => { u with bytes := [] })
      let zero := fun (k : KeyEntry) => { k with relocated := clear k.relocated, drafts := k.drafts.map (fun d => { d with units := clear d.units }) }
      let hit : KeyEntry → Bool := fun k => k.state != .free && customerSlot s k.customer == slot
      let s := { s with rgn := { s.rgn with keys := s.rgn.keys.map (fun x => if hit x.2 then (x.1, zero x.2) else x) } }
      let saved := s.til.tasks.filter (fun k => customerSlot s k.customer == slot && s.til.tiles.any (fun x => x.2.saved.contains k.id))
      let s := cancelWork s (saved.map (·.instr)) Code.memUncorrectable
      let lost := fun (x : Nat × Tile) => (x.1, { x.2 with saved := x.2.saved.filter (fun i => !(saved.any (fun k => k.id == i))) })
      let s := { s with til := { s.til with tiles := s.til.tiles.map lost } }
      { s with keySlots := s.keySlots.del slot, fl := { s.fl with toErase := s.fl.toErase ++ erase } })

end Sys2Proof.Machine
end

