-- ==== Sys2Proof/Machine/Flash.lean ====
section
/-!
DEFINITION. The flash back end (spec chapter 12): reads and the retry ladder, programs and erases, reclaim, refresh and wear, patrol, checkpoint, journal and recovery.
-/

namespace Sys2Proof.Machine

open Sys2Proof

/-! ### Frames and blocks -/

/-- A frame is still valid (R347): a page's, while the page lives and has no newer frame; a shard record's, while the shard list names it or its shard is held and it is on its way; a
warm-start image's, while a checkpoint copy names it; a map page's. -/
def frameLive (s : State) (ffn : Nat) (f : FlFrame) : Bool :=
  match f.page with
  | none =>
    if f.kind = 3 then s.fl.shards.any (fun h => h.handle == f.about) || (decide (f.st < 2) && s.rgn.holds.any (fun h => h.handle == f.about))
    else if f.kind = 4 then decide (f.st < 2) || s.fl.copyA.any (fun c => c.warmFfn == ffn) || s.fl.copyB.any (fun c => c.warmFfn == ffn)
    else true
  | some p => s.pages.any (fun q => q.number == p.number && (q.flash == some ffn || (f.st != 2 && q.flash.isNone)))

/-- The record of a shard that is held goes to flash as a frame of KIND 3 (R341, R355), where it has none. The manual does not lay the record out: its sectors are a free value. -/
def placeShard (s : State) (h : NodeHold) : State :=
  if s.fl.tier ≠ 2 ∨ s.fl.shards.any (fun x => x.handle == h.handle) ∨ s.fl.frames.any (fun x => x.2.kind == 3 && x.2.about == h.handle) then s
  else
    let n := takeFree 5 s
    match placeOther n.2 3 h.handle (2 + n.1) 2 with
    | some x => x.1
    | none => s

/-- Frames that are valid no longer leave the map (R356 UNMAP), and the shard list follows what is held: SHARD_DEL for a shard that is gone or has changed, and a record to be
programmed for one that is new. -/
def settle (s : State) : State :=
  if s.fl.tier < 2 then s
  else
    let gone := s.fl.shards.filter (fun h => !(s.rgn.holds.contains h))
    let ffnOf := fun (h : NodeHold) => ((s.fl.frames.find? (fun x => x.2.kind == 3 && x.2.about == h.handle)).map (·.1)).getD 0
    let del := gone.map (fun h => ({ seq := 0, type := 7, arg := ffnOf h, frame := none, block := none, hold := some h } : JRec))
    let s := modFl s (fun f => { f with shards := f.shards.filter (fun h => s.rgn.holds.contains h), jq := f.jq ++ del })
    let dead := s.fl.frames.filter (fun x => !frameLive s x.1 x.2)
    let s := modFl s (fun f => { f with frames := f.frames.filter (fun x => !(dead.any (fun y => y.1 == x.1))) })
    let s := dead.foldl (fun s x => if x.2.st = 0 ∨ x.2.st = 1 then s else note s 2 x.1 none none) s
    s.rgn.holds.foldl placeShard s

/-- A frame lies in a block. -/
def FlFrame.within (f : FlFrame) (b : Nat) : Bool := blockOf f.start == b
/-- A frame or the location it is being moved from lies in a block. -/
def FlFrame.touches (f : FlFrame) (b : Nat) : Bool := f.within b || f.prev.any (fun x => blockOf x.1 == b)

/-- Valid sectors of a block (R347). -/
def validSectors (s : State) (b : Nat) : Nat :=
  s.fl.frames.foldl (fun n x => if x.2.within b && x.2.st != 3 && frameLive s x.1 x.2 then n + x.2.len else n) 0

/-- A record that maps a frame: MAP, or DIR for a map page (R356). -/
def JRec.maps (j : JRec) (ffn : Nat) : Bool := (j.type == 1 && j.arg == ffn) || (j.type == 5 && mapKey j.arg == ffn)

/-- Note the record that maps a frame (R356). -/
def noteMap (s : State) (ffn : Nat) (f : FlFrame) : State := if f.kind = 2 then note s 5 f.about (some f) none else note s 1 ffn (some f) none

/-- A frame becomes MISSING (R346): journaled and logged, its page's flash copy is gone, and where it was the last copy the mirror partner is asked for it. A map page is written anew
from the map cache, a shard record from what is held (DEDUCED, log 24). -/
def missFrame (s : State) (ffn : Nat) : State :=
  match s.fl.frames.find ffn with
  | none => s
  | some f =>
    if f.kind = 2 then
      countCorrected (logFl (modFl s (fun x => { x with
        frames := x.frames.del ffn, jq := x.jq.filter (fun j => !(j.maps ffn)), dirty := if x.dirty.contains f.about then x.dirty else x.dirty ++ [f.about] }))
        Code.flUncorrectable sevCorrected ffn)
    else
    let s := if f.kind = 3 then modFl s (fun x => { x with shards := x.shards.filter (fun h => h.handle != f.about) }) else s
    let f := { f with st := 3, prev := none }
    let s := modFl s (fun x => { x with frames := x.frames.set ffn f, jq := x.jq.filter (fun j => !(j.maps ffn)) })
    let s := countCorrected (logFl (note s 3 ffn (some f) none) Code.flUncorrectable sevCorrected ffn)
    match f.page.bind (fun p => findPage s p.number) with
    | none => s
    | some p =>
      let p := p.dropTier tFlash
      if p.tiers.isEmpty = false then setPage s p
      else
        let s := setPage s p
        let asked : Except Nat State :=
          if s.ident.partner = noDevice then .error Code.cmpNotMember
          else readPage s s.ident.partner 6 p.obj p.layer p.index (((boundModel s p.obj).map (fun m => perPage m.desc * rowBytes m.desc)).getD 0) false (.refetch p.number)
        match asked with
        | .ok s' => s'
        | .error _ => setPage s { p with lost := true }

/-- A frame is placed again (R348, R349): a frame being moved is moved from its old location, another is written from its page. -/
def moveFrame (s : State) (ffn : Nat) : Option State :=
  match s.fl.geom, s.fl.frames.find ffn with
  | some g, some f =>
    let pts := writePoints s g
    match roomFrom s g pts f.len 0 (pts.length * g.planes) s.fl.next with
    | none => none
    | some (s, a) =>
      let prev := if f.st = 2 then some (f.start, f.len) else f.prev
      some (modFl s (fun x => { x with frames := x.frames.set ffn { f with start := a, st := 0, prev := prev }, jq := x.jq.filter (fun j => !(j.maps ffn)) }))
  | _, _ => none

/-- Move a frame where there is room. -/
def tryMove (s : State) (ffn : Nat) : State := (moveFrame s ffn).getD s

/-- Retire a block (R348): frames on their way are written again, those journaled there are MISSING unless the stacks hold their page. -/
def retireBlock (s : State) (b : Nat) : State :=
  let s := putB s b { getB s b with st := 6 }
  let s := modFl s (fun f => { f with
    retired := satAdd 0xFFFFFFFF f.retired 1, opens := f.opens.filter (fun (x : Nat × Nat) => x.2 != b),
    erasing := f.erasing.erase b, refresh := f.refresh.erase b, erasePending := f.erasePending.erase b })
  let s := logFl s Code.flBlockRetired sevInfo b
  let s := (s.fl.frames.filter (fun x => x.2.within b && (x.2.st == 0 || x.2.st == 1))).foldl (fun s x => tryMove s x.1) s
  let s := (s.fl.frames.filter (fun x => x.2.within b && x.2.st == 2)).foldl (fun s x => missFrame s x.1) s
  checkWear s

/-- Queue a block for refresh (R345). -/
def queueRefresh (s : State) (b : Nat) : State :=
  if s.fl.refresh.contains b ∨ s.fl.erasing.contains b then s else modFl s (fun f => { f with refresh := f.refresh ++ [b] })

/-- Begin the reclaim of a block (R349): its valid frames go to write points, and it waits to be erased. -/
def reclaimBlock (s : State) (b : Nat) : State :=
  let s := (s.fl.frames.filter (fun x => x.2.within b && x.2.st == 2)).foldl (fun s x => tryMove s x.1) s
  if s.fl.frames.any (fun x => x.2.within b && x.2.st == 2) then s
  else
    let s := modFl s (fun f => { f with opens := f.opens.filter (fun x => x.2 != b), refresh := f.refresh.erase b })
    modFl s (fun f => { f with erasing := if f.erasing.contains b then f.erasing else f.erasing ++ [b] })

/-! ### Reads -/

/-- A sector address within the configured geometry (R338). -/
def inFlash (s : State) (addr : Nat) : Bool :=
  match s.fl.geom with
  | none => false
  | some g =>
    let ch := addr / 2 ^ 40
    natBit g.channels ch && natBit (g.ces.getD ch 0) (addr / 2 ^ 37 % 8) && decide (addr / 2 ^ 35 % 4 < g.luns ∧ addr / 2 ^ 33 % 4 < g.planes ∧ addr / 2 ^ 19 % 2 ^ 14 < g.blocks ∧
      addr / 2 ^ 8 % 2 ^ 11 < g.pages ∧ ch < 16)

/-- The outcome of one codeword's read (R344): `step` 0 to 8 is the ladder step that decoded it, 9 the soft step, 10 uncorrectable, 11 a CRC failure on the bus; `bits` are the bits corrected. A frame being moved is read where it still is (R368). -/
def codewordRead (s : State) (addr step bits : Nat) : State :=
  let b := blockOf addr
  let ch := addr / 2 ^ 40
  if s.fl.tier = 0 ∨ s.fl.targetsOut.contains (targetOf addr) ∨ inFlash s addr = false then s
  else if step = 11 then modFl s (fun f => { f with busFails := f.busFails.set ch (min 10 (f.busFails.get 0 ch + 1)) })
  else
    let v := getB s b
    let s := modFl s (fun f => { f with
      busFails := f.busFails.del ch
      blocks := f.blocks.set b { v with reads := satAdd 0xFFFFFFFF v.reads 1 }
      retries := if 1 ≤ step then satAdd 0xFFFFFFFF f.retries 1 else f.retries
      soft := if 9 ≤ step then satAdd 0xFFFFFFFF f.soft 1 else f.soft
      uncorrectable := if 10 ≤ step then satAdd 0xFFFFFFFF f.uncorrectable 1 else f.uncorrectable })
    let s := if fieldOf (flPatrolCtrl s) 27 16 < bits ∨ fieldOf (flPatrolCtrl s) 3 0 ≤ step then queueRefresh s b else s
    if step < 10 then s
    else
      let hit := fun (a n : Nat) => decide (a ≤ addr + 63 ∧ addr < a + n)
      (s.fl.frames.filter (fun x => (x.2.st == 2 && hit x.2.start x.2.len) || x.2.prev.any (fun y => hit y.1 y.2))).foldl (fun s x => missFrame s x.1) s

/-- FLASH_READ (R344 to R346): one codeword is read. -/
def execFlashRead (addr step bits : Nat) (s : State) : Out := alive s (codewordRead s addr step bits)

/-! ### Programs, erases and the journal -/

/-- FLASH_PROGRAM_COMPLETE (R343, R348): a frame's program ends; its mapping is still to be journaled, or its block is retired. -/
def execFlashProgramComplete (ffn : Nat) (ok : Bool) (s : State) : Out :=
  alive s (
    let s := settle s
    match s.fl.frames.find ffn with
    | none => s
    | some f =>
      if f.st ≠ 0 then s
      else if ok then
        let f := { f with st := 1 }
        noteMap (modFl s (fun x => { x with frames := x.frames.set ffn f })) ffn f
      else retireBlock s (blockOf f.start))

/-- A mapping is in force (R343): the page has a clean flash copy, or a dirty one where it has changed since; a shard record joins the shard list (R355, SHARD_ADD). -/
def mapped (s : State) (ffn : Nat) : State :=
  match s.fl.frames.find ffn with
  | none => s
  | some f =>
    if f.st ≠ 1 then s
    else
      let s := modFl s (fun x => { x with frames := x.frames.set ffn { f with st := 2, prev := none } })
      match f.page.bind (fun p => (findPage s p.number).map (fun q => (p, q))) with
      | none =>
        match (if f.kind = 3 then s.rgn.holds.find? (fun h => h.handle == f.about) else none) with
        | some h => modFl s (fun x => { x with shards := x.shards ++ [h], jq := x.jq ++ [{ seq := 0, type := 6, arg := ffn, frame := none, block := none, hold := some h }] })
        | none => s
      | some (p, q) =>
        setPage s { q with flash := some ffn, flashDirty := !(p.rows == q.rows), lost := false, newest := if q.stack.isNone ∧ q.host.isNone then tFlash else q.newest }

/-- The map page that a record changes is dirty (R342, R357). -/
def JRec.dirties (j : JRec) (l : List Nat) : List Nat :=
  if (j.type = 1 ∨ j.type = 2 ∨ j.type = 3) ∧ l.contains (j.arg / 2048) = false then l ++ [j.arg / 2048] else l

/-- JOURNAL_RECORD (R343, R356): the oldest record waiting is programmed to both sides, or to the one in service. -/
def execJournalRecord (s : State) : Out :=
  awake s (
    let s := settle s
    match s.fl.jq with
    | [] => s
    | j :: rest =>
      if s.fl.tier = 0 ∨ s.fl.tier = 1 ∨ (sideOut s 0 ∧ sideOut s 1) then s
      else
        let j := { j with seq := s.fl.jseq + 1 }
        let s := modFl s (fun f => { f with jq := rest, jseq := j.seq, journal := f.journal ++ [j], dirty := j.dirties f.dirty })
        if j.type = 1 then mapped s j.arg else if j.type = 5 then mapped s (mapKey j.arg) else s)

/-- FLASH_ERASE_COMPLETE (R348, R349): a block that nothing valid lies in is erased, or retired on FAIL or at its rated cycles. -/
def execFlashEraseComplete (block : Nat) (ok : Bool) (s : State) : Out :=
  alive s (
    let s := settle s
    match s.fl.geom with
    | none => s
    | some g =>
      if s.fl.erasing.contains block = false ∨ s.fl.frames.any (fun x => x.2.touches block && x.2.st != 3) then s
      else
        let v := getB s block
        let pe := min 1048575 (v.pe + 1)
        let s := modFl s (fun f => { f with blocks := f.blocks.set block { st := 0, pe := pe, reads := 0, used := 0 } })
        let s := modFl s (fun f => { f with erasing := f.erasing.erase block, erasePending := f.erasePending.erase block, overread := f.overread.erase block })
        if ok = false ∨ g.rated ≤ pe ∨ g.bad.contains block then retireBlock s block else putB s block { st := 0, pe := pe, reads := 0, used := 0 })

/-- FLASH_BUSY_TIMEOUT (R348): the block's target is reset; a second time within 1 s it is out of service and its frames are MISSING. -/
def execFlashBusyTimeout (block : Nat) (s : State) : Out :=
  alive s (
    let t := targetOf block
    if s.fl.tier = 0 ∨ s.fl.targetsOut.contains t then s
    else
      let again := match s.fl.resets.find t with | some x => decide (s.now < x + 1000000) | none => false
      if again then
        let s := modFl s (fun f => { f with targetsOut := f.targetsOut ++ [t], opens := f.opens.filter (fun x => targetOf x.2 != t) })
        let s := (s.fl.frames.filter (fun x => targetOf x.2.start == t && (x.2.st == 0 || x.2.st == 1))).foldl (fun s x => tryMove s x.1) s
        let s := (s.fl.frames.filter (fun x => targetOf x.2.start == t && x.2.st == 2)).foldl (fun s x => missFrame s x.1) s
        raiseErr s 0x08 t sevDegraded Code.flUncorrectable 0x03 block
      else retireBlock (modFl s (fun f => { f with resets := f.resets.set t s.now })) (blockOf block))

/-! ### Reclaim, refresh, wear and patrol -/

/-- The CLOSED blocks of a plane that nothing is erasing. -/
def closedBlocks (s : State) (plane : Nat) : List (Nat × FlBlock) :=
  s.fl.blocks.filter (fun x => planeOf x.1 == plane && x.2.st == 3 && !(s.fl.erasing.contains x.1))

/-- The first of some blocks by a measure, ties to the lower program/erase count. -/
def leastBlock (l : List (Nat × FlBlock)) (m : Nat × FlBlock → Nat) : Option Nat :=
  (l.foldl (fun (b : Option (Nat × FlBlock)) x => match b with
    | none => some x
    | some y => if m x < m y ∨ (m x = m y ∧ x.2.pe < y.2.pe) then some x else b) none).map (·.1)

/-- RECLAIM (R349): a plane at its floor of free blocks has the CLOSED block with the fewest valid sectors copied out. Brake does not stop it, for a write waits on it (R353). -/
def execReclaim (plane : Nat) (s : State) : Out :=
  awake s (
    let s := settle s
    match s.fl.geom with
    | none => s
    | some g =>
      if s.fl.tier < 2 ∨ 2 < freeCount s g plane then s
      else
        match leastBlock (closedBlocks s plane) (fun x => validSectors s x.1) with
        | some b => reclaimBlock s b
        | none => s)

/-- REFRESH (R345): a queued block's valid frames are relocated and the block is erased. -/
def execRefresh (block : Nat) (s : State) : Out :=
  awake s (
    let s := settle s
    if s.fl.tier < 2 ∨ braking s ∨ s.fl.refresh.contains block = false then s
    else
      let v := getB s block
      let s := if v.st = 2 then modFl (putB s block { v with st := 3 }) (fun f => { f with opens := f.opens.filter (fun x => x.2 != block) }) else s
      let s := reclaimBlock s block
      if s.fl.refresh.contains block then s else modFl s (fun f => { f with refreshes := satAdd 0xFFFFFFFF f.refreshes 1 }))

/-- WEAR_RELOCATION (R350): a plane's counts have spread beyond WL_SPREAD, and its CLOSED block with the lowest count is relocated. -/
def execWearRelocation (plane : Nat) (s : State) : Out :=
  awake s (
    let s := settle s
    match s.fl.geom with
    | none => s
    | some g =>
      let live := s.fl.blocks.filter (fun x => planeOf x.1 == plane && x.2.st ≤ 3 && !metaBlock g x.1)
      let top := live.foldl (fun n x => max n x.2.pe) 0
      let metas := if plane % 2 ^ 40 = 0 then g.metaBlocks else 0
      let low := if (s.fl.blocks.filter (fun x => planeOf x.1 == plane && !metaBlock g x.1)).length < g.blocks - metas then 0 else live.foldl (fun n x => min n x.2.pe) top
      if s.fl.tier < 2 ∨ braking s ∨ bitOf (flBgCtrl s) 8 = false ∨ top - low ≤ fieldOf (flWearCtrl s) 31 16 then s
      else
        match leastBlock (closedBlocks s plane) (fun x => x.2.pe) with
        | some b => reclaimBlock s b
        | none => s)

/-- Blocks that patrol reads, in block-table order (R352): CLOSED and OPEN ones. -/
def patrolBlocks (s : State) : List (Nat × FlBlock) := s.fl.blocks.filter (fun x => (x.2.st == 2 || x.2.st == 3) && !(s.fl.targetsOut.contains (targetOf x.1)))

/-- RD_LIMIT in reads (R365). -/
def readLimit (s : State) : Nat := fieldOf (flPatrolCtrl s) 47 32 * 1000

/-- The block that patrol takes up next (R352): the one it is reading; one whose reads have passed RD_LIMIT, once; the next in order while a pass is on. -/
def patrolNext (s : State) : Option Nat :=
  match s.fl.patrolling with
  | some b => some b
  | none =>
    match (patrolBlocks s).find? (fun x => decide (readLimit s < x.2.reads) && !(s.fl.overread.contains x.1)) with
    | some x => some x.1
    | none => s.fl.patrolled.bind (fun p => ((patrolBlocks s).find? (fun x => decide (p < x.1))).map (·.1))

/-- A pass begins once per PERIOD (R352, R365), and one that has no further block ends. -/
def patrolPass (s : State) : State :=
  let s := if s.fl.patrolled.isNone ∧ s.fl.patrolAt + fieldOf (flPatrolCtrl s) 63 48 * 3600000000 ≤ s.now then modFl s (fun f => { f with patrolled := some 0, patrolAt := s.now }) else s
  match s.fl.patrolled with
  | none => s
  | some p =>
    if s.fl.patrolling.isSome ∨ (patrolBlocks s).any (fun x => decide (p < x.1)) then s
    else modFl s (fun f => { f with passes := satAdd 0xFFFFFFFF f.passes 1, patrolled := none })

/-- Patrol is done with a block (R352): one read ahead of the order leaves the order as it was. -/
def patrolDone (s : State) (block : Nat) : State :=
  let early := decide (readLimit s < (getB s block).reads) && !(s.fl.overread.contains block)
  patrolPass (modFl s (fun f => { f with
    patrolling := none
    overread := if early then f.overread ++ [block] else f.overread
    patrolled := if f.patrolled.any (fun p => decide (p < block)) && !early then some block else f.patrolled }))

/-- FLASH_PATROL (R352): codewords of the block that is next are read, each with its outcome as FLASH_READ has it; `last`: they are the last of its programmed ones. ENABLE 0 stops patrol
after the block in progress (R364). -/
def execFlashPatrol (block : Nat) (reads : List (Nat × Nat × Nat)) (last : Bool) (s : State) : Out :=
  awake s (
    if s.fl.tier < 2 ∨ braking s ∨ (bitOf (flBgCtrl s) 8 = false ∧ s.fl.patrolling.isNone) then s
    else
      let s := patrolPass s
      if patrolNext s ≠ some block then s
      else
        let s := reads.foldl (fun s x => if blockOf x.1 = block then codewordRead s x.1 x.2.1 x.2.2 else s) s
        if last then patrolDone s block else modFl s (fun f => { f with patrolling := some block }))

/-- FLASH_CHANNEL_RETRAIN (R337): after 10 consecutive failures on the bus, or at the interval of MEM_RETRAIN_CTRL. -/
def execFlashChannelRetrain (channel : Nat) (s : State) : Out :=
  alive s (
    let interval := fieldOf (s.regs.get 0xA 0x201038) 6 0 * 100000
    let due : Bool := match s.fl.retrained.find channel with
      | some t => decide (t + interval ≤ s.now)
      | none => true
    if s.fl.tier = 0 ∨ 16 ≤ channel ∨ (due = false ∧ s.fl.busFails.get 0 channel < 10) then s
    else modFl s (fun f => { f with retrained := f.retrained.set channel s.now, busFails := f.busFails.del channel }))

/-- FLASH_ERASURE_SWEEP (R362): the frames a destroyed key frees are unmapped, and every block that holds one is reclaimed to be erased. -/
def execFlashErasureSweep (s : State) : Out :=
  awake s (
    if s.fl.tier < 2 ∨ braking s then s
    else
      let hit := s.fl.frames.filter (fun x => s.fl.toErase.contains x.1)
      let put := fun (l : List Nat) (b : Nat) => if l.contains b then l else l ++ [b]
      let blocks := hit.foldl (fun l x => let l := put l (blockOf x.2.start); match x.2.prev with | some y => put l (blockOf y.1) | none => l) s.fl.erasePending
      let s := modFl s (fun f => { f with frames := f.frames.filter (fun x => !(f.toErase.contains x.1)), toErase := [], erasePending := blocks })
      let s := hit.foldl (fun s x => note s 2 x.1 none none) s
      let s := settle s
      blocks.foldl reclaimBlock s)

/-! ### Checkpoint and recovery -/

/-- Write a checkpoint (R355, R357): every dirty map page first, then the older copy, A on a tie, or the copy whose side is in service (R368); the journal up to it is released. -/
def writeCheckpoint (s : State) (warm : Option (WarmImage × Nat)) : State :=
  let s := writeMapPages s
  let seqOf := fun (c : Option FlCopy) => match c with | some c => c.seq | none => 0
  let top := max (seqOf s.fl.copyA) (seqOf s.fl.copyB)
  let c : FlCopy := {
    seq := top + 1, journalSeq := s.fl.jseq, geom := (s.fl.geom.map (·.raw)).getD [], frames := mapNow s, blocks := s.fl.blocks, shards := s.fl.shards, warm := warm.map (·.1)
    warmFfn := (warm.map (·.2)).getD 0 }
  if sideOut s 0 ∧ sideOut s 1 then s
  else modFl s (fun f =>
    let f := { f with journal := [], ckptAt := s.now }
    if sideOut s 0 = false ∧ (sideOut s 1 ∨ seqOf f.copyA ≤ seqOf f.copyB) then { f with copyA := some c } else { f with copyB := some c })

/-- CHECKPOINT (R357): after 2^CKPT_RECORDS records, or CKPT_INTERVAL seconds with a record. -/
def execCheckpoint (s : State) : Out :=
  awake s (
    let due := decide (2 ^ s.fl.ckptRecords ≤ s.fl.journal.length) ||
      (!s.fl.journal.isEmpty && decide (s.fl.ckptAt + fieldOf (flMetaCtrl s) 31 16 * 1000000 ≤ s.now))
    if s.fl.tier < 2 ∨ due = false then s else writeCheckpoint s none)

/-- Apply a journal record (R358 step 3). -/
def replay (f : Fl) (j : JRec) : Fl :=
  let f := { f with jseq := j.seq, dirty := j.dirties f.dirty }
  match j.type with
  | 1 => match j.frame with | some x => { f with frames := f.frames.set j.arg { x with st := 2, prev := none } } | none => f
  | 2 => { f with frames := f.frames.del j.arg }
  | 3 => match j.frame with | some x => { f with frames := f.frames.set j.arg x } | none => f
  | 4 => match j.block with | some x => { f with blocks := f.blocks.set j.arg x } | none => f
  | 5 => match j.frame with | some x => { f with frames := f.frames.set (mapKey j.arg) { x with st := 2, prev := none } } | none => { f with frames := f.frames.del (mapKey j.arg) }
  | 6 => match j.hold with | some x => { f with shards := f.shards ++ [x] } | none => f
  | 7 => { f with shards := f.shards.filter (fun x => j.hold.all (fun h => h.handle != x.handle)) }
  | _ => f

/-- The page of a recovered frame: its only copy is on flash. -/
def recoveredPage (ffn : Nat) (f : FlFrame) : Option Page :=
  f.page.map (fun p => { p with
    stack := none, stackDirty := false, host := none, hostDirty := false, flash := if f.st = 2 then some ffn else none, flashDirty := false, newest := tFlash,
    lost := f.st != 2, pin := 0, refs := 0, acked := true, lookahead := false, busy := 0 })

/-- The recovered map in force: pages whose frame it names, and the shards. No region is registered then, so units of region versions name none. -/
def recoverPages (s : State) : State :=
  let ps := s.fl.frames.filterMap (fun x => (recoveredPage x.1 x.2).bind (fun p => if p.kind = .weight ∨ s.pages.any (fun q => q.number == p.number) then none else some p))
  let holds := s.fl.shards.filter (fun h => !(s.rgn.holds.any (fun x => x.handle == h.handle)))
  { s with pages := s.pages ++ ps, rgn := { s.rgn with holds := s.rgn.holds ++ holds } }

/-- Records of the journal that follow a sequence number one by one, the first `n` of the journal being readable. -/
def journalFrom (seq : Nat) : List JRec → List JRec
  | [] => []
  | j :: js => if j.seq ≤ seq then journalFrom seq js else if j.seq = seq + 1 then j :: journalFrom j.seq js else []

/-- With RING INSERT, BYP_EN_REQ is set when start-up reaches step 10 (R567). -/
def insertRing (s : State) : State :=
  if s.cfg.insert then bypEval { setReg s 0x501000 (ringCtrl s ||| 2) with cfg := { s.cfg with insert := false } } else s

/-- FLASH_RECOVERY (R358, R359): `badA` and `badB` say that a copy fails its checks, `readable` how many journal records can be read. -/
def execFlashRecovery (badA badB : Bool) (readable : Nat) (s : State) : Out :=
  alive s (insertRing (
    match s.fl.geom with
    | none => s
    | some g =>
      if s.fl.tier ≠ 1 then s
      else
        let ok := fun (bad : Bool) (c : Option FlCopy) => match c with
          | some c => if bad ∨ c.geom ≠ g.raw then none else some c
          | none => none
        let a := ok badA s.fl.copyA
        let b := ok badB s.fl.copyB
        let pick : Option FlCopy := match a, b with
          | some x, some y => if x.seq < y.seq then b else a
          | some _, none => a
          | none, _ => b
        let tie : Bool := match a, b with | some x, some y => x.seq == y.seq | _, _ => false
        let s := if tie then logEvent s (evOf 0x06 0 sevInfo 0 [0, 0]) else s
        let newest := max ((s.fl.copyA.map (·.seq)).getD 0) ((s.fl.copyB.map (·.seq)).getD 0)
        let open_ := fun (x : Nat × FlBlock) => (x.1, if x.2.st = 2 then { x.2 with st := 3 } else x.2)
        let clear := fun (f : Fl) => { f with
          opens := [], jq := [], erasing := [], refresh := [], toErase := [], erasePending := [], tier := 2, ckptAt := s.now, next := 0
          patrolAt := s.now, patrolled := some 0, patrolling := none, overread := [] }
        match pick with
        | none =>
          let s := modFl s (fun f => clear { f with frames := [], blocks := g.bad.foldl (fun t a => t.set a { st := 5, pe := 0, reads := 0, used := 0 }) [], shards := [], journal := [], dirty := [] })
          logFl s Code.flMetaRollback sevInfo 0
        | some c =>
          let js := journalFrom c.journalSeq (s.fl.journal.take readable)
          let older := decide (c.seq < newest) && js.isEmpty
          let s := modFl s (fun f =>
            let f := js.foldl replay { f with frames := c.frames, blocks := c.blocks, shards := c.shards, dirty := [] }
            let warm := if (f.frames.find c.warmFfn).any (fun x => x.kind == 4 && x.st == 2) then c.warm else none
            clear { f with blocks := f.blocks.map open_, warmFound := warm, journal := js, jseq := max s.fl.jseq f.jseq })
          let s := if older then logFl s Code.flMetaRollback sevInfo 0 else s
          let s := g.bad.foldl (fun s b => if (getB s b).st ≤ 1 then markBad s b else s) s
          checkWear (recoverPages s)))

end Sys2Proof.Machine
end

