-- ==== Sys2Proof/Machine/LogRing.lean ====
section
/-!
DEFINITION. Registers that each port has its own of, the log rings and the trace buffer (spec chapter 18, R521 to R528).
-/

namespace Sys2Proof.Machine

open Sys2Proof

/-- A PCIe port. -/
def getH (s : State) (p : Nat) : HostPort := s.hosts.getD p HostPort.init

/-- Change a PCIe port. -/
def modH (s : State) (p : Nat) (f : HostPort → HostPort) : State :=
  { s with hosts := s.hosts.zipIdx.map (fun (x : HostPort × Nat) => if x.2 = p then f x.1 else x.1) }

/-- The key of a register that each port has its own of. -/
def portKey (p off : Nat) : Nat := (p + 1) * 2 ^ 32 + off

/-- A register of a port. -/
def portReg (s : State) (p off : Nat) (d : W64) : W64 := s.regs.get d (portKey p off)

/-- The port's own physical function (R547). -/
def ownsPort (who : Req) (p : Nat) : Bool := who.fn == 0 && who.peer.isNone && who.port == p && decide (p < 2)

/-- Firmware serves (R501, R507). -/
def fwServes (s : State) : Bool := !s.halted && (s.fwRun == 1 || s.fwRun == 2)

/-! ### The log ring -/

/-- FWM_LOG_CTRL of a port (R524). -/
def logCtrl (s : State) (p : Nat) : W64 := portReg s p 0x900098 0
/-- FWM_LOG_BASE of a port (R524). -/
def logBase (s : State) (p : Nat) : W64 := portReg s p 0x900080 0
/-- Entries of a port's ring (R524). -/
def logSize (s : State) (p : Nat) : Nat := 2 ^ (fieldOf (logBase s p) 3 0 + 8)

/-- The 64 bytes of a log entry (R521). -/
def logBytes (e : LogEv) (seq phase : Nat) : List Byte :=
  leBytes 8 seq ++ leBytes 8 (e.at_ * 1000) ++ leBytes 2 e.code ++ leBytes 1 (e.severity + 128 * phase) ++ leBytes 1 e.event ++ leBytes 2 e.queue ++
    leBytes 2 e.customer ++ leBytes 8 e.object ++ (List.range 4).flatMap (fun i => leBytes 8 (e.args.getD i 0))

/-- Change a port's ring. -/
def modLog (s : State) (p : Nat) (f : LogRing → LogRing) : State := modH s p (fun h => { h with log := f h.log })

/-- Write one entry at HEAD (R523): PHASE is 1 on the first pass and flips on each wrap; the vector goes out where the host had emptied the ring. -/
def ringWrite (s : State) (p : Nat) (e : LogEv) : State :=
  let L := (getH s p).log
  let n := logSize s p
  let bytes := logBytes e L.seq ((L.head / n + 1) % 2)
  let s1 := hostWrite s (fidOf p 0) (fieldOf (logBase s p) 63 12 * 4096 + 64 * (L.head % n)) bytes
  let s2 := modLog s1 p (fun L => { L with head := L.head + 1, seq := L.seq + 1 })
  if L.tail = L.head ∧ bitOf (logCtrl s p) 15 then raiseVec s2 (fidOf p 0) (fieldOf (logCtrl s p) 10 0) else s2

/-- The ring of a port takes entries (R501, R517, R523). -/
def logOpen (s : State) (p : Nat) : Bool :=
  fwServes s && bitOf (logCtrl s p) 16 && !(s.orphans.contains p) && decide ((getH s p).log.head - (getH s p).log.tail < logSize s p)

/-- The LOG_LOST entry for the entries lost since the last one (R522, R523). -/
def lostEntry (s : State) (L : LogRing) : LogEv := { evOf 0x0E 0 sevInfo 0 [L.lostNew, L.lostFirst, L.lostLast] with at_ := s.now }

/-- Write backlogged entries while there is room, in the order they were made, a LOG_LOST entry first where entries were lost. -/
def drainRing : Nat → State → Nat → State
  | 0, s, _ => s
  | n + 1, s, p =>
    let L := (getH s p).log
    if logOpen s p = false then s
    else
      match L.backlog with
      | [] => s
      | e :: rest =>
        if L.lostNew ≠ 0 then drainRing n (modLog (ringWrite s p (lostEntry s L)) p (fun L => { L with lostNew := 0 })) p
        else drainRing n (modLog (ringWrite s p e) p (fun L => { L with backlog := rest })) p

/-- Drain a port's backlog (R523). -/
def drainLog (s : State) (p : Nat) : State := drainRing ((getH s p).log.backlog.length + 1) s p

/-- An entry is lost (R523). -/
def loseEntry (L : LogRing) (e : LogEv) : LogRing :=
  { L with lost := satAdd 0xFFFFFFFF L.lost 1, lostNew := L.lostNew + 1, lostFirst := if L.lostNew = 0 then e.at_ * 1000 else L.lostFirst, lostLast := e.at_ * 1000 }

/-- Put an entry in the backlog (R523): a full one gives up its oldest info or corrected entry for a degraded or fatal one, and drops any other. -/
def backlogEntry (L : LogRing) (e : LogEv) : LogRing :=
  if L.backlog.length < 4096 then { L with backlog := L.backlog ++ [e] }
  else if e.severity < sevDegraded then loseEntry L e
  else
    match L.backlog.find? (fun x => decide (x.severity ≤ sevCorrected)) with
    | some x => loseEntry { L with backlog := L.backlog.erase x ++ [e] } x
    | none => loseEntry L e

/-- An entry comes to a port's ring (R523): below MIN_SEV it is neither written nor counted; it is written where the ring takes it and nothing waits before it. -/
def toRing (s : State) (p : Nat) (e : LogEv) : State :=
  if e.severity < fieldOf (logCtrl s p) 19 17 then s
  else if logOpen s p ∧ (getH s p).log.backlog.isEmpty ∧ (getH s p).log.lostNew = 0 then ringWrite s p e
  else drainLog (modLog s p (fun L => backlogEntry L e)) p

/-- The ports whose rings an entry goes to (R522): the one its queue is bound to, or both. -/
def logPorts (s : State) (e : LogEv) : List Nat :=
  match e.port with
  | some p => [p]
  | none => if e.queue < firmwareQueue then [(getQ s e.queue).fid / 64] else [0, 1]

/-- LOG_ENTRY_WRITE (R521 to R523): the oldest event not yet logged goes to its rings. -/
def execLogEntryWrite (s : State) : Out :=
  alive s (
    match s.logQ with
    | [] => [0, 1].foldl drainLog s
    | e :: rest => (logPorts s e).foldl (fun s p => toRing s p e) { s with logQ := rest })

/-- A write of FWM_LOG_CTRL (R524). -/
def logCtrlWrite (s : State) (who : Req) (p : Nat) (v : W64) : State :=
  if ownsPort who p = false then s
  else
    let old := logCtrl s p
    let sev := if fieldOf v 19 17 ≤ 4 then fieldOf v 19 17 else fieldOf old 19 17
    let vec := if fieldOf v 10 0 < vecTable (fidOf p 0) then fieldOf v 10 0 else fieldOf old 10 0
    let s := setReg s (portKey p 0x900098) (BitVec.ofNat 64 (sev * 2 ^ 17 + bit (bitOf v 16) * 2 ^ 16 + bit (bitOf v 15) * 2 ^ 15 + vec))
    let s := if bitOf v 16 ∧ bitOf old 16 = false then modLog s p (fun L => { L with head := 0, tail := 0 }) else s
    drainLog s p

/-- LOG_ENABLE (R524): a write of FWM_LOG_CTRL with ENABLE 1. -/
def execLogEnable (who : Req) (v : W64) (s : State) : Out := alive s (logCtrlWrite s who who.port (v ||| 0x10000))

/-- A write of FWM_LOG_TAIL (R524). -/
def logTailWrite (s : State) (who : Req) (p t : Nat) : State :=
  let L := (getH s p).log
  if ownsPort who p = false ∨ t < L.tail ∨ L.head < t then s else drainLog (modLog s p (fun L => { L with tail := t })) p

/-- LOG_TAIL_WRITE (R523, R524). -/
def execLogTailWrite (who : Req) (t : Nat) (s : State) : Out := alive s (logTailWrite s who who.port t)

/-! ### Trace -/

/-- TRC_CTRL (R528). -/
def trcCtrl (s : State) : W64 := s.regs.get 0 0xB00038
/-- TRC_BUF (R528). -/
def trcBuf (s : State) : W64 := s.regs.get 0 0xB00020
/-- Records the trace buffer holds. -/
def trcSize (s : State) : Nat := 2 ^ (fieldOf (trcBuf s) 4 0 + 12) / 64

/-- The 64 bytes of a trace record (R526). -/
def traceBytes (now : Nat) (e : TraceEv) : List Byte :=
  leBytes 8 (now * 1000) ++ leBytes 1 e.point ++ leBytes 1 e.source ++ leBytes 2 e.queue ++ leBytes 2 e.customer ++ leBytes 2 0 ++ sliceBytes e.payload 0 48

/-- A record is dropped and counted (R527). -/
def trcDrop (s : State) : State := { s with trc := { s.trc with dropped := satAdd 0xFFFFFFFF s.trc.dropped 1 } }

/-- Write a trace record (R527), at most 31,250,000 a second, into a buffer that has room or wraps. -/
def traceWrite (s : State) (e : TraceEv) : State :=
  let port := fieldOf (trcCtrl s) 2 2
  let sec := s.now / 1000000
  let n := if s.trc.second = sec then s.trc.count else 0
  if bitOf (trcCtrl s) 0 = false then s
  else if 31250000 ≤ n ∨ s.orphans.contains port ∨ (bitOf (trcCtrl s) 1 = false ∧ trcSize s ≤ s.trc.head - s.trc.tail) then trcDrop s
  else
    let s1 := hostWrite s (fidOf port 0) (fieldOf (trcBuf s) 63 12 * 4096 + 64 * (s.trc.head % trcSize s)) (traceBytes s.now e)
    { s1 with trc := { s.trc with head := s.trc.head + 1, second := sec, count := n + 1 } }

/-- TRACE_RECORD (R525 to R527): the oldest record of TRACE goes out; where none waits, an enabled point of firmware or hardware records what it is given. -/
def execTraceRecord (point source queue customer : Nat) (payload : List Byte) (s : State) : Out :=
  alive s (
    match s.traceQ with
    | e :: rest => traceWrite { s with traceQ := rest } e
    | [] =>
      if point < 0xE0 ∧ source ≤ 8 ∧ traceOn s point then
        traceWrite s { point := point, source := source, queue := queue % 2 ^ 16, customer := customer % 2 ^ 16, payload := payload }
      else s)

/-- A write of TRC_CTRL (R528). -/
def trcCtrlWrite (s : State) (who : Req) (v : W64) : State :=
  if isPhysical who = false then s
  else
    let old := trcCtrl s
    let port := if bitOf old 0 then bitOf old 2 else bitOf v 2
    let s := setReg s 0xB00038 (BitVec.ofNat 64 (4 * bit port + 2 * bit (bitOf v 1) + bit (bitOf v 0)))
    if bitOf v 0 ∧ bitOf old 0 = false then { s with trc := { s.trc with head := 0, tail := 0 } } else s

/-- TRACE_ENABLE (R528): a write of TRC_CTRL with ENABLE 1. -/
def execTraceEnable (who : Req) (v : W64) (s : State) : Out := alive s (trcCtrlWrite s who (v ||| 1))

end Sys2Proof.Machine
end

