-- ==== Sys2Proof/Machine/Hosts.lean ====
section
/-!
DEFINITION. Hosts and functions (spec chapter 18, R516 to R520, and chapter 19): attachment and orphaning, the mailbox, BAR2, vectors and the resets of functions and ports.
-/

namespace Sys2Proof.Machine

open Sys2Proof

/-! ### Attachment (R516 to R519) -/

/-- FWM_HB_CTRL of a port (R520). -/
def hbCtrl (s : State) (p : Nat) : W64 := portReg s p 0x900048 0x003C00040500
/-- MISSES × INTERVAL in µs (R516). -/
def hbLimit (s : State) (p : Nat) : Nat := fieldOf (hbCtrl s p) 19 16 * fieldOf (hbCtrl s p) 15 8 * 100000

/-- The queues bound to some functions, firmware's apart. -/
def queuesOf (s : State) (fids : List Nat) : List Nat :=
  (s.tz.queues.filter (fun x => decide (x.1 < firmwareQueue) && fids.contains x.2.fid)).map (·.1)

/-- The functions of a port. -/
def portFids (p : Nat) : List Nat := (List.range 64).map (fun n => fidOf p n)

/-- A queue is orphaned (R77, R517): the state it held is kept for reattachment. -/
def orphanQueue (s : State) (q : Nat) : State :=
  let Q := getQ s q
  if Q.state = .active ∨ Q.state = .waiting then setQ s q { Q with state := .orphaned, prior := Q.state } else s

/-- The port becomes ORPHANED (R516, R517). -/
def orphanPort (s : State) (p : Nat) : State :=
  let s := modH s p (fun h => { h with att := 2, orphanAt := s.now, lease := fieldOf (hbCtrl s p) 47 32, reason := Code.fwHostOrphaned })
  let s := (queuesOf s (portFids p)).foldl orphanQueue s
  logEvent s (evOf 0x0D Code.fwHostOrphaned sevContained 0 [p, 2])

/-- A write of FWM_HB (R516, R520): it attaches a DETACHED port, beats an ATTACHED one, and is ignored while ORPHANED. -/
def hbWrite (s : State) (who : Req) (p : Nat) (v : W64) : State :=
  if ownsPort who p = false then s
  else
    let h := getH s p
    if h.att = 2 then s else renewHost (modH s p (fun h => { h with att := 1, hb := v, hbAt := s.now, limit := hbLimit s p })) p

/-- HEARTBEAT (R516): a write of FWM_HB. -/
def execHeartbeat (who : Req) (v : W64) (s : State) : Out := alive s (hbWrite s who who.port v)

/-- HEARTBEAT_MISS (R516): no heartbeat for MISSES × INTERVAL. -/
def execHeartbeatMiss (p : Nat) (s : State) : Out :=
  alive s (
    let h := getH s p
    if h.att = 1 ∧ h.hbAt + h.limit ≤ s.now then orphanPort s p else s)

/-- The queues of a port leave ORPHANED (R77, R519). A WAITCNT that completed meanwhile has left its queue nothing to wait for. -/
def restoreQueue (s : State) (q : Nat) : State :=
  let Q := getQ s q
  if Q.state = .orphaned then
    let waits := (inFlight s q).any pendingWait
    setQ s q { Q with state := if Q.prior = .waiting ∧ waits = false then .active else Q.prior, prior := .disabled }
  else s

/-- Echo the present value of a counter (R519). -/
def echoCounter (s : State) (i : Nat) : State :=
  let c := getC s i
  match c.owner, c.echo with
  | some f, some a => hostWrite s f a (leBytes 8 c.word)
  | _, _ => s

/-- ATTACH of a port (R519): an ORPHANED one gets its queues back, every counter echoed and its backlog drained; a DETACHED one just attaches. -/
def attachPort (s : State) (p : Nat) : State :=
  let h := getH s p
  if h.att = 1 then s
  else
    let s := modH s p (fun h => { h with att := 1, hbAt := s.now, limit := hbLimit s p, reason := 0, orphanAt := 0, lease := 0 })
    let s := logEvent s (evOf 0x0D 0 sevInfo 0 [p, 1])
    if h.att ≠ 2 then s
    else
      let s := (queuesOf s (portFids p)).foldl restoreQueue s
      let cs := (s.tz.counters.filter (fun x => match x.2.owner with | some f => f / 64 == p | none => false)).map (·.1)
      drainLog (cs.foldl echoCounter s) p

/-- A write of FWM_ATTACH (R520). -/
def attachWrite (s : State) (who : Req) (p : Nat) (v : W64) : State :=
  if ownsPort who p = false then s
  else
    let s := if bitOf v 1 ∧ (getH s p).att = 1 then orphanPort s p else s
    if bitOf v 0 ∧ bitOf v 1 = false then attachPort s p else s

/-- DETACH (R516): a write of FWM_ATTACH with DETACH 1. -/
def execDetach (who : Req) (s : State) : Out := alive s (attachWrite s who who.port 2)

/-- ATTACH (R519): a write of FWM_ATTACH with ATTACH 1. -/
def execAttach (who : Req) (s : State) : Out := alive s (attachWrite s who who.port 1)

/-! ### Resets of functions and ports (R540, R541) -/

/-- Every page loses its copy in the windows of a port (R518): one whose newest copy lay there is lost at its home. -/
def retireWindows (s : State) (p : Nat) : State :=
  let before := s.pages
  let lose := fun (x : Page) =>
    if x.host ≠ some p then x
    else
      let y := x.dropTier tHost
      if x.newest = tHost then
        (if y.cleanIn tStacks then { y with newest := tStacks } else if y.cleanIn tFlash then { y with newest := tFlash } else { y with lost := true, newest := tStacks })
      else y
  let objs := (s.pages.filter (fun x => (lose x).lost && !x.lost)).foldl (fun l x => if l.contains x.obj then l else l ++ [x.obj]) []
  let s := { s with
    pages := s.pages.map lose, ident := { s.ident with windows := s.ident.windows.map (fun w => if w.port = p then { w with retired := true } else w) } }
  objs.foldl (fun s o => tellTokens s o before) s

/-- The LOC 0 regions that some functions registered are revoked (R380, R518, R540). -/
def revokeHostRegions (s : State) (fids : List Nat) : State :=
  (s.rgn.keys.filter (fun k => decide (k.2.state = .live) && k.2.loc == 0 && fids.contains (fidOf k.2.port k.2.fn))).foldl (fun s k => revokeStart s k.1 none) s

/-- A queue drains under a function reset (R540, R541): it leaves any state but DISABLED. -/
def resetQueue (s : State) (q : Nat) : State :=
  let Q := getQ s q
  let Q := { Q with peer := none }
  if Q.state = .disabled then setQ s q Q
  else drainEnd (failAllFetched (endWaits (setQ s q { Q with state := .draining, prior := .disabled }) q) q) q

/-- Counters and grants of some functions are released (R538, R540). -/
def freeCounters (s : State) (fids : List Nat) : State :=
  let keep := fun (x : Nat × Counter) => match x.2.owner with | some f => !(fids.contains f) | none => false
  { s with tz := { s.tz with counters := ((s.tz.counters.filter keep).map (fun (x : Nat × Counter) =>
    (x.1, { x.2 with grants := x.2.grants.filter (fun g => !(fids.contains g.1)) }))) } }

/-- The function reset (R540, R541) of some functions of a port. -/
def resetFunctions (s : State) (p : Nat) (fns : List Nat) : State :=
  let fids := fns.map (fun n => fidOf p n)
  let s := freeCounters s fids
  let s := modH s p (fun h => { h with
    apertures := h.apertures.filter (fun x => !(fns.contains x.1)), resets := fns.foldl (fun t n => t.set n s.now) h.resets })
  let s := { s with
    vecPending := s.vecPending.filter (fun x => !(fids.contains x.1)), vecOpen := s.vecOpen.filter (fun x => !(fids.contains x.1))
    notify := s.notify.filter (fun x => !(fids.contains x.1)) }
  revokeHostRegions ((queuesOf s fids).foldl resetQueue s) fids

/-- The reset of a port's physical function and every virtual one (R540): the log ring, the mailbox, FWM_BAR2_BASE, the windows and the attachment go too. -/
def resetPhysical (s : State) (p : Nat) : State :=
  let s := resetFunctions s p (List.range 64)
  let s := retireWindows s p
  let offs := [0x900048, 0x900060, 0x900080, 0x900098, 0x900180] ++ (List.range 8).map (fun k => 0x900100 + 8 * k)
  let s := { s with regs := s.regs.filter (fun x => !(offs.any (fun o => portKey p o == x.1))) }
  modH s p (fun h => { h with
    att := 0, hb := 0, hbAt := 0, limit := 0, reason := 0, orphanAt := 0, lease := 0, mboxResult := 0, mboxRsp := [], bar2Log2 := 34, discarded := 0, vfs := 0
    log := { LogRing.init with seq := h.log.seq } })

/-- The instructions of functions in reset end after 90 ms, and a function none of whose instructions is left is ready (R541). Step applies it as time passes. -/
def resetTick (s : State) : State :=
  [0, 1].foldl (fun s p =>
    (getH s p).resets.foldl (fun s x =>
      let fid := fidOf p x.1
      let mine := s.tz.started.filter (fun r => decide (r.queue < firmwareQueue) && r.fid == fid)
      if mine.isEmpty then modH s p (fun h => { h with resets := h.resets.del x.1 })
      else if x.2 + 90000 ≤ s.now then
        cancelWork s ((mine.filter (fun r => match r.phase with | .done _ => false | _ => true)).map (·.id)) Code.tzQueueHalted
      else s) s) s

/-- FUNCTION_RESET (R540): FLR, VF Enable cleared or D3hot to D0 of one function. With the port ORPHANED, that of the physical function ends its lease (R549). -/
def execFunctionReset (p fn : Nat) (s : State) : Out :=
  alive s (if 2 ≤ p ∨ 64 ≤ fn then s else if fn = 0 then resetPhysical s p else resetFunctions s p [fn])

/-- The reset of a port (R530, R540): the physical function reset, and the link is down until it has trained again. In the fatal state only the PCIe side of the port is left
to reset (R585); at trip nothing is. -/
def resetPort (s : State) (p : Nat) : State :=
  if s.tripped then s
  else if s.halted then modH s p (fun h => { h with link := false, width := 0, rate := 0, vfs := 0, bar2Log2 := 34 })
  else retag s (modH (resetPhysical s p) p (fun h => { h with link := false, width := 0, rate := 0 }))

/-- PORT_RESET (R530, R540): hot reset or link down of a port; PERST_N is a SIDEBAND_INPUT_CHANGE. -/
def execPortReset (p : Nat) (s : State) : Out := .next (if 2 ≤ p then s else resetPort s p)

/-- REATTACH_LEASE_EXPIRY (R518): regions revoked, windows retired, functions reset, the port DETACHED. -/
def execReattachLeaseExpiry (p : Nat) (s : State) : Out :=
  alive s (
    let h := getH s p
    if h.att = 2 ∧ h.orphanAt + h.lease * 1000000 ≤ s.now then
      let s := resetFunctions (retireWindows (revokeHostRegions s (portFids p)) p) p (List.range 64)
      logEvent (modH s p (fun h => { h with att := 0, orphanAt := 0, lease := 0 })) (evOf 0x0D 0 sevInfo 0 [p, 0])
    else s)

/-! ### Vectors and functions -/

/-- MSI_X_UNMASK (R536): a vector held pending is sent once. -/
def execMsiXUnmask (p fn vec : Nat) (s : State) : Out :=
  alive s (
    let f := fidOf p fn
    if 2 ≤ p ∨ 64 ≤ fn ∨ vecTable f ≤ vec ∨ s.vecOpen.contains (f, vec) then s
    else
      let s1 := { s with vecOpen := s.vecOpen ++ [(f, vec)], vecPending := s.vecPending.filter (fun x => x != (f, vec)) }
      if s.vecPending.contains (f, vec) then raiseVec s1 f vec else s1)

/-- SRIOV_VF_ENABLE (R530, R532): virtual functions 1 to `n` come into being. -/
def execSriovVfEnable (p n : Nat) (s : State) : Out :=
  alive s (if 2 ≤ p ∨ 63 < n then s else modH s p (fun h => { h with vfs := n }))

/-! ### The mailbox (R537 to R539) -/

/-- FUNCTION of a request is enabled on the port. -/
def fnEnabled (s : State) (p fn : Nat) : Bool := decide (fn ≤ (getH s p).vfs)

/-- What a mailbox command does: its code, its response, and the state it leaves. -/
abbrev MboxOut := Nat × List Byte × State

/-- A command that fails changes nothing. -/
def mboxFail (s : State) (code : Nat) : MboxOut := (code, [], s)

/-- COUNTER_ALLOC (R538): the lowest run of free counters. -/
def mboxAlloc (s : State) (fid : Nat) (req : List Byte) : MboxOut :=
  let n := fieldBytes req 8 2
  if n < 1 ∨ 4096 < n then mboxFail s Code.tzFormat
  else
    let free := fun (i : Nat) => (getC s i).owner.isNone
    match firstFrom (fun i => decide (i + n ≤ 65535) && (List.range n).all (fun k => free (i + k))) 65535 0 with
    | none => mboxFail s Code.memExhausted
    | some i =>
      (0, leBytes 2 i, { s with tz := { s.tz with counters := (List.range n).foldl (fun t k => t.set (i + k) { Counter.init with owner := some fid }) s.tz.counters } })

/-- A pending WAITCNT on a freed counter completes with TZ_RIGHTS (R539). -/
def freeWaits (s : State) (first n : Nat) : State :=
  modRun s (fun r => pendingWait r && decide (first ≤ r.ent.a % 2 ^ 16 ∧ r.ent.a % 2 ^ 16 < first + n))
    (fun r => { r with phase := .done Code.tzRights })

/-- COUNTER_FREE (R538, R539). -/
def mboxFree (s : State) (fid : Nat) (req : List Byte) : MboxOut :=
  let first := fieldBytes req 8 2
  let n := fieldBytes req 10 2
  if n < 1 ∨ 4096 < n ∨ 65535 < first + n then mboxFail s Code.tzFormat
  else if (List.range n).any (fun k => (getC s (first + k)).owner != some fid) then mboxFail s Code.tzBadHandle
  else
    (0, [], freeWaits { s with tz := { s.tz with counters := s.tz.counters.filter (fun x => decide (x.1 < first ∨ first + n ≤ x.1)) } } first n)

/-- Whether a counter is FUNCTION's, else the code. -/
def ownCounter (s : State) (fid i : Nat) : Nat :=
  if 65535 ≤ i then Code.tzFormat else if (getC s i).owner = some fid then 0 else Code.tzBadHandle

/-- COUNTER_ECHO (R538). -/
def mboxEcho (s : State) (fid : Nat) (req : List Byte) : MboxOut :=
  let i := fieldBytes req 8 2
  let flags := fieldBytes req 10 1
  let vec := fieldBytes req 12 2
  let a := fieldBytes req 16 8
  if 65535 ≤ i ∨ a % 8 ≠ 0 ∨ vecTable fid ≤ vec then mboxFail s Code.tzFormat
  else
    match ownCounter s fid i with
    | 0 => (0, [], setC s i { getC s i with
        echo := if natBit flags 0 then some a else none, vecOn := natBit flags 1, vector := vec, coalesce := fieldBytes req 11 1, vecDue := false, vecAt := 0 })
    | c => mboxFail s c

/-- COUNTER_GRANT (R538). -/
def mboxGrant (s : State) (fid : Nat) (req : List Byte) : MboxOut :=
  let i := fieldBytes req 8 2
  let g := fidOf (fieldBytes req 10 1) (fieldBytes req 11 1)
  let rights := fieldBytes req 12 1
  if 65535 ≤ i ∨ 2 ≤ fieldBytes req 10 1 ∨ 64 ≤ fieldBytes req 11 1 ∨ 4 ≤ rights then mboxFail s Code.tzFormat
  else
    match ownCounter s fid i with
    | 0 =>
      let c := getC s i
      let rest := c.grants.filter (fun x => x.1 != g)
      (0, [], setC s i { c with grants := if rights = 0 then rest else rest ++ [(g, rights)] })
    | c => mboxFail s c

/-- COUNTER_FABRIC (R538). -/
def mboxFabric (s : State) (fid : Nat) (req : List Byte) : MboxOut :=
  match ownCounter s fid (fieldBytes req 8 2) with
  | 0 => (0, [], setC s (fieldBytes req 8 2) { getC s (fieldBytes req 8 2) with fabric := if natBit (fieldBytes req 12 1) 0 then some (fieldBytes req 10 2) else none })
  | c => mboxFail s c

/-- PEER_OPEN and PEER_CLOSE (R538, R543). -/
def mboxPeer (s : State) (fid : Nat) (req : List Byte) (peer : Option Nat) : MboxOut :=
  let q := fieldBytes req 8 2
  if 4096 ≤ q then mboxFail s Code.tzFormat
  else if firmwareQueue ≤ q ∨ (getQ s q).fid ≠ fid then mboxFail s Code.tzBadHandle
  else (0, [], modQ s q (fun Q => { Q with peer := peer }))

/-- VF_APERTURE (R538, R541). -/
def mboxAperture (s : State) (p fn : Nat) (req : List Byte) : MboxOut :=
  let base := fieldBytes req 8 8
  let len := fieldBytes req 16 4
  if fn = 0 ∨ base % 2 ^ 21 ≠ 0 ∨ len % 2 ^ 21 ≠ 0 ∨ 2 ^ 28 < len ∨ base < carveBase then mboxFail s Code.tzFormat
  else if fnEnabled s p fn = false then mboxFail s Code.tzRights
  else (0, [], modH s p (fun h => { h with apertures := h.apertures.set fn (base, len) }))

/-- NOTIFY (R538). -/
def mboxNotify (s : State) (p fn : Nat) (req : List Byte) : MboxOut :=
  let vec := fieldBytes req 8 2
  if vecTable (fidOf p 0) ≤ vec then mboxFail s Code.tzFormat
  else if fn ≠ 0 then mboxFail s Code.tzRights
  else
    let rest := s.notify.filter (fun x => x.1 != fidOf p 0)
    (0, [], { s with notify := if natBit (fieldBytes req 10 1) 0 then rest ++ [(fidOf p 0, vec)] else rest })

/-- The request bytes a mailbox command's row names, as first byte and length, and the byte of flags with its legal bits (R538). -/
def mboxNamed (cmd : Nat) : List (Nat × Nat) × Nat × Nat :=
  match cmd with
  | 1 => ([(8, 2)], 8, 256)
  | 2 => ([(8, 2), (10, 2)], 8, 256)
  | 3 => ([(8, 6), (16, 8)], 10, 4)
  | 4 => ([(8, 5)], 12, 4)
  | 5 => ([(8, 5)], 12, 2)
  | 6 => ([(8, 2), (10, 2)], 8, 256)
  | 7 => ([(8, 2)], 8, 256)
  | 8 => ([(8, 8), (16, 4)], 8, 256)
  | 9 => ([(8, 3)], 10, 2)
  | _ => ([], 8, 256)

/-- Whether a reserved byte or bit of a request is not 0 (R538, R539). The bytes and bits the command's row does not name are taken as reserved (DEDUCED). -/
def mboxReserved (req : List Byte) : Bool :=
  let n := mboxNamed (fieldBytes req 0 1)
  decide (fieldBytes req 2 6 ≠ 0) || decide (n.2.2 ≤ fieldBytes req n.2.1 1) ||
    (List.range 56).any (fun k => !(n.1.any (fun r => decide (r.1 ≤ k + 8 ∧ k + 8 < r.1 + r.2))) && decide (fieldBytes req (k + 8) 1 ≠ 0))

/-- A mailbox command by its request bytes (R538, R539): format first, then the function's rights, then its objects. -/
def mboxRun (s : State) (p : Nat) (req : List Byte) : MboxOut :=
  let cmd := fieldBytes req 0 1
  let fn := fieldBytes req 1 1
  let fid := fidOf p fn
  let run : MboxOut :=
    match cmd with
    | 1 => mboxAlloc s fid req
    | 2 => mboxFree s fid req
    | 3 => mboxEcho s fid req
    | 4 => mboxGrant s fid req
    | 5 => mboxFabric s fid req
    | 6 => mboxPeer s fid req (some (fieldBytes req 10 2))
    | 7 => mboxPeer s fid req none
    | 8 => mboxAperture s p fn req
    | 9 => mboxNotify s p fn req
    | _ => mboxFail s Code.tzFormat
  if 64 ≤ fn ∨ mboxReserved req = true ∨ run.1 = Code.tzFormat then mboxFail s Code.tzFormat
  else if fnEnabled s p fn = false then mboxFail s Code.tzRights
  else run

/-- FWM_MBOX_CTRL of a port (R537). -/
def mboxCtrl (s : State) (p : Nat) : W64 := portReg s p 0x900180 0

/-- The request bytes in FWM_MBOX_REQ0 to 7. -/
def mboxReq (s : State) (p : Nat) : List Byte := (List.range 8).flatMap (fun k => leBytes 8 (portReg s p (0x900100 + 8 * k) 0).toNat)

/-- Run the command in REQ (R537): RESULT, the response, and the vector where VEC_EN is set. -/
def mboxGo (s : State) (p : Nat) : State :=
  let x := mboxRun s p (mboxReq s p)
  let s := modH x.2.2 p (fun h => { h with mboxResult := x.1, mboxRsp := x.2.1 })
  if bitOf (mboxCtrl s p) 15 then raiseVec s (fidOf p 0) (fieldOf (mboxCtrl s p) 10 0) else s

/-- A write of FWM_MBOX_CTRL (R537): with GO the command runs, once firmware serves it. -/
def mboxCtrlWrite (s : State) (who : Req) (p : Nat) (v : W64) : State :=
  if ownsPort who p = false then s
  else
    let old := mboxCtrl s p
    let vec := if fieldOf v 10 0 < vecTable (fidOf p 0) then fieldOf v 10 0 else fieldOf old 10 0
    let go := bitOf v 16 || bitOf old 47
    let s := setReg s (portKey p 0x900180) (BitVec.ofNat 64 (bit (go && !fwServes s) * 2 ^ 47 + bit (bitOf v 15) * 2 ^ 15 + vec))
    if go && fwServes s then mboxGo s p else s

/-- Serve the commands that wait for firmware (R537, R549). -/
def mboxServe (s : State) : State :=
  [0, 1].foldl (fun s p =>
    if bitOf (mboxCtrl s p) 47 ∧ fwServes s then mboxGo (setReg s (portKey p 0x900180) (mboxCtrl s p &&& ~~~(1#64 <<< 47))) p else s) s

/-- Store a request, its command byte `cmd`, and start it: what a mailbox row does. Requests are not taken while BUSY. -/
def mboxCommand (s : State) (who : Req) (cmd : Nat) (req : List Byte) : State :=
  let p := who.port
  if ownsPort who p = false ∨ bitOf (mboxCtrl s p) 47 then s
  else
    let bytes := leBytes 1 cmd ++ sliceBytes req 1 63
    let s := (List.range 8).foldl (fun s k => setReg s (portKey p (0x900100 + 8 * k)) (BitVec.ofNat 64 (fieldBytes bytes (8 * k) 8))) s
    mboxCtrlWrite s who p (mboxCtrl s p ||| 0x10000)

/-- COUNTER_ALLOC (R538): mailbox command 0x01; byte 0 of `req` is taken as the command. -/
def execCounterAlloc (who : Req) (req : List Byte) (s : State) : Out := alive s (mboxCommand s who 1 req)
/-- COUNTER_FREE (R538). -/
def execCounterFree (who : Req) (req : List Byte) (s : State) : Out := alive s (mboxCommand s who 2 req)
/-- COUNTER_ECHO (R538). -/
def execCounterEcho (who : Req) (req : List Byte) (s : State) : Out := alive s (mboxCommand s who 3 req)
/-- COUNTER_GRANT (R538). -/
def execCounterGrant (who : Req) (req : List Byte) (s : State) : Out := alive s (mboxCommand s who 4 req)
/-- COUNTER_FABRIC (R538). -/
def execCounterFabric (who : Req) (req : List Byte) (s : State) : Out := alive s (mboxCommand s who 5 req)
/-- PEER_OPEN (R538, R543). -/
def execPeerOpen (who : Req) (req : List Byte) (s : State) : Out := alive s (mboxCommand s who 6 req)
/-- PEER_CLOSE (R538). -/
def execPeerClose (who : Req) (req : List Byte) (s : State) : Out := alive s (mboxCommand s who 7 req)
/-- VF_APERTURE (R538, R541). -/
def execVfAperture (who : Req) (req : List Byte) (s : State) : Out := alive s (mboxCommand s who 8 req)
/-- NOTIFY (R538). -/
def execNotify (who : Req) (req : List Byte) (s : State) : Out := alive s (mboxCommand s who 9 req)

/-! ### BAR2 (R534, R541) -/

/-- The carve offset a BAR2 offset of a function reaches, and how many bytes from there belong to the function's window. FWM_BAR2_BASE may name its carve byte with or without the start of the region-carve space (DEDUCED: R534 against R533 and the reset value 0). -/
def bar2At (s : State) (who : Req) (off : Nat) : Nat × Nat :=
  if who.fn = 0 then
    let base := (portReg s who.port 0x900060 0).toNat
    let at_ := (if base < carveBase then carveBase + base else base) + off
    (at_, carveBase + carveLen s - at_)
  else
    match (getH s who.port).apertures.find who.fn with
    | some (base, len) => (base + off, min (len - off) (carveBase + carveLen s - (base + off)))
    | none => (off, 0)

/-- BAR2_ACCESS (R534, R541): a read of `n` bytes where `bytes` is none, else a write. Reads outside return 0, writes there are discarded and counted; so is everything in the fatal state. -/
def execBar2Access (who : Req) (off n : Nat) (bytes : Option (List Byte)) (s : State) : Out :=
  let at_ := bar2At s who off
  let a := at_.1
  let room := if s.halted ∨ a < carveBase then 0 else at_.2
  match bytes with
  | none => .next { s with bar2Out := if s.halted then List.replicate n 0 else s.dev.read a (min n room) ++ List.replicate (n - min n room) 0 }
  | some bs =>
    let k := if s.halted then s else { s with dev := s.dev.write a (bs.take room) }
    let k := if room < bs.length then modH k who.port (fun h => { h with discarded := satAdd 0xFFFFFFFF h.discarded 1 }) else k
    .next (if s.halted then k else retag s k)

end Sys2Proof.Machine
end

