-- ==== Sys2Proof/Machine/Firmware.lean ====
section
/-!
DEFINITION. Firmware images, live update and the device-wide resets (spec chapter 18, R501 to R515; R540 to R542, R546).
-/

namespace Sys2Proof.Machine

open Sys2Proof

/-! ### Images (R503 to R507) -/

/-- An image slot. -/
def fwSlot (s : State) (i : Nat) : FwSlot := s.fw.slots.getD i FwSlot.empty

/-- Change the firmware state. -/
def modFw (s : State) (f : Fw → Fw) : State := { s with fw := f s.fw }

/-- Set an image slot. -/
def setSlot (s : State) (i : Nat) (x : FwSlot) : State := modFw s (fun f => { f with slots := f.slots.set i x })

/-- Some bytes are all 0. -/
def allZero (bs : List Byte) : Bool := bs.all (fun b => b == 0)

/-- A stepping is no later than another (R504): by letter, then by digit. -/
def stepNoLater (l d : Nat) (p : Part) : Bool := decide (l < p.letter ∨ (l = p.letter ∧ d ≤ p.digit))

/-- The image passes verification (R503, R504). -/
def imageOk (p : Part) (bs : List Byte) (len : Nat) : Bool :=
  let k := fieldBytes bs 36 1
  sliceBytes bs 0 8 == [0x51, 0x58, 0x39, 0x46, 0x57, 0x49, 0x4D, 0x47] && fieldBytes bs 8 2 == 1 && fieldBytes bs 10 2 == 4096 && fieldBytes bs 12 4 == len &&
    allZero (sliceBytes bs 37 27) && allZero (sliceBytes bs 305 3791) && decide (k < 4) && !(p.revoked.contains k) &&
    Config.sha384 (sliceBytes bs 208 97) == p.keyHash.getD k [] && Config.signatureOk bs k && Config.sha384 (bs.drop 4096) == sliceBytes bs 64 48 &&
    decide (p.minSvn ≤ fieldBytes bs 20 4) && stepNoLater (fieldBytes bs 24 1) (fieldBytes bs 25 1) p

/-- The slot of a verified image. -/
def slotOf (bs : List Byte) : FwSlot :=
  { st := 2, version := fieldBytes bs 16 4, svn := fieldBytes bs 20 4, keyIndex := fieldBytes bs 36 1, tenonMin := fieldBytes bs 26 2, tenonMax := fieldBytes bs 28 2,
    tenonOut := fieldBytes bs 30 2, image := bs }

/-- A write of FWM_LOAD_CMD (R505, R507). -/
def loadCmdWrite (s : State) (who : Req) (v : W64) : State :=
  if isPhysical who = false then s
  else
    let s := setReg s 0x900008 (v &&& 0x3FFF0002)
    let i := fieldOf v 1 1
    let n := fieldOf v 29 16
    let busy := ((s.fwRun == 2 || s.fwRun == 3) && s.fw.goal == i) || (fwSlot s i).st == 3
    if bitOf v 0 = false ∨ busy then s
    else if n < 2 ∨ 0x2000 < n then modFw (setSlot s i FwSlot.empty) (fun f => { f with result := Code.fwSignature })
    else
      let bs := hostRead s (fidOf who.port 0) (fieldOf (s.regs.get 0 0x900000) 63 12 * 4096) (n * 4096)
      if imageOk s.part bs (n * 4096) then modFw (setSlot s i (slotOf bs)) (fun f => { f with result := 0 })
      else modFw (setSlot s i FwSlot.empty) (fun f => { f with result := Code.fwSignature })

/-- FIRMWARE_LOAD (R505): a write of FWM_LOAD_CMD with GO 1. -/
def execFirmwareLoad (who : Req) (v : W64) (s : State) : Out := alive s (loadCmdWrite s who (v ||| 1))

/-! ### Activation and live update (R506, R508 to R515) -/

/-- A FIRMWARE log entry (R522). -/
def logFw (s : State) (code severity old new slot : Nat) : State := logEvent s (evOf 0x09 code severity 0 [old, new, slot])

/-- Step 1 and 2 of a live update (R508): scheduling pauses and the tenon block is sealed. -/
def handoffStart (s : State) (i : Nat) : State :=
  let old := fwSlot s s.fw.active
  let t : Tenon := { version := old.tenonOut, sealed := true, handoff := s.fw.handoffs + 1, fromVersion := old.version, toVersion := (fwSlot s i).version }
  { modFw s (fun f => { f with goal := i, since := s.now, tenon := some t, handoffs := f.handoffs + 1 }) with fwRun := 3 }

/-- The timers that firmware keeps resume with the pause added (R511): WAITCNT deadlines, castle timers, leases, votes, drain deadlines and reattach leases. -/
def extendTimers (s : State) (d : Nat) : State :=
  let draft := fun (x : Draft) => { x with renewed := x.renewed + d }
  { s with
    tz := { s.tz with started := mapIf (fun r => r.ent.opcode == opWaitcnt) (fun r => { r with startAt := r.startAt + d }) s.tz.started }
    own := { s.own with
      copies := s.own.copies.map (fun c => { c with due := c.due + d })
      homes := s.own.homes.map (fun r => { r with due := r.due + d, arb := r.arb.map (fun a => { a with due := a.due + d }) }) }
    rgn := { s.rgn with
      drafts := s.rgn.drafts.map (fun x => { x with renewed := x.renewed + d })
      keys := s.rgn.keys.map (fun x => (x.1, { x.2 with drafts := x.2.drafts.map draft })) }
    cmp := { s.cmp with
      drains := s.cmp.drains.map (fun x => (x.1, x.2.1, x.2.2 + d)), changes := s.cmp.changes.map (fun c => { c with since := c.since + d })
      votes := s.cmp.votes.map (fun v => { v with at_ := v.at_ + d }) }
    hosts := s.hosts.map (fun h => if h.att = 2 then { h with orphanAt := h.orphanAt + d } else h) }

/-- Scheduling goes on after a pause: timers are extended, and what waited for firmware is served. -/
def resume (s : State) : State :=
  let s := extendTimers { s with fwRun := 1 } (s.now - s.fw.since)
  [0, 1].foldl drainLog (tableServe (mboxServe s))

/-- An aborted handoff (R514): the old image takes back what it sealed. At a trip the cores stop with the fast domains. -/
def handoffAbort (s : State) : State :=
  let s := modFw s (fun f => { f with result := Code.fwHandoffAborted, tenon := f.tenon.map (fun t => { t with sealed := false }) })
  let s := logFw s Code.fwHandoffAborted sevInfo (fwSlot s s.fw.active).version (fwSlot s s.fw.goal).version s.fw.goal
  resume s

/-- The new image adopts the tenon block's version (R508 step 4). -/
def tenonFits (s : State) : Bool :=
  match s.fw.tenon with
  | some t => decide ((fwSlot s s.fw.goal).tenonMin ≤ t.version ∧ t.version ≤ (fwSlot s s.fw.goal).tenonMax)
  | none => false

/-- HANDOFF_COMMIT_POINT (R508 steps 4 to 6): the new image adopts the block within 4.5 ms, or the handoff aborts. -/
def execHandoffCommitPoint (s : State) : Out :=
  alive s (
    if s.fwRun ≠ 3 then s
    else if tenonFits s = false ∨ s.fw.since + 4500 < s.now then handoffAbort s
    else
      let a := s.fw.active
      let g := s.fw.goal
      let old := fwSlot s a
      let new := fwSlot s g
      let s := setSlot (setSlot s a { old with st := 2 }) g { new with st := 3 }
      let s := modFw s (fun f => { f with active := g, result := 0, tenon := f.tenon.map (fun t => { t with sealed := false }) })
      resume (logFw s 0 sevInfo old.version new.version g))

/-- HANDOFF_ABORT (R514): the tenon block's header is refused (`refused`: the new image reads it as bad), brake or trip is in force, or 4.5 ms have passed. -/
def execHandoffAbort (refused : Bool) (s : State) : Out :=
  alive s (
    if s.fwRun = 3 ∧ (refused = true ∨ tenonFits s = false ∨ braking s = true ∨ s.fw.since + 4500 < s.now) then handoffAbort s else s)

/-- ACTIVATE (R506, R508, R513). -/
def activateSlot (s : State) (i : Nat) : State :=
  if s.fwRun = 2 ∨ s.fwRun = 3 ∨ s.fwRun = 4 then s
  else if (fwSlot s i).st ≠ 2 then modFw s (fun f => { f with result := Code.fwLoadRequired })
  else if s.fwRun = 0 then
    let s := setSlot s i { fwSlot s i with st := 3 }
    { modFw s (fun f => { f with active := i, goal := i, result := 0 }) with fwRun := 1 }
  else if s.ladder ≠ 0 then
    let s := logFw s Code.fwActivationDeferred sevInfo (fwSlot s s.fw.active).version (fwSlot s i).version i
    { modFw s (fun f => { f with goal := i, result := Code.fwActivationDeferred }) with fwRun := 2 }
  else handoffStart s i

/-- CANCEL (R513). -/
def cancelActivation (s : State) : State := if s.fwRun = 2 then { modFw s (fun f => { f with result := 0 }) with fwRun := 1 } else s

/-- A write of FWM_CTRL (R507): TARGET, then CANCEL or ACTIVATE. -/
def fwCtrlWrite (s : State) (who : Req) (v : W64) : State :=
  if isPhysical who = false then s
  else
    let s := modFw s (fun f => { f with target := fieldOf v 0 0 })
    if bitOf v 2 ∧ s.fwRun = 2 then cancelActivation s
    else if bitOf v 1 then activateSlot s (fieldOf v 0 0)
    else s

/-- FIRMWARE_ACTIVATE (R506, R508): a write of FWM_CTRL with ACTIVATE 1. -/
def execFirmwareActivate (who : Req) (target : Nat) (s : State) : Out := alive s (fwCtrlWrite s who (BitVec.ofNat 64 (2 + target % 2)))

/-- ACTIVATION_CANCEL (R513): a write of FWM_CTRL with CANCEL 1, its TARGET as it stands. -/
def execActivationCancel (who : Req) (s : State) : Out := alive s (fwCtrlWrite s who (BitVec.ofNat 64 (4 + s.fw.target % 2)))

/-- DEFERRED_ACTIVATION_START (R513): 100 ms after the last step of the ladder cleared. -/
def execDeferredActivationStart (s : State) : Out :=
  alive s (if s.fwRun = 2 ∧ s.ladder = 0 ∧ s.cpm.clearAt + 100000 ≤ s.now then handoffStart s s.fw.goal else s)

/-- HUB_WATCHDOG_EXPIRY (R502, R514): during a handoff it aborts it, at any other time it is fatal. -/
def execHubWatchdogExpiry (s : State) : Out :=
  alive s (
    if s.fwRun = 3 then handoffAbort s
    else if s.fwRun = 1 ∨ s.fwRun = 2 then raiseErr s 0x0C 0 sevFatal 0 0x03 0
    else s)

/-! ### Device reset and cold reset (R540 to R542) -/

/-- A tile is held while its branch, its half root or any of its leaves is (R598). -/
def tileHeld (l : List Nat) (t : Nat) : Bool :=
  l.contains (t / 16) || l.contains (0x10 + t) || l.any (fun n => decide (0x100 + 8 * t ≤ n ∧ n < 0x100 + 8 * t + 8))

/-- Tiles follow the gates held (R598, R599): a held branch or root power-gates a tile that runs nothing. -/
def gateTiles (s : State) : State :=
  (List.range 32).foldl (fun s t =>
    let T := getT s t
    let off := s.cpm.held.contains (0x10 + t) || s.cpm.held.contains (t / 16)
    let T' := { T with heldOff := tileHeld s.cpm.held t, st := if off ∧ T.task.isNone ∧ T.st ≠ .outOfService then .powerGated else T.st }
    if T' = T then s else setT s t T') s

/-- What flash holds when everything else is lost (R358, R541). -/
def flashKept (f : Fl) : Fl :=
  { State.reset.fl with copyA := f.copyA, copyB := f.copyB, journal := f.journal, jseq := f.jseq, marked := f.marked }

/-- A port after a device reset (R540): the link stays up and configuration space is kept; SEQ of its ring goes on (R521). -/
def portKept (h : HostPort) : HostPort :=
  { HostPort.init with link := h.link, width := h.width, rate := h.rate, vfs := h.vfs, bar2Log2 := h.bar2Log2, log := { LogRing.init with seq := h.log.seq } }

/-- The device outside the always-on domain is reset (R540); a half out of service stays so (R52). -/
def deviceReset (s : State) : State :=
  gateTiles { State.reset with
    now := s.now, free := s.free, host := s.host, sent := s.sent, vecSent := s.vecSent, pending := s.pending, part := s.part, ladder := s.ladder
    fl := flashKept s.fl
    hosts := s.hosts.map portKept
    fw := { State.reset.fw with handoffs := s.fw.handoffs }
    cfg := { State.reset.cfg with lastSeq := s.cfg.lastSeq }
    cpm := { s.cpm with idle := [], tileMax := 20, hubMax := 16 }
    regs := s.regs.filter (fun x => decide (0x20000 ≤ x.1 ∧ x.1 < 0x40000))
    fab := { State.reset.fab with ring := { State.reset.fab.ring with nbrE := s.fab.ring.nbrE, nbrW := s.fab.ring.nbrW } }
    til := { State.reset.til with
      result := s.til.result, failSlot := s.til.failSlot, halfOut := s.til.halfOut, lanesLost := s.til.lanesLost
      tiles := (s.til.tiles.filter (fun x => x.2.st == .outOfService)).map (fun x => (x.1, { Tile.init with st := .outOfService })) } }

/-- The device is reset whole (R540, R605): supplies and pins are as the board drives them; a reference counts as valid
again once it has been compared (R593), and start-up runs again from the crystal on. -/
def coldReset (s : State) : State :=
  let pin := fun (x : SbIn) => { SbIn.off with filtered := x.filtered, effective := x.effective }
  { State.reset with
    free := s.free, host := s.host, sent := s.sent, vecSent := s.vecSent, pending := s.pending, part := s.part
    fl := flashKept s.fl
    cpm := { State.reset.cpm with
      aon := s.cpm.aon, supplies := s.cpm.supplies, sb := s.cpm.sb.map pin
      avs := if s.cpm.supplies then s.cpm.avs else 850
      avsDue := if s.cpm.supplies ∧ s.part.avsTarget < s.cpm.avs then some (max s.part.avsTarget (s.cpm.avs - 25)) else none }
    fab := { State.reset.fab with ring := { State.reset.fab.ring with nbrE := s.fab.ring.nbrE, nbrW := s.fab.ring.nbrW } } }

/-- A write of GLB_RESET (R542): COLD before DEVICE; a tripped device waits for the end of the trip (R605), and its fast domains take no device reset. -/
def glbResetWrite (s : State) (who : Req) (v : W64) : State :=
  if isPhysical who = false ∨ fieldOf v 31 16 ≠ 0xC0DE then s
  else if bitOf v 1 then (if s.ladder = 4 then s else coldReset s)
  else if bitOf v 0 then (if s.tripped then s else deviceReset s)
  else s

/-- DEVICE_RESET (R540, R542): a write of GLB_RESET with COLD 0 and DEVICE 1. -/
def execDeviceReset (who : Req) (confirm : Nat) (s : State) : Out := .next (glbResetWrite s who (BitVec.ofNat 64 (confirm % 65536 * 65536 + 1)))

/-- COLD_RESET (R540, R542): a write of GLB_RESET with COLD 1. Power-on is AON_POWER_GOOD, the management reset a MANAGEMENT_REQUEST. -/
def execColdReset (who : Req) (confirm : Nat) (s : State) : Out := .next (glbResetWrite s who (BitVec.ofNat 64 (confirm % 65536 * 65536 + 2)))

/-! ### Fuses (R546) -/

/-- SPDM_RAISE_SVN (R546): inside a secured session with a requester of Kalmund's management root; the minimum is never lowered. -/
def execSpdmRaiseSvn (secured : Bool) (svn : Nat) (s : State) : Out :=
  .next (if secured ∧ s.part.minSvn < svn ∧ svn < 2 ^ 32 then { s with part := { s.part with minSvn := svn } } else s)

/-- SPDM_REVOKE_KEY_INDEX (R546): not the key index of the ACTIVE image. -/
def execSpdmRevokeKeyIndex (secured : Bool) (k : Nat) (s : State) : Out :=
  let active := s.fw.slots.any (fun x => x.st == 3 && x.keyIndex == k)
  .next (if secured ∧ k < 4 ∧ active = false ∧ s.part.revoked.contains k = false then { s with part := { s.part with revoked := s.part.revoked ++ [k] } } else s)

end Sys2Proof.Machine
end

