-- ==== Sys2Proof/Machine/Power.lean ====
section
/-!
DEFINITION. Clocks, gates, the emergency ladder, sideband inputs, telemetry, supplies and JTAG (spec chapters 22 and 23), and the start-up steps before the host (R567).
-/

namespace Sys2Proof.Machine

open Sys2Proof

/-- Change chapter 22's state. -/
def modCpm (s : State) (f : Cpm → Cpm) : State := { s with cpm := f s.cpm }

/-- A POWER log entry (R522). -/
def logPower (s : State) (code severity a b : Nat) : State := logEvent s (evOf 0x0C code severity 0 [a, b])

/-! ### The ladder (R601 to R605) -/

/-- CPM_PWR_CTRL (R615). -/
def pwrCtrl (s : State) : W64 := s.regs.get 0x0000044C5F640008 0x20040

/-- The ladder's log entry (R604): ARG0 the CAUSE bits, ARG1 the step. -/
def logStep (s : State) (step : Nat) (entered : Bool) : State :=
  logPower s (if entered then Code.pwrEmergency else 0) (if entered then sevDegraded else sevInfo) s.cpm.cause step

/-- The step in force is the highest whose condition holds (R602); the time when the last one cleared starts the count of R513. -/
def ladderEval (s : State) : State :=
  if s.ladder = 4 then s
  else
    let n := if s.cpm.brakeOn then 3 else if s.cpm.throttle.on then 2 else if s.cpm.notice.on then 1 else 0
    let s := if n = 0 ∧ s.ladder ≠ 0 then modCpm s (fun c => { c with clearAt := s.now }) else s
    { s with ladder := n }

/-- Set or clear a bit of CAUSE (R616): 0 power, 1 temperature, 2 PWR_BRAKE_N, 3 THERM_TRIP_N, 4 critical sensor or stack signal, 5 crystal lost. At trip they stand. -/
def setCause (s : State) (i : Nat) (b : Bool) : State :=
  if s.ladder = 4 then s
  else modCpm s (fun c => { c with cause := c.cause - c.cause / 2 ^ i % 2 * 2 ^ i + bit b * 2 ^ i })

/-- Which trip causes hold now (R605). -/
def setTripNow (s : State) (i : Nat) (b : Bool) : State :=
  modCpm s (fun c =>
    let n := c.tripNow - c.tripNow / 2 ^ i % 2 * 2 ^ i + bit b * 2 ^ i
    { c with tripNow := n, tripGone := if n = 0 ∧ c.tripNow ≠ 0 then s.now else c.tripGone })

/-- The fast domains go down (R585, R601, R626): work stops, BYP_EN falls, the PCIe links are down. A handoff under way ends with the old slot ACTIVE (R514). -/
def fastDown (s : State) : State :=
  let s := if s.fwRun = 3 then modFw s (fun f => { f with result := Code.fwHandoffAborted }) else s
  bypEval { s with
    halted := true, tripped := true, fwRun := if s.fwRun = 0 then 0 else 4, hosts := s.hosts.map (fun h => { h with link := false, width := 0, rate := 0 }) }

/-- Trip (R601, R605, R616), by the bit of its cause. It is not logged (R604). -/
def trip (s : State) (i : Nat) : State :=
  let s := setTripNow (setCause s i true) i true
  if s.ladder = 4 then s else fastDown { s with ladder := 4 }

/-- Enter or hold a step, or note that its condition has ceased (R601, R602). -/
def Step.eval (x : Step) (now : Nat) (cond clear : Bool) : Step :=
  if cond then { on := true, at_ := if x.on then x.at_ else now, ceased := none }
  else if clear then { x with ceased := some (x.ceased.getD now) }
  else { x with ceased := none }

/-- LADDER_TICK (R601): every 10 µs: mean package power over 1 ms in mW, the highest tile or hub sensor in 1/16 °C, and whether a stack signals catastrophe. -/
def execLadderTick (power : Nat) (temp : Int) (crit : Bool) (s : State) : Out :=
  .next (
    let limit := fieldOf (pwrCtrl s) 47 32 * 1000
    let tn : Int := 16 * fieldOf (pwrCtrl s) 31 24
    let tt : Int := 16 * fieldOf (pwrCtrl s) 23 16
    let critical := crit || decide (16 * 110 ≤ temp)
    let above := decide (limit < power)
    if s.ladder = 4 then setTripNow s 4 critical
    else
      let s := setCause (setCause s 0 above) 1 (decide (tn ≤ temp))
      let n0 := s.cpm.notice
      let t0 := s.cpm.throttle
      let n1 := n0.eval s.now (above || decide (tn ≤ temp)) (decide (20 * power ≤ 19 * limit ∧ temp ≤ tn - 48))
      let t1 := t0.eval s.now (decide (tt ≤ temp) || (n0.on && decide (n0.at_ + 10000 ≤ s.now) && above)) (decide (power ≤ limit ∧ temp ≤ tt - 48))
      let s := modCpm s (fun c => { c with notice := n1, throttle := t1 })
      let s := if n1.on ∧ n0.on = false then logStep (modCpm s (fun c => { c with notices := satAdd 0xFFFF c.notices 1 })) 1 true else s
      let s := if t1.on ∧ t0.on = false then logStep (modCpm s (fun c => { c with throttles := satAdd 0xFFFF c.throttles 1 })) 2 true else s
      if critical then trip s 4 else ladderEval s)

/-- LADDER_CLEAR (R602): notice (1) or throttle (2), its condition gone for 10 ms. -/
def execLadderClear (step : Nat) (s : State) : Out :=
  .next (
    let x := if step = 1 then s.cpm.notice else s.cpm.throttle
    let due : Bool := match x.ceased with | some t => x.on && decide (t + 10000 ≤ s.now) | none => false
    if s.ladder = 4 ∨ due = false ∨ ¬ (step = 1 ∨ step = 2) then s
    else
      let s := modCpm s (fun c => if step = 1 then { c with notice := Step.off } else { c with throttle := Step.off })
      ladderEval (logStep s step false))

/-! ### Sideband inputs (R607 to R609) -/

/-- CPM_SB_CTRL (R617). -/
def sbCtrl (s : State) : W64 := s.regs.get 0xA000A 0x20060

/-- An input. -/
def sbIn (s : State) (i : Nat) : SbIn := s.cpm.sb.getD i SbIn.off

/-- Change an input. -/
def modSb (s : State) (i : Nat) (f : SbIn → SbIn) : State := modCpm s (fun c => { c with sb := c.sb.set i (f (c.sb.getD i SbIn.off)) })

/-- Brake clears (R601, R604). -/
def brakeClear (s : State) : State :=
  if s.cpm.brakeOn then ladderEval (logStep (modCpm s (fun c => { c with brakeOn := false })) 3 false) else s

/-- What an input's effective level does (R607): brake and trip follow it, the ring sees its neighbours, a port is held in reset. -/
def inputActs (s : State) (i : Nat) (b : Bool) : State :=
  match i with
  | 0 => let s := setCause s 2 b; if b then s else brakeClear s
  | 1 => if s.ladder = 4 then setTripNow s 3 b else setCause s 3 b
  | 2 => { s with fab := { s.fab with ring := { s.fab.ring with nbrW := b } } }
  | 3 => { s with fab := { s.fab with ring := { s.fab.ring with nbrE := b } } }
  | 4 => if b then resetPort s 0 else s
  | 5 => if b then resetPort s 1 else s
  | _ => s

/-- The effective level of an input becomes `b` (R608, R609): the stuck limit is taken at assertion, STUCK clears at deassertion. -/
def setEffective (s : State) (i : Nat) (b : Bool) : State :=
  if (sbIn s i).effective = b then s
  else
    let limit := if i = 0 then fieldOf (sbCtrl s) 15 0 else if i = 1 then fieldOf (sbCtrl s) 31 16 else 0
    inputActs (modSb s i (fun x => { x with effective := b, onSince := s.now, limit := limit, stuck := x.stuck && b })) i b

/-- SIDEBAND_INPUT_CHANGE (R608): an input's filtered level changes: a recognised event, or an overrun that holds the input asserted. -/
def execSidebandInputChange (pin : Nat) (asserted : Bool) (s : State) : Out :=
  .next (
    let x := sbIn s pin
    if 6 ≤ pin ∨ s.cpm.aon = false ∨ x.filtered = asserted then s
    else
      let s := modSb s pin (fun x => { x with filtered := asserted, offSince := s.now })
      if x.held then s
      else if (match x.last with | some t => decide (t + 100 ≤ s.now) | none => true) then
        setEffective (modSb s pin (fun x => { x with last := some s.now })) pin asserted
      else
        let s := logPower (modSb s pin (fun x => { x with held := true, overrun := true })) Code.sbInputOverrun sevInfo pin 0
        setEffective s pin true)

/-- OVERRUN_RELEASE (R608): an input held by an overrun has been deasserted for 10 ms. -/
def execOverrunRelease (pin : Nat) (s : State) : Out :=
  .next (
    let x := sbIn s pin
    if x.held ∧ x.filtered = false ∧ x.offSince + 10000 ≤ s.now then
      setEffective (modSb s pin (fun x => { x with held := false, last := some s.now })) pin false
    else s)

/-- SIDEBAND_STUCK (R609): PWR_BRAKE_N or THERM_TRIP_N asserted past its limit is recorded once. -/
def execSidebandStuck (pin : Nat) (s : State) : Out :=
  .next (
    let x := sbIn s pin
    if 2 ≤ pin ∨ x.effective = false ∨ x.stuck ∨ s.now ≤ x.onSince + x.limit * 1000000 then s
    else raiseErr (modSb s pin (fun x => { x with stuck := true })) 0x0B pin sevDegraded Code.sbInputStuck 0x07 0)

/-- BRAKE (R601): PWR_BRAKE_N is effectively asserted; a handoff before its commit point aborts (R514). -/
def execBrake (s : State) : Out :=
  .next (
    if s.ladder = 4 ∨ s.cpm.brakeOn ∨ (sbIn s 0).effective = false then s
    else
      let s := logStep (modCpm s (fun c => { c with brakeOn := true, brakes := satAdd 0xFFFF c.brakes 1 })) 3 true
      let s := ladderEval s
      if s.fwRun = 3 ∧ s.halted = false then handoffAbort s else s)

/-- TRIP (R601): THERM_TRIP_N is effectively asserted, or (`critical`) a sensor is at 110 °C or a stack signals catastrophe. -/
def execTrip (critical : Bool) (s : State) : Out :=
  .next (if critical then trip s 4 else if (sbIn s 1).effective then trip s 3 else s)

/-- TRIP_RESTART (R605): every trip cause has been absent for 1 s. -/
def execTripRestart (s : State) : Out :=
  .next (if s.ladder = 4 ∧ s.cpm.tripNow = 0 ∧ s.cpm.tripGone + 1000000 ≤ s.now then coldReset s else s)

/-! ### Clock sources (R590 to R595) -/

/-- A PLL coasts (R593). -/
def coastPll (s : State) (i : Nat) : State := modCpm s (fun c => { c with coast := if c.coast.contains i then c.coast else c.coast ++ [i] })

/-- REFERENCE_LOSS (R593, R594): PLL 0, 1 or 2 loses lock with its reference present; 3 is the 100 MHz reference; 4 + k the fabric reference of ports 2k and 2k + 1. -/
def execReferenceLoss (which : Nat) (s : State) : Out :=
  .next (
    if s.tripped then s
    else if which < 3 then (if s.cpm.coast.contains which then s else raiseErr (coastPll s which) 0x0A which sevDegraded Code.clkRefLost 0x02 0)
    else if which = 3 then
      if s.cpm.ref100 = false then s
      else
        let s := [0, 1, 2].foldl coastPll (modCpm s (fun c => { c with ref100 := false }))
        raiseErr s 0x0A 2 sevDegraded Code.clkRefLost 0x06 0
    else if which < 8 then
      let k := which - 4
      let s := modCpm s (fun c => { c with fabRef := c.fabRef - c.fabRef / 2 ^ k % 2 * 2 ^ k })
      [2 * k, 2 * k + 1].foldl (fun s p => if (getP s p).st = .disabled ∨ (getP s p).st = .failed then s else retrain s p) s
    else s)

/-- A PLL is back on its reference (R595). -/
def relockPll (s : State) (i : Nat) : State :=
  if s.cpm.coast.contains i then logPower (modCpm s (fun c => { c with coast := c.coast.filter (fun x => x != i) })) 0 sevInfo i 0 else s

/-- REFERENCE_RETURN (R595): a reference has been valid for 10 ms, numbered as in REFERENCE_LOSS. -/
def execReferenceReturn (which : Nat) (s : State) : Out :=
  .next (
    if which < 3 then (if s.cpm.ref100 then relockPll s which else s)
    else if which = 3 then [0, 1, 2].foldl relockPll (modCpm s (fun c => { c with ref100 := true }))
    else if which < 8 then modCpm s (fun c => { c with fabRef := c.fabRef - c.fabRef / 2 ^ (which - 4) % 2 * 2 ^ (which - 4) + 2 ^ (which - 4) })
    else s)

/-- CRYSTAL_LOSS (R592): no edge for 10 µs trips the device. -/
def execCrystalLoss (s : State) : Out := .next (if s.cpm.osc then trip (modCpm s (fun c => { c with osc := false })) 5 else s)

/-- Clock frequencies in MHz (R593, R601, R613): half 0, half 1, hub. The tile PLLs rise once the regulator has acknowledged, or has failed to (R623, R624). -/
def clockMhz (s : State) : List Nat :=
  let tile := fun (h : Nat) =>
    if s.tripped ∨ s.cpm.trained = false ∨ s.cpm.avsDue.isSome ∨ s.cpm.held.contains h then 0
    else if s.cpm.coast.contains h ∨ s.ladder = 3 then 500
    else if s.ladder = 0 then s.cpm.tileMax * 100 else s.cpm.tileMax * 90
  [tile 0, tile 1, if s.tripped ∨ s.cpm.osc = false then 0 else if s.cpm.coast.contains 2 then 400 else s.cpm.hubMax * 100]

/-! ### Gates (R596 to R599) -/

/-- The nodes below a node (R596); none where the ID names no node. -/
def gateBelow (n : Nat) : Option (List Nat) :=
  let leaves := fun (t : Nat) => (List.range 6).map (fun e => 0x100 + 8 * t + e)
  if n < 2 then some ((List.range 16).map (fun k => 0x10 + 16 * n + k))
  else if 0x10 ≤ n ∧ n < 0x30 then some (leaves (n - 0x10))
  else if 0x100 ≤ n ∧ n < 0x200 ∧ n % 8 < 6 then some []
  else none

/-- A write of CPM_GATE_CMD (R598, R614), which the always-on domain takes in the fatal state too; the tiles, which stop there, follow after the reset. -/
def gateWrite (s : State) (who : Req) (v : W64) : State :=
  if isPhysical who = false then s
  else
    let follow := fun (s : State) => if s.halted then s else gateTiles s
    let old := s.regs.get 0 0x20008
    let op := if fieldOf v 13 12 = 1 ∨ fieldOf v 13 12 = 2 then fieldOf v 13 12 else fieldOf old 13 12
    let n := fieldOf v 11 0
    let s := setReg s 0x20008 (BitVec.ofNat 64 (op * 4096 + n))
    if bitOf v 16 = false then s
    else
      match gateBelow n with
      | none => modCpm s (fun c => { c with gateResult := Code.tzFormat })
      | some kids =>
        if op = 0 then modCpm s (fun c => { c with gateResult := Code.tzFormat })
        else if op = 1 then
          if kids.all (fun k => s.cpm.held.contains k) then
            follow (modCpm s (fun c => { c with gateResult := 0, held := if c.held.contains n then c.held else c.held ++ [n] }))
          else modCpm s (fun c => { c with gateResult := Code.clkChildActive })
        else
          let below := n :: kids ++ kids.flatMap (fun k => (gateBelow k).getD [])
          follow (modCpm s (fun c => { c with gateResult := 0, held := c.held.filter (fun x => !(below.contains x)) }))

/-- GATE_HOLD_OFF (R598): CPM_GATE_CMD with OP HOLD_OFF and GO. -/
def execGateHoldOff (who : Req) (node : Nat) (s : State) : Out :=
  .next (if s.tripped then s else gateWrite s who (BitVec.ofNat 64 (0x11000 + node % 4096)))

/-- GATE_RELEASE (R598): CPM_GATE_CMD with OP RELEASE and GO. -/
def execGateRelease (who : Req) (node : Nat) (s : State) : Out :=
  .next (if s.tripped then s else gateWrite s who (BitVec.ofNat 64 (0x12000 + node % 4096)))

/-- IDLE_LOW_POWER_ENTRY (R600): unit 0 is a memory channel in power-down, 1 one in self-refresh, 2 a control core, 3 a flash channel; a request wakes it. -/
def execIdleLowPowerEntry (unit index : Nat) (s : State) : Out :=
  alive s (
    let top := if unit = 2 then 8 else if unit = 3 then (if s.fl.tier = 0 then 0 else 16) else 192
    if 4 ≤ unit ∨ top ≤ index then s
    else modCpm s (fun c => { c with idle := c.idle.filter (fun x => !(x.2 == index && (x.1 == unit || (x.1 < 2 && unit < 2)))) ++ [(unit, index)] }))

/-! ### Telemetry (R610 to R612) -/

/-- CPM_TELEM_CTRL (R618). -/
def telemCtrl (s : State) : W64 := s.regs.get 0x00007FFF000A0100 0x20080
/-- CPM_TELEM_BUF (R618). -/
def telemBuf (s : State) : W64 := s.regs.get 0 0x20088
/-- Records the telemetry buffer holds. -/
def telemSize (s : State) : Nat := 2 ^ (fieldOf (telemBuf s) 4 0 + 12) / 256
/-- The port telemetry goes out of (R612). -/
def telemPort (s : State) : Nat := if natBit s.ident.ports 0 = false ∧ natBit s.ident.ports 1 = true then 1 else 0

/-- A telemetry record (R611) from 32 tile, 6 stack and 4 hub temperatures and 5 powers. -/
def telemBytes (s : State) (tiles stackTemps hubs powers : List Nat) : List Byte :=
  let n2 := fun (l : List Nat) (k : Nat) => (List.range k).flatMap (fun i => leBytes 2 (l.getD i 0))
  let coast := s.cpm.coast.foldl (fun n i => n + 2 ^ i) 0
  leBytes 8 (s.now * 1000) ++ leBytes 8 (s.cpm.telem.seq + 1) ++ leBytes 1 (min 3 s.ladder) ++ leBytes 1 coast ++ (clockMhz s).flatMap (leBytes 2) ++
    (List.range 5).flatMap (fun i => leBytes 4 (powers.getD i 0)) ++ leBytes 4 0 ++ n2 tiles 32 ++ n2 stackTemps 6 ++ n2 hubs 4 ++ List.replicate 124 0

/-- A telemetry record dropped on a path is counted. -/
def telemDrop (s : State) : State := modCpm s (fun c => { c with telem := { c.telem with dropped := satAdd 0xFFFFFFFF c.telem.dropped 1 } })

/-- Whether a path may carry 256 bytes more (R54, R612). -/
def telemShare (s : State) (path : Nat) : Bool :=
  let used := s.cpm.telem.sent.foldl (fun n x => if x.2.1 = path ∧ s.now < x.1 + 1000000 then n + x.2.2 else n) 0
  decide (used + 256 ≤ fieldOf (telemCtrl s) 23 16 * 100000)

/-- Count bytes sent on a path. -/
def telemSent (s : State) (path : Nat) : State :=
  modCpm s (fun c => { c with telem := { c.telem with sent := c.telem.sent.filter (fun x => decide (s.now < x.1 + 1000000)) ++ [(s.now, path, 256)] } })

/-- A record goes to the telemetry buffer (R612). -/
def telemToHost (s : State) (bytes : List Byte) : State :=
  let p := telemPort s
  let t := s.cpm.telem
  if telemShare s 0 = false ∨ s.orphans.contains p ∨ telemSize s ≤ t.head - t.tail then telemDrop s
  else
    let s1 := hostWrite s (fidOf p 0) (fieldOf (telemBuf s) 63 12 * 4096 + 256 * (t.head % telemSize s)) bytes
    modCpm (telemSent s1 0) (fun c => { c with telem := { c.telem with head := c.telem.head + 1 } })

/-- A record goes out as a DATAGRAM on class 7 (R402, R612). -/
def telemToFabric (s : State) (bytes : List Byte) : State :=
  let d := fieldOf (telemCtrl s) 46 32
  if d = noDevice then s
  else if telemShare s 1 = false then telemDrop s
  else
    let comp := match commonComp s d with | some m => (m.map.comp, m.map.epoch % 2 ^ 16) | none => (0xFFFF, 0)
    transmit (telemSent s 1) ⟨d, comp.1, comp.2, 7, false, 0, .datagram bytes⟩ none

/-- TELEMETRY_SAMPLE (R610 to R612): every PERIOD the sensors' readings, temperatures as 16-bit two's complement in 1/16 °C, powers in mW. -/
def execTelemetrySample (tiles stackTemps hubs powers : List Nat) (s : State) : Out :=
  .next (
    let bytes := telemBytes s tiles stackTemps hubs powers
    let s1 := modCpm s (fun c => { c with telem := { c.telem with last := bytes, lastAt := s.now } })
    if s.now < s.cpm.telem.lastAt + fieldOf (telemCtrl s) 15 8 * 1000 then s
    else if bitOf (telemCtrl s) 0 = false ∨ s.halted then s1
    else telemToFabric (telemToHost (modCpm s1 (fun c => { c with telem := { c.telem with seq := c.telem.seq + 1 } })) bytes) bytes)

/-- A write of CPM_TELEM_CTRL (R618). -/
def telemCtrlWrite (s : State) (who : Req) (v : W64) : State :=
  if isPhysical who = false then s
  else
    let old := telemCtrl s
    let share := if 1 ≤ fieldOf v 23 16 ∧ fieldOf v 23 16 ≤ 0x50 then fieldOf v 23 16 else fieldOf old 23 16
    let period := if fieldOf v 15 8 = 0 then fieldOf old 15 8 else fieldOf v 15 8
    let s := setReg s 0x20080 (BitVec.ofNat 64 (fieldOf v 46 32 * 2 ^ 32 + share * 65536 + period * 256 + bit (bitOf v 0)))
    if bitOf v 0 ∧ bitOf old 0 = false then modCpm s (fun c => { c with telem := { c.telem with head := 0, tail := 0, seq := 0 } }) else s

/-! ### Supplies and core voltage (R623 to R626) -/

/-- AVS_ACKNOWLEDGE (R623): the regulator takes a step of at most 25 mV; the next one follows until the target stands. -/
def execAvsAcknowledge (s : State) : Out :=
  .next (
    match s.cpm.avsDue with
    | none => s
    | some v =>
      let target := s.part.avsTarget
      let next := if v = target then none else some (max target (v - 25))
      modCpm s (fun c => { c with avs := v, avsDue := next, avsAt := s.now, avsLate := false }))

/-- AVS_ACK_TIMEOUT (R624): no acknowledgement within 10 ms; the voltage stays, and nothing is logged. -/
def execAvsAckTimeout (s : State) : Out :=
  .next (if s.cpm.avsDue.isSome ∧ s.cpm.avsAt + 10000 ≤ s.now then modCpm s (fun c => { c with avsDue := none, avsLate := true }) else s)

/-- FAST_SUPPLIES_IN_RANGE (R623, R626): groups 2 to 5 have been in range for 1 ms; the fused target is written. -/
def execFastSuppliesInRange (s : State) : Out :=
  .next (
    if s.cpm.aon = false ∨ s.ladder = 4 ∨ s.cpm.supplies then s
    else modCpm s (fun c => { c with supplies := true, avs := 850, avsDue := some (max s.part.avsTarget 825), avsAt := s.now, avsLate := false }))

/-- SUPPLY_DIP (R626): a fast-domain supply out of range for more than 1 µs takes the fast domains down; the ladder's status stands. -/
def execSupplyDip (s : State) : Out := .next (if s.cpm.supplies then fastDown (modCpm s (fun c => { c with supplies := false })) else s)

/-- AON_POWER_LOSS (R630, R635): BYP_EN falls, and everything stops. -/
def execAonPowerLoss (s : State) : Out :=
  .next (fastDown (modCpm s (fun c => { c with aon := false, osc := false, rom := false, supplies := false })))

/-! ### Start-up before the host (R567) -/

/-- AON_POWER_GOOD (R567 step 1): power-on, a cold reset. -/
def execAonPowerGood (s : State) : Out :=
  .next (
    if s.cpm.aon then s
    else
      let k := coldReset s
      { k with cpm := { k.cpm with aon := true, supplies := false } })

/-- OSCILLATOR_QUALIFICATION (R567 step 2, R592): the 8,192 cycles are counted, or 10 ms have run out and the count restarts. A crystal that is back is no trip cause. -/
def execOscillatorQualification (counted : Bool) (s : State) : Out :=
  .next (
    if s.cpm.aon = false then s
    else if s.ladder = 4 then (if counted then setTripNow s 5 false else s)
    else if s.cpm.osc then s
    else if counted then modCpm s (fun c => { c with osc := true, oscReason := 0 })
    else modCpm s (fun c => { c with oscReason := Code.clkOscNotStable }))

/-- BOOT_ROM_DONE (R567 step 3): self-check and fuse read; a failure is fatal. -/
def execBootRomDone (ok : Bool) (s : State) : Out :=
  .next (if s.cpm.osc = false ∨ s.cpm.rom then s else if ok then modCpm s (fun c => { c with rom := true }) else enterFatal s 0)

/-- STACK_TRAINING_COMPLETE (R567 step 4): a stack that fails takes its half out of service; both halves out is fatal. -/
def execStackTrainingComplete (failed : List Nat) (s : State) : Out :=
  .next (
    if s.cpm.rom = false ∨ s.cpm.supplies = false ∨ s.cpm.trained ∨ s.halted then s
    else
      let out := [0, 1].filter (fun h => failed.any (fun k => k < 6 && k / 3 == h))
      let s := modCpm s (fun c => { c with trained := true })
      let s := out.foldl (fun s h => raiseErr (halfOutOfService s h) 0x03 h sevDegraded Code.memUncorrectable 0x05 0) s
      if out.length = 2 ∧ s.halted = false then enterFatal s s.err.cause else s)

/-- PCIE_LINK_TRAINED (R530, R567 step 5): a port whose PERST_N is high answers configuration requests; width in lanes, rate in units of 0.1 GT/s. -/
def execPcieLinkTrained (p width rate : Nat) (s : State) : Out :=
  .next (
    if 2 ≤ p ∨ s.tripped ∨ s.cpm.trained = false ∨ (sbIn s (4 + p)).effective ∨ width = 0 ∨ 16 < width ∨ rate < 25 ∨ 640 < rate then s
    else modH s p (fun h => { h with link := true, width := width, rate := rate }))

/-! ### JTAG (R632, R633) -/

/-- IDCODE of the part (R633). -/
def idcode (p : Part) : Nat := (4 * (p.letter - 0x41) + (p.digit - 0x30)) * 2 ^ 28 + 0x0909 * 2 ^ 12 + 0x4CB * 2 + 1

/-- The instruction the TAP acts on for an opcode (R632): the boundary-scan drivers only with both ports in reset and nothing configured. -/
def tapActs (s : State) (op : Nat) : Nat :=
  if op = 1 ∨ op = 2 then op
  else if op ≤ 6 ∧ s.cfgState = 0 ∧ (sbIn s 4).effective ∧ (sbIn s 5).effective then op
  else 0xFF

/-- The instruction the TAP acts on now (R632). -/
def tapNow (s : State) : Nat := tapActs s s.cpm.jtag

/-- JTAG_INSTRUCTION (R632): what the instruction register holds; `tapNow` says what it does. -/
def execJtagInstruction (op : Nat) (s : State) : Out := .next (modCpm s (fun c => { c with jtag := op % 256 }))

/-- JTAG_TAP_RESET (R632): the reset instruction is IDCODE. -/
def execJtagTapReset (s : State) : Out := .next (modCpm s (fun c => { c with jtag := 1 }))

/-! ### Output balls (R628) -/

/-- How an output ball stands; a released open drain is `highZ`. -/
inductive Drive
  | highZ | low | high | driven
  deriving DecidableEq, Repr

/-- The output balls whose state R628 gives by the power state and the device's own: those of a link that is trained elsewhere, and TDO, are not among them. -/
inductive Ball
  | fabricTx | flashBus | flashCe | flashWp | xoEn | faultN | alertN | bypEn | avsBus
  deriving DecidableEq, Repr

/-- The fast domains are up (R628): from step 4 on, but not at trip or after R626. -/
def inService (s : State) : Bool := s.cpm.aon && s.cpm.rom && s.cpm.supplies && !s.tripped

/-- ALERT_N is driven low (R583). -/
def alertLow (s : State) : Bool := [s.err.primary, s.err.secondary].any (fun r => match r with | some r => decide (sevDegraded ≤ r.severity) | none => false)

/-- How an output ball stands (R416, R583, R628). -/
def ballNow (s : State) (b : Ball) : Drive :=
  let flash := inService s && decide (s.pers = some .cache)
  let level := fun (h : Bool) => if h then Drive.high else .low
  if s.cpm.aon = false then .highZ
  else
    match b with
    | .fabricTx => if inService s then .driven else .highZ
    | .flashBus => if flash then .driven else .highZ
    | .flashCe => if flash then .high else .highZ
    | .flashWp => if inService s then level (s.fl.tier == 1 || s.fl.tier == 2) else .highZ
    | .xoEn => .high
    | .faultN => if s.err.cause = 0 then .highZ else .low
    | .alertN => if alertLow s then .low else .highZ
    | .bypEn => level s.fab.ring.bypEn
    | .avsBus => if inService s then .driven else .high

end Sys2Proof.Machine
end

