-- ==== Sys2Proof/Machine/Stored.lean ====
section
/-!
DEFINITION. The stored form of a block as it leaves the device in a dump (spec chapter 11, R304, R305, R325, R326): its logical block address, its tweak, its key slot and its ciphertext;
and the packed image that holds such blocks (R321, R322). The pages and the carve of State are plaintext: what is stored follows from them, their tags and their keys.
-/

namespace Sys2Proof.Machine

open Sys2Proof

/-- The logical block address of block `i` of a page (R325): page form. -/
def pageLba (number i : Nat) : Nat := 2 ^ 47 + number % 2 ^ 40 * 128 + i % 128

/-- The logical block address of a logical address (R325): area form. -/
def areaLba (addr : Nat) : Nat := addr / 2048 % 2 ^ 47

/-- The tweak of a block (R325): the writing device, GENERATION and the block's address. -/
def tweakOf (device gen lba : Nat) : Nat := device % 2 ^ 15 * 2 ^ 64 + gen % 2 ^ 16 * 2 ^ 48 + lba % 2 ^ 48

/-- The 64 bytes of key material of a slot (R327). -/
def keyBytes (s : State) (slot : Nat) : List Byte := (s.cx.keys.get [] slot).flatMap (fun w => leBytes 8 w.toNat)

/-- A block as it is stored: its address, its tag and the sectors it takes. -/
structure StoredBlock where
  lba : Nat
  tag : Nat
  bytes : List Byte
  deriving DecidableEq, Repr

/-- The stored form of a block (R304, R325): compressed as its tag says, then enciphered under its slot's key and its tweak. -/
def storeBlock (s : State) (slot gen lba tag : Nat) (plain : List Byte) : StoredBlock :=
  { lba := lba, tag := tag, bytes := Config.cipher (keyBytes s slot) (tweakOf (self s) gen lba) (packBlock s tag plain) }

/-- The blocks of a page's stacks copy; zero-form blocks are not stored (R306, R309). GENERATION is 0 for pages (R325). -/
def pageStored (s : State) (p : Page) : List StoredBlock :=
  match s.cx.pageTags.find? (fun t => t.number == p.number) with
  | some t => t.up.zipIdx.filterMap (fun x =>
      if x.1 = tagZero then none else some (storeBlock s (pageKeySlot s p) 0 (pageLba p.number x.2) x.1 (pageBlock p x.2)))
  | none => []

/-- The device logical address of a byte of the region carve (R274, R533): its two parts lie at one offset in each half. -/
def carveAddr (s : State) (a : Nat) : Nat :=
  let o := a - carveBase
  if o < carveLen s / 2 then carveLogical s + o else s.ident.capacityMiB * 2 ^ 19 + carveLogical s + (o - carveLen s / 2)

/-- Key slot and GENERATION of a carve block (R325, R326): of the region that holds it. A block of no region is of the device domain, as slot 0 (DEDUCED, log 34). -/
def carveKey (s : State) (i : Nat) : Nat × Nat :=
  match s.rgn.keys.find? (fun k => k.2.state != .free && k.2.loc == 1 && decide (k.2.addr < 2048 * (i + 1) ∧ 2048 * i < k.2.addr + k.2.len)) with
  | some k => (customerSlot s k.2.customer, k.2.gen)
  | none => (0, 0)

/-- The stored blocks of the region carve. -/
def carveStored (s : State) : List StoredBlock :=
  s.cx.carveTags.map (fun x =>
    let k := carveKey s x.1
    storeBlock s k.1 k.2 (areaLba (carveAddr s (2048 * x.1))) x.2 (s.dev.read (2048 * x.1) 2048))

/-! ### What the model keeps no bytes of -/

/-- Bytes whose values the manual does not lay out. -/
def freeBytes : Nat → State → List Byte × State
  | 0, s => ([], s)
  | n + 1, s =>
    let x := takeFree 8 s
    let y := freeBytes n x.2
    (BitVec.ofNat 8 x.1 :: y.1, y.2)

/-- `n` stored blocks of free contents from an address upward, of a kind, under a key slot and GENERATION. -/
def openBlocks (kind slot gen : Nat) : Nat → Nat → State → List StoredBlock × State
  | 0, _, s => ([], s)
  | n + 1, lba, s =>
    let x := freeBytes 2048 s
    let y := openBlocks kind slot gen n (lba + 1) x.2
    let tag := blockTag s kind x.1
    (if tag = tagZero then y.1 else storeBlock s slot gen lba tag x.1 :: y.1, y.2)

/-- The hub's state as raw blocks from its area-form address upward (R586): how much there is and what it holds are free values. -/
def hubStored (s : State) : List StoredBlock × State :=
  let n := takeFree 16 s
  let x := freeBytes (n.1 * 2048) n.2
  ((chunks 2048 n.1 x.1).zipIdx.map (fun b => { lba := 2 ^ 46 + b.2, tag := tagRaw, bytes := b.1 }), x.2)

/-- The work area of one half (R274), in the device domain (R326); its contents are free values. -/
def workStored (s : State) (half : Nat) : List StoredBlock × State :=
  let cap := s.ident.capacityMiB * 2 ^ 20
  openBlocks 2 0 0 (cap / 128 / 2 / 2048) (areaLba (half * (cap / 2) + (32 + 384) * 2 ^ 20 + cap / 2048 / 2)) s

/-- The save area of one tile (R274, R325): what its saved tasks take, under their customers' slots, with the tile's count of saves as GENERATION; the contents are free values. -/
def saveStored (s : State) (t : Nat) : List StoredBlock × State :=
  let base := tileHalf t * (s.ident.capacityMiB * 2 ^ 19) + (32 + 24 * (t % 16)) * 2 ^ 20
  let acc := (getT s t).saved.foldl (fun (acc : (List StoredBlock × State) × Nat) i =>
    match findTask s i with
    | some k =>
      let n := (k.live + 1) * 32
      let x := openBlocks 1 (customerSlot s k.customer) (getT s t).saves n (areaLba base + acc.2) acc.1.2
      ((acc.1.1 ++ x.1, x.2), acc.2 + n)
    | none => acc) (([], s), 0)
  acc.1

/-! ### The packed image -/

/-- The blocks of a dump in the order of R586: the hub's state, then each area selected by AREAS. -/
def dumpBlocks (s : State) (areas : Nat) : List StoredBlock × State :=
  let h := hubStored s
  let w := if natBit areas 0 then
      let a := workStored h.2 0
      let b := workStored a.2 1
      (a.1 ++ b.1, b.2)
    else ([], h.2)
  let pool := if natBit areas 1 then (s.pages.filter (fun p => p.kind != .weight && p.stack.isSome)).flatMap (pageStored s) else []
  let saves := if natBit areas 2 then
      (List.range 32).foldl (fun (acc : List StoredBlock × State) t => let x := saveStored acc.2 t; (acc.1 ++ x.1, x.2)) ([], w.2)
    else ([], w.2)
  (h.1 ++ w.1 ++ pool ++ saves.1 ++ (if natBit areas 3 then carveStored s else []), saves.2)

/-- Sectors that some blocks take. -/
def sectorsOf (l : List StoredBlock) : Nat := l.foldl (fun n b => n + b.bytes.length / 64) 0

/-- Insert an index entry by its address. -/
def insLba (e : Nat × List Byte) : List (Nat × List Byte) → List (Nat × List Byte)
  | [] => [e]
  | x :: xs => if e.1 < x.1 then e :: x :: xs else x :: insLba e xs

/-- The index of a packed image (R322), in rising address order: each block's tag, first sector and CRC. -/
def indexBytes (l : List StoredBlock) : List Byte :=
  let es := l.zipIdx.map (fun x =>
    (x.1.lba, leBytes 6 x.1.lba ++ leBytes 1 x.1.tag ++ [0] ++ leBytes 4 (sectorsOf (l.take x.2)) ++ leBytes 4 (crc32c x.1.bytes)))
  (es.foldl (fun acc e => insLba e acc) []).flatMap (·.2)

/-- Bytes of a packed image of some blocks: header, index up to a whole sector, data. -/
def packedLen (l : List StoredBlock) : Nat := 256 + ceilDiv (16 * l.length) 64 * 64 + 64 * sectorsOf l

/-- A packed image of stored blocks (R321, R322): `seq` is its sequence number. -/
def packedImage (s : State) (purpose seq : Nat) (l : List StoredBlock) : List Byte :=
  let index := indexBytes l
  let data := 256 + ceilDiv index.length 64 * 64
  let named := fun (i : Nat) => l.any (fun b => decide (b.tag < 0x80 ∧ b.tag / 32 = i))
  let slot := fun (i : Nat) => if named i then s.cx.slots.getD i TableSlot.free else TableSlot.free
  let head := [0x51, 0x58, 0x39, 0x50, 0x41, 0x43, 0x4B, 0x31] ++ leBytes 2 1 ++ leBytes 1 purpose ++ leBytes 1 1 ++ leBytes 2 (self s) ++ leBytes 2 0 ++
    leBytes 8 seq ++ leBytes 8 l.length ++ leBytes 8 256 ++ leBytes 8 data ++ leBytes 8 (sectorsOf l) ++
    (List.range 4).flatMap (fun i => leBytes 8 (slot i).id) ++ (List.range 4).flatMap (fun i => leBytes 4 (slot i).gen) ++ List.replicate 144 0 ++ leBytes 4 (crc32c index)
  head ++ leBytes 4 (crc32c head) ++ index ++ List.replicate (data - 256 - index.length) 0 ++ l.flatMap (·.bytes)

/-- The first blocks of a list whose image fits into `n` bytes (R586): the image ends at the last whole block. -/
def fitImage (n : Nat) (l : List StoredBlock) : List StoredBlock :=
  match (List.range l.length).reverse.find? (fun k => decide (packedLen (l.take (k + 1)) ≤ n)) with
  | some k => l.take (k + 1)
  | none => []

end Sys2Proof.Machine
end

