-- ==== Sys2Proof/Machine/ConfigStart.lean ====
section
/-!
DEFINITION. Configuration images, the enable check, putting a copy in force, shutdown and the warm-start import (spec chapter 20, R550 to R574).
-/

namespace Sys2Proof.Machine

open Sys2Proof

/-- Change the configuration's state. -/
def modCfg (s : State) (f : Cfg → Cfg) : State := { s with cfg := f s.cfg }

/-! ### The image (R551 to R553) -/

/-- A record of an image: its index, its TYPE and its body. -/
abbrev CRec := Nat × Nat × List Byte

/-- The records that follow the header back to back (R552); none where they do not end with the image. -/
def recordsFrom : Nat → Nat → List Byte → Option (List CRec)
  | _, _, [] => some []
  | 0, _, _ => none
  | fuel + 1, i, bs =>
    let n := fieldBytes bs 4 4
    if bs.length < 8 + n ∨ n % 8 ≠ 0 ∨ fieldBytes bs 2 2 ≠ 0 then none
    else (recordsFrom fuel (i + 1) (bs.drop (8 + n))).map (fun l => (i, fieldBytes bs 0 2, (bs.drop 8).take n) :: l)

/-- The body length that R554 gives a TYPE; none for a reserved one. -/
def bodyLen (ty : Nat) (b : List Byte) : Option Nat :=
  match ty with
  | 0x1 => some 16
  | 0x2 => some 8
  | 0x3 => some 8
  | 0x4 => some 32
  | 0x5 => some 24
  | 0x6 => some 8
  | 0x7 => some 8
  | 0x8 => some 72
  | 0x9 => some 16
  | 0xA => some 8
  | 0xB => some 8
  | 0xC => some (8 + 8 * fieldBytes b 2 2)
  | 0xD => some (144 + 8 * fieldBytes b 136 4)
  | 0xE => some (8 + 32 * fieldBytes b 2 2)
  | 0xF => some 64
  | _ => none

/-- The records of an image. -/
def imageRecords (bs : List Byte) : List CRec := (recordsFrom (bs.length / 8) 0 (bs.drop 64)).getD []

/-- SEQUENCE of an image (R551). -/
def imageSeq (bs : List Byte) : Nat := fieldBytes bs 16 8

/-- A copy is valid (R551 to R553). -/
def imageValid (bs : List Byte) : Bool :=
  sliceBytes bs 0 8 == [0x51, 0x58, 0x39, 0x43, 0x46, 0x47, 0x49, 0x4D] && fieldBytes bs 8 2 == 1 && fieldBytes bs 10 2 == 64 && fieldBytes bs 12 4 == bs.length &&
    decide (64 ≤ bs.length ∧ bs.length ≤ 1048576 ∧ bs.length % 8 = 0) && imageSeq bs != 0 && decide (fieldBytes bs 24 4 ≤ 65535) && allZero (sliceBytes bs 28 32) &&
    crcHolds bs 60 &&
    (match recordsFrom (bs.length / 8) 0 (bs.drop 64) with
      | some l => l.length == fieldBytes bs 24 4 && l.all (fun r => bodyLen r.2.1 r.2.2 == some r.2.2.length)
      | none => false)

/-! ### Loading (R560) -/

/-- A write of CFG_LOAD_CMD (R560, R565). `cut`: the copy is cut short by a DMA error. -/
def cfgLoadWrite (s : State) (who : Req) (v : W64) (cut : Bool) : State :=
  if isPhysical who = false then s
  else
    let s := setReg s 0x10008 (v &&& 0x1FFFFF0002)
    if bitOf v 0 = false ∨ s.cfgState = 1 ∨ s.cfgState = 2 then s
    else
      let n := fieldOf v 36 16
      let bs := hostRead s (fidOf who.port 0) (fieldOf (s.regs.get 0 0x10000) 63 12 * 4096) n
      let bad := decide (n < 64 ∨ 1048576 < n) || cut || !(getH s who.port).link
      let c : CfgCopy := if bad then { st := 3, bytes := [] } else if imageValid bs then { st := 2, bytes := bs } else { st := 3, bytes := [] }
      modCfg s (fun g => if bitOf v 1 then { g with copyB := c } else { g with copyA := c })

/-- CONFIG_LOAD (R560): a write of CFG_LOAD_CMD with GO 1. -/
def execConfigLoad (who : Req) (v : W64) (cut : Bool) (s : State) : Out := alive s (cfgLoadWrite s who (v ||| 1) cut)

/-! ### What records hold -/

/-- The records of a TYPE, in image order. -/
def ofType (rs : List CRec) (ty : Nat) : List CRec := rs.filter (fun r => r.2.1 == ty)

/-- The body of the first record of a TYPE, empty (all 0) where there is none. -/
def bodyOf (rs : List CRec) (ty : Nat) : List Byte := match (ofType rs ty).head? with | some r => r.2.2 | none => []

/-- A MODEL record (R558). -/
def modelOfBytes (b : List Byte) : ModelRec :=
  { layers := fieldBytes b 0 1, heads := fieldBytes b 1 1, kind := fieldBytes b 2 1, kvHeads := fieldBytes b 3 1, latent := fieldBytes b 4 2,
    rotary := fieldBytes b 6 2, keyWidth := fieldBytes b 8 2, valueWidth := fieldBytes b 10 2, storage := fieldBytes b 12 1, pageLog2 := fieldBytes b 13 1,
    frame4k := fieldBytes b 14 1, weightFormat := fieldBytes b 15 1, window := fieldBytes b 16 4, weightAddr := fieldBytes b 24 8, weightPort := fieldBytes b 32 1 }

/-- A CUSTOMER record as an entry not yet valid (R463, R554). -/
def customerOfBytes (b : List Byte) : Customer :=
  { Customer.init with
    customer := fieldBytes b 0 2, keySlot := fieldBytes b 2 2, weight := fieldBytes b 4 2, rate := fieldBytes b 8 4, burst := fieldBytes b 12 4 }

/-- A HOST_WINDOW record (R272). -/
def windowOfBytes (b : List Byte) : HostWindow := { port := fieldBytes b 0 1, addr := fieldBytes b 8 8, len := fieldBytes b 16 8, retired := false }

/-- A FLASH_GEOMETRY record (R559). -/
def geomOfBytes (b : List Byte) : FlashGeom :=
  { raw := b, channels := fieldBytes b 0 2, ces := (List.range 16).map (fun i => fieldBytes b (2 + i) 1), luns := fieldBytes b 18 1, planes := fieldBytes b 19 1,
    blocks := fieldBytes b 20 2, pages := fieldBytes b 22 2, rated := fieldBytes b 44 4, metaBlocks := fieldBytes b 30 2, tBusy := max (fieldBytes b 36 4) (fieldBytes b 40 4),
    bad := (List.range (fieldBytes b 136 4)).map (fun i => fieldBytes b (144 + 8 * i) 8) }

/-- Key material as eight words (R327, R332). -/
def keyWords (b : List Byte) : List W64 := (List.range 8).map (fun k => BitVec.ofNat 64 (fieldBytes b (8 + 8 * k) 8))

/-- The route entries of a ROUTE record (R431): device and word. -/
def routesOf (b : List Byte) : List (Nat × Nat) := (List.range (fieldBytes b 2 2)).map (fun j => (fieldBytes b 0 2 + j, fieldBytes b (8 + 8 * j) 8))

/-- The words of a SPINDLE record in a bank (R244, R246). -/
def loadSpindle (s : State) (bank : Nat) (b : List Byte) : State :=
  let clean := { s with regs := s.regs.filter (fun x => decide (x.1 < 0x808000 + 0x8000 * bank ∨ 0x810000 + 0x8000 * bank ≤ x.1)) }
  (List.range (4 * fieldBytes b 2 2)).foldl (fun s i =>
    let v := fieldBytes b (8 + 8 * i) 8
    if v = 0 then s else setReg s (0x808000 + 0x8000 * bank + 8 * i) (BitVec.ofNat 64 v)) clean

/-! ### The enable check (R561, R562) -/

/-- Log the result of a check (R566): the record's index, the copy (1 A, 2 B, 3 both) and its SEQUENCE. -/
def logCfg (s : State) (code record copy seq : Nat) : State :=
  logEvent s (evOf 0x0A code (if code = 0 ∨ code = Code.cfgOk then sevInfo else sevContained) 0 [record, copy, seq])

/-- Copy selection (R561): the copies' log entries, then the copy with its bytes and SEQUENCE, or the code. -/
def selectCopy (s : State) (above : Bool) : State × Except Nat (Nat × List Byte × Nat) :=
  let a := s.cfg.copyA
  let b := s.cfg.copyB
  let s := if a.st = 3 then logCfg s 0 0xFFFF 1 0 else s
  let s := if b.st = 3 then logCfg s 0 0xFFFF 2 0 else s
  let sa := imageSeq a.bytes
  let sb := imageSeq b.bytes
  let stale := fun (q : Nat) => decide (q < s.cfg.lastSeq) || (above && decide (q = s.cfg.lastSeq))
  let pick := fun (n : Nat) (bs : List Byte) (q : Nat) => if stale q then (Except.error Code.cfgSequenceStale : Except Nat (Nat × List Byte × Nat)) else .ok (n, bs, q)
  if a.st = 2 ∧ b.st = 2 then
    if sa = sb then (logCfg s 0 0xFFFF 3 sa, pick 1 a.bytes sa) else if sb < sa then (s, pick 1 a.bytes sa) else (s, pick 2 b.bytes sb)
  else if a.st = 2 then (s, pick 1 a.bytes sa)
  else if b.st = 2 then (s, pick 2 b.bytes sb)
  else (s, .error Code.cfgNoValidCopy)

/-- The records whose bodies fail a test. -/
def recFails (ok : List Byte → Bool) (l : List CRec) : List Nat := l.filterMap (fun r => if ok r.2.2 then none else some r.1)

/-- What a count outside its column names (R554): nothing to name where a record is missing, else the first record too many. -/
def countFails (rs : List CRec) (ty lo hi : Nat) : List Nat :=
  (if (ofType rs ty).length < lo then [0xFFFF] else []) ++ (match (ofType rs ty)[hi]? with | some r => [r.1] | none => [])

/-- The failure of a row (R562): the failing record with the lowest index is named. -/
def rowFails (code : Nat) (l : List Nat) : Option (Nat × Nat) := if l.isEmpty then none else some (code, l.foldl min 0xFFFF)

/-- The records that repeat a key of an earlier one. -/
def repeats (key : List Byte → Nat) : List Nat → List CRec → List Nat
  | _, [] => []
  | seen, r :: rs => if seen.contains (key r.2.2) then r.1 :: repeats key seen rs else repeats key (key r.2.2 :: seen) rs

/-- Halves in service (R52). -/
def halvesIn (s : State) : Nat := 2 - ((List.range 2).filter (fun h => s.til.halfOut.contains h)).length

/-- Capacity in MiB of the halves in service (R2, R274). -/
def capacityIn (s : State) : Nat := (if s.part.variant = 1 then 221184 else 147456) / 2 * halvesIn s

/-- The personality byte (R554). -/
def persOf (n : Nat) : Option Pers := match n with | 1 => some .prompt | 2 => some .generation | 3 => some .cache | _ => none

/-- Step 3 (R562): PERSONALITY, no FLASH_GEOMETRY but under C, RECORD_MIB only under P. -/
def check3 (rs : List CRec) : List Nat :=
  let p := fieldBytes (bodyOf rs 2) 0 1
  countFails rs 2 1 1 ++ recFails (fun b => (persOf (fieldBytes b 0 1)).isSome && allZero (b.drop 1)) ((ofType rs 2).take 1) ++
  (if p = 1 ∨ p = 2 then ((ofType rs 0xD).take 1).map (·.1) else []) ++
  (if p = 2 ∨ p = 3 then recFails (fun b => fieldBytes b 0 4 == 0) (ofType rs 4) else [])

/-- A FLASH_GEOMETRY body within the ranges of R335. -/
def geomOk (b : List Byte) : Bool :=
  let g := geomOfBytes b
  let time := fun (o : Nat) => decide (1 ≤ fieldBytes b o 4 ∧ fieldBytes b o 4 ≤ 100000)
  decide (1 ≤ g.luns ∧ g.luns ≤ 4 ∧ 1 ≤ g.planes ∧ g.planes ≤ 4 ∧ 1 ≤ g.blocks ∧ g.blocks ≤ 16384 ∧ 64 ≤ g.pages ∧ g.pages ≤ 2048) &&
    fieldBytes b 24 2 == 16384 && decide (2048 ≤ fieldBytes b 26 2) &&
    [800, 1066, 1200, 1600, 2000, 2400, 2800, 3200, 3600].contains (fieldBytes b 28 2) && decide (4 ≤ g.metaBlocks ∧ g.metaBlocks ≤ 256) &&
    time 32 && time 36 && time 40 && decide (100 ≤ g.rated ∧ g.rated ≤ 100000) && decide (1000 ≤ fieldBytes b 48 4 ∧ fieldBytes b 48 4 ≤ 1000000) &&
    fieldBytes b 53 1 == 0 && fieldBytes b 74 2 == 0 && fieldBytes b 140 4 == 0

/-- Step 4 (R562): IDENTITY, the links of the ports it names, and the flash; `flash` is the first target that disagrees or fails training (R336, R337). -/
def check4 (s : State) (rs : List CRec) (flash : Option (Nat × Nat)) : List Nat :=
  let link := fun (b : List Byte) (p : Nat) => !(natBit (fieldBytes b 10 1) p) || (getH s p).link
  countFails rs 1 1 1 ++
  recFails (fun b => decide (fieldBytes b 0 2 < 0x7FFF ∧ fieldBytes b 4 2 < 0x8000 ∧ 1 ≤ fieldBytes b 8 1 ∧ fieldBytes b 8 1 ≤ 4 ∧
      fieldBytes b 9 1 < fieldBytes b 8 1 ∧ 1 ≤ fieldBytes b 10 1 ∧ fieldBytes b 10 1 ≤ 3 ∧ fieldBytes b 11 1 ≤ 64 ∧ fieldBytes b 14 2 = 0) &&
    link b 0 && link b 1) ((ofType rs 1).take 1) ++
  countFails rs 0xD 0 1 ++ recFails (fun b => geomOk b && flash.isNone) ((ofType rs 0xD).take 1)

/-- Step 5 (R562): CLOCK, the references it declares and those that enabled ports need. -/
def check5 (s : State) (rs : List CRec) : List Nat :=
  countFails rs 3 1 1 ++
  recFails (fun b =>
    let m := fieldBytes b 3 1
    decide (5 ≤ fieldBytes b 0 1 ∧ fieldBytes b 0 1 ≤ 20 ∧ 4 ≤ fieldBytes b 1 1 ∧ fieldBytes b 1 1 ≤ 16 ∧ fieldBytes b 2 1 = 1 ∧ m < 16 ∧ fieldBytes b 4 4 = 0) &&
    s.cpm.ref100 && (List.range 4).all (fun k => !(natBit m k) || natBit s.cpm.fabRef k) &&
    (ofType rs 0xA).all (fun r => fieldBytes r.2.2 3 1 != 1 || natBit m (fieldBytes r.2.2 0 1 / 2))) ((ofType rs 3).take 1)

/-- Records at which a running sum passes a limit. -/
def sumFails (size : List Byte → Nat) (top : Nat) : Nat → List CRec → List Nat
  | _, [] => []
  | n, r :: rs => if top < n + size r.2.2 then r.1 :: sumFails size top (n + size r.2.2) rs else sumFails size top (n + size r.2.2) rs

/-- The metadata area holds two checkpoint copies and journal rings (R354, R366). -/
def metaFits (s : State) (b : List Byte) : Bool :=
  let g := geomOfBytes b
  let chs := (List.range 16).filter (fun i => natBit g.channels i)
  let blocks := (chs.foldl (fun n i => n + ((List.range 8).filter (natBit (g.ces.getD i 0))).length) 0) * g.luns * g.planes * g.blocks
  let checkpoint := 64 + 8 * ceilDiv (blocks * g.pages) 2048 + 16 * blocks
  decide (2 * (checkpoint + 2 ^ fieldOf (flMetaCtrl s) 4 0 * 64) ≤ chs.length * g.metaBlocks * g.pages * 16384)

/-- Step 6 (R562): the carve, PIN_CEILING, windows, customers, weights and the metadata area. -/
def check6 (s : State) (rs : List CRec) : List Nat :=
  let carve := bodyOf rs 4
  let cap := capacityIn s
  let h := halvesIn s
  countFails rs 4 1 1 ++
  recFails (fun b =>
    let m := fun (o : Nat) => fieldBytes b o 4
    decide (m 0 % 2 = 0 ∧ m 4 % 2 = 0 ∧ m 8 % 4 = 0 ∧ m 12 % 2 = 0 ∧ fieldBytes b 16 2 ≤ 0x300 ∧
      2048 * 128 * (32 * h + 384 * h + m 0 + m 4 + m 8 + m 12) + 128 * cap + 2048 * cap ≤ 2048 * 128 * cap) && allZero (b.drop 18)) ((ofType rs 4).take 1) ++
  countFails rs 5 0 64 ++
  recFails (fun b => decide (fieldBytes b 0 1 < 2 ∧ fieldBytes b 1 7 = 0 ∧ fieldBytes b 8 8 % 2 ^ 21 = 0 ∧ fieldBytes b 16 8 % 2 ^ 21 = 0 ∧ 0 < fieldBytes b 16 8)) (ofType rs 5) ++
  sumFails (fun b => fieldBytes b 16 8) (2 ^ 44) 0 (ofType rs 5) ++
  countFails rs 9 0 4096 ++
  recFails (fun b => decide (fieldBytes b 0 2 < 0xFFFF ∧ fieldBytes b 2 2 < 1024 ∧ 1 ≤ fieldBytes b 4 2 ∧ fieldBytes b 6 2 = 0 ∧ 1 ≤ fieldBytes b 12 4)) (ofType rs 9) ++
  repeats (fun b => fieldBytes b 0 2) [] (ofType rs 9) ++
  sumFails (fun b => weightPagesOf (modelOfBytes b)) (fieldBytes carve 8 4 / 2) 0 (ofType rs 0xF) ++
  recFails (metaFits s) (ofType rs 0xD)

/-- Two windows overlap (R272). -/
def overlap (a b : HostWindow) : Bool := a.port == b.port && decide (a.addr < b.addr + b.len ∧ b.addr < a.addr + a.len)

/-- Step 7 (R562): windows of one port that overlap. -/
def check7 (rs : List CRec) : List Nat :=
  let l := ofType rs 5
  l.filterMap (fun r => if l.any (fun q => q.1 != r.1 && overlap (windowOfBytes r.2.2) (windowOfBytes q.2.2)) then some r.1 else none)

/-- Step 8 (R562): every MODEL. -/
def check8 (rs : List CRec) : List Nat :=
  countFails rs 0xF 1 64 ++ recFails (fun b => modelOk (modelOfBytes b) && fieldBytes b 20 4 == 0 && allZero (b.drop 33)) (ofType rs 0xF)

/-- ROLE of a port in the image. -/
def roleIn (rs : List CRec) (p : Nat) : Nat := match (ofType rs 0xA).find? (fun r => fieldBytes r.2.2 0 1 == p) with | some r => fieldBytes r.2.2 1 1 | none => 0

/-- Step 9 (R562): ports, ring, routes, mirror roles. A RING record missing where the ring ports are used is a failure of port 0's record. -/
def check9 (rs : List CRec) : List Nat :=
  let ring := decide (roleIn rs 0 ≠ 0 ∨ roleIn rs 1 ≠ 0)
  let lone := decide ((roleIn rs 0 = 1) ≠ (roleIn rs 1 = 2))
  countFails rs 0xA 8 8 ++ repeats (fun b => fieldBytes b 0 1) [] (ofType rs 0xA) ++
  recFails (fun b =>
    let p := fieldBytes b 0 1
    decide (p < 8 ∧ (fieldBytes b 1 1 = 0 ∨ fieldBytes b 1 1 = (if p < 2 then p + 1 else 3)) ∧ fieldBytes b 2 1 < 3 ∧ fieldBytes b 3 1 < 2 ∧ fieldBytes b 4 4 = 0) &&
    !(lone && decide (p < 2 ∧ fieldBytes b 1 1 ≠ 0))) (ofType rs 0xA) ++
  (if ring && (ofType rs 0xB).isEmpty then ((ofType rs 0xA).filter (fun r => fieldBytes r.2.2 0 1 == 0)).map (·.1) else countFails rs 0xB 0 (bit ring)) ++
  recFails (fun b => decide (1 ≤ fieldBytes b 0 2 ∧ fieldBytes b 0 2 ≤ 0x3FF ∧ fieldBytes b 2 2 ≤ fieldBytes b 0 2 ∧ fieldBytes b 4 1 < 2 ∧ fieldBytes b 5 1 < 2 ∧
    fieldBytes b 6 2 = 0)) (ofType rs 0xB) ++
  recFails (fun b => decide (fieldBytes b 4 4 = 0 ∧ fieldBytes b 0 2 + fieldBytes b 2 2 ≤ 0x8000) && (routesOf b).all (fun x =>
    x.2 % 4 != 3 && (List.range 8).all (fun k => !(natBit x.2 (8 + k)) || (decide (2 ≤ k) && roleIn rs k == 3)))) (ofType rs 0xC) ++
  recFails (fun b => (fieldBytes b 11 1 == 0 || fieldBytes (bodyOf rs 2) 0 1 == 1) && fieldBytes b 4 2 != fieldBytes b 0 2) (ofType rs 1)

/-- Step 10 (R562): hash, flow and XTS keys. -/
def check10 (rs : List CRec) : List Nat :=
  let slots := (ofType rs 8).map (fun r => fieldBytes r.2.2 0 2)
  countFails rs 6 1 1 ++ countFails rs 7 1 1 ++ countFails rs 8 1 1024 ++
  recFails (fun b => decide (fieldBytes b 0 2 < 1024 ∧ fieldBytes b 2 6 = 0) && sliceBytes b 8 32 != sliceBytes b 40 32) (ofType rs 8) ++
  repeats (fun b => fieldBytes b 0 2) [] (ofType rs 8) ++ (if slots.contains 0 then [] else [0xFFFF]) ++
  recFails (fun b => slots.contains (fieldBytes b 2 2)) (ofType rs 9)

/-- Step 11 (R562): the spindle table under R251. -/
def check11 (s : State) (rs : List CRec) : List Nat :=
  countFails rs 0xE 0 1 ++
  recFails (fun b =>
    let n := fieldBytes b 2 2
    decide (fieldBytes b 0 1 < 64 ∧ fieldBytes b 1 1 = 0 ∧ fieldBytes b 4 4 = 0 ∧ 1 ≤ n ∧ n ≤ 1024) &&
    (spindleFails (loadSpindle s (1 - s.til.bank) b) (1 - s.til.bank) n (fieldBytes b 0 1)).isNone) (ofType rs 0xE)

/-- Steps 3 to 11 (R562): the first failure, its code and record. -/
def checkRecords (s : State) (rs : List CRec) (flash : Option (Nat × Nat)) : Option (Nat × Nat) :=
  [rowFails Code.cfgPersonalityInvalid (check3 rs), rowFails Code.cfgAttachmentMismatch (check4 s rs flash), rowFails Code.cfgClockPlan (check5 s rs),
   rowFails Code.cfgCapacityExceeded (check6 s rs), rowFails Code.cfgRegionOverlap (check7 rs), rowFails Code.cfgPageGeometry (check8 rs),
   rowFails Code.cfgPortRoleConflict (check9 rs), rowFails Code.cfgKeyMissing (check10 rs), rowFails Code.cfgSpindleOvercommit (check11 s rs)].findSome? id

/-- The bodies of a TYPE. -/
def bodies (rs : List CRec) (ty : Nat) : List (List Byte) := (ofType rs ty).map (fun r => r.2.2)

/-- What a live re-enable may not change (R568): the first new record that differs; none where all is as it may be. -/
def liveFails (old new : List CRec) : Option (Nat × Nat) :=
  let may := fun (ty : Nat) => ty == 9 || ty == 0xC || ty == 0xE
  let grow := fun (ty : Nat) => ty == 5 || ty == 8
  let differ := fun (ty : Nat) =>
    if may ty then [] else if grow ty then (if (bodies old ty).all (fun b => (bodies new ty).contains b) then [] else [0xFFFF])
    else if bodies old ty = bodies new ty then [] else
      match (ofType new ty).zipIdx.find? (fun x => (bodies old ty)[x.2]? != some x.1.2.2) with
      | some x => [x.1.1]
      | none => [0xFFFF]
  match rowFails Code.cfgPersonalityInvalid (differ 2) with
  | some x => some x
  | none => rowFails Code.cfgAttachmentMismatch ((List.range 16).flatMap differ)

/-! ### Putting a copy in force (R563, R568) -/

/-- Steps 3 to 8 of R563 that set identity and carve. -/
def identOf (s : State) (rs : List CRec) : Ident :=
  let b := bodyOf rs 1
  let m := bodyOf rs 4
  { device := fieldBytes b 0 2, domain := fieldBytes b 2 2, partner := fieldBytes b 4 2, node := fieldBytes b 6 2, nodeDevices := fieldBytes b 8 1,
    nodeIndex := fieldBytes b 9 1, ports := fieldBytes b 10 1, mirrors := fieldBytes b 11 1, fmEndpoint := fieldBytes b 12 2, capacityMiB := capacityIn s,
    recordMiB := fieldBytes m 0 4, regionMiB := fieldBytes m 4 4, weightMiB := fieldBytes m 8 4, frameMiB := fieldBytes m 12 4, pinCeiling := fieldBytes m 16 2,
    windows := (bodies rs 5).map windowOfBytes, flash := !(ofType rs 0xD).isEmpty }

/-- The bytes of a host range, as a memory of their own. -/
def hostPart (s : State) (fid a n : Nat) : Mem :=
  s.host.filterMap (fun c => if hostKey fid a ≤ c.1 ∧ c.1 < hostKey fid a + n then some (c.1 - hostKey fid a, c.2) else none)

/-- The model descriptor of a MODEL record, with its weights (R558, R563 step 4). -/
def modelFrom (s : State) (n : Nat) (b : List Byte) : Model :=
  let d := modelOfBytes b
  { number := n, desc := d, created := false, weightPages := weightPagesOf d, weights := hostPart s (fidOf d.weightPort 0) d.weightAddr (weightPagesOf d * 2 ^ 21) }

/-- Load an XTS key into its slot (R332, R563 step 1). -/
def loadKey (s : State) (b : List Byte) : State :=
  let slot := fieldBytes b 0 2
  { modCx s (fun c => { c with keys := c.keys.set slot (keyWords b) }) with keySlots := s.keySlots.set slot 1 }

/-- Put a customer in an entry, VALID (R463, R464, R563 step 5). -/
def putCustomer (s : State) (i : Nat) (b : List Byte) : State :=
  { s with adm := { s.adm with customers := s.adm.customers.set i (validate s (customerOfBytes b)) } }

/-- Step 7 of R563 for a port: role and register, and training where it is enabled. A ring port already UP stays so in a replacing enable (R569). -/
def putPort (s : State) (b : List Byte) : State :=
  let p := fieldBytes b 0 1
  let role := fieldBytes b 1 1
  let s := setReg s (0x500000 + 0x40 * p) (BitVec.ofNat 64 (fieldBytes b 2 1 * 2 ^ 18 + fieldBytes b 3 1))
  let P := getP s p
  let stays := s.cfg.replacing && (role == 1 || role == 2) && P.role == role && fieldBytes b 3 1 == 1 && P.trained
  let s := modP s p (fun x => { x with role := role })
  if stays then s
  else toPort (modP s p (fun x => { x with attempts := 0, lanes := 0 })) p (if fieldBytes b 3 1 = 1 then .training else .disabled)

/-- Step 7 of R563 for the ring: the register, BYP_EN_REQ as it stands. -/
def putRing (s : State) (b : List Byte) : State :=
  setReg s 0x501000 (BitVec.ofNat 64 (fieldBytes b 0 2 * 2 ^ 32 + fieldBytes b 2 2 * 2 ^ 16 + fieldBytes b 4 1 * 256 + bit (bitOf (ringCtrl s) 1) * 2))

/-- The route table of an image (R431): reserved bits are not kept. -/
def putRoutes (s : State) (rs : List CRec) : State :=
  let s := { s with regs := s.regs.filter (fun x => decide (x.1 < 0x580000 ∨ 0x5C0000 ≤ x.1)) }
  ((bodies rs 0xC).flatMap routesOf).foldl (fun s x =>
    if x.1 = 0x7FFF then s else setReg s (0x580000 + 8 * x.1) (BitVec.ofNat 64 x.2 &&& 0x03FFFF07)) s

/-- Every object, queue binding, counter, customer and stack content goes, as at a device reset (R564, R569); firmware, ports, hosts and ring transit stay. -/
def clearService (s : State) : State :=
  let R := State.reset
  { s with
    pers := none, ident := R.ident, tz := { R.tz with nextId := s.tz.nextId, seqNo := s.tz.seqNo }, adm := { R.adm with shape := s.adm.shape }
    pages := [], models := [], own := R.own, rgn := R.rgn, comps := [], cmp := { R.cmp with mgmtDiscarded := s.cmp.mgmtDiscarded }, dev := [], reads := [], keySlots := []
    hashKey := 0
    mc := { s.mc with rekey := 0, nextKey := none, fence0 := 0, fence1 := 0, halvesDone := [], rewrites := 0 }
    cx := R.cx
    fab := { s.fab with
      qps := [], waiting := [], egress := [], frames := [], refused := [], failed := [], combReads := [], combAdds := [], addRecs := [], mcasts := [], mrx := [], mcastPsn := [],
      flowKey := 0, nextKey := none }
    til := { R.til with
      result := s.til.result, failSlot := s.til.failSlot, halfOut := s.til.halfOut, lanesLost := s.til.lanesLost, tiles := (s.til.tiles.filter (fun x => x.2.st == .outOfService)).map (fun x =>
        (x.1, { x.2 with task := none, saved := [], scratch := [], ahead := [] })) }
    fl := { flashKept s.fl with reason := s.fl.reason, failCh := s.fl.failCh, failCe := s.fl.failCe }
    regs := s.regs.filter (fun x => decide (x.1 < 0x808000 ∨ 0x818000 ≤ x.1)) }

/-- A device that stands in for a departed one tells the ring where it is and restores from that device's partner (R494 to R496). -/
def standIn (s : State) : State :=
  let me := self s
  let pos := fieldOf (ringCtrl s) 25 16
  let tell := fun (s : State) (d : Nat) =>
    if d = me ∨ fieldOf (routeOf s d) 25 16 = 0 then s else transmit s ⟨d, 0xFFFF, 0, 1, false, 0, .ringMove me pos⟩ none
  let s := ((s.regs.filter (fun x => decide (0x580000 ≤ x.1 ∧ x.1 < 0x5C0000))).map (fun x => (x.1 - 0x580000) / 8)).foldl tell s
  if s.ident.partner = noDevice then s
  else transmit { s with cmp := { s.cmp with restoreState := 1 } } ⟨s.ident.partner, 0xFFFF, 0, 1, false, 0, .restoreReq me⟩ none

/-- R563: the chosen copy is put in force, in the order of its steps, and the state becomes ENABLED. -/
def applyConfig (s : State) : State :=
  let bs := if s.cfg.chosen = 2 then s.cfg.copyB.bytes else s.cfg.copyA.bytes
  let rs := imageRecords bs
  let was := if s.cfg.used = 0 then noDevice else fieldBytes (bodyOf (imageRecords s.cfg.force) 1) 0 2
  let s := if s.cfg.used ≠ 0 then clearService s else s
  let s := (bodies rs 8).foldl loadKey s
  let s := { s with
    ident := identOf s rs
    hashKey := BitVec.ofNat 64 (fieldBytes (bodyOf rs 6) 0 8)
    fab := { s.fab with flowKey := BitVec.ofNat 64 (fieldBytes (bodyOf rs 7) 0 8) }
    cx := { s.cx with genCounter := 1, pageTags := [], carveTags := [], weightTags := [] }
    models := (bodies rs 0xF).zipIdx.map (fun x => modelFrom s (x.2 + 1) x.1) }
  let s := (bodies rs 9).zipIdx.foldl (fun s x => putCustomer s x.2 x.1) s
  let sp := bodyOf rs 0xE
  let s := loadSpindle s 0 sp
  let s := { s with til := { s.til with
    bank := 0, swap := 0, cur := 0, slotAt := s.now, cycleSlots := if sp.isEmpty then 0x400 else fieldBytes sp 2 2, slotLen := if sp.isEmpty then 0x0F else fieldBytes sp 0 1 } }
  let s := putRing (putRoutes s rs) (bodyOf rs 0xB)
  let s := bypEval ((bodies rs 0xA).foldl putPort s)
  let clock := bodyOf rs 3
  let geom := if fieldBytes (bodyOf rs 2) 0 1 = 3 then ((bodies rs 0xD).head?).map geomOfBytes else none
  let s := { s with
    pers := persOf (fieldBytes (bodyOf rs 2) 0 1), cfgState := 3
    cpm := { s.cpm with tileMax := fieldBytes clock 0 1, hubMax := fieldBytes clock 1 1 }
    fl := { s.fl with geom := geom, tier := if geom.isSome then 1 else 0, ckptRecords := fieldOf (flMetaCtrl s) 4 0 }
    cfg := { s.cfg with
      used := s.cfg.chosen, force := bs, seq := imageSeq bs, lastSeq := imageSeq bs, chosen := 0, insert := fieldBytes (bodyOf rs 0xB) 5 1 == 1 } }
  let s := if geom.isNone then insertRing s else s
  serve (if s.cfg.replacing ∧ was ≠ noDevice ∧ was ≠ self s then standIn s else s)

/-- The customers of a live re-enable (R464, R568): removed ones lose VALID, those there are rewritten, new ones take the lowest entries not in force. -/
def liveCustomers (s : State) (rs : List CRec) : State :=
  let named := fun (k : Customer) => (bodies rs 9).find? (fun b => fieldBytes b 0 2 == k.customer)
  let change := fun (x : Nat × Customer) =>
    if x.2.valid = false then x
    else
      match named x.2 with
      | none => (x.1, { x.2 with valid := false })
      | some b =>
        let n := customerOfBytes b
        let k := x.2.refilled s.now
        (x.1, { k with weight := n.weight, rate := n.rate, burst := n.burst, level := min k.level (n.burst * 1000) })
  let s := { s with adm := { s.adm with customers := s.adm.customers.map change } }
  (bodies rs 9).foldl (fun s b =>
    if s.adm.customers.any (fun x => x.2.valid && x.2.customer == fieldBytes b 0 2) then s
    else
      match firstFrom (fun i => !(s.adm.customers.get Customer.init i).valid) 4096 0 with
      | some i => putCustomer s i b
      | none => s) s

/-- The changes of a live re-enable take effect (R568). -/
def applyLive (s : State) (copy : Nat) (bs : List Byte) : State :=
  let old := imageRecords s.cfg.force
  let rs := imageRecords bs
  let s := (bodies rs 8).foldl (fun s b => if (bodies old 8).contains b ∨ s.keySlots.get 0 (fieldBytes b 0 2) ≠ 0 then s else loadKey s b) s
  let s := putRoutes (liveCustomers s rs) rs
  let s := { s with ident := { s.ident with
    windows := s.ident.windows ++ ((bodies rs 5).filter (fun b => !((bodies old 5).contains b))).map windowOfBytes } }
  let sp := bodyOf rs 0xE
  let s := if bodies rs 0xE = bodies old 0xE then s
    else
      let s := loadSpindle s (1 - s.til.bank) sp
      let s := setReg s 0x802008 (if sp.isEmpty then 0x0400000F else BitVec.ofNat 64 (fieldBytes sp 2 2 * 65536 + fieldBytes sp 0 1))
      { s with til := { s.til with swap := 2, result := Code.cfgOk, failSlot := 0 } }
  serve (modCfg s (fun g => { g with used := copy, force := bs, seq := imageSeq bs, lastSeq := imageSeq bs }))

/-! ### ENABLE -/

/-- CFG_CONTROL (R565). -/
def cfgControl (s : State) : W64 := s.regs.get 0 0x10028

/-- A check ends with a failure (R562, R568, R569): FAILED, or ENABLED where it was. -/
def checkFails (s : State) (from_ code record copy seq : Nat) : State :=
  let s := logCfg { s with cfgState := if from_ = 3 then 3 else 4 } code record copy seq
  modCfg s (fun g => { g with reason := code, record := record })

/-- CMP_SPINDLE_STATUS after the steps of R562 on an image (R249, R251): where step 11 was reached and there is a SPINDLE record, its result and the entry that failed. -/
def noteSpindle (s : State) (rs : List CRec) (found : Option (Nat × Nat)) : State :=
  let b := bodyOf rs 0xE
  match found with
  | none => if b.isEmpty then s else { s with til := { s.til with result := Code.cfgOk, failSlot := 0 } }
  | some x =>
    if x.1 = Code.cfgSpindleOvercommit then
      let entry := spindleFails (loadSpindle s (1 - s.til.bank) b) (1 - s.til.bank) (fieldBytes b 2 2) (fieldBytes b 0 1)
      { s with til := { s.til with result := Code.cfgSpindleOvercommit, failSlot := entry.getD 0 } }
    else s

/-- The check of a full, live or replacing enable (R561, R562, R568, R569), asked in STATE `from_`. -/
def runCheck (s : State) (from_ : Nat) (replace : Bool) (flash : Option (Nat × Nat)) : State :=
  let live := from_ == 3 && !replace
  if from_ = 3 ∧ replace ∧ s.comps.isEmpty = false then checkFails s from_ Code.cfgAttachmentMismatch 0xFFFF 0 0
  else if live = false ∧ s.fwRun ≠ 1 then checkFails s from_ Code.fwLoadRequired 0xFFFF 0 0
  else
    match selectCopy s (from_ == 3) with
    | (s, .error c) => checkFails s from_ c 0xFFFF 0 0
    | (s, .ok (copy, bs, seq)) =>
      let rs := imageRecords bs
      let flash := if (ofType rs 0xD).isEmpty then none else flash
      let found := checkRecords s rs flash
      let s := noteSpindle s rs found
      match (match found with | some x => some x | none => if live then liveFails (imageRecords s.cfg.force) rs else none) with
      | some x =>
        let s := match flash with
          | some f => if x.1 = Code.cfgAttachmentMismatch then modFl s (fun g => { g with failCh := f.1, failCe := f.2, reason := Code.cfgAttachmentMismatch }) else s
          | none => s
        checkFails s from_ x.1 x.2 copy seq
      | none =>
        let s := logCfg (modCfg s (fun g => { g with reason := Code.cfgOk, record := 0xFFFF })) Code.cfgOk 0xFFFF copy seq
        if live then { applyLive s copy bs with cfgState := 3 }
        else { modCfg s (fun g => { g with chosen := copy, replacing := replace }) with cfgState := if replace then 1 else 2 }

/-- A check that waits (R574) starts: the new firmware image has taken over, and for a live one the pending table has been swapped in. -/
def waitedCheck (s : State) : State :=
  match s.cfg.waiting with
  | none => s
  | some w =>
    if s.fwRun = 3 ∨ (w.1 = 3 ∧ w.2.1 = false ∧ s.til.swap ≠ 0) then s
    else runCheck { modCfg s (fun g => { g with waiting := none }) with cfgState := w.1 } w.1 w.2.1 w.2.2

/-- ENABLE (R562, R565, R568, R569, R574). -/
def enableNow (s : State) (flash : Option (Nat × Nat)) : State :=
  if s.cfgState = 1 ∨ s.cfgState = 2 ∨ s.cfgState = 5 then s
  else
    let replace := s.cfgState == 3 && bitOf (cfgControl s) 3
    waitedCheck { modCfg s (fun g => { g with waiting := some (s.cfgState, replace, flash) }) with cfgState := 1 }

/-- Weights, pages and trees of a warm-start image (R361, R570), with the verifiers of the key slots it uses. -/
def warmImage (s : State) : WarmImage :=
  let used := (s.cx.pageTags.flatMap (fun t => t.up ++ t.low)).filter (fun n => decide (n < 0x80))
  { holds := s.rgn.holds, pages := s.pages.filter (fun p => p.stack.isSome && p.kind != .weight), tree := s.rgn.tree, mirrorTree := s.rgn.mirrorTree,
    weights := s.models.map (fun m => (m.number, m.weights))
    tableIds := (s.cx.slots.zipIdx.filter (fun x => used.any (fun n => n / 32 == x.2))).map (fun x => x.1.id)
    device := self s, carve := bodyOf (imageRecords s.cfg.force) 4
    keys := [(0, crc32c (Config.cipher (keyBytes s 0) 0 (List.replicate 64 0)))] }

/-- The warm-start image goes to flash as a frame of KIND 4 (R361), programmed and mapped at once; none where no plane has room. Its length is a free value. -/
def writeWarm (s : State) : State × Option (WarmImage × Nat) :=
  let n := takeFree 15 s
  match placeOther n.2 4 0 (2 + n.1) 0 with
  | none => (s, none)
  | some (t, ffn) =>
    let f := (t.fl.frames.find ffn).map (fun f => { f with st := 2 })
    match f with
    | none => (t, none)
    | some f =>
      (journalNow (modFl t (fun x => { x with frames := x.frames.set ffn f, dirty := if x.dirty.contains (ffn / 2048) then x.dirty else x.dirty ++ [ffn / 2048] }))
        { seq := 0, type := 1, arg := ffn, frame := some f, block := none, hold := none }, some (warmImage s, ffn))

/-- Steps 3 to 5 of R571: once no started instruction is left, under C the warm-start image and its checkpoint are written, and BYP_EN_REQ is cleared. Step applies it as time passes. -/
def shutdownTick (s : State) : State :=
  if s.cfgState ≠ 5 ∨ s.tz.started.isEmpty = false ∨ s.fl.tier = 1 then s
  else
    let s := if 2 ≤ s.fl.tier then (let w := writeWarm s; writeCheckpoint w.1 w.2) else s
    { bypEval (setReg s 0x501000 (ringCtrl s &&& 0xFFFFFFFFFFFFFFFD)) with cfgState := 6 }

/-- SHUTDOWN (R571). -/
def shutdownNow (s : State) : State :=
  if s.cfgState ≠ 3 then s
  else if s.comps.isEmpty = false ∧ bitOf (cfgControl s) 2 = false then modCfg s (fun g => { g with member := true })
  else
    let s := (s.comps.map (fun m => m.map.comp)).foldl leaveComp s
    shutdownTick { modCfg s (fun g => { g with member := false }) with cfgState := 5 }

/-- A write of CFG_CONTROL (R565): REPLACE and FORCE, then SHUTDOWN or ENABLE. -/
def cfgControlWrite (s : State) (who : Req) (v : W64) (flash : Option (Nat × Nat)) : State :=
  if isPhysical who = false then s
  else
    let s := setReg s 0x10028 (v &&& 12)
    let s := if bitOf v 1 then shutdownNow s else s
    if bitOf v 0 then enableNow s flash else s

/-- CONFIG_ENABLE (R562): a write of CFG_CONTROL with ENABLE 1; `flash` is the first flash target that disagrees with the record or fails training. -/
def execConfigEnable (who : Req) (v : W64) (flash : Option (Nat × Nat)) (s : State) : Out := alive s (cfgControlWrite s who (v ||| 1) flash)

/-- LIVE_RE_ENABLE (R568): a write of CFG_CONTROL with ENABLE 1 and REPLACE 0. -/
def execLiveReEnable (who : Req) (v : W64) (flash : Option (Nat × Nat)) (s : State) : Out :=
  alive s (cfgControlWrite s who (putField (v ||| 1) 3 3 0) flash)

/-- REPLACING_ENABLE (R569): a write of CFG_CONTROL with ENABLE 1 and REPLACE 1. -/
def execReplacingEnable (who : Req) (v : W64) (flash : Option (Nat × Nat)) (s : State) : Out := alive s (cfgControlWrite s who (v ||| 9) flash)

/-- CONFIG_APPLY (R563, R569): a replacing enable whose instructions have completed clears the old configuration and becomes APPLYING; APPLYING ends in ENABLED. -/
def execConfigApply (s : State) : Out :=
  alive s (
    if s.cfgState = 1 ∧ s.cfg.replacing ∧ s.cfg.waiting = none ∧ s.tz.started.isEmpty then { clearService s with cfgState := 2 }
    else if s.cfgState = 2 then applyConfig s
    else s)

/-- SHUTDOWN (R571): a write of CFG_CONTROL with SHUTDOWN 1. -/
def execShutdown (who : Req) (v : W64) (s : State) : Out := alive s (cfgControlWrite s who (v ||| 2) none)

/-! ### The warm-start import (R572, R573) -/

/-- A page of the image goes back to its place: skipped where the stacks hold it, LOST at its home where its entry's CRC fails (R323, R573). -/
def importPage (bad : List Nat) (s : State) (p : Page) : State :=
  let back := fun (q : Page) => { q with stack := p.stack, stackDirty := p.stackDirty, lost := false, newest := if p.newest = tStacks then tStacks else q.newest }
  let free : Bool := match p.stack with
    | some f => s.pages.all (fun q => Frame.clear q.stack f.half f.start f.units)
    | none => true
  match findPage s p.number with
  | some q =>
    if q.stack.isSome ∨ q.obj ≠ p.obj ∨ free = false then s
    else if bad.contains p.number then s
    else setPage s (back q)
  | none =>
    if free = false ∨ s.pages.any (fun q => q.obj == p.obj && q.layer == p.layer && q.index == p.index) then s
    else if bad.contains p.number then addPage s { p with stack := none, host := none, flash := none, lost := true, refs := 0, pin := 0 }
    else addPage s { p with host := none, flash := none, flashDirty := false, hostDirty := false, newest := tStacks, refs := 0, pin := 0, busy := 0 }

/-- WARM_START_IMPORT (R572, R573): `bad` are the pages whose entries' CRCs fail, `broken` says that one in area form does. -/
def execWarmStartImport (bad : List Nat) (broken : Bool) (s : State) : Out :=
  alive s (
    match s.fl.warmFound with
    | none => s
    | some w =>
      if enabled s = false ∨ s.fl.tier < 2 then s
      else
        let s := modFl s (fun f => { f with warmFound := none })
        let refuse := fun (code : Nat) => logCfg s code 0xFFFF s.cfg.used s.cfg.seq
        let held := fun (id : Nat) => s.cx.slots.any (fun t => (t.st == 2 || t.st == 3) && t.id == id)
        if s.cfg.replacing then s
        else if w.keys ≠ (warmImage s).keys then refuse Code.keyInvalid
        else if w.device ≠ self s ∨ w.carve ≠ (warmImage s).carve ∨ w.tableIds.all held = false then refuse Code.cfgAttachmentMismatch
        else if broken then s
        else
          let s := { s with
            rgn := { s.rgn with
              holds := s.rgn.holds ++ w.holds.filter (fun h => !(s.rgn.holds.any (fun x => x.handle == h.handle)))
              tree := s.rgn.tree ++ w.tree.filter (fun t => !(s.rgn.tree.any (fun x => x.handle == t.handle)))
              mirrorTree := s.rgn.mirrorTree ++ w.mirrorTree.filter (fun t => !(s.rgn.mirrorTree.any (fun x => x.handle == t.handle))) }
            models := s.models.map (fun m => match w.weights.find? (fun x => x.1 == m.number) with | some x => { m with weights := x.2 } | none => m) }
          w.pages.foldl (importPage bad) s)

end Sys2Proof.Machine
end

