-- ==== Sys2Proof/Machine/Errors.lean ====
section
/-!
DEFINITION. Error records, their capture and release, and the dump (spec chapter 21, R575 to R588).
-/

namespace Sys2Proof.Machine

open Sys2Proof

/-- Change the error state. -/
def modErr (s : State) (f : Err → Err) : State := { s with err := f s.err }

/-- The instruction whose task a tile runs, saves or restores. -/
def tileInstr (s : State) (t : Nat) : Option Nat := ((getT s t).task.bind (findTask s)).map (·.instr)

/-- What a hardware event does of its own severity (R577): a tile's bad word costs the instruction it works for, and the tile stays in service. -/
def contain (s : State) (e : HwError) : State :=
  match e with
  | .tileWord t =>
    match tileInstr s t with
    | some i => clockGate (cancelWork s [i] Code.memUncorrectable) t
    | none => s
  | _ => s

/-- ERROR_CAPTURE (R577, R580): an event no other command reports. The rest of R577's events are raised by the commands that meet them. -/
def execErrorCapture (e : HwError) (s : State) : Out :=
  .next (
    match e with
    | .tileWord t =>
      if 32 ≤ t ∨ s.tripped then s
      else
        let s := raiseErr s 0x01 t sevContained Code.memUncorrectable 0x01 0
        if s.halted then s else retag s (contain s e)
    | .hubSram => if s.tripped then s else raiseErr s 0x04 0 sevFatal Code.memUncorrectable 0x01 0
    | .controlCore n => if 8 ≤ n ∨ s.tripped then s else raiseErr s 0x05 n sevFatal 0 0x02 0
    | .crossbar => if s.tripped then s else raiseErr s 0x06 0 sevFatal 0 0x02 0)

/-- A record becomes free (R581): the secondary moves up into a freed primary. -/
def releaseRecord (s : State) (which : Nat) : State :=
  modErr s (fun e => if which = 0 then { e with primary := e.secondary, secondary := none } else { e with secondary := none })

/-- A record: 0 primary, 1 secondary. -/
def errRecord (s : State) (which : Nat) : Option ErrRec := if which = 0 then s.err.primary else s.err.secondary

/-- A write of word 0 of a record (R578): VALID 1 releases it, but not while the device is fatal. -/
def recordWrite (s : State) (who : Req) (which : Nat) (v : W64) : State :=
  if isPhysical who = false ∨ bitOf v 63 = false ∨ s.err.cause ≠ 0 then s else releaseRecord s which

/-- ERROR_RECORD_RELEASE (R578, R581): a write of a record's word 0 with VALID 1. -/
def execErrorRecordRelease (who : Req) (which : Nat) (s : State) : Out :=
  .next (if which < 2 then recordWrite s who which 0x8000000000000000 else s)

/-- ERROR_HOLD_TIMEOUT (R581): a degraded record is released HOLD_TIMEOUT seconds after its capture. -/
def execErrorHoldTimeout (which : Nat) (s : State) : Out :=
  .next (
    match errRecord s which with
    | some r => if which < 2 ∧ r.severity = sevDegraded ∧ r.hold ≠ 0 ∧ r.at_ + r.hold * 1000000 ≤ s.now then releaseRecord s which else s
    | none => s)

/-- CONTAINED_RECORD_LOGGED (R581): firmware has written the log entry of a contained record, which is released unless HOLD_CONTAINED is set. -/
def execContainedRecordLogged (s : State) : Out :=
  .next (
    match s.err.primary with
    | some r =>
      let waits := s.logQ.any (fun e => e.event == 0x0B && e.args == [r.word0, r.object, r.at_ * 1000])
      if r.severity = sevContained ∧ waits = false ∧ bitOf (s.regs.get 0x3C 0xA00058) 16 = false then releaseRecord s 0 else s
    | none => s)

/-! ### The dump (R586, R587) -/

/-- A write of ERR_DUMP_CMD (R586, R587): the packed image goes to the host. Its sequence number is a free value. -/
def dumpWrite (s : State) (who : Req) (v : W64) : State :=
  if isPhysical who = false then s
  else
    let s := setReg s 0xA00070 (v &&& 0x00000FFFFFFFFFFE)
    let n := fieldOf v 39 1 * 4096
    let may : Bool := s.halted || s.cfgState == 0 || s.cfgState == 4 || s.cfgState == 6
    if bitOf v 0 = false ∨ n = 0 ∨ may = false ∨ s.tripped then s
    else
      let all := dumpBlocks s (fieldOf v 43 40)
      let seq := takeFree 64 all.2
      let fit := fitImage n all.1
      let s := hostWrite seq.2 (fidOf who.port 0) (fieldOf (s.regs.get 0 0xA00068) 63 12 * 4096) (packedImage s 2 seq.1 fit)
      modErr s (fun e => { e with dumpResult := if fit.length < all.1.length then Code.memExhausted else 0 })

/-- DUMP (R586): a write of ERR_DUMP_CMD with GO 1. -/
def execDump (who : Req) (v : W64) (s : State) : Out := .next (dumpWrite s who (v ||| 1))

end Sys2Proof.Machine
end

