-- ==== Sys2Proof/Machine/RegRead.lean ====
section
/-!
DEFINITION. What BAR0 registers read as (R13, R14, R17): each block's registers from the state, unassigned offsets and WO and reserved fields 0.
-/

namespace Sys2Proof.Machine

open Sys2Proof

/-- A register from its fields `(hi, lo, value)`. -/
def word (l : List (Nat × Nat × Nat)) : W64 := BitVec.ofNat 64 (l.foldl (fun n f => n + f.2.2 % 2 ^ (f.1 + 1 - f.2.1) * 2 ^ f.2.1) 0)

/-- The number of bits set by a test of an index, as a mask. -/
def maskOf (n : Nat) (p : Nat → Bool) : Nat := (List.range n).foldl (fun m i => m + bit (p i) * 2 ^ i) 0

/-- The GLB block (R3, R60 to R62). -/
def readGlb (s : State) (off : Nat) : W64 :=
  match off with
  | 0x00 => word [(63, 48, 0x0909), (47, 40, s.part.variant), (39, 32, if s.part.variant = 1 then 0x0C else 0x08), (31, 24, s.part.letter), (23, 16, s.part.digit)]
  | 0x08 => word [(31, 16, 0x0100), (15, 0, 0x0102)]
  | 0x10 => word [(63, 48, 0x1000), (47, 32, 0xFFFF), (31, 16, 0x1000), (15, 8, 0x10), (7, 0, 0x08)]
  | 0x18 => 0x00000003000F003E
  | 0x20 => 0x000F030F007F007F
  | 0x28 => 0x000000000000003F
  | _ => 0

/-- The CFG block (R565). -/
def readCfg (s : State) (off : Nat) : W64 :=
  let seq := fun (c : CfgCopy) => if c.st = 2 then imageSeq c.bytes else 0
  match off with
  | 0x10000 => s.regs.get 0 0x10000
  | 0x10008 => s.regs.get 0 0x10008
  | 0x10010 => word [(3, 2, s.cfg.copyB.st), (1, 0, s.cfg.copyA.st)]
  | 0x10018 => BitVec.ofNat 64 (seq s.cfg.copyA)
  | 0x10020 => BitVec.ofNat 64 (seq s.cfg.copyB)
  | 0x10028 => cfgControl s
  | 0x10030 => word [(63, 48, s.cfg.reason), (47, 32, s.cfg.record), (23, 23, bit s.cfg.member), (17, 16, s.cfg.used), (3, 0, s.cfgState)]
  | 0x10038 => BitVec.ofNat 64 s.cfg.seq
  | 0x10040 => BitVec.ofNat 64 s.cfg.lastSeq
  | _ => 0

/-- The CPM block (R613 to R618). -/
def readCpm (s : State) (off : Nat) : W64 :=
  let mhz := clockMhz s
  let sb := fun (f : SbIn → Bool) => maskOf 6 (fun i => match s.cpm.sb[i]? with | some x => f x | none => false)
  let held := fun (n : Nat) => s.cpm.held.contains n
  match off with
  | 0x20000 => word [
      (59, 57, maskOf 3 (fun i => s.cpm.coast.contains i)), (56, 56, bit s.cpm.ref100), (55, 52, s.cpm.fabRef), (48, 48, bit s.cpm.osc), (47, 32, mhz.getD 2 0),
      (31, 16, mhz.getD 1 0), (15, 0, mhz.getD 0 0)]
  | 0x20008 => word [(63, 48, s.cpm.gateResult), (13, 0, fieldOf (s.regs.get 0 0x20008) 13 0)]
  | 0x20010 => word [(33, 32, maskOf 2 held), (31, 0, maskOf 32 (fun t => held (0x10 + t)))]
  | 0x20018 => BitVec.ofNat 64 (maskOf 64 (fun n => held (0x100 + n)))
  | 0x20020 => BitVec.ofNat 64 (maskOf 64 (fun n => held (0x140 + n)))
  | 0x20028 => BitVec.ofNat 64 (maskOf 64 (fun n => held (0x180 + n)))
  | 0x20030 => BitVec.ofNat 64 (maskOf 64 (fun n => held (0x1C0 + n)))
  | 0x20040 => pwrCtrl s
  | 0x20048 => word [(63, 48, s.cpm.notices), (47, 32, s.cpm.throttles), (31, 16, s.cpm.brakes), (13, 8, s.cpm.cause), (2, 0, s.ladder)]
  | 0x20060 => s.regs.get 0xA000A 0x20060
  | 0x20068 => word [(31, 24, sb (·.stuck)), (23, 16, sb (·.overrun)), (15, 8, sb (·.filtered)), (7, 0, sb (·.effective))]
  | 0x20080 => telemCtrl s
  | 0x20088 => telemBuf s
  | 0x20090 => BitVec.ofNat 64 s.cpm.telem.head
  | 0x20098 => BitVec.ofNat 64 s.cpm.telem.tail
  | 0x200A0 => word [(63, 32, s.cpm.telem.dropped)]
  | _ => 0

/-- A queue's registers (R69 to R77). ENABLE reads 1 only for a queue that passed the check. -/
def readQdb (s : State) (q r : Nat) : W64 :=
  let Q := getQ s q
  let on := match Q.state with | .disabled => false | .draining => false | _ => true
  match r with
  | 0 => BitVec.ofNat 64 Q.tail
  | 1 => BitVec.ofNat 64 Q.head
  | 2 => Q.base
  | 3 => putField Q.ctrl 0 0 (bit on)
  | 4 => Q.bind
  | 5 => word [(63, 48, Q.lastReason), (47, 16, Q.failCount), (2, 0, Q.state.code)]
  | 6 => BitVec.ofNat 64 Q.failIndex
  | _ => Q.vector

/-- The number of a tile state (R268). -/
def TileSt.code : TileSt → Nat
  | .powerGated => 0 | .clockGated => 1 | .waking => 2 | .running => 3 | .saving => 4 | .restoring => 5 | .outOfService => 6

/-- The TIL block (R259, R267, R269). -/
def readTil (s : State) (off : Nat) : W64 :=
  if off = 0x120000 then placeCtrl s
  else if off = 0x120008 then powerCtrl s
  else
    let t := (off - 0x100000) / 0x1000
    let T := getT s t
    let k := if T.st = .running then T.task.bind (findTask s) else none
    if 32 ≤ t then 0
    else
      match off % 0x1000 with
      | 0 => word [
          (53, 45, saveUsed s t), (44, 40, T.saved.length), (33, 32, match k with | some k => k.cls | none => 0), (19, 16, T.st.code),
          (15, 0, match k with | some k => k.customer | none => 0xFFFF)]
      | 8 => BitVec.ofNat 64 T.busyUs
      | 0x10 => word [(63, 32, T.saves), (31, 0, T.restores)]
      | _ => 0

/-- The MEM block (R49, R290 to R302). -/
def readMem (s : State) (off : Nat) : W64 :=
  match off with
  | 0x200F00 => s.regs.get 0x508 0x200F00
  | 0x200F08 => BitVec.ofNat 64 s.mc.xhalf0
  | 0x200F10 => BitVec.ofNat 64 s.mc.xhalf1
  | 0x201000 => hotspotCtrl s
  | 0x201008 => word [(63, 32, s.mc.hotEvents), (23, 16, s.mc.hotChannel), (15, 0, s.mc.hotRatio)]
  | 0x201018 => rekeyCtrl s
  | 0x201020 => word [(63, 48, s.mc.rekeyReason), (47, 28, s.mc.fence1), (27, 8, s.mc.fence0), (3, 3, bit s.mc.nextKey.isSome), (1, 0, s.mc.rekey)]
  | 0x201028 => s.regs.get 0x102 0x201028
  | 0x201030 => word [(63, 32, s.mc.scrubCorrected), (31, 16, s.mc.scrubBad), (15, 0, s.mc.scrubPasses)]
  | 0x201038 => s.regs.get 0xA 0x201038
  | 0x201040 => word [(63, 32, freeUnits s 1), (31, 0, freeUnits s 0)]
  | 0x201048 => word [
      (63, 32, s.pages.foldl (fun n p => if p.host.isSome then n + p.units else n) 0),
      (31, 0, s.pages.foldl (fun n p => if p.pin ≠ 0 ∧ p.stack.isSome then n + p.units else n) 0)]
  | _ => 0

/-- The CXE block (R330 to R332). Key data reads 0. -/
def readCxe (s : State) (off : Nat) : W64 :=
  if 0x300040 ≤ off ∧ off < 0x3000C0 then
    let i := (off - 0x300040) / 0x20
    let t := s.cx.slots.getD i TableSlot.free
    match off % 0x20 with
    | 0 => word [(63, 32, t.gen), (1, 0, t.st)]
    | 8 => BitVec.ofNat 64 t.id
    | 0x10 => word [(39, 0, slotRefs s.cx i)]
    | _ => 0
  else if 0x300200 ≤ off ∧ off < 0x300300 then
    let n := (off - 0x300200) / 8
    BitVec.ofNat 64 ((List.range 32).foldl (fun v i => v + s.keySlots.get 0 (32 * n + i) * 4 ^ i) 0)
  else
    match off with
    | 0x300000 => compSel s
    | 0x300008 => s.regs.get 0x108 0x300008
    | 0x300010 => s.regs.get 0 0x300010
    | 0x300018 => s.regs.get 0 0x300018
    | 0x300020 => word [(63, 48, s.cx.loadResult), (34, 34, bit s.cx.loadWaiting.isSome), (33, 32, s.cx.loadSlot), (31, 0, s.cx.loadGen)]
    | 0x300140 => word [(63, 48, s.cx.keyResult), (17, 0, (s.regs.get 0 0x300140).toNat)]
    | _ => 0

/-- The FBE block (R364 to R367). -/
def readFbe (s : State) (off : Nat) : W64 :=
  let seqOf := fun (c : Option FlCopy) => match c with | some c => c.seq | none => 0
  match off with
  | 0x400000 => s.regs.get 0x105 0x400000
  | 0x400008 => flPatrolCtrl s
  | 0x400010 => flWearCtrl s
  | 0x400018 => flMetaCtrl s
  | 0x400020 => word [
      (63, 48, s.fl.reason), (47, 44, s.fl.failCh), (43, 41, s.fl.failCe), (40, 32, s.fl.targetsOut.length), (31, 3, s.fl.erasePending.length), (2, 0, s.fl.tier)]
  | 0x400028 => if s.fl.tier = 0 then 0 else BitVec.ofNat 64 (max (seqOf s.fl.copyA) (seqOf s.fl.copyB))
  | 0x400030 => word [(63, 32, s.fl.retired), (31, 0, s.fl.uncorrectable)]
  | 0x400038 => word [(63, 32, s.fl.retries), (31, 0, s.fl.soft)]
  | 0x400040 => word [(63, 32, s.fl.refreshes), (31, 0, s.fl.passes)]
  | _ => 0

/-- The FAB block (R429 to R431, R440, R449, R455, R475, R476). -/
def readFab (s : State) (off : Nat) : W64 :=
  let r := s.fab.ring
  if off < 0x500200 then
    let p := (off - 0x500000) / 0x40
    let P := getP s p
    match off % 0x40 with
    | 0x00 => portCtrl s p
    | 0x08 => word [(63, 48, P.lastReason), (47, 40, P.xoffIn), (39, 32, P.xoffOut), (31, 24, P.lanes), (18, 16, P.role), (2, 0, P.st.code)]
    | 0x10 => word [(63, 32, P.corrected), (31, 0, P.uncorrectable)]
    | 0x18 => word [(63, 48, P.crcErrors), (47, 32, P.rxDrops), (31, 16, P.wdTrips), (15, 0, P.retrains)]
    | _ => 0
  else if 0x500800 ≤ off ∧ off < 0x500A00 then shapeReg s ((off - 0x500800) / 0x40) (off % 0x40 / 8)
  else if 0x504000 ≤ off ∧ off < 0x50C000 then groupEntry s ((off - 0x504000) / 8)
  else if 0x580000 ≤ off ∧ off < 0x5C0000 then routeOf s ((off - 0x580000) / 8)
  else
    match off with
    | 0x500A00 => s.regs.get 0x18 0x500A00
    | 0x501000 => ringCtrl s
    | 0x501008 => word [(35, 35, bit r.bypEn), (34, 34, bit r.nbrE), (33, 33, bit r.nbrW), (31, 0, r.breaks)]
    | 0x501010 => word [(63, 32, r.hopsExpired), (31, 0, r.hungryCnt)]
    | 0x501018 => pauseCtrl s
    | 0x501020 => adaptCtrl s
    | 0x502000 => flowCtrl s
    | 0x502010 => word [(63, 32, s.fab.flowEvents), (31, 16, s.fab.flowRatio), (15, 8, s.fab.flowMoves), (6, 4, s.fab.hotPort), (0, 0, bit s.fab.nextKey.isSome)]
    | 0x503000 => s.regs.get 3 0x503000
    | 0x503008 => word [(63, 32, s.fab.joined), (16, 0, s.fab.combReads.length)]
    | _ => 0

/-- The RMA block (R390, R432). -/
def readRma (s : State) (off : Nat) : W64 :=
  let ks := s.rgn.keys
  match off with
  | 0x600000 => xptCtrl s
  | 0x600008 => word [(13, 0, (s.fab.qps.filter (·.up)).length)]
  | 0x600010 => word [(63, 32, s.fab.retransmits), (31, 0, s.fab.duplicates)]
  | 0x600018 => word [(63, 48, s.fab.staleInc), (47, 32, s.fab.retryExceeded), (31, 16, s.fab.nakSeq), (15, 0, s.fab.nakRnr)]
  | 0x608000 => s.regs.get 0x28 0x608000
  | 0x608008 => s.regs.get 0x0E10 0x608008
  | 0x608010 => word [
      (63, 48, (ks.filter (fun k => decide (k.2.state = .live))).length), (47, 32, (ks.filter (fun k => decide (k.2.state = .revoking))).length),
      (31, 0, ks.foldl (fun n k => n + k.2.relocated.length + k.2.drafts.foldl (fun n d => n + d.units.length) 0) 0)]
  | 0x608018 => word [(63, 48, s.rgn.invalidCnt), (47, 32, s.rgn.revokedCnt), (31, 16, s.rgn.boundsCnt), (15, 0, s.rgn.rightsCnt)]
  | 0x608020 => word [(63, 32, s.rgn.publishes), (31, 16, s.rgn.conflicts), (15, 0, s.rgn.expired)]
  | 0x608028 => word [(63, 32, s.rgn.tree.length), (31, 0, s.rgn.retired)]
  | _ => 0

/-- The ADM block (R461 to R473). -/
def readAdm (s : State) (off : Nat) : W64 :=
  if 0x701000 ≤ off ∧ off < 0x701090 then s.regs.get (admFixedReset ((off - 0x701000) / 8)) off
  else if 0x708000 ≤ off ∧ off < 0x728000 then
    let k := s.adm.customers.get Customer.init ((off - 0x708000) / 0x20)
    match off % 0x20 with
    | 0x00 => word [(63, 63, bit k.valid), (57, 48, k.keySlot), (47, 32, k.weight), (15, 0, k.customer)]
    | 0x08 => word [(63, 32, k.burst), (31, 0, k.rate)]
    | 0x10 => word [(63, 32, k.admitted), (31, 0, k.level / 1000)]
    | _ => word [(63, 32, k.policed), (31, 0, k.exhausted)]
  else
    match off with
    | 0x700000 => s.regs.get 0xF 0x700000
    | 0x700010 => BitVec.ofNat 64 (classVt s 0)
    | 0x700018 => BitVec.ofNat 64 (classVt s 1)
    | 0x700020 => BitVec.ofNat 64 (classVt s 2)
    | 0x700028 => BitVec.ofNat 64 (classVt s 3)
    | 0x700030 => word [(63, 32, s.adm.policed), (31, 16, s.adm.exhausted), (15, 0, s.adm.closed)]
    | _ => 0

/-- CMP_MEMBER_n (R499): a membership has the lowest free number when it comes and keeps it; the maps this device has voted for that add it take the lowest free numbers
in turn (DESIGN CHOICE, log 40). -/
def readMember (s : State) (n : Nat) : W64 :=
  match s.comps.find? (fun m => m.slot == n) with
  | some m =>
    let parting := match mapMember m.map (self s) with | some x => x.parting | none => false
    word [(63, 32, m.map.epoch), (27, 24, if parting then 2 else 1), (23, 23, bit (leads s m.map.comp)), (11, 0, m.map.comp)]
  | none =>
    match s.cmp.joins[n - (s.comps.filter (fun m => decide (m.slot < n))).length]? with
    | some m => word [(63, 32, m.epoch), (27, 24, 3), (11, 0, m.comp)]
    | none => 0

/-- The CMP block (R238 to R240, R246 to R249, R499). -/
def readCmp (s : State) (off : Nat) : W64 :=
  if 0x808000 ≤ off ∧ off < 0x818000 then s.regs.get 0 off
  else if 0x800100 ≤ off ∧ off < 0x800300 then readMember s ((off - 0x800100) / 8)
  else
    match off with
    | 0x800000 => cmpCtrl s
    | 0x800008 => s.regs.get 0 0x800008
    | 0x800010 => word [(63, 48, s.cmp.result), (47, 47, bit s.cmp.busy.isSome), (46, 32, s.cmp.voter), (31, 0, s.cmp.epoch)]
    | 0x800018 => word [
        (46, 32, s.ident.partner), (31, 16, s.ident.domain),
        (2, 0, match s.pers with | none => 0 | some .prompt => 1 | some .generation => 2 | some .cache => 3)]
    | 0x800020 => word [(63, 48, s.cmp.restoreResult), (41, 40, s.cmp.restoreState), (39, 0, s.cmp.restoreUnits)]
    | 0x800028 => word [(41, 40, s.cmp.mirrorState), (39, 0, s.cmp.mirrorUnits)]
    | 0x800030 => word [(31, 0, s.cmp.mgmtDiscarded)]
    | 0x802000 => spindleCtrl s
    | 0x802008 => spindleNext s
    | 0x802010 => word [
        (63, 48, s.til.result), (41, 32, s.til.failSlot), (31, 31, s.til.bank), (30, 30, bit (s.til.swap != 0)), (26, 16, s.til.cycleSlots), (15, 6, s.til.cur),
        (5, 0, s.til.slotLen)]
    | 0x804000 => s.regs.get 0x14 0x804000
    | 0x804008 => s.regs.get 0x00000A0100180010 0x804008
    | 0x804010 => word [(63, 32, s.own.mirrors.length), (31, 0, s.own.homes.length)]
    | 0x804018 => word [(63, 32, s.own.castlesOut), (31, 0, s.own.castlesIn)]
    | 0x804020 => word [(63, 32, s.own.rulings), (31, 0, s.own.lostCount)]
    | 0x804028 => word [(63, 32, s.own.preemptions), (31, 0, s.own.resumes)]
    | _ => 0

/-- The FWM block (R507, R520, R524, R535, R537); all but the image registers are the port's own. -/
def readFwm (s : State) (p off : Nat) : W64 :=
  let h := getH s p
  if 0x900100 ≤ off ∧ off < 0x900140 then portReg s p off 0
  else if 0x900140 ≤ off ∧ off < 0x900180 then BitVec.ofNat 64 (fieldBytes h.mboxRsp (off - 0x900140) 8)
  else
    let left := if h.att = 2 then (h.lease * 1000000 + h.orphanAt - s.now) / 1000000 else 0
    let version := fun (x : FwSlot) => if x.st = 0 then (0 : W64) else word [(63, 32, x.svn), (31, 0, x.version)]
    match off with
    | 0x900000 => s.regs.get 0 0x900000
    | 0x900008 => s.regs.get 0 0x900008
    | 0x900010 => word [(63, 48, s.fw.result), (39, 36, (fwSlot s 1).st), (35, 32, (fwSlot s 0).st), (19, 16, s.fwRun), (0, 0, s.fw.active)]
    | 0x900018 => BitVec.ofNat 64 s.fw.target
    | 0x900020 => version (fwSlot s 0)
    | 0x900028 => version (fwSlot s 1)
    | 0x900040 => h.hb
    | 0x900048 => hbCtrl s p
    | 0x900050 => word [(63, 48, h.reason), (47, 32, left), (1, 0, h.att)]
    | 0x900060 => portReg s p 0x900060 0
    | 0x900068 => BitVec.ofNat 64 (if s.cfg.used = 0 then 0 else carveLogical s)
    | 0x900070 => BitVec.ofNat 64 (carveLen s)
    | 0x900078 => word [(63, 32, h.discarded)]
    | 0x900080 => logBase s p
    | 0x900088 => BitVec.ofNat 64 h.log.head
    | 0x900090 => BitVec.ofNat 64 h.log.tail
    | 0x900098 => logCtrl s p
    | 0x9000A0 => word [(63, 32, h.log.lost), (12, 0, h.log.backlog.length)]
    | 0x900180 => mboxCtrl s p ||| word [(63, 48, h.mboxResult)]
    | _ => 0

/-- Word `w` of an error record (R578). DETAIL is informational and reads 0. -/
def readRecord (r : Option ErrRec) (w : Nat) : W64 :=
  match r with
  | none => if w = 3 then word [(63, 48, 0xFFFF), (47, 32, 0xFFFF)] else 0
  | some r =>
    match w with
    | 0 => BitVec.ofNat 64 r.word0
    | 1 => BitVec.ofNat 64 r.object
    | 2 => BitVec.ofNat 64 (r.at_ * 1000)
    | _ => word [(63, 48, r.queue), (47, 32, r.customer), (31, 24, r.cause)]

/-- The device is fatal (R584): FAULT_N is driven low. -/
def fatal (s : State) : Bool := s.err.cause != 0

/-- The ERR block (R578, R582, R587). -/
def readErr (s : State) (off : Nat) : W64 :=
  if off < 0xA00020 then readRecord s.err.primary ((off - 0xA00000) / 8)
  else if off < 0xA00040 then readRecord s.err.secondary ((off - 0xA00020) / 8)
  else
    match off with
    | 0xA00040 => word [(63, 32, s.err.ovCount), (31, 24, s.err.ovUnit), (15, 0, s.err.ovCode)]
    | 0xA00048 => word [(5, 4, s.err.cause), (2, 2, bit (fatal s)), (1, 1, bit (alertLow s)), (0, 0, bit (fatal s))]
    | 0xA00050 => word [(63, 32, s.err.corrected), (31, 16, s.err.contained), (15, 0, s.err.degraded)]
    | 0xA00058 => s.regs.get 0x3C 0xA00058
    | 0xA00068 => s.regs.get 0 0xA00068
    | 0xA00070 => s.regs.get 0 0xA00070 ||| word [(63, 48, s.err.dumpResult)]
    | _ => 0

/-- The TRC block (R528). -/
def readTrc (s : State) (off : Nat) : W64 :=
  match off with
  | 0xB00020 => trcBuf s
  | 0xB00028 => BitVec.ofNat 64 s.trc.head
  | 0xB00030 => BitVec.ofNat 64 s.trc.tail
  | 0xB00038 => trcCtrl s
  | 0xB00040 => word [(63, 32, s.trc.dropped)]
  | _ => if off < 0xB00020 then s.regs.get 0 off else 0

/-- A BAR0 register as a function of port `p` reads it (R13, R17), `off` a multiple of 8. -/
def regRead (s : State) (p off : Nat) : W64 :=
  if off < 0x10000 then readGlb s off
  else if off < 0x20000 then readCfg s off
  else if off < 0x40000 then readCpm s off
  else if off < 0x80000 then readQdb s ((off - 0x40000) / 64) (off % 64 / 8)
  else if off < 0x100000 then 0
  else if off < 0x200000 then readTil s off
  else if off < 0x300000 then readMem s off
  else if off < 0x400000 then readCxe s off
  else if off < 0x500000 then readFbe s off
  else if off < 0x600000 then readFab s off
  else if off < 0x700000 then readRma s off
  else if off < 0x800000 then readAdm s off
  else if off < 0x900000 then readCmp s off
  else if off < 0xA00000 then readFwm s p off
  else if off < 0xB00000 then readErr s off
  else if off < 0xC00000 then readTrc s off
  else 0

end Sys2Proof.Machine
end

