-- ==== Sys2Proof/Machine/Registers.lean ====
section
/-!
DEFINITION. Writes of BAR0 registers (R13 to R17, R547) and what the management core answers (R544 to R546).
-/

namespace Sys2Proof.Machine

open Sys2Proof

/-- What a command leaves, as a part of a register write. -/
def nextOf (s : State) (o : Out) : State := match o with | .next t => t | _ => s

/-- A register of RW fields alone: its offset, its Reset column, and each field with its legal values (R15). -/
structure RwReg where
  off : Nat
  reset : Nat
  fields : List (Nat × Nat × Nat × Nat)

/-- The registers that a physical function writes and that do no more than hold their fields: `(hi, lo, least, most)` each. -/
def rwRegs : List RwReg :=
  [⟨0x10000, 0, [(63, 12, 0, 2 ^ 52)]⟩,
   ⟨0x20060, 0xA000A, [(31, 16, 1, 0xE10), (15, 0, 1, 0xE10)]⟩,
   ⟨0x120000, 0x0000000108000008, [(32, 32, 0, 1), (31, 24, 0, 255), (23, 16, 0, 255), (7, 0, 1, 255)]⟩,
   ⟨0x201000, 0x000000100C000064, [(39, 32, 1, 255), (31, 24, 8, 255), (16, 16, 0, 1), (15, 0, 0xA, 0x2710)]⟩,
   ⟨0x201028, 0x102, [(8, 8, 0, 1), (3, 0, 1, 8)]⟩,
   ⟨0x201038, 0xA, [(6, 0, 1, 0x64)]⟩,
   ⟨0x300008, 0x108, [(8, 8, 0, 1), (7, 0, 1, 0x40)]⟩,
   ⟨0x300018, 0, [(31, 0, 0, 2 ^ 32)]⟩,
   ⟨0x400000, 0x105, [(8, 8, 0, 1), (4, 0, 1, 0x19)]⟩,
   ⟨0x400008, 0x00A8006400C80004, [(63, 48, 0x18, 0x870), (47, 32, 0xA, 0xFFFF), (27, 16, 0x10, 0x400), (3, 0, 1, 8)]⟩,
   ⟨0x400010, 0x01F40005, [(31, 16, 0x64, 0x2710), (4, 0, 1, 0x14)]⟩,
   ⟨0x400018, 0x003C0014, [(31, 16, 0xA, 0xE10), (4, 0, 0x10, 0x18)]⟩,
   ⟨0x500A00, 0x18, [(7, 0, 0, 255)]⟩,
   ⟨0x501018, 0x640014, [(31, 16, 0, 0xFFFF), (15, 0, 5, 0x2710)]⟩,
   ⟨0x501020, 0x84, [(7, 7, 0, 1), (6, 0, 1, 0x40)]⟩] ++
  [⟨0x502000, 0x006404080001000A, [(63, 48, 1, 0xFFFF), (47, 40, 1, 255), (39, 32, 6, 255), (16, 16, 0, 1), (15, 0, 1, 0x2710)]⟩,
   ⟨0x503000, 3, [(1, 1, 0, 1), (0, 0, 0, 1)]⟩,
   ⟨0x600000, 0x0000001410000A10, [(47, 32, 5, 0x27), (28, 16, 0x10, 0x1000), (15, 8, 1, 255), (6, 0, 1, 0x40)]⟩,
   ⟨0x608000, 0x28, [(15, 0, 5, 0x258)]⟩,
   ⟨0x608008, 0x0E10, [(15, 0, 0, 0xFFFF)]⟩,
   ⟨0x700000, 0xF, [(3, 0, 0, 15)]⟩,
   ⟨0x800000, 0x0000000A030003E8, [(39, 32, 2, 0x10), (27, 24, 2, 15), (15, 0, 0xFA, 0x2710)]⟩,
   ⟨0x804000, 0x14, [(15, 0, 5, 0x1F4)]⟩,
   ⟨0x900000, 0, [(63, 12, 0, 2 ^ 52)]⟩,
   ⟨0xA00058, 0x3C, [(16, 16, 0, 1), (15, 0, 0, 0xE10)]⟩,
   ⟨0xA00068, 0, [(63, 12, 0, 2 ^ 52)]⟩]

/-- A word after a write of RW fields: an illegal value leaves its field unchanged (R15), and reserved bits stay 0. -/
def rwAfter (fields : List (Nat × Nat × Nat × Nat)) (old v : W64) : W64 :=
  fields.foldl (fun w f =>
    let n := fieldOf v f.1 f.2.1
    keepField (decide (f.2.2.1 ≤ n ∧ n ≤ f.2.2.2)) w v f.1 f.2.1) old

/-- A write of a port's own register of RW fields. -/
def portRwWrite (s : State) (who : Req) (p off reset : Nat) (fields : List (Nat × Nat × Nat × Nat)) (v : W64) : State :=
  if ownsPort who p = false then s
  else setReg s (portKey p off) (rwAfter fields (portReg s p off (BitVec.ofNat 64 reset)) v)

/-- A write of CMP_PREEMPT_CTRL (R239): an illegal pair of levels leaves the whole register unchanged. -/
def preemptWrite (s : State) (v : W64) : State :=
  if 1 ≤ fieldOf v 15 0 ∧ fieldOf v 15 0 < fieldOf v 31 16 ∧ fieldOf v 31 16 ≤ 0x100 then setReg s 0x804008 (v &&& 0x0000FF01FFFFFFFF) else s

/-- A write of CPM_PWR_CTRL (R615): temperatures out of range or order leave the whole register unchanged. -/
def pwrWrite (s : State) (v : W64) : State :=
  let n := fieldOf v 31 24
  let t := fieldOf v 23 16
  if 0x50 ≤ n ∧ n ≤ 0x64 ∧ 0x55 ≤ t ∧ t ≤ 0x69 ∧ n < t then
    setReg s 0x20040 (rwAfter [(47, 32, 0x12C, 0x44C), (31, 24, 0, 255), (23, 16, 0, 255), (3, 0, 4, 15)] (pwrCtrl s) v)
  else s

/-- A write of FAB_RING_CTRL (R416, R430). -/
def ringWriteCtrl (s : State) (v : W64) : State :=
  let old := ringCtrl s
  let len := if fieldOf v 41 32 = 0 then fieldOf old 41 32 else fieldOf v 41 32
  let pos := if fieldOf v 25 16 ≤ len then fieldOf v 25 16 else fieldOf old 25 16
  bypEval (setReg s 0x501000 (word [(41, 32, len), (25, 16, pos), (8, 8, bit (bitOf v 8)), (1, 1, bit (bitOf v 1))]))

/-- A write of FAB_ROUTE (R431): an illegal entry is left whole as it was. -/
def routeWrite (s : State) (d : Nat) (v : W64) : State :=
  if d = 0x7FFF ∨ fieldOf v 9 8 ≠ 0 ∨ fieldOf v 1 0 = 3 then s else serve (setReg s (0x580000 + 8 * d) (v &&& 0x03FFFF07))

/-- A write of ADM_CUST_TC (R463, R464). -/
def custTcWrite (s : State) (i : Nat) (v : W64) : State :=
  let k := (s.adm.customers.get Customer.init i).refilled s.now
  let burst := if fieldOf v 63 32 = 0 then k.burst else fieldOf v 63 32
  { s with adm := { s.adm with customers := s.adm.customers.set i { k with rate := fieldOf v 31 0, burst := burst, level := min k.level (burst * 1000) } } }

/-- A write of ADM_FIXED_n (R468): fields of BUDGET and of opcodes not implemented are reserved. -/
def fixedWrite (s : State) (n : Nat) (v : W64) : State :=
  setReg s (0x701000 + 8 * n) (BitVec.ofNat 64 ((List.range 4).foldl (fun w k =>
    if implemented (4 * n + k) && 4 * n + k != opBudget then w + fieldOf v (16 * k + 15) (16 * k) * 2 ^ (16 * k) else w) 0))

/-- A write of QDB_BASE or QDB_VECTOR (R73, R76); a VECTOR beyond the bound function's table leaves the field (R536). -/
def queueRegWrite (s : State) (who : Req) (q r : Nat) (v : W64) : State :=
  if ownsQueue s who q = false then s
  else
    let Q := getQ s q
    if r = 2 then (if Q.state = .disabled then setQ s q { Q with base := v &&& 0xFFFFFFFFFFFFF001 } else s)
    else setQ s q { Q with vector := if fieldOf v 10 0 < vecTable Q.fid then v &&& 0x87FF else (v &&& 0x8000) ||| (Q.vector &&& 0x7FF) }

/-- A write of a queue's register (R69). -/
def qdbWrite (s : State) (who : Req) (q r : Nat) (v : W64) : State :=
  match r with
  | 0 => nextOf s (execQdbTailWrite who q v.toNat s)
  | 2 => queueRegWrite s who q 2 v
  | 3 => ctrlWrite s who q v
  | 4 => nextOf s (execQdbBindWrite who q v s)
  | 7 => queueRegWrite s who q 7 v
  | _ => s

/-- A write of a port's own FWM register (R520, R524, R535, R537). -/
def fwmPortWrite (s : State) (who : Req) (p off : Nat) (v : W64) : State :=
  if 0x900100 ≤ off ∧ off < 0x900140 then
    (if bitOf (mboxCtrl s p) 47 then s else portRwWrite s who p off 0 [(63, 0, 0, 2 ^ 64)] v)
  else
    match off with
    | 0x900040 => hbWrite s who p v
    | 0x900048 => portRwWrite s who p off 0x003C00040500 [(47, 32, 1, 0xE10), (19, 16, 2, 15), (15, 8, 1, 0x64)] v
    | 0x900058 => attachWrite s who p v
    | 0x900060 => if fieldOf v 63 30 % 2 ^ ((getH s p).bar2Log2 - 30) = 0 then portRwWrite s who p off 0 [(63, 30, 0, 2 ^ 34)] v else s
    | 0x900080 => if bitOf (logCtrl s p) 16 then s else portRwWrite s who p off 0 [(63, 12, 0, 2 ^ 52), (3, 0, 0, 0xD)] v
    | 0x900090 => logTailWrite s who p v.toNat
    | 0x900098 => logCtrlWrite s who p v
    | 0x900180 => mboxCtrlWrite s who p v
    | _ => s

/-- A write of a CFG, CPM, ERR or FWM image register, or of GLB_RESET, that does more than hold fields. The rows of these registers say what each does. -/
def hubWrite (s : State) (who : Req) (off : Nat) (v : W64) : Option State :=
  match off with
  | 0x40 => some (glbResetWrite s who v)
  | 0x10008 => some (cfgLoadWrite s who v false)
  | 0x10028 => some (cfgControlWrite s who v none)
  | 0x20008 => some (gateWrite s who v)
  | 0x20040 => some (pwrWrite s v)
  | 0x20068 => some (modCpm s (fun c => { c with sb := c.sb.zipIdx.map (fun x => if bitOf v (16 + x.2) then { x.1 with overrun := false } else x.1) }))
  | 0x20080 => some (telemCtrlWrite s who v)
  | 0x20088 => some (if bitOf (telemCtrl s) 0 then s else setReg s off (rwAfter [(63, 12, 0, 2 ^ 52), (4, 0, 0, 0xE)] (telemBuf s) v))
  | 0x20098 =>
    some (if who.port ≠ telemPort s ∨ v.toNat < s.cpm.telem.tail ∨ s.cpm.telem.head < v.toNat then s
      else modCpm s (fun c => { c with telem := { c.telem with tail := v.toNat } }))
  | 0x900008 => some (loadCmdWrite s who v)
  | 0x900018 => some (fwCtrlWrite s who v)
  | 0xA00000 => some (recordWrite s who 0 v)
  | 0xA00020 => some (recordWrite s who 1 v)
  | 0xA00070 => some (dumpWrite s who v)
  | _ => none

/-- A write of a MEM, CXE, FAB, ADM, CMP, TIL or TRC register that does more than hold fields. -/
def unitWrite (s : State) (who : Req) (off : Nat) (v : W64) : Option State :=
  match off with
  | 0x120008 => some (nextOf s (execTilPowerCtrlWrite who v s))
  | 0x200F00 => some (nextOf s (execMemXhalfCtrlWrite who v s))
  | 0x201010 => some (nextOf s (execMemHashNextWrite who v s))
  | 0x201018 => some (rekeyCtrlWrite s who v)
  | 0x300000 => some (compSelWrite s who v)
  | 0x300010 => some (if bitOf v 0 then nextOf s (execTableLoad who v s) else setReg s off (v &&& 0xFFFFFFFFFFFF8000))
  | 0x300140 => some (keyCmdWrite s who v)
  | 0x501000 => some (ringWriteCtrl s v)
  | 0x502008 => some (nextOf s (execFabFlowKeyNextWrite who v s))
  | 0x800008 => some (nextOf s (execCmpMapGo who v s))
  | 0x802000 => some (spindleCtrlWrite s who v)
  | 0x802008 => some (if s.til.swap ≠ 0 then s else setReg s off (rwAfter [(26, 16, 1, 0x400), (5, 0, 0, 63)] (spindleNext s) v))
  | 0x804008 => some (preemptWrite s v)
  | 0xB00020 => some (if bitOf (trcCtrl s) 0 then s else setReg s off (rwAfter [(63, 12, 0, 2 ^ 52), (4, 0, 0, 0x12)] (trcBuf s) v))
  | 0xB00030 => some (if v.toNat < s.trc.tail ∨ s.trc.head < v.toNat then s else { s with trc := { s.trc with tail := v.toNat } })
  | 0xB00038 => some (trcCtrlWrite s who v)
  | _ =>
    if 0x300100 ≤ off ∧ off < 0x300140 then some (setReg s off v)
    else if 0x500000 ≤ off ∧ off < 0x500200 then some (if off % 0x40 = 0 then portCtrlWrite s who ((off - 0x500000) / 0x40) v else s)
    else if 0x500800 ≤ off ∧ off < 0x500A00 then some (nextOf s (execFabShapeWrite who ((off - 0x500800) / 0x40) (off % 0x40 / 8) v s))
    else if 0x580000 ≤ off ∧ off < 0x5C0000 then some (routeWrite s ((off - 0x580000) / 8) v)
    else if 0x701000 ≤ off ∧ off < 0x701090 then some (fixedWrite s ((off - 0x701000) / 8) v)
    else if 0x708000 ≤ off ∧ off < 0x728000 then
      some (if off % 0x20 = 0 then nextOf s (execAdmCustIdWrite who ((off - 0x708000) / 0x20) v s)
        else if off % 0x20 = 8 then custTcWrite s ((off - 0x708000) / 0x20) v else s)
    else if 0x808000 ≤ off ∧ off < 0x818000 then
      some (if (off - 0x808000) / 0x8000 = s.til.bank ∨ s.til.swap ≠ 0 then s else setReg s off v)
    else if 0xB00000 ≤ off ∧ off < 0xB00020 then some (setReg s off v)
    else none

/-- A 64-bit write of a register (R14, R15, R547): RO registers and unassigned offsets take nothing. -/
def regWrite (s : State) (who : Req) (off : Nat) (v : W64) : State :=
  if 0x40000 ≤ off ∧ off < 0x80000 then qdbWrite s who ((off - 0x40000) / 64) (off % 64 / 8) v
  else if 0x900040 ≤ off ∧ off < 0xA00000 then fwmPortWrite s who who.port off v
  else if isPhysical who = false then s
  else
    match hubWrite s who off v with
    | some t => t
    | none =>
      match unitWrite s who off v with
      | some t => t
      | none =>
        match rwRegs.find? (fun r => r.off == off) with
        | some r => setReg s off (rwAfter r.fields (s.regs.get (BitVec.ofNat 64 r.reset) off) v)
        | none => s

/-- Whether a function may read a register (R547): GLB every function; a queue's set its bound function and, but for firmware's own queues, the physical functions; the rest the physical functions. -/
def mayRead (s : State) (who : Req) (off : Nat) : Bool :=
  if off < 0x10000 then true
  else if 0x40000 ≤ off ∧ off < 0x80000 then (isPhysical who && decide ((off - 0x40000) / 64 < firmwareQueue)) || ownsQueue s who ((off - 0x40000) / 64)
  else isPhysical who

/-- What a BAR0 read of `n` bytes returns (R13, R547): each byte from the register that holds it, and 0 where the function may not read. No command of the table reads a register; this says what a read between two commands gives. -/
def busRead (s : State) (who : Req) (off n : Nat) : List Byte :=
  (List.range n).map (fun k =>
    let o := (off + k) / 8 * 8
    if mayRead s who o then BitVec.ofNat 8 ((regRead s who.port o).toNat / 2 ^ (8 * ((off + k) % 8))) else 0)

/-- What the half that a 32-bit write does not address brings to it (R13): its RW fields as they stand; a W1C bit stays unwritten, key data is kept. -/
def otherHalf (s : State) (p off : Nat) : W64 :=
  if off = 0xA00000 ∨ off = 0xA00020 ∨ off = 0x20068 then 0
  else if (0x300100 ≤ off ∧ off < 0x300140) ∨ off = 0x201010 ∨ off = 0x502008 then s.regs.get 0 off
  else regRead s p off

/-- A register write of `size` bytes (R13): naturally aligned ones of 4 or 8 bytes are taken. -/
def barWrite (s : State) (who : Req) (off size : Nat) (v : W64) : State :=
  if size = 8 ∧ off % 8 = 0 then regWrite s who off v
  else if size = 4 ∧ off % 4 = 0 then
    let base := off / 8 * 8
    let lo := off % 8 * 8
    regWrite s who base (putField (otherHalf s who.port base) (lo + 31) lo (fieldOf v 31 0))
  else s

/-- REGISTER_WRITE (R13 to R15): a host's write of a BAR0 register. In the fatal state and at trip only the resets, the always-on domain and the ERR block take writes. -/
def execRegisterWrite (who : Req) (off size : Nat) (v : W64) (s : State) : Out :=
  let live : Bool := !s.halted || decide (off < 0x10000) || decide (0x20000 ≤ off ∧ off < 0x40000) || decide (0xA00000 ≤ off ∧ off < 0xB00000)
  .next (if live = false then s
    else
      let t := barWrite s who off size v
      if s.halted then t else retag s t)

/-! ### Management (R544 to R546) -/

/-- The bytes of the record of the fuses that measurement 5 covers (R545). -/
def fuseBytes (p : Part) : List Byte := leBytes 4 p.minSvn ++ leBytes 1 (maskOf 4 (fun k => p.revoked.contains k)) ++ leBytes 1 p.letter ++ leBytes 1 p.digit

/-- An SPDM measurement (R545): SHA-384, or zeros. The boot ROM's bytes are the part's own. -/
def measurement (s : State) (i : Nat) : List Byte :=
  let other := fwSlot s (1 - s.fw.active)
  match i with
  | 1 => Config.sha384 Config.bootRom
  | 2 => if (fwSlot s s.fw.active).st = 3 then Config.sha384 (fwSlot s s.fw.active).image else List.replicate 48 0
  | 3 => if other.st = 0 ∨ other.st = 3 then List.replicate 48 0 else Config.sha384 other.image
  | 4 => if s.cfg.used = 0 then List.replicate 48 0 else Config.sha384 s.cfg.force
  | 5 => Config.sha384 (fuseBytes s.part)
  | _ => []

/-- What the management core answers (R544, R585): a measurement, the sensors as last sampled, FRU data, an error record. -/
def mgmtAnswer (s : State) (r : MgmtReq) : List Byte :=
  match r with
  | .measurement i => measurement s i
  | .sensors => s.cpm.telem.last
  | .fru => leBytes 1 s.part.variant ++ leBytes 1 s.part.letter ++ leBytes 1 s.part.digit ++ leBytes 8 s.part.serial
  | .errors which => (List.range 4).flatMap (fun w => leBytes 8 (readRecord (errRecord s which) w).toNat)
  | .coldReset _ => []

/-- MANAGEMENT_REQUEST (R544 to R546): answered in every state in which the always-on domain has power. A cold reset is taken only inside a secured session with a
requester of Kalmund's management root. -/
def execManagementRequest (tag : Nat) (r : MgmtReq) (s : State) : Out :=
  .next (
    if s.cpm.aon = false then s
    else
      let answered := modCpm s (fun c => { c with mgmt := c.mgmt ++ [(tag, mgmtAnswer s r)] })
      match r with
      | .coldReset secured => if secured ∧ s.ladder ≠ 4 then coldReset s else s
      | _ => answered)

end Sys2Proof.Machine
end

