-- ==== Sys2Proof/Machine/Dispatch.lean ====
section
/-!
DEFINITION. One arm for each command: what it does to everything but the queue of waiting commands.
-/

namespace Sys2Proof.Machine

open Sys2Proof

def exec (i : Instr) (s : State) : Host.Outcome State Fault Refusal :=
  match i with
  | .nop id => Sys2Proof.Machine.execNop id s
  | .fence id => Sys2Proof.Machine.execFence id s
  | .waitcnt id => Sys2Proof.Machine.execWaitcnt id s
  | .signal id => Sys2Proof.Machine.execSignal id s
  | .haltq id => Sys2Proof.Machine.execHaltq id s
  | .trace id => Sys2Proof.Machine.execTrace id s
  | .budgetSetRateAndBurst id => Sys2Proof.Machine.execBudgetSetRateAndBurst id s
  | .budgetAddCredit id => Sys2Proof.Machine.execBudgetAddCredit id s
  | .budgetSetWeight id => Sys2Proof.Machine.execBudgetSetWeight id s
  | .pmove id => Sys2Proof.Machine.execPmove id s
  | .pcopy id => Sys2Proof.Machine.execPcopy id s
  | .pingest id => Sys2Proof.Machine.execPingest id s
  | .pevictVacate id => Sys2Proof.Machine.execPevictVacate id s
  | .pevictRelease id => Sys2Proof.Machine.execPevictRelease id s
  | .ppin id => Sys2Proof.Machine.execPpin id s
  | .punpin id => Sys2Proof.Machine.execPunpin id s
  | .pmatch id => Sys2Proof.Machine.execPmatch id s
  | .register id => Sys2Proof.Machine.execRegister id s
  | .revoke id => Sys2Proof.Machine.execRevoke id s
  | .publish id => Sys2Proof.Machine.execPublish id s
  | .publishDraftNode id => Sys2Proof.Machine.execPublishDraftNode id s
  | .discard id => Sys2Proof.Machine.execDiscard id s
  | .claimCreate id => Sys2Proof.Machine.execClaimCreate id s
  | .claimAssert id => Sys2Proof.Machine.execClaimAssert id s
  | .castle id => Sys2Proof.Machine.execCastle id s
  | .rwrite id => Sys2Proof.Machine.execRwrite id s
  | .rread id => Sys2Proof.Machine.execRread id s
  | .mcast id => Sys2Proof.Machine.execMcast id s
  | .rreduce id => Sys2Proof.Machine.execRreduce id s
  | .attend id => Sys2Proof.Machine.execAttend id s
  | .amerge id => Sys2Proof.Machine.execAmerge id s
  | .expand id => Sys2Proof.Machine.execExpand id s
  | .convertRow id => Sys2Proof.Machine.execConvertRow id s
  | .convertBuffer id => Sys2Proof.Machine.execConvertBuffer id s
  | .gemm id => Sys2Proof.Machine.execGemm id s
  | .vop id => Sys2Proof.Machine.execVop id s
  | .lookaheadExpiry page => Sys2Proof.Machine.execLookaheadExpiry page s
  | .deterministicPassTwoStart id => Sys2Proof.Machine.execDeterministicPassTwoStart id s
  | .qdbTailWrite who q t => Sys2Proof.Machine.execQdbTailWrite who q t s
  | .queueEnable who q v => Sys2Proof.Machine.execQueueEnable who q v s
  | .queueDisable who q v => Sys2Proof.Machine.execQueueDisable who q v s
  | .queueHalt who q v => Sys2Proof.Machine.execQueueHalt who q v s
  | .queueResume who q v => Sys2Proof.Machine.execQueueResume who q v s
  | .queueFlush who q v => Sys2Proof.Machine.execQueueFlush who q v s
  | .qdbBindWrite who q v => Sys2Proof.Machine.execQdbBindWrite who q v s
  | .instructionFetch q pokes => Sys2Proof.Machine.execInstructionFetch q pokes s
  | .instructionStart pokes => Sys2Proof.Machine.execInstructionStart pokes s
  | .lifecycleWaitEnd id => Sys2Proof.Machine.execLifecycleWaitEnd id s
  | .instructionComplete id => Sys2Proof.Machine.execInstructionComplete id s
  | .waitcntTimeout id => Sys2Proof.Machine.execWaitcntTimeout id s
  | .offer h subject epoch comp privBytes weightBytes model desc => Sys2Proof.Machine.execOffer h subject epoch comp privBytes weightBytes model desc s
  | .decline h subject epoch code => Sys2Proof.Machine.execDecline h subject epoch code s
  | .pull h subject epoch kind entry => Sys2Proof.Machine.execPull h subject epoch kind entry s
  | .page h subject epoch kind entry bytes => Sys2Proof.Machine.execPage h subject epoch kind entry bytes s
  | .accept h subject epoch entries => Sys2Proof.Machine.execAccept h subject epoch entries s
  | .abort h subject epoch code => Sys2Proof.Machine.execAbort h subject epoch code s
  | .commit h subject epoch target entries => Sys2Proof.Machine.execCommit h subject epoch target entries s
  | .committed h subject epoch code version => Sys2Proof.Machine.execCommitted h subject epoch code version s
  | .take h subject epoch => Sys2Proof.Machine.execTake h subject epoch s
  | .taken h subject epoch => Sys2Proof.Machine.execTaken h subject epoch s
  | .ask h subject epoch complete side isReply entries => Sys2Proof.Machine.execAsk h subject epoch complete side isReply entries s
  | .hold h subject epoch => Sys2Proof.Machine.execHold h subject epoch s
  | .arbiterHoldExpiry subject device => Sys2Proof.Machine.execArbiterHoldExpiry subject device s
  | .arbiterRule subject => Sys2Proof.Machine.execArbiterRule subject s
  | .ruling h subject epoch owner code => Sys2Proof.Machine.execRuling h subject epoch owner code s
  | .castleTimeoutExpiry subject => Sys2Proof.Machine.execCastleTimeoutExpiry subject s
  | .entries h subject epoch kind state target comp items => Sys2Proof.Machine.execEntries h subject epoch kind state target comp items s
  | .entriesAck h subject epoch code version => Sys2Proof.Machine.execEntriesAck h subject epoch code version s
  | .release h subject epoch => Sys2Proof.Machine.execRelease h subject epoch s
  | .released h subject epoch code => Sys2Proof.Machine.execReleased h subject epoch code s
  | .record h subject version desc => Sys2Proof.Machine.execRecord h subject version desc s
  | .recordAck h subject code version => Sys2Proof.Machine.execRecordAck h subject code version s
  | .recordDelete h subject version => Sys2Proof.Machine.execRecordDelete h subject version s
  | .mirrorRetryTimeout subject => Sys2Proof.Machine.execMirrorRetryTimeout subject s
  | .preemption => Sys2Proof.Machine.execPreemption s
  | .sequenceSwap subject => Sys2Proof.Machine.execSequenceSwap subject s
  | .renew h items => Sys2Proof.Machine.execRenew h items s
  | .leaseRenewalTick => Sys2Proof.Machine.execLeaseRenewalTick s
  | .leaseExpiry object device port fn => Sys2Proof.Machine.execLeaseExpiry object device port fn s
  | .lookup h subject comp reserve takeRef digests => Sys2Proof.Machine.execLookup h subject comp reserve takeRef digests s
  | .lookupResult h subject code result => Sys2Proof.Machine.execLookupResult h subject code result s
  | .reserve h subject device digests => Sys2Proof.Machine.execReserve h subject device digests s
  | .reserved h subject code draft => Sys2Proof.Machine.execReserved h subject code draft s
  | .shardMapReq h subject => Sys2Proof.Machine.execShardMapReq h subject s
  | .shardMap h subject code holders shardBlocks => Sys2Proof.Machine.execShardMap h subject code holders shardBlocks s
  | .ref h subject change => Sys2Proof.Machine.execRef h subject change s
  | .distribute h subject layer first count bytes descriptor => Sys2Proof.Machine.execDistribute h subject layer first count bytes descriptor s
  | .share h subject ancestor first count => Sys2Proof.Machine.execShare h subject ancestor first count s
  | .distributed h subject code => Sys2Proof.Machine.execDistributed h subject code s
  | .indexCommit h subject c => Sys2Proof.Machine.execIndexCommit h subject c s
  | .indexCommitted h subject code version => Sys2Proof.Machine.execIndexCommitted h subject code version s
  | .retire h subject => Sys2Proof.Machine.execRetire h subject s
  | .nodeRetirement node => Sys2Proof.Machine.execNodeRetirement node s
  | .tree h subject kind commit change => Sys2Proof.Machine.execTree h subject kind commit change s
  | .treeAck h subject code => Sys2Proof.Machine.execTreeAck h subject code s
  | .revokeDrainComplete index => Sys2Proof.Machine.execRevokeDrainComplete index s
  | .messageAbandon => Sys2Proof.Machine.execMessageAbandon s
  | .foldBack index page => Sys2Proof.Machine.execFoldBack index page s
  | .destage => Sys2Proof.Machine.execDestage s
  | .propose h map => Sys2Proof.Machine.execPropose h map s
  | .prepare h map => Sys2Proof.Machine.execPrepare h map s
  | .vote h epoch code => Sys2Proof.Machine.execVote h epoch code s
  | .compositionCommit h epoch => Sys2Proof.Machine.execCompositionCommit h epoch s
  | .compositionAbort h epoch code => Sys2Proof.Machine.execCompositionAbort h epoch code s
  | .applied h epoch => Sys2Proof.Machine.execApplied h epoch s
  | .compositionResult h epoch code voter => Sys2Proof.Machine.execCompositionResult h epoch code voter s
  | .voteTimeout comp => Sys2Proof.Machine.execVoteTimeout comp s
  | .leaderSilenceTimeout comp => Sys2Proof.Machine.execLeaderSilenceTimeout comp s
  | .cmpMapGo who v => Sys2Proof.Machine.execCmpMapGo who v s
  | .beat h frames seqs updating => Sys2Proof.Machine.execBeat h frames seqs updating s
  | .beatSendTick => Sys2Proof.Machine.execBeatSendTick s
  | .memberLoss comp device => Sys2Proof.Machine.execMemberLoss comp device s
  | .removedSelf comp => Sys2Proof.Machine.execRemovedSelf comp s
  | .ringMove h device position => Sys2Proof.Machine.execRingMove h device position s
  | .restoreReq h device => Sys2Proof.Machine.execRestoreReq h device s
  | .drainDone h => Sys2Proof.Machine.execDrainDone h s
  | .drainDeadlineExpiry comp device => Sys2Proof.Machine.execDrainDeadlineExpiry comp device s
  | .partingCastleIssue comp => Sys2Proof.Machine.execPartingCastleIssue comp s
  | .mirrorRebuild => Sys2Proof.Machine.execMirrorRebuild s
  | .image h purpose offset items => Sys2Proof.Machine.execImage h purpose offset items s
  | .imageDone h purpose length crc => Sys2Proof.Machine.execImageDone h purpose length crc s
  | .imageAck h code => Sys2Proof.Machine.execImageAck h code s
  | .multicastOpen h group psn dest offset len port fn => Sys2Proof.Machine.execMulticastOpen h group psn dest offset len port fn s
  | .managementMessage h group v => Sys2Proof.Machine.execManagementMessage h group v s
  | .write h p => Sys2Proof.Machine.execWrite h p s
  | .readReq h subject id key offset len => Sys2Proof.Machine.execReadReq h subject id key offset len s
  | .readResp h id code off last ackReq bytes => Sys2Proof.Machine.execReadResp h id code off last ackReq bytes s
  | .reduce h p red => Sys2Proof.Machine.execReduce h p red s
  | .submit h tag queue port fn entry blk => Sys2Proof.Machine.execSubmit h tag queue port fn entry blk s
  | .complete h tag result counter => Sys2Proof.Machine.execComplete h tag result counter s
  | .ack h psn code => Sys2Proof.Machine.execAck h psn code s
  | .nak h psn kind => Sys2Proof.Machine.execNak h psn kind s
  | .connect h qp inc => Sys2Proof.Machine.execConnect h qp inc s
  | .connected h qp inc => Sys2Proof.Machine.execConnected h qp inc s
  | .close h => Sys2Proof.Machine.execClose h s
  | .datagram h bytes => Sys2Proof.Machine.execDatagram h bytes s
  | .controlUnknownType h => Sys2Proof.Machine.execControlUnknownType h s
  | .redirectResend id => Sys2Proof.Machine.execRedirectResend id s
  | .retransmitTimerExpiry peer cls => Sys2Proof.Machine.execRetransmitTimerExpiry peer cls s
  | .queuePairIdleClose peer cls => Sys2Proof.Machine.execQueuePairIdleClose peer cls s
  | .ackDelayExpiry peer cls => Sys2Proof.Machine.execAckDelayExpiry peer cls s
  | .combinableRequest h subject key off len tag adds => Sys2Proof.Machine.execCombinableRequest h subject key off len tag adds s
  | .combinedResponse h tag code off last bytes adds => Sys2Proof.Machine.execCombinedResponse h tag code off last bytes adds s
  | .combinableRepeatExpiry id => Sys2Proof.Machine.execCombinableRepeatExpiry id s
  | .ringSlot dir slot header => Sys2Proof.Machine.execRingSlot dir slot header s
  | .hungry dir => Sys2Proof.Machine.execHungry dir s
  | .ringXoffTick occupied => Sys2Proof.Machine.execRingXoffTick occupied s
  | .pauseWatchdogExpiry p dest cls => Sys2Proof.Machine.execPauseWatchdogExpiry p dest cls s
  | .stallHoldExpiry p dest => Sys2Proof.Machine.execStallHoldExpiry p dest s
  | .clearStall who p => Sys2Proof.Machine.execClearStall who p s
  | .portEnable who p v => Sys2Proof.Machine.execPortEnable who p v s
  | .trainingComplete p => Sys2Proof.Machine.execTrainingComplete p s
  | .trainingFailed p => Sys2Proof.Machine.execTrainingFailed p s
  | .signalLoss p => Sys2Proof.Machine.execSignalLoss p s
  | .relock p => Sys2Proof.Machine.execRelock p s
  | .relockTimeout p => Sys2Proof.Machine.execRelockTimeout p s
  | .adaptationWindow p => Sys2Proof.Machine.execAdaptationWindow p s
  | .flowMonitorWindow queued => Sys2Proof.Machine.execFlowMonitorWindow queued s
  | .queuePairMove peer cls => Sys2Proof.Machine.execQueuePairMove peer cls s
  | .fabFlowKeyNextWrite who v => Sys2Proof.Machine.execFabFlowKeyNextWrite who v s
  | .flowKeyReplacementEnd => Sys2Proof.Machine.execFlowKeyReplacementEnd s
  | .fabShapeWrite who p t v => Sys2Proof.Machine.execFabShapeWrite who p t v s
  | .bucketRefillTick => Sys2Proof.Machine.execBucketRefillTick s
  | .admCustIdWrite who k v => Sys2Proof.Machine.execAdmCustIdWrite who k v s
  | .slotBoundary => Sys2Proof.Machine.execSlotBoundary s
  | .spindleSwap who v => Sys2Proof.Machine.execSpindleSwap who v s
  | .spindleSwapAbort who v => Sys2Proof.Machine.execSpindleSwapAbort who v s
  | .tileFree t => Sys2Proof.Machine.execTileFree t s
  | .taskComplete t => Sys2Proof.Machine.execTaskComplete t s
  | .saveEnd t => Sys2Proof.Machine.execSaveEnd t s
  | .restoreEnd t => Sys2Proof.Machine.execRestoreEnd t s
  | .tileWakeEnd t => Sys2Proof.Machine.execTileWakeEnd t s
  | .tilePowerGate t => Sys2Proof.Machine.execTilePowerGate t s
  | .tilePreWake t => Sys2Proof.Machine.execTilePreWake t s
  | .crossHalfWaitExpiry task => Sys2Proof.Machine.execCrossHalfWaitExpiry task s
  | .tilPowerCtrlWrite who v => Sys2Proof.Machine.execTilPowerCtrlWrite who v s
  | .memXhalfCtrlWrite who v => Sys2Proof.Machine.execMemXhalfCtrlWrite who v s
  | .dieLinkLaneLoss half groups => Sys2Proof.Machine.execDieLinkLaneLoss half groups s
  | .pageFetchComplete desc => Sys2Proof.Machine.execPageFetchComplete desc s
  | .descriptorComplete desc => Sys2Proof.Machine.execDescriptorComplete desc s
  | .hotspotWindow means => Sys2Proof.Machine.execHotspotWindow means s
  | .memHashNextWrite who v => Sys2Proof.Machine.execMemHashNextWrite who v s
  | .rekeyStart who v => Sys2Proof.Machine.execRekeyStart who v s
  | .rekeyRow half => Sys2Proof.Machine.execRekeyRow half s
  | .rekeyHoldoffExpiry => Sys2Proof.Machine.execRekeyHoldoffExpiry s
  | .patrolScrubSector area channel sector error last => Sys2Proof.Machine.execPatrolScrubSector area channel sector error last s
  | .sectorRewrite => Sys2Proof.Machine.execSectorRewrite s
  | .channelRetrain channel moved => Sys2Proof.Machine.execChannelRetrain channel moved s
  | .tableLoad who v => Sys2Proof.Machine.execTableLoad who v s
  | .cxeCompSelWrite who v => Sys2Proof.Machine.execCxeCompSelWrite who v s
  | .recodeBlock place => Sys2Proof.Machine.execRecodeBlock place s
  | .keyLoad who slot => Sys2Proof.Machine.execKeyLoad who slot s
  | .keyDestroy who slot => Sys2Proof.Machine.execKeyDestroy who slot s
  | .keySweep slot => Sys2Proof.Machine.execKeySweep slot s
  | .flashRead addr step bits => Sys2Proof.Machine.execFlashRead addr step bits s
  | .flashProgramComplete ffn ok => Sys2Proof.Machine.execFlashProgramComplete ffn ok s
  | .flashEraseComplete block ok => Sys2Proof.Machine.execFlashEraseComplete block ok s
  | .flashBusyTimeout block => Sys2Proof.Machine.execFlashBusyTimeout block s
  | .journalRecord => Sys2Proof.Machine.execJournalRecord s
  | .refresh block => Sys2Proof.Machine.execRefresh block s
  | .reclaim plane => Sys2Proof.Machine.execReclaim plane s
  | .wearRelocation plane => Sys2Proof.Machine.execWearRelocation plane s
  | .flashPatrol block reads last => Sys2Proof.Machine.execFlashPatrol block reads last s
  | .checkpoint => Sys2Proof.Machine.execCheckpoint s
  | .flashRecovery badA badB readable => Sys2Proof.Machine.execFlashRecovery badA badB readable s
  | .flashChannelRetrain channel => Sys2Proof.Machine.execFlashChannelRetrain channel s
  | .flashErasureSweep => Sys2Proof.Machine.execFlashErasureSweep s
  | .firmwareLoad who v => Sys2Proof.Machine.execFirmwareLoad who v s
  | .firmwareActivate who target => Sys2Proof.Machine.execFirmwareActivate who target s
  | .handoffCommitPoint => Sys2Proof.Machine.execHandoffCommitPoint s
  | .handoffAbort refused => Sys2Proof.Machine.execHandoffAbort refused s
  | .activationCancel who => Sys2Proof.Machine.execActivationCancel who s
  | .deferredActivationStart => Sys2Proof.Machine.execDeferredActivationStart s
  | .hubWatchdogExpiry => Sys2Proof.Machine.execHubWatchdogExpiry s
  | .heartbeat who v => Sys2Proof.Machine.execHeartbeat who v s
  | .heartbeatMiss p => Sys2Proof.Machine.execHeartbeatMiss p s
  | .detach who => Sys2Proof.Machine.execDetach who s
  | .attach who => Sys2Proof.Machine.execAttach who s
  | .reattachLeaseExpiry p => Sys2Proof.Machine.execReattachLeaseExpiry p s
  | .logEntryWrite => Sys2Proof.Machine.execLogEntryWrite s
  | .logEnable who v => Sys2Proof.Machine.execLogEnable who v s
  | .logTailWrite who t => Sys2Proof.Machine.execLogTailWrite who t s
  | .traceRecord point source queue customer payload => Sys2Proof.Machine.execTraceRecord point source queue customer payload s
  | .traceEnable who v => Sys2Proof.Machine.execTraceEnable who v s
  | .counterAlloc who req => Sys2Proof.Machine.execCounterAlloc who req s
  | .counterFree who req => Sys2Proof.Machine.execCounterFree who req s
  | .counterEcho who req => Sys2Proof.Machine.execCounterEcho who req s
  | .counterGrant who req => Sys2Proof.Machine.execCounterGrant who req s
  | .counterFabric who req => Sys2Proof.Machine.execCounterFabric who req s
  | .peerOpen who req => Sys2Proof.Machine.execPeerOpen who req s
  | .peerClose who req => Sys2Proof.Machine.execPeerClose who req s
  | .vfAperture who req => Sys2Proof.Machine.execVfAperture who req s
  | .notify who req => Sys2Proof.Machine.execNotify who req s
  | .bar2Access who off n bytes => Sys2Proof.Machine.execBar2Access who off n bytes s
  | .functionReset p fn => Sys2Proof.Machine.execFunctionReset p fn s
  | .portReset p => Sys2Proof.Machine.execPortReset p s
  | .deviceReset who confirm => Sys2Proof.Machine.execDeviceReset who confirm s
  | .coldReset who confirm => Sys2Proof.Machine.execColdReset who confirm s
  | .spdmRaiseSvn secured svn => Sys2Proof.Machine.execSpdmRaiseSvn secured svn s
  | .spdmRevokeKeyIndex secured k => Sys2Proof.Machine.execSpdmRevokeKeyIndex secured k s
  | .managementRequest tag r => Sys2Proof.Machine.execManagementRequest tag r s
  | .configLoad who v cut => Sys2Proof.Machine.execConfigLoad who v cut s
  | .configEnable who v flash => Sys2Proof.Machine.execConfigEnable who v flash s
  | .configApply => Sys2Proof.Machine.execConfigApply s
  | .liveReEnable who v flash => Sys2Proof.Machine.execLiveReEnable who v flash s
  | .replacingEnable who v flash => Sys2Proof.Machine.execReplacingEnable who v flash s
  | .shutdown who v => Sys2Proof.Machine.execShutdown who v s
  | .warmStartImport bad broken => Sys2Proof.Machine.execWarmStartImport bad broken s
  | .aonPowerGood => Sys2Proof.Machine.execAonPowerGood s
  | .oscillatorQualification counted => Sys2Proof.Machine.execOscillatorQualification counted s
  | .bootRomDone ok => Sys2Proof.Machine.execBootRomDone ok s
  | .stackTrainingComplete failed => Sys2Proof.Machine.execStackTrainingComplete failed s
  | .errorCapture e => Sys2Proof.Machine.execErrorCapture e s
  | .errorRecordRelease who which => Sys2Proof.Machine.execErrorRecordRelease who which s
  | .errorHoldTimeout which => Sys2Proof.Machine.execErrorHoldTimeout which s
  | .containedRecordLogged => Sys2Proof.Machine.execContainedRecordLogged s
  | .dump who v => Sys2Proof.Machine.execDump who v s
  | .referenceLoss which => Sys2Proof.Machine.execReferenceLoss which s
  | .referenceReturn which => Sys2Proof.Machine.execReferenceReturn which s
  | .crystalLoss => Sys2Proof.Machine.execCrystalLoss s
  | .gateHoldOff who node => Sys2Proof.Machine.execGateHoldOff who node s
  | .gateRelease who node => Sys2Proof.Machine.execGateRelease who node s
  | .ladderTick power temp crit => Sys2Proof.Machine.execLadderTick power temp crit s
  | .ladderClear step => Sys2Proof.Machine.execLadderClear step s
  | .brake => Sys2Proof.Machine.execBrake s
  | .trip critical => Sys2Proof.Machine.execTrip critical s
  | .tripRestart => Sys2Proof.Machine.execTripRestart s
  | .sidebandInputChange pin asserted => Sys2Proof.Machine.execSidebandInputChange pin asserted s
  | .overrunRelease pin => Sys2Proof.Machine.execOverrunRelease pin s
  | .sidebandStuck pin => Sys2Proof.Machine.execSidebandStuck pin s
  | .telemetrySample tiles stackTemps hubs powers => Sys2Proof.Machine.execTelemetrySample tiles stackTemps hubs powers s
  | .avsAckTimeout => Sys2Proof.Machine.execAvsAckTimeout s
  | .supplyDip => Sys2Proof.Machine.execSupplyDip s
  | .jtagInstruction op => Sys2Proof.Machine.execJtagInstruction op s
  | .registerWrite who off size v => Sys2Proof.Machine.execRegisterWrite who off size v s
  | .trunkFlitReceive p xoff corrected uncorrectable crcErrors noRoom occupied => Sys2Proof.Machine.execTrunkFlitReceive p xoff corrected uncorrectable crcErrors noRoom occupied s
  | .remoteSignal h counter set clearFail value => Sys2Proof.Machine.execRemoteSignal h counter set clearFail value s
  | .pcieLinkTrained p width rate => Sys2Proof.Machine.execPcieLinkTrained p width rate s
  | .fastSuppliesInRange => Sys2Proof.Machine.execFastSuppliesInRange s
  | .aonPowerLoss => Sys2Proof.Machine.execAonPowerLoss s
  | .avsAcknowledge => Sys2Proof.Machine.execAvsAcknowledge s
  | .combinedAddRecordExpiry => Sys2Proof.Machine.execCombinedAddRecordExpiry s
  | .idleLowPowerEntry unit index => Sys2Proof.Machine.execIdleLowPowerEntry unit index s
  | .msiXUnmask p fn vec => Sys2Proof.Machine.execMsiXUnmask p fn vec s
  | .sriovVfEnable p n => Sys2Proof.Machine.execSriovVfEnable p n s
  | .jtagTapReset => Sys2Proof.Machine.execJtagTapReset s

end Sys2Proof.Machine
end

