-- ==== Sys2Proof/Machine/Idle.lean ====
section
/-!
DEFINITION. What the device does when no command waits: one microsecond of the device timer passes, and what hardware and firmware do of themselves as time passes
happens (DESIGN CHOICE, log 2).
-/

namespace Sys2Proof.Machine

open Sys2Proof

/-- A tile spends one more µs in RUNNING, SAVING or RESTORING (R269). -/
def tileUs (t : Tile) : Tile :=
  match t.st with
  | .running | .saving | .restoring => { t with busyUs := wrapAdd 64 t.busyUs 1 }
  | _ => t

/-- A bucket of a port and class after one µs: RATE × 10 bytes more, capped at BURST; an unshaped bucket stays (R474, R475). -/
def shapeUs (s : State) (k : Nat) (level : Int) : Int :=
  let r := shapeReg s (k / 8) (k % 8)
  if fieldOf r 15 0 = 0xFFFF then level else min ((fieldOf r 47 32 * 1024 : Nat) : Int) (level + ((fieldOf r 15 0 * 10 : Nat) : Int))

/-- A counter's vector that COALESCE held back is raised once the interval has passed (R538). -/
def coalesced (s : State) (i : Nat) : State :=
  let c := getC s i
  match c.owner with
  | some f =>
    if c.vecDue = true ∧ c.vecAt + c.coalesce ≤ s.now then setC (raiseVec s f c.vector) i { c with vecAt := s.now, vecDue := false } else s
  | none => s

/-- The counts and levels that rise by themselves in one µs. -/
def countUs (s : State) : State :=
  { s with
    til := { s.til with tiles := s.til.tiles.map (fun x => (x.1, tileUs x.2)) }
    adm := { s.adm with shape := s.adm.shape.map (fun x => (x.1, shapeUs s x.1 x.2)) } }

/-- One µs without a command. Without VDD_AON nothing is clocked; in the fatal state, at trip or without supplies only the device timer goes on (R590, R584, R605). -/
def idle (s : State) : State :=
  if s.cpm.aon = false then s
  else
    let s1 := { s with now := s.now + 1 }
    if s.halted then s1
    else
      let s2 := countUs ((s1.own.homes.filter recordDamaged).foldl (fun s r => dropDamaged s r.desc.handle) s1)
      let s3 := ((s2.tz.counters.filter (fun x => x.2.vecDue)).map (·.1)).foldl coalesced s2
      retag s1 (serve (pumpReads (shutdownTick (waitedCheck (tableServe (mboxServe (resetTick (ownFailures (reserveFailures s3)))))))))

end Sys2Proof.Machine
end

