-- ==== Sys2Proof/Safety.lean ====
section
/-!
DEFINITION. The terms that claims about the machine use: when an instruction's row has its effect, when a message is taken, what must not change in the fatal state.
-/

namespace Sys2Proof.Machine

open Sys2Proof

/-- The state in which the opcode row of a started instruction has its effect (R92, step 7): the fast domains run, instruction `r`, numbered `id`, has passed the checks, and
its work on the tiles is over, and firmware is there where it is firmware's work (R501). -/
def Begun (s : State) (id : Nat) (r : Running) : Prop :=
  s.halted = false ∧ findRun s id = some r ∧ r.phase = .ready ∧ tileWorkDone s id = true ∧ (paused s && firmwareOp r.ent) = false

/-- The rows that firmware handles (R501): the messages it answers and the moments at which it acts on its own; in a pause they wait. -/
def firmwareRow : Instr → Bool
  | .deterministicPassTwoStart .. | .offer .. | .decline .. | .pull .. | .page .. | .accept .. | .abort .. | .commit .. | .committed .. | .take ..
  | .taken .. | .ask .. | .hold .. | .arbiterHoldExpiry .. | .arbiterRule .. | .ruling .. | .castleTimeoutExpiry .. | .entries .. | .entriesAck ..
  | .release .. | .released .. | .record .. | .recordAck .. | .recordDelete .. | .mirrorRetryTimeout .. | .preemption | .sequenceSwap .. | .renew ..
  | .leaseRenewalTick | .leaseExpiry .. | .lookup .. | .lookupResult .. | .reserve .. | .reserved .. | .shardMapReq .. | .shardMap .. | .ref ..
  | .distribute .. | .share .. | .distributed .. | .indexCommit .. | .indexCommitted .. | .retire .. | .nodeRetirement .. | .tree .. | .treeAck ..
  | .revokeDrainComplete .. | .foldBack .. | .destage | .propose .. | .prepare .. | .vote .. | .compositionCommit .. | .compositionAbort ..
  | .applied .. | .compositionResult .. | .voteTimeout .. | .leaderSilenceTimeout .. | .memberLoss .. | .removedSelf .. | .ringMove .. | .restoreReq ..
  | .drainDone .. | .drainDeadlineExpiry .. | .partingCastleIssue .. | .mirrorRebuild | .image .. | .imageDone .. | .imageAck .. | .managementMessage ..
  | .submit .. | .complete .. | .journalRecord | .refresh .. | .reclaim .. | .wearRelocation .. | .flashPatrol .. | .checkpoint | .flashErasureSweep => true
  | _ => false

/-- A delivered message is taken (R403, R486): the fast domains run, its packets are next in sequence on an established queue pair, its epoch and membership are right, and
firmware does not pause (R501). -/
def Taken (s : State) (h : Hdr) : Prop :=
  s.halted = false ∧ (arrive s h).2 = true ∧ epochCheck (arrive s h).1 h = 0 ∧ paused s = false

/-- A whole message without an epoch check is taken. -/
def TakenAs (s : State) (h : Hdr) : Prop := s.halted = false ∧ (arrive s h).2 = true ∧ paused s = false

/-- A whole message that needs no firmware is taken, in a pause too (R501). -/
def TakenHw (s : State) (h : Hdr) : Prop := s.halted = false ∧ (arrive s h).2 = true

/-- A delivered message whose handling leads to `t`: where it is taken, its command answers `t` with the tags of what was written and, at the LAST packet, the
acknowledgement with code 0 (R403). -/
def Handled (c : Instr) (s : State) (h : Hdr) (t : State) : Prop :=
  Taken s h → Sys2Proof.Machine.exec c s = .next (retag s (ackLast t h 0))

/-- The same for a whole message without an epoch check, whose LAST packet is acknowledged with `code` (R403, R486). -/
def HandledAs (c : Instr) (s : State) (h : Hdr) (t : State) (code : Nat) : Prop :=
  TakenAs s h → Sys2Proof.Machine.exec c s = .next (retag s (ackLast t h code))

/-- The same for a whole message that needs no firmware. -/
def HandledHw (c : Instr) (s : State) (h : Hdr) (t : State) (code : Nat) : Prop :=
  TakenHw s h → Sys2Proof.Machine.exec c s = .next (retag s (ackLast t h code))

/-- The state of the fast domains that the fatal state and a trip leave as it is (R584, R605): queues and instructions, admission, pages, models, ownership, regions,
compositions, region memory, memory and its layers, tiles. -/
def fastDomains (s : State) : Tz × Adm × List Page × List Model × Own × Rgn × List Membership × Cmp × Mem × Memc × Cx × Til :=
  (s.tz, s.adm, s.pages, s.models, s.own, s.rgn, s.comps, s.cmp, s.dev, s.mc, s.cx, s.til)

/-- What a mailbox row leaves where it is served: what the command in its request bytes answers and leaves. -/
def mboxLeft (s : State) (who : Req) (n : Nat) (req : List Byte) (t : State) : Prop :=
  let x := mboxRun s who.port (leBytes 1 n ++ sliceBytes req 1 63)
  t.tz = x.2.2.tz ∧ t.notify = x.2.2.notify ∧ (getH t who.port).mboxResult = x.1 ∧ (getH t who.port).mboxRsp = x.2.1 ∧
    (getH t who.port).apertures = (getH x.2.2 who.port).apertures

end Sys2Proof.Machine
end

