-- ==== Sys2Proof/Certificates/Slice0/Obligations.lean ====
section
/-!
DEFINITION. The statements for the provers, each a proposition about the model, with the rule or section of the spec that it comes from.
-/

open Sys2Proof Sys2Proof.Machine

/-- A step is the command at the front of the queue, on the state with the queue's rest; with none waiting, one microsecond passes (The table of operations (spec/opcode_table.json); 95_what_each_step_holds.md). -/
def Obligations.StepTakesTheFrontCommand : Prop :=
  (∀ (c : Instr) (rest : List Instr) (s : State), s.pending = c :: rest → step s = exec c { s with pending := rest }) ∧
  (∀ s : State, s.pending = [] → step s = .next (idle s)) ∧
  (∀ (s : State) (nbits w : Nat), s.withFetchWord nbits w = s)

/-- What a write of T to QDB_TAIL does, row by row of the table of R71, and the fetch that follows (R71). -/
def Obligations.TailWriteRows : Prop :=
  ∀ (who : Req) (q t : Nat) (s : State), s.halted = false → mayRing s who q = true →
    (¬ ((getQ s q).state = .active ∨ (getQ s q).state = .waiting) → exec (.qdbTailWrite who q t) s = .next s) ∧
    (t < (getQ s q).tail → exec (.qdbTailWrite who q t) s = .next s) ∧
    ((getQ s q).state = .active ∨ (getQ s q).state = .waiting → (getQ s q).tail ≤ t → (getQ s q).head + (getQ s q).size < t →
      exec (.qdbTailWrite who q t) s = .next (retag s (haltQueue s q Code.tzQueueHalted)) ∧ (getQ (haltQueue s q Code.tzQueueHalted) q).tail = (getQ s q).tail) ∧
    ((getQ s q).state = .active ∨ (getQ s q).state = .waiting → (getQ s q).tail ≤ t → t ≤ (getQ s q).head + (getQ s q).size →
      exec (.qdbTailWrite who q t) s = .next (setQ s q { getQ s q with tail := t }) ∧
      ((getQ s q).state = .active → (getQ s q).head < t → (inFlight s q).length < 256 → fetching s = true →
        ∃ u, exec (.instructionFetch q []) (setQ s q { getQ s q with tail := t }) = .next u ∧ (getQ u q).head = (getQ s q).head + 1 ∧
          ((getQ u q).fetched.map (·.index)) = (getQ s q).fetched.map (·.index) ++ [(getQ s q).head] ∧ u.dev = s.dev ∧ u.host = s.host))

/-- What halting a queue and recording a failure do to it, and to nothing else of it (R73; R76; R77; R93). -/
def Obligations.HaltQueueOperation : Prop :=
  (∀ (s : State) (q reason : Nat),
    ((getQ s q).state = .active ∨ (getQ s q).state = .waiting →
      getQ (haltQueue s q reason) q = { getQ s q with state := .halted, lastReason := reason } ∧
      (∀ r ∈ (haltQueue s q reason).tz.started, r.queue = q → pendingWait r = false)) ∧
    (¬ ((getQ s q).state = .active ∨ (getQ s q).state = .waiting) → haltQueue s q reason = s) ∧
    (∀ j, j ≠ q → getQ (haltQueue s q reason) j = getQ s j) ∧
    (haltQueue s q reason).pages = s.pages ∧ (haltQueue s q reason).dev = s.dev ∧ (haltQueue s q reason).host = s.host) ∧
  (∀ (s : State) (q index code : Nat),
    (getQ (failRecord s q index code) q).lastReason = code ∧ (getQ (failRecord s q index code) q).failIndex = index ∧
    (getQ (failRecord s q index code) q).failCount = satAdd 0xFFFFFFFF (getQ s q).failCount 1 ∧
    (getQ (failRecord s q index code) q).state = (if (getQ s q).failStop = true ∧ ((getQ s q).state = .active ∨ (getQ s q).state = .waiting) then .halted else (getQ s q).state) ∧
    (∀ j, j ≠ q → getQ (failRecord s q index code) j = getQ s j) ∧
    (failRecord s q index code).pages = s.pages ∧ (failRecord s q index code).dev = s.dev ∧ (failRecord s q index code).host = s.host)

/-- What the rows of QDB_CTRL and QDB_BIND do to a queue that the right function writes (R73; R74; R75; R77). -/
def Obligations.QueueControlWrites : Prop :=
  ∀ (who : Req) (q : Nat) (s : State), s.halted = false → ownsQueue s who q = true →
    (∀ v, bitOf (v ||| 1) 0 = true → bitOf (v ||| 1) 1 = false → bitOf (v ||| 1) 2 = false → bitOf (v ||| 1) 3 = false → (getQ s q).state = .disabled →
      s.fwRun = 1 ∨ s.fwRun = 2 ∨ s.fwRun = 3 → enabled s = true →
      let Q : Queue := { getQ s q with ctrl := ctrlAfter true (getQ s q).ctrl (v ||| 1) }
      exec (.queueEnable who q v) s = .next (setQ s q (
        if Q.level < 0x0100 ∨ 0x0102 < Q.level then { Q with lastReason := Code.tzVersion }
        else if Q.remote = true ∧ Q.loc = 0 then { Q with lastReason := Code.tzRights }
        else if Q.loc = 1 ∧ inCarve s Q.addr (32 * Q.size) = false then { Q with lastReason := Code.tzFormat }
        else { Q with state := .active, head := 0, tail := 0, lastReason := 0, failCount := 0, fetched := [] }))) ∧
    (∀ v, bitOf (v ||| 2) 0 = true → bitOf (v ||| 2) 1 = true → bitOf (v ||| 2) 2 = false → bitOf (v ||| 2) 3 = false →
      (getQ s q).state = .active ∨ (getQ s q).state = .waiting →
      exec (.queueHalt who q v) s =
        .next (retag s (haltQueue (setQ s q { getQ s q with ctrl := ctrlAfter false (getQ s q).ctrl (v ||| 2) }) q Code.tzQueueHalted))) ∧
    (∀ v, bitOf (v ||| 4) 0 = true → bitOf (v ||| 4) 1 = false → bitOf (v ||| 4) 2 = true → bitOf (v ||| 4) 3 = false → (getQ s q).state = .halted →
      exec (.queueResume who q v) s = .next (setQ s q { getQ s q with state := .active, ctrl := ctrlAfter false (getQ s q).ctrl (v ||| 4) })) ∧
    (∀ v, bitOf (v &&& ~~~1) 0 = false → bitOf (v &&& ~~~1) 1 = false → bitOf (v &&& ~~~1) 2 = false → bitOf (v &&& ~~~1) 3 = false → (getQ s q).state = .active →
      exec (.queueDisable who q v) s =
        .next (retag s (drainEnd (failAllFetched (endWaits (setQ s q { getQ s q with state := .draining, ctrl := ctrlAfter false (getQ s q).ctrl (v &&& ~~~1) }) q) q) q))) ∧
    (∀ v, bitOf (v ||| 8) 0 = true → bitOf (v ||| 8) 1 = false → bitOf (v ||| 8) 2 = false → bitOf (v ||| 8) 3 = true → (getQ s q).state = .halted →
      ∃ t, exec (.queueFlush who q v) s = .next (retag s t) ∧ t = flushQueue (setQ s q { getQ s q with ctrl := ctrlAfter false (getQ s q).ctrl (v ||| 8) }) q ∧
        (getQ t q).head = (getQ s q).tail ∧ (getQ t q).fetched = [] ∧ (getQ t q).state = .halted) ∧
    (∀ v, who.fn = 0 → (getQ s q).state = .disabled →
      ∃ b, exec (.qdbBindWrite who q v) s = .next (setQ s q { getQ s q with bind := b }) ∧ fieldOf b 39 39 = fieldOf v 39 39 ∧
        fieldOf b 38 32 = (if fieldOf v 38 32 < 64 then fieldOf v 38 32 else fieldOf (getQ s q).bind 38 32) ∧ fieldOf b 19 18 = fieldOf v 19 18 ∧
        bitOf b 16 = bitOf v 16 ∧ fieldOf b 15 0 = fieldOf v 15 0)

/-- NOP, FENCE, WAITCNT, HALTQ and TRACE end as their rules say, and a WAITCNT that is not met waits until its timeout (R83; R167; R168; R170; R171). -/
def Obligations.ControlRowsFinish : Prop :=
  (∀ (s : State) (id : Nat) (r : Running), Begun s id r →
    (r.ent.opcode = opNop → exec (.nop id) s = .next (finish s id 0)) ∧
    (r.ent.opcode = opFence → exec (.fence id) s = .next (finish s id 0)) ∧
    (r.ent.opcode = opTrace → traceOn s (r.ent.a % 256) = true → exec (.trace id) s =
      .next (finish { s with traceQ := s.traceQ ++
        [{ point := r.ent.a % 256, source := 9, queue := r.queue, customer := r.ent.customer, payload := leBytes 6 r.ent.b }] } id 0)) ∧
    (r.ent.opcode = opTrace → traceOn s (r.ent.a % 256) = false → exec (.trace id) s = .next (finish s id 0)) ∧
    (r.ent.opcode = opWaitcnt → r.ent.b ≤ (getC s (r.ent.a % 2 ^ 16)).count → exec (.waitcnt id) s = .next (finish s id (getC s (r.ent.a % 2 ^ 16)).fail)) ∧
    (r.ent.opcode = opWaitcnt → (getC s (r.ent.a % 2 ^ 16)).count < r.ent.b → exec (.waitcnt id) s = .next (await s id)) ∧
    (r.ent.opcode = opHaltq →
      let q := r.ent.a % 2 ^ 12
      let allowed := (q < firmwareQueue ∧ ((getQ s q).fid = r.fid ∨ (r.fid % 64 = 0 ∧ (getQ s q).fid / 64 = r.fid / 64))) ∨ firmwareQueue ≤ r.queue
      (¬ allowed → exec (.haltq id) s = .next (finish s id Code.tzRights)) ∧
      (allowed → (getQ s q).state = .active ∨ (getQ s q).state = .waiting → exec (.haltq id) s = .next (retag s (finish (haltQueue s q Code.tzQueueHalted) id 0))) ∧
      (allowed → (getQ s q).state = .halted → exec (.haltq id) s = .next (finish s id 0)) ∧
      (allowed → (getQ s q).state = .disabled ∨ (getQ s q).state = .draining ∨ (getQ s q).state = .orphaned →
        exec (.haltq id) s = .next (finish s id Code.tzQueueHalted)))) ∧
  (∀ (s : State) (id : Nat) (r : Running), s.halted = false → findRun s id = some r → r.ent.opcode = opWaitcnt → r.phase = .waiting → scheduling s = true →
    (s.now < r.startAt + waitPeriod s r → exec (.waitcntTimeout id) s = .next s) ∧
    (r.startAt + waitPeriod s r ≤ s.now → exec (.waitcntTimeout id) s =
      .next (finish s id (if r.ent.b ≤ (getC s (r.ent.a % 2 ^ 16)).count then (getC s (r.ent.a % 2 ^ 16)).fail else Code.tzWaitTimeout))))

/-- A completion signal and a SIGNAL each change the one counter they name in one update, and store at most the counter's 8-byte echo (R80; R81; R84; R169; R538). -/
def Obligations.CounterOperations : Prop :=
  (∀ (s : State) (i code : Nat), (getC s i).owner ≠ none →
    (getC (signalCounter s i code) i).count = ((getC s i).count + 1) % 2 ^ 48 ∧
    (getC (signalCounter s i code) i).fail = (if (getC s i).fail = 0 then code else (getC s i).fail) ∧
    (∀ j, j ≠ i → getC (signalCounter s i code) j = getC s j) ∧
    (signalCounter s i code).tz.queues = s.tz.queues ∧ (signalCounter s i code).pages = s.pages ∧ (signalCounter s i code).dev = s.dev ∧
    (∀ a, ((getC s i).echo = none ∨ ∀ f e, (getC s i).owner = some f → (getC s i).echo = some e → a < hostKey f e ∨ hostKey f e + 8 ≤ a) →
      Mem.byte (signalCounter s i code).host a = Mem.byte s.host a)) ∧
  (∀ (s : State) (i : Nat) (set clear : Bool) (v : Nat),
    (getC (counterUpdate s i set clear v) i).count = (if set then v % 2 ^ 48 else ((getC s i).count + v) % 2 ^ 48) ∧
    (getC (counterUpdate s i set clear v) i).fail = (if clear then 0 else (getC s i).fail) ∧
    (∀ j, j ≠ i → getC (counterUpdate s i set clear v) j = getC s j) ∧
    (counterUpdate s i set clear v).tz.queues = s.tz.queues ∧ (counterUpdate s i set clear v).pages = s.pages ∧ (counterUpdate s i set clear v).dev = s.dev ∧
    (∀ a, ((getC s i).echo = none ∨ ∀ f e, (getC s i).owner = some f → (getC s i).echo = some e → a < hostKey f e ∨ hostKey f e + 8 ≤ a) →
      Mem.byte (counterUpdate s i set clear v).host a = Mem.byte s.host a))

/-- SIGNAL on a local or remote counter, and the three actions of BUDGET (R169; R172; R464). -/
def Obligations.SignalAndBudgetRows : Prop :=
  ∀ (s : State) (id : Nat) (r : Running), Begun s id r →
    (r.ent.opcode = opSignal → hHome r.ent.a = self s →
      exec (.signal id) s = .next (retag s (finish (counterUpdate s (r.ent.a % 2 ^ 16) (r.ent.flag 4) (r.ent.flag 5) r.ent.b) id 0))) ∧
    (r.ent.opcode = opSignal → hHome r.ent.a ≠ self s →
      exec (.signal id) s = .next (retag s (
        match sendTo s (hHome r.ent.a) (dataClass r.ent.prio) r.ent.a (.signal r.ent.a (r.ent.flag 4) (r.ent.flag 5) r.ent.b) (some id) with
        | .ok t => await t id
        | .error c => finish s id c))) ∧
    (∀ i, r.ent.opcode = opBudget → knownCustomer s (r.ent.a % 2 ^ 16) = some i →
      (r.ent.op74 = 0 →
        let s' := if r.ent.c % 2 ^ 32 < (s.adm.customers.get Customer.init i).burst then catchQueued s (r.ent.a % 2 ^ 16) else s
        exec (.budgetSetRateAndBurst id) s = .next (finish { s' with adm := { s'.adm with customers := s'.adm.customers.upd i (fun k =>
        { k.refilled s.now with burst := r.ent.c % 2 ^ 32, level := min (k.refilled s.now).level (r.ent.c % 2 ^ 32 * 1000), rate := r.ent.b % 2 ^ 32 }) } } id 0)) ∧
      (r.ent.op74 = 1 → exec (.budgetAddCredit id) s = .next (finish { s with adm := { s.adm with customers := s.adm.customers.upd i (fun k =>
        { k with level := min (k.burst * 1000) (k.level + r.ent.b % 2 ^ 32 * 1000) }) } } id 0)) ∧
      (r.ent.op74 = 2 → exec (.budgetSetWeight id) s = .next (finish { s with adm := { s.adm with customers := s.adm.customers.upd i (fun k =>
        { k with weight := r.ent.b % 2 ^ 16 }) } } id 0))) ∧
    (r.ent.opcode = opBudget → knownCustomer s (r.ent.a % 2 ^ 16) = none →
      (r.ent.op74 = 0 → exec (.budgetSetRateAndBurst id) s = .next (finish s id Code.tzRights)) ∧
      (r.ent.op74 = 1 → exec (.budgetAddCredit id) s = .next (finish s id Code.tzRights)) ∧
      (r.ent.op74 = 2 → exec (.budgetSetWeight id) s = .next (finish s id Code.tzRights)))

/-- How the next instruction starts, waits behind another, and leaves its queue when it completes (R72; R82; R91; R92; R93; R97; R460). -/
def Obligations.InstructionCourse : Prop :=
  (∀ (s : State) (pokes : List Poke), fetching s = true → ∀ q f, nextStart (applyPokes s pokes) = some (q, f) →
    let r := mkRunning (applyPokes s pokes) q f
    let t := enterStarted (applyPokes s pokes) q r
    (steps13 t (ctxOf t r) ≠ 0 → exec (.instructionStart pokes) s = .next (setPhase t r.id (.done (steps13 t (ctxOf t r))))) ∧
    (steps13 t (ctxOf t r) = 0 → steps45 t (ctxOf t r) ≠ 0 → exec (.instructionStart pokes) s = .next (setPhase t r.id (.done (steps45 t (ctxOf t r))))) ∧
    (steps13 t (ctxOf t r) = 0 → steps45 t (ctxOf t r) = 0 → mustWait t r = true → exec (.instructionStart pokes) s = .next t) ∧
    (steps13 t (ctxOf t r) = 0 → steps45 t (ctxOf t r) = 0 → mustWait t r = false → exec (.instructionStart pokes) s = .next (admitStart t r))) ∧
  (∀ (s : State) (pokes : List Poke), nextStart (applyPokes s pokes) = none ∨ fetching s = false → exec (.instructionStart pokes) s = .next (applyPokes s pokes)) ∧
  (∀ (s : State) (id : Nat) (r : Running), s.halted = false → findRun s id = some r → r.phase = .behind → mustWait s r = false →
    exec (.lifecycleWaitEnd id) s =
      let code := if steps45 s (ctxOf s r) = Code.tzBadHandle then (r.codes.map (·.2)).headD Code.tzBadHandle else steps45 s (ctxOf s r)
      .next (retag s (if code ≠ 0 then setPhase s id (.done code) else admitStart s r))) ∧
  (∀ (s : State) (id : Nat) (r : Running) (code : Nat), s.halted = false → findRun s id = some r → r.phase = .done code →
    exec (.instructionComplete id) s = .next (retag s (completeRun s r code)) ∧ findRun (completeRun s r code) id = none)

/-- PMOVE, PCOPY and PEVICT in vacate form take the covered pages through one transfer each, in order, and the home learns of what changed (R107; R108; R109; R110; R111; R118; R216; R237). -/
def Obligations.PageMovementRows : Prop :=
  ∀ (s : State) (id : Nat) (r : Running), Begun s id r →
    let ps := covered s r.ent.a (spanOf r.ent.b)
    let h := objectOf s r.ent.a
    ps.any (fun p => pageBusy s p.number) = false →
    (r.ent.opcode = opPmove → r.ent.c = tStacks ∨ ps.any (fun p => decide (0 < p.pin)) = false → ps.any awaited = true → exec (.pmove id) s = .next s) ∧
    (r.ent.opcode = opPcopy → hCls r.ent.a = clsSeq → ps.any awaited = true → exec (.pcopy id) s = .next s) ∧
    (r.ent.opcode = opPmove → ps.any awaited = false → r.ent.c = tStacks ∨ (r.ent.c = tHost ∧ ps.any (fun p => decide (0 < p.pin)) = false) →
      exec (.pmove id) s = .next (retag s (
        recordThen (maybeResume (shortOn (movePages (moveOne r.ent.c ps) s ps)) h) id h ps (movePages (moveOne r.ent.c ps) s ps).2))) ∧
    (r.ent.opcode = opPmove → r.ent.c ≠ tStacks → ps.any (fun p => decide (0 < p.pin)) = true → exec (.pmove id) s = .next (finish s id Code.tzRights)) ∧
    (r.ent.opcode = opPcopy → hCls r.ent.a = clsSeq → ps.any awaited = false → r.ent.c / 2 ^ 16 ≠ tFlash →
      exec (.pcopy id) s = .next (retag s (
        recordThen (movePages (fun s p => copyInto s p (r.ent.c / 2 ^ 16)) s ps).1 id h ps (movePages (fun s p => copyInto s p (r.ent.c / 2 ^ 16)) s ps).2))) ∧
    (∀ map, r.ent.opcode = opPcopy → hCls r.ent.a ≠ clsSeq → s.pers ≠ some .cache → s.rgn.maps.find? (fun m => m.node == r.ent.a) = some map →
      exec (.pcopy id) s = .next (retag s (startStage s r map))) ∧
    (∀ t, r.ent.opcode = opPcopy → hCls r.ent.a ≠ clsSeq → s.pers ≠ some .cache → s.rgn.maps.find? (fun m => m.node == r.ent.a) = none →
      sendTo s (hHome r.ent.a) 1 r.ent.a .shardMapReq (some id) = .ok t → exec (.pcopy id) s = .next (retag s (await t id))) ∧
    (r.ent.opcode = opPevict → r.ent.flag 4 = false → (r.ent.c = tStacks ∧ ps.any (fun p => decide (0 < p.pin)) = true) ∨ ps.any (lastCopy s r.ent.c) = true →
      exec (.pevictVacate id) s = .next (finish s id Code.tzRights)) ∧
    (r.ent.opcode = opPevict → r.ent.flag 4 = false → ¬ (r.ent.c = tStacks ∧ ps.any (fun p => decide (0 < p.pin)) = true) → ps.any (lastCopy s r.ent.c) = false →
      (lowerTier s r.ent.c).getD tHost ≠ tFlash →
      exec (.pevictVacate id) s = .next (retag s (
        recordThen (dropEmpty (movePages (vacateOne r.ent.c) s ps).1) id h ps (movePages (vacateOne r.ent.c) s ps).2)))

/-- What moving, copying, vacating and pinning do to a page: its copies and its pin, never its rows or its place (R103; R107; R110; R118; R120; R277; R279). -/
def Obligations.PageTransferOperations : Prop :=
  let same := fun (p q : Page) => q.number = p.number ∧ q.obj = p.obj ∧ q.layer = p.layer ∧ q.index = p.index ∧ q.tokens = p.tokens ∧ q.pin = p.pin ∧ q.rows = p.rows
  (∀ (s t : State) (p q : Page), movePage s p tHost = some (t, q) → q.host.isSome = true ∧ q.stack = none ∧ same p q) ∧
  (∀ (s t : State) (p q : Page), movePage s p tStacks = some (t, q) → q.stack.isSome = true ∧ same p q) ∧
  (∀ (s t : State) (p q : Page), copyInto s p tHost = some (t, q) → q.host.isSome = true ∧ q.hostDirty = false ∧ q.stack = p.stack ∧ q.flash = p.flash ∧ same p q) ∧
  (∀ (s t : State) (p q : Page), vacateOne tStacks s p = some (t, q) → p.kind ≠ .staged → p.stack.isSome = true → p.inTier p.newest = true → lowerTier s tStacks = some tHost →
    q.stack = none ∧ (q.host.isSome = true ∨ q.flash.isSome = true) ∧ same p q) ∧
  (∀ (p : Page) (slot : Nat) (bs : List Byte),
    Tbl.find (p.putRow slot bs).rows slot = some bs ∧ (∀ j, j ≠ slot → Tbl.find (p.putRow slot bs).rows j = Tbl.find p.rows j) ∧
    (p.putRow slot bs).newest = tStacks ∧ (p.putRow slot bs).hostDirty = p.host.isSome ∧ (p.putRow slot bs).flashDirty = p.flash.isSome ∧
    (p.putRow slot bs).tokens = max p.tokens (slot + 1))

/-- PPIN, PUNPIN, PEVICT in release form and PINGEST do their work on the covered pages, the record and the rows (R34; R113; R116; R117; R119; R120; R216). -/
def Obligations.PinIngestReleaseRows : Prop :=
  ∀ (s : State) (id : Nat) (r : Running), Begun s id r →
    let ps := covered s r.ent.a (spanOf r.ent.b)
    let fresh := ps.foldl (fun n p => if p.pin = 0 then n + p.units else n) 0
    let up := movePages (moveOne tStacks ps) s ps
    (r.ent.opcode = opPpin → ps.any (fun p => decide (255 ≤ p.pin)) = true → exec (.ppin id) s = .next (finish s id Code.tzRights)) ∧
    (r.ent.opcode = opPpin → ps.any (fun p => decide (255 ≤ p.pin)) = false → s.ident.pinCeiling * (2 * poolUnits s) / 1024 < pinnedUnits s + fresh →
      exec (.ppin id) s = .next (finish s id Code.memExhausted)) ∧
    (r.ent.opcode = opPpin → ps.any (fun p => decide (255 ≤ p.pin)) = false → pinnedUnits s + fresh ≤ s.ident.pinCeiling * (2 * poolUnits s) / 1024 →
      ps.any (fun p => pageBusy s p.number) = false →
      exec (.ppin id) s = .next (retag s (
        if up.2 ≠ 0 then finish (shortOn (s, up.2)) id up.2
        else recordThen (maybeResume { up.1 with pages := mapIf (fun p => ps.any (fun q => q.number == p.number)) (fun p => { p with pin := p.pin + 1 }) up.1.pages }
          (objectOf s r.ent.a)) id (objectOf s r.ent.a) ps 0))) ∧
    (r.ent.opcode = opPunpin → exec (.punpin id) s = .next (retag s (
      finish { s with pages := mapIf (fun p => ps.any (fun q => q.number == p.number)) (fun p => { p with pin := p.pin - 1 }) s.pages } id 0))) ∧
    (∀ c, r.ent.opcode = opPevict → r.ent.flag 4 = true → mustWait s r = false → updatesDone s r.ent.a = true → findCopy s r.ent.a = some c → c.st = .owner →
      exec (.pevictRelease id) s = .next (retag s (
        let s1 := await (modCopy (freeCopyPages s r.ent.a) r.ent.a (fun c => { c with st := .stale, pages := [] })) id
        let s2 := { s1 with own := { s1.own with releasing := s1.own.releasing ++ [⟨r.ent.a, c.epoch, c.desc.comp⟩] } }
        if (findHome s2 r.ent.a).isSome then homeAsk s2 r.ent.a (some (self s2, c.epoch)) .delete (.here .released)
        else if homeFound s2 c.desc.comp (hHome r.ent.a) then toHome s2 c.desc.comp r.ent.a (.release c.epoch)
        else releaseEnd s2 r.ent.a Code.ownStateLost)) ∧
      findCopy (modCopy (freeCopyPages s r.ent.a) r.ent.a (fun c => { c with st := .stale, pages := [] })) r.ent.a = some { c with st := .stale, pages := [] }) ∧
    (∀ m c, r.ent.opcode = opPingest → findModel s r.ent.a = some m → sourceRows s r m.desc = .error c → exec (.pingest id) s = .next (retag s (finish (keyRefused s c) id c))) ∧
    (∀ m rows, r.ent.opcode = opPingest → findModel s r.ent.a = some m → sourceRows s r m.desc = .ok rows → fieldBytes r.blk 48 8 = nullHandle →
      exec (.pingest id) s = .next (retag s (writePrivate s r m.desc rows))) ∧
    (∀ m rows, r.ent.opcode = opPingest → findModel s r.ent.a = some m → sourceRows s r m.desc = .ok rows → fieldBytes r.blk 48 8 ≠ nullHandle →
      exec (.pingest id) s = .next (retag s (ingestPrefix s r m.desc rows))) ∧
    (∀ m rows c t, findCopy s r.ent.b = some c → c.st ≠ .stale → missingLayer c m rows = none → rowsUnacked s c m rows = false → (rowPages s c m rows).any (unreadable s) = false →
      bringRows s c m rows = some t →
      writePrivate s r m rows = ((List.range (fieldBytes r.blk 4 1)).map (· + fieldBytes r.blk 3 1)).foldl (fun s l => tailReserve 4 s r.ent.b m l)
        (if (rowPages s c m rows).any (fun p => p.stack.isNone) then recordThen (putRows t c m rows) r.id r.ent.b s.pages 0
         else finish (tellTokens (putRows t c m rows) r.ent.b s.pages) r.id 0))

/-- What the access check gives for a key: never issued, older, newer, free, out of bounds, without the right, outside the scope, and otherwise success (R127). -/
def Obligations.KeyCheckOutcomes : Prop :=
  ∀ (s : State) (key off len right : Nat) (scope : Option Nat),
    let k := getK s (keyIndex key)
    let distance := (k.gen + 65535 - keyGen key) % 65535
    (keyIndex key = 0 ∨ k.issued = false → keyCheck s key off len right scope = Code.keyInvalid) ∧
    (keyIndex key ≠ 0 → k.issued = true → keyGen key ≠ k.gen → 1 ≤ distance → distance ≤ 32767 → keyCheck s key off len right scope = Code.keyRevoked) ∧
    (keyIndex key ≠ 0 → k.issued = true → keyGen key ≠ k.gen → 32768 ≤ distance → keyCheck s key off len right scope = Code.keyInvalid) ∧
    (keyIndex key ≠ 0 → k.issued = true → keyGen key = k.gen → k.state = .free → keyCheck s key off len right scope = Code.keyInvalid) ∧
    (keyIndex key ≠ 0 → k.issued = true → keyGen key = k.gen → k.state = .live →
      (k.len < off + len → keyCheck s key off len right scope = Code.keyBounds) ∧
      (off + len ≤ k.len → natBit k.rights right = false → keyCheck s key off len right scope = Code.keyRights) ∧
      (∀ c, off + len ≤ k.len → natBit k.rights right = true → scope = some c → (c = 0xFFFF ∨ (k.scope ≠ 0xFFFF ∧ k.scope ≠ c)) →
        keyCheck s key off len right scope = Code.keyRights) ∧
      (off + len ≤ k.len → natBit k.rights right = true → (scope = none ∨ ∃ c, scope = some c ∧ c ≠ 0xFFFF ∧ (k.scope = 0xFFFF ∨ k.scope = c)) →
        keyCheck s key off len right scope = 0))

/-- REGISTER takes a free key index, REVOKE raises its generation and drains, PUBLISH commits the writer's draft, DISCARD ends it (R126; R128; R130; R132; R376; R380). -/
def Obligations.RegionRows : Prop :=
  (∀ (s : State) (id : Nat) (r : Running), Begun s id r →
    (r.ent.opcode = opRegister → nextFreeKey s = none → exec (.register id) s = .next (finish s id Code.memExhausted)) ∧
    (∀ i, r.ent.opcode = opRegister → nextFreeKey s = some i →
      ¬ ((fieldBytes r.blk 2 1 = 0 ∧ 2 ^ 44 < mappedHost s + fieldBytes r.blk 16 8) ∨ (fieldBytes r.blk 2 1 = 1 ∧ inCarve s (fieldBytes r.blk 8 8) (fieldBytes r.blk 16 8) = false)) →
      ∃ u, exec (.register id) s =
          .next (retag s (finish (writeReport u r (leBytes 4 ((getK s i).gen * 65536 + i) ++ leBytes 4 0 ++ leBytes 8 (getK u i).region)) id 0)) ∧
        (getK u i).state = .live ∧ (getK u i).gen = (getK s i).gen ∧ (getK u i).issued = true ∧ (getK u i).loc = fieldBytes r.blk 2 1 ∧
        (getK u i).addr = fieldBytes r.blk 8 8 ∧ (getK u i).len = fieldBytes r.blk 16 8 ∧ (getK u i).rights = r.ent.op74 ∧ (getK u i).scope = r.ent.a ∧
        (getK u i).port = r.fid / 64 ∧ (getK u i).fn = r.fid % 64 ∧ (getK u i).version = 1 ∧ hHome (getK u i).region = self s % 2 ^ 15 ∧
        (∀ j, j ≠ i → getK u j = getK s j) ∧ u.dev = s.dev ∧ u.host = s.host ∧ u.pages = s.pages) ∧
    (∀ a bs x, reportAddr r.ent r.blk = some a → bs.length = 16 →
      ((queueMem s r).1 ≠ 1 → x < hostKey r.fid a ∨ hostKey r.fid a + 16 ≤ x → Mem.byte (writeReport s r bs).host x = Mem.byte s.host x ∧ (writeReport s r bs).dev = s.dev) ∧
      ((queueMem s r).1 = 1 → x < a ∨ a + 16 ≤ x → Mem.byte (writeReport s r bs).dev x = Mem.byte s.dev x ∧ (writeReport s r bs).host = s.host)) ∧
    (∀ i, r.ent.opcode = opRevoke → mustWait s r = false → regionIndex s r.ent.a = some i →
      (firmwareQueue ≤ r.queue ∨ (r.fid / 64 = (getK s i).port ∧ (r.fid % 64 = (getK s i).fn ∨ r.fid % 64 = 0)) → (getK s i).state ≠ .revoking →
        exec (.revoke id) s = .next (setK (await s id) i { getK s i with state := .revoking, gen := genNext (getK s i).gen, revoker := some id })) ∧
      (r.queue < firmwareQueue → ¬ (r.fid / 64 = (getK s i).port ∧ (r.fid % 64 = (getK s i).fn ∨ r.fid % 64 = 0)) → exec (.revoke id) s = .next (finish s id Code.tzRights))) ∧
    (∀ i, r.ent.opcode = opPublish → hCls r.ent.a = clsRegion → mustWait s r = false → hHome r.ent.a = self s → regionIndex s r.ent.a = some i →
      (draftCode (getK s i) (writerOf s r) ≠ 0 → exec (.publish id) s = .next (finish s id (draftCode (getK s i) (writerOf s r)))) ∧
      (draftCode (getK s i) (writerOf s r) = 0 → natBit (getK s i).rights rPublish = false → exec (.publish id) s = .next (finish s id Code.keyRights)) ∧
      (draftCode (getK s i) (writerOf s r) = 0 → natBit (getK s i).rights rPublish = true → (getK s i).version ≠ r.ent.b % 2 ^ 48 → reportAddr r.ent r.blk = none →
        exec (.publish id) s = .next (finish (modRun { s with rgn := { s.rgn with conflicts := satAdd 0xFFFF s.rgn.conflicts 1 } }
          (fun x => x.id == r.id) (fun x => { x with aux := (getK s i).version })) id Code.pubConflict)) ∧
      (∀ d, draftCode (getK s i) (writerOf s r) = 0 → natBit (getK s i).rights rPublish = true → (getK s i).version = r.ent.b % 2 ^ 48 → (getK s i).version ≠ 0xFFFFFFFFFFFF →
        draftOf (getK s i) (writerOf s r) = some d → d.holds = 0 → reportAddr r.ent r.blk = none →
        ∃ t, exec (.publish id) s = .next t ∧ getK t i = commitDraft (getK s i) d ∧ (∀ j, j ≠ i → getK t j = getK s j) ∧ t.rgn.publishes = wrapAdd 32 s.rgn.publishes 1 ∧
          t.dev = s.dev ∧ t.host = s.host ∧ t.pages = (publishUnits (setK s i (commitDraft (getK s i) d)) i d).pages ∧ (s.pers ≠ some .cache → t.pages = s.pages))) ∧
    (∀ i, r.ent.opcode = opDiscard → hCls r.ent.a = clsRegion → mustWait s r = false → hHome r.ent.a = self s → regionIndex s r.ent.a = some i →
      (draftCode (getK s i) (writerOf s r) = 0 → (draftOf (getK s i) (writerOf s r)).any (fun d => d.holds != 0) = false →
        exec (.discard id) s = .next (finish (setK s i (endDraft (getK s i) (writerOf s r) Code.pubDraftDiscarded)) id 0)) ∧
      (draftCode (getK s i) (writerOf s r) = 0 → (draftOf (getK s i) (writerOf s r)).any (fun d => d.holds != 0) = true → exec (.discard id) s = .next s) ∧
      (draftCode (getK s i) (writerOf s r) ≠ 0 → exec (.discard id) s = .next (finish s id (draftCode (getK s i) (writerOf s r))))) ∧
    (∀ d, r.ent.opcode = opDiscard → hCls r.ent.a ≠ clsRegion → mustWait s r = false → hHome r.ent.a = self s → s.rgn.drafts.find? (fun d => d.handle == r.ent.a) = some d →
      d.reserver = (writerOf s r).device → d.holds = 0 →
      exec (.discard id) s = .next (retag s (finish (dropDraft (endLease s r.ent.a false) r.ent.a Code.pubDraftDiscarded) id 0)))) ∧
  (∀ (s : State) (i id : Nat), s.halted = false → (getK s i).state = .revoking → (getK s i).accepted = 0 → (getK s i).revoker = some id → paused s = false →
    exec (.revokeDrainComplete i) s = .next (retag s (finish (revokeEnd (freePages s (fun p => p.kind == .weight && p.obj == (getK s i).region)) i) id 0)))

/-- A commit replaces exactly the draft's pages, a write to a draft changes no byte of the version in force, a fold-back changes no byte of it either (R370; R374; R376; R377; R380). -/
def Obligations.RegionVersionsAndDrafts : Prop :=
  (∀ (s : State) (k : KeyEntry) (d : Draft) (off : Nat),
    (commitDraft k d).version = k.version + 1 ∧
    (∀ u, d.units.find? (fun u => u.page == off / 4096) = some u → versionByte s (commitDraft k d) off = Mem.byte u.bytes (off % 4096)) ∧
    (d.units.find? (fun u => u.page == off / 4096) = none → versionByte s (commitDraft k d) off = versionByte s k off)) ∧
  (∀ (s : State) (i : Nat) (w : Writer) (off : Nat) (bs : List Byte),
    (∀ a, versionByte (draftWrite s i w off bs) (getK (draftWrite s i w off bs) i) a = versionByte s (getK s i) a) ∧
    (getK (draftWrite s i w off bs) i).version = (getK s i).version ∧ (draftWrite s i w off bs).dev = s.dev ∧ (draftWrite s i w off bs).host = s.host ∧
    (∀ w', w' ≠ w → draftOf (getK (draftWrite s i w off bs) i) w' = draftOf (getK s i) w')) ∧
  (∀ (s : State) (i : Nat) (u : Unit4K) (a : Nat), (getK s i).loc = 1 → (getK s i).relocated.find? (fun v => v.page == u.page) = some u →
    versionByte (foldBack s i u) (getK (foldBack s i u) i) a = versionByte s (getK s i) a) ∧
  (∀ g, genNext g = (if g = 0xFFFF then 1 else g + 1)) ∧
  (∀ g, 1 ≤ g → g ≤ 0xFFFF → genOlder g (genNext g) = true)

/-- ATTEND computes its range here or across the holders of the prefix; pass 2 of a deterministic one begins once every maximum is in (R33; R149; R151; R153; R184; R188; R191). -/
def Obligations.AttendRows : Prop :=
  (∀ (s : State) (id : Nat) (r : Running) (m : Model), Begun s id r → r.ent.opcode = opAttend → findModel s r.ent.a = some m → isSwapped s r = false →
    let a := attOf r.ent r.blk m.desc
    let pc := pagesCode s r ((List.range a.layers).map (· + a.layer0)) (max a.first (ownFirst s r.ent.b)) (min a.last a.ctx)
    (pc ≠ 0 → exec (.attend id) s = .next (finish s id pc)) ∧
    (∀ l, pc = 0 → gather s r (attInputs s r a) = .bytes l →
      (findCopy s r.ent.b = none → exec (.attend id) s = .next (retag s (attendHere (touchPages s r) r a m (l.headD []) ((l.drop 1).headD [])))) ∧
      (∀ c, findCopy (touchPages s r) r.ent.b = some c →
        let u := touchPages s r
        (¬ (u.pers = some .generation ∧ c.desc.pfx ≠ nullHandle ∧ a.first < c.desc.prefixLen) →
          exec (.attend id) s = .next (retag s (attendHere u r a m (l.headD []) ((l.drop 1).headD [])))) ∧
        (∀ map, u.pers = some .generation → c.desc.pfx ≠ nullHandle → a.first < c.desc.prefixLen → u.rgn.maps.find? (fun x => x.node == c.desc.pfx) = some map → scheduling u = true →
          exec (.attend id) s = .next (retag s (attendSplit u r a m c (l.headD []) ((l.drop 1).headD []) (holderParts a c.desc.prefixLen map)))) ∧
        (u.pers = some .generation → c.desc.pfx ≠ nullHandle → a.first < c.desc.prefixLen → u.rgn.maps.find? (fun x => x.node == c.desc.pfx) = none →
          exec (.attend id) s = .next (retag s (needMap u r c.desc.pfx)))))) ∧
  (∀ (s : State) (id : Nat) (r : Running) (x : Split) (m : Model) (c : SeqCopy) (l : List (List Byte)), s.halted = false → findRun s id = some r →
    s.tz.splits.find? (fun x => x.instr == id) = some x → findModel s r.ent.a = some m → findCopy s r.ent.b = some c →
    let a := attOf r.ent r.blk m.desc
    a.det = true → a.phase = 0 → x.pass = 1 → x.ownDone = true → x.parts.all (·.answered) = true → x.code.isEmpty = true → r.phase = .waiting → scheduling s = true →
    gather s r (attInputs s r a) = .bytes l →
    let y := ownRows s r a m (l.headD []) c.desc.prefixLen (x.rows.map (·.m))
    exec (.deterministicPassTwoStart id) s =
      .next (retag s (startSplit s r a (l.headD []) c.desc.pfx (x.parts.map (fun p => { p with answered := false })) 2 (x.rows.map (·.m)) y))) ∧
  (∀ (s : State) (page : Nat) (p : Page), s.halted = false → findPage s page = some p → p.lookahead = true →
    (p.lookAt + 100 ≤ s.now → ∃ t, exec (.lookaheadExpiry page) s = .next t ∧ (∀ e ∈ t.til.tiles, page ∉ e.2.ahead) ∧ t.dev = s.dev ∧ t.host = s.host ∧ t.own.copies = s.own.copies ∧ t.own.homes = s.own.homes) ∧
    (s.now < p.lookAt + 100 → exec (.lookaheadExpiry page) s = .next s))

/-- AMERGE, EXPAND, CONVERT, GEMM and VOP: what each delivers from the bytes of its operands (R154; R155; R156; R157; R158; R159; R160; R161). -/
def Obligations.ComputeRows : Prop :=
  ∀ (s : State) (id : Nat) (r : Running), Begun s id r →
    (∀ l, r.ent.opcode = opAmerge →
      let b := r.blk
      let det := r.ent.det
      let d := fieldBytes b 4 2
      let rows := fieldBytes b 2 1 * fieldBytes b 3 1
      let layers := fieldBytes b 6 1
      let tup := rows * (if det then d * 16 + 32 else d * 4 + 8)
      gather s r ((List.range (r.ent.a % 256)).map (fun i => (bufAt b (64 + 16 * i), (layers - 1) * fieldBytes b 16 8 + tup))) = .bytes l →
      let ins := l.map (mergeInput det rows d layers (fieldBytes b 16 8))
      let acc := (ins.drop 1).foldl (fun (acc : List (MergeRow × Bool)) t =>
        (acc.zip t).map (fun x => let y := mergeRow det x.1.1 x.2; (y.1, x.1.2 || y.2))) ((ins.headD []).map (fun x => (x, false)))
      (acc.any (·.2) = true → exec (.amerge id) s = .next (finish s id Code.tzFormat)) ∧
      (acc.any (·.2) = false → exec (.amerge id) s = .next (retag s (emit s r [{ buf := bufAt b 32, how := .write, pieces := (List.range layers).map (fun i => (i * fieldBytes b 24 8,
          let x := ((acc.map (·.1)).drop (i * rows)).take rows
          if fieldBytes b 7 1 = 0 then x.flatMap (normalRow det ((plainFmt (fieldBytes b 8 1)).getD .fp32)) else tupleBytes det x)) }])))) ∧
    (∀ m, r.ent.opcode = opExpand → findModel s r.ent.a = some m → isSwapped s r = false →
      pagesCode s r ((List.range (fieldBytes r.blk 3 1)).map (· + fieldBytes r.blk 2 1)) (fieldBytes r.blk 8 3) (fieldBytes r.blk 8 3 + fieldBytes r.blk 12 4) = 0 →
      let u := touchPages s r
      let k := if r.ent.flag 4 then expandBuf u r m true else (u, [])
      let v := if r.ent.flag 5 then expandBuf k.1 r m false else (k.1, [])
      exec (.expand id) s = .next (retag s (emit v.1 r ((if r.ent.flag 4 then [{ buf := bufAt r.blk 16, how := .write, pieces := k.2 }] else []) ++
        (if r.ent.flag 5 then [{ buf := bufAt r.blk 32, how := .write, pieces := v.2 }] else []))))) ∧
    (∀ m rows, r.ent.opcode = opConvert → r.ent.flag 4 = true → isSwapped s r = false → findModel s r.ent.a = some m → sourceRows s r m.desc = .ok rows →
      exec (.convertRow id) s = .next (retag s (writePrivate s r m.desc rows))) ∧
    (∀ l, r.ent.opcode = opConvert → r.ent.flag 4 = false →
      gather s r [(bufAt r.blk 16, if r.ent.flag 5 then 16 * r.ent.a else formatBytes (fieldBytes r.blk 2 1) r.ent.a)] = .bytes l →
      (∀ f, plainFmt r.ent.format = some f → r.ent.flag 5 = true →
        exec (.convertBuffer id) s = .next (retag s (emit s r [{ buf := bufAt r.blk 32, how := .write, pieces := [(0, storePlain f ((List.range r.ent.a).map (fun i => (Cell96.ofBytes (sliceBytes (l.headD []) (16 * i) 16)).value)))] }]))) ∧
      (∀ f g, mxElem r.ent.format = some f → plainFmt r.ent.format = none → plainFmt (fieldBytes r.blk 2 1) = some g → r.ent.flag 5 = false →
        exec (.convertBuffer id) s = .next (retag s (emit s r [{ buf := bufAt r.blk 32, how := .write, pieces := [(0, mxStore f (loadPlain g r.ent.a (l.headD [])))] }])))) ∧
    (∀ f out x y l, r.ent.opcode = opGemm → plainFmt r.ent.format = some f → plainFmt (fieldBytes r.blk 2 1) = some out → fieldBytes r.blk 8 4 = 1 → fieldBytes r.blk 12 4 = 1 →
      fieldBytes r.blk 16 4 ≤ 64 → r.ent.flag 4 = false → r.ent.det = false →
      gather s r [(bufAt r.blk 32, ((1 - 1) * fieldBytes r.blk 20 4 + fieldBytes r.blk 16 4) * (f.width / 8)),
        (bufAt r.blk 48, ((fieldBytes r.blk 16 4 - 1) * fieldBytes r.blk 24 4 + 1) * (f.width / 8))] = .bytes (x :: y :: l) →
      let as := (List.range (fieldBytes r.blk 16 4)).map (fun i => fp8Flush f (f.read (fieldBytes x (i * (f.width / 8)) (f.width / 8))))
      let bs := (List.range (fieldBytes r.blk 16 4)).map (fun i => fp8Flush f (f.read (fieldBytes y (i * fieldBytes r.blk 24 4 * (f.width / 8)) (f.width / 8))))
      exec (.gemm id) s = .next (retag s (emit s r [{ buf := bufAt r.blk 80, how := .write, pieces := [(0, leBytes (out.width / 8) (if dot as bs = .nan then out.canonNaN else out.write (rn32 (dot as bs))))] }]))) ∧
    (∀ f x y l, r.ent.opcode = opVop → r.ent.op74 < 2 → plainFmt r.ent.format = some f →
      gather s r [(bufAt r.blk 16, r.ent.a * (f.width / 8)), (bufAt r.blk 32, r.ent.a * (f.width / 8))] = .bytes (x :: y :: l) →
      exec (.vop id) s = .next (retag s (emit { s with free := s.free + r.ent.a } r [{ buf := bufAt r.blk 48, how := .write, pieces := [(0, storePlain f ((loadPlain f r.ent.a x).zipIdx.map (fun e =>
          let b := (loadPlain f r.ent.a y).getD e.2 (.fin false 0 0)
          rn32 (if r.ent.op74 = 0 then e.1.add b else e.1.mul b))))] }])))

/-- Deterministic partial results merge in any order to the same row; the empty row is neutral; a NaN row wins; a different maximum changes nothing (R152; R164; R186; R187; R206; R207). -/
def Obligations.MergeAlgebra : Prop :=
  (∀ (a : MergeRow) (d : Nat), isNanRow true a = false → mergeRow true a (emptyRow true d) = (a, false)) ∧
  (∀ a b : MergeRow, isNanRow true a = false → isNanRow true b = false → a.m = b.m → Fmt.fp32.read a.m ≠ .inf true →
    mergeRow true a b = ({ a with l := a.l.add b.l, o := (a.o.zip b.o).map (fun x => x.1.add x.2) }, false)) ∧
  (∀ a b : MergeRow, isNanRow true a = true ∨ isNanRow true b = true → mergeRow true a b = (nanRow true a.o.length, false)) ∧
  (∀ a b : MergeRow, isNanRow true a = false → isNanRow true b = false → Fmt.fp32.read a.m ≠ .inf true → Fmt.fp32.read b.m ≠ .inf true →
    (Fmt.fp32.read a.m).lt (Fmt.fp32.read b.m) = true ∨ (Fmt.fp32.read b.m).lt (Fmt.fp32.read a.m) = true → mergeRow true a b = (a, true)) ∧
  (∀ x y z : Cell96, (x.add y).add z = x.add (y.add z) ∧ (x.add y).val = (y.add x).val ∧ (x.add y).nan = (y.add x).nan) ∧
  (∀ (c : Cell96) (t u : Fv), (c.addTerm t).addTerm u = (c.addTerm u).addTerm t)

/-- One local result is written exactly where its piece says, or refused with the key's code and nothing written (R371; R372; R374; R396). -/
def Obligations.ResultDelivery : Prop :=
  ∀ (s : State) (r : Running) (buf : BufRef) (off : Nat) (bs : List Byte), buf.device = self s →
    let k := getK s (keyIndex buf.key)
    let c := keyCheck s buf.key buf.offset (off + bs.length) rWrite none
    let t := emit s r [{ buf := buf, how := .write, pieces := [(off, bs)] }]
    (c ≠ 0 → t = finish (keyRefused s c) r.id c ∧ t.dev = s.dev ∧ t.host = s.host) ∧
    (c = 0 → k.drafted = false → k.loc = 1 → k.relocated = [] →
      (∀ i, i < bs.length → Mem.byte t.dev (k.addr + (buf.offset + off) + i) = bs.getD i 0) ∧
      (∀ a, ¬ (k.addr + (buf.offset + off) ≤ a ∧ a < k.addr + (buf.offset + off) + bs.length) → Mem.byte t.dev a = Mem.byte s.dev a) ∧
      t.host = s.host ∧ (findRun s r.id = some r → ∃ r', findRun t r.id = some r' ∧ r'.phase = .done 0))

/-- CLAIM creates a sequence through its home's partner, or is answered for one owned here; CASTLE begins with the record's STATE 1 (R23; R134; R135; R213; R217; R225). -/
def Obligations.ClaimAndCastleRows : Prop :=
  ∀ (s : State) (id : Nat) (r : Running), Begun s id r →
    (∀ m, r.ent.opcode = opClaim → r.ent.a = nullHandle → findModel s r.ent.b = some m →
      let parting := s.comps.any (fun c => (mapMember c.map (self s)).any (·.parting))
      let n := newNumber s clsSeq (fun n => s.own.homes.any (fun x => hNum x.desc.handle == n))
      let h := mkHandle (self s) clsSeq n.1
      let d : SeqRecord := {
        handle := h, owner := self s, partner := s.ident.partner, epoch := 1, version := 0, model := r.ent.b, pfx := nullHandle, prefixLen := 0,
        privateLen := 0, customer := r.ent.customer, cls := r.ent.prio, state := 0, target := noDevice, comp := 0xFFFF, layers := m.desc.layers,
        pages := List.replicate m.desc.layers [] }
      (parting = true → exec (.claimCreate id) s = .next (finish s id Code.cmpParting)) ∧
      (parting = false → granuleRoom s (recordGranules d) = false → exec (.claimCreate id) s = .next (finish s id Code.memExhausted)) ∧
      (parting = false → granuleRoom s (recordGranules d) = true →
        exec (.claimCreate id) s = .next (retag s (homeUpdate (await { n.2 with own := { n.2.own with
          homes := n.2.own.homes ++ [{ desc := d, queue := [], inflight := none, unmirrored := false, damaged := false, castleComp := 0, before := noDevice, arb := none, due := 0 }],
          copies := n.2.own.copies ++ [newCopy h .owner 1 d r.ent.b m.desc.layers] } } id) h (.create d) (.here (.claim id)))))) ∧
    (r.ent.opcode = opClaim → r.ent.a ≠ nullHandle → mustWait s r = false →
      (findCopy s r.ent.a = none → exec (.claimAssert id) s = .next (finish s id Code.ownNotOwner)) ∧
      (∀ c, findCopy s r.ent.a = some c → c.st = .owner → c.epoch ≠ 0xFFFFFFFF → exec (.claimAssert id) s = .next (retag s (finishOwn s id 0 r.ent.a (self s) c.epoch))) ∧
      (∀ c, findCopy s r.ent.a = some c → c.epoch = 0xFFFFFFFF → exec (.claimAssert id) s = .next (finish s id Code.tzRights)) ∧
      (∀ c, findCopy s r.ent.a = some c → c.st = .stale → c.epoch ≠ 0xFFFFFFFF →
        let s1 := modCopy (await s id) r.ent.a (fun c => { c with claimInstr := some id })
        let st := sideStatus s1 r.ent.a (self s) 2
        ((findHome s1 r.ent.a).isSome = true → exec (.claimAssert id) s = .next (retag s (startArb s1 r.ent.a st))) ∧
        ((findHome s1 r.ent.a).isSome = false →
          exec (.claimAssert id) s = .next (retag s (toHome s1 c.desc.comp r.ent.a (.ask st.epoch st.complete 2 false st.entries)))))) ∧
    (∀ c, r.ent.opcode = opCastle → mustWait s r = false → updatesDone s r.ent.a = true → findCopy s r.ent.a = some c →
      let target := r.ent.b % 2 ^ 15
      let comp := r.ent.b / 2 ^ 16 % 2 ^ 12
      (c.st ≠ .owner → exec (.castle id) s = .next (finish s id Code.ownNotOwner)) ∧
      (c.st = .owner → target = self s ∨ 0xFFFFFFFE ≤ c.epoch → exec (.castle id) s = .next (finish s id Code.tzRights)) ∧
      (∀ m, c.st = .owner → target ≠ self s → c.epoch < 0xFFFFFFFE → (membership? s comp).bind (fun x => mapMember x.map target) = some m →
        (inComp s comp target = true → m.pers ≠ 2 → exec (.castle id) s = .next (finish s id Code.tzRights)) ∧
        (inComp s comp target = true → m.pers = 2 → m.parting = true → exec (.castle id) s = .next (finish s id Code.cmpParting)) ∧
        (inComp s comp target = true → m.pers = 2 → m.parting = false →
          exec (.castle id) s = .next (retag s (changeRecord
            (modCopy (await s id) r.ent.a (fun c => { c with peer := target, castleComp := comp, castleInstr := some id })) r.ent.a (.setState 1 target comp) .castleOffer)))))

/-- A castle's messages, from OFFER to TAKEN, and the castle timeout: what owner and target hold after each (R223; R224; R225; R226; R227; R228). -/
def Obligations.CastlingMessages : Prop :=
  ∀ (s : State) (h : Hdr) (x : Handle),
    let u := (arrive s h).1
    (∀ epoch comp a b model desc,
      (inComp u comp h.src = false → Handled (.offer h x epoch comp a b model desc) s h (control u h.src x (.decline epoch Code.cmpNotMember))) ∧
      (inComp u comp h.src = true → u.pers ≠ some .generation ∨ (findCopy u x).any (fun c => c.st != .stale) = true ∨ refusesFrames u = true ∨ freeFrames u < lowWater u →
        Handled (.offer h x epoch comp a b model desc) s h (control u h.src x (.decline epoch Code.memExhausted))) ∧
      (∀ s1 m created s2 nums, inComp u comp h.src = true → u.pers = some .generation → (findCopy u x).any (fun c => c.st != .stale) = false → refusesFrames u = false → lowWater u ≤ freeFrames u →
        adoptModel (dropCopy u x) model = some (s1, m, created) → reserveAll x m.desc s1 0 desc.pages = some (s2, nums) →
        Handled (.offer h x epoch comp a b model desc) s h (maybeAccept (sendPulls 256 (armCastle { s2 with own := { s2.own with copies := s2.own.copies ++
          [{ newCopy x .pulling epoch desc (modelHandle s2 m) desc.pages.length with
             pages := nums, peer := h.src, castleComp := comp,
             pulls := desc.pages.zipIdx.flatMap (fun l => l.1.zipIdx.map (fun e => ({ layer := l.2, index := e.2, entry := e.1 } : EntryItem))),
             weightPulls := if created then List.range m.weightPages else [] }] } } x) x) x))) ∧
    (∀ c epoch, findCopy u x = some c → c.epoch = epoch → c.peer = h.src →
      (∀ code, c.st = .offered ∨ c.st = .pulled → Handled (.decline h x epoch code) s h (castleEnds u x code)) ∧
      (∀ m p entry, c.st = .offered ∨ c.st = .pulled → findModel u c.model = some m → findPage (armCastle (modCopy u x (fun c => { c with st := .pulled })) x) entry.number = some p →
        unreadable (armCastle (modCopy u x (fun c => { c with st := .pulled })) x) p = false →
        let s1 := armCastle (modCopy u x (fun c => { c with st := .pulled })) x
        Handled (.pull h x epoch 0 entry) s h (controlVia (setPage s1 { p with lastRead := s1.now }) c.castleComp h.src x (.page epoch 0 entry (pageBytes (rowBytes m.desc) (perPage m.desc) p)))) ∧
      (∀ m layer index n entry bytes, c.st = .pulling → findModel u c.model = some m →
        c.desc.pages.zipIdx.findSome? (fun l => (l.1.zipIdx.find? (fun e => e.1.number == entry.number)).map (fun e => (l.2, e.2))) = some (layer, index) →
        (c.pages.getD layer [])[index]? = some n →
        Handled (.page h x epoch 0 entry bytes) s h (maybeAccept (sendPulls 256 (armCastle (modCopy
          { u with pages := mapIf (fun p => p.number == n) (fun p => { p.written with rows := rowsOfBytes (rowBytes m.desc) entry.tokens bytes, tokens := entry.tokens }) u.pages } x
          (fun c => { c with outstanding := c.outstanding - 1, tries := 0 })) x) x) x)) ∧
      (∀ entries, c.st = .offered → Handled (.accept h x epoch entries) s h u) ∧
      (∀ entries, c.st = .pulled →
        Handled (.accept h x epoch entries) s h (sendCommit (armCastle (modCopy u x (fun c => { c with
          st := .committing, tries := 0, desc := { c.desc with pages := relist (c.desc.pages.map List.length) entries } })) x) x epoch h.src c.castleComp entries)) ∧
      (∀ code, c.st = .pulling ∨ c.st = .accepted → Handled (.abort h x epoch code) s h (dropCopy (freeCopyPages u x) x)) ∧
      (∀ code, c.st = .offered ∨ c.st = .pulled → Handled (.abort h x epoch code) s h (castleEnds u x code))) ∧
    (∀ r epoch target entries, findHome (asHome u x) x = some r → h.src ≠ u.ident.partner → (asHome u x).ident = u.ident →
      Handled (.commit h x epoch target entries) s h (homeAsk (asHome u x) x (some (h.src, epoch)) (.commit target r.castleComp entries) (.committed h.src))) ∧
    (∀ c epoch code version, findCopy u x = some c →
      (c.st ≠ .committing → Handled (.committed h x epoch code version) s h u) ∧
      (c.st = .committing → Handled (.committed h x epoch code version) s h (if code = 0 then ownerCommitted u x epoch else fenceCopy u x code))) ∧
    (∀ c epoch, findCopy u x = some c → c.st = .accepted → c.peer = h.src →
      let t := becomeOwner { u with own := { u.own with castlesIn := wrapAdd 32 u.own.castlesIn 1 } } x epoch (if c.desc.comp = 0xFFFF then c.castleComp else c.desc.comp)
      Handled (.take h x epoch) s h (controlVia t c.castleComp h.src x (.taken epoch)) ∧
        (findCopy t x).map (fun c => (c.st, c.epoch, c.peer, c.desc.owner)) = some (.owner, epoch, noDevice, self u) ∧ t.own.castlesIn = wrapAdd 32 u.own.castlesIn 1) ∧
    (∀ c epoch id, findCopy u x = some c → c.st = .freed → c.peer = h.src → c.castleInstr = some id →
      Handled (.taken h x epoch) s h (finishOwn (dropCopy { u with own := { u.own with castlesOut := wrapAdd 32 u.own.castlesOut 1 } } x) id 0 x h.src epoch)) ∧
    (∀ c, s.halted = false → paused s = false → findCopy s x = some c →
      (s.now < c.due → exec (.castleTimeoutExpiry x) s = .next s) ∧
      (c.due ≤ s.now → c.st = .offered ∨ c.st = .pulled → exec (.castleTimeoutExpiry x) s =
        .next (retag s (castleEnds (controlVia s c.castleComp c.peer x (.abort c.epoch Code.xptRetryExceeded)) x Code.xptRetryExceeded))) ∧
      (c.due ≤ s.now → c.st = .pulling → exec (.castleTimeoutExpiry x) s =
        .next (retag s (dropCopy (freeCopyPages (controlVia s c.castleComp c.peer x (.abort c.epoch Code.xptRetryExceeded)) x) x))) ∧
      (c.due ≤ s.now → c.st = .committing → c.tries = 0 → exec (.castleTimeoutExpiry x) s =
        .next (retag s (armCastle (modCopy (control s c.desc.partner x (.commit c.epoch c.peer c.desc.pages.flatten)) x (fun c => { c with tries := 1 })) x))) ∧
      (∀ id, c.due ≤ s.now → c.st = .committing → c.tries ≠ 0 → c.castleInstr = some id → exec (.castleTimeoutExpiry x) s =
        .next (retag s (finishOwn (modCopy s x (fun c => { c with st := .owner, castleInstr := none, peer := noDevice, tries := 0 })) id Code.ownCastleTimeout x (self s) c.epoch))))

/-- The home asks both sides, rules once none is held, and a side obeys the ruling (R134; R229; R230; R231; R240). -/
def Obligations.ArbitrationRows : Prop :=
  (∀ (s : State) (h : Hdr) (x : Handle),
    let u := (arrive s h).1
    (∀ epoch complete side entries,
      let c : CopyStatus := { device := h.src, side := side, complete := complete, epoch := epoch, entries := entries }
      Handled (.ask h x epoch complete side true entries) s h (modHome (asHome u x) x (fun r => { r with arb := r.arb.map (fun a => { a with
        statuses := a.statuses.filter (fun y => !(y.device == h.src)) ++ [c], held := a.held.filter (fun d => d != h.src) }) })) ∧
      Handled (.ask h x epoch complete side false entries) s h (startArb (asHome u x) x c)) ∧
    (∀ epoch, findCopy s x = none → Handled (.hold h x epoch) s h (control u h.src x (.ask 0 false 0 true []))) ∧
    (∀ epoch owner code, Handled (.ruling h x epoch owner code) s h (rulingAtSide u x epoch owner code))) ∧
  (∀ (s : State) (x : Handle) (d : Nat), s.halted = false → paused s = false →
    exec (.arbiterHoldExpiry x d) s = .next (modHome s x (fun r => { r with arb := r.arb.map (fun a => if s.now < a.due then a else { a with held := a.held.filter (fun y => y != d) }) }))) ∧
  (∀ (s : State) (x : Handle) (r : HomeRec) (a : Arbiter), s.halted = false → paused s = false → findHome s x = some r → r.arb = some a →
    (r.queue ≠ [] ∨ (a.ask.isSome = true ∧ a.held ≠ []) → exec (.arbiterRule x) s = .next s) ∧
    (∀ c, a.ask = some c → a.held = [] → r.queue = [] →
      let s1 := modHome s x (fun r => { r with arb := if a.asks.isEmpty then none else some { a with ask := none } })
      (c.side ≠ 2 → exec (.arbiterRule x) s = .next (retag s (rule s1 x r a))) ∧
      (c.side = 2 → exec (.arbiterRule x) s = .next (retag s (ruleAssert s1 x r a c)))) ∧
    (∀ c l, a.ask = none → r.queue = [] → a.asks = c :: l → exec (.arbiterRule x) s = .next (retag s (serveAsk s x r c l)))) ∧
  (∀ (s : State) (x : Handle) (r : HomeRec) (c : CopyStatus), findHome s x = some r →
    (r.arb = none → startArb s x c = serveAsk s x r c []) ∧
    (∀ a, r.arb = some a → startArb s x c = modHome s x (fun r => { r with arb := some { a with
      asks := a.asks ++ [c], statuses := a.statuses.filter (fun y => !(y.device == c.device)) ++ [c], held := a.held.filter (fun d => d != c.device) } })) ∧
    (r.desc.owner = c.device → r.desc.target = noDevice →
      serveAsk s x r c [] = modHome (homeUpdate s x (.setState 3 noDevice 0) .none) x (fun y => { y with arb := some {
        ask := some c, prior := (r.desc.state, r.desc.target, r.castleComp), sides := [c.device], asks := [], statuses := [c], held := [], due := s.now + castleTo s } }))) ∧
  (∀ (s : State) (x : Handle) (r : HomeRec) (a : Arbiter),
    let sides := a.sides.filter (fun d => d == self s || present s d)
    let ok := a.statuses.any (fun c => c.device == r.desc.owner && c.complete && (c.epoch == r.desc.epoch || c.epoch + 1 == r.desc.epoch))
    (ok = true → rule s x r a = homeUpdate (countRuling s false) x (.ruling r.desc.owner r.desc.epoch none)
      (.ruled r.desc.owner r.desc.epoch (sides.map (fun d => (d, Code.ownStalemateResolved))))) ∧
    (∀ c, ok = false → newestCopy (a.statuses.filter (fun c => c.device != r.desc.owner)) = some c →
      rule s x r a = homeUpdate (countRuling s false) x (.ruling c.device (r.desc.epoch + 1) (some c.entries))
        (.ruled c.device (r.desc.epoch + 1) (sides.map (fun d => (d, Code.ownStalemateResolved))))) ∧
    (ok = false → newestCopy (a.statuses.filter (fun c => c.device != r.desc.owner)) = none → rule s x r a = ruleLost s x sides)) ∧
  (∀ (l : List CopyStatus) (c : CopyStatus), newestCopy l = some c → c ∈ l ∧ c.complete = true ∧ ∀ d ∈ l, d.complete = true → d.epoch ≤ c.epoch)

/-- Records and mirrors: ENTRIES, RELEASE and RECORD with their answers, the mirror's deletion, the retry (R23; R34; R215; R216; R217; R218; R497). -/
def Obligations.RecordRows : Prop :=
  (∀ (s : State) (h : Hdr) (x : Handle),
    let u := (arrive s h).1
    let v := asHome u x
    (∀ epoch kind state target comp items r, findHome v x = some r →
      let upd : RecUpd := match kind with
        | 0 => .add items
        | 1 => .change items
        | 2 => .remove items
        | _ => .setState state target comp
      Handled (.entries h x epoch kind state target comp items) s h (homeAsk v x (some (h.src, epoch)) upd (.entriesAck h.src))) ∧
    (∀ c k ks epoch version, findCopy u x = some c → c.waits = k :: ks →
      Handled (.entriesAck h x epoch 0 version) s h (walksOn (runCont (modCopy u x (fun c => { c with waits := ks })) x k.2)) ∧
      (∀ code, code ≠ 0 → Handled (.entriesAck h x epoch code version) s h (walksOn (contRefused (modCopy u x (fun c => { c with waits := ks })) x k.2 code)))) ∧
    (∀ r epoch, findHome v x = some r → Handled (.release h x epoch) s h (homeAsk v x (some (h.src, epoch)) .delete (.released h.src))) ∧
    (∀ r epoch code, u.tz.started.find? (fun r => r.ent.opcode == opPevict && r.ent.flag 4 && r.ent.a == x && decide (r.phase = .waiting)) = some r →
      let t := { u with own := { u.own with releasing := u.own.releasing.filter (fun w => !(w.handle == x)) } }
      Handled (.released h x epoch code) s h (finish (if code = Code.ownNotOwner then t else dropCopy t x) r.id code)) ∧
    (∀ version desc, findHome u x = none → s.own.mirrors.find? (fun m => m.handle == x) = none → granuleRoom s (recordGranules desc) = true →
      Handled (.record h x version desc) s h (control { u with own := { u.own with
        mirrors := u.own.mirrors.filter (fun m => !(m.handle == x)) ++ [desc] } } h.src x (.recordAck 0 version))) ∧
    (∀ version desc m, findHome u x = none → s.own.mirrors.find? (fun m => m.handle == x) = some m → version ≤ m.version →
      Handled (.record h x version desc) s h (control u h.src x (.recordAck 0 m.version))) ∧
    (∀ r version, findHome u x = some r → r.inflight = some version → Handled (.recordAck h x 0 version) s h (walksOn (pumpAll (applyHead u x) x))) ∧
    (∀ r version, findHome u x = some r → r.inflight ≠ some version → r.inflight.any (fun v => decide (v < version)) = false → Handled (.recordAck h x 0 version) s h u) ∧
    (∀ version, Handled (.recordDelete h x version) s h
      (control { u with own := { u.own with mirrors := u.own.mirrors.filter (fun m => !(m.handle == x && decide (m.version < version))) } } h.src x (.recordAck 0 version)))) ∧
  (∀ (s : State) (x : Handle) (r : HomeRec) (w : QueuedUpd) (rest : List QueuedUpd) (n : Nat), findHome s x = some r → r.queue = w :: rest → r.inflight = none →
    (∀ o e, w.under = some (o, e) → o ≠ r.desc.owner ∨ e ≠ r.desc.epoch → headCode s r w = Code.ownNotOwner) ∧
    (headCode s r w ≠ 0 → pump (n + 1) s x = pump n (refuseAns (modHome s x (fun r => { r with queue := rest })) x r.desc (headCode s r w) w.ans) x) ∧
    (∀ d, headCode s r w = 0 → partnerUp s = true → applyUpd (homePer s r.desc) w.upd r.desc = some d →
      pump (n + 1) s x = control (modHome s x (fun y => { y with inflight := some (r.desc.version + 1), due := s.now + castleTo s })) s.ident.partner x (.recordMsg d.version d)) ∧
    (headCode s r w = 0 → partnerUp s = false → pump (n + 1) s x = pump n (applyHead (modHome s x (fun r => { r with unmirrored := true })) x) x)) ∧
  (∀ (s : State) (x : Handle) (r : HomeRec) (v : Nat) (e : QueuedUpd) (q : List QueuedUpd), s.halted = false → paused s = false → findHome s x = some r → r.inflight = some v →
    r.queue = e :: q →
    (partnerUp s = true → s.now < r.due → exec (.mirrorRetryTimeout x) s = .next s) ∧
    (partnerUp s = false →
      exec (.mirrorRetryTimeout x) s = .next (retag s (pumpAll (applyHead (modHome s x (fun r => { r with unmirrored := true, inflight := none })) x) x))) ∧
    (partnerUp s = true → r.due ≤ s.now → (∀ d, e.upd ≠ .create d) →
      exec (.mirrorRetryTimeout x) s = .next (retag s (pumpAll (control (modHome s x (fun y => { y with desc := { r.desc with version := v + 1 }, inflight := none })) s.ident.partner x
        (.recordMsg (v + 1) { r.desc with version := v + 1 })) x))) ∧
    (∀ d id, partnerUp s = true → r.due ≤ s.now → e.upd = .create d → e.ans = .here (.claim id) →
      exec (.mirrorRetryTimeout x) s =
        .next (retag s (finish (dropCopy { s with own := { s.own with homes := s.own.homes.filter (fun y => !(y.desc.handle == x)) } } x) id Code.ownCastleTimeout))))

/-- Pre-emption chooses sequences only under G below LOW_WATER, and swaps each whose work has come to rest (R234; R235; R236; R237; R469). -/
def Obligations.PreemptionRows : Prop :=
  (∀ s : State, s.halted = false → paused s = false →
    let s0 := rearm s
    (lowWater s < freeFrames s → s0.own.preemptStop = false) ∧ (freeFrames s ≤ lowWater s → s0 = s) ∧
    let on_ := bitOf (s0.regs.get 0x00000A0100180010 0x804008) 32
    (s0.pers ≠ some .generation ∨ on_ = false ∨ s0.own.preemptStop = true ∨ s0.own.preempting ≠ [] ∨ (lowWater s0 ≤ freeFrames s0 ∧ s0.own.short = false ∧ s0.til.walks = []) → exec .preemption s = .next s0) ∧
    (s0.pers = some .generation → on_ = true → s0.own.preemptStop = false → s0.own.preempting = [] → freeFrames s0 < lowWater s0 ∨ s0.own.short = true ∨ s0.til.walks ≠ [] →
      exec .preemption s = .next (retag s (chooseNext { s0 with own := { s0.own with short := false } })))) ∧
  (∀ (s : State) (x : Handle) (c : SeqCopy), s.halted = false → paused s = false → findCopy s x = some c →
    let busy := s.tz.started.any (fun r => (objectsOf s r.ent r.blk).contains x && decide (r.id < c.swapMark) && (decide (r.phase = .ready) || decide (r.phase = .waiting)))
    (s.own.preempting.contains x = false ∨ busy = true ∨ updatesDone s x = false → exec (.sequenceSwap x) s = .next s) ∧
    (s.own.preempting.contains x = true → busy = false → updatesDone s x = true →
      let m := swapPages (2 * s.pages.length + 1) s x
      let s1 := ownLog m.1 x Code.ownPreemptedSwapped (self s) c.epoch
      let s2 := { s1 with own := { s1.own with preemptions := wrapAdd 32 s1.own.preemptions 1, preemptStop := s1.own.preemptStop || !m.2 } }
      (∀ c', findCopy s2 x = some c' → itemsFor s2 c' (entriesChanged s2 s.pages) = [] →
        exec (.sequenceSwap x) s = .next (retag s (walksOn (let t := runCont s2 x .swapEnd; if m.2 then chooseNext t else t)))) ∧
      (∀ c' i l, findCopy s2 x = some c' → itemsFor s2 c' (entriesChanged s2 s.pages) = i :: l →
        exec (.sequenceSwap x) s = .next (retag s (walksOn (let t := changeRecord s2 x (.change (i :: l)) .swapEnd; if m.2 then chooseNext t else t)))))) ∧
  (∀ (s : State) (a b : SeqCopy), b.desc.cls < a.desc.cls → chosenBefore s a b = true ∧ chosenBefore s b a = false) ∧
  (∀ s : State, highWater s ≤ freeFrames s → chooseNext s = s)

/-- PMATCH and the messages of a lookup: who serves it, who creates the draft, who keeps the map and the reference (R24; R34; R110; R121; R123; R124; R383; R386). -/
def Obligations.LookupRows : Prop :=
  (∀ (s : State) (id : Nat) (r : Running), Begun s id r → r.ent.opcode = opPmatch →
    let comp := r.ent.b % 2 ^ 12
    (membership? s comp = none → exec (.pmatch id) s = .next (finish s id Code.cmpNotMember)) ∧
    (∀ m bs, membership? s comp = some m → inComp s comp (self s) = true → bufRead s (bufAt r.blk 16) 0 (16 * fieldBytes r.blk 4 4) rRead = .ok bs →
      resultAccess s r = 0 →
      let a := acceptResult s r
      let digests := (chunks 16 (fieldBytes r.blk 4 4) bs).map leVal
      (∀ s', m.map.index ≠ self s → sendTo a m.map.index 1 r.ent.a (.lookup comp (r.ent.flag 4) (r.ent.a != nullHandle) digests) (some id) = .ok s' →
        exec (.pmatch id) s = .next (retag s (await s' id))) ∧
      (m.map.index = self s → (serveLookup a comp (r.ent.flag 4) (r.ent.a != nullHandle) digests (self s)).2.2 = none →
        let x := serveLookup a comp (r.ent.flag 4) (r.ent.a != nullHandle) digests (self s)
        exec (.pmatch id) s = .next (retag s (matchDone x.1 r x.2.1))))) ∧
  (∀ (s : State) (h : Hdr) (x : Handle),
    let u := (arrive s h).1
    let nothing : MatchResult := { matched := 0, node := nullHandle, baseVersion := 0, draft := nullHandle, holders := [], shardBlocks := 0 }
    (∀ comp reserve takeRef digests m, membership? u comp = some m →
      (m.map.index ≠ self u ∨ mapMember m.map h.src = none →
        Handled (.lookup h x comp reserve takeRef digests) s h (control u h.src x (.lookupResult Code.cmpNotMember nothing))) ∧
      (m.map.index = self u → (mapMember m.map h.src).isSome = true → (serveLookup u comp reserve takeRef digests h.src).2.2 = none →
        let y := serveLookup u comp reserve takeRef digests h.src
        Handled (.lookup h x comp reserve takeRef digests) s h (control y.1 h.src x (.lookupResult 0 y.2.1)))) ∧
    (∀ r code result, waitingMatch u x = some r →
      Handled (.lookupResult h x code result) s h (if code ≠ 0 then finish u r.id code else matchDone u r result)) ∧
    (∀ device digests, findHold u x = none → Handled (.reserve h x device digests) s h (control u h.src x (.reserved Code.tzBadHandle nullHandle))) ∧
    (∀ device digests n, findHold u x = some n → partingIn u h.comp = false →
      let d := createDraft u h.comp x digests device (some n.model) 0
      Handled (.reserve h x device digests) s h (control d.1 h.src x (.reserved 0 d.2)) ∧
      (∃ e, d.1.rgn.drafts = u.rgn.drafts ++ [e] ∧ e.handle = d.2 ∧ e.parent = x ∧ e.digests = digests ∧ e.reserver = device ∧ e.model = some n.model ∧
        hHome d.2 = self u % 2 ^ 15 ∧ e.holds = 0 ∧ e.publisher = none)) ∧
    (∀ l draft, u.rgn.lookups.find? (fun l => l.result.node == x) = some l → l.requester ≠ self u →
      let s2 := countDraft { u with rgn := { u.rgn with lookups := u.rgn.lookups.erase l } } x 1
      Handled (.reserved h x 0 draft) s h (control s2 l.requester l.subject (.lookupResult 0 { l.result with draft := draft }))) ∧
    (∀ n, findHold u x = some n → Handled (.shardMapReq h x) s h (control u h.src x (.shardMap 0 n.holders n.shardBlocks))) ∧
    (findHold u x = none → Handled (.shardMapReq h x) s h (control u h.src x (.shardMap Code.tzBadHandle [] 0))) ∧
    (∀ holders blocks, u.tz.started.find? (fun r => r.ent.opcode == opPcopy && r.ent.a == x && decide (r.phase = .waiting) && r.aux == 0) = none →
      ∃ t, Handled (.shardMap h x 0 holders blocks) s h t ∧
        t.rgn.maps.find? (fun y => y.node == x) = some { node := x, holders := holders, shardBlocks := blocks, matched := holders.length * blocks, exact := false, model := (u.rgn.maps.find? (fun y => y.node == x)).bind (·.model) } ∧
        t.pages = u.pages ∧ t.dev = u.dev ∧ t.host = u.host) ∧
    (∀ change, Handled (.ref h x change) s h (refNode u x change)))

/-- From PUBLISH of a draft node to the node's place in the tree: each message, and what it leaves (R27; R131; R382; R384; R385; R386; R637). -/
def Obligations.PublishingRows : Prop :=
  (∀ (s : State) (id : Nat) (r : Running) (d : DraftNode) (m : Model) (mem : Membership), Begun s id r → r.ent.opcode = opPublish → hCls r.ent.a = clsNode →
    mustWait s r = false → hHome r.ent.a = self s → s.rgn.drafts.find? (fun d => d.handle == r.ent.a) = some d → d.reserver = (writerOf s r).device → d.holds = 0 →
    boundModel s d.handle = some m → membership? s d.comp = some mem →
    (draftConflict s d (r.ent.b % 2 ^ 48) = true →
      exec (.publishDraftNode id) s = .next (finish { s with rgn := { s.rgn with conflicts := satAdd 0xFFFF s.rgn.conflicts 1 } } id Code.pubConflict)) ∧
    (draftConflict s d (r.ent.b % 2 ^ 48) = false → draftWhole s d m.desc (pathBlocks s d - d.digests.length) = false →
      exec (.publishDraftNode id) s = .next (finish s id Code.tzFormat)) ∧
    (draftConflict s d (r.ent.b % 2 ^ 48) = false → draftWhole s d m.desc (pathBlocks s d - d.digests.length) = true →
      let d' := { d with publisher := some id, awaiting := [], failed := [], baseVersion := r.ent.b % 2 ^ 48 }
      exec (.publishDraftNode id) s = .next (retag s (distributionDone (distributeAll { await s id with rgn := { s.rgn with
        drafts := mapIf (fun x => x.handle == d.handle) (fun _ => d') s.rgn.drafts } } d' m.desc mem.map) d.handle)) ∧
      ((shardMapOf mem.map (self s) (pathBlocks s d)).1 = [self s] → (mapMember mem.map (self s)).map (·.partner) = some noDevice → mem.map.index = self s →
        ∃ t, exec (.publishDraftNode id) s = .next t ∧ (findNode t d.handle).isSome = true ∧ (findHold t d.handle).isSome = true ∧
          t.rgn.drafts.find? (fun d => d.handle == r.ent.a) = none ∧ (findRun t id).map (·.phase) = some (.done 0)))) ∧
  (∀ (s : State) (h : Hdr) (x : Handle),
    let u := (arrive s h).1
    (∀ layer first count bytes, boundModel u x = none →
      Handled (.distribute h x layer first count bytes none) s h (control u h.src x (.distributed Code.tzBadHandle))) ∧
    (∀ layer first count bytes m, boundModel u x = some m →
      let kind : PageKind := if u.rgn.drafts.any (fun d => d.handle == x) then .draft else .shard
      let y := (blockPages m.desc first bytes).foldl (fun acc p => if acc.2 ≠ 0 then acc else storeNodePage acc.1 x kind m.desc layer p.1 p.2.1 p.2.2) (u, 0)
      Handled (.distribute h x layer first count bytes none) s h (control (if y.2 = 0 then extendHold y.1 x first count else y.1) h.src x (.distributed y.2)) ∧
      (∀ index slot bs p, blockPages m.desc first bytes = [(index, slot, bs)] → u.pages.find? (fun p => p.obj == x && p.layer == layer && p.index == index) = some p →
        ∃ t, Handled (.distribute h x layer first count bytes none) s h (control t h.src x (.distributed 0)) ∧
          ∃ q ∈ t.pages, q.number = p.number ∧ q.kind = kind ∧
            ∀ k, k < bs.length / max 1 (rowBytes m.desc) → Tbl.find q.rows (slot + k) = some (sliceBytes bs (k * rowBytes m.desc) (rowBytes m.desc)))) ∧
    (∀ layer first count bytes d s1 m c, adoptModel u d = some (s1, m, c) → s1.rgn.drafts.find? (fun d => d.handle == x) = none → findHold s1 x = none →
      Handled (.distribute h x layer first count bytes (some d)) s h (control { s1 with rgn := { s1.rgn with holds := s1.rgn.holds ++ [{
        handle := x, comp := h.comp, parent := nullHandle, model := modelHandle s1 m, blocks := 0, first := 0, count := 0, holders := [], shardBlocks := 0, digest := 0, since := 0 }] } }
        h.src x (.distributed 0))) ∧
    (∀ ancestor first count, boundModel u x = none → Handled (.share h x ancestor first count) s h (control u h.src x (.distributed Code.tzBadHandle))) ∧
    (∀ ancestor first count m, boundModel u x = some m →
      let per := perPage m.desc
      let chain := nodeChain u 64 ancestor
      (∀ l i, l < m.desc.layers → i < ceilDiv (count * 64) per → u.pages.any (fun p => chain.contains p.obj && p.layer == l && p.index == first * 64 / per + i) = true) →
      ∃ t, Handled (.share h x ancestor first count) s h (control t h.src x (.distributed 0)) ∧
        t.pages = mapIf (fun p => chain.contains p.obj && (p.kind == .shard || p.kind == .draft) &&
          decide (first * 64 < (p.index + 1) * per ∧ p.index * per < (first + count) * 64)) (fun p => { p with refs := p.refs + 1 }) u.pages) ∧
    (∀ d code, u.rgn.drafts.find? (fun d => d.handle == x && d.awaiting.contains h.src) = some d →
      let d' := { d with awaiting := d.awaiting.erase h.src, failed := if code = 0 then d.failed else d.failed ++ [(h.src, code)] }
      let t := { u with rgn := { u.rgn with drafts := mapIf (fun y => y.handle == x) (fun _ => d') u.rgn.drafts } }
      Handled (.distributed h x code) s h (distributionDone t x) ∧
      (d.awaiting.erase h.src ≠ [] → u.rgn.drafts.find? (fun d => d.handle == x) = some d → Handled (.distributed h x code) s h t) ∧
      (∀ mem, code = 0 → d.awaiting = [h.src] → d.failed = [] → d.publisher.isSome = true → u.rgn.drafts.find? (fun d => d.handle == x) = some d →
        membership? u d.comp = some mem → mem.map.index ≠ self u →
        Handled (.distributed h x 0) s h (control t mem.map.index x (.indexCommit (commitBody t d' mem.map))))) ∧
    (∀ c,
      (commitConflict u h.comp c = true → h.src ≠ self u → Handled (.indexCommit h x c) s h
        (control u h.src x (.indexCommitted Code.pubConflict (match findNode u c.parent with | some p => p.version | none => rootVersionOf u h.comp)))) ∧
      (∀ me, commitConflict u h.comp c = false → h.src ≠ self u → (membership? u h.comp).bind (fun m => mapMember m.map (self u)) = some me →
        (me.partner = noDevice → Handled (.indexCommit h x c) s h (control (enterNode u h.comp x c).1 h.src x (.indexCommitted 0 (enterNode u h.comp x c).2))) ∧
        (me.partner ≠ noDevice → me.partner ≠ self u → present u me.partner = true → Handled (.indexCommit h x c) s h (control
          { u with rgn := { u.rgn with treeWaits := u.rgn.treeWaits ++ [{ node := x, commit := some c, answer := h.src, comp := h.comp }] } } me.partner x (.treeMsg 1 (some c) 0))))) ∧
    (∀ d mem version, u.rgn.drafts.find? (fun d => d.handle == x) = some d → membership? u d.comp = some mem →
      let t := publishDone u d mem.map (d.model.getD nullHandle) version
      (Handled (.indexCommitted h x 0 version) s h t ∧ t.rgn.drafts.find? (fun d => d.handle == x) = none ∧ (findHold t x).isSome = true) ∧
      (∀ code, code ≠ 0 → ∃ t, Handled (.indexCommitted h x code version) s h t ∧ (t.rgn.drafts.find? (fun d => d.handle == x)).map (·.publisher) = some none)))

/-- Nodes enter the tree, are looked up, conflict, retire and are mirrored: what each changes, and no other node (R131; R382; R383; R385; R386; R387; R497). -/
def Obligations.IndexTree : Prop :=
  (∀ (s : State) (comp : Nat) (h : Handle) (c : NodeCommit),
    let t := (enterNode s comp h c).1
    let v := (enterNode s comp h c).2
    (∃ n, n ∈ t.rgn.tree ∧ n.handle = h ∧ n.version = 1 ∧ n.refs = 0 ∧ n.parent = c.parent ∧ n.digests = c.digests ∧ n.holders = c.holders ∧ n.seqNo = v) ∧
    (c.parent = nullHandle → (∀ n ∈ s.rgn.tree, n.handle ≠ nullHandle) → v = rootVersionOf s comp + 1 ∧ rootVersionOf t comp = v) ∧
    (∀ n ∈ s.rgn.tree, n.handle ≠ c.parent → n ∈ t.rgn.tree) ∧
    (∀ i, i ≠ comp → rootVersionOf t i = rootVersionOf s i) ∧ t.pages = s.pages ∧ t.dev = s.dev ∧ t.host = s.host ∧ t.own = s.own) ∧
  (∀ (s : State) (comp : Nat) (parent : Handle) (digests : List Nat) (n : TreeNode), bestChild s comp parent digests = some n →
    n ∈ s.rgn.tree ∧ n.comp = comp ∧ n.parent = parent ∧ n.digests ≠ [] ∧ n.digests <+: digests ∧
    ∀ k ∈ s.rgn.tree, k.comp = comp → k.parent = parent → k.digests ≠ [] → k.digests <+: digests → k.digests.length ≤ n.digests.length) ∧
  (∀ (s : State) (comp : Nat) (c : NodeCommit), commitConflict s comp c = true ↔
    (∃ n ∈ s.rgn.tree, n.comp = comp ∧ n.parent = c.parent ∧ c.baseVersion < n.seqNo ∧ n.digests.head? = c.digests.head?) ∨
    (∃ w ∈ s.rgn.treeWaits, w.comp = comp ∧ ∃ k, w.commit = some k ∧ k.parent = c.parent ∧ k.digests.head? = c.digests.head?)) ∧
  (∀ (s : State) (h : Handle) (n : TreeNode), findNode s h = some n →
    (findNode (refNode (refNode s h 1) h (-1)) h).map (·.refs) = some n.refs) ∧
  (∀ (s : State) (h : Hdr) (x : Handle),
    let u := (arrive s h).1
    (∃ t, Handled (.retire h x) s h t ∧ t.pages = (dropVersion u x).pages ∧ findHold t x = none ∧ t.rgn.drafts.find? (fun d => d.handle == x) = none) ∧
    (∀ commit change, ∃ t, Handled (.tree h x 2 commit change) s h (control t h.src x (.treeAck 0)) ∧ t.rgn.mirrorTree = s.rgn.mirrorTree.filter (fun n => !(n.handle == x)) ∧
      t.rgn.tree = u.rgn.tree) ∧
    (∀ w c, u.rgn.treeWaits.find? (fun w => w.node == x) = some w → w.commit = some c → w.answer ≠ self u →
      let y := enterNode { u with rgn := { u.rgn with treeWaits := u.rgn.treeWaits.erase w } } w.comp x c
      Handled (.treeAck h x 0) s h (control y.1 w.answer x (.indexCommitted 0 y.2)))) ∧
  (∀ (s : State) (x : Handle) (n : TreeNode), s.halted = false → paused s = false → findNode s x = some n →
    let retain := fieldOf (s.regs.get 0x0E10 0x608008) 15 0
    (n.refs ≠ 0 ∨ retain = 0 ∨ s.now < n.freeSince + retain * 1000000 ∨ n.drafts ≠ 0 → exec (.nodeRetirement x) s = .next s) ∧
    (n.refs = 0 → retain ≠ 0 → n.freeSince + retain * 1000000 ≤ s.now → n.drafts = 0 → s.rgn.tree.any (fun y => y.parent == x) = false →
      s.rgn.drafts.any (fun d => d.parent == x) = false → exec (.nodeRetirement x) s = .next (retag s (retireNode s n))))

/-- Leases are renewed and run out, abandoned messages leave their drafts, relocated pages fold back, published pages are destaged (R128; R280; R370; R374; R378; R379; R380). -/
def Obligations.LeaseAndUpkeepRows : Prop :=
  (∀ (s : State) (h : Hdr) (items : List RenewItem),
    Handled (.renew h items) s h (items.foldl (fun s it => renewDraft s it.object { device := h.src, port := it.port, fn := it.fn }) (arrive s h).1)) ∧
  (∀ s : State, s.halted = false → paused s = false →
    (s.now < s.rgn.renewAt + leaseTerm s / 4 → exec .leaseRenewalTick s = .next s) ∧
    (s.rgn.renewAt + leaseTerm s / 4 ≤ s.now → (∀ l ∈ s.rgn.leases, s.orphans.contains l.port = true ∨ l.device = self s) →
      exec .leaseRenewalTick s = .next { s with rgn := { s.rgn with renewAt := s.now } }) ∧
    (∀ l s', s.rgn.renewAt + leaseTerm s / 4 ≤ s.now → s.rgn.leases = [l] → s.orphans.contains l.port = false → l.device ≠ self s →
      sendTo { s with rgn := { s.rgn with renewAt := s.now } } l.device 0 0 (.renew [{ object := l.object, port := l.port, fn := l.fn }]) none = .ok s' → exec .leaseRenewalTick s = .next (retag s s'))) ∧
  (∀ (s : State) (x : Handle) (device port fn : Nat), s.halted = false → paused s = false →
    (∀ i d, hCls x = clsRegion → regionIndex s x = some i → draftOf (getK s i) { device := device, port := port, fn := fn } = some d →
      (d.holds = 0 → publishing s x = false → d.renewed + d.term ≤ s.now → exec (.leaseExpiry x device port fn) s = .next (retag s (leaseLog
        (setK s i (endDraft (getK s i) { device := device, port := port, fn := fn } Code.pubLeaseExpired)) x { device := device, port := port, fn := fn }))) ∧
      (d.holds ≠ 0 ∨ publishing s x = true ∨ s.now < d.renewed + d.term → exec (.leaseExpiry x device port fn) s = .next s)) ∧
    (∀ d, hCls x ≠ clsRegion → s.rgn.drafts.find? (fun d => d.handle == x) = some d → d.holds = 0 → d.publisher = none → publishing s x = false → d.renewed + d.term ≤ s.now →
      exec (.leaseExpiry x device port fn) s = .next (retag s (leaseLog (dropDraft s x Code.pubLeaseExpired) x { device := device, port := port, fn := fn })))) ∧
  (∀ s : State, s.halted = false → (∀ q ∈ s.fab.qps, ∀ m ∈ q.rx, s.now < m.lastAt + 5000) → (∀ m ∈ s.fab.mrx, s.now < m.lastAt + 5000) →
    ∃ t, exec .messageAbandon s = .next t ∧ t.rgn = s.rgn ∧ t.fab.mrx = s.fab.mrx ∧ t.fab.qps.map (·.rx) = s.fab.qps.map (·.rx) ∧ t.dev = s.dev ∧ t.host = s.host) ∧
  (∀ (s : State) (i page : Nat), s.halted = false → paused s = false →
    (∀ u, (getK s i).relocated.find? (fun u => u.page == page) = some u → (getK s i).state = .live → braking s = false → olderRead s i = false →
      exec (.foldBack i page) s = .next (retag s (foldBack s i u))) ∧
    (braking s = true ∨ olderRead s i = true → exec (.foldBack i page) s = .next s) ∧
    ((getK s i).relocated.find? (fun u => u.page == page) = none → exec (.foldBack i page) s = .next s)) ∧
  (∀ s : State, s.halted = false → paused s = false →
    (s.pers ≠ some .cache ∨ s.cfgState = 5 → exec .destage s = .next s) ∧
    (∀ p x, s.pers = some .cache → s.cfgState ≠ 5 → s.ident.flash = false → s.pages = [p] → p.kind = .shard → p.tiers = [tStacks] → frameComing s p = false → copyInto s p tHost = some x →
      exec .destage s = .next (retag s (setPage x.1 x.2))))

/-- A map change from CMP_MAP_GO to RESULT: what proposer, leader and members do at each message and timeout (R482; R483; R484; R485; R486; R500). -/
def Obligations.MapAgreementRows : Prop :=
  (∀ (s : State) (who : Req) (v : W64), s.halted = false →
    let s1 := setReg s 0x800008 (BitVec.ofNat 64 (fieldOf v 63 12 * 4096))
    let m := mapNamed s1 (fieldOf v 63 12 * 4096)
    let s2 := { s1 with cmp := { s1.cmp with busy := some m.comp } }
    (isPhysical who = false → exec (.cmpMapGo who v) s = .next s) ∧
    (isPhysical who = true → bitOf v 0 = false ∨ s.cmp.busy.isSome = true → exec (.cmpMapGo who v) s = .next s1) ∧
    (∀ x, isPhysical who = true → bitOf v 0 = true → s.cmp.busy = none → mapCheck1 m = true → membership? s m.comp = some x →
      (leaderOf s x.map = self s → findChange s m.comp = none → m.baseEpoch = x.map.epoch →
        exec (.cmpMapGo who v) s = .next (retag s (leaderGo (startChange s2 m (self s2) false) m.comp))) ∧
      (leaderOf s x.map = self s → m.baseEpoch ≠ x.map.epoch →
        exec (.cmpMapGo who v) s = .next { s2 with cmp := { s2.cmp with busy := none, result := Code.cmpEpochConflict, voter := noDevice, epoch := x.map.epoch } }) ∧
      (leaderOf s x.map ≠ self s → exec (.cmpMapGo who v) s = .next (retag s (ctl s2 m.comp (leaderOf s x.map) (.propose m)))))) ∧
  (∀ (s : State) (h : Hdr),
    let u := (arrive s h).1
    (∀ map m, membership? u map.comp = some m →
      (leaderOf u m.map ≠ self u ∨ (findChange u map.comp).isSome = true ∨ map.baseEpoch ≠ m.map.epoch →
        HandledAs (.propose h map) s h (ctl u map.comp h.src (.result m.map.epoch Code.cmpEpochConflict noDevice)) 0) ∧
      (leaderOf u m.map = self u → findChange u map.comp = none → map.baseEpoch = m.map.epoch →
        HandledAs (.propose h map) s h (leaderGo (startChange u map h.src false) map.comp) 0) ∧
      (m.map.epoch = map.epoch → HandledAs (.prepare h map) s h (ctl u map.comp h.src (.applied map.epoch)) 0) ∧
      (m.map.epoch ≠ map.epoch → m.prepared ≠ some map → u.cmp.joins.contains map = false →
        HandledAs (.prepare h map) s h (ctl (if checkMap u map false = 0 then prepareMap u map else u) map.comp h.src (.vote map.epoch (checkMap u map false))) 0)) ∧
    (∀ c code, findChange u h.comp = some c → c.committed = false → c.takeover = false →
      (code ≠ 0 → HandledAs (.vote h c.map.epoch code) s h (leaderGo (abortChange u h.comp code h.src) h.comp) 0) ∧
      (HandledAs (.vote h c.map.epoch 0) s h (leaderGo (tryCommit (modChange u h.comp (fun x => { x with yes := x.yes ++ [h.src] })) h.comp) h.comp) 0)) ∧
    (∀ epoch m, knownMap u h.comp epoch = some m → (membership? u h.comp).any (fun x => x.map.epoch == epoch) = false →
      HandledAs (.compositionCommit h epoch) s h (ctl (applyMap u m) h.comp h.src (.applied epoch)) 0) ∧
    (∀ epoch code, HandledAs (.compositionAbort h epoch code) s h (dropPrepared u h.comp epoch) 0) ∧
    (∀ c, findChange u h.comp = some c → c.committed = true →
      HandledAs (.applied h c.map.epoch) s h (leaderGo (tryEnd (modChange u h.comp (fun x => { x with applied := x.applied ++ [h.src] })) h.comp) h.comp) 0) ∧
    (∀ epoch code voter, HandledAs (.compositionResult h epoch code voter) s h (proposalDone u h.comp code voter (some epoch)) 0)) ∧
  (∀ (s : State) (comp : Nat), s.halted = false → paused s = false →
    (findChange s comp = none → exec (.voteTimeout comp) s = .next s) ∧
    (∀ c d l, findChange s comp = some c → c.committed = false → c.takeover = false →
      c.asked.filter (fun d => d != self s && !(isLost s comp d) && !(c.yes.contains d) && decide (c.since + voteTo s +
        (if s.cmp.beats.any (fun b => b.comp == comp && b.device == d && b.updating) then 5000 else 0) ≤ s.now)) = d :: l →
      exec (.voteTimeout comp) s = .next (retag s (leaderGo (abortChange ((d :: l).foldl (fun s d => declareLost s comp d) s) comp Code.cmpLostMember d) comp))) ∧
    (s.cmp.votes.find? (fun v => v.comp == comp && decide (v.at_ + 2 * voteTo s ≤ s.now)) = none → exec (.leaderSilenceTimeout comp) s = .next s) ∧
    (∀ v m, s.cmp.votes.find? (fun v => v.comp == comp && decide (v.at_ + 2 * voteTo s ≤ s.now)) = some v → findChange s comp = none → membership? s comp = some m →
      lowest ((mapDevices m.map).filter (fun d => !(isLost s comp d))) ≠ self s →
      exec (.leaderSilenceTimeout comp) s = .next (retag s (ctl
        { s with cmp := { s.cmp with votes := mapIf (fun x => x == v) (fun x => { x with at_ := s.now }) s.cmp.votes } } comp
        (lowest ((mapDevices m.map).filter (fun d => !(isLost s comp d)))) (.vote v.epoch 0)))))

/-- BEATs are kept and sent, a silent member is declared lost, a device left out leaves, a parting one drains (R233; R455; R485; R487; R489; R490; R492). -/
def Obligations.MembershipRows : Prop :=
  (∀ (s : State) (h : Hdr),
    let u := (arrive s h).1
    (∀ frames seqs updating,
      ((membership? u h.comp).any (fun m => (mapMember m.map h.src).isSome) = true → HandledHw (.beat h frames seqs updating) s h
        { u with cmp := { u.cmp with beats := u.cmp.beats.filter (fun x => !(x.comp == h.comp && x.device == h.src)) ++
          [{ comp := h.comp, device := h.src, at_ := u.now, frames := frames, seqs := seqs, updating := updating }] } } 0) ∧
      ((membership? u h.comp).any (fun m => (mapMember m.map h.src).isSome) = false → HandledHw (.beat h frames seqs updating) s h u 0)) ∧
    (∀ device position,
      let hops := (position + ringPositions u - fieldOf (ringCtrl u) 25 16 % ringPositions u) % ringPositions u
      (device = 0x7FFF ∨ device = self u ∨ hops = 0 → HandledAs (.ringMove h device position) s h u 0) ∧
      (device ≠ 0x7FFF → device ≠ self u → hops ≠ 0 →
        HandledAs (.ringMove h device position) s h (setReg u (0x580000 + 8 * device) (putField (routeOf u device) 25 16 hops)) 0)) ∧
    (leads u h.comp = true → (membership? u h.comp).any (fun m => (mapMember m.map h.src).any (·.parting)) = true →
      HandledAs (.drainDone h) s h (leaderGo { u with cmp := { u.cmp with drained := u.cmp.drained ++ [(h.comp, h.src)] } } h.comp) 0) ∧
    (leads u h.comp = false → HandledAs (.drainDone h) s h u 0)) ∧
  (∀ s : State, s.halted = false →
    let msg : Msg := .beat (freeFrames s) ((s.own.copies.filter (fun c => c.st == .owner || c.st == .offered || c.st == .pulled || c.st == .committing)).length) (s.fwRun == 3)
    let v := { s with cmp := { s.cmp with beatAt := s.now } }
    (s.now < s.cmp.beatAt + beatTime s → exec .beatSendTick s = .next s) ∧
    (s.cmp.beatAt + beatTime s ≤ s.now →
      (s.comps = [] → exec .beatSendTick s = .next v) ∧
      (∀ m, s.comps = [m] → leaderOf s m.map = self s →
        exec .beatSendTick s = .next (retag s (((mapDevices m.map).filter (fun d => d != self s)).foldl (fun s d => ctl s m.map.comp d msg) v))) ∧
      (∀ m, s.comps = [m] → leaderOf s m.map ≠ self s → leaderOf s m.map ≠ noDevice → exec .beatSendTick s = .next (retag s (ctl v m.map.comp (leaderOf s m.map) msg))))) ∧
  (∀ (s : State) (comp d : Nat) (m : Membership), s.halted = false → paused s = false → membership? s comp = some m →
    (s.now < silentSince s comp d + lossTime s → exec (.memberLoss comp d) s = .next s) ∧
    (leaderOf s m.map = self s → d ≠ self s → (mapMember m.map d).isSome = true → silentSince s comp d + lossTime s ≤ s.now → findChange (declareLost s comp d) comp = none →
      exec (.memberLoss comp d) s = .next (retag s (leaderGo (declareLost s comp d) comp))) ∧
    (m.prepared.any (fun p => (mapMember p (self s)).isNone) = true → exec (.removedSelf comp) s = .next (retag s (leaveComp s comp))) ∧
    (m.prepared = none → leaderOf s m.map = self s → exec (.removedSelf comp) s = .next s) ∧
    (∀ t, leads s comp = true → (comp, d, t) ∈ s.cmp.drains → t + m.map.drainMs * 1000 ≤ s.now →
      exec (.drainDeadlineExpiry comp d) s = .next (retag s (leaderGo { s with cmp := { s.cmp with drained := s.cmp.drained ++ [(comp, d)] } } comp))) ∧
    (partingIn s comp = false → exec (.partingCastleIssue comp) s = .next s) ∧
    (partingIn s comp = true → comp ∉ s.cmp.told → s.fwRun = 1 → s.own.copies = [] → s.tz.started = [] → leaderOf s m.map ≠ noDevice →
      exec (.partingCastleIssue comp) s = .next (retag s (ctl { s with cmp := { s.cmp with told := s.cmp.told ++ [comp] } } comp (leaderOf s m.map) .drainDone))))

/-- Images of mirrored state are sent, gathered, imported and acknowledged; the mirror's status follows (R321; R488; R492; R496; R497; R498). -/
def Obligations.MirrorRows : Prop :=
  (∀ (s : State) (h : Hdr),
    let u := (arrive s h).1
    (∀ d, HandledAs (.restoreReq h d) s h (sendImage u h.comp h.src 2 (((u.own.mirrors.filter (fun m => hHome m.handle == d)) ++
      ((u.own.homes.filter (fun r => hHome r.desc.handle == d)).map (·.desc))).map .record ++ shardItems u d u.rgn.mirrorTree)) 0) ∧
    (∀ offset items, HandledAs (.image h 1 offset items) s h
      { u with cmp := { u.cmp with inbox := u.cmp.inbox ++ [{ src := h.src, purpose := 1, items := items }] } } 0) ∧
    (∀ purpose length crc, u.cmp.inbox = [] → purpose ≠ 2 →
      HandledAs (.imageDone h purpose length crc) s h (transmit u ⟨h.src, h.comp, h.epoch, 6, false, 0, .imageAck 0⟩ none) 0) ∧
    (∀ length crc, u.cmp.inbox = [] → u.cmp.restoreState = 1 →
      HandledAs (.imageDone h 2 length crc) s h
        (transmit { u with cmp := { u.cmp with restoreState := 2, restoreResult := 0 } } ⟨h.src, h.comp, h.epoch, 6, false, 0, .imageAck 0⟩ none) 0) ∧
    (h.src = u.ident.partner → u.cmp.mirrorState = 2 → ∃ t, HandledAs (.imageAck h 0) s h t 0 ∧ t.cmp.mirrorState = 0 ∧ t.cmp.mirrorUnits = 0 ∧
      (∀ r ∈ t.own.homes, r.unmirrored = false) ∧ t.own.homes.map (·.desc) = u.own.homes.map (·.desc) ∧ t.pages = u.pages ∧ t.dev = u.dev) ∧
    (∀ code, code ≠ 0 → h.src = u.ident.partner → u.cmp.mirrorState = 2 → ∃ t, HandledAs (.imageAck h code) s h t 0 ∧ t.cmp.mirrorState = 1) ∧
    (∀ group v, h.src ≠ u.ident.fmEndpoint ∨ h.cls ≠ 0 →
      HandledAs (.managementMessage h group v) s h { u with cmp := { u.cmp with mgmtDiscarded := satAdd 0xFFFFFFFF u.cmp.mgmtDiscarded 1 } } 0) ∧
    (∀ group v, h.src = u.ident.fmEndpoint → h.cls = 0 → group < 4096 →
      HandledAs (.managementMessage h group v) s h (setReg u (0x504000 + 8 * group) (v &&& 0x00000000FFFC7F01)) 0)) ∧
  (∀ s : State, s.halted = false → paused s = false →
    (s.cmp.mirrorState ≠ 2 → exec .mirrorRebuild s = .next s) ∧
    (s.cmp.mirrorState = 2 → present s s.ident.partner = false → exec .mirrorRebuild s = .next { s with cmp := { s.cmp with mirrorState := 1 } }) ∧
    (∀ m, s.cmp.mirrorState = 2 → present s s.ident.partner = true → commonComp s s.ident.partner = some m →
      exec .mirrorRebuild s = .next (retag s (sendImage s m.map.comp s.ident.partner 1 (s.own.homes.map (fun r => .record r.desc) ++ shardItems s (self s) s.rgn.tree)))))

/-- Leaving a composition leaves nothing of it; a prepared map is not in force; the leader is the lowest sound member; a removal map names successors (R482; R483; R484; R485; R489; R492). -/
def Obligations.MapChangeOperations : Prop :=
  (∀ (s : State) (comp : Nat),
    let t := leaveComp s comp
    membership? t comp = none ∧ findChange t comp = none ∧ (∀ v ∈ t.cmp.votes, v.comp ≠ comp) ∧ (∀ b ∈ t.cmp.beats, b.comp ≠ comp) ∧ (∀ x ∈ t.cmp.lost, x.1 ≠ comp) ∧
    (∀ x ∈ t.cmp.drains, x.1 ≠ comp) ∧ (∀ c ∈ t.own.copies, c.desc.comp ≠ comp) ∧ (∀ r ∈ t.own.homes, r.desc.comp ≠ comp) ∧ (∀ r ∈ t.own.mirrors, r.comp ≠ comp) ∧
    (∀ n ∈ t.rgn.holds, n.comp ≠ comp) ∧ (∀ n ∈ t.rgn.drafts, n.comp ≠ comp) ∧ (∀ n ∈ t.rgn.tree, n.comp ≠ comp) ∧
    t.comps = s.comps.filter (fun m => m.map.comp != comp) ∧ t.dev = s.dev ∧ t.host = s.host) ∧
  (∀ (s : State) (m : CompMap),
    let t := prepareMap s m
    t.comps.map (·.map) = s.comps.map (·.map) ∧ (∃ v ∈ t.cmp.votes, v.comp = m.comp ∧ v.epoch = m.epoch) ∧ t.pages = s.pages ∧ t.own = s.own ∧ t.rgn = s.rgn ∧ t.tz = s.tz) ∧
  (∀ (s : State) (m : CompMap),
    let sound : MapMember → Prop := fun x => x.parting = false ∧ isLost s m.comp x.device = false
    (∀ x ∈ m.members, sound x → leaderOf s m ≤ x.device) ∧
    ((∃ x ∈ m.members, sound x ∧ x.device ≤ noDevice) → ∃ x ∈ m.members, sound x ∧ x.device = leaderOf s m) ∧
    ((∀ x ∈ m.members, ¬ sound x) → leaderOf s m = noDevice)) ∧
  (∀ (m : CompMap) (gone : List Nat),
    let r := removalMap m gone
    r.epoch = m.epoch + 1 ∧ r.baseEpoch = m.epoch ∧ r.comp = m.comp ∧ (∀ x ∈ r.members, x.device ∉ gone) ∧ (∀ x ∈ m.members, x.device ∉ gone → x ∈ r.members) ∧
    (∀ x ∈ m.members, x.device ∈ gone → ∃ d ∈ r.departed, d.device = x.device ∧ d.epoch = m.epoch + 1)) ∧
  (∀ (s : State) (comp epoch : Nat), (dropPrepared s comp epoch).comps.map (·.map) = s.comps.map (·.map) ∧ (dropPrepared s comp epoch).cmp.lost = s.cmp.lost)

/-- RWRITE, RREAD, RREDUCE and MCAST: what each reads, checks, sends and writes (R137; R138; R139; R140; R141; R162; R163; R440; R441). -/
def Obligations.TransferRows : Prop :=
  ∀ (s : State) (id : Nat) (r : Running), Begun s id r →
    (r.ent.opcode = opRwrite →
      (∀ bs, bufRead s (bufAt r.blk 16) 0 r.ent.a rRead = .ok bs →
        exec (.rwrite id) s = .next (retag s (emit s r [{ buf := bufAt r.blk 32, how := .write, pieces := [(0, bs)] }]))) ∧
      (∀ c, bufRead s (bufAt r.blk 16) 0 r.ent.a rRead = .error c → exec (.rwrite id) s = .next (finish (keyRefused s c) id c))) ∧
    (r.ent.opcode = opRread →
      let src := bufAt r.blk 16
      let dst := bufAt r.blk 32
      let c := resultCode s (writerOf s r) { buf := dst, how := .write, pieces := [(0, List.replicate r.ent.a 0)] }
      (c ≠ 0 → exec (.rread id) s = .next (finish (keyRefused s c) id c)) ∧
      (∀ bs, c = 0 → src.device = self s → bufRead s src 0 r.ent.a rRead = .ok bs →
        exec (.rread id) s = .next (retag s (emit (unitsUp s (keyIndex src.key) src.offset r.ent.a) r [{ buf := dst, how := .write, pieces := [(0, bs)] }]))) ∧
      (∀ s', c = 0 → src.device ≠ self s → r.ent.combinable = false →
        sendRead s src.device (dataClass r.ent.prio) 0 src.key src.offset r.ent.a false (.buffer id dst.key (dst.offset + (src.offset - src.offset))) = .ok s' →
        exec (.rread id) s = .next (retag s (pumpComb (modRun (await (keyEnter s' (keyIndex dst.key)) id) (fun q => q.id == id) (fun q => { q with aux := 1 })) id)))) ∧
    (r.ent.opcode = opRreduce →
      let k := reduceOf r.ent
      let dst := bufAt r.blk 32
      let fet := bufAt r.blk 48
      let w := writerOf s r
      (∀ c : Ctx, c.e.opcode = opRreduce → c.e.combinable = true → addUnitOk c.e.a (bufAt c.blk 32).offset = false → operandsOk s c = false) ∧
      (∀ bs, bufRead s (bufAt r.blk 16) 0 r.ent.a rRead = .ok bs →
        (k.op ≠ 3 → exec (.rreduce id) s = .next (retag s (emit s r [{ buf := dst, how := .red k, pieces := [(0, bs)] }]))) ∧
        (k.op = 3 → resultCode s w { buf := fet, how := .write, pieces := [(0, bs)] } = 0 → dst.device = self s →
          resultCode s w { buf := dst, how := .red k, pieces := [(0, bs)] } = 0 →
          exec (.rreduce id) s = .next (retag s (finish (regionWrite (reduceAll s (keyIndex dst.key) w dst.offset k bs).1 (keyIndex fet.key) w fet.offset
            (peek s (keyIndex dst.key) w dst.offset bs.length)) id 0))))) ∧
    (r.ent.opcode = opMcast →
      let g := r.ent.b % 2 ^ 16
      let ms := mcastMembers r.blk
      (4096 ≤ g ∨ bitOf (groupEntry s g) 0 = false ∨ fieldOf (groupEntry s g) 14 8 < ms.length ∨ ms.any (fun x => x.2.1 != self s && ((commonComp s x.2.1).isNone || outsideGroup s g x.2.1)) = true → exec (.mcast id) s = .next (finish s id Code.cmpNotMember)) ∧
      (∀ bs, g < 4096 → bitOf (groupEntry s g) 0 = true → ms.length ≤ fieldOf (groupEntry s g) 14 8 →
        ms.any (fun x => x.2.1 != self s && ((commonComp s x.2.1).isNone || outsideGroup s g x.2.1)) = false → bufRead s (bufAt r.blk 16) 0 r.ent.a rRead = .ok bs →
        let n := takePsn s g (packetsOf (.mcastData g 0 bs))
        n.1 = s.fab.mcastPsn.get 0 g ∧ n.2.fab.mcastPsn.get 0 g = (n.1 + packetsOf (.mcastData g 0 bs)) % 2 ^ 24 ∧
        let x := ms.foldl (openMember r (writerOf s r) g n.1 bs) (await n.2 id, [])
        exec (.mcast id) s = .next (retag s (mcastGo { x.1 with fab := { x.1.fab with mcasts := x.1.fab.mcasts ++ [{
          instr := id, group := g, subject := 0, cls := dataClass r.ent.prio, inc := fieldOf (groupEntry s g) 31 24, psn := n.1, bytes := bs, members := x.2, data := false, cut := 0, due := 0, rto := rtoOf x.1, tries := 1, tryAt := 0 }] } } g n.1))))

/-- What a WRITE, REDUCE, read, SUBMIT, COMPLETE or remote SIGNAL that arrives in sequence does (R79; R138; R371; R403; R423; R424; R435; R437; R441; R538). -/
def Obligations.ArrivingPackets : Prop :=
  (∀ (s : State) (h : Hdr) (p : Packet), s.halted = false → h.qp < 0x8000 →
    ((arrive s h).2 = false → exec (.write h p) s = .next (retag s (arrive s h).1)) ∧
    ((arrive s h).2 = true → p.first = true → p.last = true →
      let u := (arrive s h).1
      let i := keyIndex p.key
      let w := msgWriter h p.port p.fn
      let m : RxMsg := { op := 1, key := p.key, first := p.off, len := p.msgLen, next := p.off, code := 0, refused := false, index := i, port := p.port, fn := p.fn, part := [], lastAt := u.now }
      (∀ c, c ≠ 0 → writeCheck u h p.key p.off p.msgLen rWrite = c →
        exec (.write h p) s = .next (retag s (ackLast (keyRefused u c) h c)) ∧
        (ackLast (keyRefused u c) h c).dev = u.dev ∧ (ackLast (keyRefused u c) h c).host = u.host) ∧
      (writeCheck u h p.key p.off p.msgLen rWrite = 0 → i ≠ 0 → (getK u i).drafted = false →
        exec (.write h p) s = .next (retag s (ackLast (leaveMsg (regionWrite (keyEnter u i) i w p.off p.bytes) i w) h 0))) ∧
      (∀ red, red.fetch = none → red.op ≠ 4 → writeCheck u h p.key p.off (destBytes { op := red.op, fmt := red.fmt, det := red.det, rowsPer := red.rowsPer, d := red.d } p.msgLen) rReduce = 0 →
        i ≠ 0 → (getK u i).drafted = false →
        let x := reduceApply h red p.off p.bytes (keyEnter u i) { m with op := 4 }
        x.2.refused = false → x.2.index = i → x.2.port = p.port → x.2.fn = p.fn →
        exec (.reduce h p red) s = .next (retag s (ackLast (leaveMsg x.1 i w) h x.2.code))))) ∧
  (∀ (s : State) (h : Hdr),
    let u := (arrive s h).1
    (∀ x id key off len c, readAnswer u h x key off len false = .error c → HandledHw (.readReq h x id key off len) s h (keyRefused u c) c) ∧
    (∀ x id key off len bs i, readAnswer u h x key off len false = .ok (bs, some i) →
      HandledHw (.readReq h x id key off len) s h (transmitHeld (keyEnter (unitsUp u i off len) i) ⟨h.src, h.comp, h.epoch, h.cls, false, x, .readResp id 0 bs⟩ none (some i)) 0) ∧
    (∀ id code off bs, u.reads.find? (fun w => w.id == id && !w.comb) = none → TakenHw s h →
      exec (.readResp h id code off true false bs) s = .next (retag s (ackLast u h 0))) ∧
    (∀ w off bs w', u.reads.find? (fun w => w.id == w'.id && !w.comb) = some w → (readPiece u w off bs).reads.find? (fun x => x.id == w'.id) = some w' → TakenHw s h →
      exec (.readResp h w'.id 0 off true false bs) s = .next (retag s (ackLast (readEnd (readPiece u w off bs) w') h 0))) ∧
    (∀ tag q port fn e blk, epochCheck u h = 0 → q < firmwareQueue → (getQ u q).remote = true →
      ((getQ u q).state = .active → HandledAs (.submit h tag q port fn e blk) s h
        (enterFetched u q { index := (getQ u q).head, ent := e, blk := blk, sub := some { device := h.src, comp := h.comp, epoch := h.epoch, tag := tag, port := port, fn := fn }, caught := false }) 0) ∧
      ((getQ u q).state = .halted → HandledAs (.submit h tag q port fn e blk) s h
        (sendComplete u { device := h.src, comp := h.comp, epoch := h.epoch, tag := tag, port := port, fn := fn } e Code.tzQueueHalted 0) 0)) ∧
    (∀ x counter, counter ≠ 0xFFFF → HandledAs (.complete h 0 x counter) s h (signalCounter u counter x.code) 0) ∧
    (∀ c set clear v, epochCheck u h = 0 → c % 2 ^ 16 ≠ 0xFFFF → (getC u (c % 2 ^ 16)).owner ≠ none →
      ((getC u (c % 2 ^ 16)).fabric = some h.comp ∨ (getC u (c % 2 ^ 16)).fabric = some 0xFFFF →
        HandledHw (.remoteSignal h c set clear v) s h (counterUpdate u (c % 2 ^ 16) set clear v) 0) ∧
      ((getC u (c % 2 ^ 16)).fabric = none → HandledHw (.remoteSignal h c set clear v) s h u Code.tzRights)) ∧
    (∀ subject g psn key off len port fn, TakenHw s h → epochCheck u h = 0 → (key ≠ 0 ∨ subject = 0) →
      (∀ c, c ≠ 0 → remoteCheck u h key off len rWrite = c → exec (.multicastOpen h g psn ⟨subject, key⟩ off len port fn) s = .next (retag s (ackLast (keyRefused u c) h c))) ∧
      (remoteCheck u h key off len rWrite = 0 → (getK u (keyIndex key)).drafted = false →
        ∃ t, exec (.multicastOpen h g psn ⟨subject, key⟩ off len port fn) s = .next (retag s (ackLast t h 0)) ∧
          (∃ x ∈ t.fab.mrx, x.src = h.src ∧ x.group = g ∧ x.subject = 0 ∧ x.psn = psn ∧ x.next = psn ∧ x.key = key ∧ x.off = off ∧ x.len = len) ∧
          (getK t (keyIndex key)).accepted = (getK u (keyIndex key)).accepted + 1 ∧ t.dev = u.dev ∧ t.host = u.host)))

/-- A one-packet WRITE into a carve region changes exactly the bytes it carries; a refused or out-of-sequence one changes no memory (R370; R371; R374; R396; R423). -/
def Obligations.WriteReachesItsBytes : Prop :=
  ∀ (s : State) (h : Hdr) (p : Packet), s.halted = false → h.qp < 0x8000 → p.first = true → p.last = true → (arrive s h).1.dev = s.dev → (arrive s h).1.host = s.host →
    (∃ t, exec (.write h p) s = .next t ∧
      (((arrive s h).2 = false ∨ writeCheck (arrive s h).1 h p.key p.off p.msgLen rWrite ≠ 0) → t.dev = s.dev ∧ t.host = s.host) ∧
      (let k := getK (arrive s h).1 (keyIndex p.key)
       (arrive s h).2 = true → writeCheck (arrive s h).1 h p.key p.off p.msgLen rWrite = 0 → keyIndex p.key ≠ 0 → k.drafted = false → k.loc = 1 →
        (∀ i, i < p.bytes.length → Mem.byte t.dev (k.addr + p.off + i) = p.bytes.getD i 0) ∧
        (∀ a, ¬ (k.addr + p.off ≤ a ∧ a < k.addr + p.off + p.bytes.length) → Mem.byte t.dev a = Mem.byte s.dev a) ∧ t.host = s.host ∧
        (getK t (keyIndex p.key)).version = k.version))

/-- Acknowledgements, NAKs, establishment, release and the retransmit timer of a queue pair (R401; R402; R403; R420; R421; R422; R424; R488). -/
def Obligations.SequencingRows : Prop :=
  ∀ (s : State) (h : Hdr), s.halted = false →
    (h.qp < 0x8000 →
      (∀ q psn code, qpOf s h = some q → exec (.ack h psn code) s = .next (retag s (ackApply s q psn code))) ∧
      (∀ psn code, qpOf s h = none → exec (.ack h psn code) s = .next (staleFrame s h) ∧ (staleFrame s h).fab.staleInc = satAdd 0xFFFF s.fab.staleInc 1) ∧
      (∀ q psn, qpOf s h = some q →
        exec (.nak h psn 1) s = .next (retag s (retransmit (modQp s (fun x => x.num == q.num && x.peer == q.peer) (fun _ => q.tried psn)) (q.tried psn) psn)) ∧
        exec (.nak h psn 2) s = .next (modQp s (fun x => x.num == q.num && x.peer == q.peer) (fun x => { x with timer := some (s.now + x.rto) }))) ∧
      (∀ q psn, s.fab.qps.find? (fun q => q.peer == h.src && q.peerNum == h.qp && q.peerInc == h.inc && q.up) = some q →
        exec (.nak h psn 3) s = .next (retag s (serve (closeQp s q Code.xptStaleIncarnation false))))) ∧
    (∀ peer cls q t, peer ≠ 0x7FFF → findQp s peer cls = some q → q.timer = some t →
      (s.now < t → exec (.retransmitTimerExpiry peer cls) s = .next s) ∧
      (t ≤ s.now → q.tries < 7 → q.up = true →
        let q' := { q.tried q.oldest with rto := 2 * q.rto, timer := some (s.now + 2 * q.rto) }
        exec (.retransmitTimerExpiry peer cls) s = .next (retag s (retransmit (modQp s (fun x => x.num == q.num && x.peer == q.peer) (fun _ => q')) q' q.oldest))) ∧
      (t ≤ s.now → 7 ≤ q.tries → exec (.retransmitTimerExpiry peer cls) s =
        .next (retag s (serve (closeQp { s with fab := { s.fab with retryExceeded := satAdd 0xFFFF s.fab.retryExceeded 1 } } q Code.xptRetryExceeded (!q.up)))))) ∧
    (∀ qp inc u, findQp s h.src h.cls = none → mayEstablish s h.src h.cls = true → qpRoom s = some u →
      let i := nextInc u h.src
      let num := freeQpNum i.2
      exec (.connect h qp inc) s = .next (retag s (pumpReads { i.2 with fab := { i.2.fab with
        qps := i.2.fab.qps ++ [{ newQp i.2 h.src h.cls num i.1 [] with peerNum := qp, peerInc := inc, up := true, timer := none }],
        madeAt := i.2.fab.madeAt.set (8 * h.src + h.cls) i.2.now, frames := i.2.fab.frames ++ [.connected h.src h.cls num i.1] } }))) ∧
    (∀ qp inc, findQp s h.src h.cls = none → exec (.connected h qp inc) s = .next s) ∧
    (∀ qp inc q, findQp s h.src h.cls = some q →
      (q.up = true → exec (.connected h qp inc) s = .next s) ∧
      (q.up = false → exec (.connected h qp inc) s = .next (retag s (pumpReads (pumpQp (modQp s (fun x => x.num == q.num && x.peer == q.peer)
        (fun x => { x with peerNum := qp, peerInc := inc, up := true, timer := none, tries := 1, rto := rtoOf s, nextPsn := 0, expPsn := 0, lastUse := s.now })) h.src h.cls)))) ∧
      (exec (.close h) s = .next (retag s (serve (closeQp s q Code.xptStaleIncarnation false)))) ∧
      (q.unacked = [] → q.msgs = [] → q.lastUse + 10000 ≤ s.now → exec (.queuePairIdleClose h.src h.cls) s = .next { s with fab := { s.fab with
        qps := s.fab.qps.filter (fun x => !(x.num == q.num && x.peer == q.peer)), frames := s.fab.frames ++ [.close h.src h.cls] } }) ∧
      (s.now < q.lastUse + 10000 → exec (.queuePairIdleClose h.src h.cls) s = .next s) ∧
      (0 < q.owed → 10 * q.owedAt + fieldOf (xptCtrl s) 15 8 ≤ 10 * s.now → exec (.ackDelayExpiry h.src h.cls) s = .next (sendAck s q 0)) ∧
      (q.owed = 0 → exec (.ackDelayExpiry h.src h.cls) s = .next s)) ∧
    (∀ bytes, exec (.datagram h bytes) s = .next s) ∧
    (epochCheck (arrive s h).1 h = 0 → HandledHw (.controlUnknownType h) s h (arrive s h).1 Code.tzFormat) ∧
    (∀ id m a, s.fab.refused.find? (fun m => m.id == id) = some m →
      let u := { s with fab := { s.fab with refused := s.fab.refused.filter (fun x => !(x.id == id)) } }
      address u m.out.dst m.out.cls = .ok a →
      let o := { m.out with dst := a.1, comp := a.2.1.comp, epoch := a.2.1.epoch % 2 ^ 16, redirected := a.2.2 }
      exec (.redirectResend id) s = .next (retag s (enqueue { u with sent := s.sent ++ [o], fab := { u.fab with nextMsg := u.fab.nextMsg + 1 } }
        { m with id := u.fab.nextMsg, out := o, cut := 0, resent := true })))

/-- Only the expected packet is taken; early, late and foreign ones change no memory, key, page or queue (R403; R422; R423; R424; R425). -/
def Obligations.GoBackN : Prop :=
  ∀ (s : State) (h : Hdr),
    (qpOf s h = none → (arrive s h).2 = false ∧ (arrive s h).1.fab.staleInc = satAdd 0xFFFF s.fab.staleInc 1) ∧
    (∀ q, qpOf s h = some q → h.ack = none →
      let d := (h.psn + 2 ^ 24 - q.expPsn) % 2 ^ 24
      ((arrive s h).2 = true ↔ d = 0) ∧
      (d = 0 → (arrive s h).1.fab.qps = mapIf (fun x => x.num == q.num && x.peer == q.peer) (fun x => { x with
        expPsn := (x.expPsn + h.packets) % 2 ^ 24, lastUse := s.now, owed := x.owed + h.packets, owedAt := if x.owed = 0 then s.now else x.owedAt }) s.fab.qps) ∧
      (d ≠ 0 → d ≤ 4095 → (arrive s h).1.fab.qps = s.fab.qps ∧
        (s.fab.naks.any (fun x => x.1 == q.peer && x.2.1 == q.peerNum && decide (s.now < x.2.2 + rtoOf s)) = false →
          (arrive s h).1.fab.frames = s.fab.frames ++ [.nak q.peer q.peerNum q.peerInc q.expPsn 1])) ∧
      (4095 < d → 2 ^ 24 - 4096 ≤ d → (arrive s h).1.fab.duplicates = wrapAdd 32 s.fab.duplicates 1 ∧
        (arrive s h).1.fab.frames = s.fab.frames ++ [.ack q.peer q.peerNum q.peerInc ((q.expPsn + 2 ^ 24 - 1) % 2 ^ 24) 0]) ∧
      (4095 < d → d < 2 ^ 24 - 4096 → (arrive s h).1 = { s with fab := { s.fab with discards := s.fab.discards + 1 } }) ∧
      (arrive s h).1.dev = s.dev ∧ (arrive s h).1.host = s.host ∧ (arrive s h).1.pages = s.pages ∧ (arrive s h).1.rgn = s.rgn ∧ (arrive s h).1.tz = s.tz ∧ (arrive s h).1.own = s.own)

/-- Combinable requests join, wait or are answered; each add is applied once; responses go to every joiner; repeats and records run out (R443; R444; R445; R446; R447; R448). -/
def Obligations.CombiningRows : Prop :=
  ∀ (s : State) (h : Hdr), s.halted = false →
    (∀ x key off len tag adds, qpOf s h = none → exec (.combinableRequest h x key off len tag adds) s = .next (staleFrame s h)) ∧
    (∀ q x key off len tag, qpOf s h = some q →
      let j : Joiner := { device := h.src, qp := q.peerNum, inc := q.peerInc, tag := tag }
      (s.fab.combReads.any (fun e => e.dst == self s && (e.first == j || e.joiners.contains j)) = true → exec (.combinableRequest h x key off len tag []) s = .next s) ∧
      (∀ bs i, s.fab.combReads = [] → bitOf (combCtrl s) 0 = true → readAnswer s h x key off len true = .ok (bs, some i) →
        ∃ e t, exec (.combinableRequest h x key off len tag []) s = .next t ∧ t.fab.combReads = [e] ∧ e.first = j ∧ e.joiners = [] ∧ e.bytes = bs ∧ e.code = 0 ∧ e.index = some i ∧
          (getK t i).accepted = (getK s i).accepted + 1 ∧ t.dev = s.dev ∧ t.host = s.host)) ∧
    (∀ q key off e l, qpOf s h = some q → epochCheck s h = 0 →
      let n := 8 * e.vals.length
      (∀ c, c ≠ 0 → remoteCheck s h key off n rReduce = c → exec (.combinableRequest h 0 key off 0 0 (e :: l)) s =
        .next (retag s (launchFrame (keyRefused s c) ⟨h.src, h.comp, h.epoch, h.cls, false, 0, .combAddResp c ((e :: l).map (fun e => { e with vals := [] }))⟩ q))) ∧
      (remoteCheck s h key off n rReduce = 0 → (getK s (keyIndex key)).drafted = false →
        let x := (e :: l).foldl (applyAdd key off) (s, [])
        exec (.combinableRequest h 0 key off 0 0 (e :: l)) s =
          .next (retag s (launchFrame x.1 ⟨h.src, h.comp, h.epoch, h.cls, false, 0, .combAddResp 0 x.2⟩ q)))) ∧
    (∀ key off l e r, s.fab.addRecs.find? (fun r => r.device == e.device && r.tag == e.tag) = some r →
      applyAdd key off (s, l) e = (s, l ++ [{ e with vals := r.prev }])) ∧
    (∀ tag code off last bytes e, h.src = self s → s.fab.combReads.find? (fun e => e.id == tag && e.dst == self s) = some e → e.index = none →
      let u := (e.first :: e.joiners).foldl (fun s j => respond s e j) s
      exec (.combinedResponse h tag code off last bytes []) s = .next (retag s { u with fab := { u.fab with combReads := u.fab.combReads.filter (fun x => !(x.id == tag)) } })) ∧
    (∀ tag code off last bytes, h.src = self s → s.fab.combReads.find? (fun e => e.id == tag && e.dst == self s) = none →
      exec (.combinedResponse h tag code off last bytes []) s = .next s) ∧
    (∀ id w, s.reads.find? (fun w => w.id == id && w.comb) = some w →
      (w.tries = 0 → exec (.combinableRepeatExpiry id) s = .next s) ∧
      (s.now < w.due → exec (.combinableRepeatExpiry id) s = .next s) ∧
      (0 < w.tries → w.due ≤ s.now → w.tries < 7 → exec (.combinableRepeatExpiry id) s = .next (retag s (issueComb s w))) ∧
      (w.due ≤ s.now → 7 ≤ w.tries → exec (.combinableRepeatExpiry id) s = .next (retag s (readFailed { s with fab := { s.fab with
        combReads := s.fab.combReads.filter (fun e => !(e.dst != self s && e.first.tag == id)) } } id Code.xptRetryExceeded)))) ∧
    (exec .combinedAddRecordExpiry s = .next { s with fab := { s.fab with addRecs := s.fab.addRecs.filter (fun r => !(decide (r.at_ + 5000 ≤ s.now))) } })

/-- A port's states: enabling, training, signal loss, relock, pause, stall and its clearing, and what a flit received counts (R403; R405; R406; R407; R408; R409; R410; R416; R417; R429). -/
def Obligations.PortRows : Prop :=
  ∀ (s : State) (p : Nat), s.halted = false →
    let P := getP s p
    (∀ who v, isPhysical who = false → exec (.portEnable who p v) s = .next s ∧ exec (.clearStall who p) s = .next s) ∧
    (∀ who v, isPhysical who = true → p < 8 → bitOf v 1 = false →
      let s1 := fun (en : Bool) => setReg s (0x500000 + 0x40 * p) (BitVec.ofNat 64 ((if bitOf (portCtrl s p) 0 = false ∧ fieldOf v 19 18 ≠ 3 then fieldOf v 19 18 else fieldOf (portCtrl s p) 19 18) * 2 ^ 18 + bit en))
      (bitOf (portCtrl s p) 0 = false → bitOf v 0 = true →
        exec (.portEnable who p v) s = .next (toPort (modP (s1 true) p (fun x => { x with attempts := 0, lanes := 0 })) p .training)) ∧
      (bitOf (portCtrl s p) 0 = true → bitOf v 0 = false → P.onRing = false →
        exec (.portEnable who p v) s = .next (bypEval (toPort (modP (s1 false) p (fun x => { x with lanes := 0 })) p .disabled)))) ∧
    (∀ who, isPhysical who = true → p < 8 → bitOf (portCtrl s p) 0 = true → P.onRing = false → P.st = .stalled → P.xoffIn = 0 →
      ∃ t, exec (.clearStall who p) s = .next (retag s (serve (toPort t p .up))) ∧ t = setReg s (0x500000 + 0x40 * p) (BitVec.ofNat 64 (fieldOf (portCtrl s p) 19 18 * 2 ^ 18 + 1))) ∧
    (P.st = .training →
      exec (.trainingComplete p) s = .next (retag s (serve (bypEval (toPort (modP s p (fun x => { x with lanes := 0xFF, attempts := 0 })) p .up)))) ∧
      (P.attempts + 1 < 3 → exec (.trainingFailed p) s = .next (modP s p (fun x => { x with attempts := x.attempts + 1, since := s.now }))) ∧
      (3 ≤ P.attempts + 1 → exec (.trainingFailed p) s = .next (retag s (bypEval (raiseErr
        (fabricLog (toPort (modP s p (fun x => { x with attempts := 3, lanes := 0 })) p .failed) p 0 sevDegraded .training .failed) 0x07 p sevDegraded 0 0x05 0))))) ∧
    (P.st ≠ .training → exec (.trainingComplete p) s = .next s ∧ exec (.trainingFailed p) s = .next s) ∧
    (P.st = .up →
      (P.onRing = true → exec (.signalLoss p) s =
        .next (toPort { s with fab := { s.fab with ring := { s.fab.ring with breaks := wrapAdd 32 s.fab.ring.breaks 1 } } } p .relock)) ∧
      (P.onRing = false → exec (.signalLoss p) s = .next (retag s (retrain s p))) ∧
      (bitOf (adaptCtrl s) 7 = true → 2 ≤ p → P.adaptEnd = 0 ∨ P.adaptEnd + 250 * fieldOf (adaptCtrl s) 6 0 ≤ s.now + 1 →
        exec (.adaptationWindow p) s = .next (modP s p (fun x => { x with adaptEnd := s.now + 1, xoffOut := 0 }))) ∧
      (bitOf (adaptCtrl s) 7 = true → 2 ≤ p → P.adaptEnd ≠ 0 → s.now + 1 < P.adaptEnd + 250 * fieldOf (adaptCtrl s) 6 0 → exec (.adaptationWindow p) s = .next s) ∧
      (bitOf (adaptCtrl s) 7 = false → exec (.adaptationWindow p) s = .next s)) ∧
    (P.st ≠ .up → exec (.signalLoss p) s = .next s) ∧
    (P.st = .relock →
      (s.now ≤ P.since + 10 → exec (.relock p) s = .next (retag s (serve (toPort s p .up)))) ∧
      (P.since + 10 < s.now → exec (.relock p) s = .next s) ∧
      (P.since + 10 ≤ s.now → exec (.relockTimeout p) s = .next (retag s (bypEval (toPort (modP s p (fun x => { x with attempts := 0, lanes := 0 })) p .training)))) ∧
      (s.now < P.since + 10 → exec (.relockTimeout p) s = .next s)) ∧
    (P.role = 3 → P.st = .up → P.badAt = [] → ∀ occupied, ∃ t, exec (.trunkFlitReceive p 0xFF false true 1 2 occupied) s = .next (retag s (release t)) ∧
      let full := congestedIn (2 ^ 20) (2 ^ 16) P.congested occupied
      t = modP s p (fun x => { x with congested := full, xoffOut := if s.now < P.adaptEnd then 0 else full, uncorrectable := satAdd 0xFFFFFFFF x.uncorrectable 1, badAt := [s.now], crcErrors := satAdd 0xFFFF x.crcErrors 1, rxDrops := satAdd 0xFFFF x.rxDrops 2 })) ∧
    (P.role ≠ 3 → ∀ a b c d e f, exec (.trunkFlitReceive p a b c d e f) s = .next s) ∧
    (∀ dest cls t, P.onRing = false → P.st = .up → cls < 7 → P.paused.find cls = some t →
      (s.now ≤ t + fieldOf (pauseCtrl s) 15 0 * 100 → exec (.pauseWatchdogExpiry p dest cls) s = .next s) ∧
      (natBit P.xoffIn cls = true → t + fieldOf (pauseCtrl s) 15 0 * 100 < s.now →
        exec (.pauseWatchdogExpiry p dest cls) s = .next (retag s (serve (raiseErr (fabricLog (failQueued
          (modP s p (fun x => { x with st := .stalled, since := s.now, lastReason := Code.xptPortStalled, wdTrips := satAdd 0xFFFF x.wdTrips 1 })) (fun e => e.port == p))
          p Code.xptPortStalled sevDegraded .up .stalled) 0x07 p sevDegraded Code.xptPortStalled 0x03 0))))) ∧
    (∀ dest, P.onRing = false → P.st = .stalled → P.xoffIn = 0 →
      (fieldOf (pauseCtrl s) 31 16 = 0 → exec (.stallHoldExpiry p dest) s = .next s) ∧
      (fieldOf (pauseCtrl s) 31 16 ≠ 0 → P.released.all (fun r => decide (r.2 + fieldOf (pauseCtrl s) 31 16 * 100 ≤ s.now)) = true →
        exec (.stallHoldExpiry p dest) s = .next (retag s (serve (toPort (modP s p (fun x => { x with paused := [], released := [] })) p .up)))))

/-- A ring slot passes, ends, or is emptied; hungry and XOFF marks; a queue pair moves port; the flow key and the egress shaping are written (R404; R405; R412; R413; R415; R453; R454; R475). -/
def Obligations.RingAndFlowRows : Prop :=
  (∀ (s : State) (dir : Nat) (x : Slot) (hd : HeaderRead),
    (s.tripped = true ∨ 2 ≤ dir ∨ (getP s (1 - dir)).st ≠ .up ∨ (getP s (1 - dir)).onRing = false → exec (.ringSlot dir x hd) s = .next s) ∧
    (∃ t, exec (.ringSlot dir x hd) s = .next t ∧ t = { s with fab := t.fab, adm := t.adm } ∧ t.adm.customers = s.adm.customers ∧ t.adm.classVt = s.adm.classVt ∧ t.fab.qps = s.fab.qps) ∧
    (s.tripped = false → dir < 2 → (getP s (1 - dir)).st = .up → (getP s (1 - dir)).onRing = true →
      let taken := fun (z : Slot) => emitSlot (markSlot (handleSlot s dir z).1 dir (handleSlot s dir z).2).1 dir (markSlot (handleSlot s dir z).1 dir (handleSlot s dir z).2).2
      (∀ y, hd = .fails y → bitOf (ringCtrl s) 8 = false ∨ y = none → exec (.ringSlot dir x hd) s = .next (emitSlot s dir x)) ∧
      (∀ z, hd = .fails (some z) → bitOf (ringCtrl s) 8 = true → z.xoff = 0 → z.hungry = false → exec (.ringSlot dir x hd) s = .next (taken z)) ∧
      (hd = .passes → x.xoff = 0 → x.hungry = false → exec (.ringSlot dir x hd) s = .next (taken x))) ∧
    (x.full = true → x.dest = self s → handleSlot s dir x = (s, { x with full := false, dest := 0x7FFF, bytes := 0 })) ∧
    (x.full = true → x.dest ≠ self s → 1 < x.hops → handleSlot s dir x = (s, { x with hops := x.hops - 1 })) ∧
    (x.full = true → x.dest ≠ self s → x.hops ≤ 1 → (handleSlot s dir x).2.full = false ∧
      (handleSlot s dir x).1.fab.ring.hopsExpired = satAdd 0xFFFFFFFF s.fab.ring.hopsExpired 1)) ∧
  (∀ (s : State), s.halted = false →
    (∀ dir e, s.fab.ring.hungry.contains dir = false → e ∈ s.fab.egress → e.port = dir → e.cls < 7 → e.since + 2 ≤ s.now → (getP s dir).onRing = true →
      exec (.hungry dir) s = .next { s with fab := { s.fab with ring := { s.fab.ring with
        hungry := s.fab.ring.hungry ++ [dir], hungryCnt := satAdd 0xFFFFFFFF s.fab.ring.hungryCnt 1 } } }) ∧
    (∀ dir, s.fab.egress = [] → exec (.hungry dir) s = .next s) ∧
    (∀ occupied, s.now ≤ s.fab.ring.xoffAt → exec (.ringXoffTick occupied) s = .next s) ∧
    (∀ occupied, s.fab.ring.xoffAt < s.now →
      let full := congestedIn (2 ^ 22) (Config.ringCircuit (fieldOf (ringCtrl s) 41 32)) s.fab.ring.congested occupied
      ∃ t, exec (.ringXoffTick occupied) s = .next t ∧ t.fab.ring.congested = full ∧ t.fab.ring.xoffAt = s.now ∧
      t.fab.ring.xoffDue = (if full = 0 then [] else [(0, full), (1, full)]) ∧ t.fab.qps = s.fab.qps ∧ t.dev = s.dev ∧ t.tz = s.tz) ∧
    (∀ size headroom was occupied c, c < 7 →
      let n := occupied.getD c 0
      natBit (congestedIn size headroom was occupied) c = true ↔ size < 7 * (n + headroom) ∨ (natBit was c = true ∧ size ≤ 14 * n)) ∧
    (∀ peer cls q p, findQp s peer cls = some q → q.moveTo = some p →
      (q.unacked = [] → exec (.queuePairMove peer cls) s = .next (retag s (pumpQp (modQp
        { s with fab := { s.fab with flowMoves := if q.rekey then s.fab.flowMoves else min 64 (s.fab.flowMoves + 1) } } (fun x => x.peer == peer && x.cls == cls)
        (fun x => { x with port := some p, moveTo := none, rekey := false, movedAt := s.now })) peer cls))) ∧
      (q.unacked ≠ [] → s.now < q.moveBy → exec (.queuePairMove peer cls) s = .next s)) ∧
    (∀ who v, isPhysical who = true → s.fab.nextKey = none → ∃ t, exec (.fabFlowKeyNextWrite who v) s = .next t ∧ t.fab.nextKey = some v ∧ t.fab.flowKey = s.fab.flowKey ∧ t.fab.keyEnd = max s.now s.fab.flowEnd + flowWindow s) ∧
    (∀ v, s.fab.nextKey = some v → (s.fab.keyEnd ≤ s.now → exec .flowKeyReplacementEnd s = .next { s with fab := { s.fab with flowKey := v, nextKey := none } }) ∧
      (s.now < s.fab.keyEnd → exec .flowKeyReplacementEnd s = .next s)) ∧
    (∀ who v, isPhysical who = false ∨ s.fab.nextKey.isSome = true → exec (.fabFlowKeyNextWrite who v) s = .next s) ∧
    (s.fab.nextKey = none → exec .flowKeyReplacementEnd s = .next s) ∧
    (∀ queued, s.now < s.fab.flowEnd → exec (.flowMonitorWindow queued) s = .next s) ∧
    (∀ queued, s.fab.flowEnd ≤ s.now → hottest s queued = none → (∀ q ∈ s.fab.qps, q.rekey = false) →
      exec (.flowMonitorWindow queued) s = .next (modQp { s with fab := { s.fab with flowEnd := s.now + flowWindow s } } (fun _ => true) (fun q => { q with sent := 0 }))) ∧
    (∀ who p t v, byPhysical who = false ∨ 8 ≤ p ∨ 8 ≤ t → exec (.fabShapeWrite who p t v) s = .next s) ∧
    (∀ who p t v, byPhysical who = true → p < 8 → t < 8 →
      let old := shapeReg s p t
      let burst := if 5 ≤ fieldOf v 47 32 then fieldOf v 47 32 else fieldOf old 47 32
      let rate := if fieldOf v 15 0 = 0 then fieldOf old 15 0 else fieldOf v 15 0
      let s1 := { s with regs := s.regs.set (0x500800 + 0x40 * p + 8 * t) (BitVec.ofNat 64 (burst * 2 ^ 32 + rate)) }
      (¬ (fieldOf old 15 0 = 0xFFFF ∧ rate ≠ 0xFFFF) → exec (.fabShapeWrite who p t v) s = .next s1) ∧
      (fieldOf old 15 0 = 0xFFFF → rate ≠ 0xFFFF →
        exec (.fabShapeWrite who p t v) s = .next { s1 with adm := { s1.adm with shape := s1.adm.shape.set (8 * p + t) (burst * 1024 : Int) } })))

/-- Writing a customer's entry, the buckets refilled by RATE to BURST, and admission with its codes (R463; R464; R465; R466; R467; R468; R469; R472). -/
def Obligations.CustomerRows : Prop :=
  (∀ (s : State) (who : Req) (i : Nat) (v : W64), s.halted = false →
    (byPhysical who = false ∨ 4096 ≤ i → exec (.admCustIdWrite who i v) s = .next s) ∧
    (byPhysical who = true → i < 4096 →
      let k := s.adm.customers.get Customer.init i
      let k1 := custFields k v
      let put := fun (k : Customer) => { s with adm := { s.adm with customers := s.adm.customers.set i k } }
      (bitOf v 63 = false → exec (.admCustIdWrite who i v) s = .next (put { k1 with valid := false })) ∧
      (bitOf v 63 = true → k.valid = true → exec (.admCustIdWrite who i v) s = .next (put k1) ∧ k1.customer = k.customer ∧ k1.keySlot = k.keySlot ∧
        k1.weight = (if fieldOf v 47 32 = 0 then k.weight else fieldOf v 47 32)) ∧
      (bitOf v 63 = true → k.valid = false → (∃ x ∈ s.adm.customers, x.1 ≠ i ∧ x.2.valid = true ∧ x.2.customer = k1.customer) →
        exec (.admCustIdWrite who i v) s = .next (put k1) ∧ k1.valid = false) ∧
      (bitOf v 63 = true → k.valid = false → k1.customer ≠ 0xFFFF → (∀ x ∈ s.adm.customers, x.1 ≠ i → x.2.valid = true → x.2.customer ≠ k1.customer) →
        exec (.admCustIdWrite who i v) s = .next (put (validate s k1)) ∧ (validate s k1).valid = true ∧ (validate s k1).level = k1.burst * 1000 ∧ (validate s k1).admitted = 0 ∧
        ∀ c, c < 4 → vtBefore ((validate s k1).vt.getD c 0) (classVt s c) = false))) ∧
  (∀ s : State, s.halted = false → ∃ t, exec .bucketRefillTick s = .next t ∧ t = { s with adm := { s.adm with customers := t.adm.customers } } ∧
    t.adm.customers.map (·.1) = s.adm.customers.map (·.1) ∧
    (∀ i k, (i, k) ∈ s.adm.customers → (i, if k.valid then { k with level := min (k.burst * 1000) (k.level + k.rate * (s.now - k.filledAt)), filledAt := s.now } else k) ∈ t.adm.customers) ∧
    (∀ x ∈ t.adm.customers, x.2.valid = true → x.2.level ≤ x.2.burst * 1000)) ∧
  (∀ (s : State) (q charge i : Nat) (e : Entry),
    let k := s.adm.customers.get Customer.init i
    let open_ := natBit (fieldOf (s.regs.get 0xF 0x700000) 3 0) e.prio
    let t := (admitEntry s q e charge).1
    let k' := t.adm.customers.get Customer.init i
    (firmwareQueue ≤ q → admitEntry s q e charge = (s, 0)) ∧
    (q < firmwareQueue → open_ = false → (admitEntry s q e charge).2 = Code.admClassClosed ∧ t.adm.customers = s.adm.customers ∧ t.adm.closed = satAdd 0xFFFF s.adm.closed 1) ∧
    (q < firmwareQueue → open_ = true → knownCustomer s e.customer = none → admitEntry s q e charge = (s, Code.tzRights)) ∧
    (q < firmwareQueue → open_ = true → knownCustomer s e.customer = some i →
      (charge * 1000 ≤ k.level → (admitEntry s q e charge).2 = 0 ∧ k'.level = k.level - charge * 1000 ∧ k'.admitted = wrapAdd 32 k.admitted 1 ∧
        k'.vt = k.vt.set e.prio ((k.vt.getD e.prio 0 + ceilDiv (charge * 65536) k.weight) % 2 ^ 64)) ∧
      (k.level < charge * 1000 → k.burst < charge ∨ k.rate = 0 → (admitEntry s q e charge).2 = Code.admBudgetExhausted ∧ k'.level = k.level ∧ k'.exhausted = satAdd 0xFFFFFFFF k.exhausted 1) ∧
      (k.level < charge * 1000 → charge ≤ k.burst → k.rate ≠ 0 → (admitEntry s q e charge).2 = Code.admPoliced ∧ k'.level = k.level ∧ k'.policed = satAdd 0xFFFFFFFF k.policed 1)) ∧
    t.tz = s.tz ∧ t.pages = s.pages ∧ t.dev = s.dev ∧ t.own = s.own)

/-- A spindle swap is checked and waits for entry 0; a boundary brings the next entry; a free tile takes no task it may not serve (R243; R244; R245; R247; R250; R251; R253; R254; R257; R263). -/
def Obligations.ScheduleRows : Prop :=
  (∀ (s : State) (who : Req) (v : W64), s.halted = false →
    let s1 := fun (v : W64) => setReg s 0x802000 (BitVec.ofNat 64 (fieldOf v 39 32 * 2 ^ 32))
    (isPhysical who = false → exec (.spindleSwap who v) s = .next s ∧ exec (.spindleSwapAbort who v) s = .next s) ∧
    (isPhysical who = true → s.til.swap = 0 →
      (∀ k, spindleFails s (1 - s.til.bank) (fieldOf (spindleNext s) 26 16) (fieldOf (spindleNext s) 5 0) = some k →
        ∃ t, exec (.spindleSwap who v) s = .next t ∧ t.til = { s.til with result := Code.cfgSpindleOvercommit, failSlot := k }) ∧
      (spindleFails s (1 - s.til.bank) (fieldOf (spindleNext s) 26 16) (fieldOf (spindleNext s) 5 0) = none →
        exec (.spindleSwap who v) s = .next { s1 (v ||| 1) with til := { s.til with result := Code.cfgOk, failSlot := 0, swap := 2 } })) ∧
    (isPhysical who = true → s.til.swap ≠ 0 → exec (.spindleSwapAbort who v) s = .next { s1 (v ||| 2) with til := { s.til with swap := 0 } })) ∧
  (∀ s : State, s.halted = false → s.now < s.til.slotAt + s.til.slotLen + 1 → exec .slotBoundary s = .next (retag s s)) ∧
  (∀ s : State, s.halted = false → s.til.slotAt + s.til.slotLen + 1 ≤ s.now →
    let n := nextEntry s
    (n.2 = 0 → s.til.swap = 2 → exec .slotBoundary s = .next (retag s (fillAll (boundaryDisplace { s with til := { s.til with
      bank := n.1, cur := 0, slotAt := s.now, swap := 0, cycleSlots := fieldOf (spindleNext s) 26 16, slotLen := fieldOf (spindleNext s) 5 0 } })))) ∧
    (n.2 ≠ 0 ∨ s.til.swap ≠ 2 → exec .slotBoundary s = .next (retag s (fillAll (boundaryDisplace { s with til := { s.til with cur := n.2, slotAt := s.now } })))) ∧
    (s.til.cur + 1 < s.til.cycleSlots → n = (s.til.bank, s.til.cur + 1)) ∧
    (s.til.cycleSlots ≤ s.til.cur + 1 → n.2 = 0 ∧ n.1 = (if s.til.swap = 2 then 1 - s.til.bank else s.til.bank))) ∧
  (∀ (s : State) (bank cycle len k t c d : Nat), t < 32 → c < 4 → d < 4 → c ≠ d → natBit (grantBits s bank k c) t = true → natBit (grantBits s bank k d) t = true →
    entryFails s bank cycle len k = true) ∧
  (∀ (s : State) (bank cycle len k t c : Nat), t < 32 → c < 4 → (getT s t).st = .outOfService → natBit (grantBits s bank k c) t = true → entryFails s bank cycle len k = true) ∧
  (∀ (s : State) (t c : Nat), tileFor s t c = true ↔
    (getT s t).st ≠ .outOfService ∧ (getT s t).heldOff = false ∧ (grantNow s t = none ∨ grantNow s t = some c ∨ lentNow s t = true)) ∧
  (∀ (s : State) (t : Nat) (k : Task), pickFor s t = some k →
    (k ∈ s.til.tasks ∧ (k.id ∈ (getT s t).saved ∨ eligible s t k = true) ∧ barred s t k = false ∧ saveRoom s t k = true) ∧
    (grantNow s t = some 0 → lentNow s t = false → k.cls = 0) ∧
    (∀ c, grantNow s t = some c → k.cls ≠ c → classPick s t c = none))

/-- Tiles: filling, completion, save and restore, waking, power gating, pre-wake, crossing, the die link, and the two descriptor completions (R38; R49; R52; R252; R253; R258; R262; R264; R265; R266; R267; R282). -/
def Obligations.TileRows : Prop :=
  ∀ (s : State) (t : Nat), s.halted = false →
    let T := getT s t
    (t < 32 → exec (.tileFree t) s = .next (retag s (fillTile s t))) ∧ (32 ≤ t → exec (.tileFree t) s = .next s) ∧
    (∀ i k, T.task = some i → findTask s i = some k → T.st = .running →
      (taskDone s k = true → exec (.taskComplete t) s = .next (retag s (freeTile (endTask s k) t))) ∧
      (taskDone s k = false → exec (.taskComplete t) s = .next s)) ∧
    (∀ i, T.task = some i → T.st = .saving →
      exec (.saveEnd t) s = .next (retag s (freeTile (modTask (setT s t { T with task := none, saved := T.saved ++ [i] }) i (fun k => { k with tile := none })) t))) ∧
    (∀ i, T.task = some i → T.st = .restoring →
      let u := setT s t { T with st := .running, saved := T.saved.filter (fun x => x != i), restores := wrapAdd 32 T.restores 1 }
      exec (.restoreEnd t) s = .next (retag s (if rowDisplaces u t false then displace u t else u))) ∧
    (∀ i, T.task = some i → T.st = .waking → exec (.tileWakeEnd t) s = .next (setT s t { T with st := if T.saved.contains i then .restoring else .running })) ∧
    (T.task = none → T.st = .waking → exec (.tileWakeEnd t) s = .next (retag s (fillTile (setT s t { T with st := .clockGated, since := s.now }) t))) ∧
    (T.st ≠ .waking → T.st ≠ .saving → T.st ≠ .restoring → exec (.tileWakeEnd t) s = .next s ∧ exec (.saveEnd t) s = .next s ∧ exec (.restoreEnd t) s = .next s) ∧
    (T.st = .clockGated → T.task = none → bitOf (powerCtrl s) 16 = true → T.since + fieldOf (powerCtrl s) 15 0 ≤ s.now → grantNow s t ≠ some 0 →
      heldWithin s t (fieldOf (powerCtrl s) 15 0 + 2) = false → 
      exec (.tilePowerGate t) s = .next (retag s (setT (dropAhead s T.ahead) t { getT (dropAhead s T.ahead) t with st := .powerGated, scratch := [] }))) ∧
    (T.st ≠ .clockGated ∨ bitOf (powerCtrl s) 16 = false ∨ grantNow s t = some 0 → exec (.tilePowerGate t) s = .next s) ∧
    (T.st = .powerGated → T.heldOff = false → heldWithin s t 2 = true → exec (.tilePreWake t) s = .next (setT s t { T with st := .waking })) ∧
    (T.st ≠ .powerGated ∨ heldWithin s t 2 = false → exec (.tilePreWake t) s = .next s) ∧
    (∀ i k, findTask s i = some k → readyTask s k = true → bitOf (placeCtrl s) 32 = true → k.since + fieldOf (placeCtrl s) 23 16 ≤ s.now →
      exec (.crossHalfWaitExpiry i) s = .next (retag s (placeReady (modTask s i (fun k => { k with cross := true }))))) ∧
    (∀ who v, isPhysical who = true → bitOf v 16 = true → exec (.tilPowerCtrlWrite who v) s =
      .next (setReg s 0x120008 (BitVec.ofNat 64 (2 ^ 16 + (if fieldOf v 15 0 = 0 then fieldOf (powerCtrl s) 15 0 else fieldOf v 15 0))))) ∧
    (∀ who v, isPhysical who = true → bitOf v 16 = false → ∃ u, exec (.tilPowerCtrlWrite who v) s = .next u ∧ u.dev = s.dev ∧ u.tz = s.tz ∧
      (∀ j, j < 32 → (getT u j) = (if (getT s j).st = .powerGated then { getT s j with st := .waking } else getT s j))) ∧
    (∀ who v, isPhysical who = true → 2 ≤ fieldOf v 11 8 → fieldOf v 11 8 ≤ 7 → 2 ≤ fieldOf v 3 0 → fieldOf v 3 0 ≤ 10 → fieldOf v 11 8 + fieldOf v 3 0 ≤ 15 →
      exec (.memXhalfCtrlWrite who v) s = .next (setReg s 0x200F00 (BitVec.ofNat 64 (fieldOf v 11 8 * 256 + fieldOf v 3 0)))) ∧
    (∀ who v, isPhysical who = false ∨ fieldOf v 11 8 < 2 ∨ 7 < fieldOf v 11 8 ∨ fieldOf v 3 0 < 2 ∨ 10 < fieldOf v 3 0 ∨ 15 < fieldOf v 11 8 + fieldOf v 3 0 →
      exec (.memXhalfCtrlWrite who v) s = .next s) ∧
    (∀ half g, half < 2 → s.til.halfOut.contains half = false →
      let n := s.til.lanesLost.get 0 half + g
      let u := { s with til := { s.til with lanesLost := s.til.lanesLost.set half n } }
      (n ≤ 2 → exec (.dieLinkLaneLoss half g) s = .next u) ∧
      (2 < n → exec (.dieLinkLaneLoss half g) s = .next (retag s (raiseErr (halfOutOfService u half) 0x03 half sevDegraded Code.memUncorrectable 0x04 0)))) ∧
    (∀ d p, s.til.descs.find? (fun x => x.id == d.id) = some d → d.kind = 3 → findPage s d.page = some p → p.lost = false → p.tiers ≠ [] → p.stack = none →
      exec (.pageFetchComplete d.id) s = .next (retag s (walksOn (tellMoved (walkFirst
        (setPage (dropDesc s d.id) { p with stack := d.frame, stackDirty := false, newest := tStacks }) d.instr (d.page, d.task)) p)))) ∧
    (∀ d k, s.til.descs.find? (fun x => x.id == d.id) = some d → d.kind = 1 → findTask s d.task = some k → k.tile = some t → T.st = .running →
      (s.til.descs.filter (fun x => x.kind == 1 && x.task == d.task && x.instr == d.instr)).all (fun x => decide (d.id ≤ x.id)) = true →
      exec (.descriptorComplete d.id) s = .next (retag s (walksOn (dropDesc
        (countCross (modTask (freeLive s k.ceiling).2 d.task (fun x => { x with live := (freeLive s k.ceiling).1 })) d.page d.instr t) d.id))))

/-- Hot spots, the rekey from its key to its hold-off, the scrub's outcomes and channel retraining (R285; R289; R292; R293; R294; R296; R298; R299; R300; R301; R303; R329). -/
def Obligations.StackRows : Prop :=
  ∀ s : State, s.halted = false →
    (∀ means, s.now < s.mc.hotEnd → exec (.hotspotWindow means) s = .next s) ∧
    (∀ means, s.mc.hotEnd ≤ s.now → (∀ x ∈ means, hotChannel s x = false) →
      exec (.hotspotWindow means) s = .next { s with mc := { s.mc with hotEnd := s.now + fieldOf (hotspotCtrl s) 15 0 * 1000 } }) ∧
    (∀ x, s.mc.hotEnd ≤ s.now → hotChannel s x = true →
      let s1 := logEvent { s with mc := { s.mc with hotEnd := s.now + fieldOf (hotspotCtrl s) 15 0 * 1000, hotEvents := wrapAdd 32 s.mc.hotEvents 1, hotChannel := x.1, hotRatio := hotRatio x } } (evOf 0x04 0 sevInfo 0 [x.1, hotRatio x, bit (bitOf (hotspotCtrl s) 16 && s.mc.nextKey.isSome && s.mc.rekey == 0)])
      exec (.hotspotWindow [x]) s = .next (if bitOf (hotspotCtrl s) 16 = true ∧ s.mc.nextKey.isSome = true ∧ s.mc.rekey = 0 then startRekey s1 else s1)) ∧
    (∀ who v, isPhysical who = false → exec (.memHashNextWrite who v) s = .next s ∧ exec (.rekeyStart who v) s = .next s) ∧
    (∀ who v, isPhysical who = true → s.mc.rekey ≠ 1 → exec (.memHashNextWrite who v) s = .next { setReg s 0x201010 v with mc := { s.mc with nextKey := some v } }) ∧
    (∀ who v, isPhysical who = true → s.mc.rekey = 1 → exec (.memHashNextWrite who v) s = .next { s with mc := { s.mc with rekeyReason := Code.memRekeyBusy } }) ∧
    (∀ who v, isPhysical who = true → s.mc.nextKey.isSome = true → s.mc.rekey = 0 → ∃ t, exec (.rekeyStart who v) s = .next t ∧
      t.mc = { s.mc with rekey := 1, fence0 := 0, fence1 := 0, halvesDone := [], rekeyReason := 0 } ∧ t.hashKey = s.hashKey ∧ t.dev = s.dev ∧ t.pages = s.pages) ∧
    (s.mc.rekey = 1 → braking s = false → s.mc.halvesDone.contains 0 = false →
      (s.mc.fence0 < lastRow s 0 → exec (.rekeyRow 0) s = .next { s with mc := { s.mc with fence0 := s.mc.fence0 + 1 } }) ∧
      (lastRow s 0 ≤ s.mc.fence0 → s.mc.halvesDone = [] → exec (.rekeyRow 0) s = .next { s with mc := { s.mc with fence0 := s.mc.fence0 + 1, halvesDone := [0] } }) ∧
      (lastRow s 0 ≤ s.mc.fence0 → s.mc.halvesDone = [1] → ∃ t, exec (.rekeyRow 0) s = .next t ∧ t.hashKey = s.mc.nextKey.getD s.hashKey ∧ t.mc.nextKey = none ∧ t.mc.rekey = 2 ∧
        t.mc.holdUntil = s.now + fieldOf (rekeyCtrl s) 31 16 * 1000000)) ∧
    (s.mc.rekey ≠ 1 ∨ braking s = true → ∀ half, exec (.rekeyRow half) s = .next s) ∧
    (s.mc.rekey = 2 → s.mc.holdUntil ≤ s.now → exec .rekeyHoldoffExpiry s = .next { s with mc := { s.mc with rekey := 0 } }) ∧
    (s.now < s.mc.holdUntil → exec .rekeyHoldoffExpiry s = .next s) ∧
    (bitOf (s.regs.get 0x102 0x201028) 8 = false → ∀ area c a e l, exec (.patrolScrubSector area c a e l) s = .next s) ∧
    (bitOf (s.regs.get 0x102 0x201028) 8 = true →
      (∀ area c a e, errorRead e = 0 → exec (.patrolScrubSector area c a e true) s = .next { s with mc := { s.mc with scrubPasses := wrapAdd 16 s.mc.scrubPasses 1 } }) ∧
      (∀ area c a e, errorRead e = 1 → ∃ t, exec (.patrolScrubSector area c a e false) s = .next t ∧ t.mc.scrubCorrected = satAdd 0xFFFFFFFF s.mc.scrubCorrected 1 ∧ t.mc.rewrites = s.mc.rewrites + 1 ∧
        t.pages = s.pages ∧ t.dev = s.dev) ∧
      (∀ n p c a e, errorRead e = 2 → findPage s n = some p → p.kind ≠ .staged → p.cleanIn tHost = true → exec (.patrolScrubSector (.page n) c a e false) s = .next (retag s
        (setPage { s with mc := { s.mc with scrubBad := satAdd 0xFFFF s.mc.scrubBad 1 } } { p.dropTier tStacks with newest := tHost })))) ∧
    (∀ b, (blockPlace s b).2 = b % halfBlocks s / 96 ∧ (blockPlace s b).1 / 96 = b / halfBlocks s) ∧
    (∀ channel slot, 96 * slot + 96 ≤ halfBlocks s → blockPlace s (blockAt s channel slot) = (channel, slot)) ∧
    (exec .sectorRewrite s = .next { s with mc := { s.mc with rewrites := s.mc.rewrites - 1 } }) ∧
    (∀ c m, c < 192 → s.mc.retrained.find c = none → exec (.channelRetrain c m) s = .next { s with mc := { s.mc with retrained := s.mc.retrained.set c s.now } }) ∧
    (∀ c m t, s.mc.retrained.find c = some t → s.now < t + 100000 → exec (.channelRetrain c m) s = .next s)

/-- Loading a table into a slot, selecting slots by kind, re-coding, and a key slot from LOAD through DESTROY to its sweep (R316; R317; R318; R319; R326; R327; R330; R332; R333). -/
def Obligations.TableAndKeyRows : Prop :=
  (∀ (s : State) (who : Req) (v : W64), s.halted = false →
    (isPhysical who = false → exec (.tableLoad who v) s = .next s ∧ exec (.cxeCompSelWrite who v) s = .next s) ∧
    (isPhysical who = true → fieldOf v 18 15 = 0 ∨ s.cx.loadWaiting.isSome = true → exec (.tableLoad who v) s = .next (setReg s 0x300010 (v &&& 0xFFFFFFFFFFFF8000))) ∧
    (isPhysical who = true → fieldOf v 18 15 ≠ 0 → s.cx.loadWaiting = none → scheduling (setReg s 0x300010 (v &&& 0xFFFFFFFFFFFF8000)) = false →
      exec (.tableLoad who v) s = .next { setReg s 0x300010 (v &&& 0xFFFFFFFFFFFF8000) with cx := { s.cx with loadWaiting := some v } }) ∧
    (let s1 := setReg s 0x300010 (v &&& 0xFFFFFFFFFFFF8000)
     let expect := fieldOf (s1.regs.get 0 0x300018) 31 0
     isPhysical who = true → fieldOf v 18 15 ≠ 0 → s.cx.loadWaiting = none → scheduling s1 = true → 5 ≤ fieldOf v 25 19 → fieldOf v 25 19 ≤ 0x40 →
      ((tableFile s1 (fieldOf v 63 26 * 64) (fieldOf v 25 19)).bind (fun bs => parseTable bs (fieldOf v 25 19)) = none →
        exec (.tableLoad who v) s = .next (loadFails s1 Code.ctTableInvalid)) ∧
      (∀ id lens runs i, (tableFile s1 (fieldOf v 63 26 * 64) (fieldOf v 25 19)).bind (fun bs => parseTable bs (fieldOf v 25 19)) = some (id, lens, runs) → expect = 0 →
        s.cx.slots.findIdx? (fun t => (t.st == 2 || t.st == 3) && t.id == id) = none → s.cx.slots.findIdx? (fun t => t.st == 0) = some i →
        exec (.tableLoad who v) s = .next (loadDone { s1 with cx := { s1.cx with
          genCounter := s.cx.genCounter + 1, slots := s.cx.slots.set i { st := 2, gen := s.cx.genCounter + 1, id := id, lens := lens, runs := runs } } } i (fieldOf v 18 15)))) ∧
    (isPhysical who = true →
      let legal := fun (n : Nat) => n == 15 || (match s.cx.slots[n]? with | some t => t.st == 2 || t.st == 3 | none => false)
      let pick := fun (k : Nat) => if legal (fieldOf v (4 * k + 3) (4 * k)) then fieldOf v (4 * k + 3) (4 * k) else kindSel s k
      exec (.cxeCompSelWrite who v) s = .next (selectSlots (setReg s 0x300000 (BitVec.ofNat 64 (pick 0 + 16 * pick 1 + 256 * pick 2 + 4096 * pick 3))))) ∧
    (∀ place, bitOf (s.regs.get 0x108 0x300008) 8 = false ∨ braking s = true → exec (.recodeBlock place) s = .next s) ∧
    (∀ i, bitOf (s.regs.get 0x108 0x300008) 8 = true → braking s = false →
      ((s.cx.carveTags.find i).any (tagRetiring s) = true → exec (.recodeBlock (.carve i)) s =
        .next { s with cx := freeSlots { s.cx with carveTags := putTag s.cx.carveTags i (blockTag s 2 (s.dev.read (2048 * i) 2048)) } }) ∧
      ((s.cx.carveTags.find i).any (tagRetiring s) = false → exec (.recodeBlock (.carve i)) s = .next s))) ∧
  (∀ (s : State) (who : Req) (i : Nat), s.halted = false → isPhysical who = true → i < 1024 →
    (i ≠ 0 → s.keySlots.get 0 i = 0 → (keyData s).take 4 ≠ (keyData s).drop 4 → ∃ t, exec (.keyLoad who i) s = .next t ∧ t.keySlots.get 0 i = 1 ∧ t.cx.keys.get [] i = keyData s ∧
      t.cx.keyResult = 0 ∧ (∀ k, k < 8 → t.regs.get 0 (0x300100 + 8 * k) = 0) ∧ (∀ j, j ≠ i → t.keySlots.get 0 j = s.keySlots.get 0 j) ∧ t.pages = s.pages ∧ t.dev = s.dev) ∧
    (i = 0 ∨ s.keySlots.get 0 i ≠ 0 ∨ (keyData s).take 4 = (keyData s).drop 4 → ∃ t, exec (.keyLoad who i) s = .next t ∧ t.keySlots = s.keySlots ∧ t.cx.keys = s.cx.keys ∧
      t.cx.keyResult = Code.keyInvalid) ∧
    (i ≠ 0 → s.keySlots.get 0 i = 1 → ∃ t, exec (.keyDestroy who i) s = .next t ∧ t.keySlots.get 0 i = 2 ∧ t.cx.keys.find i = none ∧ t.cx.keyResult = 0 ∧ t.pages = s.pages) ∧
    (i = 0 ∨ s.keySlots.get 0 i ≠ 1 → ∃ t, exec (.keyDestroy who i) s = .next t ∧ t.keySlots = s.keySlots ∧ t.cx.keys = s.cx.keys ∧ t.cx.keyResult = Code.keyInvalid)) ∧
  (∀ (s : State) (i : Nat), s.halted = false →
    (s.keySlots.get 0 i ≠ 2 ∨ bitOf (s.regs.get 0x108 0x300008) 8 = false ∨ braking s = true → exec (.keySweep i) s = .next s) ∧
    (s.keySlots.get 0 i = 2 → bitOf (s.regs.get 0x108 0x300008) 8 = true → braking s = false → s.own.copies = [] → s.own.homes = [] → s.rgn.keys = [] → s.til.tasks = [] →
      ∃ t, exec (.keySweep i) s = .next t ∧ t.keySlots.get 0 i = 0 ∧ t.host = s.host ∧ t.dev = s.dev ∧
        (∀ q ∈ s.pages, pageKeySlot s q = i → ∀ p ∈ t.pages, p.number = q.number → p.stack = none ∧ p.host = none ∧ p.flash = none ∧ p.lost = true) ∧
        (∀ p ∈ s.pages, (∀ q ∈ s.pages, q.number = p.number → pageKeySlot s q ≠ i) → p ∈ t.pages ∨ { p with lookahead := false } ∈ t.pages) ∧
        t.fl.toErase = s.fl.toErase ++ (s.pages.filter (fun p => pageKeySlot s p == i)).filterMap (·.flash)))

/-- Flash reads, programs, erases, busy timeouts, patrol and retraining (R337; R344; R345; R346; R348; R351; R352). -/
def Obligations.FlashRows : Prop :=
  ∀ s : State, s.halted = false →
    (∀ addr step bits,
      let ch := addr / 2 ^ 40
      let v := getB s (blockOf addr)
      let u := modFl s (fun f => { f with busFails := f.busFails.del ch, blocks := f.blocks.set (blockOf addr) { v with reads := satAdd 0xFFFFFFFF v.reads 1 },
                                          retries := if 1 ≤ step then satAdd 0xFFFFFFFF f.retries 1 else f.retries, soft := if 9 ≤ step then satAdd 0xFFFFFFFF f.soft 1 else f.soft })
      let high : Bool := decide (fieldOf (flPatrolCtrl s) 27 16 < bits ∨ fieldOf (flPatrolCtrl s) 3 0 ≤ step)
      (s.fl.tier = 0 ∨ s.fl.targetsOut.contains (targetOf addr) = true ∨ inFlash s addr = false → exec (.flashRead addr step bits) s = .next s) ∧
      (s.fl.tier ≠ 0 → s.fl.targetsOut.contains (targetOf addr) = false → inFlash s addr = true →
        (step = 11 → exec (.flashRead addr step bits) s = .next (modFl s (fun f => { f with busFails := f.busFails.set ch (min 10 (f.busFails.get 0 ch + 1)) }))) ∧
        (step < 10 → high = false → exec (.flashRead addr step bits) s = .next u) ∧
        (step < 10 → high = true → exec (.flashRead addr step bits) s = .next (queueRefresh u (blockOf addr))) ∧
        (step < 10 → high = true → s.fl.erasing.contains (blockOf addr) = false → (queueRefresh u (blockOf addr)).fl.refresh.contains (blockOf addr) = true) ∧
        (step = 10 → ∃ t, exec (.flashRead addr step bits) s = .next t ∧ t.fl.uncorrectable = satAdd 0xFFFFFFFF s.fl.uncorrectable 1 ∧ (getB t (blockOf addr)).reads = satAdd 0xFFFFFFFF v.reads 1))) ∧
    (∀ ffn f, s.fl.frames.find ffn = some f →
      (f.kind ≠ 2 → (missFrame s ffn).fl.frames.find ffn = some { f with st := 3, prev := none }) ∧
      (f.kind = 2 → (missFrame s ffn).fl.frames.find ffn = none ∧ (missFrame s ffn).fl.dirty.contains f.about = true)) ∧
    (∀ ffn f, (settle s).fl.frames.find ffn = some f → f.st = 0 →
      exec (.flashProgramComplete ffn true) s = .next (noteMap (modFl (settle s) (fun x => { x with frames := x.frames.set ffn { f with st := 1 } })) ffn { f with st := 1 }) ∧
      exec (.flashProgramComplete ffn false) s = .next (retag s (retireBlock (settle s) (blockOf f.start)))) ∧
    (∀ ffn ok, (settle s).fl.frames.find ffn = none → exec (.flashProgramComplete ffn ok) s = .next (settle s)) ∧
    (∀ b g, s.fl.geom = some g → (settle s).fl.erasing.contains b = true → (settle s).fl.frames.any (fun x => x.2.touches b && x.2.st != 3) = false →
      let pe := min 1048575 ((getB (settle s) b).pe + 1)
      let free : FlBlock := { st := 0, pe := pe, reads := 0, used := 0 }
      let u := modFl (settle s) (fun f => { f with blocks := f.blocks.set b free, erasing := f.erasing.erase b, erasePending := f.erasePending.erase b, overread := f.overread.erase b })
      (pe < g.rated → g.bad.contains b = false → exec (.flashEraseComplete b true) s = .next (putB u b free)) ∧
      (g.rated ≤ pe ∨ g.bad.contains b = true → exec (.flashEraseComplete b true) s = .next (retag s (retireBlock u b))) ∧ exec (.flashEraseComplete b false) s = .next (retag s (retireBlock u b))) ∧
    (∀ b ok, (settle s).fl.erasing.contains b = false → exec (.flashEraseComplete b ok) s = .next (settle s)) ∧
    (∀ b, s.fl.frames.any (fun x => x.2.within b && decide (x.2.st < 3)) = false →
      (retireBlock s b).fl.blocks.find b = some { getB s b with st := 6 } ∧ (retireBlock s b).fl.retired = satAdd 0xFFFFFFFF s.fl.retired 1) ∧
    (∀ a, s.fl.tier ≠ 0 → s.fl.targetsOut.contains (targetOf a) = false →
      (∀ w, s.fl.resets.find (targetOf a) = some w → s.now < w + 1000000 → ∃ t, exec (.flashBusyTimeout a) s = .next t ∧ t.fl.targetsOut = s.fl.targetsOut ++ [targetOf a]) ∧
      (s.fl.resets.find (targetOf a) = none → exec (.flashBusyTimeout a) s =
        .next (retag s (retireBlock (modFl s (fun f => { f with resets := f.resets.set (targetOf a) s.now })) (blockOf a))))) ∧
    (∀ b reads last, s.fl.tier < 2 ∨ braking s = true ∨ (bitOf (flBgCtrl s) 8 = false ∧ s.fl.patrolling = none) → exec (.flashPatrol b reads last) s = .next s) ∧
    (∀ b, paused s = false → 2 ≤ s.fl.tier → braking s = false → bitOf (flBgCtrl s) 8 = true ∨ s.fl.patrolling ≠ none →
      (∀ reads last, patrolNext (patrolPass s) ≠ some b → exec (.flashPatrol b reads last) s = .next (patrolPass s)) ∧
      (patrolNext (patrolPass s) = some b →
        exec (.flashPatrol b [] true) s = .next (patrolDone (patrolPass s) b) ∧
        ∀ a step bits, blockOf a = b → exec (.flashPatrol b [(a, step, bits)] false) s =
          .next (retag s (modFl (codewordRead (patrolPass s) a step bits) (fun f => { f with patrolling := some b }))))) ∧
    (s.fl.patrolled = none → s.now < s.fl.patrolAt + fieldOf (flPatrolCtrl s) 63 48 * 3600000000 → patrolPass s = s) ∧
    (∀ b v, s.fl.patrolled = none → s.fl.patrolAt + fieldOf (flPatrolCtrl s) 63 48 * 3600000000 ≤ s.now → (b, v) ∈ patrolBlocks s → 0 < b →
      (patrolPass s).fl.patrolAt = s.now ∧ (patrolPass s).fl.patrolled = some 0 ∧ (patrolPass s).fl.passes = s.fl.passes) ∧
    (∀ p, s.fl.patrolled = some p → s.fl.patrolling = none → (∀ x ∈ patrolBlocks s, x.1 ≤ p) →
      (patrolPass s).fl.patrolled = none ∧ (patrolPass s).fl.passes = satAdd 0xFFFFFFFF s.fl.passes 1) ∧
    (∀ b, patrolNext s = some b → s.fl.patrolling = none → ∃ v, (b, v) ∈ patrolBlocks s ∧
      ((readLimit s < v.reads ∧ s.fl.overread.contains b = false) ∨ (∃ p, s.fl.patrolled = some p ∧ p < b))) ∧
    (∀ ch, s.fl.tier ≠ 0 → ch < 16 → s.fl.retrained.find ch = none ∨ s.fl.busFails.get 0 ch = 10 →
      exec (.flashChannelRetrain ch) s = .next (modFl s (fun f => { f with retrained := f.retrained.set ch s.now, busFails := f.busFails.del ch }))) ∧
    (∀ ch, s.fl.tier = 0 ∨ 16 ≤ ch → exec (.flashChannelRetrain ch) s = .next s)

/-- The journal, reclaim, refresh, wear relocation, the erasure sweep, checkpoint and recovery (R343; R345; R346; R349; R350; R355; R357; R358; R359; R362). -/
def Obligations.FlashMapRows : Prop :=
  ∀ s : State, s.halted = false →
    (∀ j rest, paused s = false → (settle s).fl.jq = j :: rest → 2 ≤ s.fl.tier →
      let u := modFl (settle s) (fun f => { f with jq := rest, jseq := f.jseq + 1, journal := f.journal ++ [{ j with seq := f.jseq + 1 }], dirty := j.dirties f.dirty })
      (sideOut (settle s) 0 = true → sideOut (settle s) 1 = true → exec .journalRecord s = .next (settle s)) ∧
      (sideOut (settle s) 0 = false ∨ sideOut (settle s) 1 = false →
        (j.type ≠ 1 → j.type ≠ 5 → exec .journalRecord s = .next u) ∧ (j.type = 1 → exec .journalRecord s = .next (retag s (mapped u j.arg))) ∧
        (j.type = 5 → exec .journalRecord s = .next (retag s (mapped u (mapKey j.arg)))))) ∧
    (paused s = false → (settle s).fl.jq = [] → exec .journalRecord s = .next (settle s)) ∧
    (∀ ffn f p q, s.fl.frames.find ffn = some f → f.st = 1 → f.page = some p → findPage s p.number = some q →
      (mapped s ffn).fl.frames.find ffn = some { f with st := 2, prev := none } ∧
      ∃ q', findPage (mapped s ffn) p.number = some q' ∧ q'.flash = some ffn ∧ q'.flashDirty = !(p.rows == q.rows) ∧ q'.lost = false ∧ q'.rows = q.rows) ∧
    (∀ ffn f h, s.fl.frames.find ffn = some f → f.st = 1 → f.page = none → f.kind = 3 → s.rgn.holds.find? (fun h => h.handle == f.about) = some h →
      (mapped s ffn).fl.frames.find ffn = some { f with st := 2, prev := none } ∧ (mapped s ffn).fl.shards = s.fl.shards ++ [h] ∧
      (mapped s ffn).fl.jq = s.fl.jq ++ [{ seq := 0, type := 6, arg := ffn, frame := none, block := none, hold := some h }]) ∧
    (∀ plane g, paused s = false → s.fl.geom = some g → 2 ≤ s.fl.tier →
      (2 < freeCount (settle s) g plane → exec (.reclaim plane) s = .next (settle s)) ∧
      (∀ b, freeCount (settle s) g plane ≤ 2 → leastBlock (closedBlocks (settle s) plane) (fun x => validSectors (settle s) x.1) = some b →
        exec (.reclaim plane) s = .next (retag s (reclaimBlock (settle s) b)) ∧ ∀ x ∈ closedBlocks (settle s) plane, validSectors (settle s) b ≤ validSectors (settle s) x.1)) ∧
    (∀ b, paused s = false → (settle s).fl.refresh.contains b = false ∨ braking s = true → exec (.refresh b) s = .next (settle s)) ∧
    (∀ b, paused s = false → 2 ≤ s.fl.tier → braking s = false → (settle s).fl.refresh.contains b = true → (settle s).fl.frames.any (fun x => x.2.within b) = false →
      ∃ t, exec (.refresh b) s = .next t ∧ t.fl.refresh.contains b = (((settle s).fl.refresh.erase b).contains b) ∧ t.fl.erasing.contains b = true) ∧
    (∀ plane, paused s = false → bitOf (flBgCtrl s) 8 = false ∨ braking s = true → exec (.wearRelocation plane) s = .next (settle s)) ∧
    (∀ plane g b x y, paused s = false → s.fl.geom = some g → 2 ≤ s.fl.tier → braking s = false → bitOf (flBgCtrl s) 8 = true →
      x ∈ (settle s).fl.blocks → y ∈ (settle s).fl.blocks → planeOf x.1 = plane → planeOf y.1 = plane → x.2.st ≤ 3 → y.2.st ≤ 3 → metaBlock g x.1 = false → metaBlock g y.1 = false →
      y.2.pe + fieldOf (flWearCtrl s) 31 16 < x.2.pe → leastBlock (closedBlocks (settle s) plane) (fun x => x.2.pe) = some b →
      exec (.wearRelocation plane) s = .next (retag s (reclaimBlock (settle s) b))) ∧
    (paused s = false → 2 ≤ s.fl.tier → braking s = false → ∃ t, exec .flashErasureSweep s = .next t ∧ t.fl.toErase = [] ∧ ∀ x ∈ t.fl.frames, s.fl.toErase.contains x.1 = true → x.2.kind = 3) ∧
    (s.fl.tier < 2 ∨ braking s = true → exec .flashErasureSweep s = .next s) ∧
    (s.fl.tier < 2 ∨ s.fl.journal = [] → exec .checkpoint s = .next s) ∧
    (paused s = false → 2 ≤ s.fl.tier → 2 ^ s.fl.ckptRecords ≤ s.fl.journal.length ∨ (s.fl.journal ≠ [] ∧ s.fl.ckptAt + fieldOf (flMetaCtrl s) 31 16 * 1000000 ≤ s.now) →
      let u := writeMapPages s
      (sideOut u 0 = true → sideOut u 1 = true → exec .checkpoint s = .next u) ∧
      (sideOut u 0 = false ∨ sideOut u 1 = false →
        ∃ t c, exec .checkpoint s = .next t ∧ t.fl.journal = [] ∧ t.fl.ckptAt = s.now ∧ c.journalSeq = u.fl.jseq ∧ c.frames = mapNow u ∧ c.blocks = u.fl.blocks ∧ c.shards = u.fl.shards ∧
          c.warm = none ∧ c.warmFfn = 0 ∧
          (sideOut u 0 = false → sideOut u 1 = true → t.fl.copyA = some c ∧ t.fl.copyB = u.fl.copyB) ∧ (sideOut u 0 = true → t.fl.copyB = some c ∧ t.fl.copyA = u.fl.copyA) ∧
          (sideOut u 0 = false → sideOut u 1 = false →
            (u.fl.copyA = none → t.fl.copyA = some c ∧ t.fl.copyB = u.fl.copyB) ∧
            (∀ x, u.fl.copyA = some x → 0 < x.seq → u.fl.copyB = none → t.fl.copyB = some c ∧ t.fl.copyA = u.fl.copyA ∧ c.seq = x.seq + 1) ∧
            (∀ x y, u.fl.copyA = some x → u.fl.copyB = some y →
              c.seq = max x.seq y.seq + 1 ∧ (x.seq ≤ y.seq → t.fl.copyA = some c ∧ t.fl.copyB = some y) ∧ (y.seq < x.seq → t.fl.copyA = some x ∧ t.fl.copyB = some c))))) ∧
    (∀ i, (writeMapPages s).fl.dirty.contains i = true → s.fl.dirty.contains i = true) ∧
    ((writeMapPages s).fl.copyA = s.fl.copyA ∧ (writeMapPages s).fl.copyB = s.fl.copyB ∧ (writeMapPages s).fl.shards = s.fl.shards) ∧
    (∀ g n, s.fl.geom = some g → s.fl.tier = 1 → s.cfg.insert = false →
      (∃ t, exec (.flashRecovery true true n) s = .next t ∧ t.fl.tier = 2 ∧ t.fl.frames = [] ∧ t.fl.shards = [] ∧ t.fl.journal = [] ∧ t.fl.reason = Code.flMetaRollback) ∧
      (∀ c badB, s.fl.copyA = some c → c.geom = g.raw → badB = true ∨ s.fl.copyB = none ∨ (∃ y, s.fl.copyB = some y ∧ (y.geom ≠ g.raw ∨ y.seq < c.seq)) →
        ∃ t, exec (.flashRecovery false badB 0) s = .next t ∧ t.fl.frames = c.frames ∧ t.fl.shards = c.shards ∧ t.fl.warmFound = (if (c.frames.find c.warmFfn).any (fun x => x.kind == 4 && x.st == 2) then c.warm else none) ∧
          t.fl.patrolled = some 0 ∧ t.fl.patrolAt = s.now ∧
          ((∀ b ∈ g.bad, 1 < (c.blocks.get FlBlock.init b).st) → t.fl.jq = [] ∧ t.fl.blocks.map (·.1) = c.blocks.map (·.1) ∧ ∀ x ∈ t.fl.blocks, x.2.st ≠ 2))) ∧
    (∀ a b n, s.fl.tier ≠ 1 → s.cfg.insert = false → exec (.flashRecovery a b n) s = .next s)

/-- Firmware images, activation, the handoff, deferral, cancellation and the watchdog (R502; R503; R504; R505; R506; R507; R508; R513; R514). -/
def Obligations.FirmwareRows : Prop :=
  ∀ s : State, s.halted = false →
    (∀ who v target, isPhysical who = false → exec (.firmwareLoad who v) s = .next s ∧ exec (.firmwareActivate who target) s = .next s ∧ exec (.activationCancel who) s = .next s) ∧
    (∀ who v, isPhysical who = true →
      let i := fieldOf (v ||| 1) 1 1
      let n := fieldOf (v ||| 1) 29 16
      let u := setReg s 0x900008 ((v ||| 1) &&& 0x3FFF0002)
      let bs := hostRead s (fidOf who.port 0) (fieldOf (s.regs.get 0 0x900000) 63 12 * 4096) (n * 4096)
      let idle_ : Prop := (fwSlot s i).st ≠ 3 ∧ ((s.fwRun ≠ 2 ∧ s.fwRun ≠ 3) ∨ s.fw.goal ≠ i)
      ((fwSlot s i).st = 3 ∨ (s.fwRun = 2 ∧ s.fw.goal = i) ∨ (s.fwRun = 3 ∧ s.fw.goal = i) → exec (.firmwareLoad who v) s = .next u) ∧
      (idle_ → n < 2 ∨ 0x2000 < n → exec (.firmwareLoad who v) s = .next (modFw (setSlot u i FwSlot.empty) (fun f => { f with result := Code.fwSignature }))) ∧
      (idle_ → 2 ≤ n → n ≤ 0x2000 → imageOk s.part bs (n * 4096) = false →
        exec (.firmwareLoad who v) s = .next (modFw (setSlot u i FwSlot.empty) (fun f => { f with result := Code.fwSignature }))) ∧
      (idle_ → 2 ≤ n → n ≤ 0x2000 → imageOk s.part bs (n * 4096) = true → exec (.firmwareLoad who v) s = .next (modFw (setSlot u i (slotOf bs)) (fun f => { f with result := 0 })))) ∧
    (∀ who i, isPhysical who = true → i < 2 →
      (s.fwRun < 2 → (fwSlot s i).st ≠ 2 → exec (.firmwareActivate who i) s = .next (modFw s (fun f => { f with target := i, result := Code.fwLoadRequired }))) ∧
      (s.fwRun = 0 → (fwSlot s i).st = 2 → ∃ t, exec (.firmwareActivate who i) s = .next t ∧ t.fwRun = 1 ∧ t.fw.active = i ∧ t.fw.result = 0 ∧
        t.fw.slots = s.fw.slots.set i { fwSlot s i with st := 3 }) ∧
      (s.fwRun = 1 → (fwSlot s i).st = 2 → s.ladder ≠ 0 → ∃ t, exec (.firmwareActivate who i) s = .next t ∧ t.fwRun = 2 ∧ t.fw.goal = i ∧ t.fw.active = s.fw.active ∧
        t.fw.result = Code.fwActivationDeferred) ∧
      (s.fwRun = 1 → (fwSlot s i).st = 2 → s.ladder = 0 → exec (.firmwareActivate who i) s = .next (handoffStart (modFw s (fun f => { f with target := i })) i)) ∧
      (s.fwRun = 3 ∨ s.fwRun = 4 → exec (.firmwareActivate who i) s = .next (modFw s (fun f => { f with target := i })))) ∧
    (∀ i, (handoffStart s i).fwRun = 3 ∧ (handoffStart s i).fw.goal = i ∧ (handoffStart s i).fw.since = s.now ∧ (handoffStart s i).fw.active = s.fw.active ∧
      ∃ t, (handoffStart s i).fw.tenon = some t ∧ t.sealed = true ∧ t.version = (fwSlot s s.fw.active).tenonOut) ∧
    (∀ who, isPhysical who = true →
      (s.fwRun = 2 → ∃ t, exec (.activationCancel who) s = .next t ∧ t.fwRun = 1 ∧ t.fw.result = 0 ∧ t.fw.slots = s.fw.slots ∧ t.fw.active = s.fw.active) ∧
      (s.fwRun ≠ 2 → exec (.activationCancel who) s = .next (modFw s (fun f => { f with target := f.target % 2 })))) ∧
    (s.fwRun = 2 → s.ladder = 0 → s.cpm.clearAt + 100000 ≤ s.now → exec .deferredActivationStart s = .next (handoffStart s s.fw.goal)) ∧
    (s.fwRun ≠ 2 ∨ s.ladder ≠ 0 ∨ s.now < s.cpm.clearAt + 100000 → exec .deferredActivationStart s = .next s) ∧
    (s.fwRun ≠ 3 → exec .handoffCommitPoint s = .next s ∧ ∀ r, exec (.handoffAbort r) s = .next s) ∧
    (s.fwRun = 3 → tenonFits s = true → s.now ≤ s.fw.since + 4500 → ∃ t, exec .handoffCommitPoint s = .next t ∧ t.fwRun = 1 ∧ t.fw.active = s.fw.goal ∧ t.fw.result = 0 ∧
      t.fw.slots = (s.fw.slots.set s.fw.active { fwSlot s s.fw.active with st := 2 }).set s.fw.goal { fwSlot s s.fw.goal with st := 3 }) ∧
    (s.fwRun = 3 → tenonFits s = false ∨ s.fw.since + 4500 < s.now →
      ∃ t, exec .handoffCommitPoint s = .next t ∧ t.fwRun = 1 ∧ t.fw.active = s.fw.active ∧ t.fw.slots = s.fw.slots ∧ t.fw.result = Code.fwHandoffAborted) ∧
    (s.fwRun = 3 → ∃ t, exec (.handoffAbort true) s = .next t ∧ t.fwRun = 1 ∧ t.fw.active = s.fw.active ∧ t.fw.result = Code.fwHandoffAborted) ∧
    (s.fwRun = 3 → tenonFits s = true → braking s = false → s.now ≤ s.fw.since + 4500 → exec (.handoffAbort false) s = .next s) ∧
    (s.fwRun = 3 → exec .hubWatchdogExpiry s = exec (.handoffAbort true) s) ∧
    (s.fwRun = 1 ∨ s.fwRun = 2 → s.err.cause = 0 → ∃ t, exec .hubWatchdogExpiry s = .next t ∧ t.halted = true ∧ t.fwRun = 4) ∧
    (s.fwRun = 0 ∨ s.fwRun = 4 → exec .hubWatchdogExpiry s = .next s) ∧
    (paused s = true → (∀ c, firmwareRow c = true → exec c s = .next s) ∧
      ∀ id r, findRun s id = some r → firmwareOp r.ent = true → ∀ c ∈ [Instr.pmove id, .pcopy id, .pingest id, .pevictVacate id, .pevictRelease id, .ppin id, .punpin id, .pmatch id, .register id,
        .revoke id, .publish id, .publishDraftNode id, .discard id, .castle id, .claimCreate id, .claimAssert id], exec c s = .next s)

/-- Heartbeats, the orphaning of a port, reattachment, and the end of the reattach lease (R516; R517; R518; R519; R520; R549). -/
def Obligations.AttachmentRows : Prop :=
  ∀ (s : State) (p : Nat), s.halted = false → p < 2 → s.hosts.length = 2 →
    let me : Req := { port := p, fn := 0, peer := none }
    let h := getH s p
    (∀ who v, ownsPort who who.port = false → exec (.heartbeat who v) s = .next s ∧ exec (.attach who) s = .next s ∧ exec (.detach who) s = .next s) ∧
    (∀ v, h.att = 2 → exec (.heartbeat me v) s = .next s) ∧
    (∀ v, h.att ≠ 2 → exec (.heartbeat me v) s = .next (renewHost (modH s p (fun h => { h with att := 1, hb := v, hbAt := s.now, limit := hbLimit s p })) p)) ∧
    (∀ d ∈ s.rgn.drafts, d.reserver = self s → d.port = p → { d with renewed := s.now, term := leaseTerm s } ∈ (renewHost s p).rgn.drafts) ∧
    (∀ d ∈ s.rgn.drafts, d.reserver ≠ self s ∨ d.port ≠ p → d ∈ (renewHost s p).rgn.drafts) ∧ (renewHost s p).tz = s.tz ∧ (renewHost s p).hosts = s.hosts ∧ (renewHost s p).pages = s.pages ∧
    (h.att = 1 → h.hbAt + h.limit ≤ s.now → exec (.heartbeatMiss p) s = .next (orphanPort s p)) ∧
    (h.att ≠ 1 ∨ s.now < h.hbAt + h.limit → exec (.heartbeatMiss p) s = .next s) ∧
    (getH (orphanPort s p) p).att = 2 ∧ (getH (orphanPort s p) p).orphanAt = s.now ∧
    (∀ q Q, s.tz.queues.find q = some Q → q < firmwareQueue → p * 64 ≤ Q.fid → Q.fid < p * 64 + 64 →
      getQ (orphanPort s p) q = (if Q.state = .active ∨ Q.state = .waiting then { Q with state := .orphaned, prior := Q.state } else Q)) ∧
    (∀ q, (∀ x ∈ s.tz.queues, x.1 = q → x.2.fid < p * 64 ∨ p * 64 + 64 ≤ x.2.fid) → getQ (orphanPort s p) q = getQ s q) ∧
    (h.att = 1 → exec (.detach me) s = .next (orphanPort s p)) ∧ (h.att ≠ 1 → exec (.detach me) s = .next s) ∧
    (h.att = 1 → exec (.attach me) s = .next s) ∧
    (h.att = 0 → ∃ t, exec (.attach me) s = .next t ∧ (getH t p).att = 1 ∧ (getH t p).limit = hbLimit s p ∧ t.tz = s.tz) ∧
    (h.att = 2 → ∃ t, exec (.attach me) s = .next t ∧ (getH t p).att = 1 ∧ t.tz.counters = s.tz.counters ∧
      ∀ q Q, s.tz.queues.find q = some Q → q < firmwareQueue → p * 64 ≤ Q.fid → Q.fid < p * 64 + 64 → Q.state = .orphaned → Q.prior ≠ .orphaned →
        ((getQ t q).state = (if Q.prior = .waiting ∧ (inFlight s q).any pendingWait = false then .active else Q.prior) ∧
          (getQ t q).head = Q.head ∧ (getQ t q).tail = Q.tail)) ∧
    (h.att ≠ 2 ∨ s.now < h.orphanAt + h.lease * 1000000 → exec (.reattachLeaseExpiry p) s = .next s) ∧
    (h.att = 2 → h.orphanAt + h.lease * 1000000 ≤ s.now → ∃ t, exec (.reattachLeaseExpiry p) s = .next t ∧ (getH t p).att = 0 ∧
      (queuesOf s (portFids p) = [] → s.own.copies = [] → t.tz.counters = (freeCounters s (portFids p)).tz.counters ∧ (∀ w ∈ t.ident.windows, w.port = p → w.retired = true) ∧
        ∀ x ∈ t.pages, x.host ≠ some p)) ∧
    (∀ fids, (∀ x ∈ (freeCounters s fids).tz.counters, ∀ f, x.2.owner = some f → f ∉ fids) ∧ ∀ x ∈ (freeCounters s fids).tz.counters, ∀ g ∈ x.2.grants, g.1 ∉ fids)

/-- What a mailbox row leaves, and what each of the nine commands answers (R537; R538; R539; R543). -/
def Obligations.MailboxRows : Prop :=
  (∀ (s : State) (who : Req) (req : List Byte) (n : Nat) (c : Instr), s.halted = false →
    (n, c) ∈ [(1, Instr.counterAlloc who req), (2, .counterFree who req), (3, .counterEcho who req), (4, .counterGrant who req), (5, .counterFabric who req),
      (6, .peerOpen who req), (7, .peerClose who req), (8, .vfAperture who req), (9, .notify who req)] →
    (ownsPort who who.port = false ∨ bitOf (mboxCtrl s who.port) 47 = true → exec c s = .next s) ∧
    (ownsPort who who.port = true → bitOf (mboxCtrl s who.port) 47 = false → fwServes s = true → s.hosts.length = 2 →
      ∃ t, exec c s = .next t ∧ mboxLeft s who n req t) ∧
    (ownsPort who who.port = true → bitOf (mboxCtrl s who.port) 47 = false → fwServes s = false →
      ∃ t, exec c s = .next t ∧ t.tz = s.tz ∧ bitOf (mboxCtrl t who.port) 47 = true)) ∧
  (∀ (s : State) (who : Req) (req : List Byte), s.halted = false → ownsPort who who.port = true → bitOf (mboxCtrl s who.port) 47 = false → fwServes s = true → s.hosts.length = 2 →
    (∃ t, exec (.counterAlloc who req) s = .next t ∧ mboxLeft s who 1 req t) ∧ (∃ t, exec (.counterFree who req) s = .next t ∧ mboxLeft s who 2 req t) ∧
    (∃ t, exec (.counterEcho who req) s = .next t ∧ mboxLeft s who 3 req t) ∧ (∃ t, exec (.counterGrant who req) s = .next t ∧ mboxLeft s who 4 req t) ∧
    (∃ t, exec (.counterFabric who req) s = .next t ∧ mboxLeft s who 5 req t) ∧ (∃ t, exec (.peerOpen who req) s = .next t ∧ mboxLeft s who 6 req t) ∧
    (∃ t, exec (.peerClose who req) s = .next t ∧ mboxLeft s who 7 req t) ∧ (∃ t, exec (.vfAperture who req) s = .next t ∧ mboxLeft s who 8 req t) ∧
    (∃ t, exec (.notify who req) s = .next t ∧ mboxLeft s who 9 req t)) ∧
  (∀ (s : State) (p : Nat) (req : List Byte), 64 ≤ fieldBytes req 1 1 ∨ mboxReserved req = true ∨ 9 < fieldBytes req 0 1 ∨ fieldBytes req 0 1 = 0 →
    mboxRun s p req = (Code.tzFormat, [], s)) ∧
  (∀ (s : State) (p : Nat) (req : List Byte), fieldBytes req 1 1 < 64 → mboxReserved req = false → (getH s p).vfs < fieldBytes req 1 1 →
    (mboxRun s p req).1 = Code.tzFormat ∨ mboxRun s p req = (Code.tzRights, [], s)) ∧
  (∀ (s : State) (p : Nat) (req : List Byte), fieldBytes req 1 1 < 64 → mboxReserved req = false → fieldBytes req 1 1 ≤ (getH s p).vfs →
    let fid := fidOf p (fieldBytes req 1 1)
    let cmd := fieldBytes req 0 1
    let i := fieldBytes req 8 2
    (cmd = 1 → 1 ≤ i → i ≤ 4096 → ∀ k, firstFrom (fun a => decide (a + i ≤ 65535) && (List.range i).all (fun j => (getC s (a + j)).owner.isNone)) 65535 0 = some k →
      (mboxRun s p req).1 = 0 ∧ (mboxRun s p req).2.1 = leBytes 2 k ∧
      (∀ j, j < i → (mboxRun s p req).2.2.tz.counters.find (k + j) = some { Counter.init with owner := some fid }) ∧
      (∀ j, j < k ∨ k + i ≤ j → (mboxRun s p req).2.2.tz.counters.find j = s.tz.counters.find j)) ∧
    (cmd = 1 → 1 ≤ i → i ≤ 4096 → firstFrom (fun a => decide (a + i ≤ 65535) && (List.range i).all (fun j => (getC s (a + j)).owner.isNone)) 65535 0 = none →
      mboxRun s p req = (Code.memExhausted, [], s)) ∧
    (cmd = 1 → i = 0 ∨ 4096 < i → mboxRun s p req = (Code.tzFormat, [], s)) ∧
    (cmd = 2 → 1 ≤ fieldBytes req 10 2 → fieldBytes req 10 2 ≤ 4096 → i + fieldBytes req 10 2 ≤ 65535 →
      ((∀ j, j < fieldBytes req 10 2 → (getC s (i + j)).owner = some fid) → (mboxRun s p req).1 = 0 ∧
        (mboxRun s p req).2.2.tz.counters = s.tz.counters.filter (fun x => decide (x.1 < i ∨ i + fieldBytes req 10 2 ≤ x.1))) ∧
      (∀ j, j < fieldBytes req 10 2 → (getC s (i + j)).owner ≠ some fid → mboxRun s p req = (Code.tzBadHandle, [], s))) ∧
    (i < 65535 → (getC s i).owner = some fid →
      (cmd = 3 → fieldBytes req 16 8 % 8 = 0 → fieldBytes req 12 2 < vecTable fid → mboxRun s p req = (0, [], setC s i { getC s i with
        echo := if natBit (fieldBytes req 10 1) 0 then some (fieldBytes req 16 8) else none, vecOn := natBit (fieldBytes req 10 1) 1, vector := fieldBytes req 12 2, coalesce := fieldBytes req 11 1,
        vecDue := false, vecAt := 0 })) ∧
      (cmd = 3 → fieldBytes req 16 8 % 8 ≠ 0 ∨ vecTable fid ≤ fieldBytes req 12 2 → mboxRun s p req = (Code.tzFormat, [], s)) ∧
      (cmd = 4 → fieldBytes req 10 1 < 2 → fieldBytes req 11 1 < 64 → fieldBytes req 12 1 < 4 → (mboxRun s p req).1 = 0 ∧
        (getC (mboxRun s p req).2.2 i).grants = (getC s i).grants.filter (fun x => x.1 != fidOf (fieldBytes req 10 1) (fieldBytes req 11 1)) ++
          (if fieldBytes req 12 1 = 0 then [] else [(fidOf (fieldBytes req 10 1) (fieldBytes req 11 1), fieldBytes req 12 1)])) ∧
      (cmd = 5 → mboxRun s p req = (0, [], setC s i { getC s i with fabric := if natBit (fieldBytes req 12 1) 0 then some (fieldBytes req 10 2) else none }))) ∧
    (i < 65535 → (getC s i).owner ≠ some fid → (cmd = 5 → mboxRun s p req = (Code.tzBadHandle, [], s)) ∧
      (cmd = 4 → fieldBytes req 10 1 < 2 → fieldBytes req 11 1 < 64 → fieldBytes req 12 1 < 4 → mboxRun s p req = (Code.tzBadHandle, [], s))) ∧
    (cmd = 6 ∨ cmd = 7 → i < firmwareQueue → (getQ s i).fid = fid →
      mboxRun s p req = (0, [], modQ s i (fun Q => { Q with peer := if cmd = 6 then some (fieldBytes req 10 2) else none }))) ∧
    (cmd = 6 ∨ cmd = 7 → i < 4096 → firmwareQueue ≤ i ∨ (getQ s i).fid ≠ fid → mboxRun s p req = (Code.tzBadHandle, [], s)) ∧
    (cmd = 8 → fieldBytes req 1 1 ≠ 0 → fieldBytes req 8 8 % 2 ^ 21 = 0 → fieldBytes req 16 4 % 2 ^ 21 = 0 → fieldBytes req 16 4 ≤ 2 ^ 28 → carveBase ≤ fieldBytes req 8 8 →
      mboxRun s p req = (0, [], modH s p (fun h => { h with apertures := h.apertures.set (fieldBytes req 1 1) (fieldBytes req 8 8, fieldBytes req 16 4) }))) ∧
    (cmd = 9 → fieldBytes req 1 1 = 0 → i < 2048 → mboxRun s p req = (0, [], { s with notify := s.notify.filter (fun x => x.1 != fidOf p 0) ++
      (if natBit (fieldBytes req 10 1) 0 then [(fidOf p 0, i)] else []) })))

/-- The log ring and the trace buffer: writing, loss, enabling and the tail (R521; R522; R523; R524; R525; R526; R527; R528). -/
def Obligations.LogAndTraceRows : Prop :=
  ∀ s : State, s.halted = false →
    (∀ e rest, s.logQ = e :: rest → exec .logEntryWrite s = .next ((logPorts s e).foldl (fun s p => toRing s p e) { s with logQ := rest })) ∧
    (∀ e : LogEv, (∀ p, e.port = some p → logPorts s e = [p]) ∧ (e.port = none → e.queue < firmwareQueue → logPorts s e = [(getQ s e.queue).fid / 64]) ∧
      (e.port = none → firmwareQueue ≤ e.queue → logPorts s e = [0, 1])) ∧
    (∀ p e, e.severity < fieldOf (logCtrl s p) 19 17 → toRing s p e = s) ∧
    (∀ p e, fieldOf (logCtrl s p) 19 17 ≤ e.severity → logOpen s p = true → (getH s p).log.backlog = [] → (getH s p).log.lostNew = 0 → toRing s p e = ringWrite s p e) ∧
    (∀ p e, fieldOf (logCtrl s p) 19 17 ≤ e.severity → logOpen s p = false → toRing s p e = modLog s p (fun L => backlogEntry L e)) ∧
    (∀ p e, p < 2 → s.hosts.length = 2 → s.resetting (fidOf p 0) = false →
      let L := (getH s p).log
      (getH (ringWrite s p e) p).log.head = L.head + 1 ∧ (getH (ringWrite s p e) p).log.seq = L.seq + 1 ∧
      (ringWrite s p e).host = s.host.write (hostKey (fidOf p 0) (fieldOf (logBase s p) 63 12 * 4096 + 64 * (L.head % logSize s p))) (logBytes e L.seq ((L.head / logSize s p + 1) % 2))) ∧
    (∀ (L : LogRing) (e : LogEv), L.backlog.length < 4096 → backlogEntry L e = { L with backlog := L.backlog ++ [e] }) ∧
    (∀ (L : LogRing) (e : LogEv), 4096 ≤ L.backlog.length → e.severity < sevDegraded → (backlogEntry L e).backlog = L.backlog ∧ (backlogEntry L e).lost = satAdd 0xFFFFFFFF L.lost 1) ∧
    (∀ who v, ownsPort who who.port = false → exec (.logEnable who v) s = .next s ∧ ∀ t, exec (.logTailWrite who t) s = .next s) ∧
    (∀ who v, ownsPort who who.port = true → s.hosts.length = 2 → bitOf (logCtrl s who.port) 16 = false → (getH s who.port).log.backlog = [] →
      ∃ t, exec (.logEnable who v) s = .next t ∧ (getH t who.port).log = { (getH s who.port).log with head := 0, tail := 0 } ∧ bitOf (logCtrl t who.port) 16 = true) ∧
    (∀ who t, ownsPort who who.port = true → t < (getH s who.port).log.tail ∨ (getH s who.port).log.head < t → exec (.logTailWrite who t) s = .next s) ∧
    (∀ who t, ownsPort who who.port = true → (getH s who.port).log.tail ≤ t → t ≤ (getH s who.port).log.head → (getH s who.port).log.backlog = [] → s.hosts.length = 2 →
      exec (.logTailWrite who t) s = .next (modLog s who.port (fun L => { L with tail := t }))) ∧
    (∀ a b c d pl e rest, s.traceQ = e :: rest → exec (.traceRecord a b c d pl) s = .next (traceWrite { s with traceQ := rest } e)) ∧
    (∀ a b c d pl, s.traceQ = [] → a < 0xE0 → b ≤ 8 → traceOn s a = true → exec (.traceRecord a b c d pl) s =
      .next (traceWrite s { point := a, source := b, queue := c % 2 ^ 16, customer := d % 2 ^ 16, payload := pl })) ∧
    (∀ a b c d pl, s.traceQ = [] → 0xE0 ≤ a ∨ 8 < b ∨ traceOn s a = false → exec (.traceRecord a b c d pl) s = .next s) ∧
    (∀ e, bitOf (trcCtrl s) 0 = false → traceWrite s e = s) ∧
    (∀ e, bitOf (trcCtrl s) 0 = true → bitOf (trcCtrl s) 1 = false → trcSize s ≤ s.trc.head - s.trc.tail → traceWrite s e = trcDrop s) ∧
    (∀ e, let port := fieldOf (trcCtrl s) 2 2
      bitOf (trcCtrl s) 0 = true → s.orphans.contains port = false → s.trc.head - s.trc.tail < trcSize s → (s.trc.second = s.now / 1000000 → s.trc.count < 31250000) →
      s.resetting (fidOf port 0) = false → (traceWrite s e).trc.head = s.trc.head + 1 ∧ (traceWrite s e).host =
        s.host.write (hostKey (fidOf port 0) (fieldOf (trcBuf s) 63 12 * 4096 + 64 * (s.trc.head % trcSize s))) (traceBytes s.now e)) ∧
    (∀ who v, isPhysical who = false → exec (.traceEnable who v) s = .next s) ∧
    (∀ who v, isPhysical who = true → ∃ t, exec (.traceEnable who v) s = .next t ∧ bitOf (trcCtrl t) 0 = true ∧
      (bitOf (trcCtrl s) 0 = false → t.trc = { s.trc with head := 0, tail := 0 }) ∧ (bitOf (trcCtrl s) 0 = true → t.trc = s.trc))

/-- Resets of functions, ports and the device, fuses, management, vectors and BAR2 (R518; R534; R536; R540; R541; R542; R544; R545; R546). -/
def Obligations.ResetRows : Prop :=
  (∀ (s : State) (p fn : Nat), s.halted = false → p < 2 → 1 ≤ fn → fn < 64 → exec (.functionReset p fn) s = .next (retag s (resetFunctions s p [fn])) ∧
    (queuesOf s [fidOf p fn] = [] → (resetFunctions s p [fn]).tz = (freeCounters s [fidOf p fn]).tz ∧ (∀ v ∈ (resetFunctions s p [fn]).vecPending, v.1 ≠ fidOf p fn) ∧
      (∀ v ∈ (resetFunctions s p [fn]).notify, v.1 ≠ fidOf p fn))) ∧
  (∀ (s : State) (q : Nat), (getQ s q).fetched = [] → inFlight s q = [] → (getQ (resetQueue s q) q).state = .disabled ∧ (getQ (resetQueue s q) q).peer = none) ∧
  (∀ (s : State) (p : Nat), s.halted = false → p < 2 → s.hosts.length = 2 → ∃ t, exec (.functionReset p 0) s = .next t ∧
    (getH t p).att = 0 ∧ (getH t p).vfs = 0 ∧ (getH t p).mboxResult = 0 ∧ (s.own.copies = [] → queuesOf s (portFids p) = [] → ∀ x ∈ t.pages, x.host ≠ some p)) ∧
  (∀ (s : State) (p fn : Nat), s.halted = false → 2 ≤ p ∨ 64 ≤ fn → exec (.functionReset p fn) s = .next s) ∧
  (∀ (s : State) (p : Nat), p < 2 → s.hosts.length = 2 → s.tripped = false → ∃ t, exec (.portReset p) s = .next t ∧
    (getH t p).link = false ∧ (getH t p).vfs = 0 ∧ (s.halted = true → t.tz = s.tz ∧ t.pages = s.pages) ∧ (s.halted = false → (getH t p).att = 0)) ∧
  (∀ (s : State) (p : Nat), 2 ≤ p ∨ s.tripped = true → exec (.portReset p) s = .next s) ∧
  (∀ (s : State) (who : Req) (k : Nat), isPhysical who = false ∨ k % 65536 ≠ 0xC0DE → exec (.deviceReset who k) s = .next s ∧ exec (.coldReset who k) s = .next s) ∧
  (∀ (s : State) (who : Req) (k : Nat), isPhysical who = true → k % 65536 = 0xC0DE →
    (s.tripped = false → exec (.deviceReset who k) s = .next (deviceReset s)) ∧ (s.tripped = true → exec (.deviceReset who k) s = .next s) ∧
    (s.ladder ≠ 4 → exec (.coldReset who k) s = .next (coldReset s)) ∧ (s.ladder = 4 → exec (.coldReset who k) s = .next s)) ∧
  (∀ s : State, let t := deviceReset s
    t.tz = State.reset.tz ∧ t.fwRun = 0 ∧ t.cfgState = 0 ∧ t.comps = [] ∧ t.pages = [] ∧ t.halted = false ∧ t.dev = [] ∧ t.fab.ring.bypEn = State.reset.fab.ring.bypEn ∧
    t.fl.copyA = s.fl.copyA ∧ t.fl.copyB = s.fl.copyB ∧ t.fl.journal = s.fl.journal ∧ t.host = s.host ∧ t.part = s.part ∧ t.cfg.lastSeq = s.cfg.lastSeq ∧ t.now = s.now ∧
    t.hosts.map (fun h => h.link) = s.hosts.map (fun h => h.link)) ∧
  (∀ s : State, let t := coldReset s
    t.tz = State.reset.tz ∧ t.regs = [] ∧ t.fwRun = 0 ∧ t.ladder = 0 ∧ t.tripped = false ∧ t.halted = false ∧ t.hosts = State.reset.hosts ∧ t.now = 0 ∧ t.err = State.reset.err ∧
    t.fl.copyA = s.fl.copyA ∧ t.fl.copyB = s.fl.copyB ∧ t.part = s.part ∧ t.cfg = State.reset.cfg) ∧
  (∀ (s : State) (v : Nat), (s.part.minSvn < v → v < 2 ^ 32 → exec (.spdmRaiseSvn true v) s = .next { s with part := { s.part with minSvn := v } }) ∧
    (v ≤ s.part.minSvn → exec (.spdmRaiseSvn true v) s = .next s) ∧ exec (.spdmRaiseSvn false v) s = .next s) ∧
  (∀ (s : State) (k : Nat), exec (.spdmRevokeKeyIndex false k) s = .next s ∧
    (s.fw.slots.any (fun x => x.st == 3 && x.keyIndex == k) = true → exec (.spdmRevokeKeyIndex true k) s = .next s) ∧
    (k < 4 → s.fw.slots.any (fun x => x.st == 3 && x.keyIndex == k) = false → s.part.revoked.contains k = false →
      exec (.spdmRevokeKeyIndex true k) s = .next { s with part := { s.part with revoked := s.part.revoked ++ [k] } })) ∧
  (∀ (s : State) (tag : Nat) (r : MgmtReq), (s.cpm.aon = false → exec (.managementRequest tag r) s = .next s) ∧
    (s.cpm.aon = true → (∀ b, r ≠ .coldReset b) → exec (.managementRequest tag r) s = .next (modCpm s (fun c => { c with mgmt := c.mgmt ++ [(tag, mgmtAnswer s r)] }))) ∧
    (s.cpm.aon = true → s.ladder ≠ 4 → r = .coldReset true → exec (.managementRequest tag r) s = .next (coldReset s)) ∧
    (r = .coldReset false → exec (.managementRequest tag r) s = .next s)) ∧
  (∀ (s : State) (p fn vec : Nat), s.halted = false →
    let f := fidOf p fn
    (2 ≤ p ∨ 64 ≤ fn ∨ vecTable f ≤ vec ∨ s.vecOpen.contains (f, vec) = true → exec (.msiXUnmask p fn vec) s = .next s) ∧
    (p < 2 → fn < 64 → vec < vecTable f → s.vecOpen.contains (f, vec) = false → ∃ t, exec (.msiXUnmask p fn vec) s = .next t ∧ t.vecOpen = s.vecOpen ++ [(f, vec)] ∧
      t.vecPending = s.vecPending.filter (fun x => x != (f, vec)) ∧
      (s.vecPending.contains (f, vec) = true → s.orphans.contains (f / 64) = false → s.resetting f = false → t.vecSent = s.vecSent ++ [(f, vec)]) ∧
      (s.vecPending.contains (f, vec) = false → t.vecSent = s.vecSent))) ∧
  (∀ (s : State) (p n : Nat), s.halted = false → (p < 2 → n ≤ 63 → exec (.sriovVfEnable p n) s = .next (modH s p (fun h => { h with vfs := n }))) ∧
    (2 ≤ p ∨ 63 < n → exec (.sriovVfEnable p n) s = .next s)) ∧
  (∀ (s : State) (who : Req) (off n : Nat), s.halted = false →
    let at_ := bar2At s who off
    let room := if at_.1 < carveBase then 0 else at_.2
    exec (.bar2Access who off n none) s = .next { s with bar2Out := s.dev.read at_.1 (min n room) ++ List.replicate (n - min n room) 0 } ∧
    (∀ bs, bs.length ≤ room → exec (.bar2Access who off n (some bs)) s = .next (retag s { s with dev := s.dev.write at_.1 (bs.take room) })) ∧
    (∀ bs, room < bs.length → s.hosts.length = 2 → who.port < 2 → ∃ t, exec (.bar2Access who off n (some bs)) s = .next t ∧
      (getH t who.port).discarded = satAdd 0xFFFFFFFF (getH s who.port).discarded 1)) ∧
  (∀ (s : State) (who : Req) (off n : Nat), s.halted = true → exec (.bar2Access who off n none) s = .next { s with bar2Out := List.replicate n 0 })

/-- Loading, checking, applying, live and replacing enables, shutdown and the warm-start import (R551; R560; R561; R562; R563; R565; R568; R569; R571; R572; R573; R574). -/
def Obligations.ConfigRows : Prop :=
  ∀ s : State, s.halted = false →
    (∀ who v f cut, isPhysical who = false → exec (.configLoad who v cut) s = .next s ∧ exec (.configEnable who v f) s = .next s ∧ exec (.liveReEnable who v f) s = .next s ∧
      exec (.replacingEnable who v f) s = .next s ∧ exec (.shutdown who v) s = .next s) ∧
    (∀ who v cut, isPhysical who = true →
      let u := setReg s 0x10008 ((v ||| 1) &&& 0x1FFFFF0002)
      let n := fieldOf (v ||| 1) 36 16
      let bs := hostRead s (fidOf who.port 0) (fieldOf (s.regs.get 0 0x10000) 63 12 * 4096) n
      let bad : Bool := decide (n < 64 ∨ 1048576 < n) || cut || !(getH s who.port).link
      let c : CfgCopy := if bad then { st := 3, bytes := [] } else if imageValid bs then { st := 2, bytes := bs } else { st := 3, bytes := [] }
      (s.cfgState = 1 ∨ s.cfgState = 2 → exec (.configLoad who v cut) s = .next u) ∧
      (s.cfgState ≠ 1 → s.cfgState ≠ 2 → bitOf (v ||| 1) 1 = false → exec (.configLoad who v cut) s = .next (modCfg u (fun g => { g with copyA := c }))) ∧
      (s.cfgState ≠ 1 → s.cfgState ≠ 2 → bitOf (v ||| 1) 1 = true → exec (.configLoad who v cut) s = .next (modCfg u (fun g => { g with copyB := c })))) ∧
    (∀ who v f, isPhysical who = true → bitOf v 1 = false → s.cfgState = 1 ∨ s.cfgState = 2 ∨ s.cfgState = 5 →
      exec (.configEnable who v f) s = .next (setReg s 0x10028 ((v ||| 1) &&& 12))) ∧
    (∀ who v f, isPhysical who = true → bitOf v 1 = false → s.cfgState = 0 ∨ s.cfgState = 4 →
      (s.fwRun = 1 → s.cfg.copyA.st ≠ 2 → s.cfg.copyB.st ≠ 2 → ∃ t, exec (.configEnable who v f) s = .next t ∧ t.cfgState = 4 ∧ t.cfg.reason = Code.cfgNoValidCopy) ∧
      (s.fwRun = 0 ∨ s.fwRun = 2 → ∃ t, exec (.configEnable who v f) s = .next t ∧ t.cfgState = 4 ∧ t.cfg.reason = Code.fwLoadRequired) ∧
      (s.fwRun = 3 → ∃ t, exec (.configEnable who v f) s = .next t ∧ t.cfgState = 1 ∧ t.cfg.waiting = some (s.cfgState, false, f)) ∧
      (s.fwRun = 1 → s.cfg.copyA.st = 2 → s.cfg.copyB.st = 0 → s.cfg.lastSeq ≤ imageSeq s.cfg.copyA.bytes →
        let rs := imageRecords s.cfg.copyA.bytes
        let fl := if (ofType rs 0xD).isEmpty then none else f
        (∀ code r, checkRecords s rs fl = some (code, r) → ∃ t, exec (.configEnable who v f) s = .next t ∧ t.cfgState = 4 ∧ t.cfg.reason = code ∧ t.cfg.record = r) ∧
        (checkRecords s rs fl = none → ∃ t, exec (.configEnable who v f) s = .next t ∧ t.cfgState = 2 ∧ t.cfg.reason = Code.cfgOk ∧ t.cfg.chosen = 1 ∧ t.tz = s.tz)) ∧
      (s.fwRun = 1 → s.cfg.copyA.st = 2 → s.cfg.copyB.st = 0 → imageSeq s.cfg.copyA.bytes < s.cfg.lastSeq →
        ∃ t, exec (.configEnable who v f) s = .next t ∧ t.cfgState = 4 ∧ t.cfg.reason = Code.cfgSequenceStale)) ∧
    (∀ who v f, isPhysical who = true → bitOf v 1 = false → s.cfgState = 3 → s.til.swap = 0 →
      (s.fwRun = 1 → s.cfg.copyA.st ≠ 2 → s.cfg.copyB.st ≠ 2 → ∃ t, exec (.liveReEnable who v f) s = .next t ∧ t.cfgState = 3 ∧ t.cfg.reason = Code.cfgNoValidCopy ∧ t.tz = s.tz) ∧
      (s.fwRun = 1 → s.cfg.copyA.st = 2 → s.cfg.copyB.st = 0 → s.cfg.lastSeq < imageSeq s.cfg.copyA.bytes →
        let rs := imageRecords s.cfg.copyA.bytes
        checkRecords s rs (if (ofType rs 0xD).isEmpty then none else f) = none → liveFails (imageRecords s.cfg.force) rs = none →
        ∃ t, exec (.liveReEnable who v f) s = .next t ∧ t.cfgState = 3 ∧ t.cfg.used = 1 ∧ t.cfg.force = s.cfg.copyA.bytes ∧ t.cfg.lastSeq = imageSeq s.cfg.copyA.bytes)) ∧
    (∀ who v f, isPhysical who = true → bitOf v 1 = false → s.cfgState = 3 → s.comps ≠ [] → s.fwRun ≠ 3 →
      ∃ t, exec (.replacingEnable who v f) s = .next t ∧ t.cfgState = 3 ∧ t.cfg.reason = Code.cfgAttachmentMismatch) ∧
    (s.cfgState = 1 → s.cfg.replacing = true → s.cfg.waiting = none → s.tz.started = [] → exec .configApply s = .next (retag s { clearService s with cfgState := 2 })) ∧
    (s.cfgState = 2 → exec .configApply s = .next (retag s (applyConfig s))) ∧
    (s.cfgState ≠ 1 → s.cfgState ≠ 2 → exec .configApply s = .next s) ∧
    ((applyConfig s).cfgState = 3 ∧ (applyConfig s).cfg.used = s.cfg.chosen ∧
      (applyConfig s).cfg.force = (if s.cfg.chosen = 2 then s.cfg.copyB.bytes else s.cfg.copyA.bytes) ∧ (applyConfig s).cfg.lastSeq = imageSeq (applyConfig s).cfg.force) ∧
    (∀ who v, isPhysical who = true → bitOf v 0 = false →
      (s.cfgState ≠ 3 → exec (.shutdown who v) s = .next (setReg s 0x10028 ((v ||| 2) &&& 12))) ∧
      (s.cfgState = 3 → s.comps = [] → s.tz.started ≠ [] → ∃ t, exec (.shutdown who v) s = .next t ∧ t.cfgState = 5 ∧ t.cfg.member = false) ∧
      (s.cfgState = 3 → s.comps = [] → s.tz.started = [] → s.fl.tier = 0 → ∃ t, exec (.shutdown who v) s = .next t ∧ t.cfgState = 6) ∧
      (s.cfgState = 3 → s.comps ≠ [] → bitOf v 2 = false → ∃ t, exec (.shutdown who v) s = .next t ∧ t.cfgState = 3 ∧ t.cfg.member = true ∧ t.comps = s.comps)) ∧
    (∀ bad broken, s.fl.warmFound = none → exec (.warmStartImport bad broken) s = .next s) ∧
    (∀ bad broken w, s.fl.warmFound = some w → enabled s = true → 2 ≤ s.fl.tier → s.cfg.replacing = false →
      let u := modFl s (fun f => { f with warmFound := none })
      (w.keys ≠ (warmImage s).keys → exec (.warmStartImport bad broken) s = .next (logCfg u Code.keyInvalid 0xFFFF s.cfg.used s.cfg.seq)) ∧
      (w.keys = (warmImage s).keys → w.device ≠ self s → exec (.warmStartImport bad broken) s = .next (logCfg u Code.cfgAttachmentMismatch 0xFFFF s.cfg.used s.cfg.seq)) ∧
      (w.keys = (warmImage s).keys → w.device = self s → w.carve = (warmImage s).carve → w.tableIds = [] → broken = false → w.weights = [] → w.pages = [] →
        ∃ t, exec (.warmStartImport bad broken) s = .next t ∧ t.rgn.holds = s.rgn.holds ++ w.holds.filter (fun h => !(s.rgn.holds.any (fun x => x.handle == h.handle))) ∧ t.pages = s.pages))

/-- Start-up before the host, supplies and core voltage, idle units, telemetry and JTAG (R530; R567; R592; R600; R610; R611; R612; R623; R624; R626; R632; R633). -/
def Obligations.PowerUpRows : Prop :=
  ∀ s : State,
    (s.cpm.aon = true → exec .aonPowerGood s = .next s) ∧
    (s.cpm.aon = false → exec .aonPowerGood s = .next { coldReset s with cpm := { (coldReset s).cpm with aon := true, supplies := false } }) ∧
    (∃ t, exec .aonPowerLoss s = .next t ∧ t.halted = true ∧ t.tripped = true ∧ t.cpm.aon = false ∧ t.cpm.osc = false ∧ t.cpm.supplies = false ∧ t.fab.ring.bypEn = false) ∧
    (s.cpm.supplies = true → ∃ t, exec .supplyDip s = .next t ∧ t.halted = true ∧ t.tripped = true ∧ t.cpm.supplies = false ∧ t.ladder = s.ladder ∧ t.fab.ring.bypEn = false) ∧
    (s.cpm.supplies = false → exec .supplyDip s = .next s) ∧
    (s.cpm.aon = true → s.ladder ≠ 4 → s.cpm.osc = false →
      exec (.oscillatorQualification true) s = .next (modCpm s (fun c => { c with osc := true, oscReason := 0 })) ∧
      exec (.oscillatorQualification false) s = .next (modCpm s (fun c => { c with oscReason := Code.clkOscNotStable }))) ∧
    (∀ b, s.cpm.aon = false ∨ (s.cpm.osc = true ∧ s.ladder ≠ 4) → exec (.oscillatorQualification b) s = .next s) ∧
    (s.cpm.osc = true → s.cpm.rom = false → exec (.bootRomDone true) s = .next (modCpm s (fun c => { c with rom := true })) ∧ exec (.bootRomDone false) s = .next (enterFatal s 0)) ∧
    (∀ b, s.cpm.osc = false ∨ s.cpm.rom = true → exec (.bootRomDone b) s = .next s) ∧
    (s.cpm.aon = true → s.ladder ≠ 4 → s.cpm.supplies = false →
      exec .fastSuppliesInRange s = .next (modCpm s (fun c => { c with supplies := true, avs := 850, avsDue := some (max s.part.avsTarget 825), avsAt := s.now, avsLate := false }))) ∧
    (s.cpm.aon = false ∨ s.ladder = 4 ∨ s.cpm.supplies = true → exec .fastSuppliesInRange s = .next s) ∧
    (s.cpm.avsDue = none → exec .avsAcknowledge s = .next s ∧ exec .avsAckTimeout s = .next s) ∧
    (∀ v, s.cpm.avsDue = some v → (s.cpm.avsAt + 10000 ≤ s.now → exec .avsAckTimeout s = .next (modCpm s (fun c => { c with avsDue := none, avsLate := true }))) ∧
      (s.now < s.cpm.avsAt + 10000 → exec .avsAckTimeout s = .next s) ∧
      (v = s.part.avsTarget → exec .avsAcknowledge s = .next (modCpm s (fun c => { c with avs := v, avsDue := none, avsAt := s.now, avsLate := false }))) ∧
      (s.part.avsTarget < v → ∃ t w, exec .avsAcknowledge s = .next t ∧ t.cpm.avs = v ∧ t.cpm.avsDue = some w ∧ w < v ∧ v ≤ w + 25 ∧ s.part.avsTarget ≤ w)) ∧
    (s.cpm.rom = true → s.cpm.supplies = true → s.cpm.trained = false → s.halted = false →
      exec (.stackTrainingComplete []) s = .next (modCpm s (fun c => { c with trained := true })) ∧ ∃ t, exec (.stackTrainingComplete [0, 3]) s = .next t ∧ t.halted = true) ∧
    (∀ l, s.cpm.rom = false ∨ s.cpm.supplies = false ∨ s.cpm.trained = true ∨ s.halted = true → exec (.stackTrainingComplete l) s = .next s) ∧
    (∀ p w r, p < 2 → s.tripped = false → s.cpm.trained = true → (sbIn s (4 + p)).effective = false → 1 ≤ w → w ≤ 16 → 25 ≤ r → r ≤ 640 →
      exec (.pcieLinkTrained p w r) s = .next (modH s p (fun h => { h with link := true, width := w, rate := r }))) ∧
    (∀ p w r, 2 ≤ p ∨ s.tripped = true ∨ s.cpm.trained = false ∨ (sbIn s (4 + p)).effective = true → exec (.pcieLinkTrained p w r) s = .next s) ∧
    (s.halted = false → ∀ u i, u < 4 → i < (if u = 2 then 8 else if u = 3 then (if s.fl.tier = 0 then 0 else 16) else 192) →
      ∃ t, exec (.idleLowPowerEntry u i) s = .next t ∧ (u, i) ∈ t.cpm.idle ∧ ∀ x ∈ t.cpm.idle, x = (u, i) ∨ x ∈ s.cpm.idle) ∧
    (∀ a b c d, s.now < s.cpm.telem.lastAt + fieldOf (telemCtrl s) 15 8 * 1000 → exec (.telemetrySample a b c d) s = .next s) ∧
    (∀ a b c d, s.cpm.telem.lastAt + fieldOf (telemCtrl s) 15 8 * 1000 ≤ s.now → bitOf (telemCtrl s) 0 = false ∨ s.halted = true →
      exec (.telemetrySample a b c d) s = .next (modCpm s (fun c' => { c' with telem := { c'.telem with last := telemBytes s a b c d, lastAt := s.now } }))) ∧
    (∀ a b c d, s.cpm.telem.lastAt + fieldOf (telemCtrl s) 15 8 * 1000 ≤ s.now → bitOf (telemCtrl s) 0 = true → s.halted = false → fieldOf (telemCtrl s) 46 32 = noDevice → telemShare s 0 = true → s.orphans.contains (telemPort s) = false →
      s.cpm.telem.head - s.cpm.telem.tail < telemSize s → s.resetting (fidOf (telemPort s) 0) = false →
      ∃ t, exec (.telemetrySample a b c d) s = .next t ∧ t.cpm.telem.seq = s.cpm.telem.seq + 1 ∧ t.cpm.telem.head = s.cpm.telem.head + 1 ∧ t.host = s.host.write (hostKey
        (fidOf (telemPort s) 0) (fieldOf (telemBuf s) 63 12 * 4096 + 256 * (s.cpm.telem.head % telemSize s))) (telemBytes s a b c d)) ∧
    (exec .jtagTapReset s = .next (modCpm s (fun c => { c with jtag := 1 }))) ∧
    (∀ op, exec (.jtagInstruction op) s = .next (modCpm s (fun c => { c with jtag := op % 256 }))) ∧
    (tapActs s 1 = 1 ∧ tapActs s 2 = 2) ∧ (∀ op, 6 < op → tapActs s op = 0xFF) ∧ (∀ op, op ≠ 1 → op ≠ 2 → s.cfgState ≠ 0 → tapActs s op = 0xFF) ∧
    (∀ op, tapNow (modCpm s (fun c => { c with jtag := op % 256 })) = tapActs s (op % 256)) ∧ (s.cpm.aon = false → ∀ b, ballNow s b = .highZ)

/-- The emergency ladder, sideband inputs, references and clock gates (R593; R594; R595; R598; R601; R602; R604; R605; R607; R608; R609). -/
def Obligations.LadderRows : Prop :=
  ∀ s : State,
    (∀ p t c, s.ladder = 4 → exec (.ladderTick p t c) s = .next (setTripNow s 4 (c || decide (16 * 110 ≤ t)))) ∧
    (∀ p (t : Int), s.ladder ≠ 4 → t < 16 * 110 →
      let limit := fieldOf (pwrCtrl s) 47 32 * 1000
      (limit < p ∨ (16 * fieldOf (pwrCtrl s) 31 24 : Nat) ≤ t → ∃ u, exec (.ladderTick p t false) s = .next u ∧ u.cpm.notice.on = true ∧ 1 ≤ u.ladder ∧ u.ladder ≤ 3 ∧
        (s.cpm.notice.on = false → u.cpm.notices = satAdd 0xFFFF s.cpm.notices 1)) ∧
      ((16 * fieldOf (pwrCtrl s) 23 16 : Nat) ≤ t → ∃ u, exec (.ladderTick p t false) s = .next u ∧ u.cpm.throttle.on = true ∧ 2 ≤ u.ladder ∧ u.ladder ≤ 3) ∧
      (p ≤ limit → t < (16 * fieldOf (pwrCtrl s) 31 24 : Nat) → t < (16 * fieldOf (pwrCtrl s) 23 16 : Nat) → s.cpm.notice = Step.off → s.cpm.throttle = Step.off → s.cpm.brakeOn = false →
        ∃ u, exec (.ladderTick p t false) s = .next u ∧ u.cpm.notice.on = false ∧ u.cpm.throttle.on = false ∧ u.ladder = 0)) ∧
    (∀ p t, s.ladder ≠ 4 → (∃ u, exec (.ladderTick p t true) s = .next u ∧ u.ladder = 4 ∧ u.halted = true) ∧ ∃ u, exec (.trip true) s = .next u ∧ u.ladder = 4 ∧ u.halted = true ∧ u.tripped = true ∧
      u.fab.ring.bypEn = false) ∧
    (s.ladder ≠ 4 → (sbIn s 1).effective = true → ∃ u, exec (.trip false) s = .next u ∧ u.ladder = 4 ∧ u.halted = true) ∧
    ((sbIn s 1).effective = false → exec (.trip false) s = .next s) ∧
    (∀ step t, step = 1 ∨ step = 2 → (if step = 1 then s.cpm.notice else s.cpm.throttle).ceased = some t →
      ((if step = 1 then s.cpm.notice else s.cpm.throttle).on = true → t + 10000 ≤ s.now → s.ladder ≠ 4 → ∃ u, exec (.ladderClear step) s = .next u ∧
        (step = 1 → u.cpm.notice = Step.off ∧ u.cpm.throttle = s.cpm.throttle) ∧ (step = 2 → u.cpm.throttle = Step.off ∧ u.cpm.notice = s.cpm.notice)) ∧
      (s.now < t + 10000 ∨ s.ladder = 4 → exec (.ladderClear step) s = .next s)) ∧
    (s.ladder = 4 ∨ s.cpm.brakeOn = true ∨ (sbIn s 0).effective = false → exec .brake s = .next s) ∧
    (s.ladder ≠ 4 → s.cpm.brakeOn = false → (sbIn s 0).effective = true →
      ∃ u, exec .brake s = .next u ∧ u.cpm.brakeOn = true ∧ u.ladder = 3 ∧ u.cpm.brakes = satAdd 0xFFFF s.cpm.brakes 1 ∧ (s.halted = false → s.fwRun = 3 → u.fw.result = Code.fwHandoffAborted)) ∧
    (s.ladder = 4 → s.cpm.tripNow = 0 → s.cpm.tripGone + 1000000 ≤ s.now → exec .tripRestart s = .next (coldReset s)) ∧
    (s.ladder ≠ 4 ∨ s.cpm.tripNow ≠ 0 ∨ s.now < s.cpm.tripGone + 1000000 → exec .tripRestart s = .next s) ∧
    (∀ i b, 6 ≤ i ∨ s.cpm.aon = false ∨ (sbIn s i).filtered = b → exec (.sidebandInputChange i b) s = .next s) ∧
    (∀ i b, i < 6 → s.cpm.aon = true → (sbIn s i).filtered ≠ b → s.cpm.sb.length = 6 →
      ((sbIn s i).held = true → exec (.sidebandInputChange i b) s = .next (modSb s i (fun x => { x with filtered := b, offSince := s.now }))) ∧
      ((sbIn s i).held = false → (sbIn s i).last = none ∨ (∃ t, (sbIn s i).last = some t ∧ t + 100 ≤ s.now) →
        exec (.sidebandInputChange i b) s = .next (setEffective (modSb (modSb s i (fun x => { x with filtered := b, offSince := s.now })) i (fun x => { x with last := some s.now })) i b)) ∧
      (∀ t, (sbIn s i).held = false → (sbIn s i).last = some t → s.now < t + 100 → ∃ u, exec (.sidebandInputChange i b) s =
        .next (setEffective u i true) ∧ (sbIn u i).held = true ∧ (sbIn u i).overrun = true)) ∧
    (∀ i, (sbIn s i).held = false ∨ (sbIn s i).filtered = true ∨ s.now < (sbIn s i).offSince + 10000 → exec (.overrunRelease i) s = .next s) ∧
    (∀ i, (sbIn s i).held = true → (sbIn s i).filtered = false → (sbIn s i).offSince + 10000 ≤ s.now →
      exec (.overrunRelease i) s = .next (setEffective (modSb s i (fun x => { x with held := false, last := some s.now })) i false)) ∧
    (∀ i, i < 2 → (sbIn s i).effective = true → (sbIn s i).stuck = false → (sbIn s i).onSince + (sbIn s i).limit * 1000000 < s.now →
      exec (.sidebandStuck i) s = .next (raiseErr (modSb s i (fun x => { x with stuck := true })) 0x0B i sevDegraded Code.sbInputStuck 0x07 0)) ∧
    (∀ i, 2 ≤ i ∨ (sbIn s i).effective = false ∨ (sbIn s i).stuck = true → exec (.sidebandStuck i) s = .next s) ∧
    (∀ k, s.tripped = false → k < 3 → s.cpm.coast.contains k = false → exec (.referenceLoss k) s = .next (raiseErr (coastPll s k) 0x0A k sevDegraded Code.clkRefLost 0x02 0)) ∧
    (∀ k, s.tripped = true ∨ 8 ≤ k ∨ (k < 3 ∧ s.cpm.coast.contains k = true) → exec (.referenceLoss k) s = .next s) ∧
    (s.tripped = false → s.cpm.ref100 = true → ∃ u, exec (.referenceLoss 3) s = .next u ∧ u.cpm.ref100 = false ∧ u.cpm.coast.contains 0 = true ∧ u.cpm.coast.contains 1 = true ∧
      u.cpm.coast.contains 2 = true) ∧
    (∀ k, s.tripped = false → k < 4 → ∃ u, exec (.referenceLoss (4 + k)) s = .next u ∧ natBit u.cpm.fabRef k = false) ∧
    (∃ u, exec (.referenceReturn 3) s = .next u ∧ u.cpm.ref100 = true ∧ u.cpm.coast.contains 0 = false ∧ u.cpm.coast.contains 1 = false ∧ u.cpm.coast.contains 2 = false) ∧
    (∀ k, k < 4 → ∃ u, exec (.referenceReturn (4 + k)) s = .next u ∧ natBit u.cpm.fabRef k = true) ∧
    (s.cpm.osc = false → exec .crystalLoss s = .next s) ∧
    (s.cpm.osc = true → s.ladder ≠ 4 → ∃ u, exec .crystalLoss s = .next u ∧ u.cpm.osc = false ∧ u.ladder = 4 ∧ u.halted = true) ∧
    (∀ who n, isPhysical who = false ∨ s.tripped = true → exec (.gateHoldOff who n) s = .next s ∧ exec (.gateRelease who n) s = .next s) ∧
    (∀ who n, isPhysical who = true → s.tripped = false → n < 4096 →
      (gateBelow n = none → ∃ u, exec (.gateHoldOff who n) s = .next u ∧ u.cpm.gateResult = Code.tzFormat ∧ u.cpm.held = s.cpm.held) ∧
      (∀ kids, gateBelow n = some kids → kids.all (fun k => s.cpm.held.contains k) = true →
        ∃ u, exec (.gateHoldOff who n) s = .next u ∧ u.cpm.gateResult = 0 ∧ u.cpm.held.contains n = true ∧ u.tz = s.tz) ∧
      (∀ kids, gateBelow n = some kids → kids.all (fun k => s.cpm.held.contains k) = false →
        ∃ u, exec (.gateHoldOff who n) s = .next u ∧ u.cpm.gateResult = Code.clkChildActive ∧ u.cpm.held = s.cpm.held) ∧
      (∀ kids, gateBelow n = some kids → ∃ u, exec (.gateRelease who n) s = .next u ∧ u.cpm.gateResult = 0 ∧ u.cpm.held.contains n = false ∧ ∀ k ∈ kids, u.cpm.held.contains k = false)) ∧
    (∀ t e, t < 32 → e < 6 → gateBelow (0x100 + 8 * t + e) = some [])

/-- Capture and escalation of errors, the release of records, and the dump (R321; R322; R577; R578; R580; R581; R584; R586; R587; R588). -/
def Obligations.ErrorRows : Prop :=
  (∀ (s : State) (u i own code cause obj : Nat), s.err.cause = 0 →
    (s.err.primary = none → ∃ r, (raiseErr s u i own code cause obj).err.primary = some r ∧ r.severity = own ∧ r.code = code ∧ r.unit_ = u ∧ r.index = i ∧ r.at_ = s.now ∧ r.escalated = false ∧
      (raiseErr s u i own code cause obj).err.secondary = s.err.secondary ∧ (raiseErr s u i own code cause obj).halted = (s.halted || decide (own = sevFatal))) ∧
    (∀ p, s.err.primary = some p → s.err.secondary = none → own < sevFatal → ∃ r, (raiseErr s u i own code cause obj).err.secondary = some r ∧ r.severity = own + 1 ∧ r.own = own ∧
      r.escalated = true ∧ (raiseErr s u i own code cause obj).err.primary = some p ∧ (raiseErr s u i own code cause obj).halted = (s.halted || decide (own + 1 = sevFatal))) ∧
    (∀ p q, s.err.primary = some p → s.err.secondary = some q → (raiseErr s u i own code cause obj).halted = true ∧ (raiseErr s u i own code cause obj).fwRun = 4 ∧
      (raiseErr s u i own code cause obj).err.primary = some p ∧ (raiseErr s u i own code cause obj).err.secondary = some q ∧
      (raiseErr s u i own code cause obj).err.ovCount = satAdd 0xFFFFFFFF s.err.ovCount 1)) ∧
  (∀ (s : State) (u i own code cause obj : Nat), s.err.cause ≠ 0 → raiseErr s u i own code cause obj =
    { s with err := { s.err with ovCount := satAdd 0xFFFFFFFF s.err.ovCount 1, ovUnit := u, ovCode := code } }) ∧
  (∀ s : State, s.tripped = true → ∀ e, exec (.errorCapture e) s = .next s) ∧
  (∀ s : State, s.tripped = false →
    exec (.errorCapture .hubSram) s = .next (raiseErr s 0x04 0 sevFatal Code.memUncorrectable 0x01 0) ∧
    exec (.errorCapture .crossbar) s = .next (raiseErr s 0x06 0 sevFatal 0 0x02 0) ∧
    (∀ n, n < 8 → exec (.errorCapture (.controlCore n)) s = .next (raiseErr s 0x05 n sevFatal 0 0x02 0)) ∧
    (∀ n, 8 ≤ n → exec (.errorCapture (.controlCore n)) s = .next s) ∧
    (∀ t, 32 ≤ t → exec (.errorCapture (.tileWord t)) s = .next s) ∧
    (∀ t, t < 32 → tileInstr s t = none → s.err.cause = 0 → s.err.primary = none → s.halted = false →
      exec (.errorCapture (.tileWord t)) s = .next (raiseErr s 0x01 t sevContained Code.memUncorrectable 0x01 0))) ∧
  (∀ (s : State) (who : Req), isPhysical who = true → s.err.cause = 0 →
    exec (.errorRecordRelease who 0) s = .next (modErr s (fun e => { e with primary := e.secondary, secondary := none })) ∧
    exec (.errorRecordRelease who 1) s = .next (modErr s (fun e => { e with secondary := none }))) ∧
  (∀ (s : State) (who : Req) (w : Nat), isPhysical who = false ∨ s.err.cause ≠ 0 ∨ 2 ≤ w → exec (.errorRecordRelease who w) s = .next s) ∧
  (∀ (s : State) (w : Nat), w < 2 → (errRecord s w = none → exec (.errorHoldTimeout w) s = .next s) ∧
    ∀ r, errRecord s w = some r →
      (r.severity = sevDegraded → r.hold ≠ 0 → r.at_ + r.hold * 1000000 ≤ s.now → exec (.errorHoldTimeout w) s = .next (releaseRecord s w)) ∧
      (r.severity ≠ sevDegraded ∨ r.hold = 0 ∨ s.now < r.at_ + r.hold * 1000000 → exec (.errorHoldTimeout w) s = .next s)) ∧
  (∀ s : State, (s.err.primary = none → exec .containedRecordLogged s = .next s) ∧
    ∀ r, s.err.primary = some r →
      (r.severity = sevContained → s.logQ = [] → bitOf (s.regs.get 0x3C 0xA00058) 16 = false → exec .containedRecordLogged s = .next (releaseRecord s 0)) ∧
      (r.severity ≠ sevContained ∨ bitOf (s.regs.get 0x3C 0xA00058) 16 = true → exec .containedRecordLogged s = .next s)) ∧
  (∀ (s : State) (who : Req) (v : W64), isPhysical who = false → exec (.dump who v) s = .next s) ∧
  (∀ (s : State) (who : Req) (v : W64), isPhysical who = true →
    let w := v ||| 1
    let may : Prop := s.tripped = false ∧ (s.halted = true ∨ s.cfgState = 0 ∨ s.cfgState = 4 ∨ s.cfgState = 6)
    (¬ may ∨ fieldOf w 39 1 = 0 → exec (.dump who v) s = .next (setReg s 0xA00070 (w &&& 0x00000FFFFFFFFFFE))) ∧
    (may → fieldOf w 39 1 ≠ 0 → s.resetting (fidOf who.port 0) = false →
      let all := (dumpBlocks (setReg s 0xA00070 (w &&& 0x00000FFFFFFFFFFE)) (fieldOf w 43 40)).1
      ∃ t n k, exec (.dump who v) s = .next t ∧ k ≤ all.length ∧ packedLen (all.take k) ≤ fieldOf w 39 1 * 4096 ∧
        (k < all.length → fieldOf w 39 1 * 4096 < packedLen (all.take (k + 1))) ∧
        t.err.dumpResult = (if k < all.length then Code.memExhausted else 0) ∧
        t.host = s.host.write (hostKey (fidOf who.port 0) (fieldOf (s.regs.get 0 0xA00068) 63 12 * 4096)) (packedImage s 2 n (all.take k)) ∧ t.tz = s.tz ∧ t.pages = s.pages))

/-- A write of a register: who may, of which size, what a plain register holds, and what is taken in the fatal state (R13; R14; R15; R71; R547; R549; R584). -/
def Obligations.RegisterWrites : Prop :=
  (∀ (s : State) (who : Req) (off size : Nat) (v : W64), ¬ (size = 8 ∧ off % 8 = 0) → ¬ (size = 4 ∧ off % 4 = 0) → exec (.registerWrite who off size v) s = .next s) ∧
  (∀ (s : State) (who : Req) (off size : Nat) (v : W64), s.halted = true → 0x10000 ≤ off → off < 0x20000 ∨ 0x40000 ≤ off → off < 0xA00000 ∨ 0xB00000 ≤ off →
    exec (.registerWrite who off size v) s = .next s) ∧
  (∀ (s : State) (who : Req) (off : Nat) (v : W64), isPhysical who = false → off % 8 = 0 → off < 0x40000 ∨ (0x80000 ≤ off ∧ off < 0x900040) ∨ 0xA00000 ≤ off →
    exec (.registerWrite who off 8 v) s = .next s) ∧
  (∀ (s : State) (who : Req) (v : W64) (r : RwReg), s.halted = false → isPhysical who = true → r ∈ rwRegs →
    exec (.registerWrite who r.off 8 v) s = .next (setReg s r.off (rwAfter r.fields (s.regs.get (BitVec.ofNat 64 r.reset) r.off) v))) ∧
  (∀ (hi lo least most : Nat) (old v : W64), lo ≤ hi → hi < 64 →
    fieldOf (rwAfter [(hi, lo, least, most)] old v) hi lo = (if least ≤ fieldOf v hi lo ∧ fieldOf v hi lo ≤ most then fieldOf v hi lo else fieldOf old hi lo) ∧
    (∀ i, i < lo ∨ hi < i → bitOf (rwAfter [(hi, lo, least, most)] old v) i = bitOf old i)) ∧
  (∀ (s : State) (who : Req) (off : Nat) (v : W64), off % 8 = 0 →
    exec (.registerWrite who off 4 v) s = exec (.registerWrite who off 8 (putField (otherHalf s who.port off) 31 0 (fieldOf v 31 0))) s) ∧
  (∀ (s : State) (who : Req) (off : Nat) (v : W64), off % 8 = 4 → off < 0x1000000 → s.halted = false →
    exec (.registerWrite who off 4 v) s = exec (.registerWrite who (off - 4) 8 (putField (otherHalf s who.port (off - 4)) 63 32 (fieldOf v 31 0))) s) ∧
  (∀ (s : State) (who : Req) (q : Nat) (v : W64), s.halted = false → q < 4096 → exec (.registerWrite who (0x40000 + 64 * q) 8 v) s = exec (.qdbTailWrite who q v.toNat) s) ∧
  (∀ (s : State) (who : Req) (v : W64), s.halted = false → exec (.registerWrite who 0x900040 8 v) s = exec (.heartbeat who v) s) ∧
  (∀ (s : State) (who : Req) (v : W64), s.halted = true → exec (.registerWrite who 0x40 8 v) s = .next (glbResetWrite s who v))

/-- The state right after reset (R16; R75; R80; R416; R507; R540; R565; R567; R590; R601). -/
def Obligations.ResetState : Prop :=
  let s := State.reset
  s.fwRun = 0 ∧ (∀ i, (fwSlot s i).st = 0) ∧ s.cfgState = 0 ∧ s.cfg.copyA.st = 0 ∧ s.cfg.copyB.st = 0 ∧ s.cfg.used = 0 ∧
  (∀ q, q < firmwareQueue → (getQ s q).state = .disabled ∧ (getQ s q).head = 0 ∧ (getQ s q).tail = 0) ∧ (∀ i, (getC s i).owner = none ∧ (getC s i).count = 0 ∧ (getC s i).fail = 0) ∧
  s.pages = [] ∧ s.comps = [] ∧ s.rgn.keys = [] ∧ s.err.primary = none ∧ s.err.secondary = none ∧ s.err.cause = 0 ∧
  s.fab.ring.bypEn = false ∧ (∀ p, p < 8 → (getP s p).st = .disabled) ∧ s.ladder = 0 ∧ (∀ p, (getH s p).att = 0) ∧ s.now = 0 ∧ s.halted = false ∧ s.tripped = false ∧
  s.dev.wf = true ∧ s.host.wf = true ∧ s.pending = [] ∧
  flPatrolCtrl s = 0x00A8006400C80004 ∧ pwrCtrl s = 0x0000044C5F640008 ∧ sbCtrl s = 0xA000A ∧ telemCtrl s = 0x00007FFF000A0100 ∧ hbCtrl s 0 = 0x003C00040500 ∧ regRead s 0 0x502000 = 0x006404080001000A

/-- What a step does while no command waits (the model's choice, log 2) (R269; R474; R541; R584; R590; R605). -/
def Obligations.IdleMicrosecond : Prop :=
  ∀ s : State, s.pending = [] →
    (s.cpm.aon = false → step s = .next s) ∧
    (s.cpm.aon = true → s.halted = true → step s = .next { s with now := s.now + 1 }) ∧
    (s.cpm.aon = true → s.halted = false → s.cfg.waiting = none → s.cfgState ≠ 5 → s.tz.counters = [] → (∀ h ∈ s.hosts, h.resets = []) →
      bitOf (mboxCtrl s 0) 47 = false → bitOf (mboxCtrl s 1) 47 = false → ∃ t, step s = .next t ∧ t.now = s.now + 1 ∧ t.til = (countUs s).til) ∧
    (∀ t : Tile, (tileUs t).busyUs = (if t.st = .running ∨ t.st = .saving ∨ t.st = .restoring then wrapAdd 64 t.busyUs 1 else t.busyUs) ∧ (tileUs t).st = t.st ∧ (tileUs t).task = t.task) ∧
    (∀ k level, fieldOf (shapeReg s (k / 8) (k % 8)) 15 0 ≠ 0xFFFF → shapeUs s k level =
      min ((fieldOf (shapeReg s (k / 8) (k % 8)) 47 32 * 1024 : Nat) : Int) (level + ((fieldOf (shapeReg s (k / 8) (k % 8)) 15 0 * 10 : Nat) : Int))) ∧
    (∀ k level, fieldOf (shapeReg s (k / 8) (k % 8)) 15 0 = 0xFFFF → shapeUs s k level = level)

/-- Commands that write host memory or device memory leave both in canonical form (R14; R72; R523; R527; R534; R586; R612). -/
def Obligations.MemoryStaysCanonical : Prop :=
  (∀ (s t : State) (c : Instr), s.dev.wf = true → s.host.wf = true →
    (∃ who off n bytes, c = .bar2Access who off n bytes) ∨ (∃ q pokes, c = .instructionFetch q pokes) ∨ c = .logEntryWrite ∨ (∃ a b d e pl, c = .traceRecord a b d e pl) ∨
      (∃ a b d e, c = .telemetrySample a b d e) ∨ (∃ who v, c = .dump who v) ∨ (∃ who, c = .attach who) →
    exec c s = .next t → t.dev.wf = true ∧ t.host.wf = true) ∧
  (∀ (s : State) (who : Req) (off n : Nat) (bs : List Byte), s.halted = false → carveBase ≤ (bar2At s who off).1 → bs.length ≤ (bar2At s who off).2 →
    ∃ t, exec (.bar2Access who off n (some bs)) s = .next t ∧ t.dev.read (bar2At s who off).1 bs.length = bs ∧ t.host = s.host ∧
      ∀ x, x < (bar2At s who off).1 ∨ (bar2At s who off).1 + bs.length ≤ x → t.dev.byte x = s.dev.byte x)

/-- No step moves anything of the service while the device is fatal or tripped and stays so (R514; R549; R584; R585; R601; R605). -/
def Obligations.FrozenWhileHalted : Prop :=
  ∀ s t : State, s.halted = true → step s = .next t → t.halted = true → fastDomains t = fastDomains s
end

