-- ==== Sys2Proof/Laws/Tables.lean ====
section
/-!
SUPPORT. Sparse tables: what a key reads after a change, and that a change keeps the rising order of keys.
-/

namespace Sys2Proof

/-- What a key reads after another key, or the same one, was set. -/
theorem Tbl.find_set {α : Type} (t : Tbl α) (i j : Nat) (a : α) :
    Tbl.find (Tbl.set t i a) j = if i = j then some a else Tbl.find t j := by
  induction t with
  | nil => simp [Tbl.set, Tbl.find]
  | cons e t ih =>
    obtain ⟨k, v⟩ := e
    unfold Tbl.set
    split
    · by_cases h : i = j <;> simp [Tbl.find, h]
    · split
      · rename_i hk
        by_cases h : i = j
        · simp [Tbl.find, h]
        · have : ¬ k = j := fun e => h (hk.trans e)
          simp [Tbl.find, h, this]
      · rename_i hne
        have hne' : ¬ k = i := fun e => hne e.symm
        by_cases h : i = j
        · subst h
          simp [Tbl.find, ih, hne']
        · simp [Tbl.find, ih, h]

@[simp] theorem Tbl.find_set_self {α : Type} (t : Tbl α) (i : Nat) (a : α) : Tbl.find (Tbl.set t i a) i = some a := by
  simp [Tbl.find_set]

@[simp] theorem Tbl.get_set_self {α : Type} (t : Tbl α) (d : α) (i : Nat) (a : α) : Tbl.get (Tbl.set t i a) d i = a := by
  simp [Tbl.get]

theorem Tbl.get_set_ne {α : Type} (t : Tbl α) (d : α) (i j : Nat) (a : α) (h : i ≠ j) :
    Tbl.get (Tbl.set t i a) d j = Tbl.get t d j := by
  simp [Tbl.get, Tbl.find_set, h]

/-- What a key reads after a key was removed from a table. -/
theorem Tbl.find_del {α : Type} (t : Tbl α) (i j : Nat) : Tbl.find (Tbl.del t i) j = if i = j then none else Tbl.find t j := by
  induction t with
  | nil => simp [Tbl.del, Tbl.find]
  | cons e t ih =>
    obtain ⟨k, v⟩ := e
    simp only [Tbl.del] at ih
    by_cases hk : k = i
    · subst hk
      by_cases h : k = j
      · subst h
        simp [Tbl.del, ih]
      · simp [Tbl.del, Tbl.find, ih, h]
    · by_cases h : i = j
      · subst h
        simp [Tbl.del, Tbl.find, hk, ih]
      · simp [Tbl.del, Tbl.find, hk, ih, h]

theorem Tbl.get_del_self {α : Type} (t : Tbl α) (d : α) (i : Nat) : Tbl.get (Tbl.del t i) d i = d := by
  simp [Tbl.get, Tbl.find_del]

theorem Tbl.get_del_ne {α : Type} (t : Tbl α) (d : α) (i j : Nat) (h : i ≠ j) : Tbl.get (Tbl.del t i) d j = Tbl.get t d j := by
  simp [Tbl.get, Tbl.find_del, h]

/-- Rising keys, said with the tail: every key of the tail is above the head's. -/
theorem Tbl.sorted_cons {α : Type} (k : Nat) (v : α) (t : Tbl α) :
    Tbl.sorted ((k, v) :: t) = true ↔ (∀ e ∈ t, k < e.1) ∧ Tbl.sorted t = true := by
  induction t generalizing k v with
  | nil => simp [Tbl.sorted]
  | cons e t ih =>
    obtain ⟨k', v'⟩ := e
    constructor
    · intro h
      simp only [Tbl.sorted, Bool.and_eq_true, decide_eq_true_eq] at h
      refine ⟨?_, h.2⟩
      intro e he
      rcases List.mem_cons.mp he with rfl | he
      · exact h.1
      · exact Nat.lt_trans h.1 (((ih k' v').mp h.2).1 e he)
    · rintro ⟨h1, h2⟩
      simp only [Tbl.sorted, Bool.and_eq_true, decide_eq_true_eq]
      exact ⟨h1 (k', v') (by simp), h2⟩

theorem Tbl.mem_set {α : Type} (t : Tbl α) (i : Nat) (a : α) (e : Nat × α) (h : e ∈ Tbl.set t i a) : e = (i, a) ∨ e ∈ t := by
  induction t with
  | nil => simpa [Tbl.set] using h
  | cons x t ih =>
    obtain ⟨k, v⟩ := x
    unfold Tbl.set at h
    split at h
    · simpa using h
    · split at h
      · simp only [List.mem_cons] at h ⊢
        grind
      · simp only [List.mem_cons] at h ⊢
        grind

/-- Setting a key keeps the keys rising. -/
theorem Tbl.sorted_set {α : Type} (t : Tbl α) (i : Nat) (a : α) (h : Tbl.sorted t = true) : Tbl.sorted (Tbl.set t i a) = true := by
  induction t with
  | nil => rfl
  | cons x t ih =>
    obtain ⟨k, v⟩ := x
    have hs := (Tbl.sorted_cons k v t).mp h
    unfold Tbl.set
    split
    · rename_i hik
      refine (Tbl.sorted_cons _ _ _).mpr ⟨?_, h⟩
      intro e he
      rcases List.mem_cons.mp he with rfl | he
      · exact hik
      · exact Nat.lt_trans hik (hs.1 e he)
    · split
      · rename_i hik
        subst hik
        exact (Tbl.sorted_cons _ _ _).mpr hs
      · refine (Tbl.sorted_cons _ _ _).mpr ⟨?_, ih hs.2⟩
        intro e he
        rcases Tbl.mem_set t i a e he with rfl | he
        · simp only; omega
        · exact hs.1 e he

/-- Removing a key keeps the keys rising. -/
theorem Tbl.sorted_filter {α : Type} (t : Tbl α) (p : Nat × α → Bool) (h : Tbl.sorted t = true) : Tbl.sorted (List.filter p t) = true := by
  induction t with
  | nil => rfl
  | cons x t ih =>
    obtain ⟨k, v⟩ := x
    have hs := (Tbl.sorted_cons k v t).mp h
    by_cases hp : p (k, v) = true
    · rw [List.filter_cons_of_pos hp]
      exact (Tbl.sorted_cons _ _ _).mpr ⟨fun e he => hs.1 e (List.mem_filter.mp he).1, ih hs.2⟩
    · rw [List.filter_cons_of_neg hp]
      exact ih hs.2

theorem Tbl.sorted_del {α : Type} (t : Tbl α) (i : Nat) (h : Tbl.sorted t = true) : Tbl.sorted (Tbl.del t i) = true :=
  Tbl.sorted_filter t _ h

end Sys2Proof
end

