-- ==== Sys2Proof/Laws/Memory.lean ====
section
/-!
SUPPORT. Memory: what a byte reads after a write, and that every write keeps the canonical form.
-/

namespace Sys2Proof.Machine

open Sys2Proof

theorem Mem.byte_put (m : Mem) (a : Nat) (b : Byte) (x : Nat) : Mem.byte (Mem.put m a b) x = if a = x then b else Mem.byte m x := by
  unfold Mem.put Mem.byte
  split
  · rename_i hb
    subst hb
    split
    · rename_i h
      subst h
      exact Tbl.get_del_self _ _ _
    · rename_i h
      exact Tbl.get_del_ne _ _ _ _ h
  · split
    · rename_i h
      subst h
      exact Tbl.get_set_self _ _ _ _
    · rename_i h
      exact Tbl.get_set_ne _ _ _ _ _ h

/-- A byte outside the bytes written reads as before. -/
theorem Mem.byte_write_outside (m : Mem) (a : Nat) (bs : List Byte) (x : Nat) (h : x < a ∨ a + bs.length ≤ x) :
    Mem.byte (Mem.write m a bs) x = Mem.byte m x := by
  induction bs generalizing m a with
  | nil => rfl
  | cons b bs ih =>
    simp only [List.length_cons] at h
    rw [Mem.write, ih _ _ (by omega), Mem.byte_put, if_neg (by omega)]

/-- A byte written reads as written. -/
theorem Mem.byte_write_inside (m : Mem) (a : Nat) (bs : List Byte) (i : Nat) (h : i < bs.length) :
    Mem.byte (Mem.write m a bs) (a + i) = bs[i] := by
  induction bs generalizing m a i with
  | nil => simp at h
  | cons b bs ih =>
    rw [Mem.write]
    match i with
    | 0 => rw [Mem.byte_write_outside _ _ _ _ (by omega), Mem.byte_put]; simp
    | j + 1 =>
      have := ih (Mem.put m a b) (a + 1) j (by simpa using h)
      rw [show a + (j + 1) = a + 1 + j by omega, this]
      rfl

theorem Mem.wf_iff (m : Mem) : Mem.wf m = true ↔ Tbl.sorted m = true ∧ ∀ c ∈ m, c.2 ≠ 0 := by
  simp [Mem.wf]

theorem Mem.wf_put (m : Mem) (a : Nat) (b : Byte) (h : Mem.wf m = true) : Mem.wf (Mem.put m a b) = true := by
  rw [Mem.wf_iff] at h ⊢
  unfold Mem.put
  split
  · exact ⟨Tbl.sorted_del m a h.1, fun c hc => h.2 c (List.mem_filter.mp hc).1⟩
  · rename_i hb
    refine ⟨Tbl.sorted_set m a b h.1, fun c hc => ?_⟩
    rcases Tbl.mem_set m a b c hc with rfl | hc
    · exact hb
    · exact h.2 c hc

/-- Every write keeps the canonical form. -/
theorem Mem.wf_write (m : Mem) (a : Nat) (bs : List Byte) (h : Mem.wf m = true) : Mem.wf (Mem.write m a bs) = true := by
  induction bs generalizing m a with
  | nil => exact h
  | cons b bs ih => exact ih _ _ (Mem.wf_put m a b h)

theorem hostWrite_wf (s : State) (fid a : Nat) (bs : List Byte) (h : s.host.wf = true) : (hostWrite s fid a bs).host.wf = true := by
  unfold hostWrite
  split
  · exact h
  · exact Mem.wf_write _ _ _ h

theorem locWrite_wf (s : State) (loc fid a : Nat) (bs : List Byte) (hh : s.host.wf = true) (hd : s.dev.wf = true) :
    (locWrite s loc fid a bs).host.wf = true ∧ (locWrite s loc fid a bs).dev.wf = true := by
  unfold locWrite
  split
  · exact ⟨hh, Mem.wf_write _ _ _ hd⟩
  · refine ⟨hostWrite_wf s fid a bs hh, ?_⟩
    unfold hostWrite
    split <;> exact hd

end Sys2Proof.Machine
end

