-- ==== Sys2Proof/Laws/State.lean ====
section
/-!
SUPPORT. The fields that the state's updates leave as they are: one lemma a field for each update.
-/

namespace Sys2Proof.Machine

open Sys2Proof

@[simp] theorem setReg_pers (s : State) (off : Nat) (v : W64) : (setReg s off v).pers = s.pers := rfl
@[simp] theorem setReg_ident (s : State) (off : Nat) (v : W64) : (setReg s off v).ident = s.ident := rfl
@[simp] theorem setReg_now (s : State) (off : Nat) (v : W64) : (setReg s off v).now = s.now := rfl
@[simp] theorem setReg_free (s : State) (off : Nat) (v : W64) : (setReg s off v).free = s.free := rfl
@[simp] theorem setReg_tz (s : State) (off : Nat) (v : W64) : (setReg s off v).tz = s.tz := rfl
@[simp] theorem setReg_adm (s : State) (off : Nat) (v : W64) : (setReg s off v).adm = s.adm := rfl
@[simp] theorem setReg_pages (s : State) (off : Nat) (v : W64) : (setReg s off v).pages = s.pages := rfl
@[simp] theorem setReg_models (s : State) (off : Nat) (v : W64) : (setReg s off v).models = s.models := rfl
@[simp] theorem setReg_own (s : State) (off : Nat) (v : W64) : (setReg s off v).own = s.own := rfl
@[simp] theorem setReg_rgn (s : State) (off : Nat) (v : W64) : (setReg s off v).rgn = s.rgn := rfl
@[simp] theorem setReg_comps (s : State) (off : Nat) (v : W64) : (setReg s off v).comps = s.comps := rfl
@[simp] theorem setReg_cmp (s : State) (off : Nat) (v : W64) : (setReg s off v).cmp = s.cmp := rfl
@[simp] theorem setReg_dev (s : State) (off : Nat) (v : W64) : (setReg s off v).dev = s.dev := rfl
@[simp] theorem setReg_host (s : State) (off : Nat) (v : W64) : (setReg s off v).host = s.host := rfl
@[simp] theorem setReg_sent (s : State) (off : Nat) (v : W64) : (setReg s off v).sent = s.sent := rfl
@[simp] theorem setReg_fab (s : State) (off : Nat) (v : W64) : (setReg s off v).fab = s.fab := rfl
@[simp] theorem setReg_err (s : State) (off : Nat) (v : W64) : (setReg s off v).err = s.err := rfl
@[simp] theorem setReg_logQ (s : State) (off : Nat) (v : W64) : (setReg s off v).logQ = s.logQ := rfl
@[simp] theorem setReg_traceQ (s : State) (off : Nat) (v : W64) : (setReg s off v).traceQ = s.traceQ := rfl
@[simp] theorem setReg_reads (s : State) (off : Nat) (v : W64) : (setReg s off v).reads = s.reads := rfl
@[simp] theorem setReg_nextRead (s : State) (off : Nat) (v : W64) : (setReg s off v).nextRead = s.nextRead := rfl
@[simp] theorem setReg_vecPending (s : State) (off : Nat) (v : W64) : (setReg s off v).vecPending = s.vecPending := rfl
@[simp] theorem setReg_vecOpen (s : State) (off : Nat) (v : W64) : (setReg s off v).vecOpen = s.vecOpen := rfl
@[simp] theorem setReg_vecSent (s : State) (off : Nat) (v : W64) : (setReg s off v).vecSent = s.vecSent := rfl
@[simp] theorem setReg_notify (s : State) (off : Nat) (v : W64) : (setReg s off v).notify = s.notify := rfl
@[simp] theorem setReg_hashKey (s : State) (off : Nat) (v : W64) : (setReg s off v).hashKey = s.hashKey := rfl
@[simp] theorem setReg_mc (s : State) (off : Nat) (v : W64) : (setReg s off v).mc = s.mc := rfl
@[simp] theorem setReg_cx (s : State) (off : Nat) (v : W64) : (setReg s off v).cx = s.cx := rfl
@[simp] theorem setReg_ladder (s : State) (off : Nat) (v : W64) : (setReg s off v).ladder = s.ladder := rfl
@[simp] theorem setReg_keySlots (s : State) (off : Nat) (v : W64) : (setReg s off v).keySlots = s.keySlots := rfl
@[simp] theorem setReg_hostTraffic (s : State) (off : Nat) (v : W64) : (setReg s off v).hostTraffic = s.hostTraffic := rfl
@[simp] theorem setReg_fl (s : State) (off : Nat) (v : W64) : (setReg s off v).fl = s.fl := rfl
@[simp] theorem setReg_til (s : State) (off : Nat) (v : W64) : (setReg s off v).til = s.til := rfl
@[simp] theorem setReg_halted (s : State) (off : Nat) (v : W64) : (setReg s off v).halted = s.halted := rfl
@[simp] theorem setReg_tripped (s : State) (off : Nat) (v : W64) : (setReg s off v).tripped = s.tripped := rfl
@[simp] theorem setReg_part (s : State) (off : Nat) (v : W64) : (setReg s off v).part = s.part := rfl
@[simp] theorem setReg_fw (s : State) (off : Nat) (v : W64) : (setReg s off v).fw = s.fw := rfl
@[simp] theorem setReg_fwRun (s : State) (off : Nat) (v : W64) : (setReg s off v).fwRun = s.fwRun := rfl
@[simp] theorem setReg_hosts (s : State) (off : Nat) (v : W64) : (setReg s off v).hosts = s.hosts := rfl
@[simp] theorem setReg_bar2Out (s : State) (off : Nat) (v : W64) : (setReg s off v).bar2Out = s.bar2Out := rfl
@[simp] theorem setReg_trc (s : State) (off : Nat) (v : W64) : (setReg s off v).trc = s.trc := rfl
@[simp] theorem setReg_cfg (s : State) (off : Nat) (v : W64) : (setReg s off v).cfg = s.cfg := rfl
@[simp] theorem setReg_cfgState (s : State) (off : Nat) (v : W64) : (setReg s off v).cfgState = s.cfgState := rfl
@[simp] theorem setReg_cpm (s : State) (off : Nat) (v : W64) : (setReg s off v).cpm = s.cpm := rfl
@[simp] theorem setReg_pending (s : State) (off : Nat) (v : W64) : (setReg s off v).pending = s.pending := rfl

@[simp] theorem setQ_pers (s : State) (q : Nat) (v : Queue) : (setQ s q v).pers = s.pers := rfl
@[simp] theorem setQ_ident (s : State) (q : Nat) (v : Queue) : (setQ s q v).ident = s.ident := rfl
@[simp] theorem setQ_now (s : State) (q : Nat) (v : Queue) : (setQ s q v).now = s.now := rfl
@[simp] theorem setQ_free (s : State) (q : Nat) (v : Queue) : (setQ s q v).free = s.free := rfl
@[simp] theorem setQ_adm (s : State) (q : Nat) (v : Queue) : (setQ s q v).adm = s.adm := rfl
@[simp] theorem setQ_pages (s : State) (q : Nat) (v : Queue) : (setQ s q v).pages = s.pages := rfl
@[simp] theorem setQ_models (s : State) (q : Nat) (v : Queue) : (setQ s q v).models = s.models := rfl
@[simp] theorem setQ_own (s : State) (q : Nat) (v : Queue) : (setQ s q v).own = s.own := rfl
@[simp] theorem setQ_rgn (s : State) (q : Nat) (v : Queue) : (setQ s q v).rgn = s.rgn := rfl
@[simp] theorem setQ_comps (s : State) (q : Nat) (v : Queue) : (setQ s q v).comps = s.comps := rfl
@[simp] theorem setQ_cmp (s : State) (q : Nat) (v : Queue) : (setQ s q v).cmp = s.cmp := rfl
@[simp] theorem setQ_regs (s : State) (q : Nat) (v : Queue) : (setQ s q v).regs = s.regs := rfl
@[simp] theorem setQ_dev (s : State) (q : Nat) (v : Queue) : (setQ s q v).dev = s.dev := rfl
@[simp] theorem setQ_host (s : State) (q : Nat) (v : Queue) : (setQ s q v).host = s.host := rfl
@[simp] theorem setQ_sent (s : State) (q : Nat) (v : Queue) : (setQ s q v).sent = s.sent := rfl
@[simp] theorem setQ_fab (s : State) (q : Nat) (v : Queue) : (setQ s q v).fab = s.fab := rfl
@[simp] theorem setQ_err (s : State) (q : Nat) (v : Queue) : (setQ s q v).err = s.err := rfl
@[simp] theorem setQ_logQ (s : State) (q : Nat) (v : Queue) : (setQ s q v).logQ = s.logQ := rfl
@[simp] theorem setQ_traceQ (s : State) (q : Nat) (v : Queue) : (setQ s q v).traceQ = s.traceQ := rfl
@[simp] theorem setQ_reads (s : State) (q : Nat) (v : Queue) : (setQ s q v).reads = s.reads := rfl
@[simp] theorem setQ_nextRead (s : State) (q : Nat) (v : Queue) : (setQ s q v).nextRead = s.nextRead := rfl
@[simp] theorem setQ_vecPending (s : State) (q : Nat) (v : Queue) : (setQ s q v).vecPending = s.vecPending := rfl
@[simp] theorem setQ_vecOpen (s : State) (q : Nat) (v : Queue) : (setQ s q v).vecOpen = s.vecOpen := rfl
@[simp] theorem setQ_vecSent (s : State) (q : Nat) (v : Queue) : (setQ s q v).vecSent = s.vecSent := rfl
@[simp] theorem setQ_notify (s : State) (q : Nat) (v : Queue) : (setQ s q v).notify = s.notify := rfl
@[simp] theorem setQ_hashKey (s : State) (q : Nat) (v : Queue) : (setQ s q v).hashKey = s.hashKey := rfl
@[simp] theorem setQ_mc (s : State) (q : Nat) (v : Queue) : (setQ s q v).mc = s.mc := rfl
@[simp] theorem setQ_cx (s : State) (q : Nat) (v : Queue) : (setQ s q v).cx = s.cx := rfl
@[simp] theorem setQ_ladder (s : State) (q : Nat) (v : Queue) : (setQ s q v).ladder = s.ladder := rfl
@[simp] theorem setQ_keySlots (s : State) (q : Nat) (v : Queue) : (setQ s q v).keySlots = s.keySlots := rfl
@[simp] theorem setQ_hostTraffic (s : State) (q : Nat) (v : Queue) : (setQ s q v).hostTraffic = s.hostTraffic := rfl
@[simp] theorem setQ_fl (s : State) (q : Nat) (v : Queue) : (setQ s q v).fl = s.fl := rfl
@[simp] theorem setQ_til (s : State) (q : Nat) (v : Queue) : (setQ s q v).til = s.til := rfl
@[simp] theorem setQ_halted (s : State) (q : Nat) (v : Queue) : (setQ s q v).halted = s.halted := rfl
@[simp] theorem setQ_tripped (s : State) (q : Nat) (v : Queue) : (setQ s q v).tripped = s.tripped := rfl
@[simp] theorem setQ_part (s : State) (q : Nat) (v : Queue) : (setQ s q v).part = s.part := rfl
@[simp] theorem setQ_fw (s : State) (q : Nat) (v : Queue) : (setQ s q v).fw = s.fw := rfl
@[simp] theorem setQ_fwRun (s : State) (q : Nat) (v : Queue) : (setQ s q v).fwRun = s.fwRun := rfl
@[simp] theorem setQ_hosts (s : State) (q : Nat) (v : Queue) : (setQ s q v).hosts = s.hosts := rfl
@[simp] theorem setQ_bar2Out (s : State) (q : Nat) (v : Queue) : (setQ s q v).bar2Out = s.bar2Out := rfl
@[simp] theorem setQ_trc (s : State) (q : Nat) (v : Queue) : (setQ s q v).trc = s.trc := rfl
@[simp] theorem setQ_cfg (s : State) (q : Nat) (v : Queue) : (setQ s q v).cfg = s.cfg := rfl
@[simp] theorem setQ_cfgState (s : State) (q : Nat) (v : Queue) : (setQ s q v).cfgState = s.cfgState := rfl
@[simp] theorem setQ_cpm (s : State) (q : Nat) (v : Queue) : (setQ s q v).cpm = s.cpm := rfl
@[simp] theorem setQ_pending (s : State) (q : Nat) (v : Queue) : (setQ s q v).pending = s.pending := rfl

@[simp] theorem modQ_pers (s : State) (q : Nat) (f : Queue → Queue) : (modQ s q f).pers = s.pers := rfl
@[simp] theorem modQ_ident (s : State) (q : Nat) (f : Queue → Queue) : (modQ s q f).ident = s.ident := rfl
@[simp] theorem modQ_now (s : State) (q : Nat) (f : Queue → Queue) : (modQ s q f).now = s.now := rfl
@[simp] theorem modQ_free (s : State) (q : Nat) (f : Queue → Queue) : (modQ s q f).free = s.free := rfl
@[simp] theorem modQ_adm (s : State) (q : Nat) (f : Queue → Queue) : (modQ s q f).adm = s.adm := rfl
@[simp] theorem modQ_pages (s : State) (q : Nat) (f : Queue → Queue) : (modQ s q f).pages = s.pages := rfl
@[simp] theorem modQ_models (s : State) (q : Nat) (f : Queue → Queue) : (modQ s q f).models = s.models := rfl
@[simp] theorem modQ_own (s : State) (q : Nat) (f : Queue → Queue) : (modQ s q f).own = s.own := rfl
@[simp] theorem modQ_rgn (s : State) (q : Nat) (f : Queue → Queue) : (modQ s q f).rgn = s.rgn := rfl
@[simp] theorem modQ_comps (s : State) (q : Nat) (f : Queue → Queue) : (modQ s q f).comps = s.comps := rfl
@[simp] theorem modQ_cmp (s : State) (q : Nat) (f : Queue → Queue) : (modQ s q f).cmp = s.cmp := rfl
@[simp] theorem modQ_regs (s : State) (q : Nat) (f : Queue → Queue) : (modQ s q f).regs = s.regs := rfl
@[simp] theorem modQ_dev (s : State) (q : Nat) (f : Queue → Queue) : (modQ s q f).dev = s.dev := rfl
@[simp] theorem modQ_host (s : State) (q : Nat) (f : Queue → Queue) : (modQ s q f).host = s.host := rfl
@[simp] theorem modQ_sent (s : State) (q : Nat) (f : Queue → Queue) : (modQ s q f).sent = s.sent := rfl
@[simp] theorem modQ_fab (s : State) (q : Nat) (f : Queue → Queue) : (modQ s q f).fab = s.fab := rfl
@[simp] theorem modQ_err (s : State) (q : Nat) (f : Queue → Queue) : (modQ s q f).err = s.err := rfl
@[simp] theorem modQ_logQ (s : State) (q : Nat) (f : Queue → Queue) : (modQ s q f).logQ = s.logQ := rfl
@[simp] theorem modQ_traceQ (s : State) (q : Nat) (f : Queue → Queue) : (modQ s q f).traceQ = s.traceQ := rfl
@[simp] theorem modQ_reads (s : State) (q : Nat) (f : Queue → Queue) : (modQ s q f).reads = s.reads := rfl
@[simp] theorem modQ_nextRead (s : State) (q : Nat) (f : Queue → Queue) : (modQ s q f).nextRead = s.nextRead := rfl
@[simp] theorem modQ_vecPending (s : State) (q : Nat) (f : Queue → Queue) : (modQ s q f).vecPending = s.vecPending := rfl
@[simp] theorem modQ_vecOpen (s : State) (q : Nat) (f : Queue → Queue) : (modQ s q f).vecOpen = s.vecOpen := rfl
@[simp] theorem modQ_vecSent (s : State) (q : Nat) (f : Queue → Queue) : (modQ s q f).vecSent = s.vecSent := rfl
@[simp] theorem modQ_notify (s : State) (q : Nat) (f : Queue → Queue) : (modQ s q f).notify = s.notify := rfl
@[simp] theorem modQ_hashKey (s : State) (q : Nat) (f : Queue → Queue) : (modQ s q f).hashKey = s.hashKey := rfl
@[simp] theorem modQ_mc (s : State) (q : Nat) (f : Queue → Queue) : (modQ s q f).mc = s.mc := rfl
@[simp] theorem modQ_cx (s : State) (q : Nat) (f : Queue → Queue) : (modQ s q f).cx = s.cx := rfl
@[simp] theorem modQ_ladder (s : State) (q : Nat) (f : Queue → Queue) : (modQ s q f).ladder = s.ladder := rfl
@[simp] theorem modQ_keySlots (s : State) (q : Nat) (f : Queue → Queue) : (modQ s q f).keySlots = s.keySlots := rfl
@[simp] theorem modQ_hostTraffic (s : State) (q : Nat) (f : Queue → Queue) : (modQ s q f).hostTraffic = s.hostTraffic := rfl
@[simp] theorem modQ_fl (s : State) (q : Nat) (f : Queue → Queue) : (modQ s q f).fl = s.fl := rfl
@[simp] theorem modQ_til (s : State) (q : Nat) (f : Queue → Queue) : (modQ s q f).til = s.til := rfl
@[simp] theorem modQ_halted (s : State) (q : Nat) (f : Queue → Queue) : (modQ s q f).halted = s.halted := rfl
@[simp] theorem modQ_tripped (s : State) (q : Nat) (f : Queue → Queue) : (modQ s q f).tripped = s.tripped := rfl
@[simp] theorem modQ_part (s : State) (q : Nat) (f : Queue → Queue) : (modQ s q f).part = s.part := rfl
@[simp] theorem modQ_fw (s : State) (q : Nat) (f : Queue → Queue) : (modQ s q f).fw = s.fw := rfl
@[simp] theorem modQ_fwRun (s : State) (q : Nat) (f : Queue → Queue) : (modQ s q f).fwRun = s.fwRun := rfl
@[simp] theorem modQ_hosts (s : State) (q : Nat) (f : Queue → Queue) : (modQ s q f).hosts = s.hosts := rfl
@[simp] theorem modQ_bar2Out (s : State) (q : Nat) (f : Queue → Queue) : (modQ s q f).bar2Out = s.bar2Out := rfl
@[simp] theorem modQ_trc (s : State) (q : Nat) (f : Queue → Queue) : (modQ s q f).trc = s.trc := rfl
@[simp] theorem modQ_cfg (s : State) (q : Nat) (f : Queue → Queue) : (modQ s q f).cfg = s.cfg := rfl
@[simp] theorem modQ_cfgState (s : State) (q : Nat) (f : Queue → Queue) : (modQ s q f).cfgState = s.cfgState := rfl
@[simp] theorem modQ_cpm (s : State) (q : Nat) (f : Queue → Queue) : (modQ s q f).cpm = s.cpm := rfl
@[simp] theorem modQ_pending (s : State) (q : Nat) (f : Queue → Queue) : (modQ s q f).pending = s.pending := rfl

@[simp] theorem modRun_pers (s : State) (p : Running → Bool) (f : Running → Running) : (modRun s p f).pers = s.pers := rfl
@[simp] theorem modRun_ident (s : State) (p : Running → Bool) (f : Running → Running) : (modRun s p f).ident = s.ident := rfl
@[simp] theorem modRun_now (s : State) (p : Running → Bool) (f : Running → Running) : (modRun s p f).now = s.now := rfl
@[simp] theorem modRun_free (s : State) (p : Running → Bool) (f : Running → Running) : (modRun s p f).free = s.free := rfl
@[simp] theorem modRun_adm (s : State) (p : Running → Bool) (f : Running → Running) : (modRun s p f).adm = s.adm := rfl
@[simp] theorem modRun_pages (s : State) (p : Running → Bool) (f : Running → Running) : (modRun s p f).pages = s.pages := rfl
@[simp] theorem modRun_models (s : State) (p : Running → Bool) (f : Running → Running) : (modRun s p f).models = s.models := rfl
@[simp] theorem modRun_own (s : State) (p : Running → Bool) (f : Running → Running) : (modRun s p f).own = s.own := rfl
@[simp] theorem modRun_rgn (s : State) (p : Running → Bool) (f : Running → Running) : (modRun s p f).rgn = s.rgn := rfl
@[simp] theorem modRun_comps (s : State) (p : Running → Bool) (f : Running → Running) : (modRun s p f).comps = s.comps := rfl
@[simp] theorem modRun_cmp (s : State) (p : Running → Bool) (f : Running → Running) : (modRun s p f).cmp = s.cmp := rfl
@[simp] theorem modRun_regs (s : State) (p : Running → Bool) (f : Running → Running) : (modRun s p f).regs = s.regs := rfl
@[simp] theorem modRun_dev (s : State) (p : Running → Bool) (f : Running → Running) : (modRun s p f).dev = s.dev := rfl
@[simp] theorem modRun_host (s : State) (p : Running → Bool) (f : Running → Running) : (modRun s p f).host = s.host := rfl
@[simp] theorem modRun_sent (s : State) (p : Running → Bool) (f : Running → Running) : (modRun s p f).sent = s.sent := rfl
@[simp] theorem modRun_fab (s : State) (p : Running → Bool) (f : Running → Running) : (modRun s p f).fab = s.fab := rfl
@[simp] theorem modRun_err (s : State) (p : Running → Bool) (f : Running → Running) : (modRun s p f).err = s.err := rfl
@[simp] theorem modRun_logQ (s : State) (p : Running → Bool) (f : Running → Running) : (modRun s p f).logQ = s.logQ := rfl
@[simp] theorem modRun_traceQ (s : State) (p : Running → Bool) (f : Running → Running) : (modRun s p f).traceQ = s.traceQ := rfl
@[simp] theorem modRun_reads (s : State) (p : Running → Bool) (f : Running → Running) : (modRun s p f).reads = s.reads := rfl
@[simp] theorem modRun_nextRead (s : State) (p : Running → Bool) (f : Running → Running) : (modRun s p f).nextRead = s.nextRead := rfl
@[simp] theorem modRun_vecPending (s : State) (p : Running → Bool) (f : Running → Running) : (modRun s p f).vecPending = s.vecPending := rfl
@[simp] theorem modRun_vecOpen (s : State) (p : Running → Bool) (f : Running → Running) : (modRun s p f).vecOpen = s.vecOpen := rfl
@[simp] theorem modRun_vecSent (s : State) (p : Running → Bool) (f : Running → Running) : (modRun s p f).vecSent = s.vecSent := rfl
@[simp] theorem modRun_notify (s : State) (p : Running → Bool) (f : Running → Running) : (modRun s p f).notify = s.notify := rfl
@[simp] theorem modRun_hashKey (s : State) (p : Running → Bool) (f : Running → Running) : (modRun s p f).hashKey = s.hashKey := rfl
@[simp] theorem modRun_mc (s : State) (p : Running → Bool) (f : Running → Running) : (modRun s p f).mc = s.mc := rfl
@[simp] theorem modRun_cx (s : State) (p : Running → Bool) (f : Running → Running) : (modRun s p f).cx = s.cx := rfl
@[simp] theorem modRun_ladder (s : State) (p : Running → Bool) (f : Running → Running) : (modRun s p f).ladder = s.ladder := rfl
@[simp] theorem modRun_keySlots (s : State) (p : Running → Bool) (f : Running → Running) : (modRun s p f).keySlots = s.keySlots := rfl
@[simp] theorem modRun_hostTraffic (s : State) (p : Running → Bool) (f : Running → Running) : (modRun s p f).hostTraffic = s.hostTraffic := rfl
@[simp] theorem modRun_fl (s : State) (p : Running → Bool) (f : Running → Running) : (modRun s p f).fl = s.fl := rfl
@[simp] theorem modRun_til (s : State) (p : Running → Bool) (f : Running → Running) : (modRun s p f).til = s.til := rfl
@[simp] theorem modRun_halted (s : State) (p : Running → Bool) (f : Running → Running) : (modRun s p f).halted = s.halted := rfl
@[simp] theorem modRun_tripped (s : State) (p : Running → Bool) (f : Running → Running) : (modRun s p f).tripped = s.tripped := rfl
@[simp] theorem modRun_part (s : State) (p : Running → Bool) (f : Running → Running) : (modRun s p f).part = s.part := rfl
@[simp] theorem modRun_fw (s : State) (p : Running → Bool) (f : Running → Running) : (modRun s p f).fw = s.fw := rfl
@[simp] theorem modRun_fwRun (s : State) (p : Running → Bool) (f : Running → Running) : (modRun s p f).fwRun = s.fwRun := rfl
@[simp] theorem modRun_hosts (s : State) (p : Running → Bool) (f : Running → Running) : (modRun s p f).hosts = s.hosts := rfl
@[simp] theorem modRun_bar2Out (s : State) (p : Running → Bool) (f : Running → Running) : (modRun s p f).bar2Out = s.bar2Out := rfl
@[simp] theorem modRun_trc (s : State) (p : Running → Bool) (f : Running → Running) : (modRun s p f).trc = s.trc := rfl
@[simp] theorem modRun_cfg (s : State) (p : Running → Bool) (f : Running → Running) : (modRun s p f).cfg = s.cfg := rfl
@[simp] theorem modRun_cfgState (s : State) (p : Running → Bool) (f : Running → Running) : (modRun s p f).cfgState = s.cfgState := rfl
@[simp] theorem modRun_cpm (s : State) (p : Running → Bool) (f : Running → Running) : (modRun s p f).cpm = s.cpm := rfl
@[simp] theorem modRun_pending (s : State) (p : Running → Bool) (f : Running → Running) : (modRun s p f).pending = s.pending := rfl

@[simp] theorem setC_pers (s : State) (i : Nat) (c : Counter) : (setC s i c).pers = s.pers := rfl
@[simp] theorem setC_ident (s : State) (i : Nat) (c : Counter) : (setC s i c).ident = s.ident := rfl
@[simp] theorem setC_now (s : State) (i : Nat) (c : Counter) : (setC s i c).now = s.now := rfl
@[simp] theorem setC_free (s : State) (i : Nat) (c : Counter) : (setC s i c).free = s.free := rfl
@[simp] theorem setC_adm (s : State) (i : Nat) (c : Counter) : (setC s i c).adm = s.adm := rfl
@[simp] theorem setC_pages (s : State) (i : Nat) (c : Counter) : (setC s i c).pages = s.pages := rfl
@[simp] theorem setC_models (s : State) (i : Nat) (c : Counter) : (setC s i c).models = s.models := rfl
@[simp] theorem setC_own (s : State) (i : Nat) (c : Counter) : (setC s i c).own = s.own := rfl
@[simp] theorem setC_rgn (s : State) (i : Nat) (c : Counter) : (setC s i c).rgn = s.rgn := rfl
@[simp] theorem setC_comps (s : State) (i : Nat) (c : Counter) : (setC s i c).comps = s.comps := rfl
@[simp] theorem setC_cmp (s : State) (i : Nat) (c : Counter) : (setC s i c).cmp = s.cmp := rfl
@[simp] theorem setC_regs (s : State) (i : Nat) (c : Counter) : (setC s i c).regs = s.regs := rfl
@[simp] theorem setC_dev (s : State) (i : Nat) (c : Counter) : (setC s i c).dev = s.dev := rfl
@[simp] theorem setC_host (s : State) (i : Nat) (c : Counter) : (setC s i c).host = s.host := rfl
@[simp] theorem setC_sent (s : State) (i : Nat) (c : Counter) : (setC s i c).sent = s.sent := rfl
@[simp] theorem setC_fab (s : State) (i : Nat) (c : Counter) : (setC s i c).fab = s.fab := rfl
@[simp] theorem setC_err (s : State) (i : Nat) (c : Counter) : (setC s i c).err = s.err := rfl
@[simp] theorem setC_logQ (s : State) (i : Nat) (c : Counter) : (setC s i c).logQ = s.logQ := rfl
@[simp] theorem setC_traceQ (s : State) (i : Nat) (c : Counter) : (setC s i c).traceQ = s.traceQ := rfl
@[simp] theorem setC_reads (s : State) (i : Nat) (c : Counter) : (setC s i c).reads = s.reads := rfl
@[simp] theorem setC_nextRead (s : State) (i : Nat) (c : Counter) : (setC s i c).nextRead = s.nextRead := rfl
@[simp] theorem setC_vecPending (s : State) (i : Nat) (c : Counter) : (setC s i c).vecPending = s.vecPending := rfl
@[simp] theorem setC_vecOpen (s : State) (i : Nat) (c : Counter) : (setC s i c).vecOpen = s.vecOpen := rfl
@[simp] theorem setC_vecSent (s : State) (i : Nat) (c : Counter) : (setC s i c).vecSent = s.vecSent := rfl
@[simp] theorem setC_notify (s : State) (i : Nat) (c : Counter) : (setC s i c).notify = s.notify := rfl
@[simp] theorem setC_hashKey (s : State) (i : Nat) (c : Counter) : (setC s i c).hashKey = s.hashKey := rfl
@[simp] theorem setC_mc (s : State) (i : Nat) (c : Counter) : (setC s i c).mc = s.mc := rfl
@[simp] theorem setC_cx (s : State) (i : Nat) (c : Counter) : (setC s i c).cx = s.cx := rfl
@[simp] theorem setC_ladder (s : State) (i : Nat) (c : Counter) : (setC s i c).ladder = s.ladder := rfl
@[simp] theorem setC_keySlots (s : State) (i : Nat) (c : Counter) : (setC s i c).keySlots = s.keySlots := rfl
@[simp] theorem setC_hostTraffic (s : State) (i : Nat) (c : Counter) : (setC s i c).hostTraffic = s.hostTraffic := rfl
@[simp] theorem setC_fl (s : State) (i : Nat) (c : Counter) : (setC s i c).fl = s.fl := rfl
@[simp] theorem setC_til (s : State) (i : Nat) (c : Counter) : (setC s i c).til = s.til := rfl
@[simp] theorem setC_halted (s : State) (i : Nat) (c : Counter) : (setC s i c).halted = s.halted := rfl
@[simp] theorem setC_tripped (s : State) (i : Nat) (c : Counter) : (setC s i c).tripped = s.tripped := rfl
@[simp] theorem setC_part (s : State) (i : Nat) (c : Counter) : (setC s i c).part = s.part := rfl
@[simp] theorem setC_fw (s : State) (i : Nat) (c : Counter) : (setC s i c).fw = s.fw := rfl
@[simp] theorem setC_fwRun (s : State) (i : Nat) (c : Counter) : (setC s i c).fwRun = s.fwRun := rfl
@[simp] theorem setC_hosts (s : State) (i : Nat) (c : Counter) : (setC s i c).hosts = s.hosts := rfl
@[simp] theorem setC_bar2Out (s : State) (i : Nat) (c : Counter) : (setC s i c).bar2Out = s.bar2Out := rfl
@[simp] theorem setC_trc (s : State) (i : Nat) (c : Counter) : (setC s i c).trc = s.trc := rfl
@[simp] theorem setC_cfg (s : State) (i : Nat) (c : Counter) : (setC s i c).cfg = s.cfg := rfl
@[simp] theorem setC_cfgState (s : State) (i : Nat) (c : Counter) : (setC s i c).cfgState = s.cfgState := rfl
@[simp] theorem setC_cpm (s : State) (i : Nat) (c : Counter) : (setC s i c).cpm = s.cpm := rfl
@[simp] theorem setC_pending (s : State) (i : Nat) (c : Counter) : (setC s i c).pending = s.pending := rfl

@[simp] theorem setK_pers (s : State) (i : Nat) (k : KeyEntry) : (setK s i k).pers = s.pers := rfl
@[simp] theorem setK_ident (s : State) (i : Nat) (k : KeyEntry) : (setK s i k).ident = s.ident := rfl
@[simp] theorem setK_now (s : State) (i : Nat) (k : KeyEntry) : (setK s i k).now = s.now := rfl
@[simp] theorem setK_free (s : State) (i : Nat) (k : KeyEntry) : (setK s i k).free = s.free := rfl
@[simp] theorem setK_tz (s : State) (i : Nat) (k : KeyEntry) : (setK s i k).tz = s.tz := rfl
@[simp] theorem setK_adm (s : State) (i : Nat) (k : KeyEntry) : (setK s i k).adm = s.adm := rfl
@[simp] theorem setK_pages (s : State) (i : Nat) (k : KeyEntry) : (setK s i k).pages = s.pages := rfl
@[simp] theorem setK_models (s : State) (i : Nat) (k : KeyEntry) : (setK s i k).models = s.models := rfl
@[simp] theorem setK_own (s : State) (i : Nat) (k : KeyEntry) : (setK s i k).own = s.own := rfl
@[simp] theorem setK_comps (s : State) (i : Nat) (k : KeyEntry) : (setK s i k).comps = s.comps := rfl
@[simp] theorem setK_cmp (s : State) (i : Nat) (k : KeyEntry) : (setK s i k).cmp = s.cmp := rfl
@[simp] theorem setK_regs (s : State) (i : Nat) (k : KeyEntry) : (setK s i k).regs = s.regs := rfl
@[simp] theorem setK_dev (s : State) (i : Nat) (k : KeyEntry) : (setK s i k).dev = s.dev := rfl
@[simp] theorem setK_host (s : State) (i : Nat) (k : KeyEntry) : (setK s i k).host = s.host := rfl
@[simp] theorem setK_sent (s : State) (i : Nat) (k : KeyEntry) : (setK s i k).sent = s.sent := rfl
@[simp] theorem setK_fab (s : State) (i : Nat) (k : KeyEntry) : (setK s i k).fab = s.fab := rfl
@[simp] theorem setK_err (s : State) (i : Nat) (k : KeyEntry) : (setK s i k).err = s.err := rfl
@[simp] theorem setK_logQ (s : State) (i : Nat) (k : KeyEntry) : (setK s i k).logQ = s.logQ := rfl
@[simp] theorem setK_traceQ (s : State) (i : Nat) (k : KeyEntry) : (setK s i k).traceQ = s.traceQ := rfl
@[simp] theorem setK_reads (s : State) (i : Nat) (k : KeyEntry) : (setK s i k).reads = s.reads := rfl
@[simp] theorem setK_nextRead (s : State) (i : Nat) (k : KeyEntry) : (setK s i k).nextRead = s.nextRead := rfl
@[simp] theorem setK_vecPending (s : State) (i : Nat) (k : KeyEntry) : (setK s i k).vecPending = s.vecPending := rfl
@[simp] theorem setK_vecOpen (s : State) (i : Nat) (k : KeyEntry) : (setK s i k).vecOpen = s.vecOpen := rfl
@[simp] theorem setK_vecSent (s : State) (i : Nat) (k : KeyEntry) : (setK s i k).vecSent = s.vecSent := rfl
@[simp] theorem setK_notify (s : State) (i : Nat) (k : KeyEntry) : (setK s i k).notify = s.notify := rfl
@[simp] theorem setK_hashKey (s : State) (i : Nat) (k : KeyEntry) : (setK s i k).hashKey = s.hashKey := rfl
@[simp] theorem setK_mc (s : State) (i : Nat) (k : KeyEntry) : (setK s i k).mc = s.mc := rfl
@[simp] theorem setK_cx (s : State) (i : Nat) (k : KeyEntry) : (setK s i k).cx = s.cx := rfl
@[simp] theorem setK_ladder (s : State) (i : Nat) (k : KeyEntry) : (setK s i k).ladder = s.ladder := rfl
@[simp] theorem setK_keySlots (s : State) (i : Nat) (k : KeyEntry) : (setK s i k).keySlots = s.keySlots := rfl
@[simp] theorem setK_hostTraffic (s : State) (i : Nat) (k : KeyEntry) : (setK s i k).hostTraffic = s.hostTraffic := rfl
@[simp] theorem setK_fl (s : State) (i : Nat) (k : KeyEntry) : (setK s i k).fl = s.fl := rfl
@[simp] theorem setK_til (s : State) (i : Nat) (k : KeyEntry) : (setK s i k).til = s.til := rfl
@[simp] theorem setK_halted (s : State) (i : Nat) (k : KeyEntry) : (setK s i k).halted = s.halted := rfl
@[simp] theorem setK_tripped (s : State) (i : Nat) (k : KeyEntry) : (setK s i k).tripped = s.tripped := rfl
@[simp] theorem setK_part (s : State) (i : Nat) (k : KeyEntry) : (setK s i k).part = s.part := rfl
@[simp] theorem setK_fw (s : State) (i : Nat) (k : KeyEntry) : (setK s i k).fw = s.fw := rfl
@[simp] theorem setK_fwRun (s : State) (i : Nat) (k : KeyEntry) : (setK s i k).fwRun = s.fwRun := rfl
@[simp] theorem setK_hosts (s : State) (i : Nat) (k : KeyEntry) : (setK s i k).hosts = s.hosts := rfl
@[simp] theorem setK_bar2Out (s : State) (i : Nat) (k : KeyEntry) : (setK s i k).bar2Out = s.bar2Out := rfl
@[simp] theorem setK_trc (s : State) (i : Nat) (k : KeyEntry) : (setK s i k).trc = s.trc := rfl
@[simp] theorem setK_cfg (s : State) (i : Nat) (k : KeyEntry) : (setK s i k).cfg = s.cfg := rfl
@[simp] theorem setK_cfgState (s : State) (i : Nat) (k : KeyEntry) : (setK s i k).cfgState = s.cfgState := rfl
@[simp] theorem setK_cpm (s : State) (i : Nat) (k : KeyEntry) : (setK s i k).cpm = s.cpm := rfl
@[simp] theorem setK_pending (s : State) (i : Nat) (k : KeyEntry) : (setK s i k).pending = s.pending := rfl

@[simp] theorem setT_pers (s : State) (t : Nat) (v : Tile) : (setT s t v).pers = s.pers := rfl
@[simp] theorem setT_ident (s : State) (t : Nat) (v : Tile) : (setT s t v).ident = s.ident := rfl
@[simp] theorem setT_now (s : State) (t : Nat) (v : Tile) : (setT s t v).now = s.now := rfl
@[simp] theorem setT_free (s : State) (t : Nat) (v : Tile) : (setT s t v).free = s.free := rfl
@[simp] theorem setT_tz (s : State) (t : Nat) (v : Tile) : (setT s t v).tz = s.tz := rfl
@[simp] theorem setT_adm (s : State) (t : Nat) (v : Tile) : (setT s t v).adm = s.adm := rfl
@[simp] theorem setT_pages (s : State) (t : Nat) (v : Tile) : (setT s t v).pages = s.pages := rfl
@[simp] theorem setT_models (s : State) (t : Nat) (v : Tile) : (setT s t v).models = s.models := rfl
@[simp] theorem setT_own (s : State) (t : Nat) (v : Tile) : (setT s t v).own = s.own := rfl
@[simp] theorem setT_rgn (s : State) (t : Nat) (v : Tile) : (setT s t v).rgn = s.rgn := rfl
@[simp] theorem setT_comps (s : State) (t : Nat) (v : Tile) : (setT s t v).comps = s.comps := rfl
@[simp] theorem setT_cmp (s : State) (t : Nat) (v : Tile) : (setT s t v).cmp = s.cmp := rfl
@[simp] theorem setT_regs (s : State) (t : Nat) (v : Tile) : (setT s t v).regs = s.regs := rfl
@[simp] theorem setT_dev (s : State) (t : Nat) (v : Tile) : (setT s t v).dev = s.dev := rfl
@[simp] theorem setT_host (s : State) (t : Nat) (v : Tile) : (setT s t v).host = s.host := rfl
@[simp] theorem setT_sent (s : State) (t : Nat) (v : Tile) : (setT s t v).sent = s.sent := rfl
@[simp] theorem setT_fab (s : State) (t : Nat) (v : Tile) : (setT s t v).fab = s.fab := rfl
@[simp] theorem setT_err (s : State) (t : Nat) (v : Tile) : (setT s t v).err = s.err := rfl
@[simp] theorem setT_logQ (s : State) (t : Nat) (v : Tile) : (setT s t v).logQ = s.logQ := rfl
@[simp] theorem setT_traceQ (s : State) (t : Nat) (v : Tile) : (setT s t v).traceQ = s.traceQ := rfl
@[simp] theorem setT_reads (s : State) (t : Nat) (v : Tile) : (setT s t v).reads = s.reads := rfl
@[simp] theorem setT_nextRead (s : State) (t : Nat) (v : Tile) : (setT s t v).nextRead = s.nextRead := rfl
@[simp] theorem setT_vecPending (s : State) (t : Nat) (v : Tile) : (setT s t v).vecPending = s.vecPending := rfl
@[simp] theorem setT_vecOpen (s : State) (t : Nat) (v : Tile) : (setT s t v).vecOpen = s.vecOpen := rfl
@[simp] theorem setT_vecSent (s : State) (t : Nat) (v : Tile) : (setT s t v).vecSent = s.vecSent := rfl
@[simp] theorem setT_notify (s : State) (t : Nat) (v : Tile) : (setT s t v).notify = s.notify := rfl
@[simp] theorem setT_hashKey (s : State) (t : Nat) (v : Tile) : (setT s t v).hashKey = s.hashKey := rfl
@[simp] theorem setT_mc (s : State) (t : Nat) (v : Tile) : (setT s t v).mc = s.mc := rfl
@[simp] theorem setT_cx (s : State) (t : Nat) (v : Tile) : (setT s t v).cx = s.cx := rfl
@[simp] theorem setT_ladder (s : State) (t : Nat) (v : Tile) : (setT s t v).ladder = s.ladder := rfl
@[simp] theorem setT_keySlots (s : State) (t : Nat) (v : Tile) : (setT s t v).keySlots = s.keySlots := rfl
@[simp] theorem setT_hostTraffic (s : State) (t : Nat) (v : Tile) : (setT s t v).hostTraffic = s.hostTraffic := rfl
@[simp] theorem setT_fl (s : State) (t : Nat) (v : Tile) : (setT s t v).fl = s.fl := rfl
@[simp] theorem setT_halted (s : State) (t : Nat) (v : Tile) : (setT s t v).halted = s.halted := rfl
@[simp] theorem setT_tripped (s : State) (t : Nat) (v : Tile) : (setT s t v).tripped = s.tripped := rfl
@[simp] theorem setT_part (s : State) (t : Nat) (v : Tile) : (setT s t v).part = s.part := rfl
@[simp] theorem setT_fw (s : State) (t : Nat) (v : Tile) : (setT s t v).fw = s.fw := rfl
@[simp] theorem setT_fwRun (s : State) (t : Nat) (v : Tile) : (setT s t v).fwRun = s.fwRun := rfl
@[simp] theorem setT_hosts (s : State) (t : Nat) (v : Tile) : (setT s t v).hosts = s.hosts := rfl
@[simp] theorem setT_bar2Out (s : State) (t : Nat) (v : Tile) : (setT s t v).bar2Out = s.bar2Out := rfl
@[simp] theorem setT_trc (s : State) (t : Nat) (v : Tile) : (setT s t v).trc = s.trc := rfl
@[simp] theorem setT_cfg (s : State) (t : Nat) (v : Tile) : (setT s t v).cfg = s.cfg := rfl
@[simp] theorem setT_cfgState (s : State) (t : Nat) (v : Tile) : (setT s t v).cfgState = s.cfgState := rfl
@[simp] theorem setT_cpm (s : State) (t : Nat) (v : Tile) : (setT s t v).cpm = s.cpm := rfl
@[simp] theorem setT_pending (s : State) (t : Nat) (v : Tile) : (setT s t v).pending = s.pending := rfl

@[simp] theorem modTask_pers (s : State) (i : Nat) (f : Task → Task) : (modTask s i f).pers = s.pers := rfl
@[simp] theorem modTask_ident (s : State) (i : Nat) (f : Task → Task) : (modTask s i f).ident = s.ident := rfl
@[simp] theorem modTask_now (s : State) (i : Nat) (f : Task → Task) : (modTask s i f).now = s.now := rfl
@[simp] theorem modTask_free (s : State) (i : Nat) (f : Task → Task) : (modTask s i f).free = s.free := rfl
@[simp] theorem modTask_tz (s : State) (i : Nat) (f : Task → Task) : (modTask s i f).tz = s.tz := rfl
@[simp] theorem modTask_adm (s : State) (i : Nat) (f : Task → Task) : (modTask s i f).adm = s.adm := rfl
@[simp] theorem modTask_pages (s : State) (i : Nat) (f : Task → Task) : (modTask s i f).pages = s.pages := rfl
@[simp] theorem modTask_models (s : State) (i : Nat) (f : Task → Task) : (modTask s i f).models = s.models := rfl
@[simp] theorem modTask_own (s : State) (i : Nat) (f : Task → Task) : (modTask s i f).own = s.own := rfl
@[simp] theorem modTask_rgn (s : State) (i : Nat) (f : Task → Task) : (modTask s i f).rgn = s.rgn := rfl
@[simp] theorem modTask_comps (s : State) (i : Nat) (f : Task → Task) : (modTask s i f).comps = s.comps := rfl
@[simp] theorem modTask_cmp (s : State) (i : Nat) (f : Task → Task) : (modTask s i f).cmp = s.cmp := rfl
@[simp] theorem modTask_regs (s : State) (i : Nat) (f : Task → Task) : (modTask s i f).regs = s.regs := rfl
@[simp] theorem modTask_dev (s : State) (i : Nat) (f : Task → Task) : (modTask s i f).dev = s.dev := rfl
@[simp] theorem modTask_host (s : State) (i : Nat) (f : Task → Task) : (modTask s i f).host = s.host := rfl
@[simp] theorem modTask_sent (s : State) (i : Nat) (f : Task → Task) : (modTask s i f).sent = s.sent := rfl
@[simp] theorem modTask_fab (s : State) (i : Nat) (f : Task → Task) : (modTask s i f).fab = s.fab := rfl
@[simp] theorem modTask_err (s : State) (i : Nat) (f : Task → Task) : (modTask s i f).err = s.err := rfl
@[simp] theorem modTask_logQ (s : State) (i : Nat) (f : Task → Task) : (modTask s i f).logQ = s.logQ := rfl
@[simp] theorem modTask_traceQ (s : State) (i : Nat) (f : Task → Task) : (modTask s i f).traceQ = s.traceQ := rfl
@[simp] theorem modTask_reads (s : State) (i : Nat) (f : Task → Task) : (modTask s i f).reads = s.reads := rfl
@[simp] theorem modTask_nextRead (s : State) (i : Nat) (f : Task → Task) : (modTask s i f).nextRead = s.nextRead := rfl
@[simp] theorem modTask_vecPending (s : State) (i : Nat) (f : Task → Task) : (modTask s i f).vecPending = s.vecPending := rfl
@[simp] theorem modTask_vecOpen (s : State) (i : Nat) (f : Task → Task) : (modTask s i f).vecOpen = s.vecOpen := rfl
@[simp] theorem modTask_vecSent (s : State) (i : Nat) (f : Task → Task) : (modTask s i f).vecSent = s.vecSent := rfl
@[simp] theorem modTask_notify (s : State) (i : Nat) (f : Task → Task) : (modTask s i f).notify = s.notify := rfl
@[simp] theorem modTask_hashKey (s : State) (i : Nat) (f : Task → Task) : (modTask s i f).hashKey = s.hashKey := rfl
@[simp] theorem modTask_mc (s : State) (i : Nat) (f : Task → Task) : (modTask s i f).mc = s.mc := rfl
@[simp] theorem modTask_cx (s : State) (i : Nat) (f : Task → Task) : (modTask s i f).cx = s.cx := rfl
@[simp] theorem modTask_ladder (s : State) (i : Nat) (f : Task → Task) : (modTask s i f).ladder = s.ladder := rfl
@[simp] theorem modTask_keySlots (s : State) (i : Nat) (f : Task → Task) : (modTask s i f).keySlots = s.keySlots := rfl
@[simp] theorem modTask_hostTraffic (s : State) (i : Nat) (f : Task → Task) : (modTask s i f).hostTraffic = s.hostTraffic := rfl
@[simp] theorem modTask_fl (s : State) (i : Nat) (f : Task → Task) : (modTask s i f).fl = s.fl := rfl
@[simp] theorem modTask_halted (s : State) (i : Nat) (f : Task → Task) : (modTask s i f).halted = s.halted := rfl
@[simp] theorem modTask_tripped (s : State) (i : Nat) (f : Task → Task) : (modTask s i f).tripped = s.tripped := rfl
@[simp] theorem modTask_part (s : State) (i : Nat) (f : Task → Task) : (modTask s i f).part = s.part := rfl
@[simp] theorem modTask_fw (s : State) (i : Nat) (f : Task → Task) : (modTask s i f).fw = s.fw := rfl
@[simp] theorem modTask_fwRun (s : State) (i : Nat) (f : Task → Task) : (modTask s i f).fwRun = s.fwRun := rfl
@[simp] theorem modTask_hosts (s : State) (i : Nat) (f : Task → Task) : (modTask s i f).hosts = s.hosts := rfl
@[simp] theorem modTask_bar2Out (s : State) (i : Nat) (f : Task → Task) : (modTask s i f).bar2Out = s.bar2Out := rfl
@[simp] theorem modTask_trc (s : State) (i : Nat) (f : Task → Task) : (modTask s i f).trc = s.trc := rfl
@[simp] theorem modTask_cfg (s : State) (i : Nat) (f : Task → Task) : (modTask s i f).cfg = s.cfg := rfl
@[simp] theorem modTask_cfgState (s : State) (i : Nat) (f : Task → Task) : (modTask s i f).cfgState = s.cfgState := rfl
@[simp] theorem modTask_cpm (s : State) (i : Nat) (f : Task → Task) : (modTask s i f).cpm = s.cpm := rfl
@[simp] theorem modTask_pending (s : State) (i : Nat) (f : Task → Task) : (modTask s i f).pending = s.pending := rfl

@[simp] theorem dropDesc_pers (s : State) (id : Nat) : (dropDesc s id).pers = s.pers := rfl
@[simp] theorem dropDesc_ident (s : State) (id : Nat) : (dropDesc s id).ident = s.ident := rfl
@[simp] theorem dropDesc_now (s : State) (id : Nat) : (dropDesc s id).now = s.now := rfl
@[simp] theorem dropDesc_free (s : State) (id : Nat) : (dropDesc s id).free = s.free := rfl
@[simp] theorem dropDesc_tz (s : State) (id : Nat) : (dropDesc s id).tz = s.tz := rfl
@[simp] theorem dropDesc_adm (s : State) (id : Nat) : (dropDesc s id).adm = s.adm := rfl
@[simp] theorem dropDesc_pages (s : State) (id : Nat) : (dropDesc s id).pages = s.pages := rfl
@[simp] theorem dropDesc_models (s : State) (id : Nat) : (dropDesc s id).models = s.models := rfl
@[simp] theorem dropDesc_own (s : State) (id : Nat) : (dropDesc s id).own = s.own := rfl
@[simp] theorem dropDesc_rgn (s : State) (id : Nat) : (dropDesc s id).rgn = s.rgn := rfl
@[simp] theorem dropDesc_comps (s : State) (id : Nat) : (dropDesc s id).comps = s.comps := rfl
@[simp] theorem dropDesc_cmp (s : State) (id : Nat) : (dropDesc s id).cmp = s.cmp := rfl
@[simp] theorem dropDesc_regs (s : State) (id : Nat) : (dropDesc s id).regs = s.regs := rfl
@[simp] theorem dropDesc_dev (s : State) (id : Nat) : (dropDesc s id).dev = s.dev := rfl
@[simp] theorem dropDesc_host (s : State) (id : Nat) : (dropDesc s id).host = s.host := rfl
@[simp] theorem dropDesc_sent (s : State) (id : Nat) : (dropDesc s id).sent = s.sent := rfl
@[simp] theorem dropDesc_fab (s : State) (id : Nat) : (dropDesc s id).fab = s.fab := rfl
@[simp] theorem dropDesc_err (s : State) (id : Nat) : (dropDesc s id).err = s.err := rfl
@[simp] theorem dropDesc_logQ (s : State) (id : Nat) : (dropDesc s id).logQ = s.logQ := rfl
@[simp] theorem dropDesc_traceQ (s : State) (id : Nat) : (dropDesc s id).traceQ = s.traceQ := rfl
@[simp] theorem dropDesc_reads (s : State) (id : Nat) : (dropDesc s id).reads = s.reads := rfl
@[simp] theorem dropDesc_nextRead (s : State) (id : Nat) : (dropDesc s id).nextRead = s.nextRead := rfl
@[simp] theorem dropDesc_vecPending (s : State) (id : Nat) : (dropDesc s id).vecPending = s.vecPending := rfl
@[simp] theorem dropDesc_vecOpen (s : State) (id : Nat) : (dropDesc s id).vecOpen = s.vecOpen := rfl
@[simp] theorem dropDesc_vecSent (s : State) (id : Nat) : (dropDesc s id).vecSent = s.vecSent := rfl
@[simp] theorem dropDesc_notify (s : State) (id : Nat) : (dropDesc s id).notify = s.notify := rfl
@[simp] theorem dropDesc_hashKey (s : State) (id : Nat) : (dropDesc s id).hashKey = s.hashKey := rfl
@[simp] theorem dropDesc_mc (s : State) (id : Nat) : (dropDesc s id).mc = s.mc := rfl
@[simp] theorem dropDesc_cx (s : State) (id : Nat) : (dropDesc s id).cx = s.cx := rfl
@[simp] theorem dropDesc_ladder (s : State) (id : Nat) : (dropDesc s id).ladder = s.ladder := rfl
@[simp] theorem dropDesc_keySlots (s : State) (id : Nat) : (dropDesc s id).keySlots = s.keySlots := rfl
@[simp] theorem dropDesc_hostTraffic (s : State) (id : Nat) : (dropDesc s id).hostTraffic = s.hostTraffic := rfl
@[simp] theorem dropDesc_fl (s : State) (id : Nat) : (dropDesc s id).fl = s.fl := rfl
@[simp] theorem dropDesc_halted (s : State) (id : Nat) : (dropDesc s id).halted = s.halted := rfl
@[simp] theorem dropDesc_tripped (s : State) (id : Nat) : (dropDesc s id).tripped = s.tripped := rfl
@[simp] theorem dropDesc_part (s : State) (id : Nat) : (dropDesc s id).part = s.part := rfl
@[simp] theorem dropDesc_fw (s : State) (id : Nat) : (dropDesc s id).fw = s.fw := rfl
@[simp] theorem dropDesc_fwRun (s : State) (id : Nat) : (dropDesc s id).fwRun = s.fwRun := rfl
@[simp] theorem dropDesc_hosts (s : State) (id : Nat) : (dropDesc s id).hosts = s.hosts := rfl
@[simp] theorem dropDesc_bar2Out (s : State) (id : Nat) : (dropDesc s id).bar2Out = s.bar2Out := rfl
@[simp] theorem dropDesc_trc (s : State) (id : Nat) : (dropDesc s id).trc = s.trc := rfl
@[simp] theorem dropDesc_cfg (s : State) (id : Nat) : (dropDesc s id).cfg = s.cfg := rfl
@[simp] theorem dropDesc_cfgState (s : State) (id : Nat) : (dropDesc s id).cfgState = s.cfgState := rfl
@[simp] theorem dropDesc_cpm (s : State) (id : Nat) : (dropDesc s id).cpm = s.cpm := rfl
@[simp] theorem dropDesc_pending (s : State) (id : Nat) : (dropDesc s id).pending = s.pending := rfl

@[simp] theorem setPage_pers (s : State) (p : Page) : (setPage s p).pers = s.pers := rfl
@[simp] theorem setPage_ident (s : State) (p : Page) : (setPage s p).ident = s.ident := rfl
@[simp] theorem setPage_now (s : State) (p : Page) : (setPage s p).now = s.now := rfl
@[simp] theorem setPage_free (s : State) (p : Page) : (setPage s p).free = s.free := rfl
@[simp] theorem setPage_tz (s : State) (p : Page) : (setPage s p).tz = s.tz := rfl
@[simp] theorem setPage_adm (s : State) (p : Page) : (setPage s p).adm = s.adm := rfl
@[simp] theorem setPage_models (s : State) (p : Page) : (setPage s p).models = s.models := rfl
@[simp] theorem setPage_own (s : State) (p : Page) : (setPage s p).own = s.own := rfl
@[simp] theorem setPage_rgn (s : State) (p : Page) : (setPage s p).rgn = s.rgn := rfl
@[simp] theorem setPage_comps (s : State) (p : Page) : (setPage s p).comps = s.comps := rfl
@[simp] theorem setPage_cmp (s : State) (p : Page) : (setPage s p).cmp = s.cmp := rfl
@[simp] theorem setPage_regs (s : State) (p : Page) : (setPage s p).regs = s.regs := rfl
@[simp] theorem setPage_dev (s : State) (p : Page) : (setPage s p).dev = s.dev := rfl
@[simp] theorem setPage_host (s : State) (p : Page) : (setPage s p).host = s.host := rfl
@[simp] theorem setPage_sent (s : State) (p : Page) : (setPage s p).sent = s.sent := rfl
@[simp] theorem setPage_fab (s : State) (p : Page) : (setPage s p).fab = s.fab := rfl
@[simp] theorem setPage_err (s : State) (p : Page) : (setPage s p).err = s.err := rfl
@[simp] theorem setPage_logQ (s : State) (p : Page) : (setPage s p).logQ = s.logQ := rfl
@[simp] theorem setPage_traceQ (s : State) (p : Page) : (setPage s p).traceQ = s.traceQ := rfl
@[simp] theorem setPage_reads (s : State) (p : Page) : (setPage s p).reads = s.reads := rfl
@[simp] theorem setPage_nextRead (s : State) (p : Page) : (setPage s p).nextRead = s.nextRead := rfl
@[simp] theorem setPage_vecPending (s : State) (p : Page) : (setPage s p).vecPending = s.vecPending := rfl
@[simp] theorem setPage_vecOpen (s : State) (p : Page) : (setPage s p).vecOpen = s.vecOpen := rfl
@[simp] theorem setPage_vecSent (s : State) (p : Page) : (setPage s p).vecSent = s.vecSent := rfl
@[simp] theorem setPage_notify (s : State) (p : Page) : (setPage s p).notify = s.notify := rfl
@[simp] theorem setPage_hashKey (s : State) (p : Page) : (setPage s p).hashKey = s.hashKey := rfl
@[simp] theorem setPage_mc (s : State) (p : Page) : (setPage s p).mc = s.mc := rfl
@[simp] theorem setPage_cx (s : State) (p : Page) : (setPage s p).cx = s.cx := rfl
@[simp] theorem setPage_ladder (s : State) (p : Page) : (setPage s p).ladder = s.ladder := rfl
@[simp] theorem setPage_keySlots (s : State) (p : Page) : (setPage s p).keySlots = s.keySlots := rfl
@[simp] theorem setPage_hostTraffic (s : State) (p : Page) : (setPage s p).hostTraffic = s.hostTraffic := rfl
@[simp] theorem setPage_fl (s : State) (p : Page) : (setPage s p).fl = s.fl := rfl
@[simp] theorem setPage_til (s : State) (p : Page) : (setPage s p).til = s.til := rfl
@[simp] theorem setPage_halted (s : State) (p : Page) : (setPage s p).halted = s.halted := rfl
@[simp] theorem setPage_tripped (s : State) (p : Page) : (setPage s p).tripped = s.tripped := rfl
@[simp] theorem setPage_part (s : State) (p : Page) : (setPage s p).part = s.part := rfl
@[simp] theorem setPage_fw (s : State) (p : Page) : (setPage s p).fw = s.fw := rfl
@[simp] theorem setPage_fwRun (s : State) (p : Page) : (setPage s p).fwRun = s.fwRun := rfl
@[simp] theorem setPage_hosts (s : State) (p : Page) : (setPage s p).hosts = s.hosts := rfl
@[simp] theorem setPage_bar2Out (s : State) (p : Page) : (setPage s p).bar2Out = s.bar2Out := rfl
@[simp] theorem setPage_trc (s : State) (p : Page) : (setPage s p).trc = s.trc := rfl
@[simp] theorem setPage_cfg (s : State) (p : Page) : (setPage s p).cfg = s.cfg := rfl
@[simp] theorem setPage_cfgState (s : State) (p : Page) : (setPage s p).cfgState = s.cfgState := rfl
@[simp] theorem setPage_cpm (s : State) (p : Page) : (setPage s p).cpm = s.cpm := rfl
@[simp] theorem setPage_pending (s : State) (p : Page) : (setPage s p).pending = s.pending := rfl

@[simp] theorem addPage_pers (s : State) (p : Page) : (addPage s p).pers = s.pers := rfl
@[simp] theorem addPage_ident (s : State) (p : Page) : (addPage s p).ident = s.ident := rfl
@[simp] theorem addPage_now (s : State) (p : Page) : (addPage s p).now = s.now := rfl
@[simp] theorem addPage_free (s : State) (p : Page) : (addPage s p).free = s.free := rfl
@[simp] theorem addPage_tz (s : State) (p : Page) : (addPage s p).tz = s.tz := rfl
@[simp] theorem addPage_adm (s : State) (p : Page) : (addPage s p).adm = s.adm := rfl
@[simp] theorem addPage_models (s : State) (p : Page) : (addPage s p).models = s.models := rfl
@[simp] theorem addPage_own (s : State) (p : Page) : (addPage s p).own = s.own := rfl
@[simp] theorem addPage_rgn (s : State) (p : Page) : (addPage s p).rgn = s.rgn := rfl
@[simp] theorem addPage_comps (s : State) (p : Page) : (addPage s p).comps = s.comps := rfl
@[simp] theorem addPage_cmp (s : State) (p : Page) : (addPage s p).cmp = s.cmp := rfl
@[simp] theorem addPage_regs (s : State) (p : Page) : (addPage s p).regs = s.regs := rfl
@[simp] theorem addPage_dev (s : State) (p : Page) : (addPage s p).dev = s.dev := rfl
@[simp] theorem addPage_host (s : State) (p : Page) : (addPage s p).host = s.host := rfl
@[simp] theorem addPage_sent (s : State) (p : Page) : (addPage s p).sent = s.sent := rfl
@[simp] theorem addPage_fab (s : State) (p : Page) : (addPage s p).fab = s.fab := rfl
@[simp] theorem addPage_err (s : State) (p : Page) : (addPage s p).err = s.err := rfl
@[simp] theorem addPage_logQ (s : State) (p : Page) : (addPage s p).logQ = s.logQ := rfl
@[simp] theorem addPage_traceQ (s : State) (p : Page) : (addPage s p).traceQ = s.traceQ := rfl
@[simp] theorem addPage_reads (s : State) (p : Page) : (addPage s p).reads = s.reads := rfl
@[simp] theorem addPage_nextRead (s : State) (p : Page) : (addPage s p).nextRead = s.nextRead := rfl
@[simp] theorem addPage_vecPending (s : State) (p : Page) : (addPage s p).vecPending = s.vecPending := rfl
@[simp] theorem addPage_vecOpen (s : State) (p : Page) : (addPage s p).vecOpen = s.vecOpen := rfl
@[simp] theorem addPage_vecSent (s : State) (p : Page) : (addPage s p).vecSent = s.vecSent := rfl
@[simp] theorem addPage_notify (s : State) (p : Page) : (addPage s p).notify = s.notify := rfl
@[simp] theorem addPage_hashKey (s : State) (p : Page) : (addPage s p).hashKey = s.hashKey := rfl
@[simp] theorem addPage_mc (s : State) (p : Page) : (addPage s p).mc = s.mc := rfl
@[simp] theorem addPage_cx (s : State) (p : Page) : (addPage s p).cx = s.cx := rfl
@[simp] theorem addPage_ladder (s : State) (p : Page) : (addPage s p).ladder = s.ladder := rfl
@[simp] theorem addPage_keySlots (s : State) (p : Page) : (addPage s p).keySlots = s.keySlots := rfl
@[simp] theorem addPage_hostTraffic (s : State) (p : Page) : (addPage s p).hostTraffic = s.hostTraffic := rfl
@[simp] theorem addPage_fl (s : State) (p : Page) : (addPage s p).fl = s.fl := rfl
@[simp] theorem addPage_til (s : State) (p : Page) : (addPage s p).til = s.til := rfl
@[simp] theorem addPage_halted (s : State) (p : Page) : (addPage s p).halted = s.halted := rfl
@[simp] theorem addPage_tripped (s : State) (p : Page) : (addPage s p).tripped = s.tripped := rfl
@[simp] theorem addPage_part (s : State) (p : Page) : (addPage s p).part = s.part := rfl
@[simp] theorem addPage_fw (s : State) (p : Page) : (addPage s p).fw = s.fw := rfl
@[simp] theorem addPage_fwRun (s : State) (p : Page) : (addPage s p).fwRun = s.fwRun := rfl
@[simp] theorem addPage_hosts (s : State) (p : Page) : (addPage s p).hosts = s.hosts := rfl
@[simp] theorem addPage_bar2Out (s : State) (p : Page) : (addPage s p).bar2Out = s.bar2Out := rfl
@[simp] theorem addPage_trc (s : State) (p : Page) : (addPage s p).trc = s.trc := rfl
@[simp] theorem addPage_cfg (s : State) (p : Page) : (addPage s p).cfg = s.cfg := rfl
@[simp] theorem addPage_cfgState (s : State) (p : Page) : (addPage s p).cfgState = s.cfgState := rfl
@[simp] theorem addPage_cpm (s : State) (p : Page) : (addPage s p).cpm = s.cpm := rfl
@[simp] theorem addPage_pending (s : State) (p : Page) : (addPage s p).pending = s.pending := rfl

@[simp] theorem freePages_pers (s : State) (q : Page → Bool) : (freePages s q).pers = s.pers := rfl
@[simp] theorem freePages_ident (s : State) (q : Page → Bool) : (freePages s q).ident = s.ident := rfl
@[simp] theorem freePages_now (s : State) (q : Page → Bool) : (freePages s q).now = s.now := rfl
@[simp] theorem freePages_free (s : State) (q : Page → Bool) : (freePages s q).free = s.free := rfl
@[simp] theorem freePages_tz (s : State) (q : Page → Bool) : (freePages s q).tz = s.tz := rfl
@[simp] theorem freePages_adm (s : State) (q : Page → Bool) : (freePages s q).adm = s.adm := rfl
@[simp] theorem freePages_models (s : State) (q : Page → Bool) : (freePages s q).models = s.models := rfl
@[simp] theorem freePages_own (s : State) (q : Page → Bool) : (freePages s q).own = s.own := rfl
@[simp] theorem freePages_rgn (s : State) (q : Page → Bool) : (freePages s q).rgn = s.rgn := rfl
@[simp] theorem freePages_comps (s : State) (q : Page → Bool) : (freePages s q).comps = s.comps := rfl
@[simp] theorem freePages_cmp (s : State) (q : Page → Bool) : (freePages s q).cmp = s.cmp := rfl
@[simp] theorem freePages_regs (s : State) (q : Page → Bool) : (freePages s q).regs = s.regs := rfl
@[simp] theorem freePages_dev (s : State) (q : Page → Bool) : (freePages s q).dev = s.dev := rfl
@[simp] theorem freePages_host (s : State) (q : Page → Bool) : (freePages s q).host = s.host := rfl
@[simp] theorem freePages_sent (s : State) (q : Page → Bool) : (freePages s q).sent = s.sent := rfl
@[simp] theorem freePages_fab (s : State) (q : Page → Bool) : (freePages s q).fab = s.fab := rfl
@[simp] theorem freePages_err (s : State) (q : Page → Bool) : (freePages s q).err = s.err := rfl
@[simp] theorem freePages_logQ (s : State) (q : Page → Bool) : (freePages s q).logQ = s.logQ := rfl
@[simp] theorem freePages_traceQ (s : State) (q : Page → Bool) : (freePages s q).traceQ = s.traceQ := rfl
@[simp] theorem freePages_reads (s : State) (q : Page → Bool) : (freePages s q).reads = s.reads := rfl
@[simp] theorem freePages_nextRead (s : State) (q : Page → Bool) : (freePages s q).nextRead = s.nextRead := rfl
@[simp] theorem freePages_vecPending (s : State) (q : Page → Bool) : (freePages s q).vecPending = s.vecPending := rfl
@[simp] theorem freePages_vecOpen (s : State) (q : Page → Bool) : (freePages s q).vecOpen = s.vecOpen := rfl
@[simp] theorem freePages_vecSent (s : State) (q : Page → Bool) : (freePages s q).vecSent = s.vecSent := rfl
@[simp] theorem freePages_notify (s : State) (q : Page → Bool) : (freePages s q).notify = s.notify := rfl
@[simp] theorem freePages_hashKey (s : State) (q : Page → Bool) : (freePages s q).hashKey = s.hashKey := rfl
@[simp] theorem freePages_mc (s : State) (q : Page → Bool) : (freePages s q).mc = s.mc := rfl
@[simp] theorem freePages_cx (s : State) (q : Page → Bool) : (freePages s q).cx = s.cx := rfl
@[simp] theorem freePages_ladder (s : State) (q : Page → Bool) : (freePages s q).ladder = s.ladder := rfl
@[simp] theorem freePages_keySlots (s : State) (q : Page → Bool) : (freePages s q).keySlots = s.keySlots := rfl
@[simp] theorem freePages_hostTraffic (s : State) (q : Page → Bool) : (freePages s q).hostTraffic = s.hostTraffic := rfl
@[simp] theorem freePages_fl (s : State) (q : Page → Bool) : (freePages s q).fl = s.fl := rfl
@[simp] theorem freePages_til (s : State) (q : Page → Bool) : (freePages s q).til = s.til := rfl
@[simp] theorem freePages_halted (s : State) (q : Page → Bool) : (freePages s q).halted = s.halted := rfl
@[simp] theorem freePages_tripped (s : State) (q : Page → Bool) : (freePages s q).tripped = s.tripped := rfl
@[simp] theorem freePages_part (s : State) (q : Page → Bool) : (freePages s q).part = s.part := rfl
@[simp] theorem freePages_fw (s : State) (q : Page → Bool) : (freePages s q).fw = s.fw := rfl
@[simp] theorem freePages_fwRun (s : State) (q : Page → Bool) : (freePages s q).fwRun = s.fwRun := rfl
@[simp] theorem freePages_hosts (s : State) (q : Page → Bool) : (freePages s q).hosts = s.hosts := rfl
@[simp] theorem freePages_bar2Out (s : State) (q : Page → Bool) : (freePages s q).bar2Out = s.bar2Out := rfl
@[simp] theorem freePages_trc (s : State) (q : Page → Bool) : (freePages s q).trc = s.trc := rfl
@[simp] theorem freePages_cfg (s : State) (q : Page → Bool) : (freePages s q).cfg = s.cfg := rfl
@[simp] theorem freePages_cfgState (s : State) (q : Page → Bool) : (freePages s q).cfgState = s.cfgState := rfl
@[simp] theorem freePages_cpm (s : State) (q : Page → Bool) : (freePages s q).cpm = s.cpm := rfl
@[simp] theorem freePages_pending (s : State) (q : Page → Bool) : (freePages s q).pending = s.pending := rfl

@[simp] theorem modCopy_pers (s : State) (h : Handle) (f : SeqCopy → SeqCopy) : (modCopy s h f).pers = s.pers := rfl
@[simp] theorem modCopy_ident (s : State) (h : Handle) (f : SeqCopy → SeqCopy) : (modCopy s h f).ident = s.ident := rfl
@[simp] theorem modCopy_now (s : State) (h : Handle) (f : SeqCopy → SeqCopy) : (modCopy s h f).now = s.now := rfl
@[simp] theorem modCopy_free (s : State) (h : Handle) (f : SeqCopy → SeqCopy) : (modCopy s h f).free = s.free := rfl
@[simp] theorem modCopy_tz (s : State) (h : Handle) (f : SeqCopy → SeqCopy) : (modCopy s h f).tz = s.tz := rfl
@[simp] theorem modCopy_adm (s : State) (h : Handle) (f : SeqCopy → SeqCopy) : (modCopy s h f).adm = s.adm := rfl
@[simp] theorem modCopy_pages (s : State) (h : Handle) (f : SeqCopy → SeqCopy) : (modCopy s h f).pages = s.pages := rfl
@[simp] theorem modCopy_models (s : State) (h : Handle) (f : SeqCopy → SeqCopy) : (modCopy s h f).models = s.models := rfl
@[simp] theorem modCopy_rgn (s : State) (h : Handle) (f : SeqCopy → SeqCopy) : (modCopy s h f).rgn = s.rgn := rfl
@[simp] theorem modCopy_comps (s : State) (h : Handle) (f : SeqCopy → SeqCopy) : (modCopy s h f).comps = s.comps := rfl
@[simp] theorem modCopy_cmp (s : State) (h : Handle) (f : SeqCopy → SeqCopy) : (modCopy s h f).cmp = s.cmp := rfl
@[simp] theorem modCopy_regs (s : State) (h : Handle) (f : SeqCopy → SeqCopy) : (modCopy s h f).regs = s.regs := rfl
@[simp] theorem modCopy_dev (s : State) (h : Handle) (f : SeqCopy → SeqCopy) : (modCopy s h f).dev = s.dev := rfl
@[simp] theorem modCopy_host (s : State) (h : Handle) (f : SeqCopy → SeqCopy) : (modCopy s h f).host = s.host := rfl
@[simp] theorem modCopy_sent (s : State) (h : Handle) (f : SeqCopy → SeqCopy) : (modCopy s h f).sent = s.sent := rfl
@[simp] theorem modCopy_fab (s : State) (h : Handle) (f : SeqCopy → SeqCopy) : (modCopy s h f).fab = s.fab := rfl
@[simp] theorem modCopy_err (s : State) (h : Handle) (f : SeqCopy → SeqCopy) : (modCopy s h f).err = s.err := rfl
@[simp] theorem modCopy_logQ (s : State) (h : Handle) (f : SeqCopy → SeqCopy) : (modCopy s h f).logQ = s.logQ := rfl
@[simp] theorem modCopy_traceQ (s : State) (h : Handle) (f : SeqCopy → SeqCopy) : (modCopy s h f).traceQ = s.traceQ := rfl
@[simp] theorem modCopy_reads (s : State) (h : Handle) (f : SeqCopy → SeqCopy) : (modCopy s h f).reads = s.reads := rfl
@[simp] theorem modCopy_nextRead (s : State) (h : Handle) (f : SeqCopy → SeqCopy) : (modCopy s h f).nextRead = s.nextRead := rfl
@[simp] theorem modCopy_vecPending (s : State) (h : Handle) (f : SeqCopy → SeqCopy) : (modCopy s h f).vecPending = s.vecPending := rfl
@[simp] theorem modCopy_vecOpen (s : State) (h : Handle) (f : SeqCopy → SeqCopy) : (modCopy s h f).vecOpen = s.vecOpen := rfl
@[simp] theorem modCopy_vecSent (s : State) (h : Handle) (f : SeqCopy → SeqCopy) : (modCopy s h f).vecSent = s.vecSent := rfl
@[simp] theorem modCopy_notify (s : State) (h : Handle) (f : SeqCopy → SeqCopy) : (modCopy s h f).notify = s.notify := rfl
@[simp] theorem modCopy_hashKey (s : State) (h : Handle) (f : SeqCopy → SeqCopy) : (modCopy s h f).hashKey = s.hashKey := rfl
@[simp] theorem modCopy_mc (s : State) (h : Handle) (f : SeqCopy → SeqCopy) : (modCopy s h f).mc = s.mc := rfl
@[simp] theorem modCopy_cx (s : State) (h : Handle) (f : SeqCopy → SeqCopy) : (modCopy s h f).cx = s.cx := rfl
@[simp] theorem modCopy_ladder (s : State) (h : Handle) (f : SeqCopy → SeqCopy) : (modCopy s h f).ladder = s.ladder := rfl
@[simp] theorem modCopy_keySlots (s : State) (h : Handle) (f : SeqCopy → SeqCopy) : (modCopy s h f).keySlots = s.keySlots := rfl
@[simp] theorem modCopy_hostTraffic (s : State) (h : Handle) (f : SeqCopy → SeqCopy) : (modCopy s h f).hostTraffic = s.hostTraffic := rfl
@[simp] theorem modCopy_fl (s : State) (h : Handle) (f : SeqCopy → SeqCopy) : (modCopy s h f).fl = s.fl := rfl
@[simp] theorem modCopy_til (s : State) (h : Handle) (f : SeqCopy → SeqCopy) : (modCopy s h f).til = s.til := rfl
@[simp] theorem modCopy_halted (s : State) (h : Handle) (f : SeqCopy → SeqCopy) : (modCopy s h f).halted = s.halted := rfl
@[simp] theorem modCopy_tripped (s : State) (h : Handle) (f : SeqCopy → SeqCopy) : (modCopy s h f).tripped = s.tripped := rfl
@[simp] theorem modCopy_part (s : State) (h : Handle) (f : SeqCopy → SeqCopy) : (modCopy s h f).part = s.part := rfl
@[simp] theorem modCopy_fw (s : State) (h : Handle) (f : SeqCopy → SeqCopy) : (modCopy s h f).fw = s.fw := rfl
@[simp] theorem modCopy_fwRun (s : State) (h : Handle) (f : SeqCopy → SeqCopy) : (modCopy s h f).fwRun = s.fwRun := rfl
@[simp] theorem modCopy_hosts (s : State) (h : Handle) (f : SeqCopy → SeqCopy) : (modCopy s h f).hosts = s.hosts := rfl
@[simp] theorem modCopy_bar2Out (s : State) (h : Handle) (f : SeqCopy → SeqCopy) : (modCopy s h f).bar2Out = s.bar2Out := rfl
@[simp] theorem modCopy_trc (s : State) (h : Handle) (f : SeqCopy → SeqCopy) : (modCopy s h f).trc = s.trc := rfl
@[simp] theorem modCopy_cfg (s : State) (h : Handle) (f : SeqCopy → SeqCopy) : (modCopy s h f).cfg = s.cfg := rfl
@[simp] theorem modCopy_cfgState (s : State) (h : Handle) (f : SeqCopy → SeqCopy) : (modCopy s h f).cfgState = s.cfgState := rfl
@[simp] theorem modCopy_cpm (s : State) (h : Handle) (f : SeqCopy → SeqCopy) : (modCopy s h f).cpm = s.cpm := rfl
@[simp] theorem modCopy_pending (s : State) (h : Handle) (f : SeqCopy → SeqCopy) : (modCopy s h f).pending = s.pending := rfl

@[simp] theorem dropCopy_pers (s : State) (h : Handle) : (dropCopy s h).pers = s.pers := rfl
@[simp] theorem dropCopy_ident (s : State) (h : Handle) : (dropCopy s h).ident = s.ident := rfl
@[simp] theorem dropCopy_now (s : State) (h : Handle) : (dropCopy s h).now = s.now := rfl
@[simp] theorem dropCopy_free (s : State) (h : Handle) : (dropCopy s h).free = s.free := rfl
@[simp] theorem dropCopy_tz (s : State) (h : Handle) : (dropCopy s h).tz = s.tz := rfl
@[simp] theorem dropCopy_adm (s : State) (h : Handle) : (dropCopy s h).adm = s.adm := rfl
@[simp] theorem dropCopy_pages (s : State) (h : Handle) : (dropCopy s h).pages = s.pages := rfl
@[simp] theorem dropCopy_models (s : State) (h : Handle) : (dropCopy s h).models = s.models := rfl
@[simp] theorem dropCopy_rgn (s : State) (h : Handle) : (dropCopy s h).rgn = s.rgn := rfl
@[simp] theorem dropCopy_comps (s : State) (h : Handle) : (dropCopy s h).comps = s.comps := rfl
@[simp] theorem dropCopy_cmp (s : State) (h : Handle) : (dropCopy s h).cmp = s.cmp := rfl
@[simp] theorem dropCopy_regs (s : State) (h : Handle) : (dropCopy s h).regs = s.regs := rfl
@[simp] theorem dropCopy_dev (s : State) (h : Handle) : (dropCopy s h).dev = s.dev := rfl
@[simp] theorem dropCopy_host (s : State) (h : Handle) : (dropCopy s h).host = s.host := rfl
@[simp] theorem dropCopy_sent (s : State) (h : Handle) : (dropCopy s h).sent = s.sent := rfl
@[simp] theorem dropCopy_fab (s : State) (h : Handle) : (dropCopy s h).fab = s.fab := rfl
@[simp] theorem dropCopy_err (s : State) (h : Handle) : (dropCopy s h).err = s.err := rfl
@[simp] theorem dropCopy_logQ (s : State) (h : Handle) : (dropCopy s h).logQ = s.logQ := rfl
@[simp] theorem dropCopy_traceQ (s : State) (h : Handle) : (dropCopy s h).traceQ = s.traceQ := rfl
@[simp] theorem dropCopy_reads (s : State) (h : Handle) : (dropCopy s h).reads = s.reads := rfl
@[simp] theorem dropCopy_nextRead (s : State) (h : Handle) : (dropCopy s h).nextRead = s.nextRead := rfl
@[simp] theorem dropCopy_vecPending (s : State) (h : Handle) : (dropCopy s h).vecPending = s.vecPending := rfl
@[simp] theorem dropCopy_vecOpen (s : State) (h : Handle) : (dropCopy s h).vecOpen = s.vecOpen := rfl
@[simp] theorem dropCopy_vecSent (s : State) (h : Handle) : (dropCopy s h).vecSent = s.vecSent := rfl
@[simp] theorem dropCopy_notify (s : State) (h : Handle) : (dropCopy s h).notify = s.notify := rfl
@[simp] theorem dropCopy_hashKey (s : State) (h : Handle) : (dropCopy s h).hashKey = s.hashKey := rfl
@[simp] theorem dropCopy_mc (s : State) (h : Handle) : (dropCopy s h).mc = s.mc := rfl
@[simp] theorem dropCopy_cx (s : State) (h : Handle) : (dropCopy s h).cx = s.cx := rfl
@[simp] theorem dropCopy_ladder (s : State) (h : Handle) : (dropCopy s h).ladder = s.ladder := rfl
@[simp] theorem dropCopy_keySlots (s : State) (h : Handle) : (dropCopy s h).keySlots = s.keySlots := rfl
@[simp] theorem dropCopy_hostTraffic (s : State) (h : Handle) : (dropCopy s h).hostTraffic = s.hostTraffic := rfl
@[simp] theorem dropCopy_fl (s : State) (h : Handle) : (dropCopy s h).fl = s.fl := rfl
@[simp] theorem dropCopy_til (s : State) (h : Handle) : (dropCopy s h).til = s.til := rfl
@[simp] theorem dropCopy_halted (s : State) (h : Handle) : (dropCopy s h).halted = s.halted := rfl
@[simp] theorem dropCopy_tripped (s : State) (h : Handle) : (dropCopy s h).tripped = s.tripped := rfl
@[simp] theorem dropCopy_part (s : State) (h : Handle) : (dropCopy s h).part = s.part := rfl
@[simp] theorem dropCopy_fw (s : State) (h : Handle) : (dropCopy s h).fw = s.fw := rfl
@[simp] theorem dropCopy_fwRun (s : State) (h : Handle) : (dropCopy s h).fwRun = s.fwRun := rfl
@[simp] theorem dropCopy_hosts (s : State) (h : Handle) : (dropCopy s h).hosts = s.hosts := rfl
@[simp] theorem dropCopy_bar2Out (s : State) (h : Handle) : (dropCopy s h).bar2Out = s.bar2Out := rfl
@[simp] theorem dropCopy_trc (s : State) (h : Handle) : (dropCopy s h).trc = s.trc := rfl
@[simp] theorem dropCopy_cfg (s : State) (h : Handle) : (dropCopy s h).cfg = s.cfg := rfl
@[simp] theorem dropCopy_cfgState (s : State) (h : Handle) : (dropCopy s h).cfgState = s.cfgState := rfl
@[simp] theorem dropCopy_cpm (s : State) (h : Handle) : (dropCopy s h).cpm = s.cpm := rfl
@[simp] theorem dropCopy_pending (s : State) (h : Handle) : (dropCopy s h).pending = s.pending := rfl

@[simp] theorem modHome_pers (s : State) (h : Handle) (f : HomeRec → HomeRec) : (modHome s h f).pers = s.pers := rfl
@[simp] theorem modHome_ident (s : State) (h : Handle) (f : HomeRec → HomeRec) : (modHome s h f).ident = s.ident := rfl
@[simp] theorem modHome_now (s : State) (h : Handle) (f : HomeRec → HomeRec) : (modHome s h f).now = s.now := rfl
@[simp] theorem modHome_free (s : State) (h : Handle) (f : HomeRec → HomeRec) : (modHome s h f).free = s.free := rfl
@[simp] theorem modHome_tz (s : State) (h : Handle) (f : HomeRec → HomeRec) : (modHome s h f).tz = s.tz := rfl
@[simp] theorem modHome_adm (s : State) (h : Handle) (f : HomeRec → HomeRec) : (modHome s h f).adm = s.adm := rfl
@[simp] theorem modHome_pages (s : State) (h : Handle) (f : HomeRec → HomeRec) : (modHome s h f).pages = s.pages := rfl
@[simp] theorem modHome_models (s : State) (h : Handle) (f : HomeRec → HomeRec) : (modHome s h f).models = s.models := rfl
@[simp] theorem modHome_rgn (s : State) (h : Handle) (f : HomeRec → HomeRec) : (modHome s h f).rgn = s.rgn := rfl
@[simp] theorem modHome_comps (s : State) (h : Handle) (f : HomeRec → HomeRec) : (modHome s h f).comps = s.comps := rfl
@[simp] theorem modHome_cmp (s : State) (h : Handle) (f : HomeRec → HomeRec) : (modHome s h f).cmp = s.cmp := rfl
@[simp] theorem modHome_regs (s : State) (h : Handle) (f : HomeRec → HomeRec) : (modHome s h f).regs = s.regs := rfl
@[simp] theorem modHome_dev (s : State) (h : Handle) (f : HomeRec → HomeRec) : (modHome s h f).dev = s.dev := rfl
@[simp] theorem modHome_host (s : State) (h : Handle) (f : HomeRec → HomeRec) : (modHome s h f).host = s.host := rfl
@[simp] theorem modHome_sent (s : State) (h : Handle) (f : HomeRec → HomeRec) : (modHome s h f).sent = s.sent := rfl
@[simp] theorem modHome_fab (s : State) (h : Handle) (f : HomeRec → HomeRec) : (modHome s h f).fab = s.fab := rfl
@[simp] theorem modHome_err (s : State) (h : Handle) (f : HomeRec → HomeRec) : (modHome s h f).err = s.err := rfl
@[simp] theorem modHome_logQ (s : State) (h : Handle) (f : HomeRec → HomeRec) : (modHome s h f).logQ = s.logQ := rfl
@[simp] theorem modHome_traceQ (s : State) (h : Handle) (f : HomeRec → HomeRec) : (modHome s h f).traceQ = s.traceQ := rfl
@[simp] theorem modHome_reads (s : State) (h : Handle) (f : HomeRec → HomeRec) : (modHome s h f).reads = s.reads := rfl
@[simp] theorem modHome_nextRead (s : State) (h : Handle) (f : HomeRec → HomeRec) : (modHome s h f).nextRead = s.nextRead := rfl
@[simp] theorem modHome_vecPending (s : State) (h : Handle) (f : HomeRec → HomeRec) : (modHome s h f).vecPending = s.vecPending := rfl
@[simp] theorem modHome_vecOpen (s : State) (h : Handle) (f : HomeRec → HomeRec) : (modHome s h f).vecOpen = s.vecOpen := rfl
@[simp] theorem modHome_vecSent (s : State) (h : Handle) (f : HomeRec → HomeRec) : (modHome s h f).vecSent = s.vecSent := rfl
@[simp] theorem modHome_notify (s : State) (h : Handle) (f : HomeRec → HomeRec) : (modHome s h f).notify = s.notify := rfl
@[simp] theorem modHome_hashKey (s : State) (h : Handle) (f : HomeRec → HomeRec) : (modHome s h f).hashKey = s.hashKey := rfl
@[simp] theorem modHome_mc (s : State) (h : Handle) (f : HomeRec → HomeRec) : (modHome s h f).mc = s.mc := rfl
@[simp] theorem modHome_cx (s : State) (h : Handle) (f : HomeRec → HomeRec) : (modHome s h f).cx = s.cx := rfl
@[simp] theorem modHome_ladder (s : State) (h : Handle) (f : HomeRec → HomeRec) : (modHome s h f).ladder = s.ladder := rfl
@[simp] theorem modHome_keySlots (s : State) (h : Handle) (f : HomeRec → HomeRec) : (modHome s h f).keySlots = s.keySlots := rfl
@[simp] theorem modHome_hostTraffic (s : State) (h : Handle) (f : HomeRec → HomeRec) : (modHome s h f).hostTraffic = s.hostTraffic := rfl
@[simp] theorem modHome_fl (s : State) (h : Handle) (f : HomeRec → HomeRec) : (modHome s h f).fl = s.fl := rfl
@[simp] theorem modHome_til (s : State) (h : Handle) (f : HomeRec → HomeRec) : (modHome s h f).til = s.til := rfl
@[simp] theorem modHome_halted (s : State) (h : Handle) (f : HomeRec → HomeRec) : (modHome s h f).halted = s.halted := rfl
@[simp] theorem modHome_tripped (s : State) (h : Handle) (f : HomeRec → HomeRec) : (modHome s h f).tripped = s.tripped := rfl
@[simp] theorem modHome_part (s : State) (h : Handle) (f : HomeRec → HomeRec) : (modHome s h f).part = s.part := rfl
@[simp] theorem modHome_fw (s : State) (h : Handle) (f : HomeRec → HomeRec) : (modHome s h f).fw = s.fw := rfl
@[simp] theorem modHome_fwRun (s : State) (h : Handle) (f : HomeRec → HomeRec) : (modHome s h f).fwRun = s.fwRun := rfl
@[simp] theorem modHome_hosts (s : State) (h : Handle) (f : HomeRec → HomeRec) : (modHome s h f).hosts = s.hosts := rfl
@[simp] theorem modHome_bar2Out (s : State) (h : Handle) (f : HomeRec → HomeRec) : (modHome s h f).bar2Out = s.bar2Out := rfl
@[simp] theorem modHome_trc (s : State) (h : Handle) (f : HomeRec → HomeRec) : (modHome s h f).trc = s.trc := rfl
@[simp] theorem modHome_cfg (s : State) (h : Handle) (f : HomeRec → HomeRec) : (modHome s h f).cfg = s.cfg := rfl
@[simp] theorem modHome_cfgState (s : State) (h : Handle) (f : HomeRec → HomeRec) : (modHome s h f).cfgState = s.cfgState := rfl
@[simp] theorem modHome_cpm (s : State) (h : Handle) (f : HomeRec → HomeRec) : (modHome s h f).cpm = s.cpm := rfl
@[simp] theorem modHome_pending (s : State) (h : Handle) (f : HomeRec → HomeRec) : (modHome s h f).pending = s.pending := rfl

@[simp] theorem modP_pers (s : State) (p : Nat) (f : Port → Port) : (modP s p f).pers = s.pers := rfl
@[simp] theorem modP_ident (s : State) (p : Nat) (f : Port → Port) : (modP s p f).ident = s.ident := rfl
@[simp] theorem modP_now (s : State) (p : Nat) (f : Port → Port) : (modP s p f).now = s.now := rfl
@[simp] theorem modP_free (s : State) (p : Nat) (f : Port → Port) : (modP s p f).free = s.free := rfl
@[simp] theorem modP_tz (s : State) (p : Nat) (f : Port → Port) : (modP s p f).tz = s.tz := rfl
@[simp] theorem modP_adm (s : State) (p : Nat) (f : Port → Port) : (modP s p f).adm = s.adm := rfl
@[simp] theorem modP_pages (s : State) (p : Nat) (f : Port → Port) : (modP s p f).pages = s.pages := rfl
@[simp] theorem modP_models (s : State) (p : Nat) (f : Port → Port) : (modP s p f).models = s.models := rfl
@[simp] theorem modP_own (s : State) (p : Nat) (f : Port → Port) : (modP s p f).own = s.own := rfl
@[simp] theorem modP_rgn (s : State) (p : Nat) (f : Port → Port) : (modP s p f).rgn = s.rgn := rfl
@[simp] theorem modP_comps (s : State) (p : Nat) (f : Port → Port) : (modP s p f).comps = s.comps := rfl
@[simp] theorem modP_cmp (s : State) (p : Nat) (f : Port → Port) : (modP s p f).cmp = s.cmp := rfl
@[simp] theorem modP_regs (s : State) (p : Nat) (f : Port → Port) : (modP s p f).regs = s.regs := rfl
@[simp] theorem modP_dev (s : State) (p : Nat) (f : Port → Port) : (modP s p f).dev = s.dev := rfl
@[simp] theorem modP_host (s : State) (p : Nat) (f : Port → Port) : (modP s p f).host = s.host := rfl
@[simp] theorem modP_sent (s : State) (p : Nat) (f : Port → Port) : (modP s p f).sent = s.sent := rfl
@[simp] theorem modP_err (s : State) (p : Nat) (f : Port → Port) : (modP s p f).err = s.err := rfl
@[simp] theorem modP_logQ (s : State) (p : Nat) (f : Port → Port) : (modP s p f).logQ = s.logQ := rfl
@[simp] theorem modP_traceQ (s : State) (p : Nat) (f : Port → Port) : (modP s p f).traceQ = s.traceQ := rfl
@[simp] theorem modP_reads (s : State) (p : Nat) (f : Port → Port) : (modP s p f).reads = s.reads := rfl
@[simp] theorem modP_nextRead (s : State) (p : Nat) (f : Port → Port) : (modP s p f).nextRead = s.nextRead := rfl
@[simp] theorem modP_vecPending (s : State) (p : Nat) (f : Port → Port) : (modP s p f).vecPending = s.vecPending := rfl
@[simp] theorem modP_vecOpen (s : State) (p : Nat) (f : Port → Port) : (modP s p f).vecOpen = s.vecOpen := rfl
@[simp] theorem modP_vecSent (s : State) (p : Nat) (f : Port → Port) : (modP s p f).vecSent = s.vecSent := rfl
@[simp] theorem modP_notify (s : State) (p : Nat) (f : Port → Port) : (modP s p f).notify = s.notify := rfl
@[simp] theorem modP_hashKey (s : State) (p : Nat) (f : Port → Port) : (modP s p f).hashKey = s.hashKey := rfl
@[simp] theorem modP_mc (s : State) (p : Nat) (f : Port → Port) : (modP s p f).mc = s.mc := rfl
@[simp] theorem modP_cx (s : State) (p : Nat) (f : Port → Port) : (modP s p f).cx = s.cx := rfl
@[simp] theorem modP_ladder (s : State) (p : Nat) (f : Port → Port) : (modP s p f).ladder = s.ladder := rfl
@[simp] theorem modP_keySlots (s : State) (p : Nat) (f : Port → Port) : (modP s p f).keySlots = s.keySlots := rfl
@[simp] theorem modP_hostTraffic (s : State) (p : Nat) (f : Port → Port) : (modP s p f).hostTraffic = s.hostTraffic := rfl
@[simp] theorem modP_fl (s : State) (p : Nat) (f : Port → Port) : (modP s p f).fl = s.fl := rfl
@[simp] theorem modP_til (s : State) (p : Nat) (f : Port → Port) : (modP s p f).til = s.til := rfl
@[simp] theorem modP_halted (s : State) (p : Nat) (f : Port → Port) : (modP s p f).halted = s.halted := rfl
@[simp] theorem modP_tripped (s : State) (p : Nat) (f : Port → Port) : (modP s p f).tripped = s.tripped := rfl
@[simp] theorem modP_part (s : State) (p : Nat) (f : Port → Port) : (modP s p f).part = s.part := rfl
@[simp] theorem modP_fw (s : State) (p : Nat) (f : Port → Port) : (modP s p f).fw = s.fw := rfl
@[simp] theorem modP_fwRun (s : State) (p : Nat) (f : Port → Port) : (modP s p f).fwRun = s.fwRun := rfl
@[simp] theorem modP_hosts (s : State) (p : Nat) (f : Port → Port) : (modP s p f).hosts = s.hosts := rfl
@[simp] theorem modP_bar2Out (s : State) (p : Nat) (f : Port → Port) : (modP s p f).bar2Out = s.bar2Out := rfl
@[simp] theorem modP_trc (s : State) (p : Nat) (f : Port → Port) : (modP s p f).trc = s.trc := rfl
@[simp] theorem modP_cfg (s : State) (p : Nat) (f : Port → Port) : (modP s p f).cfg = s.cfg := rfl
@[simp] theorem modP_cfgState (s : State) (p : Nat) (f : Port → Port) : (modP s p f).cfgState = s.cfgState := rfl
@[simp] theorem modP_cpm (s : State) (p : Nat) (f : Port → Port) : (modP s p f).cpm = s.cpm := rfl
@[simp] theorem modP_pending (s : State) (p : Nat) (f : Port → Port) : (modP s p f).pending = s.pending := rfl

@[simp] theorem modQp_pers (s : State) (p : QPair → Bool) (f : QPair → QPair) : (modQp s p f).pers = s.pers := rfl
@[simp] theorem modQp_ident (s : State) (p : QPair → Bool) (f : QPair → QPair) : (modQp s p f).ident = s.ident := rfl
@[simp] theorem modQp_now (s : State) (p : QPair → Bool) (f : QPair → QPair) : (modQp s p f).now = s.now := rfl
@[simp] theorem modQp_free (s : State) (p : QPair → Bool) (f : QPair → QPair) : (modQp s p f).free = s.free := rfl
@[simp] theorem modQp_tz (s : State) (p : QPair → Bool) (f : QPair → QPair) : (modQp s p f).tz = s.tz := rfl
@[simp] theorem modQp_adm (s : State) (p : QPair → Bool) (f : QPair → QPair) : (modQp s p f).adm = s.adm := rfl
@[simp] theorem modQp_pages (s : State) (p : QPair → Bool) (f : QPair → QPair) : (modQp s p f).pages = s.pages := rfl
@[simp] theorem modQp_models (s : State) (p : QPair → Bool) (f : QPair → QPair) : (modQp s p f).models = s.models := rfl
@[simp] theorem modQp_own (s : State) (p : QPair → Bool) (f : QPair → QPair) : (modQp s p f).own = s.own := rfl
@[simp] theorem modQp_rgn (s : State) (p : QPair → Bool) (f : QPair → QPair) : (modQp s p f).rgn = s.rgn := rfl
@[simp] theorem modQp_comps (s : State) (p : QPair → Bool) (f : QPair → QPair) : (modQp s p f).comps = s.comps := rfl
@[simp] theorem modQp_cmp (s : State) (p : QPair → Bool) (f : QPair → QPair) : (modQp s p f).cmp = s.cmp := rfl
@[simp] theorem modQp_regs (s : State) (p : QPair → Bool) (f : QPair → QPair) : (modQp s p f).regs = s.regs := rfl
@[simp] theorem modQp_dev (s : State) (p : QPair → Bool) (f : QPair → QPair) : (modQp s p f).dev = s.dev := rfl
@[simp] theorem modQp_host (s : State) (p : QPair → Bool) (f : QPair → QPair) : (modQp s p f).host = s.host := rfl
@[simp] theorem modQp_sent (s : State) (p : QPair → Bool) (f : QPair → QPair) : (modQp s p f).sent = s.sent := rfl
@[simp] theorem modQp_err (s : State) (p : QPair → Bool) (f : QPair → QPair) : (modQp s p f).err = s.err := rfl
@[simp] theorem modQp_logQ (s : State) (p : QPair → Bool) (f : QPair → QPair) : (modQp s p f).logQ = s.logQ := rfl
@[simp] theorem modQp_traceQ (s : State) (p : QPair → Bool) (f : QPair → QPair) : (modQp s p f).traceQ = s.traceQ := rfl
@[simp] theorem modQp_reads (s : State) (p : QPair → Bool) (f : QPair → QPair) : (modQp s p f).reads = s.reads := rfl
@[simp] theorem modQp_nextRead (s : State) (p : QPair → Bool) (f : QPair → QPair) : (modQp s p f).nextRead = s.nextRead := rfl
@[simp] theorem modQp_vecPending (s : State) (p : QPair → Bool) (f : QPair → QPair) : (modQp s p f).vecPending = s.vecPending := rfl
@[simp] theorem modQp_vecOpen (s : State) (p : QPair → Bool) (f : QPair → QPair) : (modQp s p f).vecOpen = s.vecOpen := rfl
@[simp] theorem modQp_vecSent (s : State) (p : QPair → Bool) (f : QPair → QPair) : (modQp s p f).vecSent = s.vecSent := rfl
@[simp] theorem modQp_notify (s : State) (p : QPair → Bool) (f : QPair → QPair) : (modQp s p f).notify = s.notify := rfl
@[simp] theorem modQp_hashKey (s : State) (p : QPair → Bool) (f : QPair → QPair) : (modQp s p f).hashKey = s.hashKey := rfl
@[simp] theorem modQp_mc (s : State) (p : QPair → Bool) (f : QPair → QPair) : (modQp s p f).mc = s.mc := rfl
@[simp] theorem modQp_cx (s : State) (p : QPair → Bool) (f : QPair → QPair) : (modQp s p f).cx = s.cx := rfl
@[simp] theorem modQp_ladder (s : State) (p : QPair → Bool) (f : QPair → QPair) : (modQp s p f).ladder = s.ladder := rfl
@[simp] theorem modQp_keySlots (s : State) (p : QPair → Bool) (f : QPair → QPair) : (modQp s p f).keySlots = s.keySlots := rfl
@[simp] theorem modQp_hostTraffic (s : State) (p : QPair → Bool) (f : QPair → QPair) : (modQp s p f).hostTraffic = s.hostTraffic := rfl
@[simp] theorem modQp_fl (s : State) (p : QPair → Bool) (f : QPair → QPair) : (modQp s p f).fl = s.fl := rfl
@[simp] theorem modQp_til (s : State) (p : QPair → Bool) (f : QPair → QPair) : (modQp s p f).til = s.til := rfl
@[simp] theorem modQp_halted (s : State) (p : QPair → Bool) (f : QPair → QPair) : (modQp s p f).halted = s.halted := rfl
@[simp] theorem modQp_tripped (s : State) (p : QPair → Bool) (f : QPair → QPair) : (modQp s p f).tripped = s.tripped := rfl
@[simp] theorem modQp_part (s : State) (p : QPair → Bool) (f : QPair → QPair) : (modQp s p f).part = s.part := rfl
@[simp] theorem modQp_fw (s : State) (p : QPair → Bool) (f : QPair → QPair) : (modQp s p f).fw = s.fw := rfl
@[simp] theorem modQp_fwRun (s : State) (p : QPair → Bool) (f : QPair → QPair) : (modQp s p f).fwRun = s.fwRun := rfl
@[simp] theorem modQp_hosts (s : State) (p : QPair → Bool) (f : QPair → QPair) : (modQp s p f).hosts = s.hosts := rfl
@[simp] theorem modQp_bar2Out (s : State) (p : QPair → Bool) (f : QPair → QPair) : (modQp s p f).bar2Out = s.bar2Out := rfl
@[simp] theorem modQp_trc (s : State) (p : QPair → Bool) (f : QPair → QPair) : (modQp s p f).trc = s.trc := rfl
@[simp] theorem modQp_cfg (s : State) (p : QPair → Bool) (f : QPair → QPair) : (modQp s p f).cfg = s.cfg := rfl
@[simp] theorem modQp_cfgState (s : State) (p : QPair → Bool) (f : QPair → QPair) : (modQp s p f).cfgState = s.cfgState := rfl
@[simp] theorem modQp_cpm (s : State) (p : QPair → Bool) (f : QPair → QPair) : (modQp s p f).cpm = s.cpm := rfl
@[simp] theorem modQp_pending (s : State) (p : QPair → Bool) (f : QPair → QPair) : (modQp s p f).pending = s.pending := rfl

@[simp] theorem modComb_pers (s : State) (id : Nat) (f : CombRead → CombRead) : (modComb s id f).pers = s.pers := rfl
@[simp] theorem modComb_ident (s : State) (id : Nat) (f : CombRead → CombRead) : (modComb s id f).ident = s.ident := rfl
@[simp] theorem modComb_now (s : State) (id : Nat) (f : CombRead → CombRead) : (modComb s id f).now = s.now := rfl
@[simp] theorem modComb_free (s : State) (id : Nat) (f : CombRead → CombRead) : (modComb s id f).free = s.free := rfl
@[simp] theorem modComb_tz (s : State) (id : Nat) (f : CombRead → CombRead) : (modComb s id f).tz = s.tz := rfl
@[simp] theorem modComb_adm (s : State) (id : Nat) (f : CombRead → CombRead) : (modComb s id f).adm = s.adm := rfl
@[simp] theorem modComb_pages (s : State) (id : Nat) (f : CombRead → CombRead) : (modComb s id f).pages = s.pages := rfl
@[simp] theorem modComb_models (s : State) (id : Nat) (f : CombRead → CombRead) : (modComb s id f).models = s.models := rfl
@[simp] theorem modComb_own (s : State) (id : Nat) (f : CombRead → CombRead) : (modComb s id f).own = s.own := rfl
@[simp] theorem modComb_rgn (s : State) (id : Nat) (f : CombRead → CombRead) : (modComb s id f).rgn = s.rgn := rfl
@[simp] theorem modComb_comps (s : State) (id : Nat) (f : CombRead → CombRead) : (modComb s id f).comps = s.comps := rfl
@[simp] theorem modComb_cmp (s : State) (id : Nat) (f : CombRead → CombRead) : (modComb s id f).cmp = s.cmp := rfl
@[simp] theorem modComb_regs (s : State) (id : Nat) (f : CombRead → CombRead) : (modComb s id f).regs = s.regs := rfl
@[simp] theorem modComb_dev (s : State) (id : Nat) (f : CombRead → CombRead) : (modComb s id f).dev = s.dev := rfl
@[simp] theorem modComb_host (s : State) (id : Nat) (f : CombRead → CombRead) : (modComb s id f).host = s.host := rfl
@[simp] theorem modComb_sent (s : State) (id : Nat) (f : CombRead → CombRead) : (modComb s id f).sent = s.sent := rfl
@[simp] theorem modComb_err (s : State) (id : Nat) (f : CombRead → CombRead) : (modComb s id f).err = s.err := rfl
@[simp] theorem modComb_logQ (s : State) (id : Nat) (f : CombRead → CombRead) : (modComb s id f).logQ = s.logQ := rfl
@[simp] theorem modComb_traceQ (s : State) (id : Nat) (f : CombRead → CombRead) : (modComb s id f).traceQ = s.traceQ := rfl
@[simp] theorem modComb_reads (s : State) (id : Nat) (f : CombRead → CombRead) : (modComb s id f).reads = s.reads := rfl
@[simp] theorem modComb_nextRead (s : State) (id : Nat) (f : CombRead → CombRead) : (modComb s id f).nextRead = s.nextRead := rfl
@[simp] theorem modComb_vecPending (s : State) (id : Nat) (f : CombRead → CombRead) : (modComb s id f).vecPending = s.vecPending := rfl
@[simp] theorem modComb_vecOpen (s : State) (id : Nat) (f : CombRead → CombRead) : (modComb s id f).vecOpen = s.vecOpen := rfl
@[simp] theorem modComb_vecSent (s : State) (id : Nat) (f : CombRead → CombRead) : (modComb s id f).vecSent = s.vecSent := rfl
@[simp] theorem modComb_notify (s : State) (id : Nat) (f : CombRead → CombRead) : (modComb s id f).notify = s.notify := rfl
@[simp] theorem modComb_hashKey (s : State) (id : Nat) (f : CombRead → CombRead) : (modComb s id f).hashKey = s.hashKey := rfl
@[simp] theorem modComb_mc (s : State) (id : Nat) (f : CombRead → CombRead) : (modComb s id f).mc = s.mc := rfl
@[simp] theorem modComb_cx (s : State) (id : Nat) (f : CombRead → CombRead) : (modComb s id f).cx = s.cx := rfl
@[simp] theorem modComb_ladder (s : State) (id : Nat) (f : CombRead → CombRead) : (modComb s id f).ladder = s.ladder := rfl
@[simp] theorem modComb_keySlots (s : State) (id : Nat) (f : CombRead → CombRead) : (modComb s id f).keySlots = s.keySlots := rfl
@[simp] theorem modComb_hostTraffic (s : State) (id : Nat) (f : CombRead → CombRead) : (modComb s id f).hostTraffic = s.hostTraffic := rfl
@[simp] theorem modComb_fl (s : State) (id : Nat) (f : CombRead → CombRead) : (modComb s id f).fl = s.fl := rfl
@[simp] theorem modComb_til (s : State) (id : Nat) (f : CombRead → CombRead) : (modComb s id f).til = s.til := rfl
@[simp] theorem modComb_halted (s : State) (id : Nat) (f : CombRead → CombRead) : (modComb s id f).halted = s.halted := rfl
@[simp] theorem modComb_tripped (s : State) (id : Nat) (f : CombRead → CombRead) : (modComb s id f).tripped = s.tripped := rfl
@[simp] theorem modComb_part (s : State) (id : Nat) (f : CombRead → CombRead) : (modComb s id f).part = s.part := rfl
@[simp] theorem modComb_fw (s : State) (id : Nat) (f : CombRead → CombRead) : (modComb s id f).fw = s.fw := rfl
@[simp] theorem modComb_fwRun (s : State) (id : Nat) (f : CombRead → CombRead) : (modComb s id f).fwRun = s.fwRun := rfl
@[simp] theorem modComb_hosts (s : State) (id : Nat) (f : CombRead → CombRead) : (modComb s id f).hosts = s.hosts := rfl
@[simp] theorem modComb_bar2Out (s : State) (id : Nat) (f : CombRead → CombRead) : (modComb s id f).bar2Out = s.bar2Out := rfl
@[simp] theorem modComb_trc (s : State) (id : Nat) (f : CombRead → CombRead) : (modComb s id f).trc = s.trc := rfl
@[simp] theorem modComb_cfg (s : State) (id : Nat) (f : CombRead → CombRead) : (modComb s id f).cfg = s.cfg := rfl
@[simp] theorem modComb_cfgState (s : State) (id : Nat) (f : CombRead → CombRead) : (modComb s id f).cfgState = s.cfgState := rfl
@[simp] theorem modComb_cpm (s : State) (id : Nat) (f : CombRead → CombRead) : (modComb s id f).cpm = s.cpm := rfl
@[simp] theorem modComb_pending (s : State) (id : Nat) (f : CombRead → CombRead) : (modComb s id f).pending = s.pending := rfl

@[simp] theorem modH_pers (s : State) (p : Nat) (f : HostPort → HostPort) : (modH s p f).pers = s.pers := rfl
@[simp] theorem modH_ident (s : State) (p : Nat) (f : HostPort → HostPort) : (modH s p f).ident = s.ident := rfl
@[simp] theorem modH_now (s : State) (p : Nat) (f : HostPort → HostPort) : (modH s p f).now = s.now := rfl
@[simp] theorem modH_free (s : State) (p : Nat) (f : HostPort → HostPort) : (modH s p f).free = s.free := rfl
@[simp] theorem modH_tz (s : State) (p : Nat) (f : HostPort → HostPort) : (modH s p f).tz = s.tz := rfl
@[simp] theorem modH_adm (s : State) (p : Nat) (f : HostPort → HostPort) : (modH s p f).adm = s.adm := rfl
@[simp] theorem modH_pages (s : State) (p : Nat) (f : HostPort → HostPort) : (modH s p f).pages = s.pages := rfl
@[simp] theorem modH_models (s : State) (p : Nat) (f : HostPort → HostPort) : (modH s p f).models = s.models := rfl
@[simp] theorem modH_own (s : State) (p : Nat) (f : HostPort → HostPort) : (modH s p f).own = s.own := rfl
@[simp] theorem modH_rgn (s : State) (p : Nat) (f : HostPort → HostPort) : (modH s p f).rgn = s.rgn := rfl
@[simp] theorem modH_comps (s : State) (p : Nat) (f : HostPort → HostPort) : (modH s p f).comps = s.comps := rfl
@[simp] theorem modH_cmp (s : State) (p : Nat) (f : HostPort → HostPort) : (modH s p f).cmp = s.cmp := rfl
@[simp] theorem modH_regs (s : State) (p : Nat) (f : HostPort → HostPort) : (modH s p f).regs = s.regs := rfl
@[simp] theorem modH_dev (s : State) (p : Nat) (f : HostPort → HostPort) : (modH s p f).dev = s.dev := rfl
@[simp] theorem modH_host (s : State) (p : Nat) (f : HostPort → HostPort) : (modH s p f).host = s.host := rfl
@[simp] theorem modH_sent (s : State) (p : Nat) (f : HostPort → HostPort) : (modH s p f).sent = s.sent := rfl
@[simp] theorem modH_fab (s : State) (p : Nat) (f : HostPort → HostPort) : (modH s p f).fab = s.fab := rfl
@[simp] theorem modH_err (s : State) (p : Nat) (f : HostPort → HostPort) : (modH s p f).err = s.err := rfl
@[simp] theorem modH_logQ (s : State) (p : Nat) (f : HostPort → HostPort) : (modH s p f).logQ = s.logQ := rfl
@[simp] theorem modH_traceQ (s : State) (p : Nat) (f : HostPort → HostPort) : (modH s p f).traceQ = s.traceQ := rfl
@[simp] theorem modH_reads (s : State) (p : Nat) (f : HostPort → HostPort) : (modH s p f).reads = s.reads := rfl
@[simp] theorem modH_nextRead (s : State) (p : Nat) (f : HostPort → HostPort) : (modH s p f).nextRead = s.nextRead := rfl
@[simp] theorem modH_vecPending (s : State) (p : Nat) (f : HostPort → HostPort) : (modH s p f).vecPending = s.vecPending := rfl
@[simp] theorem modH_vecOpen (s : State) (p : Nat) (f : HostPort → HostPort) : (modH s p f).vecOpen = s.vecOpen := rfl
@[simp] theorem modH_vecSent (s : State) (p : Nat) (f : HostPort → HostPort) : (modH s p f).vecSent = s.vecSent := rfl
@[simp] theorem modH_notify (s : State) (p : Nat) (f : HostPort → HostPort) : (modH s p f).notify = s.notify := rfl
@[simp] theorem modH_hashKey (s : State) (p : Nat) (f : HostPort → HostPort) : (modH s p f).hashKey = s.hashKey := rfl
@[simp] theorem modH_mc (s : State) (p : Nat) (f : HostPort → HostPort) : (modH s p f).mc = s.mc := rfl
@[simp] theorem modH_cx (s : State) (p : Nat) (f : HostPort → HostPort) : (modH s p f).cx = s.cx := rfl
@[simp] theorem modH_ladder (s : State) (p : Nat) (f : HostPort → HostPort) : (modH s p f).ladder = s.ladder := rfl
@[simp] theorem modH_keySlots (s : State) (p : Nat) (f : HostPort → HostPort) : (modH s p f).keySlots = s.keySlots := rfl
@[simp] theorem modH_hostTraffic (s : State) (p : Nat) (f : HostPort → HostPort) : (modH s p f).hostTraffic = s.hostTraffic := rfl
@[simp] theorem modH_fl (s : State) (p : Nat) (f : HostPort → HostPort) : (modH s p f).fl = s.fl := rfl
@[simp] theorem modH_til (s : State) (p : Nat) (f : HostPort → HostPort) : (modH s p f).til = s.til := rfl
@[simp] theorem modH_halted (s : State) (p : Nat) (f : HostPort → HostPort) : (modH s p f).halted = s.halted := rfl
@[simp] theorem modH_tripped (s : State) (p : Nat) (f : HostPort → HostPort) : (modH s p f).tripped = s.tripped := rfl
@[simp] theorem modH_part (s : State) (p : Nat) (f : HostPort → HostPort) : (modH s p f).part = s.part := rfl
@[simp] theorem modH_fw (s : State) (p : Nat) (f : HostPort → HostPort) : (modH s p f).fw = s.fw := rfl
@[simp] theorem modH_fwRun (s : State) (p : Nat) (f : HostPort → HostPort) : (modH s p f).fwRun = s.fwRun := rfl
@[simp] theorem modH_bar2Out (s : State) (p : Nat) (f : HostPort → HostPort) : (modH s p f).bar2Out = s.bar2Out := rfl
@[simp] theorem modH_trc (s : State) (p : Nat) (f : HostPort → HostPort) : (modH s p f).trc = s.trc := rfl
@[simp] theorem modH_cfg (s : State) (p : Nat) (f : HostPort → HostPort) : (modH s p f).cfg = s.cfg := rfl
@[simp] theorem modH_cfgState (s : State) (p : Nat) (f : HostPort → HostPort) : (modH s p f).cfgState = s.cfgState := rfl
@[simp] theorem modH_cpm (s : State) (p : Nat) (f : HostPort → HostPort) : (modH s p f).cpm = s.cpm := rfl
@[simp] theorem modH_pending (s : State) (p : Nat) (f : HostPort → HostPort) : (modH s p f).pending = s.pending := rfl

@[simp] theorem modFw_pers (s : State) (f : Fw → Fw) : (modFw s f).pers = s.pers := rfl
@[simp] theorem modFw_ident (s : State) (f : Fw → Fw) : (modFw s f).ident = s.ident := rfl
@[simp] theorem modFw_now (s : State) (f : Fw → Fw) : (modFw s f).now = s.now := rfl
@[simp] theorem modFw_free (s : State) (f : Fw → Fw) : (modFw s f).free = s.free := rfl
@[simp] theorem modFw_tz (s : State) (f : Fw → Fw) : (modFw s f).tz = s.tz := rfl
@[simp] theorem modFw_adm (s : State) (f : Fw → Fw) : (modFw s f).adm = s.adm := rfl
@[simp] theorem modFw_pages (s : State) (f : Fw → Fw) : (modFw s f).pages = s.pages := rfl
@[simp] theorem modFw_models (s : State) (f : Fw → Fw) : (modFw s f).models = s.models := rfl
@[simp] theorem modFw_own (s : State) (f : Fw → Fw) : (modFw s f).own = s.own := rfl
@[simp] theorem modFw_rgn (s : State) (f : Fw → Fw) : (modFw s f).rgn = s.rgn := rfl
@[simp] theorem modFw_comps (s : State) (f : Fw → Fw) : (modFw s f).comps = s.comps := rfl
@[simp] theorem modFw_cmp (s : State) (f : Fw → Fw) : (modFw s f).cmp = s.cmp := rfl
@[simp] theorem modFw_regs (s : State) (f : Fw → Fw) : (modFw s f).regs = s.regs := rfl
@[simp] theorem modFw_dev (s : State) (f : Fw → Fw) : (modFw s f).dev = s.dev := rfl
@[simp] theorem modFw_host (s : State) (f : Fw → Fw) : (modFw s f).host = s.host := rfl
@[simp] theorem modFw_sent (s : State) (f : Fw → Fw) : (modFw s f).sent = s.sent := rfl
@[simp] theorem modFw_fab (s : State) (f : Fw → Fw) : (modFw s f).fab = s.fab := rfl
@[simp] theorem modFw_err (s : State) (f : Fw → Fw) : (modFw s f).err = s.err := rfl
@[simp] theorem modFw_logQ (s : State) (f : Fw → Fw) : (modFw s f).logQ = s.logQ := rfl
@[simp] theorem modFw_traceQ (s : State) (f : Fw → Fw) : (modFw s f).traceQ = s.traceQ := rfl
@[simp] theorem modFw_reads (s : State) (f : Fw → Fw) : (modFw s f).reads = s.reads := rfl
@[simp] theorem modFw_nextRead (s : State) (f : Fw → Fw) : (modFw s f).nextRead = s.nextRead := rfl
@[simp] theorem modFw_vecPending (s : State) (f : Fw → Fw) : (modFw s f).vecPending = s.vecPending := rfl
@[simp] theorem modFw_vecOpen (s : State) (f : Fw → Fw) : (modFw s f).vecOpen = s.vecOpen := rfl
@[simp] theorem modFw_vecSent (s : State) (f : Fw → Fw) : (modFw s f).vecSent = s.vecSent := rfl
@[simp] theorem modFw_notify (s : State) (f : Fw → Fw) : (modFw s f).notify = s.notify := rfl
@[simp] theorem modFw_hashKey (s : State) (f : Fw → Fw) : (modFw s f).hashKey = s.hashKey := rfl
@[simp] theorem modFw_mc (s : State) (f : Fw → Fw) : (modFw s f).mc = s.mc := rfl
@[simp] theorem modFw_cx (s : State) (f : Fw → Fw) : (modFw s f).cx = s.cx := rfl
@[simp] theorem modFw_ladder (s : State) (f : Fw → Fw) : (modFw s f).ladder = s.ladder := rfl
@[simp] theorem modFw_keySlots (s : State) (f : Fw → Fw) : (modFw s f).keySlots = s.keySlots := rfl
@[simp] theorem modFw_hostTraffic (s : State) (f : Fw → Fw) : (modFw s f).hostTraffic = s.hostTraffic := rfl
@[simp] theorem modFw_fl (s : State) (f : Fw → Fw) : (modFw s f).fl = s.fl := rfl
@[simp] theorem modFw_til (s : State) (f : Fw → Fw) : (modFw s f).til = s.til := rfl
@[simp] theorem modFw_halted (s : State) (f : Fw → Fw) : (modFw s f).halted = s.halted := rfl
@[simp] theorem modFw_tripped (s : State) (f : Fw → Fw) : (modFw s f).tripped = s.tripped := rfl
@[simp] theorem modFw_part (s : State) (f : Fw → Fw) : (modFw s f).part = s.part := rfl
@[simp] theorem modFw_fwRun (s : State) (f : Fw → Fw) : (modFw s f).fwRun = s.fwRun := rfl
@[simp] theorem modFw_hosts (s : State) (f : Fw → Fw) : (modFw s f).hosts = s.hosts := rfl
@[simp] theorem modFw_bar2Out (s : State) (f : Fw → Fw) : (modFw s f).bar2Out = s.bar2Out := rfl
@[simp] theorem modFw_trc (s : State) (f : Fw → Fw) : (modFw s f).trc = s.trc := rfl
@[simp] theorem modFw_cfg (s : State) (f : Fw → Fw) : (modFw s f).cfg = s.cfg := rfl
@[simp] theorem modFw_cfgState (s : State) (f : Fw → Fw) : (modFw s f).cfgState = s.cfgState := rfl
@[simp] theorem modFw_cpm (s : State) (f : Fw → Fw) : (modFw s f).cpm = s.cpm := rfl
@[simp] theorem modFw_pending (s : State) (f : Fw → Fw) : (modFw s f).pending = s.pending := rfl

@[simp] theorem modFl_pers (s : State) (f : Fl → Fl) : (modFl s f).pers = s.pers := rfl
@[simp] theorem modFl_ident (s : State) (f : Fl → Fl) : (modFl s f).ident = s.ident := rfl
@[simp] theorem modFl_now (s : State) (f : Fl → Fl) : (modFl s f).now = s.now := rfl
@[simp] theorem modFl_free (s : State) (f : Fl → Fl) : (modFl s f).free = s.free := rfl
@[simp] theorem modFl_tz (s : State) (f : Fl → Fl) : (modFl s f).tz = s.tz := rfl
@[simp] theorem modFl_adm (s : State) (f : Fl → Fl) : (modFl s f).adm = s.adm := rfl
@[simp] theorem modFl_pages (s : State) (f : Fl → Fl) : (modFl s f).pages = s.pages := rfl
@[simp] theorem modFl_models (s : State) (f : Fl → Fl) : (modFl s f).models = s.models := rfl
@[simp] theorem modFl_own (s : State) (f : Fl → Fl) : (modFl s f).own = s.own := rfl
@[simp] theorem modFl_rgn (s : State) (f : Fl → Fl) : (modFl s f).rgn = s.rgn := rfl
@[simp] theorem modFl_comps (s : State) (f : Fl → Fl) : (modFl s f).comps = s.comps := rfl
@[simp] theorem modFl_cmp (s : State) (f : Fl → Fl) : (modFl s f).cmp = s.cmp := rfl
@[simp] theorem modFl_regs (s : State) (f : Fl → Fl) : (modFl s f).regs = s.regs := rfl
@[simp] theorem modFl_dev (s : State) (f : Fl → Fl) : (modFl s f).dev = s.dev := rfl
@[simp] theorem modFl_host (s : State) (f : Fl → Fl) : (modFl s f).host = s.host := rfl
@[simp] theorem modFl_sent (s : State) (f : Fl → Fl) : (modFl s f).sent = s.sent := rfl
@[simp] theorem modFl_fab (s : State) (f : Fl → Fl) : (modFl s f).fab = s.fab := rfl
@[simp] theorem modFl_err (s : State) (f : Fl → Fl) : (modFl s f).err = s.err := rfl
@[simp] theorem modFl_logQ (s : State) (f : Fl → Fl) : (modFl s f).logQ = s.logQ := rfl
@[simp] theorem modFl_traceQ (s : State) (f : Fl → Fl) : (modFl s f).traceQ = s.traceQ := rfl
@[simp] theorem modFl_reads (s : State) (f : Fl → Fl) : (modFl s f).reads = s.reads := rfl
@[simp] theorem modFl_nextRead (s : State) (f : Fl → Fl) : (modFl s f).nextRead = s.nextRead := rfl
@[simp] theorem modFl_vecPending (s : State) (f : Fl → Fl) : (modFl s f).vecPending = s.vecPending := rfl
@[simp] theorem modFl_vecOpen (s : State) (f : Fl → Fl) : (modFl s f).vecOpen = s.vecOpen := rfl
@[simp] theorem modFl_vecSent (s : State) (f : Fl → Fl) : (modFl s f).vecSent = s.vecSent := rfl
@[simp] theorem modFl_notify (s : State) (f : Fl → Fl) : (modFl s f).notify = s.notify := rfl
@[simp] theorem modFl_hashKey (s : State) (f : Fl → Fl) : (modFl s f).hashKey = s.hashKey := rfl
@[simp] theorem modFl_mc (s : State) (f : Fl → Fl) : (modFl s f).mc = s.mc := rfl
@[simp] theorem modFl_cx (s : State) (f : Fl → Fl) : (modFl s f).cx = s.cx := rfl
@[simp] theorem modFl_ladder (s : State) (f : Fl → Fl) : (modFl s f).ladder = s.ladder := rfl
@[simp] theorem modFl_keySlots (s : State) (f : Fl → Fl) : (modFl s f).keySlots = s.keySlots := rfl
@[simp] theorem modFl_hostTraffic (s : State) (f : Fl → Fl) : (modFl s f).hostTraffic = s.hostTraffic := rfl
@[simp] theorem modFl_til (s : State) (f : Fl → Fl) : (modFl s f).til = s.til := rfl
@[simp] theorem modFl_halted (s : State) (f : Fl → Fl) : (modFl s f).halted = s.halted := rfl
@[simp] theorem modFl_tripped (s : State) (f : Fl → Fl) : (modFl s f).tripped = s.tripped := rfl
@[simp] theorem modFl_part (s : State) (f : Fl → Fl) : (modFl s f).part = s.part := rfl
@[simp] theorem modFl_fw (s : State) (f : Fl → Fl) : (modFl s f).fw = s.fw := rfl
@[simp] theorem modFl_fwRun (s : State) (f : Fl → Fl) : (modFl s f).fwRun = s.fwRun := rfl
@[simp] theorem modFl_hosts (s : State) (f : Fl → Fl) : (modFl s f).hosts = s.hosts := rfl
@[simp] theorem modFl_bar2Out (s : State) (f : Fl → Fl) : (modFl s f).bar2Out = s.bar2Out := rfl
@[simp] theorem modFl_trc (s : State) (f : Fl → Fl) : (modFl s f).trc = s.trc := rfl
@[simp] theorem modFl_cfg (s : State) (f : Fl → Fl) : (modFl s f).cfg = s.cfg := rfl
@[simp] theorem modFl_cfgState (s : State) (f : Fl → Fl) : (modFl s f).cfgState = s.cfgState := rfl
@[simp] theorem modFl_cpm (s : State) (f : Fl → Fl) : (modFl s f).cpm = s.cpm := rfl
@[simp] theorem modFl_pending (s : State) (f : Fl → Fl) : (modFl s f).pending = s.pending := rfl

@[simp] theorem modMc_pers (s : State) (f : Memc → Memc) : (modMc s f).pers = s.pers := rfl
@[simp] theorem modMc_ident (s : State) (f : Memc → Memc) : (modMc s f).ident = s.ident := rfl
@[simp] theorem modMc_now (s : State) (f : Memc → Memc) : (modMc s f).now = s.now := rfl
@[simp] theorem modMc_free (s : State) (f : Memc → Memc) : (modMc s f).free = s.free := rfl
@[simp] theorem modMc_tz (s : State) (f : Memc → Memc) : (modMc s f).tz = s.tz := rfl
@[simp] theorem modMc_adm (s : State) (f : Memc → Memc) : (modMc s f).adm = s.adm := rfl
@[simp] theorem modMc_pages (s : State) (f : Memc → Memc) : (modMc s f).pages = s.pages := rfl
@[simp] theorem modMc_models (s : State) (f : Memc → Memc) : (modMc s f).models = s.models := rfl
@[simp] theorem modMc_own (s : State) (f : Memc → Memc) : (modMc s f).own = s.own := rfl
@[simp] theorem modMc_rgn (s : State) (f : Memc → Memc) : (modMc s f).rgn = s.rgn := rfl
@[simp] theorem modMc_comps (s : State) (f : Memc → Memc) : (modMc s f).comps = s.comps := rfl
@[simp] theorem modMc_cmp (s : State) (f : Memc → Memc) : (modMc s f).cmp = s.cmp := rfl
@[simp] theorem modMc_regs (s : State) (f : Memc → Memc) : (modMc s f).regs = s.regs := rfl
@[simp] theorem modMc_dev (s : State) (f : Memc → Memc) : (modMc s f).dev = s.dev := rfl
@[simp] theorem modMc_host (s : State) (f : Memc → Memc) : (modMc s f).host = s.host := rfl
@[simp] theorem modMc_sent (s : State) (f : Memc → Memc) : (modMc s f).sent = s.sent := rfl
@[simp] theorem modMc_fab (s : State) (f : Memc → Memc) : (modMc s f).fab = s.fab := rfl
@[simp] theorem modMc_err (s : State) (f : Memc → Memc) : (modMc s f).err = s.err := rfl
@[simp] theorem modMc_logQ (s : State) (f : Memc → Memc) : (modMc s f).logQ = s.logQ := rfl
@[simp] theorem modMc_traceQ (s : State) (f : Memc → Memc) : (modMc s f).traceQ = s.traceQ := rfl
@[simp] theorem modMc_reads (s : State) (f : Memc → Memc) : (modMc s f).reads = s.reads := rfl
@[simp] theorem modMc_nextRead (s : State) (f : Memc → Memc) : (modMc s f).nextRead = s.nextRead := rfl
@[simp] theorem modMc_vecPending (s : State) (f : Memc → Memc) : (modMc s f).vecPending = s.vecPending := rfl
@[simp] theorem modMc_vecOpen (s : State) (f : Memc → Memc) : (modMc s f).vecOpen = s.vecOpen := rfl
@[simp] theorem modMc_vecSent (s : State) (f : Memc → Memc) : (modMc s f).vecSent = s.vecSent := rfl
@[simp] theorem modMc_notify (s : State) (f : Memc → Memc) : (modMc s f).notify = s.notify := rfl
@[simp] theorem modMc_hashKey (s : State) (f : Memc → Memc) : (modMc s f).hashKey = s.hashKey := rfl
@[simp] theorem modMc_cx (s : State) (f : Memc → Memc) : (modMc s f).cx = s.cx := rfl
@[simp] theorem modMc_ladder (s : State) (f : Memc → Memc) : (modMc s f).ladder = s.ladder := rfl
@[simp] theorem modMc_keySlots (s : State) (f : Memc → Memc) : (modMc s f).keySlots = s.keySlots := rfl
@[simp] theorem modMc_hostTraffic (s : State) (f : Memc → Memc) : (modMc s f).hostTraffic = s.hostTraffic := rfl
@[simp] theorem modMc_fl (s : State) (f : Memc → Memc) : (modMc s f).fl = s.fl := rfl
@[simp] theorem modMc_til (s : State) (f : Memc → Memc) : (modMc s f).til = s.til := rfl
@[simp] theorem modMc_halted (s : State) (f : Memc → Memc) : (modMc s f).halted = s.halted := rfl
@[simp] theorem modMc_tripped (s : State) (f : Memc → Memc) : (modMc s f).tripped = s.tripped := rfl
@[simp] theorem modMc_part (s : State) (f : Memc → Memc) : (modMc s f).part = s.part := rfl
@[simp] theorem modMc_fw (s : State) (f : Memc → Memc) : (modMc s f).fw = s.fw := rfl
@[simp] theorem modMc_fwRun (s : State) (f : Memc → Memc) : (modMc s f).fwRun = s.fwRun := rfl
@[simp] theorem modMc_hosts (s : State) (f : Memc → Memc) : (modMc s f).hosts = s.hosts := rfl
@[simp] theorem modMc_bar2Out (s : State) (f : Memc → Memc) : (modMc s f).bar2Out = s.bar2Out := rfl
@[simp] theorem modMc_trc (s : State) (f : Memc → Memc) : (modMc s f).trc = s.trc := rfl
@[simp] theorem modMc_cfg (s : State) (f : Memc → Memc) : (modMc s f).cfg = s.cfg := rfl
@[simp] theorem modMc_cfgState (s : State) (f : Memc → Memc) : (modMc s f).cfgState = s.cfgState := rfl
@[simp] theorem modMc_cpm (s : State) (f : Memc → Memc) : (modMc s f).cpm = s.cpm := rfl
@[simp] theorem modMc_pending (s : State) (f : Memc → Memc) : (modMc s f).pending = s.pending := rfl

@[simp] theorem modCx_pers (s : State) (f : Cx → Cx) : (modCx s f).pers = s.pers := rfl
@[simp] theorem modCx_ident (s : State) (f : Cx → Cx) : (modCx s f).ident = s.ident := rfl
@[simp] theorem modCx_now (s : State) (f : Cx → Cx) : (modCx s f).now = s.now := rfl
@[simp] theorem modCx_free (s : State) (f : Cx → Cx) : (modCx s f).free = s.free := rfl
@[simp] theorem modCx_tz (s : State) (f : Cx → Cx) : (modCx s f).tz = s.tz := rfl
@[simp] theorem modCx_adm (s : State) (f : Cx → Cx) : (modCx s f).adm = s.adm := rfl
@[simp] theorem modCx_pages (s : State) (f : Cx → Cx) : (modCx s f).pages = s.pages := rfl
@[simp] theorem modCx_models (s : State) (f : Cx → Cx) : (modCx s f).models = s.models := rfl
@[simp] theorem modCx_own (s : State) (f : Cx → Cx) : (modCx s f).own = s.own := rfl
@[simp] theorem modCx_rgn (s : State) (f : Cx → Cx) : (modCx s f).rgn = s.rgn := rfl
@[simp] theorem modCx_comps (s : State) (f : Cx → Cx) : (modCx s f).comps = s.comps := rfl
@[simp] theorem modCx_cmp (s : State) (f : Cx → Cx) : (modCx s f).cmp = s.cmp := rfl
@[simp] theorem modCx_regs (s : State) (f : Cx → Cx) : (modCx s f).regs = s.regs := rfl
@[simp] theorem modCx_dev (s : State) (f : Cx → Cx) : (modCx s f).dev = s.dev := rfl
@[simp] theorem modCx_host (s : State) (f : Cx → Cx) : (modCx s f).host = s.host := rfl
@[simp] theorem modCx_sent (s : State) (f : Cx → Cx) : (modCx s f).sent = s.sent := rfl
@[simp] theorem modCx_fab (s : State) (f : Cx → Cx) : (modCx s f).fab = s.fab := rfl
@[simp] theorem modCx_err (s : State) (f : Cx → Cx) : (modCx s f).err = s.err := rfl
@[simp] theorem modCx_logQ (s : State) (f : Cx → Cx) : (modCx s f).logQ = s.logQ := rfl
@[simp] theorem modCx_traceQ (s : State) (f : Cx → Cx) : (modCx s f).traceQ = s.traceQ := rfl
@[simp] theorem modCx_reads (s : State) (f : Cx → Cx) : (modCx s f).reads = s.reads := rfl
@[simp] theorem modCx_nextRead (s : State) (f : Cx → Cx) : (modCx s f).nextRead = s.nextRead := rfl
@[simp] theorem modCx_vecPending (s : State) (f : Cx → Cx) : (modCx s f).vecPending = s.vecPending := rfl
@[simp] theorem modCx_vecOpen (s : State) (f : Cx → Cx) : (modCx s f).vecOpen = s.vecOpen := rfl
@[simp] theorem modCx_vecSent (s : State) (f : Cx → Cx) : (modCx s f).vecSent = s.vecSent := rfl
@[simp] theorem modCx_notify (s : State) (f : Cx → Cx) : (modCx s f).notify = s.notify := rfl
@[simp] theorem modCx_hashKey (s : State) (f : Cx → Cx) : (modCx s f).hashKey = s.hashKey := rfl
@[simp] theorem modCx_mc (s : State) (f : Cx → Cx) : (modCx s f).mc = s.mc := rfl
@[simp] theorem modCx_ladder (s : State) (f : Cx → Cx) : (modCx s f).ladder = s.ladder := rfl
@[simp] theorem modCx_keySlots (s : State) (f : Cx → Cx) : (modCx s f).keySlots = s.keySlots := rfl
@[simp] theorem modCx_hostTraffic (s : State) (f : Cx → Cx) : (modCx s f).hostTraffic = s.hostTraffic := rfl
@[simp] theorem modCx_fl (s : State) (f : Cx → Cx) : (modCx s f).fl = s.fl := rfl
@[simp] theorem modCx_til (s : State) (f : Cx → Cx) : (modCx s f).til = s.til := rfl
@[simp] theorem modCx_halted (s : State) (f : Cx → Cx) : (modCx s f).halted = s.halted := rfl
@[simp] theorem modCx_tripped (s : State) (f : Cx → Cx) : (modCx s f).tripped = s.tripped := rfl
@[simp] theorem modCx_part (s : State) (f : Cx → Cx) : (modCx s f).part = s.part := rfl
@[simp] theorem modCx_fw (s : State) (f : Cx → Cx) : (modCx s f).fw = s.fw := rfl
@[simp] theorem modCx_fwRun (s : State) (f : Cx → Cx) : (modCx s f).fwRun = s.fwRun := rfl
@[simp] theorem modCx_hosts (s : State) (f : Cx → Cx) : (modCx s f).hosts = s.hosts := rfl
@[simp] theorem modCx_bar2Out (s : State) (f : Cx → Cx) : (modCx s f).bar2Out = s.bar2Out := rfl
@[simp] theorem modCx_trc (s : State) (f : Cx → Cx) : (modCx s f).trc = s.trc := rfl
@[simp] theorem modCx_cfg (s : State) (f : Cx → Cx) : (modCx s f).cfg = s.cfg := rfl
@[simp] theorem modCx_cfgState (s : State) (f : Cx → Cx) : (modCx s f).cfgState = s.cfgState := rfl
@[simp] theorem modCx_cpm (s : State) (f : Cx → Cx) : (modCx s f).cpm = s.cpm := rfl
@[simp] theorem modCx_pending (s : State) (f : Cx → Cx) : (modCx s f).pending = s.pending := rfl

@[simp] theorem modCpm_pers (s : State) (f : Cpm → Cpm) : (modCpm s f).pers = s.pers := rfl
@[simp] theorem modCpm_ident (s : State) (f : Cpm → Cpm) : (modCpm s f).ident = s.ident := rfl
@[simp] theorem modCpm_now (s : State) (f : Cpm → Cpm) : (modCpm s f).now = s.now := rfl
@[simp] theorem modCpm_free (s : State) (f : Cpm → Cpm) : (modCpm s f).free = s.free := rfl
@[simp] theorem modCpm_tz (s : State) (f : Cpm → Cpm) : (modCpm s f).tz = s.tz := rfl
@[simp] theorem modCpm_adm (s : State) (f : Cpm → Cpm) : (modCpm s f).adm = s.adm := rfl
@[simp] theorem modCpm_pages (s : State) (f : Cpm → Cpm) : (modCpm s f).pages = s.pages := rfl
@[simp] theorem modCpm_models (s : State) (f : Cpm → Cpm) : (modCpm s f).models = s.models := rfl
@[simp] theorem modCpm_own (s : State) (f : Cpm → Cpm) : (modCpm s f).own = s.own := rfl
@[simp] theorem modCpm_rgn (s : State) (f : Cpm → Cpm) : (modCpm s f).rgn = s.rgn := rfl
@[simp] theorem modCpm_comps (s : State) (f : Cpm → Cpm) : (modCpm s f).comps = s.comps := rfl
@[simp] theorem modCpm_cmp (s : State) (f : Cpm → Cpm) : (modCpm s f).cmp = s.cmp := rfl
@[simp] theorem modCpm_regs (s : State) (f : Cpm → Cpm) : (modCpm s f).regs = s.regs := rfl
@[simp] theorem modCpm_dev (s : State) (f : Cpm → Cpm) : (modCpm s f).dev = s.dev := rfl
@[simp] theorem modCpm_host (s : State) (f : Cpm → Cpm) : (modCpm s f).host = s.host := rfl
@[simp] theorem modCpm_sent (s : State) (f : Cpm → Cpm) : (modCpm s f).sent = s.sent := rfl
@[simp] theorem modCpm_fab (s : State) (f : Cpm → Cpm) : (modCpm s f).fab = s.fab := rfl
@[simp] theorem modCpm_err (s : State) (f : Cpm → Cpm) : (modCpm s f).err = s.err := rfl
@[simp] theorem modCpm_logQ (s : State) (f : Cpm → Cpm) : (modCpm s f).logQ = s.logQ := rfl
@[simp] theorem modCpm_traceQ (s : State) (f : Cpm → Cpm) : (modCpm s f).traceQ = s.traceQ := rfl
@[simp] theorem modCpm_reads (s : State) (f : Cpm → Cpm) : (modCpm s f).reads = s.reads := rfl
@[simp] theorem modCpm_nextRead (s : State) (f : Cpm → Cpm) : (modCpm s f).nextRead = s.nextRead := rfl
@[simp] theorem modCpm_vecPending (s : State) (f : Cpm → Cpm) : (modCpm s f).vecPending = s.vecPending := rfl
@[simp] theorem modCpm_vecOpen (s : State) (f : Cpm → Cpm) : (modCpm s f).vecOpen = s.vecOpen := rfl
@[simp] theorem modCpm_vecSent (s : State) (f : Cpm → Cpm) : (modCpm s f).vecSent = s.vecSent := rfl
@[simp] theorem modCpm_notify (s : State) (f : Cpm → Cpm) : (modCpm s f).notify = s.notify := rfl
@[simp] theorem modCpm_hashKey (s : State) (f : Cpm → Cpm) : (modCpm s f).hashKey = s.hashKey := rfl
@[simp] theorem modCpm_mc (s : State) (f : Cpm → Cpm) : (modCpm s f).mc = s.mc := rfl
@[simp] theorem modCpm_cx (s : State) (f : Cpm → Cpm) : (modCpm s f).cx = s.cx := rfl
@[simp] theorem modCpm_ladder (s : State) (f : Cpm → Cpm) : (modCpm s f).ladder = s.ladder := rfl
@[simp] theorem modCpm_keySlots (s : State) (f : Cpm → Cpm) : (modCpm s f).keySlots = s.keySlots := rfl
@[simp] theorem modCpm_hostTraffic (s : State) (f : Cpm → Cpm) : (modCpm s f).hostTraffic = s.hostTraffic := rfl
@[simp] theorem modCpm_fl (s : State) (f : Cpm → Cpm) : (modCpm s f).fl = s.fl := rfl
@[simp] theorem modCpm_til (s : State) (f : Cpm → Cpm) : (modCpm s f).til = s.til := rfl
@[simp] theorem modCpm_halted (s : State) (f : Cpm → Cpm) : (modCpm s f).halted = s.halted := rfl
@[simp] theorem modCpm_tripped (s : State) (f : Cpm → Cpm) : (modCpm s f).tripped = s.tripped := rfl
@[simp] theorem modCpm_part (s : State) (f : Cpm → Cpm) : (modCpm s f).part = s.part := rfl
@[simp] theorem modCpm_fw (s : State) (f : Cpm → Cpm) : (modCpm s f).fw = s.fw := rfl
@[simp] theorem modCpm_fwRun (s : State) (f : Cpm → Cpm) : (modCpm s f).fwRun = s.fwRun := rfl
@[simp] theorem modCpm_hosts (s : State) (f : Cpm → Cpm) : (modCpm s f).hosts = s.hosts := rfl
@[simp] theorem modCpm_bar2Out (s : State) (f : Cpm → Cpm) : (modCpm s f).bar2Out = s.bar2Out := rfl
@[simp] theorem modCpm_trc (s : State) (f : Cpm → Cpm) : (modCpm s f).trc = s.trc := rfl
@[simp] theorem modCpm_cfg (s : State) (f : Cpm → Cpm) : (modCpm s f).cfg = s.cfg := rfl
@[simp] theorem modCpm_cfgState (s : State) (f : Cpm → Cpm) : (modCpm s f).cfgState = s.cfgState := rfl
@[simp] theorem modCpm_pending (s : State) (f : Cpm → Cpm) : (modCpm s f).pending = s.pending := rfl

@[simp] theorem modCfg_pers (s : State) (f : Cfg → Cfg) : (modCfg s f).pers = s.pers := rfl
@[simp] theorem modCfg_ident (s : State) (f : Cfg → Cfg) : (modCfg s f).ident = s.ident := rfl
@[simp] theorem modCfg_now (s : State) (f : Cfg → Cfg) : (modCfg s f).now = s.now := rfl
@[simp] theorem modCfg_free (s : State) (f : Cfg → Cfg) : (modCfg s f).free = s.free := rfl
@[simp] theorem modCfg_tz (s : State) (f : Cfg → Cfg) : (modCfg s f).tz = s.tz := rfl
@[simp] theorem modCfg_adm (s : State) (f : Cfg → Cfg) : (modCfg s f).adm = s.adm := rfl
@[simp] theorem modCfg_pages (s : State) (f : Cfg → Cfg) : (modCfg s f).pages = s.pages := rfl
@[simp] theorem modCfg_models (s : State) (f : Cfg → Cfg) : (modCfg s f).models = s.models := rfl
@[simp] theorem modCfg_own (s : State) (f : Cfg → Cfg) : (modCfg s f).own = s.own := rfl
@[simp] theorem modCfg_rgn (s : State) (f : Cfg → Cfg) : (modCfg s f).rgn = s.rgn := rfl
@[simp] theorem modCfg_comps (s : State) (f : Cfg → Cfg) : (modCfg s f).comps = s.comps := rfl
@[simp] theorem modCfg_cmp (s : State) (f : Cfg → Cfg) : (modCfg s f).cmp = s.cmp := rfl
@[simp] theorem modCfg_regs (s : State) (f : Cfg → Cfg) : (modCfg s f).regs = s.regs := rfl
@[simp] theorem modCfg_dev (s : State) (f : Cfg → Cfg) : (modCfg s f).dev = s.dev := rfl
@[simp] theorem modCfg_host (s : State) (f : Cfg → Cfg) : (modCfg s f).host = s.host := rfl
@[simp] theorem modCfg_sent (s : State) (f : Cfg → Cfg) : (modCfg s f).sent = s.sent := rfl
@[simp] theorem modCfg_fab (s : State) (f : Cfg → Cfg) : (modCfg s f).fab = s.fab := rfl
@[simp] theorem modCfg_err (s : State) (f : Cfg → Cfg) : (modCfg s f).err = s.err := rfl
@[simp] theorem modCfg_logQ (s : State) (f : Cfg → Cfg) : (modCfg s f).logQ = s.logQ := rfl
@[simp] theorem modCfg_traceQ (s : State) (f : Cfg → Cfg) : (modCfg s f).traceQ = s.traceQ := rfl
@[simp] theorem modCfg_reads (s : State) (f : Cfg → Cfg) : (modCfg s f).reads = s.reads := rfl
@[simp] theorem modCfg_nextRead (s : State) (f : Cfg → Cfg) : (modCfg s f).nextRead = s.nextRead := rfl
@[simp] theorem modCfg_vecPending (s : State) (f : Cfg → Cfg) : (modCfg s f).vecPending = s.vecPending := rfl
@[simp] theorem modCfg_vecOpen (s : State) (f : Cfg → Cfg) : (modCfg s f).vecOpen = s.vecOpen := rfl
@[simp] theorem modCfg_vecSent (s : State) (f : Cfg → Cfg) : (modCfg s f).vecSent = s.vecSent := rfl
@[simp] theorem modCfg_notify (s : State) (f : Cfg → Cfg) : (modCfg s f).notify = s.notify := rfl
@[simp] theorem modCfg_hashKey (s : State) (f : Cfg → Cfg) : (modCfg s f).hashKey = s.hashKey := rfl
@[simp] theorem modCfg_mc (s : State) (f : Cfg → Cfg) : (modCfg s f).mc = s.mc := rfl
@[simp] theorem modCfg_cx (s : State) (f : Cfg → Cfg) : (modCfg s f).cx = s.cx := rfl
@[simp] theorem modCfg_ladder (s : State) (f : Cfg → Cfg) : (modCfg s f).ladder = s.ladder := rfl
@[simp] theorem modCfg_keySlots (s : State) (f : Cfg → Cfg) : (modCfg s f).keySlots = s.keySlots := rfl
@[simp] theorem modCfg_hostTraffic (s : State) (f : Cfg → Cfg) : (modCfg s f).hostTraffic = s.hostTraffic := rfl
@[simp] theorem modCfg_fl (s : State) (f : Cfg → Cfg) : (modCfg s f).fl = s.fl := rfl
@[simp] theorem modCfg_til (s : State) (f : Cfg → Cfg) : (modCfg s f).til = s.til := rfl
@[simp] theorem modCfg_halted (s : State) (f : Cfg → Cfg) : (modCfg s f).halted = s.halted := rfl
@[simp] theorem modCfg_tripped (s : State) (f : Cfg → Cfg) : (modCfg s f).tripped = s.tripped := rfl
@[simp] theorem modCfg_part (s : State) (f : Cfg → Cfg) : (modCfg s f).part = s.part := rfl
@[simp] theorem modCfg_fw (s : State) (f : Cfg → Cfg) : (modCfg s f).fw = s.fw := rfl
@[simp] theorem modCfg_fwRun (s : State) (f : Cfg → Cfg) : (modCfg s f).fwRun = s.fwRun := rfl
@[simp] theorem modCfg_hosts (s : State) (f : Cfg → Cfg) : (modCfg s f).hosts = s.hosts := rfl
@[simp] theorem modCfg_bar2Out (s : State) (f : Cfg → Cfg) : (modCfg s f).bar2Out = s.bar2Out := rfl
@[simp] theorem modCfg_trc (s : State) (f : Cfg → Cfg) : (modCfg s f).trc = s.trc := rfl
@[simp] theorem modCfg_cfgState (s : State) (f : Cfg → Cfg) : (modCfg s f).cfgState = s.cfgState := rfl
@[simp] theorem modCfg_cpm (s : State) (f : Cfg → Cfg) : (modCfg s f).cpm = s.cpm := rfl
@[simp] theorem modCfg_pending (s : State) (f : Cfg → Cfg) : (modCfg s f).pending = s.pending := rfl

@[simp] theorem modErr_pers (s : State) (f : Err → Err) : (modErr s f).pers = s.pers := rfl
@[simp] theorem modErr_ident (s : State) (f : Err → Err) : (modErr s f).ident = s.ident := rfl
@[simp] theorem modErr_now (s : State) (f : Err → Err) : (modErr s f).now = s.now := rfl
@[simp] theorem modErr_free (s : State) (f : Err → Err) : (modErr s f).free = s.free := rfl
@[simp] theorem modErr_tz (s : State) (f : Err → Err) : (modErr s f).tz = s.tz := rfl
@[simp] theorem modErr_adm (s : State) (f : Err → Err) : (modErr s f).adm = s.adm := rfl
@[simp] theorem modErr_pages (s : State) (f : Err → Err) : (modErr s f).pages = s.pages := rfl
@[simp] theorem modErr_models (s : State) (f : Err → Err) : (modErr s f).models = s.models := rfl
@[simp] theorem modErr_own (s : State) (f : Err → Err) : (modErr s f).own = s.own := rfl
@[simp] theorem modErr_rgn (s : State) (f : Err → Err) : (modErr s f).rgn = s.rgn := rfl
@[simp] theorem modErr_comps (s : State) (f : Err → Err) : (modErr s f).comps = s.comps := rfl
@[simp] theorem modErr_cmp (s : State) (f : Err → Err) : (modErr s f).cmp = s.cmp := rfl
@[simp] theorem modErr_regs (s : State) (f : Err → Err) : (modErr s f).regs = s.regs := rfl
@[simp] theorem modErr_dev (s : State) (f : Err → Err) : (modErr s f).dev = s.dev := rfl
@[simp] theorem modErr_host (s : State) (f : Err → Err) : (modErr s f).host = s.host := rfl
@[simp] theorem modErr_sent (s : State) (f : Err → Err) : (modErr s f).sent = s.sent := rfl
@[simp] theorem modErr_fab (s : State) (f : Err → Err) : (modErr s f).fab = s.fab := rfl
@[simp] theorem modErr_logQ (s : State) (f : Err → Err) : (modErr s f).logQ = s.logQ := rfl
@[simp] theorem modErr_traceQ (s : State) (f : Err → Err) : (modErr s f).traceQ = s.traceQ := rfl
@[simp] theorem modErr_reads (s : State) (f : Err → Err) : (modErr s f).reads = s.reads := rfl
@[simp] theorem modErr_nextRead (s : State) (f : Err → Err) : (modErr s f).nextRead = s.nextRead := rfl
@[simp] theorem modErr_vecPending (s : State) (f : Err → Err) : (modErr s f).vecPending = s.vecPending := rfl
@[simp] theorem modErr_vecOpen (s : State) (f : Err → Err) : (modErr s f).vecOpen = s.vecOpen := rfl
@[simp] theorem modErr_vecSent (s : State) (f : Err → Err) : (modErr s f).vecSent = s.vecSent := rfl
@[simp] theorem modErr_notify (s : State) (f : Err → Err) : (modErr s f).notify = s.notify := rfl
@[simp] theorem modErr_hashKey (s : State) (f : Err → Err) : (modErr s f).hashKey = s.hashKey := rfl
@[simp] theorem modErr_mc (s : State) (f : Err → Err) : (modErr s f).mc = s.mc := rfl
@[simp] theorem modErr_cx (s : State) (f : Err → Err) : (modErr s f).cx = s.cx := rfl
@[simp] theorem modErr_ladder (s : State) (f : Err → Err) : (modErr s f).ladder = s.ladder := rfl
@[simp] theorem modErr_keySlots (s : State) (f : Err → Err) : (modErr s f).keySlots = s.keySlots := rfl
@[simp] theorem modErr_hostTraffic (s : State) (f : Err → Err) : (modErr s f).hostTraffic = s.hostTraffic := rfl
@[simp] theorem modErr_fl (s : State) (f : Err → Err) : (modErr s f).fl = s.fl := rfl
@[simp] theorem modErr_til (s : State) (f : Err → Err) : (modErr s f).til = s.til := rfl
@[simp] theorem modErr_halted (s : State) (f : Err → Err) : (modErr s f).halted = s.halted := rfl
@[simp] theorem modErr_tripped (s : State) (f : Err → Err) : (modErr s f).tripped = s.tripped := rfl
@[simp] theorem modErr_part (s : State) (f : Err → Err) : (modErr s f).part = s.part := rfl
@[simp] theorem modErr_fw (s : State) (f : Err → Err) : (modErr s f).fw = s.fw := rfl
@[simp] theorem modErr_fwRun (s : State) (f : Err → Err) : (modErr s f).fwRun = s.fwRun := rfl
@[simp] theorem modErr_hosts (s : State) (f : Err → Err) : (modErr s f).hosts = s.hosts := rfl
@[simp] theorem modErr_bar2Out (s : State) (f : Err → Err) : (modErr s f).bar2Out = s.bar2Out := rfl
@[simp] theorem modErr_trc (s : State) (f : Err → Err) : (modErr s f).trc = s.trc := rfl
@[simp] theorem modErr_cfg (s : State) (f : Err → Err) : (modErr s f).cfg = s.cfg := rfl
@[simp] theorem modErr_cfgState (s : State) (f : Err → Err) : (modErr s f).cfgState = s.cfgState := rfl
@[simp] theorem modErr_cpm (s : State) (f : Err → Err) : (modErr s f).cpm = s.cpm := rfl
@[simp] theorem modErr_pending (s : State) (f : Err → Err) : (modErr s f).pending = s.pending := rfl

@[simp] theorem countCorrected_pers (s : State) : (countCorrected s).pers = s.pers := rfl
@[simp] theorem countCorrected_ident (s : State) : (countCorrected s).ident = s.ident := rfl
@[simp] theorem countCorrected_now (s : State) : (countCorrected s).now = s.now := rfl
@[simp] theorem countCorrected_free (s : State) : (countCorrected s).free = s.free := rfl
@[simp] theorem countCorrected_tz (s : State) : (countCorrected s).tz = s.tz := rfl
@[simp] theorem countCorrected_adm (s : State) : (countCorrected s).adm = s.adm := rfl
@[simp] theorem countCorrected_pages (s : State) : (countCorrected s).pages = s.pages := rfl
@[simp] theorem countCorrected_models (s : State) : (countCorrected s).models = s.models := rfl
@[simp] theorem countCorrected_own (s : State) : (countCorrected s).own = s.own := rfl
@[simp] theorem countCorrected_rgn (s : State) : (countCorrected s).rgn = s.rgn := rfl
@[simp] theorem countCorrected_comps (s : State) : (countCorrected s).comps = s.comps := rfl
@[simp] theorem countCorrected_cmp (s : State) : (countCorrected s).cmp = s.cmp := rfl
@[simp] theorem countCorrected_regs (s : State) : (countCorrected s).regs = s.regs := rfl
@[simp] theorem countCorrected_dev (s : State) : (countCorrected s).dev = s.dev := rfl
@[simp] theorem countCorrected_host (s : State) : (countCorrected s).host = s.host := rfl
@[simp] theorem countCorrected_sent (s : State) : (countCorrected s).sent = s.sent := rfl
@[simp] theorem countCorrected_fab (s : State) : (countCorrected s).fab = s.fab := rfl
@[simp] theorem countCorrected_logQ (s : State) : (countCorrected s).logQ = s.logQ := rfl
@[simp] theorem countCorrected_traceQ (s : State) : (countCorrected s).traceQ = s.traceQ := rfl
@[simp] theorem countCorrected_reads (s : State) : (countCorrected s).reads = s.reads := rfl
@[simp] theorem countCorrected_nextRead (s : State) : (countCorrected s).nextRead = s.nextRead := rfl
@[simp] theorem countCorrected_vecPending (s : State) : (countCorrected s).vecPending = s.vecPending := rfl
@[simp] theorem countCorrected_vecOpen (s : State) : (countCorrected s).vecOpen = s.vecOpen := rfl
@[simp] theorem countCorrected_vecSent (s : State) : (countCorrected s).vecSent = s.vecSent := rfl
@[simp] theorem countCorrected_notify (s : State) : (countCorrected s).notify = s.notify := rfl
@[simp] theorem countCorrected_hashKey (s : State) : (countCorrected s).hashKey = s.hashKey := rfl
@[simp] theorem countCorrected_mc (s : State) : (countCorrected s).mc = s.mc := rfl
@[simp] theorem countCorrected_cx (s : State) : (countCorrected s).cx = s.cx := rfl
@[simp] theorem countCorrected_ladder (s : State) : (countCorrected s).ladder = s.ladder := rfl
@[simp] theorem countCorrected_keySlots (s : State) : (countCorrected s).keySlots = s.keySlots := rfl
@[simp] theorem countCorrected_hostTraffic (s : State) : (countCorrected s).hostTraffic = s.hostTraffic := rfl
@[simp] theorem countCorrected_fl (s : State) : (countCorrected s).fl = s.fl := rfl
@[simp] theorem countCorrected_til (s : State) : (countCorrected s).til = s.til := rfl
@[simp] theorem countCorrected_halted (s : State) : (countCorrected s).halted = s.halted := rfl
@[simp] theorem countCorrected_tripped (s : State) : (countCorrected s).tripped = s.tripped := rfl
@[simp] theorem countCorrected_part (s : State) : (countCorrected s).part = s.part := rfl
@[simp] theorem countCorrected_fw (s : State) : (countCorrected s).fw = s.fw := rfl
@[simp] theorem countCorrected_fwRun (s : State) : (countCorrected s).fwRun = s.fwRun := rfl
@[simp] theorem countCorrected_hosts (s : State) : (countCorrected s).hosts = s.hosts := rfl
@[simp] theorem countCorrected_bar2Out (s : State) : (countCorrected s).bar2Out = s.bar2Out := rfl
@[simp] theorem countCorrected_trc (s : State) : (countCorrected s).trc = s.trc := rfl
@[simp] theorem countCorrected_cfg (s : State) : (countCorrected s).cfg = s.cfg := rfl
@[simp] theorem countCorrected_cfgState (s : State) : (countCorrected s).cfgState = s.cfgState := rfl
@[simp] theorem countCorrected_cpm (s : State) : (countCorrected s).cpm = s.cpm := rfl
@[simp] theorem countCorrected_pending (s : State) : (countCorrected s).pending = s.pending := rfl

@[simp] theorem enterFatal_pers (s : State) (cause : Nat) : (enterFatal s cause).pers = s.pers := rfl
@[simp] theorem enterFatal_ident (s : State) (cause : Nat) : (enterFatal s cause).ident = s.ident := rfl
@[simp] theorem enterFatal_now (s : State) (cause : Nat) : (enterFatal s cause).now = s.now := rfl
@[simp] theorem enterFatal_free (s : State) (cause : Nat) : (enterFatal s cause).free = s.free := rfl
@[simp] theorem enterFatal_tz (s : State) (cause : Nat) : (enterFatal s cause).tz = s.tz := rfl
@[simp] theorem enterFatal_adm (s : State) (cause : Nat) : (enterFatal s cause).adm = s.adm := rfl
@[simp] theorem enterFatal_pages (s : State) (cause : Nat) : (enterFatal s cause).pages = s.pages := rfl
@[simp] theorem enterFatal_models (s : State) (cause : Nat) : (enterFatal s cause).models = s.models := rfl
@[simp] theorem enterFatal_own (s : State) (cause : Nat) : (enterFatal s cause).own = s.own := rfl
@[simp] theorem enterFatal_rgn (s : State) (cause : Nat) : (enterFatal s cause).rgn = s.rgn := rfl
@[simp] theorem enterFatal_comps (s : State) (cause : Nat) : (enterFatal s cause).comps = s.comps := rfl
@[simp] theorem enterFatal_cmp (s : State) (cause : Nat) : (enterFatal s cause).cmp = s.cmp := rfl
@[simp] theorem enterFatal_regs (s : State) (cause : Nat) : (enterFatal s cause).regs = s.regs := rfl
@[simp] theorem enterFatal_dev (s : State) (cause : Nat) : (enterFatal s cause).dev = s.dev := rfl
@[simp] theorem enterFatal_host (s : State) (cause : Nat) : (enterFatal s cause).host = s.host := rfl
@[simp] theorem enterFatal_sent (s : State) (cause : Nat) : (enterFatal s cause).sent = s.sent := rfl
@[simp] theorem enterFatal_fab (s : State) (cause : Nat) : (enterFatal s cause).fab = s.fab := rfl
@[simp] theorem enterFatal_logQ (s : State) (cause : Nat) : (enterFatal s cause).logQ = s.logQ := rfl
@[simp] theorem enterFatal_traceQ (s : State) (cause : Nat) : (enterFatal s cause).traceQ = s.traceQ := rfl
@[simp] theorem enterFatal_reads (s : State) (cause : Nat) : (enterFatal s cause).reads = s.reads := rfl
@[simp] theorem enterFatal_nextRead (s : State) (cause : Nat) : (enterFatal s cause).nextRead = s.nextRead := rfl
@[simp] theorem enterFatal_vecPending (s : State) (cause : Nat) : (enterFatal s cause).vecPending = s.vecPending := rfl
@[simp] theorem enterFatal_vecOpen (s : State) (cause : Nat) : (enterFatal s cause).vecOpen = s.vecOpen := rfl
@[simp] theorem enterFatal_vecSent (s : State) (cause : Nat) : (enterFatal s cause).vecSent = s.vecSent := rfl
@[simp] theorem enterFatal_notify (s : State) (cause : Nat) : (enterFatal s cause).notify = s.notify := rfl
@[simp] theorem enterFatal_hashKey (s : State) (cause : Nat) : (enterFatal s cause).hashKey = s.hashKey := rfl
@[simp] theorem enterFatal_mc (s : State) (cause : Nat) : (enterFatal s cause).mc = s.mc := rfl
@[simp] theorem enterFatal_cx (s : State) (cause : Nat) : (enterFatal s cause).cx = s.cx := rfl
@[simp] theorem enterFatal_ladder (s : State) (cause : Nat) : (enterFatal s cause).ladder = s.ladder := rfl
@[simp] theorem enterFatal_keySlots (s : State) (cause : Nat) : (enterFatal s cause).keySlots = s.keySlots := rfl
@[simp] theorem enterFatal_hostTraffic (s : State) (cause : Nat) : (enterFatal s cause).hostTraffic = s.hostTraffic := rfl
@[simp] theorem enterFatal_fl (s : State) (cause : Nat) : (enterFatal s cause).fl = s.fl := rfl
@[simp] theorem enterFatal_til (s : State) (cause : Nat) : (enterFatal s cause).til = s.til := rfl
@[simp] theorem enterFatal_tripped (s : State) (cause : Nat) : (enterFatal s cause).tripped = s.tripped := rfl
@[simp] theorem enterFatal_part (s : State) (cause : Nat) : (enterFatal s cause).part = s.part := rfl
@[simp] theorem enterFatal_fw (s : State) (cause : Nat) : (enterFatal s cause).fw = s.fw := rfl
@[simp] theorem enterFatal_hosts (s : State) (cause : Nat) : (enterFatal s cause).hosts = s.hosts := rfl
@[simp] theorem enterFatal_bar2Out (s : State) (cause : Nat) : (enterFatal s cause).bar2Out = s.bar2Out := rfl
@[simp] theorem enterFatal_trc (s : State) (cause : Nat) : (enterFatal s cause).trc = s.trc := rfl
@[simp] theorem enterFatal_cfg (s : State) (cause : Nat) : (enterFatal s cause).cfg = s.cfg := rfl
@[simp] theorem enterFatal_cfgState (s : State) (cause : Nat) : (enterFatal s cause).cfgState = s.cfgState := rfl
@[simp] theorem enterFatal_cpm (s : State) (cause : Nat) : (enterFatal s cause).cpm = s.cpm := rfl
@[simp] theorem enterFatal_pending (s : State) (cause : Nat) : (enterFatal s cause).pending = s.pending := rfl

@[simp] theorem logEvent_pers (s : State) (e : LogEv) : (logEvent s e).pers = s.pers := rfl
@[simp] theorem logEvent_ident (s : State) (e : LogEv) : (logEvent s e).ident = s.ident := rfl
@[simp] theorem logEvent_now (s : State) (e : LogEv) : (logEvent s e).now = s.now := rfl
@[simp] theorem logEvent_free (s : State) (e : LogEv) : (logEvent s e).free = s.free := rfl
@[simp] theorem logEvent_tz (s : State) (e : LogEv) : (logEvent s e).tz = s.tz := rfl
@[simp] theorem logEvent_adm (s : State) (e : LogEv) : (logEvent s e).adm = s.adm := rfl
@[simp] theorem logEvent_pages (s : State) (e : LogEv) : (logEvent s e).pages = s.pages := rfl
@[simp] theorem logEvent_models (s : State) (e : LogEv) : (logEvent s e).models = s.models := rfl
@[simp] theorem logEvent_own (s : State) (e : LogEv) : (logEvent s e).own = s.own := rfl
@[simp] theorem logEvent_rgn (s : State) (e : LogEv) : (logEvent s e).rgn = s.rgn := rfl
@[simp] theorem logEvent_comps (s : State) (e : LogEv) : (logEvent s e).comps = s.comps := rfl
@[simp] theorem logEvent_cmp (s : State) (e : LogEv) : (logEvent s e).cmp = s.cmp := rfl
@[simp] theorem logEvent_regs (s : State) (e : LogEv) : (logEvent s e).regs = s.regs := rfl
@[simp] theorem logEvent_dev (s : State) (e : LogEv) : (logEvent s e).dev = s.dev := rfl
@[simp] theorem logEvent_host (s : State) (e : LogEv) : (logEvent s e).host = s.host := rfl
@[simp] theorem logEvent_sent (s : State) (e : LogEv) : (logEvent s e).sent = s.sent := rfl
@[simp] theorem logEvent_fab (s : State) (e : LogEv) : (logEvent s e).fab = s.fab := rfl
@[simp] theorem logEvent_err (s : State) (e : LogEv) : (logEvent s e).err = s.err := rfl
@[simp] theorem logEvent_traceQ (s : State) (e : LogEv) : (logEvent s e).traceQ = s.traceQ := rfl
@[simp] theorem logEvent_reads (s : State) (e : LogEv) : (logEvent s e).reads = s.reads := rfl
@[simp] theorem logEvent_nextRead (s : State) (e : LogEv) : (logEvent s e).nextRead = s.nextRead := rfl
@[simp] theorem logEvent_vecPending (s : State) (e : LogEv) : (logEvent s e).vecPending = s.vecPending := rfl
@[simp] theorem logEvent_vecOpen (s : State) (e : LogEv) : (logEvent s e).vecOpen = s.vecOpen := rfl
@[simp] theorem logEvent_vecSent (s : State) (e : LogEv) : (logEvent s e).vecSent = s.vecSent := rfl
@[simp] theorem logEvent_notify (s : State) (e : LogEv) : (logEvent s e).notify = s.notify := rfl
@[simp] theorem logEvent_hashKey (s : State) (e : LogEv) : (logEvent s e).hashKey = s.hashKey := rfl
@[simp] theorem logEvent_mc (s : State) (e : LogEv) : (logEvent s e).mc = s.mc := rfl
@[simp] theorem logEvent_cx (s : State) (e : LogEv) : (logEvent s e).cx = s.cx := rfl
@[simp] theorem logEvent_ladder (s : State) (e : LogEv) : (logEvent s e).ladder = s.ladder := rfl
@[simp] theorem logEvent_keySlots (s : State) (e : LogEv) : (logEvent s e).keySlots = s.keySlots := rfl
@[simp] theorem logEvent_hostTraffic (s : State) (e : LogEv) : (logEvent s e).hostTraffic = s.hostTraffic := rfl
@[simp] theorem logEvent_fl (s : State) (e : LogEv) : (logEvent s e).fl = s.fl := rfl
@[simp] theorem logEvent_til (s : State) (e : LogEv) : (logEvent s e).til = s.til := rfl
@[simp] theorem logEvent_halted (s : State) (e : LogEv) : (logEvent s e).halted = s.halted := rfl
@[simp] theorem logEvent_tripped (s : State) (e : LogEv) : (logEvent s e).tripped = s.tripped := rfl
@[simp] theorem logEvent_part (s : State) (e : LogEv) : (logEvent s e).part = s.part := rfl
@[simp] theorem logEvent_fw (s : State) (e : LogEv) : (logEvent s e).fw = s.fw := rfl
@[simp] theorem logEvent_fwRun (s : State) (e : LogEv) : (logEvent s e).fwRun = s.fwRun := rfl
@[simp] theorem logEvent_hosts (s : State) (e : LogEv) : (logEvent s e).hosts = s.hosts := rfl
@[simp] theorem logEvent_bar2Out (s : State) (e : LogEv) : (logEvent s e).bar2Out = s.bar2Out := rfl
@[simp] theorem logEvent_trc (s : State) (e : LogEv) : (logEvent s e).trc = s.trc := rfl
@[simp] theorem logEvent_cfg (s : State) (e : LogEv) : (logEvent s e).cfg = s.cfg := rfl
@[simp] theorem logEvent_cfgState (s : State) (e : LogEv) : (logEvent s e).cfgState = s.cfgState := rfl
@[simp] theorem logEvent_cpm (s : State) (e : LogEv) : (logEvent s e).cpm = s.cpm := rfl
@[simp] theorem logEvent_pending (s : State) (e : LogEv) : (logEvent s e).pending = s.pending := rfl

@[simp] theorem trcDrop_pers (s : State) : (trcDrop s).pers = s.pers := rfl
@[simp] theorem trcDrop_ident (s : State) : (trcDrop s).ident = s.ident := rfl
@[simp] theorem trcDrop_now (s : State) : (trcDrop s).now = s.now := rfl
@[simp] theorem trcDrop_free (s : State) : (trcDrop s).free = s.free := rfl
@[simp] theorem trcDrop_tz (s : State) : (trcDrop s).tz = s.tz := rfl
@[simp] theorem trcDrop_adm (s : State) : (trcDrop s).adm = s.adm := rfl
@[simp] theorem trcDrop_pages (s : State) : (trcDrop s).pages = s.pages := rfl
@[simp] theorem trcDrop_models (s : State) : (trcDrop s).models = s.models := rfl
@[simp] theorem trcDrop_own (s : State) : (trcDrop s).own = s.own := rfl
@[simp] theorem trcDrop_rgn (s : State) : (trcDrop s).rgn = s.rgn := rfl
@[simp] theorem trcDrop_comps (s : State) : (trcDrop s).comps = s.comps := rfl
@[simp] theorem trcDrop_cmp (s : State) : (trcDrop s).cmp = s.cmp := rfl
@[simp] theorem trcDrop_regs (s : State) : (trcDrop s).regs = s.regs := rfl
@[simp] theorem trcDrop_dev (s : State) : (trcDrop s).dev = s.dev := rfl
@[simp] theorem trcDrop_host (s : State) : (trcDrop s).host = s.host := rfl
@[simp] theorem trcDrop_sent (s : State) : (trcDrop s).sent = s.sent := rfl
@[simp] theorem trcDrop_fab (s : State) : (trcDrop s).fab = s.fab := rfl
@[simp] theorem trcDrop_err (s : State) : (trcDrop s).err = s.err := rfl
@[simp] theorem trcDrop_logQ (s : State) : (trcDrop s).logQ = s.logQ := rfl
@[simp] theorem trcDrop_traceQ (s : State) : (trcDrop s).traceQ = s.traceQ := rfl
@[simp] theorem trcDrop_reads (s : State) : (trcDrop s).reads = s.reads := rfl
@[simp] theorem trcDrop_nextRead (s : State) : (trcDrop s).nextRead = s.nextRead := rfl
@[simp] theorem trcDrop_vecPending (s : State) : (trcDrop s).vecPending = s.vecPending := rfl
@[simp] theorem trcDrop_vecOpen (s : State) : (trcDrop s).vecOpen = s.vecOpen := rfl
@[simp] theorem trcDrop_vecSent (s : State) : (trcDrop s).vecSent = s.vecSent := rfl
@[simp] theorem trcDrop_notify (s : State) : (trcDrop s).notify = s.notify := rfl
@[simp] theorem trcDrop_hashKey (s : State) : (trcDrop s).hashKey = s.hashKey := rfl
@[simp] theorem trcDrop_mc (s : State) : (trcDrop s).mc = s.mc := rfl
@[simp] theorem trcDrop_cx (s : State) : (trcDrop s).cx = s.cx := rfl
@[simp] theorem trcDrop_ladder (s : State) : (trcDrop s).ladder = s.ladder := rfl
@[simp] theorem trcDrop_keySlots (s : State) : (trcDrop s).keySlots = s.keySlots := rfl
@[simp] theorem trcDrop_hostTraffic (s : State) : (trcDrop s).hostTraffic = s.hostTraffic := rfl
@[simp] theorem trcDrop_fl (s : State) : (trcDrop s).fl = s.fl := rfl
@[simp] theorem trcDrop_til (s : State) : (trcDrop s).til = s.til := rfl
@[simp] theorem trcDrop_halted (s : State) : (trcDrop s).halted = s.halted := rfl
@[simp] theorem trcDrop_tripped (s : State) : (trcDrop s).tripped = s.tripped := rfl
@[simp] theorem trcDrop_part (s : State) : (trcDrop s).part = s.part := rfl
@[simp] theorem trcDrop_fw (s : State) : (trcDrop s).fw = s.fw := rfl
@[simp] theorem trcDrop_fwRun (s : State) : (trcDrop s).fwRun = s.fwRun := rfl
@[simp] theorem trcDrop_hosts (s : State) : (trcDrop s).hosts = s.hosts := rfl
@[simp] theorem trcDrop_bar2Out (s : State) : (trcDrop s).bar2Out = s.bar2Out := rfl
@[simp] theorem trcDrop_cfg (s : State) : (trcDrop s).cfg = s.cfg := rfl
@[simp] theorem trcDrop_cfgState (s : State) : (trcDrop s).cfgState = s.cfgState := rfl
@[simp] theorem trcDrop_cpm (s : State) : (trcDrop s).cpm = s.cpm := rfl
@[simp] theorem trcDrop_pending (s : State) : (trcDrop s).pending = s.pending := rfl

@[simp] theorem modChange_pers (s : State) (comp : Nat) (f : CmpChange → CmpChange) : (modChange s comp f).pers = s.pers := rfl
@[simp] theorem modChange_ident (s : State) (comp : Nat) (f : CmpChange → CmpChange) : (modChange s comp f).ident = s.ident := rfl
@[simp] theorem modChange_now (s : State) (comp : Nat) (f : CmpChange → CmpChange) : (modChange s comp f).now = s.now := rfl
@[simp] theorem modChange_free (s : State) (comp : Nat) (f : CmpChange → CmpChange) : (modChange s comp f).free = s.free := rfl
@[simp] theorem modChange_tz (s : State) (comp : Nat) (f : CmpChange → CmpChange) : (modChange s comp f).tz = s.tz := rfl
@[simp] theorem modChange_adm (s : State) (comp : Nat) (f : CmpChange → CmpChange) : (modChange s comp f).adm = s.adm := rfl
@[simp] theorem modChange_pages (s : State) (comp : Nat) (f : CmpChange → CmpChange) : (modChange s comp f).pages = s.pages := rfl
@[simp] theorem modChange_models (s : State) (comp : Nat) (f : CmpChange → CmpChange) : (modChange s comp f).models = s.models := rfl
@[simp] theorem modChange_own (s : State) (comp : Nat) (f : CmpChange → CmpChange) : (modChange s comp f).own = s.own := rfl
@[simp] theorem modChange_rgn (s : State) (comp : Nat) (f : CmpChange → CmpChange) : (modChange s comp f).rgn = s.rgn := rfl
@[simp] theorem modChange_comps (s : State) (comp : Nat) (f : CmpChange → CmpChange) : (modChange s comp f).comps = s.comps := rfl
@[simp] theorem modChange_regs (s : State) (comp : Nat) (f : CmpChange → CmpChange) : (modChange s comp f).regs = s.regs := rfl
@[simp] theorem modChange_dev (s : State) (comp : Nat) (f : CmpChange → CmpChange) : (modChange s comp f).dev = s.dev := rfl
@[simp] theorem modChange_host (s : State) (comp : Nat) (f : CmpChange → CmpChange) : (modChange s comp f).host = s.host := rfl
@[simp] theorem modChange_sent (s : State) (comp : Nat) (f : CmpChange → CmpChange) : (modChange s comp f).sent = s.sent := rfl
@[simp] theorem modChange_fab (s : State) (comp : Nat) (f : CmpChange → CmpChange) : (modChange s comp f).fab = s.fab := rfl
@[simp] theorem modChange_err (s : State) (comp : Nat) (f : CmpChange → CmpChange) : (modChange s comp f).err = s.err := rfl
@[simp] theorem modChange_logQ (s : State) (comp : Nat) (f : CmpChange → CmpChange) : (modChange s comp f).logQ = s.logQ := rfl
@[simp] theorem modChange_traceQ (s : State) (comp : Nat) (f : CmpChange → CmpChange) : (modChange s comp f).traceQ = s.traceQ := rfl
@[simp] theorem modChange_reads (s : State) (comp : Nat) (f : CmpChange → CmpChange) : (modChange s comp f).reads = s.reads := rfl
@[simp] theorem modChange_nextRead (s : State) (comp : Nat) (f : CmpChange → CmpChange) : (modChange s comp f).nextRead = s.nextRead := rfl
@[simp] theorem modChange_vecPending (s : State) (comp : Nat) (f : CmpChange → CmpChange) : (modChange s comp f).vecPending = s.vecPending := rfl
@[simp] theorem modChange_vecOpen (s : State) (comp : Nat) (f : CmpChange → CmpChange) : (modChange s comp f).vecOpen = s.vecOpen := rfl
@[simp] theorem modChange_vecSent (s : State) (comp : Nat) (f : CmpChange → CmpChange) : (modChange s comp f).vecSent = s.vecSent := rfl
@[simp] theorem modChange_notify (s : State) (comp : Nat) (f : CmpChange → CmpChange) : (modChange s comp f).notify = s.notify := rfl
@[simp] theorem modChange_hashKey (s : State) (comp : Nat) (f : CmpChange → CmpChange) : (modChange s comp f).hashKey = s.hashKey := rfl
@[simp] theorem modChange_mc (s : State) (comp : Nat) (f : CmpChange → CmpChange) : (modChange s comp f).mc = s.mc := rfl
@[simp] theorem modChange_cx (s : State) (comp : Nat) (f : CmpChange → CmpChange) : (modChange s comp f).cx = s.cx := rfl
@[simp] theorem modChange_ladder (s : State) (comp : Nat) (f : CmpChange → CmpChange) : (modChange s comp f).ladder = s.ladder := rfl
@[simp] theorem modChange_keySlots (s : State) (comp : Nat) (f : CmpChange → CmpChange) : (modChange s comp f).keySlots = s.keySlots := rfl
@[simp] theorem modChange_hostTraffic (s : State) (comp : Nat) (f : CmpChange → CmpChange) : (modChange s comp f).hostTraffic = s.hostTraffic := rfl
@[simp] theorem modChange_fl (s : State) (comp : Nat) (f : CmpChange → CmpChange) : (modChange s comp f).fl = s.fl := rfl
@[simp] theorem modChange_til (s : State) (comp : Nat) (f : CmpChange → CmpChange) : (modChange s comp f).til = s.til := rfl
@[simp] theorem modChange_halted (s : State) (comp : Nat) (f : CmpChange → CmpChange) : (modChange s comp f).halted = s.halted := rfl
@[simp] theorem modChange_tripped (s : State) (comp : Nat) (f : CmpChange → CmpChange) : (modChange s comp f).tripped = s.tripped := rfl
@[simp] theorem modChange_part (s : State) (comp : Nat) (f : CmpChange → CmpChange) : (modChange s comp f).part = s.part := rfl
@[simp] theorem modChange_fw (s : State) (comp : Nat) (f : CmpChange → CmpChange) : (modChange s comp f).fw = s.fw := rfl
@[simp] theorem modChange_fwRun (s : State) (comp : Nat) (f : CmpChange → CmpChange) : (modChange s comp f).fwRun = s.fwRun := rfl
@[simp] theorem modChange_hosts (s : State) (comp : Nat) (f : CmpChange → CmpChange) : (modChange s comp f).hosts = s.hosts := rfl
@[simp] theorem modChange_bar2Out (s : State) (comp : Nat) (f : CmpChange → CmpChange) : (modChange s comp f).bar2Out = s.bar2Out := rfl
@[simp] theorem modChange_trc (s : State) (comp : Nat) (f : CmpChange → CmpChange) : (modChange s comp f).trc = s.trc := rfl
@[simp] theorem modChange_cfg (s : State) (comp : Nat) (f : CmpChange → CmpChange) : (modChange s comp f).cfg = s.cfg := rfl
@[simp] theorem modChange_cfgState (s : State) (comp : Nat) (f : CmpChange → CmpChange) : (modChange s comp f).cfgState = s.cfgState := rfl
@[simp] theorem modChange_cpm (s : State) (comp : Nat) (f : CmpChange → CmpChange) : (modChange s comp f).cpm = s.cpm := rfl
@[simp] theorem modChange_pending (s : State) (comp : Nat) (f : CmpChange → CmpChange) : (modChange s comp f).pending = s.pending := rfl

@[simp] theorem putCustomer_pers (s : State) (i : Nat) (b : List Byte) : (putCustomer s i b).pers = s.pers := rfl
@[simp] theorem putCustomer_ident (s : State) (i : Nat) (b : List Byte) : (putCustomer s i b).ident = s.ident := rfl
@[simp] theorem putCustomer_now (s : State) (i : Nat) (b : List Byte) : (putCustomer s i b).now = s.now := rfl
@[simp] theorem putCustomer_free (s : State) (i : Nat) (b : List Byte) : (putCustomer s i b).free = s.free := rfl
@[simp] theorem putCustomer_tz (s : State) (i : Nat) (b : List Byte) : (putCustomer s i b).tz = s.tz := rfl
@[simp] theorem putCustomer_pages (s : State) (i : Nat) (b : List Byte) : (putCustomer s i b).pages = s.pages := rfl
@[simp] theorem putCustomer_models (s : State) (i : Nat) (b : List Byte) : (putCustomer s i b).models = s.models := rfl
@[simp] theorem putCustomer_own (s : State) (i : Nat) (b : List Byte) : (putCustomer s i b).own = s.own := rfl
@[simp] theorem putCustomer_rgn (s : State) (i : Nat) (b : List Byte) : (putCustomer s i b).rgn = s.rgn := rfl
@[simp] theorem putCustomer_comps (s : State) (i : Nat) (b : List Byte) : (putCustomer s i b).comps = s.comps := rfl
@[simp] theorem putCustomer_cmp (s : State) (i : Nat) (b : List Byte) : (putCustomer s i b).cmp = s.cmp := rfl
@[simp] theorem putCustomer_regs (s : State) (i : Nat) (b : List Byte) : (putCustomer s i b).regs = s.regs := rfl
@[simp] theorem putCustomer_dev (s : State) (i : Nat) (b : List Byte) : (putCustomer s i b).dev = s.dev := rfl
@[simp] theorem putCustomer_host (s : State) (i : Nat) (b : List Byte) : (putCustomer s i b).host = s.host := rfl
@[simp] theorem putCustomer_sent (s : State) (i : Nat) (b : List Byte) : (putCustomer s i b).sent = s.sent := rfl
@[simp] theorem putCustomer_fab (s : State) (i : Nat) (b : List Byte) : (putCustomer s i b).fab = s.fab := rfl
@[simp] theorem putCustomer_err (s : State) (i : Nat) (b : List Byte) : (putCustomer s i b).err = s.err := rfl
@[simp] theorem putCustomer_logQ (s : State) (i : Nat) (b : List Byte) : (putCustomer s i b).logQ = s.logQ := rfl
@[simp] theorem putCustomer_traceQ (s : State) (i : Nat) (b : List Byte) : (putCustomer s i b).traceQ = s.traceQ := rfl
@[simp] theorem putCustomer_reads (s : State) (i : Nat) (b : List Byte) : (putCustomer s i b).reads = s.reads := rfl
@[simp] theorem putCustomer_nextRead (s : State) (i : Nat) (b : List Byte) : (putCustomer s i b).nextRead = s.nextRead := rfl
@[simp] theorem putCustomer_vecPending (s : State) (i : Nat) (b : List Byte) : (putCustomer s i b).vecPending = s.vecPending := rfl
@[simp] theorem putCustomer_vecOpen (s : State) (i : Nat) (b : List Byte) : (putCustomer s i b).vecOpen = s.vecOpen := rfl
@[simp] theorem putCustomer_vecSent (s : State) (i : Nat) (b : List Byte) : (putCustomer s i b).vecSent = s.vecSent := rfl
@[simp] theorem putCustomer_notify (s : State) (i : Nat) (b : List Byte) : (putCustomer s i b).notify = s.notify := rfl
@[simp] theorem putCustomer_hashKey (s : State) (i : Nat) (b : List Byte) : (putCustomer s i b).hashKey = s.hashKey := rfl
@[simp] theorem putCustomer_mc (s : State) (i : Nat) (b : List Byte) : (putCustomer s i b).mc = s.mc := rfl
@[simp] theorem putCustomer_cx (s : State) (i : Nat) (b : List Byte) : (putCustomer s i b).cx = s.cx := rfl
@[simp] theorem putCustomer_ladder (s : State) (i : Nat) (b : List Byte) : (putCustomer s i b).ladder = s.ladder := rfl
@[simp] theorem putCustomer_keySlots (s : State) (i : Nat) (b : List Byte) : (putCustomer s i b).keySlots = s.keySlots := rfl
@[simp] theorem putCustomer_hostTraffic (s : State) (i : Nat) (b : List Byte) : (putCustomer s i b).hostTraffic = s.hostTraffic := rfl
@[simp] theorem putCustomer_fl (s : State) (i : Nat) (b : List Byte) : (putCustomer s i b).fl = s.fl := rfl
@[simp] theorem putCustomer_til (s : State) (i : Nat) (b : List Byte) : (putCustomer s i b).til = s.til := rfl
@[simp] theorem putCustomer_halted (s : State) (i : Nat) (b : List Byte) : (putCustomer s i b).halted = s.halted := rfl
@[simp] theorem putCustomer_tripped (s : State) (i : Nat) (b : List Byte) : (putCustomer s i b).tripped = s.tripped := rfl
@[simp] theorem putCustomer_part (s : State) (i : Nat) (b : List Byte) : (putCustomer s i b).part = s.part := rfl
@[simp] theorem putCustomer_fw (s : State) (i : Nat) (b : List Byte) : (putCustomer s i b).fw = s.fw := rfl
@[simp] theorem putCustomer_fwRun (s : State) (i : Nat) (b : List Byte) : (putCustomer s i b).fwRun = s.fwRun := rfl
@[simp] theorem putCustomer_hosts (s : State) (i : Nat) (b : List Byte) : (putCustomer s i b).hosts = s.hosts := rfl
@[simp] theorem putCustomer_bar2Out (s : State) (i : Nat) (b : List Byte) : (putCustomer s i b).bar2Out = s.bar2Out := rfl
@[simp] theorem putCustomer_trc (s : State) (i : Nat) (b : List Byte) : (putCustomer s i b).trc = s.trc := rfl
@[simp] theorem putCustomer_cfg (s : State) (i : Nat) (b : List Byte) : (putCustomer s i b).cfg = s.cfg := rfl
@[simp] theorem putCustomer_cfgState (s : State) (i : Nat) (b : List Byte) : (putCustomer s i b).cfgState = s.cfgState := rfl
@[simp] theorem putCustomer_cpm (s : State) (i : Nat) (b : List Byte) : (putCustomer s i b).cpm = s.cpm := rfl
@[simp] theorem putCustomer_pending (s : State) (i : Nat) (b : List Byte) : (putCustomer s i b).pending = s.pending := rfl

@[simp] theorem dropAhead_pers (s : State) (ns : List Nat) : (dropAhead s ns).pers = s.pers := rfl
@[simp] theorem dropAhead_ident (s : State) (ns : List Nat) : (dropAhead s ns).ident = s.ident := rfl
@[simp] theorem dropAhead_now (s : State) (ns : List Nat) : (dropAhead s ns).now = s.now := rfl
@[simp] theorem dropAhead_free (s : State) (ns : List Nat) : (dropAhead s ns).free = s.free := rfl
@[simp] theorem dropAhead_tz (s : State) (ns : List Nat) : (dropAhead s ns).tz = s.tz := rfl
@[simp] theorem dropAhead_adm (s : State) (ns : List Nat) : (dropAhead s ns).adm = s.adm := rfl
@[simp] theorem dropAhead_models (s : State) (ns : List Nat) : (dropAhead s ns).models = s.models := rfl
@[simp] theorem dropAhead_own (s : State) (ns : List Nat) : (dropAhead s ns).own = s.own := rfl
@[simp] theorem dropAhead_rgn (s : State) (ns : List Nat) : (dropAhead s ns).rgn = s.rgn := rfl
@[simp] theorem dropAhead_comps (s : State) (ns : List Nat) : (dropAhead s ns).comps = s.comps := rfl
@[simp] theorem dropAhead_cmp (s : State) (ns : List Nat) : (dropAhead s ns).cmp = s.cmp := rfl
@[simp] theorem dropAhead_regs (s : State) (ns : List Nat) : (dropAhead s ns).regs = s.regs := rfl
@[simp] theorem dropAhead_dev (s : State) (ns : List Nat) : (dropAhead s ns).dev = s.dev := rfl
@[simp] theorem dropAhead_host (s : State) (ns : List Nat) : (dropAhead s ns).host = s.host := rfl
@[simp] theorem dropAhead_sent (s : State) (ns : List Nat) : (dropAhead s ns).sent = s.sent := rfl
@[simp] theorem dropAhead_fab (s : State) (ns : List Nat) : (dropAhead s ns).fab = s.fab := rfl
@[simp] theorem dropAhead_err (s : State) (ns : List Nat) : (dropAhead s ns).err = s.err := rfl
@[simp] theorem dropAhead_logQ (s : State) (ns : List Nat) : (dropAhead s ns).logQ = s.logQ := rfl
@[simp] theorem dropAhead_traceQ (s : State) (ns : List Nat) : (dropAhead s ns).traceQ = s.traceQ := rfl
@[simp] theorem dropAhead_reads (s : State) (ns : List Nat) : (dropAhead s ns).reads = s.reads := rfl
@[simp] theorem dropAhead_nextRead (s : State) (ns : List Nat) : (dropAhead s ns).nextRead = s.nextRead := rfl
@[simp] theorem dropAhead_vecPending (s : State) (ns : List Nat) : (dropAhead s ns).vecPending = s.vecPending := rfl
@[simp] theorem dropAhead_vecOpen (s : State) (ns : List Nat) : (dropAhead s ns).vecOpen = s.vecOpen := rfl
@[simp] theorem dropAhead_vecSent (s : State) (ns : List Nat) : (dropAhead s ns).vecSent = s.vecSent := rfl
@[simp] theorem dropAhead_notify (s : State) (ns : List Nat) : (dropAhead s ns).notify = s.notify := rfl
@[simp] theorem dropAhead_hashKey (s : State) (ns : List Nat) : (dropAhead s ns).hashKey = s.hashKey := rfl
@[simp] theorem dropAhead_mc (s : State) (ns : List Nat) : (dropAhead s ns).mc = s.mc := rfl
@[simp] theorem dropAhead_cx (s : State) (ns : List Nat) : (dropAhead s ns).cx = s.cx := rfl
@[simp] theorem dropAhead_ladder (s : State) (ns : List Nat) : (dropAhead s ns).ladder = s.ladder := rfl
@[simp] theorem dropAhead_keySlots (s : State) (ns : List Nat) : (dropAhead s ns).keySlots = s.keySlots := rfl
@[simp] theorem dropAhead_hostTraffic (s : State) (ns : List Nat) : (dropAhead s ns).hostTraffic = s.hostTraffic := rfl
@[simp] theorem dropAhead_fl (s : State) (ns : List Nat) : (dropAhead s ns).fl = s.fl := rfl
@[simp] theorem dropAhead_halted (s : State) (ns : List Nat) : (dropAhead s ns).halted = s.halted := rfl
@[simp] theorem dropAhead_tripped (s : State) (ns : List Nat) : (dropAhead s ns).tripped = s.tripped := rfl
@[simp] theorem dropAhead_part (s : State) (ns : List Nat) : (dropAhead s ns).part = s.part := rfl
@[simp] theorem dropAhead_fw (s : State) (ns : List Nat) : (dropAhead s ns).fw = s.fw := rfl
@[simp] theorem dropAhead_fwRun (s : State) (ns : List Nat) : (dropAhead s ns).fwRun = s.fwRun := rfl
@[simp] theorem dropAhead_hosts (s : State) (ns : List Nat) : (dropAhead s ns).hosts = s.hosts := rfl
@[simp] theorem dropAhead_bar2Out (s : State) (ns : List Nat) : (dropAhead s ns).bar2Out = s.bar2Out := rfl
@[simp] theorem dropAhead_trc (s : State) (ns : List Nat) : (dropAhead s ns).trc = s.trc := rfl
@[simp] theorem dropAhead_cfg (s : State) (ns : List Nat) : (dropAhead s ns).cfg = s.cfg := rfl
@[simp] theorem dropAhead_cfgState (s : State) (ns : List Nat) : (dropAhead s ns).cfgState = s.cfgState := rfl
@[simp] theorem dropAhead_cpm (s : State) (ns : List Nat) : (dropAhead s ns).cpm = s.cpm := rfl
@[simp] theorem dropAhead_pending (s : State) (ns : List Nat) : (dropAhead s ns).pending = s.pending := rfl

@[simp] theorem modCast_pers (s : State) (group psn : Nat) (f : McastSend → McastSend) : (modCast s group psn f).pers = s.pers := rfl
@[simp] theorem modCast_ident (s : State) (group psn : Nat) (f : McastSend → McastSend) : (modCast s group psn f).ident = s.ident := rfl
@[simp] theorem modCast_now (s : State) (group psn : Nat) (f : McastSend → McastSend) : (modCast s group psn f).now = s.now := rfl
@[simp] theorem modCast_free (s : State) (group psn : Nat) (f : McastSend → McastSend) : (modCast s group psn f).free = s.free := rfl
@[simp] theorem modCast_tz (s : State) (group psn : Nat) (f : McastSend → McastSend) : (modCast s group psn f).tz = s.tz := rfl
@[simp] theorem modCast_adm (s : State) (group psn : Nat) (f : McastSend → McastSend) : (modCast s group psn f).adm = s.adm := rfl
@[simp] theorem modCast_pages (s : State) (group psn : Nat) (f : McastSend → McastSend) : (modCast s group psn f).pages = s.pages := rfl
@[simp] theorem modCast_models (s : State) (group psn : Nat) (f : McastSend → McastSend) : (modCast s group psn f).models = s.models := rfl
@[simp] theorem modCast_own (s : State) (group psn : Nat) (f : McastSend → McastSend) : (modCast s group psn f).own = s.own := rfl
@[simp] theorem modCast_rgn (s : State) (group psn : Nat) (f : McastSend → McastSend) : (modCast s group psn f).rgn = s.rgn := rfl
@[simp] theorem modCast_comps (s : State) (group psn : Nat) (f : McastSend → McastSend) : (modCast s group psn f).comps = s.comps := rfl
@[simp] theorem modCast_cmp (s : State) (group psn : Nat) (f : McastSend → McastSend) : (modCast s group psn f).cmp = s.cmp := rfl
@[simp] theorem modCast_regs (s : State) (group psn : Nat) (f : McastSend → McastSend) : (modCast s group psn f).regs = s.regs := rfl
@[simp] theorem modCast_dev (s : State) (group psn : Nat) (f : McastSend → McastSend) : (modCast s group psn f).dev = s.dev := rfl
@[simp] theorem modCast_host (s : State) (group psn : Nat) (f : McastSend → McastSend) : (modCast s group psn f).host = s.host := rfl
@[simp] theorem modCast_sent (s : State) (group psn : Nat) (f : McastSend → McastSend) : (modCast s group psn f).sent = s.sent := rfl
@[simp] theorem modCast_err (s : State) (group psn : Nat) (f : McastSend → McastSend) : (modCast s group psn f).err = s.err := rfl
@[simp] theorem modCast_logQ (s : State) (group psn : Nat) (f : McastSend → McastSend) : (modCast s group psn f).logQ = s.logQ := rfl
@[simp] theorem modCast_traceQ (s : State) (group psn : Nat) (f : McastSend → McastSend) : (modCast s group psn f).traceQ = s.traceQ := rfl
@[simp] theorem modCast_reads (s : State) (group psn : Nat) (f : McastSend → McastSend) : (modCast s group psn f).reads = s.reads := rfl
@[simp] theorem modCast_nextRead (s : State) (group psn : Nat) (f : McastSend → McastSend) : (modCast s group psn f).nextRead = s.nextRead := rfl
@[simp] theorem modCast_vecPending (s : State) (group psn : Nat) (f : McastSend → McastSend) : (modCast s group psn f).vecPending = s.vecPending := rfl
@[simp] theorem modCast_vecOpen (s : State) (group psn : Nat) (f : McastSend → McastSend) : (modCast s group psn f).vecOpen = s.vecOpen := rfl
@[simp] theorem modCast_vecSent (s : State) (group psn : Nat) (f : McastSend → McastSend) : (modCast s group psn f).vecSent = s.vecSent := rfl
@[simp] theorem modCast_notify (s : State) (group psn : Nat) (f : McastSend → McastSend) : (modCast s group psn f).notify = s.notify := rfl
@[simp] theorem modCast_hashKey (s : State) (group psn : Nat) (f : McastSend → McastSend) : (modCast s group psn f).hashKey = s.hashKey := rfl
@[simp] theorem modCast_mc (s : State) (group psn : Nat) (f : McastSend → McastSend) : (modCast s group psn f).mc = s.mc := rfl
@[simp] theorem modCast_cx (s : State) (group psn : Nat) (f : McastSend → McastSend) : (modCast s group psn f).cx = s.cx := rfl
@[simp] theorem modCast_ladder (s : State) (group psn : Nat) (f : McastSend → McastSend) : (modCast s group psn f).ladder = s.ladder := rfl
@[simp] theorem modCast_keySlots (s : State) (group psn : Nat) (f : McastSend → McastSend) : (modCast s group psn f).keySlots = s.keySlots := rfl
@[simp] theorem modCast_hostTraffic (s : State) (group psn : Nat) (f : McastSend → McastSend) : (modCast s group psn f).hostTraffic = s.hostTraffic := rfl
@[simp] theorem modCast_fl (s : State) (group psn : Nat) (f : McastSend → McastSend) : (modCast s group psn f).fl = s.fl := rfl
@[simp] theorem modCast_til (s : State) (group psn : Nat) (f : McastSend → McastSend) : (modCast s group psn f).til = s.til := rfl
@[simp] theorem modCast_halted (s : State) (group psn : Nat) (f : McastSend → McastSend) : (modCast s group psn f).halted = s.halted := rfl
@[simp] theorem modCast_tripped (s : State) (group psn : Nat) (f : McastSend → McastSend) : (modCast s group psn f).tripped = s.tripped := rfl
@[simp] theorem modCast_part (s : State) (group psn : Nat) (f : McastSend → McastSend) : (modCast s group psn f).part = s.part := rfl
@[simp] theorem modCast_fw (s : State) (group psn : Nat) (f : McastSend → McastSend) : (modCast s group psn f).fw = s.fw := rfl
@[simp] theorem modCast_fwRun (s : State) (group psn : Nat) (f : McastSend → McastSend) : (modCast s group psn f).fwRun = s.fwRun := rfl
@[simp] theorem modCast_hosts (s : State) (group psn : Nat) (f : McastSend → McastSend) : (modCast s group psn f).hosts = s.hosts := rfl
@[simp] theorem modCast_bar2Out (s : State) (group psn : Nat) (f : McastSend → McastSend) : (modCast s group psn f).bar2Out = s.bar2Out := rfl
@[simp] theorem modCast_trc (s : State) (group psn : Nat) (f : McastSend → McastSend) : (modCast s group psn f).trc = s.trc := rfl
@[simp] theorem modCast_cfg (s : State) (group psn : Nat) (f : McastSend → McastSend) : (modCast s group psn f).cfg = s.cfg := rfl
@[simp] theorem modCast_cfgState (s : State) (group psn : Nat) (f : McastSend → McastSend) : (modCast s group psn f).cfgState = s.cfgState := rfl
@[simp] theorem modCast_cpm (s : State) (group psn : Nat) (f : McastSend → McastSend) : (modCast s group psn f).cpm = s.cpm := rfl
@[simp] theorem modCast_pending (s : State) (group psn : Nat) (f : McastSend → McastSend) : (modCast s group psn f).pending = s.pending := rfl

@[simp] theorem modLease_pers (s : State) (node : Handle) (f : LeaseHeld → LeaseHeld) : (modLease s node f).pers = s.pers := rfl
@[simp] theorem modLease_ident (s : State) (node : Handle) (f : LeaseHeld → LeaseHeld) : (modLease s node f).ident = s.ident := rfl
@[simp] theorem modLease_now (s : State) (node : Handle) (f : LeaseHeld → LeaseHeld) : (modLease s node f).now = s.now := rfl
@[simp] theorem modLease_free (s : State) (node : Handle) (f : LeaseHeld → LeaseHeld) : (modLease s node f).free = s.free := rfl
@[simp] theorem modLease_tz (s : State) (node : Handle) (f : LeaseHeld → LeaseHeld) : (modLease s node f).tz = s.tz := rfl
@[simp] theorem modLease_adm (s : State) (node : Handle) (f : LeaseHeld → LeaseHeld) : (modLease s node f).adm = s.adm := rfl
@[simp] theorem modLease_pages (s : State) (node : Handle) (f : LeaseHeld → LeaseHeld) : (modLease s node f).pages = s.pages := rfl
@[simp] theorem modLease_models (s : State) (node : Handle) (f : LeaseHeld → LeaseHeld) : (modLease s node f).models = s.models := rfl
@[simp] theorem modLease_own (s : State) (node : Handle) (f : LeaseHeld → LeaseHeld) : (modLease s node f).own = s.own := rfl
@[simp] theorem modLease_comps (s : State) (node : Handle) (f : LeaseHeld → LeaseHeld) : (modLease s node f).comps = s.comps := rfl
@[simp] theorem modLease_cmp (s : State) (node : Handle) (f : LeaseHeld → LeaseHeld) : (modLease s node f).cmp = s.cmp := rfl
@[simp] theorem modLease_regs (s : State) (node : Handle) (f : LeaseHeld → LeaseHeld) : (modLease s node f).regs = s.regs := rfl
@[simp] theorem modLease_dev (s : State) (node : Handle) (f : LeaseHeld → LeaseHeld) : (modLease s node f).dev = s.dev := rfl
@[simp] theorem modLease_host (s : State) (node : Handle) (f : LeaseHeld → LeaseHeld) : (modLease s node f).host = s.host := rfl
@[simp] theorem modLease_sent (s : State) (node : Handle) (f : LeaseHeld → LeaseHeld) : (modLease s node f).sent = s.sent := rfl
@[simp] theorem modLease_fab (s : State) (node : Handle) (f : LeaseHeld → LeaseHeld) : (modLease s node f).fab = s.fab := rfl
@[simp] theorem modLease_err (s : State) (node : Handle) (f : LeaseHeld → LeaseHeld) : (modLease s node f).err = s.err := rfl
@[simp] theorem modLease_logQ (s : State) (node : Handle) (f : LeaseHeld → LeaseHeld) : (modLease s node f).logQ = s.logQ := rfl
@[simp] theorem modLease_traceQ (s : State) (node : Handle) (f : LeaseHeld → LeaseHeld) : (modLease s node f).traceQ = s.traceQ := rfl
@[simp] theorem modLease_reads (s : State) (node : Handle) (f : LeaseHeld → LeaseHeld) : (modLease s node f).reads = s.reads := rfl
@[simp] theorem modLease_nextRead (s : State) (node : Handle) (f : LeaseHeld → LeaseHeld) : (modLease s node f).nextRead = s.nextRead := rfl
@[simp] theorem modLease_vecPending (s : State) (node : Handle) (f : LeaseHeld → LeaseHeld) : (modLease s node f).vecPending = s.vecPending := rfl
@[simp] theorem modLease_vecOpen (s : State) (node : Handle) (f : LeaseHeld → LeaseHeld) : (modLease s node f).vecOpen = s.vecOpen := rfl
@[simp] theorem modLease_vecSent (s : State) (node : Handle) (f : LeaseHeld → LeaseHeld) : (modLease s node f).vecSent = s.vecSent := rfl
@[simp] theorem modLease_notify (s : State) (node : Handle) (f : LeaseHeld → LeaseHeld) : (modLease s node f).notify = s.notify := rfl
@[simp] theorem modLease_hashKey (s : State) (node : Handle) (f : LeaseHeld → LeaseHeld) : (modLease s node f).hashKey = s.hashKey := rfl
@[simp] theorem modLease_mc (s : State) (node : Handle) (f : LeaseHeld → LeaseHeld) : (modLease s node f).mc = s.mc := rfl
@[simp] theorem modLease_cx (s : State) (node : Handle) (f : LeaseHeld → LeaseHeld) : (modLease s node f).cx = s.cx := rfl
@[simp] theorem modLease_ladder (s : State) (node : Handle) (f : LeaseHeld → LeaseHeld) : (modLease s node f).ladder = s.ladder := rfl
@[simp] theorem modLease_keySlots (s : State) (node : Handle) (f : LeaseHeld → LeaseHeld) : (modLease s node f).keySlots = s.keySlots := rfl
@[simp] theorem modLease_hostTraffic (s : State) (node : Handle) (f : LeaseHeld → LeaseHeld) : (modLease s node f).hostTraffic = s.hostTraffic := rfl
@[simp] theorem modLease_fl (s : State) (node : Handle) (f : LeaseHeld → LeaseHeld) : (modLease s node f).fl = s.fl := rfl
@[simp] theorem modLease_til (s : State) (node : Handle) (f : LeaseHeld → LeaseHeld) : (modLease s node f).til = s.til := rfl
@[simp] theorem modLease_halted (s : State) (node : Handle) (f : LeaseHeld → LeaseHeld) : (modLease s node f).halted = s.halted := rfl
@[simp] theorem modLease_tripped (s : State) (node : Handle) (f : LeaseHeld → LeaseHeld) : (modLease s node f).tripped = s.tripped := rfl
@[simp] theorem modLease_part (s : State) (node : Handle) (f : LeaseHeld → LeaseHeld) : (modLease s node f).part = s.part := rfl
@[simp] theorem modLease_fw (s : State) (node : Handle) (f : LeaseHeld → LeaseHeld) : (modLease s node f).fw = s.fw := rfl
@[simp] theorem modLease_fwRun (s : State) (node : Handle) (f : LeaseHeld → LeaseHeld) : (modLease s node f).fwRun = s.fwRun := rfl
@[simp] theorem modLease_hosts (s : State) (node : Handle) (f : LeaseHeld → LeaseHeld) : (modLease s node f).hosts = s.hosts := rfl
@[simp] theorem modLease_bar2Out (s : State) (node : Handle) (f : LeaseHeld → LeaseHeld) : (modLease s node f).bar2Out = s.bar2Out := rfl
@[simp] theorem modLease_trc (s : State) (node : Handle) (f : LeaseHeld → LeaseHeld) : (modLease s node f).trc = s.trc := rfl
@[simp] theorem modLease_cfg (s : State) (node : Handle) (f : LeaseHeld → LeaseHeld) : (modLease s node f).cfg = s.cfg := rfl
@[simp] theorem modLease_cfgState (s : State) (node : Handle) (f : LeaseHeld → LeaseHeld) : (modLease s node f).cfgState = s.cfgState := rfl
@[simp] theorem modLease_cpm (s : State) (node : Handle) (f : LeaseHeld → LeaseHeld) : (modLease s node f).cpm = s.cpm := rfl
@[simp] theorem modLease_pending (s : State) (node : Handle) (f : LeaseHeld → LeaseHeld) : (modLease s node f).pending = s.pending := rfl

@[simp] theorem noFrame_pers (s : State) : (noFrame s).pers = s.pers := rfl
@[simp] theorem noFrame_ident (s : State) : (noFrame s).ident = s.ident := rfl
@[simp] theorem noFrame_now (s : State) : (noFrame s).now = s.now := rfl
@[simp] theorem noFrame_free (s : State) : (noFrame s).free = s.free := rfl
@[simp] theorem noFrame_tz (s : State) : (noFrame s).tz = s.tz := rfl
@[simp] theorem noFrame_adm (s : State) : (noFrame s).adm = s.adm := rfl
@[simp] theorem noFrame_pages (s : State) : (noFrame s).pages = s.pages := rfl
@[simp] theorem noFrame_models (s : State) : (noFrame s).models = s.models := rfl
@[simp] theorem noFrame_rgn (s : State) : (noFrame s).rgn = s.rgn := rfl
@[simp] theorem noFrame_comps (s : State) : (noFrame s).comps = s.comps := rfl
@[simp] theorem noFrame_cmp (s : State) : (noFrame s).cmp = s.cmp := rfl
@[simp] theorem noFrame_regs (s : State) : (noFrame s).regs = s.regs := rfl
@[simp] theorem noFrame_dev (s : State) : (noFrame s).dev = s.dev := rfl
@[simp] theorem noFrame_host (s : State) : (noFrame s).host = s.host := rfl
@[simp] theorem noFrame_sent (s : State) : (noFrame s).sent = s.sent := rfl
@[simp] theorem noFrame_fab (s : State) : (noFrame s).fab = s.fab := rfl
@[simp] theorem noFrame_err (s : State) : (noFrame s).err = s.err := rfl
@[simp] theorem noFrame_logQ (s : State) : (noFrame s).logQ = s.logQ := rfl
@[simp] theorem noFrame_traceQ (s : State) : (noFrame s).traceQ = s.traceQ := rfl
@[simp] theorem noFrame_reads (s : State) : (noFrame s).reads = s.reads := rfl
@[simp] theorem noFrame_nextRead (s : State) : (noFrame s).nextRead = s.nextRead := rfl
@[simp] theorem noFrame_vecPending (s : State) : (noFrame s).vecPending = s.vecPending := rfl
@[simp] theorem noFrame_vecOpen (s : State) : (noFrame s).vecOpen = s.vecOpen := rfl
@[simp] theorem noFrame_vecSent (s : State) : (noFrame s).vecSent = s.vecSent := rfl
@[simp] theorem noFrame_notify (s : State) : (noFrame s).notify = s.notify := rfl
@[simp] theorem noFrame_hashKey (s : State) : (noFrame s).hashKey = s.hashKey := rfl
@[simp] theorem noFrame_mc (s : State) : (noFrame s).mc = s.mc := rfl
@[simp] theorem noFrame_cx (s : State) : (noFrame s).cx = s.cx := rfl
@[simp] theorem noFrame_ladder (s : State) : (noFrame s).ladder = s.ladder := rfl
@[simp] theorem noFrame_keySlots (s : State) : (noFrame s).keySlots = s.keySlots := rfl
@[simp] theorem noFrame_hostTraffic (s : State) : (noFrame s).hostTraffic = s.hostTraffic := rfl
@[simp] theorem noFrame_fl (s : State) : (noFrame s).fl = s.fl := rfl
@[simp] theorem noFrame_til (s : State) : (noFrame s).til = s.til := rfl
@[simp] theorem noFrame_halted (s : State) : (noFrame s).halted = s.halted := rfl
@[simp] theorem noFrame_tripped (s : State) : (noFrame s).tripped = s.tripped := rfl
@[simp] theorem noFrame_part (s : State) : (noFrame s).part = s.part := rfl
@[simp] theorem noFrame_fw (s : State) : (noFrame s).fw = s.fw := rfl
@[simp] theorem noFrame_fwRun (s : State) : (noFrame s).fwRun = s.fwRun := rfl
@[simp] theorem noFrame_hosts (s : State) : (noFrame s).hosts = s.hosts := rfl
@[simp] theorem noFrame_bar2Out (s : State) : (noFrame s).bar2Out = s.bar2Out := rfl
@[simp] theorem noFrame_trc (s : State) : (noFrame s).trc = s.trc := rfl
@[simp] theorem noFrame_cfg (s : State) : (noFrame s).cfg = s.cfg := rfl
@[simp] theorem noFrame_cfgState (s : State) : (noFrame s).cfgState = s.cfgState := rfl
@[simp] theorem noFrame_cpm (s : State) : (noFrame s).cpm = s.cpm := rfl
@[simp] theorem noFrame_pending (s : State) : (noFrame s).pending = s.pending := rfl

@[simp] theorem armCastle_pers (s : State) (h : Handle) : (armCastle s h).pers = s.pers := rfl
@[simp] theorem armCastle_ident (s : State) (h : Handle) : (armCastle s h).ident = s.ident := rfl
@[simp] theorem armCastle_now (s : State) (h : Handle) : (armCastle s h).now = s.now := rfl
@[simp] theorem armCastle_free (s : State) (h : Handle) : (armCastle s h).free = s.free := rfl
@[simp] theorem armCastle_tz (s : State) (h : Handle) : (armCastle s h).tz = s.tz := rfl
@[simp] theorem armCastle_adm (s : State) (h : Handle) : (armCastle s h).adm = s.adm := rfl
@[simp] theorem armCastle_pages (s : State) (h : Handle) : (armCastle s h).pages = s.pages := rfl
@[simp] theorem armCastle_models (s : State) (h : Handle) : (armCastle s h).models = s.models := rfl
@[simp] theorem armCastle_rgn (s : State) (h : Handle) : (armCastle s h).rgn = s.rgn := rfl
@[simp] theorem armCastle_comps (s : State) (h : Handle) : (armCastle s h).comps = s.comps := rfl
@[simp] theorem armCastle_cmp (s : State) (h : Handle) : (armCastle s h).cmp = s.cmp := rfl
@[simp] theorem armCastle_regs (s : State) (h : Handle) : (armCastle s h).regs = s.regs := rfl
@[simp] theorem armCastle_dev (s : State) (h : Handle) : (armCastle s h).dev = s.dev := rfl
@[simp] theorem armCastle_host (s : State) (h : Handle) : (armCastle s h).host = s.host := rfl
@[simp] theorem armCastle_sent (s : State) (h : Handle) : (armCastle s h).sent = s.sent := rfl
@[simp] theorem armCastle_fab (s : State) (h : Handle) : (armCastle s h).fab = s.fab := rfl
@[simp] theorem armCastle_err (s : State) (h : Handle) : (armCastle s h).err = s.err := rfl
@[simp] theorem armCastle_logQ (s : State) (h : Handle) : (armCastle s h).logQ = s.logQ := rfl
@[simp] theorem armCastle_traceQ (s : State) (h : Handle) : (armCastle s h).traceQ = s.traceQ := rfl
@[simp] theorem armCastle_reads (s : State) (h : Handle) : (armCastle s h).reads = s.reads := rfl
@[simp] theorem armCastle_nextRead (s : State) (h : Handle) : (armCastle s h).nextRead = s.nextRead := rfl
@[simp] theorem armCastle_vecPending (s : State) (h : Handle) : (armCastle s h).vecPending = s.vecPending := rfl
@[simp] theorem armCastle_vecOpen (s : State) (h : Handle) : (armCastle s h).vecOpen = s.vecOpen := rfl
@[simp] theorem armCastle_vecSent (s : State) (h : Handle) : (armCastle s h).vecSent = s.vecSent := rfl
@[simp] theorem armCastle_notify (s : State) (h : Handle) : (armCastle s h).notify = s.notify := rfl
@[simp] theorem armCastle_hashKey (s : State) (h : Handle) : (armCastle s h).hashKey = s.hashKey := rfl
@[simp] theorem armCastle_mc (s : State) (h : Handle) : (armCastle s h).mc = s.mc := rfl
@[simp] theorem armCastle_cx (s : State) (h : Handle) : (armCastle s h).cx = s.cx := rfl
@[simp] theorem armCastle_ladder (s : State) (h : Handle) : (armCastle s h).ladder = s.ladder := rfl
@[simp] theorem armCastle_keySlots (s : State) (h : Handle) : (armCastle s h).keySlots = s.keySlots := rfl
@[simp] theorem armCastle_hostTraffic (s : State) (h : Handle) : (armCastle s h).hostTraffic = s.hostTraffic := rfl
@[simp] theorem armCastle_fl (s : State) (h : Handle) : (armCastle s h).fl = s.fl := rfl
@[simp] theorem armCastle_til (s : State) (h : Handle) : (armCastle s h).til = s.til := rfl
@[simp] theorem armCastle_halted (s : State) (h : Handle) : (armCastle s h).halted = s.halted := rfl
@[simp] theorem armCastle_tripped (s : State) (h : Handle) : (armCastle s h).tripped = s.tripped := rfl
@[simp] theorem armCastle_part (s : State) (h : Handle) : (armCastle s h).part = s.part := rfl
@[simp] theorem armCastle_fw (s : State) (h : Handle) : (armCastle s h).fw = s.fw := rfl
@[simp] theorem armCastle_fwRun (s : State) (h : Handle) : (armCastle s h).fwRun = s.fwRun := rfl
@[simp] theorem armCastle_hosts (s : State) (h : Handle) : (armCastle s h).hosts = s.hosts := rfl
@[simp] theorem armCastle_bar2Out (s : State) (h : Handle) : (armCastle s h).bar2Out = s.bar2Out := rfl
@[simp] theorem armCastle_trc (s : State) (h : Handle) : (armCastle s h).trc = s.trc := rfl
@[simp] theorem armCastle_cfg (s : State) (h : Handle) : (armCastle s h).cfg = s.cfg := rfl
@[simp] theorem armCastle_cfgState (s : State) (h : Handle) : (armCastle s h).cfgState = s.cfgState := rfl
@[simp] theorem armCastle_cpm (s : State) (h : Handle) : (armCastle s h).cpm = s.cpm := rfl
@[simp] theorem armCastle_pending (s : State) (h : Handle) : (armCastle s h).pending = s.pending := rfl

@[simp] theorem extendHold_pers (s : State) (node : Handle) (first count : Nat) : (extendHold s node first count).pers = s.pers := rfl
@[simp] theorem extendHold_ident (s : State) (node : Handle) (first count : Nat) : (extendHold s node first count).ident = s.ident := rfl
@[simp] theorem extendHold_now (s : State) (node : Handle) (first count : Nat) : (extendHold s node first count).now = s.now := rfl
@[simp] theorem extendHold_free (s : State) (node : Handle) (first count : Nat) : (extendHold s node first count).free = s.free := rfl
@[simp] theorem extendHold_tz (s : State) (node : Handle) (first count : Nat) : (extendHold s node first count).tz = s.tz := rfl
@[simp] theorem extendHold_adm (s : State) (node : Handle) (first count : Nat) : (extendHold s node first count).adm = s.adm := rfl
@[simp] theorem extendHold_pages (s : State) (node : Handle) (first count : Nat) : (extendHold s node first count).pages = s.pages := rfl
@[simp] theorem extendHold_models (s : State) (node : Handle) (first count : Nat) : (extendHold s node first count).models = s.models := rfl
@[simp] theorem extendHold_own (s : State) (node : Handle) (first count : Nat) : (extendHold s node first count).own = s.own := rfl
@[simp] theorem extendHold_comps (s : State) (node : Handle) (first count : Nat) : (extendHold s node first count).comps = s.comps := rfl
@[simp] theorem extendHold_cmp (s : State) (node : Handle) (first count : Nat) : (extendHold s node first count).cmp = s.cmp := rfl
@[simp] theorem extendHold_regs (s : State) (node : Handle) (first count : Nat) : (extendHold s node first count).regs = s.regs := rfl
@[simp] theorem extendHold_dev (s : State) (node : Handle) (first count : Nat) : (extendHold s node first count).dev = s.dev := rfl
@[simp] theorem extendHold_host (s : State) (node : Handle) (first count : Nat) : (extendHold s node first count).host = s.host := rfl
@[simp] theorem extendHold_sent (s : State) (node : Handle) (first count : Nat) : (extendHold s node first count).sent = s.sent := rfl
@[simp] theorem extendHold_fab (s : State) (node : Handle) (first count : Nat) : (extendHold s node first count).fab = s.fab := rfl
@[simp] theorem extendHold_err (s : State) (node : Handle) (first count : Nat) : (extendHold s node first count).err = s.err := rfl
@[simp] theorem extendHold_logQ (s : State) (node : Handle) (first count : Nat) : (extendHold s node first count).logQ = s.logQ := rfl
@[simp] theorem extendHold_traceQ (s : State) (node : Handle) (first count : Nat) : (extendHold s node first count).traceQ = s.traceQ := rfl
@[simp] theorem extendHold_reads (s : State) (node : Handle) (first count : Nat) : (extendHold s node first count).reads = s.reads := rfl
@[simp] theorem extendHold_nextRead (s : State) (node : Handle) (first count : Nat) : (extendHold s node first count).nextRead = s.nextRead := rfl
@[simp] theorem extendHold_vecPending (s : State) (node : Handle) (first count : Nat) : (extendHold s node first count).vecPending = s.vecPending := rfl
@[simp] theorem extendHold_vecOpen (s : State) (node : Handle) (first count : Nat) : (extendHold s node first count).vecOpen = s.vecOpen := rfl
@[simp] theorem extendHold_vecSent (s : State) (node : Handle) (first count : Nat) : (extendHold s node first count).vecSent = s.vecSent := rfl
@[simp] theorem extendHold_notify (s : State) (node : Handle) (first count : Nat) : (extendHold s node first count).notify = s.notify := rfl
@[simp] theorem extendHold_hashKey (s : State) (node : Handle) (first count : Nat) : (extendHold s node first count).hashKey = s.hashKey := rfl
@[simp] theorem extendHold_mc (s : State) (node : Handle) (first count : Nat) : (extendHold s node first count).mc = s.mc := rfl
@[simp] theorem extendHold_cx (s : State) (node : Handle) (first count : Nat) : (extendHold s node first count).cx = s.cx := rfl
@[simp] theorem extendHold_ladder (s : State) (node : Handle) (first count : Nat) : (extendHold s node first count).ladder = s.ladder := rfl
@[simp] theorem extendHold_keySlots (s : State) (node : Handle) (first count : Nat) : (extendHold s node first count).keySlots = s.keySlots := rfl
@[simp] theorem extendHold_hostTraffic (s : State) (node : Handle) (first count : Nat) : (extendHold s node first count).hostTraffic = s.hostTraffic := rfl
@[simp] theorem extendHold_fl (s : State) (node : Handle) (first count : Nat) : (extendHold s node first count).fl = s.fl := rfl
@[simp] theorem extendHold_til (s : State) (node : Handle) (first count : Nat) : (extendHold s node first count).til = s.til := rfl
@[simp] theorem extendHold_halted (s : State) (node : Handle) (first count : Nat) : (extendHold s node first count).halted = s.halted := rfl
@[simp] theorem extendHold_tripped (s : State) (node : Handle) (first count : Nat) : (extendHold s node first count).tripped = s.tripped := rfl
@[simp] theorem extendHold_part (s : State) (node : Handle) (first count : Nat) : (extendHold s node first count).part = s.part := rfl
@[simp] theorem extendHold_fw (s : State) (node : Handle) (first count : Nat) : (extendHold s node first count).fw = s.fw := rfl
@[simp] theorem extendHold_fwRun (s : State) (node : Handle) (first count : Nat) : (extendHold s node first count).fwRun = s.fwRun := rfl
@[simp] theorem extendHold_hosts (s : State) (node : Handle) (first count : Nat) : (extendHold s node first count).hosts = s.hosts := rfl
@[simp] theorem extendHold_bar2Out (s : State) (node : Handle) (first count : Nat) : (extendHold s node first count).bar2Out = s.bar2Out := rfl
@[simp] theorem extendHold_trc (s : State) (node : Handle) (first count : Nat) : (extendHold s node first count).trc = s.trc := rfl
@[simp] theorem extendHold_cfg (s : State) (node : Handle) (first count : Nat) : (extendHold s node first count).cfg = s.cfg := rfl
@[simp] theorem extendHold_cfgState (s : State) (node : Handle) (first count : Nat) : (extendHold s node first count).cfgState = s.cfgState := rfl
@[simp] theorem extendHold_cpm (s : State) (node : Handle) (first count : Nat) : (extendHold s node first count).cpm = s.cpm := rfl
@[simp] theorem extendHold_pending (s : State) (node : Handle) (first count : Nat) : (extendHold s node first count).pending = s.pending := rfl

@[simp] theorem holdDraft_pers (s : State) (node : Handle) (taken : Bool) : (holdDraft s node taken).pers = s.pers := rfl
@[simp] theorem holdDraft_ident (s : State) (node : Handle) (taken : Bool) : (holdDraft s node taken).ident = s.ident := rfl
@[simp] theorem holdDraft_now (s : State) (node : Handle) (taken : Bool) : (holdDraft s node taken).now = s.now := rfl
@[simp] theorem holdDraft_free (s : State) (node : Handle) (taken : Bool) : (holdDraft s node taken).free = s.free := rfl
@[simp] theorem holdDraft_tz (s : State) (node : Handle) (taken : Bool) : (holdDraft s node taken).tz = s.tz := rfl
@[simp] theorem holdDraft_adm (s : State) (node : Handle) (taken : Bool) : (holdDraft s node taken).adm = s.adm := rfl
@[simp] theorem holdDraft_pages (s : State) (node : Handle) (taken : Bool) : (holdDraft s node taken).pages = s.pages := rfl
@[simp] theorem holdDraft_models (s : State) (node : Handle) (taken : Bool) : (holdDraft s node taken).models = s.models := rfl
@[simp] theorem holdDraft_own (s : State) (node : Handle) (taken : Bool) : (holdDraft s node taken).own = s.own := rfl
@[simp] theorem holdDraft_comps (s : State) (node : Handle) (taken : Bool) : (holdDraft s node taken).comps = s.comps := rfl
@[simp] theorem holdDraft_cmp (s : State) (node : Handle) (taken : Bool) : (holdDraft s node taken).cmp = s.cmp := rfl
@[simp] theorem holdDraft_regs (s : State) (node : Handle) (taken : Bool) : (holdDraft s node taken).regs = s.regs := rfl
@[simp] theorem holdDraft_dev (s : State) (node : Handle) (taken : Bool) : (holdDraft s node taken).dev = s.dev := rfl
@[simp] theorem holdDraft_host (s : State) (node : Handle) (taken : Bool) : (holdDraft s node taken).host = s.host := rfl
@[simp] theorem holdDraft_sent (s : State) (node : Handle) (taken : Bool) : (holdDraft s node taken).sent = s.sent := rfl
@[simp] theorem holdDraft_fab (s : State) (node : Handle) (taken : Bool) : (holdDraft s node taken).fab = s.fab := rfl
@[simp] theorem holdDraft_err (s : State) (node : Handle) (taken : Bool) : (holdDraft s node taken).err = s.err := rfl
@[simp] theorem holdDraft_logQ (s : State) (node : Handle) (taken : Bool) : (holdDraft s node taken).logQ = s.logQ := rfl
@[simp] theorem holdDraft_traceQ (s : State) (node : Handle) (taken : Bool) : (holdDraft s node taken).traceQ = s.traceQ := rfl
@[simp] theorem holdDraft_reads (s : State) (node : Handle) (taken : Bool) : (holdDraft s node taken).reads = s.reads := rfl
@[simp] theorem holdDraft_nextRead (s : State) (node : Handle) (taken : Bool) : (holdDraft s node taken).nextRead = s.nextRead := rfl
@[simp] theorem holdDraft_vecPending (s : State) (node : Handle) (taken : Bool) : (holdDraft s node taken).vecPending = s.vecPending := rfl
@[simp] theorem holdDraft_vecOpen (s : State) (node : Handle) (taken : Bool) : (holdDraft s node taken).vecOpen = s.vecOpen := rfl
@[simp] theorem holdDraft_vecSent (s : State) (node : Handle) (taken : Bool) : (holdDraft s node taken).vecSent = s.vecSent := rfl
@[simp] theorem holdDraft_notify (s : State) (node : Handle) (taken : Bool) : (holdDraft s node taken).notify = s.notify := rfl
@[simp] theorem holdDraft_hashKey (s : State) (node : Handle) (taken : Bool) : (holdDraft s node taken).hashKey = s.hashKey := rfl
@[simp] theorem holdDraft_mc (s : State) (node : Handle) (taken : Bool) : (holdDraft s node taken).mc = s.mc := rfl
@[simp] theorem holdDraft_cx (s : State) (node : Handle) (taken : Bool) : (holdDraft s node taken).cx = s.cx := rfl
@[simp] theorem holdDraft_ladder (s : State) (node : Handle) (taken : Bool) : (holdDraft s node taken).ladder = s.ladder := rfl
@[simp] theorem holdDraft_keySlots (s : State) (node : Handle) (taken : Bool) : (holdDraft s node taken).keySlots = s.keySlots := rfl
@[simp] theorem holdDraft_hostTraffic (s : State) (node : Handle) (taken : Bool) : (holdDraft s node taken).hostTraffic = s.hostTraffic := rfl
@[simp] theorem holdDraft_fl (s : State) (node : Handle) (taken : Bool) : (holdDraft s node taken).fl = s.fl := rfl
@[simp] theorem holdDraft_til (s : State) (node : Handle) (taken : Bool) : (holdDraft s node taken).til = s.til := rfl
@[simp] theorem holdDraft_halted (s : State) (node : Handle) (taken : Bool) : (holdDraft s node taken).halted = s.halted := rfl
@[simp] theorem holdDraft_tripped (s : State) (node : Handle) (taken : Bool) : (holdDraft s node taken).tripped = s.tripped := rfl
@[simp] theorem holdDraft_part (s : State) (node : Handle) (taken : Bool) : (holdDraft s node taken).part = s.part := rfl
@[simp] theorem holdDraft_fw (s : State) (node : Handle) (taken : Bool) : (holdDraft s node taken).fw = s.fw := rfl
@[simp] theorem holdDraft_fwRun (s : State) (node : Handle) (taken : Bool) : (holdDraft s node taken).fwRun = s.fwRun := rfl
@[simp] theorem holdDraft_hosts (s : State) (node : Handle) (taken : Bool) : (holdDraft s node taken).hosts = s.hosts := rfl
@[simp] theorem holdDraft_bar2Out (s : State) (node : Handle) (taken : Bool) : (holdDraft s node taken).bar2Out = s.bar2Out := rfl
@[simp] theorem holdDraft_trc (s : State) (node : Handle) (taken : Bool) : (holdDraft s node taken).trc = s.trc := rfl
@[simp] theorem holdDraft_cfg (s : State) (node : Handle) (taken : Bool) : (holdDraft s node taken).cfg = s.cfg := rfl
@[simp] theorem holdDraft_cfgState (s : State) (node : Handle) (taken : Bool) : (holdDraft s node taken).cfgState = s.cfgState := rfl
@[simp] theorem holdDraft_cpm (s : State) (node : Handle) (taken : Bool) : (holdDraft s node taken).cpm = s.cpm := rfl
@[simp] theorem holdDraft_pending (s : State) (node : Handle) (taken : Bool) : (holdDraft s node taken).pending = s.pending := rfl

@[simp] theorem endLease_pers (s : State) (node : Handle) (published : Bool) : (endLease s node published).pers = s.pers := rfl
@[simp] theorem endLease_ident (s : State) (node : Handle) (published : Bool) : (endLease s node published).ident = s.ident := rfl
@[simp] theorem endLease_now (s : State) (node : Handle) (published : Bool) : (endLease s node published).now = s.now := rfl
@[simp] theorem endLease_free (s : State) (node : Handle) (published : Bool) : (endLease s node published).free = s.free := rfl
@[simp] theorem endLease_tz (s : State) (node : Handle) (published : Bool) : (endLease s node published).tz = s.tz := rfl
@[simp] theorem endLease_adm (s : State) (node : Handle) (published : Bool) : (endLease s node published).adm = s.adm := rfl
@[simp] theorem endLease_models (s : State) (node : Handle) (published : Bool) : (endLease s node published).models = s.models := rfl
@[simp] theorem endLease_own (s : State) (node : Handle) (published : Bool) : (endLease s node published).own = s.own := rfl
@[simp] theorem endLease_comps (s : State) (node : Handle) (published : Bool) : (endLease s node published).comps = s.comps := rfl
@[simp] theorem endLease_cmp (s : State) (node : Handle) (published : Bool) : (endLease s node published).cmp = s.cmp := rfl
@[simp] theorem endLease_regs (s : State) (node : Handle) (published : Bool) : (endLease s node published).regs = s.regs := rfl
@[simp] theorem endLease_dev (s : State) (node : Handle) (published : Bool) : (endLease s node published).dev = s.dev := rfl
@[simp] theorem endLease_host (s : State) (node : Handle) (published : Bool) : (endLease s node published).host = s.host := rfl
@[simp] theorem endLease_sent (s : State) (node : Handle) (published : Bool) : (endLease s node published).sent = s.sent := rfl
@[simp] theorem endLease_fab (s : State) (node : Handle) (published : Bool) : (endLease s node published).fab = s.fab := rfl
@[simp] theorem endLease_err (s : State) (node : Handle) (published : Bool) : (endLease s node published).err = s.err := rfl
@[simp] theorem endLease_logQ (s : State) (node : Handle) (published : Bool) : (endLease s node published).logQ = s.logQ := rfl
@[simp] theorem endLease_traceQ (s : State) (node : Handle) (published : Bool) : (endLease s node published).traceQ = s.traceQ := rfl
@[simp] theorem endLease_reads (s : State) (node : Handle) (published : Bool) : (endLease s node published).reads = s.reads := rfl
@[simp] theorem endLease_nextRead (s : State) (node : Handle) (published : Bool) : (endLease s node published).nextRead = s.nextRead := rfl
@[simp] theorem endLease_vecPending (s : State) (node : Handle) (published : Bool) : (endLease s node published).vecPending = s.vecPending := rfl
@[simp] theorem endLease_vecOpen (s : State) (node : Handle) (published : Bool) : (endLease s node published).vecOpen = s.vecOpen := rfl
@[simp] theorem endLease_vecSent (s : State) (node : Handle) (published : Bool) : (endLease s node published).vecSent = s.vecSent := rfl
@[simp] theorem endLease_notify (s : State) (node : Handle) (published : Bool) : (endLease s node published).notify = s.notify := rfl
@[simp] theorem endLease_hashKey (s : State) (node : Handle) (published : Bool) : (endLease s node published).hashKey = s.hashKey := rfl
@[simp] theorem endLease_mc (s : State) (node : Handle) (published : Bool) : (endLease s node published).mc = s.mc := rfl
@[simp] theorem endLease_cx (s : State) (node : Handle) (published : Bool) : (endLease s node published).cx = s.cx := rfl
@[simp] theorem endLease_ladder (s : State) (node : Handle) (published : Bool) : (endLease s node published).ladder = s.ladder := rfl
@[simp] theorem endLease_keySlots (s : State) (node : Handle) (published : Bool) : (endLease s node published).keySlots = s.keySlots := rfl
@[simp] theorem endLease_hostTraffic (s : State) (node : Handle) (published : Bool) : (endLease s node published).hostTraffic = s.hostTraffic := rfl
@[simp] theorem endLease_fl (s : State) (node : Handle) (published : Bool) : (endLease s node published).fl = s.fl := rfl
@[simp] theorem endLease_til (s : State) (node : Handle) (published : Bool) : (endLease s node published).til = s.til := rfl
@[simp] theorem endLease_halted (s : State) (node : Handle) (published : Bool) : (endLease s node published).halted = s.halted := rfl
@[simp] theorem endLease_tripped (s : State) (node : Handle) (published : Bool) : (endLease s node published).tripped = s.tripped := rfl
@[simp] theorem endLease_part (s : State) (node : Handle) (published : Bool) : (endLease s node published).part = s.part := rfl
@[simp] theorem endLease_fw (s : State) (node : Handle) (published : Bool) : (endLease s node published).fw = s.fw := rfl
@[simp] theorem endLease_fwRun (s : State) (node : Handle) (published : Bool) : (endLease s node published).fwRun = s.fwRun := rfl
@[simp] theorem endLease_hosts (s : State) (node : Handle) (published : Bool) : (endLease s node published).hosts = s.hosts := rfl
@[simp] theorem endLease_bar2Out (s : State) (node : Handle) (published : Bool) : (endLease s node published).bar2Out = s.bar2Out := rfl
@[simp] theorem endLease_trc (s : State) (node : Handle) (published : Bool) : (endLease s node published).trc = s.trc := rfl
@[simp] theorem endLease_cfg (s : State) (node : Handle) (published : Bool) : (endLease s node published).cfg = s.cfg := rfl
@[simp] theorem endLease_cfgState (s : State) (node : Handle) (published : Bool) : (endLease s node published).cfgState = s.cfgState := rfl
@[simp] theorem endLease_cpm (s : State) (node : Handle) (published : Bool) : (endLease s node published).cpm = s.cpm := rfl
@[simp] theorem endLease_pending (s : State) (node : Handle) (published : Bool) : (endLease s node published).pending = s.pending := rfl

@[simp] theorem nextHotWindow_pers (s : State) : (nextHotWindow s).pers = s.pers := rfl
@[simp] theorem nextHotWindow_ident (s : State) : (nextHotWindow s).ident = s.ident := rfl
@[simp] theorem nextHotWindow_now (s : State) : (nextHotWindow s).now = s.now := rfl
@[simp] theorem nextHotWindow_free (s : State) : (nextHotWindow s).free = s.free := rfl
@[simp] theorem nextHotWindow_tz (s : State) : (nextHotWindow s).tz = s.tz := rfl
@[simp] theorem nextHotWindow_adm (s : State) : (nextHotWindow s).adm = s.adm := rfl
@[simp] theorem nextHotWindow_pages (s : State) : (nextHotWindow s).pages = s.pages := rfl
@[simp] theorem nextHotWindow_models (s : State) : (nextHotWindow s).models = s.models := rfl
@[simp] theorem nextHotWindow_own (s : State) : (nextHotWindow s).own = s.own := rfl
@[simp] theorem nextHotWindow_rgn (s : State) : (nextHotWindow s).rgn = s.rgn := rfl
@[simp] theorem nextHotWindow_comps (s : State) : (nextHotWindow s).comps = s.comps := rfl
@[simp] theorem nextHotWindow_cmp (s : State) : (nextHotWindow s).cmp = s.cmp := rfl
@[simp] theorem nextHotWindow_regs (s : State) : (nextHotWindow s).regs = s.regs := rfl
@[simp] theorem nextHotWindow_dev (s : State) : (nextHotWindow s).dev = s.dev := rfl
@[simp] theorem nextHotWindow_host (s : State) : (nextHotWindow s).host = s.host := rfl
@[simp] theorem nextHotWindow_sent (s : State) : (nextHotWindow s).sent = s.sent := rfl
@[simp] theorem nextHotWindow_fab (s : State) : (nextHotWindow s).fab = s.fab := rfl
@[simp] theorem nextHotWindow_err (s : State) : (nextHotWindow s).err = s.err := rfl
@[simp] theorem nextHotWindow_logQ (s : State) : (nextHotWindow s).logQ = s.logQ := rfl
@[simp] theorem nextHotWindow_traceQ (s : State) : (nextHotWindow s).traceQ = s.traceQ := rfl
@[simp] theorem nextHotWindow_reads (s : State) : (nextHotWindow s).reads = s.reads := rfl
@[simp] theorem nextHotWindow_nextRead (s : State) : (nextHotWindow s).nextRead = s.nextRead := rfl
@[simp] theorem nextHotWindow_vecPending (s : State) : (nextHotWindow s).vecPending = s.vecPending := rfl
@[simp] theorem nextHotWindow_vecOpen (s : State) : (nextHotWindow s).vecOpen = s.vecOpen := rfl
@[simp] theorem nextHotWindow_vecSent (s : State) : (nextHotWindow s).vecSent = s.vecSent := rfl
@[simp] theorem nextHotWindow_notify (s : State) : (nextHotWindow s).notify = s.notify := rfl
@[simp] theorem nextHotWindow_hashKey (s : State) : (nextHotWindow s).hashKey = s.hashKey := rfl
@[simp] theorem nextHotWindow_cx (s : State) : (nextHotWindow s).cx = s.cx := rfl
@[simp] theorem nextHotWindow_ladder (s : State) : (nextHotWindow s).ladder = s.ladder := rfl
@[simp] theorem nextHotWindow_keySlots (s : State) : (nextHotWindow s).keySlots = s.keySlots := rfl
@[simp] theorem nextHotWindow_hostTraffic (s : State) : (nextHotWindow s).hostTraffic = s.hostTraffic := rfl
@[simp] theorem nextHotWindow_fl (s : State) : (nextHotWindow s).fl = s.fl := rfl
@[simp] theorem nextHotWindow_til (s : State) : (nextHotWindow s).til = s.til := rfl
@[simp] theorem nextHotWindow_halted (s : State) : (nextHotWindow s).halted = s.halted := rfl
@[simp] theorem nextHotWindow_tripped (s : State) : (nextHotWindow s).tripped = s.tripped := rfl
@[simp] theorem nextHotWindow_part (s : State) : (nextHotWindow s).part = s.part := rfl
@[simp] theorem nextHotWindow_fw (s : State) : (nextHotWindow s).fw = s.fw := rfl
@[simp] theorem nextHotWindow_fwRun (s : State) : (nextHotWindow s).fwRun = s.fwRun := rfl
@[simp] theorem nextHotWindow_hosts (s : State) : (nextHotWindow s).hosts = s.hosts := rfl
@[simp] theorem nextHotWindow_bar2Out (s : State) : (nextHotWindow s).bar2Out = s.bar2Out := rfl
@[simp] theorem nextHotWindow_trc (s : State) : (nextHotWindow s).trc = s.trc := rfl
@[simp] theorem nextHotWindow_cfg (s : State) : (nextHotWindow s).cfg = s.cfg := rfl
@[simp] theorem nextHotWindow_cfgState (s : State) : (nextHotWindow s).cfgState = s.cfgState := rfl
@[simp] theorem nextHotWindow_cpm (s : State) : (nextHotWindow s).cpm = s.cpm := rfl
@[simp] theorem nextHotWindow_pending (s : State) : (nextHotWindow s).pending = s.pending := rfl

@[simp] theorem renewHost_pers (s : State) (p : Nat) : (renewHost s p).pers = s.pers := rfl
@[simp] theorem renewHost_ident (s : State) (p : Nat) : (renewHost s p).ident = s.ident := rfl
@[simp] theorem renewHost_now (s : State) (p : Nat) : (renewHost s p).now = s.now := rfl
@[simp] theorem renewHost_free (s : State) (p : Nat) : (renewHost s p).free = s.free := rfl
@[simp] theorem renewHost_tz (s : State) (p : Nat) : (renewHost s p).tz = s.tz := rfl
@[simp] theorem renewHost_adm (s : State) (p : Nat) : (renewHost s p).adm = s.adm := rfl
@[simp] theorem renewHost_pages (s : State) (p : Nat) : (renewHost s p).pages = s.pages := rfl
@[simp] theorem renewHost_models (s : State) (p : Nat) : (renewHost s p).models = s.models := rfl
@[simp] theorem renewHost_own (s : State) (p : Nat) : (renewHost s p).own = s.own := rfl
@[simp] theorem renewHost_comps (s : State) (p : Nat) : (renewHost s p).comps = s.comps := rfl
@[simp] theorem renewHost_cmp (s : State) (p : Nat) : (renewHost s p).cmp = s.cmp := rfl
@[simp] theorem renewHost_regs (s : State) (p : Nat) : (renewHost s p).regs = s.regs := rfl
@[simp] theorem renewHost_dev (s : State) (p : Nat) : (renewHost s p).dev = s.dev := rfl
@[simp] theorem renewHost_host (s : State) (p : Nat) : (renewHost s p).host = s.host := rfl
@[simp] theorem renewHost_sent (s : State) (p : Nat) : (renewHost s p).sent = s.sent := rfl
@[simp] theorem renewHost_fab (s : State) (p : Nat) : (renewHost s p).fab = s.fab := rfl
@[simp] theorem renewHost_err (s : State) (p : Nat) : (renewHost s p).err = s.err := rfl
@[simp] theorem renewHost_logQ (s : State) (p : Nat) : (renewHost s p).logQ = s.logQ := rfl
@[simp] theorem renewHost_traceQ (s : State) (p : Nat) : (renewHost s p).traceQ = s.traceQ := rfl
@[simp] theorem renewHost_reads (s : State) (p : Nat) : (renewHost s p).reads = s.reads := rfl
@[simp] theorem renewHost_nextRead (s : State) (p : Nat) : (renewHost s p).nextRead = s.nextRead := rfl
@[simp] theorem renewHost_vecPending (s : State) (p : Nat) : (renewHost s p).vecPending = s.vecPending := rfl
@[simp] theorem renewHost_vecOpen (s : State) (p : Nat) : (renewHost s p).vecOpen = s.vecOpen := rfl
@[simp] theorem renewHost_vecSent (s : State) (p : Nat) : (renewHost s p).vecSent = s.vecSent := rfl
@[simp] theorem renewHost_notify (s : State) (p : Nat) : (renewHost s p).notify = s.notify := rfl
@[simp] theorem renewHost_hashKey (s : State) (p : Nat) : (renewHost s p).hashKey = s.hashKey := rfl
@[simp] theorem renewHost_mc (s : State) (p : Nat) : (renewHost s p).mc = s.mc := rfl
@[simp] theorem renewHost_cx (s : State) (p : Nat) : (renewHost s p).cx = s.cx := rfl
@[simp] theorem renewHost_ladder (s : State) (p : Nat) : (renewHost s p).ladder = s.ladder := rfl
@[simp] theorem renewHost_keySlots (s : State) (p : Nat) : (renewHost s p).keySlots = s.keySlots := rfl
@[simp] theorem renewHost_hostTraffic (s : State) (p : Nat) : (renewHost s p).hostTraffic = s.hostTraffic := rfl
@[simp] theorem renewHost_fl (s : State) (p : Nat) : (renewHost s p).fl = s.fl := rfl
@[simp] theorem renewHost_til (s : State) (p : Nat) : (renewHost s p).til = s.til := rfl
@[simp] theorem renewHost_halted (s : State) (p : Nat) : (renewHost s p).halted = s.halted := rfl
@[simp] theorem renewHost_tripped (s : State) (p : Nat) : (renewHost s p).tripped = s.tripped := rfl
@[simp] theorem renewHost_part (s : State) (p : Nat) : (renewHost s p).part = s.part := rfl
@[simp] theorem renewHost_fw (s : State) (p : Nat) : (renewHost s p).fw = s.fw := rfl
@[simp] theorem renewHost_fwRun (s : State) (p : Nat) : (renewHost s p).fwRun = s.fwRun := rfl
@[simp] theorem renewHost_hosts (s : State) (p : Nat) : (renewHost s p).hosts = s.hosts := rfl
@[simp] theorem renewHost_bar2Out (s : State) (p : Nat) : (renewHost s p).bar2Out = s.bar2Out := rfl
@[simp] theorem renewHost_trc (s : State) (p : Nat) : (renewHost s p).trc = s.trc := rfl
@[simp] theorem renewHost_cfg (s : State) (p : Nat) : (renewHost s p).cfg = s.cfg := rfl
@[simp] theorem renewHost_cfgState (s : State) (p : Nat) : (renewHost s p).cfgState = s.cfgState := rfl
@[simp] theorem renewHost_cpm (s : State) (p : Nat) : (renewHost s p).cpm = s.cpm := rfl
@[simp] theorem renewHost_pending (s : State) (p : Nat) : (renewHost s p).pending = s.pending := rfl

/-! What a step wrote and the tags that follow it -/

@[simp] theorem dropStale_pers (s k : State) : (dropStale s k).pers = k.pers := by unfold dropStale; dsimp only; split <;> rfl
@[simp] theorem dropStale_ident (s k : State) : (dropStale s k).ident = k.ident := by unfold dropStale; dsimp only; split <;> rfl
@[simp] theorem dropStale_now (s k : State) : (dropStale s k).now = k.now := by unfold dropStale; dsimp only; split <;> rfl
@[simp] theorem dropStale_free (s k : State) : (dropStale s k).free = k.free := by unfold dropStale; dsimp only; split <;> rfl
@[simp] theorem dropStale_tz (s k : State) : (dropStale s k).tz = k.tz := by unfold dropStale; dsimp only; split <;> rfl
@[simp] theorem dropStale_adm (s k : State) : (dropStale s k).adm = k.adm := by unfold dropStale; dsimp only; split <;> rfl
@[simp] theorem dropStale_models (s k : State) : (dropStale s k).models = k.models := by unfold dropStale; dsimp only; split <;> rfl
@[simp] theorem dropStale_own (s k : State) : (dropStale s k).own = k.own := by unfold dropStale; dsimp only; split <;> rfl
@[simp] theorem dropStale_rgn (s k : State) : (dropStale s k).rgn = k.rgn := by unfold dropStale; dsimp only; split <;> rfl
@[simp] theorem dropStale_comps (s k : State) : (dropStale s k).comps = k.comps := by unfold dropStale; dsimp only; split <;> rfl
@[simp] theorem dropStale_cmp (s k : State) : (dropStale s k).cmp = k.cmp := by unfold dropStale; dsimp only; split <;> rfl
@[simp] theorem dropStale_regs (s k : State) : (dropStale s k).regs = k.regs := by unfold dropStale; dsimp only; split <;> rfl
@[simp] theorem dropStale_dev (s k : State) : (dropStale s k).dev = k.dev := by unfold dropStale; dsimp only; split <;> rfl
@[simp] theorem dropStale_host (s k : State) : (dropStale s k).host = k.host := by unfold dropStale; dsimp only; split <;> rfl
@[simp] theorem dropStale_sent (s k : State) : (dropStale s k).sent = k.sent := by unfold dropStale; dsimp only; split <;> rfl
@[simp] theorem dropStale_fab (s k : State) : (dropStale s k).fab = k.fab := by unfold dropStale; dsimp only; split <;> rfl
@[simp] theorem dropStale_err (s k : State) : (dropStale s k).err = k.err := by unfold dropStale; dsimp only; split <;> rfl
@[simp] theorem dropStale_logQ (s k : State) : (dropStale s k).logQ = k.logQ := by unfold dropStale; dsimp only; split <;> rfl
@[simp] theorem dropStale_traceQ (s k : State) : (dropStale s k).traceQ = k.traceQ := by unfold dropStale; dsimp only; split <;> rfl
@[simp] theorem dropStale_reads (s k : State) : (dropStale s k).reads = k.reads := by unfold dropStale; dsimp only; split <;> rfl
@[simp] theorem dropStale_nextRead (s k : State) : (dropStale s k).nextRead = k.nextRead := by unfold dropStale; dsimp only; split <;> rfl
@[simp] theorem dropStale_vecPending (s k : State) : (dropStale s k).vecPending = k.vecPending := by unfold dropStale; dsimp only; split <;> rfl
@[simp] theorem dropStale_vecOpen (s k : State) : (dropStale s k).vecOpen = k.vecOpen := by unfold dropStale; dsimp only; split <;> rfl
@[simp] theorem dropStale_vecSent (s k : State) : (dropStale s k).vecSent = k.vecSent := by unfold dropStale; dsimp only; split <;> rfl
@[simp] theorem dropStale_notify (s k : State) : (dropStale s k).notify = k.notify := by unfold dropStale; dsimp only; split <;> rfl
@[simp] theorem dropStale_hashKey (s k : State) : (dropStale s k).hashKey = k.hashKey := by unfold dropStale; dsimp only; split <;> rfl
@[simp] theorem dropStale_mc (s k : State) : (dropStale s k).mc = k.mc := by unfold dropStale; dsimp only; split <;> rfl
@[simp] theorem dropStale_cx (s k : State) : (dropStale s k).cx = k.cx := by unfold dropStale; dsimp only; split <;> rfl
@[simp] theorem dropStale_ladder (s k : State) : (dropStale s k).ladder = k.ladder := by unfold dropStale; dsimp only; split <;> rfl
@[simp] theorem dropStale_keySlots (s k : State) : (dropStale s k).keySlots = k.keySlots := by unfold dropStale; dsimp only; split <;> rfl
@[simp] theorem dropStale_hostTraffic (s k : State) : (dropStale s k).hostTraffic = k.hostTraffic := by unfold dropStale; dsimp only; split <;> rfl
@[simp] theorem dropStale_fl (s k : State) : (dropStale s k).fl = k.fl := by unfold dropStale; dsimp only; split <;> rfl
@[simp] theorem dropStale_halted (s k : State) : (dropStale s k).halted = k.halted := by unfold dropStale; dsimp only; split <;> rfl
@[simp] theorem dropStale_tripped (s k : State) : (dropStale s k).tripped = k.tripped := by unfold dropStale; dsimp only; split <;> rfl
@[simp] theorem dropStale_part (s k : State) : (dropStale s k).part = k.part := by unfold dropStale; dsimp only; split <;> rfl
@[simp] theorem dropStale_fw (s k : State) : (dropStale s k).fw = k.fw := by unfold dropStale; dsimp only; split <;> rfl
@[simp] theorem dropStale_fwRun (s k : State) : (dropStale s k).fwRun = k.fwRun := by unfold dropStale; dsimp only; split <;> rfl
@[simp] theorem dropStale_hosts (s k : State) : (dropStale s k).hosts = k.hosts := by unfold dropStale; dsimp only; split <;> rfl
@[simp] theorem dropStale_bar2Out (s k : State) : (dropStale s k).bar2Out = k.bar2Out := by unfold dropStale; dsimp only; split <;> rfl
@[simp] theorem dropStale_trc (s k : State) : (dropStale s k).trc = k.trc := by unfold dropStale; dsimp only; split <;> rfl
@[simp] theorem dropStale_cfg (s k : State) : (dropStale s k).cfg = k.cfg := by unfold dropStale; dsimp only; split <;> rfl
@[simp] theorem dropStale_cfgState (s k : State) : (dropStale s k).cfgState = k.cfgState := by unfold dropStale; dsimp only; split <;> rfl
@[simp] theorem dropStale_cpm (s k : State) : (dropStale s k).cpm = k.cpm := by unfold dropStale; dsimp only; split <;> rfl
@[simp] theorem dropStale_pending (s k : State) : (dropStale s k).pending = k.pending := by unfold dropStale; dsimp only; split <;> rfl

@[simp] theorem rearm_pers (k : State) : (rearm k).pers = k.pers := by unfold rearm; split <;> rfl
@[simp] theorem rearm_ident (k : State) : (rearm k).ident = k.ident := by unfold rearm; split <;> rfl
@[simp] theorem rearm_now (k : State) : (rearm k).now = k.now := by unfold rearm; split <;> rfl
@[simp] theorem rearm_free (k : State) : (rearm k).free = k.free := by unfold rearm; split <;> rfl
@[simp] theorem rearm_tz (k : State) : (rearm k).tz = k.tz := by unfold rearm; split <;> rfl
@[simp] theorem rearm_adm (k : State) : (rearm k).adm = k.adm := by unfold rearm; split <;> rfl
@[simp] theorem rearm_pages (k : State) : (rearm k).pages = k.pages := by unfold rearm; split <;> rfl
@[simp] theorem rearm_models (k : State) : (rearm k).models = k.models := by unfold rearm; split <;> rfl
@[simp] theorem rearm_rgn (k : State) : (rearm k).rgn = k.rgn := by unfold rearm; split <;> rfl
@[simp] theorem rearm_comps (k : State) : (rearm k).comps = k.comps := by unfold rearm; split <;> rfl
@[simp] theorem rearm_cmp (k : State) : (rearm k).cmp = k.cmp := by unfold rearm; split <;> rfl
@[simp] theorem rearm_regs (k : State) : (rearm k).regs = k.regs := by unfold rearm; split <;> rfl
@[simp] theorem rearm_dev (k : State) : (rearm k).dev = k.dev := by unfold rearm; split <;> rfl
@[simp] theorem rearm_host (k : State) : (rearm k).host = k.host := by unfold rearm; split <;> rfl
@[simp] theorem rearm_sent (k : State) : (rearm k).sent = k.sent := by unfold rearm; split <;> rfl
@[simp] theorem rearm_fab (k : State) : (rearm k).fab = k.fab := by unfold rearm; split <;> rfl
@[simp] theorem rearm_err (k : State) : (rearm k).err = k.err := by unfold rearm; split <;> rfl
@[simp] theorem rearm_logQ (k : State) : (rearm k).logQ = k.logQ := by unfold rearm; split <;> rfl
@[simp] theorem rearm_traceQ (k : State) : (rearm k).traceQ = k.traceQ := by unfold rearm; split <;> rfl
@[simp] theorem rearm_reads (k : State) : (rearm k).reads = k.reads := by unfold rearm; split <;> rfl
@[simp] theorem rearm_nextRead (k : State) : (rearm k).nextRead = k.nextRead := by unfold rearm; split <;> rfl
@[simp] theorem rearm_vecPending (k : State) : (rearm k).vecPending = k.vecPending := by unfold rearm; split <;> rfl
@[simp] theorem rearm_vecOpen (k : State) : (rearm k).vecOpen = k.vecOpen := by unfold rearm; split <;> rfl
@[simp] theorem rearm_vecSent (k : State) : (rearm k).vecSent = k.vecSent := by unfold rearm; split <;> rfl
@[simp] theorem rearm_notify (k : State) : (rearm k).notify = k.notify := by unfold rearm; split <;> rfl
@[simp] theorem rearm_hashKey (k : State) : (rearm k).hashKey = k.hashKey := by unfold rearm; split <;> rfl
@[simp] theorem rearm_mc (k : State) : (rearm k).mc = k.mc := by unfold rearm; split <;> rfl
@[simp] theorem rearm_cx (k : State) : (rearm k).cx = k.cx := by unfold rearm; split <;> rfl
@[simp] theorem rearm_ladder (k : State) : (rearm k).ladder = k.ladder := by unfold rearm; split <;> rfl
@[simp] theorem rearm_keySlots (k : State) : (rearm k).keySlots = k.keySlots := by unfold rearm; split <;> rfl
@[simp] theorem rearm_hostTraffic (k : State) : (rearm k).hostTraffic = k.hostTraffic := by unfold rearm; split <;> rfl
@[simp] theorem rearm_fl (k : State) : (rearm k).fl = k.fl := by unfold rearm; split <;> rfl
@[simp] theorem rearm_til (k : State) : (rearm k).til = k.til := by unfold rearm; split <;> rfl
@[simp] theorem rearm_halted (k : State) : (rearm k).halted = k.halted := by unfold rearm; split <;> rfl
@[simp] theorem rearm_tripped (k : State) : (rearm k).tripped = k.tripped := by unfold rearm; split <;> rfl
@[simp] theorem rearm_part (k : State) : (rearm k).part = k.part := by unfold rearm; split <;> rfl
@[simp] theorem rearm_fw (k : State) : (rearm k).fw = k.fw := by unfold rearm; split <;> rfl
@[simp] theorem rearm_fwRun (k : State) : (rearm k).fwRun = k.fwRun := by unfold rearm; split <;> rfl
@[simp] theorem rearm_hosts (k : State) : (rearm k).hosts = k.hosts := by unfold rearm; split <;> rfl
@[simp] theorem rearm_bar2Out (k : State) : (rearm k).bar2Out = k.bar2Out := by unfold rearm; split <;> rfl
@[simp] theorem rearm_trc (k : State) : (rearm k).trc = k.trc := by unfold rearm; split <;> rfl
@[simp] theorem rearm_cfg (k : State) : (rearm k).cfg = k.cfg := by unfold rearm; split <;> rfl
@[simp] theorem rearm_cfgState (k : State) : (rearm k).cfgState = k.cfgState := by unfold rearm; split <;> rfl
@[simp] theorem rearm_cpm (k : State) : (rearm k).cpm = k.cpm := by unfold rearm; split <;> rfl
@[simp] theorem rearm_pending (k : State) : (rearm k).pending = k.pending := by unfold rearm; split <;> rfl

@[simp] theorem retag_pers (s k : State) : (retag s k).pers = k.pers := by unfold retag; split <;> simp
@[simp] theorem retag_ident (s k : State) : (retag s k).ident = k.ident := by unfold retag; split <;> simp
@[simp] theorem retag_now (s k : State) : (retag s k).now = k.now := by unfold retag; split <;> simp
@[simp] theorem retag_free (s k : State) : (retag s k).free = k.free := by unfold retag; split <;> simp
@[simp] theorem retag_tz (s k : State) : (retag s k).tz = k.tz := by unfold retag; split <;> simp
@[simp] theorem retag_adm (s k : State) : (retag s k).adm = k.adm := by unfold retag; split <;> simp
@[simp] theorem retag_models (s k : State) : (retag s k).models = k.models := by unfold retag; split <;> simp
@[simp] theorem retag_rgn (s k : State) : (retag s k).rgn = k.rgn := by unfold retag; split <;> simp
@[simp] theorem retag_comps (s k : State) : (retag s k).comps = k.comps := by unfold retag; split <;> simp
@[simp] theorem retag_cmp (s k : State) : (retag s k).cmp = k.cmp := by unfold retag; split <;> simp
@[simp] theorem retag_regs (s k : State) : (retag s k).regs = k.regs := by unfold retag; split <;> simp
@[simp] theorem retag_dev (s k : State) : (retag s k).dev = k.dev := by unfold retag; split <;> simp
@[simp] theorem retag_host (s k : State) : (retag s k).host = k.host := by unfold retag; split <;> simp
@[simp] theorem retag_sent (s k : State) : (retag s k).sent = k.sent := by unfold retag; split <;> simp
@[simp] theorem retag_fab (s k : State) : (retag s k).fab = k.fab := by unfold retag; split <;> simp
@[simp] theorem retag_err (s k : State) : (retag s k).err = k.err := by unfold retag; split <;> simp
@[simp] theorem retag_traceQ (s k : State) : (retag s k).traceQ = k.traceQ := by unfold retag; split <;> simp
@[simp] theorem retag_reads (s k : State) : (retag s k).reads = k.reads := by unfold retag; split <;> simp
@[simp] theorem retag_nextRead (s k : State) : (retag s k).nextRead = k.nextRead := by unfold retag; split <;> simp
@[simp] theorem retag_vecPending (s k : State) : (retag s k).vecPending = k.vecPending := by unfold retag; split <;> simp
@[simp] theorem retag_vecOpen (s k : State) : (retag s k).vecOpen = k.vecOpen := by unfold retag; split <;> simp
@[simp] theorem retag_vecSent (s k : State) : (retag s k).vecSent = k.vecSent := by unfold retag; split <;> simp
@[simp] theorem retag_notify (s k : State) : (retag s k).notify = k.notify := by unfold retag; split <;> simp
@[simp] theorem retag_hashKey (s k : State) : (retag s k).hashKey = k.hashKey := by unfold retag; split <;> simp
@[simp] theorem retag_mc (s k : State) : (retag s k).mc = k.mc := by unfold retag; split <;> simp
@[simp] theorem retag_ladder (s k : State) : (retag s k).ladder = k.ladder := by unfold retag; split <;> simp
@[simp] theorem retag_keySlots (s k : State) : (retag s k).keySlots = k.keySlots := by unfold retag; split <;> simp
@[simp] theorem retag_hostTraffic (s k : State) : (retag s k).hostTraffic = k.hostTraffic := by unfold retag; split <;> simp
@[simp] theorem retag_fl (s k : State) : (retag s k).fl = k.fl := by unfold retag; split <;> simp
@[simp] theorem retag_halted (s k : State) : (retag s k).halted = k.halted := by unfold retag; split <;> simp
@[simp] theorem retag_tripped (s k : State) : (retag s k).tripped = k.tripped := by unfold retag; split <;> simp
@[simp] theorem retag_part (s k : State) : (retag s k).part = k.part := by unfold retag; split <;> simp
@[simp] theorem retag_fw (s k : State) : (retag s k).fw = k.fw := by unfold retag; split <;> simp
@[simp] theorem retag_fwRun (s k : State) : (retag s k).fwRun = k.fwRun := by unfold retag; split <;> simp
@[simp] theorem retag_hosts (s k : State) : (retag s k).hosts = k.hosts := by unfold retag; split <;> simp
@[simp] theorem retag_bar2Out (s k : State) : (retag s k).bar2Out = k.bar2Out := by unfold retag; split <;> simp
@[simp] theorem retag_trc (s k : State) : (retag s k).trc = k.trc := by unfold retag; split <;> simp
@[simp] theorem retag_cfg (s k : State) : (retag s k).cfg = k.cfg := by unfold retag; split <;> simp
@[simp] theorem retag_cfgState (s k : State) : (retag s k).cfgState = k.cfgState := by unfold retag; split <;> simp
@[simp] theorem retag_cpm (s k : State) : (retag s k).cpm = k.cpm := by unfold retag; split <;> simp
@[simp] theorem retag_pending (s k : State) : (retag s k).pending = k.pending := by unfold retag; split <;> simp

/-- A step that leaves pages, region memory and models as they are leaves the tags as they are. -/
theorem retag_same (s k : State) (hp : k.pages = s.pages) (hd : k.dev = s.dev) (hm : k.models = s.models) : retag s k = k := by
  unfold retag
  rw [if_pos ⟨hp.symm, hd.symm, hm.symm⟩]

/-- The outcome of a command that acts while the fast domains run. -/
theorem alive_running (s k : State) (h : s.halted = false) : alive s k = .next (retag s k) := by
  simp [alive, h]

/-- No such command acts while they do not. -/
theorem alive_halted (s k : State) (h : s.halted = true) : alive s k = .next s := by
  simp [alive, h]

/-- The outcome of one that touches no page, region memory or model. -/
theorem alive_plain (s k : State) (h : s.halted = false) (hp : k.pages = s.pages) (hd : k.dev = s.dev) (hm : k.models = s.models) :
    alive s k = .next k := by
  rw [alive_running s k h, retag_same s k hp hd hm]

end Sys2Proof.Machine
end

