-- ==== Sys2Proof/Laws/Ops.lean ====
section
/-!
SUPPORT. What the shared forms of the rows do, once: a started instruction's row, a delivered message.
-/

namespace Sys2Proof.Machine

open Sys2Proof

/-- The row of a started instruction whose turn has come. -/
theorem runOp_begun {s : State} {id : Nat} {r : Running} {is : Entry → Bool} (f : Running → State) (h : Begun s id r) (his : is r.ent = true) :
    runOp s id is f = .next (retag s (f r)) := by
  obtain ⟨hh, hr, hp, ht, hw⟩ := h
  simp [runOp, alive, hh, hr, hp, ht, his, hw]

/-- The same, where it touches no page, region memory or model. -/
theorem runOp_plain {s : State} {id : Nat} {r : Running} {is : Entry → Bool} (f : Running → State) (h : Begun s id r) (his : is r.ent = true)
    (hp : (f r).pages = s.pages) (hd : (f r).dev = s.dev) (hm : (f r).models = s.models) : runOp s id is f = .next (f r) := by
  rw [runOp_begun f h his, retag_same s (f r) hp hd hm]

@[simp] theorem finish_pages (s : State) (id c : Nat) : (finish s id c).pages = s.pages := rfl
@[simp] theorem finish_dev (s : State) (id c : Nat) : (finish s id c).dev = s.dev := rfl
@[simp] theorem finish_models (s : State) (id c : Nat) : (finish s id c).models = s.models := rfl
@[simp] theorem await_pages (s : State) (id : Nat) : (await s id).pages = s.pages := rfl
@[simp] theorem await_dev (s : State) (id : Nat) : (await s id).dev = s.dev := rfl
@[simp] theorem await_models (s : State) (id : Nat) : (await s id).models = s.models := rfl

/-- A message that is taken is handled, and its LAST packet acknowledged with 0. -/
theorem delivered_taken {s : State} {h : Hdr} (k : State → State) (t : Taken s h) :
    delivered s h k = .next (retag s (ackLast (k (arrive s h).1) h 0)) := by
  obtain ⟨hh, ha, hc, hp⟩ := t
  simp [delivered, deliveredAs, awake, alive, hh, ha, hc, hp]

/-- A whole message without an epoch check that is taken is handled, and acknowledged with the code of its handling. -/
theorem deliveredAs_taken {s : State} {h : Hdr} (k : State → State × Nat) (t : TakenAs s h) :
    deliveredAs s h k = .next (retag s (ackLast (k (arrive s h).1).1 h (k (arrive s h).1).2)) := by
  obtain ⟨hh, ha, hp⟩ := t
  simp [deliveredAs, awake, alive, hh, ha, hp]

/-- The same for one that needs no firmware. -/
theorem deliveredHw_taken {s : State} {h : Hdr} (k : State → State × Nat) (t : TakenHw s h) :
    deliveredHw s h k = .next (retag s (ackLast (k (arrive s h).1).1 h (k (arrive s h).1).2)) := by
  obtain ⟨hh, ha⟩ := t
  simp [deliveredHw, alive, hh, ha]

/-- What firmware does while it does not pause. -/
theorem awake_running (s k : State) (h : s.halted = false) (p : paused s = false) : awake s k = .next (retag s k) := by
  simp [awake, alive, h, p]

/-- What firmware does waits through a pause (R501). -/
theorem awake_paused (s k : State) (p : paused s = true) : awake s k = .next s := by
  simp [awake, alive, p, retag]

end Sys2Proof.Machine
end

