-- ==== Sys2Proof/Laws/Transport.lean ====
section
/-!
SUPPORT. Handing a message to the transport changes what was sent, the fabric, the egress buckets and the free values taken, and nothing else.
-/

namespace Sys2Proof.Machine

open Sys2Proof

/-- Two states that differ in what was sent, the fabric, the egress buckets and the free values taken at most. -/
def OnlyFab (s t : State) : Prop :=
  t = { s with sent := t.sent, fab := t.fab, adm := { s.adm with shape := t.adm.shape }, free := t.free }

theorem OnlyFab.refl (s : State) : OnlyFab s s := rfl

theorem OnlyFab.trans {s t u : State} (h : OnlyFab s t) (k : OnlyFab t u) : OnlyFab s u := by
  unfold OnlyFab at *
  rw [h] at k
  exact k

/-- A fold of such changes is one. -/
theorem OnlyFab.foldl {α : Type} (f : State → α → State) (hf : ∀ s x, OnlyFab s (f s x)) (l : List α) (s : State) : OnlyFab s (l.foldl f s) := by
  induction l generalizing s with
  | nil => exact OnlyFab.refl s
  | cons x l ih => exact (hf s x).trans (ih _)

theorem shapeTake_fab (s : State) (p t b : Nat) : OnlyFab s (shapeTake s p t b) := by
  unfold shapeTake
  split <;> rfl

theorem modQp_fab (s : State) (p : QPair → Bool) (f : QPair → QPair) : OnlyFab s (modQp s p f) := rfl

theorem portTurn_fab (s : State) (p c : Nat) : OnlyFab s (portTurn s p c) := by
  unfold portTurn
  split
  · exact OnlyFab.refl s
  · split
    · exact OnlyFab.refl s
    · refine OnlyFab.trans ?_ (shapeTake_fab _ _ _ _)
      rfl

theorem portTurns_fab (p c n : Nat) (s : State) : OnlyFab s (portTurns p c n s) := by
  induction n generalizing s with
  | zero => exact OnlyFab.refl s
  | succ n ih => exact (portTurn_fab s p c).trans (ih _)

theorem launch_fab (s : State) (e : Egress) : OnlyFab s (launch s e) := by
  unfold launch
  refine OnlyFab.trans ?_ (portTurns_fab _ _ _ _)
  rfl

theorem release_fab (s : State) : OnlyFab s (release s) :=
  OnlyFab.foldl _ (fun s c => OnlyFab.foldl _ (fun s p => portTurns_fab p c _ s) _ s) _ s

theorem pumpQp_fab (s : State) (peer cls : Nat) : OnlyFab s (pumpQp s peer cls) := by
  unfold pumpQp
  split
  · exact OnlyFab.refl s
  · split
    · exact OnlyFab.refl s
    · split
      · exact OnlyFab.refl s
      · exact (modQp_fab s _ _).trans (OnlyFab.foldl _ (fun s r => launch_fab s _) _ _)

theorem qpRoom_fab (s t : State) (h : qpRoom s = some t) : OnlyFab s t := by
  unfold qpRoom at h
  split at h
  · cases h; exact OnlyFab.refl s
  · split at h
    · cases h
    · cases h; rfl

theorem establish_fab (s t : State) (peer cls : Nat) (ms : List SendMsg) (h : establish s peer cls ms = some t) : OnlyFab s t := by
  unfold establish at h
  split at h
  · cases h
  · cases hq : qpRoom s with
    | none => simp [hq] at h
    | some u =>
      simp only [hq, Option.map_some, Option.some.injEq] at h
      refine (qpRoom_fab s u hq).trans ?_
      rw [← h]
      rfl

theorem enqueue_fab (s : State) (m : SendMsg) : OnlyFab s (enqueue s m) := by
  unfold enqueue
  split
  · exact (modQp_fab s _ _).trans (pumpQp_fab _ _ _)
  · split
    · rename_i h
      exact establish_fab _ _ _ _ _ h
    · rfl

theorem transmitHeld_fab (s : State) (o : OutMsg) (tag holds : Option Nat) : OnlyFab s (transmitHeld s o tag holds) := by
  unfold transmitHeld
  dsimp only
  split
  · rfl
  · refine OnlyFab.trans ?_ (enqueue_fab _ _)
    rfl

theorem transmit_fab (s : State) (o : OutMsg) (tag : Option Nat) : OnlyFab s (transmit s o tag) := transmitHeld_fab s o tag none

theorem sendTo_fab (s t : State) (d cls : Nat) (subject : Handle) (m : Msg) (tag : Option Nat) (h : sendTo s d cls subject m tag = .ok t) : OnlyFab s t := by
  unfold sendTo at h
  split at h
  · cases h
  · cases h; exact transmit_fab _ _ _

theorem control_fab (s : State) (d : Nat) (subject : Handle) (m : Msg) : OnlyFab s (control s d subject m) := by
  unfold control
  split
  · rename_i h
    exact sendTo_fab _ _ _ _ _ _ _ h
  · exact OnlyFab.refl s

theorem reply_fab (s : State) (h : Hdr) (subject : Handle) (m : Msg) : OnlyFab s (reply s h subject m) := transmit_fab _ _ _

theorem serve_fab (s : State) : OnlyFab s (serve s) := by
  unfold serve
  refine OnlyFab.trans ?_ (release_fab _)
  refine OnlyFab.trans ?_ (OnlyFab.foldl _ (fun s q => pumpQp_fab s _ _) _ _)
  refine OnlyFab.trans ?_ (OnlyFab.foldl _ (fun s m => enqueue_fab s m) _ _)
  rfl

theorem sendAck_fab (s : State) (q : QPair) (c : Nat) : OnlyFab s (sendAck s q c) := rfl

theorem ackLast_fab (s : State) (h : Hdr) (c : Nat) : OnlyFab s (ackLast s h c) := by
  unfold ackLast
  split
  · exact sendAck_fab _ _ _
  · exact OnlyFab.refl s

/-- Such a change leaves every other field as it is. -/
theorem OnlyFab.tz {s t : State} (h : OnlyFab s t) : t.tz = s.tz := by rw [h]
theorem OnlyFab.pages {s t : State} (h : OnlyFab s t) : t.pages = s.pages := by rw [h]
theorem OnlyFab.dev {s t : State} (h : OnlyFab s t) : t.dev = s.dev := by rw [h]
theorem OnlyFab.host {s t : State} (h : OnlyFab s t) : t.host = s.host := by rw [h]
theorem OnlyFab.models {s t : State} (h : OnlyFab s t) : t.models = s.models := by rw [h]
theorem OnlyFab.own {s t : State} (h : OnlyFab s t) : t.own = s.own := by rw [h]
theorem OnlyFab.rgn {s t : State} (h : OnlyFab s t) : t.rgn = s.rgn := by rw [h]
theorem OnlyFab.cmp {s t : State} (h : OnlyFab s t) : t.cmp = s.cmp := by rw [h]
theorem OnlyFab.comps {s t : State} (h : OnlyFab s t) : t.comps = s.comps := by rw [h]
theorem OnlyFab.regs {s t : State} (h : OnlyFab s t) : t.regs = s.regs := by rw [h]
theorem OnlyFab.customers {s t : State} (h : OnlyFab s t) : t.adm.customers = s.adm.customers := by rw [h]

end Sys2Proof.Machine
end

