-- ==== Sys2Proof/Machine/Wire.lean ====
section
/-!
DEFINITION. CONTROL messages on the wire (R401): their types, and the bodies of the castling and record messages (R224) with the record (R213), the page entry (R214) and the model record
(R558) they carry.
-/

namespace Sys2Proof.Machine

open Sys2Proof

/-- A page entry as its 64 bits (R214). -/
def entryWord (e : PageEntry) : Nat := e.number % 2 ^ 40 * 2 ^ 24 + bit e.lost * 2 ^ 21 + e.tiers % 16 * 2 ^ 16 + e.tokens % 2 ^ 9

/-- Page entries as bytes. -/
def entriesWire (l : List PageEntry) : List Byte := l.flatMap (fun e => leBytes 8 (entryWord e))

/-- A record in the layout of R213. -/
def recordWire (r : SeqRecord) : List Byte :=
  leBytes 8 r.handle ++ leBytes 2 r.owner ++ leBytes 2 r.partner ++ leBytes 4 r.epoch ++ leBytes 8 r.version ++ leBytes 8 r.model ++ leBytes 8 r.pfx ++
  leBytes 4 r.prefixLen ++ leBytes 4 r.privateLen ++ leBytes 2 r.customer ++ leBytes 1 r.cls ++ leBytes 1 r.state ++ leBytes 2 r.target ++ leBytes 2 r.comp ++
  leBytes 2 r.layers ++ leBytes 2 0 ++ leBytes 4 r.pages.flatten.length ++ List.replicate 192 0 ++
  (List.range (ceilDiv (4 * r.layers) 64 * 16)).flatMap (fun l => leBytes 4 (r.pages.getD l []).length) ++ entriesWire r.pages.flatten

/-- A model descriptor record as its 64 bytes (R558). -/
def modelWire (m : ModelRec) : List Byte :=
  leBytes 1 m.layers ++ leBytes 1 m.heads ++ leBytes 1 m.kind ++ leBytes 1 m.kvHeads ++ leBytes 2 m.latent ++ leBytes 2 m.rotary ++ leBytes 2 m.keyWidth ++
  leBytes 2 m.valueWidth ++ leBytes 1 m.storage ++ leBytes 1 m.pageLog2 ++ leBytes 1 m.frame4k ++ leBytes 1 m.weightFormat ++ leBytes 4 m.window ++ leBytes 4 0 ++
  leBytes 8 m.weightAddr ++ leBytes 1 m.weightPort ++ List.replicate 31 0

/-- One item of ENTRIES (R224). -/
def itemWire (x : EntryItem) : List Byte := leBytes 4 x.layer ++ leBytes 4 x.index ++ leBytes 8 (entryWord x.entry)

/-- The body of a castling or record message (R224); every body begins with EPOCH. -/
def castleBody : Msg → List Byte
  | .offer e c p w m d => leBytes 4 e ++ leBytes 2 c ++ leBytes 2 0 ++ leBytes 8 p ++ leBytes 8 w ++ modelWire m ++ recordWire d
  | .decline e c => leBytes 4 e ++ leBytes 2 c
  | .pull e k x => leBytes 4 e ++ leBytes 1 k ++ leBytes 3 0 ++ entriesWire [x]
  | .page e k x bs => leBytes 4 e ++ leBytes 1 k ++ leBytes 3 0 ++ entriesWire [x] ++ leBytes 4 bs.length ++ leBytes 4 0 ++ bs
  | .accept e es => leBytes 4 e ++ leBytes 4 es.length ++ entriesWire es
  | .abort e c => leBytes 4 e ++ leBytes 2 c
  | .commit e t es => leBytes 4 e ++ leBytes 2 t ++ leBytes 2 0 ++ leBytes 4 es.length ++ leBytes 4 0 ++ entriesWire es
  | .committed e c v => leBytes 4 e ++ leBytes 2 c ++ leBytes 2 0 ++ leBytes 8 v
  | .ask e c sd r es => leBytes 4 e ++ leBytes 1 (bit c) ++ leBytes 1 sd ++ leBytes 1 (bit r) ++ leBytes 1 0 ++ leBytes 4 es.length ++ leBytes 4 0 ++ entriesWire es
  | .ruling e o c => leBytes 4 e ++ leBytes 2 o ++ leBytes 2 c
  | .entries e k st t c items =>
    leBytes 4 e ++ leBytes 1 k ++ leBytes 1 st ++ leBytes 2 t ++ leBytes 4 items.length ++ leBytes 2 c ++ leBytes 2 0 ++ items.flatMap itemWire
  | .entriesAck e c v => leBytes 4 e ++ leBytes 2 c ++ leBytes 2 0 ++ leBytes 8 v
  | .released e c => leBytes 4 e ++ leBytes 2 c
  | .take e | .taken e | .hold e | .release e => leBytes 4 e
  | _ => []

/-- TYPE of a CONTROL message (R224, R388, R441, R482, R497); 0 for a message that another OP carries (R400). -/
def ctrlType : Msg → Nat
  | .renew _ => 0x0401
  | .lookup _ _ _ _ => 0x0410
  | .lookupResult _ _ => 0x0411
  | .reserve _ _ => 0x0412
  | .reserved _ _ => 0x0413
  | .shardMapReq => 0x0414
  | .shardMap _ _ _ => 0x0415
  | .ref _ => 0x0416
  | .distribute _ _ _ _ | .descriptor _ => 0x0417
  | .share _ _ _ => 0x0418
  | .distributed _ => 0x0419
  | .indexCommit _ => 0x041A
  | .indexCommitted _ _ => 0x041B
  | .retire => 0x041C
  | .offer _ _ _ _ _ _ => 0x0501
  | .decline _ _ => 0x0502
  | .pull _ _ _ => 0x0503
  | .page _ _ _ _ => 0x0504
  | .accept _ _ => 0x0505
  | .abort _ _ => 0x0506
  | .commit _ _ _ => 0x0507
  | .committed _ _ _ => 0x0508
  | .take _ => 0x0509
  | .taken _ => 0x050A
  | .ask _ _ _ _ _ => 0x050B
  | .hold _ => 0x050C
  | .ruling _ _ _ => 0x050D
  | .entries _ _ _ _ _ _ => 0x050E
  | .entriesAck _ _ _ => 0x050F
  | .release _ => 0x0510
  | .released _ _ => 0x0511
  | .recordMsg _ _ => 0x0D01
  | .recordAck _ _ => 0x0D02
  | .recordDelete _ => 0x0D03
  | .treeMsg _ _ _ => 0x0D04
  | .treeAck _ => 0x0D05
  | .image _ _ _ => 0x0D06
  | .imageDone _ _ _ => 0x0D07
  | .imageAck _ => 0x0D08
  | .propose _ => 0x0E01
  | .prepare _ => 0x0E02
  | .vote _ _ => 0x0E03
  | .mapCommit _ => 0x0E04
  | .mapAbort _ _ => 0x0E05
  | .applied _ => 0x0E06
  | .beat _ _ _ => 0x0E07
  | .ringMove _ _ => 0x0E08
  | .restoreReq _ => 0x0E09
  | .drainDone => 0x0E0A
  | .result _ _ _ => 0x0E0B
  | .mcastOpen _ _ _ _ _ _ _ => 0x0F01
  | .write _ _ _ _ _ | .readReq _ _ _ _ _ | .readResp _ _ _ | .combResp _ _ _ _ _ | .combAdd _ _ _ | .combAddResp _ _ | .reduce _ _ _ _ _ _ _ _ _ _ _
  | .submit _ _ _ _ _ _ | .complete _ _ _ _ | .signal _ _ _ _ | .mcastData _ _ _ | .datagram _ => 0

/-- The payload of a castling or record message as CONTROL carries it (R401): the header with TYPE, BODY_LEN and SUBJECT, then the body. -/
def castleWire (m : OutMsg) : List Byte :=
  leBytes 2 (ctrlType m.msg) ++ leBytes 2 0 ++ leBytes 4 (castleBody m.msg).length ++ leBytes 8 m.subject ++ castleBody m.msg

end Sys2Proof.Machine
end

