-- ==== Sys2Proof/Laws/Wire.lean ====
section
/-!
SUPPORT. The bodies of the castling and record messages have the lengths that MSG_LEN gives them (R224, R401).
-/

namespace Sys2Proof.Machine

open Sys2Proof

theorem leBytes_length (n v : Nat) : (leBytes n v).length = n := by
  induction n generalizing v with
  | zero => rfl
  | succ n ih => simp only [leBytes, List.length_cons, ih]

theorem length_flatMap_const {α : Type} (l : List α) (f : α → List Byte) (k : Nat) (h : ∀ x, (f x).length = k) : (l.flatMap f).length = k * l.length := by
  induction l with
  | nil => rfl
  | cons x xs ih => simp only [List.flatMap_cons, List.length_append, List.length_cons, h, ih]; rw [Nat.mul_succ, Nat.add_comm]

theorem entriesWire_length (l : List PageEntry) : (entriesWire l).length = 8 * l.length := length_flatMap_const l _ 8 (fun _ => leBytes_length _ _)

theorem modelWire_length (m : ModelRec) : (modelWire m).length = 64 := by
  simp only [modelWire, List.length_append, leBytes_length, List.length_replicate]

theorem itemsWire_length (l : List EntryItem) : (l.flatMap itemWire).length = 16 * l.length :=
  length_flatMap_const l _ 16 (fun _ => by simp only [itemWire, List.length_append, leBytes_length])

theorem recordWire_length (r : SeqRecord) : (recordWire r).length = recordBytes r := by
  unfold recordWire recordBytes
  simp only [List.length_append, leBytes_length, List.length_replicate, entriesWire_length]
  rw [length_flatMap_const (List.range (ceilDiv (4 * r.layers) 64 * 16)) _ 4 (fun _ => leBytes_length _ _), List.length_range]
  generalize ceilDiv (4 * r.layers) 64 = c
  generalize r.pages.flatten.length = n
  omega

/-- MSG_LEN of a castling or record message is its CONTROL header and its body (R224, R401). -/
theorem castleWire_length (o : OutMsg) (h : 0x0501 ≤ ctrlType o.msg ∧ ctrlType o.msg ≤ 0x0511) : (castleWire o).length = msgBytes o.msg := by
  unfold castleWire
  cases hm : o.msg <;> simp [hm, ctrlType] at h <;>
    simp only [castleBody, msgBytes, List.length_append, leBytes_length, entriesWire_length, modelWire_length, itemsWire_length, recordWire_length, List.length_singleton] <;> omega

end Sys2Proof.Machine
end

