-- ==== Sys2Proof/Machine/FlashForms.lean ====
section
/-!
DEFINITION. What stands on flash, byte by byte (spec chapter 12): codewords (R339), frames (R341), map pages and the directory (R342), block records (R347), checkpoint copies (R355) and
journal records (R356). State holds what these forms carry; the forms follow from it.
-/

namespace Sys2Proof.Machine

open Sys2Proof

/-! ### Frames -/

/-- The header of a frame (R341): FFN and KIND, the number of blocks, what it is of, layer, index, key slot and GENERATION, and the tags, in whole sectors. -/
def frameHeader (ffn kind : Nat) (about layer index slot gen : Nat) (tags : List Nat) : List Byte :=
  let head := leBytes 6 (ffn % 2 ^ 36 + kind % 16 * 2 ^ 44) ++ leBytes 2 tags.length ++ leBytes 8 about ++ leBytes 1 layer ++ leBytes 3 index ++ leBytes 2 (slot % 1024) ++ leBytes 2 gen ++
    List.replicate 8 0 ++ tags.flatMap (leBytes 1)
  head ++ List.replicate (64 * ceilDiv head.length 64 - head.length) 0

/-- The frame of a page (R341): its header and its blocks as they are stored, in block order. -/
def pageFrame (s : State) (ffn kind : Nat) (p : Page) : List Byte :=
  match s.cx.pageTags.find? (fun t => t.number == p.number) with
  | none => []
  | some t =>
    let tags := if t.up.isEmpty then t.low else t.up
    frameHeader ffn kind p.number p.layer p.index (pageKeySlot s p) 0 tags ++
      tags.zipIdx.flatMap (fun x => if x.1 = tagZero then [] else (storeBlock s (pageKeySlot s p) 0 (pageLba p.number x.2) x.1 (pageBlock p x.2)).bytes)

/-- The frame of a map page (R342): eight blocks of entries, of the device domain. Their address is that of the map page's place above the FFNs (DEDUCED, log 24). -/
def mapFrame (s : State) (index : Nat) : List Byte :=
  let bs := chunks 2048 8 (mapPageBytes s index)
  let tags := bs.map (blockTag s 2)
  frameHeader (mapKey index) 2 index 0 0 0 0 tags ++ (bs.zip tags).zipIdx.flatMap (fun x => if x.1.2 = tagZero then [] else (storeBlock s 0 0 (8 * index + x.2) x.1.2 x.1.1).bytes)

/-! ### Codewords -/

/-- A codeword as it is programmed (R339): 64 sectors of data, the address of the first, the journal's sequence number, the CRC and the parity. -/
def codewordBytes (addr jseq : Nat) (data : List Byte) : List Byte :=
  let body := (data ++ List.replicate (4096 - data.length) 0).take 4096 ++ leBytes 6 (addr % 2 ^ 44) ++ leBytes 8 jseq ++ List.replicate 14 0
  let whole := body ++ leBytes 4 (crc32c body)
  whole ++ (List.range 480).map (fun i => Config.ldpcParity whole i)

/-- The CRC of a codeword holds (R339, R344). -/
def codewordCrcOk (cw : List Byte) : Bool := leBytes 4 (crc32c (cw.take 4124)) == (cw.drop 4124).take 4

/-! ### Block table, directory and checkpoint copies -/

/-- A block's record (R347): STATE, program/erase count, valid sectors, reads since erase; a block of the metadata area is META. -/
def blockRecord (s : State) (g : FlashGeom) (b : Nat) : List Byte :=
  let v := getB s b
  leBytes 8 ((if metaBlock g b then 4 else v.st % 16) * 2 ^ 60 + v.pe % 2 ^ 20 * 2 ^ 40 + validSectors s b % 2 ^ 20 * 2 ^ 20) ++ leBytes 8 (v.reads % 2 ^ 32 * 2 ^ 32)

/-- Every block of the geometry, in address order: the order of the block table (DEDUCED, log 24). -/
def allBlocks (g : FlashGeom) : List Nat :=
  (List.range 16).flatMap (fun ch => (List.range 8).flatMap (fun ce =>
    if natBit g.channels ch && natBit (g.ces.getD ch 0) ce then
      (List.range g.luns).flatMap (fun lun => (List.range g.planes).flatMap (fun pl => (List.range g.blocks).map (blockAddr ch ce lun pl)))
    else []))

/-- Map pages of the FFN space (R342): the data capacity over 16 KiB, 2,048 entries a page. -/
def mapPages (s : State) (g : FlashGeom) : Nat := ceilDiv (dataBlocks s g * g.pages) 2048

/-- The map directory (R342): the start sector of every map page, 0 for one without a valid entry. -/
def directoryBytes (s : State) (g : FlashGeom) : List Byte :=
  (List.range (mapPages s g)).flatMap (fun i => leBytes 8 (match s.fl.frames.find (mapKey i) with | some f => f.start | none => 0))

/-- The shard list (R355): the FFN of every frame of KIND 3, 8 bytes each (DEDUCED, log 24). -/
def shardList (s : State) : List Byte := (s.fl.frames.filter (fun x => x.2.kind == 3 && x.2.st == 2)).flatMap (fun x => leBytes 8 x.1)

/-- The body of a checkpoint copy (R355). -/
def checkpointBody (s : State) (g : FlashGeom) : List Byte := directoryBytes s g ++ (allBlocks g).flatMap (blockRecord s g) ++ shardList s

/-- The header of a checkpoint copy (R355). -/
def checkpointHeader (c : FlCopy) (body : List Byte) : List Byte :=
  let head := [0x51, 0x58, 0x39, 0x46, 0x4C, 0x4D, 0x41, 0x50] ++ leBytes 2 1 ++ List.replicate 6 0 ++ leBytes 8 c.seq ++ leBytes 8 body.length ++ leBytes 8 c.journalSeq ++
    leBytes 4 (crc32c c.geom) ++ leBytes 4 (crc32c body) ++ leBytes 6 c.warmFfn ++ List.replicate 6 0
  head ++ leBytes 4 (crc32c head)

/-- A header is that of a valid copy under the geometry record in force (R355): MAGIC, VERSION, both CRCs and GEOMETRY_CRC. -/
def checkpointValid (g : FlashGeom) (head body : List Byte) : Bool :=
  sliceBytes head 0 8 == [0x51, 0x58, 0x39, 0x46, 0x4C, 0x4D, 0x41, 0x50] && fieldBytes head 8 2 == 1 && fieldBytes head 40 4 == crc32c g.raw &&
    fieldBytes head 44 4 == crc32c body && fieldBytes head 60 4 == crc32c (head.take 60)

/-! ### The journal -/

/-- A record of the journal (R356). -/
def journalBytes (s : State) (g : FlashGeom) (j : JRec) : List Byte :=
  let w := match j.type with
    | 1 | 3 => leBytes 8 (match j.frame with | some f => mapEntry f | none => 0) ++ leBytes 8 0
    | 4 => blockRecord { s with fl := { s.fl with blocks := (match j.block with | some b => s.fl.blocks.set j.arg b | none => s.fl.blocks) } } g j.arg
    | 5 => leBytes 8 (match j.frame with | some f => f.start | none => 0) ++ leBytes 8 0
    | _ => List.replicate 16 0
  let body := leBytes 8 j.seq ++ leBytes 1 j.type ++ List.replicate 7 0 ++ leBytes 8 j.arg ++ w ++ List.replicate 20 0
  body ++ leBytes 4 (crc32c body)

end Sys2Proof.Machine
end

