-- ==== Sys2Proof/WellFormed.lean ====
section
/-!
DEFINITION. Well-formed commands: every operand fits the field that carries it (R13, R63, R85, R213, R214, R224, R388, R399, R478 to R480, R482, R497).
-/

namespace Sys2Proof

/-- A number of at most `w` bits. -/
def below (w n : Nat) : Bool := decide (n < 2 ^ w)

/-- A device ID, 15 bits (R399). -/
def deviceOk (d : Nat) : Bool := below 15 d

/-- A handle, 64 bits (R63). -/
def handleOk (h : Handle) : Bool := below 64 h

/-- A composition ID, 12 bits, or 0xFFFF outside compositions (R399). -/
def compOk (c : Nat) : Bool := below 12 c || c == 0xFFFF

/-- A PCIe port, A (0) or B (1) (R530). -/
def portOk (p : Nat) : Bool := decide (p < 2)

/-- A function of a port: the physical function or one of 63 virtual ones (R530). -/
def fnOk (f : Nat) : Bool := decide (f < 64)

/-- A queue (R69). -/
def queueOk (q : Nat) : Bool := decide (q < 4096)

/-- A tile (R45). -/
def tileOk (t : Nat) : Bool := decide (t < 32)

/-- A requester on a port. -/
def Req.ok (r : Req) : Bool := portOk r.port && fnOk r.fn && r.peer.all (below 16)

/-- Bytes stored below 2 ^ 64. -/
def Poke.ok (p : Poke) : Bool := portOk p.port && fnOk p.fn && decide (p.addr + p.bytes.length ≤ 2 ^ 64)

/-- A header's fields (R399). -/
def Hdr.ok (h : Hdr) : Bool :=
  deviceOk h.src && compOk h.comp && below 16 h.epoch && decide (h.cls < 8) && below 16 h.qp && below 8 h.inc && below 24 h.psn && decide (0 < h.packets) && h.ack.all (below 24)

/-- A page entry (R214). -/
def PageEntry.ok (e : PageEntry) : Bool := below 40 e.number && below 2 e.tiers && below 9 e.tokens

/-- An item of ENTRIES (R224). -/
def EntryItem.ok (x : EntryItem) : Bool := below 32 x.layer && below 32 x.index && x.entry.ok

/-- A record (R213); a STATE above 3 makes it damaged, not malformed. -/
def SeqRecord.ok (r : SeqRecord) : Bool :=
  handleOk r.handle && deviceOk r.owner && deviceOk r.partner && below 32 r.epoch && below 64 r.version && handleOk r.model && handleOk r.pfx && below 32 r.prefixLen &&
  below 32 r.privateLen && below 16 r.customer && below 2 r.cls && below 8 r.state && deviceOk r.target && compOk r.comp && below 16 r.layers &&
  decide (r.pages.length = r.layers) && r.pages.all (fun l => l.all PageEntry.ok)

/-- A model descriptor record (R558). -/
def ModelRec.ok (m : ModelRec) : Bool :=
  below 16 m.layers && below 16 m.heads && below 8 m.kind && below 16 m.kvHeads && below 16 m.latent && below 16 m.rotary && below 16 m.keyWidth && below 16 m.valueWidth &&
  below 8 m.storage && below 8 m.pageLog2 && below 16 m.frame4k && below 8 m.weightFormat && below 32 m.window && below 64 m.weightAddr && below 8 m.weightPort

/-- A member entry (R479). -/
def MapMember.ok (m : MapMember) : Bool :=
  deviceOk m.device && below 8 m.pers && below 16 m.domain && deviceOk m.partner && below 16 m.ring && below 16 m.position && below 16 m.ingestGroup && deviceOk m.successor

/-- A ring entry (R480). -/
def MapRing.ok (r : MapRing) : Bool :=
  below 16 r.rack && below 8 r.segment && below 8 r.kind && below 16 r.length && below 16 r.spare && deviceOk r.spareDevice

/-- A departed entry (R480). -/
def MapDeparted.ok (d : MapDeparted) : Bool := below 16 d.device && below 16 d.successor && below 32 d.epoch

/-- A map (R478); its counts are fields of 2, 1 and 2 bytes. -/
def CompMap.ok (m : CompMap) : Bool :=
  below 16 m.comp && below 32 m.epoch && below 32 m.baseEpoch && below 16 m.index && below 8 m.shards && below 16 m.drainMs && below 16 m.members.length &&
  below 8 m.rings.length && below 16 m.departed.length && m.members.all MapMember.ok && m.rings.all MapRing.ok && m.departed.all MapDeparted.ok

/-- A renewal (R388). -/
def RenewItem.ok (x : RenewItem) : Bool := handleOk x.object && portOk x.port && fnOk x.fn

/-- A match result (R121). -/
def MatchResult.ok (r : MatchResult) : Bool :=
  below 32 r.matched && handleOk r.node && below 48 r.baseVersion && handleOk r.draft && r.holders.all deviceOk && decide (r.holders.length ≤ 32) && below 32 r.shardBlocks

/-- A tree commit (R388). -/
def NodeCommit.ok (c : NodeCommit) : Bool :=
  handleOk c.parent && below 48 c.baseVersion && c.digests.all (below 128) && c.holders.all deviceOk && decide (c.holders.length ≤ 32) && below 32 c.shardBlocks

/-- An instruction word (R85). -/
def Entry.ok (e : Entry) : Bool :=
  below 8 e.opcode && below 8 e.flags && below 16 e.counter && below 16 e.customer && below 8 e.cls && below 8 e.format && below 64 e.a && below 64 e.b && below 64 e.c

/-- A combinable add's entry (R445). -/
def AddEntry.ok (x : AddEntry) : Bool := deviceOk x.device && below 16 x.qp && below 8 x.inc && below 24 x.tag && x.vals.all (below 64)

/-- A packet (R399): at most 4,096 bytes of payload. -/
def Packet.ok (p : Packet) : Bool :=
  below 32 p.key && below 48 p.off && decide (p.msgLen ≤ 0x10000000) && portOk p.port && fnOk p.fn && decide (p.bytes.length ≤ 4096)

/-- What a REDUCE asks for (R399). -/
def RedSpec.ok (r : RedSpec) : Bool := below 4 r.op && below 8 r.fmt

/-- A ring slot (R396). -/
def Slot.ok (x : Slot) : Bool :=
  deviceOk x.dest && deviceOk x.src && below 16 x.hops && decide (x.cls < 8) && below 8 x.xoff && deviceOk x.xoffSrc && deviceOk x.hungrySrc

/-- A corrected header is a slot's header. -/
def HeaderRead.ok : HeaderRead → Bool
  | .passes => true
  | .fails c => c.all Slot.ok
/-- An OPEN's destination: a SUBJECT handle, KEY 32 bits. -/
def OpenDest.ok (x : OpenDest) : Bool := handleOk x.subject && below 32 x.key
/-- A remote completion: CODE 16 bits, version 48 bits. -/
def RemoteResult.ok (x : RemoteResult) : Bool := below 16 x.code && below 48 x.version

/-- A command whose operands fit their fields. -/
def Instr.wf : Instr → Bool
  | .nop _ => true
  | .fence _ => true
  | .waitcnt _ => true
  | .signal _ => true
  | .haltq _ => true
  | .trace _ => true
  | .budgetSetRateAndBurst _ => true
  | .budgetAddCredit _ => true
  | .budgetSetWeight _ => true
  | .pmove _ => true
  | .pcopy _ => true
  | .pingest _ => true
  | .pevictVacate _ => true
  | .pevictRelease _ => true
  | .ppin _ => true
  | .punpin _ => true
  | .pmatch _ => true
  | .register _ => true
  | .revoke _ => true
  | .publish _ => true
  | .publishDraftNode _ => true
  | .discard _ => true
  | .claimCreate _ => true
  | .claimAssert _ => true
  | .castle _ => true
  | .rwrite _ => true
  | .rread _ => true
  | .mcast _ => true
  | .rreduce _ => true
  | .attend _ => true
  | .amerge _ => true
  | .expand _ => true
  | .convertRow _ => true
  | .convertBuffer _ => true
  | .gemm _ => true
  | .vop _ => true
  | .lookaheadExpiry page_ => below 40 page_
  | .deterministicPassTwoStart _ => true
  | .qdbTailWrite who q t => who.ok && queueOk q && below 16 t
  | .queueEnable who q _ => who.ok && queueOk q
  | .queueDisable who q _ => who.ok && queueOk q
  | .queueHalt who q _ => who.ok && queueOk q
  | .queueResume who q _ => who.ok && queueOk q
  | .queueFlush who q _ => who.ok && queueOk q
  | .qdbBindWrite who q _ => who.ok && queueOk q
  | .instructionFetch q pokes => queueOk q && pokes.all Poke.ok
  | .instructionStart pokes => pokes.all Poke.ok
  | .lifecycleWaitEnd _ => true
  | .instructionComplete _ => true
  | .waitcntTimeout _ => true
  | .offer h subject epoch comp privBytes weightBytes model desc => h.ok && handleOk subject && below 32 epoch && compOk comp && below 64 privBytes && below 64 weightBytes && model.ok && desc.ok
  | .decline h subject epoch code => h.ok && handleOk subject && below 32 epoch && below 16 code
  | .pull h subject epoch kind entry => h.ok && handleOk subject && below 32 epoch && decide (kind < 2) && entry.ok
  | .page h subject epoch kind entry bytes => h.ok && handleOk subject && below 32 epoch && decide (kind < 2) && entry.ok && decide (bytes.length ≤ 2 ^ 22)
  | .accept h subject epoch entries_ => h.ok && handleOk subject && below 32 epoch && entries_.all PageEntry.ok
  | .abort h subject epoch code => h.ok && handleOk subject && below 32 epoch && below 16 code
  | .commit h subject epoch target entries_ => h.ok && handleOk subject && below 32 epoch && deviceOk target && entries_.all PageEntry.ok
  | .committed h subject epoch code version => h.ok && handleOk subject && below 32 epoch && below 16 code && below 64 version
  | .take h subject epoch => h.ok && handleOk subject && below 32 epoch
  | .taken h subject epoch => h.ok && handleOk subject && below 32 epoch
  | .ask h subject epoch _ side _ entries_ => h.ok && handleOk subject && below 32 epoch && decide (side < 3) && entries_.all PageEntry.ok
  | .hold h subject epoch => h.ok && handleOk subject && below 32 epoch
  | .arbiterHoldExpiry subject device => handleOk subject && deviceOk device
  | .arbiterRule subject => handleOk subject
  | .ruling h subject epoch owner code => h.ok && handleOk subject && below 32 epoch && deviceOk owner && below 16 code
  | .castleTimeoutExpiry subject => handleOk subject
  | .entries h subject epoch kind state target comp items => h.ok && handleOk subject && below 32 epoch && decide (kind < 4) && decide (state < 4) && deviceOk target && compOk comp && items.all EntryItem.ok
  | .entriesAck h subject epoch code version => h.ok && handleOk subject && below 32 epoch && below 16 code && below 64 version
  | .release h subject epoch => h.ok && handleOk subject && below 32 epoch
  | .released h subject epoch code => h.ok && handleOk subject && below 32 epoch && below 16 code
  | .record h subject version desc => h.ok && handleOk subject && below 64 version && desc.ok
  | .recordAck h subject code version => h.ok && handleOk subject && below 16 code && below 64 version
  | .recordDelete h subject version => h.ok && handleOk subject && below 64 version
  | .mirrorRetryTimeout subject => handleOk subject
  | .preemption => true
  | .sequenceSwap subject => handleOk subject
  | .renew h items => h.ok && items.all RenewItem.ok
  | .leaseRenewalTick => true
  | .leaseExpiry object device port fn => handleOk object && deviceOk device && portOk port && fnOk fn
  | .lookup h subject comp _ _ digests => h.ok && handleOk subject && compOk comp && digests.all (below 128)
  | .lookupResult h subject code result => h.ok && handleOk subject && below 16 code && result.ok
  | .reserve h subject device digests => h.ok && handleOk subject && deviceOk device && digests.all (below 128)
  | .reserved h subject code draft => h.ok && handleOk subject && below 16 code && handleOk draft
  | .shardMapReq h subject => h.ok && handleOk subject
  | .shardMap h subject code holders shardBlocks => h.ok && handleOk subject && below 16 code && (holders.all deviceOk && decide (holders.length ≤ 32)) && below 32 shardBlocks
  | .ref h subject change => h.ok && handleOk subject && decide (change = 1 ∨ change = -1)
  | .distribute h subject layer first count _ descriptor => h.ok && handleOk subject && below 32 layer && below 32 first && below 32 count && descriptor.all ModelRec.ok
  | .share h subject ancestor first count => h.ok && handleOk subject && handleOk ancestor && below 32 first && below 32 count
  | .distributed h subject code => h.ok && handleOk subject && below 16 code
  | .indexCommit h subject c => h.ok && handleOk subject && c.ok
  | .indexCommitted h subject code version => h.ok && handleOk subject && below 16 code && below 64 version
  | .retire h subject => h.ok && handleOk subject
  | .nodeRetirement node => handleOk node
  | .tree h subject kind commit_ change => h.ok && handleOk subject && decide (1 ≤ kind ∧ kind < 4) && commit_.all NodeCommit.ok && decide (-(2 ^ 31) ≤ change ∧ change < 2 ^ 31)
  | .treeAck h subject code => h.ok && handleOk subject && below 16 code
  | .revokeDrainComplete index => below 16 index
  | .messageAbandon => true
  | .foldBack index _ => below 16 index
  | .destage => true
  | .propose h map => h.ok && map.ok
  | .prepare h map => h.ok && map.ok
  | .vote h epoch code => h.ok && below 32 epoch && below 16 code
  | .compositionCommit h epoch => h.ok && below 32 epoch
  | .compositionAbort h epoch code => h.ok && below 32 epoch && below 16 code
  | .applied h epoch => h.ok && below 32 epoch
  | .compositionResult h epoch code voter => h.ok && below 32 epoch && below 16 code && deviceOk voter
  | .voteTimeout comp => compOk comp
  | .leaderSilenceTimeout comp => compOk comp
  | .cmpMapGo who _ => who.ok
  | .beat h frames seqs _ => h.ok && below 32 frames && below 32 seqs
  | .beatSendTick => true
  | .memberLoss comp device => compOk comp && deviceOk device
  | .removedSelf comp => compOk comp
  | .ringMove h device position => h.ok && deviceOk device && below 16 position
  | .restoreReq h device => h.ok && deviceOk device
  | .drainDone h => h.ok
  | .drainDeadlineExpiry comp device => compOk comp && deviceOk device
  | .partingCastleIssue comp => compOk comp
  | .mirrorRebuild => true
  | .image h purpose offset _ => h.ok && decide (purpose = 1 ∨ purpose = 2) && below 64 offset
  | .imageDone h purpose length crc => h.ok && decide (purpose = 1 ∨ purpose = 2) && below 64 length && below 32 crc
  | .imageAck h code => h.ok && below 16 code
  | .multicastOpen h group psn dest offset len port fn => h.ok && decide (group < 4096) && below 24 psn && dest.ok && below 64 offset && below 32 len && portOk port && fnOk fn
  | .managementMessage h group _ => h.ok && decide (group < 4096)
  | .write h p => h.ok && p.ok
  | .readReq h subject _ key offset len => h.ok && handleOk subject && below 32 key && below 64 offset && below 32 len
  | .readResp h _ code off _ _ _ => h.ok && below 16 code && below 64 off
  | .reduce h p red => h.ok && p.ok && red.ok
  | .submit h tag queue port fn entry blk => h.ok && below 48 tag && queueOk queue && portOk port && fnOk fn && entry.ok && decide (blk.length ≤ 4096)
  | .complete h tag result counter => h.ok && below 48 tag && result.ok && below 16 counter
  | .ack h psn code => h.ok && below 24 psn && below 16 code
  | .nak h psn kind => h.ok && below 24 psn && decide (1 ≤ kind ∧ kind ≤ 3)
  | .connect h qp inc => h.ok && below 16 qp && below 8 inc
  | .connected h qp inc => h.ok && below 16 qp && below 8 inc
  | .close h => h.ok
  | .datagram h _ => h.ok
  | .controlUnknownType h => h.ok
  | .redirectResend _ => true
  | .retransmitTimerExpiry peer cls => deviceOk peer && decide (cls < 8)
  | .queuePairIdleClose peer cls => deviceOk peer && decide (cls < 8)
  | .ackDelayExpiry peer cls => deviceOk peer && decide (cls < 8)
  | .combinableRequest h subject key off len tag adds => h.ok && handleOk subject && below 32 key && below 48 off && below 32 len && below 48 tag && adds.all AddEntry.ok
  | .combinedResponse h tag code off _ _ adds => h.ok && below 48 tag && below 16 code && below 64 off && adds.all AddEntry.ok
  | .combinableRepeatExpiry _ => true
  | .ringSlot dir slot header => decide (dir < 2) && slot.ok && header.ok
  | .hungry dir => decide (dir < 2)
  | .ringXoffTick occupied => decide (occupied.length ≤ 7)
  | .pauseWatchdogExpiry p dest cls => decide (p < 8) && deviceOk dest && decide (cls < 8)
  | .stallHoldExpiry p dest => decide (p < 8) && deviceOk dest
  | .clearStall who p => who.ok && decide (p < 8)
  | .portEnable who p _ => who.ok && decide (p < 8)
  | .trainingComplete p => decide (p < 8)
  | .trainingFailed p => decide (p < 8)
  | .signalLoss p => decide (p < 8)
  | .relock p => decide (p < 8)
  | .relockTimeout p => decide (p < 8)
  | .adaptationWindow p => decide (p < 8)
  | .flowMonitorWindow queued => decide (queued.length ≤ 8)
  | .queuePairMove peer cls => deviceOk peer && decide (cls < 8)
  | .fabFlowKeyNextWrite who _ => who.ok
  | .flowKeyReplacementEnd => true
  | .fabShapeWrite who p t _ => who.ok && decide (p < 8) && decide (t < 8)
  | .bucketRefillTick => true
  | .admCustIdWrite who i _ => who.ok && decide (i < 4096)
  | .slotBoundary => true
  | .spindleSwap who _ => who.ok
  | .spindleSwapAbort who _ => who.ok
  | .tileFree t => tileOk t
  | .taskComplete t => tileOk t
  | .saveEnd t => tileOk t
  | .restoreEnd t => tileOk t
  | .tileWakeEnd t => tileOk t
  | .tilePowerGate t => tileOk t
  | .tilePreWake t => tileOk t
  | .crossHalfWaitExpiry _ => true
  | .tilPowerCtrlWrite who _ => who.ok
  | .memXhalfCtrlWrite who _ => who.ok
  | .dieLinkLaneLoss half groups => decide (half < 2) && below 8 groups
  | .pageFetchComplete _ => true
  | .descriptorComplete _ => true
  | .hotspotWindow means => means.all (fun x => decide (x.1 < 192))
  | .memHashNextWrite who _ => who.ok
  | .rekeyStart who _ => who.ok
  | .rekeyRow half => decide (half < 2)
  | .rekeyHoldoffExpiry => true
  | .patrolScrubSector _ channel sector error _ => decide (channel < 192) && below 25 sector && error.all (fun e => decide (e.1 < 38 ∧ 0 < e.2 ∧ e.2 < 2 ^ 16))
  | .sectorRewrite => true
  | .channelRetrain channel _ => decide (channel < 192)
  | .tableLoad who _ => who.ok
  | .cxeCompSelWrite who _ => who.ok
  | .recodeBlock _ => true
  | .keyLoad who slot => who.ok && decide (slot < 1024)
  | .keyDestroy who slot => who.ok && decide (slot < 1024)
  | .keySweep slot => decide (slot < 1024)
  | .flashRead addr step bits => below 64 addr && decide (step < 12) && below 16 bits
  | .flashProgramComplete ffn _ => below 48 ffn
  | .flashEraseComplete block _ => below 32 block
  | .flashBusyTimeout block => below 32 block
  | .journalRecord => true
  | .refresh block => below 32 block
  | .reclaim plane => below 16 plane
  | .wearRelocation plane => below 16 plane
  | .flashPatrol block _ _ => below 32 block
  | .checkpoint => true
  | .flashRecovery _ _ _ => true
  | .flashChannelRetrain channel => decide (channel < 16)
  | .flashErasureSweep => true
  | .firmwareLoad who _ => who.ok
  | .firmwareActivate who target => who.ok && decide (target < 2)
  | .handoffCommitPoint => true
  | .handoffAbort _ => true
  | .activationCancel who => who.ok
  | .deferredActivationStart => true
  | .hubWatchdogExpiry => true
  | .heartbeat who _ => who.ok
  | .heartbeatMiss p => portOk p
  | .detach who => who.ok
  | .attach who => who.ok
  | .reattachLeaseExpiry p => portOk p
  | .logEntryWrite => true
  | .logEnable who _ => who.ok
  | .logTailWrite who t => who.ok && below 32 t
  | .traceRecord point source queue customer payload => below 8 point && below 16 source && below 16 queue && below 16 customer && decide (payload.length ≤ 48)
  | .traceEnable who _ => who.ok
  | .counterAlloc who req => who.ok && decide (req.length = 64)
  | .counterFree who req => who.ok && decide (req.length = 64)
  | .counterEcho who req => who.ok && decide (req.length = 64)
  | .counterGrant who req => who.ok && decide (req.length = 64)
  | .counterFabric who req => who.ok && decide (req.length = 64)
  | .peerOpen who req => who.ok && decide (req.length = 64)
  | .peerClose who req => who.ok && decide (req.length = 64)
  | .vfAperture who req => who.ok && decide (req.length = 64)
  | .notify who req => who.ok && decide (req.length = 64)
  | .bar2Access who off n _ => who.ok && below 64 off && below 32 n
  | .functionReset p fn => portOk p && fnOk fn
  | .portReset p => portOk p
  | .deviceReset who confirm => who.ok && below 16 confirm
  | .coldReset who confirm => who.ok && below 16 confirm
  | .spdmRaiseSvn _ svn => below 32 svn
  | .spdmRevokeKeyIndex _ k => decide (k < 4)
  | .managementRequest tag _ => below 48 tag
  | .configLoad who _ _ => who.ok
  | .configEnable who _ flash => who.ok && flash.all (fun x => below 8 x.1 && below 8 x.2)
  | .configApply => true
  | .liveReEnable who _ flash => who.ok && flash.all (fun x => below 8 x.1 && below 8 x.2)
  | .replacingEnable who _ flash => who.ok && flash.all (fun x => below 8 x.1 && below 8 x.2)
  | .shutdown who _ => who.ok
  | .warmStartImport _ _ => true
  | .aonPowerGood => true
  | .oscillatorQualification _ => true
  | .bootRomDone _ => true
  | .stackTrainingComplete failed => failed.all (fun x => decide (x < 6))
  | .errorCapture _ => true
  | .errorRecordRelease who which => who.ok && decide (which < 2)
  | .errorHoldTimeout which => decide (which < 2)
  | .containedRecordLogged => true
  | .dump who _ => who.ok
  | .referenceLoss which => decide (which < 8)
  | .referenceReturn which => decide (which < 8)
  | .crystalLoss => true
  | .gateHoldOff who node => who.ok && below 12 node
  | .gateRelease who node => who.ok && below 12 node
  | .ladderTick power _ _ => below 16 power
  | .ladderClear step => decide (step = 1 ∨ step = 2)
  | .brake => true
  | .trip _ => true
  | .tripRestart => true
  | .sidebandInputChange i _ => decide (i < 6)
  | .overrunRelease i => decide (i < 6)
  | .sidebandStuck i => decide (i < 6)
  | .telemetrySample tiles stackTemps _ _ => decide (tiles.length ≤ 32) && decide (stackTemps.length ≤ 6)
  | .avsAckTimeout => true
  | .supplyDip => true
  | .jtagInstruction op => below 8 op
  | .registerWrite who off size _ => who.ok && below 64 off && decide (size = 4 ∨ size = 8)
  | .trunkFlitReceive p xoff _ _ _ _ occupied => decide (p < 8) && below 8 xoff && decide (occupied.length ≤ 7)
  | .remoteSignal h counter _ _ value => h.ok && handleOk counter && below 48 value
  | .pcieLinkTrained p width rate => portOk p && decide (width = 1 ∨ width = 2 ∨ width = 4 ∨ width = 8 ∨ width = 16) && below 16 rate
  | .fastSuppliesInRange => true
  | .aonPowerLoss => true
  | .avsAcknowledge => true
  | .combinedAddRecordExpiry => true
  | .idleLowPowerEntry unit index => decide (unit < 4) && below 16 index
  | .msiXUnmask p fn vec => portOk p && fnOk fn && below 11 vec
  | .sriovVfEnable p n => portOk p && decide (n < 64)
  | .jtagTapReset => true

end Sys2Proof
end

