-- ==== Sys2Proof/Tests/Slice0.lean ====
section
/-!
SUPPORT. Tests of the model on small states: ill-formed commands that the check refuses, decoding, single commands with results from the manual, and for each statement with
hypotheses a state and operands that meet them.
-/

namespace Sys2Proof.Machine

open Sys2Proof
set_option Elab.async false

/-! ### Small states -/

/-- Port A's physical function. -/
def pf : Req := { port := 0, fn := 0, peer := none }

/-- Port A's virtual function 5. -/
def vf : Req := { port := 0, fn := 5, peer := none }

/-- A command put at the front of the queue. -/
def putFront (c : Instr) (s : State) : State := { s with pending := c :: s.pending }

/-- A device that runs, configured as device 5 under G, with pools and a carve of 64 MiB each. -/
def live : State :=
  { State.reset with
    fwRun := 1, cfgState := 3, pers := some .generation
    cfg := { State.reset.cfg with used := 1 }
    cpm := { State.reset.cpm with aon := true, osc := true, rom := true, supplies := true, trained := true, ref100 := true }
    ident := { State.reset.ident with
      device := 5, ports := 3, frameMiB := 64, regionMiB := 64, recordMiB := 64, weightMiB := 64, capacityMiB := 147456, pinCeiling := 0x300, windows := [⟨0, 0x200000, 0x400000, false⟩] } }

/-- Queue 5 ACTIVE with 10 entries rung, queue 6 DISABLED, queue 7 HALTED, queue 8 HALTED and bound to a function of port B. -/
def qState : State :=
  { live with tz := { live.tz with queues := [
    (5, { Queue.init with state := .active, tail := 10 }), (6, Queue.init), (7, { Queue.init with state := .halted, tail := 3, head := 3 }),
    (8, { Queue.init with state := .halted, bind := 1 <<< 39 })] } }

/-- An instruction word. -/
def entryOf (op flags a b c : Nat) : Entry := { opcode := op, flags := flags, counter := 0xFFFF, customer := 1, cls := 0, format := 0, a := a, b := b, c := c }

/-- A started instruction of queue 5. -/
def runOf (e : Entry) (blk : List Byte) : Running :=
  { id := 7, queue := 5, index := 0, ent := e, blk := blk, sub := none, fid := 0, phase := .ready, charge := 0, aux := 0, codes := [], inputs := [], startAt := 0, runs := [], caught := false }

/-- A state in which one instruction has started. -/
def withRun (s : State) (r : Running) : State := { s with tz := { s.tz with started := [r], nextId := 8 } }

theorem begun_withRun (s : State) (r : Running) (h1 : s.halted = false) (h2 : r.phase = .ready) (h3 : s.til.tasks = []) (h4 : s.til.descs = []) (h5 : s.til.walks = [])
    (h6 : paused s = false := by decide) : Begun (withRun s r) r.id r := by
  have h7 : paused (withRun s r) = false := h6
  refine ⟨h1, by simp [withRun, findRun], h2, by simp [tileWorkDone, withRun, h3, h4, h5], by simp [h7]⟩

/-- Queue states with customer 1 valid and counter 3 at the brink of wrapping. -/
def cntState : State :=
  { qState with
    tz := { qState.tz with counters := [(3, { Counter.init with owner := some 0, echo := some 0x1000, count := 0xFFFFFFFFFFFF })] }
    adm := { qState.adm with customers := [(0, { Customer.init with valid := true, customer := 1, keySlot := 0 })] }, keySlots := [(0, 1)] }

/-- An instruction of three operand words started on it. -/
def runState (op a b c : Nat) : State := withRun { cntState with tz := { cntState.tz with counters := [] } } (runOf (entryOf op 0 a b c) [])

theorem begun_runState (op a b c : Nat) : Begun (runState op a b c) 7 (runOf (entryOf op 0 a b c) []) :=
  begun_withRun _ _ rfl rfl rfl rfl rfl

/-- A TRACE whose point is enabled. -/
def traceState : State := setReg (setReg (runState opTrace 5 0 0) 0xB00000 0xFFFFFFFFFFFFFFFF) 0xB00038 1

theorem begun_traceState : Begun traceState 7 (runOf (entryOf opTrace 0 5 0 0) []) := by
  refine ⟨rfl, rfl, rfl, rfl, rfl⟩

/-- A WAITCNT that waits. -/
def waitState : State := withRun cntState { runOf (entryOf opWaitcnt 0 3 1 0) [] with phase := .waiting }

/-- One whose timeout of a millisecond has run out. -/
def waitLate : State := { withRun cntState { runOf (entryOf opWaitcnt 0 3 1 1) [] with phase := .waiting } with now := 5000 }

/-- An entry fetched and not started. -/
def fetchedState : State :=
  { live with tz := { live.tz with queues := [(5, { Queue.init with state := .active, tail := 10, head := 1, fetched := [{ index := 0, ent := entryOf opNop 0 0 0 0, blk := [], sub := none, caught := false }] })] } }

/-- An instruction that has finished. -/
def doneState : State := withRun qState { runOf (entryOf opNop 0 0 0 0) [] with phase := .done 0 }

/-- An instruction that has waited for a lifecycle instruction that is gone. -/
def behindState : State := withRun qState { runOf (entryOf opNop 0 0 0 0) [] with phase := .behind }

/-- A sequence and a prefix node of this device. -/
def seqH : Handle := mkHandle 5 clsSeq 1
def nodeH : Handle := mkHandle 5 clsNode 2

/-- A model of one layer and one head. -/
def modelR : ModelRec :=
  { layers := 1, heads := 1, kind := 1, kvHeads := 1, latent := 0, rotary := 0, keyWidth := 32, valueWidth := 32, storage := 0x10, pageLog2 := 4, frame4k := 4,
    weightFormat := 0, window := 0, weightAddr := 0, weightPort := 0 }

/-- The model, held here. -/
def modelM : Model := { number := 1, desc := modelR, created := false, weightPages := 0, weights := [] }

/-- The record of the sequence, with one page of 16 positions. -/
def seqD : SeqRecord :=
  { handle := seqH, owner := 5, partner := 0x7FFF, epoch := 1, version := 1, model := mkHandle 5 clsModel 1, pfx := nullHandle, prefixLen := 0, privateLen := 16, customer := 1,
    cls := 0, state := 0, target := 0x7FFF, comp := 0xFFFF, layers := 1, pages := [[{ number := 11, lost := false, tiers := 1, tokens := 16 }]] }

/-- Its owner's copy. -/
def seqC : SeqCopy :=
  { handle := seqH, st := .owner, epoch := 1, desc := seqD, model := mkHandle 5 clsModel 1, pages := [[11]], peer := 0x7FFF, castleComp := 0xFFFF, castleInstr := none,
    claimInstr := none, weightPulls := [], pulls := [], outstanding := 0, tries := 0, waits := [], swapped := false, swapMark := 0, lastAttend := 0, resumedAt := 0, due := 0 }

/-- Its page, with a pin count. -/
def pageOf (pin : Nat) : Page :=
  { number := 11, kind := .priv, obj := seqH, layer := 0, index := 0, units := 4, stack := some ⟨0, 0, 4⟩, stackDirty := true, host := none, hostDirty := false, flash := none,
    flashDirty := false, newest := tStacks, tokens := 16, lost := false, pin := pin, refs := 0, acked := true, lookahead := false, lookAt := 0, lastRead := 0, busy := 0, pubOrder := 0,
    rows := [] }
def page0 : Page := pageOf 0

/-- All layers and tokens. -/
def spanAll : Nat := 2 ^ 24 - 1

/-- The record at its home, which is this device. -/
def seqHome : HomeRec := { desc := seqD, queue := [], inflight := none, unmirrored := false, damaged := false, castleComp := 0xFFFF, before := noDevice, arb := none, due := 0 }

/-- The sequence and its page held here. -/
def ownState (pin : Nat) : State :=
  { cntState with
    models := [modelM], pages := [pageOf pin], own := { cntState.own with homes := [seqHome], copies := [seqC] } }

/-- An instruction on it. -/
def pageState (op c pin : Nat) : State := withRun (ownState pin) (runOf (entryOf op 0 seqH spanAll c) [])

theorem begun_pageState (op c pin : Nat) : Begun (pageState op c pin) 7 (runOf (entryOf op 0 seqH spanAll c) []) :=
  begun_withRun _ _ rfl rfl rfl rfl rfl rfl

/-- A shard map of the node held here. -/
def nodeState : State := { ownState 0 with rgn := { (ownState 0).rgn with maps := [{ node := nodeH, holders := [9, 5], shardBlocks := 1, matched := 2, exact := true, model := none }] } }

/-- No page may be pinned. -/
def pageStateTight (op : Nat) : State := { pageState op 0 0 with ident := { live.ident with pinCeiling := 0 } }

/-- PEVICT in release form. -/
def releaseState : State := withRun (ownState 0) (runOf (entryOf opPevict 0x10 seqH 0 0) [])

/-- A parameter block: bytes at offsets. -/
def block (n : Nat) (fs : List (Nat × Nat × Nat)) : List Byte :=
  fs.foldl (fun b f => sliceBytes b 0 f.1 ++ leBytes f.2.1 f.2.2 ++ b.drop (f.1 + f.2.1)) (List.replicate n 0)

/-- A carve region of 8 KiB under key 4 in generation 3, readable, of composition 7; key 6 is free and was issued; key 9 never was. -/
def keyState : State :=
  { ownState 0 with
    rgn := { (ownState 0).rgn with
      keys := [(4, { KeyEntry.init with state := .live, gen := 3, issued := true, region := mkHandle 5 clsRegion 1, loc := 1, addr := carveBase, len := 8192, rights := 1, scope := 7, customer := 1 }),
        (6, { KeyEntry.init with issued := true })] } }

/-- PINGEST of one row of 64 FP32 elements for position 0 from the region; its prefix node is `node`. -/
def ingest (node key : Nat) : Running :=
  runOf (entryOf opPingest 0 (mkHandle 5 clsModel 1) seqH 0) (block 64 [(2, 1, 1), (4, 1, 1), (12, 4, 1), (22, 2, 5), (24, 4, key), (32, 4, 256), (40, 8, 256), (48, 8, node), (56, 8, seqH)])
def ingestState : State := withRun (ownState 0) (ingest nullHandle 0x30009)
def ingestGood : State := withRun keyState (ingest nullHandle 0x30004)
def ingestDraft : State := withRun keyState (ingest nodeH 0x30004)

/-- REGISTER of 4 KiB of host memory, readable, with its report at 0x9000. -/
def registerState : State := withRun cntState (runOf (entryOf opRegister 0x10 7 0 0) (block 64 [(8, 8, 0x2000), (16, 8, 4096), (24, 8, 0x9000)]))

/-- The region of key 4 is drafted, at version 5; this function's draft holds its page 1; the run is of `op` with BASE_VERSION `base`. -/
def regionH : Handle := mkHandle 5 clsRegion 1
def oneDraft : Draft := { writer := ⟨5, 0, 0⟩, startVersion := 5, units := [⟨1, [(3, 0xAB)]⟩], holds := 0, renewed := 0, term := 1000 }
def regionKey : KeyEntry := { getK keyState 4 with drafted := true, version := 5, rights := 0x1F, drafts := [oneDraft], relocated := [⟨1, [(7, 0xCD)]⟩] }
def relocState : State := setK keyState 4 regionKey
def regionState (op base : Nat) : State := withRun relocState (runOf (entryOf op 0 regionH base 0) [])
def revokingState : State := setK keyState 4 { regionKey with state := .revoking, gen := 4, revoker := some 7 }

theorem begun_region (op base : Nat) : Begun (regionState op base) 7 (runOf (entryOf op 0 regionH base 0) []) := begun_withRun _ _ rfl rfl rfl rfl rfl

/-- A draft node reserved by this device. -/
def draftNode : DraftNode :=
  { handle := nodeH, comp := 7, parent := nullHandle, digests := [1], model := none, reserver := 5, port := 0, fn := 0, renewed := 0, term := 1000, holds := 0, publisher := none,
    baseVersion := 0, awaiting := [], failed := [], published := false }
def withDraft (s : State) : State := { s with rgn := { s.rgn with drafts := [draftNode] } }
def draftNodeState : State := withRun (withDraft keyState) (runOf (entryOf opDiscard 0 nodeH 0 0) [])

/-- Composition 7 at epoch 3, of devices 5 and 9, both under G. -/
def memberOf (d : Nat) : MapMember :=
  { device := d, pers := 2, parting := false, domain := d, partner := 0x7FFF, ring := 0xFFFF, position := 0, ingestGroup := 0xFFFF, successor := 0x7FFF }
def map7 : CompMap :=
  { magicOk := true, crcOk := true, comp := 7, epoch := 3, baseEpoch := 2, index := 5, shards := 1, drainMs := 1000, members := [memberOf 5, memberOf 9], rings := [], departed := [] }

/-- The established queue pair with device 9 in a class. -/
def qp9 (cls : Nat) : QPair :=
  { peer := 9, cls := cls, num := cls, inc := 1, peerNum := cls, peerInc := 2, up := true, nextPsn := 0, expPsn := 0, msgs := [], unacked := [], tries := 1, tryPsn := 0, rto := 20,
    timer := none, owed := 0, owedAt := 0, rx := [], lastUse := 0, port := some 2, moveTo := none, movedAt := 0, moveBy := 0, rekey := false, sent := 0 }

/-- A device that is linked with device 9 by trunk port 2. -/
def linked (s : State) : State :=
  { setReg s (0x580000 + 8 * 9) 0x400 with
    comps := [{ slot := 0, map := map7, prev := none, prepared := none }]
    fab := { s.fab with
      ports := (List.range 8).map (fun p => if p = 2 then { Port.init with st := .up, role := 3, lanes := 8 } else Port.init)
      qps := [qp9 0, qp9 1, qp9 2, qp9 6] } }

/-- A message of device 9 in class 1. -/
def hdr9 : Hdr := { src := 9, comp := 7, epoch := 3, cls := 1, redirected := false, qp := 1, inc := 1, psn := 0, packets := 1, ack := none }

/-- The copy of the sequence replaced. -/
def withCopy (c : SeqCopy) (s : State) : State := { s with own := { s.own with copies := [c] } }

/-- A sequence of device 9. -/
def seqX : Handle := mkHandle 9 clsSeq 4

/-- The region may be read and written. -/
def openKey : State := setK keyState 4 { getK keyState 4 with rights := 0x1F }

/-- Every started instruction waits. -/
def waitAll (s : State) : State := { s with tz := { s.tz with started := s.tz.started.map (fun r => { r with phase := .waiting }) } }

/-- The bytes of inputs that are at hand. -/
def bytesOf : Gathered → Option (List (List Byte))
  | .bytes l => some l
  | _ => none
theorem bytesOf_some {g : Gathered} (h : (bytesOf g).isSome = true) : ∃ l, g = .bytes l := by
  cases g with
  | bytes l => exact ⟨l, rfl⟩
  | waits s => exact absurd h (by simp [bytesOf])
  | fails s c => exact absurd h (by simp [bytesOf])
theorem bytesOf_two {g : Gathered} (h : (match bytesOf g with | some (_ :: _ :: _) => true | _ => false) = true) : ∃ x y l, g = .bytes (x :: y :: l) := by
  cases g with
  | bytes l =>
    match l with
    | x :: y :: l => exact ⟨x, y, l, rfl⟩
    | [_] => exact absurd h (by simp [bytesOf])
    | [] => exact absurd h (by simp [bytesOf])
  | waits s => exact absurd h (by simp [bytesOf])
  | fails s c => exact absurd h (by simp [bytesOf])
theorem ok_of {α : Type} {x : Except Nat α} (h : x.toOption.isSome = true) : ∃ r, x = .ok r := by
  cases x with
  | ok r => exact ⟨r, rfl⟩
  | error c => exact absurd h (by simp [Except.toOption])
theorem some_of {α : Type} {x : Option α} (h : x.isSome = true) : ∃ r, x = some r := Option.isSome_iff_exists.mp h

/-! ### Ill-formed commands are refused (R13, R63, R85, R399) -/

def okEntry : PageEntry := { number := 1, lost := false, tiers := 1, tokens := 16 }
def okRing : MapRing := { rack := 0, segment := 0, kind := 1, length := 2, spare := 0, spareDevice := 0x7FFF }
def okGone : MapDeparted := { device := 6, successor := 0x7FFF, epoch := 1 }
def okMatch : MatchResult := { matched := 0, node := 0, baseVersion := 0, draft := 0, holders := [], shardBlocks := 1 }
def okCommit : NodeCommit := { parent := 0, baseVersion := 0, digests := [1], holders := [5], shardBlocks := 1 }
def okAdd : AddEntry := { device := 5, qp := 0, inc := 0, tag := 0, vals := [1] }
def okPacket : Packet := { key := 0, off := 0, msgLen := 0, first := true, last := true, ackReq := false, port := 0, fn := 0, bytes := [] }
def okRed : RedSpec := { op := 0, fmt := 0, det := false, fetch := none, rowsPer := 0, d := 0 }
def okSlot : Slot := { dest := 5, full := true, src := 9, hops := 0, cls := 0, xoff := 0, xoffSrc := 0x7FFF, hungry := false, hungrySrc := 0x7FFF, bytes := 0 }

theorem test_wf_Req : (pf).ok = true ∧ ([{ pf with port := 2 }, { pf with fn := 64 }, { pf with peer := some (2 ^ 16) }] : List Req).all (fun x => !x.ok) = true := by decide +kernel
theorem test_wf_Poke : (({ port := 0, fn := 0, addr := 0, bytes := [] } : Poke)).ok = true ∧ ([{ ({ port := 0, fn := 0, addr := 0, bytes := [] } : Poke) with port := 2 }, { ({ port := 0, fn := 0, addr := 0, bytes := [] } : Poke) with fn := 64 }, { ({ port := 0, fn := 0, addr := 0, bytes := [] } : Poke) with addr := 2 ^ 64 + 1 }] : List Poke).all (fun x => !x.ok) = true := by decide +kernel
theorem test_wf_Hdr : (hdr9).ok = true ∧ ([{ hdr9 with src := 2 ^ 15 }, { hdr9 with comp := 2 ^ 12 }, { hdr9 with epoch := 2 ^ 16 }, { hdr9 with cls := 8 }, { hdr9 with qp := 2 ^ 16 }, { hdr9 with inc := 256 }, { hdr9 with psn := 2 ^ 24 }, { hdr9 with packets := 0 }, { hdr9 with ack := some (2 ^ 24) }] : List Hdr).all (fun x => !x.ok) = true := by decide +kernel
theorem test_wf_PageEntry : (okEntry).ok = true ∧ ([{ okEntry with number := 2 ^ 40 }, { okEntry with tiers := 4 }, { okEntry with tokens := 512 }] : List PageEntry).all (fun x => !x.ok) = true := by decide +kernel
theorem test_wf_EntryItem : (({ layer := 0, index := 0, entry := okEntry } : EntryItem)).ok = true ∧ ([{ ({ layer := 0, index := 0, entry := okEntry } : EntryItem) with layer := 2 ^ 32 }, { ({ layer := 0, index := 0, entry := okEntry } : EntryItem) with index := 2 ^ 32 }, { ({ layer := 0, index := 0, entry := okEntry } : EntryItem) with entry := { okEntry with tiers := 4 } }] : List EntryItem).all (fun x => !x.ok) = true := by decide +kernel
theorem test_wf_SeqRecord : (seqD).ok = true ∧ ([{ seqD with handle := 2 ^ 64 }, { seqD with owner := 2 ^ 15 }, { seqD with partner := 2 ^ 15 }, { seqD with epoch := 2 ^ 32 }, { seqD with version := 2 ^ 64 }, { seqD with model := 2 ^ 64 }, { seqD with pfx := 2 ^ 64 }, { seqD with prefixLen := 2 ^ 32 }, { seqD with privateLen := 2 ^ 32 }, { seqD with customer := 2 ^ 16 }, { seqD with cls := 4 }, { seqD with state := 256 }, { seqD with target := 2 ^ 15 }, { seqD with comp := 2 ^ 12 }, { seqD with layers := 2 ^ 16 }, { seqD with layers := 2 }, { seqD with pages := [[{ okEntry with tiers := 4 }]] }] : List SeqRecord).all (fun x => !x.ok) = true := by decide +kernel
theorem test_wf_ModelRec : (modelR).ok = true ∧ ([{ modelR with layers := 2 ^ 16 }, { modelR with heads := 2 ^ 16 }, { modelR with kind := 256 }, { modelR with kvHeads := 2 ^ 16 }, { modelR with latent := 2 ^ 16 }, { modelR with rotary := 2 ^ 16 }, { modelR with keyWidth := 2 ^ 16 }, { modelR with valueWidth := 2 ^ 16 }, { modelR with storage := 256 }, { modelR with pageLog2 := 256 }, { modelR with frame4k := 2 ^ 16 }, { modelR with weightFormat := 256 }, { modelR with window := 2 ^ 32 }, { modelR with weightAddr := 2 ^ 64 }, { modelR with weightPort := 256 }] : List ModelRec).all (fun x => !x.ok) = true := by decide +kernel
theorem test_wf_MapMember : (memberOf 5).ok = true ∧ ([{ memberOf 5 with device := 2 ^ 15 }, { memberOf 5 with pers := 256 }, { memberOf 5 with domain := 2 ^ 16 }, { memberOf 5 with partner := 2 ^ 15 }, { memberOf 5 with ring := 2 ^ 16 }, { memberOf 5 with position := 2 ^ 16 }, { memberOf 5 with ingestGroup := 2 ^ 16 }, { memberOf 5 with successor := 2 ^ 15 }] : List MapMember).all (fun x => !x.ok) = true := by decide +kernel
theorem test_wf_MapRing : (okRing).ok = true ∧ ([{ okRing with rack := 2 ^ 16 }, { okRing with segment := 256 }, { okRing with kind := 256 }, { okRing with length := 2 ^ 16 }, { okRing with spare := 2 ^ 16 }, { okRing with spareDevice := 2 ^ 15 }] : List MapRing).all (fun x => !x.ok) = true := by decide +kernel
theorem test_wf_MapDeparted : (okGone).ok = true ∧ ([{ okGone with device := 2 ^ 16 }, { okGone with successor := 2 ^ 16 }, { okGone with epoch := 2 ^ 32 }] : List MapDeparted).all (fun x => !x.ok) = true := by decide +kernel
theorem test_wf_CompMap : (map7).ok = true ∧ ([{ map7 with comp := 2 ^ 16 }, { map7 with epoch := 2 ^ 32 }, { map7 with baseEpoch := 2 ^ 32 }, { map7 with index := 2 ^ 16 }, { map7 with shards := 256 }, { map7 with drainMs := 2 ^ 16 }, { map7 with members := [{ memberOf 5 with pers := 256 }] }, { map7 with rings := [{ okRing with kind := 256 }] }, { map7 with departed := [{ okGone with epoch := 2 ^ 32 }] }, { map7 with rings := List.replicate 256 okRing }] : List CompMap).all (fun x => !x.ok) = true := by decide +kernel
theorem test_wf_RenewItem : (({ object := 0, port := 0, fn := 0 } : RenewItem)).ok = true ∧ ([{ ({ object := 0, port := 0, fn := 0 } : RenewItem) with object := 2 ^ 64 }, { ({ object := 0, port := 0, fn := 0 } : RenewItem) with port := 2 }, { ({ object := 0, port := 0, fn := 0 } : RenewItem) with fn := 64 }] : List RenewItem).all (fun x => !x.ok) = true := by decide +kernel
theorem test_wf_MatchResult : (okMatch).ok = true ∧ ([{ okMatch with matched := 2 ^ 32 }, { okMatch with node := 2 ^ 64 }, { okMatch with baseVersion := 2 ^ 48 }, { okMatch with draft := 2 ^ 64 }, { okMatch with holders := [2 ^ 15] }, { okMatch with holders := List.replicate 33 5 }, { okMatch with shardBlocks := 2 ^ 32 }] : List MatchResult).all (fun x => !x.ok) = true := by decide +kernel
theorem test_wf_NodeCommit : (okCommit).ok = true ∧ ([{ okCommit with parent := 2 ^ 64 }, { okCommit with baseVersion := 2 ^ 48 }, { okCommit with digests := [2 ^ 128] }, { okCommit with holders := [2 ^ 15] }, { okCommit with holders := List.replicate 33 5 }, { okCommit with shardBlocks := 2 ^ 32 }] : List NodeCommit).all (fun x => !x.ok) = true := by decide +kernel
theorem test_wf_Entry : (entryOf 0 0 0 0 0).ok = true ∧ ([{ entryOf 0 0 0 0 0 with opcode := 256 }, { entryOf 0 0 0 0 0 with flags := 256 }, { entryOf 0 0 0 0 0 with counter := 2 ^ 16 }, { entryOf 0 0 0 0 0 with customer := 2 ^ 16 }, { entryOf 0 0 0 0 0 with cls := 256 }, { entryOf 0 0 0 0 0 with format := 256 }, { entryOf 0 0 0 0 0 with a := 2 ^ 64 }, { entryOf 0 0 0 0 0 with b := 2 ^ 64 }, { entryOf 0 0 0 0 0 with c := 2 ^ 64 }] : List Entry).all (fun x => !x.ok) = true := by decide +kernel
theorem test_wf_AddEntry : (okAdd).ok = true ∧ ([{ okAdd with device := 2 ^ 15 }, { okAdd with qp := 2 ^ 16 }, { okAdd with inc := 256 }, { okAdd with tag := 2 ^ 24 }, { okAdd with vals := [2 ^ 64] }] : List AddEntry).all (fun x => !x.ok) = true := by decide +kernel
theorem test_wf_Packet : (okPacket).ok = true ∧ ([{ okPacket with key := 2 ^ 32 }, { okPacket with off := 2 ^ 48 }, { okPacket with msgLen := 0x10000001 }, { okPacket with port := 2 }, { okPacket with fn := 64 }, { okPacket with bytes := List.replicate 4097 0 }] : List Packet).all (fun x => !x.ok) = true := by decide +kernel
theorem test_wf_RedSpec : (okRed).ok = true ∧ ([{ okRed with op := 16 }, { okRed with fmt := 256 }] : List RedSpec).all (fun x => !x.ok) = true := by decide +kernel
theorem test_wf_Slot : (okSlot).ok = true ∧ ([{ okSlot with dest := 2 ^ 15 }, { okSlot with src := 2 ^ 15 }, { okSlot with hops := 2 ^ 16 }, { okSlot with cls := 8 }, { okSlot with xoff := 256 }, { okSlot with xoffSrc := 2 ^ 15 }, { okSlot with hungrySrc := 2 ^ 15 }] : List Slot).all (fun x => !x.ok) = true := by decide +kernel
theorem test_wf_queues : ([.qdbTailWrite pf 4096 0, .qdbTailWrite pf 0 (2 ^ 16), .queueEnable pf 4096 0, .queueDisable pf 4096 0, .queueHalt pf 4096 0, .queueResume pf 4096 0, .queueFlush pf 4096 0, .qdbBindWrite pf 4096 0, .instructionFetch 4096 [], .queueEnable { pf with port := 2 } 0 0, .lookaheadExpiry (2 ^ 40)] : List Instr).all (fun c => !c.wf) = true := by decide +kernel
theorem test_wf_castling : ([.offer hdr9 (2 ^ 64) 0 0 0 0 modelR seqD, .offer hdr9 0 (2 ^ 32) 0 0 0 modelR seqD, .offer hdr9 0 0 (2 ^ 12) 0 0 modelR seqD, .offer hdr9 0 0 0 (2 ^ 64) 0 modelR seqD, .offer hdr9 0 0 0 0 (2 ^ 64) modelR seqD, .decline hdr9 0 0 (2 ^ 16), .pull hdr9 0 0 2 okEntry, .page hdr9 0 0 2 okEntry [], .abort hdr9 0 0 (2 ^ 16), .commit hdr9 0 0 (2 ^ 15) [], .committed hdr9 0 0 0 (2 ^ 64), .take hdr9 0 (2 ^ 32), .taken hdr9 (2 ^ 64) 0, .ask hdr9 0 0 true 3 false [], .hold hdr9 0 (2 ^ 32), .arbiterHoldExpiry 0 (2 ^ 15), .arbiterRule (2 ^ 64), .ruling hdr9 0 0 (2 ^ 15) 0, .castleTimeoutExpiry (2 ^ 64), .entries hdr9 0 0 4 0 0 0 [], .entries hdr9 0 0 0 4 0 0 [], .entriesAck hdr9 0 0 (2 ^ 16) 0, .release hdr9 0 (2 ^ 32), .released hdr9 0 0 (2 ^ 16), .record hdr9 0 (2 ^ 64) seqD, .recordAck hdr9 0 (2 ^ 16) 0, .recordDelete hdr9 0 (2 ^ 64), .mirrorRetryTimeout (2 ^ 64), .sequenceSwap (2 ^ 64), .accept hdr9 0 0 [{ okEntry with tiers := 4 }], .take { hdr9 with cls := 8 } 0 0] : List Instr).all (fun c => !c.wf) = true := by decide +kernel
theorem test_wf_publishing : ([.renew hdr9 [{ object := 2 ^ 64, port := 0, fn := 0 }], .leaseExpiry 0 (2 ^ 15) 0 0, .lookup hdr9 0 (2 ^ 12) false false [], .lookup hdr9 0 0 false false [2 ^ 128], .lookupResult hdr9 0 (2 ^ 16) okMatch, .reserve hdr9 0 (2 ^ 15) [], .reserved hdr9 0 0 (2 ^ 64), .shardMapReq hdr9 (2 ^ 64), .shardMap hdr9 0 0 [] (2 ^ 32), .ref hdr9 0 2, .ref hdr9 0 0, .distribute hdr9 0 (2 ^ 32) 0 0 [] none, .share hdr9 0 (2 ^ 64) 0 0, .distributed hdr9 0 (2 ^ 16), .indexCommit hdr9 0 { okCommit with shardBlocks := 2 ^ 32 }, .indexCommitted hdr9 0 0 (2 ^ 64), .retire hdr9 (2 ^ 64), .nodeRetirement (2 ^ 64), .tree hdr9 0 0 none 0, .tree hdr9 0 4 none 0, .tree hdr9 0 1 none (2 ^ 31), .treeAck hdr9 0 (2 ^ 16), .revokeDrainComplete (2 ^ 16), .foldBack (2 ^ 16) 0] : List Instr).all (fun c => !c.wf) = true := by decide +kernel
theorem test_wf_composition : ([.propose hdr9 { map7 with shards := 256 }, .prepare hdr9 { map7 with epoch := 2 ^ 32 }, .vote hdr9 (2 ^ 32) 0, .compositionCommit hdr9 (2 ^ 32), .compositionAbort hdr9 0 (2 ^ 16), .applied hdr9 (2 ^ 32), .compositionResult hdr9 0 0 (2 ^ 15), .voteTimeout (2 ^ 12), .leaderSilenceTimeout (2 ^ 12), .cmpMapGo { pf with fn := 64 } 0, .beat hdr9 (2 ^ 32) 0 false, .memberLoss 0 (2 ^ 15), .removedSelf (2 ^ 12), .ringMove hdr9 0 (2 ^ 16), .restoreReq hdr9 (2 ^ 15), .drainDeadlineExpiry 0 (2 ^ 15), .partingCastleIssue (2 ^ 12), .image hdr9 3 0 [], .imageDone hdr9 1 0 (2 ^ 32), .imageAck hdr9 (2 ^ 16)] : List Instr).all (fun c => !c.wf) = true := by decide +kernel
theorem test_wf_fabric : ([.multicastOpen hdr9 4096 0 ⟨nullHandle, 0⟩ 0 0 0 0, .multicastOpen hdr9 0 (2 ^ 24) ⟨nullHandle, 0⟩ 0 0 0 0, .multicastOpen hdr9 0 0 ⟨nullHandle, 2 ^ 32⟩ 0 0 0 0, .managementMessage hdr9 4096 0, .write hdr9 { okPacket with fn := 64 }, .readReq hdr9 0 0 (2 ^ 32) 0 0, .reduce hdr9 okPacket { okRed with op := 16 }, .submit hdr9 (2 ^ 48) 0 0 0 (entryOf 0 0 0 0 0) [], .submit hdr9 0 0 0 0 (entryOf 0 0 0 0 0) (List.replicate 4097 0), .complete hdr9 0 ⟨0, 0⟩ (2 ^ 16), .complete hdr9 0 ⟨2 ^ 16, 0⟩ 0, .complete hdr9 0 ⟨0, 2 ^ 48⟩ 0, .ack hdr9 (2 ^ 24) 0, .nak hdr9 0 4, .connect hdr9 (2 ^ 16) 0, .connected hdr9 0 256, .retransmitTimerExpiry 0 8, .queuePairIdleClose 0 8, .ackDelayExpiry (2 ^ 15) 0, .combinableRequest hdr9 0 0 (2 ^ 48) 0 0 [], .combinedResponse hdr9 0 (2 ^ 16) 0 false [] [], .ringSlot 2 okSlot .passes, .ringSlot 0 okSlot (.fails (some { okSlot with dest := 2 ^ 15 })), .hungry 2, .ringXoffTick (List.replicate 8 0), .pauseWatchdogExpiry 8 0 0, .stallHoldExpiry 8 0, .clearStall pf 8, .portEnable pf 8 0, .trainingComplete 8, .trainingFailed 8, .signalLoss 8, .relock 8, .relockTimeout 8, .adaptationWindow 8, .flowMonitorWindow (List.replicate 9 0), .queuePairMove 0 8, .fabShapeWrite pf 0 8 0, .remoteSignal hdr9 0 false false (2 ^ 48)] : List Instr).all (fun c => !c.wf) = true := by decide +kernel
theorem test_wf_engines : ([.admCustIdWrite pf 4096 0, .tileFree 32, .taskComplete 32, .saveEnd 32, .restoreEnd 32, .tileWakeEnd 32, .tilePowerGate 32, .tilePreWake 32, .dieLinkLaneLoss 2 0, .dieLinkLaneLoss 0 256, .hotspotWindow [(192, 0)], .rekeyRow 2, .channelRetrain 192 false, .keyLoad pf 1024, .keyDestroy pf 1024, .keySweep 1024, .flashRead (2 ^ 64) 0 0, .flashRead 0 12 0, .flashProgramComplete (2 ^ 48) false, .flashEraseComplete (2 ^ 32) false, .flashBusyTimeout (2 ^ 32), .refresh (2 ^ 32), .reclaim (2 ^ 16), .wearRelocation (2 ^ 16), .flashChannelRetrain 16] : List Instr).all (fun c => !c.wf) = true := by decide +kernel
theorem test_wf_hosts : ([.firmwareActivate pf 2, .heartbeatMiss 2, .reattachLeaseExpiry 2, .logTailWrite pf (2 ^ 32), .traceRecord 256 0 0 0 [], .traceRecord 0 0 0 0 (List.replicate 49 0), .counterAlloc pf [], .counterFree pf [], .counterEcho pf [], .counterGrant pf [], .counterFabric pf [], .peerOpen pf [], .peerClose pf [], .vfAperture pf [], .notify pf [], .bar2Access pf (2 ^ 64) 0 none, .functionReset 0 64, .portReset 2, .deviceReset pf (2 ^ 16), .coldReset pf (2 ^ 16), .spdmRaiseSvn true (2 ^ 32), .spdmRevokeKeyIndex true 4, .managementRequest (2 ^ 48) .fru, .msiXUnmask 0 0 2048, .sriovVfEnable 0 64] : List Instr).all (fun c => !c.wf) = true := by decide +kernel
theorem test_wf_hub : ([.configEnable pf 0 (some (256, 0)), .liveReEnable pf 0 (some (0, 256)), .replacingEnable pf 0 (some (256, 0)), .stackTrainingComplete [6], .errorRecordRelease pf 2, .errorHoldTimeout 2, .referenceLoss 8, .referenceReturn 8, .gateHoldOff pf 4096, .gateRelease pf 4096, .ladderTick (2 ^ 16) 0 false, .ladderClear 3, .sidebandInputChange 6 true, .overrunRelease 6, .sidebandStuck 6, .telemetrySample (List.replicate 33 0) [] [] [], .telemetrySample [] (List.replicate 7 0) [] [], .jtagInstruction 256, .registerWrite pf 0 2 0, .pcieLinkTrained 0 3 0, .idleLowPowerEntry 4 0, .shutdown { pf with port := 2 } 0] : List Instr).all (fun c => !c.wf) = true := by decide +kernel
/-- Well-formed commands of each family are accepted. -/
theorem test_wf_accepts : ([.nop 1, .qdbTailWrite pf 4095 65535, .commit hdr9 seqH 1 9 [okEntry], .propose hdr9 map7, .write hdr9 okPacket, .ringSlot 1 okSlot (.fails none), .bar2Access vf 0 4 none,
    .telemetrySample [] [] [] [], .registerWrite pf 0x40 4 0] : List Instr).all Instr.wf = true := by decide +kernel
/-- The table gives no row bits, so no word spells a command and a fetch word changes nothing. -/
theorem test_decode (n w : Nat) (s : State) : decodeTableWord n w = none ∧ s.withFetchWord n w = s := ⟨rfl, rfl⟩

/-! ### The manual's worked examples -/

/-- The handles of spec/03's worked example (R63). -/
theorem test_handles : mkHandle 0x0213 clsSeq 0x41A2B = 0x0426010000041A2B ∧ mkHandle 0x0388 clsModel 3 = 0x0710050000000003 := by decide
/-- The 32 bytes of its ATTEND (R85). -/
theorem test_entry :
    entryOfBytes [0x40, 0x03, 0x42, 0x00, 0x17, 0x0A, 0x00, 0x02, 0x03, 0x00, 0x00, 0x00, 0x00, 0x05, 0x10, 0x07, 0x2B, 0x1A, 0x04, 0x00, 0x00, 0x01, 0x26, 0x04, 0x00, 0x34, 0x12, 0x00, 0x40, 0x00, 0x00, 0x00] =
      { opcode := 0x40, flags := 3, counter := 0x42, customer := 0x0A17, cls := 0, format := 2, a := 0x0710050000000003, b := 0x0426010000041A2B, c := 0x0000004000123400 } := by decide +kernel
/-- spec/07's deterministic merge: the weights, the cells and the rounded outputs (R203 to R207). -/
def cellOf (units : Int) : Cell96 := ⟨BitVec.ofInt 96 (units * 2 ^ 38), 0, false⟩
theorem test_merge_weights : (exp32 (.fin true 3 (-1))).dy? = some ⟨14974012, -26⟩ ∧ (exp32 (.fin true 3 (-2))).dy? = some ⟨15849991, -25⟩ := by decide +kernel
theorem test_merge_terms :
    ((Cell96.empty.addTerm (.fin false 1 0)).addTerm (.fin false 14974012 (-26))) = cellOf 82082876 ∧ ((Cell96.empty.addTerm (.fin false 3 (-1))).addTerm (.fin true (3 * 14974012) (-28))) = cellOf 89432787 ∧
    (cellOf 82082876).add (cellOf 31699982) = cellOf 113782858 ∧ (cellOf 15849991).add (cellOf 89432787) = cellOf 105282778 := by decide +kernel
theorem test_merge_output : Cell96.quot .fp32 (cellOf 105282778) (cellOf 113782858) = 0x3F6CE02C ∧ Cell96.quot .bf16 (cellOf 105282778) (cellOf 113782858) = 0x3F6D := by decide +kernel
/-- spec/16's advances of virtual time (R471) and its policing (R466): Tollbrae's level 100,000 of a burst of 168,000. -/
def tollbrae (level : Nat) : State :=
  { cntState with adm := { cntState.adm with customers := [(0, { Customer.init with valid := true, customer := 1, weight := 1, rate := 16800, burst := 168000, level := level * 1000 })] } }
theorem test_advance : ceilDiv (25 * 65536) 3 = 546134 ∧ ceilDiv (3 * 65536) 3 = 65536 ∧ ceilDiv (25 * 65536) 1 = 1638400 := by decide
theorem test_policing :
    (admitEntry (tollbrae 100000) 5 (entryOf opPmove 0 0 0 0) 182401).2 = Code.admBudgetExhausted ∧ (admitEntry (tollbrae 100000) 5 (entryOf opPmove 0 0 0 0) 91201).2 = Code.ok ∧
    ((admitEntry (tollbrae 100000) 5 (entryOf opPmove 0 0 0 0) 91201).1.adm.customers.get Customer.init 0).level = 8799 * 1000 ∧
    (admitEntry (tollbrae 8799) 5 (entryOf opPmove 0 0 0 0) 91201).2 = Code.admPoliced := by decide +kernel
/-- spec/21's error during error handling: word 0 of both records, then the fatal state with CAUSE 3 (R578 to R584). -/
def watchdogErr : State := raiseErr live 0x07 3 sevDegraded 0x0603 0 0
def scrubErr : State := raiseErr watchdogErr 0x02 120 sevContained 0x0306 0 0
theorem test_errors :
    watchdogErr.err.primary.map ErrRec.word0 = some 0x9B07000300000603 ∧ scrubErr.err.secondary.map ErrRec.word0 = some 0xDA02007800000306 ∧ scrubErr.halted = false ∧
    (raiseErr scrubErr 0x02 121 sevContained 0x0306 0 0).halted = true ∧ (raiseErr scrubErr 0x02 121 sevContained 0x0306 0 0).err.cause = 3 ∧
    (raiseErr scrubErr 0x02 121 sevContained 0x0306 0 0).err.ovCount = 1 := by decide +kernel
/-- spec/19's opening of queue 17: the physical function binds it, virtual function 5 sets its base and enables it; ENABLE reads back 1 (R74). -/
def queue17 : State :=
  { setReg live 0 0 with hosts := [{ HostPort.init with vfs := 63, link := true }, HostPort.init], regs := [], tz := { live.tz with counters := [(0x42, { Counter.init with owner := some 5 })] } }
def queue17Bound : State := match exec (.registerWrite pf 0x40460 8 0x0000000500010A17) queue17 with | .next t => t | _ => queue17
def queue17Based : State := match exec (.registerWrite vf 0x40450 8 0x0000004000100001) queue17Bound with | .next t => t | _ => queue17
theorem test_queue17_bind : (getQ queue17Bound 17).fid = 5 ∧ regRead queue17Bound 0 0x40460 = 0x0000000500010A17 := by decide +kernel
theorem test_queue17_base :
    regRead queue17Based 0 0x40450 = 0x0000004000100001 ∧
    (match exec (.registerWrite { vf with peer := some 0x4100 } 0x40450 8 1) queue17Based with | .next t => decide (t = queue17Based) | _ => false) = true := by decide +kernel
theorem test_queue17_enable :
    (match exec (.registerWrite vf 0x40458 8 0x00003E8001020211) queue17Based with | .next t => bitOf (regRead t 0 0x40458) 0 && decide ((getQ t 17).state = .active) | _ => false) = true := by decide +kernel
/-- spec/22's bouncing brake: the edge 40 µs after the event is an overrun, and the input stays asserted (R608). -/
def brakePin (x : SbIn) : State := { live with now := 41, cpm := { live.cpm with sb := live.cpm.sb.set 0 x } }
theorem test_brake :
    (match exec (.sidebandInputChange 0 false) (brakePin { SbIn.off with filtered := true, effective := true, last := some 1 }) with
      | .next t => (sbIn t 0).held && (sbIn t 0).effective && (sbIn t 0).overrun | _ => false) = true ∧
    (match exec .brake (brakePin { SbIn.off with filtered := true, effective := true, last := some 1 }) with | .next t => t.ladder == 3 | _ => false) = true := by decide +kernel
/-- spec/11's page 0x12345 of device 0x0388: the address and the tweak of its block 3 (R325). -/
theorem test_tweak : pageLba 0x12345 3 = 0x80000091A283 ∧ tweakOf 0x0388 0 (pageLba 0x12345 3) = 0x0388000080000091A283 := by decide
/-- A table of three symbols, literals 5 and 6 and a run of 4 zeros: canonical codewords 0, 10 and 11 (R312). -/
def smallTable : TableSlot :=
  { TableSlot.free with lens := (((List.replicate 288 0).set 5 1).set 6 2).set 256 2, runs := [4] }
theorem test_codewords : smallTable.code 5 = some (1, 0) ∧ smallTable.code 6 = some (2, 2) ∧ smallTable.code 256 = some (2, 3) ∧ smallTable.code 7 = none := by decide +kernel
/-- Its stream of 5, four zeros, 6 is 0 11 10 from bit 0 upward (R312, R313). -/
theorem test_stream : bitBytes 1 ((smallTable.symbols 9 [5, 0, 0, 0, 0, 6]).flatMap smallTable.word) = [0x0E] := by decide +kernel
/-- The decoder gives the bytes back, and none where a run carries past the end or the stream ends too soon (R314). -/
theorem test_decoder :
    smallTable.decode 9 (byteBits [0x0E]) 6 = some [5, 0, 0, 0, 0, 6] ∧ smallTable.decode 9 (byteBits [0x0E]) 3 = none ∧ smallTable.decode 30 (byteBits [0x0E]) 20 = none := by
  decide +kernel
/-- The generator of R328 multiplied out by hand: x^4 + 15 x^3 + 54 x^2 + 120 x + 64. -/
theorem test_generator : generator = [64, 120, 54, 15, 1] := by decide +kernel
/-- A sector with its check bytes reads clean; one wrong symbol is corrected, two are not (R329). -/
theorem test_checkBytes :
    wordRead (readWord 0x1240 (List.replicate 64 0xA5) []) = 0 ∧ wordRead (readWord 0x1240 (List.replicate 64 0xA5) [(9, 0x1234)]) = 1 ∧
    wordRead (readWord 0x1240 (List.replicate 64 0xA5) [(9, 0x1234), (20, 1)]) = 2 := by decide +kernel
/-- CRC-32C of the nine digits, as the standard's check value (R553). -/
theorem test_crc : crc32c [0x31, 0x32, 0x33, 0x34, 0x35, 0x36, 0x37, 0x38, 0x39] = 0xE3069283 := by decide +kernel
/-- The first step takes the command at the front; with none waiting a microsecond passes. -/
theorem test_step : step (putFront .jtagTapReset live) = exec .jtagTapReset live ∧ (match step live with | .next t => t.now == 1 | _ => false) = true := ⟨rfl, by decide +kernel⟩


theorem wit_StepTakesTheFrontCommand : (putFront .leaseRenewalTick State.reset).pending = [.leaseRenewalTick] ∧ State.reset.pending = [] := by decide


theorem wit_TailWriteRows :
    qState.halted = false ∧ mayRing qState pf 5 = true ∧ (getQ qState 5).state = .active ∧ (getQ qState 5).tail ≤ 64 ∧ 64 ≤ (getQ qState 5).head + (getQ qState 5).size ∧
    (getQ qState 5).head + (getQ qState 5).size < 65 ∧ (getQ qState 5).head < 64 ∧ (inFlight qState 5).length < 256 ∧ fetching qState = true ∧ 0 < (getQ qState 5).tail ∧
    mayRing qState pf 6 = true ∧ (getQ qState 6).state = .disabled := by decide


theorem wit_HaltQueueOperation : (getQ qState 5).state = .active ∧ (getQ qState 6).state = .disabled ∧ 5 ≠ 6 := by decide


theorem wit_QueueControlWrites :
    qState.halted = false ∧ ownsQueue qState pf 5 = true ∧ ownsQueue qState pf 6 = true ∧ (getQ qState 6).state = .disabled ∧ qState.fwRun = 1 ∧ enabled qState = true ∧
    bitOf ((0x3E8001020000 : W64) ||| 1) 0 = true ∧ bitOf ((0x3E8001020000 : W64) ||| 1) 1 = false ∧ bitOf ((0x3E8001020000 : W64) ||| 1) 2 = false ∧
    bitOf ((0x3E8001020000 : W64) ||| 1) 3 = false ∧ bitOf ((1 : W64) ||| 2) 0 = true ∧ bitOf ((1 : W64) ||| 2) 1 = true ∧ bitOf ((1 : W64) ||| 2) 2 = false ∧
    bitOf ((1 : W64) ||| 2) 3 = false ∧ bitOf ((1 : W64) ||| 4) 0 = true ∧ bitOf ((1 : W64) ||| 4) 1 = false ∧ bitOf ((1 : W64) ||| 4) 2 = true ∧ bitOf ((1 : W64) ||| 4) 3 = false ∧
    bitOf ((1 : W64) &&& ~~~1) 0 = false ∧ bitOf ((1 : W64) ||| 8) 3 = true ∧ bitOf ((1 : W64) ||| 8) 1 = false ∧ bitOf ((1 : W64) ||| 8) 2 = false ∧
    (getQ qState 5).state = .active ∧ (getQ qState 7).state = .halted ∧ ownsQueue qState pf 7 = true ∧ (getQ qState 7).fetched = [] ∧ (getQ qState 7).tail ≤ (getQ qState 7).head ∧
    pf.fn = 0 := by decide

theorem wit_ControlRowsFinish :
    (∃ r, Begun (runState opNop 0 0 0) 7 r ∧ r.ent.opcode = opNop) ∧ (∃ r, Begun (runState opFence 0 0 0) 7 r ∧ r.ent.opcode = opFence) ∧
    (∃ r, Begun (runState opTrace 0xFF 0 0) 7 r ∧ r.ent.opcode = opTrace ∧ traceOn (runState opTrace 0xFF 0 0) 0xFF = false) ∧
    (∃ r, Begun traceState 7 r ∧ r.ent.opcode = opTrace ∧ traceOn traceState (r.ent.a % 256) = true) ∧
    (∃ r, Begun (runState opWaitcnt 3 0 0) 7 r ∧ r.ent.b ≤ (getC (runState opWaitcnt 3 0 0) 3).count) ∧
    (∃ r, Begun (runState opWaitcnt 3 1 0) 7 r ∧ (getC (runState opWaitcnt 3 1 0) 3).count < r.ent.b) ∧
    (∃ r, Begun (runState opHaltq 5 0 0) 7 r ∧ (getQ (runState opHaltq 5 0 0) 5).fid = r.fid ∧ (getQ (runState opHaltq 5 0 0) 5).state = .active) ∧
    (getQ (runState opHaltq 7 0 0) 7).state = .halted ∧ (getQ (runState opHaltq 6 0 0) 6).state = .disabled ∧ (getQ (runState opHaltq 8 0 0) 8).fid ≠ 0 ∧
    (getQ (runState opHaltq 8 0 0) 8).fid / 64 ≠ 0 ∧ (∃ r, findRun waitState 7 = some r ∧ r.ent.opcode = opWaitcnt ∧ r.phase = .waiting ∧ scheduling waitState = true ∧ waitState.now < r.startAt + waitPeriod waitState r) ∧
    (∃ r, findRun waitLate 7 = some r ∧ r.ent.opcode = opWaitcnt ∧ r.phase = .waiting ∧ scheduling waitLate = true ∧ r.startAt + waitPeriod waitLate r ≤ waitLate.now) := by
  refine ⟨⟨_, begun_runState _ _ _ _, rfl⟩, ⟨_, begun_runState _ _ _ _, rfl⟩, ⟨_, begun_runState _ _ _ _, rfl, by decide⟩, ⟨_, begun_traceState, rfl, by decide⟩,
    ⟨_, begun_runState _ _ _ _, by decide⟩, ⟨_, begun_runState _ _ _ _, by decide⟩, ⟨_, begun_runState _ _ _ _, by decide, by decide⟩, by decide, by decide, by decide, by decide,
    ⟨_, rfl, rfl, rfl, by decide, by decide⟩, ⟨_, rfl, rfl, rfl, by decide, by decide⟩⟩


theorem wit_CounterOperations :
    (getC cntState 3).owner ≠ none ∧ (getC cntState 3).echo = some 0x1000 ∧ (getC cntState 3).fail = 0 ∧ (getC (signalCounter cntState 3 0x0105) 3).fail = 0x0105 ∧
    (getC (signalCounter cntState 3 0x0105) 3).count = 0 ∧ (getC cntState 3).count = 0xFFFFFFFFFFFF := by decide


theorem wit_SignalAndBudgetRows :
    (∃ r, Begun (runState opSignal (mkHandle 5 6 3) 1 0) 7 r ∧ r.ent.opcode = opSignal ∧ hHome r.ent.a = self (runState opSignal (mkHandle 5 6 3) 1 0)) ∧
    (∃ r, Begun (runState opSignal (mkHandle 9 6 3) 1 0) 7 r ∧ hHome r.ent.a ≠ self (runState opSignal (mkHandle 9 6 3) 1 0)) ∧
    (∃ r, Begun (runState opBudget 1 2 3) 7 r ∧ r.ent.opcode = opBudget ∧ r.ent.op74 = 0 ∧ knownCustomer (runState opBudget 1 2 3) 1 = some 0) ∧
    knownCustomer (runState opBudget 2 2 3) 2 = none := by
  refine ⟨⟨_, begun_runState _ _ _ _, rfl, by decide⟩, ⟨_, begun_runState _ _ _ _, by decide⟩, ⟨_, begun_runState _ _ _ _, rfl, by decide, by decide⟩, by decide⟩

theorem wit_InstructionCourse :
    (fetching fetchedState = true ∧ (∃ f, nextStart fetchedState = some (5, f))) ∧ nextStart qState = none ∧ fetching State.reset = false ∧
    (∃ r, findRun doneState 7 = some r ∧ r.phase = .done 0 ∧ doneState.halted = false) ∧ (∃ r, findRun behindState 7 = some r ∧ r.phase = .behind ∧ mustWait behindState r = false) := by
  refine ⟨⟨by decide, ⟨_, rfl⟩⟩, by decide, by decide, ⟨_, rfl, rfl, rfl⟩, ⟨_, rfl, rfl, by decide⟩⟩

theorem wit_PageMovementRows :
    (covered (pageState opPmove tHost 0) seqH (spanOf spanAll)).any (fun p => pageBusy (pageState opPmove tHost 0) p.number) = false ∧
    (covered (pageState opPmove tHost 0) seqH (spanOf spanAll)).any (fun p => decide (0 < p.pin)) = false ∧
    (covered (pageState opPmove tHost 1) seqH (spanOf spanAll)).any (fun p => decide (0 < p.pin)) = true ∧
    (covered (pageState opPmove tHost 1) seqH (spanOf spanAll)).any (fun p => pageBusy (pageState opPmove tHost 1) p.number) = false ∧
    (covered (pageState opPmove tHost 0) seqH (spanOf spanAll)).any awaited = false ∧ awaited { freshPage 1 .shard nodeH 0 0 ⟨0, 0, 1⟩ with stack := none } = true ∧
    hCls seqH = clsSeq ∧ hCls nodeH ≠ clsSeq ∧ (pageState opPmove tHost 0).pers ≠ some .cache ∧ nodeState.rgn.maps.find? (fun m => m.node == nodeH) ≠ none ∧
    (pageState opPmove tHost 0).rgn.maps.find? (fun m => m.node == nodeH) = none ∧ (covered (pageState opPmove tHost 0) seqH (spanOf spanAll)).any (lastCopy (pageState opPmove tHost 0) tStacks) = false ∧
    (lowerTier (pageState opPmove tHost 0) tStacks).getD tHost ≠ tFlash ∧ (∃ r, Begun (pageState opPmove tHost 0) 7 r ∧ r.ent.opcode = opPmove ∧ r.ent.c = tHost ∧ r.ent.a = seqH) ∧
    (∃ t, sendTo (linked qState) 9 1 nodeH .shardMapReq (some 7) = .ok t) := by
  refine ⟨by decide, by decide, by decide, by decide, by decide, by decide, by decide, by decide, by decide, by decide, by decide, by decide, by decide, ⟨_, begun_pageState _ _ _, rfl, rfl, rfl⟩, ⟨_, rfl⟩⟩


theorem wit_PageTransferOperations :
    (movePage (pageState opPmove tHost 0) page0 tHost).isSome = true ∧ (movePage (pageState opPmove tHost 0) page0 tStacks).isSome = true ∧
    (copyInto (pageState opPmove tHost 0) page0 tHost).isSome = true ∧ (vacateOne tStacks (pageState opPmove tHost 0) page0).isSome = true ∧ page0.kind ≠ .staged ∧
    page0.stack.isSome = true ∧ page0.inTier page0.newest = true ∧ lowerTier (pageState opPmove tHost 0) tStacks = some tHost := by decide


theorem wit_PinIngestReleaseRows :
    (∃ r, Begun (pageState opPpin 0 255) 7 r ∧ r.ent.opcode = opPpin ∧ r.ent.a = seqH) ∧ (covered (pageState opPpin 0 255) seqH (spanOf spanAll)).any (fun p => decide (255 ≤ p.pin)) = true ∧
    (covered (pageState opPpin 0 0) seqH (spanOf spanAll)).any (fun p => decide (255 ≤ p.pin)) = false ∧
    pinnedUnits (pageState opPpin 0 0) + 1 ≤ (pageState opPpin 0 0).ident.pinCeiling * (2 * poolUnits (pageState opPpin 0 0)) / 1024 ∧
    (covered (pageState opPpin 0 0) seqH (spanOf spanAll)).any (fun p => pageBusy (pageState opPpin 0 0) p.number) = false ∧
    (pageStateTight opPpin).ident.pinCeiling * (2 * poolUnits (pageStateTight opPpin)) / 1024 < pinnedUnits (pageStateTight opPpin) + 1 ∧
    (∃ r, Begun releaseState 7 r ∧ r.ent.opcode = opPevict ∧ r.ent.flag 4 = true ∧ mustWait releaseState r = false ∧ updatesDone releaseState r.ent.a = true ∧
      ∃ c, findCopy releaseState r.ent.a = some c ∧ c.st = .owner) ∧
    (∃ r m, Begun ingestState 7 r ∧ r.ent.opcode = opPingest ∧ findModel ingestState r.ent.a = some m ∧ (sourceRows ingestState r m.desc).toOption = none) ∧
    (∃ r m, Begun ingestGood 7 r ∧ r.ent.opcode = opPingest ∧ findModel ingestGood r.ent.a = some m ∧ fieldBytes r.blk 48 8 = nullHandle ∧ (∃ rows, sourceRows ingestGood r m.desc = .ok rows)) ∧
    (∃ r m, Begun ingestDraft 7 r ∧ r.ent.opcode = opPingest ∧ findModel ingestDraft r.ent.a = some m ∧ fieldBytes r.blk 48 8 = nodeH ∧ nodeH ≠ nullHandle ∧ (∃ rows, sourceRows ingestDraft r m.desc = .ok rows)) ∧
    (∃ c, findCopy ingestGood seqH = some c ∧ c.st ≠ .stale ∧ missingLayer c modelR [] = none ∧ rowsUnacked ingestGood c modelR [] = false ∧ (rowPages ingestGood c modelR []).any (unreadable ingestGood) = false ∧ ∃ t, bringRows ingestGood c modelR [] = some t) := by
  refine ⟨⟨_, begun_pageState _ _ _, rfl, rfl⟩, by decide, by decide, by decide, by decide, by decide,
    ⟨_, begun_withRun _ _ rfl rfl rfl rfl rfl, rfl, rfl, by decide, by decide, _, rfl, rfl⟩,
    ⟨_, _, begun_withRun _ _ rfl rfl rfl rfl rfl, rfl, rfl, by decide +kernel⟩, ⟨_, _, begun_withRun _ _ rfl rfl rfl rfl rfl, rfl, rfl, by decide +kernel, ok_of (by decide +kernel)⟩,
    ⟨_, _, begun_withRun _ _ rfl rfl rfl rfl rfl, rfl, rfl, by decide +kernel, by decide, ok_of (by decide +kernel)⟩, ⟨_, rfl, by decide, by decide, by decide, by decide, some_of (by decide +kernel)⟩⟩

theorem wit_KeyCheckOutcomes :
    (getK keyState 4).issued = true ∧ (getK keyState 4).gen = 3 ∧ (getK keyState 4).state = .live ∧ (getK keyState 4).len = 8192 ∧ (getK keyState 4).rights = 1 ∧
    (getK keyState 4).scope = 7 ∧ keyIndex 0x20004 = 4 ∧ keyGen 0x20004 = 2 ∧ keyGen 0x30004 = 3 ∧ keyGen 0x40004 = 4 ∧ (3 + 65535 - 4) % 65535 = 65534 ∧
    (3 + 65535 - 2) % 65535 = 1 ∧ keyCheck keyState 0x30004 8191 1 rRead (some 7) = 0 ∧ keyCheck keyState 0x30004 8192 1 rRead (some 7) = Code.keyBounds ∧
    keyCheck keyState 0x30004 0 1 rWrite (some 7) = Code.keyRights ∧ keyCheck keyState 0x30004 0 1 rRead (some 8) = Code.keyRights ∧ (getK keyState 9).issued = false ∧
    (getK keyState 6).issued = true ∧ (getK keyState 6).state = .free ∧ (getK keyState 6).gen = 1 := by decide


theorem wit_RegionRows :
    (∃ r, Begun registerState 7 r ∧ r.ent.opcode = opRegister ∧ nextFreeKey registerState = some 1 ∧
      ¬ ((fieldBytes r.blk 2 1 = 0 ∧ 2 ^ 44 < mappedHost registerState + fieldBytes r.blk 16 8) ∨
        (fieldBytes r.blk 2 1 = 1 ∧ inCarve registerState (fieldBytes r.blk 8 8) (fieldBytes r.blk 16 8) = false))) ∧
    (∃ r, Begun (regionState opRevoke 0) 7 r ∧ mustWait (regionState opRevoke 0) r = false ∧ regionIndex (regionState opRevoke 0) r.ent.a = some 4 ∧
      r.fid / 64 = (getK (regionState opRevoke 0) 4).port ∧ r.fid % 64 = 0 ∧ (getK (regionState opRevoke 0) 4).state ≠ .revoking) ∧
    (∃ r, Begun (regionState opPublish 5) 7 r ∧ hCls r.ent.a = clsRegion ∧ mustWait (regionState opPublish 5) r = false ∧ hHome r.ent.a = self (regionState opPublish 5) ∧
      regionIndex (regionState opPublish 5) r.ent.a = some 4 ∧ draftCode (getK (regionState opPublish 5) 4) (writerOf (regionState opPublish 5) r) = 0 ∧
      natBit (getK (regionState opPublish 5) 4).rights rPublish = true ∧ (getK (regionState opPublish 5) 4).version = r.ent.b % 2 ^ 48 ∧ reportAddr r.ent r.blk = none ∧
      (∃ d, draftOf (getK (regionState opPublish 5) 4) (writerOf (regionState opPublish 5) r) = some d ∧ d.holds = 0)) ∧
    (∃ r, Begun (regionState opPublish 6) 7 r ∧ (getK (regionState opPublish 6) 4).version ≠ r.ent.b % 2 ^ 48) ∧
    ((getK revokingState 4).state = .revoking ∧ (getK revokingState 4).accepted = 0 ∧ (getK revokingState 4).revoker = some 7 ∧ revokingState.halted = false) ∧
    (∃ r d, Begun draftNodeState 7 r ∧ r.ent.opcode = opDiscard ∧ hCls r.ent.a ≠ clsRegion ∧ mustWait draftNodeState r = false ∧ hHome r.ent.a = self draftNodeState ∧
      draftNodeState.rgn.drafts.find? (fun d => d.handle == r.ent.a) = some d ∧ d.reserver = (writerOf draftNodeState r).device ∧ d.holds = 0) ∧
    (∃ r, Begun (regionState opDiscard 0) 7 r ∧ draftCode (getK (regionState opDiscard 0) 4) (writerOf (regionState opDiscard 0) r) = 0 ∧
      (draftOf (getK (regionState opDiscard 0) 4) (writerOf (regionState opDiscard 0) r)).any (fun d => d.holds != 0) = false) := by
  refine ⟨⟨_, begun_withRun _ _ rfl rfl rfl rfl rfl, rfl, by decide, by decide⟩, ⟨_, begun_region _ _, by decide, by decide, by decide, by decide, by decide⟩,
    ⟨_, begun_region _ _, by decide, by decide, by decide, by decide, by decide, by decide, by decide, by decide, _, rfl, rfl⟩, ⟨_, begun_region _ _, by decide⟩,
    by decide, ⟨_, _, begun_withRun _ _ rfl rfl rfl rfl rfl, rfl, by decide, by decide, by decide, rfl, rfl, rfl⟩,
    ⟨_, begun_region _ _, by decide, by decide⟩⟩
theorem wit_RegionRows_unpaused :
    paused revokingState = false := by decide +kernel





theorem wit_RegionVersionsAndDrafts :
    (getK keyState 4).loc = 1 ∧ (∃ u, (getK relocState 4).relocated.find? (fun v => v.page == 1) = some u ∧ u.page = 1) ∧ (getK relocState 4).loc = 1 ∧
    (oneDraft.units.find? (fun u => u.page == 4096 / 4096)).isSome = true ∧ oneDraft.units.find? (fun u => u.page == 0 / 4096) = none := by
  refine ⟨by decide, ⟨_, rfl, rfl⟩, by decide, by decide, by decide⟩

/-- A buffer reference in a block at `off`: byte `at_` of the region of key 4. -/
def bufAt4 (off at_ : Nat) : List (Nat × Nat × Nat) := [(off, 6, at_), (off + 6, 2, 5), (off + 8, 4, 0x30004)]
/-- ATTEND of one BF16 query over positions 0 to `ctx` - 1. -/
def attE (flags : Nat) : Entry := { entryOf opAttend flags (mkHandle 5 clsModel 1) seqH 0 with format := 2 }
def attB (ctx : Nat) : List Byte := block 128 ([(3, 1, 1), (5, 1, 1), (16, 3, ctx), (28, 4, 0x3F800000)] ++ bufAt4 32 0 ++ bufAt4 56 4096)
def noCopy (s : State) : State := { s with own := { s.own with copies := [] } }
/-- The sequence has 64 prefix positions at node `nodeH`. -/
def prefixed (s : State) : State := withCopy { seqC with desc := { seqD with pfx := nodeH, prefixLen := 64 } } s
def mapHere (s : State) : State := { s with rgn := { s.rgn with maps := [{ node := nodeH, holders := [9], shardBlocks := 1, matched := 1, exact := true, model := none }] } }
def attR (ctx : Nat) (flags : Nat) : Running := runOf (attE flags) (attB ctx)

theorem wit_AttendRows_here :
    Begun (withRun openKey (attR 16 0)) 7 (attR 16 0) ∧ (∃ m, findModel (withRun openKey (attR 16 0)) (attE 0).a = some m) ∧ isSwapped (withRun openKey (attR 16 0)) (attR 16 0) = false ∧
    pagesCode (withRun openKey (attR 16 0)) (attR 16 0) [0] 0 16 = 0 ∧ pagesCode (withRun { openKey with pages := [{ page0 with stack := none, lost := true }] } (attR 16 0)) (attR 16 0) [0] 0 16 ≠ 0 ∧
    (∃ l, gather (withRun openKey (attR 16 0)) (attR 16 0) (attInputs (withRun openKey (attR 16 0)) (attR 16 0) (attOf (attE 0) (attB 16) modelR)) = .bytes l) ∧
    (findCopy (touchPages (withRun openKey (attR 16 0)) (attR 16 0)) seqH).any (fun c => c.desc.pfx == nullHandle) = true := by
  refine ⟨begun_withRun _ _ rfl rfl rfl rfl rfl, ⟨_, rfl⟩, by decide, by decide +kernel, by decide +kernel, bytesOf_some (by decide +kernel), by decide +kernel⟩

theorem wit_AttendRows_split :
    Begun (withRun (prefixed openKey) (attR 80 0)) 7 (attR 80 0) ∧ (prefixed openKey).pers = some .generation ∧
    (findCopy (touchPages (withRun (prefixed openKey) (attR 80 0)) (attR 80 0)) seqH).any (fun c => c.desc.pfx == nodeH && decide ((attOf (attE 0) (attB 80) modelR).first < c.desc.prefixLen)) = true ∧
    nodeH ≠ nullHandle ∧ (∃ map, (mapHere openKey).rgn.maps.find? (fun x => x.node == nodeH) = some map) ∧ openKey.rgn.maps.find? (fun x => x.node == nodeH) = none ∧
    pagesCode (withRun (prefixed openKey) (attR 80 0)) (attR 80 0) [0] 64 80 = 0 ∧
    (∃ l, gather (withRun (prefixed openKey) (attR 80 0)) (attR 80 0) (attInputs (withRun (prefixed openKey) (attR 80 0)) (attR 80 0) (attOf (attE 0) (attB 80) modelR)) = .bytes l) := by
  refine ⟨begun_withRun _ _ rfl rfl rfl rfl rfl, rfl, by decide +kernel, by decide, ⟨_, rfl⟩, rfl, by decide +kernel, bytesOf_some (by decide +kernel)⟩

/-- Pass 1 of a deterministic ATTEND whose every maximum is in. -/
def splitState : State :=
  let s := waitAll (withRun (prefixed openKey) (attR 80 4))
  { s with tz := { s.tz with splits := [{ instr := 7, det := true, pass := 1, parts := [{ device := 9, shard := 0, first := 0, count := 1, answered := true }], ownDone := true, rows := [], code := [] }] } }
theorem wit_AttendRows_passTwo :
    (∃ r x c, splitState.halted = false ∧ findRun splitState 7 = some r ∧ splitState.tz.splits.find? (fun x => x.instr == 7) = some x ∧ findCopy splitState r.ent.b = some c ∧
      r.phase = .waiting ∧ (attOf r.ent r.blk modelR).det = true ∧ x.pass = 1 ∧ x.ownDone = true ∧ x.parts.all (·.answered) = true ∧ x.code.isEmpty = true) ∧
    (attOf (attE 4) (attB 80) modelR).phase = 0 ∧
    (∃ l, gather splitState { attR 80 4 with phase := .waiting } (attInputs splitState { attR 80 4 with phase := .waiting } (attOf (attE 4) (attB 80) modelR)) = .bytes l) := by
  refine ⟨⟨_, _, _, rfl, rfl, rfl, rfl, rfl, rfl, rfl, rfl, rfl, rfl⟩, by decide +kernel, bytesOf_some (by decide +kernel)⟩

def lookState (t : Nat) : State := { ownState 0 with now := 100, pages := [{ page0 with lookahead := true, lookAt := t }] }
theorem wit_AttendRows_lookahead :
    (∃ p, findPage (lookState 0) 11 = some p ∧ p.lookahead = true ∧ p.lookAt + 100 ≤ (lookState 0).now) ∧ (∃ p, findPage (lookState 1) 11 = some p ∧ (lookState 1).now < p.lookAt + 100) ∧
    (lookState 0).halted = false := by
  refine ⟨⟨_, rfl, rfl, by decide⟩, ⟨_, rfl, by decide⟩, rfl⟩


/-- AMERGE of two one-row tuples of one element. -/
def mergeE (flags : Nat) : Entry := entryOf opAmerge flags 2 0 0
def mergeB : List Byte := block 128 ([(2, 1, 1), (3, 1, 1), (4, 2, 1), (6, 1, 1), (8, 1, 1)] ++ bufAt4 32 4096 ++ bufAt4 64 0 ++ bufAt4 80 64)
def mergeR (flags : Nat) : Running := runOf (mergeE flags) mergeB
theorem wit_ComputeRows_amerge :
    Begun (withRun openKey (mergeR 0)) 7 (mergeR 0) ∧
    (∃ l, gather (withRun openKey (mergeR 0)) (mergeR 0) ((List.range (2 % 256)).map (fun i => (bufAt mergeB (64 + 16 * i), (fieldBytes mergeB 6 1 - 1) * fieldBytes mergeB 16 8 + 12))) = .bytes l) := by
  refine ⟨begun_withRun _ _ rfl rfl rfl rfl rfl, bytesOf_some (by decide +kernel)⟩

/-- EXPAND of one position, keys and values. -/
def expandR : Running := runOf { entryOf opExpand 0x30 (mkHandle 5 clsModel 1) seqH 0 with format := 1 } (block 64 ([(3, 1, 1), (12, 4, 1)] ++ bufAt4 16 0 ++ bufAt4 32 4096))
theorem wit_ComputeRows_expand :
    Begun (withRun openKey expandR) 7 expandR ∧ (∃ m, findModel (withRun openKey expandR) expandR.ent.a = some m) ∧ isSwapped (withRun openKey expandR) expandR = false ∧
    pagesCode (withRun openKey expandR) expandR [0] 0 1 = 0 ∧ expandR.ent.flag 4 = true ∧ expandR.ent.flag 5 = true := by
  refine ⟨begun_withRun _ _ rfl rfl rfl rfl rfl, ⟨_, rfl⟩, by decide, by decide +kernel, by decide, by decide⟩

/-- CONVERT in row form from the region; in buffer form from wide cells; in buffer form into E3M2 blocks. -/
def convertRowR : Running := { ingest nullHandle 0x30004 with ent := entryOf opConvert 0x10 (mkHandle 5 clsModel 1) seqH 0 }
def convertR (flags fmt src n : Nat) : Running := runOf { entryOf opConvert flags n 0 0 with format := fmt } (block 48 ([(2, 1, src)] ++ bufAt4 16 0 ++ bufAt4 32 4096))
theorem wit_ComputeRows_convert :
    (Begun (withRun openKey convertRowR) 7 convertRowR ∧ (∃ rows, sourceRows (withRun openKey convertRowR) convertRowR modelR = .ok rows)) ∧
    (Begun (withRun openKey (convertR 0x20 1 0 2)) 7 (convertR 0x20 1 0 2) ∧ plainFmt 1 = some .fp32 ∧ (convertR 0x20 1 0 2).ent.flag 4 = false ∧ (convertR 0x20 1 0 2).ent.flag 5 = true ∧
      (∃ l, gather (withRun openKey (convertR 0x20 1 0 2)) (convertR 0x20 1 0 2) [(bufAt (convertR 0x20 1 0 2).blk 16, 32)] = .bytes l)) ∧
    (Begun (withRun openKey (convertR 0 0x12 1 32)) 7 (convertR 0 0x12 1 32) ∧ mxElem 0x12 = some .e3m2 ∧ plainFmt 0x12 = none ∧
      (∃ l, gather (withRun openKey (convertR 0 0x12 1 32)) (convertR 0 0x12 1 32) [(bufAt (convertR 0 0x12 1 32).blk 16, 128)] = .bytes l)) := by
  refine ⟨⟨begun_withRun _ _ rfl rfl rfl rfl rfl, ok_of (by decide +kernel)⟩, ⟨begun_withRun _ _ rfl rfl rfl rfl rfl, rfl, rfl, rfl, bytesOf_some (by decide +kernel)⟩,
    ⟨begun_withRun _ _ rfl rfl rfl rfl rfl, rfl, rfl, bytesOf_some (by decide +kernel)⟩⟩

/-- GEMM of one row by one column of two FP32 elements; VOP of two FP32 elements. -/
def gemmR : Running := runOf { entryOf opGemm 0 0 0 0 with format := 1 } (block 112 ([(2, 1, 1), (8, 4, 1), (12, 4, 1), (16, 4, 2), (20, 4, 2), (24, 4, 1)] ++ bufAt4 32 0 ++ bufAt4 48 16 ++ bufAt4 80 4096))
def vopR (flags : Nat) : Running := runOf { entryOf opVop flags 2 0 0 with format := 1 } (block 64 (bufAt4 16 0 ++ bufAt4 32 16 ++ bufAt4 48 4096))
theorem wit_ComputeRows_gemmVop :
    (Begun (withRun openKey gemmR) 7 gemmR ∧ fieldBytes gemmR.blk 8 4 = 1 ∧ fieldBytes gemmR.blk 12 4 = 1 ∧ fieldBytes gemmR.blk 16 4 ≤ 64 ∧ gemmR.ent.flag 4 = false ∧ gemmR.ent.det = false ∧
      plainFmt (fieldBytes gemmR.blk 2 1) = some .fp32 ∧
      (∃ x y l, gather (withRun openKey gemmR) gemmR [(bufAt gemmR.blk 32, ((1 - 1) * fieldBytes gemmR.blk 20 4 + fieldBytes gemmR.blk 16 4) * 4),
        (bufAt gemmR.blk 48, ((fieldBytes gemmR.blk 16 4 - 1) * fieldBytes gemmR.blk 24 4 + 1) * 4)] = .bytes (x :: y :: l))) ∧
    (Begun (withRun openKey (vopR 0x10)) 7 (vopR 0x10) ∧ (vopR 0x10).ent.op74 < 2 ∧
      (∃ x y l, gather (withRun openKey (vopR 0x10)) (vopR 0x10) [(bufAt (vopR 0x10).blk 16, 2 * 4), (bufAt (vopR 0x10).blk 32, 2 * 4)] = .bytes (x :: y :: l))) := by
  refine ⟨⟨begun_withRun _ _ rfl rfl rfl rfl rfl, by decide +kernel, by decide +kernel, by decide +kernel, rfl, rfl, by decide +kernel, bytesOf_two (by decide +kernel)⟩,
    ⟨begun_withRun _ _ rfl rfl rfl rfl rfl, by decide, bytesOf_two (by decide +kernel)⟩⟩


theorem wit_MergeAlgebra :
    isNanRow true (emptyRow true 2) = false ∧ isNanRow true { emptyRow true 1 with m := 0x3F800000 } = false ∧ Fmt.fp32.read 0x3F800000 ≠ .inf true ∧
    isNanRow true (nanRow true 1) = true ∧ (Fmt.fp32.read 0x3F800000).lt (Fmt.fp32.read 0x40000000) = true := by decide


theorem wit_ResultDelivery :
    (⟨0, 5, 0x30004, 0⟩ : BufRef).device = self openKey ∧ keyCheck openKey 0x30004 0 (0 + 8) rWrite none = 0 ∧ (getK openKey 4).drafted = false ∧ (getK openKey 4).loc = 1 ∧
    (getK openKey 4).relocated = [] ∧ keyCheck openKey 0x30004 0 (8185 + 8) rWrite none ≠ 0 ∧ (∃ r, findRun (withRun openKey (vopR 0x10)) 7 = some r) := by
  refine ⟨by decide, by decide, by decide, by decide, by decide, by decide, ⟨_, rfl⟩⟩

/-- CLAIM of a new sequence of the model. -/
def claimNew (s : State) : State := withRun s (runOf (entryOf opClaim 0 nullHandle (mkHandle 5 clsModel 1) 0x9000) [])
def claimOf (h : Handle) (s : State) : State := withRun s (runOf (entryOf opClaim 0 h 0 0x9000) [])
def castlingTo (target : Nat) (s : State) : State := withRun s (runOf (entryOf opCastle 0 seqH (7 * 2 ^ 16 + target) 0) [])
def partingComp (d : Nat) (s : State) : State := { s with comps := [{ slot := 0, map := { map7 with members := mapIf (fun m => m.device == d) (fun m => { m with parting := true }) map7.members }, prev := none, prepared := none }] }
def chatComp (s : State) : State := { s with comps := [{ slot := 0, map := { map7 with members := mapIf (fun m => m.device == 9) (fun m => { m with pers := 1 }) map7.members }, prev := none, prepared := none }] }

theorem wit_ClaimAndCastleRows_create :
    (∃ r m, Begun (claimNew (ownState 0)) 7 r ∧ r.ent.opcode = opClaim ∧ r.ent.a = nullHandle ∧ findModel (claimNew (ownState 0)) r.ent.b = some m ∧
      (claimNew (ownState 0)).comps.any (fun c => (mapMember c.map (self (claimNew (ownState 0)))).any (·.parting)) = false ∧
      granuleRoom (claimNew (ownState 0)) (recordGranules { seqD with pages := List.replicate m.desc.layers [] }) = true) ∧
    granuleRoom { ownState 0 with ident := { live.ident with recordMiB := 0 } } (recordGranules seqD) = false ∧
    (partingComp 5 (ownState 0)).comps.any (fun c => (mapMember c.map 5).any (·.parting)) = true := by
  refine ⟨⟨_, _, begun_withRun _ _ rfl rfl rfl rfl rfl, rfl, rfl, rfl, by decide, by decide⟩, by decide, by decide⟩

theorem wit_ClaimAndCastleRows_assert :
    (∃ r c, Begun (claimOf seqH (ownState 0)) 7 r ∧ r.ent.a ≠ nullHandle ∧ mustWait (claimOf seqH (ownState 0)) r = false ∧ findCopy (claimOf seqH (ownState 0)) r.ent.a = some c ∧ c.st = .owner ∧ c.epoch ≠ 0xFFFFFFFF) ∧
    (∃ r, Begun (claimOf seqX (ownState 0)) 7 r ∧ r.ent.a ≠ nullHandle ∧ mustWait (claimOf seqX (ownState 0)) r = false ∧ findCopy (claimOf seqX (ownState 0)) r.ent.a = none) ∧
    (∃ c, findCopy (claimOf seqH (withCopy { seqC with st := .stale, epoch := 0xFFFFFFFF } (ownState 0))) seqH = some c ∧ c.epoch = 0xFFFFFFFF) ∧
    (∃ c, findCopy (claimOf seqH (withCopy { seqC with st := .stale } (ownState 0))) seqH = some c ∧ c.st = .stale ∧ c.epoch ≠ 0xFFFFFFFF) ∧
    (findHome (ownState 0) seqH).isSome = true ∧ (findHome (withCopy { seqC with handle := seqX, st := .stale } (ownState 0)) seqX).isSome = false := by
  refine ⟨⟨_, _, begun_withRun _ _ rfl rfl rfl rfl rfl, by decide, by decide, rfl, rfl, by decide⟩, ⟨_, begun_withRun _ _ rfl rfl rfl rfl rfl, by decide, by decide, rfl⟩,
    ⟨_, rfl, rfl⟩, ⟨_, rfl, rfl, by decide⟩, by decide, by decide⟩

theorem wit_ClaimAndCastleRows_castle :
    (∃ r c m, Begun (castlingTo 9 (linked (ownState 0))) 7 r ∧ r.ent.opcode = opCastle ∧ mustWait (castlingTo 9 (linked (ownState 0))) r = false ∧
      updatesDone (castlingTo 9 (linked (ownState 0))) r.ent.a = true ∧ findCopy (castlingTo 9 (linked (ownState 0))) r.ent.a = some c ∧ c.st = .owner ∧ c.epoch < 0xFFFFFFFE ∧
      r.ent.b % 2 ^ 15 ≠ self (castlingTo 9 (linked (ownState 0))) ∧
      (membership? (castlingTo 9 (linked (ownState 0))) (r.ent.b / 2 ^ 16 % 2 ^ 12)).bind (fun x => mapMember x.map (r.ent.b % 2 ^ 15)) = some m ∧
      inComp (castlingTo 9 (linked (ownState 0))) 7 9 = true ∧ m.pers = 2 ∧ m.parting = false) ∧
    (∃ m, (membership? (partingComp 9 (linked (ownState 0))) 7).bind (fun x => mapMember x.map 9) = some m ∧ inComp (partingComp 9 (linked (ownState 0))) 7 9 = true ∧ m.pers = 2 ∧ m.parting = true) ∧
    (∃ m, (membership? (chatComp (linked (ownState 0))) 7).bind (fun x => mapMember x.map 9) = some m ∧ inComp (chatComp (linked (ownState 0))) 7 9 = true ∧ m.pers ≠ 2) ∧
    (∃ c, findCopy (castlingTo 5 (withCopy { seqC with epoch := 0xFFFFFFFE } (ownState 0))) seqH = some c ∧ c.st = .owner ∧ 0xFFFFFFFE ≤ c.epoch) ∧
    (∃ c, findCopy (castlingTo 9 (withCopy { seqC with st := .stale } (ownState 0))) seqH = some c ∧ c.st ≠ .owner) := by
  refine ⟨⟨_, _, _, begun_withRun _ _ rfl rfl rfl rfl rfl, rfl, by decide, by decide, rfl, rfl, by decide, by decide, rfl, by decide, rfl, rfl⟩,
    ⟨_, rfl, by decide, rfl, rfl⟩, ⟨_, rfl, by decide, by decide⟩, ⟨_, rfl, rfl, by decide⟩, ⟨_, rfl, by decide⟩⟩


/-- A state in which the copy of the sequence is in some step of a castle with device 9. -/
def castling (st : CastleSt) : State := linked (withCopy { seqC with st := st, peer := 9, castleComp := 7, castleInstr := some 7 } (ownState 0))
/-- The record offered by device 9. -/
def offerD : SeqRecord := { seqD with handle := seqX, owner := 9 }

theorem wit_CastlingMessages_offer :
    Taken (castling .owner) hdr9 ∧ inComp (arrive (castling .owner) hdr9).1 8 9 = false ∧ inComp (arrive (castling .owner) hdr9).1 7 9 = true ∧
    (findCopy (arrive (castling .owner) hdr9).1 seqH).any (fun c => c.st != .stale) = true ∧
    (arrive (castling .owner) hdr9).1.pers = some .generation ∧ (findCopy (arrive (castling .owner) hdr9).1 seqX).any (fun c => c.st != .stale) = false ∧
    refusesFrames (arrive (castling .owner) hdr9).1 = false ∧ lowWater (arrive (castling .owner) hdr9).1 ≤ freeFrames (arrive (castling .owner) hdr9).1 ∧
    (∃ s1 m created s2 nums, adoptModel (dropCopy (arrive (castling .owner) hdr9).1 seqX) modelR = some (s1, m, created) ∧
      reserveAll seqX m.desc s1 0 offerD.pages = some (s2, nums)) := by
  refine ⟨⟨rfl, by decide, by decide⟩, by decide, by decide, by decide, by decide, by decide, by decide, by decide, ⟨_, _, _, _, _, rfl, rfl⟩⟩

theorem wit_CastlingMessages_owner :
    (∃ c, findCopy (arrive (castling .offered) hdr9).1 seqH = some c ∧ c.epoch = 1 ∧ c.peer = hdr9.src ∧ c.st = .offered ∧
      ∃ m p, findModel (arrive (castling .offered) hdr9).1 c.model = some m ∧
        findPage (armCastle (modCopy (arrive (castling .offered) hdr9).1 seqH (fun c => { c with st := .pulled })) seqH) 11 = some p ∧
        unreadable (armCastle (modCopy (arrive (castling .offered) hdr9).1 seqH (fun c => { c with st := .pulled })) seqH) p = false) ∧
    (∃ c, findCopy (arrive (castling .pulled) hdr9).1 seqH = some c ∧ c.st = .pulled) ∧
    (∃ c, findCopy (arrive (castling .committing) hdr9).1 seqH = some c ∧ c.st = .committing) ∧
    (∃ c, findCopy (arrive (castling .freed) hdr9).1 seqH = some c ∧ c.st = .freed ∧ c.peer = hdr9.src ∧ c.castleInstr = some 7) ∧
    Taken (castling .offered) hdr9 ∧ Taken (castling .pulled) hdr9 ∧ Taken (castling .committing) hdr9 ∧ Taken (castling .freed) hdr9 := by
  refine ⟨⟨_, rfl, rfl, rfl, rfl, _, _, rfl, rfl, by decide⟩, ⟨_, rfl, rfl⟩, ⟨_, rfl, rfl⟩, ⟨_, rfl, rfl, rfl, rfl⟩, ⟨rfl, by decide, by decide⟩, ⟨rfl, by decide, by decide⟩,
    ⟨rfl, by decide, by decide⟩, ⟨rfl, by decide, by decide⟩⟩

theorem wit_CastlingMessages_target :
    (∃ c m, findCopy (arrive (castling .pulling) hdr9).1 seqH = some c ∧ c.st = .pulling ∧ c.peer = hdr9.src ∧ c.epoch = 1 ∧ findModel (arrive (castling .pulling) hdr9).1 c.model = some m ∧
      c.desc.pages.zipIdx.findSome? (fun l => (l.1.zipIdx.find? (fun e => e.1.number == 11)).map (fun e => (l.2, e.2))) = some (0, 0) ∧ (c.pages.getD 0 [])[0]? = some 11) ∧
    (∃ c, findCopy (arrive (castling .accepted) hdr9).1 seqH = some c ∧ c.st = .accepted ∧ c.peer = hdr9.src) ∧ Taken (castling .pulling) hdr9 ∧ Taken (castling .accepted) hdr9 ∧
    (∃ r, findHome (asHome (arrive (castling .owner) hdr9).1 seqH) seqH = some r ∧ hdr9.src ≠ (arrive (castling .owner) hdr9).1.ident.partner ∧
      (asHome (arrive (castling .owner) hdr9).1 seqH).ident = (arrive (castling .owner) hdr9).1.ident ∧ r.desc.owner ≠ hdr9.src) ∧
    (∃ c, findCopy (castling .committing) seqH = some c ∧ c.st = .committing ∧ c.tries = 0 ∧ c.due ≤ (castling .committing).now ∧ (castling .committing).halted = false) ∧
    (∃ c, findCopy (withCopy { seqC with st := .committing, tries := 1, castleInstr := some 7, due := 9 } (ownState 0)) seqH = some c ∧ c.tries ≠ 0 ∧ (ownState 0).now < c.due) := by
  refine ⟨⟨_, _, rfl, rfl, rfl, rfl, rfl, by decide, by decide⟩, ⟨_, rfl, rfl, rfl⟩, ⟨rfl, by decide, by decide⟩, ⟨rfl, by decide, by decide⟩, ⟨_, rfl, by decide, rfl, by decide⟩,
    ⟨_, rfl, rfl, rfl, by decide, rfl⟩, ⟨_, rfl, by decide, by decide⟩⟩

/-- The record at home names device 9 as owner. -/
def ownedBy9 : State :=
  let s := castling .stale
  { s with own := { s.own with homes := [{ seqHome with desc := { seqD with owner := 9 } }] } }
theorem wit_CastlingMessages_commit : Taken ownedBy9 hdr9 ∧ (∃ r, findHome (asHome (arrive ownedBy9 hdr9).1 seqH) seqH = some r ∧ r.desc.owner = hdr9.src ∧ r.desc.epoch = 1) := by
  refine ⟨⟨rfl, by decide, by decide⟩, ⟨_, rfl, by decide, by decide⟩⟩
theorem wit_CastlingMessages_unpaused :
    paused (castling .owner) = false ∧ paused (castling .pulling) = false ∧ paused (castling .committing) = false := by decide +kernel





def askOf9 : CopyStatus := ⟨9, 1, true, 2, []⟩
/-- An arbitration under way at home: device 9 has asked, and `held` is held. -/
def arbOf (held : List Nat) (asks : List CopyStatus) : State :=
  let s := castling .owner
  { s with own := { s.own with homes := [{ seqHome with arb := some {
    ask := some askOf9, prior := (0, 0x7FFF, 0xFFFF), sides := [5, 9], asks := asks, statuses := [⟨5, 0, false, 1, []⟩, ⟨9, 1, true, 2, []⟩], held := held, due := 0 } }] } }

theorem wit_ArbitrationRows :
    Taken (castling .owner) hdr9 ∧ findCopy (castling .owner) seqX = none ∧
    (∃ r a, findHome (arbOf [5] []) seqH = some r ∧ r.arb = some a ∧ a.ask.isSome = true ∧ a.held ≠ []) ∧
    (∃ r a, findHome (arbOf [] []) seqH = some r ∧ r.arb = some a ∧ a.held = [] ∧ r.queue = [] ∧ a.ask = some askOf9 ∧ askOf9.side ≠ 2) ∧
    (∃ r a, findHome (arbOf [] [askOf9]) seqH = some r ∧ r.arb = some a ∧ a.held = [] ∧ r.queue = [] ∧ a.asks = [askOf9] ∧
      a.statuses.any (fun c => c.device == r.desc.owner && c.complete && (c.epoch == r.desc.epoch || c.epoch + 1 == r.desc.epoch)) = false ∧
      newestCopy (a.statuses.filter (fun c => c.device != r.desc.owner)) = some askOf9) ∧
    (∃ r, findHome ownedBy9 seqH = some r ∧ r.arb = none ∧ r.desc.owner = askOf9.device ∧ r.desc.target = noDevice) ∧ newestCopy ([] : List CopyStatus) = none := by
  refine ⟨⟨rfl, by decide, by decide⟩, by decide, ⟨_, _, rfl, rfl, by decide, by decide⟩, ⟨_, _, rfl, rfl, rfl, rfl, rfl, by decide⟩,
    ⟨_, _, rfl, rfl, rfl, rfl, rfl, by decide, by decide⟩, ⟨_, rfl, rfl, rfl, rfl⟩, by decide⟩
theorem wit_ArbitrationRows_unpaused :
    paused (arbOf [] []) = false ∧ paused (arbOf [] [askOf9]) = false := by decide +kernel





/-- The record at home with an update in flight at VERSION 2. -/
def inFlight2 (u : RecUpd) (a : Ans) : State :=
  let s := castling .owner
  { s with ident := { s.ident with partner := 9 }, own := { s.own with homes := [{ seqHome with desc := { seqD with partner := 9 }, queue := [⟨u, a, none⟩], inflight := some 2 }] } }
def alone (s : State) : State := { s with comps := [] }
/-- A mirror of device 9's record, and this copy waiting for an answer. -/
def mirrorState : State :=
  let s := linked (withCopy { seqC with waits := [(.add [], .acked [11] none)] } (ownState 0))
  { s with own := { s.own with mirrors := [offerD] } }
def releaseWait : State :=
  let s := withRun (castling .owner) (runOf (entryOf opPevict 0x10 seqX 0 0) [])
  { s with tz := { s.tz with started := s.tz.started.map (fun r => { r with phase := .waiting }) } }

theorem wit_RecordRows_home :
    Taken ownedBy9 hdr9 ∧ Taken (castling .owner) hdr9 ∧
    (∃ r, findHome (asHome (arrive ownedBy9 hdr9).1 seqH) seqH = some r ∧ r.desc.owner = hdr9.src ∧ r.desc.epoch = 1) ∧
    (∃ r, findHome (asHome (arrive (castling .owner) hdr9).1 seqH) seqH = some r ∧ r.desc.owner ≠ hdr9.src) := by
  refine ⟨⟨rfl, by decide, by decide⟩, ⟨rfl, by decide, by decide⟩, ⟨_, rfl, rfl, rfl⟩, ⟨_, rfl, by decide⟩⟩

/-- An update that stands first at the home and is not in flight, asked for by device 5 at an epoch. -/
def queueHead (epoch : Nat) : State :=
  let s := castling .owner
  { s with ident := { s.ident with partner := 9 }, own := { s.own with homes := [{ seqHome with desc := { seqD with partner := 9 }, queue := [⟨.resend, .none, some (5, epoch)⟩] }] } }
theorem wit_RecordRows_pump :
    (∃ r w d, findHome (queueHead 1) seqH = some r ∧ r.queue = [w] ∧ r.inflight = none ∧ headCode (queueHead 1) r w = 0 ∧ partnerUp (queueHead 1) = true ∧
      applyUpd (homePer (queueHead 1) r.desc) w.upd r.desc = some d) ∧
    (∃ r w, findHome (queueHead 0) seqH = some r ∧ r.queue = [w] ∧ r.inflight = none ∧ w.under = some (5, 0) ∧ (0 : Nat) ≠ r.desc.epoch ∧ headCode (queueHead 0) r w ≠ 0) ∧
    (∃ r w, findHome (alone (queueHead 1)) seqH = some r ∧ r.queue = [w] ∧ headCode (alone (queueHead 1)) r w = 0 ∧ partnerUp (alone (queueHead 1)) = false) := by
  refine ⟨⟨_, _, _, rfl, rfl, rfl, by decide, by decide, rfl⟩, ⟨_, _, rfl, rfl, rfl, rfl, by decide, by decide⟩, ⟨_, _, rfl, rfl, by decide, by decide⟩⟩

theorem wit_RecordRows_mirror :
    Taken mirrorState hdr9 ∧ (∃ c, findCopy (arrive mirrorState hdr9).1 seqH = some c ∧ c.waits = [(.add [], .acked [11] none)]) ∧ (∃ m, mirrorState.own.mirrors.find? (fun m => m.handle == seqX) = some m ∧ 1 ≤ m.version) ∧
    findHome (arrive mirrorState hdr9).1 seqX = none ∧ findHome (arrive (castling .owner) hdr9).1 seqX = none ∧
    (castling .owner).own.mirrors.find? (fun m => m.handle == seqX) = none ∧ granuleRoom (castling .owner) (recordGranules offerD) = true ∧
    Taken releaseWait hdr9 ∧ (∃ r, (arrive releaseWait hdr9).1.tz.started.find? (fun r => r.ent.opcode == opPevict && r.ent.flag 4 && r.ent.a == seqX && decide (r.phase = .waiting)) = some r) := by
  refine ⟨⟨rfl, by decide, by decide⟩, ⟨_, rfl, rfl⟩, ⟨_, rfl, by decide⟩, by decide, by decide, by decide, by decide, ⟨rfl, by decide, by decide⟩, ⟨_, rfl⟩⟩

theorem wit_RecordRows_retry :
    (∃ r, findHome (arrive (inFlight2 .resend .none) hdr9).1 seqH = some r ∧ r.inflight = some 2 ∧ r.inflight ≠ some 1 ∧ r.inflight.any (fun v => decide (v < 1)) = false) ∧ Taken (inFlight2 .resend .none) hdr9 ∧
    (∃ r, findHome (alone (inFlight2 .resend .none)) seqH = some r ∧ r.inflight = some 2 ∧ r.queue = [⟨.resend, .none, none⟩] ∧ partnerUp (alone (inFlight2 .resend .none)) = false) ∧
    (∃ r, findHome (inFlight2 (.create seqD) (.here (.claim 7))) seqH = some r ∧ r.queue = [⟨.create seqD, .here (.claim 7), none⟩] ∧
      partnerUp (inFlight2 (.create seqD) (.here (.claim 7))) = true ∧ r.due ≤ (inFlight2 (.create seqD) (.here (.claim 7))).now) ∧
    (∃ r, findHome (inFlight2 .resend .none) seqH = some r ∧ partnerUp (inFlight2 .resend .none) = true ∧ r.due ≤ (inFlight2 .resend .none).now) := by
  refine ⟨⟨_, rfl, rfl, by decide, by decide⟩, ⟨rfl, by decide, by decide⟩, ⟨_, rfl, rfl, rfl, by decide⟩, ⟨_, rfl, rfl, by decide, by decide⟩, ⟨_, rfl, by decide, by decide⟩⟩
theorem wit_RecordRows_unpaused :
    paused (inFlight2 .resend .none) = false ∧ paused (inFlight2 (.create seqD) (.here (.claim 7))) = false := by decide +kernel





/-- Almost no frame is free; the sequence is being pre-empted from mark `mark`. -/
def scarce (mark : Nat) : State :=
  let s := ownState 0
  { s with
    regs := s.regs.set 0x804008 0x00000A0104000400
    own := { s.own with preempting := [seqH], copies := [{ seqC with swapMark := mark }] } }

theorem wit_PreemptionRows :
    (scarce 0).pers = some .generation ∧ bitOf ((scarce 0).regs.get 0x00000A0100180010 0x804008) 32 = true ∧ (scarce 0).own.preemptStop = false ∧ lowWater (ownState 0) ≤ freeFrames (ownState 0) ∧
    (ownState 0).til.walks = [] ∧ (ownState 0).own.short = false ∧ (scarce 0).own.preempting.contains seqH = true ∧ updatesDone (scarce 0) seqH = true ∧ (scarce 0).halted = false ∧
    (∃ c, findCopy (scarce 0) seqH = some c ∧
      (scarce 0).tz.started.any (fun r => (objectsOf (scarce 0) r.ent r.blk).contains seqH && decide (r.id < c.swapMark) && (decide (r.phase = .ready) || decide (r.phase = .waiting))) = false) ∧
    (ownState 0).own.preempting.contains seqH = false ∧ ({ seqC with handle := seqX } : SeqCopy).desc.cls < ({ seqC with desc := { seqD with cls := 3 } } : SeqCopy).desc.cls ∧
    highWater (ownState 0) ≤ freeFrames (ownState 0) := by
  refine ⟨by decide, by decide, by decide, by decide, by decide, by decide, by decide, by decide, by decide, ⟨_, rfl, by decide⟩, by decide, by decide, by decide⟩
/-- Almost no frame is free and no sequence is being swapped. -/
def shortOfFrames : State := { scarce 0 with own := { (scarce 0).own with preempting := [] } }
theorem wit_PreemptionRows_low :
    shortOfFrames.pers = some .generation ∧ bitOf (shortOfFrames.regs.get 0x00000A0100180010 0x804008) 32 = true ∧ shortOfFrames.own.preemptStop = false ∧
    shortOfFrames.own.preempting = [] ∧ freeFrames shortOfFrames < lowWater shortOfFrames ∧ (scarce 0).own.preempting ≠ [] := by
  refine ⟨by decide, by decide, by decide, by decide, by decide, by decide⟩
/-- What SEQUENCE_SWAP makes of it before the change is recorded. -/
def swappedTo (s : State) : State :=
  let m := swapPages (2 * s.pages.length + 1) s seqH
  let s1 := ownLog m.1 seqH Code.ownPreemptedSwapped (self s) 1
  { s1 with own := { s1.own with preemptions := wrapAdd 32 s1.own.preemptions 1, preemptStop := s1.own.preemptStop || !m.2 } }
def pinnedScarce : State := { scarce 0 with pages := [pageOf 1] }
theorem wit_PreemptionRows_swap :
    (∃ c i l, findCopy (swappedTo (scarce 0)) seqH = some c ∧ itemsFor (swappedTo (scarce 0)) c (entriesChanged (swappedTo (scarce 0)) (scarce 0).pages) = i :: l) ∧
    (∃ c, findCopy (swappedTo pinnedScarce) seqH = some c ∧ itemsFor (swappedTo pinnedScarce) c (entriesChanged (swappedTo pinnedScarce) pinnedScarce.pages) = []) := by
  refine ⟨⟨_, _, _, rfl, rfl⟩, ⟨_, rfl, rfl⟩⟩
theorem wit_PreemptionRows_unpaused :
    paused (ownState 0) = false ∧ paused (scarce 0) = false := by decide +kernel




def indexedBy (d : Nat) (s : State) : State := { s with comps := [{ slot := 0, map := { map7 with index := d }, prev := none, prepared := none }] }
/-- PMATCH of one digest in a composition. -/
def matchRun (comp : Nat) : Running := runOf (entryOf opPmatch 0 nullHandle comp 0) (block 48 [(4, 4, 1), (22, 2, 5), (24, 4, 0x30004), (38, 2, 5), (40, 4, 0x30004)])
def matchIn (comp : Nat) (s : State) : State := withRun s (matchRun comp)
/-- What this device holds of a node. -/
def hold1 : NodeHold :=
  { handle := nodeH, comp := 7, parent := nullHandle, model := mkHandle 5 clsModel 1, blocks := 1, first := 0, count := 1, holders := [9], shardBlocks := 1, digest := 0, since := 0 }
def holdState : State := { linked openKey with rgn := { openKey.rgn with holds := [hold1] } }
def lookupState : State :=
  { linked openKey with rgn := { openKey.rgn with lookups := [{ requester := 9, comp := 7, subject := nullHandle, result := { matched := 0, node := nodeH, baseVersion := 0, draft := nullHandle, holders := [], shardBlocks := 0 } }] } }

theorem wit_LookupRows_pmatch :
    (∃ r m bs, Begun (matchIn 7 (linked openKey)) 7 r ∧ r.ent.opcode = opPmatch ∧ membership? (matchIn 7 (linked openKey)) (r.ent.b % 2 ^ 12) = some m ∧
      inComp (matchIn 7 (linked openKey)) 7 (self (matchIn 7 (linked openKey))) = true ∧
      bufRead (matchIn 7 (linked openKey)) (bufAt r.blk 16) 0 (16 * fieldBytes r.blk 4 4) rRead = .ok bs ∧
      resultAccess (matchIn 7 (linked openKey)) r = 0 ∧ m.map.index = self (matchIn 7 (linked openKey)) ∧
      (serveLookup (acceptResult (matchIn 7 (linked openKey)) r) 7 (r.ent.flag 4) (r.ent.a != nullHandle) ((chunks 16 (fieldBytes r.blk 4 4) bs).map leVal) 5).2.2 = none) ∧
    (∃ m s', membership? (indexedBy 9 (linked openKey)) 7 = some m ∧ m.map.index ≠ 5 ∧
      sendTo (acceptResult (matchIn 7 (indexedBy 9 (linked openKey))) (matchRun 7)) m.map.index 1 nullHandle (.lookup 7 false false [0]) (some 7) = .ok s') ∧
    (∃ r, Begun (matchIn 8 (linked openKey)) 7 r ∧ membership? (matchIn 8 (linked openKey)) (r.ent.b % 2 ^ 12) = none) := by
  refine ⟨⟨_, _, _, begun_withRun _ _ rfl rfl rfl rfl rfl, rfl, rfl, by decide, rfl, by decide, rfl, by decide⟩, ⟨_, _, rfl, by decide, rfl⟩,
    ⟨_, begun_withRun _ _ rfl rfl rfl rfl rfl, by decide⟩⟩

theorem wit_LookupRows_messages :
    Taken (linked openKey) hdr9 ∧ (∃ m, membership? (arrive (linked openKey) hdr9).1 7 = some m ∧ m.map.index = self (arrive (linked openKey) hdr9).1 ∧ (mapMember m.map hdr9.src).isSome = true ∧
      (serveLookup (arrive (linked openKey) hdr9).1 7 false false [0] 9).2.2 = none) ∧
    (∃ m, membership? (arrive (indexedBy 9 (linked openKey)) hdr9).1 7 = some m ∧ m.map.index ≠ 5) ∧ Taken (waitAll (matchIn 7 (linked openKey))) hdr9 ∧
    (∃ r, waitingMatch (arrive (waitAll (matchIn 7 (linked openKey))) hdr9).1 nullHandle = some r) ∧ findHold (arrive (linked openKey) hdr9).1 nodeH = none ∧
    Taken holdState hdr9 ∧ (∃ n, findHold (arrive holdState hdr9).1 nodeH = some n) ∧ partingIn (arrive holdState hdr9).1 hdr9.comp = false ∧
    Taken lookupState hdr9 ∧ (∃ l, (arrive lookupState hdr9).1.rgn.lookups.find? (fun l => l.result.node == nodeH) = some l ∧ l.requester ≠ self (arrive lookupState hdr9).1) ∧
    (arrive holdState hdr9).1.tz.started.find? (fun r => r.ent.opcode == opPcopy && r.ent.a == nodeH && decide (r.phase = .waiting) && r.aux == 0) = none := by
  refine ⟨⟨rfl, by decide, by decide⟩, ⟨_, rfl, rfl, by decide, by decide⟩, ⟨_, rfl, by decide⟩, ⟨rfl, by decide, by decide⟩, ⟨_, rfl⟩, by decide,
    ⟨rfl, by decide, by decide⟩, ⟨_, rfl⟩, by decide, ⟨rfl, by decide, by decide⟩, ⟨_, rfl, by decide⟩, by decide⟩


/-- A page of the draft node with all its 16 rows. -/
def stagedPage (i : Nat) : Page := { pageOf 0 with number := 100 + i, kind := .staged, obj := nodeH, index := i, rows := (List.range 16).map (fun j => (j, [])) }
def boundDraft : DraftNode := { draftNode with model := some (mkHandle 5 clsModel 1) }
/-- PUBLISH of the draft node, `n` of its 4 pages here. -/
def publishState (n : Nat) : State :=
  let s := withRun (linked openKey) (runOf (entryOf opPublish 0 nodeH 0 0) [])
  { s with pages := (List.range n).map stagedPage, rgn := { s.rgn with drafts := [boundDraft] } }
theorem begun_publish (n : Nat) : Begun (publishState n) 7 (runOf (entryOf opPublish 0 nodeH 0 0) []) := ⟨rfl, rfl, rfl, rfl, rfl⟩
def treeNode : TreeNode :=
  { handle := mkHandle 9 clsNode 3, comp := 7, parent := nullHandle, digests := [1, 2], version := 1, holders := [9], shardBlocks := 1, refs := 0, freeSince := 0, drafts := 0, seqNo := 2 }
/-- This device is the composition's one cache device. -/
def aloneCache (s : State) : State :=
  { s with comps := [{ slot := 0, map := { map7 with members := [{ memberOf 5 with pers := 3 }, memberOf 9] }, prev := none, prepared := none }] }

theorem wit_PublishingRows_publish :
    (∃ r d m mem, Begun (publishState 4) 7 r ∧ r.ent.opcode = opPublish ∧ hCls r.ent.a = clsNode ∧ mustWait (publishState 4) r = false ∧ hHome r.ent.a = self (publishState 4) ∧
      (publishState 4).rgn.drafts.find? (fun d => d.handle == r.ent.a) = some d ∧ d.reserver = (writerOf (publishState 4) r).device ∧ d.holds = 0 ∧
      boundModel (publishState 4) d.handle = some m ∧ membership? (publishState 4) d.comp = some mem ∧ draftConflict (publishState 4) d (r.ent.b % 2 ^ 48) = false ∧
      draftWhole (publishState 4) d m.desc (pathBlocks (publishState 4) d - d.digests.length) = true) ∧
    draftWhole (publishState 3) boundDraft modelR 0 = false ∧
    (∃ mem, membership? (aloneCache (publishState 4)) boundDraft.comp = some mem ∧ draftConflict (aloneCache (publishState 4)) boundDraft 0 = false ∧
      draftWhole (aloneCache (publishState 4)) boundDraft modelR 0 = true ∧
      (shardMapOf mem.map (self (aloneCache (publishState 4))) (pathBlocks (aloneCache (publishState 4)) boundDraft)).1 = [self (aloneCache (publishState 4))] ∧
      (mapMember mem.map (self (aloneCache (publishState 4)))).map (·.partner) = some noDevice ∧ mem.map.index = self (aloneCache (publishState 4))) ∧
    draftConflict { publishState 4 with rgn := { (publishState 4).rgn with tree := [{ treeNode with digests := [1] }] } } boundDraft 0 = true := by
  refine ⟨⟨_, _, _, _, begun_publish _, rfl, by decide, by decide, by decide, rfl, rfl, rfl, rfl, rfl, by decide +kernel, by decide +kernel⟩, by decide +kernel,
    ⟨_, rfl, by decide +kernel, by decide +kernel, by decide +kernel, by decide +kernel, by decide⟩, by decide +kernel⟩

def commit1 (base : Nat) : NodeCommit := { parent := nullHandle, baseVersion := base, digests := [1], holders := [9], shardBlocks := 1 }
/-- A tree of one node; a draft that waits for device 9; a commit that waits for the partner. -/
def treeState : State :=
  { holdState with
    now := 3600000000
    rgn := { holdState.rgn with tree := [treeNode], drafts := [{ boundDraft with handle := mkHandle 5 clsNode 8, awaiting := [9], publisher := some 7 }], treeWaits := [{ node := mkHandle 9 clsNode 5, commit := some { commit1 2 with digests := [4] }, answer := 9, comp := 7 }] } }
/-- The one page of the ancestor, of the blocks of its first 128 positions. -/
def longPages : State :=
  { holdState with
    models := [{ modelM with desc := { modelR with pageLog2 := 7 } }]
    pages := [{ pageOf 0 with kind := .shard, obj := mkHandle 9 clsNode 3 }] }
/-- The composition's index has partner 9; its index is device 9. -/
def indexPartner (s : State) : State :=
  { s with comps := [{ slot := 0, map := { map7 with members := [{ memberOf 5 with partner := 9 }, memberOf 9] }, prev := none, prepared := none }] }

theorem wit_PublishingRows_messages :
    Taken treeState hdr9 ∧ boundModel (arrive { treeState with models := [] } hdr9).1 (mkHandle 9 clsNode 6) = none ∧
    (∃ s1 m c, adoptModel (arrive treeState hdr9).1 modelR = some (s1, m, c) ∧ findHold s1 (mkHandle 9 clsNode 6) = none ∧ s1.rgn.drafts.find? (fun d => d.handle == mkHandle 9 clsNode 6) = none) ∧
    Taken longPages hdr9 ∧ (∃ m, boundModel (arrive longPages hdr9).1 nodeH = some m ∧ m.desc.layers = 1 ∧ ceilDiv (1 * 64) (perPage m.desc) = 1 ∧
      (arrive longPages hdr9).1.pages.any (fun p => (nodeChain (arrive longPages hdr9).1 64 (mkHandle 9 clsNode 3)).contains p.obj && p.layer == 0 && p.index == 1 * 64 / perPage m.desc + 0) = true ∧
      blockPages m.desc 0 (List.replicate (rowBytes m.desc) 7) = [(0, 0, List.replicate (rowBytes m.desc) 7)]) ∧
    (∃ p, (arrive longPages hdr9).1.pages.find? (fun p => p.obj == mkHandle 9 clsNode 3 && p.layer == 0 && p.index == 0) = some p) := by
  refine ⟨⟨rfl, by decide, by decide⟩, by decide, ⟨_, _, _, rfl, by decide, by decide⟩, ⟨rfl, by decide, by decide⟩, ⟨_, rfl, rfl, by decide, by decide, by decide +kernel⟩, ⟨_, rfl⟩⟩

theorem wit_PublishingRows_commit :
    (∃ d mem, (arrive (indexedBy 9 treeState) hdr9).1.rgn.drafts.find? (fun d => d.handle == mkHandle 5 clsNode 8 && d.awaiting.contains hdr9.src) = some d ∧ d.awaiting = [hdr9.src] ∧ d.failed = [] ∧
      d.publisher.isSome = true ∧ membership? (arrive (indexedBy 9 treeState) hdr9).1 d.comp = some mem ∧ mem.map.index ≠ self (arrive (indexedBy 9 treeState) hdr9).1 ∧
      (arrive (indexedBy 9 treeState) hdr9).1.rgn.drafts.find? (fun d => d.handle == mkHandle 5 clsNode 8) = some d) ∧
    commitConflict (arrive treeState hdr9).1 7 (commit1 1) = true ∧ commitConflict (arrive treeState hdr9).1 7 (commit1 2) = false ∧ hdr9.src ≠ self (arrive treeState hdr9).1 ∧
    (∃ me, (membership? (arrive treeState hdr9).1 hdr9.comp).bind (fun m => mapMember m.map (self (arrive treeState hdr9).1)) = some me ∧ me.partner = noDevice) ∧
    (∃ me, (membership? (arrive (indexPartner treeState) hdr9).1 hdr9.comp).bind (fun m => mapMember m.map 5) = some me ∧ me.partner ≠ noDevice ∧ me.partner ≠ 5 ∧
      present (arrive (indexPartner treeState) hdr9).1 me.partner = true) ∧ Taken (indexedBy 9 treeState) hdr9 ∧ Taken (indexPartner treeState) hdr9 := by
  refine ⟨⟨_, _, rfl, rfl, rfl, rfl, rfl, by decide, rfl⟩, by decide, by decide, by decide, ⟨_, rfl, rfl⟩, ⟨_, rfl, by decide, by decide, by decide⟩, ⟨rfl, by decide, by decide⟩, ⟨rfl, by decide, by decide⟩⟩


theorem wit_IndexTree :
    (∀ n ∈ treeState.rgn.tree, n.handle ≠ nullHandle) ∧ (∃ n, bestChild treeState 7 nullHandle [1, 2, 3] = some n) ∧ (∃ n, findNode treeState (mkHandle 9 clsNode 3) = some n) ∧
    commitConflict treeState 7 (commit1 1) = true ∧ commitConflict treeState 7 { commit1 5 with digests := [4] } = true ∧ Taken treeState hdr9 ∧
    (∃ w c, (arrive treeState hdr9).1.rgn.treeWaits.find? (fun w => w.node == mkHandle 9 clsNode 5) = some w ∧ w.commit = some c ∧ w.answer ≠ self (arrive treeState hdr9).1) := by
  refine ⟨by decide, ⟨_, rfl⟩, ⟨_, rfl⟩, by decide, by decide, ⟨rfl, by decide, by decide⟩,
    ⟨{ node := mkHandle 9 clsNode 5, commit := some { commit1 2 with digests := [4] }, answer := 9, comp := 7 }, _, by decide +kernel, rfl, by decide⟩⟩

theorem wit_IndexTree_retirement :
    (∃ n, findNode treeState (mkHandle 9 clsNode 3) = some n ∧ n.refs = 0 ∧ fieldOf (treeState.regs.get 0x0E10 0x608008) 15 0 = 3600 ∧ n.freeSince + 3600 * 1000000 ≤ treeState.now ∧
      n.drafts = 0 ∧ treeState.rgn.tree.any (fun y => y.parent == mkHandle 9 clsNode 3) = false ∧ treeState.rgn.drafts.any (fun d => d.parent == mkHandle 9 clsNode 3) = false) ∧
    treeState.halted = false ∧ ({ treeState with now := 3599999999 } : State).now < treeNode.freeSince + 3600 * 1000000 := by
  refine ⟨⟨_, rfl, rfl, by decide, by decide, rfl, by decide, by decide⟩, rfl, by decide⟩
theorem wit_IndexTree_unpaused :
    paused treeState = false := by decide +kernel





def leased (d : Nat) : State := { linked relocState with now := 1000000, rgn := { relocState.rgn with leases := [{ object := regionH, device := d, port := 0, fn := 0, model := none, base := 0, told := false }] } }
def shortly (s : State) : State := { setReg s 0x608000 50 with now := 3 }
def heldDraft : State := setK relocState 4 { regionKey with drafts := [{ oneDraft with holds := 1 }] }
/-- A C device with one shard page in the stacks. -/
def cacheState : State := { ownState 0 with pers := some .cache, pages := [{ pageOf 0 with kind := .shard, obj := nodeH }] }

theorem wit_LeaseAndUpkeepRows :
    Taken (leased 5) hdr9 ∧ (shortly (linked relocState)).now < (shortly (linked relocState)).rgn.renewAt + leaseTerm (shortly (linked relocState)) / 4 ∧
    ((leased 5).rgn.renewAt + leaseTerm (leased 5) / 4 ≤ (leased 5).now ∧ ∀ l ∈ (leased 5).rgn.leases, (leased 5).orphans.contains l.port = true ∨ l.device = self (leased 5)) ∧
    (∃ l s', (leased 9).rgn.renewAt + leaseTerm (leased 9) / 4 ≤ (leased 9).now ∧ (leased 9).rgn.leases = [l] ∧ (leased 9).orphans.contains l.port = false ∧ l.device ≠ self (leased 9) ∧
      sendTo { leased 9 with rgn := { (leased 9).rgn with renewAt := (leased 9).now } } l.device 0 0 (.renew [{ object := l.object, port := l.port, fn := l.fn }]) none = .ok s') ∧
    (hCls regionH = clsRegion ∧ regionIndex relocState regionH = some 4 ∧ publishing relocState regionH = false ∧
      ∃ d, draftOf (getK { relocState with now := 1000 } 4) ⟨5, 0, 0⟩ = some d ∧ d.holds = 0 ∧ d.renewed + d.term ≤ 1000) ∧
    (∃ d, draftOf (getK heldDraft 4) ⟨5, 0, 0⟩ = some d ∧ d.holds ≠ 0) ∧
    (∃ d, (withDraft keyState).rgn.drafts.find? (fun d => d.handle == nodeH) = some d ∧ d.holds = 0 ∧ d.publisher = none ∧ hCls nodeH ≠ clsRegion ∧
      publishing (withDraft keyState) nodeH = false ∧ d.renewed + d.term ≤ ({ withDraft keyState with now := 1000 } : State).now) ∧
    ((∀ q ∈ (linked keyState).fab.qps, ∀ m ∈ q.rx, (linked keyState).now < m.lastAt + 5000) ∧ ∀ m ∈ (linked keyState).fab.mrx, (linked keyState).now < m.lastAt + 5000) ∧
    (∃ u, (getK relocState 4).relocated.find? (fun u => u.page == 1) = some u) ∧ (getK relocState 4).state = .live ∧ (braking relocState = false ∧ olderRead relocState 4 = false ∧ braking { relocState with ladder := 3 } = true) ∧ (getK relocState 4).relocated.find? (fun u => u.page == 2) = none ∧
    (ownState 0).pers ≠ some .cache ∧ (∃ p x, cacheState.pers = some .cache ∧ cacheState.ident.flash = false ∧ cacheState.pages = [p] ∧ p.kind = .shard ∧ p.tiers = [tStacks] ∧
      frameComing cacheState p = false ∧ copyInto cacheState p tHost = some x) := by
  refine ⟨⟨rfl, by decide, by decide⟩, by decide, by decide, ⟨_, _, by decide, rfl, by decide, by decide, rfl⟩, ⟨by decide, by decide, by decide, _, rfl, rfl, by decide⟩, ⟨_, rfl, by decide⟩,
    ⟨_, rfl, rfl, rfl, by decide, by decide, by decide⟩, by decide, ⟨_, rfl⟩, by decide, by decide, by decide, by decide, ⟨_, _, rfl, by decide, rfl, rfl, by decide, by decide, rfl⟩⟩
theorem wit_LeaseAndUpkeepRows_unpaused :
    paused (linked relocState) = false ∧ paused (leased 5) = false ∧ paused (leased 9) = false ∧ paused relocState = false ∧ paused heldDraft = false ∧ paused (withDraft keyState) = false ∧ paused (ownState 0) = false ∧ paused cacheState = false := by decide +kernel




/-- The bytes of a map of composition 7, epoch 4 on base `base`, of devices 5 and 9, with its CRC. -/
def mapBytes7 (base crc : Nat) : List Byte :=
  block 96 ([(0, 8, 0x3150414D43395851), (8, 2, 7), (10, 2, 2), (12, 4, 4), (16, 4, base), (20, 2, 5), (22, 1, 1), (26, 2, 1000), (60, 4, crc)] ++
    [(64, 2, 5), (66, 1, 2), (68, 2, 5), (70, 2, 0x7FFF), (72, 2, 0xFFFF), (76, 2, 0xFFFF), (78, 2, 0x7FFF), (80, 2, 9), (82, 1, 2), (84, 2, 9), (86, 2, 0x7FFF), (88, 2, 0xFFFF),
     (92, 2, 0xFFFF), (94, 2, 0x7FFF)])
def map8 (base : Nat) : CompMap := { map7 with epoch := 4, baseEpoch := base, members := [memberOf 5, memberOf 9] }
/-- The map lies at the start of the carve; device `lost` is declared lost. -/
def mapIn (base crc : Nat) (lost : List (Nat × Nat)) : State :=
  let s := linked live
  { s with dev := Mem.write [] carveBase (mapBytes7 base crc), cmp := { s.cmp with lost := lost } }
def goWord : W64 := 0x42400001

set_option maxRecDepth 100000 in
theorem wit_MapAgreementRows_go :
    isPhysical pf = true ∧ isPhysical vf = false ∧ bitOf goWord 0 = true ∧ bitOf (0x42400000 : W64) 0 = false ∧ (mapIn 3 828425190 []).cmp.busy = none ∧
    mapNamed (setReg (mapIn 3 828425190 []) 0x800008 0x42400000) (fieldOf goWord 63 12 * 4096) = map8 3 ∧ mapCheck1 (map8 3) = true ∧
    (∃ x, membership? (mapIn 3 828425190 []) 7 = some x ∧ leaderOf (mapIn 3 828425190 []) x.map = self (mapIn 3 828425190 []) ∧ findChange (mapIn 3 828425190 []) 7 = none ∧
      (map8 3).baseEpoch = x.map.epoch ∧ (map8 2).baseEpoch ≠ x.map.epoch ∧ leaderOf (mapIn 3 828425190 [(7, 5)]) x.map ≠ self (mapIn 3 828425190 [])) := by
  refine ⟨by decide, by decide, by decide, by decide, rfl, by decide +kernel, by decide, ⟨_, rfl, by decide, rfl, rfl, by decide, by decide⟩⟩

/-- This device leads a change to the map. -/
def changing (c : CmpChange) : State := { linked live with cmp := { live.cmp with changes := [c] } }
def change8 : CmpChange := { map := map8 3, proposer := 9, asked := [5, 9], yes := [5], committed := false, applied := [], since := 0, takeover := false }
/-- The map is prepared here. -/
def prepared8 : State := { linked live with comps := [{ slot := 0, map := map7, prev := none, prepared := some (map8 3) }] }

theorem wit_MapAgreementRows_messages :
    TakenAs (linked live) hdr9 ∧ (∃ m, membership? (arrive (linked live) hdr9).1 7 = some m ∧ leaderOf (arrive (linked live) hdr9).1 m.map = self (arrive (linked live) hdr9).1 ∧
      findChange (arrive (linked live) hdr9).1 7 = none ∧ (map8 3).baseEpoch = m.map.epoch ∧ (map8 2).baseEpoch ≠ m.map.epoch ∧ m.map.epoch = map7.epoch ∧ m.map.epoch ≠ (map8 3).epoch ∧
      m.prepared ≠ some (map8 3) ∧ (arrive (linked live) hdr9).1.cmp.joins.contains (map8 3) = false) ∧
    TakenAs (changing change8) hdr9 ∧ (∃ c, findChange (arrive (changing change8) hdr9).1 hdr9.comp = some c ∧ c.committed = false ∧ c.takeover = false) ∧
    TakenAs prepared8 hdr9 ∧ (∃ m, knownMap (arrive prepared8 hdr9).1 hdr9.comp 4 = some m ∧ (membership? (arrive prepared8 hdr9).1 hdr9.comp).any (fun x => x.map.epoch == 4) = false) ∧
    (∃ c, findChange (arrive (changing { change8 with committed := true }) hdr9).1 hdr9.comp = some c ∧ c.committed = true) := by
  refine ⟨⟨rfl, by decide⟩, ⟨_, rfl, by decide, rfl, rfl, by decide, rfl, by decide, by decide, by decide⟩, ⟨rfl, by decide⟩, ⟨_, rfl, rfl, rfl⟩, ⟨rfl, by decide⟩, ⟨_, rfl, by decide⟩,
    ⟨_, rfl, rfl⟩⟩

def voted (s : State) : State := { s with now := 1000000, cmp := { s.cmp with votes := [{ comp := 7, epoch := 4, at_ := 0 }], lost := [(7, 5)] } }
theorem wit_MapAgreementRows_timeouts :
    (linked live).halted = false ∧ findChange (linked live) 7 = none ∧
    (∃ c, findChange { changing change8 with now := 1000000 } 7 = some c ∧ c.committed = false ∧ c.takeover = false ∧
      c.asked.filter (fun d => d != self (changing change8) && !(isLost { changing change8 with now := 1000000 } 7 d) && !(c.yes.contains d) && decide (c.since + voteTo { changing change8 with now := 1000000 } +
        (if ({ changing change8 with now := 1000000 } : State).cmp.beats.any (fun b => b.comp == 7 && b.device == d && b.updating) then 5000 else 0) ≤ 1000000)) = [9]) ∧
    (linked live).cmp.votes.find? (fun v => v.comp == 7 && decide (v.at_ + 2 * voteTo (linked live) ≤ (linked live).now)) = none ∧
    (∃ v m, (voted (linked live)).cmp.votes.find? (fun v => v.comp == 7 && decide (v.at_ + 2 * voteTo (voted (linked live)) ≤ (voted (linked live)).now)) = some v ∧
      findChange (voted (linked live)) 7 = none ∧ membership? (voted (linked live)) 7 = some m ∧
      lowest ((mapDevices m.map).filter (fun d => !(isLost (voted (linked live)) 7 d))) ≠ self (voted (linked live))) := by
  refine ⟨rfl, rfl, ⟨_, rfl, rfl, rfl, by decide⟩, rfl, ⟨_, _, rfl, rfl, rfl, by decide⟩⟩
theorem wit_MapAgreementRows_unpaused :
    paused (linked live) = false ∧ paused { changing change8 with now := 1000000 } = false ∧ paused (voted (linked live)) = false := by decide +kernel





/-- Device 9 is parting and drains; device 5, when it parts, owns nothing. -/
def leaving (d : Nat) : State :=
  let s := partingComp d (linked live)
  { s with now := 2000000, cmp := { s.cmp with drains := [(7, 9, 0)] } }
def leftOut : State := { linked live with comps := [{ slot := 0, map := map7, prev := none, prepared := some { map8 3 with members := [memberOf 9] } }] }
/-- Device 9 leads, for device 5 is declared lost. -/
def led : State := { linked live with cmp := { live.cmp with lost := [(7, 5)] } }

theorem wit_MembershipRows_messages :
    TakenAs (linked live) hdr9 ∧ (membership? (arrive (linked live) hdr9).1 hdr9.comp).any (fun m => (mapMember m.map hdr9.src).isSome) = true ∧
    (membership? (arrive (alone (linked live)) hdr9).1 hdr9.comp).any (fun m => (mapMember m.map hdr9.src).isSome) = false ∧ TakenAs (alone (linked live)) hdr9 ∧
    9 ≠ 0x7FFF ∧ 9 ≠ self (arrive (linked live) hdr9).1 ∧ TakenAs (setReg (linked live) 0x501000 (3 <<< 32)) hdr9 ∧
    (2 + ringPositions (arrive (setReg (linked live) 0x501000 (3 <<< 32)) hdr9).1 - fieldOf (ringCtrl (arrive (setReg (linked live) 0x501000 (3 <<< 32)) hdr9).1) 25 16 %
      ringPositions (arrive (setReg (linked live) 0x501000 (3 <<< 32)) hdr9).1) % ringPositions (arrive (setReg (linked live) 0x501000 (3 <<< 32)) hdr9).1 = 2 ∧
    TakenAs (leaving 9) hdr9 ∧ leads (arrive (leaving 9) hdr9).1 hdr9.comp = true ∧ (membership? (arrive (leaving 9) hdr9).1 hdr9.comp).any (fun m => (mapMember m.map hdr9.src).any (·.parting)) = true ∧
    leads (arrive led hdr9).1 hdr9.comp = false ∧ TakenAs led hdr9 := by
  refine ⟨⟨rfl, by decide⟩, by decide, by decide, ⟨rfl, by decide⟩, by decide, by decide, ⟨rfl, by decide⟩, by decide, ⟨rfl, by decide⟩, by decide, by decide, by decide, ⟨rfl, by decide⟩⟩

theorem wit_MembershipRows_events :
    (live.comps = [] ∧ live.now < live.cmp.beatAt + beatTime live) ∧ live.cmp.beatAt + beatTime live ≤ ({ live with now := 1000 } : State).now ∧
    (∃ m, (linked live).comps = [m] ∧ leaderOf (linked live) m.map = self (linked live)) ∧ (linked live).cmp.beatAt + beatTime (linked live) ≤ ({ linked live with now := 1000 } : State).now ∧
    led.cmp.beatAt + beatTime led ≤ ({ led with now := 1000 } : State).now ∧ (∃ m, led.comps = [m] ∧ leaderOf led m.map ≠ self led ∧ leaderOf led m.map ≠ noDevice) ∧
    (∃ m, membership? (linked live) 7 = some m ∧ (linked live).now < silentSince (linked live) 7 9 + lossTime (linked live)) ∧
    (∃ m, membership? (leaving 9) 7 = some m ∧ leaderOf (leaving 9) m.map = self (leaving 9) ∧ (mapMember m.map 9).isSome = true ∧ silentSince (leaving 9) 7 9 + lossTime (leaving 9) ≤ (leaving 9).now ∧
      findChange (declareLost (leaving 9) 7 9) 7 = none ∧ m.prepared = none ∧ leads (leaving 9) 7 = true ∧ (7, 9, 0) ∈ (leaving 9).cmp.drains ∧ 0 + m.map.drainMs * 1000 ≤ (leaving 9).now) ∧
    (∃ m, membership? leftOut 7 = some m ∧ m.prepared.any (fun p => (mapMember p (self leftOut)).isNone) = true) ∧ partingIn (linked live) 7 = false ∧
    (∃ m, membership? (leaving 5) 7 = some m ∧ partingIn (leaving 5) 7 = true ∧ 7 ∉ (leaving 5).cmp.told ∧ (leaving 5).fwRun = 1 ∧ (leaving 5).own.copies = [] ∧ (leaving 5).tz.started = [] ∧
      leaderOf (leaving 5) m.map ≠ noDevice) := by
  refine ⟨⟨rfl, by decide⟩, by decide, ⟨_, rfl, by decide⟩, by decide, by decide, ⟨_, rfl, by decide, by decide⟩, ⟨_, rfl, by decide⟩, ⟨_, rfl, by decide, by decide, by decide, by decide, rfl, by decide, by decide, by decide⟩,
    ⟨_, rfl, by decide⟩, by decide, ⟨_, rfl, by decide, by decide, rfl, rfl, rfl, by decide⟩⟩
theorem wit_MembershipRows_unpaused :
    paused (linked live) = false ∧ paused (leaving 9) = false ∧ paused leftOut = false ∧ paused (leaving 5) = false := by decide +kernel





/-- The mirror partner is device 9 and a rebuild is under way; a restoration is under way. -/
def rebuilding (n : Nat) : State := { linked live with ident := { live.ident with partner := 9, fmEndpoint := 9 }, cmp := { live.cmp with mirrorState := n, restoreState := 1 } }
def hdr9c0 : Hdr := { hdr9 with cls := 0, qp := 0 }

theorem wit_MirrorRows :
    TakenAs (linked live) hdr9 ∧ (arrive (linked live) hdr9).1.cmp.inbox = [] ∧ (1 : Nat) ≠ 2 ∧ TakenAs (rebuilding 2) hdr9 ∧ (arrive (rebuilding 2) hdr9).1.cmp.inbox = [] ∧
    (arrive (rebuilding 2) hdr9).1.cmp.restoreState = 1 ∧ hdr9.src = (arrive (rebuilding 2) hdr9).1.ident.partner ∧ (arrive (rebuilding 2) hdr9).1.cmp.mirrorState = 2 ∧
    hdr9.src ≠ (arrive (linked live) hdr9).1.ident.fmEndpoint ∧ TakenAs (rebuilding 2) hdr9c0 ∧ hdr9c0.src = (arrive (rebuilding 2) hdr9c0).1.ident.fmEndpoint ∧ hdr9c0.cls = 0 ∧ 4095 < 4096 ∧
    (rebuilding 0).cmp.mirrorState ≠ 2 ∧ present (alone (rebuilding 2)) (rebuilding 2).ident.partner = false ∧ present (rebuilding 2) (rebuilding 2).ident.partner = true ∧
    (∃ m, commonComp (rebuilding 2) (rebuilding 2).ident.partner = some m) := by
  refine ⟨⟨rfl, by decide⟩, rfl, by decide, ⟨rfl, by decide⟩, rfl, rfl, rfl, rfl, by decide, ⟨rfl, by decide⟩, rfl, rfl, by decide, by decide, by decide, by decide, ⟨_, rfl⟩⟩
theorem wit_MirrorRows_unpaused :
    paused (rebuilding 0) = false ∧ paused (rebuilding 2) = false ∧ paused (alone (rebuilding 2)) = false := by decide +kernel





theorem wit_MapChangeOperations :
    (∃ x ∈ map7.members, (x.parting = false ∧ isLost (linked live) 7 x.device = false) ∧ x.device ≤ noDevice) ∧
    (∀ x ∈ map7.members, ¬ (x.parting = false ∧ isLost { linked live with cmp := { live.cmp with lost := [(7, 5), (7, 9)] } } 7 x.device = false)) ∧
    (∃ x ∈ map7.members, x.device ∈ [9]) ∧ (∃ x ∈ map7.members, x.device ∉ [9]) := by decide

/-- A transfer of 8 bytes between offsets 0 and 4096 of the region; its source device is `src`, FETCH is at offset 2048. -/
def moveB (src : Nat) : List Byte := block 64 ([(16, 6, 0), (22, 2, src), (24, 4, 0x30004)] ++ bufAt4 32 4096 ++ bufAt4 48 2048)
def moveR (op flags src : Nat) : Running := runOf { entryOf op flags 8 0 0 with format := 1 } (moveB src)
def mover (op flags src : Nat) : State := withRun (linked openKey) (moveR op flags src)
theorem begun_mover (op flags src : Nat) : Begun (mover op flags src) 7 (moveR op flags src) := begun_withRun _ _ rfl rfl rfl rfl rfl
def deadKey (s : State) : State := setK s 4 { getK s 4 with len := 4 }

theorem wit_TransferRows_local :
    Begun (mover opRwrite 0 5) 7 (moveR opRwrite 0 5) ∧ (∃ bs, bufRead (mover opRwrite 0 5) (bufAt (moveB 5) 16) 0 8 rRead = .ok bs) ∧
    (bufRead (deadKey (mover opRwrite 0 5)) (bufAt (moveB 5) 16) 0 8 rRead).toOption = none ∧ Begun (mover opRread 0 5) 7 (moveR opRread 0 5) ∧
    resultCode (mover opRread 0 5) (writerOf (mover opRread 0 5) (moveR opRread 0 5)) { buf := bufAt (moveB 5) 32, how := .write, pieces := [(0, List.replicate 8 0)] } = 0 ∧
    resultCode (deadKey (mover opRread 0 5)) (writerOf (mover opRread 0 5) (moveR opRread 0 5)) { buf := bufAt (moveB 5) 32, how := .write, pieces := [(0, List.replicate 8 0)] } ≠ 0 ∧
    (bufAt (moveB 5) 16).device = self (mover opRread 0 5) := by
  refine ⟨begun_mover _ _ _, ok_of (by decide +kernel), by decide +kernel, begun_mover _ _ _, by decide +kernel, by decide +kernel, by decide +kernel⟩

theorem wit_TransferRows_remote :
    (bufAt (moveB 9) 16).device ≠ self (mover opRread 0 9) ∧ (moveR opRread 0 9).ent.combinable = false ∧
    (∃ s', sendRead (mover opRread 0 9) 9 (dataClass (moveR opRread 0 9).ent.prio) 0 0x30004 0 8 false (.buffer 7 0x30004 (4096 + (0 - 0))) = .ok s') := by
  refine ⟨by decide +kernel, by decide, ok_of (by decide +kernel)⟩

theorem wit_TransferRows_reduce :
    Begun (mover opRreduce 0x30 5) 7 (moveR opRreduce 0x30 5) ∧ (moveR opRreduce 0x08 5).ent.combinable = true ∧ addUnitOk 8 60 = false ∧
    (∃ bs, bufRead (mover opRreduce 0x30 5) (bufAt (moveB 5) 16) 0 8 rRead = .ok bs) ∧ (reduceOf (moveR opRreduce 0 5).ent).op ≠ 3 ∧ (reduceOf (moveR opRreduce 0x30 5).ent).op = 3 ∧
    resultCode (mover opRreduce 0x30 5) (writerOf (mover opRreduce 0x30 5) (moveR opRreduce 0x30 5)) { buf := bufAt (moveB 5) 48, how := .write, pieces := [(0, List.replicate 8 0)] } = 0 ∧
    resultCode (mover opRreduce 0x30 5) (writerOf (mover opRreduce 0x30 5) (moveR opRreduce 0x30 5)) { buf := bufAt (moveB 5) 32, how := .red (reduceOf (moveR opRreduce 0x30 5).ent), pieces := [(0, List.replicate 8 0)] } = 0 ∧
    (bufAt (moveB 5) 32).device = self (mover opRreduce 0x30 5) := by
  refine ⟨begun_mover _ _ _, by decide, by decide, ok_of (by decide +kernel), by decide, by decide, by decide +kernel, by decide +kernel, by decide +kernel⟩

/-- MCAST to one member, device 9, in group 3. -/
def mcastR (g : Nat) : Running := runOf (entryOf opMcast 0 8 g 0) (block 128 ([(2, 1, 1)] ++ bufAt4 16 0 ++ [(64, 2, 9), (68, 4, 0x30004)]))
def grouped (g : Nat) : State := setReg (withRun (linked openKey) (mcastR g)) (0x504000 + 8 * 3) 0x01040101
theorem wit_TransferRows_mcast :
    Begun (grouped 3) 7 (mcastR 3) ∧ 3 < 4096 ∧ bitOf (groupEntry (grouped 3) 3) 0 = true ∧ (mcastMembers (mcastR 3).blk).length = 1 ∧ 1 ≤ fieldOf (groupEntry (grouped 3) 3) 14 8 ∧
    (mcastMembers (mcastR 3).blk).any (fun x => x.2.1 != self (grouped 3) && ((commonComp (grouped 3) x.2.1).isNone || outsideGroup (grouped 3) 3 x.2.1)) = false ∧
    (∃ bs, bufRead (grouped 3) (bufAt (mcastR 3).blk 16) 0 8 rRead = .ok bs) ∧ bitOf (groupEntry (grouped 4) 4) 0 = false ∧ 4096 ≤ (mcastR 4096).ent.b % 2 ^ 16 := by
  refine ⟨⟨rfl, rfl, rfl, rfl, rfl⟩, by decide, by decide, by decide +kernel, by decide, by decide +kernel, ok_of (by decide +kernel), by decide, by decide⟩


/-- A one-packet message of 8 bytes for offset 16 of a region. -/
def packet (key : Nat) : Packet := { key := key, off := 16, msgLen := 8, first := true, last := true, ackReq := true, port := 0, fn := 0, bytes := [1, 2, 3, 4, 5, 6, 7, 8] }
def red0 : RedSpec := { op := 0, fmt := 1, det := false, fetch := none, rowsPer := 0, d := 0 }
def rxMsg : RxMsg := { op := 4, key := 0x30004, first := 16, len := 8, next := 16, code := 0, refused := false, index := 4, port := 0, fn := 0, part := [], lastAt := 0 }

theorem wit_ArrivingPackets_write :
    (linked openKey).halted = false ∧ hdr9.qp < 0x8000 ∧ (arrive (linked openKey) { hdr9 with psn := 1 }).2 = false ∧ (arrive (linked openKey) hdr9).2 = true ∧
    writeCheck (arrive (linked openKey) hdr9).1 hdr9 0x30004 16 8 rWrite = 0 ∧ writeCheck (arrive (linked openKey) hdr9).1 hdr9 0x20004 16 8 rWrite = Code.keyRevoked ∧ Code.keyRevoked ≠ 0 ∧
    keyIndex 0x30004 ≠ 0 ∧ (getK (arrive (linked openKey) hdr9).1 4).drafted = false ∧ writeCheck (arrive (linked openKey) hdr9).1 hdr9 0x30004 16 (destBytes { op := 0, fmt := 1, det := false, rowsPer := 0, d := 0 } 8) rReduce = 0 ∧
    (reduceApply hdr9 red0 16 (packet 0x30004).bytes (keyEnter (arrive (linked openKey) hdr9).1 4) rxMsg).2.refused = false ∧
    (reduceApply hdr9 red0 16 (packet 0x30004).bytes (keyEnter (arrive (linked openKey) hdr9).1 4) rxMsg).2.index = 4 ∧
    (reduceApply hdr9 red0 16 (packet 0x30004).bytes (keyEnter (arrive (linked openKey) hdr9).1 4) rxMsg).2.port = 0 ∧
    (reduceApply hdr9 red0 16 (packet 0x30004).bytes (keyEnter (arrive (linked openKey) hdr9).1 4) rxMsg).2.fn = 0 := by decide +kernel

/-- A read of device 9 that waits for its answer; queue 5 open to the fabric. -/
def readOf (comb : Bool) (tries : Nat) : ReadWait :=
  { id := 3, dst := 9, subject := 0, cls := 2, key := 0x30004, off := 0, len := 8, comb := comb, tries := tries, due := 0, what := .buffer 7 0x30004 4096, adds := [], got := [] }
def reading (w : ReadWait) : State := { mover opRread 0 9 with reads := [w] }
def openQueue (st : QState) : State :=
  let s := linked openKey
  { s with tz := { s.tz with queues := [(5, { Queue.init with state := st, ctrl := 0x20 })] } }
def openCounter (f : Option Nat) : State :=
  let s := linked openKey
  { s with tz := { s.tz with counters := [(3, { Counter.init with owner := some 0, fabric := f })] } }

theorem wit_ArrivingPackets_messages :
    TakenAs (linked openKey) hdr9 ∧ (readAnswer (arrive (linked openKey) hdr9).1 hdr9 0 0x20004 0 8 false).toOption = none ∧
    (∃ x, readAnswer (arrive (linked openKey) hdr9).1 hdr9 0 0x30004 0 8 false = .ok x) ∧ (arrive (linked openKey) hdr9).1.reads.find? (fun w => w.id == 3 && !w.comb) = none ∧
    TakenAs (reading (readOf false 1)) hdr9 ∧ (∃ w, (arrive (reading (readOf false 1)) hdr9).1.reads.find? (fun w => w.id == 3 && !w.comb) = some w) ∧
    (∃ w, (readPiece (arrive (reading (readOf false 1)) hdr9).1 (readOf false 1) 0 [0, 0, 0, 0, 0, 0, 0, 0]).reads.find? (fun x => x.id == 3) = some w) ∧
    epochCheck (arrive (linked openKey) hdr9).1 hdr9 = 0 ∧ 5 < firmwareQueue ∧ (getQ (arrive (openQueue .active) hdr9).1 5).remote = true ∧ (getQ (arrive (openQueue .active) hdr9).1 5).state = .active ∧
    (getQ (arrive (openQueue .halted) hdr9).1 5).state = .halted ∧ TakenAs (openQueue .active) hdr9 ∧ TakenAs (openQueue .halted) hdr9 ∧ 3 ≠ 0xFFFF ∧
    (getC (arrive (openCounter (some 7)) hdr9).1 3).owner ≠ none ∧ (getC (arrive (openCounter (some 7)) hdr9).1 3).fabric = some hdr9.comp ∧ (getC (arrive (openCounter none) hdr9).1 3).fabric = none ∧
    (getC (arrive (openCounter (some 0xFFFF)) hdr9).1 3).fabric = some 0xFFFF ∧ TakenAs (openCounter (some 7)) hdr9 ∧
    remoteCheck (arrive (linked openKey) hdr9).1 hdr9 0x30004 0 8 rWrite = 0 ∧ remoteCheck (arrive (linked openKey) hdr9).1 hdr9 0x20004 0 8 rWrite = Code.keyRevoked := by
  refine ⟨⟨rfl, by decide⟩, by decide +kernel, ok_of (by decide +kernel), by decide, ⟨rfl, by decide⟩, ⟨_, rfl⟩, some_of (by decide +kernel), by decide, by decide, by decide, by decide, by decide,
    ⟨rfl, by decide⟩, ⟨rfl, by decide⟩, by decide, by decide, by decide, by decide, by decide, ⟨rfl, by decide⟩, by decide, by decide⟩


theorem wit_WriteReachesItsBytes :
    (packet 0x30004).first = true ∧ (packet 0x30004).last = true ∧ (arrive (linked openKey) hdr9).1.dev = (linked openKey).dev ∧ (arrive (linked openKey) hdr9).1.host = (linked openKey).host ∧
    (getK (arrive (linked openKey) hdr9).1 4).loc = 1 ∧ (getK (arrive (linked openKey) hdr9).1 4).drafted = false := by decide

/-- Two packets of one message are unacknowledged; the timer ends at 20; `tries` tries made. -/
def sentMsg : SendMsg := { id := 4, out := ⟨9, 7, 3, 1, false, 0, .taken 1⟩, tag := none, packets := 2, cut := 2, holds := none, version := 0, resent := false }
def sending (tries now : Nat) : State :=
  let s := linked live
  { s with now := now, fab := { s.fab with qps := [{ qp9 1 with msgs := [sentMsg], unacked := [⟨0, 2, 4, true⟩], nextPsn := 2, timer := some 20, tries := tries, owed := 1 }] } }
def half9 : State :=
  let s := linked live
  { s with fab := { s.fab with qps := [{ qp9 1 with up := false }] } }
def refusedOne : State :=
  let s := linked live
  { s with fab := { s.fab with refused := [sentMsg] } }

theorem wit_SequencingRows :
    (∃ q, qpOf (sending 1 20) hdr9 = some q) ∧ qpOf (sending 1 20) { hdr9 with inc := 2 } = none ∧ hdr9.qp < 0x8000 ∧
    (∃ q, (sending 1 20).fab.qps.find? (fun q => q.peer == hdr9.src && q.peerNum == hdr9.qp && q.peerInc == 2 && q.up) = some q) ∧
    (∃ q, findQp (sending 1 20) 9 1 = some q ∧ q.timer = some 20 ∧ 20 ≤ (sending 1 20).now ∧ q.tries < 7 ∧ q.up = true) ∧ (sending 1 19).now < 20 ∧ (∃ q, findQp (sending 7 20) 9 1 = some q ∧ 7 ≤ q.tries) ∧
    (findQp live 9 1 = none ∧ mayEstablish live 9 1 = true ∧ ∃ u, qpRoom live = some u) ∧ (∃ q, findQp half9 9 1 = some q ∧ q.up = false) ∧
    (∃ q, findQp { linked live with now := 10000 } 9 1 = some q ∧ q.unacked = [] ∧ q.msgs = [] ∧ q.lastUse + 10000 ≤ 10000 ∧ q.owed = 0) ∧
    (∃ q, findQp { linked live with now := 9999 } 9 1 = some q ∧ 9999 < q.lastUse + 10000) ∧
    (∃ q, findQp (sending 1 20) 9 1 = some q ∧ 0 < q.owed ∧ 10 * q.owedAt + fieldOf (xptCtrl (sending 1 20)) 15 8 ≤ 10 * (sending 1 20).now) ∧
    epochCheck (arrive (linked live) hdr9).1 hdr9 = 0 ∧ TakenAs (linked live) hdr9 ∧
    (∃ m, refusedOne.fab.refused.find? (fun m => m.id == 4) = some m ∧ ∃ a, address { refusedOne with fab := { refusedOne.fab with refused := [] } } m.out.dst m.out.cls = .ok a) := by
  refine ⟨⟨_, rfl⟩, rfl, by decide, ⟨_, rfl⟩, ⟨_, rfl, rfl, by decide, by decide, rfl⟩, by decide, ⟨_, rfl, by decide⟩, ⟨rfl, by decide, _, rfl⟩, ⟨_, rfl, rfl⟩,
    ⟨_, rfl, rfl, rfl, by decide, rfl⟩, ⟨_, rfl, by decide⟩, ⟨_, rfl, by decide, by decide⟩, by decide, ⟨rfl, by decide⟩, ⟨_, rfl, ok_of (by decide +kernel)⟩⟩


theorem wit_GoBackN :
    qpOf (linked live) { hdr9 with src := 8 } = none ∧ (∃ q, qpOf (linked live) hdr9 = some q ∧ hdr9.ack = none ∧ (0 + 2 ^ 24 - q.expPsn) % 2 ^ 24 = 0 ∧
      (4095 + 2 ^ 24 - q.expPsn) % 2 ^ 24 = 4095 ∧ 4095 < (4096 + 2 ^ 24 - q.expPsn) % 2 ^ 24 ∧ (4096 + 2 ^ 24 - q.expPsn) % 2 ^ 24 < 2 ^ 24 - 4096 ∧
      (2 ^ 24 - 4096 + 2 ^ 24 - q.expPsn) % 2 ^ 24 = 2 ^ 24 - 4096 ∧
      (linked live).fab.naks.any (fun x => x.1 == q.peer && x.2.1 == q.peerNum && decide ((linked live).now < x.2.2 + rtoOf (linked live))) = false) := by
  refine ⟨rfl, ⟨_, rfl, rfl, by decide, by decide, by decide, by decide, by decide, by decide⟩⟩


def joiner9 : Joiner := { device := 9, qp := 1, inc := 2, tag := 6 }
/-- A combinable read of device 9, pending here and answered. -/
def pendRead (index : Option Nat) : CombRead :=
  { id := 8, dst := 5, subject := 0, key := 0x30004, off := 0, len := 8, comp := 7, epoch := 3, cls := 1, first := joiner9, joiners := [], left := false, code := 0, bytes := [0, 0, 0, 0, 0, 0, 0, 0], index := index, version := 0 }
def pendState : State := { linked openKey with fab := { (linked openKey).fab with combReads := [pendRead none], addRecs := [{ device := 9, tag := 6, prev := [1], at_ := 0 }] } }
def combOn : State := setReg (linked openKey) 0x503000 3
def add9 : AddEntry := { device := 9, qp := 1, inc := 2, tag := 6, vals := [1] }

theorem wit_CombiningRows :
    qpOf (linked openKey) { hdr9 with inc := 2 } = none ∧ (∃ q, qpOf pendState hdr9 = some q ∧
      pendState.fab.combReads.any (fun e => e.dst == self pendState && (e.first == { device := hdr9.src, qp := q.peerNum, inc := q.peerInc, tag := 6 } || e.joiners.contains { device := hdr9.src, qp := q.peerNum, inc := q.peerInc, tag := 6 })) = true) ∧
    (combOn.fab.combReads = [] ∧ bitOf (combCtrl combOn) 0 = true ∧ (∃ x, readAnswer combOn hdr9 0 0x30004 0 8 true = .ok x) ∧ ∃ q, qpOf combOn hdr9 = some q) ∧
    epochCheck (linked openKey) hdr9 = 0 ∧ remoteCheck (linked openKey) hdr9 0x30004 0 (8 * add9.vals.length) rReduce = 0 ∧ (getK (linked openKey) 4).drafted = false ∧
    remoteCheck (linked openKey) hdr9 0x20004 0 (8 * add9.vals.length) rReduce = Code.keyRevoked ∧ (∃ r, pendState.fab.addRecs.find? (fun r => r.device == add9.device && r.tag == add9.tag) = some r) ∧
    ({ hdr9 with src := 5 } : Hdr).src = self pendState ∧ (∃ e, pendState.fab.combReads.find? (fun e => e.id == 8 && e.dst == self pendState) = some e ∧ e.index = none) ∧
    pendState.fab.combReads.find? (fun e => e.id == 9 && e.dst == self pendState) = none ∧
    (∃ w, (reading (readOf true 0)).reads.find? (fun w => w.id == 3 && w.comb) = some w ∧ w.tries = 0) ∧ (∃ w, (reading (readOf true 6)).reads.find? (fun w => w.id == 3 && w.comb) = some w ∧ 0 < w.tries ∧ w.tries < 7 ∧ w.due ≤ (reading (readOf true 6)).now) ∧
    (∃ w, (reading (readOf true 7)).reads.find? (fun w => w.id == 3 && w.comb) = some w ∧ 7 ≤ w.tries ∧ w.due ≤ (reading (readOf true 7)).now) ∧
    (∃ w, (reading { readOf true 1 with due := 1000 }).reads.find? (fun w => w.id == 3 && w.comb) = some w ∧ (reading (readOf true 1)).now < w.due) := by
  refine ⟨rfl, ⟨_, rfl, by decide⟩, ⟨rfl, by decide, ok_of (by decide +kernel), _, rfl⟩, by decide, by decide, by decide, by decide, ⟨_, rfl⟩, rfl, ⟨_, rfl, rfl⟩, by decide,
    ⟨_, rfl, rfl⟩, ⟨_, rfl, by decide, by decide, by decide⟩, ⟨_, rfl, by decide, by decide⟩, ⟨_, rfl, by decide⟩⟩

/-- Port `k` as given, with EN 1 in its control register where `en`. -/
def withPort (k : Nat) (p : Port) (en : Bool) (now : Nat) : State :=
  let s := linked live
  let s := if en then setReg s (0x500000 + 0x40 * k) 1 else s
  { s with now := now, fab := { s.fab with ports := (List.range 8).map (fun i => if i = k then p else Port.init) } }
def trunk (st : PortSt) : Port := { Port.init with st := st, role := 3, lanes := 8 }
def ringPort (st : PortSt) : Port := { Port.init with st := st, role := 2, lanes := 8 }
def pausedPort : Port := { trunk .up with xoffIn := 4, paused := [(2, 0)] }
/-- The adaptation register enables the window. -/
def adapts (s : State) (b : Bool) : Bool := bitOf (adaptCtrl s) 7 == b

theorem wit_PortRows_enable :
    isPhysical vf = false ∧ isPhysical pf = true ∧ bitOf (portCtrl (withPort 2 Port.init false 0) 2) 0 = false ∧ bitOf (1 : W64) 0 = true ∧ bitOf (1 : W64) 1 = false ∧
    bitOf (portCtrl (withPort 2 (trunk .up) true 0) 2) 0 = true ∧ bitOf (0 : W64) 0 = false ∧ (getP (withPort 2 (trunk .up) true 0) 2).onRing = false ∧
    (getP (withPort 2 (trunk .stalled) true 0) 2).st = .stalled ∧ (getP (withPort 2 (trunk .stalled) true 0) 2).xoffIn = 0 ∧ (getP (withPort 2 (trunk .stalled) true 0) 2).onRing = false := by decide
theorem wit_PortRows_states :
    (getP (withPort 2 (trunk .training) true 0) 2).st = .training ∧ (getP (withPort 2 (trunk .training) true 0) 2).attempts + 1 < 3 ∧
    3 ≤ (getP (withPort 2 { trunk .training with attempts := 2 } true 0) 2).attempts + 1 ∧ (getP (withPort 2 (trunk .up) true 0) 2).st ≠ .training ∧
    (getP (withPort 1 (ringPort .up) true 0) 1).st = .up ∧ (getP (withPort 1 (ringPort .up) true 0) 1).onRing = true ∧ (getP (withPort 2 (trunk .up) true 0) 2).st = .up ∧
    adapts (setReg (withPort 2 (trunk .up) true 0) 0x501020 0x80) true = true ∧ (getP (withPort 1 (ringPort .relock) true 10) 1).st = .relock ∧
    (withPort 1 (ringPort .relock) true 10).now ≤ (getP (withPort 1 (ringPort .relock) true 10) 1).since + 10 ∧ (getP (withPort 1 (ringPort .relock) true 11) 1).since + 10 < 11 ∧
    (getP (withPort 1 (ringPort .relock) true 9) 1).since + 10 > 9 ∧ (getP (withPort 2 (trunk .up) true 0) 2).role = 3 ∧ (getP (withPort 2 (trunk .up) true 0) 2).badAt = [] ∧
    (getP (withPort 1 (ringPort .up) true 0) 1).role ≠ 3 := by decide
theorem wit_PortRows_adapt :
    (getP (withPort 2 (trunk .up) true 0) 2).adaptEnd = 0 ∧ (getP (withPort 2 { trunk .up with adaptEnd := 5 } true 9999) 2).adaptEnd + 250 * fieldOf (adaptCtrl (setReg (withPort 2 { trunk .up with adaptEnd := 5 } true 9999) 0x501020 0x84)) 6 0 ≤ 9999 + 1 ∧
    9 + 1 < (getP (withPort 2 { trunk .up with adaptEnd := 5 } true 9) 2).adaptEnd + 250 * fieldOf (adaptCtrl (setReg (withPort 2 { trunk .up with adaptEnd := 5 } true 9) 0x501020 0x84)) 6 0 := by decide
theorem wit_PortRows_pause :
    (getP (withPort 2 pausedPort true 0) 2).paused.find 2 = some 0 ∧ 0 ≤ 0 + fieldOf (pauseCtrl (withPort 2 pausedPort true 0)) 15 0 * 100 ∧ natBit (getP (withPort 2 pausedPort true 7000000) 2).xoffIn 2 = true ∧
    0 + fieldOf (pauseCtrl (withPort 2 pausedPort true 7000000)) 15 0 * 100 < 7000000 ∧ (getP (withPort 2 (trunk .stalled) true 7000000) 2).released.all
      (fun r => decide (r.2 + fieldOf (pauseCtrl (withPort 2 (trunk .stalled) true 7000000)) 31 16 * 100 ≤ 7000000)) = true ∧
    fieldOf (pauseCtrl (setReg (withPort 2 (trunk .stalled) true 0) 0x501018 0x00000001)) 31 16 = 0 ∧ fieldOf (pauseCtrl (setReg (withPort 2 (trunk .stalled) true 0) 0x501018 0x00010001)) 31 16 ≠ 0 := by decide


def slotFor (d hops : Nat) : Slot := { full := true, hungry := false, hops := hops, dest := d, cls := 1, xoff := 0, bytes := 0, src := 9, xoffSrc := 0, hungrySrc := 0 }
def frameOf (port since : Nat) : Egress := { port := port, dst := 9, cls := 1, qp := 1, msg := 1, count := 1, frame := 64, laid := 0, since := since }
def onEast (e : List Egress) : State :=
  let s := withPort 1 (ringPort .up) true 2
  { s with fab := { s.fab with egress := e } }
/-- The queue pair with device 9 is to move to port 3. -/
def movingQp (un : List Unacked) : State :=
  let s := linked live
  { s with fab := { s.fab with qps := [{ qp9 1 with moveTo := some 3, moveBy := 5, unacked := un }] } }

/-- A replacement of the flow key that ends at 9 us. -/
def rekeying (t : Nat) : State :=
  let s := linked live
  { s with now := t, fab := { s.fab with nextKey := some 7, keyEnd := 9 } }

theorem wit_RingAndFlowRows_slots :
    (onEast []).tripped = false ∧ (0 : Nat) < 2 ∧ (getP (onEast []) (1 - 0)).st = .up ∧ (getP (onEast []) (1 - 0)).onRing = true ∧ (slotFor 5 3).xoff = 0 ∧ (slotFor 5 3).hungry = false ∧
    (getP (onEast []) (1 - 1)).st ≠ .up ∧ (slotFor 5 3).full = true ∧ (slotFor 5 3).dest = self (onEast []) ∧ (slotFor 9 2).dest ≠ self (onEast []) ∧ 1 < (slotFor 9 2).hops ∧ (slotFor 9 1).hops ≤ 1 ∧
    bitOf (ringCtrl (onEast [])) 8 = false ∧ bitOf (ringCtrl (setReg (onEast []) 0x501000 0x100)) 8 = true ∧ (getP (setReg (onEast []) 0x501000 0x100) 1).st = .up := by decide
theorem wit_RingAndFlowRows_flow :
    (onEast [frameOf 1 0]).fab.ring.hungry.contains 1 = false ∧ frameOf 1 0 ∈ (onEast [frameOf 1 0]).fab.egress ∧ (frameOf 1 0).port = 1 ∧ (frameOf 1 0).cls < 7 ∧ (frameOf 1 0).since + 2 ≤ (onEast [frameOf 1 0]).now ∧
    (getP (onEast [frameOf 1 0]) 1).onRing = true ∧ (onEast []).fab.egress = [] ∧ (findQp (movingQp []) 9 1).any (fun q => q.moveTo == some 3 && q.unacked == []) = true ∧
    (findQp (movingQp [⟨0, 1, 4, true⟩]) 9 1).any (fun q => q.unacked != [] && decide ((movingQp [⟨0, 1, 4, true⟩]).now < q.moveBy)) = true ∧ isPhysical pf = true ∧ (linked live).fab.nextKey = none ∧
    isPhysical vf = false ∧ (linked live).fab.ring.xoffAt < ({ linked live with now := 1 } : State).now ∧ (linked live).now ≤ (linked live).fab.ring.xoffAt ∧ natBit 5 2 = true ∧ (linked live).now < (linked live).fab.flowEnd ∧
    (linked live).fab.flowEnd ≤ ({ linked live with now := 1000 } : State).now ∧ (rekeying 9).fab.nextKey = some 7 ∧ (rekeying 9).fab.keyEnd ≤ (rekeying 9).now ∧ (rekeying 8).now < (rekeying 8).fab.keyEnd ∧
    hottest (linked live) [] = none ∧ (∀ q ∈ (linked live).fab.qps, q.rekey = false) := by decide
theorem wit_RingAndFlowRows_shape :
    byPhysical pf = true ∧ byPhysical vf = false ∧ fieldOf (shapeReg (linked live) 7 7) 15 0 = 0xFFFF ∧ fieldOf (0x100 : W64) 15 0 ≠ 0 ∧ fieldOf (0x100 : W64) 15 0 ≠ 0xFFFF ∧ (8 : Nat) ≤ 8 := by decide


/-- Customer 1 is valid in entry 0 with `level` units of 1/1000; entry 1 is not valid. -/
def custState (level burst rate : Nat) : State :=
  { cntState with adm := { cntState.adm with customers := [(0, { Customer.init with valid := true, customer := 1, keySlot := 0, level := level, burst := burst, rate := rate })] } }
def setCust (n : Nat) : W64 := BitVec.ofNat 64 (2 ^ 63 + 2 ^ 32 + n)

theorem wit_CustomerRows_write :
    byPhysical vf = false ∧ byPhysical pf = true ∧ 4095 < 4096 ∧ bitOf (setCust 1) 63 = true ∧ bitOf (0 : W64) 63 = false ∧ ((custState 0 0 0).adm.customers.get Customer.init 0).valid = true ∧
    ((custState 0 0 0).adm.customers.get Customer.init 1).valid = false ∧ (∃ x ∈ (custState 0 0 0).adm.customers, x.1 ≠ 1 ∧ x.2.valid = true ∧ x.2.customer = (custFields ((custState 0 0 0).adm.customers.get Customer.init 1) (setCust 1)).customer) ∧
    (custFields ((custState 0 0 0).adm.customers.get Customer.init 1) (setCust 2)).customer ≠ 0xFFFF ∧
    (∀ x ∈ (custState 0 0 0).adm.customers, x.1 ≠ 1 → x.2.valid = true → x.2.customer ≠ (custFields ((custState 0 0 0).adm.customers.get Customer.init 1) (setCust 2)).customer) := by decide
theorem wit_CustomerRows_admission :
    firmwareQueue ≤ 4032 ∧ 5 < firmwareQueue ∧ natBit (fieldOf ((custState 0 0 0).regs.get 0xF 0x700000) 3 0) (entryOf opNop 0 0 0 0).prio = true ∧
    natBit (fieldOf ((setReg (custState 0 0 0) 0x700000 0xE).regs.get 0xF 0x700000) 3 0) (entryOf opNop 0 0 0 0).prio = false ∧ knownCustomer (custState 0 0 0) 2 = none ∧
    knownCustomer (custState 5000 5 1) 1 = some 0 ∧ 5 * 1000 ≤ ((custState 5000 5 1).adm.customers.get Customer.init 0).level ∧ ((custState 4999 5 1).adm.customers.get Customer.init 0).level < 5 * 1000 ∧
    5 ≤ ((custState 4999 5 1).adm.customers.get Customer.init 0).burst ∧ ((custState 4999 5 1).adm.customers.get Customer.init 0).rate ≠ 0 ∧ ((custState 4999 4 1).adm.customers.get Customer.init 0).burst < 5 ∧
    ((custState 4999 5 0).adm.customers.get Customer.init 0).rate = 0 := by decide

/-- The other bank has two entries; the first of them grants tile 0 to the classes of `g`. -/
def spindleState (g0 g1 swap cur : Nat) : State :=
  let s := setReg (setReg (setReg live 0x802008 0x0002000F) 0x810000 (BitVec.ofNat 64 (g0 + 2 ^ 32 * g1))) 0x810020 0
  { s with til := { s.til with swap := swap, cur := cur, cycleSlots := 2 } }
def aTask (cls : Nat) : Task := { id := 1, instr := 7, half := 0, cls := cls, customer := 1, pages := [11], ceiling := 1, live := 1, tile := none, since := 0, cross := false }
def tasked (k : Task) : State := { live with til := { live.til with tasks := [k] } }

theorem wit_ScheduleRows_swap :
    isPhysical vf = false ∧ isPhysical pf = true ∧ (spindleState 1 1 0 0).til.swap = 0 ∧ spindleFails (spindleState 1 1 0 0) (1 - 0) (fieldOf (spindleNext (spindleState 1 1 0 0)) 26 16) (fieldOf (spindleNext (spindleState 1 1 0 0)) 5 0) = some 0 ∧
    spindleFails (spindleState 1 0 0 0) (1 - 0) (fieldOf (spindleNext (spindleState 1 0 0 0)) 26 16) (fieldOf (spindleNext (spindleState 1 0 0 0)) 5 0) = none ∧ (spindleState 1 0 2 0).til.swap ≠ 0 ∧
    (spindleState 1 0 2 1).til.cycleSlots ≤ (spindleState 1 0 2 1).til.cur + 1 ∧ (nextEntry (spindleState 1 0 2 1)).2 = 0 ∧ (spindleState 1 0 2 0).til.cur + 1 < (spindleState 1 0 2 0).til.cycleSlots ∧
    (nextEntry (spindleState 1 0 2 0)).2 ≠ 0 ∧ natBit (grantBits (spindleState 1 1 0 0) 1 0 0) 0 = true ∧ natBit (grantBits (spindleState 1 1 0 0) 1 0 1) 0 = true ∧
    live.now < live.til.slotAt + live.til.slotLen + 1 ∧ ({ spindleState 1 0 2 0 with now := 64 } : State).til.slotAt + ({ spindleState 1 0 2 0 with now := 64 } : State).til.slotLen + 1 ≤ 64 := by decide +kernel
theorem wit_ScheduleRows_pick :
    (getT { live with til := { live.til with tiles := [(0, { Tile.init with st := .outOfService })] } } 0).st = .outOfService ∧ (∃ k, pickFor (tasked (aTask 2)) 0 = some k) ∧
    grantNow (setReg (tasked (aTask 0)) 0x808000 1) 0 = some 0 ∧ lentNow (setReg (tasked (aTask 0)) 0x808000 1) 0 = false ∧ (∃ k, pickFor (setReg (tasked (aTask 0)) 0x808000 1) 0 = some k) ∧
    grantNow (setReg (tasked (aTask 2)) 0x808000 (1 <<< 32)) 0 = some 1 ∧ (pickFor (setReg (tasked (aTask 2)) 0x808000 (1 <<< 32)) 0).any (fun k => k.cls != 1) = true := by
  refine ⟨by decide +kernel, some_of (by decide +kernel), by decide +kernel, by decide +kernel, some_of (by decide +kernel), by decide +kernel, by decide +kernel⟩


/-- Tile 0 in a state, with the task or without. -/
def tileState (st : TileSt) (task : Option Nat) (descs : List Desc) : State :=
  let s := ownState 0
  { s with now := 1000, til := { s.til with
    tiles := [(0, { Tile.init with st := st, task := task })], tasks := [{ aTask 2 with tile := task.map (fun _ => 0) }], descs := descs } }
def readDesc : Desc := { id := 1, kind := 1, instr := 7, task := 1, page := 11, frame := none }
def heldSoon (s : State) : State := setReg s 0x808020 1

theorem wit_TileRows_states :
    (getT (tileState .running (some 1) []) 0).task = some 1 ∧ (∃ k, findTask (tileState .running (some 1) []) 1 = some k ∧ taskDone (tileState .running (some 1) []) k = true) ∧
    (∃ k, findTask (tileState .running (some 1) [readDesc]) 1 = some k ∧ taskDone (tileState .running (some 1) [readDesc]) k = false) ∧ (getT (tileState .running (some 1) []) 0).st = .running ∧
    (getT (tileState .saving (some 1) []) 0).st = .saving ∧ (getT (tileState .restoring (some 1) []) 0).st = .restoring ∧ (getT (tileState .waking (some 1) []) 0).st = .waking ∧
    (getT (tileState .waking none []) 0).task = none := by
  refine ⟨rfl, ⟨_, rfl, by decide⟩, ⟨_, rfl, by decide⟩, rfl, rfl, rfl, rfl, rfl⟩
theorem wit_TileRows_power :
    (getT (tileState .clockGated none []) 0).st = .clockGated ∧ bitOf (powerCtrl (tileState .clockGated none [])) 16 = true ∧
    (getT (tileState .clockGated none []) 0).since + fieldOf (powerCtrl (tileState .clockGated none [])) 15 0 ≤ (tileState .clockGated none []).now ∧ grantNow (tileState .clockGated none []) 0 ≠ some 0 ∧
    heldWithin (tileState .clockGated none []) 0 (fieldOf (powerCtrl (tileState .clockGated none [])) 15 0 + 2) = false ∧ (getT (tileState .powerGated none []) 0).st = .powerGated ∧
    (getT (tileState .powerGated none []) 0).heldOff = false ∧ heldWithin (heldSoon (tileState .powerGated none [])) 0 2 = true ∧ heldWithin (tileState .powerGated none []) 0 2 = false := by decide +kernel
theorem wit_TileRows_rest :
    (∃ k, findTask (tileState .running none []) 1 = some k ∧ readyTask (tileState .running none []) k = true ∧ bitOf (placeCtrl (tileState .running none [])) 32 = true ∧
      k.since + fieldOf (placeCtrl (tileState .running none [])) 23 16 ≤ (tileState .running none []).now) ∧ isPhysical pf = true ∧ bitOf (0x10000 : W64) 16 = true ∧ bitOf (0 : W64) 16 = false ∧
    2 ≤ fieldOf (0x708 : W64) 11 8 ∧ fieldOf (0x708 : W64) 11 8 ≤ 7 ∧ 2 ≤ fieldOf (0x708 : W64) 3 0 ∧ fieldOf (0x708 : W64) 3 0 ≤ 10 ∧ fieldOf (0x708 : W64) 11 8 + fieldOf (0x708 : W64) 3 0 ≤ 15 ∧
    15 < fieldOf (0x709 : W64) 11 8 + fieldOf (0x709 : W64) 3 0 ∧ live.til.halfOut.contains 1 = false ∧ live.til.lanesLost.get 0 1 + 2 ≤ 2 ∧ 2 < live.til.lanesLost.get 0 1 + 3 := by
  refine ⟨⟨_, rfl, by decide, by decide, by decide⟩, by decide, by decide, by decide, by decide, by decide, by decide, by decide, by decide, by decide, by decide, by decide, by decide⟩
/-- A page in host memory whose MOVE is under way. -/
def moveState : State :=
  let s := tileState .running (some 1) [{ readDesc with kind := 3, frame := some ⟨0, 0, 4⟩ }]
  { s with pages := [{ page0 with stack := none, host := some 0 }] }
theorem wit_TileRows_descriptors :
    (∃ d p, moveState.til.descs.find? (fun x => x.id == d.id) = some d ∧ d.kind = 3 ∧ findPage moveState d.page = some p ∧ p.lost = false ∧ p.tiers ≠ [] ∧ p.stack = none) ∧
    (∃ d k, (tileState .running (some 1) [readDesc]).til.descs.find? (fun x => x.id == d.id) = some d ∧ d.kind = 1 ∧ findTask (tileState .running (some 1) [readDesc]) d.task = some k ∧ k.tile = some 0 ∧
      ((tileState .running (some 1) [readDesc]).til.descs.filter (fun x => x.kind == 1 && x.task == d.task && x.instr == d.instr)).all (fun x => decide (d.id ≤ x.id)) = true) := by
  refine ⟨⟨{ readDesc with kind := 3, frame := some ⟨0, 0, 4⟩ }, { page0 with stack := none, host := some 0 }, by decide, rfl, by decide, rfl, by decide, rfl⟩, ⟨readDesc, { aTask 2 with tile := some 0 }, by decide, rfl, by decide, rfl, by decide⟩⟩

/-- Chapter 10's state changed. -/
def stack (f : Memc → Memc) : State := { ownState 0 with mc := f live.mc }
/-- A page with a clean host copy. -/
def cleanPage : State := { ownState 0 with pages := [{ page0 with host := some 0, hostDirty := false }] }

theorem wit_StackRows :
    (96 * 393215 + 96 ≤ halfBlocks live ∧ (blockAt live 191 393215) < 2 * halfBlocks live) ∧ live.now < live.mc.hotEnd ∧ live.mc.hotEnd ≤ ({ live with now := 100000 } : State).now ∧ hotChannel live (3, 0, 100) = false ∧ hotChannel live (3, 10000, 100) = true ∧ isPhysical vf = false ∧ isPhysical pf = true ∧ live.mc.rekey ≠ 1 ∧ (stack (fun m => { m with rekey := 1 })).mc.rekey = 1 ∧
    (stack (fun m => { m with nextKey := some 3 })).mc.nextKey.isSome = true ∧ (stack (fun m => { m with nextKey := some 3 })).mc.rekey = 0 ∧ braking (stack (fun m => { m with rekey := 1 })) = false ∧
    (stack (fun m => { m with rekey := 1 })).mc.halvesDone.contains 0 = false ∧ (stack (fun m => { m with rekey := 1 })).mc.fence0 < lastRow (stack (fun m => { m with rekey := 1 })) 0 ∧
    lastRow (stack (fun m => { m with rekey := 1, fence0 := 1000000 })) 0 ≤ 1000000 ∧ (stack (fun m => { m with halvesDone := [1] })).mc.halvesDone = [1] ∧ braking { live with ladder := 3 } = true ∧
    (stack (fun m => { m with rekey := 2 })).mc.rekey = 2 ∧ (stack (fun m => { m with rekey := 2 })).mc.holdUntil ≤ (stack (fun m => { m with rekey := 2 })).now ∧
    (stack (fun m => { m with holdUntil := 1 })).now < (stack (fun m => { m with holdUntil := 1 })).mc.holdUntil ∧ bitOf (live.regs.get 0x102 0x201028) 8 = true ∧
    bitOf ((setReg live 0x201028 2).regs.get 0x102 0x201028) 8 = false ∧ (findPage cleanPage 11).any (fun p => decide (p.kind ≠ .staged) && p.cleanIn tHost) = true ∧ 191 < 192 ∧
    live.mc.retrained.find 191 = none ∧ (stack (fun m => { m with retrained := [(0, 0)] })).mc.retrained.find 0 = some 0 ∧ live.now < 0 + 100000 ∧ errorRead [] = 0 ∧ errorRead [(0, 1)] = 1 ∧ errorRead [(35, 0x1234)] = 1 ∧ errorRead [(37, 1)] = 2 := by decide +kernel


/-- A table of two codes of one bit, in a file of 296 bytes with its CRCs. -/
def tableBytes : List Byte :=
  block 320 ([(0, 8, 0x425441494C495244), (8, 2, 1), (10, 2, 64), (12, 4, 296), (16, 8, 5), (24, 1, 1), (25, 1, 1), (56, 4, 3463730675), (60, 4, 4113041771)] ++
    [(64, 2, 1), (68, 4, 144), (72, 1, 0x11), (216, 2, 2), (220, 4, 64), (288, 2, 0xFF)] ++ (List.range 32).map (fun i => (224 + 2 * i, 2, i + 2)))
def goTable : W64 := BitVec.ofNat 64 (17367040 * 2 ^ 26 + 5 * 2 ^ 19 + 2 ^ 15)
/-- The table lies at the start of the carve. -/
def tableState : State := { live with dev := Mem.write [] carveBase tableBytes }

set_option maxRecDepth 100000 in
theorem wit_TableAndKeyRows_file : ((tableFile tableState 0x42400000 5).bind (fun bs => parseTable bs 5)).isSome = true := by decide +kernel
theorem wit_TableAndKeyRows_load :
    isPhysical vf = false ∧ isPhysical pf = true ∧ fieldOf goTable 18 15 ≠ 0 ∧ fieldOf goTable 25 19 = 5 ∧ fieldOf goTable 63 26 * 64 = 0x42400000 ∧ scheduling (setReg live 0x300010 (goTable &&& 0xFFFFFFFFFFFF8000)) = true ∧
    fieldOf ((setReg live 0x300010 (goTable &&& 0xFFFFFFFFFFFF8000)).regs.get 0 0x300018) 31 0 = 0 ∧ live.cx.slots.findIdx? (fun t => t.st == 0) = some 0 ∧ live.cx.loadWaiting = none ∧
    scheduling (setReg { live with fwRun := 0 } 0x300010 (goTable &&& 0xFFFFFFFFFFFF8000)) = false := by decide +kernel
/-- Block 0 of the carve is tagged by slot 2, which is retiring. -/
def retiring : State := { live with cx := { live.cx with slots := live.cx.slots.set 2 { TableSlot.free with st := 3 }, carveTags := [(0, 64)] } }
def keyed (st : Nat) : State :=
  let s := setReg live 0x300100 7
  { s with keySlots := [(1023, st)] }
theorem wit_TableAndKeyRows_keys :
    bitOf (live.regs.get 0x108 0x300008) 8 = true ∧ bitOf ((setReg live 0x300008 8).regs.get 0x108 0x300008) 8 = false ∧ braking live = false ∧ (retiring.cx.carveTags.find 0).any (tagRetiring retiring) = true ∧
    (live.cx.carveTags.find 0).any (tagRetiring live) = false ∧ (keyed 0).keySlots.get 0 1022 = 0 ∧ (keyData (keyed 0)).take 4 ≠ (keyData (keyed 0)).drop 4 ∧ (keyData live).take 4 = (keyData live).drop 4 ∧
    (keyed 1).keySlots.get 0 1023 = 1 ∧ (keyed 2).keySlots.get 0 1023 = 2 ∧ (1023 : Nat) < 1024 ∧ (keyed 2).own.copies = [] ∧ (keyed 2).own.homes = [] ∧ (keyed 2).rgn.keys = [] ∧ (keyed 2).til.tasks = [] := by decide

/-- A flash of one plane of four blocks of four pages, the first of them metadata; block 1 is closed, block 2 open. -/
def geom1 : FlashGeom := { raw := [], channels := 1, ces := [1], luns := 1, planes := 1, blocks := 4, pages := 4, rated := 3000, metaBlocks := 1, tBusy := 10, bad := [] }
def blk (st pe : Nat) : FlBlock := { st := st, pe := pe, reads := 0, used := 0 }
def block1 : Nat := 2 ^ 19
def block2 : Nat := 2 ^ 20
def flState (f : Fl → Fl) : State :=
  let s := ownState 0
  { s with now := 1000000, fl := f { s.fl with tier := 2, geom := some geom1, blocks := [(block1, blk 3 5), (block2, blk 2 1)], ckptAt := 0, ckptRecords := 20 } }
/-- A frame of the page in block 1. -/
def frame1 (st : Nat) : FlFrame := { kind := 0, about := 11, page := some page0, start := block1, len := 4, st := st, prev := none }
def framed (st : Nat) : State := { flState (fun f => { f with frames := [(1, frame1 st)] }) with pages := [{ page0 with flash := if st = 2 then some 1 else none }] }

theorem wit_FlashRows_read :
    live.fl.tier = 0 ∧ (flState id).fl.tier ≠ 0 ∧ (flState id).fl.targetsOut.contains (targetOf block1) = false ∧ (flState (fun f => { f with targetsOut := [0] })).fl.targetsOut.contains (targetOf block1) = true ∧
    (flState id).fl.erasing.contains (blockOf block1) = false ∧ ¬ (fieldOf (flPatrolCtrl (flState id)) 27 16 < 0 ∨ fieldOf (flPatrolCtrl (flState id)) 3 0 ≤ 0) ∧
    fieldOf (flPatrolCtrl (flState id)) 3 0 ≤ 9 ∧ (framed 2).fl.frames.find 1 = some (frame1 2) := by decide
theorem wit_FlashRows_program :
    (settle (framed 0)).fl.frames.find 1 = some (frame1 0) ∧ (settle (flState id)).fl.frames.find 1 = none ∧ (settle (flState (fun f => { f with erasing := [block1] }))).fl.erasing.contains block1 = true ∧
    (settle (flState (fun f => { f with erasing := [block1] }))).fl.frames.any (fun x => x.2.touches block1 && x.2.st != 3) = false ∧ min 1048575 ((getB (settle (flState id)) block1).pe + 1) < geom1.rated ∧
    geom1.rated ≤ min 1048575 ((getB (settle (flState (fun f => { f with blocks := [(block1, blk 3 2999)] }))) block1).pe + 1) ∧ (settle (flState id)).fl.erasing.contains block1 = false ∧
    (flState id).fl.frames.any (fun x => x.2.within block1 && decide (x.2.st < 3)) = false := by decide +kernel
theorem wit_FlashRows_patrol :
    inFlash (flState id) block1 = true ∧ inFlash (flState id) (2 ^ 40) = false ∧ inFlash (flState id) (4 * 2 ^ 19) = false ∧ geom1.bad.contains block1 = false ∧
    { geom1 with bad := [block1] }.bad.contains block1 = true ∧ (flState (fun f => { f with patrolling := some block1 })).fl.patrolling ≠ none ∧
    patrolNext (patrolPass (flState (fun f => { f with patrolled := some 0 }))) = some block1 ∧ patrolNext (patrolPass (flState (fun f => { f with patrolled := some 0 }))) ≠ some block2 ∧
    (flState id).fl.patrolled = none ∧ (flState id).now < (flState id).fl.patrolAt + fieldOf (flPatrolCtrl (flState id)) 63 48 * 3600000000 ∧
    { flState id with now := 2 ^ 50 }.fl.patrolAt + fieldOf (flPatrolCtrl { flState id with now := 2 ^ 50 }) 63 48 * 3600000000 ≤ { flState id with now := 2 ^ 50 }.now ∧
    (block1, blk 3 5) ∈ patrolBlocks { flState id with now := 2 ^ 50 } ∧ 0 < block1 ∧ (∀ x ∈ patrolBlocks (flState (fun f => { f with patrolled := some block2 })), x.1 ≤ block2) ∧
    (frame1 2).kind ≠ 2 ∧ { frame1 2 with kind := 2 }.kind = 2 := by decide
theorem wit_FlashRows_upkeep :
    (flState (fun f => { f with resets := [(0, 1)] })).fl.resets.find (targetOf block1) = some 1 ∧ (flState id).now < 1 + 1000000 ∧ (flState id).fl.resets.find (targetOf block1) = none ∧ live.fl.tier < 2 ∧
    2 ≤ (flState id).fl.tier ∧ braking (flState id) = false ∧ bitOf (flBgCtrl (flState id)) 8 = true ∧ blockOf block1 = block1 ∧ (15 : Nat) < 16 ∧ (flState id).fl.retrained.find 15 = none ∧ (flState (fun f => { f with busFails := [(15, 10)], retrained := [(15, 0)] })).fl.busFails.get 0 15 = 10 := by decide
theorem wit_FlashRows_unpaused :
    paused (flState id) = false := by decide +kernel





def jrec (type : Nat) : JRec := { seq := 0, type := type, arg := 1, frame := none, block := none, hold := none }
def flCopy (seq : Nat) (g : List Byte) : FlCopy := { seq := seq, journalSeq := 0, geom := g, frames := [], blocks := [(block2, blk 2 1)], shards := [], warm := none, warmFfn := 0 }
theorem wit_FlashMapRows_journal :
    (settle (flState (fun f => { f with jq := [jrec 1] }))).fl.jq = [jrec 1] ∧ (jrec 1).type = 1 ∧ (jrec 2).type ≠ 1 ∧ (settle (flState id)).fl.jq = [] ∧
    (framed 1).fl.frames.find 1 = some (frame1 1) ∧ (∃ q, findPage (framed 1) 11 = some q) := by
  refine ⟨by decide +kernel, by decide, by decide, by decide +kernel, by decide +kernel, some_of (by decide +kernel)⟩
theorem wit_FlashMapRows_reclaim :
    (flState id).fl.geom = some geom1 ∧ freeCount (settle (flState id)) geom1 0 ≤ 2 ∧ 2 < freeCount (settle (flState (fun f => { f with blocks := [] }))) geom1 0 ∧
    leastBlock (closedBlocks (settle (flState id)) 0) (fun x => validSectors (settle (flState id)) x.1) = some block1 ∧ (settle (flState id)).fl.refresh.contains block1 = false ∧
    (settle (flState (fun f => { f with refresh := [block1] }))).fl.refresh.contains block1 = true ∧ (settle (flState (fun f => { f with refresh := [block1] }))).fl.frames.any (fun x => x.2.within block1) = false ∧ braking { flState id with ladder := 3 } = true ∧
    bitOf (flBgCtrl (setReg (flState id) 0x400000 5)) 8 = false := by decide +kernel
/-- A shard record on its way, and the sides of a flash with channels on both or on one. -/
def shardFrame : FlFrame := { kind := 3, about := 7, page := none, start := block1, len := 2, st := 1, prev := none }
def twoSides : State := flState (fun f => { f with geom := some { geom1 with channels := 0x101 } })
theorem wit_FlashMapRows_sides :
    sideOut (flState id) 0 = false ∧ sideOut (flState id) 1 = true ∧ sideOut twoSides 0 = false ∧ sideOut twoSides 1 = false ∧ sideOut (flState (fun f => { f with targetsOut := [0] })) 0 = true ∧
    shardFrame.st = 1 ∧ shardFrame.page = none ∧ shardFrame.kind = 3 ∧ (flState (fun f => { f with frames := [(3, shardFrame)] })).fl.frames.find 3 = some shardFrame ∧
    (writeMapPages (flState id)).fl.copyA = none ∧ sideOut (settle twoSides) 1 = false := by decide +kernel
def worn : State := flState (fun f => { f with blocks := [(block1, blk 3 5), (block2, blk 2 600)] })
theorem wit_FlashMapRows_wear :
    ((block2, blk 2 600) ∈ (settle worn).fl.blocks ∧ (block1, blk 3 5) ∈ (settle worn).fl.blocks ∧ planeOf block1 = 0 ∧ planeOf block2 = 0 ∧ (blk 2 600).st ≤ 3 ∧ metaBlock geom1 block1 = false ∧ metaBlock geom1 block2 = false ∧
      5 + fieldOf (flWearCtrl worn) 31 16 < 600) ∧ leastBlock (closedBlocks (settle worn) 0) (fun x => x.2.pe) = some block1 := by decide +kernel
theorem wit_FlashMapRows_checkpoint :
    (flState id).fl.journal = [] ∧ (flState (fun f => { f with journal := [jrec 1], ckptRecords := 0 })).fl.journal.length = 2 ^ 0 ∧ (flState (fun f => { f with copyA := some (flCopy 3 []) })).fl.copyA = some (flCopy 3 []) ∧
    0 < (flCopy 3 []).seq ∧ (flCopy 3 []).seq ≤ (flCopy 4 []).seq ∧ (flCopy 3 []).seq < (flCopy 4 []).seq := by decide
theorem wit_FlashMapRows_recovery :
    (flState (fun f => { f with tier := 1 })).fl.tier = 1 ∧ (flState id).cfg.insert = false ∧ (flCopy 3 []).geom = geom1.raw ∧ (flCopy 3 [1]).geom ≠ geom1.raw ∧ (flState id).fl.tier ≠ 1 ∧ (flState id).fl.copyB = none := by decide
theorem wit_FlashMapRows_unpaused :
    paused (flState id) = false ∧ paused twoSides = false ∧ paused worn = false := by decide +kernel




/-- Two image slots: 0 in state `a` and 1 in state `b`, both for tenon blocks of version 2; slot 0 writes version 2, slot 1 version 9. -/
def slot (st out : Nat) : FwSlot := { FwSlot.empty with st := st, tenonMin := 2, tenonMax := 4, tenonOut := out }
def fwState (run a b : Nat) : State := { live with fwRun := run, now := 200000, fw := { live.fw with slots := [slot a 2, slot b 9] } }
/-- A handoff from slot 0 to slot 1 that began at `since`. -/
def handing (since : Nat) (from_ : Nat) : State :=
  let s := fwState 1 3 2
  let t := handoffStart { s with fw := { s.fw with slots := [slot 3 from_, slot 2 9] }, now := since } 1
  { t with now := 10000 }

theorem wit_FirmwareRows_load :
    live.halted = false ∧ isPhysical vf = false ∧ isPhysical pf = true ∧ (fwSlot (fwState 1 3 2) (fieldOf ((0 : W64) ||| 1) 1 1)).st = 3 ∧
    (fwSlot (fwState 1 3 2) (fieldOf ((2 : W64) ||| 1) 1 1)).st ≠ 3 ∧ ((fwState 1 3 2).fwRun ≠ 2 ∧ (fwState 1 3 2).fwRun ≠ 3) ∧ (handing 9000 2).fwRun = 3 ∧
    (handing 9000 2).fw.goal = fieldOf ((2 : W64) ||| 1) 1 1 ∧ fieldOf ((2 : W64) ||| 1) 29 16 < 2 ∧ 2 ≤ fieldOf ((0x20002 : W64) ||| 1) 29 16 ∧ 0x2000 < fieldOf ((0x20010002 : W64) ||| 1) 29 16 ∧
    fieldOf ((0x20000002 : W64) ||| 1) 29 16 = 0x2000 ∧ imageOk live.part (hostRead (fwState 1 3 2) (fidOf pf.port 0) 0 8192) 8192 = false := by decide +kernel
/-- The first 64 bytes of an image's header: format 1, 8192 bytes, stepping A1, key 0. -/
def head64 : List Byte :=
  [0x51, 0x58, 0x39, 0x46, 0x57, 0x49, 0x4D, 0x47] ++ leBytes 2 1 ++ leBytes 2 4096 ++ leBytes 4 8192 ++ leBytes 8 0 ++ [0x41, 0x31] ++ List.replicate 38 0
/-- An image with the payload's hash `d`, its key and signature zero. -/
def imageOf (d payload : List Byte) : List Byte := head64 ++ (d ++ (List.replicate 3984 0 ++ payload))
theorem slice_left (a b : List Byte) (off n : Nat) (h : off + n ≤ a.length) : sliceBytes (a ++ b) off n = sliceBytes a off n := by
  have h1 : n ≤ (a.drop off).length := by rw [List.length_drop]; omega
  have h2 : n - ((a ++ b).length - off) = 0 := by rw [List.length_append]; omega
  have h3 : n - (a.length - off) = 0 := by omega
  rw [sliceBytes, sliceBytes, h2, h3, List.drop_append_of_le_length (by omega), List.take_append_of_le_length h1]
theorem slice_right (a b : List Byte) (off n k : Nat) (hk : a.length = k) (h : k ≤ off) : sliceBytes (a ++ b) off n = sliceBytes b (off - k) n := by
  have e : (a ++ b).length - off = b.length - (off - k) := by rw [List.length_append]; omega
  have d : (a ++ b).drop off = b.drop (off - k) := by rw [List.drop_append, List.drop_eq_nil_of_le (by omega), List.nil_append, hk]
  rw [sliceBytes, sliceBytes, e, d]
/-- An image is valid for a part that holds its key's hash, whenever the payload's hash has 48 bytes and the signature verifies: both functions come from outside the spec, and the model leaves them
free. -/
theorem wit_FirmwareRows_image (payload : List Byte) (h48 : (Config.sha384 payload).length = 48) (hsig : Config.signatureOk (imageOf (Config.sha384 payload) payload) 0 = true) :
    imageOk { live.part with keyHash := [Config.sha384 (sliceBytes (imageOf (Config.sha384 payload) payload) 208 97)] } (imageOf (Config.sha384 payload) payload) 8192 = true := by
  have hd : (imageOf (Config.sha384 payload) payload).drop 4096 = payload := by
    have e : imageOf (Config.sha384 payload) payload = (head64 ++ (Config.sha384 payload ++ List.replicate 3984 0)) ++ payload := by simp only [imageOf, List.append_assoc]
    have l : (head64 ++ (Config.sha384 payload ++ List.replicate 3984 0)).length = 4096 := by
      rw [List.length_append, List.length_append, List.length_replicate, h48, show head64.length = 64 from by decide]
    rw [e, ← l, List.drop_left]
  have hs : sliceBytes (imageOf (Config.sha384 payload) payload) 64 48 = Config.sha384 payload := by
    rw [imageOf, slice_right _ _ _ _ 64 (by decide) (by decide), slice_left _ _ _ _ (by omega), sliceBytes, h48, List.drop_zero, ← h48, List.take_length, Nat.sub_zero, Nat.sub_self, List.replicate_zero, List.append_nil]
  have hz : sliceBytes (imageOf (Config.sha384 payload) payload) 305 3791 = List.replicate 3791 0 := by
    rw [imageOf, slice_right _ _ _ _ 64 (by decide) (by decide), slice_right _ _ _ _ 48 h48 (by decide), slice_left _ _ _ _ (by rw [List.length_replicate]), sliceBytes, List.drop_replicate,
      List.take_replicate, List.length_replicate, show min 3791 (3984 - (305 - 64 - 48)) = 3791 from by decide, show 3791 - (3984 - (305 - 64 - 48)) = 0 from by decide]
    exact List.append_nil _
  have hf : ∀ off n, off + n ≤ 64 → sliceBytes (imageOf (Config.sha384 payload) payload) off n = sliceBytes head64 off n := fun off n h => by
    rw [imageOf, slice_left _ _ _ _ (by rw [show head64.length = 64 from by decide]; exact h)]
  have hall : allZero (List.replicate 3791 0) = true := by
    rw [allZero, List.all_eq_true]
    intro x hx
    rw [List.eq_of_mem_replicate hx]; decide
  have hk : fieldBytes (imageOf (Config.sha384 payload) payload) 36 1 = 0 := by rw [fieldBytes, hf _ _ (by decide)]; decide
  unfold imageOk
  dsimp only [stepNoLater]
  rw [hk, hd, hs, hz, hsig, hall]
  simp only [fieldBytes]
  simp only [hf 0 8 (by decide), hf 8 2 (by decide), hf 10 2 (by decide), hf 12 4 (by decide), hf 37 27 (by decide), hf 20 4 (by decide), hf 24 1 (by decide), hf 25 1 (by decide)]
  simp only [List.getD_cons_zero, beq_self_eq_true, Bool.and_true]
  decide +kernel
theorem wit_FirmwareRows_activate :
    (1 : Nat) < 2 ∧ (fwState 0 0 0).fwRun < 2 ∧ (fwSlot (fwState 0 0 0) 1).st ≠ 2 ∧ (fwSlot (fwState 0 2 2) 1).st = 2 ∧ (fwState 0 2 2).fwRun = 0 ∧ (fwState 1 3 2).fwRun = 1 ∧
    (fwSlot (fwState 1 3 2) 1).st = 2 ∧ ({ fwState 1 3 2 with ladder := 1 } : State).ladder ≠ 0 ∧ (fwState 1 3 2).ladder = 0 ∧ (fwState 3 3 2).fwRun = 3 ∧ (fwState 4 3 2).fwRun = 4 ∧
    (fwState 2 3 2).fwRun = 2 ∧ (fwState 2 3 2).cpm.clearAt + 100000 ≤ (fwState 2 3 2).now ∧ ({ fwState 2 3 2 with now := 99999 } : State).now < (fwState 2 3 2).cpm.clearAt + 100000 := by decide
theorem wit_FirmwareRows_handoff :
    (handing 9000 2).fwRun = 3 ∧ tenonFits (handing 9000 2) = true ∧ (handing 9000 2).now ≤ (handing 9000 2).fw.since + 4500 ∧ (handing 5500 2).now = (handing 5500 2).fw.since + 4500 ∧
    (handing 5499 2).fw.since + 4500 < (handing 5499 2).now ∧ tenonFits (handing 9000 5) = false ∧ tenonFits (handing 9000 1) = false ∧ tenonFits (handing 9000 4) = true ∧
    braking (handing 9000 2) = false ∧ (fwState 1 3 2).err.cause = 0 := by decide +kernel
theorem wit_FirmwareRows_pause :
    paused (fwState 3 3 2) = true ∧ (fwState 3 3 2).halted = false ∧ firmwareRow .preemption = true ∧ firmwareRow .beatSendTick = false ∧
    (∃ r, findRun { pageState opPmove tStacks 0 with fwRun := 3 } 7 = some r ∧ firmwareOp r.ent = true) ∧ paused { pageState opPmove tStacks 0 with fwRun := 3 } = true := by
  refine ⟨by decide, rfl, rfl, rfl, ⟨_, rfl, by decide⟩, by decide⟩


/-- Port A in attachment state `a`, its heartbeat limit 2 s from time 0, at time `t`; queue 5 of it ACTIVE, queue 6 ORPHANED from ACTIVE. -/
def hostState (a t : Nat) : State :=
  { live with
    now := t, hosts := [{ HostPort.init with att := a, limit := 2000000, lease := 60 }, HostPort.init]
    tz := { live.tz with queues := [(5, { Queue.init with state := .active }), (6, { Queue.init with state := .orphaned, prior := .active }), (7, { Queue.init with state := .orphaned, prior := .waiting })] } }
theorem wit_AttachmentRows :
    (hostState 1 2000000).halted = false ∧ (0 : Nat) < 2 ∧ (hostState 1 2000000).hosts.length = 2 ∧ ownsPort vf vf.port = false ∧ (getH (hostState 2 0) 0).att = 2 ∧ (getH (hostState 0 0) 0).att = 0 ∧
    (getH (hostState 1 2000000) 0).att = 1 ∧ (getH (hostState 1 2000000) 0).hbAt + (getH (hostState 1 2000000) 0).limit ≤ (hostState 1 2000000).now ∧
    (hostState 1 1999999).now < (getH (hostState 1 1999999) 0).hbAt + (getH (hostState 1 1999999) 0).limit := by decide
theorem wit_AttachmentRows_queue :
    (hostState 1 0).tz.queues.find 5 = some { Queue.init with state := .active } ∧ 5 < firmwareQueue ∧ 0 * 64 ≤ ({ Queue.init with state := .active } : Queue).fid ∧
    ({ Queue.init with state := .active } : Queue).fid < 0 * 64 + 64 ∧ (∀ x ∈ (hostState 1 0).tz.queues, x.1 = 9 → x.2.fid < 0 * 64 ∨ 0 * 64 + 64 ≤ x.2.fid) ∧
    (hostState 2 0).tz.queues.find 6 = some { Queue.init with state := .orphaned, prior := .active } ∧ QState.active ≠ QState.orphaned ∧
    (hostState 2 0).tz.queues.find 7 = some { Queue.init with state := .orphaned, prior := .waiting } := by decide
theorem wit_AttachmentRows_lease :
    (getH (hostState 2 60000000) 0).orphanAt + (getH (hostState 2 60000000) 0).lease * 1000000 ≤ (hostState 2 60000000).now ∧ (hostState 2 59999999).now < (getH (hostState 2 59999999) 0).orphanAt + (getH (hostState 2 59999999) 0).lease * 1000000 ∧
    queuesOf { hostState 2 60000000 with tz := live.tz } (portFids 0) = [] ∧ live.own.copies = [] := by decide +kernel


/-- Port A with three virtual functions; queue 5 bound to virtual function 2, which owns counters 8 to 11. -/
def boxState : State :=
  let own := { Counter.init with owner := some 2 }
  { live with
    hosts := [{ HostPort.init with vfs := 3 }, HostPort.init]
    tz := { live.tz with queues := [(5, { Queue.init with bind := 2 <<< 32 })], counters := [(8, own), (9, own), (10, own), (11, own)] } }
/-- Every 4096th counter owned: no run of 4096 is free. -/
def crowded : State := { boxState with tz := { boxState.tz with counters := (List.range 15).map (fun m => (4096 * m + 4095, { Counter.init with owner := some 1 })) } }
theorem firstFrom_none (p : Nat → Bool) : ∀ n k, (∀ i, k ≤ i → i < k + n → p i = false) → firstFrom p n k = none
  | 0, _, _ => rfl
  | n + 1, k, h => by
    rw [firstFrom, if_neg (by rw [h k (by omega) (by omega)]; decide)]
    exact firstFrom_none p n (k + 1) (fun i h1 h2 => h i (by omega) (by omega))

theorem wit_MailboxRows_rows :
    boxState.halted = false ∧ ((3, Instr.counterEcho pf []) : Nat × Instr) ∈ [(1, Instr.counterAlloc pf []), (2, .counterFree pf []), (3, .counterEcho pf [])] ∧ ownsPort vf vf.port = false ∧
    ownsPort pf pf.port = true ∧ bitOf (mboxCtrl boxState 0) 47 = false ∧ bitOf (mboxCtrl (setReg boxState (portKey 0 0x900180) 0x800000000000) 0) 47 = true ∧ fwServes boxState = true ∧
    boxState.hosts.length = 2 ∧ fwServes { boxState with fwRun := 3 } = false := by decide +kernel
theorem wit_MailboxRows_header :
    64 ≤ fieldBytes (block 64 [(0, 1, 1), (1, 1, 64)]) 1 1 ∧ mboxReserved (block 64 [(0, 1, 1), (7, 1, 1)]) = true ∧ mboxReserved (block 64 [(0, 1, 1), (63, 1, 1)]) = true ∧ mboxReserved (block 64 [(0, 1, 9), (10, 1, 2)]) = true ∧ 9 < fieldBytes (block 64 [(0, 1, 10)]) 0 1 ∧ fieldBytes (block 64 []) 0 1 = 0 ∧
    (getH boxState 0).vfs < fieldBytes (block 64 [(0, 1, 1), (1, 1, 4)]) 1 1 ∧ fieldBytes (block 64 [(0, 1, 1), (1, 1, 3)]) 1 1 ≤ (getH boxState 0).vfs ∧ mboxReserved (block 64 [(0, 1, 1), (1, 1, 3), (8, 2, 9)]) = false := by
  decide +kernel
theorem wit_MailboxRows_alloc :
    fieldBytes (block 64 [(0, 1, 1), (1, 1, 2), (8, 2, 9)]) 0 1 = 1 ∧ fieldBytes (block 64 [(0, 1, 1), (1, 1, 2), (8, 2, 9)]) 8 2 = 9 ∧
    firstFrom (fun a => decide (a + 9 ≤ 65535) && (List.range 9).all (fun j => (getC boxState (a + j)).owner.isNone)) 65535 0 = some 12 ∧
    fieldBytes (block 64 [(0, 1, 1), (8, 2, 0)]) 8 2 = 0 ∧ 4096 < fieldBytes (block 64 [(0, 1, 1), (8, 2, 4097)]) 8 2 ∧ fieldBytes (block 64 [(0, 1, 1), (8, 2, 4096)]) 8 2 = 4096 := by
  decide +kernel
theorem wit_MailboxRows_crowded : firstFrom (fun a => decide (a + 4096 ≤ 65535) && (List.range 4096).all (fun j => (getC crowded (a + j)).owner.isNone)) 65535 0 = none := by
  have hc : ∀ m, m < 15 → (getC crowded (4096 * m + 4095)).owner.isNone = false := by decide +kernel
  refine firstFrom_none _ _ _ (fun i _ _ => ?_)
  by_cases h : i + 4096 ≤ 65535
  · have hm : i / 4096 < 15 := by omega
    rw [Bool.and_eq_false_iff]; right
    rw [List.all_eq_false]
    refine ⟨4096 * (i / 4096) + 4095 - i, by rw [List.mem_range]; omega, ?_⟩
    have e : i + (4096 * (i / 4096) + 4095 - i) = 4096 * (i / 4096) + 4095 := by omega
    rw [e, hc _ hm]; decide
  · simp [h]
theorem wit_MailboxRows_free :
    fieldBytes (block 64 [(0, 1, 2), (1, 1, 2), (8, 2, 8), (10, 2, 4)]) 0 1 = 2 ∧ fieldBytes (block 64 [(0, 1, 2), (1, 1, 2), (8, 2, 8), (10, 2, 4)]) 10 2 = 4 ∧
    (∀ j, j < 4 → (getC boxState (8 + j)).owner = some (fidOf 0 2)) ∧ (getC boxState (8 + 4)).owner ≠ some (fidOf 0 2) ∧ 65534 + fieldBytes (block 64 [(0, 1, 2), (10, 2, 1)]) 10 2 ≤ 65535 := by decide +kernel
theorem wit_MailboxRows_counter :
    8 < 65535 ∧ (getC boxState 8).owner = some (fidOf 0 2) ∧ (getC boxState 65534).owner ≠ some (fidOf 0 2) ∧ fieldBytes (block 64 [(0, 1, 3), (8, 2, 8), (10, 1, 1), (16, 8, 64)]) 16 8 % 8 = 0 ∧
    fieldBytes (block 64 [(0, 1, 3), (8, 2, 8), (10, 1, 3), (12, 2, 31), (16, 8, 64)]) 12 2 < vecTable (fidOf 0 2) ∧ mboxReserved (block 64 [(0, 1, 3), (8, 2, 8), (10, 1, 3), (12, 2, 31), (16, 8, 64)]) = false ∧ vecTable (fidOf 0 2) ≤ 32 ∧
    mboxReserved (block 64 [(0, 1, 4), (8, 2, 8), (10, 1, 1), (11, 1, 63), (12, 1, 3)]) = false ∧ mboxReserved (block 64 [(0, 1, 5), (8, 2, 8), (10, 2, 65535), (12, 1, 1)]) = false ∧ fieldBytes (block 64 [(0, 1, 3), (16, 8, 63)]) 16 8 % 8 ≠ 0 ∧
    fieldBytes (block 64 [(0, 1, 4), (8, 2, 8), (10, 1, 1), (11, 1, 63), (12, 1, 3)]) 10 1 < 2 ∧ fieldBytes (block 64 [(0, 1, 4), (8, 2, 8), (10, 1, 1), (11, 1, 63), (12, 1, 3)]) 11 1 < 64 ∧
    fieldBytes (block 64 [(0, 1, 4), (8, 2, 8), (10, 1, 1), (11, 1, 63), (12, 1, 3)]) 12 1 < 4 ∧ fieldBytes (block 64 [(0, 1, 5), (8, 2, 8)]) 0 1 = 5 := by decide +kernel
theorem wit_MailboxRows_rest :
    mboxReserved (block 64 [(0, 1, 6), (1, 1, 2), (8, 2, 5), (10, 2, 9)]) = false ∧ mboxReserved (block 64 [(0, 1, 8), (1, 1, 2), (8, 8, carveBase), (16, 4, 2 ^ 28)]) = false ∧ mboxReserved (block 64 [(0, 1, 9), (8, 2, 2047), (10, 1, 1)]) = false ∧
    fieldBytes (block 64 [(0, 1, 6), (1, 1, 2), (8, 2, 5), (10, 2, 9)]) 8 2 < firmwareQueue ∧ (getQ boxState 5).fid = fidOf 0 2 ∧ (getQ boxState 6).fid ≠ fidOf 0 2 ∧ firmwareQueue ≤ 4095 ∧
    fieldBytes (block 64 [(0, 1, 8), (1, 1, 2), (8, 8, carveBase), (16, 4, 2 ^ 28)]) 1 1 ≠ 0 ∧ fieldBytes (block 64 [(0, 1, 8), (1, 1, 2), (8, 8, carveBase), (16, 4, 2 ^ 28)]) 8 8 % 2 ^ 21 = 0 ∧
    fieldBytes (block 64 [(0, 1, 8), (1, 1, 2), (8, 8, carveBase), (16, 4, 2 ^ 28)]) 16 4 % 2 ^ 21 = 0 ∧ fieldBytes (block 64 [(0, 1, 8), (1, 1, 2), (8, 8, carveBase), (16, 4, 2 ^ 28)]) 16 4 ≤ 2 ^ 28 ∧
    carveBase ≤ fieldBytes (block 64 [(0, 1, 8), (1, 1, 2), (8, 8, carveBase), (16, 4, 2 ^ 28)]) 8 8 ∧ fieldBytes (block 64 [(0, 1, 9), (8, 2, 2047)]) 8 2 < 2048 ∧ fieldBytes (block 64 [(0, 1, 9), (8, 2, 2047)]) 1 1 = 0 := by
  decide +kernel


def logEv (sev : Nat) : LogEv := { event := 4, code := 0, severity := sev, queue := 0xFFFF, customer := 0xFFFF, object := nullHandle, args := [], port := some 0, at_ := 7 }
/-- Port A's ring is on with MIN_SEV 1, empty but for HEAD `h` and TAIL `t`. -/
def ringState (h t : Nat) : State :=
  setReg { live with logQ := [logEv 2], hosts := [{ HostPort.init with log := { LogRing.init with head := h, tail := t } }, HostPort.init] } (portKey 0 0x900098) 0x30000
theorem wit_LogAndTraceRows_log :
    (ringState 3 3).halted = false ∧ (ringState 3 3).logQ = [logEv 2] ∧ (logEv 2).port = some 0 ∧ (logEv 0).severity < fieldOf (logCtrl (ringState 3 3) 0) 19 17 ∧ fieldOf (logCtrl (ringState 3 3) 0) 19 17 ≤ (logEv 1).severity ∧
    logOpen (ringState 3 3) 0 = true ∧ logOpen (ringState 258 3) 0 = true ∧ logOpen (ringState 259 3) 0 = false ∧ (getH (ringState 3 3) 0).log.backlog = [] ∧ (getH (ringState 3 3) 0).log.lostNew = 0 ∧ (0 : Nat) < 2 ∧
    (ringState 3 3).hosts.length = 2 ∧ (ringState 3 3).resetting (fidOf 0 0) = false ∧ ({ logEv 2 with port := none, queue := 5 } : LogEv).queue < firmwareQueue ∧ firmwareQueue ≤ ({ logEv 2 with port := none } : LogEv).queue := by
  decide +kernel
theorem wit_LogAndTraceRows_backlog :
    ({ LogRing.init with backlog := List.replicate 4095 (logEv 1) } : LogRing).backlog.length < 4096 ∧ 4096 ≤ ({ LogRing.init with backlog := List.replicate 4096 (logEv 1) } : LogRing).backlog.length ∧
    (logEv 1).severity < sevDegraded := by
  refine ⟨by rw [List.length_replicate]; decide, by rw [List.length_replicate], by decide⟩
theorem wit_LogAndTraceRows_host :
    ownsPort vf vf.port = false ∧ ownsPort pf pf.port = true ∧ bitOf (logCtrl live pf.port) 16 = false ∧ (getH live pf.port).log.backlog = [] ∧ 2 < (getH (ringState 9 3) pf.port).log.tail ∧
    (getH (ringState 9 3) pf.port).log.head < 10 ∧ (getH (ringState 9 3) pf.port).log.tail ≤ 3 ∧ 9 ≤ (getH (ringState 9 3) pf.port).log.head := by decide +kernel
def trcEv : TraceEv := { point := 5, source := 0, queue := 5, customer := 1, payload := [] }
/-- Trace on into port A's host memory, the size code `n`, HEAD at `h`, with `c` records in this second. -/
def trcState (ctrl : W64) (h c : Nat) : State :=
  setReg (setReg { live with traceQ := [trcEv], trc := { live.trc with head := h, count := c } } 0xB00000 0x20) 0xB00038 ctrl
theorem wit_LogAndTraceRows_trace :
    (trcState 1 0 0).traceQ = [trcEv] ∧ live.traceQ = [] ∧ 0xDF < 0xE0 ∧ 8 ≤ 8 ∧ traceOn { trcState 1 0 0 with traceQ := [] } 5 = true ∧ traceOn { trcState 1 0 0 with traceQ := [] } 6 = false ∧ bitOf (trcCtrl live) 0 = false ∧
    bitOf (trcCtrl (trcState 1 64 0)) 0 = true ∧ bitOf (trcCtrl (trcState 1 64 0)) 1 = false ∧ trcSize (trcState 1 64 0) = 64 ∧ trcSize (trcState 1 64 0) ≤ (trcState 1 64 0).trc.head - (trcState 1 64 0).trc.tail ∧
    (trcState 1 63 31249999).trc.head - (trcState 1 63 31249999).trc.tail < trcSize (trcState 1 63 31249999) ∧ (trcState 1 63 31249999).trc.second = (trcState 1 63 31249999).now / 1000000 ∧
    (trcState 1 63 31249999).trc.count < 31250000 ∧ (trcState 1 63 31249999).orphans.contains (fieldOf (trcCtrl (trcState 1 63 31249999)) 2 2) = false ∧
    (trcState 1 63 31249999).resetting (fidOf (fieldOf (trcCtrl (trcState 1 63 31249999)) 2 2) 0) = false ∧ isPhysical vf = false ∧ isPhysical pf = true := by decide +kernel


/-- A device in service in which slot 0 runs an image of key 2, with port A's vector 3 pending, revoked key 1 and minimum SVN 4. -/
def serving : State :=
  { live with
    part := { live.part with minSvn := 4, revoked := [1] }, fw := { live.fw with slots := [{ FwSlot.empty with st := 3, keyIndex := 2 }, FwSlot.empty] }
    vecPending := [(0, 3)], vecOpen := [(0, 4)], hosts := [{ HostPort.init with vfs := 2, link := true, apertures := [(1, (carveBase, 4096))] }, HostPort.init] }
theorem wit_ResetRows_function :
    serving.halted = false ∧ (1 : Nat) < 2 ∧ 1 ≤ 63 ∧ 63 < 64 ∧ queuesOf serving [fidOf 1 63] = [] ∧ (getQ serving 5).fetched = [] ∧ inFlight serving 5 = [] ∧ serving.hosts.length = 2 ∧ serving.own.copies = [] ∧
    queuesOf serving (portFids 1) = [] ∧ serving.tripped = false ∧ ({ serving with halted := true } : State).halted = true ∧ ({ serving with tripped := true } : State).tripped = true := by decide +kernel
theorem wit_ResetRows_device :
    isPhysical vf = false ∧ isPhysical pf = true ∧ 0xC0DE % 65536 = 0xC0DE ∧ 0x1C0DE % 65536 = 0xC0DE ∧ 0xC0DF % 65536 ≠ 0xC0DE ∧ serving.tripped = false ∧ serving.ladder ≠ 4 ∧
    ({ serving with ladder := 4, tripped := true } : State).ladder = 4 := by decide
theorem wit_ResetRows_part :
    serving.part.minSvn < 5 ∧ 5 < 2 ^ 32 ∧ 4 ≤ serving.part.minSvn ∧ serving.fw.slots.any (fun x => x.st == 3 && x.keyIndex == 2) = true ∧ 3 < 4 ∧ serving.fw.slots.any (fun x => x.st == 3 && x.keyIndex == 3) = false ∧
    serving.part.revoked.contains 3 = false ∧ State.reset.cpm.aon = false ∧ serving.cpm.aon = true ∧ (∀ b, MgmtReq.fru ≠ .coldReset b) := by
  refine ⟨by decide, by decide, by decide, by decide, by decide, by decide, by decide, by decide, by decide, fun b h => by cases h⟩
theorem wit_ResetRows_vector :
    vecTable (fidOf 0 1) ≤ 32 ∧ 31 < vecTable (fidOf 0 1) ∧ serving.vecOpen.contains (fidOf 0 0, 4) = true ∧ serving.vecOpen.contains (fidOf 0 0, 3) = false ∧ serving.vecPending.contains (fidOf 0 0, 3) = true ∧
    serving.orphans.contains (fidOf 0 0 / 64) = false ∧ serving.resetting (fidOf 0 0) = false ∧ serving.vecPending.contains (fidOf 0 0, 2047) = false ∧ 2047 < vecTable (fidOf 0 0) := by decide +kernel
theorem wit_ResetRows_bar2 :
    (let at_ := bar2At serving { pf with fn := 1 } 4000
     let room := if at_.1 < carveBase then 0 else at_.2
     room = 96 ∧ (List.replicate 96 (0 : Byte)).length ≤ room ∧ room < (List.replicate 97 (0 : Byte)).length) ∧ pf.port < 2 ∧ serving.hosts.length = 2 := by decide +kernel

/-- A record of an image. -/
def cfgRec (ty : Nat) (body : List Byte) : List Byte := leBytes 2 ty ++ [0, 0] ++ leBytes 4 body.length ++ body
/-- The records of device 5 under G: no ring, no host window, one model, key slot 0. -/
def cfgBytes (pers : Nat) : List Byte :=
  cfgRec 1 (block 16 [(0, 2, 5), (4, 2, 0x7FFF), (8, 1, 1), (10, 1, 1)]) ++ cfgRec 2 (block 8 [(0, 1, pers)]) ++ cfgRec 3 (block 8 [(0, 1, 20), (1, 1, 16), (2, 1, 1)]) ++
    cfgRec 4 (block 32 [(4, 4, 64), (8, 4, 64), (12, 4, 64), (16, 2, 0x300)]) ++ cfgRec 6 (block 8 [(0, 1, 1)]) ++ cfgRec 7 (block 8 [(0, 1, 2)]) ++ cfgRec 8 (block 72 [(8, 8, 1)]) ++
    (List.range 8).flatMap (fun p => cfgRec 0xA (block 8 [(0, 1, p)])) ++
    cfgRec 0xF (block 64 [(0, 1, 1), (1, 1, 1), (2, 1, 1), (3, 1, 1), (8, 2, 32), (10, 2, 32), (12, 1, 0x10), (13, 1, 4), (14, 1, 4)])
/-- An image of SEQUENCE `seq`, its CRC as R553 has it. -/
def image (pers seq : Nat) : List Byte :=
  let bs := [0x51, 0x58, 0x39, 0x43, 0x46, 0x47, 0x49, 0x4D] ++ leBytes 2 1 ++ leBytes 2 64 ++ leBytes 4 (64 + (cfgBytes pers).length) ++ leBytes 8 seq ++ leBytes 4 16 ++ List.replicate 36 0 ++ cfgBytes pers
  bs.take 60 ++ leBytes 4 (crc32c bs) ++ bs.drop 64
/-- Copy A holds an image; the device is in STATE `st` with firmware state `run` and CFG_LAST_SEQ 3. -/
def cfgWith (st run pers seq : Nat) : State :=
  { live with
    cfgState := st, fwRun := run, hosts := [{ HostPort.init with link := true }, HostPort.init]
    cfg := { State.reset.cfg with copyA := { st := 2, bytes := image pers seq }, lastSeq := 3, used := 1, force := image 2 3 } }
/-- A started instruction under the configuration. -/
def cfgBusy (st : Nat) : State := withRun (cfgWith st 1 2 4) (runOf (entryOf opNop 0 0 0 0) [])
/-- A member of composition 7. -/
def cfgMember : State := { cfgWith 3 1 2 4 with comps := [{ slot := 0, map := map7, prev := none, prepared := none }] }
/-- Flash ready, with a warm-start image found. -/
def warmState (f : WarmImage → WarmImage) : State :=
  let s := { ownState 0 with fl := { State.reset.fl with tier := 2 } }
  { s with fl := { s.fl with warmFound := some (f { warmImage s with tableIds := [], weights := [], pages := [] }) } }

set_option maxRecDepth 100000 in
theorem wit_ConfigRows_load :
    isPhysical vf = false ∧ isPhysical pf = true ∧ (cfgWith 0 1 2 3).halted = false ∧ (cfgWith 1 1 2 3).cfgState = 1 ∧ (cfgWith 0 1 2 3).cfgState ≠ 1 ∧ (cfgWith 0 1 2 3).cfgState ≠ 2 ∧
    bitOf ((0x400000 : W64) ||| 1) 1 = false ∧ bitOf ((0x400002 : W64) ||| 1) 1 = true ∧ fieldOf ((0x400002 : W64) ||| 1) 36 16 = 64 ∧ imageValid (image 2 3) = true ∧ imageValid ((image 2 3).set 16 4) = false := by
  decide +kernel
set_option maxRecDepth 100000 in
theorem wit_ConfigRows_enable :
    bitOf (4 : W64) 1 = false ∧ (cfgWith 0 1 2 3).fwRun = 1 ∧ live.cfg.copyA.st ≠ 2 ∧ live.cfg.copyB.st ≠ 2 ∧ (cfgWith 0 0 2 3).fwRun = 0 ∧ (cfgWith 4 2 2 3).cfgState = 4 ∧ (cfgWith 0 3 2 3).fwRun = 3 ∧
    (cfgWith 0 1 2 3).cfg.copyA.st = 2 ∧ (cfgWith 0 1 2 3).cfg.copyB.st = 0 ∧ (cfgWith 0 1 2 3).cfg.lastSeq ≤ imageSeq (cfgWith 0 1 2 3).cfg.copyA.bytes ∧
    imageSeq (cfgWith 0 1 2 2).cfg.copyA.bytes < (cfgWith 0 1 2 2).cfg.lastSeq ∧ checkRecords (cfgWith 0 1 2 3) (imageRecords (cfgWith 0 1 2 3).cfg.copyA.bytes) none = none ∧
    checkRecords (cfgWith 0 1 9 3) (imageRecords (cfgWith 0 1 9 3).cfg.copyA.bytes) none = some (Code.cfgPersonalityInvalid, 1) := by decide +kernel
set_option maxRecDepth 100000 in
theorem wit_ConfigRows_live :
    (cfgWith 3 1 2 4).cfgState = 3 ∧ (cfgWith 3 1 2 4).til.swap = 0 ∧ (cfgWith 3 1 2 4).cfg.lastSeq < imageSeq (cfgWith 3 1 2 4).cfg.copyA.bytes ∧
    checkRecords (cfgWith 3 1 2 4) (imageRecords (cfgWith 3 1 2 4).cfg.copyA.bytes) none = none ∧
    liveFails (imageRecords (cfgWith 3 1 2 4).cfg.force) (imageRecords (cfgWith 3 1 2 4).cfg.copyA.bytes) = none ∧ cfgMember.comps ≠ [] ∧ cfgMember.fwRun ≠ 3 := by decide +kernel
theorem wit_ConfigRows_apply :
    (cfgWith 1 1 2 4).cfgState = 1 ∧ ({ cfgWith 1 1 2 4 with cfg := { (cfgWith 1 1 2 4).cfg with replacing := true } } : State).cfg.replacing = true ∧ (cfgWith 1 1 2 4).cfg.waiting = none ∧
    (cfgWith 1 1 2 4).tz.started = [] ∧ (cfgWith 2 1 2 4).cfgState = 2 ∧ (cfgWith 3 1 2 4).cfgState ≠ 1 ∧ (cfgWith 3 1 2 4).cfgState ≠ 2 ∧ bitOf (2 : W64) 0 = false ∧ (cfgWith 0 1 2 4).cfgState ≠ 3 ∧
    (cfgBusy 3).tz.started ≠ [] ∧ (cfgBusy 3).comps = [] ∧ (cfgWith 3 1 2 4).fl.tier = 0 ∧ cfgMember.cfgState = 3 ∧ bitOf (2 : W64) 2 = false := by
  refine ⟨rfl, rfl, rfl, rfl, rfl, by decide, by decide, by decide, by decide, by decide, rfl, rfl, rfl, by decide⟩
theorem wit_ConfigRows_import :
    live.fl.warmFound = none ∧ (∃ w, (warmState id).fl.warmFound = some w ∧ enabled (warmState id) = true ∧ 2 ≤ (warmState id).fl.tier ∧ (warmState id).cfg.replacing = false ∧
      w.keys = (warmImage (warmState id)).keys ∧ w.device = self (warmState id) ∧ w.carve = (warmImage (warmState id)).carve ∧ w.tableIds = [] ∧ w.weights = [] ∧ w.pages = []) ∧
    (∃ w, (warmState (fun w => { w with device := 9 })).fl.warmFound = some w ∧ w.keys = (warmImage (warmState (fun w => { w with device := 9 }))).keys ∧ w.device ≠ self (warmState (fun w => { w with device := 9 }))) ∧
    ∃ w, (warmState (fun w => { w with keys := [] })).fl.warmFound = some w ∧ w.keys ≠ (warmImage (warmState (fun w => { w with keys := [] }))).keys :=
  ⟨rfl, ⟨_, rfl, by decide, by decide, rfl, rfl, rfl, rfl, rfl, rfl, rfl⟩, ⟨_, rfl, rfl, by decide⟩, ⟨_, rfl, fun h => absurd (congrArg List.length h) (by decide)⟩⟩


/-- Start-up at the points where its rows act. -/
def starting (osc rom supplies : Bool) (due : Option Nat) : State :=
  { State.reset with cpm := { State.reset.cpm with aon := true, osc := osc, rom := rom, supplies := supplies, avsDue := due } }
/-- Telemetry on; `sent` bytes went out this second. -/
def telemState (en : Nat) (head sent : Nat) : State :=
  let s := setReg live 0x20080 (BitVec.ofNat 64 (0x00007FFF000A0100 + en))
  { s with now := 1000, cpm := { s.cpm with telem := { s.cpm.telem with head := head, sent := [(0, 0, sent)] } } }

theorem wit_PowerUpRows_power :
    live.cpm.aon = true ∧ State.reset.cpm.aon = false ∧ live.cpm.supplies = true ∧ State.reset.cpm.supplies = false ∧ (starting false false false none).cpm.aon = true ∧ (starting false false false none).ladder ≠ 4 ∧
    (starting false false false none).cpm.osc = false ∧ (starting true false false none).cpm.osc = true ∧ (starting true false false none).cpm.rom = false ∧ (starting true true false none).cpm.rom = true ∧
    (starting true true false none).cpm.supplies = false ∧ ({ live with ladder := 4 } : State).ladder = 4 := by decide
theorem wit_PowerUpRows_avs :
    live.cpm.avsDue = none ∧ (starting true true true (some 825)).cpm.avsDue = some 825 ∧ (starting true true true none).part.avsTarget < 825 ∧ 750 = (starting true true true none).part.avsTarget ∧
    (starting true true true (some 750)).cpm.avsDue = some 750 ∧ (starting true true true (some 825)).now < (starting true true true (some 825)).cpm.avsAt + 10000 ∧
    (starting true true true (some 825)).cpm.avsAt + 10000 ≤ ({ starting true true true (some 825) with now := 10000 } : State).now := by decide
theorem wit_PowerUpRows_stacks :
    (starting true true true none).cpm.rom = true ∧ (starting true true true none).cpm.supplies = true ∧ (starting true true true none).cpm.trained = false ∧ (starting true true true none).halted = false ∧ live.cpm.trained = true ∧
    (1 : Nat) < 2 ∧ live.tripped = false ∧ (sbIn live (4 + 1)).effective = false ∧ 1 ≤ 16 ∧ 16 ≤ 16 ∧ 25 ≤ 640 ∧ 640 ≤ 640 := by decide
theorem wit_PowerUpRows_idle :
    live.halted = false ∧ 191 < (if (0 : Nat) = 2 then 8 else if (0 : Nat) = 3 then (if live.fl.tier = 0 then 0 else 16) else 192) ∧ (2 : Nat) < 4 ∧ 7 < (if (2 : Nat) = 2 then 8 else 192) := by decide
theorem wit_PowerUpRows_telemetry :
    bitOf (telemCtrl (telemState 0 0 0)) 0 = false ∧ bitOf (telemCtrl (telemState 1 0 999744)) 0 = true ∧ fieldOf (telemCtrl (telemState 1 0 999744)) 46 32 = noDevice ∧ telemShare (telemState 1 0 999744) 0 = true ∧
    (telemState 1 0 0).orphans.contains (telemPort (telemState 1 0 0)) = false ∧ telemSize (telemState 1 15 0) = 16 ∧ (telemState 1 15 0).cpm.telem.head - (telemState 1 15 0).cpm.telem.tail < telemSize (telemState 1 15 0) ∧
    (telemState 1 0 0).resetting (fidOf (telemPort (telemState 1 0 0)) 0) = false ∧ (telemState 1 15 0).cpm.telem.lastAt + fieldOf (telemCtrl (telemState 1 15 0)) 15 8 * 1000 ≤ (telemState 1 15 0).now ∧
    (telemState 0 0 0).cpm.telem.lastAt + fieldOf (telemCtrl (telemState 0 0 0)) 15 8 * 1000 ≤ (telemState 0 0 0).now ∧ live.now < live.cpm.telem.lastAt + fieldOf (telemCtrl live) 15 8 * 1000 ∧ 6 < 7 ∧ (3 : Nat) ≠ 1 ∧ (3 : Nat) ≠ 2 ∧ live.cfgState ≠ 0 := by decide +kernel


/-- The device with the ladder's steps, at time 20000 µs. -/
def ladderState (notice throttle : Step) (brake : Bool) (ladder : Nat) : State :=
  { live with now := 20000, ladder := ladder, cpm := { live.cpm with notice := notice, throttle := throttle, brakeOn := brake } }
/-- Sideband input `i` as given, in six. -/
def pinState (i : Nat) (x : SbIn) : State := { live with now := 20000000, cpm := { live.cpm with sb := State.reset.cpm.sb.set i x } }
def onPin : SbIn := { SbIn.off with filtered := true, effective := true, limit := 10 }
def heldPin (since : Nat) : SbIn := { SbIn.off with effective := true, held := true, offSince := since }

theorem wit_LadderRows_tick :
    (ladderState Step.off Step.off false 4).ladder = 4 ∧ (ladderState Step.off Step.off false 0).ladder ≠ 4 ∧ ((16 * 110 - 1 : Nat) : Int) < 16 * 110 ∧ fieldOf (pwrCtrl live) 47 32 * 1000 < 1100001 ∧
    ¬ fieldOf (pwrCtrl live) 47 32 * 1000 < 1100000 ∧ ((16 * fieldOf (pwrCtrl live) 31 24 : Nat) : Int) ≤ 16 * 95 ∧ ((16 * 95 - 1 : Nat) : Int) < (16 * fieldOf (pwrCtrl live) 31 24 : Nat) ∧
    ((16 * fieldOf (pwrCtrl live) 23 16 : Nat) : Int) ≤ 16 * 100 ∧ (ladderState Step.off Step.off false 0).cpm.notice = Step.off ∧ (ladderState Step.off Step.off false 0).cpm.throttle = Step.off ∧
    (ladderState Step.off Step.off false 0).cpm.brakeOn = false ∧ (ladderState Step.off Step.off false 0).cpm.notice.on = false := by decide
theorem wit_LadderRows_clear :
    (ladderState { on := true, at_ := 0, ceased := some 10000 } Step.off false 1).cpm.notice.ceased = some 10000 ∧ 10000 + 10000 ≤ (ladderState Step.off Step.off false 1).now ∧ (ladderState Step.off Step.off false 1).now < 10001 + 10000 ∧
    (ladderState Step.off { on := true, at_ := 0, ceased := some 9 } false 2).cpm.throttle.ceased = some 9 ∧ (ladderState Step.off { on := true, at_ := 0, ceased := some 9 } false 2).cpm.throttle.on = true ∧
    (ladderState Step.off Step.off true 3).cpm.brakeOn = true ∧ (sbIn live 0).effective = false ∧ (sbIn (pinState 0 onPin) 0).effective = true ∧ (pinState 0 onPin).cpm.brakeOn = false ∧ (sbIn (pinState 1 onPin) 1).effective = true ∧
    (sbIn live 1).effective = false ∧ (pinState 0 onPin).halted = false ∧ ({ pinState 0 onPin with fwRun := 3 } : State).fwRun = 3 := by decide
theorem wit_LadderRows_trip :
    ({ pinState 0 onPin with ladder := 4 } : State).ladder = 4 ∧ (pinState 0 onPin).cpm.tripNow = 0 ∧ ({ pinState 0 onPin with now := 1000000 } : State).cpm.tripGone + 1000000 ≤ 1000000 ∧ 999999 < live.cpm.tripGone + 1000000 := by decide
theorem wit_LadderRows_pins :
    (6 : Nat) ≤ 6 ∧ State.reset.cpm.aon = false ∧ (sbIn live 2).filtered = false ∧ live.cpm.aon = true ∧ (5 : Nat) < 6 ∧ (sbIn live 5).filtered ≠ true ∧ live.cpm.sb.length = 6 ∧ (sbIn live 5).held = false ∧ (sbIn live 5).last = none ∧
    (sbIn (pinState 2 (heldPin 0)) 2).held = true ∧ (sbIn (pinState 2 (heldPin 0)) 2).filtered ≠ true ∧ (sbIn (pinState 2 { SbIn.off with last := some 19999900 }) 2).last = some 19999900 ∧
    19999900 + 100 ≤ (pinState 2 SbIn.off).now ∧ (pinState 2 SbIn.off).now < 19999901 + 100 ∧ (sbIn (pinState 2 { SbIn.off with last := some 19999901 }) 2).last = some 19999901 := by decide
theorem wit_LadderRows_overrun :
    (sbIn (pinState 2 (heldPin 19990000)) 2).held = true ∧ (sbIn (pinState 2 (heldPin 19990000)) 2).filtered = false ∧ (sbIn (pinState 2 (heldPin 19990000)) 2).offSince + 10000 ≤ (pinState 2 (heldPin 19990000)).now ∧
    (pinState 2 (heldPin 19990001)).now < (sbIn (pinState 2 (heldPin 19990001)) 2).offSince + 10000 ∧ (sbIn (pinState 1 onPin) 1).stuck = false ∧ (sbIn (pinState 1 onPin) 1).onSince + (sbIn (pinState 1 onPin) 1).limit * 1000000 < (pinState 1 onPin).now ∧
    (sbIn (pinState 1 { onPin with stuck := true }) 1).stuck = true := by decide
theorem wit_LadderRows_clocks :
    live.tripped = false ∧ (2 : Nat) < 3 ∧ live.cpm.coast.contains 2 = false ∧ ({ live with tripped := true } : State).tripped = true ∧ (8 : Nat) ≤ 8 ∧ ({ live with cpm := { live.cpm with coast := [2] } } : State).cpm.coast.contains 2 = true ∧
    live.cpm.ref100 = true ∧ live.cpm.osc = true ∧ State.reset.cpm.osc = false ∧ live.ladder ≠ 4 := by decide
theorem wit_LadderRows_gates :
    isPhysical vf = false ∧ isPhysical pf = true ∧ gateBelow 0x106 = none ∧ gateBelow 4095 = none ∧ gateBelow 0x1FD = some [] ∧ (∃ k, gateBelow 0x2F = some k ∧ k.all (fun k => live.cpm.held.contains k) = false) ∧
    (∃ k, gateBelow 0x10 = some k ∧ k.all (fun k => (({ live with cpm := { live.cpm with held := [0x100, 0x101, 0x102, 0x103, 0x104, 0x105] } } : State).cpm.held).contains k) = true) :=
  ⟨by decide, by decide, by decide, by decide, by decide, ⟨_, rfl, by decide⟩, ⟨_, rfl, by decide⟩⟩


def recOf (sev hold : Nat) : ErrRec :=
  { escalated := false, severity := sev, own := sev, unit_ := 1, index := 0, code := 0, object := 0, at_ := 0, queue := 0xFFFF, customer := 0xFFFF, cause := 0, hold := hold }
def errState (p q : Option ErrRec) (cause : Nat) : State := { live with now := 5000000, err := { live.err with primary := p, secondary := q, cause := cause } }
theorem wit_ErrorRows_capture :
    (errState none none 0).err.cause = 0 ∧ (errState none none 0).err.primary = none ∧ (errState (some (recOf 1 5)) none 0).err.primary = some (recOf 1 5) ∧ (errState (some (recOf 1 5)) none 0).err.secondary = none ∧
    sevContained < sevFatal ∧ sevDegraded < sevFatal ∧ (errState (some (recOf 1 5)) (some (recOf 2 5)) 0).err.secondary = some (recOf 2 5) ∧ (errState none none 2).err.cause ≠ 0 ∧ ({ live with tripped := true } : State).tripped = true ∧
    live.tripped = false ∧ (7 : Nat) < 8 ∧ 8 ≤ 8 ∧ 32 ≤ 32 ∧ 31 < 32 ∧ tileInstr (errState none none 0) 31 = none ∧ (errState none none 0).halted = false := by decide
theorem wit_ErrorRows_release :
    isPhysical pf = true ∧ isPhysical vf = false ∧ (2 : Nat) ≤ 2 ∧ errRecord (errState none none 0) 1 = none ∧ errRecord (errState (some (recOf sevDegraded 5)) none 0) 0 = some (recOf sevDegraded 5) ∧
    (recOf sevDegraded 5).hold ≠ 0 ∧ (recOf sevDegraded 5).at_ + (recOf sevDegraded 5).hold * 1000000 ≤ (errState none none 0).now ∧ (errState none none 0).now < (recOf sevDegraded 6).at_ + (recOf sevDegraded 6).hold * 1000000 ∧
    (recOf sevContained 5).severity ≠ sevDegraded ∧ (recOf sevDegraded 0).hold = 0 := by decide
theorem wit_ErrorRows_logged :
    (recOf sevContained 5).severity = sevContained ∧ (errState (some (recOf sevContained 5)) none 0).logQ = [] ∧ bitOf ((errState none none 0).regs.get 0x3C 0xA00058) 16 = false ∧
    bitOf ((setReg (errState none none 0) 0xA00058 0x1003C).regs.get 0x3C 0xA00058) 16 = true ∧ (recOf sevDegraded 5).severity ≠ sevContained := by decide
theorem wit_ErrorRows_dump :
    live.tripped = false ∧ ({ live with halted := true } : State).halted = true ∧ State.reset.cfgState = 0 ∧ ¬ (live.tripped = false ∧ (live.halted = true ∨ live.cfgState = 0 ∨ live.cfgState = 4 ∨ live.cfgState = 6)) ∧
    fieldOf ((0 : W64) ||| 1) 39 1 = 0 ∧ fieldOf ((2 : W64) ||| 1) 39 1 ≠ 0 ∧ State.reset.resetting (fidOf pf.port 0) = false := by decide

theorem wit_RegisterWrites_size :
    ¬ ((8 : Nat) = 8 ∧ 4 % 8 = 0) ∧ ¬ ((8 : Nat) = 4 ∧ 4 % 4 = 0) ∧ ¬ ((2 : Nat) = 8 ∧ 0 % 8 = 0) ∧ ¬ ((2 : Nat) = 4 ∧ 0 % 4 = 0) ∧ 0x501004 % 8 = 4 ∧ 0x501004 < 0x1000000 ∧ 0x501000 % 8 = 0 := by decide
theorem wit_RegisterWrites_who :
    ({ live with halted := true } : State).halted = true ∧ 0x10000 ≤ 0x1FFFF ∧ 0x1FFFF < 0x20000 ∧ 0x40000 ≤ 0x9FFFFF ∧ 0x9FFFFF < 0xA00000 ∧ 0xB00000 ≤ 0xB00000 ∧ isPhysical vf = false ∧ 0x3FFF8 % 8 = 0 ∧ 0x3FFF8 < 0x40000 ∧
    0x80000 ≤ 0x900038 ∧ 0x900038 < 0x900040 ∧ 0xA00000 ≤ 0xA00000 ∧ live.halted = false ∧ isPhysical pf = true ∧ (∃ r, r ∈ rwRegs) ∧ 4095 < 4096 := by
  refine ⟨rfl, by decide, by decide, by decide, by decide, by decide, by decide, by decide, by decide, by decide, by decide, by decide, rfl, by decide, ⟨rwRegs.head (by decide), List.head_mem _⟩, by decide⟩
theorem wit_RegisterWrites_field : (0 : Nat) ≤ 63 ∧ 63 < 64 ∧ 5 ≤ 9 ∧ 4 < 5 ∧ 9 < 10 := by decide




/-- A device in service in which nothing is under way. -/
def quiet : State := live
theorem wit_IdleMicrosecond :
    quiet.pending = [] ∧ State.reset.cpm.aon = false ∧ quiet.cpm.aon = true ∧ quiet.halted = false ∧ ({ quiet with halted := true } : State).halted = true ∧ quiet.cfg.waiting = none ∧ quiet.cfgState ≠ 5 ∧ quiet.tz.counters = [] ∧
    (∀ h ∈ quiet.hosts, h.resets = []) ∧ bitOf (mboxCtrl quiet 0) 47 = false ∧ bitOf (mboxCtrl quiet 1) 47 = false ∧ fieldOf (shapeReg quiet 0 3) 15 0 = 0xFFFF ∧
    fieldOf (shapeReg (setReg quiet 0x500818 0x4000000FFFE) 0 3) 15 0 ≠ 0xFFFF := by decide +kernel


/-- Each of the seven commands answers a next state. -/
theorem wit_MemoryStaysCanonical :
    live.dev.wf = true ∧ live.host.wf = true ∧ (∃ t, exec (.bar2Access pf 0 0 (some [1])) live = .next t) ∧ (∃ t, exec (.instructionFetch 5 []) qState = .next t) ∧ (∃ t, exec .logEntryWrite (ringState 3 3) = .next t) ∧
    (∃ t, exec (.traceRecord 5 0 5 1 []) (trcState 1 0 0) = .next t) ∧ (∃ t, exec (.telemetrySample [] [] [] []) (telemState 1 0 0) = .next t) ∧ (∃ t, exec (.dump pf 2) State.reset = .next t) ∧
    (∃ t, exec (.attach pf) (hostState 2 0) = .next t) :=
  ⟨by decide, by decide, ⟨_, rfl⟩, ⟨_, rfl⟩, ⟨_, rfl⟩, ⟨_, rfl⟩, ⟨_, rfl⟩, ⟨_, rfl⟩, ⟨_, rfl⟩⟩
theorem wit_MemoryStaysCanonical_window :
    serving.halted = false ∧ carveBase ≤ (bar2At serving { pf with fn := 1 } 4094).1 ∧ [(1 : Byte), 2].length ≤ (bar2At serving { pf with fn := 1 } 4094).2 ∧ ¬ [(1 : Byte), 2].length ≤ (bar2At serving { pf with fn := 1 } 4095).2 := by
  decide +kernel


/-- A tripped device whose step counts time, and one in which a capture is taken: both stay stopped. -/
theorem wit_FrozenWhileHalted :
    (∃ s t : State, s.halted = true ∧ s.pending = [] ∧ step s = .next t ∧ t.halted = true) ∧
    ∃ s t : State, s.halted = true ∧ s.pending = [.errorCapture .hubSram] ∧ step s = .next t ∧ t.halted = true :=
  ⟨⟨{ live with halted := true }, _, rfl, rfl, rfl, rfl⟩, ⟨{ live with halted := true, pending := [.errorCapture .hubSram] }, _, rfl, rfl, rfl, rfl⟩⟩

end Sys2Proof.Machine
end

section
/-!
PROOF. The state after reset: what a queue, a counter, a firmware slot and a port read as while nothing has changed them.
-/

namespace Sys2Proof.Machine

open Sys2Proof

/-- A queue that no table lists reads as one that was never enabled, unless it is firmware's own (R75, R78). -/
theorem getQ_reset (q : Nat) (h : q < firmwareQueue) : getQ State.reset q = Queue.init := by
  have hq : ¬ firmwareQueue ≤ q := by omega
  simp [getQ, hq, State.reset, Tbl.get, Tbl.find]

theorem getC_reset (i : Nat) : getC State.reset i = Counter.init := rfl

/-- Both image slots are empty, and a number beyond them names none. -/
theorem fwSlot_reset (i : Nat) : fwSlot State.reset i = FwSlot.empty := by
  match i with
  | 0 => rfl
  | 1 => rfl
  | _ + 2 => rfl

theorem getH_reset (p : Nat) : getH State.reset p = HostPort.init := by
  match p with
  | 0 => rfl
  | 1 => rfl
  | _ + 2 => rfl

theorem getP_reset (p : Nat) (h : p < 8) : getP State.reset p = Port.init := by
  change (List.replicate 8 Port.init).getD p _ = Port.init
  rw [List.getD_eq_getElem?_getD, List.getElem?_replicate, if_pos h, Option.getD_some]

/-- Settles O57: the sparse tables are empty, so every object reads its initial value and every register its Reset column. -/
theorem resetState : Obligations.ResetState := by
  unfold Obligations.ResetState
  refine ⟨rfl, fun i => ?slot, rfl, rfl, rfl, rfl, fun q hq => ?queue, fun i => ?counter, rfl, rfl, rfl, rfl, rfl, rfl, rfl, fun p hp => ?port, rfl, fun p => ?host, rfl, rfl, rfl,
    rfl, rfl, rfl, ?registers⟩
  case slot => rw [fwSlot_reset]; rfl
  case queue => rw [getQ_reset q hq]; exact ⟨rfl, rfl, rfl⟩
  case counter => rw [getC_reset]; exact ⟨rfl, rfl, rfl⟩
  case port => rw [getP_reset p hp]; rfl
  case host => rw [getH_reset]; rfl
  case registers => exact ⟨rfl, rfl, rfl, rfl, rfl, rfl⟩

end Sys2Proof.Machine
end

section
/-!
PROOF. Device memory and host memory stay in canonical form: one lemma for each operation that may write either.
-/

namespace Sys2Proof.Machine

open Sys2Proof

/-- Device memory and host memory are in canonical form (log 5). -/
def MemCanonical (s : State) : Prop := s.dev.wf = true ∧ s.host.wf = true

theorem MemCanonical.of_same {s t : State} (h : MemCanonical s) (hd : t.dev = s.dev) (hh : t.host = s.host) : MemCanonical t := by
  unfold MemCanonical
  rw [hd, hh]
  exact h

theorem MemCanonical.of_onlyFab {s t : State} (h : MemCanonical s) (f : OnlyFab s t) : MemCanonical t := h.of_same f.dev f.host

theorem MemCanonical.foldl {α : Type} (f : State → α → State) (hf : ∀ s x, MemCanonical s → MemCanonical (f s x)) (l : List α) :
    ∀ s, MemCanonical s → MemCanonical (l.foldl f s) := by
  induction l with
  | nil => exact fun _ h => h
  | cons x l ih => exact fun s h => ih _ (hf s x h)

theorem MemCanonical.retag {s k : State} (h : MemCanonical k) : MemCanonical (retag s k) := h.of_same (retag_dev s k) (retag_host s k)

/-- A command of the fast domains keeps the canonical form where what it does while they run keeps it. -/
theorem MemCanonical.alive {s k t : State} (hs : MemCanonical s) (hk : MemCanonical k) (e : alive s k = .next t) : MemCanonical t := by
  cases e
  split
  · exact hs
  · exact hk.retag

/-! ### Host memory -/

theorem hostWrite_dev (s : State) (fid a : Nat) (bs : List Byte) : (hostWrite s fid a bs).dev = s.dev := by
  unfold hostWrite
  split <;> rfl

theorem hostWrite_canonical {s : State} (fid a : Nat) (bs : List Byte) (h : MemCanonical s) : MemCanonical (hostWrite s fid a bs) := by
  obtain ⟨hd, hh⟩ := h
  exact ⟨(hostWrite_dev s fid a bs).symm ▸ hd, hostWrite_wf s fid a bs hh⟩

theorem applyPokes_canonical {s : State} (ps : List Poke) (h : MemCanonical s) : MemCanonical (applyPokes s ps) := by
  unfold applyPokes
  refine MemCanonical.foldl _ (fun s p hs => ?_) ps s h
  exact ⟨hs.1, Mem.wf_write _ _ _ hs.2⟩

/-- A vector changes what is pending and what was sent, and nothing else. -/
theorem raiseVec_eq (s : State) (fid vec : Nat) :
    raiseVec s fid vec = { s with vecPending := (raiseVec s fid vec).vecPending, vecSent := (raiseVec s fid vec).vecSent } := by
  unfold raiseVec
  split
  · rfl
  · split
    · split <;> rfl
    · rfl

theorem raiseVec_dev (s : State) (fid vec : Nat) : (raiseVec s fid vec).dev = s.dev := by rw [raiseVec_eq]

theorem raiseVec_host (s : State) (fid vec : Nat) : (raiseVec s fid vec).host = s.host := by rw [raiseVec_eq]

/-! ### The log rings (R521 to R523) -/

theorem modLog_canonical {s : State} (p : Nat) (f : LogRing → LogRing) (h : MemCanonical s) : MemCanonical (modLog s p f) := h.of_same rfl rfl

theorem ringWrite_canonical {s : State} (p : Nat) (e : LogEv) (h : MemCanonical s) : MemCanonical (ringWrite s p e) := by
  unfold ringWrite
  dsimp only
  split
  · exact (modLog_canonical _ _ (hostWrite_canonical _ _ _ h)).of_same (raiseVec_dev _ _ _) (raiseVec_host _ _ _)
  · exact modLog_canonical _ _ (hostWrite_canonical _ _ _ h)

theorem drainRing_canonical (n : Nat) {s : State} (p : Nat) (h : MemCanonical s) : MemCanonical (drainRing n s p) := by
  induction n generalizing s with
  | zero => exact h
  | succ n ih =>
    unfold drainRing
    dsimp only
    split
    · exact h
    · split
      · exact h
      · split
        · exact ih (modLog_canonical _ _ (ringWrite_canonical _ _ h))
        · exact ih (modLog_canonical _ _ (ringWrite_canonical _ _ h))

theorem drainLog_canonical {s : State} (p : Nat) (h : MemCanonical s) : MemCanonical (drainLog s p) := drainRing_canonical _ p h

theorem toRing_canonical {s : State} (p : Nat) (e : LogEv) (h : MemCanonical s) : MemCanonical (toRing s p e) := by
  unfold toRing
  split
  · exact h
  · split
    · exact ringWrite_canonical _ _ h
    · exact drainLog_canonical _ (modLog_canonical _ _ h)

/-! ### The trace buffer and telemetry (R527, R612) -/

theorem traceWrite_canonical {s : State} (e : TraceEv) (h : MemCanonical s) : MemCanonical (traceWrite s e) := by
  unfold traceWrite
  dsimp only
  generalize (if s.trc.second = s.now / 1000000 then s.trc.count else 0) = n
  split
  · exact h
  · split
    · exact h.of_same rfl rfl
    · exact (hostWrite_canonical _ _ _ h).of_same rfl rfl

theorem modCpm_canonical {s : State} (f : Cpm → Cpm) (h : MemCanonical s) : MemCanonical (modCpm s f) := h.of_same (modCpm_dev s f) (modCpm_host s f)

theorem telemSent_canonical {s : State} (path : Nat) (h : MemCanonical s) : MemCanonical (telemSent s path) := modCpm_canonical _ h

theorem telemDrop_canonical {s : State} (h : MemCanonical s) : MemCanonical (telemDrop s) := modCpm_canonical _ h

theorem telemToHost_canonical {s : State} (bytes : List Byte) (h : MemCanonical s) : MemCanonical (telemToHost s bytes) := by
  unfold telemToHost
  dsimp only
  split
  · exact telemDrop_canonical h
  · exact modCpm_canonical _ (telemSent_canonical 0 (hostWrite_canonical _ _ _ h))

theorem telemToFabric_canonical {s : State} (bytes : List Byte) (h : MemCanonical s) : MemCanonical (telemToFabric s bytes) := by
  unfold telemToFabric
  dsimp only
  split
  · exact h
  · split
    · exact telemDrop_canonical h
    · exact (telemSent_canonical 1 h).of_onlyFab (transmit_fab _ _ _)

/-! ### The dump (R586): its blocks take free values and change nothing else -/

theorem takeFree_fab (w : Nat) (s : State) : OnlyFab s (takeFree w s).2 := rfl

theorem freeBytes_fab (n : Nat) (s : State) : OnlyFab s (freeBytes n s).2 := by
  induction n generalizing s with
  | zero => exact OnlyFab.refl s
  | succ n ih => exact (takeFree_fab 8 s).trans (ih _)

theorem openBlocks_succ_state (kind slot gen n lba : Nat) (s : State) :
    (openBlocks kind slot gen (n + 1) lba s).2 = (openBlocks kind slot gen n (lba + 1) (freeBytes 2048 s).2).2 := by
  rw [openBlocks]

theorem openBlocks_fab (kind slot gen n lba : Nat) (s : State) : OnlyFab s (openBlocks kind slot gen n lba s).2 := by
  induction n generalizing lba s with
  | zero => exact OnlyFab.refl s
  | succ n ih =>
    rw [openBlocks_succ_state]
    exact (freeBytes_fab 2048 s).trans (ih _ _)

theorem hubStored_fab (s : State) : OnlyFab s (hubStored s).2 := (takeFree_fab 16 s).trans (freeBytes_fab _ _)

theorem workStored_fab (s : State) (half : Nat) : OnlyFab s (workStored s half).2 := openBlocks_fab _ _ _ _ _ _

/-- A fold whose accumulator carries a state changes it as its steps do. -/
theorem OnlyFab.foldl_on {α β : Type} (st : β → State) (f : β → α → β) (hf : ∀ b x, OnlyFab (st b) (st (f b x))) (l : List α) (b : β) :
    OnlyFab (st b) (st (l.foldl f b)) := by
  induction l generalizing b with
  | nil => exact OnlyFab.refl _
  | cons x l ih => exact (hf b x).trans (ih _)

theorem saveStored_fab (s : State) (t : Nat) : OnlyFab s (saveStored s t).2 := by
  unfold saveStored
  refine OnlyFab.foldl_on (fun acc : (List StoredBlock × State) × Nat => acc.1.2) _ (fun acc i => ?_) _ (([], s), 0)
  dsimp only
  split
  · exact openBlocks_fab _ _ _ _ _ _
  · exact OnlyFab.refl _

theorem OnlyFab.pair {α : Type} {s t : State} (x : α) (h : OnlyFab s t) : OnlyFab s (x, t).2 := h

theorem OnlyFab.ite_snd {α : Type} {c : Prop} [Decidable c] {s : State} {x y : α × State} (hx : OnlyFab s x.2) (hy : OnlyFab s y.2) :
    OnlyFab s (if c then x else y).2 := by
  split
  · exact hx
  · exact hy

/-- The save areas of several tiles, one after the other. -/
theorem saves_fab (l : List Nat) (x : List StoredBlock) (s : State) :
    OnlyFab s (l.foldl (fun (acc : List StoredBlock × State) t => let y := saveStored acc.2 t; (acc.1 ++ y.1, y.2)) (x, s)).2 := by
  refine OnlyFab.foldl_on (fun acc : List StoredBlock × State => acc.2) _ (fun acc t => ?_) l (x, s)
  exact OnlyFab.pair _ (saveStored_fab acc.2 t)

theorem dumpBlocks_fab (s : State) (areas : Nat) : OnlyFab s (dumpBlocks s areas).2 := by
  have hub := hubStored_fab s
  unfold dumpBlocks
  refine OnlyFab.pair _ (OnlyFab.ite_snd (OnlyFab.trans ?work (saves_fab (List.range 32) [] _)) (OnlyFab.pair _ ?work))
  exact OnlyFab.ite_snd (OnlyFab.pair _ ((hub.trans (workStored_fab _ 0)).trans (workStored_fab _ 1))) (OnlyFab.pair _ hub)

theorem dumpWrite_canonical {s : State} (who : Req) (v : W64) (h : MemCanonical s) : MemCanonical (dumpWrite s who v) := by
  unfold dumpWrite
  split
  · exact h
  · have hr : MemCanonical (setReg s 0xA00070 (v &&& 0x00000FFFFFFFFFFE)) := h.of_same rfl rfl
    dsimp only
    split
    · exact hr
    · have hb := hr.of_onlyFab ((dumpBlocks_fab _ (fieldOf v 43 40)).trans (takeFree_fab 64 _))
      exact (hostWrite_canonical _ _ _ hb).of_same (modErr_dev _ _) (modErr_host _ _)

/-! ### Fetch (R72) -/

theorem enterFetched_canonical {s : State} (q : Nat) (f : Fetched) (h : MemCanonical s) : MemCanonical (enterFetched s q f) := by
  unfold enterFetched
  dsimp only
  split
  · exact h.of_same rfl rfl
  · exact h.of_same rfl rfl

/-! ### Attachment (R519) -/

theorem restoreQueue_canonical {s : State} (q : Nat) (h : MemCanonical s) : MemCanonical (restoreQueue s q) := by
  unfold restoreQueue
  dsimp only
  split
  · exact h.of_same rfl rfl
  · exact h

theorem echoCounter_canonical {s : State} (i : Nat) (h : MemCanonical s) : MemCanonical (echoCounter s i) := by
  unfold echoCounter
  dsimp only
  split
  · exact hostWrite_canonical _ _ _ h
  · exact h

theorem attachPort_canonical {s : State} (p : Nat) (h : MemCanonical s) : MemCanonical (attachPort s p) := by
  unfold attachPort
  dsimp only
  split
  · exact h
  · split
    · exact h.of_same rfl rfl
    · refine drainLog_canonical p (MemCanonical.foldl _ (fun _ i => echoCounter_canonical i) _ _ (MemCanonical.foldl _ (fun _ q => restoreQueue_canonical q) _ _ ?_))
      exact h.of_same rfl rfl

/-- A write of FWM_ATTACH with ATTACH 1 and DETACH 0 attaches the port of its physical function. -/
theorem attachWrite_attach (s : State) (who : Req) (p : Nat) : attachWrite s who p 1 = if ownsPort who p = false then s else attachPort s p := by
  have detach : bitOf 1 1 = false := rfl
  have attach : bitOf 1 0 = true := rfl
  rw [attachWrite, detach, attach]
  simp

/-! ### The seven commands -/

theorem execBar2Access_canonical {s t : State} (who : Req) (off n : Nat) (bytes : Option (List Byte)) (h : MemCanonical s)
    (e : execBar2Access who off n bytes s = .next t) : MemCanonical t := by
  unfold execBar2Access at e
  cases bytes with
  | none =>
    cases e
    exact h.of_same rfl rfl
  | some bs =>
    have counted {k : State} (hk : MemCanonical k) (n : Nat) (f : HostPort → HostPort) : MemCanonical (if n < bs.length then modH k who.port f else k) := by
      split
      · exact hk.of_same rfl rfl
      · exact hk
    cases e
    split
    · exact counted h _ _
    · have stored (a : Nat) (bs : List Byte) : MemCanonical { s with dev := s.dev.write a bs } := ⟨Mem.wf_write _ _ _ h.1, h.2⟩
      exact (counted (stored _ _) _ _).retag

theorem execInstructionFetch_canonical {s t : State} (q : Nat) (pokes : List Poke) (h : MemCanonical s)
    (e : execInstructionFetch q pokes s = .next t) : MemCanonical t := by
  cases e
  split
  · have fetched (f : Fetched) : MemCanonical (enterFetched (applyPokes s pokes) q f) := enterFetched_canonical q f (applyPokes_canonical pokes h)
    exact (fetched _).of_same (modQ_dev _ _ _) (modQ_host _ _ _)
  · exact applyPokes_canonical pokes h

theorem execLogEntryWrite_canonical {s t : State} (h : MemCanonical s) (e : execLogEntryWrite s = .next t) : MemCanonical t := by
  refine h.alive ?_ e
  split
  · exact MemCanonical.foldl _ (fun _ p => drainLog_canonical p) _ s h
  · exact MemCanonical.foldl _ (fun _ p => toRing_canonical p _) _ _ (h.of_same rfl rfl)

theorem execTraceRecord_canonical {s t : State} (point source queue customer : Nat) (payload : List Byte) (h : MemCanonical s)
    (e : execTraceRecord point source queue customer payload s = .next t) : MemCanonical t := by
  refine h.alive ?_ e
  split
  · exact traceWrite_canonical _ (h.of_same rfl rfl)
  · split
    · exact traceWrite_canonical _ h
    · exact h

theorem execTelemetrySample_canonical {s t : State} (tiles stackTemps hubs powers : List Nat) (h : MemCanonical s)
    (e : execTelemetrySample tiles stackTemps hubs powers s = .next t) : MemCanonical t := by
  cases e
  dsimp only
  split
  · exact h
  · split
    · exact modCpm_canonical _ h
    · exact telemToFabric_canonical _ (telemToHost_canonical _ (modCpm_canonical _ (modCpm_canonical _ h)))

theorem execDump_canonical {s t : State} (who : Req) (v : W64) (h : MemCanonical s) (e : execDump who v s = .next t) : MemCanonical t := by
  cases e
  exact dumpWrite_canonical who _ h

theorem execAttach_canonical {s t : State} (who : Req) (h : MemCanonical s) (e : execAttach who s = .next t) : MemCanonical t := by
  refine h.alive ?_ e
  rw [attachWrite_attach]
  split
  · exact h
  · exact attachPort_canonical _ h

/-! ### What a BAR2 write stores is read back (R534) -/

theorem Mem.read_write_same (m : Mem) (a : Nat) (bs : List Byte) : Mem.read (Mem.write m a bs) a bs.length = bs := by
  refine List.ext_getElem (by simp [Mem.read]) fun i hi hb => ?_
  simpa [Mem.read] using Mem.byte_write_inside m a bs i hb

/-- A BAR2 write that lies inside the function's window stores all its bytes. -/
theorem execBar2Access_inside {s : State} (who : Req) (off n : Nat) (bs : List Byte) (hh : s.halted = false) (hc : carveBase ≤ (bar2At s who off).1)
    (hl : bs.length ≤ (bar2At s who off).2) :
    execBar2Access who off n (some bs) s = .next (retag s { s with dev := s.dev.write (bar2At s who off).1 bs }) := by
  simp [execBar2Access, hh, Nat.not_lt.mpr hc, Nat.not_lt.mpr hl, List.take_of_length_le hl]

/-- Settles O59, by the lemma of each command for the canonical form, and by what a byte reads after a write for BAR2. -/
theorem memoryStaysCanonical : Obligations.MemoryStaysCanonical := by
  unfold Obligations.MemoryStaysCanonical
  constructor
  · intro s t c hd hh hc e
    have h : MemCanonical s := ⟨hd, hh⟩
    change MemCanonical t
    obtain ⟨who, off, n, bytes, rfl⟩ | ⟨q, pokes, rfl⟩ | rfl | ⟨a, b, d, f, pl, rfl⟩ | ⟨a, b, d, f, rfl⟩ | ⟨who, v, rfl⟩ | ⟨who, rfl⟩ := hc
    · exact execBar2Access_canonical who off n bytes h e
    · exact execInstructionFetch_canonical q pokes h e
    · exact execLogEntryWrite_canonical h e
    · exact execTraceRecord_canonical a b d f pl h e
    · exact execTelemetrySample_canonical a b d f h e
    · exact execDump_canonical who v h e
    · exact execAttach_canonical who h e
  · intro s who off n bs hh hc hl
    refine ⟨_, execBar2Access_inside who off n bs hh hc hl, ?_, retag_host _ _, fun x hx => ?_⟩
    · rw [retag_dev]
      exact Mem.read_write_same _ _ _
    · rw [retag_dev]
      exact Mem.byte_write_outside _ _ _ _ hx

end Sys2Proof.Machine
end

section
/-!
PROOF. Writes of BAR0 registers (R13 to R15): the fields a write leaves, the half a 4-byte write leaves, and where each offset's write goes.
-/

namespace Sys2Proof.Machine

open Sys2Proof

/-! ### A word with a field replaced -/

theorem bitOf_eq_testBit (w : W64) (i : Nat) : bitOf w i = w.toNat.testBit i := by
  simp [bitOf, Nat.testBit_eq_decide_div_mod_eq, beq_eq_decide]

/-- A word, cut at a field: what lies above it, the field, what lies below. -/
theorem toNat_eq_field (w : W64) (hi lo : Nat) :
    w.toNat = 2 ^ lo * (2 ^ (hi + 1 - lo) * (w.toNat / 2 ^ lo / 2 ^ (hi + 1 - lo)) + fieldOf w hi lo) + w.toNat % 2 ^ lo := by
  rw [fieldOf, Nat.div_add_mod, Nat.div_add_mod]

/-- The same cut of a word whose field was replaced: only the field differs. -/
theorem putField_toNat (w : W64) (hi lo v : Nat) (hl : lo ≤ hi) (hh : hi < 64) :
    (putField w hi lo v).toNat = 2 ^ lo * (2 ^ (hi + 1 - lo) * (w.toNat / 2 ^ lo / 2 ^ (hi + 1 - lo)) + v % 2 ^ (hi + 1 - lo)) + w.toNat % 2 ^ lo := by
  have hw := toNat_eq_field w hi lo
  have size : 2 ^ lo * 2 ^ (hi + 1 - lo) * 2 ^ (63 - hi) = 2 ^ 64 := by
    rw [← Nat.pow_add, ← Nat.pow_add]
    congr 1
    omega
  have above : w.toNat / 2 ^ lo / 2 ^ (hi + 1 - lo) < 2 ^ (63 - hi) := by
    rw [Nat.div_div_eq_div_mul]
    exact Nat.div_lt_of_lt_mul (size ▸ w.isLt)
  have new : v % 2 ^ (hi + 1 - lo) < 2 ^ (hi + 1 - lo) := Nat.mod_lt _ (Nat.two_pow_pos _)
  have below : w.toNat % 2 ^ lo < 2 ^ lo := Nat.mod_lt _ (Nat.two_pow_pos _)
  rw [putField, BitVec.toNat_ofNat, ← size]
  generalize fieldOf w hi lo = F at hw ⊢
  generalize w.toNat / 2 ^ lo / 2 ^ (hi + 1 - lo) = A at hw above ⊢
  generalize w.toNat % 2 ^ lo = L at hw below ⊢
  generalize v % 2 ^ (hi + 1 - lo) = V at new ⊢
  generalize 2 ^ lo = P, 2 ^ (hi + 1 - lo) = N, 2 ^ (63 - hi) = M at *
  have replaced : w.toNat - F * P + V * P = P * (N * A + V) + L := by
    rw [hw, Nat.mul_add, Nat.mul_add, Nat.mul_comm F, Nat.mul_comm V]
    omega
  have fits : P * (N * A + V) + L < P * N * M :=
    calc P * (N * A + V) + L < P * (N * A + V) + P := by omega
      _ = P * (N * A + V + 1) := by rw [Nat.mul_succ]
      _ ≤ P * (N * (A + 1)) := Nat.mul_le_mul_left P (by rw [Nat.mul_succ]; omega)
      _ ≤ P * N * M := by rw [← Nat.mul_assoc]; exact Nat.mul_le_mul_left _ above
  rw [replaced, Nat.mod_eq_of_lt fits]

/-- The field that was replaced reads as the value put there. -/
theorem fieldOf_putField (w : W64) (hi lo v : Nat) (hl : lo ≤ hi) (hh : hi < 64) : fieldOf (putField w hi lo v) hi lo = v % 2 ^ (hi + 1 - lo) := by
  have hr : w.toNat % 2 ^ lo < 2 ^ lo := Nat.mod_lt _ (Nat.two_pow_pos _)
  rw [fieldOf, putField_toNat w hi lo v hl hh, Nat.mul_add_div (Nat.two_pow_pos _), Nat.div_eq_of_lt hr, Nat.add_zero, Nat.mul_add_mod, Nat.mod_mod]

/-- Every bit outside the field stays. -/
theorem bitOf_putField_outside (w : W64) (hi lo v i : Nat) (hl : lo ≤ hi) (hh : hi < 64) (ho : i < lo ∨ hi < i) : bitOf (putField w hi lo v) i = bitOf w i := by
  have below : w.toNat % 2 ^ lo < 2 ^ lo := Nat.mod_lt _ (Nat.two_pow_pos _)
  have new : v % 2 ^ (hi + 1 - lo) < 2 ^ (hi + 1 - lo) := Nat.mod_lt _ (Nat.two_pow_pos _)
  have old : fieldOf w hi lo < 2 ^ (hi + 1 - lo) := Nat.mod_lt _ (Nat.two_pow_pos _)
  rw [bitOf_eq_testBit, bitOf_eq_testBit, putField_toNat w hi lo v hl hh]
  conv_rhs => rw [toNat_eq_field w hi lo]
  rw [Nat.testBit_two_pow_mul_add _ below, Nat.testBit_two_pow_mul_add _ below]
  rcases ho with h | h
  · simp [h]
  · have h1 : ¬ i < lo := by omega
    have h2 : ¬ i - lo < hi + 1 - lo := by omega
    rw [Nat.testBit_two_pow_mul_add _ new, Nat.testBit_two_pow_mul_add _ old]
    simp [h1, h2]

/-- A write of one RW field (R15). -/
theorem rwAfter_single (hi lo least most : Nat) (old v : W64) :
    rwAfter [(hi, lo, least, most)] old v = if least ≤ fieldOf v hi lo ∧ fieldOf v hi lo ≤ most then putField old hi lo (fieldOf v hi lo) else old := by
  simp [rwAfter, keepField]

/-! ### Size and alignment (R13) -/

theorem barWrite_eight (s : State) (who : Req) (off : Nat) (v : W64) (h : off % 8 = 0) : barWrite s who off 8 v = regWrite s who off v := by
  simp [barWrite, h]

/-- A write of the lower half is one of the whole register with the upper half as it stands. -/
theorem barWrite_lower (s : State) (who : Req) (off : Nat) (v : W64) (h : off % 8 = 0) :
    barWrite s who off 4 v = barWrite s who off 8 (putField (otherHalf s who.port off) 31 0 (fieldOf v 31 0)) := by
  have h4 : off % 4 = 0 := by omega
  have hb : off / 8 * 8 = off := by omega
  rw [barWrite_eight s who off _ h]
  simp [barWrite, h, h4, hb]

/-- A write of the upper half is one of the whole register with the lower half as it stands. -/
theorem barWrite_upper (s : State) (who : Req) (off : Nat) (v : W64) (h : off % 8 = 4) :
    barWrite s who off 4 v = barWrite s who (off - 4) 8 (putField (otherHalf s who.port (off - 4)) 63 32 (fieldOf v 31 0)) := by
  have h4 : off % 4 = 0 := by omega
  have hb : off / 8 * 8 = off - 4 := by omega
  rw [barWrite_eight s who (off - 4) _ (by omega)]
  simp [barWrite, h, h4, hb]

/-! ### The command -/

theorem exec_registerWrite (s : State) (who : Req) (off size : Nat) (v : W64) : exec (.registerWrite who off size v) s = execRegisterWrite who off size v s := rfl

theorem registerWrite_running {s : State} (who : Req) (off size : Nat) (v : W64) (h : s.halted = false) :
    exec (.registerWrite who off size v) s = .next (retag s (barWrite s who off size v)) := by
  simp [exec_registerWrite, execRegisterWrite, h]

/-- A write that does nothing to the registers does nothing. -/
theorem registerWrite_untaken {s : State} (who : Req) (off size : Nat) (v : W64) (h : barWrite s who off size v = s) :
    exec (.registerWrite who off size v) s = .next s := by
  simp [exec_registerWrite, execRegisterWrite, h, retag_same s s rfl rfl rfl]

/-- What is not of GLB, CPM or ERR takes nothing in the fatal state and at trip (R584, R605). -/
theorem registerWrite_frozen {s : State} (who : Req) (off size : Nat) (v : W64) (h : s.halted = true) (hg : 0x10000 ≤ off) (hc : off < 0x20000 ∨ 0x40000 ≤ off)
    (he : off < 0xA00000 ∨ 0xB00000 ≤ off) : exec (.registerWrite who off size v) s = .next s := by
  have glb : ¬ off < 0x10000 := by omega
  have cpm : ¬ (0x20000 ≤ off ∧ off < 0x40000) := by omega
  have err : ¬ (0xA00000 ≤ off ∧ off < 0xB00000) := by omega
  simp [exec_registerWrite, execRegisterWrite, h, glb, cpm, err]

/-! ### Where a write goes (R14, R547) -/

/-- Outside the queues' and the ports' own registers only a physical function writes. -/
theorem regWrite_virtual (s : State) (who : Req) (off : Nat) (v : W64) (hw : isPhysical who = false) (hq : off < 0x40000 ∨ 0x80000 ≤ off)
    (hp : off < 0x900040 ∨ 0xA00000 ≤ off) : regWrite s who off v = s := by
  have queue : ¬ (0x40000 ≤ off ∧ off < 0x80000) := by omega
  have port : ¬ (0x900040 ≤ off ∧ off < 0xA00000) := by omega
  simp [regWrite, queue, port, hw]

/-- The registers of RW fields lie apart from the queues', the ports' and those that do more than hold fields, each at an offset of its own. -/
theorem rwRegs_apart (s : State) (who : Req) (v : W64) : ∀ r ∈ rwRegs,
    r.off % 8 = 0 ∧ ¬ (0x40000 ≤ r.off ∧ r.off < 0x80000) ∧ ¬ (0x900040 ≤ r.off ∧ r.off < 0xA00000) ∧ hubWrite s who r.off v = none ∧ unitWrite s who r.off v = none ∧
      rwRegs.find? (fun x => x.off == r.off) = some r := by
  intro r hr
  fin_cases hr <;> exact ⟨rfl, by decide, by decide, rfl, rfl, rfl⟩

theorem regWrite_rw (s : State) (who : Req) (v : W64) (r : RwReg) (hw : isPhysical who = true) (hr : r ∈ rwRegs) :
    regWrite s who r.off v = setReg s r.off (rwAfter r.fields (s.regs.get (BitVec.ofNat 64 r.reset) r.off) v) := by
  obtain ⟨-, queue, port, hub, unit, find⟩ := rwRegs_apart s who v r hr
  simp [regWrite, queue, port, hw, hub, unit, find]

theorem regWrite_tail (s : State) (who : Req) (q : Nat) (v : W64) (h : q < 4096) :
    regWrite s who (0x40000 + 64 * q) v = nextOf s (execQdbTailWrite who q v.toNat s) := by
  have queue : 0x40000 ≤ 0x40000 + 64 * q ∧ 0x40000 + 64 * q < 0x80000 := by omega
  have number : (0x40000 + 64 * q - 0x40000) / 64 = q := by omega
  have register : (0x40000 + 64 * q) % 64 / 8 = 0 := by omega
  rw [regWrite, if_pos queue, number, register]
  rfl

theorem regWrite_heartbeat (s : State) (who : Req) (v : W64) : regWrite s who 0x900040 v = hbWrite s who who.port v := rfl

/-- GLB_RESET: the refusal of a function that is not physical is the reset's own. -/
theorem regWrite_glbReset (s : State) (who : Req) (v : W64) : regWrite s who 0x40 v = glbResetWrite s who v := by
  cases h : isPhysical who with
  | true => simp [regWrite, h, hubWrite]
  | false => rw [regWrite_virtual s who 0x40 v h (by decide) (by decide), glbResetWrite, if_pos (.inl h)]

/-! ### The doorbell (R71) touches no page, region memory or model -/

theorem raiseVec_pages (s : State) (fid vec : Nat) : (raiseVec s fid vec).pages = s.pages := by rw [raiseVec_eq]

theorem raiseVec_models (s : State) (fid vec : Nat) : (raiseVec s fid vec).models = s.models := by rw [raiseVec_eq]

theorem haltQueue_plain (s : State) (q reason : Nat) :
    (haltQueue s q reason).pages = s.pages ∧ (haltQueue s q reason).dev = s.dev ∧ (haltQueue s q reason).models = s.models := by
  unfold haltQueue queueVec
  dsimp only
  split
  · split
    · exact ⟨raiseVec_pages _ _ _, raiseVec_dev _ _ _, raiseVec_models _ _ _⟩
    · exact ⟨rfl, rfl, rfl⟩
  · exact ⟨rfl, rfl, rfl⟩

/-- A doorbell while the fast domains run has a next state with the same pages, region memory and models. -/
theorem execQdbTailWrite_plain {s : State} (who : Req) (q t : Nat) (h : s.halted = false) :
    ∃ u, execQdbTailWrite who q t s = .next u ∧ u.pages = s.pages ∧ u.dev = s.dev ∧ u.models = s.models := by
  have plain (k : State) (hk : k.pages = s.pages ∧ k.dev = s.dev ∧ k.models = s.models) :
      ∃ u, alive s k = .next u ∧ u.pages = s.pages ∧ u.dev = s.dev ∧ u.models = s.models := by
    obtain ⟨hp, hd, hm⟩ := hk
    exact ⟨k, alive_plain s k h hp hd hm, hp, hd, hm⟩
  refine plain _ ?_
  split
  · exact ⟨rfl, rfl, rfl⟩
  · split
    · exact haltQueue_plain s q _
    · exact ⟨rfl, rfl, rfl⟩

/-- A write of QDB_TAIL is the doorbell. -/
theorem registerWrite_tail {s : State} (who : Req) (q : Nat) (v : W64) (h : s.halted = false) (hq : q < 4096) :
    exec (.registerWrite who (0x40000 + 64 * q) 8 v) s = exec (.qdbTailWrite who q v.toNat) s := by
  obtain ⟨u, hu, hp, hd, hm⟩ := execQdbTailWrite_plain who q v.toNat h
  rw [registerWrite_running who _ 8 v h, barWrite_eight s who _ v (by omega), regWrite_tail s who q v hq, hu]
  change Host.Outcome.next (retag s u) = execQdbTailWrite who q v.toNat s
  rw [retag_same s u hp hd hm, hu]

/-- A write of FWM_HB is a heartbeat. -/
theorem registerWrite_heartbeat {s : State} (who : Req) (v : W64) (h : s.halted = false) :
    exec (.registerWrite who 0x900040 8 v) s = exec (.heartbeat who v) s := by
  rw [registerWrite_running who _ 8 v h, barWrite_eight s who _ v (by decide), regWrite_heartbeat]
  exact (alive_running s _ h).symm

/-- In the fatal state and at trip a write of GLB_RESET still resets. -/
theorem registerWrite_glbReset_halted {s : State} (who : Req) (v : W64) (h : s.halted = true) :
    exec (.registerWrite who 0x40 8 v) s = .next (glbResetWrite s who v) := by
  simp [exec_registerWrite, execRegisterWrite, h, barWrite_eight, regWrite_glbReset]

theorem registerWrite_rw {s : State} (who : Req) (v : W64) (r : RwReg) (h : s.halted = false) (hw : isPhysical who = true) (hr : r ∈ rwRegs) :
    exec (.registerWrite who r.off 8 v) s = .next (setReg s r.off (rwAfter r.fields (s.regs.get (BitVec.ofNat 64 r.reset) r.off) v)) := by
  obtain ⟨aligned, -⟩ := rwRegs_apart s who v r hr
  have hb : barWrite s who r.off 8 v = setReg s r.off (rwAfter r.fields (s.regs.get (BitVec.ofNat 64 r.reset) r.off) v) := by
    rw [barWrite_eight s who r.off v aligned, regWrite_rw s who v r hw hr]
  rw [registerWrite_running who r.off 8 v h, hb, retag_same s _ (setReg_pages _ _ _) (setReg_dev _ _ _) (setReg_models _ _ _)]

/-- Settles O56, by one lemma for each clause: where the write goes, what its half or its field leaves, and what the command there does. -/
theorem registerWrites : Obligations.RegisterWrites := by
  unfold Obligations.RegisterWrites
  refine ⟨fun s who off size v h8 h4 => ?size, fun s who off size v h hg hc he => registerWrite_frozen who off size v h hg hc he, fun s who off v hw ha ho => ?virtual,
    fun s who v r h hw hr => registerWrite_rw who v r h hw hr, fun hi lo least most old v hl hh => ?field, fun s who off v ha => ?lower, fun s who off v ha _ h => ?upper,
    fun s who q v h hq => registerWrite_tail who q v h hq, fun s who v h => registerWrite_heartbeat who v h, fun s who v h => registerWrite_glbReset_halted who v h⟩
  case size => exact registerWrite_untaken who off size v (by simp only [barWrite, if_neg h8, if_neg h4])
  case virtual =>
    refine registerWrite_untaken who off 8 v ?_
    rw [barWrite_eight s who off v ha]
    exact regWrite_virtual s who off v hw (by omega) (by omega)
  case field =>
    rw [rwAfter_single]
    have hn : fieldOf v hi lo % 2 ^ (hi + 1 - lo) = fieldOf v hi lo := Nat.mod_mod _ _
    split
    · exact ⟨(fieldOf_putField old hi lo _ hl hh).trans hn, fun i ho => bitOf_putField_outside old hi lo _ i hl hh ho⟩
    · exact ⟨rfl, fun _ _ => rfl⟩
  case lower => simp only [exec_registerWrite, execRegisterWrite, barWrite_lower s who off v ha]
  case upper => rw [registerWrite_running who off 4 v h, registerWrite_running who (off - 4) 8 _ h, barWrite_upper s who off v ha]

end Sys2Proof.Machine
end

section
/-!
PROOF. What the lemmas about the rows share: a started instruction's row by its opcode, a delivered message, and what is found after a change.
-/

namespace Sys2Proof.Machine

open Sys2Proof

@[simp] theorem retag_finish (s : State) (id c : Nat) : retag s (finish s id c) = finish s id c := retag_same s _ rfl rfl rfl

@[simp] theorem retag_self (s : State) : retag s s = s := retag_same s s rfl rfl rfl

theorem isOp {e : Entry} {op : Nat} (h : e.opcode = op) : (e.opcode == op) = true := beq_iff_eq.mpr h

section
variable {s : State} {id : Nat} {r : Running} {is : Entry → Bool} {f : Running → State}

/-- The row of a started instruction whose turn has come and whose work there leads to `t`. -/
theorem runOp_eq {t : State} (h : Begun s id r) (his : is r.ent = true) (hf : f r = t) : runOp s id is f = .next (retag s t) := by
  rw [runOp_begun f h his, hf]

/-- The same where the work there only ends it. -/
theorem runOp_ends {c : Nat} (h : Begun s id r) (his : is r.ent = true) (hf : f r = finish s id c) : runOp s id is f = .next (finish s id c) := by
  rw [runOp_eq h his hf, retag_finish]
end

/-! ### A delivered message -/

/-- A row that delivers a message is handled as what it does with the state after the message's packets. -/
theorem handled_of {c : Instr} {s t : State} {h : Hdr} {k : State → State} (he : exec c s = delivered s h k) (hk : k (arrive s h).1 = t) : Handled c s h t :=
  fun ht => by rw [he, delivered_taken k ht, hk]

/-! ### What is found after a change -/

/-- The first element that a test accepts is the changed one, where the change keeps what the test reads. -/
theorem find?_mapIf {α : Type} (p : α → Bool) (f : α → α) (l : List α) (hf : ∀ x, p x = true → p (f x) = true) : (mapIf p f l).find? p = (l.find? p).map f := by
  induction l with
  | nil => rfl
  | cons x l ih =>
    rw [mapIf, List.map_cons, ← mapIf]
    cases hx : p x with
    | true => simp [hf x hx, List.find?_cons_of_pos, hx]
    | false => simp [List.find?_cons_of_neg, hx, ih]

/-- A search that accepts neither what was changed nor what it became finds what it found before. -/
theorem find?_mapIf_disjoint {α : Type} (p q : α → Bool) (f : α → α) (l : List α) (hp : ∀ a, p a = true → q a = false) (hf : ∀ a, p a = true → q (f a) = false) :
    (mapIf p f l).find? q = l.find? q := by
  induction l with
  | nil => rfl
  | cons a l ih =>
    rw [mapIf, List.map_cons, ← mapIf]
    cases ha : p a with
    | true => simp only [↓reduceIte, List.find?_cons, hp a ha, hf a ha, ih]
    | false => simp only [Bool.false_eq_true, ↓reduceIte, List.find?_cons, ih]

/-- A change of a copy that keeps its handle is what is found there afterwards. -/
theorem findCopy_modCopy (s : State) (h : Handle) (f : SeqCopy → SeqCopy) (hf : ∀ c, (f c).handle = c.handle) : findCopy (modCopy s h f) h = (findCopy s h).map f :=
  find?_mapIf _ f _ (fun c hc => by rw [hf c]; exact hc)

/-- A change of an instruction that keeps its number is what is found there afterwards. -/
theorem findRun_modRun (s : State) (id : Nat) (f : Running → Running) (hf : ∀ r, (f r).id = r.id) :
    findRun (modRun s (fun r => r.id == id) f) id = (findRun s id).map f :=
  find?_mapIf _ f _ (fun r hr => by rw [hf r]; exact hr)

theorem findRun_await {s : State} {id : Nat} {r : Running} (hr : findRun s id = some r) : findRun (await s id) id = some { r with phase := .waiting } := by
  refine (findRun_modRun s id _ ?_).trans ?_
  · exact fun _ => rfl
  · rw [hr]
    rfl

theorem findRun_retag (s k : State) (id : Nat) : findRun (retag s k) id = findRun k id := by rw [findRun, retag_tz, ← findRun]

end Sys2Proof.Machine
end

section
/-!
PROOF. ATTEND: which of its forms a started one takes, the second pass of a deterministic one, and the look-ahead copies that nothing read.
-/

namespace Sys2Proof.Machine

open Sys2Proof

theorem exec_attend (id : Nat) (s : State) : exec (.attend id) s = execAttend id s := rfl
theorem exec_deterministicPassTwoStart (id : Nat) (s : State) : exec (.deterministicPassTwoStart id) s = execDeterministicPassTwoStart id s := rfl
theorem exec_lookaheadExpiry (page : Nat) (s : State) : exec (.lookaheadExpiry page) s = execLookaheadExpiry page s := rfl

/-! ### The forms of an ATTEND with its operands at hand -/

/-- Marking pages leaves the ownership state as it is. -/
theorem foldl_setPage_own (f : State → Page → Page) (ps : List Page) (s : State) : (ps.foldl (fun s p => setPage s (f s p)) s).own = s.own := by
  induction ps generalizing s with
  | nil => rfl
  | cons p ps ih => rw [List.foldl_cons, ih, setPage_own]

theorem touchPages_findCopy (s : State) (r : Running) (h : Handle) : findCopy (touchPages s r) h = findCopy s h := by
  unfold findCopy touchPages
  rw [foldl_setPage_own (fun s p => { p with lastRead := s.now, lookAt := s.now })]

/-- What an ATTEND whose operands `l` are at hand does on `u`, its pages marked as used (R149, R184). -/
def attendOn (u : State) (r : Running) (a : Att) (m : Model) (l : List (List Byte)) : State :=
  match findCopy u r.ent.b with
  | none => attendHere u r a m (l.headD []) ((l.drop 1).headD [])
  | some c =>
    if u.pers = some .generation ∧ c.desc.pfx ≠ nullHandle ∧ a.first < c.desc.prefixLen then
      match u.rgn.maps.find? (fun x => x.node == c.desc.pfx) with
      | none => needMap u r c.desc.pfx
      | some map => if scheduling u then attendSplit u r a m c (l.headD []) ((l.drop 1).headD []) (holderParts a c.desc.prefixLen map) else u
    else attendHere u r a m (l.headD []) ((l.drop 1).headD [])

section
variable {u : State} {r : Running} {a : Att} {m : Model} {c : SeqCopy} (l : List (List Byte))

theorem attendOn_no_copy (hc : findCopy u r.ent.b = none) : attendOn u r a m l = attendHere u r a m (l.headD []) ((l.drop 1).headD []) := by
  rw [attendOn, hc]

theorem attendOn_own_only (hc : findCopy u r.ent.b = some c) (hp : ¬ (u.pers = some .generation ∧ c.desc.pfx ≠ nullHandle ∧ a.first < c.desc.prefixLen)) :
    attendOn u r a m l = attendHere u r a m (l.headD []) ((l.drop 1).headD []) := by
  rw [attendOn, hc]
  exact if_neg hp

theorem attendOn_map {map : ShardMap} (hc : findCopy u r.ent.b = some c) (hp : u.pers = some .generation ∧ c.desc.pfx ≠ nullHandle ∧ a.first < c.desc.prefixLen)
    (hm : u.rgn.maps.find? (fun x => x.node == c.desc.pfx) = some map) (hs : scheduling u = true) :
    attendOn u r a m l = attendSplit u r a m c (l.headD []) ((l.drop 1).headD []) (holderParts a c.desc.prefixLen map) := by
  rw [attendOn, hc]
  dsimp only
  rw [if_pos hp, hm]
  exact if_pos hs

theorem attendOn_no_map (hc : findCopy u r.ent.b = some c) (hp : u.pers = some .generation ∧ c.desc.pfx ≠ nullHandle ∧ a.first < c.desc.prefixLen)
    (hm : u.rgn.maps.find? (fun x => x.node == c.desc.pfx) = none) : attendOn u r a m l = needMap u r c.desc.pfx := by
  rw [attendOn, hc]
  dsimp only
  rw [if_pos hp, hm]
end

/-- The code of the pages that a started ATTEND reads (R151, R153). -/
def attendPagesCode (s : State) (r : Running) (a : Att) : Nat :=
  pagesCode s r ((List.range a.layers).map (· + a.layer0)) (max a.first (ownFirst s r.ent.b)) (min a.last a.ctx)

section
variable {s : State} {id : Nat} {r : Running} {m : Model}

theorem execAttend_pages (hb : Begun s id r) (ho : r.ent.opcode = opAttend) (hm : findModel s r.ent.a = some m) (hw : isSwapped s r = false)
    (hc : attendPagesCode s r (attOf r.ent r.blk m.desc) ≠ 0) : exec (.attend id) s = .next (finish s id (attendPagesCode s r (attOf r.ent r.blk m.desc))) := by
  rw [exec_attend, execAttend]
  refine runOp_ends hb (isOp ho) ?_
  simp only [hm, hw, Bool.false_eq_true, ↓reduceIte]
  exact if_pos hc

theorem execAttend_bytes {l : List (List Byte)} (hb : Begun s id r) (ho : r.ent.opcode = opAttend) (hm : findModel s r.ent.a = some m) (hw : isSwapped s r = false)
    (hc : attendPagesCode s r (attOf r.ent r.blk m.desc) = 0) (hg : gather s r (attInputs s r (attOf r.ent r.blk m.desc)) = .bytes l) :
    exec (.attend id) s = .next (retag s (attendOn (touchPages s r) r (attOf r.ent r.blk m.desc) m l)) := by
  rw [exec_attend, execAttend]
  refine runOp_eq hb (isOp ho) ?_
  simp only [hm, hw, hg, Bool.false_eq_true, ↓reduceIte]
  exact if_neg (not_not_intro hc)
end

/-! ### Look-ahead copies -/

/-- Dropping look-ahead copies leaves none of them in a tile's scratch. -/
theorem dropAhead_ahead {s : State} {ns : List Nat} {n : Nat} (h : n ∈ ns) : ∀ e ∈ (dropAhead s ns).til.tiles, n ∉ e.2.ahead := by
  intro e he
  obtain ⟨x, -, rfl⟩ := List.mem_map.mp he
  simp [h]

/-- What is dropped as stale enters no tile. -/
theorem dropStale_ahead {s k : State} {n : Nat} (h : ∀ e ∈ k.til.tiles, n ∉ e.2.ahead) : ∀ e ∈ (dropStale s k).til.tiles, n ∉ e.2.ahead := by
  unfold dropStale
  dsimp only
  split
  · exact h
  · intro e he hn
    obtain ⟨y, hy, rfl⟩ := List.mem_map.mp he
    obtain ⟨x, hx, rfl⟩ := List.mem_map.mp hy
    exact h x hx (List.mem_filter.mp hn).1

theorem retag_ahead {s k : State} {n : Nat} (h : ∀ e ∈ k.til.tiles, n ∉ e.2.ahead) : ∀ e ∈ (retag s k).til.tiles, n ∉ e.2.ahead := by
  unfold retag
  split
  · exact h
  · simpa only [rearm_til] using dropStale_ahead h

theorem rearm_copies (k : State) : (rearm k).own.copies = k.own.copies := by unfold rearm; split <;> rfl
theorem rearm_homes (k : State) : (rearm k).own.homes = k.own.homes := by unfold rearm; split <;> rfl
theorem retag_copies (s k : State) : (retag s k).own.copies = k.own.copies := by unfold retag; split <;> simp [rearm_copies]
theorem retag_homes (s k : State) : (retag s k).own.homes = k.own.homes := by unfold retag; split <;> simp [rearm_homes]

theorem execLookaheadExpiry_due {s : State} {page : Nat} {p : Page} (hh : s.halted = false) (hp : findPage s page = some p) (hl : p.lookahead = true)
    (hd : p.lookAt + 100 ≤ s.now) : exec (.lookaheadExpiry page) s = .next (retag s (dropAhead s [page])) := by
  rw [exec_lookaheadExpiry, execLookaheadExpiry, alive_running s _ hh, hp]
  simp only [hl, hd, and_self, ↓reduceIte]

theorem execLookaheadExpiry_young {s : State} {page : Nat} {p : Page} (hh : s.halted = false) (hp : findPage s page = some p)
    (hd : s.now < p.lookAt + 100) : exec (.lookaheadExpiry page) s = .next s := by
  rw [exec_lookaheadExpiry, execLookaheadExpiry, hp]
  dsimp only
  rw [if_neg (fun h => absurd h.2 (Nat.not_le.mpr hd)), alive_plain s s hh rfl rfl rfl]

/-- Settles O15: the forms of an ATTEND with its operands at hand are those of `attendOn`. -/
theorem attendRows : Obligations.AttendRows := by
  unfold Obligations.AttendRows
  refine ⟨?forms, ?second, ?lookahead⟩
  case forms =>
    intro s id r m hb ho hm hw
    refine ⟨fun hc => execAttend_pages hb ho hm hw hc, fun l hc hg => ?_⟩
    have bytes := execAttend_bytes hb ho hm hw hc hg
    refine ⟨fun hn => ?none, fun c hf => ⟨fun hp => ?here, fun map h1 h2 h3 hx hs => ?split, fun h1 h2 h3 hx => ?ask⟩⟩
    case none => rw [bytes, attendOn_no_copy l ((touchPages_findCopy s r _).trans hn)]
    case here => rw [bytes, attendOn_own_only l hf hp]
    case split => rw [bytes, attendOn_map l hf ⟨h1, h2, h3⟩ hx hs]
    case ask => rw [bytes, attendOn_no_map l hf ⟨h1, h2, h3⟩ hx]
  case second =>
    intro s id r x m c l hh hr hx hm hc a h1 h2 h3 h4 h5 h6 h7 h8 hg
    have hp : paused s = false := by
      simp only [scheduling, Bool.and_eq_true, Bool.or_eq_true, beq_iff_eq] at h8
      simp only [paused, beq_eq_false_iff_ne]
      omega
    rw [exec_deterministicPassTwoStart, execDeterministicPassTwoStart, awake_running s _ hh hp, hr, hx]
    simp only [hm, hc]
    rw [if_pos ⟨h1, h2, h3, h4, h5, h6, h7, h8⟩, hg]
  case lookahead =>
    intro s page p hh hp hl
    refine ⟨fun hd => ⟨_, execLookaheadExpiry_due hh hp hl hd, retag_ahead (dropAhead_ahead (List.mem_singleton.mpr rfl)), ?_⟩,
      fun hd => execLookaheadExpiry_young hh hp hd⟩
    exact ⟨retag_dev _ _, retag_host _ _, retag_copies _ _, retag_homes _ _⟩

end Sys2Proof.Machine
end

section
/-!
PROOF. PPIN, PUNPIN, PEVICT in release form and PINGEST: what a started one does by what it finds.
-/

namespace Sys2Proof.Machine

open Sys2Proof

theorem exec_ppin (id : Nat) (s : State) : exec (.ppin id) s = execPpin id s := rfl
theorem exec_punpin (id : Nat) (s : State) : exec (.punpin id) s = execPunpin id s := rfl
theorem exec_pevictRelease (id : Nat) (s : State) : exec (.pevictRelease id) s = execPevictRelease id s := rfl
theorem exec_pingest (id : Nat) (s : State) : exec (.pingest id) s = execPingest id s := rfl

theorem findCopy_freeCopyPages (s : State) (h k : Handle) : findCopy (freeCopyPages s h) k = findCopy s k := rfl

section
variable {s : State} {id : Nat} {r : Running}

/-! ### PPIN and PUNPIN (R116, R117) -/

/-- The units that pinning the pages of a PPIN adds to what is pinned. -/
def freshUnits (ps : List Page) : Nat := ps.foldl (fun n p => if p.pin = 0 then n + p.units else n) 0

theorem execPpin_full (hb : Begun s id r) (ho : r.ent.opcode = opPpin) (hp : (covered s r.ent.a (spanOf r.ent.b)).any (fun p => decide (255 ≤ p.pin)) = true) :
    exec (.ppin id) s = .next (finish s id Code.tzRights) := by
  rw [exec_ppin, execPpin]
  exact runOp_ends hb (isOp ho) (if_pos hp)

theorem execPpin_ceiling (hb : Begun s id r) (ho : r.ent.opcode = opPpin) (hp : (covered s r.ent.a (spanOf r.ent.b)).any (fun p => decide (255 ≤ p.pin)) = false)
    (hc : s.ident.pinCeiling * (2 * poolUnits s) / 1024 < pinnedUnits s + freshUnits (covered s r.ent.a (spanOf r.ent.b))) :
    exec (.ppin id) s = .next (finish s id Code.memExhausted) := by
  rw [exec_ppin, execPpin]
  exact runOp_ends hb (isOp ho) ((if_neg (Bool.eq_false_iff.mp hp)).trans (if_pos hc))

theorem execPpin_pins (hb : Begun s id r) (ho : r.ent.opcode = opPpin) (hp : (covered s r.ent.a (spanOf r.ent.b)).any (fun p => decide (255 ≤ p.pin)) = false)
    (hc : pinnedUnits s + freshUnits (covered s r.ent.a (spanOf r.ent.b)) ≤ s.ident.pinCeiling * (2 * poolUnits s) / 1024)
    (hi : (covered s r.ent.a (spanOf r.ent.b)).any (fun p => pageBusy s p.number) = false) :
    let ps := covered s r.ent.a (spanOf r.ent.b)
    let up := movePages (moveOne tStacks ps) s ps
    exec (.ppin id) s = .next (retag s (
      if up.2 ≠ 0 then finish (shortOn (s, up.2)) id up.2
      else recordThen (maybeResume { up.1 with pages := mapIf (fun p => ps.any (fun q => q.number == p.number)) (fun p => { p with pin := p.pin + 1 }) up.1.pages }
        (objectOf s r.ent.a)) id (objectOf s r.ent.a) ps 0)) := by
  rw [exec_ppin, execPpin]
  exact runOp_eq hb (isOp ho) ((if_neg (Bool.eq_false_iff.mp hp)).trans ((if_neg (Nat.not_lt.mpr hc)).trans (if_neg (Bool.eq_false_iff.mp hi))))

/-- The pages that a PUNPIN covers, each pin above 0 lowered by 1. -/
def unpinned (s : State) (r : Running) : State :=
  { s with pages := mapIf (fun p => (covered s r.ent.a (spanOf r.ent.b)).any (fun q => q.number == p.number)) (fun p => { p with pin := p.pin - 1 }) s.pages }

theorem execPunpin_begun (hb : Begun s id r) (ho : r.ent.opcode = opPunpin) : exec (.punpin id) s = .next (retag s (finish (unpinned s r) id 0)) := by
  rw [exec_punpin, execPunpin]
  exact runOp_eq hb (isOp ho) rfl

/-! ### PEVICT in release form (R120, R216) -/

theorem execPevictRelease_owner {c : SeqCopy} (hb : Begun s id r) (ho : r.ent.opcode = opPevict) (hf : r.ent.flag 4 = true) (hw : mustWait s r = false)
    (hu : updatesDone s r.ent.a = true) (hc : findCopy s r.ent.a = some c) (hs : c.st = .owner) :
    exec (.pevictRelease id) s = .next (retag s (
      let s1 := await (modCopy (freeCopyPages s r.ent.a) r.ent.a (fun c => { c with st := .stale, pages := [] })) id
      releaseAgain { s1 with own := { s1.own with releasing := s1.own.releasing ++ [⟨r.ent.a, c.epoch, c.desc.comp⟩] } } ⟨r.ent.a, c.epoch, c.desc.comp⟩)) := by
  have his : (r.ent.opcode == opPevict && r.ent.flag 4) = true := by rw [hf, Bool.and_true, ho, beq_self_eq_true]
  rw [exec_pevictRelease, execPevictRelease]
  refine runOp_eq hb his ?_
  simp only [hw, hu, hc, hs, Bool.false_eq_true, Bool.true_eq_false, or_self, ne_eq, not_true_eq_false, ↓reduceIte]

/-! ### PINGEST (R113) -/

theorem execPingest_refused {m : Model} {c : Nat} (hb : Begun s id r) (ho : r.ent.opcode = opPingest) (hm : findModel s r.ent.a = some m)
    (hr : sourceRows s r m.desc = .error c) : exec (.pingest id) s = .next (retag s (finish (keyRefused s c) id c)) := by
  rw [exec_pingest, execPingest]
  refine runOp_eq hb (isOp ho) ?_
  simp only [hm, hr]

theorem execPingest_rows {m : Model} {rows : List (Nat × Nat × List Byte)} (hb : Begun s id r) (ho : r.ent.opcode = opPingest) (hm : findModel s r.ent.a = some m)
    (hr : sourceRows s r m.desc = .ok rows) : exec (.pingest id) s = .next (retag s (
      if fieldBytes r.blk 48 8 = nullHandle then writePrivate s r m.desc rows else ingestPrefix s r m.desc rows)) := by
  rw [exec_pingest, execPingest]
  refine runOp_eq hb (isOp ho) ?_
  simp only [hm, hr]

/-- The rows of a PINGEST at the owner of the pages, every page present, acknowledged and readable (R113). -/
theorem writePrivate_written {m : ModelRec} {rows : List (Nat × Nat × List Byte)} {c : SeqCopy} {t : State} (hc : findCopy s r.ent.b = some c) (hs : c.st ≠ .stale)
    (hm : missingLayer c m rows = none) (ha : rowsUnacked s c m rows = false) (hu : (rowPages s c m rows).any (unreadable s) = false) (ht : bringRows s c m rows = some t) :
    writePrivate s r m rows = ((List.range (fieldBytes r.blk 4 1)).map (· + fieldBytes r.blk 3 1)).foldl (fun s l => tailReserve 4 s r.ent.b m l)
      (if (rowPages s c m rows).any (fun p => p.stack.isNone) then recordThen (putRows t c m rows) r.id r.ent.b s.pages 0
       else finish (tellTokens (putRows t c m rows) r.ent.b s.pages) r.id 0) := by
  simp only [writePrivate, hc, hs, hm, ha, hu, ht, Option.isSome_none, Bool.false_eq_true, ↓reduceIte]

end

/-- Settles O11, by the lemma of each outcome of the four rows. -/
theorem pinIngestReleaseRows : Obligations.PinIngestReleaseRows := by
  unfold Obligations.PinIngestReleaseRows
  intro s id r hb ps fresh up
  refine ⟨fun ho hp => execPpin_full hb ho hp, fun ho hp hc => execPpin_ceiling hb ho hp hc, fun ho hp hc hi => execPpin_pins hb ho hp hc hi,
    fun ho => execPunpin_begun hb ho, fun c ho hf hw hu hc hs => ⟨?release, ?stale⟩, fun m c ho hm hr => execPingest_refused hb ho hm hr,
    fun m rows ho hm hr hn => ?priv, fun m rows ho hm hr hn => ?draft, fun m rows c t hc hs hm ha hu ht => writePrivate_written hc hs hm ha hu ht⟩
  case release => exact execPevictRelease_owner hb ho hf hw hu hc hs
  case stale =>
    refine (findCopy_modCopy _ _ _ ?_).trans ?_
    · exact fun _ => rfl
    · rw [findCopy_freeCopyPages, hc]
      rfl
  case priv => rw [execPingest_rows hb ho hm hr, if_pos hn]
  case draft => rw [execPingest_rows hb ho hm hr, if_neg hn]

end Sys2Proof.Machine
end

section
/-!
PROOF. CLAIM and CASTLE: what a started one does by what it finds.
-/

namespace Sys2Proof.Machine

open Sys2Proof

theorem exec_claimCreate (id : Nat) (s : State) : exec (.claimCreate id) s = execClaimCreate id s := rfl
theorem exec_claimAssert (id : Nat) (s : State) : exec (.claimAssert id) s = execClaimAssert id s := rfl
theorem exec_castle (id : Nat) (s : State) : exec (.castle id) s = execCastle id s := rfl

/-! ### CLAIM with the null handle (R134, R217) -/

/-- This device is parting in one of its compositions (R489). -/
def partingAny (s : State) : Bool := s.comps.any (fun c => (mapMember c.map (self s)).any (·.parting))

/-- The number of the sequence that a CLAIM creates, and the state that has taken it. -/
def claimNumber (s : State) : Nat × State := newNumber s clsSeq (fun n => s.own.homes.any (fun x => hNum x.desc.handle == n))

/-- The record of the sequence that a CLAIM of model `m` creates (R213). -/
def claimRecord (s : State) (r : Running) (m : Model) : SeqRecord :=
  { handle := mkHandle (self s) clsSeq (claimNumber s).1, owner := self s, partner := s.ident.partner, epoch := 1, version := 0, model := r.ent.b, pfx := nullHandle,
    prefixLen := 0, privateLen := 0, customer := r.ent.customer, cls := r.ent.prio, state := 0, target := noDevice, comp := 0xFFFF, layers := m.desc.layers,
    pages := List.replicate m.desc.layers [] }

section
variable {s : State} {id : Nat} {r : Running} {m : Model}

theorem isClaimCreate (ho : r.ent.opcode = opClaim) (hn : r.ent.a = nullHandle) : (r.ent.opcode == opClaim && r.ent.a == nullHandle) = true := by
  rw [ho, hn, beq_self_eq_true, beq_self_eq_true, Bool.and_true]

theorem execClaimCreate_parting (hb : Begun s id r) (ho : r.ent.opcode = opClaim) (hn : r.ent.a = nullHandle) (hm : findModel s r.ent.b = some m)
    (hp : partingAny s = true) : exec (.claimCreate id) s = .next (finish s id Code.cmpParting) := by
  rw [exec_claimCreate, execClaimCreate]
  refine runOp_ends hb (isClaimCreate ho hn) ?_
  rw [hm]
  exact if_pos hp

theorem execClaimCreate_no_granule (hb : Begun s id r) (ho : r.ent.opcode = opClaim) (hn : r.ent.a = nullHandle) (hm : findModel s r.ent.b = some m)
    (hp : partingAny s = false) (hg : granuleRoom s (recordGranules (claimRecord s r m)) = false) :
    exec (.claimCreate id) s = .next (finish s id Code.memExhausted) := by
  rw [exec_claimCreate, execClaimCreate]
  refine runOp_ends hb (isClaimCreate ho hn) ?_
  rw [hm]
  exact (if_neg (Bool.eq_false_iff.mp hp)).trans (if_pos (congrArg (!·) hg))

theorem execClaimCreate_creates (hb : Begun s id r) (ho : r.ent.opcode = opClaim) (hn : r.ent.a = nullHandle) (hm : findModel s r.ent.b = some m)
    (hp : partingAny s = false) (hg : granuleRoom s (recordGranules (claimRecord s r m)) = true) :
    let u := (claimNumber s).2
    let d := claimRecord s r m
    exec (.claimCreate id) s = .next (retag s (homeUpdate (await { u with own := { u.own with
      homes := u.own.homes ++ [{ desc := d, queue := [], inflight := none, unmirrored := false, damaged := false, castleComp := 0, before := noDevice, arb := none, due := 0 }],
      copies := u.own.copies ++ [newCopy d.handle .owner 1 d r.ent.b m.desc.layers] } } id) d.handle (.create d) (.here (.claim id)))) := by
  rw [exec_claimCreate, execClaimCreate]
  refine runOp_eq hb (isClaimCreate ho hn) ?_
  rw [hm]
  exact (if_neg (Bool.eq_false_iff.mp hp)).trans (if_neg (ne_of_eq_of_ne (congrArg (!·) hg) Bool.false_ne_true))
end

/-! ### CLAIM in assert form (R134, R220, R225) -/

section
variable {s : State} {id : Nat} {r : Running} {c : SeqCopy}

theorem isClaimAssert (ho : r.ent.opcode = opClaim) (hn : r.ent.a ≠ nullHandle) : (r.ent.opcode == opClaim && r.ent.a != nullHandle) = true := by
  rw [ho, beq_self_eq_true, Bool.true_and, bne_iff_ne]
  exact hn

theorem execClaimAssert_no_copy (hb : Begun s id r) (ho : r.ent.opcode = opClaim) (hn : r.ent.a ≠ nullHandle) (hw : mustWait s r = false)
    (hc : findCopy s r.ent.a = none) : exec (.claimAssert id) s = .next (finish s id Code.ownNotOwner) := by
  rw [exec_claimAssert, execClaimAssert]
  refine runOp_ends hb (isClaimAssert ho hn) ?_
  simp only [hw, hc, Bool.false_eq_true, ↓reduceIte]

theorem execClaimAssert_last_epoch (hb : Begun s id r) (ho : r.ent.opcode = opClaim) (hn : r.ent.a ≠ nullHandle) (hw : mustWait s r = false)
    (hc : findCopy s r.ent.a = some c) (he : c.epoch = 0xFFFFFFFF) : exec (.claimAssert id) s = .next (finish s id Code.tzRights) := by
  rw [exec_claimAssert, execClaimAssert]
  refine runOp_ends hb (isClaimAssert ho hn) ?_
  simp only [hw, hc, he, Bool.false_eq_true, ↓reduceIte]

theorem execClaimAssert_owner (hb : Begun s id r) (ho : r.ent.opcode = opClaim) (hn : r.ent.a ≠ nullHandle) (hw : mustWait s r = false)
    (hc : findCopy s r.ent.a = some c) (hs : c.st = .owner) (he : c.epoch ≠ 0xFFFFFFFF) :
    exec (.claimAssert id) s = .next (retag s (finishOwn s id 0 r.ent.a (self s) c.epoch)) := by
  rw [exec_claimAssert, execClaimAssert]
  refine runOp_eq hb (isClaimAssert ho hn) ?_
  simp only [hw, hc, he, hs, Bool.false_eq_true, true_or, ↓reduceIte]

/-- A CLAIM of a stale copy goes to the arbiter: here where the home is, or by an ASK. -/
theorem execClaimAssert_stale (hb : Begun s id r) (ho : r.ent.opcode = opClaim) (hn : r.ent.a ≠ nullHandle) (hw : mustWait s r = false)
    (hc : findCopy s r.ent.a = some c) (hs : c.st = .stale) (he : c.epoch ≠ 0xFFFFFFFF) :
    let u := modCopy (await s id) r.ent.a (fun c => { c with claimInstr := some id })
    let st := sideStatus u r.ent.a (self s) 2
    exec (.claimAssert id) s = .next (retag s (
      if (findHome u r.ent.a).isSome then startArb u r.ent.a st else toHome u c.desc.comp r.ent.a (.ask st.epoch st.complete 2 false st.entries))) := by
  rw [exec_claimAssert, execClaimAssert]
  refine runOp_eq hb (isClaimAssert ho hn) ?_
  simp only [hw, hc, he, hs, Bool.false_eq_true, reduceCtorEq, or_self, ↓reduceIte]

/-! ### CASTLE (R135, R223) -/

/-- What a started CASTLE of copy `c` behind nothing does, by the copy and its operands (R135). -/
def castleOf (s : State) (id : Nat) (r : Running) (c : SeqCopy) : State :=
  let target := r.ent.b % 2 ^ 15
  let comp := r.ent.b / 2 ^ 16 % 2 ^ 12
  if c.st ≠ .owner then finish s id Code.ownNotOwner
  else if target = self s ∨ 0xFFFFFFFE ≤ c.epoch then finish s id Code.tzRights
  else
    match (membership? s comp).bind (fun m => mapMember m.map target) with
    | none => finish s id Code.cmpNotMember
    | some m =>
      if !(inComp s comp target) then finish s id Code.cmpNotMember
      else if m.pers ≠ 2 then finish s id Code.tzRights
      else if m.parting then finish s id Code.cmpParting
      else changeRecord (modCopy (await s id) r.ent.a (fun c => { c with peer := target, castleComp := comp, castleInstr := some id })) r.ent.a (.setState 1 target comp) .castleOffer

theorem execCastle_begun (hb : Begun s id r) (ho : r.ent.opcode = opCastle) (hw : mustWait s r = false) (hu : updatesDone s r.ent.a = true)
    (hc : findCopy s r.ent.a = some c) : exec (.castle id) s = .next (retag s (castleOf s id r c)) := by
  rw [exec_castle, execCastle]
  refine runOp_eq hb (isOp ho) ?_
  simp only [hw, hu, hc, Bool.false_eq_true, Bool.true_eq_false, or_self, ↓reduceIte]
  rfl

end

/-- A CASTLE to a device that the composition's map names, by an owner whose epoch may rise. -/
theorem castleOf_member {s : State} {id : Nat} {r : Running} {c : SeqCopy} {m : MapMember} (hs : c.st = .owner) (ht : r.ent.b % 2 ^ 15 ≠ self s)
    (he : c.epoch < 0xFFFFFFFE) (hm : (membership? s (r.ent.b / 2 ^ 16 % 2 ^ 12)).bind (fun x => mapMember x.map (r.ent.b % 2 ^ 15)) = some m)
    (hi : inComp s (r.ent.b / 2 ^ 16 % 2 ^ 12) (r.ent.b % 2 ^ 15) = true) :
    castleOf s id r c =
      if m.pers ≠ 2 then finish s id Code.tzRights
      else if m.parting then finish s id Code.cmpParting
      else changeRecord (modCopy (await s id) r.ent.a (fun c => { c with peer := r.ent.b % 2 ^ 15, castleComp := r.ent.b / 2 ^ 16 % 2 ^ 12, castleInstr := some id })) r.ent.a
        (.setState 1 (r.ent.b % 2 ^ 15) (r.ent.b / 2 ^ 16 % 2 ^ 12)) .castleOffer := by
  have he' : ¬ 0xFFFFFFFE ≤ c.epoch := Nat.not_le.mpr he
  simp only [castleOf, hs, ht, he', hm, hi, ne_eq, not_true_eq_false, or_self, Bool.not_true, Bool.false_eq_true, ↓reduceIte]

/-- Settles O19, by the lemma of each outcome of the three rows. -/
theorem claimAndCastleRows : Obligations.ClaimAndCastleRows := by
  unfold Obligations.ClaimAndCastleRows
  intro s id r hb
  refine ⟨fun m ho hn hm => ⟨?_, ?_, ?_⟩, fun ho hn hw => ⟨?_, ?_, ?_, fun c hc hs he => ?stale⟩, fun c ho hw hu hc => ?castle⟩
  · exact fun hp => execClaimCreate_parting hb ho hn hm hp
  · exact fun hp hg => execClaimCreate_no_granule hb ho hn hm hp hg
  · exact fun hp hg => execClaimCreate_creates hb ho hn hm hp hg
  · exact fun hc => execClaimAssert_no_copy hb ho hn hw hc
  · exact fun c hc hs he => execClaimAssert_owner hb ho hn hw hc hs he
  · exact fun c hc he => execClaimAssert_last_epoch hb ho hn hw hc he
  case stale =>
    have asks := execClaimAssert_stale hb ho hn hw hc hs he
    refine ⟨fun hh => asks.trans (congrArg (Host.Outcome.next ∘ retag s) (if_pos hh)), fun hh => asks.trans (congrArg (Host.Outcome.next ∘ retag s) (if_neg ?_))⟩
    exact Bool.eq_false_iff.mp hh
  case castle =>
    intro target comp
    have row := execCastle_begun hb ho hw hu hc
    refine ⟨fun hs => ?other, fun hs ht => ?self, fun m hs ht he hm => ⟨fun hi hp => ?pers, fun hi hp hq => ?parting, fun hi hp hq => ?offer⟩⟩
    case other => rw [row, castleOf, if_pos hs, retag_finish]
    case self =>
      rw [row, castleOf, if_neg (not_not_intro hs)]
      simp only [target] at ht
      rw [if_pos ht, retag_finish]
    case pers => rw [row, castleOf_member hs ht he hm hi, if_pos hp, retag_finish]
    case parting => rw [row, castleOf_member hs ht he hm hi, if_neg (not_not_intro hp), if_pos hq, retag_finish]
    case offer => rw [row, castleOf_member hs ht he hm hi, if_neg (not_not_intro hp), if_neg (Bool.eq_false_iff.mp hq)]

end Sys2Proof.Machine
end

section
/-!
PROOF. A record's home, its partner and its owner: what each record message and the retry do.
-/

namespace Sys2Proof.Machine

open Sys2Proof

theorem exec_entries (h : Hdr) (subject : Handle) (epoch kind state target comp : Nat) (items : List EntryItem) (s : State) :
    exec (.entries h subject epoch kind state target comp items) s = execEntries h subject epoch kind state target comp items s := rfl
theorem exec_entriesAck (h : Hdr) (subject : Handle) (epoch code version : Nat) (s : State) :
    exec (.entriesAck h subject epoch code version) s = execEntriesAck h subject epoch code version s := rfl
theorem exec_release (h : Hdr) (subject : Handle) (epoch : Nat) (s : State) :
    exec (.release h subject epoch) s = execRelease h subject epoch s := rfl
theorem exec_released (h : Hdr) (subject : Handle) (epoch code : Nat) (s : State) :
    exec (.released h subject epoch code) s = execReleased h subject epoch code s := rfl
theorem exec_record (h : Hdr) (subject : Handle) (version : Nat) (desc : SeqRecord) (s : State) :
    exec (.record h subject version desc) s = execRecord h subject version desc s := rfl
theorem exec_recordAck (h : Hdr) (subject : Handle) (code version : Nat) (s : State) :
    exec (.recordAck h subject code version) s = execRecordAck h subject code version s := rfl
theorem exec_recordDelete (h : Hdr) (subject : Handle) (version : Nat) (s : State) :
    exec (.recordDelete h subject version) s = execRecordDelete h subject version s := rfl
theorem exec_mirrorRetryTimeout (subject : Handle) (s : State) :
    exec (.mirrorRetryTimeout subject) s = execMirrorRetryTimeout subject s := rfl

/-! ### The updates waiting at the home (R215 to R218) -/

section
variable {s : State} {x : Handle} {r : HomeRec} {w : QueuedUpd} {rest : List QueuedUpd}

/-- An update asked for under another owner or epoch than the recorded ones is refused. -/
theorem headCode_stale {o e : Nat} (hu : w.under = some (o, e)) (hne : o ≠ r.desc.owner ∨ e ≠ r.desc.epoch) : headCode s r w = Code.ownNotOwner := by
  rw [headCode, hu]
  refine if_pos ?_
  simpa only [Option.any_some, Bool.or_eq_true, bne_iff_ne] using hne

theorem pump_refused (n : Nat) (hr : findHome s x = some r) (hq : r.queue = w :: rest) (hi : r.inflight = none) (hc : headCode s r w ≠ 0) :
    pump (n + 1) s x = pump n (refuseAns (modHome s x (fun r => { r with queue := rest })) x r.desc (headCode s r w) w.ans) x := by
  simp only [pump, hr, hq, hi]
  exact if_pos hc

theorem pump_mirrored (n : Nat) {d : SeqRecord} (hr : findHome s x = some r) (hq : r.queue = w :: rest) (hi : r.inflight = none) (hc : headCode s r w = 0)
    (hp : partnerUp s = true) (hd : applyUpd (homePer s r.desc) w.upd r.desc = some d) :
    pump (n + 1) s x = control (modHome s x (fun y => { y with inflight := some (r.desc.version + 1), due := s.now + castleTo s })) s.ident.partner x (.recordMsg d.version d) := by
  simp only [pump, hr, hq, hi, hc, hp, hd, ne_eq, not_true_eq_false, ↓reduceIte]

theorem pump_unmirrored (n : Nat) (hr : findHome s x = some r) (hq : r.queue = w :: rest) (hi : r.inflight = none) (hc : headCode s r w = 0) (hp : partnerUp s = false) :
    pump (n + 1) s x = pump n (applyHead (modHome s x (fun r => { r with unmirrored := true })) x) x := by
  simp only [pump, hr, hq, hi, hc, hp, ne_eq, not_true_eq_false, Bool.false_eq_true, ↓reduceIte]

end

/-! ### The messages (R224, R497) -/

section
variable {s : State} {h : Hdr} {x : Handle}

/-- The update that an ENTRIES of a kind asks for (R224). -/
def entriesUpd (kind state target comp : Nat) (items : List EntryItem) : RecUpd :=
  match kind with
  | 0 => .add items
  | 1 => .change items
  | 2 => .remove items
  | _ => .setState state target comp

theorem handled_entries {r : HomeRec} (epoch kind state target comp : Nat) (items : List EntryItem) (hr : findHome (asHome (arrive s h).1 x) x = some r) :
    Handled (.entries h x epoch kind state target comp items) s h
      (homeAsk (asHome (arrive s h).1 x) x (some (h.src, epoch)) (entriesUpd kind state target comp items) (.entriesAck h.src)) := by
  refine handled_of (by rw [exec_entries, execEntries.eq_def]) ?_
  dsimp only
  rw [hr]
  rfl

theorem handled_release {r : HomeRec} (epoch : Nat) (hr : findHome (asHome (arrive s h).1 x) x = some r) :
    Handled (.release h x epoch) s h (homeAsk (asHome (arrive s h).1 x) x (some (h.src, epoch)) .delete (.released h.src)) := by
  refine handled_of (by rw [exec_release, execRelease]) ?_
  simp only [hr]

/-- ENTRIES_ACK takes the first waiting continuation off, and runs or refuses it. -/
theorem handled_entriesAck {c : SeqCopy} {k : RecUpd × Cont} {ks : List (RecUpd × Cont)} (epoch code version : Nat) (hc : findCopy (arrive s h).1 x = some c)
    (hw : c.waits = k :: ks) :
    let t := modCopy (arrive s h).1 x (fun c => { c with waits := ks })
    Handled (.entriesAck h x epoch code version) s h (walksOn (if code = 0 then runCont t x k.2 else contRefused t x k.2 code)) := by
  refine handled_of (by rw [exec_entriesAck, execEntriesAck]) ?_
  simp only [hc, hw]

theorem handled_released {t : State} (epoch code : Nat) (ht : releaseEnd (arrive s h).1 x code = t) : Handled (.released h x epoch code) s h t :=
  handled_of (by rw [exec_released, execReleased]) ht

theorem releaseEnd_waiting {r : Running} (code : Nat)
    (hr : s.tz.started.find? (fun r => r.ent.opcode == opPevict && r.ent.flag 4 && r.ent.a == x && decide (r.phase = .waiting)) = some r) :
    let t := { s with own := { s.own with releasing := s.own.releasing.filter (fun w => !(w.handle == x)) } }
    releaseEnd s x code = finish (if code = Code.ownNotOwner then t else dropCopy t x) r.id code := by
  intro t
  have ht : (if code = Code.ownNotOwner then t else dropCopy t x).tz = s.tz := by split <;> rfl
  rw [← ht] at hr
  simp only [releaseEnd]
  rw [hr]

theorem handled_recordAck_inflight {r : HomeRec} {version : Nat} (hr : findHome (arrive s h).1 x = some r) (hi : r.inflight = some version) :
    Handled (.recordAck h x 0 version) s h (walksOn (pumpAll (applyHead (arrive s h).1 x) x)) := by
  refine handled_of (by rw [exec_recordAck, execRecordAck]) ?_
  simp only [hr, hi, ne_eq, not_true_eq_false, ↓reduceIte]

theorem handled_recordAck_other {r : HomeRec} {version : Nat} (hr : findHome (arrive s h).1 x = some r) (hi : r.inflight ≠ some version)
    (hv : r.inflight.any (fun v => decide (v < version)) = false) : Handled (.recordAck h x 0 version) s h (arrive s h).1 := by
  refine handled_of (by rw [exec_recordAck, execRecordAck]) ?_
  simp only [hr, hi, hv, ne_eq, not_true_eq_false, Bool.false_eq_true, ↓reduceIte]

theorem handled_record_new (version : Nat) (desc : SeqRecord) (hh : findHome (arrive s h).1 x = none) (hm : s.own.mirrors.find? (fun m => m.handle == x) = none)
    (hg : granuleRoom s (recordGranules desc) = true) :
    let u := (arrive s h).1
    Handled (.record h x version desc) s h (control { u with own := { u.own with mirrors := u.own.mirrors.filter (fun m => !(m.handle == x)) ++ [desc] } } h.src x (.recordAck 0 version)) := by
  refine handled_of (by rw [exec_record, execRecord]) ?_
  simp only [hh, hm, hg, Nat.sub_zero, Option.isSome_none, Bool.true_and, Bool.not_true, Bool.false_eq_true, ↓reduceIte]

theorem handled_record_old (version : Nat) (desc : SeqRecord) {m : SeqRecord} (hh : findHome (arrive s h).1 x = none)
    (hm : s.own.mirrors.find? (fun m => m.handle == x) = some m) (hv : version ≤ m.version) :
    Handled (.record h x version desc) s h (control (arrive s h).1 h.src x (.recordAck 0 m.version)) := by
  refine handled_of (by rw [exec_record, execRecord]) ?_
  simp only [hh, hm, decide_eq_false (Nat.not_lt.mpr hv), Option.isSome_none, Bool.false_and, Bool.false_eq_true, ↓reduceIte, Option.map_some, Option.getD_some]

/-- RECORD_DELETE removes a mirror of a lower VERSION only, and is acknowledged in any case. -/
theorem handled_recordDelete (version : Nat) :
    let u := (arrive s h).1
    Handled (.recordDelete h x version) s h
      (control { u with own := { u.own with mirrors := u.own.mirrors.filter (fun m => !(m.handle == x && decide (m.version < version))) } } h.src x (.recordAck 0 version)) :=
  handled_of (by rw [exec_recordDelete, execRecordDelete]) rfl

end

/-! ### The retry (R217, R497) -/

section
variable {s : State} {x : Handle} {r : HomeRec} {v : Nat} {e : QueuedUpd} {q : List QueuedUpd}

/-- What the retry of the first waiting update does while the partner is there and the offer is overdue. -/
def retryUpd (s : State) (x : Handle) (r : HomeRec) (v : Nat) (e : QueuedUpd) : State :=
  match e.upd, e.ans with
  | .create _, .here (.claim id) =>
    finish (dropCopy { s with own := { s.own with homes := s.own.homes.filter (fun y => !(y.desc.handle == x)) } } x) id Code.ownCastleTimeout
  | _, _ =>
    pumpAll (control (modHome s x (fun y => { y with desc := { r.desc with version := v + 1 }, inflight := none })) s.ident.partner x
      (.recordMsg (v + 1) { r.desc with version := v + 1 })) x

theorem retryUpd_again (hne : ∀ d, e.upd ≠ .create d) :
    retryUpd s x r v e = pumpAll (control (modHome s x (fun y => { y with desc := { r.desc with version := v + 1 }, inflight := none })) s.ident.partner x
      (.recordMsg (v + 1) { r.desc with version := v + 1 })) x := by
  unfold retryUpd
  split
  next d _ hu _ => exact absurd hu (hne d)
  next => rfl

theorem retryUpd_claim {d : SeqRecord} {id : Nat} (hu : e.upd = .create d) (ha : e.ans = .here (.claim id)) :
    retryUpd s x r v e = finish (dropCopy { s with own := { s.own with homes := s.own.homes.filter (fun y => !(y.desc.handle == x)) } } x) id Code.ownCastleTimeout := by
  rw [retryUpd, hu, ha]

/-- The row of the retry, of a record with an update in flight. -/
theorem execMirrorRetryTimeout_inflight (hh : s.halted = false) (hp : paused s = false) (hr : findHome s x = some r) (hi : r.inflight = some v) (hq : r.queue = e :: q) :
    exec (.mirrorRetryTimeout x) s = .next (retag s (
      if partnerUp s = true ∧ s.now < r.due then s
      else if !(partnerUp s) then pumpAll (applyHead (modHome s x (fun r => { r with unmirrored := true, inflight := none })) x) x
      else retryUpd s x r v e)) := by
  rw [exec_mirrorRetryTimeout, execMirrorRetryTimeout, awake_running s _ hh hp]
  simp only [hr, hi, hq]
  rfl

end

/-- Settles O22, by the lemma of each message, of the first waiting update, and of the retry. -/
theorem recordRows : Obligations.RecordRows := by
  unfold Obligations.RecordRows
  refine ⟨fun s h x => ?messages, fun s x r w rest n hr hq hi => ?waiting, fun s x r v e q hh hp hr hi hq => ?retry⟩
  case messages =>
    intro u v
    refine ⟨?_, fun c k ks epoch version hc hw => ⟨?_, fun code hne => ?_⟩, ?_, ?_, ?_, ?_, ?_, ?_, ?_⟩
    · exact fun epoch kind state target comp items r hr => handled_entries epoch kind state target comp items hr
    · exact handled_entriesAck epoch 0 version hc hw
    · exact (if_neg hne).subst (motive := fun t => Handled _ _ _ (walksOn t)) (handled_entriesAck epoch code version hc hw)
    · exact fun r epoch hr => handled_release epoch hr
    · exact fun r epoch code hr => handled_released epoch code (releaseEnd_waiting code hr)
    · exact fun version desc hh hm hg => handled_record_new version desc hh hm hg
    · exact fun version desc m hh hm hv => handled_record_old version desc hh hm hv
    · exact fun r version hr hi => handled_recordAck_inflight hr hi
    · exact fun r version hr hi hv => handled_recordAck_other hr hi hv
    · exact handled_recordDelete
  case waiting =>
    exact ⟨fun o e hu hne => headCode_stale hu hne, pump_refused n hr hq hi, fun d hc hp hd => pump_mirrored n hr hq hi hc hp hd, pump_unmirrored n hr hq hi⟩
  case retry =>
    rw [execMirrorRetryTimeout_inflight hh hp hr hi hq]
    refine ⟨fun hu hd => ?early, fun hu => ?away, fun hu hd hne => ?again, fun d id hu hd hc ha => ?claim⟩
    case early => rw [if_pos ⟨hu, hd⟩, retag_self]
    case away => rw [hu, if_neg (fun hd => Bool.false_ne_true hd.1), Bool.not_false, if_pos rfl]
    case again => rw [if_neg (fun hd' => Nat.not_lt.mpr hd hd'.2), hu, Bool.not_true, if_neg Bool.false_ne_true, retryUpd_again hne]
    case claim => rw [if_neg (fun hd' => Nat.not_lt.mpr hd hd'.2), hu, Bool.not_true, if_neg Bool.false_ne_true, retryUpd_claim hc ha]

end Sys2Proof.Machine
end

section
/-!
PROOF. Lookups: PMATCH at the index and away from it, the messages of a lookup, and the shard map.
-/

namespace Sys2Proof.Machine

open Sys2Proof

theorem exec_pmatch (id : Nat) (s : State) :
    exec (.pmatch id) s = execPmatch id s := rfl
theorem exec_lookup (h : Hdr) (subject : Handle) (comp : Nat) (reserve takeRef : Bool) (digests : List Nat) (s : State) :
    exec (.lookup h subject comp reserve takeRef digests) s = execLookup h subject comp reserve takeRef digests s := rfl
theorem exec_lookupResult (h : Hdr) (subject : Handle) (code : Nat) (result : MatchResult) (s : State) :
    exec (.lookupResult h subject code result) s = execLookupResult h subject code result s := rfl
theorem exec_reserve (h : Hdr) (subject : Handle) (device : Nat) (digests : List Nat) (s : State) :
    exec (.reserve h subject device digests) s = execReserve h subject device digests s := rfl
theorem exec_reserved (h : Hdr) (subject : Handle) (code : Nat) (draft : Handle) (s : State) :
    exec (.reserved h subject code draft) s = execReserved h subject code draft s := rfl
theorem exec_shardMapReq (h : Hdr) (subject : Handle) (s : State) :
    exec (.shardMapReq h subject) s = execShardMapReq h subject s := rfl
theorem exec_shardMap (h : Hdr) (subject : Handle) (code : Nat) (holders : List Nat) (shardBlocks : Nat) (s : State) :
    exec (.shardMap h subject code holders shardBlocks) s = execShardMap h subject code holders shardBlocks s := rfl
theorem exec_ref (h : Hdr) (subject : Handle) (change : Int) (s : State) :
    exec (.ref h subject change) s = execRef h subject change s := rfl

/-! ### PMATCH (R110, R121) -/

theorem keyEnter_ident (s : State) (i : Nat) : (keyEnter s i).ident = s.ident := rfl

theorem enterMsg_ident (s : State) (i : Nat) (w : Writer) (off n : Nat) : (enterMsg s i w off n).ident = s.ident := by
  unfold enterMsg
  dsimp only
  split
  · exact keyEnter_ident s i
  · rw [setK_ident, keyEnter_ident]

theorem acceptResult_self (s : State) (r : Running) : self (acceptResult s r) = self s := by
  unfold self acceptResult
  rw [modRun_ident, enterMsg_ident]

section
variable {s : State} {id : Nat} {r : Running} {m : Membership} {bs : List Byte}

/-- The digests that a PMATCH read. -/
def matchDigests (r : Running) (bs : List Byte) : List Nat := (chunks 16 (fieldBytes r.blk 4 4) bs).map leVal

theorem execPmatch_outside (hb : Begun s id r) (ho : r.ent.opcode = opPmatch) (hm : membership? s (r.ent.b % 2 ^ 12) = none) :
    exec (.pmatch id) s = .next (finish s id Code.cmpNotMember) := by
  rw [exec_pmatch, execPmatch]
  refine runOp_ends hb (isOp ho) ?_
  simp only [hm]

/-- A PMATCH of a member that is not the index goes to the index and waits. -/
theorem execPmatch_asks {s' : State} (hb : Begun s id r) (ho : r.ent.opcode = opPmatch) (hm : membership? s (r.ent.b % 2 ^ 12) = some m)
    (hi : inComp s (r.ent.b % 2 ^ 12) (self s) = true) (hbs : bufRead s (bufAt r.blk 16) 0 (16 * fieldBytes r.blk 4 4) rRead = .ok bs) (hr : resultAccess s r = 0)
    (hx : m.map.index ≠ self s)
    (hs : sendTo (acceptResult s r) m.map.index 1 r.ent.a (.lookup (r.ent.b % 2 ^ 12) (r.ent.flag 4) (r.ent.a != nullHandle) (matchDigests r bs)) (some id) = .ok s') :
    exec (.pmatch id) s = .next (retag s (await s' id)) := by
  rw [exec_pmatch, execPmatch]
  refine runOp_eq hb (isOp ho) ?_
  simp only [matchDigests] at hs
  simp only [hm, hi, hbs, hr, acceptResult_self, hx, hs, Bool.not_true, Bool.false_eq_true, ne_eq, not_true_eq_false, ↓reduceIte]

/-- A PMATCH at the index that needs no draft of another owner is served here. -/
theorem execPmatch_served (hb : Begun s id r) (ho : r.ent.opcode = opPmatch) (hm : membership? s (r.ent.b % 2 ^ 12) = some m)
    (hi : inComp s (r.ent.b % 2 ^ 12) (self s) = true) (hbs : bufRead s (bufAt r.blk 16) 0 (16 * fieldBytes r.blk 4 4) rRead = .ok bs) (hr : resultAccess s r = 0)
    (hx : m.map.index = self s)
    (hn : (serveLookup (acceptResult s r) (r.ent.b % 2 ^ 12) (r.ent.flag 4) (r.ent.a != nullHandle) (matchDigests r bs) (self s)).2.2 = none) :
    let x := serveLookup (acceptResult s r) (r.ent.b % 2 ^ 12) (r.ent.flag 4) (r.ent.a != nullHandle) (matchDigests r bs) (self s)
    exec (.pmatch id) s = .next (retag s (matchDone x.1 r x.2.1)) := by
  intro x
  rw [exec_pmatch, execPmatch]
  refine runOp_eq hb (isOp ho) ?_
  simp only [matchDigests] at hn
  simp only [hm, hi, hbs, hr, acceptResult_self, hx, hn, Bool.not_true, Bool.false_eq_true, ne_eq, not_true_eq_false, ↓reduceIte]
  rfl
end

/-! ### The messages of a lookup (R383, R386) -/

/-- The result of a lookup that was refused. -/
def noMatch : MatchResult := { matched := 0, node := nullHandle, baseVersion := 0, draft := nullHandle, holders := [], shardBlocks := 0 }

section
variable {s : State} {h : Hdr} {x : Handle}

theorem handled_lookup_refused {comp : Nat} {m : Membership} (reserve takeRef : Bool) (digests : List Nat) (hm : membership? (arrive s h).1 comp = some m)
    (hx : m.map.index ≠ self (arrive s h).1 ∨ mapMember m.map h.src = none) :
    Handled (.lookup h x comp reserve takeRef digests) s h (control (arrive s h).1 h.src x (.lookupResult Code.cmpNotMember noMatch)) := by
  refine handled_of (by rw [exec_lookup, execLookup]) ?_
  simp only [hm]
  exact if_pos (hx.imp_right (fun hn => by rw [hn, Option.isNone_none]))

theorem handled_lookup_served {comp : Nat} {m : Membership} {reserve takeRef : Bool} {digests : List Nat} (hm : membership? (arrive s h).1 comp = some m)
    (hx : m.map.index = self (arrive s h).1) (hs : (mapMember m.map h.src).isSome = true)
    (hn : (serveLookup (arrive s h).1 comp reserve takeRef digests h.src).2.2 = none) :
    let y := serveLookup (arrive s h).1 comp reserve takeRef digests h.src
    Handled (.lookup h x comp reserve takeRef digests) s h (control y.1 h.src x (.lookupResult 0 y.2.1)) := by
  have hs' : (mapMember m.map h.src).isNone = false := by rw [Option.isNone_eq_false_iff]; exact hs
  refine handled_of (by rw [exec_lookup, execLookup]) ?_
  simp only [hm, hx, hs', hn, ne_eq, not_true_eq_false, Bool.false_eq_true, or_self, ↓reduceIte]

theorem handled_lookupResult {r : Running} (code : Nat) (result : MatchResult) (hr : waitingMatch (arrive s h).1 x = some r) :
    Handled (.lookupResult h x code result) s h (if code ≠ 0 then finish (arrive s h).1 r.id code else matchDone (arrive s h).1 r result) := by
  refine handled_of (by rw [exec_lookupResult, execLookupResult]) ?_
  simp only [hr]

theorem handled_reserve_unknown (device : Nat) (digests : List Nat) (hn : findHold (arrive s h).1 x = none) :
    Handled (.reserve h x device digests) s h (control (arrive s h).1 h.src x (.reserved Code.tzBadHandle nullHandle)) := by
  refine handled_of (by rw [exec_reserve, execReserve]) ?_
  simp only [hn]

theorem handled_reserve_held (device : Nat) (digests : List Nat) {n : NodeHold} (hn : findHold (arrive s h).1 x = some n) (hp : partingIn (arrive s h).1 h.comp = false) :
    let d := createDraft (arrive s h).1 h.comp x digests device (some n.model) 0
    Handled (.reserve h x device digests) s h (control d.1 h.src x (.reserved 0 d.2)) := by
  refine handled_of (by rw [exec_reserve, execReserve]) ?_
  simp only [hn, hp, Bool.false_eq_true, ↓reduceIte]

/-- RESERVED of a lookup of another device sends the result on with the draft. -/
theorem handled_reserved_other {l : LookupWait} (draft : Handle) (hl : (arrive s h).1.rgn.lookups.find? (fun l => l.result.node == x) = some l)
    (hr : l.requester ≠ self (arrive s h).1) :
    let u := (arrive s h).1
    Handled (.reserved h x 0 draft) s h (control (countDraft { u with rgn := { u.rgn with lookups := u.rgn.lookups.erase l } } x 1) l.requester l.subject
      (.lookupResult 0 { l.result with draft := draft })) := by
  have hc : (0 : Nat) ≠ Code.cmpParting := by decide
  refine handled_of (by rw [exec_reserved, execReserved]) ?_
  simp only [hl, hc, hr, ↓reduceIte]

theorem handled_shardMapReq_held {n : NodeHold} (hn : findHold (arrive s h).1 x = some n) :
    Handled (.shardMapReq h x) s h (control (arrive s h).1 h.src x (.shardMap 0 n.holders n.shardBlocks)) := by
  refine handled_of (by rw [exec_shardMapReq, execShardMapReq]) ?_
  simp only [hn]

theorem handled_shardMapReq_unknown (hn : findHold (arrive s h).1 x = none) :
    Handled (.shardMapReq h x) s h (control (arrive s h).1 h.src x (.shardMap Code.tzBadHandle [] 0)) := by
  refine handled_of (by rw [exec_shardMapReq, execShardMapReq]) ?_
  simp only [hn]

theorem handled_ref (change : Int) : Handled (.ref h x change) s h (refNode (arrive s h).1 x change) := handled_of (by rw [exec_ref, execRef]) rfl

end

/-! ### The draft that a lookup creates (R124) -/

theorem newNumber_lt (s : State) (cls : Nat) (live : Nat → Bool) : (newNumber s cls live).1 < 2 ^ 40 := Nat.mod_lt _ (by decide)

/-- A handle's home reads back in its 15 bits (R63). -/
theorem hHome_mkHandle {cls num : Nat} (home : Nat) (hc : cls < 2 ^ 9) (hn : num < 2 ^ 40) : hHome (mkHandle home cls num) = home % 2 ^ 15 := by
  unfold hHome mkHandle
  omega

theorem createDraft_home (s : State) (comp : Nat) (parent : Handle) (digests : List Nat) (reserver : Nat) (model : Option Handle) (version : Nat) :
    hHome (createDraft s comp parent digests reserver model version).2 = self s % 2 ^ 15 :=
  hHome_mkHandle _ (by decide) (newNumber_lt _ _ _)

/-- The draft node is the new last one, of the given parent, digests, reserver and model, held by no message and published by none. -/
theorem createDraft_drafts (s : State) (comp : Nat) (parent : Handle) (digests : List Nat) (reserver : Nat) (model : Option Handle) (version : Nat) :
    let d := createDraft s comp parent digests reserver model version
    ∃ e, d.1.rgn.drafts = s.rgn.drafts ++ [e] ∧ e.handle = d.2 ∧ e.parent = parent ∧ e.digests = digests ∧ e.reserver = reserver ∧ e.model = model ∧ e.holds = 0 ∧
      e.publisher = none :=
  ⟨_, rfl, rfl, rfl, rfl, rfl, rfl, rfl, rfl⟩

/-! ### The shard map (R383) -/

/-- A shard map kept in place of the node's earlier one is the one found for the node. -/
theorem find?_replaced (maps : List ShardMap) (x : Handle) (y : ShardMap) (hy : y.node = x) :
    (maps.filter (fun z => !(z.node == x)) ++ [y]).find? (fun z => z.node == x) = some y := by
  rw [List.find?_append, List.find?_eq_none.mpr, Option.none_or, List.find?_singleton]
  · rw [hy, beq_self_eq_true, if_pos rfl]
  · intro z hz
    simpa using (List.mem_filter.mp hz).2

section
variable {s : State} {h : Hdr} {x : Handle}

/-- The map that a SHARD_MAP names, with the model that an earlier one gave. -/
def namedMap (u : State) (x : Handle) (holders : List Nat) (blocks : Nat) : ShardMap :=
  { node := x, holders := holders, shardBlocks := blocks, matched := holders.length * blocks, exact := false, model := (u.rgn.maps.find? (fun y => y.node == x)).bind (·.model) }

/-- The map kept in place of the node's earlier one. -/
def keepMap (u : State) (x : Handle) (map : ShardMap) : State := { u with rgn := { u.rgn with maps := u.rgn.maps.filter (fun y => !(y.node == x)) ++ [map] } }

/-- The ATTENDs that wait for the map of a node go on. -/
def mapArrived (u : State) (x : Handle) : State :=
  modRun u (fun r => r.ent.opcode == opAttend && decide (r.phase = .waiting) && !(u.tz.splits.any (fun y => y.instr == r.id)) &&
    (findCopy u r.ent.b).any (fun c => c.desc.pfx == x)) (fun r => { r with phase := .ready })

/-- SHARD_MAP 0 keeps the map and lets the ATTENDs that wait for it go on. -/
theorem handled_shardMap (holders : List Nat) (blocks : Nat)
    (hn : (arrive s h).1.tz.started.find? (fun r => r.ent.opcode == opPcopy && r.ent.a == x && decide (r.phase = .waiting) && r.aux == 0) = none) :
    Handled (.shardMap h x 0 holders blocks) s h (mapArrived (keepMap (arrive s h).1 x (namedMap (arrive s h).1 x holders blocks)) x) := by
  refine handled_of (by rw [exec_shardMap, execShardMap]) ?_
  have hnone : (mapArrived (keepMap (arrive s h).1 x (namedMap (arrive s h).1 x holders blocks)) x).tz.started.find?
      (fun r => r.ent.opcode == opPcopy && r.ent.a == x && decide (r.phase = .waiting) && r.aux == 0) = none := by
    refine (find?_mapIf_disjoint _ _ _ _ (fun r hr => ?_) (fun r hr => ?_)).trans hn
    all_goals
      have ha : r.ent.opcode = opAttend := by simp only [Bool.and_eq_true, beq_iff_eq] at hr; exact hr.1.1.1
      have hne : (opAttend == opPcopy) = false := by decide
      simp only [ha, hne, Bool.false_and]
  simp only [mapArrived, keepMap, namedMap] at hnone ⊢
  simp only [↓reduceIte, hnone]

end

/-- Settles O24, by the lemma of each outcome of PMATCH and of each message. -/
theorem lookupRows : Obligations.LookupRows := by
  unfold Obligations.LookupRows
  refine ⟨fun s id r hb ho => ⟨fun hm => execPmatch_outside hb ho hm, fun m bs hm hi hbs hr => ⟨?_, ?_⟩⟩, fun s h x => ?messages⟩
  · exact fun s' hx hs => execPmatch_asks hb ho hm hi hbs hr hx hs
  · exact fun hx hn => execPmatch_served hb ho hm hi hbs hr hx hn
  case messages =>
    refine ⟨fun comp reserve takeRef digests m hm => ⟨?_, ?_⟩, ?_, ?_, fun device digests n hn hp => ⟨?_, ?draft⟩, ?_, ?_, ?_, fun holders blocks hn => ?map, ?_⟩
    · exact fun hx => handled_lookup_refused reserve takeRef digests hm hx
    · exact fun hx hs hn => handled_lookup_served hm hx hs hn
    · exact fun r code result hr => handled_lookupResult code result hr
    · exact fun device digests hn => handled_reserve_unknown device digests hn
    · exact handled_reserve_held device digests hn hp
    case draft =>
      obtain ⟨e, hd, hh, hpar, hdig, hres, hmod, hholds, hpub⟩ := createDraft_drafts (arrive s h).1 h.comp x digests device (some n.model) 0
      exact ⟨e, hd, hh, hpar, hdig, hres, hmod, createDraft_home _ _ _ _ _ _ _, hholds, hpub⟩
    · exact fun l draft hl hr => handled_reserved_other draft hl hr
    · exact fun n hn => handled_shardMapReq_held hn
    · exact fun hn => handled_shardMapReq_unknown hn
    case map => exact ⟨_, handled_shardMap holders blocks hn, find?_replaced _ _ _ rfl, rfl, rfl, rfl⟩
    · exact handled_ref

end Sys2Proof.Machine
end

section
/-!
PROOF. The commit of a draft node: its distribution's end, the index, and the owner's side of the index's verdict.
-/

namespace Sys2Proof.Machine

open Sys2Proof

/-! ### Drafts by handle -/

theorem draft_handle {l : List DraftNode} {x : Handle} {d : DraftNode} (h : l.find? (fun d => d.handle == x) = some d) : d.handle = x := by
  simpa using List.find?_some h

/-- The state with the draft of a handle replaced. -/
def setDraft (s : State) (x : Handle) (d : DraftNode) : State := { s with rgn := { s.rgn with drafts := mapIf (fun y => y.handle == x) (fun _ => d) s.rgn.drafts } }

theorem setDraft_find {s : State} {x : Handle} {d d' : DraftNode} (h : s.rgn.drafts.find? (fun d => d.handle == x) = some d) (hd : d'.handle = d.handle) :
    (setDraft s x d').rgn.drafts.find? (fun d => d.handle == x) = some d' := by
  refine (find?_mapIf _ _ _ (fun _ _ => ?_)).trans ?_
  · rw [hd, draft_handle h, beq_self_eq_true]
  · rw [h, Option.map_some]

/-- No draft of a handle is left after all of the handle were removed. -/
theorem find?_removed (l : List DraftNode) (x : Handle) : (l.filter (fun y => !(y.handle == x))).find? (fun y => y.handle == x) = none := by
  refine List.find?_eq_none.mpr (fun y hy => ?_)
  simpa using (List.mem_filter.mp hy).2

/-! ### The commit at the index and the owner's side of it (R382, R385, R386) -/

theorem bothLost_nil (map : CompMap) (holders : List Nat) : bothLost map holders [] = false := by
  simp [bothLost]

section
variable {s : State} {x : Handle} {comp owner : Nat} {c : NodeCommit} {me : MapMember}

theorem commitAtIndex_conflict (hc : commitConflict s comp c = true) (ho : owner ≠ self s) :
    commitAtIndex s comp x c owner =
      control s owner x (.indexCommitted Code.pubConflict (match findNode s c.parent with | some p => p.version | none => rootVersionOf s comp)) := by
  rw [commitAtIndex]
  exact (if_pos hc).trans (if_neg ho)

/-- Without a partner the index enters the node at once and answers the owner, here or by message. -/
theorem commitAtIndex_enters (hc : commitConflict s comp c = false) (hm : (membership? s comp).bind (fun m => mapMember m.map (self s)) = some me)
    (hp : me.partner = noDevice) :
    let y := enterNode s comp x c
    commitAtIndex s comp x c owner = if owner = self s then indexVerdict y.1 x 0 y.2 else control y.1 owner x (.indexCommitted 0 y.2) := by
  simp only [commitAtIndex, hc, hm, hp, ne_eq, not_true_eq_false, false_and, Bool.false_eq_true, ↓reduceIte]
  rfl

theorem commitAtIndex_partner (hc : commitConflict s comp c = false) (hm : (membership? s comp).bind (fun m => mapMember m.map (self s)) = some me)
    (hn : me.partner ≠ noDevice) (hs : me.partner ≠ self s) (hp : present s me.partner = true) :
    commitAtIndex s comp x c owner = control { s with rgn := { s.rgn with treeWaits := s.rgn.treeWaits ++ [{ node := x, commit := some c, answer := owner, comp := comp }] } }
      me.partner x (.treeMsg 1 (some c) 0) := by
  simp only [commitAtIndex, hc, hm, hn, hs, hp, ne_eq, not_false_eq_true, and_self, Bool.false_eq_true, ↓reduceIte]

end

section
variable {s : State} {x : Handle} {d : DraftNode} {m : Membership}

/-- While an answer is awaited the distribution goes on. -/
theorem distributionDone_awaits (hd : s.rgn.drafts.find? (fun d => d.handle == x) = some d) (ha : d.awaiting ≠ []) : distributionDone s x = s := by
  have ha' : d.awaiting.isEmpty = false := List.isEmpty_eq_false_iff.mpr ha
  simp only [distributionDone, hd, ha', Bool.not_false, or_true, ↓reduceIte]
  split <;> rfl

/-- Once no answer is awaited and none failed, the commit goes to the index, here or by message. -/
theorem distributionDone_commits (hd : s.rgn.drafts.find? (fun d => d.handle == x) = some d) (hm : membership? s d.comp = some m) (hp : d.publisher.isSome = true)
    (ha : d.awaiting = []) (hf : d.failed = []) :
    distributionDone s x = if m.map.index = self s then commitAtIndex s d.comp x (commitBody s d m.map) (self s)
      else control s m.map.index x (.indexCommit (commitBody s d m.map)) := by
  have hp' : d.publisher ≠ none := Option.isSome_iff_ne_none.mp hp
  simp only [distributionDone, hd, hm, hp', ha, hf, bothLost_nil, List.isEmpty_nil, List.any_nil, Bool.not_true, Bool.false_eq_true, or_self, ↓reduceIte]

/-- The draft's owner on the index's success. -/
theorem indexVerdict_done (version : Nat) (hd : s.rgn.drafts.find? (fun d => d.handle == x) = some d) (hm : membership? s d.comp = some m) :
    indexVerdict s x 0 version = publishDone s d m.map (d.model.getD nullHandle) version := by
  simp only [indexVerdict, hd, hm, ↓reduceIte]

theorem publishDone_drafts (s : State) (d : DraftNode) (map : CompMap) (model : Handle) (version : Nat) :
    (publishDone s d map model version).rgn.drafts.find? (fun y => y.handle == d.handle) = none := by
  refine Eq.trans ?_ (find?_removed s.rgn.drafts d.handle)
  unfold publishDone
  dsimp only
  split <;> rfl

theorem publishDone_tree (s : State) (d : DraftNode) (map : CompMap) (model : Handle) (version : Nat) : (publishDone s d map model version).rgn.tree = s.rgn.tree := by
  unfold publishDone
  dsimp only
  split <;> rfl

/-- The published draft is a node held here. -/
theorem publishDone_hold (s : State) (d : DraftNode) (map : CompMap) (model : Handle) (version : Nat) :
    (findHold (publishDone s d map model version) d.handle).isSome = true := by
  have hmem : ∃ n ∈ (publishDone s d map model version).rgn.holds, n.handle = d.handle := by
    unfold publishDone
    dsimp only
    split
    all_goals exact ⟨_, List.mem_append_right _ (List.mem_singleton.mpr rfl), rfl⟩
  obtain ⟨n, hn, hh⟩ := hmem
  exact List.find?_isSome.mpr ⟨n, hn, beq_iff_eq.mpr hh⟩

theorem findRun_enterNode (s : State) (comp : Nat) (x : Handle) (c : NodeCommit) (id : Nat) : findRun (enterNode s comp x c).1 id = findRun s id := rfl

theorem findRun_setDraft (s : State) (x : Handle) (d : DraftNode) (id : Nat) : findRun (setDraft s x d) id = findRun s id := rfl

/-- The PUBLISH that waited for the commit ends with success. -/
theorem publishDone_ends (s : State) (map : CompMap) (model : Handle) (version : Nat) {id : Nat} (hp : d.publisher = some id) :
    findRun (publishDone s d map model version) id = (findRun s id).map (fun r => { r with phase := .done 0 }) := by
  simp only [publishDone, hp]
  exact findRun_modRun _ id _ (fun _ => rfl)

/-- Messages sent one after another leave the regions as they are. -/
theorem foldl_control_rgn (f : Nat → Msg) (y : Handle) (l : List Nat) (s : State) : (l.foldl (fun s d => control s d y (f d)) s).rgn = s.rgn :=
  (OnlyFab.foldl _ (fun s d => control_fab s d y (f d)) l s).rgn

theorem publishFails_drafts (s : State) (d : DraftNode) (code : Nat) :
    (publishFails s d code).rgn.drafts = mapIf (fun y => y.handle == d.handle) (fun y => { y with publisher := none, awaiting := [], failed := [] }) s.rgn.drafts := by
  unfold publishFails
  dsimp only
  split <;> rfl

/-- A refused commit keeps the draft, published by none. -/
theorem indexVerdict_refused {code : Nat} (version : Nat) (hd : s.rgn.drafts.find? (fun d => d.handle == x) = some d) (hm : membership? s d.comp = some m) (hc : code ≠ 0) :
    ((indexVerdict s x code version).rgn.drafts.find? (fun d => d.handle == x)).map (·.publisher) = some none := by
  simp only [indexVerdict, hd, hm, hc, ↓reduceIte]
  rw [publishFails_drafts, foldl_control_rgn (fun _ => .retire), draft_handle hd]
  refine (congrArg (Option.map _) (find?_mapIf _ _ _ ?_)).trans ?_
  · exact fun _ hy => hy
  · rw [hd]
    rfl

end

end Sys2Proof.Machine
end

section
/-!
PROOF. The messages of a publication: what each does where it is taken (R385, R637).
-/

namespace Sys2Proof.Machine

open Sys2Proof

theorem exec_distribute (h : Hdr) (subject : Handle) (layer first count : Nat) (bytes : List Byte) (descriptor : Option ModelRec) (s : State) :
    exec (.distribute h subject layer first count bytes descriptor) s = execDistribute h subject layer first count bytes descriptor s := rfl
theorem exec_share (h : Hdr) (subject : Handle) (ancestor : Handle) (first count : Nat) (s : State) :
    exec (.share h subject ancestor first count) s = execShare h subject ancestor first count s := rfl
theorem exec_distributed (h : Hdr) (subject : Handle) (code : Nat) (s : State) :
    exec (.distributed h subject code) s = execDistributed h subject code s := rfl
theorem exec_indexCommit (h : Hdr) (subject : Handle) (c : NodeCommit) (s : State) :
    exec (.indexCommit h subject c) s = execIndexCommit h subject c s := rfl
theorem exec_indexCommitted (h : Hdr) (subject : Handle) (code version : Nat) (s : State) :
    exec (.indexCommitted h subject code version) s = execIndexCommitted h subject code version s := rfl

section
variable {s : State} {h : Hdr} {x : Handle}

theorem handled_distribute_unknown (layer first count : Nat) (bytes : List Byte) (hm : boundModel (arrive s h).1 x = none) :
    Handled (.distribute h x layer first count bytes none) s h (control (arrive s h).1 h.src x (.distributed Code.tzBadHandle)) := by
  refine handled_of (by rw [exec_distribute, execDistribute.eq_def]) ?_
  simp only [hm]

/-- The rows of a DISTRIBUTE put into the pages that they meet, until one finds no frame. -/
def putBlocks (u : State) (x : Handle) (m : Model) (layer first : Nat) (bytes : List Byte) : State × Nat :=
  let kind : PageKind := if u.rgn.drafts.any (fun d => d.handle == x) then .draft else .shard
  (blockPages m.desc first bytes).foldl (fun acc p => if acc.2 ≠ 0 then acc else storeNodePage acc.1 x kind m.desc layer p.1 p.2.1 p.2.2) (u, 0)

theorem handled_distribute_rows (layer first count : Nat) (bytes : List Byte) {m : Model} (hm : boundModel (arrive s h).1 x = some m) :
    let y := putBlocks (arrive s h).1 x m layer first bytes
    Handled (.distribute h x layer first count bytes none) s h (control (if y.2 = 0 then extendHold y.1 x first count else y.1) h.src x (.distributed y.2)) := by
  refine handled_of (by rw [exec_distribute, execDistribute.eq_def]) ?_
  simp only [hm]
  rfl

/-- A row put into a table of rows at its slot, and the ones after it at theirs, reads back. -/
theorem find_putRows (f : Nat → List Byte) (slot n k : Nat) (t : Tbl (List Byte)) (hk : k < n) :
    Tbl.find ((List.range n).foldl (fun t i => t.set (slot + i) (f i)) t) (slot + k) = some (f k) := by
  induction n with
  | zero => omega
  | succ n ih =>
    rw [List.range_succ, List.foldl_append, List.foldl_cons, List.foldl_nil, Tbl.find_set]
    by_cases hkn : k = n
    · rw [hkn, if_pos rfl]
    · rw [if_neg (by omega)]
      exact ih (by omega)

/-- A page of the node that is here takes the rows in place, and keeps its number. -/
theorem storeNodePage_here {u : State} {p : Page} (kind : PageKind) (m : ModelRec) (layer index slot : Nat) (bs : List Byte)
    (hp : u.pages.find? (fun p => p.obj == x && p.layer == layer && p.index == index) = some p) :
    (storeNodePage u x kind m layer index slot bs).2 = 0 ∧
    ∃ q ∈ (storeNodePage u x kind m layer index slot bs).1.pages, q.number = p.number ∧ q.kind = kind ∧
      ∀ k, k < bs.length / max 1 (rowBytes m) → Tbl.find q.rows (slot + k) = some (sliceBytes bs (k * rowBytes m) (rowBytes m)) := by
  simp only [storeNodePage, hp, true_and]
  refine ⟨_, List.mem_map.mpr ⟨p, List.mem_of_find?_eq_some hp, if_pos (beq_iff_eq.mpr rfl)⟩, rfl, rfl, fun k hk => ?_⟩
  exact find_putRows (fun i => sliceBytes bs (i * rowBytes m) (rowBytes m)) slot _ k _ hk

theorem putBlocks_one {u : State} {m : Model} {layer first index slot : Nat} {bytes bs : List Byte} (hb : blockPages m.desc first bytes = [(index, slot, bs)]) :
    putBlocks u x m layer first bytes = storeNodePage u x (if u.rgn.drafts.any (fun d => d.handle == x) then .draft else .shard) m.desc layer index slot bs := by
  rw [putBlocks, hb]
  rfl

/-- A descriptor is adopted, and the hold of a node not known here begins. -/
theorem handled_distribute_descriptor (layer first count : Nat) (bytes : List Byte) {d : ModelRec} {u : State} {m : Model} {c : Bool}
    (ha : adoptModel (arrive s h).1 d = some (u, m, c)) (hd : u.rgn.drafts.find? (fun d => d.handle == x) = none) (hn : findHold u x = none) :
    Handled (.distribute h x layer first count bytes (some d)) s h (control { u with rgn := { u.rgn with holds := u.rgn.holds ++ [{
      handle := x, comp := h.comp, parent := nullHandle, model := modelHandle u m, blocks := 0, first := 0, count := 0, holders := [], shardBlocks := 0, digest := 0, since := 0 }] } }
      h.src x (.distributed 0)) := by
  refine handled_of (by rw [exec_distribute, execDistribute.eq_def]) ?_
  simp only [ha, bindNode, hd, hn, Option.isSome_none, Bool.false_eq_true, ↓reduceIte]

theorem handled_share_unknown (ancestor : Handle) (first count : Nat) (hm : boundModel (arrive s h).1 x = none) :
    Handled (.share h x ancestor first count) s h (control (arrive s h).1 h.src x (.distributed Code.tzBadHandle)) := by
  refine handled_of (by rw [exec_share, execShare]) ?_
  simp only [hm]

/-- The pages that a SHARE refers to, each with one reference more. -/
def sharedPages (u : State) (m : Model) (ancestor : Handle) (first count : Nat) : List Page :=
  mapIf (fun p => (nodeChain u 64 ancestor).contains p.obj && (p.kind == .shard || p.kind == .draft) &&
    decide (first * 64 < (p.index + 1) * perPage m.desc ∧ p.index * perPage m.desc < (first + count) * 64)) (fun p => { p with refs := p.refs + 1 }) u.pages

/-- What a SHARE leaves here: the references, and the hold with its parent and its blocks. -/
def afterShare (u : State) (x : Handle) (m : Model) (ancestor : Handle) (first count : Nat) : State :=
  extendHold { u with
    pages := sharedPages u m ancestor first count
    rgn := { u.rgn with holds := mapIf (fun n => n.handle == x) (fun n => { n with parent := ancestor }) u.rgn.holds } } x first count

/-- Raising references changes no page's place. -/
theorem sharedPages_any (u : State) (m : Model) (ancestor : Handle) (first count : Nat) (q : Page → Bool) (hq : ∀ p n, q { p with refs := n } = q p) :
    (sharedPages u m ancestor first count).any q = u.pages.any q := by
  rw [sharedPages, mapIf, List.any_map]
  refine List.any_congr rfl (fun p => ?_)
  rw [Function.comp_apply]
  split
  · exact hq p _
  · rfl

/-- With every page of the ancestor's blocks here, SHARE reads none from elsewhere. -/
theorem handled_share_whole (ancestor : Handle) (first count : Nat) {m : Model} (hm : boundModel (arrive s h).1 x = some m)
    (hw : ∀ l i, l < m.desc.layers → i < ceilDiv (count * 64) (perPage m.desc) → (arrive s h).1.pages.any (fun p =>
      (nodeChain (arrive s h).1 64 ancestor).contains p.obj && p.layer == l && p.index == first * 64 / perPage m.desc + i) = true) :
    Handled (.share h x ancestor first count) s h (control (afterShare (arrive s h).1 x m ancestor first count) h.src x (.distributed 0)) := by
  have hnone : ((List.range m.desc.layers).flatMap (fun l => (List.range (ceilDiv (count * 64) (perPage m.desc))).filterMap (fun i =>
      if (afterShare (arrive s h).1 x m ancestor first count).pages.any (fun p =>
        (nodeChain (arrive s h).1 64 ancestor).contains p.obj && p.layer == l && p.index == first * 64 / perPage m.desc + i) then none
      else some (l, first * 64 / perPage m.desc + i)))) = [] := by
    refine List.flatMap_eq_nil_iff.mpr (fun l hl => List.filterMap_eq_nil_iff.mpr (fun i hi => if_pos ?_))
    refine (sharedPages_any _ _ _ _ _ _ (fun _ _ => rfl)).trans ?_
    exact hw l i (List.mem_range.mp hl) (List.mem_range.mp hi)
  refine handled_of (by rw [exec_share, execShare]) ?_
  simp only [hm]
  exact congrArg (fun t => control t h.src x (.distributed 0)) (congrArg (List.foldl _ _) hnone)

/-- What a DISTRIBUTED leaves of the draft: its sender no longer awaited, a failure noted. -/
def draftAnswered (d : DraftNode) (src code : Nat) : DraftNode :=
  { d with awaiting := d.awaiting.erase src, failed := if code = 0 then d.failed else d.failed ++ [(src, code)] }

theorem handled_distributed (code : Nat) {d : DraftNode} (hd : (arrive s h).1.rgn.drafts.find? (fun d => d.handle == x && d.awaiting.contains h.src) = some d) :
    Handled (.distributed h x code) s h (distributionDone (setDraft (arrive s h).1 x (draftAnswered d h.src code)) x) := by
  refine handled_of (by rw [exec_distributed, execDistributed]) ?_
  simp only [hd]
  rfl

/-- While another answer is awaited nothing else happens. -/
theorem handled_distributed_awaits (code : Nat) {d : DraftNode} (hd : (arrive s h).1.rgn.drafts.find? (fun d => d.handle == x && d.awaiting.contains h.src) = some d)
    (hf : (arrive s h).1.rgn.drafts.find? (fun d => d.handle == x) = some d) (ha : d.awaiting.erase h.src ≠ []) :
    Handled (.distributed h x code) s h (setDraft (arrive s h).1 x (draftAnswered d h.src code)) := by
  have row := handled_distributed (h := h) code hd
  have hd' := setDraft_find (d' := draftAnswered d h.src code) hf rfl
  rwa [distributionDone_awaits hd' ha] at row

/-- The last answer of a distribution without a failure sends the commit to an index that is another device. -/
theorem handled_distributed_commits {d : DraftNode} {mem : Membership} (hd : (arrive s h).1.rgn.drafts.find? (fun d => d.handle == x && d.awaiting.contains h.src) = some d)
    (hf : (arrive s h).1.rgn.drafts.find? (fun d => d.handle == x) = some d) (ha : d.awaiting = [h.src]) (hn : d.failed = []) (hp : d.publisher.isSome = true)
    (hm : membership? (arrive s h).1 d.comp = some mem) (hi : mem.map.index ≠ self (arrive s h).1) :
    let t := setDraft (arrive s h).1 x (draftAnswered d h.src 0)
    Handled (.distributed h x 0) s h (control t mem.map.index x (.indexCommit (commitBody t (draftAnswered d h.src 0) mem.map))) := by
  intro t
  have none_left : (draftAnswered d h.src 0).awaiting = [] := by rw [draftAnswered, ha, List.erase_cons_head]
  have hd' := setDraft_find (d' := draftAnswered d h.src 0) hf rfl
  have commits := distributionDone_commits (m := mem) hd' hm hp none_left hn
  exact commits.trans (if_neg hi) ▸ handled_distributed (h := h) 0 hd

theorem handled_indexCommit (c : NodeCommit) : Handled (.indexCommit h x c) s h (commitAtIndex (arrive s h).1 h.comp x c h.src) :=
  handled_of (by rw [exec_indexCommit, execIndexCommit]) rfl

theorem handled_indexCommitted (code version : Nat) : Handled (.indexCommitted h x code version) s h (indexVerdict (arrive s h).1 x code version) :=
  handled_of (by rw [exec_indexCommitted, execIndexCommitted]) rfl

end

end Sys2Proof.Machine
end

section
/-!
PROOF. PUBLISH of a draft node, and the statement of publishing.
-/

namespace Sys2Proof.Machine

open Sys2Proof

theorem exec_publishDraftNode (id : Nat) (s : State) :
    exec (.publishDraftNode id) s = execPublishDraftNode id s := rfl

/-! ### PUBLISH of a draft node (R131, R132, R385) -/

/-- The draft of a PUBLISH as it is marked. -/
def markedDraft (d : DraftNode) (id version : Nat) : DraftNode := { d with publisher := some id, awaiting := [], failed := [], baseVersion := version }

/-- A PUBLISH of draft `d` that comes up at the draft's home, from its reserver, while no message holds the draft (R131, R132). -/
structure Publishes (s : State) (id : Nat) (r : Running) (d : DraftNode) (m : Model) (mem : Membership) : Prop where
  begun : Begun s id r
  op : r.ent.opcode = opPublish
  cls : hCls r.ent.a = clsNode
  free : mustWait s r = false
  home : hHome r.ent.a = self s
  draft : s.rgn.drafts.find? (fun d => d.handle == r.ent.a) = some d
  reserver : d.reserver = (writerOf s r).device
  unheld : d.holds = 0
  model : boundModel s d.handle = some m
  member : membership? s d.comp = some mem

section
variable {s : State} {id : Nat} {r : Running} {d : DraftNode} {m : Model} {mem : Membership}

/-- The row of such a PUBLISH. -/
theorem execPublishDraftNode_publishes (p : Publishes s id r d m mem) :
    exec (.publishDraftNode id) s = .next (retag s (
      if draftConflict s d (r.ent.b % 2 ^ 48) then finish { s with rgn := { s.rgn with conflicts := satAdd 0xFFFF s.rgn.conflicts 1 } } id Code.pubConflict
      else if !(draftWhole s d m.desc (pathBlocks s d - d.digests.length)) then finish s id Code.tzFormat
      else distributionDone (distributeAll (setDraft (await s id) d.handle (markedDraft d id (r.ent.b % 2 ^ 48))) (markedDraft d id (r.ent.b % 2 ^ 48)) m.desc mem.map) d.handle)) := by
  have his : (r.ent.opcode == opPublish && hCls r.ent.a == clsNode) = true := by rw [p.op, p.cls, beq_self_eq_true, beq_self_eq_true, Bool.and_true]
  rw [exec_publishDraftNode, execPublishDraftNode]
  refine runOp_eq p.begun his ?_
  have hres : (d.reserver ≠ (writerOf s r).device) = False := eq_false (not_not_intro p.reserver)
  have hun : (d.holds ≠ 0) = False := eq_false (not_not_intro p.unheld)
  simp only [p.free, p.home, p.draft, hres, hun, p.model, p.member, ne_eq, not_true_eq_false, Bool.false_eq_true, ↓reduceIte]
  rfl

theorem execPublishDraftNode_conflict (p : Publishes s id r d m mem) (hc : draftConflict s d (r.ent.b % 2 ^ 48) = true) :
    exec (.publishDraftNode id) s = .next (finish { s with rgn := { s.rgn with conflicts := satAdd 0xFFFF s.rgn.conflicts 1 } } id Code.pubConflict) := by
  rw [execPublishDraftNode_publishes p, if_pos hc]
  exact congrArg Host.Outcome.next (retag_same s _ rfl rfl rfl)

theorem execPublishDraftNode_missing (p : Publishes s id r d m mem) (hc : draftConflict s d (r.ent.b % 2 ^ 48) = false)
    (hw : draftWhole s d m.desc (pathBlocks s d - d.digests.length) = false) : exec (.publishDraftNode id) s = .next (finish s id Code.tzFormat) := by
  rw [execPublishDraftNode_publishes p, if_neg (Bool.eq_false_iff.mp hc), hw, Bool.not_false, if_pos rfl, retag_finish]

theorem execPublishDraftNode_distributes (p : Publishes s id r d m mem) (hc : draftConflict s d (r.ent.b % 2 ^ 48) = false)
    (hw : draftWhole s d m.desc (pathBlocks s d - d.digests.length) = true) :
    exec (.publishDraftNode id) s = .next (retag s (distributionDone
      (distributeAll (setDraft (await s id) d.handle (markedDraft d id (r.ent.b % 2 ^ 48))) (markedDraft d id (r.ent.b % 2 ^ 48)) m.desc mem.map) d.handle)) := by
  rw [execPublishDraftNode_publishes p, if_neg (Bool.eq_false_iff.mp hc), hw, Bool.not_true, if_neg Bool.false_ne_true]

/-- Where the owner is the one holder and has no partner, nothing leaves. -/
theorem distributeAll_alone {u : State} {e : DraftNode} (desc : ModelRec) {map : CompMap} (hs : (shardMapOf map (self u) (pathBlocks u e)).1 = [self u])
    (hp : (mapMember map (self u)).map (·.partner) = some noDevice) : distributeAll u e desc map = u := by
  simp [distributeAll, hs, hp]

theorem commitConflict_of_draft {base : Nat} (hc : draftConflict s d base = false) (c : NodeCommit) (h1 : c.parent = d.parent) (h2 : c.baseVersion = base)
    (h3 : c.digests = d.digests) : commitConflict s d.comp c = false := by
  rw [draftConflict, Bool.or_eq_false_iff] at hc
  subst h2
  rw [← hc.2]
  simp only [commitConflict, h1, h3]

theorem enterNode_findNode (u : State) (comp : Nat) (x : Handle) (c : NodeCommit) : (findNode (enterNode u comp x c).1 x).isSome = true :=
  List.find?_isSome.mpr ⟨_, List.mem_append_right _ (List.mem_singleton.mpr rfl), beq_iff_eq.mpr rfl⟩

/-- Where the owner is the index, without a partner, and no answer is awaited, the node is entered and the draft becomes a version at once. -/
theorem publish_alone {u : State} {e : DraftNode} (hd : u.rgn.drafts.find? (fun d => d.handle == e.handle) = some e) (hm : membership? u e.comp = some mem)
    (hp : e.publisher = some id) (ha : e.awaiting = []) (hf : e.failed = []) (hi : mem.map.index = self u)
    (hc : commitConflict u e.comp (commitBody u e mem.map) = false) {me : MapMember} (hme : mapMember mem.map (self u) = some me) (hn : me.partner = noDevice) :
    let y := enterNode u e.comp e.handle (commitBody u e mem.map)
    distributionDone u e.handle = publishDone y.1 e mem.map (e.model.getD nullHandle) y.2 := by
  intro y
  have hme' : (membership? u e.comp).bind (fun m => mapMember m.map (self u)) = some me := by rw [hm]; exact hme
  rw [distributionDone_commits hd hm (by rw [hp]; rfl) ha hf, if_pos hi, commitAtIndex_enters hc hme' hn, if_pos rfl]
  exact indexVerdict_done _ hd hm

/-- PUBLISH at an owner that is the one holder and the index. -/
theorem execPublishDraftNode_alone (p : Publishes s id r d m mem) (hc : draftConflict s d (r.ent.b % 2 ^ 48) = false)
    (hw : draftWhole s d m.desc (pathBlocks s d - d.digests.length) = true) (hs : (shardMapOf mem.map (self s) (pathBlocks s d)).1 = [self s])
    (hp : (mapMember mem.map (self s)).map (·.partner) = some noDevice) (hi : mem.map.index = self s) :
    ∃ t, exec (.publishDraftNode id) s = .next t ∧ (findNode t d.handle).isSome = true ∧ (findHold t d.handle).isSome = true ∧
      t.rgn.drafts.find? (fun d => d.handle == r.ent.a) = none ∧ (findRun t id).map (·.phase) = some (.done 0) := by
  obtain ⟨me, hme, hn⟩ := Option.map_eq_some_iff.mp hp
  have ha : d.handle = r.ent.a := draft_handle p.draft
  let e := markedDraft d id (r.ent.b % 2 ^ 48)
  let u := setDraft (await s id) d.handle e
  have marked : (await s id).rgn.drafts.find? (fun y => y.handle == d.handle) = some d := by rw [ha]; exact p.draft
  have hd : u.rgn.drafts.find? (fun d => d.handle == e.handle) = some e := setDraft_find marked rfl
  have done := publish_alone hd p.member rfl rfl rfl hi (commitConflict_of_draft hc _ rfl rfl rfl) hme hn
  have row := execPublishDraftNode_distributes p hc hw
  rw [distributeAll_alone m.desc (u := u) (e := e) hs hp] at row
  refine ⟨_, row.trans (congrArg (fun k => Host.Outcome.next (retag s k)) done), ?node, ?hold, ?draft, ?run⟩
  case node =>
    rw [findNode, retag_rgn, publishDone_tree]
    exact enterNode_findNode u d.comp d.handle _
  case hold =>
    rw [findHold, retag_rgn]
    exact publishDone_hold _ e _ _ _
  case draft =>
    rw [retag_rgn, ← ha]
    exact publishDone_drafts _ e _ _ _
  case run =>
    obtain ⟨-, hr, -⟩ := p.begun
    rw [findRun_retag, publishDone_ends (d := e) _ _ _ _ rfl, findRun_enterNode, findRun_setDraft, findRun_await hr]
    rfl

end

/-- Settles O25, by the lemma of each outcome of PUBLISH and of each message. -/
theorem publishingRows : Obligations.PublishingRows := by
  unfold Obligations.PublishingRows
  refine ⟨fun s id r d m mem hb ho hl hw hh hd hr hu hm hc => ?publish, fun s h x => ?messages⟩
  case publish =>
    have p : Publishes s id r d m mem := ⟨hb, ho, hl, hw, hh, hd, hr, hu, hm, hc⟩
    refine ⟨fun hc => execPublishDraftNode_conflict p hc, fun hc hw => execPublishDraftNode_missing p hc hw, fun hc hw => ⟨?_, ?_⟩⟩
    · exact execPublishDraftNode_distributes p hc hw
    · exact fun hs hp hi => execPublishDraftNode_alone p hc hw hs hp hi
  case messages =>
    intro u
    refine ⟨?_, fun layer first count bytes m hm => ⟨?_, fun index slot bs p hb hp => ?stored⟩, ?_, ?_, fun ancestor first count m hm hw => ?share, fun d code hd => ?distributed,
      fun c => ⟨?_, fun me hc ho hme => ⟨fun hn => ?enters, fun hn hs hp => ?partner⟩⟩, fun d mem version hd hm => ⟨?done, fun code hc => ?refused⟩⟩
    · exact fun layer first count bytes hm => handled_distribute_unknown layer first count bytes hm
    · exact handled_distribute_rows layer first count bytes hm
    case stored =>
      have row := handled_distribute_rows (h := h) layer first count bytes hm
      obtain ⟨hcode, q, hq, hnum, hkind, hrows⟩ := storeNodePage_here (if u.rgn.drafts.any (fun d => d.handle == x) then .draft else .shard) m.desc layer index slot bs hp
      dsimp only at row
      rw [putBlocks_one hb, if_pos hcode, hcode] at row
      exact ⟨_, row, q, hq, hnum, hkind, hrows⟩
    · exact fun layer first count bytes d s1 m c ha hd hn => handled_distribute_descriptor layer first count bytes ha hd hn
    · exact fun ancestor first count hm => handled_share_unknown ancestor first count hm
    case share => exact ⟨_, handled_share_whole ancestor first count hm hw, rfl⟩
    case distributed =>
      refine ⟨handled_distributed code hd, fun ha hf => handled_distributed_awaits code hd hf ha, fun mem h0 ha hn hp hf hm hi => ?_⟩
      subst h0
      exact handled_distributed_commits hd hf ha hn hp hm hi
    · intro hc ho
      exact commitAtIndex_conflict hc ho ▸ handled_indexCommit c
    case enters =>
      exact (commitAtIndex_enters (x := x) hc hme hn).trans (if_neg ho) ▸ handled_indexCommit c
    case partner =>
      exact commitAtIndex_partner (owner := h.src) hc hme hn hs hp ▸ handled_indexCommit c
    case done =>
      have hx : d.handle = x := draft_handle hd
      refine ⟨indexVerdict_done version hd hm ▸ handled_indexCommitted 0 version, ?_, ?_⟩
      · exact hx ▸ publishDone_drafts u d mem.map _ version
      · exact hx ▸ publishDone_hold u d mem.map _ version
    case refused => exact ⟨_, handled_indexCommitted code version, indexVerdict_refused version hd hm hc⟩

end Sys2Proof.Machine
end

section
/-!
PROOF. Tiles, their power, crossing the halves, the die links and the two completions of descriptors.
-/

namespace Sys2Proof.Machine

open Sys2Proof

theorem exec_tileFree (t : Nat) (s : State) : exec (.tileFree t) s = execTileFree t s := rfl
theorem exec_taskComplete (t : Nat) (s : State) : exec (.taskComplete t) s = execTaskComplete t s := rfl
theorem exec_saveEnd (t : Nat) (s : State) : exec (.saveEnd t) s = execSaveEnd t s := rfl
theorem exec_restoreEnd (t : Nat) (s : State) : exec (.restoreEnd t) s = execRestoreEnd t s := rfl
theorem exec_tileWakeEnd (t : Nat) (s : State) : exec (.tileWakeEnd t) s = execTileWakeEnd t s := rfl
theorem exec_tilePowerGate (t : Nat) (s : State) : exec (.tilePowerGate t) s = execTilePowerGate t s := rfl
theorem exec_tilePreWake (t : Nat) (s : State) : exec (.tilePreWake t) s = execTilePreWake t s := rfl
theorem exec_crossHalfWaitExpiry (task : Nat) (s : State) : exec (.crossHalfWaitExpiry task) s = execCrossHalfWaitExpiry task s := rfl
theorem exec_tilPowerCtrlWrite (who : Req) (v : W64) (s : State) : exec (.tilPowerCtrlWrite who v) s = execTilPowerCtrlWrite who v s := rfl
theorem exec_memXhalfCtrlWrite (who : Req) (v : W64) (s : State) : exec (.memXhalfCtrlWrite who v) s = execMemXhalfCtrlWrite who v s := rfl
theorem exec_dieLinkLaneLoss (half groups : Nat) (s : State) : exec (.dieLinkLaneLoss half groups) s = execDieLinkLaneLoss half groups s := rfl
theorem exec_pageFetchComplete (desc : Nat) (s : State) : exec (.pageFetchComplete desc) s = execPageFetchComplete desc s := rfl
theorem exec_descriptorComplete (desc : Nat) (s : State) : exec (.descriptorComplete desc) s = execDescriptorComplete desc s := rfl

/-! ### What a row that acts while the fast domains run does, by what its work comes to -/

section
variable {s k u : State}

theorem alive_leads (h : s.halted = false) (hk : k = u) : alive s k = .next (retag s u) := hk ▸ alive_running s k h

theorem alive_leads_plain (h : s.halted = false) (hk : k = u) (hp : u.pages = s.pages) (hd : u.dev = s.dev) (hm : u.models = s.models) : alive s k = .next u := by
  rw [alive_leads h hk, retag_same s u hp hd hm]

theorem alive_unchanged (h : s.halted = false) (hk : k = s) : alive s k = .next s := alive_leads_plain h hk rfl rfl rfl
end

section
variable {s : State} {t i : Nat} {k : Task}

/-! ### A task leaves its tile, is saved and is restored (R252, R253, R262, R264) -/

theorem execTileFree_fills (h : s.halted = false) (ht : t < 32) : exec (.tileFree t) s = .next (retag s (fillTile s t)) := by
  rw [exec_tileFree, execTileFree]
  exact alive_leads h (if_pos ht)

theorem execTileFree_beyond (h : s.halted = false) (ht : 32 ≤ t) : exec (.tileFree t) s = .next s := by
  rw [exec_tileFree, execTileFree]
  exact alive_unchanged h (if_neg (Nat.not_lt.mpr ht))

theorem execTaskComplete_done (h : s.halted = false) (ht : (getT s t).task = some i) (hk : findTask s i = some k) (hs : (getT s t).st = .running) (hd : taskDone s k = true) :
    exec (.taskComplete t) s = .next (retag s (freeTile (endTask s k) t)) := by
  rw [exec_taskComplete, execTaskComplete, ht, Option.bind_some, hk]
  exact alive_leads h (if_pos ⟨hs, hd⟩)

theorem execTaskComplete_left (h : s.halted = false) (ht : (getT s t).task = some i) (hk : findTask s i = some k) (hd : taskDone s k = false) :
    exec (.taskComplete t) s = .next s := by
  rw [exec_taskComplete, execTaskComplete, ht, Option.bind_some, hk]
  exact alive_unchanged h (if_neg (fun hc => Bool.eq_false_iff.mp hd hc.2))

theorem execSaveEnd_saving (h : s.halted = false) (ht : (getT s t).task = some i) (hs : (getT s t).st = .saving) :
    exec (.saveEnd t) s = .next (retag s (freeTile (modTask (setT s t { getT s t with task := none, saved := (getT s t).saved ++ [i] }) i (fun k => { k with tile := none })) t)) := by
  rw [exec_saveEnd, execSaveEnd]
  refine alive_leads h ?_
  simp only [hs, ht]

theorem execSaveEnd_other (h : s.halted = false) (hs : (getT s t).st ≠ .saving) : exec (.saveEnd t) s = .next s := by
  rw [exec_saveEnd, execSaveEnd]
  refine alive_unchanged h ?_
  dsimp only
  split
  · exact absurd (by assumption) hs
  · rfl

/-- A tile after RESTORE_END: its task `i` runs, counted, and is no longer saved. -/
def restored (T : Tile) (i : Nat) : Tile := { T with st := .running, saved := T.saved.filter (fun x => x != i), restores := wrapAdd 32 T.restores 1 }

theorem execRestoreEnd_restoring (h : s.halted = false) (ht : (getT s t).task = some i) (hs : (getT s t).st = .restoring) :
    exec (.restoreEnd t) s = .next (retag s (if rowDisplaces (setT s t (restored (getT s t) i)) t false
      then displace (setT s t (restored (getT s t) i)) t else setT s t (restored (getT s t) i))) := by
  rw [exec_restoreEnd, execRestoreEnd]
  refine alive_leads h ?_
  simp only [restored, hs, ht]

theorem execRestoreEnd_other (h : s.halted = false) (hs : (getT s t).st ≠ .restoring) : exec (.restoreEnd t) s = .next s := by
  rw [exec_restoreEnd, execRestoreEnd]
  refine alive_unchanged h ?_
  dsimp only
  split
  · exact absurd (by assumption) hs
  · rfl

/-! ### Waking and power (R265, R266, R268) -/

theorem execTileWakeEnd_task (h : s.halted = false) (ht : (getT s t).task = some i) (hs : (getT s t).st = .waking) :
    exec (.tileWakeEnd t) s = .next (setT s t { getT s t with st := if (getT s t).saved.contains i then .restoring else .running }) := by
  rw [exec_tileWakeEnd, execTileWakeEnd]
  refine alive_leads_plain h ?_ rfl rfl rfl
  simp only [hs, ht, ↓reduceIte]

theorem execTileWakeEnd_idle (h : s.halted = false) (ht : (getT s t).task = none) (hs : (getT s t).st = .waking) :
    exec (.tileWakeEnd t) s = .next (retag s (fillTile (setT s t { getT s t with st := .clockGated, since := s.now }) t)) := by
  rw [exec_tileWakeEnd, execTileWakeEnd]
  refine alive_leads h ?_
  simp only [hs, ht, ↓reduceIte]

theorem execTileWakeEnd_other (h : s.halted = false) (hs : (getT s t).st ≠ .waking) : exec (.tileWakeEnd t) s = .next s := by
  rw [exec_tileWakeEnd, execTileWakeEnd]
  exact alive_unchanged h (if_neg hs)

theorem execTilePowerGate_gates (h : s.halted = false) (hs : (getT s t).st = .clockGated) (ht : (getT s t).task = none) (he : bitOf (powerCtrl s) 16 = true)
    (hd : (getT s t).since + fieldOf (powerCtrl s) 15 0 ≤ s.now) (hg : grantNow s t ≠ some 0) (hw : heldWithin s t (fieldOf (powerCtrl s) 15 0 + 2) = false) :
    exec (.tilePowerGate t) s = .next (retag s (setT (dropAhead s (getT s t).ahead) t { getT (dropAhead s (getT s t).ahead) t with st := .powerGated, scratch := [] })) := by
  rw [exec_tilePowerGate, execTilePowerGate]
  exact alive_leads h (if_pos ⟨hs, Option.isNone_iff_eq_none.mpr ht, he, hd, hg, hw⟩)

theorem execTilePowerGate_keeps (h : s.halted = false) (hn : (getT s t).st ≠ .clockGated ∨ bitOf (powerCtrl s) 16 = false ∨ grantNow s t = some 0) :
    exec (.tilePowerGate t) s = .next s := by
  rw [exec_tilePowerGate, execTilePowerGate]
  refine alive_unchanged h (if_neg ?_)
  rintro ⟨hs, -, he, -, hg, -⟩
  rcases hn with hn | hn | hn
  · exact hn hs
  · exact Bool.eq_false_iff.mp hn he
  · exact hg hn

theorem execTilePreWake_wakes (h : s.halted = false) (hs : (getT s t).st = .powerGated) (ho : (getT s t).heldOff = false) (hw : heldWithin s t 2 = true) :
    exec (.tilePreWake t) s = .next (setT s t { getT s t with st := .waking }) := by
  rw [exec_tilePreWake, execTilePreWake]
  exact alive_leads_plain h (if_pos ⟨hs, ho, hw⟩) rfl rfl rfl

theorem execTilePreWake_keeps (h : s.halted = false) (hn : (getT s t).st ≠ .powerGated ∨ heldWithin s t 2 = false) : exec (.tilePreWake t) s = .next s := by
  rw [exec_tilePreWake, execTilePreWake]
  refine alive_unchanged h (if_neg ?_)
  rintro ⟨hs, -, hw⟩
  rcases hn with hn | hn
  · exact hn hs
  · exact Bool.eq_false_iff.mp hn hw

/-! ### Crossing the halves (R258) -/

theorem execCrossHalfWaitExpiry_crosses (h : s.halted = false) (hk : findTask s i = some k) (hr : readyTask s k = true) (he : bitOf (placeCtrl s) 32 = true)
    (hd : k.since + fieldOf (placeCtrl s) 23 16 ≤ s.now) :
    exec (.crossHalfWaitExpiry i) s = .next (retag s (placeReady (modTask s i (fun k => { k with cross := true })))) := by
  rw [exec_crossHalfWaitExpiry, execCrossHalfWaitExpiry, hk]
  exact alive_leads h (if_pos ⟨hr, he, hd⟩)
end

/-! ### TIL_POWER_CTRL (R267) -/

/-- A tile as it is once power gating is off: a power-gated one wakes. -/
def woken (T : Tile) : Tile := if T.st = .powerGated then { T with st := .waking } else T

/-- The table of tiles with one of them woken, where it is power-gated. -/
def wakeTile (m : Tbl Tile) (t : Nat) : Tbl Tile :=
  if (m.get Tile.init t).st = .powerGated then m.set t { m.get Tile.init t with st := .waking } else m

theorem wakeTile_get (m : Tbl Tile) (t j : Nat) : (wakeTile m t).get Tile.init j = if t = j then woken (m.get Tile.init j) else m.get Tile.init j := by
  unfold wakeTile woken
  by_cases htj : t = j
  · subst htj
    rw [if_pos rfl]
    split
    · rw [Tbl.get_set_self]
    · rfl
  · rw [if_neg htj]
    split
    · rw [Tbl.get_set_ne _ _ _ _ _ htj]
    · rfl

/-- Waking the first `n` tiles one after another wakes each of them and no other. -/
theorem wakeTiles_get (m : Tbl Tile) (n j : Nat) : ((List.range n).foldl wakeTile m).get Tile.init j = if j < n then woken (m.get Tile.init j) else m.get Tile.init j := by
  induction n with
  | zero => rfl
  | succ n ih =>
    rw [List.range_succ, List.foldl_append, List.foldl_cons, List.foldl_nil, wakeTile_get, ih]
    by_cases hnj : n = j
    · rw [if_pos hnj, if_neg (by omega), if_pos (by omega)]
    · rw [if_neg hnj]
      exact if_congr (by omega) rfl rfl

section
variable {s : State} {who : Req} {v : W64}

/-- The GATE_DELAY that a write of TIL_POWER_CTRL leaves: 0 keeps the old one. -/
def newGateDelay (s : State) (v : W64) : Nat := if fieldOf v 15 0 = 0 then fieldOf (powerCtrl s) 15 0 else fieldOf v 15 0

/-- The register written: PG_EN and the delay. -/
def powerCtrlWritten (s : State) (v : W64) : State := setReg s 0x120008 (BitVec.ofNat 64 (bit (bitOf v 16) * 2 ^ 16 + newGateDelay s v))

theorem powerCtrlWritten_on (hv : bitOf v 16 = true) : powerCtrlWritten s v = setReg s 0x120008 (BitVec.ofNat 64 (2 ^ 16 + newGateDelay s v)) := by
  rw [powerCtrlWritten, hv]
  rfl

theorem execTilPowerCtrlWrite_on (h : s.halted = false) (hw : isPhysical who = true) (hv : bitOf v 16 = true) :
    exec (.tilPowerCtrlWrite who v) s = .next (setReg s 0x120008 (BitVec.ofNat 64 (2 ^ 16 + newGateDelay s v))) := by
  rw [exec_tilPowerCtrlWrite, execTilPowerCtrlWrite, hw, if_neg Bool.noConfusion, ← powerCtrlWritten_on hv]
  exact alive_leads_plain h (if_pos hv) rfl rfl rfl

/-- The state that a write with PG_EN 0 leaves. -/
def gatingOff (s : State) (v : W64) : State :=
  { powerCtrlWritten s v with til := { (powerCtrlWritten s v).til with tiles := (List.range 32).foldl wakeTile (powerCtrlWritten s v).til.tiles } }

theorem execTilPowerCtrlWrite_off (h : s.halted = false) (hw : isPhysical who = true) (hv : bitOf v 16 = false) : exec (.tilPowerCtrlWrite who v) s = .next (gatingOff s v) := by
  rw [exec_tilPowerCtrlWrite, execTilPowerCtrlWrite, hw, if_neg Bool.noConfusion]
  exact alive_leads_plain h (if_neg (Bool.eq_false_iff.mp hv)) rfl rfl rfl

theorem gatingOff_tiles (s : State) (v : W64) : (gatingOff s v).til.tiles = (List.range 32).foldl wakeTile s.til.tiles := by
  rw [gatingOff, powerCtrlWritten, setReg_til]

theorem gatingOff_tile (s : State) (v : W64) {j : Nat} (hj : j < 32) : getT (gatingOff s v) j = woken (getT s j) := by
  rw [getT, gatingOff_tiles, wakeTiles_get, if_pos hj, getT]

/-! ### MEM_XHALF_CTRL (R49, R50) -/

/-- The pairs of limits that R50 allows. -/
def LegalXhalf (hub cap : Nat) : Prop := 2 ≤ hub ∧ hub ≤ 7 ∧ 2 ≤ cap ∧ cap ≤ 10 ∧ hub + cap ≤ 15

theorem execMemXhalfCtrlWrite_legal (h : s.halted = false) (hw : isPhysical who = true) (hl : LegalXhalf (fieldOf v 11 8) (fieldOf v 3 0)) :
    exec (.memXhalfCtrlWrite who v) s = .next (setReg s 0x200F00 (BitVec.ofNat 64 (fieldOf v 11 8 * 256 + fieldOf v 3 0))) := by
  rw [exec_memXhalfCtrlWrite, execMemXhalfCtrlWrite]
  exact alive_leads_plain h (if_pos ⟨hw, hl⟩) rfl rfl rfl

theorem execMemXhalfCtrlWrite_kept (h : s.halted = false) (hn : isPhysical who = false ∨ ¬ LegalXhalf (fieldOf v 11 8) (fieldOf v 3 0)) :
    exec (.memXhalfCtrlWrite who v) s = .next s := by
  rw [exec_memXhalfCtrlWrite, execMemXhalfCtrlWrite]
  refine alive_unchanged h (if_neg ?_)
  rintro ⟨hw, hl⟩
  rcases hn with hn | hn
  · exact Bool.eq_false_iff.mp hn hw
  · exact hn hl
end

/-! ### Die links (R52) -/

section
variable {s : State} {half g : Nat}

/-- The lane groups that a half's die link has lost once `g` more are. -/
def lanesAfter (s : State) (half g : Nat) : Nat := s.til.lanesLost.get 0 half + g

/-- The state that records them. -/
def recordLanes (s : State) (half g : Nat) : State := { s with til := { s.til with lanesLost := s.til.lanesLost.set half (lanesAfter s half g) } }

theorem linkInService (hh : half < 2) (ho : s.til.halfOut.contains half = false) : ¬ (2 ≤ half ∨ s.til.halfOut.contains half = true) := by
  rintro (hc | hc)
  · exact Nat.not_le.mpr hh hc
  · exact Bool.eq_false_iff.mp ho hc

theorem execDieLinkLaneLoss_spared (h : s.halted = false) (hh : half < 2) (ho : s.til.halfOut.contains half = false) (hn : lanesAfter s half g ≤ 2) :
    exec (.dieLinkLaneLoss half g) s = .next (recordLanes s half g) := by
  rw [exec_dieLinkLaneLoss, execDieLinkLaneLoss]
  refine alive_leads_plain h ?_ rfl rfl rfl
  rw [if_neg (linkInService hh ho)]
  exact if_pos hn

theorem execDieLinkLaneLoss_fails (h : s.halted = false) (hh : half < 2) (ho : s.til.halfOut.contains half = false) (hn : 2 < lanesAfter s half g) :
    exec (.dieLinkLaneLoss half g) s = .next (retag s (raiseErr (halfOutOfService (recordLanes s half g) half) 0x03 half sevDegraded Code.memUncorrectable 0x04 0)) := by
  rw [exec_dieLinkLaneLoss, execDieLinkLaneLoss]
  refine alive_leads h ?_
  rw [if_neg (linkInService hh ho)]
  exact if_neg (Nat.not_le.mpr hn)
end

/-! ### The end of a MOVE and of a READ (R38, R282) -/

section
variable {s : State} {d : Desc}

/-- A page that a MOVE has brought into the stacks: its copy there is clean and the newest. -/
def fetched (p : Page) (f : Option Frame) : Page := { p with stack := f, stackDirty := false, newest := tStacks }

theorem execPageFetchComplete_fetched {p : Page} (h : s.halted = false) (hd : s.til.descs.find? (fun x => x.id == d.id) = some d) (hkind : d.kind = 3)
    (hp : findPage s d.page = some p) (hl : p.lost = false) (ht : p.tiers ≠ []) (hs : p.stack = none) :
    exec (.pageFetchComplete d.id) s = .next (retag s (walksOn (tellMoved (walkFirst (setPage (dropDesc s d.id) (fetched p d.frame)) d.instr (d.page, d.task)) p))) := by
  have goes : ¬ (d.kind ≠ 3 ∨ (findPage s d.page).any (fun p => !p.lost && p.tiers.isEmpty) = true) := by
    simp [hkind, hp, ht]
  have hp' : findPage (dropDesc s d.id) d.page = some p := hp
  rw [exec_pageFetchComplete, execPageFetchComplete]
  refine alive_leads h ?_
  simp only [hd, if_neg goes, hp', hl, hs, fetched, Option.isSome_none, Bool.false_eq_true, ↓reduceIte]

theorem execDescriptorComplete_read {k : Task} {t : Nat} (h : s.halted = false) (hd : s.til.descs.find? (fun x => x.id == d.id) = some d) (hkind : d.kind = 1)
    (hk : findTask s d.task = some k) (ht : k.tile = some t) (hs : (getT s t).st = .running)
    (hf : (s.til.descs.filter (fun x => x.kind == 1 && x.task == d.task && x.instr == d.instr)).all (fun x => decide (d.id ≤ x.id)) = true) :
    exec (.descriptorComplete d.id) s = .next (retag s (walksOn (dropDesc
      (countCross (modTask (freeLive s k.ceiling).2 d.task (fun x => { x with live := (freeLive s k.ceiling).1 })) d.page d.instr t) d.id))) := by
  rw [exec_descriptorComplete, execDescriptorComplete]
  refine alive_leads h ?_
  simp only [hd, hk, Option.bind_some, ht, Option.map_some, Option.getD_some]
  exact if_pos ⟨hkind, hf, hs⟩
end

/-- Settles O42, by the lemma of each outcome of each row. -/
theorem tileRows : Obligations.TileRows := by
  unfold Obligations.TileRows
  intro s t h T
  refine ⟨execTileFree_fills h, execTileFree_beyond h, fun i k ht hk hs => ⟨execTaskComplete_done h ht hk hs, execTaskComplete_left h ht hk⟩,
    fun i ht hs => execSaveEnd_saving h ht hs, fun i ht hs => execRestoreEnd_restoring h ht hs, fun i ht hs => execTileWakeEnd_task h ht hs, execTileWakeEnd_idle h,
    fun hw hs hr => ⟨execTileWakeEnd_other h hw, execSaveEnd_other h hs, execRestoreEnd_other h hr⟩, execTilePowerGate_gates h, execTilePowerGate_keeps h,
    execTilePreWake_wakes h, execTilePreWake_keeps h, fun i k hk hr he hd => execCrossHalfWaitExpiry_crosses h hk hr he hd,
    fun who v hw hv => execTilPowerCtrlWrite_on h hw hv, fun who v hw hv => ⟨gatingOff s v, execTilPowerCtrlWrite_off h hw hv, rfl, rfl, fun j hj => gatingOff_tile s v hj⟩,
    fun who v hw h1 h2 h3 h4 h5 => execMemXhalfCtrlWrite_legal h hw ⟨h1, h2, h3, h4, h5⟩, fun who v hn => execMemXhalfCtrlWrite_kept h (hn.imp_right ?illegal),
    fun half g hh ho => ⟨execDieLinkLaneLoss_spared h hh ho, execDieLinkLaneLoss_fails h hh ho⟩, fun d p hd hk hp hl ht hs => execPageFetchComplete_fetched h hd hk hp hl ht hs,
    fun d k hd hkind hk ht hs hf => execDescriptorComplete_read h hd hkind hk ht hs hf⟩
  case illegal =>
    unfold LegalXhalf
    omega

end Sys2Proof.Machine
end

section
/-!
PROOF. A queue's registers after the operations on queues: what halting and recording a failure do to the queue they name, and to no other (R73, R76, R77, R93).
-/

namespace Sys2Proof

/-- Of two values set for one key the later stands. -/
theorem Tbl.set_set {α : Type} (t : Tbl α) (i : Nat) (a b : α) : Tbl.set (Tbl.set t i a) i b = Tbl.set t i b := by
  induction t with
  | nil => simp [Tbl.set]
  | cons e t ih =>
    obtain ⟨k, v⟩ := e
    rcases Nat.lt_trichotomy i k with h | h | h
    · simp [Tbl.set, h]
    · simp [Tbl.set, h]
    · have hne : i ≠ k := by omega
      have hlt : ¬ i < k := by omega
      simp [Tbl.set, hne, hlt, ih]

end Sys2Proof

namespace Sys2Proof.Machine

open Sys2Proof

/-! ### What a queue reads after a change -/

theorem getQ_of_queues {s t : State} (h : t.tz.queues = s.tz.queues) (q : Nat) : getQ t q = getQ s q := by
  rw [getQ, h, ← getQ]

@[simp] theorem getQ_setQ_same (s : State) (q : Nat) (v : Queue) : getQ (setQ s q v) q = v := Tbl.get_set_self _ _ _ _

theorem getQ_setQ_other (s : State) {q j : Nat} (v : Queue) (h : j ≠ q) : getQ (setQ s q v) j = getQ s j := Tbl.get_set_ne _ _ _ _ _ h.symm

@[simp] theorem setQ_setQ (s : State) (q : Nat) (v w : Queue) : setQ (setQ s q v) q w = setQ s q w := by
  unfold setQ
  simp only [Tbl.set_set]

@[simp] theorem getQ_modQ_same (s : State) (q : Nat) (f : Queue → Queue) : getQ (modQ s q f) q = f (getQ s q) := getQ_setQ_same _ _ _

@[simp] theorem getQ_endWaits (s : State) (q j : Nat) : getQ (endWaits s q) j = getQ s j := rfl

/-- A queue's vector changes what is pending and what was sent, and nothing else (R76). -/
theorem queueVec_eq (s : State) (q : Nat) : queueVec s q = { s with vecPending := (queueVec s q).vecPending, vecSent := (queueVec s q).vecSent } := by
  unfold queueVec
  dsimp only
  split
  · exact raiseVec_eq _ _ _
  · rfl

@[simp] theorem queueVec_tz (s : State) (q : Nat) : (queueVec s q).tz = s.tz := by rw [queueVec_eq]
@[simp] theorem queueVec_pages (s : State) (q : Nat) : (queueVec s q).pages = s.pages := by rw [queueVec_eq]
@[simp] theorem queueVec_dev (s : State) (q : Nat) : (queueVec s q).dev = s.dev := by rw [queueVec_eq]
@[simp] theorem queueVec_host (s : State) (q : Nat) : (queueVec s q).host = s.host := by rw [queueVec_eq]
@[simp] theorem getQ_queueVec (s : State) (q j : Nat) : getQ (queueVec s q) j = getQ s j := getQ_of_queues (by rw [queueVec_tz]) j

/-- No WAITCNT is pending on a queue whose waits were ended (R77). -/
theorem endWaits_not_pending (s : State) (q : Nat) : ∀ r ∈ (endWaits s q).tz.started, r.queue = q → pendingWait r = false := by
  intro r hr hq
  obtain ⟨x, -, rfl⟩ := List.mem_map.mp hr
  dsimp only at hq ⊢
  split
  · exact Bool.and_eq_false_imp.mpr (fun _ => rfl)
  · rename_i hx
    rw [if_neg hx] at hq
    simpa [hq] using hx

/-! ### Halting (R73, R77, R170) -/

/-- A queue that runs: ACTIVE or WAITING (R77). -/
def QueueRuns (s : State) (q : Nat) : Prop := (getQ s q).state = .active ∨ (getQ s q).state = .waiting

section
variable {s : State} {q : Nat} (reason : Nat)

theorem haltQueue_running (h : QueueRuns s q) :
    haltQueue s q reason = queueVec (endWaits (setQ s q { getQ s q with state := .halted, lastReason := reason }) q) q := if_pos h

theorem haltQueue_resting (h : ¬ QueueRuns s q) : haltQueue s q reason = s := if_neg h

theorem getQ_haltQueue (h : QueueRuns s q) : getQ (haltQueue s q reason) q = { getQ s q with state := .halted, lastReason := reason } := by
  rw [haltQueue_running reason h, getQ_queueVec, getQ_endWaits, getQ_setQ_same]

theorem haltQueue_not_pending (h : QueueRuns s q) : ∀ r ∈ (haltQueue s q reason).tz.started, r.queue = q → pendingWait r = false := by
  rw [haltQueue_running reason h, queueVec_tz]
  exact endWaits_not_pending _ q
end

theorem getQ_haltQueue_other (s : State) {q j : Nat} (reason : Nat) (hj : j ≠ q) : getQ (haltQueue s q reason) j = getQ s j := by
  by_cases h : QueueRuns s q
  · rw [haltQueue_running reason h, getQ_queueVec, getQ_endWaits, getQ_setQ_other s _ hj]
  · rw [haltQueue_resting reason h]

theorem haltQueue_host (s : State) (q reason : Nat) : (haltQueue s q reason).host = s.host := by
  by_cases h : QueueRuns s q
  · rw [haltQueue_running reason h, queueVec_host]
    rfl
  · rw [haltQueue_resting reason h]

/-! ### A failure (R76, R93) -/

/-- A queue's registers with a failure recorded (R76). -/
def Queue.failed (Q : Queue) (index code : Nat) : Queue :=
  { Q with failCount := satAdd 0xFFFFFFFF Q.failCount 1, lastReason := code, failIndex := index }

section
variable {s : State} {q : Nat} (index code : Nat)

/-- FAIL_STOP halts a queue that runs (R73). -/
theorem failRecord_stops (hf : (getQ s q).failStop = true) (h : QueueRuns s q) :
    failRecord s q index code = haltQueue (setQ s q ((getQ s q).failed index code)) q code := if_pos ⟨hf, h⟩

theorem failRecord_goes_on (h : ¬ ((getQ s q).failStop = true ∧ QueueRuns s q)) :
    failRecord s q index code = queueVec (setQ s q ((getQ s q).failed index code)) q := if_neg h
end

/-- The state that recording a failure leaves a queue in (R73): FAIL_STOP halts one that runs. -/
def stateAfterFail (Q : Queue) : QState := if Q.failStop = true ∧ (Q.state = .active ∨ Q.state = .waiting) then .halted else Q.state

theorem getQ_failRecord (s : State) (q index code : Nat) :
    getQ (failRecord s q index code) q = { (getQ s q).failed index code with state := stateAfterFail (getQ s q) } := by
  by_cases h : (getQ s q).failStop = true ∧ QueueRuns s q
  · have hs : stateAfterFail (getQ s q) = .halted := if_pos h
    have hr : QueueRuns (setQ s q ((getQ s q).failed index code)) q := by
      unfold QueueRuns
      rw [getQ_setQ_same]
      exact h.2
    rw [failRecord_stops index code h.1 h.2, getQ_haltQueue code hr, getQ_setQ_same, hs]
    rfl
  · have hs : stateAfterFail (getQ s q) = (getQ s q).state := if_neg h
    rw [failRecord_goes_on index code h, getQ_queueVec, getQ_setQ_same, hs]
    rfl

theorem getQ_failRecord_other (s : State) {q j : Nat} (index code : Nat) (hj : j ≠ q) : getQ (failRecord s q index code) j = getQ s j := by
  by_cases h : (getQ s q).failStop = true ∧ QueueRuns s q
  · rw [failRecord_stops index code h.1 h.2, getQ_haltQueue_other _ code hj, getQ_setQ_other s _ hj]
  · rw [failRecord_goes_on index code h, getQ_queueVec, getQ_setQ_other s _ hj]

/-- Recording a failure touches no page and no memory. -/
theorem failRecord_plain (s : State) (q index code : Nat) :
    (failRecord s q index code).pages = s.pages ∧ (failRecord s q index code).dev = s.dev ∧ (failRecord s q index code).host = s.host := by
  by_cases h : (getQ s q).failStop = true ∧ QueueRuns s q
  · rw [failRecord_stops index code h.1 h.2]
    obtain ⟨hp, hd, -⟩ := haltQueue_plain (setQ s q ((getQ s q).failed index code)) q code
    exact ⟨hp, hd, haltQueue_host _ q code⟩
  · rw [failRecord_goes_on index code h]
    exact ⟨queueVec_pages _ q, queueVec_dev _ q, queueVec_host _ q⟩

/-- Settles O3: the registers of the queue named are those of `getQ_haltQueue` and `getQ_failRecord`, and what ends the waits leaves none of them pending. -/
theorem haltQueueOperation : Obligations.HaltQueueOperation := by
  unfold Obligations.HaltQueueOperation
  refine ⟨fun s q reason => ?halt, fun s q index code => ?fail⟩
  case halt =>
    obtain ⟨hp, hd, -⟩ := haltQueue_plain s q reason
    exact ⟨fun h => ⟨getQ_haltQueue reason h, haltQueue_not_pending reason h⟩, haltQueue_resting reason, fun _ hj => getQ_haltQueue_other s reason hj, hp, hd, haltQueue_host s q reason⟩
  case fail =>
    rw [getQ_failRecord]
    exact ⟨rfl, rfl, rfl, rfl, fun _ hj => getQ_failRecord_other s index code hj, failRecord_plain s q index code⟩

end Sys2Proof.Machine
end

section
/-!
PROOF. A counter after an update of it: what its count and failure become, and what no update touches (R80, R81, R84, R538).
-/

namespace Sys2Proof.Machine

open Sys2Proof

/-! ### What a counter reads after a change -/

@[simp] theorem getC_setC_same (s : State) (i : Nat) (c : Counter) : getC (setC s i c) i = c := Tbl.get_set_self _ _ _ _

theorem getC_setC_other (s : State) {i j : Nat} (c : Counter) (h : j ≠ i) : getC (setC s i c) j = getC s j := Tbl.get_set_ne _ _ _ _ _ h.symm

theorem getC_of_tz {s t : State} (h : t.tz = s.tz) (i : Nat) : getC t i = getC s i := by rw [getC, h, ← getC]

/-! ### The steps of an update that becomes visible (R81, R538) -/

/-- A change that reaches neither the queues' registers nor a page nor region memory, of the counters at most one, and of that one neither COUNT nor FAIL. -/
structure EchoFrame (s t : State) (i : Nat) : Prop where
  count : (getC t i).count = (getC s i).count
  fail : (getC t i).fail = (getC s i).fail
  others : ∀ j, j ≠ i → getC t j = getC s j
  queues : t.tz.queues = s.tz.queues
  pages : t.pages = s.pages
  dev : t.dev = s.dev

theorem EchoFrame.of_tz {s t : State} (i : Nat) (ht : t.tz = s.tz) (hp : t.pages = s.pages) (hd : t.dev = s.dev) : EchoFrame s t i :=
  ⟨by rw [getC_of_tz ht], by rw [getC_of_tz ht], fun j _ => getC_of_tz ht j, by rw [ht], hp, hd⟩

theorem EchoFrame.trans {s t u : State} {i : Nat} (h : EchoFrame s t i) (k : EchoFrame t u i) : EchoFrame s u i :=
  ⟨k.count.trans h.count, k.fail.trans h.fail, fun j hj => (k.others j hj).trans (h.others j hj), k.queues.trans h.queues, k.pages.trans h.pages, k.dev.trans h.dev⟩

/-- The vector of a counter, noted as sent or due, leaves its COUNT and FAIL as they are. -/
theorem EchoFrame.of_setC {s : State} {i : Nat} {c : Counter} (hc : c.count = (getC s i).count) (hf : c.fail = (getC s i).fail) : EchoFrame s (setC s i c) i :=
  ⟨by rw [getC_setC_same, hc], by rw [getC_setC_same, hf], fun j hj => getC_setC_other s c hj, rfl, rfl, rfl⟩

/-- The echo of a counter is stored in its owner's memory, unless its port is orphaned (R81, R517). -/
def storeEcho (s : State) (c : Counter) : State :=
  match c.owner, c.echo with
  | some f, some a => if s.orphans.contains (f / 64) then s else hostWrite s f a (leBytes 8 c.word)
  | _, _ => s

/-- The vector of a counter is sent, or waits for its coalescing interval (R538). -/
def sendCounterVec (s : State) (i : Nat) (c : Counter) : State :=
  match c.owner with
  | some f =>
    if c.vecOn then
      if c.coalesce = 0 ∨ c.vecAt + c.coalesce ≤ s.now then setC (raiseVec s f c.vector) i { c with vecAt := s.now, vecDue := false }
      else setC s i { c with vecDue := true }
    else s
  | none => s

theorem counterUpdated_eq (s : State) (i : Nat) : counterUpdated s i = observe (sendCounterVec (storeEcho s (getC s i)) i (getC s i)) i := rfl

/-- A write of host memory changes nothing else. -/
theorem hostWrite_eq (s : State) (fid a : Nat) (bs : List Byte) : hostWrite s fid a bs = { s with host := (hostWrite s fid a bs).host } := by
  unfold hostWrite
  split <;> rfl

/-- A byte of host memory outside those written reads as before. -/
theorem hostWrite_outside (s : State) (fid a : Nat) (bs : List Byte) {x : Nat} (h : x < hostKey fid a ∨ hostKey fid a + bs.length ≤ x) :
    Mem.byte (hostWrite s fid a bs).host x = Mem.byte s.host x := by
  unfold hostWrite
  split
  · rfl
  · exact Mem.byte_write_outside _ _ _ _ h

theorem storeEcho_eq (s : State) (c : Counter) : storeEcho s c = { s with host := (storeEcho s c).host } := by
  unfold storeEcho
  split
  · split
    · rfl
    · exact hostWrite_eq _ _ _ _
  · rfl

theorem storeEcho_tz (s : State) (c : Counter) : (storeEcho s c).tz = s.tz := by rw [storeEcho_eq]

theorem storeEcho_frame (s : State) (c : Counter) (i : Nat) : EchoFrame s (storeEcho s c) i :=
  .of_tz i (storeEcho_tz s c) (by rw [storeEcho_eq]) (by rw [storeEcho_eq])

/-- A vector that is not enabled, one that waits for its interval, and one that is sent. -/
theorem sendCounterVec_cases (s : State) (i : Nat) (c : Counter) :
    sendCounterVec s i c = s ∨ sendCounterVec s i c = setC s i { c with vecDue := true } ∨
      ∃ f, sendCounterVec s i c = setC (raiseVec s f c.vector) i { c with vecAt := s.now, vecDue := false } := by
  unfold sendCounterVec
  split
  · split
    · split
      · exact .inr (.inr ⟨_, rfl⟩)
      · exact .inr (.inl rfl)
    · exact .inl rfl
  · exact .inl rfl

theorem raiseVec_tz (s : State) (fid vec : Nat) : (raiseVec s fid vec).tz = s.tz := by rw [raiseVec_eq]

theorem raiseVec_frame (s : State) (f v i : Nat) : EchoFrame s (raiseVec s f v) i :=
  .of_tz i (raiseVec_tz s f v) (raiseVec_pages s f v) (raiseVec_dev s f v)

theorem sendCounterVec_frame {s : State} {i : Nat} {c : Counter} (hc : c = getC s i) : EchoFrame s (sendCounterVec s i c) i := by
  have hn : c.count = (getC s i).count := congrArg Counter.count hc
  have hf : c.fail = (getC s i).fail := congrArg Counter.fail hc
  rcases sendCounterVec_cases s i c with h | h | ⟨f, h⟩ <;> rw [h]
  · exact .of_tz i rfl rfl rfl
  · exact .of_setC hn hf
  · have hr := raiseVec_frame s f c.vector i
    exact hr.trans (.of_setC (hn.trans hr.count.symm) (hf.trans hr.fail.symm))

theorem observe_frame (s : State) (i j : Nat) : EchoFrame s (observe s i) j := ⟨rfl, rfl, fun _ _ => rfl, rfl, rfl, rfl⟩

/-- An update that becomes visible is the counter's alone. -/
theorem counterUpdated_frame (s : State) (i : Nat) : EchoFrame s (counterUpdated s i) i := by
  rw [counterUpdated_eq]
  exact (storeEcho_frame s (getC s i) i).trans ((sendCounterVec_frame (getC_of_tz (storeEcho_tz s _) i).symm).trans (observe_frame _ i i))

/-! ### The echo in host memory -/

/-- A host byte lies outside the 8 bytes of a counter's echo, or the counter has none. -/
def OutsideEcho (c : Counter) (a : Nat) : Prop :=
  c.echo = none ∨ ∀ f e, c.owner = some f → c.echo = some e → a < hostKey f e ∨ hostKey f e + 8 ≤ a

theorem storeEcho_outside (s : State) {c : Counter} {a : Nat} (h : OutsideEcho c a) : Mem.byte (storeEcho s c).host a = Mem.byte s.host a := by
  unfold storeEcho
  split
  · rename_i f e hf he
    split
    · rfl
    · refine hostWrite_outside s f e _ ?_
      rcases h with hn | h
      · exact absurd (he.symm.trans hn) (Option.some_ne_none e)
      · exact h f e hf he
  · rfl

theorem sendCounterVec_host (s : State) (i : Nat) (c : Counter) : (sendCounterVec s i c).host = s.host := by
  rcases sendCounterVec_cases s i c with h | h | ⟨f, h⟩ <;> rw [h]
  · rw [setC_host]
  · rw [setC_host, raiseVec_host]

theorem counterUpdated_outside (s : State) (i : Nat) {a : Nat} (h : OutsideEcho (getC s i) a) : Mem.byte (counterUpdated s i).host a = Mem.byte s.host a := by
  have ho : (counterUpdated s i).host = (storeEcho s (getC s i)).host := sendCounterVec_host _ _ _
  rw [ho, storeEcho_outside s h]

/-! ### The two updates -/

/-- A counter written and then made visible: COUNT and FAIL are those written, and of the rest only the counter's echo has changed. -/
theorem counterWritten {s : State} {i : Nat} {c : Counter} (ho : c.owner = (getC s i).owner) (he : c.echo = (getC s i).echo) :
    let t := counterUpdated (setC s i c) i
    (getC t i).count = c.count ∧ (getC t i).fail = c.fail ∧ (∀ j, j ≠ i → getC t j = getC s j) ∧ t.tz.queues = s.tz.queues ∧ t.pages = s.pages ∧ t.dev = s.dev ∧
      (∀ a, OutsideEcho (getC s i) a → Mem.byte t.host a = Mem.byte s.host a) := by
  have f := counterUpdated_frame (setC s i c) i
  refine ⟨?count, ?fail, fun j hj => ?other, f.queues, f.pages, f.dev, fun a ha => ?echo⟩
  case count => rw [f.count, getC_setC_same]
  case fail => rw [f.fail, getC_setC_same]
  case other => rw [f.others j hj, getC_setC_other s c hj]
  case echo =>
    refine counterUpdated_outside (setC s i c) i ?_
    unfold OutsideEcho
    rw [getC_setC_same, ho, he]
    exact ha

/-- A completion signal to an allocated counter writes the next COUNT, and FAIL where it was 0 (R81). -/
theorem signalCounter_allocated {s : State} {i : Nat} (code : Nat) (h : (getC s i).owner ≠ none) :
    signalCounter s i code = counterUpdated (setC s i { getC s i with
      count := wrapAdd 48 (getC s i).count 1, fail := if (getC s i).fail = 0 then code else (getC s i).fail }) i := if_neg h

/-- Settles O6: both updates write the counter and make it visible. -/
theorem counterOperations : Obligations.CounterOperations := by
  unfold Obligations.CounterOperations
  refine ⟨fun s i code h => ?signal, fun s i set clear v => ?update⟩
  case signal =>
    rw [signalCounter_allocated code h]
    exact counterWritten rfl rfl
  case update => exact counterWritten rfl rfl

end Sys2Proof.Machine
end

section
/-!
PROOF. A doorbell write and the fetch that follows it (R71, R72, R77).
-/

namespace Sys2Proof.Machine

open Sys2Proof

theorem exec_qdbTailWrite (who : Req) (q t : Nat) (s : State) : exec (.qdbTailWrite who q t) s = execQdbTailWrite who q t s := rfl

theorem exec_instructionFetch (q : Nat) (pokes : List Poke) (s : State) : exec (.instructionFetch q pokes) s = execInstructionFetch q pokes s := rfl

section
variable {s : State} {who : Req} {q t : Nat}

/-! ### The doorbell, row by row of the table of R71 -/

theorem execQdbTailWrite_ignored (h : s.halted = false) (hn : ¬ QueueRuns s q ∨ t < (getQ s q).tail) : exec (.qdbTailWrite who q t) s = .next s := by
  rw [exec_qdbTailWrite, execQdbTailWrite]
  exact alive_unchanged h (if_pos (.inr hn))

/-- A write that rings reaches the comparison with the end of the ring. -/
theorem doorbell_rings (hr : mayRing s who q = true) (hq : QueueRuns s q) (ht : (getQ s q).tail ≤ t) :
    ¬ (mayRing s who q = false ∨ ¬ ((getQ s q).state = .active ∨ (getQ s q).state = .waiting) ∨ t < (getQ s q).tail) := by
  rintro (hm | hn | hl)
  · exact Bool.false_ne_true (hm.symm.trans hr)
  · exact hn hq
  · exact absurd ht (Nat.not_le.mpr hl)

theorem execQdbTailWrite_overrun (h : s.halted = false) (hr : mayRing s who q = true) (hq : QueueRuns s q) (ht : (getQ s q).tail ≤ t)
    (ho : (getQ s q).head + (getQ s q).size < t) : exec (.qdbTailWrite who q t) s = .next (retag s (haltQueue s q Code.tzQueueHalted)) := by
  rw [exec_qdbTailWrite, execQdbTailWrite]
  exact alive_leads h ((if_neg (doorbell_rings hr hq ht)).trans (if_pos ho))

theorem execQdbTailWrite_taken (h : s.halted = false) (hr : mayRing s who q = true) (hq : QueueRuns s q) (ht : (getQ s q).tail ≤ t)
    (ho : t ≤ (getQ s q).head + (getQ s q).size) : exec (.qdbTailWrite who q t) s = .next (setQ s q { getQ s q with tail := t }) := by
  rw [exec_qdbTailWrite, execQdbTailWrite]
  exact alive_leads_plain h ((if_neg (doorbell_rings hr hq ht)).trans (if_neg (Nat.not_lt.mpr ho))) rfl rfl rfl

/-! ### The fetch -/

/-- A customer that becomes active changes the virtual times of admission only (R472). -/
theorem activate_tz (s : State) (cust cls : Nat) : (activate s cust cls).tz = s.tz := rfl

/-- An entry taken into a queue goes behind those fetched before, and no other register of the queue changes. -/
theorem getQ_enterFetched (s : State) (q : Nat) (f : Fetched) : getQ (enterFetched s q f) q = { getQ s q with fetched := (getQ s q).fetched ++ [f] } := by
  unfold enterFetched
  rw [getQ_modQ_same]
  split
  · rfl
  · rw [getQ_of_queues (congrArg Tz.queues (activate_tz s _ _))]

theorem enterFetched_memory (s : State) (q : Nat) (f : Fetched) : (enterFetched s q f).dev = s.dev ∧ (enterFetched s q f).host = s.host := by
  unfold enterFetched
  dsimp only
  split <;> exact ⟨rfl, rfl⟩

/-- The entry that stands at HEAD of a queue's ring, as fetched (R72). -/
def headEntry (s : State) (q : Nat) : Fetched :=
  { index := (getQ s q).head, ent := ringEntry s q (getQ s q).head, blk := [], sub := none, caught := false }

theorem execInstructionFetch_takes (hf : fetching s = true) (ha : (getQ s q).state = .active) (ht : (getQ s q).head < (getQ s q).tail) (hi : (inFlight s q).length < 256) :
    exec (.instructionFetch q []) s = .next (modQ (enterFetched s q (headEntry s q)) q (fun Q => { Q with head := Q.head + 1 })) := by
  rw [exec_instructionFetch, execInstructionFetch]
  exact congrArg _ (if_pos ⟨hf, ha, ht, hi⟩)

/-- What the fetch of the entry at HEAD leaves. -/
theorem execInstructionFetch_head (hf : fetching s = true) (ha : (getQ s q).state = .active) (ht : (getQ s q).head < (getQ s q).tail) (hi : (inFlight s q).length < 256) :
    ∃ u, exec (.instructionFetch q []) s = .next u ∧ (getQ u q).head = (getQ s q).head + 1 ∧
      ((getQ u q).fetched.map (·.index)) = (getQ s q).fetched.map (·.index) ++ [(getQ s q).head] ∧ u.dev = s.dev ∧ u.host = s.host := by
  refine ⟨_, execInstructionFetch_takes hf ha ht hi, ?head, ?fetched, enterFetched_memory s q _⟩
  case head => rw [getQ_modQ_same, getQ_enterFetched]
  case fetched =>
    rw [getQ_modQ_same, getQ_enterFetched]
    exact List.map_append
end

/-- Settles O2: one lemma for each row of the table, and the fetch on the state with the new TAIL. -/
theorem tailWriteRows : Obligations.TailWriteRows := by
  unfold Obligations.TailWriteRows
  refine fun who q t s hh hr => ⟨fun hn => execQdbTailWrite_ignored hh (.inl hn), fun hl => execQdbTailWrite_ignored hh (.inr hl), fun hq ht ho => ⟨execQdbTailWrite_overrun hh hr hq ht ho, ?tail⟩,
    fun hq ht ho => ⟨execQdbTailWrite_taken hh hr hq ht ho, fun ha hl hi hf => ?fetch⟩⟩
  case tail => rw [getQ_haltQueue _ hq]
  case fetch =>
    have hQ : getQ (setQ s q { getQ s q with tail := t }) q = { getQ s q with tail := t } := getQ_setQ_same _ _ _
    have := execInstructionFetch_head (s := setQ s q { getQ s q with tail := t }) (q := q) hf (by rw [hQ]; exact ha) (by rw [hQ]; exact hl) hi
    rw [hQ] at this
    exact this

end Sys2Proof.Machine
end

section
/-!
PROOF. Writes of QDB_CTRL and QDB_BIND (R73, R74, R75, R77): the RW fields are taken first, then what ENABLE, HALT, FLUSH and RESUME ask for.
-/

namespace Sys2Proof.Machine

open Sys2Proof

theorem exec_queueEnable (who : Req) (q : Nat) (v : W64) (s : State) : exec (.queueEnable who q v) s = execQueueEnable who q v s := rfl
theorem exec_queueDisable (who : Req) (q : Nat) (v : W64) (s : State) : exec (.queueDisable who q v) s = execQueueDisable who q v s := rfl
theorem exec_queueHalt (who : Req) (q : Nat) (v : W64) (s : State) : exec (.queueHalt who q v) s = execQueueHalt who q v s := rfl
theorem exec_queueResume (who : Req) (q : Nat) (v : W64) (s : State) : exec (.queueResume who q v) s = execQueueResume who q v s := rfl
theorem exec_queueFlush (who : Req) (q : Nat) (v : W64) (s : State) : exec (.queueFlush who q v) s = execQueueFlush who q v s := rfl
theorem exec_qdbBindWrite (who : Req) (q : Nat) (v : W64) (s : State) : exec (.qdbBindWrite who q v) s = execQdbBindWrite who q v s := rfl

/-! ### The parts of a write of QDB_CTRL -/

/-- The RW fields of QDB_CTRL are taken (R73). -/
def takeCtrl (s : State) (q : Nat) (v : W64) : State :=
  setQ s q { getQ s q with ctrl := ctrlAfter (decide ((getQ s q).state = .disabled)) (getQ s q).ctrl v }

/-- The actions of a write of QDB_CTRL: ENABLE, HALT, FLUSH and RESUME, in this order (R73, log 3). -/
def ctrlActions (s : State) (q : Nat) (v : W64) : State :=
  let s := if bitOf v 0 then enableQueue s q else disableQueue s q
  let s := if bitOf v 1 then haltQueue s q Code.tzQueueHalted else s
  let s := if bitOf v 3 then flushQueue s q else s
  if bitOf v 2 then resumeQueue s q else s

section
variable {s : State} {who : Req} {q : Nat} {v : W64}

theorem ctrlWrite_owned (ho : ownsQueue s who q = true) : ctrlWrite s who q v = ctrlActions (takeCtrl s q v) q v := if_pos ho

theorem takeCtrl_disabled (h : (getQ s q).state = .disabled) : takeCtrl s q v = setQ s q { getQ s q with ctrl := ctrlAfter true (getQ s q).ctrl v } := by
  rw [takeCtrl, decide_eq_true h]

theorem takeCtrl_enabled (h : (getQ s q).state ≠ .disabled) : takeCtrl s q v = setQ s q { getQ s q with ctrl := ctrlAfter false (getQ s q).ctrl v } := by
  rw [takeCtrl, decide_eq_false h]

theorem ctrlActions_enable (h0 : bitOf v 0 = true) (h1 : bitOf v 1 = false) (h2 : bitOf v 2 = false) (h3 : bitOf v 3 = false) : ctrlActions s q v = enableQueue s q := by
  simp [ctrlActions, h0, h1, h2, h3]

theorem ctrlActions_disable (h0 : bitOf v 0 = false) (h1 : bitOf v 1 = false) (h2 : bitOf v 2 = false) (h3 : bitOf v 3 = false) : ctrlActions s q v = disableQueue s q := by
  simp [ctrlActions, h0, h1, h2, h3]

/-- ENABLE of a queue that is not DISABLED does nothing (R74). -/
theorem enableQueue_enabled (h : (getQ s q).state ≠ .disabled) : enableQueue s q = s := if_pos (.inl h)

theorem ctrlActions_halt (h0 : bitOf v 0 = true) (h1 : bitOf v 1 = true) (h2 : bitOf v 2 = false) (h3 : bitOf v 3 = false) (he : (getQ s q).state ≠ .disabled) :
    ctrlActions s q v = haltQueue s q Code.tzQueueHalted := by
  simp [ctrlActions, h0, h1, h2, h3, enableQueue_enabled he]

theorem ctrlActions_resume (h0 : bitOf v 0 = true) (h1 : bitOf v 1 = false) (h2 : bitOf v 2 = true) (h3 : bitOf v 3 = false) (he : (getQ s q).state ≠ .disabled) :
    ctrlActions s q v = resumeQueue s q := by
  simp [ctrlActions, h0, h1, h2, h3, enableQueue_enabled he]

theorem ctrlActions_flush (h0 : bitOf v 0 = true) (h1 : bitOf v 1 = false) (h2 : bitOf v 2 = false) (h3 : bitOf v 3 = true) (he : (getQ s q).state ≠ .disabled) :
    ctrlActions s q v = flushQueue s q := by
  simp [ctrlActions, h0, h1, h2, h3, enableQueue_enabled he]

/-! ### What each action leaves -/

/-- A DISABLED queue's registers after ENABLE on a device whose firmware runs and whose configuration is enabled (R74): LEVEL, LOC and the ring's place are checked in this order. -/
def enabledRegs (s : State) (Q : Queue) : Queue :=
  if Q.level < 0x0100 ∨ 0x0102 < Q.level then { Q with lastReason := Code.tzVersion }
  else if Q.remote = true ∧ Q.loc = 0 then { Q with lastReason := Code.tzRights }
  else if Q.loc = 1 ∧ inCarve s Q.addr (32 * Q.size) = false then { Q with lastReason := Code.tzFormat }
  else { Q with state := .active, head := 0, tail := 0, lastReason := 0, failCount := 0, fetched := [] }

theorem enableQueue_disabled (h : (getQ s q).state = .disabled) (hf : s.fwRun = 1 ∨ s.fwRun = 2 ∨ s.fwRun = 3) (he : enabled s = true) :
    enableQueue s q = setQ s q (enabledRegs s (getQ s q)) := by
  have hn : ¬ ((getQ s q).state ≠ .disabled ∨ s.fwRun = 0 ∨ s.fwRun = 4 ∨ enabled s = false) := by
    rw [he]
    rintro (hd | h0 | h4 | hb)
    · exact hd h
    · omega
    · omega
    · exact Bool.noConfusion hb
  rw [enableQueue, if_neg hn, enabledRegs]
  simp only [apply_ite (setQ s q)]

theorem resumeQueue_halted (h : (getQ s q).state = .halted) : resumeQueue s q = setQ s q { getQ s q with state := .active } := if_pos h

theorem disableQueue_active (h : (getQ s q).state = .active) :
    disableQueue s q = drainEnd (failAllFetched (endWaits (setQ s q { getQ s q with state := .draining }) q) q) q := if_pos (.inl h)
end

/-! ### A flush (R73) -/

theorem signalCounter_queues (s : State) (i code : Nat) : (signalCounter s i code).tz.queues = s.tz.queues := by
  by_cases h : (getC s i).owner = none
  · rw [signalCounter, if_pos h]
  · rw [signalCounter_allocated code h]
    exact (counterUpdated_frame _ i).queues

theorem signalOwn_queues (s : State) (q : Nat) (e : Entry) (code : Nat) : (signalOwn s q e code).tz.queues = s.tz.queues := by
  unfold signalOwn
  split
  · exact signalCounter_queues s _ code
  · rfl

/-- A completion reported to a submitter or a counter changes no queue's registers. -/
theorem reportDone_queues (s : State) (q : Nat) (e : Entry) (sub : Option Submitter) (code version : Nat) : (reportDone s q e sub code version).tz.queues = s.tz.queues := by
  cases sub with
  | none => exact signalOwn_queues s q e code
  | some d => exact congrArg Tz.queues (transmit_fab _ _ _).tz

/-- A queue is HALTED, with a HEAD, a TAIL and some fetched entries. -/
def HaltedWith (s : State) (q head tail : Nat) (fs : List Fetched) : Prop :=
  (getQ s q).state = .halted ∧ (getQ s q).head = head ∧ (getQ s q).tail = tail ∧ (getQ s q).fetched = fs

section
variable {s : State} {q head tail : Nat} {fs : List Fetched}

/-- The failure of an entry that never started leaves a HALTED queue so, FAIL_STOP or not. -/
theorem HaltedWith.entryFails (h : HaltedWith s q head tail fs) (f : Fetched) : HaltedWith (failFetched s q f) q head tail fs := by
  obtain ⟨hs, hh, ht, hf⟩ := h
  have hq : getQ (failFetched s q f) q = { (getQ s q).failed f.index Code.tzQueueHalted with state := stateAfterFail (getQ s q) } := by
    rw [failFetched, getQ_of_queues (reportDone_queues _ q _ _ _ _), getQ_failRecord]
  have hst : stateAfterFail (getQ s q) = .halted := by
    rw [stateAfterFail, hs]
    exact ite_self _
  unfold HaltedWith
  rw [hq]
  exact ⟨hst, hh, ht, hf⟩

theorem HaltedWith.entriesFail (h : HaltedWith s q head tail fs) (l : List Fetched) : HaltedWith (l.foldl (fun s f => failFetched s q f) s) q head tail fs :=
  List.foldlRecOn (motive := fun t => HaltedWith t q head tail fs) l _ h (fun _ hs f _ => hs.entryFails f)

theorem HaltedWith.unfetched (h : HaltedWith s q head tail fs) : HaltedWith (modQ s q (fun Q => { Q with fetched := [] })) q head tail [] := by
  obtain ⟨hs, hh, ht, -⟩ := h
  unfold HaltedWith
  rw [getQ_modQ_same]
  exact ⟨hs, hh, ht, rfl⟩

theorem HaltedWith.headAtTail (h : HaltedWith s q head tail fs) : HaltedWith (modQ s q (fun Q => { Q with head := Q.tail })) q tail tail fs := by
  obtain ⟨hs, -, ht, hf⟩ := h
  unfold HaltedWith
  rw [getQ_modQ_same]
  exact ⟨hs, ht, ht, hf⟩

/-- A FLUSH leaves HEAD at TAIL and nothing fetched. -/
theorem flushQueue_halted (h : (getQ s q).state = .halted) : HaltedWith (flushQueue s q) q (getQ s q).tail (getQ s q).tail [] := by
  have start : HaltedWith s q (getQ s q).head (getQ s q).tail (getQ s q).fetched := ⟨h, rfl, rfl, rfl⟩
  have failed : HaltedWith (failAllFetched s q) q (getQ s q).head (getQ s q).tail [] := start.unfetched.entriesFail _
  rw [flushQueue, if_pos h]
  exact failed.headAtTail.entriesFail _
end

/-! ### The rows -/

section
variable {s : State} {who : Req} {q : Nat} {v : W64}

/-- The queue that a write reaches, with its fields taken. -/
theorem getQ_takeCtrl (s : State) (q : Nat) (v : W64) : (getQ (takeCtrl s q v) q).state = (getQ s q).state := by rw [takeCtrl, getQ_setQ_same]

theorem execQueueEnable_disabled (hh : s.halted = false) (ho : ownsQueue s who q = true) (h0 : bitOf (v ||| 1) 0 = true) (h1 : bitOf (v ||| 1) 1 = false)
    (h2 : bitOf (v ||| 1) 2 = false) (h3 : bitOf (v ||| 1) 3 = false) (hd : (getQ s q).state = .disabled) (hf : s.fwRun = 1 ∨ s.fwRun = 2 ∨ s.fwRun = 3) (he : enabled s = true) :
    exec (.queueEnable who q v) s = .next (setQ s q (enabledRegs s { getQ s q with ctrl := ctrlAfter true (getQ s q).ctrl (v ||| 1) })) := by
  rw [exec_queueEnable, execQueueEnable]
  refine alive_leads_plain hh ?_ rfl rfl rfl
  rw [ctrlWrite_owned ho, ctrlActions_enable h0 h1 h2 h3, enableQueue_disabled ((getQ_takeCtrl s q _).trans hd) hf he, takeCtrl_disabled hd, getQ_setQ_same, setQ_setQ]
  rfl

theorem execQueueHalt_enabled (hh : s.halted = false) (ho : ownsQueue s who q = true) (h0 : bitOf (v ||| 2) 0 = true) (h1 : bitOf (v ||| 2) 1 = true)
    (h2 : bitOf (v ||| 2) 2 = false) (h3 : bitOf (v ||| 2) 3 = false) (hd : (getQ s q).state ≠ .disabled) :
    exec (.queueHalt who q v) s =
      .next (retag s (haltQueue (setQ s q { getQ s q with ctrl := ctrlAfter false (getQ s q).ctrl (v ||| 2) }) q Code.tzQueueHalted)) := by
  rw [exec_queueHalt, execQueueHalt]
  refine alive_leads hh ?_
  rw [ctrlWrite_owned ho, ctrlActions_halt h0 h1 h2 h3 (getQ_takeCtrl s q _ ▸ hd), takeCtrl_enabled hd]

theorem execQueueResume_halted (hh : s.halted = false) (ho : ownsQueue s who q = true) (h0 : bitOf (v ||| 4) 0 = true) (h1 : bitOf (v ||| 4) 1 = false)
    (h2 : bitOf (v ||| 4) 2 = true) (h3 : bitOf (v ||| 4) 3 = false) (hd : (getQ s q).state = .halted) :
    exec (.queueResume who q v) s = .next (setQ s q { getQ s q with state := .active, ctrl := ctrlAfter false (getQ s q).ctrl (v ||| 4) }) := by
  have hn : (getQ s q).state ≠ .disabled := by rw [hd]; decide
  rw [exec_queueResume, execQueueResume]
  refine alive_leads_plain hh ?_ rfl rfl rfl
  rw [ctrlWrite_owned ho, ctrlActions_resume h0 h1 h2 h3 (getQ_takeCtrl s q _ ▸ hn), resumeQueue_halted ((getQ_takeCtrl s q _).trans hd), takeCtrl_enabled hn, getQ_setQ_same, setQ_setQ]

theorem execQueueDisable_active (hh : s.halted = false) (ho : ownsQueue s who q = true) (h0 : bitOf (v &&& ~~~1) 0 = false) (h1 : bitOf (v &&& ~~~1) 1 = false)
    (h2 : bitOf (v &&& ~~~1) 2 = false) (h3 : bitOf (v &&& ~~~1) 3 = false) (hd : (getQ s q).state = .active) :
    exec (.queueDisable who q v) s =
      .next (retag s (drainEnd (failAllFetched (endWaits (setQ s q { getQ s q with state := .draining, ctrl := ctrlAfter false (getQ s q).ctrl (v &&& ~~~1) }) q) q) q)) := by
  have hn : (getQ s q).state ≠ .disabled := by rw [hd]; decide
  rw [exec_queueDisable, execQueueDisable]
  refine alive_leads hh ?_
  rw [ctrlWrite_owned ho, ctrlActions_disable h0 h1 h2 h3, disableQueue_active ((getQ_takeCtrl s q _).trans hd), takeCtrl_enabled hn, getQ_setQ_same, setQ_setQ]

theorem execQueueFlush_enabled (hh : s.halted = false) (ho : ownsQueue s who q = true) (h0 : bitOf (v ||| 8) 0 = true) (h1 : bitOf (v ||| 8) 1 = false)
    (h2 : bitOf (v ||| 8) 2 = false) (h3 : bitOf (v ||| 8) 3 = true) (hn : (getQ s q).state ≠ .disabled) :
    exec (.queueFlush who q v) s = .next (retag s (flushQueue (setQ s q { getQ s q with ctrl := ctrlAfter false (getQ s q).ctrl (v ||| 8) }) q)) := by
  rw [exec_queueFlush, execQueueFlush]
  refine alive_leads hh ?_
  rw [ctrlWrite_owned ho, ctrlActions_flush h0 h1 h2 h3 (getQ_takeCtrl s q _ ▸ hn), takeCtrl_enabled hn]
end

/-! ### QDB_BIND (R75) -/

/-- The word of QDB_BIND with its fields: port, function, MIN_CLASS, CUST_LOCK and CUSTOMER. -/
def bindWord (port fn cls lock cust : Nat) : W64 := BitVec.ofNat 64 (port * 2 ^ 39 + fn * 2 ^ 32 + cls * 2 ^ 18 + lock * 2 ^ 16 + cust)

section
variable {port fn cls lock cust : Nat}

theorem bindWord_toNat (hp : port < 2) (hf : fn < 128) (hc : cls < 4) (hl : lock < 2) (hu : cust < 65536) :
    (bindWord port fn cls lock cust).toNat = port * 2 ^ 39 + fn * 2 ^ 32 + cls * 2 ^ 18 + lock * 2 ^ 16 + cust := by
  rw [bindWord, BitVec.toNat_ofNat, Nat.mod_eq_of_lt]
  omega

theorem bindWord_fields (hp : port < 2) (hf : fn < 128) (hc : cls < 4) (hl : lock < 2) (hu : cust < 65536) :
    fieldOf (bindWord port fn cls lock cust) 39 39 = port ∧ fieldOf (bindWord port fn cls lock cust) 38 32 = fn ∧ fieldOf (bindWord port fn cls lock cust) 19 18 = cls ∧
      bitOf (bindWord port fn cls lock cust) 16 = (lock == 1) ∧ fieldOf (bindWord port fn cls lock cust) 15 0 = cust := by
  unfold fieldOf bitOf
  rw [bindWord_toNat hp hf hc hl hu]
  refine ⟨by omega, by omega, by omega, ?_, by omega⟩
  congr 1
  omega
end

theorem fieldOf_lt (w : W64) (hi lo : Nat) : fieldOf w hi lo < 2 ^ (hi + 1 - lo) := Nat.mod_lt _ (Nat.two_pow_pos _)

theorem bit_bitOf (w : W64) (i : Nat) : bit (bitOf w i) = fieldOf w i i := by
  rw [fieldOf, Nat.add_sub_cancel_left, pow_one, bit, bitOf]
  rcases Nat.mod_two_eq_zero_or_one (w.toNat / 2 ^ i) with h | h <;> (rw [h]; rfl)

/-- The FUNCTION field that a write of QDB_BIND leaves: a reserved one is not taken. -/
def boundFn (old v : W64) : Nat := if fieldOf v 38 32 < 64 then fieldOf v 38 32 else fieldOf old 38 32

theorem boundFn_lt (old v : W64) : boundFn old v < 128 := by
  unfold boundFn
  split
  · exact fieldOf_lt v 38 32
  · exact fieldOf_lt old 38 32

/-- The word that a write of QDB_BIND leaves. -/
def bindAfter (old v : W64) : W64 := bindWord (bit (bitOf v 39)) (boundFn old v) (fieldOf v 19 18) (bit (bitOf v 16)) (fieldOf v 15 0)

theorem bindAfter_fields (old v : W64) :
    fieldOf (bindAfter old v) 39 39 = fieldOf v 39 39 ∧ fieldOf (bindAfter old v) 38 32 = boundFn old v ∧ fieldOf (bindAfter old v) 19 18 = fieldOf v 19 18 ∧
      bitOf (bindAfter old v) 16 = bitOf v 16 ∧ fieldOf (bindAfter old v) 15 0 = fieldOf v 15 0 := by
  have h39 : bit (bitOf v 39) < 2 := bit_bitOf v 39 ▸ fieldOf_lt v 39 39
  have h16 : bit (bitOf v 16) < 2 := bit_bitOf v 16 ▸ fieldOf_lt v 16 16
  obtain ⟨hp, hf, hc, hl, hu⟩ := bindWord_fields h39 (boundFn_lt old v) (fieldOf_lt v 19 18) h16 (fieldOf_lt v 15 0)
  refine ⟨hp.trans (bit_bitOf v 39), hf, hc, hl.trans ?_, hu⟩
  cases bitOf v 16 <;> rfl

theorem execQdbBindWrite_disabled {s : State} {who : Req} {q : Nat} (v : W64) (hh : s.halted = false) (ho : ownsQueue s who q = true) (hf : who.fn = 0)
    (hd : (getQ s q).state = .disabled) : exec (.qdbBindWrite who q v) s = .next (setQ s q { getQ s q with bind := bindAfter (getQ s q).bind v }) := by
  simp only [ownsQueue, Bool.and_eq_true, decide_eq_true_eq, Option.isNone_iff_eq_none] at ho
  obtain ⟨⟨hq, hp⟩, -⟩ := ho
  rw [exec_qdbBindWrite, execQdbBindWrite]
  exact alive_leads_plain hh (if_pos ⟨hf, hp, hq, hd⟩) rfl rfl rfl

/-- Settles O4: one lemma for each row, by the actions its bits ask for and what each leaves. -/
theorem queueControlWrites : Obligations.QueueControlWrites := by
  unfold Obligations.QueueControlWrites
  refine fun who q s hh ho => ⟨fun v h0 h1 h2 h3 hd hf he => ?enable, fun v h0 h1 h2 h3 hr => ?halt, fun v h0 h1 h2 h3 hd => ?resume, fun v h0 h1 h2 h3 hd => ?disable,
    fun v h0 h1 h2 h3 hd => ?flush, fun v hf hd => ?bind⟩
  case enable => exact execQueueEnable_disabled hh ho h0 h1 h2 h3 hd hf he
  case halt =>
    refine execQueueHalt_enabled hh ho h0 h1 h2 h3 ?_
    rcases hr with h | h <;> (rw [h]; decide)
  case resume => exact execQueueResume_halted hh ho h0 h1 h2 h3 hd
  case disable => exact execQueueDisable_active hh ho h0 h1 h2 h3 hd
  case flush =>
    refine ⟨_, execQueueFlush_enabled hh ho h0 h1 h2 h3 (by rw [hd]; decide), rfl, ?_⟩
    obtain ⟨hs, ht, -, hn⟩ := flushQueue_halted (s := setQ s q { getQ s q with ctrl := ctrlAfter false (getQ s q).ctrl (v ||| 8) }) (q := q) (by rw [getQ_setQ_same]; exact hd)
    rw [getQ_setQ_same] at ht
    exact ⟨ht, hn, hs⟩
  case bind => exact ⟨_, execQdbBindWrite_disabled v hh ho hf hd, bindAfter_fields _ v⟩

end Sys2Proof.Machine
end

section
/-!
PROOF. The control instructions (R167, R168, R170, R171) and the timeout of WAITCNT (R83).
-/

namespace Sys2Proof.Machine

open Sys2Proof

theorem exec_nop (id : Nat) (s : State) : exec (.nop id) s = execNop id s := rfl
theorem exec_fence (id : Nat) (s : State) : exec (.fence id) s = execFence id s := rfl
theorem exec_trace (id : Nat) (s : State) : exec (.trace id) s = execTrace id s := rfl
theorem exec_waitcnt (id : Nat) (s : State) : exec (.waitcnt id) s = execWaitcnt id s := rfl
theorem exec_haltq (id : Nat) (s : State) : exec (.haltq id) s = execHaltq id s := rfl
theorem exec_waitcntTimeout (id : Nat) (s : State) : exec (.waitcntTimeout id) s = execWaitcntTimeout id s := rfl

section
variable {s : State} {id : Nat} {r : Running}

theorem execNop_begun (hb : Begun s id r) (ho : r.ent.opcode = opNop) : exec (.nop id) s = .next (finish s id 0) := by
  rw [exec_nop, execNop]
  exact runOp_ends hb (isOp ho) rfl

theorem execFence_begun (hb : Begun s id r) (ho : r.ent.opcode = opFence) : exec (.fence id) s = .next (finish s id 0) := by
  rw [exec_fence, execFence]
  exact runOp_ends hb (isOp ho) rfl

/-! ### TRACE (R171) -/

theorem execTrace_on (hb : Begun s id r) (ho : r.ent.opcode = opTrace) (ht : traceOn s (r.ent.a % 256) = true) :
    exec (.trace id) s = .next (finish { s with traceQ := s.traceQ ++
      [{ point := r.ent.a % 256, source := 9, queue := r.queue, customer := r.ent.customer, payload := leBytes 6 r.ent.b }] } id 0) := by
  rw [exec_trace, execTrace, runOp_eq hb (isOp ho) (congrArg (fun t => finish t id 0) (if_pos ht))]
  exact congrArg _ (retag_same s _ rfl rfl rfl)

theorem execTrace_off (hb : Begun s id r) (ho : r.ent.opcode = opTrace) (ht : traceOn s (r.ent.a % 256) = false) :
    exec (.trace id) s = .next (finish s id 0) := by
  rw [exec_trace, execTrace]
  exact runOp_ends hb (isOp ho) (congrArg (fun t => finish t id 0) (if_neg (Bool.eq_false_iff.mp ht)))

/-! ### WAITCNT (R83, R168) -/

theorem execWaitcnt_met (hb : Begun s id r) (ho : r.ent.opcode = opWaitcnt) (hm : r.ent.b ≤ (getC s (r.ent.a % 2 ^ 16)).count) :
    exec (.waitcnt id) s = .next (finish s id (getC s (r.ent.a % 2 ^ 16)).fail) := by
  rw [exec_waitcnt, execWaitcnt]
  exact runOp_ends hb (isOp ho) (if_pos hm)

theorem execWaitcnt_unmet (hb : Begun s id r) (ho : r.ent.opcode = opWaitcnt) (hm : (getC s (r.ent.a % 2 ^ 16)).count < r.ent.b) :
    exec (.waitcnt id) s = .next (await s id) := by
  rw [exec_waitcnt, execWaitcnt, runOp_eq hb (isOp ho) (if_neg (Nat.not_le.mpr hm)), retag_same s _ (await_pages s id) (await_dev s id) (await_models s id)]

section
variable (hh : s.halted = false) (hr : findRun s id = some r)
include hh hr

/-- Nothing happens before the timeout has run out. -/
theorem execWaitcntTimeout_early (ht : s.now < r.startAt + waitPeriod s r) : exec (.waitcntTimeout id) s = .next s := by
  rw [exec_waitcntTimeout, execWaitcntTimeout, hr]
  exact alive_unchanged hh (if_neg (fun ⟨_, _, h⟩ => absurd h (Nat.not_le.mpr ht)))

/-- The counter is looked at first once it has. -/
theorem execWaitcntTimeout_due (hp : pendingWait r = true) (hs : scheduling s = true) (ht : r.startAt + waitPeriod s r ≤ s.now) :
    exec (.waitcntTimeout id) s =
      .next (finish s id (if r.ent.b ≤ (getC s (r.ent.a % 2 ^ 16)).count then (getC s (r.ent.a % 2 ^ 16)).fail else Code.tzWaitTimeout)) := by
  rw [exec_waitcntTimeout, execWaitcntTimeout, hr]
  exact alive_leads_plain hh (if_pos ⟨hp, hs, ht⟩) rfl rfl rfl
end

theorem pendingWait_waiting (ho : r.ent.opcode = opWaitcnt) (hp : r.phase = .waiting) : pendingWait r = true := by
  rw [pendingWait, ho, hp]
  rfl

/-! ### HALTQ (R170) -/

/-- HALTQ by an instruction may halt a queue: one of its own function, of a function of its port for the physical function, or any for firmware (R170, R78). -/
def MayHalt (s : State) (r : Running) (q : Nat) : Prop :=
  (q < firmwareQueue ∧ ((getQ s q).fid = r.fid ∨ (r.fid % 64 = 0 ∧ (getQ s q).fid / 64 = r.fid / 64))) ∨ firmwareQueue ≤ r.queue

/-- What a HALTQ with the right does, by the state of its target. -/
def haltqOn (s : State) (id q : Nat) : State :=
  match (getQ s q).state with
  | .active | .waiting => finish (haltQueue s q Code.tzQueueHalted) id 0
  | .halted => finish s id 0
  | _ => finish s id Code.tzQueueHalted

theorem mayHalt_iff (s : State) (r : Running) (q : Nat) :
    ((decide (q < firmwareQueue) && ((getQ s q).fid == r.fid || (r.fid % 64 == 0 && (getQ s q).fid / 64 == r.fid / 64))) = true ∨ firmwareQueue ≤ r.queue) ↔ MayHalt s r q := by
  simp [MayHalt]

theorem execHaltq_refused (hb : Begun s id r) (ho : r.ent.opcode = opHaltq) (hn : ¬ MayHalt s r (r.ent.a % 2 ^ 12)) : exec (.haltq id) s = .next (finish s id Code.tzRights) := by
  rw [exec_haltq, execHaltq]
  exact runOp_ends hb (isOp ho) (if_pos ((mayHalt_iff s r _).not.mpr hn))

theorem execHaltq_allowed (hb : Begun s id r) (ho : r.ent.opcode = opHaltq) (ha : MayHalt s r (r.ent.a % 2 ^ 12)) :
    exec (.haltq id) s = .next (retag s (haltqOn s id (r.ent.a % 2 ^ 12))) := by
  rw [exec_haltq, execHaltq]
  exact runOp_eq hb (isOp ho) (if_neg (not_not.mpr ((mayHalt_iff s r _).mpr ha)))

theorem haltqOn_running {q : Nat} (h : QueueRuns s q) : haltqOn s id q = finish (haltQueue s q Code.tzQueueHalted) id 0 := by
  unfold haltqOn
  rcases h with h | h <;> rw [h]

theorem haltqOn_halted {q : Nat} (h : (getQ s q).state = .halted) : haltqOn s id q = finish s id 0 := by rw [haltqOn, h]

theorem haltqOn_other {q : Nat} (h : (getQ s q).state = .disabled ∨ (getQ s q).state = .draining ∨ (getQ s q).state = .orphaned) :
    haltqOn s id q = finish s id Code.tzQueueHalted := by
  unfold haltqOn
  rcases h with h | h | h <;> rw [h]
end

/-- Settles O5: one lemma for each row and each of its outcomes. -/
theorem controlRowsFinish : Obligations.ControlRowsFinish := by
  unfold Obligations.ControlRowsFinish
  refine ⟨fun s id r hb => ⟨execNop_begun hb, execFence_begun hb, execTrace_on hb, execTrace_off hb, execWaitcnt_met hb, execWaitcnt_unmet hb, fun ho => ?haltq⟩,
    fun s id r hh hr ho hp hs => ⟨execWaitcntTimeout_early hh hr, execWaitcntTimeout_due hh hr (pendingWait_waiting ho hp) hs⟩⟩
  case haltq =>
    refine ⟨execHaltq_refused hb ho, fun ha h => ?running, fun ha h => ?halted, fun ha h => ?other⟩
    case running => rw [execHaltq_allowed hb ho ha, haltqOn_running h]
    case halted => rw [execHaltq_allowed hb ho ha, haltqOn_halted h, retag_finish]
    case other => rw [execHaltq_allowed hb ho ha, haltqOn_other h, retag_finish]

end Sys2Proof.Machine
end

section
/-!
PROOF. The course of an instruction: its start, the wait behind another, and its completion, after which it is no longer among the started ones (R82, R91, R92, R93, R97, R460).
-/

namespace Sys2Proof.Machine

open Sys2Proof

theorem exec_instructionStart (pokes : List Poke) (s : State) : exec (.instructionStart pokes) s = execInstructionStart pokes s := rfl
theorem exec_lifecycleWaitEnd (id : Nat) (s : State) : exec (.lifecycleWaitEnd id) s = execLifecycleWaitEnd id s := rfl
theorem exec_instructionComplete (id : Nat) (s : State) : exec (.instructionComplete id) s = execInstructionComplete id s := rfl

/-! ### The start (R92, R460) -/

/-- The checks of a started instruction in order, then the wait behind another or its admission. -/
def checkStart (t : State) (r : Running) : State :=
  if steps13 t (ctxOf t r) ≠ 0 then setPhase t r.id (.done (steps13 t (ctxOf t r)))
  else if steps45 t (ctxOf t r) ≠ 0 then setPhase t r.id (.done (steps45 t (ctxOf t r)))
  else if mustWait t r then t
  else admitStart t r

section
variable {t : State} {r : Running}

theorem checkStart_steps13 (h : steps13 t (ctxOf t r) ≠ 0) : checkStart t r = setPhase t r.id (.done (steps13 t (ctxOf t r))) := if_pos h

theorem checkStart_steps45 (h : steps13 t (ctxOf t r) = 0) (h5 : steps45 t (ctxOf t r) ≠ 0) : checkStart t r = setPhase t r.id (.done (steps45 t (ctxOf t r))) :=
  (if_neg (not_not.mpr h)).trans (if_pos h5)

theorem checkStart_passed (h : steps13 t (ctxOf t r) = 0) (h5 : steps45 t (ctxOf t r) = 0) : checkStart t r = if mustWait t r then t else admitStart t r :=
  (if_neg (not_not.mpr h)).trans (if_neg (not_not.mpr h5))

theorem checkStart_waits (h : steps13 t (ctxOf t r) = 0) (h5 : steps45 t (ctxOf t r) = 0) (hw : mustWait t r = true) : checkStart t r = t :=
  (checkStart_passed h h5).trans (if_pos hw)

theorem checkStart_admits (h : steps13 t (ctxOf t r) = 0) (h5 : steps45 t (ctxOf t r) = 0) (hw : mustWait t r = false) : checkStart t r = admitStart t r :=
  (checkStart_passed h h5).trans (if_neg (Bool.eq_false_iff.mp hw))
end

section
variable {s : State} {pokes : List Poke}

theorem execInstructionStart_next {q : Nat} {f : Fetched} (hf : fetching s = true) (hn : nextStart (applyPokes s pokes) = some (q, f)) :
    exec (.instructionStart pokes) s =
      .next (checkStart (enterStarted (applyPokes s pokes) q (mkRunning (applyPokes s pokes) q f)) (mkRunning (applyPokes s pokes) q f)) := by
  rw [exec_instructionStart, execInstructionStart, if_pos hf, hn]
  rfl

theorem execInstructionStart_none (hn : nextStart (applyPokes s pokes) = none ∨ fetching s = false) : exec (.instructionStart pokes) s = .next (applyPokes s pokes) := by
  rw [exec_instructionStart, execInstructionStart]
  rcases hn with hn | hf
  · rw [hn]
    exact congrArg _ (ite_self _)
  · exact congrArg _ (if_neg (Bool.eq_false_iff.mp hf))
end

/-! ### The end of the wait behind another (R97) -/

/-- The code with which a waiting instruction is checked again (R97, R242): where its object is gone, the one that the object's leaving gave it. -/
def recheckCode (s : State) (r : Running) : Nat :=
  if steps45 s (ctxOf s r) = Code.tzBadHandle then (r.codes.map (·.2)).headD Code.tzBadHandle else steps45 s (ctxOf s r)

theorem execLifecycleWaitEnd_behind {s : State} {id : Nat} {r : Running} (hh : s.halted = false) (hr : findRun s id = some r) (hp : r.phase = .behind) (hw : mustWait s r = false) :
    exec (.lifecycleWaitEnd id) s = .next (retag s (if recheckCode s r ≠ 0 then setPhase s id (.done (recheckCode s r)) else admitStart s r)) := by
  have hc : (if steps45 s (ctxOf s r) = Code.tzBadHandle then (r.codes.map (·.2)).headD (steps45 s (ctxOf s r)) else steps45 s (ctxOf s r)) = recheckCode s r :=
    ite_congr rfl (fun h => by rw [h]) (fun _ => rfl)
  rw [exec_lifecycleWaitEnd, execLifecycleWaitEnd, hr]
  refine alive_leads hh ?_
  rw [← hc]
  exact if_pos ⟨hp, hw⟩

/-! ### The numbers of the started instructions -/

/-- The numbers of the started instructions, in the order of starting. -/
def runIds (s : State) : List Nat := s.tz.started.map (·.id)

theorem findRun_eq_none {s : State} {id : Nat} (h : id ∉ runIds s) : findRun s id = none := by
  refine List.find?_eq_none.mpr (fun r hr he => h ?_)
  exact List.mem_map.mpr ⟨r, hr, beq_iff_eq.mp he⟩

theorem runIds_of_tz {s t : State} (h : t.tz = s.tz) : runIds t = runIds s := by rw [runIds, h, ← runIds]

theorem runIds_if {c : Prop} [Decidable c] {s t : State} (h : runIds t = runIds s) : runIds (if c then t else s) = runIds s := by
  split
  · exact h
  · rfl

/-- A change of instructions that keeps their numbers. -/
theorem runIds_modRun (s : State) (p : Running → Bool) {f : Running → Running} (hf : ∀ r, (f r).id = r.id) : runIds (modRun s p f) = runIds s := by
  unfold runIds modRun mapIf
  rw [List.map_map]
  refine List.map_congr_left (fun r _ => ?_)
  rw [Function.comp_apply, apply_ite Running.id, hf, ite_self]

theorem runIds_haltQueue (s : State) (q reason : Nat) : runIds (haltQueue s q reason) = runIds s := by
  refine runIds_if ?_
  rw [runIds_of_tz (queueVec_tz _ q)]
  exact runIds_modRun _ _ (fun _ => rfl)

theorem runIds_failRecord (s : State) (q index code : Nat) : runIds (failRecord s q index code) = runIds s := by
  have hs (Q : Queue) : runIds (setQ s q Q) = runIds s := rfl
  by_cases h : (getQ s q).failStop = true ∧ QueueRuns s q
  · rw [failRecord_stops index code h.1 h.2, runIds_haltQueue, hs]
  · rw [failRecord_goes_on index code h, runIds_of_tz (queueVec_tz _ q), hs]

theorem runIds_setC (s : State) (i : Nat) (c : Counter) : runIds (setC s i c) = runIds s := rfl

theorem runIds_observe (s : State) (i : Nat) : runIds (observe s i) = runIds s := runIds_modRun _ _ (fun _ => rfl)

theorem runIds_sendCounterVec (s : State) (i : Nat) (c : Counter) : runIds (sendCounterVec s i c) = runIds s := by
  rcases sendCounterVec_cases s i c with h | h | ⟨f, h⟩ <;> rw [h]
  · rw [runIds_setC]
  · rw [runIds_setC, runIds_of_tz (raiseVec_tz _ _ _)]

theorem runIds_counterUpdated (s : State) (i : Nat) : runIds (counterUpdated s i) = runIds s := by
  rw [counterUpdated_eq, runIds_observe, runIds_sendCounterVec, runIds_of_tz (storeEcho_tz _ _)]

theorem runIds_signalCounter (s : State) (i code : Nat) : runIds (signalCounter s i code) = runIds s := by
  by_cases h : (getC s i).owner = none
  · rw [signalCounter, if_pos h]
  · rw [signalCounter_allocated code h, runIds_counterUpdated, runIds_setC]

theorem runIds_reportDone (s : State) (q : Nat) (e : Entry) (sub : Option Submitter) (code version : Nat) : runIds (reportDone s q e sub code version) = runIds s := by
  cases sub with
  | none => exact runIds_if (runIds_signalCounter s _ code)
  | some d => exact runIds_of_tz (transmit_fab _ _ _).tz

theorem runIds_drainEnd (s : State) (q : Nat) : runIds (drainEnd s q) = runIds s := runIds_if rfl

/-- A completed instruction leaves the started ones, and the others stay (R82). -/
theorem runIds_completeRun (s : State) (r : Running) (code : Nat) : runIds (completeRun s r code) = (s.tz.started.filter (fun x => !(x.id == r.id))).map (·.id) := by
  have hv (u : State) (cls : Nat) : runIds (refreshVt u cls) = runIds u := rfl
  unfold completeRun
  dsimp only
  rw [hv, runIds_drainEnd, runIds_reportDone]
  refine (runIds_if ?active).trans ((runIds_if (runIds_failRecord _ _ _ _)).trans ((runIds_if ?refund).trans ((runIds_if ?result).trans (runIds_if ?attend))))
  case active | refund | result | attend => rfl

theorem findRun_completeRun (s : State) (r : Running) (code : Nat) : findRun (completeRun s r code) r.id = none := by
  refine findRun_eq_none ?_
  rw [runIds_completeRun]
  intro h
  obtain ⟨x, hx, he⟩ := List.mem_map.mp h
  have hn := (List.mem_filter.mp hx).2
  rw [he, beq_self_eq_true] at hn
  exact Bool.false_ne_true hn

theorem findRun_id {s : State} {id : Nat} {r : Running} (h : findRun s id = some r) : r.id = id := by
  have he : (r.id == id) = true := List.find?_some (p := fun r : Running => r.id == id) h
  exact beq_iff_eq.mp he

theorem execInstructionComplete_done {s : State} {id : Nat} {r : Running} {code : Nat} (hh : s.halted = false) (hr : findRun s id = some r) (hp : r.phase = .done code) :
    exec (.instructionComplete id) s = .next (retag s (completeRun s r code)) := by
  rw [exec_instructionComplete, execInstructionComplete, hr]
  refine alive_leads hh ?_
  dsimp only
  rw [hp]

/-- Settles O8: the start by the outcome of its checks, the end of the wait, and what the completion leaves started. -/
theorem instructionCourse : Obligations.InstructionCourse := by
  unfold Obligations.InstructionCourse
  refine ⟨fun s pokes hf q f hn => ?start, fun s pokes hn => execInstructionStart_none hn, fun s id r hh hr hp hw => execLifecycleWaitEnd_behind hh hr hp hw,
    fun s id r code hh hr hp => ⟨execInstructionComplete_done hh hr hp, ?gone⟩⟩
  case start =>
    rw [execInstructionStart_next hf hn]
    exact ⟨fun h => congrArg _ (checkStart_steps13 h), fun h h5 => congrArg _ (checkStart_steps45 h h5), fun h h5 hw => congrArg _ (checkStart_waits h h5 hw),
      fun h h5 hw => congrArg _ (checkStart_admits h h5 hw)⟩
  case gone => exact findRun_id hr ▸ findRun_completeRun s r code

end Sys2Proof.Machine
end

section
/-!
PROOF. Packets of WRITE and REDUCE messages that arrive (R138, R371, R403, R423, R424): a packet out of sequence, a first packet refused, a message of one packet.
-/

namespace Sys2Proof.Machine

open Sys2Proof

theorem exec_write (h : Hdr) (p : Packet) (s : State) : exec (.write h p) s = execWrite h p s := rfl
theorem exec_reduce (h : Hdr) (p : Packet) (red : RedSpec) (s : State) : exec (.reduce h p red) s = execReduce h p red s := rfl

/-! ### A key index and the messages counted in it (R371) -/

@[simp] theorem getK_setK_same (s : State) (i : Nat) (k : KeyEntry) : getK (setK s i k) i = k := Tbl.get_set_self _ _ _ _

@[simp] theorem getK_keyEnter (s : State) (i : Nat) : getK (keyEnter s i) i = { getK s i with accepted := (getK s i).accepted + 1 } := getK_setK_same _ _ _

/-- A message for an undrafted region is counted in its key index, and holds no draft. -/
theorem enterMsg_undrafted {s : State} {i : Nat} (w : Writer) (off n : Nat) (hd : (getK s i).drafted = false) : enterMsg s i w off n = keyEnter s i := by
  unfold enterMsg
  refine if_pos (.inl ?_)
  rw [getK_keyEnter]
  exact hd

theorem keyRefused_dev (s : State) (c : Nat) : (keyRefused s c).dev = s.dev := rfl

theorem keyRefused_host (s : State) (c : Nat) : (keyRefused s c).host = s.host := rfl

/-! ### A packet of a message (R403, R425) -/

/-- The record of a message at its first packet, checked with a code. -/
def firstRx (u : State) (op : Nat) (p : Packet) (code : Nat) : RxMsg :=
  { op := op, key := p.key, first := p.off, len := p.msgLen, next := p.off, code := code, refused := code != 0, index := keyIndex p.key, port := p.port, fn := p.fn,
    part := [], lastAt := u.now }

section
variable {s : State} {h : Hdr} {p : Packet} {m : RxMsg}

theorem packetEnd_refused (hl : p.last = true) (hr : m.refused = true) : packetEnd s h p m = ackLast s h m.code := by
  rw [packetEnd, if_pos hl, if_pos (.inl hr)]

theorem packetEnd_accepted (hl : p.last = true) (hr : m.refused = false) (hi : m.index ≠ 0) :
    packetEnd s h p m = ackLast (leaveMsg s m.index (msgWriter h m.port m.fn)) h m.code := by
  rw [packetEnd, if_pos hl, if_neg (by rw [hr]; exact not_or.mpr ⟨Bool.false_ne_true, hi⟩)]
end

section
variable {s : State} {h : Hdr} {p : Packet} {op right span : Nat} {apply : State → RxMsg → State × RxMsg}

theorem packetIn_untaken (ha : (arrive s h).2 = false) : packetIn s h op right p span apply = (arrive s h).1 := if_pos ha

/-- A message of one packet that is taken. -/
structure OnePacket (s : State) (h : Hdr) (p : Packet) : Prop where
  taken : (arrive s h).2 = true
  first : p.first = true
  last : p.last = true

theorem packetIn_refused {c : Nat} (o : OnePacket s h p) (hc : writeCheck (arrive s h).1 h p.key p.off span right = c) (hn : c ≠ 0) :
    packetIn s h op right p span apply = ackLast (keyRefused (arrive s h).1 c) h c := by
  unfold packetIn
  dsimp only
  rw [if_neg (ne_false_of_eq_true o.taken), if_pos o.first, hc, if_neg (fun ⟨h0, _⟩ => hn h0), if_pos hn]
  exact packetEnd_refused o.last (bne_iff_ne.mpr hn)

theorem packetIn_accepted (o : OnePacket s h p) (hc : writeCheck (arrive s h).1 h p.key p.off span right = 0) (hi : keyIndex p.key ≠ 0)
    (hd : (getK (arrive s h).1 (keyIndex p.key)).drafted = false) :
    packetIn s h op right p span apply =
      packetEnd (apply (keyEnter (arrive s h).1 (keyIndex p.key)) (firstRx (arrive s h).1 op p 0)).1 h p
        (apply (keyEnter (arrive s h).1 (keyIndex p.key)) (firstRx (arrive s h).1 op p 0)).2 := by
  have hr : ¬ (0 = 0 ∧ keyIndex p.key ≠ 0 ∧ (getK (arrive s h).1 (keyIndex p.key)).drafted = true ∧
      unitsOk (arrive s h).1 (getK (arrive s h).1 (keyIndex p.key)) (msgWriter h p.port p.fn) p.off span = false) := by
    rintro ⟨-, -, hx, -⟩
    exact Bool.false_ne_true (hd.symm.trans hx)
  unfold packetIn
  dsimp only
  rw [if_neg (ne_false_of_eq_true o.taken), if_pos o.first, hc, if_neg hr, if_neg (not_not.mpr rfl), if_neg hi, enterMsg_undrafted _ _ _ hd]
  rfl

/-- A message of one packet for an undrafted region, whose bytes leave `x` with the message still accepted there, leaves its key index and is acknowledged. -/
theorem packetIn_whole {x : State × RxMsg} (o : OnePacket s h p) (hc : writeCheck (arrive s h).1 h p.key p.off span right = 0) (hi : keyIndex p.key ≠ 0)
    (hd : (getK (arrive s h).1 (keyIndex p.key)).drafted = false)
    (hx : apply (keyEnter (arrive s h).1 (keyIndex p.key)) (firstRx (arrive s h).1 op p 0) = x)
    (hr : x.2.refused = false) (hxi : x.2.index = keyIndex p.key) (hp : x.2.port = p.port) (hf : x.2.fn = p.fn) :
    packetIn s h op right p span apply = ackLast (leaveMsg x.1 (keyIndex p.key) (msgWriter h p.port p.fn)) h x.2.code := by
  rw [packetIn_accepted o hc hi hd, hx, packetEnd_accepted o.last hr (by rw [hxi]; exact hi), hxi, hp, hf]
end

/-- At the end of a message nothing waits for the rest of its last sector (R96). -/
theorem sectorCut_last (start : Nat) (bs : List Byte) : sectorCut start bs true = (bs, []) := by simp [sectorCut]

section
variable {s : State} {h : Hdr} {p : Packet}

/-! ### WRITE (R138) -/

section
variable (hh : s.halted = false) (hq : h.qp < 0x8000)
include hh hq

theorem execWrite_untaken (ha : (arrive s h).2 = false) : exec (.write h p) s = .next (retag s (arrive s h).1) := by
  rw [exec_write, execWrite]
  exact alive_leads hh ((if_neg (Nat.not_le.mpr hq)).trans (packetIn_untaken ha))

theorem execWrite_refused {c : Nat} (o : OnePacket s h p) (hc : writeCheck (arrive s h).1 h p.key p.off p.msgLen rWrite = c) (hn : c ≠ 0) :
    exec (.write h p) s = .next (retag s (ackLast (keyRefused (arrive s h).1 c) h c)) := by
  rw [exec_write, execWrite]
  exact alive_leads hh ((if_neg (Nat.not_le.mpr hq)).trans (packetIn_refused o hc hn))

theorem execWrite_whole (o : OnePacket s h p) (hc : writeCheck (arrive s h).1 h p.key p.off p.msgLen rWrite = 0) (hi : keyIndex p.key ≠ 0)
    (hd : (getK (arrive s h).1 (keyIndex p.key)).drafted = false) :
    exec (.write h p) s = .next (retag s (ackLast (leaveMsg
      (regionWrite (keyEnter (arrive s h).1 (keyIndex p.key)) (keyIndex p.key) (msgWriter h p.port p.fn) p.off p.bytes)
      (keyIndex p.key) (msgWriter h p.port p.fn)) h 0)) := by
  rw [exec_write, execWrite]
  refine alive_leads hh ((if_neg (Nat.not_le.mpr hq)).trans (packetIn_whole (x := (regionWrite (keyEnter (arrive s h).1 (keyIndex p.key)) (keyIndex p.key) (msgWriter h p.port p.fn)
    p.off p.bytes, firstRx (arrive s h).1 1 p 0)) o hc hi hd ?_ rfl rfl rfl rfl))
  refine (if_neg hi).trans ?_
  dsimp only
  rw [o.last, sectorCut_last]
  rfl
end

/-- A refused message writes nothing. -/
theorem refused_memory (u : State) (h : Hdr) (c : Nat) : (ackLast (keyRefused u c) h c).dev = u.dev ∧ (ackLast (keyRefused u c) h c).host = u.host :=
  have f := ackLast_fab (keyRefused u c) h c
  ⟨f.dev.trans (keyRefused_dev u c), f.host.trans (keyRefused_host u c)⟩

/-! ### REDUCE (R163) -/

theorem execReduce_whole {red : RedSpec} {x : State × RxMsg} (hh : s.halted = false) (o : OnePacket s h p) (hf : red.fetch = none) (ho : red.op ≠ 4)
    (hc : writeCheck (arrive s h).1 h p.key p.off (destBytes { op := red.op, fmt := red.fmt, det := red.det, rowsPer := red.rowsPer, d := red.d } p.msgLen) rReduce = 0)
    (hi : keyIndex p.key ≠ 0) (hd : (getK (arrive s h).1 (keyIndex p.key)).drafted = false)
    (hx : reduceApply h red p.off p.bytes (keyEnter (arrive s h).1 (keyIndex p.key)) (firstRx (arrive s h).1 4 p 0) = x)
    (hr : x.2.refused = false) (hxi : x.2.index = keyIndex p.key) (hp : x.2.port = p.port) (hn : x.2.fn = p.fn) :
    exec (.reduce h p red) s = .next (retag s (ackLast (leaveMsg x.1 (keyIndex p.key) (msgWriter h p.port p.fn)) h x.2.code)) := by
  rw [exec_reduce, execReduce]
  dsimp only
  rw [if_neg ho, hf]
  exact alive_leads hh (packetIn_whole o hc hi hd hx hr hxi hp hn)
end

end Sys2Proof.Machine
end

section
/-!
PROOF. Reads, submissions, completions, signals and multicast OPENs that arrive (R79, R138, R371, R435, R441, R538), and what all the rows of an arriving packet come to.
-/

namespace Sys2Proof.Machine

open Sys2Proof

theorem exec_readReq (h : Hdr) (subject : Handle) (id key off len : Nat) (s : State) : exec (.readReq h subject id key off len) s = execReadReq h subject id key off len s := rfl
theorem exec_readResp (h : Hdr) (id code off : Nat) (last ackReq : Bool) (bs : List Byte) (s : State) :
    exec (.readResp h id code off last ackReq bs) s = execReadResp h id code off last ackReq bs s := rfl
theorem exec_submit (h : Hdr) (tag queue port fn : Nat) (e : Entry) (blk : List Byte) (s : State) :
    exec (.submit h tag queue port fn e blk) s = execSubmit h tag queue port fn e blk s := rfl
theorem exec_complete (h : Hdr) (tag : Nat) (x : RemoteResult) (counter : Nat) (s : State) : exec (.complete h tag x counter) s = execComplete h tag x counter s := rfl
theorem exec_remoteSignal (h : Hdr) (c : Handle) (set clear : Bool) (v : Nat) (s : State) : exec (.remoteSignal h c set clear v) s = execRemoteSignal h c set clear v s := rfl
theorem exec_multicastOpen (h : Hdr) (group psn : Nat) (dest : OpenDest) (off len port fn : Nat) (s : State) :
    exec (.multicastOpen h group psn dest off len port fn) s = execMulticastOpen h group psn dest off len port fn s := rfl

section
variable {c : Instr} {s t : State} {h : Hdr} {k : State → State × Nat} {code : Nat}

/-- A row that delivers a message to hardware is handled as what it does with the state after the message's packets. -/
theorem handledHw_of (he : exec c s = deliveredHw s h k) (hk : k (arrive s h).1 = (t, code)) : HandledHw c s h t code :=
  fun ht => by rw [he, deliveredHw_taken k ht, hk]

/-- The same for a message that firmware handles. -/
theorem handledAs_of (he : exec c s = deliveredAs s h k) (hk : k (arrive s h).1 = (t, code)) : HandledAs c s h t code :=
  fun ht => by rw [he, deliveredAs_taken k ht, hk]
end

section
variable {s : State} {h : Hdr}

/-! ### Reads (R138, R435) -/

theorem handled_readReq_refused {x : Handle} {key off len c : Nat} (id : Nat) (ha : readAnswer (arrive s h).1 h x key off len false = .error c) :
    HandledHw (.readReq h x id key off len) s h (keyRefused (arrive s h).1 c) c :=
  handledHw_of (by rw [exec_readReq, execReadReq]) (by rw [ha])

theorem handled_readReq_answered {x : Handle} {key off len i : Nat} {bs : List Byte} (id : Nat) (ha : readAnswer (arrive s h).1 h x key off len false = .ok (bs, some i)) :
    HandledHw (.readReq h x id key off len) s h
      (transmitHeld (keyEnter (unitsUp (arrive s h).1 i off len) i) ⟨h.src, h.comp, h.epoch, h.cls, false, x, .readResp id 0 bs⟩ none (some i)) 0 :=
  handledHw_of (by rw [exec_readReq, execReadReq]) (by rw [ha])

theorem execReadResp_unknown {id : Nat} (code off : Nat) (bs : List Byte) (hn : (arrive s h).1.reads.find? (fun w => w.id == id && !w.comb) = none) (ht : TakenHw s h) :
    exec (.readResp h id code off true false bs) s = .next (retag s (ackLast (arrive s h).1 h 0)) := by
  obtain ⟨hh, ha⟩ := ht
  rw [exec_readResp, execReadResp]
  refine alive_leads hh ?_
  dsimp only
  rw [if_neg (ne_false_of_eq_true ha), hn]
  rfl

/-- The last piece of a read ends it. -/
theorem execReadResp_last {id off : Nat} {bs : List Byte} {w w' : ReadWait} (hw : (arrive s h).1.reads.find? (fun w => w.id == id && !w.comb) = some w)
    (hw' : (readPiece (arrive s h).1 w off bs).reads.find? (fun x => x.id == id) = some w') (ht : TakenHw s h) :
    exec (.readResp h id 0 off true false bs) s = .next (retag s (ackLast (readEnd (readPiece (arrive s h).1 w off bs) w') h 0)) := by
  obtain ⟨hh, ha⟩ := ht
  rw [exec_readResp, execReadResp]
  refine alive_leads hh ?_
  dsimp only
  rw [if_neg (ne_false_of_eq_true ha), hw]
  dsimp only
  rw [if_neg (not_not.mpr rfl), if_pos rfl, hw']
  rfl

/-! ### Submissions and completions (R79) -/

/-- Only firmware's queue of a holder's ATTENDs replaces the descriptor that an entry names (R149). -/
theorem holderEntry_host (u : State) {q : Nat} (e : Entry) (blk : List Byte) (hq : q < firmwareQueue) : holderEntry u q e blk = e :=
  if_neg (fun hx => absurd hx.1 (by omega))

/-- Where a submission came from. -/
def submitterOf (h : Hdr) (tag port fn : Nat) : Submitter := { device := h.src, comp := h.comp, epoch := h.epoch, tag := tag, port := port, fn := fn }

section
variable {q : Nat} (tag port fn : Nat) (e : Entry) (blk : List Byte)
variable (hc : epochCheck (arrive s h).1 h = 0) (hq : q < firmwareQueue) (hr : (getQ (arrive s h).1 q).remote = true)
include hq hr

/-- A host queue open to the fabric is not one that refuses submissions. -/
theorem submit_open : ¬ (4096 ≤ q ∨ (q < firmwareQueue ∧ (getQ (arrive s h).1 q).remote = false)) := by
  have hf : firmwareQueue = 4032 := rfl
  rintro (h1 | ⟨-, h2⟩)
  · omega
  · exact Bool.false_ne_true (h2.symm.trans hr)

include hc

theorem handled_submit_active (ha : (getQ (arrive s h).1 q).state = .active) :
    HandledAs (.submit h tag q port fn e blk) s h
      (enterFetched (arrive s h).1 q { index := (getQ (arrive s h).1 q).head, ent := e, blk := blk, sub := some (submitterOf h tag port fn), caught := false }) 0 := by
  refine handledAs_of (by rw [exec_submit, execSubmit]) ?_
  dsimp only
  rw [if_neg (not_not.mpr hc), if_neg (submit_open hq hr), if_neg (fun hx => hx.1 ha), holderEntry_host _ e blk hq]
  rfl

theorem handled_submit_halted (ha : (getQ (arrive s h).1 q).state = .halted) :
    HandledAs (.submit h tag q port fn e blk) s h (sendComplete (arrive s h).1 (submitterOf h tag port fn) e Code.tzQueueHalted 0) 0 := by
  have hs : (getQ (arrive s h).1 q).state ≠ .active ∧ (getQ (arrive s h).1 q).state ≠ .waiting := by
    rw [ha]
    decide
  refine handledAs_of (by rw [exec_submit, execSubmit]) ?_
  dsimp only
  rw [if_neg (not_not.mpr hc), if_neg (submit_open hq hr), if_pos hs]
  rfl
end

theorem handled_complete_signals (x : RemoteResult) {counter : Nat} (hc : counter ≠ 0xFFFF) :
    HandledAs (.complete h 0 x counter) s h (signalCounter (arrive s h).1 counter x.code) 0 :=
  handledAs_of (by rw [exec_complete, execComplete]) (by rw [if_pos rfl, if_neg hc])

/-! ### Remote signals (R538) -/

section
variable {c : Handle} (set clear : Bool) (v : Nat) (hc : epochCheck (arrive s h).1 h = 0)
include hc

theorem handled_remoteSignal_open (hn : c % 2 ^ 16 ≠ 0xFFFF) (ho : (getC (arrive s h).1 (c % 2 ^ 16)).owner ≠ none)
    (hf : (getC (arrive s h).1 (c % 2 ^ 16)).fabric = some h.comp ∨ (getC (arrive s h).1 (c % 2 ^ 16)).fabric = some 0xFFFF) :
    HandledHw (.remoteSignal h c set clear v) s h (counterUpdate (arrive s h).1 (c % 2 ^ 16) set clear v) 0 := by
  refine handledHw_of (by rw [exec_remoteSignal, execRemoteSignal]) ?_
  dsimp only
  rw [if_neg (not_not.mpr hc), if_neg (not_or.mpr ⟨hn, not_or.mpr ⟨ho, not_not.mpr hf⟩⟩)]

theorem handled_remoteSignal_closed (hf : (getC (arrive s h).1 (c % 2 ^ 16)).fabric = none) :
    HandledHw (.remoteSignal h c set clear v) s h (arrive s h).1 Code.tzRights := by
  have hn : ¬ ((getC (arrive s h).1 (c % 2 ^ 16)).fabric = some h.comp ∨ (getC (arrive s h).1 (c % 2 ^ 16)).fabric = some 0xFFFF) := by
    rw [hf]
    exact not_or.mpr ⟨(Option.some_ne_none _).symm, (Option.some_ne_none _).symm⟩
  refine handledHw_of (by rw [exec_remoteSignal, execRemoteSignal]) ?_
  dsimp only
  rw [if_neg (not_not.mpr hc), if_pos (.inr (.inr hn))]
end

/-! ### Multicast OPENs (R441) -/

/-- The place in a group's stream that an OPEN for a region gives the member (R441). -/
def openPlace (u : State) (h : Hdr) (group psn key off len port fn : Nat) : McastRx :=
  { src := h.src, group := group, inc := if bitOf (groupEntry u group) 0 then fieldOf (groupEntry u group) 31 24 else 256, psn := psn, subject := 0, key := key, off := off, len := len,
    port := port, fn := fn, next := psn, lastAt := u.now, part := [] }

/-- A stream of a group that has brought all its bytes (R441). -/
def streamOver (src group : Nat) (x : McastRx) : Bool := x.src == src && x.group == group && decide (x.len ≤ (x.next + 2 ^ 24 - x.psn) % 2 ^ 24 * 4096)

/-- The state with a place in a group's stream, in which streams of the group that are over have none. -/
def keepPlace (u : State) (h : Hdr) (group : Nat) (x : McastRx) : State :=
  { u with fab := { u.fab with mrx := u.fab.mrx.filter (fun y => !streamOver h.src group y) ++ [x] } }

section
variable {subject : Handle} {g psn key off len port fn : Nat}
variable (ht : TakenHw s h) (hc : epochCheck (arrive s h).1 h = 0) (hk : key ≠ 0 ∨ subject = 0)
include hk

/-- An OPEN that names a key, or no draft, is no ingest multicast. -/
theorem open_of_region : (key == 0 && subject != 0) = false := by
  rcases hk with hk | hk
  · rw [beq_false_of_ne hk, Bool.false_and]
  · rw [hk]
    exact Bool.and_false _

include ht hc

theorem execMulticastOpen_refused {c : Nat} (hn : c ≠ 0) (hr : remoteCheck (arrive s h).1 h key off len rWrite = c) :
    exec (.multicastOpen h g psn ⟨subject, key⟩ off len port fn) s = .next (retag s (ackLast (keyRefused (arrive s h).1 c) h c)) := by
  obtain ⟨hh, ha⟩ := ht
  rw [exec_multicastOpen, execMulticastOpen]
  refine alive_leads hh ?_
  dsimp only
  rw [if_neg (ne_false_of_eq_true ha), open_of_region hk, if_neg (not_not.mpr hc), if_neg Bool.false_ne_true, hr, if_pos hn]

theorem execMulticastOpen_undrafted (hr : remoteCheck (arrive s h).1 h key off len rWrite = 0) (hd : (getK (arrive s h).1 (keyIndex key)).drafted = false) :
    exec (.multicastOpen h g psn ⟨subject, key⟩ off len port fn) s =
      .next (retag s (ackLast (keepPlace (keyEnter (arrive s h).1 (keyIndex key)) h g (openPlace (arrive s h).1 h g psn key off len port fn)) h 0)) := by
  obtain ⟨hh, ha⟩ := ht
  rw [exec_multicastOpen, execMulticastOpen]
  refine alive_leads hh ?_
  dsimp only
  rw [if_neg (ne_false_of_eq_true ha), open_of_region hk, if_neg (not_not.mpr hc), if_neg Bool.false_ne_true, hr, if_neg (not_not.mpr rfl),
    if_neg (fun hx => Bool.false_ne_true hx.1), if_neg (fun hx => Bool.false_ne_true (hd.symm.trans hx.1)), enterMsg_undrafted _ _ _ hd]
  rfl
end
end

/-- Settles O33: the packets of a message by what its check finds, and the whole messages by their handling. -/
theorem arrivingPackets : Obligations.ArrivingPackets := by
  unfold Obligations.ArrivingPackets
  refine ⟨fun s h p hh hq => ⟨execWrite_untaken hh hq, fun ha hf hl => ?onePacket⟩,
    fun s h => ⟨?readRefused, ?readAnswered, ?respUnknown, ?respLast, ?submit, ?complete, ?signal, ?multicastOpen⟩⟩
  case onePacket =>
    have o : OnePacket s h p := ⟨ha, hf, hl⟩
    refine ⟨fun c hn hc => ?refused, fun hc hi hd => ?write, fun red hf' ho hc hi hd => ?reduce⟩
    case refused => exact ⟨execWrite_refused hh hq o hc hn, refused_memory _ h c⟩
    case write => exact execWrite_whole hh hq o hc hi hd
    case reduce => exact fun hr hxi hp hn => execReduce_whole hh o hf' ho hc hi hd rfl hr hxi hp hn
  case readRefused => exact fun x id key off len c => handled_readReq_refused id
  case readAnswered => exact fun x id key off len bs i => handled_readReq_answered id
  case respUnknown => exact fun id code off bs => execReadResp_unknown code off bs
  case respLast => exact fun w off bs w' => execReadResp_last
  case submit =>
    exact fun tag q port fn e blk hc hq hr => ⟨handled_submit_active tag port fn e blk hc hq hr, handled_submit_halted tag port fn e blk hc hq hr⟩
  case complete => exact fun x counter hc => handled_complete_signals x hc
  case signal =>
    exact fun c set clear v hc hn ho => ⟨handled_remoteSignal_open set clear v hc hn ho, handled_remoteSignal_closed set clear v hc⟩
  case multicastOpen =>
    intro subject g psn key off len port fn ht hc hk
    refine ⟨fun c hn hr => execMulticastOpen_refused ht hc hk hn hr, fun hr hd => ?_⟩
    refine ⟨_, execMulticastOpen_undrafted ht hc hk hr hd, ⟨_, List.mem_append_right _ (List.mem_singleton_self _), rfl, rfl, rfl, rfl, rfl, rfl, rfl, rfl⟩, ?_, rfl, rfl⟩
    exact congrArg KeyEntry.accepted (getK_keyEnter (arrive s h).1 (keyIndex key))

end Sys2Proof.Machine
end

section
/-!
PROOF. The access check: its answer for a key by what its index holds (R127, R370).
-/

namespace Sys2Proof.Machine

open Sys2Proof

/-- The places between a key's generation and the current one, over the 65535 generations that an index takes (R370). -/
def genDistance (g c : Nat) : Nat := (c + 65535 - g) % 65535

theorem genOlder_eq (g c : Nat) : genOlder g c = decide (1 ≤ genDistance g c ∧ genDistance g c ≤ 32767) := rfl

/-- What a use of a LIVE region with its current key is checked for (R127): its bounds, its rights, its scope. -/
def liveCheck (k : KeyEntry) (off len right : Nat) (scope : Option Nat) : Nat :=
  if k.len < off + len then Code.keyBounds
  else if natBit k.rights right = false then Code.keyRights
  else
    match scope with
    | none => Code.ok
    | some c => if c = 0xFFFF then Code.keyRights else if k.scope = 0xFFFF ∨ k.scope = c then Code.ok else Code.keyRights

section
variable {s : State} {key : Nat} (off len right : Nat) (scope : Option Nat)

theorem keyCheck_unissued (h : keyIndex key = 0 ∨ (getK s (keyIndex key)).issued = false) : keyCheck s key off len right scope = Code.keyInvalid := if_pos h

variable (hi : keyIndex key ≠ 0) (hs : (getK s (keyIndex key)).issued = true)
include hi hs

/-- The index has been issued (R126). -/
theorem issued_index : ¬ (keyIndex key = 0 ∨ (getK s (keyIndex key)).issued = false) :=
  not_or.mpr ⟨hi, ne_false_of_eq_true hs⟩

theorem keyCheck_older (hg : keyGen key ≠ (getK s (keyIndex key)).gen) (h1 : 1 ≤ genDistance (keyGen key) (getK s (keyIndex key)).gen)
    (h2 : genDistance (keyGen key) (getK s (keyIndex key)).gen ≤ 32767) : keyCheck s key off len right scope = Code.keyRevoked :=
  (if_neg (issued_index hi hs)).trans ((if_pos hg).trans (if_pos (decide_eq_true ⟨h1, h2⟩)))

theorem keyCheck_newer (hg : keyGen key ≠ (getK s (keyIndex key)).gen) (h : 32768 ≤ genDistance (keyGen key) (getK s (keyIndex key)).gen) :
    keyCheck s key off len right scope = Code.keyInvalid := by
  have newer : ¬ genOlder (keyGen key) (getK s (keyIndex key)).gen = true := by
    rw [genOlder_eq, decide_eq_true_iff]
    omega
  exact (if_neg (issued_index hi hs)).trans ((if_pos hg).trans (if_neg newer))

variable (hg : keyGen key = (getK s (keyIndex key)).gen)
include hg

theorem keyCheck_free (hf : (getK s (keyIndex key)).state = .free) : keyCheck s key off len right scope = Code.keyInvalid :=
  (if_neg (issued_index hi hs)).trans ((if_neg (not_not.mpr hg)).trans (if_pos hf))

theorem keyCheck_live (hl : (getK s (keyIndex key)).state = .live) : keyCheck s key off len right scope = liveCheck (getK s (keyIndex key)) off len right scope := by
  have free : ¬ (getK s (keyIndex key)).state = .free := by rw [hl]; exact KeyState.noConfusion
  have revoking : ¬ (getK s (keyIndex key)).state = .revoking := by rw [hl]; exact KeyState.noConfusion
  unfold keyCheck
  dsimp only
  rw [if_neg (issued_index hi hs), if_neg (not_not.mpr hg), if_neg free, if_neg revoking]
  rfl
end

section
variable {k : KeyEntry} {off len right : Nat}

theorem liveCheck_bounds (scope : Option Nat) (h : k.len < off + len) : liveCheck k off len right scope = Code.keyBounds := if_pos h

variable (hb : off + len ≤ k.len)
include hb

theorem liveCheck_without_right (scope : Option Nat) (hr : natBit k.rights right = false) : liveCheck k off len right scope = Code.keyRights :=
  (if_neg (Nat.not_lt.mpr hb)).trans (if_pos hr)

variable (hr : natBit k.rights right = true)
include hr

theorem liveCheck_local : liveCheck k off len right none = 0 :=
  (if_neg (Nat.not_lt.mpr hb)).trans (if_neg (ne_false_of_eq_true hr))

theorem liveCheck_remote (c : Nat) : liveCheck k off len right (some c) =
    if c = 0xFFFF then Code.keyRights else if k.scope = 0xFFFF ∨ k.scope = c then Code.ok else Code.keyRights :=
  (if_neg (Nat.not_lt.mpr hb)).trans (if_neg (ne_false_of_eq_true hr))

theorem liveCheck_outside_scope {c : Nat} (hc : c = 0xFFFF ∨ (k.scope ≠ 0xFFFF ∧ k.scope ≠ c)) : liveCheck k off len right (some c) = Code.keyRights := by
  rw [liveCheck_remote hb hr]
  rcases hc with hc | hc
  · exact if_pos hc
  · rw [if_neg (not_or.mpr hc), ite_self]

theorem liveCheck_in_scope {c : Nat} (hn : c ≠ 0xFFFF) (hc : k.scope = 0xFFFF ∨ k.scope = c) : liveCheck k off len right (some c) = 0 := by
  rw [liveCheck_remote hb hr, if_neg hn, if_pos hc]
  rfl
end

/-- Settles O12, by the lemma of each answer of the check. -/
theorem keyCheckOutcomes : Obligations.KeyCheckOutcomes := by
  unfold Obligations.KeyCheckOutcomes
  intro s key off len right scope k distance
  refine ⟨fun h => keyCheck_unissued off len right scope h, fun hi hs hg h1 h2 => keyCheck_older off len right scope hi hs hg h1 h2,
    fun hi hs hg h => keyCheck_newer off len right scope hi hs hg h, fun hi hs hg hf => keyCheck_free off len right scope hi hs hg hf, fun hi hs hg hl => ?live⟩
  case live =>
    rw [keyCheck_live off len right scope hi hs hg hl]
    refine ⟨liveCheck_bounds scope, fun hb hr => liveCheck_without_right hb scope hr, ?outside, ?passes⟩
    case outside =>
      intro c hb hr hc ho
      rw [hc, liveCheck_outside_scope hb hr ho]
    case passes =>
      intro hb hr hc
      rcases hc with hc | ⟨c, hc, hn, ho⟩
      · rw [hc, liveCheck_local hb hr]
      · rw [hc, liveCheck_in_scope hb hr hn ho]

end Sys2Proof.Machine
end

section
/-!
PROOF. A page's copies and what moves them (R103, R107, R110, R118, R279): each transfer keeps the page itself, and says where copies lie afterwards.
-/

namespace Sys2Proof.Machine

open Sys2Proof

/-- Two states of one page: its number, object, place, tokens, pin and rows are the same. -/
def SamePage (p q : Page) : Prop :=
  q.number = p.number ∧ q.obj = p.obj ∧ q.layer = p.layer ∧ q.index = p.index ∧ q.tokens = p.tokens ∧ q.pin = p.pin ∧ q.rows = p.rows

theorem SamePage.refl (p : Page) : SamePage p p := ⟨rfl, rfl, rfl, rfl, rfl, rfl, rfl⟩

/-! ### Copies in a tier -/

@[simp] theorem inTier_stacks (p : Page) : p.inTier tStacks = p.stack.isSome := rfl
@[simp] theorem cleanIn_host (p : Page) : p.cleanIn tHost = (p.host.isSome && !p.hostDirty) := rfl

/-- A tier that holds a copy and is not the stacks is the host or flash. -/
theorem inTier_lower {p : Page} {t : Nat} (h : p.inTier t = true) (hn : t ≠ tStacks) : p.host.isSome = true ∨ p.flash.isSome = true := by
  unfold Page.inTier at h
  rw [if_neg hn] at h
  split at h
  · exact .inl h
  · split at h
    · exact .inr h
    · exact absurd h Bool.false_ne_true

theorem cleanIn_inTier {p : Page} {t : Nat} (h : p.cleanIn t = true) : p.inTier t = true := (Bool.and_eq_true_iff.mp h).1

/-! ### A copy into a tier (R110, R279) -/

section
variable {s t : State} {p q : Page}

/-- A page copied into host memory has a clean host copy, and its other copies as before. -/
theorem copyInto_host (h : copyInto s p tHost = some (t, q)) :
    q.host.isSome = true ∧ q.hostDirty = false ∧ q.stack = p.stack ∧ q.flash = p.flash ∧ SamePage p q := by
  unfold copyInto at h
  rw [if_neg (show ¬ tHost = tStacks by decide), if_pos rfl] at h
  split at h
  · next clean =>
    cases h
    simp only [cleanIn_host, Bool.and_eq_true, Bool.not_eq_true'] at clean
    exact ⟨clean.1, clean.2, rfl, rfl, SamePage.refl _⟩
  · split at h
    · next port hport =>
      cases h
      exact ⟨Option.isSome_iff_exists.mpr ⟨port, hport⟩, rfl, rfl, rfl, SamePage.refl _⟩
    · obtain ⟨port, -, hq⟩ := Option.map_eq_some_iff.mp h
      cases hq
      exact ⟨rfl, rfl, rfl, rfl, SamePage.refl _⟩

/-- A page copied into the stacks has a stacks copy. -/
theorem copyInto_stacks (h : copyInto s p tStacks = some (t, q)) : q.stack.isSome = true ∧ SamePage p q := by
  unfold copyInto at h
  rw [if_pos rfl] at h
  split at h
  · next clean =>
    cases h
    exact ⟨cleanIn_inTier clean, SamePage.refl _⟩
  · split at h
    · next f hf =>
      cases h
      exact ⟨Option.isSome_iff_exists.mpr ⟨f, hf⟩, SamePage.refl _⟩
    · obtain ⟨f, -, hq⟩ := Option.map_eq_some_iff.mp h
      cases hq
      exact ⟨rfl, SamePage.refl _⟩

/-! ### A move (R107) -/

theorem movePage_host (h : movePage s p tHost = some (t, q)) : q.host.isSome = true ∧ q.stack = none ∧ SamePage p q := by
  obtain ⟨⟨u, x⟩, hc, hq⟩ := Option.map_eq_some_iff.mp h
  obtain ⟨host, -, -, -, same⟩ := copyInto_host hc
  cases hq
  exact ⟨host, rfl, same⟩

theorem movePage_stacks (h : movePage s p tStacks = some (t, q)) : q.stack.isSome = true ∧ SamePage p q := by
  obtain ⟨⟨u, x⟩, hc, hq⟩ := Option.map_eq_some_iff.mp h
  obtain ⟨stack, same⟩ := copyInto_stacks hc
  cases hq
  exact ⟨stack, same⟩

/-! ### Vacating the stacks (R118) -/

/-- The lower tiers in which a page has a clean copy, as vacating the stacks looks for them. -/
def cleanBelow (p : Page) : List Nat := [tStacks, tHost, tFlash].filter (fun u => u != tStacks && p.cleanIn u)

theorem cleanBelow_lower {p : Page} (h : cleanBelow p ≠ []) : p.host.isSome = true ∨ p.flash.isSome = true := by
  obtain ⟨u, hu⟩ := List.exists_mem_of_ne_nil _ h
  obtain ⟨-, hc⟩ := List.mem_filter.mp hu
  obtain ⟨hn, hc⟩ := Bool.and_eq_true_iff.mp hc
  exact inTier_lower (cleanIn_inTier hc) (bne_iff_ne.mp hn)

/-- A page vacated from the stacks has no stacks copy; where its newest copy exists and host memory is the next tier, another copy stays. -/
theorem vacateOne_stacks (h : vacateOne tStacks s p = some (t, q)) (hk : p.kind ≠ .staged) (hs : p.stack.isSome = true) (hn : p.inTier p.newest = true)
    (hl : lowerTier s tStacks = some tHost) : q.stack = none ∧ (q.host.isSome = true ∨ q.flash.isSome = true) ∧ SamePage p q := by
  unfold vacateOne at h
  rw [inTier_stacks, if_neg (ne_false_of_eq_true hs), if_neg hk, hl] at h
  dsimp only at h
  split at h
  · next kept =>
    have lower : p.host.isSome = true ∨ p.flash.isSome = true := by
      rcases kept with newest | clean
      · exact inTier_lower hn newest
      · refine cleanBelow_lower (p := p) (fun hc => ?_)
        rw [cleanBelow] at hc
        rw [hc] at clean
        exact Bool.false_ne_true clean
    cases h
    exact ⟨rfl, lower, SamePage.refl _⟩
  · obtain ⟨⟨u, x⟩, hc, hq⟩ := Option.map_eq_some_iff.mp h
    obtain ⟨host, -, -, -, same⟩ := copyInto_host hc
    cases hq
    exact ⟨rfl, .inl host, same⟩
end

/-- Settles O10, by the lemma of each transfer. -/
theorem pageTransferOperations : Obligations.PageTransferOperations := by
  unfold Obligations.PageTransferOperations
  refine ⟨fun s t p q h => movePage_host h, fun s t p q h => movePage_stacks h, fun s t p q h => copyInto_host h, fun s t p q h hk hs hn hl => vacateOne_stacks h hk hs hn hl, ?row⟩
  case row =>
    intro p slot bs
    refine ⟨Tbl.find_set_self _ _ _, fun j hj => ?_, rfl, rfl, rfl, rfl⟩
    exact (Tbl.find_set _ _ _ _).trans (if_neg hj.symm)

end Sys2Proof.Machine
end

section
/-!
PROOF. What the rows below share: what firmware's rows come to, the best element of a list by a measure, and what a change passes over.
-/

namespace Sys2Proof.Machine

open Sys2Proof

/-! ### What firmware's rows do, by what their work comes to -/

section
variable {s k u : State}

theorem awake_leads (h : s.halted = false) (hp : paused s = false) (hk : k = u) : awake s k = .next (retag s u) := hk ▸ awake_running s k h hp

theorem awake_leads_plain (h : s.halted = false) (hp : paused s = false) (hk : k = u) (h1 : u.pages = s.pages) (h2 : u.dev = s.dev) (h3 : u.models = s.models) :
    awake s k = .next u := by
  rw [awake_leads h hp hk, retag_same s u h1 h2 h3]

theorem awake_unchanged (h : s.halted = false) (hp : paused s = false) (hk : k = s) : awake s k = .next s := awake_leads_plain h hp hk rfl rfl rfl
end

/-! ### The best element of a list -/

section
variable {α : Type} (better : α → α → Prop) [DecidableRel better]

/-- The better of what was found before and the next element: the first found, unless the next one is better. -/
def pickBest (b : Option α) (x : α) : Option α :=
  match b with
  | none => some x
  | some y => if better y x then some x else b

variable {better} (m : α → Nat) (hb : ∀ y x, better y x → m y ≤ m x) (hn : ∀ y x, ¬ better y x → m x ≤ m y)
include hb hn

/-- What such a search ends with is what it began with or one of the list, and none of them has a higher measure. -/
theorem foldl_pickBest {l : List α} {b : Option α} {c : α} (h : l.foldl (pickBest better) b = some c) :
    (b = some c ∨ c ∈ l) ∧ (∀ d, b = some d → m d ≤ m c) ∧ ∀ d ∈ l, m d ≤ m c := by
  induction l generalizing b with
  | nil =>
    rw [List.foldl_nil] at h
    exact ⟨.inl h, fun d hd => Nat.le_of_eq (congrArg m (Option.some.inj (hd.symm.trans h))), fun d hd => absurd hd List.not_mem_nil⟩
  | cons e l ih =>
    obtain ⟨found, least, rest⟩ := ih h
    have pick : (pickBest better b e = b ∨ pickBest better b e = some e) ∧ (∀ d, b = some d → m d ≤ m c) ∧ m e ≤ m c := by
      cases b with
      | none => exact ⟨.inr rfl, fun d hd => absurd hd.symm (Option.some_ne_none d), least e rfl⟩
      | some y =>
        by_cases hy : better y e
        · have taken : pickBest better (some y) e = some e := if_pos hy
          have he := least e taken
          exact ⟨.inr taken, fun d hd => Option.some.inj hd ▸ (hb y e hy).trans he, he⟩
        · have kept : pickBest better (some y) e = some y := if_neg hy
          have hc := least y kept
          exact ⟨.inl kept, fun d hd => Option.some.inj hd ▸ hc, (hn y e hy).trans hc⟩
    obtain ⟨which, first, second⟩ := pick
    refine ⟨?_, first, fun d hd => ?_⟩
    · rcases found with found | found
      · rcases which with which | which
        · exact .inl (which.symm.trans found)
        · exact .inr (Option.some.inj (which.symm.trans found) ▸ List.mem_cons_self)
      · exact .inr (List.mem_cons_of_mem _ found)
    · rcases List.mem_cons.mp hd with rfl | hd
      · exact second
      · exact rest d hd

theorem foldl_pickBest_none {l : List α} {c : α} (h : l.foldl (pickBest better) none = some c) : c ∈ l ∧ ∀ d ∈ l, m d ≤ m c := by
  obtain ⟨found, -, best⟩ := foldl_pickBest m hb hn h
  exact ⟨found.resolve_left (Option.some_ne_none c).symm, best⟩
end

/-- An element that a change passes over is still there. -/
theorem mem_mapIf_of_not {α : Type} {p : α → Bool} {f : α → α} {l : List α} {a : α} (ha : a ∈ l) (hp : p a = false) : a ∈ mapIf p f l :=
  List.mem_map.mpr ⟨a, ha, if_neg (ne_true_of_eq_false hp)⟩

end Sys2Proof.Machine
end

section
/-!
PROOF. Arbitration at the home (R229 to R231): the messages of the sides, the expiry of a hold, the ruling and what it comes to.
-/

namespace Sys2Proof.Machine

open Sys2Proof

theorem exec_ask (h : Hdr) (x : Handle) (epoch : Nat) (complete : Bool) (side : Nat) (reply : Bool) (entries : List PageEntry) (s : State) :
    exec (.ask h x epoch complete side reply entries) s = execAsk h x epoch complete side reply entries s := rfl
theorem exec_hold (h : Hdr) (x : Handle) (epoch : Nat) (s : State) : exec (.hold h x epoch) s = execHold h x epoch s := rfl
theorem exec_arbiterHoldExpiry (x : Handle) (d : Nat) (s : State) : exec (.arbiterHoldExpiry x d) s = execArbiterHoldExpiry x d s := rfl
theorem exec_arbiterRule (x : Handle) (s : State) : exec (.arbiterRule x) s = execArbiterRule x s := rfl
theorem exec_ruling (h : Hdr) (x : Handle) (epoch owner code : Nat) (s : State) : exec (.ruling h x epoch owner code) s = execRuling h x epoch owner code s := rfl

/-! ### Messages of the sides (R229, R231) -/

section
variable {s : State} {h : Hdr} (x : Handle) (epoch : Nat)

theorem handled_ask_answer (complete : Bool) (side : Nat) (entries : List PageEntry) :
    let c : CopyStatus := { device := h.src, side := side, complete := complete, epoch := epoch, entries := entries }
    Handled (.ask h x epoch complete side true entries) s h (modHome (asHome (arrive s h).1 x) x (fun r => { r with arb := r.arb.map (fun a => { a with
      statuses := a.statuses.filter (fun y => !(y.device == h.src)) ++ [c], held := a.held.filter (fun d => d != h.src) }) })) :=
  handled_of (exec_ask h x epoch complete side true entries s) rfl

theorem handled_ask_served (complete : Bool) (side : Nat) (entries : List PageEntry) :
    Handled (.ask h x epoch complete side false entries) s h
      (startArb (asHome (arrive s h).1 x) x { device := h.src, side := side, complete := complete, epoch := epoch, entries := entries }) :=
  handled_of (exec_ask h x epoch complete side false entries s) rfl

theorem handled_hold_no_copy (hc : findCopy s x = none) : Handled (.hold h x epoch) s h (control (arrive s h).1 h.src x (.ask 0 false 0 true [])) := by
  have row : exec (.hold h x epoch) s = delivered s h (fun u => control u h.src x (.ask 0 false 0 true [])) := by
    rw [exec_hold, execHold]
    simp only [hc, sideStatus]
  exact handled_of row rfl

theorem handled_ruling (owner code : Nat) : Handled (.ruling h x epoch owner code) s h (rulingAtSide (arrive s h).1 x epoch owner code) :=
  handled_of (by rw [exec_ruling, execRuling]) rfl
end

/-! ### The expiry of a hold and the moment of ruling (R229, R134) -/

section
variable {s : State} {x : Handle} {r : HomeRec} {a : Arbiter}
variable (hh : s.halted = false) (hp : paused s = false)
include hh hp

theorem execArbiterHoldExpiry_running (x : Handle) (d : Nat) : exec (.arbiterHoldExpiry x d) s =
    .next (modHome s x (fun r => { r with arb := r.arb.map (fun a => if s.now < a.due then a else { a with held := a.held.filter (fun y => y != d) }) })) := by
  rw [exec_arbiterHoldExpiry, execArbiterHoldExpiry]
  exact awake_leads_plain hh hp rfl rfl rfl rfl

variable (hr : findHome s x = some r) (ha : r.arb = some a)
include hr ha

/-- Nothing is ruled while updates of the record are queued or a side is held. -/
theorem execArbiterRule_waits (hw : r.queue ≠ [] ∨ (a.ask.isSome = true ∧ a.held ≠ [])) : exec (.arbiterRule x) s = .next s := by
  rw [exec_arbiterRule, execArbiterRule]
  refine awake_unchanged hh hp ?_
  simp only [hr, ha]
  rcases hw with hq | ⟨hs, hd⟩
  · rw [if_pos (by simpa using hq)]
  · obtain ⟨c, hc⟩ := Option.isSome_iff_exists.mp hs
    have held : (!a.held.isEmpty) = true := by simpa using hd
    simp only [hc, held, ↓reduceIte, ite_self]

variable (hq : r.queue = [])
include hq

/-- With no hold left the home rules, and the ASK is no longer the one served. -/
theorem execArbiterRule_rules {c : CopyStatus} (hc : a.ask = some c) (hd : a.held = []) :
    exec (.arbiterRule x) s = .next (retag s (
      let s1 := modHome s x (fun r => { r with arb := if a.asks.isEmpty then none else some { a with ask := none } })
      if c.side = 2 then ruleAssert s1 x r a c else rule s1 x r a)) := by
  rw [exec_arbiterRule, execArbiterRule]
  refine awake_leads hh hp ?_
  simp only [hr, ha, hq, hc, hd, List.isEmpty_nil, Bool.not_true, Bool.false_eq_true, ↓reduceIte]

theorem execArbiterRule_serves {c : CopyStatus} {l : List CopyStatus} (hc : a.ask = none) (hl : a.asks = c :: l) :
    exec (.arbiterRule x) s = .next (retag s (serveAsk s x r c l)) := by
  rw [exec_arbiterRule, execArbiterRule]
  refine awake_leads hh hp ?_
  simp only [hr, ha, hq, hc, hl, List.isEmpty_nil, Bool.not_true, Bool.false_eq_true, ↓reduceIte]
end

/-! ### An ASK at the home (R229) -/

section
variable {s : State} {x : Handle} {r : HomeRec} (c : CopyStatus)

theorem startArb_first (hr : findHome s x = some r) (ha : r.arb = none) : startArb s x c = serveAsk s x r c [] := by
  simp only [startArb, hr, ha]

theorem startArb_later {a : Arbiter} (hr : findHome s x = some r) (ha : r.arb = some a) :
    startArb s x c = modHome s x (fun r => { r with arb := some { a with
      asks := a.asks ++ [c], statuses := a.statuses.filter (fun y => !(y.device == c.device)) ++ [c], held := a.held.filter (fun d => d != c.device) } }) := by
  simp only [startArb, hr, ha]

variable {c}

theorem arbSides_owner (ho : r.desc.owner = c.device) (ht : r.desc.target = noDevice) : arbSides r c = [c.device] := by
  simp [arbSides, ho, ht]

/-- An ASK of the owner outside a castle holds no other side. -/
theorem serveAsk_owner (ho : r.desc.owner = c.device) (ht : r.desc.target = noDevice) :
    serveAsk s x r c [] = modHome (homeUpdate s x (.setState 3 noDevice 0) .none) x (fun y => { y with arb := some {
      ask := some c, prior := (r.desc.state, r.desc.target, r.castleComp), sides := [c.device], asks := [], statuses := [c], held := [], due := s.now + castleTo s } }) := by
  simp [serveAsk, arbSides_owner ho ht]
end

/-! ### The ruling (R230) -/

/-- The recorded owner has reported a complete copy at the record's epoch, or one below it. -/
def ownerKeeps (r : HomeRec) (a : Arbiter) : Bool :=
  a.statuses.any (fun c => c.device == r.desc.owner && c.complete && (c.epoch == r.desc.epoch || c.epoch + 1 == r.desc.epoch))

section
variable (s : State) (x : Handle) {r : HomeRec} {a : Arbiter}

theorem rule_keeps (ho : ownerKeeps r a = true) :
    rule s x r a = homeUpdate (countRuling s false) x (.ruling r.desc.owner r.desc.epoch none)
      (.ruled r.desc.owner r.desc.epoch ((a.sides.filter (fun d => d == self s || present s d)).map (fun d => (d, Code.ownStalemateResolved)))) := if_pos ho

variable (ho : ownerKeeps r a = false)
include ho

theorem rule_newest {c : CopyStatus} (hc : newestCopy (a.statuses.filter (fun c => c.device != r.desc.owner)) = some c) :
    rule s x r a = homeUpdate (countRuling s false) x (.ruling c.device (r.desc.epoch + 1) (some c.entries))
      (.ruled c.device (r.desc.epoch + 1) ((a.sides.filter (fun d => d == self s || present s d)).map (fun d => (d, Code.ownStalemateResolved)))) := by
  refine (if_neg (ne_true_of_eq_false ho)).trans ?_
  rw [hc]

theorem rule_lost (hc : newestCopy (a.statuses.filter (fun c => c.device != r.desc.owner)) = none) :
    rule s x r a = ruleLost s x (a.sides.filter (fun d => d == self s || present s d)) := by
  refine (if_neg (ne_true_of_eq_false ho)).trans ?_
  rw [hc]
end

theorem newestCopy_eq (l : List CopyStatus) : newestCopy l = (l.filter (·.complete)).foldl (pickBest (fun x c : CopyStatus => x.epoch < c.epoch)) none := by
  unfold newestCopy
  congr 1
  funext b c
  cases b <;> rfl

theorem newestCopy_some {l : List CopyStatus} {c : CopyStatus} (h : newestCopy l = some c) : c ∈ l ∧ c.complete = true ∧ ∀ d ∈ l, d.complete = true → d.epoch ≤ c.epoch := by
  rw [newestCopy_eq] at h
  obtain ⟨mem, newest⟩ := foldl_pickBest_none CopyStatus.epoch (fun _ _ hb => Nat.le_of_lt hb) (fun _ _ hb => Nat.not_lt.mp hb) h
  obtain ⟨mem, complete⟩ := List.mem_filter.mp mem
  exact ⟨mem, complete, fun d hd hc => newest d (List.mem_filter.mpr ⟨hd, hc⟩)⟩

/-- Settles O21, by the lemma of each message, of the moment of ruling, and of each ruling. -/
theorem arbitrationRows : Obligations.ArbitrationRows := by
  unfold Obligations.ArbitrationRows
  refine ⟨fun s h x => ⟨fun epoch complete side entries => ⟨handled_ask_answer x epoch complete side entries, handled_ask_served x epoch complete side entries⟩,
      fun epoch hc => handled_hold_no_copy x epoch hc, fun epoch owner code => handled_ruling x epoch owner code⟩,
    fun s x d hh hp => execArbiterHoldExpiry_running hh hp x d, fun s x r a hh hp hr ha => ⟨execArbiterRule_waits hh hp hr ha, fun c hc hd hq => ?rules, ?serves⟩,
    fun s x r c hr => ⟨startArb_first c hr, fun a ha => startArb_later c hr ha, serveAsk_owner⟩,
    fun s x r a => ⟨rule_keeps s x, fun c ho hc => rule_newest s x ho hc, rule_lost s x⟩, fun l c h => newestCopy_some h⟩
  case rules =>
    have row := execArbiterRule_rules hh hp hr ha hq hc hd
    exact ⟨fun hs => row.trans (congrArg (fun k => Host.Outcome.next (retag s k)) (if_neg hs)), fun hs => row.trans (congrArg (fun k => Host.Outcome.next (retag s k)) (if_pos hs))⟩
  case serves => exact fun c l hc hq hl => execArbiterRule_serves hh hp hr ha hq hc hl

end Sys2Proof.Machine
end

section
/-!
PROOF. The tree of nodes: how nodes enter, are looked up, conflict, are referred to, retire and are mirrored (R131, R382 to R387, R497).
-/

namespace Sys2Proof.Machine

open Sys2Proof

theorem exec_retire (h : Hdr) (x : Handle) (s : State) : exec (.retire h x) s = execRetire h x s := rfl
theorem exec_tree (h : Hdr) (x : Handle) (kind : Nat) (commit : Option NodeCommit) (change : Int) (s : State) :
    exec (.tree h x kind commit change) s = execTree h x kind commit change s := rfl
theorem exec_treeAck (h : Hdr) (x : Handle) (code : Nat) (s : State) : exec (.treeAck h x code) s = execTreeAck h x code s := rfl
theorem exec_nodeRetirement (x : Handle) (s : State) : exec (.nodeRetirement x) s = execNodeRetirement x s := rfl

/-! ### Entering a node (R131, R382) -/

section
variable (s : State) (comp : Nat) (h : Handle) (c : NodeCommit)

/-- The node that a commit enters. -/
def enteredNode : TreeNode :=
  { handle := h, comp := comp, parent := c.parent, digests := c.digests, version := 1, holders := c.holders, shardBlocks := c.shardBlocks, refs := 0,
    freeSince := s.now, drafts := 0, seqNo := (enterNode s comp h c).2 }

/-- The tree without the new node: the parent has one draft child less and the next version. -/
def parentRaised : List TreeNode :=
  mapIf (fun x => x.handle == c.parent) (fun x => { x with version := (enterNode s comp h c).2 }) (countDraft s c.parent (-1)).rgn.tree

theorem enterNode_tree : (enterNode s comp h c).1.rgn.tree = parentRaised s comp h c ++ [enteredNode s comp h c] := rfl

theorem enterNode_rootVersion : (enterNode s comp h c).1.rgn.rootVersion =
    if c.parent = nullHandle then s.rgn.rootVersion.set comp (enterNode s comp h c).2 else s.rgn.rootVersion := rfl

theorem enterNode_keeps : (enterNode s comp h c).1.pages = s.pages ∧ (enterNode s comp h c).1.dev = s.dev ∧ (enterNode s comp h c).1.host = s.host ∧
    (enterNode s comp h c).1.own = s.own := ⟨rfl, rfl, rfl, rfl⟩

/-- A node that is not the parent stays as it is. -/
theorem mem_enterNode_of_ne {n : TreeNode} (hn : n ∈ s.rgn.tree) (hp : n.handle ≠ c.parent) : n ∈ (enterNode s comp h c).1.rgn.tree := by
  have other : (n.handle == c.parent) = false := beq_false_of_ne hp
  rw [enterNode_tree]
  exact List.mem_append_left _ (mem_mapIf_of_not (mem_mapIf_of_not hn other) other)

theorem rootVersionOf_enterNode_ne {i : Nat} (hi : i ≠ comp) : rootVersionOf (enterNode s comp h c).1 i = rootVersionOf s i := by
  unfold rootVersionOf
  rw [enterNode_rootVersion]
  split
  · exact Tbl.get_set_ne _ _ _ _ _ hi.symm
  · rfl

variable {s c}

/-- A node entered at the root takes the root's next version as its sequence. -/
theorem enterNode_at_root (hp : c.parent = nullHandle) (ht : ∀ n ∈ s.rgn.tree, n.handle ≠ nullHandle) :
    (enterNode s comp h c).2 = rootVersionOf s comp + 1 ∧ rootVersionOf (enterNode s comp h c).1 comp = (enterNode s comp h c).2 := by
  have none_there : findNode s c.parent = none := List.find?_eq_none.mpr (fun n hn => by rw [hp, beq_iff_eq]; exact ht n hn)
  refine ⟨?_, ?_⟩
  · simp only [enterNode, none_there]
  · rw [rootVersionOf, enterNode_rootVersion, if_pos hp, Tbl.get_set_self]
end

/-! ### Lookup and conflict (R383, R385) -/

theorem childFits_iff (digests : List Nat) (n : TreeNode) : childFits digests n = true ↔ n.digests ≠ [] ∧ n.digests <+: digests := by
  rw [childFits, Bool.and_eq_true, Bool.not_eq_true', List.isEmpty_eq_false_iff, beq_iff_eq, List.prefix_iff_eq_take]

/-- The child that a lookup takes is the best by length, then by sequence (R383). -/
theorem bestChild_eq (s : State) (comp : Nat) (parent : Handle) (digests : List Nat) : bestChild s comp parent digests =
    (s.rgn.tree.filter (fun n => n.comp == comp && n.parent == parent && childFits digests n)).foldl
      (pickBest (fun x n : TreeNode => x.digests.length < n.digests.length ∨ (x.digests.length = n.digests.length ∧ x.seqNo < n.seqNo))) none := by
  unfold bestChild
  congr 1
  funext b n
  cases b <;> rfl

theorem bestChild_some {s : State} {comp : Nat} {parent : Handle} {digests : List Nat} {n : TreeNode} (h : bestChild s comp parent digests = some n) :
    n ∈ s.rgn.tree ∧ n.comp = comp ∧ n.parent = parent ∧ n.digests ≠ [] ∧ n.digests <+: digests ∧
      ∀ k ∈ s.rgn.tree, k.comp = comp → k.parent = parent → k.digests ≠ [] → k.digests <+: digests → k.digests.length ≤ n.digests.length := by
  have candidate (k : TreeNode) : k ∈ s.rgn.tree.filter (fun n => n.comp == comp && n.parent == parent && childFits digests n) ↔
      k ∈ s.rgn.tree ∧ (k.comp = comp ∧ k.parent = parent) ∧ k.digests ≠ [] ∧ k.digests <+: digests := by
    rw [List.mem_filter, Bool.and_eq_true, Bool.and_eq_true, beq_iff_eq, beq_iff_eq, childFits_iff]
  rw [bestChild_eq] at h
  obtain ⟨mem, longest⟩ := foldl_pickBest_none (fun k : TreeNode => k.digests.length) (by omega) (by omega) h
  obtain ⟨mem, ⟨hc, hp⟩, hd, hx⟩ := (candidate n).mp mem
  exact ⟨mem, hc, hp, hd, hx, fun k hk h1 h2 h3 h4 => longest k ((candidate k).mpr ⟨hk, ⟨h1, h2⟩, h3, h4⟩)⟩

theorem commitConflict_iff (s : State) (comp : Nat) (c : NodeCommit) : commitConflict s comp c = true ↔
    (∃ n ∈ s.rgn.tree, n.comp = comp ∧ n.parent = c.parent ∧ c.baseVersion < n.seqNo ∧ n.digests.head? = c.digests.head?) ∨
    (∃ w ∈ s.rgn.treeWaits, w.comp = comp ∧ ∃ k, w.commit = some k ∧ k.parent = c.parent ∧ k.digests.head? = c.digests.head?) := by
  simp only [commitConflict, Bool.or_eq_true, List.any_eq_true, Bool.and_eq_true, beq_iff_eq, decide_eq_true_eq, Option.any_eq_true, and_assoc]

/-! ### References (R386, R497) -/

theorem tellTree_fab (s : State) (comp : Nat) (node : Handle) (kind : Nat) (c : Option NodeCommit) (change : Int) : OnlyFab s (tellTree s comp node kind c change) := by
  unfold tellTree
  split
  · split
    · exact control_fab _ _ _ _
    · exact OnlyFab.refl s
  · exact OnlyFab.refl s

/-- A change of references is what the node has afterwards, and the time of the change. -/
theorem findNode_refNode {s : State} {h : Handle} {n : TreeNode} (hn : findNode s h = some n) (change : Int) :
    findNode (refNode s h change) h = some { n with refs := ((n.refs : Int) + change).toNat, freeSince := s.now } := by
  simp only [refNode, hn]
  rw [findNode, (tellTree_fab _ _ _ _ _ _).rgn]
  refine (find?_mapIf _ _ _ ?_).trans ?_
  · exact fun _ hx => hx
  · rw [← findNode, hn, Option.map_some]

/-- A reference more and then one less leaves the count as it was. -/
theorem refNode_up_down {s : State} {h : Handle} {n : TreeNode} (hn : findNode s h = some n) :
    (findNode (refNode (refNode s h 1) h (-1)) h).map (·.refs) = some n.refs := by
  rw [findNode_refNode (findNode_refNode hn 1) (-1), Option.map_some]
  congr 1
  dsimp only
  omega

/-! ### Retirement at a holder, the mirrored tree and the commits that wait for the partner (R385, R386, R497) -/

section
variable {s : State} {h : Hdr} (x : Handle)

theorem findHold_dropVersion (u : State) : findHold (dropVersion u x) x = none := by
  refine List.find?_eq_none.mpr (fun n hn => ?_)
  simpa using (List.mem_filter.mp hn).2

/-- The state after RETIRE: the version, its hold and its draft are gone. -/
def retired (u : State) (x : Handle) : State :=
  { dropVersion u x with rgn := { (dropVersion u x).rgn with drafts := u.rgn.drafts.filter (fun d => !(d.handle == x)) } }

theorem handled_retire : Handled (.retire h x) s h (retired (arrive s h).1 x) := handled_of (exec_retire h x s) rfl

theorem handled_tree_retirement (commit : Option NodeCommit) (change : Int) : Handled (.tree h x 2 commit change) s h
    (control { (arrive s h).1 with rgn := { (arrive s h).1.rgn with mirrorTree := s.rgn.mirrorTree.filter (fun n => !(n.handle == x)) } } h.src x (.treeAck 0)) :=
  handled_of (exec_tree h x 2 commit change s) rfl

variable {x}

theorem handled_treeAck_enters {w : TreeWait} {c : NodeCommit} (hw : (arrive s h).1.rgn.treeWaits.find? (fun w => w.node == x) = some w) (hc : w.commit = some c)
    (ha : w.answer ≠ self (arrive s h).1) :
    let y := enterNode { (arrive s h).1 with rgn := { (arrive s h).1.rgn with treeWaits := (arrive s h).1.rgn.treeWaits.erase w } } w.comp x c
    Handled (.treeAck h x 0) s h (control y.1 w.answer x (.indexCommitted 0 y.2)) := by
  refine handled_of (by rw [exec_treeAck, execTreeAck]) ?_
  simp only [hw, hc]
  exact if_neg ha
end

/-! ### NODE_RETIREMENT at the index (R387) -/

/-- The retention time of unreferenced nodes, in seconds; 0 keeps them. -/
def retention (s : State) : Nat := fieldOf (s.regs.get 0x0E10 0x608008) 15 0

section
variable {s : State} {x : Handle} {n : TreeNode} (hh : s.halted = false) (hp : paused s = false) (hn : findNode s x = some n)
include hh hp hn

theorem execNodeRetirement_keeps (hk : n.refs ≠ 0 ∨ retention s = 0 ∨ s.now < n.freeSince + retention s * 1000000 ∨ n.drafts ≠ 0) :
    exec (.nodeRetirement x) s = .next s := by
  rw [exec_nodeRetirement, execNodeRetirement]
  refine awake_unchanged hh hp ?_
  rw [hn]
  refine if_neg ?_
  rintro ⟨hr, ht, hd, hc, -⟩
  rcases hk with hk | hk | hk | hk
  · exact hk hr
  · exact ht hk
  · exact Nat.not_lt.mpr hd hk
  · exact hk hc

theorem execNodeRetirement_retires (hr : n.refs = 0) (ht : retention s ≠ 0) (hd : n.freeSince + retention s * 1000000 ≤ s.now) (hc : n.drafts = 0)
    (hl : s.rgn.tree.any (fun y => y.parent == x) = false) (hf : s.rgn.drafts.any (fun d => d.parent == x) = false) :
    exec (.nodeRetirement x) s = .next (retag s (retireNode s n)) := by
  rw [exec_nodeRetirement, execNodeRetirement]
  refine awake_leads hh hp ?_
  rw [hn]
  exact if_pos ⟨hr, ht, hd, hc, congrArg (!·) hl, congrArg (!·) hf⟩
end

/-- Settles O26, by the lemmas of entering, lookup, conflict and references and the lemma of each row. -/
theorem indexTree : Obligations.IndexTree := by
  unfold Obligations.IndexTree
  refine ⟨fun s comp h c => ?enter, fun s comp parent digests n hn => bestChild_some hn, commitConflict_iff, fun s h n hn => refNode_up_down hn, fun s h x => ?messages,
    fun s x n hh hp hn => ⟨execNodeRetirement_keeps hh hp hn, execNodeRetirement_retires hh hp hn⟩⟩
  case enter =>
    refine ⟨⟨enteredNode s comp h c, List.mem_append_right _ (List.mem_singleton_self _), rfl, rfl, rfl, rfl, rfl, rfl, rfl⟩, fun hp ht => enterNode_at_root comp h hp ht,
      fun n hn hp => mem_enterNode_of_ne s comp h c hn hp, fun i hi => rootVersionOf_enterNode_ne s comp h c hi, enterNode_keeps s comp h c⟩
  case messages =>
    refine ⟨⟨_, handled_retire x, rfl, findHold_dropVersion x _, find?_removed _ x⟩, fun commit change => ⟨_, handled_tree_retirement x commit change, rfl, rfl⟩,
      fun w c hw hc ha => handled_treeAck_enters hw hc ha⟩

end Sys2Proof.Machine
end

section
/-!
PROOF. PMOVE, PCOPY and PEVICT in vacate form: what a started one does by what it finds (R107 to R111, R118).
-/

namespace Sys2Proof.Machine

open Sys2Proof

theorem exec_pmove (id : Nat) (s : State) : exec (.pmove id) s = execPmove id s := rfl
theorem exec_pcopy (id : Nat) (s : State) : exec (.pcopy id) s = execPcopy id s := rfl
theorem exec_pevictVacate (id : Nat) (s : State) : exec (.pevictVacate id) s = execPevictVacate id s := rfl

/-- A transfer to another tier than flash goes on at once. -/
theorem viaFlash_other {dest : Nat} (s : State) (id : Nat) (ps : List Page) (k : State → State) (h : dest ≠ tFlash) : viaFlash s id dest ps k = k s := if_pos h

section
variable {s : State} {id : Nat} {r : Running}

/-- The row of a started instruction that has to wait there. -/
theorem runOp_waits {is : Entry → Bool} {f : Running → State} (h : Begun s id r) (his : is r.ent = true) (hf : f r = s) : runOp s id is f = .next s := by
  rw [runOp_eq h his hf, retag_self]

/-- The pages that the instruction covers. -/
def coveredBy (s : State) (r : Running) : List Page := covered s r.ent.a (spanOf r.ent.b)

/-- A page among some is pinned (R107, R118). -/
def anyPinned (ps : List Page) : Bool := ps.any (fun p => decide (0 < p.pin))

/-- The pages have no descriptor issued (R280). -/
def Unused (s : State) (ps : List Page) : Prop := ps.any (fun p => pageBusy s p.number) = false

/-- Only a move down is refused for a pin. -/
theorem pmove_allowed {t : Nat} {ps : List Page} (hp : t = tStacks ∨ anyPinned ps = false) : ¬ (t ≠ tStacks ∧ anyPinned ps = true) := by
  rintro ⟨ht, hy⟩
  rcases hp with hp | hp
  · exact ht hp
  · exact Bool.eq_false_iff.mp hp hy

/-- The entry is a PEVICT in vacate form. -/
theorem isVacate (ho : r.ent.opcode = opPevict) (hf : r.ent.flag 4 = false) : (r.ent.opcode == opPevict && !r.ent.flag 4) = true := by
  rw [isOp ho, hf]
  rfl

section
variable (hb : Begun s id r)
include hb

/-! ### PMOVE (R107, R109) -/

section
variable (ho : r.ent.opcode = opPmove)
include ho

theorem execPmove_pinned (ht : r.ent.c ≠ tStacks) (hp : anyPinned (coveredBy s r) = true) : exec (.pmove id) s = .next (finish s id Code.tzRights) := by
  rw [exec_pmove, execPmove]
  exact runOp_ends hb (isOp ho) (if_pos ⟨ht, hp⟩)

theorem execPmove_refetch (hp : r.ent.c = tStacks ∨ anyPinned (coveredBy s r) = false) (ha : (coveredBy s r).any awaited = true) : exec (.pmove id) s = .next s := by
  have waits : (coveredBy s r).any (fun p => pageBusy s p.number || awaited p) = true := by
    obtain ⟨p, hm, hw⟩ := List.any_eq_true.mp ha
    exact List.any_eq_true.mpr ⟨p, hm, Bool.or_eq_true_iff.mpr (.inr hw)⟩
  rw [exec_pmove, execPmove]
  exact runOp_waits hb (isOp ho) ((if_neg (pmove_allowed hp)).trans (if_pos waits))

theorem execPmove_moves (hu : Unused s (coveredBy s r)) (ha : (coveredBy s r).any awaited = false)
    (hp : r.ent.c = tStacks ∨ (r.ent.c = tHost ∧ anyPinned (coveredBy s r) = false)) :
    let ps := coveredBy s r
    let h := objectOf s r.ent.a
    exec (.pmove id) s = .next (retag s (
      recordThen (maybeResume (shortOn (movePages (moveOne r.ent.c ps) s ps)) h) id h ps (movePages (moveOne r.ent.c ps) s ps).2)) := by
  have goes : ¬ (coveredBy s r).any (fun p => pageBusy s p.number || awaited p) = true := by
    rw [List.any_eq_true]
    rintro ⟨p, hm, hw⟩
    rcases Bool.or_eq_true_iff.mp hw with hw | hw
    · exact List.any_eq_false.mp hu p hm hw
    · exact List.any_eq_false.mp ha p hm hw
  have above : r.ent.c ≠ tFlash := by
    rcases hp with hp | ⟨hp, -⟩
    · rw [hp]; decide
    · rw [hp]; decide
  rw [exec_pmove, execPmove]
  exact runOp_eq hb (isOp ho) ((if_neg (pmove_allowed (hp.imp_right And.right))).trans ((if_neg goes).trans (viaFlash_other s id _ _ above)))
end

/-! ### PCOPY (R110, R111) -/

section
variable (ho : r.ent.opcode = opPcopy)
include ho

theorem execPcopy_refetch (hq : hCls r.ent.a = clsSeq) (ha : (coveredBy s r).any awaited = true) : exec (.pcopy id) s = .next s := by
  have here : (hCls r.ent.a == clsSeq) = true := beq_iff_eq.mpr hq
  rw [exec_pcopy, execPcopy]
  refine runOp_waits hb (isOp ho) ?_
  dsimp only
  rw [here, Bool.true_or, if_pos rfl]
  exact if_pos ha

theorem execPcopy_copies (hq : hCls r.ent.a = clsSeq) (ha : (coveredBy s r).any awaited = false) (hd : r.ent.c / 2 ^ 16 ≠ tFlash) :
    let ps := coveredBy s r
    let copied := movePages (fun s p => copyInto s p (r.ent.c / 2 ^ 16)) s ps
    exec (.pcopy id) s = .next (retag s (recordThen copied.1 id (objectOf s r.ent.a) ps copied.2)) := by
  have here : (hCls r.ent.a == clsSeq) = true := beq_iff_eq.mpr hq
  rw [exec_pcopy, execPcopy]
  refine runOp_eq hb (isOp ho) ?_
  dsimp only
  rw [here, Bool.true_or, if_pos rfl]
  exact (if_neg (ne_true_of_eq_false ha)).trans (viaFlash_other s id _ _ hd)

section
variable (hq : hCls r.ent.a ≠ clsSeq) (hc : s.pers ≠ some .cache)
include hq hc

theorem execPcopy_staged {map : ShardMap} (hm : s.rgn.maps.find? (fun m => m.node == r.ent.a) = some map) :
    exec (.pcopy id) s = .next (retag s (startStage s r map)) := by
  rw [exec_pcopy, execPcopy]
  refine runOp_eq hb (isOp ho) ?_
  simp only [beq_false_of_ne hq, beq_false_of_ne hc, Bool.false_and, Bool.or_self, Bool.false_eq_true, hm, ↓reduceIte]

/-- Without a shard map the node's home is asked for it. -/
theorem execPcopy_asks {t : State} (hm : s.rgn.maps.find? (fun m => m.node == r.ent.a) = none)
    (hs : sendTo s (hHome r.ent.a) 1 r.ent.a .shardMapReq (some id) = .ok t) : exec (.pcopy id) s = .next (retag s (await t id)) := by
  rw [exec_pcopy, execPcopy]
  refine runOp_eq hb (isOp ho) ?_
  simp only [beq_false_of_ne hq, beq_false_of_ne hc, Bool.false_and, Bool.or_self, Bool.false_eq_true, hm, hs, ↓reduceIte]
end
end

/-! ### PEVICT in vacate form (R118) -/

section
variable (ho : r.ent.opcode = opPevict) (hf : r.ent.flag 4 = false)

include ho hf

theorem execPevictVacate_refused (hp : (r.ent.c = tStacks ∧ anyPinned (coveredBy s r) = true) ∨ (coveredBy s r).any (lastCopy s r.ent.c) = true) :
    exec (.pevictVacate id) s = .next (finish s id Code.tzRights) := by
  rw [exec_pevictVacate, execPevictVacate]
  exact runOp_ends hb (isVacate ho hf) (if_pos hp)

theorem execPevictVacate_vacates (hu : Unused s (coveredBy s r)) (hp : ¬ (r.ent.c = tStacks ∧ anyPinned (coveredBy s r) = true))
    (hl : (coveredBy s r).any (lastCopy s r.ent.c) = false) (ht : (lowerTier s r.ent.c).getD tHost ≠ tFlash) :
    let ps := coveredBy s r
    let vacated := movePages (vacateOne r.ent.c) s ps
    exec (.pevictVacate id) s = .next (retag s (recordThen (dropEmpty vacated.1) id (objectOf s r.ent.a) ps vacated.2)) := by
  rw [exec_pevictVacate, execPevictVacate]
  exact runOp_eq hb (isVacate ho hf)
    ((if_neg (not_or.mpr ⟨hp, ne_true_of_eq_false hl⟩)).trans ((if_neg (ne_true_of_eq_false hu)).trans (viaFlash_other s id _ _ ht)))
end
end
end

/-- Settles O9, by the lemma of each outcome of the three rows. -/
theorem pageMovementRows : Obligations.PageMovementRows := by
  unfold Obligations.PageMovementRows
  intro s id r hb ps h hu
  exact ⟨fun ho hp ha => execPmove_refetch hb ho hp ha, fun ho hq ha => execPcopy_refetch hb ho hq ha, fun ho ha hp => execPmove_moves hb ho hu ha hp,
    fun ho ht hp => execPmove_pinned hb ho ht hp, fun ho hq ha hd => execPcopy_copies hb ho hq ha hd, fun map ho hq hc hm => execPcopy_staged hb ho hq hc hm,
    fun t ho hq hc hm hs => execPcopy_asks hb ho hq hc hm hs, fun ho hf hp => execPevictVacate_refused hb ho hf hp,
    fun ho hf hp hl ht => execPevictVacate_vacates hb ho hf hu hp hl ht⟩

end Sys2Proof.Machine
end

section
/-!
PROOF. PUBLISH of a region at a cache device: which pages it leaves, where a tile's scratchpad names one that has left the stacks (R130, R191, R376, R389).
-/

namespace Sys2Proof.Machine

open Sys2Proof

theorem exec_publish (id : Nat) (s : State) : exec (.publish id) s = execPublish id s := rfl

/-! ### The copies in scratchpads after a step (R191, R257) -/

/-- A scratchpad's copy of a page that lies outside the stacks after a step is stale. -/
theorem scratchStale_outside {s k : State} {n : Nat} {p : Page} (hp : k.pages.find? (fun q => q.number == n) = some p) (hs : p.stack = none) :
    scratchStale s k n = true := by
  have outside : p.stack.isNone = true := Option.isNone_iff_eq_none.mpr hs
  unfold scratchStale
  rw [hp]
  cases s.pages.find? (fun q => q.number == n) with
  | none => exact outside
  | some q => exact Bool.or_eq_true_iff.mpr (.inr outside)

/-- No page is marked as looked ahead once its look-ahead copies have been discarded. -/
theorem dropAhead_lookahead {k : State} {ns : List Nat} {n : Nat} (hn : n ∈ ns) {q : Page} (hq : q ∈ (dropAhead k ns).pages) (hqn : q.number = n) : q.lookahead = false := by
  obtain ⟨p, -, rfl⟩ := List.mem_map.mp hq
  by_cases hp : ns.contains p.number = true
  · rw [if_pos hp]
  · rw [if_neg hp] at hqn
    exact absurd (List.contains_iff_mem.mpr (hqn ▸ hn)) hp

/-- A page outside the stacks that a tile's scratchpad names is not marked as looked ahead after a step that changed pages. -/
theorem retag_lookahead {s k : State} {n t : Nat} {x : Tile} {p : Page} (hk : s.pages ≠ k.pages) (ht : (t, x) ∈ k.til.tiles) (hx : n ∈ x.scratch)
    (hp : k.pages.find? (fun q => q.number == n) = some p) (hs : p.stack = none) {q : Page} (hq : q ∈ (retag s k).pages) (hqn : q.number = n) : q.lookahead = false := by
  have named : n ∈ k.til.tiles.flatMap (fun x => x.2.scratch ++ x.2.ahead) := List.mem_flatMap.mpr ⟨(t, x), ht, List.mem_append_left _ hx⟩
  have stale : n ∈ (k.til.tiles.flatMap (fun x => x.2.scratch ++ x.2.ahead)).filter (scratchStale s k) :=
    List.mem_filter.mpr ⟨named, scratchStale_outside hp hs⟩
  have changed : ¬ (s.pages = k.pages ∧ s.dev = k.dev ∧ s.models = k.models) := fun h => hk h.1
  have dropped : (retag s k).pages = (dropStale s k).pages := by
    rw [retag, if_neg changed]
    exact rearm_pages _
  have some_stale : ¬ ((k.til.tiles.flatMap (fun x => x.2.scratch ++ x.2.ahead)).filter (scratchStale s k)).isEmpty = true := by
    rw [List.isEmpty_iff]
    exact List.ne_nil_of_mem stale
  rw [dropped, dropStale, if_neg some_stale] at hq
  exact dropAhead_lookahead stale hq hqn

/-! ### PUBLISH of a region (R130, R376) -/

/-- The state after a commit of draft `d` of index `i`: the new version, its weight pages, and one more publication counted (R376, R389, R390). -/
def published (s : State) (i : Nat) (d : Draft) : State :=
  let u := publishUnits (setK s i (commitDraft (getK s i) d)) i d
  { u with rgn := { u.rgn with publishes := wrapAdd 32 u.rgn.publishes 1 } }

section
variable {s : State} {id : Nat} {r : Running} {i : Nat}

theorem isPublish (ho : r.ent.opcode = opPublish) (hc : hCls r.ent.a = clsRegion) : (r.ent.opcode == opPublish && hCls r.ent.a == clsRegion) = true := by
  rw [ho, hc, beq_self_eq_true, beq_self_eq_true, Bool.and_true]

/-- PUBLISH at the region's home of the writer's draft that nothing holds, its BASE_VERSION current, commits the draft. -/
theorem execPublish_commits {d : Draft} (hb : Begun s id r) (ho : r.ent.opcode = opPublish) (hc : hCls r.ent.a = clsRegion) (hw : mustWait s r = false)
    (hh : hHome r.ent.a = self s) (hi : regionIndex s r.ent.a = some i) (hd : draftCode (getK s i) (writerOf s r) = 0)
    (hr : natBit (getK s i).rights rPublish = true) (hv : (getK s i).version = r.ent.b % 2 ^ 48) (hl : (getK s i).version ≠ 0xFFFFFFFFFFFF)
    (hf : draftOf (getK s i) (writerOf s r) = some d) (hn : d.holds = 0) :
    exec (.publish id) s = .next (retag s (finish (publishReport (published s i d) r (commitDraft (getK s i) d).version) id 0)) := by
  have current : ¬ ((getK s i).version ≠ r.ent.b % 2 ^ 48 ∨ (getK s i).version = 0xFFFFFFFFFFFF) := not_or.mpr ⟨not_not.mpr hv, hl⟩
  rw [exec_publish, execPublish]
  refine runOp_eq hb (isPublish ho hc) ?_
  simp only [hw, hh, hi, hd, hr, current, hf, hn, ne_eq, not_true_eq_false, Bool.false_eq_true, Bool.true_eq_false, ↓reduceIte]
  rfl
end

/-! ### A cache device that publishes while a scratchpad names a page outside the stacks -/

namespace StaleLookahead

/-- The region's handle: the first of this device. -/
def region : Handle := mkHandle (self State.reset) clsRegion 1

/-- A page in no tier, still marked as looked ahead. -/
def lookedPage : Page := { freshPage 7 .priv 0 0 0 weightFrame with stack := none, lookahead := true }

/-- The region's one unit, held as a weight page. -/
def unitPage : Page := { freshPage 8 .weight region 0 0 weightFrame with stackDirty := true }

/-- The writer's draft of the region: its first page. -/
def draft : Draft := { writer := { device := self State.reset, port := 0, fn := 0 }, startVersion := 1, units := [{ page := 0, bytes := [] }], holds := 0, renewed := 0, term := 0 }

/-- The region's key index: LIVE and DRAFTED, with every right, at version 1. -/
def key : KeyEntry := { KeyEntry.init with state := .live, issued := true, region := region, rights := 15, drafted := true, version := 1, drafts := [draft] }

/-- A started PUBLISH of the draft on version 1. -/
def run : Running :=
  { id := 5, queue := 0, index := 0, ent := { opcode := opPublish, flags := 0, counter := 0, customer := 0, cls := 0, format := 0, a := region, b := 1, c := 0 }, blk := [],
    sub := none, fid := 0, phase := .ready, charge := 0, aux := 0, codes := [], inputs := [], startAt := 0, runs := [], caught := false }

/-- The device: a cache, its first tile's scratchpad holding page 7. -/
def state : State :=
  { State.reset with
    pers := some .cache, pages := [lookedPage, unitPage], rgn := { State.reset.rgn with keys := [(1, key)] }, tz := { State.reset.tz with started := [run] },
    til := { State.reset.til with tiles := [(0, { Tile.init with scratch := [7] })] } }

theorem begun : Begun state 5 run := ⟨rfl, rfl, rfl, rfl, rfl⟩

/-- The region's unit after the commit: newest in the stacks, with the rows of the new version. -/
def unitAfter : Page :=
  let s := setK state 1 (commitDraft (getK state 1) draft)
  { unitPage with stackDirty := false, rows := unitRows s (getK s 1) 0 }

/-- The commit keeps the page's mark and changes the region's unit. -/
theorem published_pages : (publishUnits (setK state 1 (commitDraft (getK state 1) draft)) 1 draft).pages = [lookedPage, unitAfter] := rfl

/-- What the PUBLISH leaves, before the step's tags and scratchpads follow. -/
def after : State := finish (publishReport (published state 1 draft) run (commitDraft (getK state 1) draft).version) 5 0

theorem after_pages : after.pages = [lookedPage, unitAfter] := published_pages

theorem after_tiles : after.til.tiles = [(0, { Tile.init with scratch := [7] })] := rfl

theorem unit_changes : state.pages ≠ [lookedPage, unitAfter] := by
  intro h
  have dirty : unitPage.stackDirty = unitAfter.stackDirty := congrArg (fun l : List Page => (l.getD 1 unitPage).stackDirty) h
  exact Bool.noConfusion dirty

/-- The step clears the mark, and the commit does not. -/
theorem pages_differ : (retag state after).pages ≠ (publishUnits (setK state 1 (commitDraft (getK state 1) draft)) 1 draft).pages := by
  intro h
  have mark : lookedPage.lookahead = false := by
    refine retag_lookahead (s := state) (k := after) (n := 7) (p := lookedPage) ?_ (after_tiles ▸ List.mem_singleton_self _) (List.mem_singleton_self 7) ?_ rfl ?_ rfl
    · exact after_pages ▸ unit_changes
    · exact after_pages ▸ rfl
    · exact (h.trans published_pages) ▸ List.mem_cons_self
  exact Bool.noConfusion mark

end StaleLookahead

/-- Refutes O13: after a PUBLISH at a cache device the pages are not always those of `publishUnits`. The step that changed them also discards the look-ahead copies of a page in a tile's
scratchpad that lies outside the stacks (R191), and so clears its mark; `StaleLookahead.state` has such a page. -/
theorem not_regionRows : ¬ Obligations.RegionRows := by
  unfold Obligations.RegionRows
  intro h
  obtain ⟨-, -, -, -, publish, -⟩ := h.1 StaleLookahead.state 5 StaleLookahead.run StaleLookahead.begun
  obtain ⟨-, -, -, commits⟩ := publish 1 rfl rfl rfl rfl rfl
  obtain ⟨t, ht, -, -, -, -, -, pages, -⟩ := commits StaleLookahead.draft rfl rfl rfl (by decide) rfl rfl rfl
  rw [execPublish_commits StaleLookahead.begun rfl rfl rfl rfl rfl rfl rfl rfl (by decide) rfl rfl] at ht
  cases ht
  exact StaleLookahead.pages_differ pages

end Sys2Proof.Machine
end

section
/-!
PROOF. Leases and upkeep: renewals, the end of a lease, abandoned messages, fold-back and destage (R280, R374 to R380).
-/

namespace Sys2Proof.Machine

open Sys2Proof

theorem exec_renew (h : Hdr) (items : List RenewItem) (s : State) : exec (.renew h items) s = execRenew h items s := rfl
theorem exec_leaseRenewalTick (s : State) : exec .leaseRenewalTick s = execLeaseRenewalTick s := rfl
theorem exec_leaseExpiry (x : Handle) (device port fn : Nat) (s : State) : exec (.leaseExpiry x device port fn) s = execLeaseExpiry x device port fn s := rfl
theorem exec_messageAbandon (s : State) : exec .messageAbandon s = execMessageAbandon s := rfl
theorem exec_foldBack (i page : Nat) (s : State) : exec (.foldBack i page) s = execFoldBack i page s := rfl
theorem exec_destage (s : State) : exec .destage s = execDestage s := rfl

theorem handled_renew (s : State) (h : Hdr) (items : List RenewItem) :
    Handled (.renew h items) s h (items.foldl (fun s it => renewDraft s it.object { device := h.src, port := it.port, fn := it.fn }) (arrive s h).1) :=
  handled_of (exec_renew h items s) rfl

section
variable {s : State}

/-! ### The renewal tick (R378) -/

/-- The state that has noted the time of a renewal. -/
def renewalNoted (s : State) : State := { s with rgn := { s.rgn with renewAt := s.now } }

section
variable (hh : s.halted = false) (hp : paused s = false)
include hh hp

theorem execLeaseRenewalTick_early (ht : s.now < s.rgn.renewAt + leaseTerm s / 4) : exec .leaseRenewalTick s = .next s := by
  rw [exec_leaseRenewalTick, execLeaseRenewalTick]
  exact awake_unchanged hh hp (if_pos ht)

variable (ht : s.rgn.renewAt + leaseTerm s / 4 ≤ s.now)
include ht

theorem execLeaseRenewalTick_none (hl : ∀ l ∈ s.rgn.leases, s.orphans.contains l.port = true ∨ l.device = self s) :
    exec .leaseRenewalTick s = .next (renewalNoted s) := by
  have none_live : s.rgn.leases.filter (fun l => l.device != self s && !(s.orphans.contains l.port)) = [] := by
    refine List.filter_eq_nil_iff.mpr (fun l hm => ?_)
    rw [Bool.and_eq_true, bne_iff_ne, Bool.not_eq_true']
    rintro ⟨hd, ho⟩
    rcases hl l hm with hl | hl
    · exact Bool.false_ne_true (ho.symm.trans hl)
    · exact hd hl
  rw [exec_leaseRenewalTick, execLeaseRenewalTick]
  refine awake_leads_plain hh hp ((if_neg (Nat.not_lt.mpr ht)).trans ?_) rfl rfl rfl
  rw [none_live]
  rfl

theorem execLeaseRenewalTick_one {l : LeaseHeld} {t : State} (hl : s.rgn.leases = [l]) (ho : s.orphans.contains l.port = false) (hd : l.device ≠ self s)
    (hs : sendTo (renewalNoted s) l.device 0 0 (.renew [{ object := l.object, port := l.port, fn := l.fn }]) none = .ok t) :
    exec .leaseRenewalTick s = .next (retag s t) := by
  have live : s.rgn.leases.filter (fun l => l.device != self s && !(s.orphans.contains l.port)) = [l] := by
    rw [hl]
    refine List.filter_eq_self.mpr (fun x hx => ?_)
    rw [List.mem_singleton.mp hx, ho, Bool.not_false, Bool.and_true, bne_iff_ne]
    exact hd
  have sent : sendRenewals [l] (renewalNoted s) l.device = t := by
    have mine : [l].filter (fun x => x.device == l.device) = [l] := List.filter_cons_of_pos (beq_self_eq_true _)
    rw [sendRenewals, mine, List.map_singleton, hs]
  rw [exec_leaseRenewalTick, execLeaseRenewalTick]
  refine awake_leads hh hp ((if_neg (Nat.not_lt.mpr ht)).trans ?_)
  rw [live]
  exact sent
end

/-! ### The end of a lease (R378, R379) -/

section
variable {x : Handle} {w : Writer} (hh : s.halted = false) (hp : paused s = false)
include hh hp

section
variable {i : Nat} {d : Draft} (hc : hCls x = clsRegion) (hi : regionIndex s x = some i) (hd : draftOf (getK s i) w = some d)
include hc hi hd

/-- The row for a region's draft. -/
theorem execLeaseExpiry_region : exec (.leaseExpiry x w.device w.port w.fn) s = .next (retag s (
    if d.holds = 0 ∧ publishing s x = false ∧ d.renewed + d.term ≤ s.now then leaseLog (setK s i (endDraft (getK s i) w Code.pubLeaseExpired)) x w else s)) := by
  rw [exec_leaseExpiry, execLeaseExpiry]
  refine awake_leads hh hp ?_
  simp only [hc, hi, hd, ↓reduceIte]

theorem execLeaseExpiry_ends (hn : d.holds = 0) (hb : publishing s x = false) (ht : d.renewed + d.term ≤ s.now) :
    exec (.leaseExpiry x w.device w.port w.fn) s = .next (retag s (leaseLog (setK s i (endDraft (getK s i) w Code.pubLeaseExpired)) x w)) := by
  rw [execLeaseExpiry_region hh hp hc hi hd, if_pos ⟨hn, hb, ht⟩]

theorem execLeaseExpiry_held (hk : d.holds ≠ 0 ∨ publishing s x = true ∨ s.now < d.renewed + d.term) : exec (.leaseExpiry x w.device w.port w.fn) s = .next s := by
  have stays : ¬ (d.holds = 0 ∧ publishing s x = false ∧ d.renewed + d.term ≤ s.now) := by
    rintro ⟨hn, hb, ht⟩
    rcases hk with hk | hk | hk
    · exact hk hn
    · exact Bool.false_ne_true (hb.symm.trans hk)
    · exact Nat.not_le.mpr hk ht
  rw [execLeaseExpiry_region hh hp hc hi hd, if_neg stays, retag_self]
end

theorem execLeaseExpiry_node {d : DraftNode} (device port fn : Nat) (hc : hCls x ≠ clsRegion) (hf : s.rgn.drafts.find? (fun d => d.handle == x) = some d) (hn : d.holds = 0)
    (hu : d.publisher = none) (hb : publishing s x = false) (ht : d.renewed + d.term ≤ s.now) : exec (.leaseExpiry x device port fn) s =
      .next (retag s (leaseLog (dropDraft s x Code.pubLeaseExpired) x { device := device, port := port, fn := fn })) := by
  rw [exec_leaseExpiry, execLeaseExpiry]
  refine awake_leads hh hp ?_
  simp only [hc, hf, hn, hu, hb, ht, and_self, ↓reduceIte]
end

/-! ### Abandoned messages (R380, R425) -/

/-- An accepted message whose last packet came within 5 ms is not abandoned. -/
theorem young_not_late {t : Nat} (h : s.now < t + 5000) : decide (t + 5000 ≤ s.now) = false := decide_eq_false (Nat.not_le.mpr h)

/-- With no message older than 5 ms the row changes nothing. -/
theorem execMessageAbandon_none (hh : s.halted = false) (hq : ∀ q ∈ s.fab.qps, ∀ m ∈ q.rx, s.now < m.lastAt + 5000) (hm : ∀ m ∈ s.fab.mrx, s.now < m.lastAt + 5000) :
    exec .messageAbandon s = .next s := by
  have gone : s.fab.qps.flatMap (fun q => (q.rx.filter (fun m => decide (m.lastAt + 5000 ≤ s.now))).map (fun m => (q.peer, m))) = [] := by
    refine List.flatMap_eq_nil_iff.mpr (fun q hx => ?_)
    rw [List.filter_eq_nil_iff.mpr (fun m hy => ne_true_of_eq_false (young_not_late (hq q hx m hy))), List.map_nil]
  have received : modQp s (fun _ => true) (fun q => { q with rx := q.rx.filter (fun m => !(decide (m.lastAt + 5000 ≤ s.now))) }) = s := by
    have each : mapIf (fun _ => true) (fun q : QPair => { q with rx := q.rx.filter (fun m => !(decide (m.lastAt + 5000 ≤ s.now))) }) s.fab.qps = s.fab.qps := by
      refine (List.map_congr_left (fun q hx => ?_)).trans (List.map_id _)
      rw [if_pos rfl]
      dsimp only
      rw [List.filter_eq_self.mpr (fun m hy => congrArg (!·) (young_not_late (hq q hx m hy)))]
      rfl
    rw [modQp, each]
  have goneM : s.fab.mrx.filter (fun x => decide (x.lastAt + 5000 ≤ s.now) && !(decide (x.len ≤ (x.next + 2 ^ 24 - x.psn) % 2 ^ 24 * 4096))) = [] := by
    refine List.filter_eq_nil_iff.mpr (fun x hx => ?_)
    rw [young_not_late (hm x hx), Bool.false_and]
    exact Bool.false_ne_true
  have keptM : s.fab.mrx.filter (fun x => !(decide (x.lastAt + 5000 ≤ s.now) && !(decide (x.len ≤ (x.next + 2 ^ 24 - x.psn) % 2 ^ 24 * 4096)))) = s.fab.mrx := by
    refine List.filter_eq_self.mpr (fun x hx => ?_)
    rw [young_not_late (hm x hx), Bool.false_and, Bool.not_false]
  rw [exec_messageAbandon, execMessageAbandon]
  refine alive_unchanged hh ?_
  dsimp only
  rw [gone, List.foldl_nil, received, goneM, List.foldl_nil, keptM]

/-! ### Fold-back (R377, R391) -/

section
variable {i page : Nat} (hh : s.halted = false) (hp : paused s = false)
include hh hp

theorem execFoldBack_folds {u : Unit4K} (hu : (getK s i).relocated.find? (fun u => u.page == page) = some u) (hl : (getK s i).state = .live) (hb : braking s = false)
    (ho : olderRead s i = false) : exec (.foldBack i page) s = .next (retag s (foldBack s i u)) := by
  rw [exec_foldBack, execFoldBack]
  refine awake_leads hh hp ?_
  simp only [hu, hl, hb, ho, and_self, ↓reduceIte]

theorem execFoldBack_absent (hu : (getK s i).relocated.find? (fun u => u.page == page) = none) : exec (.foldBack i page) s = .next s := by
  rw [exec_foldBack, execFoldBack]
  refine awake_unchanged hh hp ?_
  simp only [hu]

/-- Nothing is folded under the brake, nor while an older version is read. -/
theorem execFoldBack_waits (hw : braking s = true ∨ olderRead s i = true) : exec (.foldBack i page) s = .next s := by
  have waits : ¬ ((getK s i).state = .live ∧ braking s = false ∧ olderRead s i = false) := by
    rintro ⟨-, hb, ho⟩
    rcases hw with hw | hw
    · exact Bool.false_ne_true (hb.symm.trans hw)
    · exact Bool.false_ne_true (ho.symm.trans hw)
  cases hu : (getK s i).relocated.find? (fun u => u.page == page) with
  | none => exact execFoldBack_absent hh hp hu
  | some u =>
    rw [exec_foldBack, execFoldBack]
    refine awake_unchanged hh hp ?_
    simp only [hu, if_neg waits]
end

/-! ### Destage (R280) -/

section
variable (hh : s.halted = false) (hp : paused s = false)
include hh hp

theorem execDestage_idle (hc : s.pers ≠ some .cache ∨ s.cfgState = 5) : exec .destage s = .next s := by
  rw [exec_destage, execDestage]
  refine awake_unchanged hh hp (if_neg ?_)
  rintro ⟨hp, hs⟩
  rcases hc with hc | hc
  · exact hc hp
  · exact hs hc

/-- The one published page that lies only in the stacks gets a host copy, where flash is absent. -/
theorem execDestage_host {p : Page} {x : State × Page} (hc : s.pers = some .cache) (hs : s.cfgState ≠ 5) (hf : s.ident.flash = false) (hl : s.pages = [p])
    (hk : p.kind = .shard) (ht : p.tiers = [tStacks]) (hn : frameComing s p = false) (hx : copyInto s p tHost = some x) :
    exec .destage s = .next (retag s (setPage x.1 x.2)) := by
  have chosen : s.pages.filter (fun p => (p.kind == .shard || p.kind == .weight) && p.tiers == [tStacks] && !(frameComing s p)) = [p] := by
    simp [hl, hk, ht, hn]
  rw [exec_destage, execDestage]
  refine awake_leads hh hp ((if_pos ⟨hc, hs⟩).trans ?_)
  rw [chosen]
  simp only [List.foldl_cons, List.foldl_nil, hf, hx, Bool.false_eq_true, false_and, ↓reduceIte]
end
end

/-- Settles O27, by the lemma of each outcome of the rows. -/
theorem leaseAndUpkeepRows : Obligations.LeaseAndUpkeepRows := by
  unfold Obligations.LeaseAndUpkeepRows
  refine ⟨handled_renew, fun s hh hp => ⟨execLeaseRenewalTick_early hh hp, execLeaseRenewalTick_none hh hp, fun l t ht hl ho hd hs => execLeaseRenewalTick_one hh hp ht hl ho hd hs⟩,
    fun s x device port fn hh hp => ⟨fun i d hc hi hd => ⟨?ends, ?held⟩, fun d hc hf hn hu hb ht => execLeaseExpiry_node hh hp device port fn hc hf hn hu hb ht⟩,
    fun s hh hq hm => ⟨s, execMessageAbandon_none hh hq hm, rfl, rfl, rfl, rfl, rfl⟩,
    fun s i page hh hp => ⟨fun u hu hl hb ho => execFoldBack_folds hh hp hu hl hb ho, execFoldBack_waits hh hp, execFoldBack_absent hh hp⟩,
    fun s hh hp => ⟨execDestage_idle hh hp, fun p x hc hs hf hl hk ht hn hx => execDestage_host hh hp hc hs hf hl hk ht hn hx⟩⟩
  case ends => exact execLeaseExpiry_ends (w := ⟨device, port, fn⟩) hh hp hc hi hd
  case held => exact execLeaseExpiry_held (w := ⟨device, port, fn⟩) hh hp hc hi hd

end Sys2Proof.Machine
end

section
/-!
PROOF. RWRITE, RREAD, RREDUCE and MCAST: what a started one reads, checks, sends and writes (R137 to R141, R162, R163, R440, R441).
-/

namespace Sys2Proof.Machine

open Sys2Proof

theorem exec_rwrite (id : Nat) (s : State) : exec (.rwrite id) s = execRwrite id s := rfl
theorem exec_rread (id : Nat) (s : State) : exec (.rread id) s = execRread id s := rfl
theorem exec_rreduce (id : Nat) (s : State) : exec (.rreduce id) s = execRreduce id s := rfl
theorem exec_mcast (id : Nat) (s : State) : exec (.mcast id) s = execMcast id s := rfl

section
variable {s : State} {id : Nat} {r : Running} {bs : List Byte}

/-! ### RWRITE (R137 to R139) -/

section
variable (hb : Begun s id r) (ho : r.ent.opcode = opRwrite)
include hb ho

theorem execRwrite_delivers (hr : bufRead s (bufAt r.blk 16) 0 r.ent.a rRead = .ok bs) :
    exec (.rwrite id) s = .next (retag s (emit s r [{ buf := bufAt r.blk 32, how := .write, pieces := [(0, bs)] }])) := by
  rw [exec_rwrite, execRwrite]
  refine runOp_eq hb (isOp ho) ?_
  rw [hr]

theorem execRwrite_refused {c : Nat} (hr : bufRead s (bufAt r.blk 16) 0 r.ent.a rRead = .error c) : exec (.rwrite id) s = .next (finish (keyRefused s c) id c) := by
  rw [exec_rwrite, execRwrite]
  refine (runOp_eq (t := finish (keyRefused s c) id c) hb (isOp ho) ?_).trans (congrArg Host.Outcome.next (retag_same s _ rfl rfl rfl))
  rw [hr]
end

/-! ### RREAD (R137 to R139, R444) -/

/-- The code of the check of a RREAD's DEST over the whole range. -/
def readDestCode (s : State) (r : Running) : Nat :=
  resultCode s (writerOf s r) { buf := bufAt r.blk 32, how := .write, pieces := [(0, List.replicate r.ent.a 0)] }

section
variable (hb : Begun s id r) (ho : r.ent.opcode = opRread)
include hb ho

theorem execRread_refused (hc : readDestCode s r ≠ 0) :
    exec (.rread id) s = .next (finish (keyRefused s (readDestCode s r)) id (readDestCode s r)) := by
  rw [exec_rread, execRread]
  exact (runOp_eq (t := finish (keyRefused s (readDestCode s r)) id (readDestCode s r)) hb (isOp ho) (if_pos hc)).trans
    (congrArg Host.Outcome.next (retag_same s _ rfl rfl rfl))

variable (hc : readDestCode s r = 0)
include hc

theorem execRread_here (hd : (bufAt r.blk 16).device = self s) (hr : bufRead s (bufAt r.blk 16) 0 r.ent.a rRead = .ok bs) :
    exec (.rread id) s = .next (retag s (emit (unitsUp s (keyIndex (bufAt r.blk 16).key) (bufAt r.blk 16).offset r.ent.a) r
      [{ buf := bufAt r.blk 32, how := .write, pieces := [(0, bs)] }])) := by
  rw [exec_rread, execRread]
  refine runOp_eq hb (isOp ho) ((if_neg (not_not.mpr hc)).trans ((if_pos hd).trans ?_))
  rw [hr]

/-- A read of another device that is not combinable is one request for the whole range. -/
theorem execRread_asks {t : State} (hd : (bufAt r.blk 16).device ≠ self s) (hn : r.ent.combinable = false)
    (hs : sendRead s (bufAt r.blk 16).device (dataClass r.ent.prio) 0 (bufAt r.blk 16).key (bufAt r.blk 16).offset r.ent.a false
      (.buffer id (bufAt r.blk 32).key ((bufAt r.blk 32).offset + ((bufAt r.blk 16).offset - (bufAt r.blk 16).offset))) = .ok t) :
    exec (.rread id) s = .next (retag s (pumpComb (modRun (await (keyEnter t (keyIndex (bufAt r.blk 32).key)) id) (fun q => q.id == id) (fun q => { q with aux := 1 })) id)) := by
  rw [exec_rread, execRread]
  refine runOp_eq hb (isOp ho) ((if_neg (not_not.mpr hc)).trans ((if_neg hd).trans ?_))
  simp only [hn, hs, Bool.false_eq_true, List.foldl_cons, List.foldl_nil, ne_eq, not_true_eq_false, ↓reduceIte, List.length_singleton]
end

/-! ### RREDUCE (R162 to R164, R445) -/

theorem operandsOk_reduce {c : Ctx} (ho : c.e.opcode = opRreduce) : operandsOk s c = reduceOk s c.e c.blk := by
  unfold operandsOk
  dsimp only
  rw [ho]
  rfl

/-- A combinable add that is no 8 to 64 bytes within one block of 64 fails the check of the operands. -/
theorem operandsOk_add_unit {c : Ctx} (ho : c.e.opcode = opRreduce) (hn : c.e.combinable = true) (hu : addUnitOk c.e.a (bufAt c.blk 32).offset = false) :
    operandsOk s c = false := by
  rw [operandsOk_reduce ho, reduceOk, hn, hu]
  simp only [Bool.not_true, Bool.or_self, Bool.and_false, Bool.false_and]

section
variable (hb : Begun s id r) (ho : r.ent.opcode = opRreduce) (hr : bufRead s (bufAt r.blk 16) 0 r.ent.a rRead = .ok bs)
include hb ho hr

theorem execRreduce_delivers (hk : (reduceOf r.ent).op ≠ 3) :
    exec (.rreduce id) s = .next (retag s (emit s r [{ buf := bufAt r.blk 32, how := .red (reduceOf r.ent), pieces := [(0, bs)] }])) := by
  rw [exec_rreduce, execRreduce]
  refine runOp_eq hb (isOp ho) ?_
  dsimp only
  rw [hr]
  exact if_pos hk

/-- With fetch on this device the values before are written at FETCH. -/
theorem execRreduce_fetches (hk : (reduceOf r.ent).op = 3) (hf : resultCode s (writerOf s r) { buf := bufAt r.blk 48, how := .write, pieces := [(0, bs)] } = 0)
    (hd : (bufAt r.blk 32).device = self s) (hc : resultCode s (writerOf s r) { buf := bufAt r.blk 32, how := .red (reduceOf r.ent), pieces := [(0, bs)] } = 0) :
    let w := writerOf s r
    let dst := bufAt r.blk 32
    exec (.rreduce id) s = .next (retag s (finish (regionWrite (reduceAll s (keyIndex dst.key) w dst.offset (reduceOf r.ent) bs).1 (keyIndex (bufAt r.blk 48).key) w
      (bufAt r.blk 48).offset (peek s (keyIndex dst.key) w dst.offset bs.length)) id 0)) := by
  rw [exec_rreduce, execRreduce]
  refine runOp_eq hb (isOp ho) ?_
  dsimp only
  rw [hr]
  exact (if_neg (not_not.mpr hk)).trans ((if_neg (not_not.mpr hf)).trans ((if_pos hd).trans (if_neg (not_not.mpr hc))))
end

/-! ### MCAST (R140, R141, R440, R441) -/

/-- The group of a MCAST. -/
def mcastGroup (r : Running) : Nat := r.ent.b % 2 ^ 16

/-- A member that is another device, and shares no composition with this one or is known to be outside the group. -/
def strangers (s : State) (r : Running) : Bool :=
  (mcastMembers r.blk).any (fun x => x.2.1 != self s && ((commonComp s x.2.1).isNone || outsideGroup s (mcastGroup r) x.2.1))

/-- The group is unknown or disabled, or the members are not all its own. -/
def NoGroup (s : State) (r : Running) : Prop :=
  4096 ≤ mcastGroup r ∨ bitOf (groupEntry s (mcastGroup r)) 0 = false ∨ fieldOf (groupEntry s (mcastGroup r)) 14 8 < (mcastMembers r.blk).length ∨ strangers s r = true

section
variable (hb : Begun s id r) (ho : r.ent.opcode = opMcast)
include hb ho

theorem execMcast_refused (hn : NoGroup s r) : exec (.mcast id) s = .next (finish s id Code.cmpNotMember) := by
  rw [exec_mcast, execMcast]
  exact runOp_ends hb (isOp ho) (if_pos hn)

/-- Each member gets its OPEN, and the stream is kept with its PSNs. -/
theorem execMcast_opens (hg : mcastGroup r < 4096) (he : bitOf (groupEntry s (mcastGroup r)) 0 = true)
    (hl : (mcastMembers r.blk).length ≤ fieldOf (groupEntry s (mcastGroup r)) 14 8) (hm : strangers s r = false) (hr : bufRead s (bufAt r.blk 16) 0 r.ent.a rRead = .ok bs) :
    let g := mcastGroup r
    let n := takePsn s g (packetsOf (.mcastData g 0 bs))
    let x := (mcastMembers r.blk).foldl (openMember r (writerOf s r) g n.1 bs) (await n.2 id, [])
    exec (.mcast id) s = .next (retag s (mcastGo { x.1 with fab := { x.1.fab with mcasts := x.1.fab.mcasts ++ [{
      instr := id, group := g, subject := 0, cls := dataClass r.ent.prio, inc := fieldOf (groupEntry s g) 31 24, psn := n.1, bytes := bs, members := x.2, data := false, cut := 0,
      due := 0, rto := rtoOf x.1, tries := 1, tryAt := 0 }] } } g n.1)) := by
  have known : ¬ NoGroup s r := by
    rintro (h | h | h | h)
    · exact Nat.not_le.mpr hg h
    · exact Bool.false_ne_true (h.symm.trans he)
    · exact Nat.not_lt.mpr hl h
    · exact Bool.false_ne_true (hm.symm.trans h)
  rw [exec_mcast, execMcast]
  refine runOp_eq hb (isOp ho) ((if_neg known).trans ?_)
  rw [hr]
  rfl
end

/-- Taking PSNs of a group gives the next one and moves the group's sequence past them (R441). -/
theorem takePsn_next (s : State) (g n : Nat) : (takePsn s g n).2.fab.mcastPsn.get 0 g = ((takePsn s g n).1 + n) % 2 ^ 24 := Tbl.get_set_self _ _ _ _
end

/-- Settles O32, by the lemma of each outcome of the four rows. -/
theorem transferRows : Obligations.TransferRows := by
  unfold Obligations.TransferRows
  intro s id r hb
  refine ⟨fun ho => ⟨fun bs hr => execRwrite_delivers hb ho hr, fun c hr => execRwrite_refused hb ho hr⟩, fun ho => ?read, fun ho => ?reduction, fun ho => ?mcast⟩
  case read =>
    exact ⟨fun hc => execRread_refused hb ho hc, fun bs hc hd hr => execRread_here hb ho hc hd hr, fun t hc hd hn hs => execRread_asks hb ho hc hd hn hs⟩
  case reduction =>
    exact ⟨fun c h1 h2 h3 => operandsOk_add_unit h1 h2 h3, fun bs hr => ⟨execRreduce_delivers hb ho hr, fun hk hf hd hc => execRreduce_fetches hb ho hr hk hf hd hc⟩⟩
  case mcast =>
    exact ⟨execMcast_refused hb ho, fun bs hg he hl hm hr => ⟨rfl, takePsn_next s _ _, execMcast_opens hb ho hg he hl hm hr⟩⟩

end Sys2Proof.Machine
end

section
/-!
PROOF. Merging rows of deterministic partial results: sums in wide cells, NaN rows, the empty row, and maxima that agree or differ (R152, R164, R186, R187, R206, R207).
-/

namespace Sys2Proof.Machine

open Sys2Proof

/-! ### Sums in wide cells (R205) -/

theorem Cell96.add_assoc (x y z : Cell96) : (x.add y).add z = x.add (y.add z) := by
  simp only [Cell96.add, BitVec.add_assoc, Bool.or_assoc]

theorem Cell96.add_val_comm (x y : Cell96) : (x.add y).val = (y.add x).val := BitVec.add_comm _ _

theorem Cell96.add_nan_comm (x y : Cell96) : (x.add y).nan = (y.add x).nan := Bool.or_comm _ _

/-- A term that is an infinity or a NaN sets NAN and adds nothing. -/
theorem Cell96.addTerm_of_none {t : Fv} (h : t.dy? = none) (c : Cell96) : c.addTerm t = { c with nan := true } := by rw [addTerm, h]

/-- What a finite term adds to VALUE depends on the cell's anchor alone. -/
theorem Cell96.addTerm_of_some {t : Fv} {d : Dy} (h : t.dy? = some d) (c : Cell96) :
    c.addTerm t = { c with val := c.val + BitVec.ofInt 96 (rneInt d.m (d.e + 64 - c.anchor)) } := by rw [addTerm, h]

/-- Two terms added in either order give the same cell. -/
theorem Cell96.addTerm_comm (c : Cell96) (t u : Fv) : (c.addTerm t).addTerm u = (c.addTerm u).addTerm t := by
  cases ht : t.dy? with
  | none =>
    cases hu : u.dy? with
    | none => simp only [addTerm_of_none ht, addTerm_of_none hu]
    | some e => simp only [addTerm_of_none ht, addTerm_of_some hu]
  | some d =>
    cases hu : u.dy? with
    | none => simp only [addTerm_of_some ht, addTerm_of_none hu]
    | some e => simp only [addTerm_of_some ht, addTerm_of_some hu, add_right_comm]

/-! ### Maxima -/

/-- No value is below itself. -/
theorem Fv.lt_self (v : Fv) : v.lt v = false := by
  cases v with
  | nan => rfl
  | inf n => cases n <;> rfl
  | fin n m e => cases n <;> simp [Fv.lt, Dy.add]

theorem read_negInf32 : Fmt.fp32.read negInf32 = .inf true := by decide

theorem isNanRow_emptyRow (d : Nat) : isNanRow true (emptyRow true d) = false := by
  simp only [isNanRow, emptyRow, read_negInf32]
  rfl

/-! ### The merge, by its cases (R164, R187) -/

section
variable {a b : MergeRow}

theorem mergeRow_nan (h : isNanRow true a = true ∨ isNanRow true b = true) : mergeRow true a b = (nanRow true a.o.length, false) :=
  if_pos ((Bool.or_eq_true _ _).mpr h)

variable (ha : isNanRow true a = false) (hb : isNanRow true b = false)
include ha hb

/-- Where neither row is a NaN row the maxima decide. -/
theorem mergeRow_no_nan : mergeRow true a b =
    if Fmt.fp32.read b.m = .inf true then (a, false)
    else if Fmt.fp32.read a.m ≠ .inf true ∧ ((Fmt.fp32.read a.m).lt (Fmt.fp32.read b.m) ∨ (Fmt.fp32.read b.m).lt (Fmt.fp32.read a.m)) then (a, true)
    else ({ a with m := if Fmt.fp32.read a.m = .inf true then b.m else a.m, l := a.l.add b.l, o := (a.o.zip b.o).map (fun x => x.1.add x.2) }, false) := by
  rw [mergeRow, ha, hb]
  rfl

/-- A row without positions, whose maximum is minus infinity, adds nothing. -/
theorem mergeRow_of_empty (he : Fmt.fp32.read b.m = .inf true) : mergeRow true a b = (a, false) := by
  rw [mergeRow_no_nan ha hb, if_pos he]

/-- Rows of one maximum are summed cell by cell. -/
theorem mergeRow_same_max (hm : a.m = b.m) (hf : Fmt.fp32.read a.m ≠ .inf true) :
    mergeRow true a b = ({ a with l := a.l.add b.l, o := (a.o.zip b.o).map (fun x => x.1.add x.2) }, false) := by
  rw [mergeRow_no_nan ha hb, ← hm, if_neg hf, if_neg (by simp [Fv.lt_self]), if_neg hf]

/-- Finite maxima that differ are reported, and the target stays. -/
theorem mergeRow_other_max (hfa : Fmt.fp32.read a.m ≠ .inf true) (hfb : Fmt.fp32.read b.m ≠ .inf true)
    (hd : (Fmt.fp32.read a.m).lt (Fmt.fp32.read b.m) = true ∨ (Fmt.fp32.read b.m).lt (Fmt.fp32.read a.m) = true) : mergeRow true a b = (a, true) := by
  rw [mergeRow_no_nan ha hb, if_neg hfb, if_pos ⟨hfa, hd⟩]
end

/-- Settles O17: each case of the merge by its lemma, and the sums of cells by those of addition modulo 2^96. -/
theorem mergeAlgebra : Obligations.MergeAlgebra := by
  unfold Obligations.MergeAlgebra
  refine ⟨fun a d ha => ?empty, fun a b => mergeRow_same_max, fun a b => mergeRow_nan, fun a b => mergeRow_other_max, fun x y z => ?cells, Cell96.addTerm_comm⟩
  case empty => exact mergeRow_of_empty ha (isNanRow_emptyRow d) read_negInf32
  case cells => exact ⟨Cell96.add_assoc x y z, Cell96.add_val_comm x y, Cell96.add_nan_comm x y⟩

end Sys2Proof.Machine
end

section
/-!
PROOF. SIGNAL and BUDGET (R169, R172, R173, R464).
-/

namespace Sys2Proof.Machine

open Sys2Proof

theorem exec_signal (id : Nat) (s : State) : exec (.signal id) s = execSignal id s := rfl
theorem exec_budgetSetRateAndBurst (id : Nat) (s : State) : exec (.budgetSetRateAndBurst id) s = execBudgetSetRateAndBurst id s := rfl
theorem exec_budgetAddCredit (id : Nat) (s : State) : exec (.budgetAddCredit id) s = execBudgetAddCredit id s := rfl
theorem exec_budgetSetWeight (id : Nat) (s : State) : exec (.budgetSetWeight id) s = execBudgetSetWeight id s := rfl

/-- The SIGNAL message of a counter on another device. -/
def sendSignal (s : State) (id : Nat) (r : Running) : Except Nat State :=
  sendTo s (hHome r.ent.a) (dataClass r.ent.prio) r.ent.a (.signal r.ent.a (r.ent.flag 4) (r.ent.flag 5) r.ent.b) (some id)

section
variable {s : State} {id : Nat} {r : Running}

/-! ### SIGNAL (R169) -/

section
variable (hb : Begun s id r) (ho : r.ent.opcode = opSignal)
include hb ho

theorem execSignal_here (hd : hHome r.ent.a = self s) :
    exec (.signal id) s = .next (retag s (finish (counterUpdate s (r.ent.a % 2 ^ 16) (r.ent.flag 4) (r.ent.flag 5) r.ent.b) id 0)) := by
  rw [exec_signal, execSignal]
  exact runOp_eq hb (isOp ho) (if_pos hd)

variable (hd : hHome r.ent.a ≠ self s)
include hd

theorem execSignal_sends {t : State} (hs : sendSignal s id r = .ok t) : exec (.signal id) s = .next (retag s (await t id)) := by
  rw [exec_signal, execSignal]
  refine runOp_eq hb (isOp ho) ((if_neg hd).trans ?_)
  rw [← sendSignal, hs]

theorem execSignal_unsent {c : Nat} (hs : sendSignal s id r = .error c) : exec (.signal id) s = .next (finish s id c) := by
  rw [exec_signal, execSignal]
  refine runOp_ends hb (isOp ho) ((if_neg hd).trans ?_)
  rw [← sendSignal, hs]
end

/-! ### BUDGET (R172) -/

/-- Admission with one customer's entry changed. -/
def customerSet (s : State) (i : Nat) (f : Customer → Customer) : State := { s with adm := { s.adm with customers := s.adm.customers.upd i f } }

/-- A customer's entry after a new rate and burst: refilled at the old rate up to `now`, the level clipped (R464). -/
def rateAndBurstSet (now : Nat) (e : Entry) (k : Customer) : Customer :=
  { k.refilled now with burst := e.c % 2 ^ 32, level := min (k.refilled now).level (e.c % 2 ^ 32 * 1000), rate := e.b % 2 ^ 32 }

/-- The state with the queued instructions of BUDGET's customer noted, where its burst falls (R173). -/
def burstNoted (s : State) (e : Entry) : State := if lowersBurst s (e.a % 2 ^ 16) (e.c % 2 ^ 32) then catchQueued s (e.a % 2 ^ 16) else s

theorem burstNoted_known {e : Entry} {i : Nat} (hk : knownCustomer s (e.a % 2 ^ 16) = some i) :
    burstNoted s e = if e.c % 2 ^ 32 < (s.adm.customers.get Customer.init i).burst then catchQueued s (e.a % 2 ^ 16) else s := by
  simp only [burstNoted, lowersBurst, hk, Option.any_some, decide_eq_true_eq]

theorem burstNoted_unknown {e : Entry} (hk : knownCustomer s (e.a % 2 ^ 16) = none) : burstNoted s e = s := by
  simp only [burstNoted, lowersBurst, hk, Option.any_none, Bool.false_eq_true, ↓reduceIte]

/-- A step that leaves what BUDGET and the tags read: time, the table of customers and the memory. -/
structure BudgetFrame (s u : State) : Prop where
  now : u.now = s.now
  known : ∀ cust, knownCustomer u cust = knownCustomer s cust
  pages : u.pages = s.pages
  dev : u.dev = s.dev
  models : u.models = s.models

theorem BudgetFrame.refl (s : State) : BudgetFrame s s := ⟨rfl, fun _ => rfl, rfl, rfl, rfl⟩

theorem burstNoted_frame (s : State) (e : Entry) : BudgetFrame s (burstNoted s e) := by
  unfold burstNoted
  split
  · exact ⟨rfl, fun _ => rfl, rfl, rfl, rfl⟩
  · exact .refl s

theorem isBudget {op : Nat} (ho : r.ent.opcode = opBudget) (ha : r.ent.op74 = op) : (r.ent.opcode == opBudget && r.ent.op74 == op) = true := by
  rw [ho, ha, beq_self_eq_true, beq_self_eq_true, Bool.and_self]

section
variable {is : Entry → Bool} {f : Running → State} {u : State} {cust : Nat} {g : Customer → Customer}

/-- A row that comes to a change of a known customer's entry. -/
theorem runOp_budget_known {i : Nat} (hb : Begun s id r) (his : is r.ent = true) (hu : BudgetFrame s u) (hk : knownCustomer s cust = some i)
    (hf : f r = budget u id cust g) : runOp s id is f = .next (finish (customerSet u i g) id 0) := by
  have he : budget u id cust g = finish (customerSet u i g) id 0 := by rw [budget, hu.known, hk, customerSet]
  rw [runOp_eq hb his (hf.trans he)]
  exact congrArg _ (retag_same s _ hu.pages hu.dev hu.models)

theorem runOp_budget_unknown (hb : Begun s id r) (his : is r.ent = true) (hk : knownCustomer s cust = none) (hf : f r = budget s id cust g) :
    runOp s id is f = .next (finish s id Code.tzRights) := by
  refine runOp_ends hb his (hf.trans ?_)
  rw [budget, hk]
end

section
variable (hb : Begun s id r) (ho : r.ent.opcode = opBudget)
include hb ho

section
variable {i : Nat} (hk : knownCustomer s (r.ent.a % 2 ^ 16) = some i)
include hk

theorem execBudgetSetRateAndBurst_known (ha : r.ent.op74 = 0) :
    exec (.budgetSetRateAndBurst id) s = .next (finish (customerSet (burstNoted s r.ent) i (rateAndBurstSet s.now r.ent)) id 0) := by
  rw [exec_budgetSetRateAndBurst, execBudgetSetRateAndBurst, ← (burstNoted_frame s r.ent).now]
  exact runOp_budget_known hb (isBudget ho ha) (burstNoted_frame s r.ent) hk rfl

theorem execBudgetAddCredit_known (ha : r.ent.op74 = 1) :
    exec (.budgetAddCredit id) s = .next (finish (customerSet s i (fun k => { k with level := min (k.burst * 1000) (k.level + r.ent.b % 2 ^ 32 * 1000) })) id 0) := by
  rw [exec_budgetAddCredit, execBudgetAddCredit]
  exact runOp_budget_known hb (isBudget ho ha) (.refl s) hk rfl

theorem execBudgetSetWeight_known (ha : r.ent.op74 = 2) :
    exec (.budgetSetWeight id) s = .next (finish (customerSet s i (fun k => { k with weight := r.ent.b % 2 ^ 16 })) id 0) := by
  rw [exec_budgetSetWeight, execBudgetSetWeight]
  exact runOp_budget_known hb (isBudget ho ha) (.refl s) hk rfl
end

section
variable (hk : knownCustomer s (r.ent.a % 2 ^ 16) = none)
include hk

theorem execBudgetSetRateAndBurst_unknown (ha : r.ent.op74 = 0) : exec (.budgetSetRateAndBurst id) s = .next (finish s id Code.tzRights) := by
  rw [exec_budgetSetRateAndBurst, execBudgetSetRateAndBurst]
  exact runOp_budget_unknown hb (isBudget ho ha) hk (congrArg (fun u => budget u id _ (rateAndBurstSet u.now r.ent)) (burstNoted_unknown hk))

theorem execBudgetAddCredit_unknown (ha : r.ent.op74 = 1) : exec (.budgetAddCredit id) s = .next (finish s id Code.tzRights) := by
  rw [exec_budgetAddCredit, execBudgetAddCredit]
  exact runOp_budget_unknown hb (isBudget ho ha) hk rfl

theorem execBudgetSetWeight_unknown (ha : r.ent.op74 = 2) : exec (.budgetSetWeight id) s = .next (finish s id Code.tzRights) := by
  rw [exec_budgetSetWeight, execBudgetSetWeight]
  exact runOp_budget_unknown hb (isBudget ho ha) hk rfl
end
end
end

/-- Settles O7: SIGNAL by where its counter is and whether the message can be sent, BUDGET by whether its customer is known. -/
theorem signalAndBudgetRows : Obligations.SignalAndBudgetRows := by
  unfold Obligations.SignalAndBudgetRows
  intro s id r hb
  refine ⟨execSignal_here hb, fun ho hd => ?remote, fun i ho hk => ?known, fun ho hk => ?unknown⟩
  case remote =>
    rw [← sendSignal]
    cases hs : sendSignal s id r with
    | ok t => exact execSignal_sends hb ho hd hs
    | error c => rw [retag_finish, execSignal_unsent hb ho hd hs]
  case known =>
    have rate := execBudgetSetRateAndBurst_known hb ho hk
    rw [burstNoted_known hk] at rate
    exact ⟨rate, execBudgetAddCredit_known hb ho hk, execBudgetSetWeight_known hb ho hk⟩
  case unknown => exact ⟨execBudgetSetRateAndBurst_unknown hb ho hk, execBudgetAddCredit_unknown hb ho hk, execBudgetSetWeight_unknown hb ho hk⟩

end Sys2Proof.Machine
end

section
/-!
PROOF. AMERGE, EXPAND, CONVERT, GEMM and VOP with their operands at hand: what each delivers (R154 to R161).
-/

namespace Sys2Proof.Machine

open Sys2Proof

theorem exec_amerge (id : Nat) (s : State) : exec (.amerge id) s = execAmerge id s := rfl
theorem exec_expand (id : Nat) (s : State) : exec (.expand id) s = execExpand id s := rfl
theorem exec_convertRow (id : Nat) (s : State) : exec (.convertRow id) s = execConvertRow id s := rfl
theorem exec_convertBuffer (id : Nat) (s : State) : exec (.convertBuffer id) s = execConvertBuffer id s := rfl
theorem exec_gemm (id : Nat) (s : State) : exec (.gemm id) s = execGemm id s := rfl
theorem exec_vop (id : Nat) (s : State) : exec (.vop id) s = execVop id s := rfl

/-! ### A row that reads its operands first (R138) -/

/-- What a row comes to after reading its operands, where `k` is its work on them. -/
def onGathered (id : Nat) (g : Gathered) (k : List (List Byte) → State) : State :=
  match g with
  | .fails s' c => finish s' id c
  | .waits s' => s'
  | .bytes l => k l

section
variable {s : State} {id : Nat} {r : Running} {is : Entry → Bool} {f : Running → State} {refs : List (BufRef × Nat)} {l : List (List Byte)}

theorem runOp_gathered {k : List (List Byte) → State} (hb : Begun s id r) (his : is r.ent = true) (hg : gather s r refs = .bytes l)
    (hf : f r = onGathered id (gather s r refs) k) : runOp s id is f = .next (retag s (k l)) := by
  refine runOp_eq hb his (hf.trans ?_)
  rw [hg]
  rfl

/-! ### AMERGE (R154, R155) -/

/-- Rows of a layer of an AMERGE. -/
def amergeRows (r : Running) : Nat := fieldBytes r.blk 2 1 * fieldBytes r.blk 3 1

/-- The inputs of an AMERGE: as many as its word says, each of all layers. -/
def amergeRefs (r : Running) : List (BufRef × Nat) :=
  (List.range (r.ent.a % 256)).map (fun i => (bufAt r.blk (64 + 16 * i),
    (fieldBytes r.blk 6 1 - 1) * fieldBytes r.blk 16 8 + amergeRows r * (if r.ent.det then fieldBytes r.blk 4 2 * 16 + 32 else fieldBytes r.blk 4 2 * 4 + 8)))

/-- The rows of the inputs merged in index order, each with whether a merge into it failed. -/
def amerged (r : Running) (l : List (List Byte)) : List (MergeRow × Bool) :=
  let ins := l.map (mergeInput r.ent.det (amergeRows r) (fieldBytes r.blk 4 2) (fieldBytes r.blk 6 1) (fieldBytes r.blk 16 8))
  (ins.drop 1).foldl (fun (acc : List (MergeRow × Bool)) t =>
    (acc.zip t).map (fun x => let y := mergeRow r.ent.det x.1.1 x.2; (y.1, x.1.2 || y.2))) ((ins.headD []).map (fun x => (x, false)))

/-- The result of an AMERGE from its merged rows: layer by layer, normalised or as tuples. -/
def amergeResult (r : Running) (rows : List MergeRow) : Result :=
  { buf := bufAt r.blk 32, how := .write, pieces := (List.range (fieldBytes r.blk 6 1)).map (fun i => (i * fieldBytes r.blk 24 8,
      let x := (rows.drop (i * amergeRows r)).take (amergeRows r)
      if fieldBytes r.blk 7 1 = 0 then x.flatMap (normalRow r.ent.det ((plainFmt (fieldBytes r.blk 8 1)).getD .fp32)) else tupleBytes r.ent.det x)) }

/-- What an AMERGE does with its inputs. -/
def amergeOn (s : State) (id : Nat) (r : Running) (l : List (List Byte)) : State :=
  if (amerged r l).any (·.2) then finish s id Code.tzFormat else emit s r [amergeResult r ((amerged r l).map (·.1))]

section
variable (hb : Begun s id r) (ho : r.ent.opcode = opAmerge) (hg : gather s r (amergeRefs r) = .bytes l)
include hb ho hg

theorem execAmerge_bytes : exec (.amerge id) s = .next (retag s (amergeOn s id r l)) := by
  rw [exec_amerge, execAmerge]
  exact runOp_gathered hb (isOp ho) hg rfl

/-- A row whose merge failed ends it and nothing is written. -/
theorem execAmerge_differs (hd : (amerged r l).any (·.2) = true) : exec (.amerge id) s = .next (finish s id Code.tzFormat) := by
  rw [execAmerge_bytes hb ho hg, amergeOn, if_pos hd, retag_finish]

theorem execAmerge_delivers (hd : (amerged r l).any (·.2) = false) :
    exec (.amerge id) s = .next (retag s (emit s r [amergeResult r ((amerged r l).map (·.1))])) := by
  rw [execAmerge_bytes hb ho hg, amergeOn, if_neg (Bool.eq_false_iff.mp hd)]
end

/-! ### EXPAND (R156, R157) -/

/-- The code of the pages that an EXPAND reads (R153). -/
def expandPagesCode (s : State) (r : Running) : Nat :=
  pagesCode s r ((List.range (fieldBytes r.blk 3 1)).map (· + fieldBytes r.blk 2 1)) (fieldBytes r.blk 8 3) (fieldBytes r.blk 8 3 + fieldBytes r.blk 12 4)

/-- What an EXPAND does on `u`, its pages marked as used: the keys and then the values, each where its flag asks for it. -/
def expandOn (u : State) (r : Running) (m : Model) : State :=
  let k := if r.ent.flag 4 then expandBuf u r m true else (u, [])
  let v := if r.ent.flag 5 then expandBuf k.1 r m false else (k.1, [])
  emit v.1 r ((if r.ent.flag 4 then [{ buf := bufAt r.blk 16, how := .write, pieces := k.2 }] else []) ++
    (if r.ent.flag 5 then [{ buf := bufAt r.blk 32, how := .write, pieces := v.2 }] else []))

section
variable {m : Model}

theorem execExpand_readable (hb : Begun s id r) (ho : r.ent.opcode = opExpand) (hm : findModel s r.ent.a = some m) (hw : isSwapped s r = false)
    (hc : expandPagesCode s r = 0) : exec (.expand id) s = .next (retag s (expandOn (touchPages s r) r m)) := by
  rw [exec_expand, execExpand]
  refine runOp_eq hb (isOp ho) ?_
  simp only [hm, hw, Bool.false_eq_true, ↓reduceIte]
  exact if_neg (not_not_intro hc)

/-! ### CONVERT in row form (R158) -/

theorem execConvertRow_stores {rows : List (Nat × Nat × List Byte)} (hb : Begun s id r) (ho : r.ent.opcode = opConvert) (hf : r.ent.flag 4 = true) (hw : isSwapped s r = false)
    (hm : findModel s r.ent.a = some m) (hs : sourceRows s r m.desc = .ok rows) : exec (.convertRow id) s = .next (retag s (writePrivate s r m.desc rows)) := by
  rw [exec_convertRow, execConvertRow]
  refine runOp_eq hb ?_ ?_
  · rw [isOp ho, hf, Bool.and_self]
  · simp only [hw, hm, hs, Bool.false_eq_true, ↓reduceIte]
end

/-! ### CONVERT in buffer form (R159, R198, R199) -/

/-- The values that `n` elements of a format hold, taken to FP32. -/
def loadFormat (c n : Nat) (bs : List Byte) : List Fv :=
  match plainFmt c, mxElem c with
  | some f, _ => loadPlain f n bs
  | none, some f => mxLoad32 f n bs
  | none, none => []

/-- Values as the bytes of a format. -/
def storeFormat (c : Nat) (vs : List Fv) : List Byte :=
  match plainFmt c, mxElem c with
  | some f, _ => storePlain f vs
  | none, some f => mxStore f vs
  | none, none => []

theorem loadFormat_plain {c : Nat} {f : Fmt} (h : plainFmt c = some f) (n : Nat) (bs : List Byte) : loadFormat c n bs = loadPlain f n bs := by rw [loadFormat, h]

theorem storeFormat_plain {c : Nat} {f : Fmt} (h : plainFmt c = some f) (vs : List Fv) : storeFormat c vs = storePlain f vs := by rw [storeFormat, h]

theorem storeFormat_mx {c : Nat} {f : Fmt} (h : plainFmt c = none) (hx : mxElem c = some f) (vs : List Fv) : storeFormat c vs = mxStore f vs := by
  rw [storeFormat, h, hx]

/-- The one operand of a CONVERT in buffer form: wide cells, or elements of the source format. -/
def convertRefs (r : Running) : List (BufRef × Nat) :=
  [(bufAt r.blk 16, if r.ent.flag 5 then 16 * r.ent.a else formatBytes (fieldBytes r.blk 2 1) r.ent.a)]

/-- The exact values of `n` wide cells (R204). -/
def cellValues (n : Nat) (bs : List Byte) : List Fv := (List.range n).map (fun i => (Cell96.ofBytes (sliceBytes bs (16 * i) 16)).value)

/-- The values that a CONVERT in buffer form reads. -/
def convertValues (r : Running) (bs : List Byte) : List Fv :=
  if r.ent.flag 5 then cellValues r.ent.a bs else loadFormat (fieldBytes r.blk 2 1) r.ent.a bs

/-- What a CONVERT in buffer form delivers of values already in the bytes of the destination format. -/
def convertResult (r : Running) (bs : List Byte) : Result := { buf := bufAt r.blk 32, how := .write, pieces := [(0, bs)] }

section
variable (hb : Begun s id r) (ho : r.ent.opcode = opConvert) (h4 : r.ent.flag 4 = false) (hg : gather s r (convertRefs r) = .bytes l)
include hb ho h4 hg

theorem execConvertBuffer_bytes :
    exec (.convertBuffer id) s = .next (retag s (emit s r [convertResult r (storeFormat r.ent.format (convertValues r (l.headD [])))])) := by
  have his : (r.ent.opcode == opConvert && !r.ent.flag 4) = true := by rw [isOp ho, h4]; rfl
  rw [exec_convertBuffer, execConvertBuffer]
  exact runOp_gathered (k := fun l => emit s r [convertResult r (storeFormat r.ent.format (convertValues r (l.headD [])))]) hb his hg rfl

theorem execConvertBuffer_cells {f : Fmt} (hf : plainFmt r.ent.format = some f) (h5 : r.ent.flag 5 = true) :
    exec (.convertBuffer id) s = .next (retag s (emit s r [convertResult r (storePlain f (cellValues r.ent.a (l.headD [])))])) := by
  rw [execConvertBuffer_bytes hb ho h4 hg, storeFormat_plain hf, convertValues, if_pos h5]

theorem execConvertBuffer_mx {f g : Fmt} (hx : mxElem r.ent.format = some f) (hf : plainFmt r.ent.format = none) (hs : plainFmt (fieldBytes r.blk 2 1) = some g)
    (h5 : r.ent.flag 5 = false) : exec (.convertBuffer id) s = .next (retag s (emit s r [convertResult r (mxStore f (loadPlain g r.ent.a (l.headD [])))])) := by
  rw [execConvertBuffer_bytes hb ho h4 hg, storeFormat_mx hf hx, convertValues, if_neg (Bool.eq_false_iff.mp h5), loadFormat_plain hs]
end

/-! ### Dot products of at most 64 terms in fast mode (R201) -/

/-- A zero is written as a zero of its sign, whatever its exponent. -/
theorem Fmt.write_zero (f : Fmt) (neg : Bool) (e : Int) : f.write (.fin neg 0 e) = f.withSign neg 0 := by
  have num : (scaleRat 0 1 e).1 = 0 := by unfold scaleRat; split <;> simp
  simp only [write, roundRat, magBits, num, ↓reduceIte, gt_iff_lt, Nat.not_lt_zero]

theorem rn32_nan : rn32 .nan = .nan := by decide

/-- A zero keeps its value when it is rounded first. -/
theorem Fmt.write_rn32_zero (f : Fmt) : f.write (rn32 (.fin false 0 0)) = f.write (.fin false 0 0) := by
  have round : rn32 (.fin false 0 0) = .fin false 0 (-149) := by decide
  rw [round, write_zero, write_zero]

/-- A value rounded to FP32 is written in a format; a NaN as the canonical one. -/
theorem Fmt.write_rn32 (f : Fmt) (v : Fv) : f.write (rn32 v) = if v = .nan then f.canonNaN else f.write (rn32 v) := by
  split
  · next h =>
    rw [h, rn32_nan]
    rfl
  · rfl

theorem chunks_whole {α : Type} {as : List α} {n : Nat} (h : as.length ≤ n) : chunks n 1 as = [as] := by
  simp only [chunks, List.take_of_length_le h]

/-- One exact sum, rounded once. -/
theorem freeDot_short {as bs : List Fv} (f : Nat → Nat) (n : Nat) (hp : 0 < as.length) (ha : as.length ≤ 64) (hb : bs.length ≤ 64) :
    freeDot f n as bs none = (n, rn32 (dot as bs)) := by
  have one : ceilDiv as.length 64 = 1 := by unfold ceilDiv; omega
  simp only [freeDot, one, chunks_whole ha, chunks_whole hb, List.zip_cons_cons, List.zip_nil_right, List.map_cons, List.map_nil, Option.toList_none, List.append_nil]

theorem gemmElem_fast (s : State) (f out : Fmt) (as bs : List Fv) :
    gemmElem s false f out as bs none = ({ s with free := (freeDot Config.freeNat s.free as bs none).1 }, out.write (freeDot Config.freeNat s.free as bs none).2) := rfl

/-- One element of a GEMM in fast mode: the exact sum, rounded once and then written. -/
theorem gemmElem_short {as bs : List Fv} (s : State) (f out : Fmt) (ha : as.length ≤ 64) (hb : bs.length ≤ 64) :
    gemmElem s false f out as bs none = (s, if dot as bs = .nan then out.canonNaN else out.write (rn32 (dot as bs))) := by
  rw [← Fmt.write_rn32, gemmElem_fast]
  cases as with
  | nil => exact congrArg (Prod.mk s) out.write_rn32_zero.symm
  | cons a as => rw [freeDot_short _ _ (List.length_pos_of_mem List.mem_cons_self) ha hb]

/-! ### GEMM with one row and one column (R160) -/

/-- The operands of a GEMM with one row and one column: R160's extents of A and B for M = N = 1. -/
def dotRefs (r : Running) (f : Fmt) : List (BufRef × Nat) :=
  [(bufAt r.blk 32, ((1 - 1) * fieldBytes r.blk 20 4 + fieldBytes r.blk 16 4) * (f.width / 8)),
    (bufAt r.blk 48, ((fieldBytes r.blk 16 4 - 1) * fieldBytes r.blk 24 4 + 1) * (f.width / 8))]

/-- `k` elements by their places in a matrix, flushed at the input stage (R200). -/
def flushedElems (f : Fmt) (k : Nat) (place : Nat → Nat) (bs : List Byte) : List Fv :=
  (List.range k).map (fun i => fp8Flush f (f.read (fieldBytes bs (place i * (f.width / 8)) (f.width / 8))))

theorem length_flushedElems (f : Fmt) (k : Nat) (place : Nat → Nat) (bs : List Byte) : (flushedElems f k place bs).length = k := by
  rw [flushedElems, List.length_map, List.length_range]

/-- The row of A and the column of B of such a GEMM, from the bytes of the two. -/
def dotRow (r : Running) (f : Fmt) (x : List Byte) : List Fv := flushedElems f (fieldBytes r.blk 16 4) (fun i => i) x
def dotColumn (r : Running) (f : Fmt) (y : List Byte) : List Fv := flushedElems f (fieldBytes r.blk 16 4) (fun i => i * fieldBytes r.blk 24 4) y

/-- The result of such a GEMM: the dot product, rounded once. -/
def dotResult (r : Running) (out : Fmt) (v : Fv) : Result :=
  { buf := bufAt r.blk 80, how := .write, pieces := [(0, leBytes (out.width / 8) (if v = .nan then out.canonNaN else out.write (rn32 v)))] }

theorem execGemm_dot {f out : Fmt} {x y : List Byte} (hb : Begun s id r) (ho : r.ent.opcode = opGemm) (hf : plainFmt r.ent.format = some f)
    (hout : plainFmt (fieldBytes r.blk 2 1) = some out) (hm : fieldBytes r.blk 8 4 = 1) (hn : fieldBytes r.blk 12 4 = 1) (hk : fieldBytes r.blk 16 4 ≤ 64)
    (h4 : r.ent.flag 4 = false) (hd : r.ent.det = false) (hg : gather s r (dotRefs r f) = .bytes (x :: y :: l)) :
    exec (.gemm id) s = .next (retag s (emit s r [dotResult r out (dot (dotRow r f x) (dotColumn r f y))])) := by
  have elem := gemmElem_short (as := dotRow r f x) (bs := dotColumn r f y) s f out ((length_flushedElems ..).trans_le hk) ((length_flushedElems ..).trans_le hk)
  simp only [dotRefs] at hg
  simp only [dotRow, dotColumn, flushedElems] at elem
  rw [exec_gemm, execGemm]
  refine runOp_eq hb (isOp ho) ?_
  simp only [hf, hout, hm, hn, h4, hd, hg, elem, Option.getD_some, Bool.false_eq_true, ↓reduceIte, List.append_nil, List.nil_append, List.headD_cons,
    List.drop_succ_cons, List.drop_zero, List.range_one, List.foldl_cons, List.foldl_nil, Nat.zero_mul, Nat.zero_add, Nat.add_zero]
  rfl

/-! ### VOP of two operands (R161) -/

/-- The operands of a VOP that adds or multiplies: two vectors of its format. -/
def vopRefs (r : Running) (f : Fmt) : List (BufRef × Nat) := [(bufAt r.blk 16, r.ent.a * (f.width / 8)), (bufAt r.blk 32, r.ent.a * (f.width / 8))]

/-- The sums or the products, each rounded to FP32. -/
def sumsOrProducts (op : Nat) (as bs : List Fv) : List Fv :=
  as.zipIdx.map (fun e =>
    let b := bs.getD e.2 (.fin false 0 0)
    rn32 (if op = 0 then e.1.add b else e.1.mul b))

theorem vopVals_of_lt_two {op : Nat} (h : op < 2) (w free : Nat) (imm : Fv) (as bs : List Fv) (mask : List Byte) :
    vopVals op w free imm as bs mask = sumsOrProducts op as bs := by
  obtain rfl | rfl : op = 0 ∨ op = 1 := by omega
  · rfl
  · rfl

/-- The result of such a VOP. -/
def vopResult (r : Running) (f : Fmt) (x y : List Byte) : Result :=
  { buf := bufAt r.blk 48, how := .write, pieces := [(0, storePlain f (sumsOrProducts r.ent.op74 (loadPlain f r.ent.a x) (loadPlain f r.ent.a y)))] }

theorem execVop_two {f : Fmt} {x y : List Byte} (hb : Begun s id r) (ho : r.ent.opcode = opVop) (h2 : r.ent.op74 < 2) (hf : plainFmt r.ent.format = some f)
    (hg : gather s r (vopRefs r f) = .bytes (x :: y :: l)) :
    exec (.vop id) s = .next (retag s (emit { s with free := s.free + r.ent.a } r [vopResult r f x y])) := by
  have second : [0, 1, 3, 4, 6, 7].contains r.ent.op74 = true := by
    rw [List.contains_iff_mem]
    simp only [List.mem_cons]
    omega
  have wide : r.ent.op74 ≠ 7 := by omega
  rw [exec_vop, execVop]
  refine runOp_eq hb (isOp ho) ?_
  simp only [hf, second, wide, vopVals_of_lt_two h2, Option.getD_some, bne_iff_ne, ne_eq, not_false_eq_true, Bool.true_and, ↓reduceIte, List.cons_append, List.nil_append]
  rw [← vopRefs, hg]
  rfl
end

/-- Settles O16: each row by the lemma of its form with its operands at hand. -/
theorem computeRows : Obligations.ComputeRows := by
  unfold Obligations.ComputeRows
  intro s id r hb
  refine ⟨fun l ho => ?amerge, fun m ho hm hw => execExpand_readable hb ho hm hw, fun m rows ho h4 hw => execConvertRow_stores hb ho h4 hw,
    fun l ho h4 hg => ⟨fun f => execConvertBuffer_cells hb ho h4 hg, fun f g => execConvertBuffer_mx hb ho h4 hg⟩,
    fun f out x y l ho => execGemm_dot hb ho, fun f x y l ho h2 hf => execVop_two hb ho h2 hf⟩
  case amerge => exact fun hg => ⟨execAmerge_differs hb ho hg, execAmerge_delivers hb ho hg⟩

end Sys2Proof.Machine
end

section
/-!
PROOF. A castle's messages at its owner, its target and the home, and the castle timeout (R223 to R228).
-/

namespace Sys2Proof.Machine

open Sys2Proof

theorem exec_offer (h : Hdr) (x : Handle) (epoch comp a b : Nat) (model : ModelRec) (desc : SeqRecord) (s : State) :
    exec (.offer h x epoch comp a b model desc) s = execOffer h x epoch comp a b model desc s := rfl
theorem exec_decline (h : Hdr) (x : Handle) (epoch code : Nat) (s : State) : exec (.decline h x epoch code) s = execDecline h x epoch code s := rfl
theorem exec_pull (h : Hdr) (x : Handle) (epoch kind : Nat) (entry : PageEntry) (s : State) : exec (.pull h x epoch kind entry) s = execPull h x epoch kind entry s := rfl
theorem exec_page (h : Hdr) (x : Handle) (epoch kind : Nat) (entry : PageEntry) (bytes : List Byte) (s : State) :
    exec (.page h x epoch kind entry bytes) s = execPage h x epoch kind entry bytes s := rfl
theorem exec_accept (h : Hdr) (x : Handle) (epoch : Nat) (entries : List PageEntry) (s : State) : exec (.accept h x epoch entries) s = execAccept h x epoch entries s := rfl
theorem exec_abort (h : Hdr) (x : Handle) (epoch code : Nat) (s : State) : exec (.abort h x epoch code) s = execAbort h x epoch code s := rfl
theorem exec_commit (h : Hdr) (x : Handle) (epoch target : Nat) (entries : List PageEntry) (s : State) :
    exec (.commit h x epoch target entries) s = execCommit h x epoch target entries s := rfl
theorem exec_committed (h : Hdr) (x : Handle) (epoch code version : Nat) (s : State) :
    exec (.committed h x epoch code version) s = execCommitted h x epoch code version s := rfl
theorem exec_take (h : Hdr) (x : Handle) (epoch : Nat) (s : State) : exec (.take h x epoch) s = execTake h x epoch s := rfl
theorem exec_taken (h : Hdr) (x : Handle) (epoch : Nat) (s : State) : exec (.taken h x epoch) s = execTaken h x epoch s := rfl
theorem exec_castleTimeoutExpiry (x : Handle) (s : State) : exec (.castleTimeoutExpiry x) s = execCastleTimeoutExpiry x s := rfl

/-! ### OFFER (R223, R225 step 2) -/

/-- What keeps a device of the composition from taking an offered sequence: it is short of frames (R236, R242), or it is not under G or holds a live copy (the model's choice). -/
def Declines (u : State) (x : Handle) : Prop :=
  u.pers ≠ some .generation ∨ (findCopy u x).any (fun c => c.st != .stale) = true ∨ refusesFrames u = true ∨ freeFrames u < lowWater u

theorem not_declines {u : State} {x : Handle} (hg : u.pers = some .generation) (hc : (findCopy u x).any (fun c => c.st != .stale) = false) (hr : refusesFrames u = false)
    (hf : lowWater u ≤ freeFrames u) : ¬ Declines u x := by
  simp only [Declines, hg, hc, hr, Nat.not_lt.mpr hf, ne_eq, not_true_eq_false, Bool.false_eq_true, or_self, not_false_eq_true]

/-- Every entry of an offered record, to be pulled. -/
def pullsOf (pages : List (List PageEntry)) : List EntryItem :=
  pages.zipIdx.flatMap (fun l => l.1.zipIdx.map (fun e => ({ layer := l.2, index := e.2, entry := e.1 } : EntryItem)))

/-- The copy that an adopted OFFER begins, for the pages `nums`. -/
def offeredCopy (x : Handle) (epoch comp peer : Nat) (desc : SeqRecord) (model : Handle) (nums : List (List Nat)) (weights : List Nat) : SeqCopy :=
  { newCopy x .pulling epoch desc model desc.pages.length with
    pages := nums, peer := peer, castleComp := comp, pulls := pullsOf desc.pages, weightPulls := weights }

/-- The target begins to pull for a new copy. -/
def startPulls (s : State) (x : Handle) (c : SeqCopy) : State :=
  maybeAccept (sendPulls 256 (armCastle { s with own := { s.own with copies := s.own.copies ++ [c] } } x) x) x

section
variable {s : State} {h : Hdr} {x : Handle} {comp : Nat} (epoch a b : Nat)

theorem handled_offer_outside (model : ModelRec) (desc : SeqRecord) (hi : inComp (arrive s h).1 comp h.src = false) :
    Handled (.offer h x epoch comp a b model desc) s h (control (arrive s h).1 h.src x (.decline epoch Code.cmpNotMember)) := by
  refine handled_of (by rw [exec_offer, execOffer]) ?_
  rw [hi]
  rfl

variable (hi : inComp (arrive s h).1 comp h.src = true)
include hi

theorem handled_offer_declined (model : ModelRec) (desc : SeqRecord) (hd : Declines (arrive s h).1 x) :
    Handled (.offer h x epoch comp a b model desc) s h (control (arrive s h).1 h.src x (.decline epoch Code.memExhausted)) := by
  refine handled_of (by rw [exec_offer, execOffer]) ?_
  rw [hi]
  exact if_pos hd

theorem handled_offer_adopted {model : ModelRec} {desc : SeqRecord} {s1 s2 : State} {m : Model} {created : Bool} {nums : List (List Nat)} (hd : ¬ Declines (arrive s h).1 x)
    (hm : adoptModel (dropCopy (arrive s h).1 x) model = some (s1, m, created)) (hr : reserveAll x m.desc s1 0 desc.pages = some (s2, nums)) :
    Handled (.offer h x epoch comp a b model desc) s h
      (startPulls s2 x (offeredCopy x epoch comp h.src desc (modelHandle s2 m) nums (if created then List.range m.weightPages else []))) := by
  refine handled_of (by rw [exec_offer, execOffer]) ?_
  rw [hi]
  refine (if_neg hd).trans ?_
  simp only [hm, hr]
  rfl
end

/-! ### Messages of a castle in progress, at its owner and at its target (R225, R228) -/

/-- The owner's state once a PULL has come: PULLED, with its timer started again. -/
def nowPulled (u : State) (x : Handle) : State := armCastle (modCopy u x (fun c => { c with st := .pulled })) x

/-- Where a record has a page's entry: its layer and its index there. -/
def entryPlace (desc : SeqRecord) (number : Nat) : Option (Nat × Nat) :=
  desc.pages.zipIdx.findSome? (fun l => (l.1.zipIdx.find? (fun e => e.1.number == number)).map (fun e => (l.2, e.2)))

/-- A pulled page's bytes are stored in page `n`. -/
def pullStored (u : State) (m : ModelRec) (n : Nat) (entry : PageEntry) (bytes : List Byte) : State :=
  { u with pages := mapIf (fun p => p.number == n) (fun p => { p.written with rows := rowsOfBytes (rowBytes m) entry.tokens bytes, tokens := entry.tokens }) u.pages }

/-- The target counts an arrived page and goes on with the castle. -/
def pullsGoOn (s : State) (x : Handle) : State :=
  maybeAccept (sendPulls 256 (armCastle (modCopy s x (fun c => { c with outstanding := c.outstanding - 1, tries := 0 })) x) x) x

/-- The owner's state once it has taken an ACCEPT: COMMITTING, with the target's entries. -/
def nowCommitting (u : State) (x : Handle) (entries : List PageEntry) : State :=
  armCastle (modCopy u x (fun c => { c with st := .committing, tries := 0, desc := { c.desc with pages := relist (c.desc.pages.map List.length) entries } })) x

section
variable {s : State} {h : Hdr} {x : Handle} {c : SeqCopy} {epoch : Nat}
variable (hc : findCopy (arrive s h).1 x = some c)
include hc

/-- Only the state PULLED takes an ACCEPT (R228). -/
theorem handled_accept_ignored (epoch : Nat) (entries : List PageEntry) (hs : c.st ≠ .pulled) : Handled (.accept h x epoch entries) s h (arrive s h).1 := by
  refine handled_of (by rw [exec_accept, execAccept]) ?_
  simp only [hc]
  exact if_neg (fun taken => hs taken.1)

variable (he : c.epoch = epoch) (hp : c.peer = h.src)
include he hp

theorem handled_decline (code : Nat) (hs : c.st = .offered ∨ c.st = .pulled) : Handled (.decline h x epoch code) s h (castleEnds (arrive s h).1 x code) := by
  refine handled_of (by rw [exec_decline, execDecline]) ?_
  simp only [hc]
  exact if_pos ⟨hs, he, hp⟩

theorem handled_pull_readable {m : Model} {p : Page} {entry : PageEntry} (hs : c.st = .offered ∨ c.st = .pulled) (hm : findModel (arrive s h).1 c.model = some m)
    (hf : findPage (nowPulled (arrive s h).1 x) entry.number = some p) (hr : unreadable (nowPulled (arrive s h).1 x) p = false) :
    let t := nowPulled (arrive s h).1 x
    Handled (.pull h x epoch 0 entry) s h
      (controlVia (setPage t { p with lastRead := t.now }) c.castleComp h.src x (.page epoch 0 entry (pageBytes (rowBytes m.desc) (perPage m.desc) p))) := by
  refine handled_of (by rw [exec_pull, execPull]) ?_
  simp only [nowPulled] at hf hr
  simp only [hc, hm, hf, hr, Nat.zero_ne_one, Bool.false_eq_true, ↓reduceIte]
  exact if_pos ⟨hs, he, hp⟩

theorem handled_page_placed {m : Model} {layer index n : Nat} {entry : PageEntry} (bytes : List Byte) (hs : c.st = .pulling) (hm : findModel (arrive s h).1 c.model = some m)
    (hl : entryPlace c.desc entry.number = some (layer, index)) (hn : (c.pages.getD layer [])[index]? = some n) :
    Handled (.page h x epoch 0 entry bytes) s h (pullsGoOn (pullStored (arrive s h).1 m.desc n entry bytes) x) := by
  refine handled_of (by rw [exec_page, execPage]) ?_
  simp only [entryPlace] at hl
  simp only [hc, hm, hl, hn, Option.bind_some, Nat.zero_ne_one, ↓reduceIte]
  exact if_pos ⟨hs, he, hp⟩

theorem handled_accept_commits (entries : List PageEntry) (hs : c.st = .pulled) :
    Handled (.accept h x epoch entries) s h (sendCommit (nowCommitting (arrive s h).1 x entries) x epoch h.src c.castleComp entries) := by
  refine handled_of (by rw [exec_accept, execAccept]) ?_
  simp only [hc]
  exact if_pos ⟨hs, he, hp⟩

/-- An ABORT of the castle in progress, by the side that takes it. -/
theorem handled_abort (code : Nat) : Handled (.abort h x epoch code) s h (
    if c.st = .pulling ∨ c.st = .accepted then dropCopy (freeCopyPages (arrive s h).1 x) x
    else if c.st = .offered ∨ c.st = .pulled then castleEnds (arrive s h).1 x code
    else (arrive s h).1) := by
  refine handled_of (by rw [exec_abort, execAbort]) ?_
  simp only [hc]
  exact if_neg (fun other => other.elim (fun ne => ne he) (fun ne => ne hp))

theorem handled_abort_target (code : Nat) (hs : c.st = .pulling ∨ c.st = .accepted) :
    Handled (.abort h x epoch code) s h (dropCopy (freeCopyPages (arrive s h).1 x) x) :=
  (if_pos hs).subst (motive := Handled _ s h) (handled_abort hc he hp code)

theorem handled_abort_owner (code : Nat) (hs : c.st = .offered ∨ c.st = .pulled) : Handled (.abort h x epoch code) s h (castleEnds (arrive s h).1 x code) := by
  have ends := handled_abort hc he hp code
  rwa [if_neg (by rcases hs with hs | hs <;> simp [hs]), if_pos hs] at ends
end

/-! ### The commit at the home and its answer (R218, R225 steps 5 and 6) -/

section
variable {s : State} {h : Hdr} {x : Handle}

/-- A COMMIT of another device than the home's partner, which may forward one, is asked of the record under its sender and epoch. -/
theorem handled_commit (epoch target : Nat) (entries : List PageEntry) {r : HomeRec} (hr : findHome (asHome (arrive s h).1 x) x = some r)
    (hp : h.src ≠ (asHome (arrive s h).1 x).ident.partner) :
    Handled (.commit h x epoch target entries) s h
      (homeAsk (asHome (arrive s h).1 x) x (some (h.src, epoch)) (.commit target r.castleComp entries) (.committed h.src)) := by
  refine handled_of (by rw [exec_commit, execCommit]) ?_
  simp only [hr, hp, false_and, ↓reduceIte]

variable {c : SeqCopy} (hc : findCopy (arrive s h).1 x = some c) (epoch : Nat)
include hc

theorem handled_committed_ignored (code version : Nat) (hs : c.st ≠ .committing) : Handled (.committed h x epoch code version) s h (arrive s h).1 := by
  refine handled_of (by rw [exec_committed, execCommitted]) ?_
  simp only [hc]
  exact if_pos hs

theorem handled_committed_answered (code version : Nat) (hs : c.st = .committing) :
    Handled (.committed h x epoch code version) s h (if code = 0 then ownerCommitted (arrive s h).1 x epoch else fenceCopy (arrive s h).1 x code) := by
  refine handled_of (by rw [exec_committed, execCommitted]) ?_
  simp only [hc]
  exact if_neg (not_not_intro hs)
end

/-! ### What TAKE leaves at the target (R225 step 7) -/

theorem noteFailed_fab (s : State) (o : OutMsg) (code : Nat) : OnlyFab s (noteFailed s o code) := by
  unfold noteFailed
  split
  · rfl
  · exact OnlyFab.refl s

theorem controlVia_fab (s : State) (comp d : Nat) (x : Handle) (m : Msg) : OnlyFab s (controlVia s comp d x m) := by
  unfold controlVia
  split
  · exact transmit_fab _ _ _
  · exact noteFailed_fab _ _ _

theorem raiseVec_own (s : State) (fid vec : Nat) : (raiseVec s fid vec).own = s.own := by rw [raiseVec_eq]

theorem commitNotice_own (s : State) (x : Handle) (epoch old : Nat) : (commitNotice s x epoch old).own = s.own := by
  have vectors : ∀ (l : List (Nat × Nat)) (t : State), (l.foldl (fun s n => raiseVec s n.1 n.2) t).own = t.own := by
    intro l
    induction l with
    | nil => exact fun _ => rfl
    | cons n l ih => exact fun t => (ih _).trans (raiseVec_own t n.1 n.2)
  exact vectors s.notify s

theorem findCopy_congr {s t : State} (h : s.own = t.own) (x : Handle) : findCopy s x = findCopy t x := by rw [findCopy, h, ← findCopy]

/-- The pages that a target keeps beyond those of the record: its tail reserve (R216). -/
def reservePages (s : State) (x : Handle) (c : SeqCopy) : List Page :=
  s.pages.filter (fun p => p.obj == x && p.kind == .priv && !(c.pages.flatten.contains p.number))

/-- A copy with some pages added to its lists, which then waits for the home to add them to the record. -/
def withListed (ps : List Page) (c : SeqCopy) : SeqCopy :=
  let items := ps.map (fun p => ({ layer := p.layer, index := p.index, entry := p.entry } : EntryItem))
  { c with
    pages := c.pages.zipIdx.map (fun y => y.1 ++ (ps.filter (fun p => p.layer == y.2)).map (·.number))
    waits := if items.isEmpty then c.waits else c.waits ++ [(.add items, .acked (ps.map (·.number)) none)] }

/-- The copy of a device that has become owner (R225 step 7). -/
def ownedCopy (s : State) (epoch comp : Nat) (c : SeqCopy) : SeqCopy :=
  { c with
    st := .owner, epoch := epoch, peer := noDevice, castleInstr := none, claimInstr := none, pulls := [], outstanding := 0, lastAttend := s.now
    desc := { c.desc with owner := self s, epoch := epoch, state := 0, target := noDevice, comp := comp } }

section
variable {s : State} {x : Handle} {c : SeqCopy} (hc : findCopy s x = some c)
include hc

theorem listReserve_own : (listReserve s x).own = (modCopy s x (withListed (reservePages s x c))).own := by
  simp only [listReserve, hc]
  rw [apply_ite State.own, toHome, (controlVia_fab _ _ _ _ _).own, ite_self]
  rfl

theorem becomeOwner_own (epoch comp : Nat) : (becomeOwner s x epoch comp).own = (listReserve (modCopy s x (ownedCopy s epoch comp)) x).own := by
  simp only [becomeOwner, hc]
  exact commitNotice_own _ _ _ _

/-- The new owner's copy: `ownedCopy` with its tail reserve listed; of what the device owns nothing else changes. -/
theorem becomeOwner_takes (epoch comp : Nat) : findCopy (becomeOwner s x epoch comp) x = some (withListed (reservePages s x c) (ownedCopy s epoch comp c)) ∧
    (becomeOwner s x epoch comp).own.castlesIn = s.own.castlesIn := by
  have owned : findCopy (modCopy s x (ownedCopy s epoch comp)) x = some (ownedCopy s epoch comp c) := by
    rw [findCopy_modCopy s x (ownedCopy s epoch comp) (fun _ => rfl), hc]
    rfl
  have own := (becomeOwner_own hc epoch comp).trans (listReserve_own owned)
  constructor
  · rw [findCopy_congr own, findCopy_modCopy _ x (withListed _) (fun _ => rfl), owned]
    rfl
  · rw [own]
    rfl
end

/-! ### TAKE and TAKEN (R225 steps 7 and 8) -/

/-- The target's state once it has taken a TAKE: one castle more, and owner at the new epoch. -/
def nowOwner (u : State) (x : Handle) (c : SeqCopy) (epoch : Nat) : State :=
  becomeOwner { u with own := { u.own with castlesIn := wrapAdd 32 u.own.castlesIn 1 } } x epoch (if c.desc.comp = 0xFFFF then c.castleComp else c.desc.comp)

theorem nowOwner_takes {u : State} {x : Handle} {c : SeqCopy} (hc : findCopy u x = some c) (epoch : Nat) :
    (findCopy (nowOwner u x c epoch) x).map (fun c => (c.st, c.epoch, c.peer, c.desc.owner)) = some (.owner, epoch, noDevice, self u) ∧
      (nowOwner u x c epoch).own.castlesIn = wrapAdd 32 u.own.castlesIn 1 := by
  have counted : findCopy { u with own := { u.own with castlesIn := wrapAdd 32 u.own.castlesIn 1 } } x = some c := hc
  obtain ⟨found, count⟩ := becomeOwner_takes counted epoch (if c.desc.comp = 0xFFFF then c.castleComp else c.desc.comp)
  refine ⟨?_, count⟩
  rw [nowOwner, found]
  rfl

section
variable {s : State} {h : Hdr} {x : Handle} {c : SeqCopy} (hc : findCopy (arrive s h).1 x = some c) (epoch : Nat) (hp : c.peer = h.src)
include hc hp

theorem handled_take (hs : c.st = .accepted) : Handled (.take h x epoch) s h (controlVia (nowOwner (arrive s h).1 x c epoch) c.castleComp h.src x (.taken epoch)) := by
  refine handled_of (by rw [exec_take, execTake]) ?_
  simp only [hc]
  exact if_pos ⟨hs, hp⟩

/-- With TAKEN the old owner's copy is gone and its CASTLE ends. -/
theorem handled_taken {id : Nat} (hs : c.st = .freed) (hi : c.castleInstr = some id) :
    Handled (.taken h x epoch) s h
      (finishOwn (dropCopy { (arrive s h).1 with own := { (arrive s h).1.own with castlesOut := wrapAdd 32 (arrive s h).1.own.castlesOut 1 } } x) id 0 x h.src epoch) := by
  refine handled_of (by rw [exec_taken, execTaken]) ?_
  simp only [hc, hi]
  exact if_pos ⟨hs, hp⟩
end

/-! ### The castle timeout (R226, R227, R238) -/

section
variable {s : State} {x : Handle} {c : SeqCopy} (hh : s.halted = false) (hp : paused s = false) (hc : findCopy s x = some c)
include hh hp hc

theorem execCastleTimeoutExpiry_early (hd : s.now < c.due) : exec (.castleTimeoutExpiry x) s = .next s := by
  rw [exec_castleTimeoutExpiry, execCastleTimeoutExpiry]
  refine awake_unchanged hh hp ?_
  simp only [hc]
  exact if_pos hd

variable (hd : c.due ≤ s.now)
include hd

theorem execCastleTimeoutExpiry_owner (hs : c.st = .offered ∨ c.st = .pulled) : exec (.castleTimeoutExpiry x) s =
    .next (retag s (castleEnds (controlVia s c.castleComp c.peer x (.abort c.epoch Code.xptRetryExceeded)) x Code.xptRetryExceeded)) := by
  rw [exec_castleTimeoutExpiry, execCastleTimeoutExpiry]
  refine awake_leads hh hp ?_
  simp only [hc]
  refine (if_neg (Nat.not_lt.mpr hd)).trans ?_
  rcases hs with hs | hs <;> rw [hs]

theorem execCastleTimeoutExpiry_target (hs : c.st = .pulling) : exec (.castleTimeoutExpiry x) s =
    .next (retag s (dropCopy (freeCopyPages (controlVia s c.castleComp c.peer x (.abort c.epoch Code.xptRetryExceeded)) x) x)) := by
  rw [exec_castleTimeoutExpiry, execCastleTimeoutExpiry]
  refine awake_leads hh hp ?_
  simp only [hc, hs]
  exact if_neg (Nat.not_lt.mpr hd)

variable (hs : c.st = .committing)
include hs

/-- The COMMIT is sent a second time, and once only (R226). -/
theorem execCastleTimeoutExpiry_commitAgain (ht : c.tries = 0) : exec (.castleTimeoutExpiry x) s =
    .next (retag s (armCastle (modCopy (control s c.desc.partner x (.commit c.epoch c.peer c.desc.pages.flatten)) x (fun c => { c with tries := 1 })) x)) := by
  rw [exec_castleTimeoutExpiry, execCastleTimeoutExpiry]
  refine awake_leads hh hp ?_
  simp only [hc, hs, ht, ↓reduceIte]
  exact if_neg (Nat.not_lt.mpr hd)

theorem execCastleTimeoutExpiry_commitEnds {id : Nat} (ht : c.tries ≠ 0) (hi : c.castleInstr = some id) : exec (.castleTimeoutExpiry x) s =
    .next (retag s (finishOwn (modCopy s x (fun c => { c with st := .owner, castleInstr := none, peer := noDevice, tries := 0 })) id Code.ownCastleTimeout x (self s) c.epoch)) := by
  rw [exec_castleTimeoutExpiry, execCastleTimeoutExpiry]
  refine awake_leads hh hp ?_
  simp only [hc, hs, ht, hi, ↓reduceIte]
  exact if_neg (Nat.not_lt.mpr hd)
end

/-- Settles O20, by the lemma of each message, by what the new owner holds, and by the lemma of each outcome of the timeout. -/
theorem castlingMessages : Obligations.CastlingMessages := by
  unfold Obligations.CastlingMessages
  intro s h x u
  refine ⟨fun epoch comp a b model desc => ⟨?outside, ?declined, ?adopted⟩, fun c epoch hc he hp => ⟨?_, ?_, ?_, ?_, ?_, ?_, ?_⟩, ?commit,
    fun c epoch code version hc => ⟨?_, ?_⟩, fun c epoch hc hs hp => ⟨?_, ?_⟩, fun c epoch id hc hs hp hi => ?_, fun c hh hp hc => ⟨?_, ?_, ?_, ?_, ?_⟩⟩
  case outside => exact handled_offer_outside epoch a b model desc
  case declined => exact fun hi hd => handled_offer_declined epoch a b hi model desc hd
  case adopted => exact fun s1 m created s2 nums hi hg hc hr hf hm hn => handled_offer_adopted epoch a b hi (not_declines hg hc hr hf) hm hn
  · exact handled_decline hc he hp
  · exact fun m p entry hs hm hf hr => handled_pull_readable hc he hp hs hm hf hr
  · exact fun m layer index n entry bytes hs hm hl hn => handled_page_placed hc he hp bytes hs hm hl hn
  · exact fun entries hs => handled_accept_ignored hc epoch entries (by rw [hs]; decide)
  · exact handled_accept_commits hc he hp
  · exact handled_abort_target hc he hp
  · exact handled_abort_owner hc he hp
  case commit => exact fun r epoch target entries hr hp hi => handled_commit epoch target entries hr (by rwa [hi])
  · exact handled_committed_ignored hc epoch code version
  · exact handled_committed_answered hc epoch code version
  · exact handled_take hc epoch hp hs
  · exact nowOwner_takes hc epoch
  · exact handled_taken hc epoch hp hs hi
  · exact execCastleTimeoutExpiry_early hh hp hc
  · exact execCastleTimeoutExpiry_owner hh hp hc
  · exact execCastleTimeoutExpiry_target hh hp hc
  · exact execCastleTimeoutExpiry_commitAgain hh hp hc
  · exact fun id hd hs => execCastleTimeoutExpiry_commitEnds hh hp hc hd hs

end Sys2Proof.Machine
end

section
/-!
PROOF. Pre-emption under G (R234 to R237, R469): when it chooses a sequence, in which order, and the swap of a chosen one.
-/

namespace Sys2Proof.Machine

open Sys2Proof

theorem exec_preemption (s : State) : exec .preemption s = execPreemption s := rfl
theorem exec_sequenceSwap (x : Handle) (s : State) : exec (.sequenceSwap x) s = execSequenceSwap x s := rfl

/-! ### The stop of pre-emption (R236) -/

theorem rearm_preemptStop {s : State} (hf : lowWater s < freeFrames s) : (rearm s).own.preemptStop = false := by
  unfold rearm
  split
  · rfl
  · next kept => exact Bool.eq_false_iff.mpr (fun stopped => kept ⟨stopped, hf⟩)

theorem rearm_scarce {s : State} (hf : freeFrames s ≤ lowWater s) : rearm s = s := if_neg (fun armed => Nat.not_lt.mpr hf armed.2)

/-! ### PREEMPTION (R234) -/

/-- Pre-emption is on and in no stop, nothing is being swapped, and frames are short. -/
def Preempts (s : State) : Prop :=
  s.pers = some .generation ∧ bitOf (s.regs.get 0x00000A0100180010 0x804008) 32 = true ∧ s.own.preemptStop = false ∧ s.own.preempting = [] ∧
    (freeFrames s < lowWater s ∨ s.own.short = true ∨ s.til.walks ≠ [])

theorem not_preempts {s : State} (h : s.pers ≠ some .generation ∨ bitOf (s.regs.get 0x00000A0100180010 0x804008) 32 = false ∨ s.own.preemptStop = true ∨
    s.own.preempting ≠ [] ∨ (lowWater s ≤ freeFrames s ∧ s.own.short = false ∧ s.til.walks = [])) : ¬ Preempts s := by
  rintro ⟨pers, enabled, armed, rests, short⟩
  rcases h with h | h | h | h | ⟨frames, found, walks⟩
  · exact h pers
  · exact Bool.false_ne_true (h.symm.trans enabled)
  · exact Bool.false_ne_true (armed.symm.trans h)
  · exact h rests
  · rcases short with short | short | short
    · exact Nat.not_lt.mpr frames short
    · exact Bool.false_ne_true (found.symm.trans short)
    · exact short walks

section
variable {s : State} (hh : s.halted = false) (hp : paused s = false)
include hh hp

theorem execPreemption_rests (h : ¬ Preempts (rearm s)) : exec .preemption s = .next (rearm s) := by
  rw [exec_preemption, execPreemption]
  exact awake_leads_plain hh hp (if_neg h) (rearm_pages s) (rearm_dev s) (rearm_models s)

theorem execPreemption_chooses (h : Preempts (rearm s)) :
    exec .preemption s = .next (retag s (chooseNext { rearm s with own := { (rearm s).own with short := false } })) := by
  rw [exec_preemption, execPreemption]
  exact awake_leads hh hp (if_pos h)
end

/-! ### The order of the candidates (R234) -/

theorem chosenBefore_lower_class (s : State) {a b : SeqCopy} (h : b.desc.cls < a.desc.cls) : chosenBefore s a b = true ∧ chosenBefore s b a = false := by
  constructor
  · simp only [chosenBefore, decide_eq_true h, Bool.true_or]
  · simp only [chosenBefore, decide_eq_false (Nat.lt_asymm h), beq_eq_false_iff_ne.mpr (Nat.ne_of_lt h), Bool.false_and, Bool.or_false]

theorem chooseNext_enough {s : State} (h : highWater s ≤ freeFrames s) : chooseNext s = s := if_pos h

/-! ### SEQUENCE_SWAP (R235, R236) -/

/-- An instruction on the sequence that is older than its choice is still going on. -/
def swapBusy (s : State) (x : Handle) (c : SeqCopy) : Bool :=
  s.tz.started.any (fun r => (objectsOf s r.ent r.blk).contains x && decide (r.id < c.swapMark) && (decide (r.phase = .ready) || decide (r.phase = .waiting)))

/-- What moving a sequence's unpinned pages to host memory leaves, and whether they all found room there. -/
def swapMoved (s : State) (x : Handle) : State × Bool := swapPages (2 * s.pages.length + 1) s x

/-- The move logged and counted; where host memory was full, pre-emption stops. -/
def swapNoted (s : State) (x : Handle) (c : SeqCopy) : State :=
  let t := ownLog (swapMoved s x).1 x Code.ownPreemptedSwapped (self s) c.epoch
  { t with own := { t.own with preemptions := wrapAdd 32 t.own.preemptions 1, preemptStop := t.own.preemptStop || !(swapMoved s x).2 } }

/-- The home is asked to record the entries that differ from those of the pages `before`; the swap ends at once where none do. -/
def swapRecorded (s : State) (x : Handle) (before : List Page) : State :=
  match findCopy s x with
  | some c =>
    match itemsFor s c (entriesChanged s before) with
    | [] => runCont s x .swapEnd
    | items => changeRecord s x (.change items) .swapEnd
  | none => s

/-- After a swap the next sequence is chosen, unless host memory was full. -/
def swapNext (s : State) (x : Handle) (t : State) : State := walksOn (if (swapMoved s x).2 then chooseNext t else t)

section
variable {s : State} {x : Handle} {c : SeqCopy} {before : List Page}

theorem swapRecorded_unchanged (hc : findCopy s x = some c) (hi : itemsFor s c (entriesChanged s before) = []) : swapRecorded s x before = runCont s x .swapEnd := by
  simp only [swapRecorded, hc, hi]

theorem swapRecorded_changed {i : EntryItem} {l : List EntryItem} (hc : findCopy s x = some c) (hi : itemsFor s c (entriesChanged s before) = i :: l) :
    swapRecorded s x before = changeRecord s x (.change (i :: l)) .swapEnd := by
  simp only [swapRecorded, hc, hi]

variable (hh : s.halted = false) (hp : paused s = false) (hc : findCopy s x = some c)
include hh hp hc

theorem execSequenceSwap_waits (hw : s.own.preempting.contains x = false ∨ swapBusy s x c = true ∨ updatesDone s x = false) : exec (.sequenceSwap x) s = .next s := by
  rw [exec_sequenceSwap, execSequenceSwap]
  refine awake_unchanged hh hp ?_
  simp only [hc]
  exact if_pos (hw.imp_left (fun out => by rw [out]; rfl))

variable (hx : s.own.preempting.contains x = true) (hb : swapBusy s x c = false) (hu : updatesDone s x = true)
include hx hb hu

theorem execSequenceSwap_swaps : exec (.sequenceSwap x) s = .next (retag s (swapNext s x (swapRecorded (swapNoted s x c) x s.pages))) := by
  have rests : ¬ ((!s.own.preempting.contains x) = true ∨ swapBusy s x c = true ∨ updatesDone s x = false) := by
    rw [hx, hb, hu]
    decide
  rw [exec_sequenceSwap, execSequenceSwap]
  refine awake_leads hh hp ?_
  simp only [hc]
  exact if_neg rests

variable {c' : SeqCopy} (hc' : findCopy (swapNoted s x c) x = some c')
include hc'

theorem execSequenceSwap_ends (hi : itemsFor (swapNoted s x c) c' (entriesChanged (swapNoted s x c) s.pages) = []) :
    exec (.sequenceSwap x) s = .next (retag s (swapNext s x (runCont (swapNoted s x c) x .swapEnd))) := by
  rw [execSequenceSwap_swaps hh hp hc hx hb hu, swapRecorded_unchanged hc' hi]

theorem execSequenceSwap_records {i : EntryItem} {l : List EntryItem} (hi : itemsFor (swapNoted s x c) c' (entriesChanged (swapNoted s x c) s.pages) = i :: l) :
    exec (.sequenceSwap x) s = .next (retag s (swapNext s x (changeRecord (swapNoted s x c) x (.change (i :: l)) .swapEnd))) := by
  rw [execSequenceSwap_swaps hh hp hc hx hb hu, swapRecorded_changed hc' hi]
end

/-- Settles O23: PREEMPTION by whether its conditions hold, SEQUENCE_SWAP by whether the sequence's work rests and whether its entries changed, and the order by class. -/
theorem preemptionRows : Obligations.PreemptionRows := by
  unfold Obligations.PreemptionRows
  refine ⟨fun s hh hp => ⟨rearm_preemptStop, rearm_scarce, fun h => ?rests, fun pers enabled armed none short => ?chooses⟩,
    fun s x c hh hp hc => ⟨?waits, fun hx hb hu => ⟨fun c' hc' hi => ?ends, fun c' i l hc' hi => ?records⟩⟩, fun s a b => chosenBefore_lower_class s, fun s => chooseNext_enough⟩
  case rests => exact execPreemption_rests hh hp (not_preempts h)
  case chooses => exact execPreemption_chooses hh hp ⟨pers, enabled, armed, none, short⟩
  case waits => exact execSequenceSwap_waits hh hp hc
  case ends => exact execSequenceSwap_ends hh hp hc hx hb hu hc' hi
  case records => exact execSequenceSwap_records hh hp hc hx hb hu hc' hi

end Sys2Proof.Machine
end

section
/-!
PROOF. Membership in service: BEATs, lost members, leaving, the ring route of a moved device, and the drain of a parting member (R233, R485, R487, R489, R490, R492, R495).
-/

namespace Sys2Proof.Machine

open Sys2Proof

theorem exec_beat (h : Hdr) (frames seqs : Nat) (updating : Bool) (s : State) : exec (.beat h frames seqs updating) s = execBeat h frames seqs updating s := rfl
theorem exec_ringMove (h : Hdr) (device position : Nat) (s : State) : exec (.ringMove h device position) s = execRingMove h device position s := rfl
theorem exec_drainDone (h : Hdr) (s : State) : exec (.drainDone h) s = execDrainDone h s := rfl
theorem exec_beatSendTick (s : State) : exec .beatSendTick s = execBeatSendTick s := rfl
theorem exec_memberLoss (comp d : Nat) (s : State) : exec (.memberLoss comp d) s = execMemberLoss comp d s := rfl
theorem exec_removedSelf (comp : Nat) (s : State) : exec (.removedSelf comp) s = execRemovedSelf comp s := rfl
theorem exec_drainDeadlineExpiry (comp d : Nat) (s : State) : exec (.drainDeadlineExpiry comp d) s = execDrainDeadlineExpiry comp d s := rfl
theorem exec_partingCastleIssue (comp : Nat) (s : State) : exec (.partingCastleIssue comp) s = execPartingCastleIssue comp s := rfl

/-! ### Messages (R489, R490, R495) -/

/-- A device is a member of a composition as this device knows its map. -/
def isMember (s : State) (comp d : Nat) : Bool := (membership? s comp).any (fun m => (mapMember m.map d).isSome)

/-- A member of a composition is marked as parting in its map. -/
def isParting (s : State) (comp d : Nat) : Bool := (membership? s comp).any (fun m => (mapMember m.map d).any (·.parting))

/-- The last BEAT of its device in its composition is kept, in place of the one before. -/
def beatKept (s : State) (b : BeatSeen) : State :=
  { s with cmp := { s.cmp with beats := s.cmp.beats.filter (fun x => !(x.comp == b.comp && x.device == b.device)) ++ [b] } }

/-- Hops on the ring from this device to a position. -/
def hopsTo (s : State) (position : Nat) : Nat := (position + ringPositions s - fieldOf (ringCtrl s) 25 16 % ringPositions s) % ringPositions s

/-- A parting member is marked as drained, and the leader goes on. -/
def memberDrained (s : State) (comp d : Nat) : State := leaderGo { s with cmp := { s.cmp with drained := s.cmp.drained ++ [(comp, d)] } } comp

section
variable {s : State} {h : Hdr}

theorem handled_beat_member (frames seqs : Nat) (updating : Bool) (hm : isMember (arrive s h).1 h.comp h.src = true) :
    HandledHw (.beat h frames seqs updating) s h
      (beatKept (arrive s h).1 { comp := h.comp, device := h.src, at_ := (arrive s h).1.now, frames := frames, seqs := seqs, updating := updating }) 0 :=
  handledHw_of (by rw [exec_beat, execBeat]) (congrArg (·, 0) (if_pos hm))

theorem handled_beat_stranger (frames seqs : Nat) (updating : Bool) (hm : isMember (arrive s h).1 h.comp h.src = false) :
    HandledHw (.beat h frames seqs updating) s h (arrive s h).1 0 :=
  handledHw_of (by rw [exec_beat, execBeat]) (congrArg (·, 0) (if_neg (ne_true_of_eq_false hm)))

theorem handled_ringMove_none {device position : Nat} (hd : device = 0x7FFF ∨ device = self (arrive s h).1 ∨ hopsTo (arrive s h).1 position = 0) :
    HandledAs (.ringMove h device position) s h (arrive s h).1 0 :=
  handledAs_of (by rw [exec_ringMove, execRingMove]) (congrArg (·, 0) (if_pos hd))

theorem handled_ringMove_route {device position : Nat} (hd : device ≠ 0x7FFF) (hs : device ≠ self (arrive s h).1) (hp : hopsTo (arrive s h).1 position ≠ 0) :
    let u := (arrive s h).1
    HandledAs (.ringMove h device position) s h (setReg u (0x580000 + 8 * device) (putField (routeOf u device) 25 16 (hopsTo u position))) 0 :=
  handledAs_of (by rw [exec_ringMove, execRingMove]) (congrArg (·, 0) (if_neg (not_or.mpr ⟨hd, not_or.mpr ⟨hs, hp⟩⟩)))

theorem handled_drainDone_leader (hl : leads (arrive s h).1 h.comp = true) (hm : isParting (arrive s h).1 h.comp h.src = true) :
    HandledAs (.drainDone h) s h (memberDrained (arrive s h).1 h.comp h.src) 0 :=
  handledAs_of (by rw [exec_drainDone, execDrainDone]) (congrArg (·, 0) (if_pos (Bool.and_eq_true_iff.mpr ⟨hl, hm⟩)))

theorem handled_drainDone_other (hl : leads (arrive s h).1 h.comp = false) : HandledAs (.drainDone h) s h (arrive s h).1 0 :=
  handledAs_of (by rw [exec_drainDone, execDrainDone]) (congrArg (·, 0) (if_neg (fun ok => Bool.false_ne_true (hl.symm.trans (Bool.and_eq_true_iff.mp ok).1))))
end

/-! ### The send tick (R490, R499) -/

/-- What this device's BEAT says: its free frames, the sequences it owns, and whether it updates its firmware. -/
def beatMsg (s : State) : Msg :=
  .beat (freeFrames s) ((s.own.copies.filter (fun c => c.st == .owner || c.st == .offered || c.st == .pulled || c.st == .committing)).length) (s.fwRun == 3)

/-- The time of the last send tick is noted. -/
def beatNoted (s : State) : State := { s with cmp := { s.cmp with beatAt := s.now } }

/-- What a send tick sends in one composition: the leader's BEAT to every other member, or a member's to the leader. -/
def beatTo (msg : Msg) (s : State) (m : Membership) : State :=
  if leaderOf s m.map = self s then ((mapDevices m.map).filter (fun d => d != self s)).foldl (fun s d => ctl s m.map.comp d msg) s
  else if leaderOf s m.map = noDevice then s
  else ctl s m.map.comp (leaderOf s m.map) msg

theorem beatTo_leader {s : State} {m : Membership} (msg : Msg) (hl : leaderOf s m.map = self s) :
    beatTo msg s m = ((mapDevices m.map).filter (fun d => d != self s)).foldl (fun s d => ctl s m.map.comp d msg) s := if_pos hl

theorem beatTo_member {s : State} {m : Membership} (msg : Msg) (hl : leaderOf s m.map ≠ self s) (hn : leaderOf s m.map ≠ noDevice) :
    beatTo msg s m = ctl s m.map.comp (leaderOf s m.map) msg := (if_neg hl).trans (if_neg hn)

section
variable {s : State} (hh : s.halted = false)
include hh

theorem execBeatSendTick_early (ht : s.now < s.cmp.beatAt + beatTime s) : exec .beatSendTick s = .next s := by
  rw [exec_beatSendTick, execBeatSendTick]
  exact alive_unchanged hh (if_pos ht)

variable (ht : s.cmp.beatAt + beatTime s ≤ s.now)
include ht

theorem execBeatSendTick_sends : exec .beatSendTick s = .next (retag s (s.comps.foldl (beatTo (beatMsg s)) (beatNoted s))) := by
  rw [exec_beatSendTick, execBeatSendTick]
  exact alive_leads hh (if_neg (Nat.not_lt.mpr ht))

theorem execBeatSendTick_none (hc : s.comps = []) : exec .beatSendTick s = .next (beatNoted s) := by
  rw [execBeatSendTick_sends hh ht, hc, List.foldl_nil, retag_same s (beatNoted s) rfl rfl rfl]

theorem execBeatSendTick_one {m : Membership} (hc : s.comps = [m]) : exec .beatSendTick s = .next (retag s (beatTo (beatMsg s) (beatNoted s) m)) := by
  rw [execBeatSendTick_sends hh ht, hc, List.foldl_cons, List.foldl_nil]

theorem execBeatSendTick_leader {m : Membership} (hc : s.comps = [m]) (hl : leaderOf s m.map = self s) :
    exec .beatSendTick s = .next (retag s (((mapDevices m.map).filter (fun d => d != self s)).foldl (fun u d => ctl u m.map.comp d (beatMsg s)) (beatNoted s))) := by
  rw [execBeatSendTick_one hh ht hc, beatTo_leader (s := beatNoted s) _ hl]
  rfl

theorem execBeatSendTick_member {m : Membership} (hc : s.comps = [m]) (hl : leaderOf s m.map ≠ self s) (hn : leaderOf s m.map ≠ noDevice) :
    exec .beatSendTick s = .next (retag s (ctl (beatNoted s) m.map.comp (leaderOf s m.map) (beatMsg s))) := by
  rw [execBeatSendTick_one hh ht hc, beatTo_member (s := beatNoted s) _ hl hn]
  rfl
end

/-! ### Lost, removed and parting members (R233, R485, R489, R490, R492) -/

section
variable {s : State} {comp d : Nat} {m : Membership} (hh : s.halted = false) (hp : paused s = false) (hm : membership? s comp = some m)
include hh hp hm

theorem execMemberLoss_heard (ht : s.now < silentSince s comp d + lossTime s) : exec (.memberLoss comp d) s = .next s := by
  rw [exec_memberLoss, execMemberLoss]
  refine awake_unchanged hh hp ?_
  simp only [hm]
  exact if_neg (fun lost => Nat.not_lt.mpr lost.2.2.2 ht)

theorem execMemberLoss_lost (hl : leaderOf s m.map = self s) (hd : d ≠ self s) (hi : (mapMember m.map d).isSome = true) (ht : silentSince s comp d + lossTime s ≤ s.now)
    (hf : findChange (declareLost s comp d) comp = none) : exec (.memberLoss comp d) s = .next (retag s (leaderGo (declareLost s comp d) comp)) := by
  rw [exec_memberLoss, execMemberLoss]
  refine awake_leads hh hp ?_
  simp only [hm, hf]
  exact if_pos ⟨.inl hl, hd, hi, ht⟩

theorem execRemovedSelf_leftOut (ho : m.prepared.any (fun p => (mapMember p (self s)).isNone) = true) : exec (.removedSelf comp) s = .next (retag s (leaveComp s comp)) := by
  rw [exec_removedSelf, execRemovedSelf]
  refine awake_leads hh hp ?_
  simp only [hm]
  exact if_pos (.inl ho)

theorem execRemovedSelf_leader (hn : m.prepared = none) (hl : leaderOf s m.map = self s) : exec (.removedSelf comp) s = .next s := by
  rw [exec_removedSelf, execRemovedSelf]
  refine awake_unchanged hh hp ?_
  simp only [hm, hn]
  exact if_neg (fun removed => removed.elim Bool.false_ne_true (fun silent => silent.1 hl))

theorem execDrainDeadlineExpiry_due {t : Nat} (hl : leads s comp = true) (hd : (comp, d, t) ∈ s.cmp.drains) (ht : t + m.map.drainMs * 1000 ≤ s.now) :
    exec (.drainDeadlineExpiry comp d) s = .next (retag s (memberDrained s comp d)) := by
  have due : s.cmp.drains.any (fun y => y.1 == comp && y.2.1 == d && decide (y.2.2 + m.map.drainMs * 1000 ≤ s.now)) = true :=
    List.any_eq_true.mpr ⟨(comp, d, t), hd, by simp only [beq_self_eq_true, decide_eq_true ht, Bool.and_self]⟩
  rw [exec_drainDeadlineExpiry, execDrainDeadlineExpiry]
  refine awake_leads hh hp ?_
  simp only [hm]
  exact if_pos ⟨hl, due⟩

theorem execPartingCastleIssue_other (hn : partingIn s comp = false) : exec (.partingCastleIssue comp) s = .next s := by
  rw [exec_partingCastleIssue, execPartingCastleIssue]
  refine awake_unchanged hh hp ?_
  simp only [hm]
  exact if_pos (.inl hn)

/-- A parting member that owns no sequence and runs nothing tells its leader, and notes that it has. -/
theorem execPartingCastleIssue_done (hn : partingIn s comp = true) (ht : comp ∉ s.cmp.told) (hf : s.fwRun = 1) (hc : s.own.copies = []) (hs : s.tz.started = [])
    (hl : leaderOf s m.map ≠ noDevice) :
    exec (.partingCastleIssue comp) s = .next (retag s (ctl { s with cmp := { s.cmp with told := s.cmp.told ++ [comp] } } comp (leaderOf s m.map) .drainDone)) := by
  have told : s.cmp.told.contains comp = false := by simpa using ht
  rw [exec_partingCastleIssue, execPartingCastleIssue]
  refine awake_leads hh hp ?_
  simp only [hm, hn, told, hf, hc, hs, List.filter_nil, List.isEmpty_nil, List.any_nil, Bool.true_eq_false, Bool.false_eq_true, true_or, not_true_eq_false, or_self, and_self, ↓reduceIte]
  exact if_neg hl
end

/-- Settles O29, by the lemma of each message, of each outcome of the send tick, and of each event of a member. -/
theorem membershipRows : Obligations.MembershipRows := by
  unfold Obligations.MembershipRows
  refine ⟨fun s h => ⟨?beat, ?ringMove, handled_drainDone_leader, handled_drainDone_other⟩, fun s hh => ?tick, fun s comp d m hh hp hm => ?events⟩
  case beat => exact fun frames seqs updating => ⟨handled_beat_member frames seqs updating, handled_beat_stranger frames seqs updating⟩
  case ringMove => exact fun device position => ⟨handled_ringMove_none, handled_ringMove_route⟩
  case tick =>
    exact ⟨execBeatSendTick_early hh, fun ht => ⟨execBeatSendTick_none hh ht, fun m => execBeatSendTick_leader hh ht, fun m => execBeatSendTick_member hh ht⟩⟩
  case events =>
    refine ⟨?_, ?_, ?_, ?_, ?_, ?_, ?_⟩
    · exact execMemberLoss_heard hh hp hm
    · exact execMemberLoss_lost hh hp hm
    · exact execRemovedSelf_leftOut hh hp hm
    · exact execRemovedSelf_leader hh hp hm
    · exact fun t => execDrainDeadlineExpiry_due hh hp hm
    · exact execPartingCastleIssue_other hh hp hm
    · exact execPartingCastleIssue_done hh hp hm

end Sys2Proof.Machine
end

section
/-!
PROOF. The spindle table's swap and its check, the slot boundary, and the task that a free tile takes.
-/

namespace Sys2Proof.Machine

open Sys2Proof

theorem exec_spindleSwap (who : Req) (v : W64) (s : State) : exec (.spindleSwap who v) s = execSpindleSwap who v s := rfl
theorem exec_spindleSwapAbort (who : Req) (v : W64) (s : State) : exec (.spindleSwapAbort who v) s = execSpindleSwapAbort who v s := rfl
theorem exec_slotBoundary (s : State) : exec .slotBoundary s = execSlotBoundary s := rfl

theorem bitOf_or (v w : W64) (i : Nat) : bitOf (v ||| w) i = (bitOf v i || bitOf w i) := by
  simp only [bitOf_eq_testBit, BitVec.toNat_or, Nat.testBit_or]

/-! The two rows write SWAP 1 and ABORT 1, whatever their value says. -/

theorem bitOf_swap (v : W64) : bitOf (v ||| 1) 0 = true := (bitOf_or v 1 0).trans (Bool.or_true _)
theorem bitOf_abort (v : W64) : bitOf (v ||| 2) 1 = true := (bitOf_or v 2 1).trans (Bool.or_true _)

/-! ### The check of a bank (R251) -/

section
variable {s : State} {bank k t c d : Nat}

/-- An entry that grants one tile to two classes fails. -/
theorem entryFails_twice (cycle len : Nat) (ht : t < 32) (hc : c < 4) (hd : d < 4) (hcd : c ≠ d) (gc : natBit (grantBits s bank k c) t = true) (gd : natBit (grantBits s bank k d) t = true) :
    entryFails s bank cycle len k = true := by
  have granted : ∀ e ∈ [c, d], e ∈ (List.range 4).filter (fun e => natBit (grantBits s bank k e) t) := by
    intro e he
    rcases List.mem_pair.mp he with rfl | rfl
    · exact List.mem_filter.mpr ⟨List.mem_range.mpr hc, gc⟩
    · exact List.mem_filter.mpr ⟨List.mem_range.mpr hd, gd⟩
  have two : 1 < ((List.range 4).filter (fun e => natBit (grantBits s bank k e) t)).length := (List.Nodup.subperm (by simpa using hcd) granted).length_le
  simp only [entryFails, Bool.or_eq_true, List.any_eq_true, List.mem_range, decide_eq_true_eq]
  exact .inl (.inl (.inr ⟨t, ht, two⟩))

/-- An entry that grants a tile out of service fails. -/
theorem entryFails_outOfService (cycle len : Nat) (ht : t < 32) (hc : c < 4) (ho : (getT s t).st = .outOfService) (gc : natBit (grantBits s bank k c) t = true) :
    entryFails s bank cycle len k = true := by
  simp only [entryFails, Bool.or_eq_true, Bool.and_eq_true, List.any_eq_true, List.mem_range, beq_iff_eq]
  exact .inl (.inr ⟨t, ht, ho, c, hc, gc⟩)
end

/-! ### A write of CMP_SPINDLE_CTRL (R247, R250) -/

/-- The bar of the write's value is taken. -/
def takeBar (s : State) (v : W64) : State := setReg s 0x802000 (BitVec.ofNat 64 (fieldOf v 39 32 * 2 ^ 32))

section
variable {s : State} {who : Req} {v : W64}

/-! The bar lies outside the banks and CMP_SPINDLE_NEXT, so the check of a bank does not see it. -/

theorem spindleWord_takeBar (bank k w : Nat) : spindleWord (takeBar s v) bank k w = spindleWord s bank k w := Tbl.get_set_ne _ _ _ _ _ (by omega)

theorem spindleNext_takeBar : spindleNext (takeBar s v) = spindleNext s := Tbl.get_set_ne _ _ _ _ _ (by decide)

theorem grantBits_takeBar (bank k c : Nat) : grantBits (takeBar s v) bank k c = grantBits s bank k c := by rw [grantBits, spindleWord_takeBar, grantBits]

theorem holdsClass0_takeBar (bank t k : Nat) : holdsClass0 (takeBar s v) bank t k = holdsClass0 s bank t k := by rw [holdsClass0, grantBits_takeBar, holdsClass0]

theorem runFrom_takeBar (bank t cycle n k : Nat) : runFrom (takeBar s v) bank t cycle n k = runFrom s bank t cycle n k := by
  induction n generalizing k with
  | zero => rfl
  | succ n ih => rw [runFrom, holdsClass0_takeBar, ih, runFrom]

theorem entryFails_takeBar (bank cycle len : Nat) : entryFails (takeBar s v) bank cycle len = entryFails s bank cycle len := by
  funext k
  simp only [entryFails, spindleWord_takeBar, grantBits_takeBar, holdsClass0_takeBar, runFrom_takeBar]
  rfl

theorem spindleFails_takeBar (bank cycle len : Nat) : spindleFails (takeBar s v) bank cycle len = spindleFails s bank cycle len := by
  rw [spindleFails, entryFails_takeBar, spindleFails]

/-- The entry of the other bank at which the check of a swap fails. -/
def swapFails (s : State) : Option Nat := spindleFails s (1 - s.til.bank) (fieldOf (spindleNext s) 26 16) (fieldOf (spindleNext s) 5 0)

theorem swapFails_takeBar : swapFails (takeBar s v) = swapFails s := by
  rw [swapFails, spindleNext_takeBar, spindleFails_takeBar]
  rfl

theorem spindleCtrlWrite_virtual (h : isPhysical who = false) : spindleCtrlWrite s who v = s := if_pos h

theorem spindleCtrlWrite_abort (h : isPhysical who = true) (hs : s.til.swap ≠ 0) (hv : bitOf v 1 = true) :
    spindleCtrlWrite s who v = { takeBar s v with til := { s.til with swap := 0 } } := by
  have pending : (takeBar s v).til.swap ≠ 0 := hs
  rw [spindleCtrlWrite, if_neg (by rw [h]; exact Bool.noConfusion)]
  exact (if_pos pending).trans (if_pos hv)

/-- What the check of a swap leaves: a swap that waits for entry 0, or the entry that fails and its log entry (R250, R251). -/
def swapChecked (s : State) : State :=
  match swapFails s with
  | some k => logEvent { s with til := { s.til with result := Code.cfgSpindleOvercommit, failSlot := k } } (evOf 0x0A Code.cfgSpindleOvercommit sevContained 0 [k])
  | none => { s with til := { s.til with result := Code.cfgOk, failSlot := 0, swap := 2 } }

theorem swapChecked_til_fails {k : Nat} (hk : swapFails s = some k) : (swapChecked s).til = { s.til with result := Code.cfgSpindleOvercommit, failSlot := k } := by
  rw [swapChecked, hk]
  rfl

theorem swapChecked_passes (hk : swapFails s = none) : swapChecked s = { s with til := { s.til with result := Code.cfgOk, failSlot := 0, swap := 2 } } := by
  rw [swapChecked, hk]

theorem retag_swapChecked (s u : State) (hp : u.pages = s.pages) (hd : u.dev = s.dev) (hm : u.models = s.models) : retag s (swapChecked u) = swapChecked u := by
  rw [swapChecked]
  cases swapFails u <;> exact retag_same s _ hp hd hm

/-- A write that swaps, with no swap pending: the check decides. -/
theorem spindleCtrlWrite_swap (h : isPhysical who = true) (hs : s.til.swap = 0) (hv : bitOf v 0 = true) : spindleCtrlWrite s who v = swapChecked (takeBar s v) := by
  have none_pending : ¬ (takeBar s v).til.swap ≠ 0 := not_not_intro hs
  rw [spindleCtrlWrite, if_neg (by rw [h]; exact Bool.noConfusion)]
  exact (if_neg none_pending).trans (if_neg (by rw [hv]; exact Bool.noConfusion))

variable (hh : s.halted = false)
include hh

theorem execSpindleSwap_virtual (h : isPhysical who = false) : exec (.spindleSwap who v) s = .next s := alive_unchanged hh (spindleCtrlWrite_virtual h)

theorem execSpindleSwapAbort_virtual (h : isPhysical who = false) : exec (.spindleSwapAbort who v) s = .next s := alive_unchanged hh (spindleCtrlWrite_virtual h)

theorem execSpindleSwap_checks (h : isPhysical who = true) (hs : s.til.swap = 0) : exec (.spindleSwap who v) s = .next (swapChecked (takeBar s (v ||| 1))) := by
  rw [exec_spindleSwap, execSpindleSwap, alive_leads hh (spindleCtrlWrite_swap h hs (bitOf_swap v)), retag_swapChecked s (takeBar s (v ||| 1)) rfl rfl rfl]

theorem execSpindleSwap_fails (h : isPhysical who = true) (hs : s.til.swap = 0) {k : Nat} (hk : swapFails s = some k) :
    ∃ t, exec (.spindleSwap who v) s = .next t ∧ t.til = { s.til with result := Code.cfgSpindleOvercommit, failSlot := k } :=
  ⟨_, execSpindleSwap_checks hh h hs, swapChecked_til_fails (swapFails_takeBar.trans hk)⟩

theorem execSpindleSwap_waits (h : isPhysical who = true) (hs : s.til.swap = 0) (hk : swapFails s = none) :
    exec (.spindleSwap who v) s = .next { takeBar s (v ||| 1) with til := { s.til with result := Code.cfgOk, failSlot := 0, swap := 2 } } := by
  rw [execSpindleSwap_checks hh h hs, swapChecked_passes (swapFails_takeBar.trans hk)]
  rfl

theorem execSpindleSwapAbort_pending (h : isPhysical who = true) (hs : s.til.swap ≠ 0) :
    exec (.spindleSwapAbort who v) s = .next { takeBar s (v ||| 2) with til := { s.til with swap := 0 } } := by
  rw [exec_spindleSwapAbort, execSpindleSwapAbort]
  exact alive_leads_plain hh (spindleCtrlWrite_abort h hs (bitOf_abort v)) rfl rfl rfl
end

/-! ### The slot boundary (R243, R250, R254) -/

section
variable {s : State}

theorem nextEntry_within (h : s.til.cur + 1 < s.til.cycleSlots) : nextEntry s = (s.til.bank, s.til.cur + 1) := if_neg (Nat.not_le.mpr h)

theorem nextEntry_wraps (h : s.til.cycleSlots ≤ s.til.cur + 1) : nextEntry s = (if s.til.swap = 2 then 1 - s.til.bank else s.til.bank, 0) := if_pos h

variable (hh : s.halted = false)
include hh

theorem execSlotBoundary_early (h : s.now < s.til.slotAt + s.til.slotLen + 1) : exec .slotBoundary s = .next (retag s s) := by
  rw [exec_slotBoundary, execSlotBoundary]
  exact alive_leads hh (if_neg (Nat.not_le.mpr h))

theorem execSlotBoundary_swaps (h : s.til.slotAt + s.til.slotLen + 1 ≤ s.now) (h0 : (nextEntry s).2 = 0) (hs : s.til.swap = 2) :
    exec .slotBoundary s = .next (retag s (fillAll (boundaryDisplace { s with til := { s.til with
      bank := (nextEntry s).1, cur := 0, slotAt := s.now, swap := 0, cycleSlots := fieldOf (spindleNext s) 26 16, slotLen := fieldOf (spindleNext s) 5 0 } }))) := by
  rw [exec_slotBoundary, execSlotBoundary]
  refine alive_leads hh ((if_pos h).trans ?_)
  rw [if_pos ⟨h0, hs⟩]

theorem execSlotBoundary_next (h : s.til.slotAt + s.til.slotLen + 1 ≤ s.now) (hn : (nextEntry s).2 ≠ 0 ∨ s.til.swap ≠ 2) :
    exec .slotBoundary s = .next (retag s (fillAll (boundaryDisplace { s with til := { s.til with cur := (nextEntry s).2, slotAt := s.now } }))) := by
  rw [exec_slotBoundary, execSlotBoundary]
  refine alive_leads hh ((if_pos h).trans ?_)
  rw [if_neg (fun both => hn.elim (fun h0 => h0 both.1) (fun hs => hs both.2))]
end

/-! ### The task a free tile takes (R253, R257, R263) -/

theorem tileFor_iff (s : State) (t c : Nat) :
    tileFor s t c = true ↔ (getT s t).st ≠ .outOfService ∧ (getT s t).heldOff = false ∧ (grantNow s t = none ∨ grantNow s t = some c ∨ lentNow s t = true) := by
  simp only [tileFor, tileUsable, Bool.and_eq_true, Bool.or_eq_true, bne_iff_ne, beq_iff_eq, Bool.not_eq_true', and_assoc, or_assoc]

section
variable {s : State} {t c : Nat} {k : Task}

/-- A task that a tile may run: saved there or eligible for it, not barred, with room in the save area. -/
def Fits (s : State) (t : Nat) (k : Task) : Prop :=
  k ∈ s.til.tasks ∧ (k.id ∈ (getT s t).saved ∨ eligible s t k = true) ∧ barred s t k = false ∧ saveRoom s t k = true

theorem firstTask_eq (s : State) (l : List Task) : firstTask s l = l.foldl (pickBest (fun x y => taskBefore s y x = true)) none := by
  unfold firstTask
  congr 1
  funext b x
  cases b <;> rfl

/-- The first task of a list is one of it: with no measure between them, `foldl_pickBest_none` says just that. -/
theorem firstTask_mem {l : List Task} (h : firstTask s l = some k) : k ∈ l := by
  rw [firstTask_eq] at h
  exact (foldl_pickBest_none (fun _ => 0) (fun _ _ _ => Nat.le_refl 0) (fun _ _ _ => Nat.le_refl 0) h).1

theorem savedOf_fits (h : k ∈ savedOf s t c) : k.cls = c ∧ Fits s t k := by
  obtain ⟨i, saved, found⟩ := List.mem_filterMap.mp h
  obtain ⟨task, may⟩ := Option.filter_eq_some_iff.mp found
  have id : k.id = i := by simpa using List.find?_some task
  simp only [Bool.and_eq_true, beq_iff_eq, Bool.not_eq_true'] at may
  obtain ⟨⟨cls, room⟩, bar⟩ := may
  exact ⟨cls, List.mem_of_find?_eq_some task, .inl (id ▸ saved), bar, room⟩

theorem newOf_fits (h : k ∈ newOf s t c) : k.cls = c ∧ Fits s t k := by
  obtain ⟨task, may⟩ := List.mem_filter.mp h
  simp only [Bool.and_eq_true, beq_iff_eq] at may
  obtain ⟨⟨cls, -⟩, elig⟩ := may
  have parts := elig
  simp only [eligible, Bool.and_eq_true, Bool.not_eq_true'] at parts
  obtain ⟨⟨⟨-, room⟩, bar⟩, -⟩ := parts
  exact ⟨cls, task, .inr elig, bar, room⟩

/-- A class's choice is of the class and fits the tile. -/
theorem classPick_fits (h : classPick s t c = some k) : k.cls = c ∧ Fits s t k := by
  unfold classPick at h
  split at h
  next x saved =>
    obtain rfl := Option.some.inj h
    exact savedOf_fits (firstTask_mem saved)
  next => exact newOf_fits (firstTask_mem h)

/-- What a tile takes is some class's choice; where the tile is held or reserved for a class, it is that class's, unless the class has none and the tile is reserved or lent. -/
theorem pickFor_inv (h : pickFor s t = some k) :
    (∃ c, classPick s t c = some k) ∧ ∀ c, grantNow s t = some c → classPick s t c = some k ∨ (classPick s t c = none ∧ (c ≠ 0 ∨ lentNow s t = true)) := by
  unfold pickFor at h
  dsimp only at h
  have some_class : (List.range 4).findSome? (classPick s t) = some k → ∃ c, classPick s t c = some k := fun found => by
    obtain ⟨c, -, pick⟩ := List.exists_of_findSome?_eq_some found
    exact ⟨c, pick⟩
  split at h
  next free => exact ⟨some_class h, fun c granted => absurd (free.symm.trans granted) (Option.some_ne_none c).symm⟩
  next c granted =>
    split at h
    next x own =>
      obtain rfl := Option.some.inj h
      exact ⟨⟨c, own⟩, fun d hd => .inl (Option.some.inj (granted.symm.trans hd) ▸ own)⟩
    next idle =>
      obtain ⟨may, found⟩ := Option.ite_none_right_eq_some.mp h
      exact ⟨some_class found, fun d hd => .inr (Option.some.inj (granted.symm.trans hd) ▸ ⟨idle, may⟩)⟩

theorem pickFor_fits (h : pickFor s t = some k) : Fits s t k := by
  obtain ⟨⟨c, pick⟩, -⟩ := pickFor_inv h
  exact (classPick_fits pick).2

/-- A tile held for class 0 and not lent takes a task of class 0 only. -/
theorem pickFor_held (h : pickFor s t = some k) (hg : grantNow s t = some 0) (hl : lentNow s t = false) : k.cls = 0 := by
  obtain ⟨-, own⟩ := pickFor_inv h
  rcases own 0 hg with pick | ⟨-, may⟩
  · exact (classPick_fits pick).1
  · exact absurd may (by simp [hl])

/-- A tile takes a task of another class only where its own has none for it. -/
theorem pickFor_other (h : pickFor s t = some k) (hg : grantNow s t = some c) (hc : k.cls ≠ c) : classPick s t c = none := by
  obtain ⟨-, own⟩ := pickFor_inv h
  rcases own c hg with pick | ⟨idle, -⟩
  · exact absurd (classPick_fits pick).1 hc
  · exact idle
end

/-- Settles O41, by the lemma of each write, of each outcome of a boundary, of each failing entry and of each part of a tile's choice. -/
theorem scheduleRows : Obligations.ScheduleRows := by
  unfold Obligations.ScheduleRows
  refine ⟨fun s who v hh => ⟨?virtual, ?swap, ?abort⟩, fun s => execSlotBoundary_early, fun s hh ht => ⟨?swaps, ?next, nextEntry_within, ?wraps⟩, ?twice, ?outOfService, tileFor_iff,
    fun s t k h => ⟨pickFor_fits h, pickFor_held h, fun c => pickFor_other h⟩⟩
  case virtual => exact fun h => ⟨execSpindleSwap_virtual hh h, execSpindleSwapAbort_virtual hh h⟩
  case swap => exact fun h hs => ⟨fun k => execSpindleSwap_fails hh h hs, execSpindleSwap_waits hh h hs⟩
  case abort => exact execSpindleSwapAbort_pending hh
  case swaps => exact execSlotBoundary_swaps hh ht
  case next => exact execSlotBoundary_next hh ht
  case wraps => exact fun h => nextEntry_wraps h ▸ ⟨rfl, rfl⟩
  case twice => exact fun s bank cycle len k t c d ht hc hd => entryFails_twice cycle len ht hc hd
  case outOfService => exact fun s bank cycle len k t c ht hc => entryFails_outOfService cycle len ht hc

end Sys2Proof.Machine
end

section
/-!
PROOF. The microsecond without a command: what it does in each state of the device, and the sequence whose damaged record it ends.
-/

namespace Sys2Proof.Machine

open Sys2Proof

/-! ### What a scratchpad names -/

/-- A copy of a page that is gone is stale. -/
theorem scratchStale_gone (s : State) {k : State} {n : Nat} (h : findPage k n = none) : scratchStale s k n = true := by
  have gone : k.pages.find? (fun p => p.number == n) = none := h
  unfold scratchStale
  rw [gone]
  cases s.pages.find? (fun p => p.number == n) <;> rfl

/-- No scratchpad names a page that is gone once copies follow the pages. -/
theorem dropStale_scratch {s k : State} {n : Nat} (h : findPage k n = none) : ∀ e ∈ (dropStale s k).til.tiles, n ∉ e.2.scratch := by
  have stale : ∀ x ∈ k.til.tiles, n ∈ x.2.scratch → n ∈ (k.til.tiles.flatMap (fun x => x.2.scratch ++ x.2.ahead)).filter (scratchStale s k) :=
    fun x hx hn => List.mem_filter.mpr ⟨List.mem_flatMap.mpr ⟨x, hx, List.mem_append_left _ hn⟩, scratchStale_gone s h⟩
  unfold dropStale
  dsimp only
  split
  next none_stale => exact fun e he hn => List.ne_nil_of_mem (stale e he hn) (List.isEmpty_iff.mp none_stale)
  next =>
    intro e he hn
    obtain ⟨y, hy, rfl⟩ := List.mem_map.mp he
    obtain ⟨x, hx, rfl⟩ := List.mem_map.mp hy
    obtain ⟨named, kept⟩ := List.mem_filter.mp hn
    simp [stale x hx named] at kept

/-- No scratchpad names a page that is gone after a step that changed pages (R191, R257). -/
theorem retag_scratch {s k : State} {n : Nat} (hk : s.pages ≠ k.pages) (h : findPage k n = none) : ∀ e ∈ (retag s k).til.tiles, n ∉ e.2.scratch := by
  rw [retag, if_neg (fun same => hk same.1)]
  simpa only [rearm_til] using dropStale_scratch h

/-! ### The microsecond -/

theorem step_without_command {s : State} (h : s.pending = []) : step s = .next (idle s) := by rw [step, h]

/-- The state one microsecond later, nothing else changed. -/
def tick (s : State) : State := { s with now := s.now + 1 }

/-- What hardware and firmware do of themselves in a microsecond that has passed while the device runs. -/
def idleWork (s : State) : State :=
  let s1 := countUs ((s.own.homes.filter recordDamaged).foldl (fun s r => dropDamaged s r.desc.handle) s)
  let s2 := ((s1.tz.counters.filter (fun x => x.2.vecDue)).map (·.1)).foldl coalesced s1
  serve (pumpReads (shutdownTick (waitedCheck (tableServe (mboxServe (resetTick (ownFailures (reserveFailures s2))))))))

/-- The three cases of a microsecond (R584, R590, R605). -/
theorem idle_eq (s : State) : idle s = if s.cpm.aon = false then s else if s.halted = true then tick s else retag (tick s) (idleWork (tick s)) := rfl

theorem idle_running {s : State} (ha : s.cpm.aon = true) (hh : s.halted = false) : idle s = retag (tick s) (idleWork (tick s)) := by
  rw [idle_eq, if_neg (by rw [ha]; exact Bool.noConfusion), if_neg (by rw [hh]; exact Bool.noConfusion)]

/-! ### A home that finds the record of its own sequence damaged -/

namespace DamagedHome

/-- A sequence of device 5. -/
def seq : Handle := mkHandle 5 clsSeq 1

/-- Its record: owned by device 5, with one page. -/
def record : SeqRecord :=
  { handle := seq, owner := 5, partner := noDevice, epoch := 1, version := 1, model := mkHandle 5 clsModel 1, pfx := nullHandle, prefixLen := 0, privateLen := 16, customer := 1,
    cls := 0, state := 0, target := noDevice, comp := 0xFFFF, layers := 1, pages := [[{ number := 11, lost := false, tiers := 1, tokens := 16 }]] }

/-- The record at its home, whose check bits fail. -/
def home : HomeRec := { desc := record, queue := [], inflight := none, unmirrored := false, damaged := true, castleComp := 0, before := noDevice, arb := none, due := 0 }

/-- Its page in the stacks. -/
def page : Page := { freshPage 11 .priv seq 0 0 { half := 0, start := 0, units := 4 } with tokens := 16 }

/-- Device 5 in service, home and owner of the sequence, whose page lies in the scratchpad of its first tile. -/
def state : State :=
  { State.reset with
    fwRun := 1, cfgState := 3, pers := some .generation, cpm := { State.reset.cpm with aon := true }, ident := { State.reset.ident with device := 5 }, pages := [page]
    own := { State.reset.own with homes := [home], copies := [{ newCopy seq .owner 1 record record.model 1 with pages := [[11]] }] }
    til := { State.reset.til with tiles := [(0, { Tile.init with st := .clockGated, scratch := [11] })] } }

/-- The record is deleted and its owner, this device, frees its copy (R219, R231). -/
theorem page_freed : (idleWork (tick state)).pages = [] := by decide +kernel

theorem counted : (countUs state).til.tiles = [(0, { Tile.init with st := .clockGated, scratch := [11] })] := rfl

/-- Discarding the stale copy is no part of counting. -/
theorem til_differs : (idle state).til ≠ (countUs state).til := by
  have changed : (tick state).pages ≠ (idleWork (tick state)).pages := by rw [page_freed]; exact List.cons_ne_nil page []
  have gone : findPage (idleWork (tick state)) 11 = none := by rw [findPage, page_freed]; rfl
  have fresh := retag_scratch changed gone
  rw [← idle_running (s := state) rfl rfl] at fresh
  intro same
  rw [same, counted] at fresh
  exact fresh _ (List.mem_singleton_self _) (List.mem_singleton_self 11)

end DamagedHome

/-- Refutes O58: a microsecond in which nothing of the statement's list is under way may do more to the tiles than count. In `DamagedHome.state` the home finds the record of its own sequence
damaged (R219) and frees the sequence's page, so that the page's copy in a tile's scratchpad is discarded (R257). -/
theorem not_idleMicrosecond : ¬ Obligations.IdleMicrosecond := by
  unfold Obligations.IdleMicrosecond
  intro h
  obtain ⟨-, -, runs, -⟩ := h DamagedHome.state rfl
  obtain ⟨t, ht, -, til⟩ := runs rfl rfl rfl (by decide) rfl (by decide) rfl rfl
  rw [step_without_command rfl] at ht
  obtain rfl := Host.Outcome.next.inj ht
  exact DamagedHome.til_differs til

end Sys2Proof.Machine
end

section
/-!
PROOF. The stacks' hot spots, the rekey, the placing of blocks, the scrub and retraining.
-/

namespace Sys2Proof.Machine

open Sys2Proof

theorem exec_hotspotWindow (means : List (Nat × Nat × Nat)) (s : State) : exec (.hotspotWindow means) s = execHotspotWindow means s := rfl
theorem exec_memHashNextWrite (who : Req) (v : W64) (s : State) : exec (.memHashNextWrite who v) s = execMemHashNextWrite who v s := rfl
theorem exec_rekeyStart (who : Req) (v : W64) (s : State) : exec (.rekeyStart who v) s = execRekeyStart who v s := rfl
theorem exec_rekeyRow (half : Nat) (s : State) : exec (.rekeyRow half) s = execRekeyRow half s := rfl
theorem exec_rekeyHoldoffExpiry (s : State) : exec .rekeyHoldoffExpiry s = execRekeyHoldoffExpiry s := rfl
theorem exec_patrolScrubSector (area : StackArea) (channel sector : Nat) (error : List (Nat × Nat)) (last : Bool) (s : State) :
    exec (.patrolScrubSector area channel sector error last) s = execPatrolScrubSector area channel sector error last s := rfl
theorem exec_sectorRewrite (s : State) : exec .sectorRewrite s = execSectorRewrite s := rfl
theorem exec_channelRetrain (channel : Nat) (moved : Bool) (s : State) : exec (.channelRetrain channel moved) s = execChannelRetrain channel moved s := rfl

/-! ### A rekey's start and end leave pages, region memory and models -/

@[simp] theorem startRekey_pages (s : State) : (startRekey s).pages = s.pages := rfl
@[simp] theorem startRekey_dev (s : State) : (startRekey s).dev = s.dev := rfl
@[simp] theorem startRekey_models (s : State) : (startRekey s).models = s.models := rfl
@[simp] theorem endRekey_pages (s : State) : (endRekey s).pages = s.pages := rfl
@[simp] theorem endRekey_dev (s : State) : (endRekey s).dev = s.dev := rfl
@[simp] theorem endRekey_models (s : State) : (endRekey s).models = s.models := rfl

/-! ### The hot-spot window (R289) -/

section
variable {s : State} {means : List (Nat × Nat × Nat)} {x : Nat × Nat × Nat}

theorem hottestChannel_none (h : ∀ x ∈ means, hotChannel s x = false) : hottestChannel s means = none := by
  have cold : means.filter (hotChannel s) = [] := List.filter_eq_nil_iff.mpr (fun x hx => ne_true_of_eq_false (h x hx))
  rw [hottestChannel, cold, List.foldl_nil]

theorem hottestChannel_single (h : hotChannel s x = true) : hottestChannel s [x] = some x := by
  rw [hottestChannel, List.filter_cons_of_pos h]
  rfl

/-- A hot channel's event starts a rekey: auto is on, a next key waits and no rekey is going on (R289). -/
def hotRekeys (s : State) : Bool := bitOf (hotspotCtrl s) 16 && s.mc.nextKey.isSome && s.mc.rekey == 0

theorem hotRekeys_iff : hotRekeys s = true ↔ bitOf (hotspotCtrl s) 16 = true ∧ s.mc.nextKey.isSome = true ∧ s.mc.rekey = 0 := by
  simp only [hotRekeys, Bool.and_eq_true, beq_iff_eq, and_assoc]

/-- The next window begun, a hot channel kept and its event counted and logged (R289, R291). -/
def hotNoted (s : State) (x : Nat × Nat × Nat) : State :=
  logEvent (modMc (nextHotWindow s) (fun m => { m with hotEvents := wrapAdd 32 m.hotEvents 1, hotChannel := x.1, hotRatio := hotRatio x }))
    (evOf 0x04 0 sevInfo 0 [x.1, hotRatio x, bit (hotRekeys s)])

variable (hh : s.halted = false)
include hh

theorem execHotspotWindow_early (h : s.now < s.mc.hotEnd) : exec (.hotspotWindow means) s = .next s := by
  rw [exec_hotspotWindow, execHotspotWindow]
  exact alive_unchanged hh (if_pos h)

theorem execHotspotWindow_cold (h : s.mc.hotEnd ≤ s.now) (hc : ∀ x ∈ means, hotChannel s x = false) : exec (.hotspotWindow means) s = .next (nextHotWindow s) := by
  rw [exec_hotspotWindow, execHotspotWindow, hottestChannel_none hc]
  exact alive_leads_plain hh (if_neg (Nat.not_lt.mpr h)) rfl rfl rfl

theorem execHotspotWindow_hot (h : s.mc.hotEnd ≤ s.now) (hx : hotChannel s x = true) :
    exec (.hotspotWindow [x]) s = .next (if hotRekeys s = true then startRekey (hotNoted s x) else hotNoted s x) := by
  have work : execHotspotWindow [x] s = alive s (if hotRekeys s = true then startRekey (hotNoted s x) else hotNoted s x) := by
    rw [execHotspotWindow, hottestChannel_single hx, if_neg (Nat.not_lt.mpr h)]
    rfl
  rw [exec_hotspotWindow, work]
  split
  · refine alive_plain s _ hh ?_ ?_ ?_ <;> simp [hotNoted]
  · refine alive_plain s _ hh ?_ ?_ ?_ <;> simp [hotNoted]
end

/-! ### The next key and the start of a rekey (R292, R294) -/

section
variable {s : State} {who : Req} {v : W64}

/-- REKEY_START writes START 1, whatever its value says. -/
theorem bitOf_start (v : W64) : bitOf (v ||| 0x100) 8 = true := (bitOf_or v 0x100 8).trans (Bool.or_true _)

/-- A write of MEM_REKEY_CTRL with START 1 starts a rekey where a next key waits and none is going on; its fields are kept in the register. -/
theorem rekeyCtrlWrite_starts (h : isPhysical who = true) (hv : bitOf v 8 = true) (hk : s.mc.nextKey.isSome = true) (hr : s.mc.rekey = 0) :
    ∃ w, rekeyCtrlWrite s who v = startRekey (setReg s 0x201018 w) := by
  have goes (w : W64) : ¬ (bitOf v 8 = false ∨ (setReg s 0x201018 w).mc.nextKey.isNone = true) := by simp [hv, Option.ne_none_iff_isSome, hk]
  rw [rekeyCtrlWrite, if_neg (by rw [h]; exact Bool.noConfusion)]
  exact ⟨_, (if_neg (goes _)).trans (if_pos hr)⟩

variable (hh : s.halted = false)
include hh

theorem execMemHashNextWrite_virtual (h : isPhysical who = false) : exec (.memHashNextWrite who v) s = .next s := by
  rw [exec_memHashNextWrite, execMemHashNextWrite]
  exact alive_unchanged hh (if_pos h)

theorem execRekeyStart_virtual (h : isPhysical who = false) : exec (.rekeyStart who v) s = .next s := by
  rw [exec_rekeyStart, execRekeyStart]
  exact alive_unchanged hh (if_pos h)

theorem execMemHashNextWrite_keeps (h : isPhysical who = true) (hr : s.mc.rekey ≠ 1) :
    exec (.memHashNextWrite who v) s = .next { setReg s 0x201010 v with mc := { s.mc with nextKey := some v } } := by
  rw [exec_memHashNextWrite, execMemHashNextWrite, if_neg (by rw [h]; exact Bool.noConfusion)]
  exact alive_leads_plain hh (if_neg hr) rfl rfl rfl

theorem execMemHashNextWrite_busy (h : isPhysical who = true) (hr : s.mc.rekey = 1) :
    exec (.memHashNextWrite who v) s = .next { s with mc := { s.mc with rekeyReason := Code.memRekeyBusy } } := by
  rw [exec_memHashNextWrite, execMemHashNextWrite, if_neg (by rw [h]; exact Bool.noConfusion)]
  exact alive_leads_plain hh (if_pos hr) rfl rfl rfl

theorem execRekeyStart_starts (h : isPhysical who = true) (hk : s.mc.nextKey.isSome = true) (hr : s.mc.rekey = 0) :
    ∃ w, exec (.rekeyStart who v) s = .next (startRekey (setReg s 0x201018 w)) := by
  obtain ⟨w, hw⟩ := rekeyCtrlWrite_starts (s := s) h (bitOf_start v) hk hr
  rw [exec_rekeyStart, execRekeyStart]
  exact ⟨w, alive_leads_plain hh hw rfl rfl rfl⟩
end

/-! ### The rows of a rekey and its hold-off (R293, R303) -/

section
variable {s : State} {half : Nat}

/-- Half 0 may move a row: a rekey is going on, the half is not done, and there is no brake. -/
structure Half0Moves (s : State) : Prop where
  migrating : s.mc.rekey = 1
  unbraked : braking s = false
  undone : s.mc.halvesDone.contains 0 = false

/-- The row at half 0's fence moved. -/
def fence0Advanced (s : State) : State := modMc s (fun m => { m with fence0 := s.mc.fence0 + 1 })

/-- Half 0 done. -/
def half0Ended (s : State) : State := modMc s (fun m => { m with halvesDone := m.halvesDone ++ [0] })

/-- Half 0's row is moved; what follows depends on whether it is the last, and then on whether the other half is done. -/
theorem execRekeyRow_half0 (hm : Half0Moves s) : execRekeyRow 0 s = alive s (
    if lastRow s 0 ≤ s.mc.fence0 then if (s.mc.halvesDone ++ [0]).length = 2 then endRekey (half0Ended (fence0Advanced s)) else half0Ended (fence0Advanced s) else fence0Advanced s) := by
  obtain ⟨migrating, unbraked, undone⟩ := hm
  have moves : ¬ (s.mc.rekey ≠ 1 ∨ 2 ≤ 0 ∨ s.mc.halvesDone.contains 0 = true ∨ braking s = true) := by
    rw [unbraked, undone, migrating]
    decide
  rw [execRekeyRow, if_neg moves]
  dsimp only
  rw [if_pos rfl]
  rfl

variable (hh : s.halted = false)
include hh

theorem execRekeyRow_advances (hm : Half0Moves s) (h : s.mc.fence0 < lastRow s 0) : exec (.rekeyRow 0) s = .next (fence0Advanced s) := by
  rw [exec_rekeyRow, execRekeyRow_half0 hm]
  exact alive_leads_plain hh (if_neg (Nat.not_le.mpr h)) rfl rfl rfl

theorem execRekeyRow_ends_half (hm : Half0Moves s) (h : lastRow s 0 ≤ s.mc.fence0) (hd : s.mc.halvesDone = []) :
    exec (.rekeyRow 0) s = .next { s with mc := { s.mc with fence0 := s.mc.fence0 + 1, halvesDone := [0] } } := by
  have ended : half0Ended (fence0Advanced s) = { s with mc := { s.mc with fence0 := s.mc.fence0 + 1, halvesDone := [0] } } :=
    congrArg (fun l => { s with mc := { s.mc with fence0 := s.mc.fence0 + 1, halvesDone := l ++ [0] } }) hd
  rw [exec_rekeyRow, execRekeyRow_half0 hm, if_pos h, hd, if_neg (by decide), ended]
  exact alive_plain s _ hh rfl rfl rfl

theorem execRekeyRow_ends_rekey (hm : Half0Moves s) (h : lastRow s 0 ≤ s.mc.fence0) (hd : s.mc.halvesDone = [1]) :
    exec (.rekeyRow 0) s = .next (endRekey (half0Ended (fence0Advanced s))) := by
  rw [exec_rekeyRow, execRekeyRow_half0 hm, if_pos h, if_pos (by rw [hd]; rfl)]
  refine alive_plain s _ hh ?_ ?_ ?_ <;> simp [half0Ended, fence0Advanced]

theorem execRekeyRow_held (h : s.mc.rekey ≠ 1 ∨ braking s = true) : exec (.rekeyRow half) s = .next s := by
  rw [exec_rekeyRow, execRekeyRow]
  exact alive_unchanged hh (if_pos (h.imp_right (fun braked => .inr (.inr braked))))

theorem execRekeyHoldoffExpiry_ends (hr : s.mc.rekey = 2) (h : s.mc.holdUntil ≤ s.now) : exec .rekeyHoldoffExpiry s = .next { s with mc := { s.mc with rekey := 0 } } := by
  rw [exec_rekeyHoldoffExpiry, execRekeyHoldoffExpiry]
  exact alive_leads_plain hh (if_pos ⟨hr, h⟩) rfl rfl rfl

theorem execRekeyHoldoffExpiry_early (h : s.now < s.mc.holdUntil) : exec .rekeyHoldoffExpiry s = .next s := by
  rw [exec_rekeyHoldoffExpiry, execRekeyHoldoffExpiry]
  exact alive_unchanged hh (if_neg (fun ends => Nat.not_le.mpr h ends.2))
end

/-! ### Where a block lies (R285) -/

section
variable {s : State}

theorem blockPlace_half (s : State) (b : Nat) : (blockPlace s b).1 / 96 = b / halfBlocks s := by
  unfold blockPlace
  dsimp only
  omega

/-- The place of a block, by its half, its row and its position in the row. -/
theorem blockPlace_of_row {half row j : Nat} (hj : j < 96) (hb : 96 * row + j < halfBlocks s) :
    blockPlace s (half * halfBlocks s + (96 * row + j)) = (96 * half + ((rowPlacing s half row).1 * j + (rowPlacing s half row).2) % 96, row) := by
  have hhalf : (half * halfBlocks s + (96 * row + j)) / halfBlocks s = half := by
    rw [Nat.mul_comm, Nat.mul_add_div (by omega), Nat.div_eq_of_lt hb, Nat.add_zero]
  have hrest : (half * halfBlocks s + (96 * row + j)) % halfBlocks s = 96 * row + j := by
    rw [Nat.mul_comm, Nat.mul_add_mod, Nat.mod_eq_of_lt hb]
  have hrow : (96 * row + j) / 96 = row := by omega
  have hpos : (96 * row + j) % 96 = j := by omega
  simp only [blockPlace, hhalf, hrest, hrow, hpos]

/-- The factor of a row is coprime to 96. -/
theorem rowPlacing_coprime (s : State) (half row : Nat) : Nat.Coprime (rowPlacing s half row).1 96 := by
  have units (i : Nat) : Nat.Coprime (unit96.getD i 1) 96 := by
    by_cases h : i < unit96.length
    · rw [List.getD_eq_getElem _ _ h]
      exact beq_iff_eq.mp (List.mem_filter.mp (List.getElem_mem h)).2
    · rw [List.getD_eq_default _ _ (Nat.not_lt.mp h)]
      exact Nat.coprime_one_left 96
  exact units _

/-- A factor coprime to 96 takes some position of a row to each channel of a half. -/
theorem exists_position {a : Nat} (ha : Nat.Coprime a 96) (c channel : Nat) : ∃ j < 96, (a * j + c) % 96 = channel % 96 := by
  obtain ⟨j, hj, h⟩ := Nat.exists_mul_mod_eq_of_coprime (channel + 95 * c) ha (by decide)
  exact ⟨j, hj, by omega⟩

/-- The block of a slot lies in the channel's half and the slot's row, at the position that the row's placing takes to the channel. -/
theorem blockAt_eq (s : State) (channel slot : Nat) : ∃ j < 96, blockAt s channel slot = channel / 96 * halfBlocks s + (96 * slot + j) ∧
    ((rowPlacing s (channel / 96) slot).1 * j + (rowPlacing s (channel / 96) slot).2) % 96 = channel % 96 := by
  obtain ⟨i, hi, placed⟩ := exists_position (rowPlacing_coprime s (channel / 96) slot) (rowPlacing s (channel / 96) slot).2 channel
  have some_position : ((List.range 96).find? (fun j => ((rowPlacing s (channel / 96) slot).1 * j + (rowPlacing s (channel / 96) slot).2) % 96 == channel % 96)).isSome = true :=
    List.find?_isSome.mpr ⟨i, List.mem_range.mpr hi, beq_iff_eq.mpr placed⟩
  obtain ⟨j, found⟩ := Option.isSome_iff_exists.mp some_position
  refine ⟨j, List.mem_range.mp (List.mem_of_find?_eq_some found), ?_, by simpa using List.find?_some found⟩
  rw [blockAt, found, Option.getD_some, Nat.add_assoc]

theorem blockPlace_blockAt (channel slot : Nat) (h : 96 * slot + 96 ≤ halfBlocks s) : blockPlace s (blockAt s channel slot) = (channel, slot) := by
  obtain ⟨j, hj, eq, placed⟩ := blockAt_eq s channel slot
  rw [eq, blockPlace_of_row hj (by omega), placed, Nat.div_add_mod]
end

/-! ### Scrub and retraining (R298 to R301, R329) -/

section
variable {s : State} {area : StackArea} {channel sector : Nat} {error : List (Nat × Nat)} {last : Bool}

/-- A page with a clean host copy loses only its stacks copy (R298). -/
theorem sectorBad_clean {n : Nat} {p : Page} (hp : findPage s n = some p) (hk : p.kind ≠ .staged) (hc : p.cleanIn tHost = true) (addr : Nat) :
    sectorBad s (.page n) channel addr = setPage s { p.dropTier tStacks with newest := tHost } := by
  have bad : pageSectorBad s n = (setPage s { p.dropTier tStacks with newest := tHost }, false) := by
    rw [pageSectorBad, hp]
    dsimp only
    rw [if_neg hk, if_pos (.inl hc), if_pos hc]
  rw [sectorBad]
  dsimp only
  rw [bad]
  rfl

/-- Scrubbing is on (R299). -/
def scrubOn (s : State) : Bool := bitOf (s.regs.get 0x102 0x201028) 8

/-- A corrected sector counted, queued for rewriting and logged (R300, R329). -/
def sectorCorrected (s : State) (channel : Nat) : State :=
  logEvent (countCorrected (modMc s (fun m => { m with scrubCorrected := satAdd 0xFFFFFFFF m.scrubCorrected 1, rewrites := m.rewrites + 1 }))) (evOf 0x04 0 sevCorrected 0 [channel])

variable (hh : s.halted = false)
include hh

theorem execPatrolScrubSector_off (h : scrubOn s = false) : exec (.patrolScrubSector area channel sector error last) s = .next s := by
  rw [exec_patrolScrubSector, execPatrolScrubSector]
  exact alive_unchanged hh (if_pos h)

theorem execPatrolScrubSector_passEnds (h : scrubOn s = true) (he : errorRead error = 0) :
    exec (.patrolScrubSector area channel sector error true) s = .next { s with mc := { s.mc with scrubPasses := wrapAdd 16 s.mc.scrubPasses 1 } } := by
  rw [exec_patrolScrubSector, execPatrolScrubSector, he]
  exact alive_leads_plain hh (if_neg (ne_false_of_eq_true h)) rfl rfl rfl

theorem execPatrolScrubSector_corrected (h : scrubOn s = true) (he : errorRead error = 1) :
    exec (.patrolScrubSector area channel sector error false) s = .next (sectorCorrected s channel) := by
  rw [exec_patrolScrubSector, execPatrolScrubSector, he]
  exact alive_leads_plain hh (if_neg (ne_false_of_eq_true h)) rfl rfl rfl

theorem execPatrolScrubSector_cleanBelow {n : Nat} {p : Page} (h : scrubOn s = true) (he : errorRead error = 2) (hp : findPage s n = some p) (hk : p.kind ≠ .staged)
    (hc : p.cleanIn tHost = true) : exec (.patrolScrubSector (.page n) channel sector error false) s = .next (retag s
      (setPage { s with mc := { s.mc with scrubBad := satAdd 0xFFFF s.mc.scrubBad 1 } } { p.dropTier tStacks with newest := tHost })) := by
  have counted : findPage { s with mc := { s.mc with scrubBad := satAdd 0xFFFF s.mc.scrubBad 1 } } n = some p := hp
  rw [exec_patrolScrubSector, execPatrolScrubSector, he]
  exact alive_leads hh ((if_neg (ne_false_of_eq_true h)).trans (sectorBad_clean counted hk hc _))

theorem execSectorRewrite_takes : exec .sectorRewrite s = .next { s with mc := { s.mc with rewrites := s.mc.rewrites - 1 } } := by
  rw [exec_sectorRewrite, execSectorRewrite]
  exact alive_plain s _ hh rfl rfl rfl

theorem execChannelRetrain_first {moved : Bool} (hc : channel < 192) (h : s.mc.retrained.find channel = none) :
    exec (.channelRetrain channel moved) s = .next { s with mc := { s.mc with retrained := s.mc.retrained.set channel s.now } } := by
  rw [exec_channelRetrain, execChannelRetrain, h]
  exact alive_leads_plain hh (if_pos ⟨hc, rfl⟩) rfl rfl rfl

theorem execChannelRetrain_recent {moved : Bool} {t : Nat} (h : s.mc.retrained.find channel = some t) (hr : s.now < t + 100000) :
    exec (.channelRetrain channel moved) s = .next s := by
  rw [exec_channelRetrain, execChannelRetrain, h]
  refine alive_unchanged hh (if_neg (fun due => ?_))
  have passed : t + 100000 ≤ s.now := of_decide_eq_true (Bool.and_eq_true_iff.mp due.2).1
  omega
end

/-- Settles O43, by the lemma of each outcome of each row and by the place of a block and of a slot. -/
theorem stackRows : Obligations.StackRows := by
  unfold Obligations.StackRows
  intro s hh
  refine ⟨fun means => execHotspotWindow_early hh, fun means => execHotspotWindow_cold hh, ?hot, fun who v h => ⟨execMemHashNextWrite_virtual hh h, execRekeyStart_virtual hh h⟩,
    fun who v => execMemHashNextWrite_keeps hh, fun who v => execMemHashNextWrite_busy hh, ?starts, ?rows, fun h half => execRekeyRow_held hh h, execRekeyHoldoffExpiry_ends hh,
    execRekeyHoldoffExpiry_early hh, fun h area c a e l => execPatrolScrubSector_off hh h, fun h => ⟨fun area c a e => execPatrolScrubSector_passEnds hh h, ?corrected,
    fun n p c a e => execPatrolScrubSector_cleanBelow hh h⟩, fun b => ⟨rfl, blockPlace_half s b⟩, blockPlace_blockAt, execSectorRewrite_takes hh,
    fun c m => execChannelRetrain_first hh, fun c m t => execChannelRetrain_recent hh⟩
  case hot =>
    intro x h hx
    simp only [← hotRekeys_iff]
    exact execHotspotWindow_hot hh h hx
  case starts =>
    intro who v h hk hr
    obtain ⟨w, started⟩ := execRekeyStart_starts (v := v) hh h hk hr
    exact ⟨_, started, rfl, rfl, rfl, rfl⟩
  case rows =>
    intro hr hb hu
    have moves : Half0Moves s := ⟨hr, hb, hu⟩
    exact ⟨execRekeyRow_advances hh moves, execRekeyRow_ends_half hh moves, fun h hd => ⟨_, execRekeyRow_ends_rekey hh moves h hd, rfl, rfl, rfl, rfl⟩⟩
  case corrected => exact fun area c a e he => ⟨_, execPatrolScrubSector_corrected hh h he, rfl, rfl, rfl, rfl⟩

end Sys2Proof.Machine
end

section
/-!
PROOF. Images of mirrored state and the mirror's status, and the fabric manager's messages (R440, R488, R492, R496 to R498).
-/

namespace Sys2Proof.Machine

open Sys2Proof

theorem exec_restoreReq (h : Hdr) (device : Nat) (s : State) : exec (.restoreReq h device) s = execRestoreReq h device s := rfl
theorem exec_image (h : Hdr) (purpose offset : Nat) (items : List MirrorItem) (s : State) : exec (.image h purpose offset items) s = execImage h purpose offset items s := rfl
theorem exec_imageDone (h : Hdr) (purpose length crc : Nat) (s : State) : exec (.imageDone h purpose length crc) s = execImageDone h purpose length crc s := rfl
theorem exec_imageAck (h : Hdr) (code : Nat) (s : State) : exec (.imageAck h code) s = execImageAck h code s := rfl
theorem exec_managementMessage (h : Hdr) (group : Nat) (v : W64) (s : State) : exec (.managementMessage h group v) s = execManagementMessage h group v s := rfl
theorem exec_mirrorRebuild (s : State) : exec .mirrorRebuild s = execMirrorRebuild s := rfl

/-! ### Images that arrive (R323, R496, R497) -/

/-- The records mirrored for a device or homed at it. -/
def recordsOf (s : State) (device : Nat) : List SeqRecord :=
  s.own.mirrors.filter (fun m => hHome m.handle == device) ++ (s.own.homes.filter (fun r => hHome r.desc.handle == device)).map (·.desc)

/-- A gathered part joins the others. -/
def partGathered (s : State) (b : Inbox) : State := { s with cmp := { s.cmp with inbox := s.cmp.inbox ++ [b] } }

/-- The answer to the end of an image. -/
def imageAnswered (s : State) (h : Hdr) (code : Nat) : State := transmit s ⟨h.src, h.comp, h.epoch, 6, false, 0, .imageAck code⟩ none

/-- A restoration under way has ended with success. -/
def restorationEnded (s : State) : State := { s with cmp := { s.cmp with restoreState := 2, restoreResult := 0 } }

/-- An image of a purpose has come in with success: it ends a restoration if that is what it is of. -/
def imageEnded (s : State) (purpose : Nat) : State := if purpose = 2 ∧ s.cmp.restoreState = 1 then restorationEnded s else s

theorem imageEnded_other (s : State) {purpose : Nat} (hp : purpose ≠ 2) : imageEnded s purpose = s := if_neg (fun restoring => hp restoring.1)

theorem imageEnded_restoring {s : State} (hr : s.cmp.restoreState = 1) : imageEnded s 2 = restorationEnded s := if_pos ⟨rfl, hr⟩

/-- The partner's answer `code` to an image of a rebuild is taken. -/
def rebuildAnswered (s : State) (code : Nat) : State :=
  { s with
    cmp := { s.cmp with mirrorState := if code = 0 then 0 else 1, mirrorUnits := if code = 0 then 0 else s.cmp.mirrorUnits }
    own := { s.own with homes := mapIf (fun _ => code == 0) (fun r => { r with unmirrored := false }) s.own.homes } }

/-- Where nothing is gathered, taking an image's parts away changes nothing. -/
theorem inbox_empty_filter {s : State} (hi : s.cmp.inbox = []) (p : Inbox → Bool) : { s with cmp := { s.cmp with inbox := s.cmp.inbox.filter p } } = s := by
  rw [hi, List.filter_nil, ← hi]

section
variable {s : State} {h : Hdr}

theorem handled_restoreReq (device : Nat) : let u := (arrive s h).1
    HandledAs (.restoreReq h device) s h (sendImage u h.comp h.src 2 ((recordsOf u device).map .record ++ shardItems u device u.rgn.mirrorTree)) 0 :=
  handledAs_of (by rw [exec_restoreReq, execRestoreReq]) rfl

/-- A part of an image of another purpose than a restoration is gathered. -/
theorem handled_image {purpose : Nat} (offset : Nat) (items : List MirrorItem) (hp : purpose ≠ 2) :
    HandledAs (.image h purpose offset items) s h (partGathered (arrive s h).1 { src := h.src, purpose := purpose, items := items }) 0 := by
  refine handledAs_of (by rw [exec_image, execImage]) (congrArg (·, 0) (if_neg ?_))
  exact fun restoring => hp restoring.1

/-- The end of an image of which nothing was gathered: nothing is imported, a restoration under way ends, and the sender has its answer. -/
theorem handled_imageDone_empty (purpose length crc : Nat) (hi : (arrive s h).1.cmp.inbox = []) : let u := (arrive s h).1
    HandledAs (.imageDone h purpose length crc) s h (imageAnswered (imageEnded u purpose) h 0) 0 := by
  refine handledAs_of (by rw [exec_imageDone, execImageDone]) ?_
  dsimp only
  rw [inbox_empty_filter hi, hi]
  rfl

theorem handled_imageDone_restoring (length crc : Nat) (hi : (arrive s h).1.cmp.inbox = []) (hr : (arrive s h).1.cmp.restoreState = 1) :
    HandledAs (.imageDone h 2 length crc) s h (imageAnswered (restorationEnded (arrive s h).1) h 0) 0 :=
  imageEnded_restoring hr ▸ handled_imageDone_empty 2 length crc hi

theorem handled_imageAck_rebuilding (code : Nat) (hs : h.src = (arrive s h).1.ident.partner) (hm : (arrive s h).1.cmp.mirrorState = 2) :
    HandledAs (.imageAck h code) s h (rebuildAnswered (arrive s h).1 code) 0 := by
  refine handledAs_of (by rw [exec_imageAck, execImageAck]) (congrArg (·, 0) (if_pos ?_))
  exact ⟨hs, hm⟩

/-! ### The fabric manager (R440, R498) -/

theorem handled_managementMessage_foreign (group : Nat) (v : W64) (hf : h.src ≠ (arrive s h).1.ident.fmEndpoint ∨ h.cls ≠ 0) : let u := (arrive s h).1
    HandledAs (.managementMessage h group v) s h { u with cmp := { u.cmp with mgmtDiscarded := satAdd 0xFFFFFFFF u.cmp.mgmtDiscarded 1 } } 0 := by
  refine handledAs_of (by rw [exec_managementMessage, execManagementMessage]) (congrArg (·, 0) (if_neg ?_))
  exact fun manager => hf.elim (· manager.1) (· manager.2)

theorem handled_managementMessage_entry {group : Nat} (v : W64) (hs : h.src = (arrive s h).1.ident.fmEndpoint) (hc : h.cls = 0) (hg : group < 4096) :
    HandledAs (.managementMessage h group v) s h (setReg (arrive s h).1 (0x504000 + 8 * group) (v &&& 0x00000000FFFC7F01)) 0 := by
  refine handledAs_of (by rw [exec_managementMessage, execManagementMessage]) (congrArg (·, 0) ((if_pos ?_).trans (if_pos hg)))
  exact ⟨hs, hc⟩
end

/-- After the partner's success every record counts as mirrored, and no record's content has changed. -/
theorem rebuildAnswered_success (s : State) :
    (∀ r ∈ (rebuildAnswered s 0).own.homes, r.unmirrored = false) ∧ (rebuildAnswered s 0).own.homes.map (·.desc) = s.own.homes.map (·.desc) := by
  have homes : (rebuildAnswered s 0).own.homes = s.own.homes.map (fun r => { r with unmirrored := false }) := by simp [rebuildAnswered, mapIf]
  rw [homes]
  exact ⟨List.forall_mem_map.mpr (fun _ _ => rfl), by rw [List.map_map]; rfl⟩

/-! ### MIRROR_REBUILD (R496) -/

section
variable {s : State} (hh : s.halted = false) (hp : paused s = false)
include hh hp

theorem execMirrorRebuild_rests (hm : s.cmp.mirrorState ≠ 2) : exec .mirrorRebuild s = .next s := by
  rw [exec_mirrorRebuild, execMirrorRebuild]
  exact awake_unchanged hh hp ((if_neg (fun both => hm both.1)).trans (if_neg (fun both => hm both.1)))

theorem execMirrorRebuild_absent (hm : s.cmp.mirrorState = 2) (ha : present s s.ident.partner = false) :
    exec .mirrorRebuild s = .next { s with cmp := { s.cmp with mirrorState := 1 } } := by
  have gone : ¬ (s.cmp.mirrorState = 2 ∧ present s s.ident.partner = true) := fun both => Bool.false_ne_true (ha.symm.trans both.2)
  rw [exec_mirrorRebuild, execMirrorRebuild]
  exact awake_leads_plain hh hp ((if_neg gone).trans (if_pos ⟨hm, ha⟩)) rfl rfl rfl

theorem execMirrorRebuild_sends {m : Membership} (hm : s.cmp.mirrorState = 2) (ha : present s s.ident.partner = true) (hc : commonComp s s.ident.partner = some m) :
    exec .mirrorRebuild s =
      .next (retag s (sendImage s m.map.comp s.ident.partner 1 (s.own.homes.map (fun r => .record r.desc) ++ shardItems s (self s) s.rgn.tree))) := by
  rw [exec_mirrorRebuild, execMirrorRebuild, hc]
  exact awake_leads hh hp (if_pos ⟨hm, ha⟩)
end

/-- Settles O30, by the lemma of each message and of each outcome of a rebuild. -/
theorem mirrorRows : Obligations.MirrorRows := by
  unfold Obligations.MirrorRows
  refine ⟨fun s h => ⟨handled_restoreReq, fun offset items => handled_image offset items (by decide), ?done, handled_imageDone_restoring, ?success, ?failure,
    fun group v => handled_managementMessage_foreign group v, fun group v => handled_managementMessage_entry v⟩,
    fun s hh hp => ⟨execMirrorRebuild_rests hh hp, execMirrorRebuild_absent hh hp, fun m => execMirrorRebuild_sends hh hp⟩⟩
  case done => exact fun purpose length crc hi hp => imageEnded_other (arrive s h).1 hp ▸ handled_imageDone_empty purpose length crc hi
  case success =>
    intro hs hm
    obtain ⟨mirrored, kept⟩ := rebuildAnswered_success (arrive s h).1
    exact ⟨_, handled_imageAck_rebuilding 0 hs hm, rfl, rfl, mirrored, kept, rfl, rfl⟩
  case failure => exact fun code hc hs hm => ⟨_, handled_imageAck_rebuilding code hs hm, if_neg hc⟩

end Sys2Proof.Machine
end

section
/-!
PROOF. Error records: their capture, escalation and release, and the dump (R577, R578, R580, R581, R584, R586, R587).
-/

namespace Sys2Proof.Machine

open Sys2Proof

theorem exec_errorCapture (e : HwError) (s : State) : exec (.errorCapture e) s = execErrorCapture e s := rfl
theorem exec_errorRecordRelease (who : Req) (which : Nat) (s : State) : exec (.errorRecordRelease who which) s = execErrorRecordRelease who which s := rfl
theorem exec_errorHoldTimeout (which : Nat) (s : State) : exec (.errorHoldTimeout which) s = execErrorHoldTimeout which s := rfl
theorem exec_containedRecordLogged (s : State) : exec .containedRecordLogged s = execContainedRecordLogged s := rfl
theorem exec_dump (who : Req) (v : W64) (s : State) : exec (.dump who v) s = execDump who v s := rfl

/-! ### Capture (R576, R577, R580, R584) -/

/-- The event of a unit as it is captured: with its own severity, the time, and the hold of now. -/
def capturedOf (s : State) (unit_ index own code cause object : Nat) : ErrRec :=
  { escalated := false, severity := own, own := own, unit_ := unit_, index := index, code := code, object := object, at_ := s.now, queue := 0xFFFF, customer := 0xFFFF,
    cause := cause, hold := fieldOf (s.regs.get 0x3C 0xA00058) 15 0 }

/-- An event one severity higher. -/
def raisedRec (r : ErrRec) : ErrRec := { r with severity := min sevFatal (r.own + 1), escalated := min sevFatal (r.own + 1) != r.own }

/-- An event that finds no free record: only the overflow count and what it names move. -/
def overflowed (s : State) (unit_ code : Nat) : State :=
  { s with err := { s.err with ovCount := satAdd 0xFFFFFFFF s.err.ovCount 1, ovUnit := unit_, ovCode := code } }

/-- The counts of contained and degraded events after one of a severity (R576). -/
def countSeverity (e : Err) (sev : Nat) : Err :=
  if sev = sevContained then { e with contained := satAdd 0xFFFF e.contained 1 }
  else if sev = sevDegraded then { e with degraded := satAdd 0xFFFF e.degraded 1 } else e

/-- A severity of fatal ends in the fatal state. -/
def fatalIf (s : State) (sev cause : Nat) : State := if sev = sevFatal then enterFatal s cause else s

theorem countSeverity_records (e : Err) (sev : Nat) : (countSeverity e sev).primary = e.primary ∧ (countSeverity e sev).secondary = e.secondary := by
  unfold countSeverity
  split
  · exact ⟨rfl, rfl⟩
  · split <;> exact ⟨rfl, rfl⟩

theorem fatalIf_halted (s : State) (sev cause : Nat) : (fatalIf s sev cause).halted = (s.halted || decide (sev = sevFatal)) := by
  unfold fatalIf
  split
  next fatal => rw [decide_eq_true fatal, Bool.or_true]; rfl
  next other => rw [decide_eq_false other, Bool.or_false]

theorem fatalIf_records (s : State) (sev cause : Nat) : (fatalIf s sev cause).err.primary = s.err.primary ∧ (fatalIf s sev cause).err.secondary = s.err.secondary := by
  unfold fatalIf
  split <;> exact ⟨rfl, rfl⟩

section
variable {s : State} {u i own code cause obj : Nat}

/-- In the fatal state nothing but the overflow count moves. -/
theorem raiseErr_fatal (h : s.err.cause ≠ 0) : raiseErr s u i own code cause obj = overflowed s u code := if_pos h

variable (h : s.err.cause = 0)
include h

theorem raiseErr_primary (hp : s.err.primary = none) : let r := capturedOf s u i own code cause obj
    raiseErr s u i own code cause obj = fatalIf (logErr { s with err := countSeverity { s.err with primary := some r } own } r) own 1 := by
  rw [raiseErr, captureErr, if_neg (not_not_intro h), hp]
  rfl

theorem raiseErr_secondary {p : ErrRec} (hp : s.err.primary = some p) (hs : s.err.secondary = none) : let r := raisedRec (capturedOf s u i own code cause obj)
    raiseErr s u i own code cause obj = fatalIf (logErr { s with err := countSeverity { s.err with secondary := some r } r.severity } r) r.severity 2 := by
  rw [raiseErr, captureErr, if_neg (not_not_intro h), hp, hs]
  rfl

theorem raiseErr_third {p q : ErrRec} (hp : s.err.primary = some p) (hs : s.err.secondary = some q) :
    raiseErr s u i own code cause obj = enterFatal (overflowed s u code) 3 := by
  rw [raiseErr, captureErr, if_neg (not_not_intro h), hp, hs]
  rfl
end

section
variable {s : State} (u i own code cause obj : Nat)

/-- The first event takes the primary record. -/
theorem raiseErr_takes_primary (h : s.err.cause = 0) (hp : s.err.primary = none) : let t := raiseErr s u i own code cause obj
    t.err.primary = some (capturedOf s u i own code cause obj) ∧ t.err.secondary = s.err.secondary ∧ t.halted = (s.halted || decide (own = sevFatal)) := by
  dsimp only
  rw [raiseErr_primary h hp]
  generalize capturedOf s u i own code cause obj = r
  obtain ⟨primary, secondary⟩ := fatalIf_records (logErr { s with err := countSeverity { s.err with primary := some r } own } r) own 1
  obtain ⟨counted, counted'⟩ := countSeverity_records { s.err with primary := some r } own
  exact ⟨primary.trans counted, secondary.trans counted', fatalIf_halted _ _ _⟩

/-- The second takes the secondary record, one severity higher. -/
theorem raiseErr_takes_secondary (h : s.err.cause = 0) {p : ErrRec} (hp : s.err.primary = some p) (hs : s.err.secondary = none) : let t := raiseErr s u i own code cause obj
    let r := raisedRec (capturedOf s u i own code cause obj)
    t.err.secondary = some r ∧ t.err.primary = some p ∧ t.halted = (s.halted || decide (r.severity = sevFatal)) := by
  dsimp only
  rw [raiseErr_secondary h hp hs]
  generalize raisedRec (capturedOf s u i own code cause obj) = r
  obtain ⟨primary, secondary⟩ := fatalIf_records (logErr { s with err := countSeverity { s.err with secondary := some r } r.severity } r) r.severity 2
  obtain ⟨counted, counted'⟩ := countSeverity_records { s.err with secondary := some r } r.severity
  exact ⟨secondary.trans counted', primary.trans (counted.trans hp), fatalIf_halted _ _ _⟩

/-- A captured event below fatal is raised by one severity. -/
theorem raisedRec_below (hf : own < sevFatal) : let r := raisedRec (capturedOf s u i own code cause obj)
    r.severity = own + 1 ∧ r.own = own ∧ r.escalated = true := by
  have up : min sevFatal (own + 1) = own + 1 := Nat.min_eq_right hf
  refine ⟨up, rfl, ?_⟩
  change (min sevFatal (own + 1) != own) = true
  rw [up]
  exact bne_iff_ne.mpr (Nat.succ_ne_self own)
end

/-! ### ERROR_CAPTURE (R577, R605) -/

section
variable {s : State}

theorem execErrorCapture_tripped (h : s.tripped = true) (e : HwError) : exec (.errorCapture e) s = .next s := by
  rw [exec_errorCapture]
  cases e with
  | tileWord t => exact congrArg Host.Outcome.next (if_pos (Or.inr h))
  | hubSram => exact congrArg Host.Outcome.next (if_pos h)
  | controlCore n => exact congrArg Host.Outcome.next (if_pos (Or.inr h))
  | crossbar => exact congrArg Host.Outcome.next (if_pos h)

theorem execErrorCapture_noCore {n : Nat} (hn : 8 ≤ n) : exec (.errorCapture (.controlCore n)) s = .next s := congrArg Host.Outcome.next (if_pos (Or.inl hn))

theorem execErrorCapture_noTile {t : Nat} (ht : 32 ≤ t) : exec (.errorCapture (.tileWord t)) s = .next s := congrArg Host.Outcome.next (if_pos (Or.inl ht))

/-- A tile without an instruction has nothing to contain. -/
theorem contain_idle {t : Nat} (hi : tileInstr s t = none) : contain s (.tileWord t) = s := by
  rw [contain, hi]

variable (h : s.tripped = false)
include h

theorem execErrorCapture_hubSram : exec (.errorCapture .hubSram) s = .next (raiseErr s 0x04 0 sevFatal Code.memUncorrectable 0x01 0) :=
  congrArg Host.Outcome.next (if_neg (ne_true_of_eq_false h))

theorem execErrorCapture_crossbar : exec (.errorCapture .crossbar) s = .next (raiseErr s 0x06 0 sevFatal 0 0x02 0) :=
  congrArg Host.Outcome.next (if_neg (ne_true_of_eq_false h))

theorem execErrorCapture_core {n : Nat} (hn : n < 8) : exec (.errorCapture (.controlCore n)) s = .next (raiseErr s 0x05 n sevFatal 0 0x02 0) :=
  congrArg Host.Outcome.next (if_neg (not_or.mpr ⟨Nat.not_le.mpr hn, ne_true_of_eq_false h⟩))

/-- The word of a tile that works for no instruction is contained by its record alone. -/
theorem execErrorCapture_idleTile {t : Nat} (ht : t < 32) (hi : tileInstr s t = none) (hc : s.err.cause = 0) (hp : s.err.primary = none) :
    exec (.errorCapture (.tileWord t)) s = .next (raiseErr s 0x01 t sevContained Code.memUncorrectable 0x01 0) := by
  have idle : tileInstr (raiseErr s 0x01 t sevContained Code.memUncorrectable 0x01 0) t = none := by
    rw [raiseErr_primary hc hp]
    exact hi
  refine congrArg Host.Outcome.next ((if_neg (not_or.mpr ⟨Nat.not_le.mpr ht, ne_true_of_eq_false h⟩)).trans ?_)
  dsimp only
  rw [contain_idle idle, retag_same _ _ rfl rfl rfl, ite_self]
end

/-! ### Release (R578, R581) -/

section
variable {s : State} {who : Req} {w : Nat} {r : ErrRec}

theorem execErrorRecordRelease_releases (hw : isPhysical who = true) (hc : s.err.cause = 0) (h2 : w < 2) : exec (.errorRecordRelease who w) s = .next (releaseRecord s w) := by
  have may : ¬ (isPhysical who = false ∨ bitOf 0x8000000000000000 63 = false ∨ s.err.cause ≠ 0) := by
    rw [hw, hc]
    decide
  rw [exec_errorRecordRelease, execErrorRecordRelease, if_pos h2, recordWrite, if_neg may]

theorem execErrorRecordRelease_keeps (h : isPhysical who = false ∨ s.err.cause ≠ 0 ∨ 2 ≤ w) : exec (.errorRecordRelease who w) s = .next s := by
  have kept (denied : isPhysical who = false ∨ s.err.cause ≠ 0) : recordWrite s who w 0x8000000000000000 = s := if_pos (denied.imp_right .inr)
  rw [exec_errorRecordRelease, execErrorRecordRelease]
  rcases h with virtual | fatal | none_such
  · rw [kept (.inl virtual), ite_self]
  · rw [kept (.inr fatal), ite_self]
  · rw [if_neg (Nat.not_lt.mpr none_such)]

/-- A degraded record whose hold has passed. -/
def HoldOver (s : State) (r : ErrRec) : Prop := r.severity = sevDegraded ∧ r.hold ≠ 0 ∧ r.at_ + r.hold * 1000000 ≤ s.now

theorem not_holdOver (h : r.severity ≠ sevDegraded ∨ r.hold = 0 ∨ s.now < r.at_ + r.hold * 1000000) : ¬ HoldOver s r :=
  fun ⟨degraded, held, passed⟩ => h.elim (· degraded) (·.elim held (Nat.not_lt.mpr passed))

theorem execErrorHoldTimeout_free (hr : errRecord s w = none) : exec (.errorHoldTimeout w) s = .next s := by
  rw [exec_errorHoldTimeout, execErrorHoldTimeout, hr]

theorem execErrorHoldTimeout_over (h2 : w < 2) (hr : errRecord s w = some r) (ho : HoldOver s r) : exec (.errorHoldTimeout w) s = .next (releaseRecord s w) := by
  rw [exec_errorHoldTimeout, execErrorHoldTimeout, hr]
  exact congrArg Host.Outcome.next (if_pos ⟨h2, ho⟩)

theorem execErrorHoldTimeout_held (hr : errRecord s w = some r) (ho : ¬ HoldOver s r) : exec (.errorHoldTimeout w) s = .next s := by
  rw [exec_errorHoldTimeout, execErrorHoldTimeout, hr]
  exact congrArg Host.Outcome.next (if_neg (fun passed => ho passed.2))

/-- HOLD_CONTAINED (R581). -/
def holdContained (s : State) : Bool := bitOf (s.regs.get 0x3C 0xA00058) 16

theorem execContainedRecordLogged_free (hr : s.err.primary = none) : exec .containedRecordLogged s = .next s := by
  rw [exec_containedRecordLogged, execContainedRecordLogged, hr]

theorem execContainedRecordLogged_written (hr : s.err.primary = some r) (hc : r.severity = sevContained) (hl : s.logQ = []) (hh : holdContained s = false) :
    exec .containedRecordLogged s = .next (releaseRecord s 0) := by
  rw [exec_containedRecordLogged, execContainedRecordLogged, hr, hl]
  exact congrArg Host.Outcome.next (if_pos ⟨hc, rfl, hh⟩)

theorem execContainedRecordLogged_held (hr : s.err.primary = some r) (hh : r.severity ≠ sevContained ∨ holdContained s = true) : exec .containedRecordLogged s = .next s := by
  rw [exec_containedRecordLogged, execContainedRecordLogged, hr]
  refine congrArg Host.Outcome.next (if_neg ?_)
  rintro ⟨contained, -, off⟩
  exact hh.elim (· contained) (ne_true_of_eq_false off)
end

/-! ### The dump (R586, R587) -/

/-- The last number below `n` that passes a test is found, and the next one does not pass. -/
theorem find?_reverse_range {p : Nat → Bool} {n k : Nat} (h : (List.range n).reverse.find? p = some k) : p k = true ∧ k < n ∧ (k + 1 < n → p (k + 1) = false) := by
  obtain ⟨passes, i, hi, at_i, before⟩ := List.find?_eq_some_iff_getElem.mp h
  simp only [List.length_reverse, List.length_range, List.getElem_reverse, List.getElem_range] at hi at_i before
  refine ⟨passes, by omega, fun next => ?_⟩
  have fails := before (i - 1) (by omega)
  rwa [show n - 1 - (i - 1) = k + 1 by omega, Bool.not_eq_true'] at fails

/-- An image of no block is its header. -/
theorem packedLen_nil : packedLen [] = 256 := rfl

/-- The dump's image takes as many blocks as fit (R586). -/
theorem fitImage_longest {n : Nat} (l : List StoredBlock) (hn : 256 ≤ n) :
    ∃ k ≤ l.length, fitImage n l = l.take k ∧ packedLen (l.take k) ≤ n ∧ (k < l.length → n < packedLen (l.take (k + 1))) := by
  unfold fitImage
  split
  next k last =>
    obtain ⟨fits, below, next⟩ := find?_reverse_range last
    exact ⟨k + 1, below, rfl, of_decide_eq_true fits, fun more => Nat.not_le.mp (of_decide_eq_false (next more))⟩
  next none_fits =>
    refine ⟨0, Nat.zero_le _, rfl, packedLen_nil.trans_le hn, fun some_block => ?_⟩
    have first := List.find?_eq_none.mp none_fits 0 (List.mem_reverse.mpr (List.mem_range.mpr some_block))
    exact Nat.not_le.mp (fun fits => first (decide_eq_true fits))

theorem OnlyFab.resetting {s t : State} (h : OnlyFab s t) (fid : Nat) : t.resetting fid = s.resetting fid := by
  rw [h]
  rfl

theorem hostWrite_open {s : State} {fid : Nat} (a : Nat) (bs : List Byte) (h : s.resetting fid = false) :
    hostWrite s fid a bs = { s with host := s.host.write (hostKey fid a) bs } := if_neg (ne_true_of_eq_false h)

/-- A dump in at most `n` bytes of some blocks at a host address, once they have been read as `u` leaves it, under a sequence number (R586, R587). -/
def dumpStored (s u : State) (fid a n seq : Nat) (all : List StoredBlock) : State :=
  modErr (hostWrite u fid a (packedImage s 2 seq (fitImage n all))) (fun e => { e with dumpResult := if (fitImage n all).length < all.length then Code.memExhausted else 0 })

/-- A function that is not being reset gets its image, whole blocks as many as fit. -/
theorem dumpStored_image {s u : State} {fid n : Nat} (a seq : Nat) (all : List StoredBlock) (hu : OnlyFab s u) (hn : 256 ≤ n) (hr : s.resetting fid = false) :
    ∃ k ≤ all.length, packedLen (all.take k) ≤ n ∧ (k < all.length → n < packedLen (all.take (k + 1))) ∧
      (dumpStored s u fid a n seq all).err.dumpResult = (if k < all.length then Code.memExhausted else 0) ∧
      (dumpStored s u fid a n seq all).host = s.host.write (hostKey fid a) (packedImage s 2 seq (all.take k)) ∧
      (dumpStored s u fid a n seq all).tz = s.tz ∧ (dumpStored s u fid a n seq all).pages = s.pages := by
  obtain ⟨k, most, fit, fits, longest⟩ := fitImage_longest all hn
  refine ⟨k, most, fits, longest, ?_⟩
  simp only [dumpStored, fit, hostWrite_open _ _ ((hu.resetting fid).trans hr), List.length_take_of_le most, modErr_host, modErr_tz, modErr_pages, hu.host, hu.tz, hu.pages,
    and_self, and_true]
  rfl

/-- A dump may be asked for while the device is fatal or not serving, and not after a trip (R587, R605). -/
def MayDump (s : State) : Prop := s.tripped = false ∧ (s.halted = true ∨ s.cfgState = 0 ∨ s.cfgState = 4 ∨ s.cfgState = 6)

/-- The state with ERR_DUMP_CMD written. -/
def dumpAsked (s : State) (v : W64) : State := setReg s 0xA00070 (v &&& 0x00000FFFFFFFFFFE)

/-- What a dump of some areas leaves. -/
def dumped (s : State) (fid n areas : Nat) : State :=
  let blocks := dumpBlocks s areas
  let seq := takeFree 64 blocks.2
  dumpStored s seq.2 fid (fieldOf (s.regs.get 0 0xA00068) 63 12 * 4096) n seq.1 blocks.1

theorem dumped_image {s : State} {fid n : Nat} (areas : Nat) (hn : 256 ≤ n) (hr : s.resetting fid = false) : let all := (dumpBlocks s areas).1
    ∃ seq, ∃ k ≤ all.length, packedLen (all.take k) ≤ n ∧ (k < all.length → n < packedLen (all.take (k + 1))) ∧
      (dumped s fid n areas).err.dumpResult = (if k < all.length then Code.memExhausted else 0) ∧
      (dumped s fid n areas).host = s.host.write (hostKey fid (fieldOf (s.regs.get 0 0xA00068) 63 12 * 4096)) (packedImage s 2 seq (all.take k)) ∧
      (dumped s fid n areas).tz = s.tz ∧ (dumped s fid n areas).pages = s.pages :=
  ⟨_, dumpStored_image _ _ _ ((dumpBlocks_fab s areas).trans (takeFree_fab 64 _)) hn hr⟩

section
variable {s : State} {who : Req} {v : W64}

theorem execDump_virtual (h : isPhysical who = false) : exec (.dump who v) s = .next s := congrArg Host.Outcome.next (if_pos h)

theorem mayDump_iff : MayDump s ↔ (s.halted || s.cfgState == 0 || s.cfgState == 4 || s.cfgState == 6) = true ∧ s.tripped = false := by
  simp only [MayDump, Bool.or_eq_true, beq_iff_eq, or_assoc, and_comm]

variable (hw : isPhysical who = true)
include hw

theorem execDump_refused (h : ¬ MayDump s ∨ fieldOf (v ||| 1) 39 1 = 0) : exec (.dump who v) s = .next (dumpAsked s (v ||| 1)) := by
  rw [exec_dump, execDump, dumpWrite, if_neg (ne_false_of_eq_true hw)]
  refine congrArg Host.Outcome.next (if_pos ?_)
  rw [mayDump_iff, not_and_or, Bool.not_eq_true, Bool.not_eq_false] at h
  rcases h with (serving | tripped) | none_asked
  · exact .inr (.inr (.inl serving))
  · exact .inr (.inr (.inr tripped))
  · exact .inr (.inl (by rw [none_asked, Nat.zero_mul]))

theorem execDump_writes (hm : MayDump s) (hn : fieldOf (v ||| 1) 39 1 ≠ 0) :
    exec (.dump who v) s = .next (dumped (dumpAsked s (v ||| 1)) (fidOf who.port 0) (fieldOf (v ||| 1) 39 1 * 4096) (fieldOf (v ||| 1) 43 40)) := by
  obtain ⟨may, untripped⟩ := mayDump_iff.mp hm
  rw [exec_dump, execDump, dumpWrite, if_neg (ne_false_of_eq_true hw)]
  refine congrArg Host.Outcome.next (if_neg ?_)
  rintro (no_go | none_asked | serving | tripped)
  · exact ne_false_of_eq_true (bitOf_swap v) no_go
  · omega
  · exact ne_false_of_eq_true may serving
  · exact ne_true_of_eq_false untripped tripped
end

/-- Settles O55, by what a captured event leaves, by the lemma of each row and of each of its outcomes, and by the longest image that fits. -/
theorem errorRows : Obligations.ErrorRows := by
  unfold Obligations.ErrorRows
  refine ⟨fun s u i own code cause obj h => ⟨?primary, ?secondary, ?third⟩, fun s u i own code cause obj => raiseErr_fatal, fun s => execErrorCapture_tripped,
    fun s h => ⟨execErrorCapture_hubSram h, execErrorCapture_crossbar h, fun n => execErrorCapture_core h, fun n => execErrorCapture_noCore, fun t => execErrorCapture_noTile,
      fun t ht hi hc hp _ => execErrorCapture_idleTile h ht hi hc hp⟩,
    fun s who hw hc => ⟨execErrorRecordRelease_releases hw hc (by decide), execErrorRecordRelease_releases hw hc (by decide)⟩, fun s who w => execErrorRecordRelease_keeps,
    fun s w h2 => ⟨execErrorHoldTimeout_free, fun r hr => ⟨fun hd h0 ht => execErrorHoldTimeout_over h2 hr ⟨hd, h0, ht⟩, fun h => execErrorHoldTimeout_held hr (not_holdOver h)⟩⟩,
    fun s => ⟨execContainedRecordLogged_free, fun r hr => ⟨execContainedRecordLogged_written hr, execContainedRecordLogged_held hr⟩⟩, fun s who v => execDump_virtual,
    fun s who v hw => ⟨execDump_refused hw, ?dump⟩⟩
  case primary =>
    intro hp
    obtain ⟨taken, kept, halted⟩ := raiseErr_takes_primary u i own code cause obj h hp
    exact ⟨_, taken, rfl, rfl, rfl, rfl, rfl, rfl, kept, halted⟩
  case secondary =>
    intro p hp hs hf
    obtain ⟨taken, kept, halted⟩ := raiseErr_takes_secondary u i own code cause obj h hp hs
    obtain ⟨raised, own_kept, escalated⟩ := raisedRec_below u i own code cause obj hf
    exact ⟨_, taken, raised, own_kept, escalated, kept, raised ▸ halted⟩
  case third =>
    intro p q hp hs
    rw [raiseErr_third h hp hs]
    exact ⟨rfl, rfl, hp, hs, rfl⟩
  case dump =>
    intro hm hn hr
    obtain ⟨seq, k, most, fits, longest, result, host, tz, pages⟩ := dumped_image (s := dumpAsked s (v ||| 1)) (fid := fidOf who.port 0) (fieldOf (v ||| 1) 43 40)
      (show 256 ≤ fieldOf (v ||| 1) 39 1 * 4096 by omega) hr
    refine ⟨_, seq, k, execDump_writes hw hm hn, most, fits, longest, result, host.trans ?_, tz, pages⟩
    rw [dumpAsked, setReg, Tbl.get_set_ne _ _ _ _ _ (by decide)]
    rfl

end Sys2Proof.Machine
end

section
/-!
PROOF. Tables and keys: a table's load, the selection of slots, the re-coding of a carve block, and a key slot from LOAD through DESTROY to its sweep (R316 to R319, R326, R327,
R330, R332, R333).
-/

namespace Sys2Proof.Machine

open Sys2Proof

theorem exec_tableLoad (who : Req) (v : W64) (s : State) : exec (.tableLoad who v) s = execTableLoad who v s := rfl
theorem exec_cxeCompSelWrite (who : Req) (v : W64) (s : State) : exec (.cxeCompSelWrite who v) s = execCxeCompSelWrite who v s := rfl
theorem exec_recodeBlock (place : RecodePlace) (s : State) : exec (.recodeBlock place) s = execRecodeBlock place s := rfl
theorem exec_keySweep (slot : Nat) (s : State) : exec (.keySweep slot) s = execKeySweep slot s := rfl

/-! ### A table's load (R316, R318, R330, R333) -/

/-- The table in the file that a load names, if it is there and valid. -/
def namedTable (s : State) (v : W64) : Option (Nat × List Nat × List Nat) :=
  (tableFile s (fieldOf v 63 26 * 64) (fieldOf v 25 19)).bind (fun bs => parseTable bs (fieldOf v 25 19))

/-- CXE_TABLE_CMD with a load's value. -/
def loadAsked (s : State) (v : W64) : State := setReg s 0x300010 (v &&& 0xFFFFFFFFFFFF8000)

/-- A new table in a slot, with the next generation. -/
def tableEntered (s : State) (i id : Nat) (lens runs : List Nat) : State :=
  { s with cx := { s.cx with genCounter := s.cx.genCounter + 1, slots := s.cx.slots.set i { st := 2, gen := s.cx.genCounter + 1, id := id, lens := lens, runs := runs } } }

section
variable {s : State} {who : Req} {v : W64}

theorem loadDone_memory (s : State) (slot kinds : Nat) :
    (loadDone s slot kinds).pages = s.pages ∧ (loadDone s slot kinds).dev = s.dev ∧ (loadDone s slot kinds).models = s.models := ⟨rfl, rfl, rfl⟩

theorem tableLoad_invalid (h5 : 5 ≤ fieldOf v 25 19) (h40 : fieldOf v 25 19 ≤ 0x40) (ht : namedTable s v = none) : tableLoad s v = loadFails s Code.ctTableInvalid := by
  unfold namedTable at ht
  rw [tableLoad, if_pos ⟨h5, h40⟩, ht]

/-- With nothing expected, a valid table that no slot in use holds enters the lowest FREE slot. -/
theorem tableLoad_new {id i : Nat} {lens runs : List Nat} (h5 : 5 ≤ fieldOf v 25 19) (h40 : fieldOf v 25 19 ≤ 0x40) (ht : namedTable s v = some (id, lens, runs))
    (he : fieldOf (s.regs.get 0 0x300018) 31 0 = 0) (hl : s.cx.slots.findIdx? (fun t => (t.st == 2 || t.st == 3) && t.id == id) = none)
    (hf : s.cx.slots.findIdx? (fun t => t.st == 0) = some i) : tableLoad s v = loadDone (tableEntered s i id lens runs) i (fieldOf v 18 15) := by
  unfold namedTable at ht
  rw [tableLoad, if_pos ⟨h5, h40⟩, ht]
  dsimp only
  rw [if_neg (fun expected => expected.1 he), hl, hf]
  rfl

theorem execTableLoad_virtual (hh : s.halted = false) (hw : isPhysical who = false) : exec (.tableLoad who v) s = .next s := by
  rw [exec_tableLoad, execTableLoad]
  exact alive_unchanged hh (if_pos hw)

variable (hw : isPhysical who = true)
include hw

theorem execTableLoad_ignored (hh : s.halted = false) (h : fieldOf v 18 15 = 0 ∨ s.cx.loadWaiting.isSome = true) : exec (.tableLoad who v) s = .next (loadAsked s v) := by
  rw [exec_tableLoad, execTableLoad]
  exact alive_leads_plain hh ((if_neg (ne_false_of_eq_true hw)).trans (if_pos h)) rfl rfl rfl

variable (hk : fieldOf v 18 15 ≠ 0) (hl : s.cx.loadWaiting = none)
include hk hl

/-- A load that is taken runs where firmware schedules, and waits otherwise. -/
theorem execTableLoad_taken : exec (.tableLoad who v) s =
    alive s (if scheduling (loadAsked s v) = true then tableLoad (loadAsked s v) v else modCx (loadAsked s v) (fun c => { c with loadWaiting := some v })) := by
  have taken : ¬ (fieldOf v 18 15 = 0 ∨ (loadAsked s v).cx.loadWaiting.isSome = true) := by
    rintro (none_named | waiting)
    · exact hk none_named
    · simp [loadAsked, hl] at waiting
  rw [exec_tableLoad, execTableLoad, if_neg (ne_false_of_eq_true hw)]
  exact congrArg (alive s) (if_neg taken)

variable (hh : s.halted = false)
include hh

theorem execTableLoad_waits (hs : scheduling (loadAsked s v) = false) :
    exec (.tableLoad who v) s = .next { loadAsked s v with cx := { s.cx with loadWaiting := some v } } := by
  rw [execTableLoad_taken hw hk hl]
  exact alive_leads_plain hh (if_neg (ne_true_of_eq_false hs)) rfl rfl rfl

variable (hs : scheduling (loadAsked s v) = true) (h5 : 5 ≤ fieldOf v 25 19) (h40 : fieldOf v 25 19 ≤ 0x40)
include hs h5 h40

theorem execTableLoad_invalid (ht : namedTable (loadAsked s v) v = none) : exec (.tableLoad who v) s = .next (loadFails (loadAsked s v) Code.ctTableInvalid) := by
  rw [execTableLoad_taken hw hk hl]
  exact alive_leads_plain hh ((if_pos hs).trans (tableLoad_invalid h5 h40 ht)) rfl rfl rfl

theorem execTableLoad_enters {id i : Nat} {lens runs : List Nat} (ht : namedTable (loadAsked s v) v = some (id, lens, runs))
    (he : fieldOf ((loadAsked s v).regs.get 0 0x300018) 31 0 = 0) (hn : s.cx.slots.findIdx? (fun t => (t.st == 2 || t.st == 3) && t.id == id) = none)
    (hf : s.cx.slots.findIdx? (fun t => t.st == 0) = some i) :
    exec (.tableLoad who v) s = .next (loadDone (tableEntered (loadAsked s v) i id lens runs) i (fieldOf v 18 15)) := by
  rw [execTableLoad_taken hw hk hl]
  obtain ⟨pages, dev, models⟩ := loadDone_memory (tableEntered (loadAsked s v) i id lens runs) i (fieldOf v 18 15)
  exact alive_leads_plain hh ((if_pos hs).trans (tableLoad_new h5 h40 ht he hn hf)) pages dev models
end

/-! ### The selection of slots (R330) -/

/-- A selection may name a slot in use, or 15 for raw. -/
def mayName (s : State) (n : Nat) : Bool := n == 15 || (match s.cx.slots[n]? with | some t => t.st == 2 || t.st == 3 | none => false)

/-- The slot of a kind after a write of CXE_COMP_SEL: the one written where it may be named, else the one before. -/
def picked (s : State) (v : W64) (kind : Nat) : Nat := if mayName s (fieldOf v (4 * kind + 3) (4 * kind)) = true then fieldOf v (4 * kind + 3) (4 * kind) else kindSel s kind

section
variable {s : State} {who : Req} {v : W64} (hh : s.halted = false)
include hh

theorem execCxeCompSelWrite_virtual (hw : isPhysical who = false) : exec (.cxeCompSelWrite who v) s = .next s := by
  rw [exec_cxeCompSelWrite, execCxeCompSelWrite]
  exact alive_unchanged hh (if_pos hw)

theorem execCxeCompSelWrite_selects (hw : isPhysical who = true) : exec (.cxeCompSelWrite who v) s =
    .next (selectSlots (setReg s 0x300000 (BitVec.ofNat 64 (picked s v 0 + 16 * picked s v 1 + 256 * picked s v 2 + 4096 * picked s v 3)))) := by
  rw [exec_cxeCompSelWrite, execCxeCompSelWrite]
  exact alive_leads_plain hh (if_neg (ne_false_of_eq_true hw)) rfl rfl rfl
end

/-! ### Sweeping and re-coding (R319, R333) -/

/-- The background engine that re-codes and sweeps is on. -/
def sweepOn (s : State) : Bool := bitOf (s.regs.get 0x108 0x300008) 8

section
variable {s : State} {i : Nat} (hh : s.halted = false)
include hh

theorem execRecodeBlock_off (place : RecodePlace) (h : sweepOn s = false ∨ braking s = true) : exec (.recodeBlock place) s = .next s := by
  rw [exec_recodeBlock, execRecodeBlock.eq_def]
  exact alive_unchanged hh (if_pos h)

variable (ho : sweepOn s = true) (hb : braking s = false)
include ho hb

theorem execRecodeBlock_carve_retiring (ht : (s.cx.carveTags.find i).any (tagRetiring s) = true) : exec (.recodeBlock (.carve i)) s =
    .next { s with cx := freeSlots { s.cx with carveTags := putTag s.cx.carveTags i (blockTag s 2 (s.dev.read (2048 * i) 2048)) } } := by
  rw [exec_recodeBlock, execRecodeBlock]
  exact alive_leads_plain hh ((if_neg (not_or.mpr ⟨ne_false_of_eq_true ho, ne_true_of_eq_false hb⟩)).trans (if_pos ht)) rfl rfl rfl

theorem execRecodeBlock_carve_other (ht : (s.cx.carveTags.find i).any (tagRetiring s) = false) : exec (.recodeBlock (.carve i)) s = .next s := by
  rw [exec_recodeBlock, execRecodeBlock]
  exact alive_unchanged hh ((if_neg (not_or.mpr ⟨ne_false_of_eq_true ho, ne_true_of_eq_false hb⟩)).trans (if_neg (ne_true_of_eq_false ht)))
end

/-! ### Loading and destroying a key (R327, R332) -/

/-- The write of CXE_KEY_CMD with GO 1, an operation and a slot. -/
def keyCmd (op slot : Nat) : W64 := BitVec.ofNat 64 (2 ^ 46 + op * 65536 + slot % 1024)

theorem execKeyLoad_writes (who : Req) (slot : Nat) (s : State) : exec (.keyLoad who slot) s = alive s (keyCmdWrite s who (keyCmd 1 slot)) := rfl
theorem execKeyDestroy_writes (who : Req) (slot : Nat) (s : State) : exec (.keyDestroy who slot) s = alive s (keyCmdWrite s who (keyCmd 2 slot)) := rfl

theorem keyCmd_fields {op slot : Nat} (ho : op < 4) (hs : slot < 1024) :
    fieldOf (keyCmd op slot) 17 16 = op ∧ fieldOf (keyCmd op slot) 9 0 = slot ∧ bitOf (keyCmd op slot) 46 = true := by
  have word : (keyCmd op slot).toNat = 2 ^ 46 + op * 65536 + slot := by
    rw [keyCmd, BitVec.toNat_ofNat]
    omega
  refine ⟨?_, ?_, beq_iff_eq.mpr ?_⟩
  · rw [fieldOf, word]; omega
  · rw [fieldOf, word]; omega
  · rw [word]; omega

/-- A table from which the keys of a list were removed reads its default at each of them. -/
theorem Tbl.get_foldl_del {α : Type} (f : Nat → Nat) (l : List Nat) (t : Tbl α) (d : α) {k : Nat} (hk : k ∈ l) :
    Tbl.get (l.foldl (fun t k => t.del (f k)) t) d (f k) = d := by
  have stays_clear (l : List Nat) (t : Tbl α) (hc : Tbl.get t d (f k) = d) : Tbl.get (l.foldl (fun t k => t.del (f k)) t) d (f k) = d := by
    induction l generalizing t with
    | nil => exact hc
    | cons j l ih =>
      refine ih _ ?_
      dsimp only
      by_cases same : f j = f k
      · rw [same, Tbl.get_del_self]
      · rw [Tbl.get_del_ne _ _ _ _ same, hc]
  induction l generalizing t with
  | nil => exact absurd hk List.not_mem_nil
  | cons j l ih =>
    rcases List.mem_cons.mp hk with rfl | later
    · exact stays_clear l _ (Tbl.get_del_self _ _ _)
    · exact ih _ later

theorem clearKeyData_eq (s : State) : clearKeyData s = { s with regs := (List.range 8).foldl (fun t k => t.del (0x300100 + 8 * k)) s.regs } := rfl

theorem clearKeyData_cleared (s : State) {k : Nat} (hk : k < 8) : (clearKeyData s).regs.get 0 (0x300100 + 8 * k) = 0 := by
  rw [clearKeyData_eq]
  exact Tbl.get_foldl_del (fun k => 0x300100 + 8 * k) _ _ _ (List.mem_range.mpr hk)

/-- CXE_KEY_CMD lies outside CXE_KEY_DATA. -/
theorem keyData_setReg (s : State) (v : W64) : keyData (setReg s 0x300140 v) = keyData s := by
  refine List.map_congr_left (fun k hk => ?_)
  have below := List.mem_range.mp hk
  exact Tbl.get_set_ne _ _ _ _ _ (by omega)

/-- A write of CXE_KEY_CMD with GO taken: the register holds the operation and the slot, CXE_KEY_DATA is cleared. -/
def keyAsked (s : State) (op slot : Nat) : State := clearKeyData (setReg s 0x300140 (BitVec.ofNat 64 (op * 65536 + slot)))

/-- The result of a key operation. -/
def keyAnswered (s : State) (code : Nat) : State := modCx s (fun c => { c with keyResult := code })

/-- A key in a slot, LIVE. -/
def keyEntered (s : State) (slot : Nat) (d : List W64) : State := { modCx s (fun c => { c with keys := c.keys.set slot d }) with keySlots := s.keySlots.set slot 1 }

/-- A slot's key gone, DESTROYED. -/
def keyRemoved (s : State) (slot : Nat) : State := { modCx s (fun c => { c with keys := c.keys.del slot }) with keySlots := s.keySlots.set slot 2 }

theorem keyAnswered_entered (s : State) (slot code : Nat) (d : List W64) : let t := keyAnswered (keyEntered s slot d) code
    t.keySlots = s.keySlots.set slot 1 ∧ t.cx.keys = s.cx.keys.set slot d ∧ t.cx.keyResult = code ∧ t.regs = s.regs ∧ t.pages = s.pages ∧ t.dev = s.dev :=
  ⟨rfl, rfl, rfl, rfl, rfl, rfl⟩

theorem keyAnswered_removed (s : State) (slot code : Nat) : let t := keyAnswered (keyRemoved s slot) code
    t.keySlots = s.keySlots.set slot 2 ∧ t.cx.keys = s.cx.keys.del slot ∧ t.cx.keyResult = code ∧ t.pages = s.pages := ⟨rfl, rfl, rfl, rfl⟩

theorem keyAnswered_keys (s : State) (code : Nat) : let t := keyAnswered s code
    t.keySlots = s.keySlots ∧ t.cx.keys = s.cx.keys ∧ t.cx.keyResult = code := ⟨rfl, rfl, rfl⟩

/-- What a key operation does to a slot in a state `st`, with the data `d` taken from CXE_KEY_DATA. -/
def keyDone (s : State) (op slot st : Nat) (d : List W64) : State :=
  if slot = 0 then keyAnswered s Code.keyInvalid
  else if op = 1 then if st ≠ 0 ∨ d.take 4 = d.drop 4 then keyAnswered s Code.keyInvalid else keyAnswered (keyEntered s slot d) 0
  else if op = 2 then if st ≠ 1 then keyAnswered s Code.keyInvalid else keyAnswered (keyRemoved s slot) 0
  else s

/-- The operation of CXE_KEY_CMD after a write: a legal one written, else the one before. -/
def keyOp (s : State) (v : W64) : Nat := if fieldOf v 17 16 = 1 ∨ fieldOf v 17 16 = 2 then fieldOf v 17 16 else fieldOf (s.regs.get 0 0x300140) 17 16

section
variable {s : State} {who : Req} {v : W64} {i op : Nat}

theorem keyCmdWrite_go (hw : isPhysical who = true) (hv : bitOf v 46 = true) : keyCmdWrite s who v =
    keyDone (keyAsked s (keyOp s v) (fieldOf v 9 0)) (keyOp s v) (fieldOf v 9 0) (s.keySlots.get 0 (fieldOf v 9 0)) (keyData s) := by
  rw [← keyData_setReg s (BitVec.ofNat 64 (keyOp s v * 65536 + fieldOf v 9 0)), keyCmdWrite, if_neg (ne_false_of_eq_true hw)]
  exact if_neg (ne_false_of_eq_true hv)

/-- A write of LOAD or DESTROY for a slot. -/
theorem keyCmdWrite_op (hw : isPhysical who = true) (hi : i < 1024) (ho : op = 1 ∨ op = 2) :
    keyCmdWrite s who (keyCmd op i) = keyDone (keyAsked s op i) op i (s.keySlots.get 0 i) (keyData s) := by
  obtain ⟨asked, slot, go⟩ := keyCmd_fields (op := op) (show op < 4 by omega) hi
  have taken : keyOp s (keyCmd op i) = op := by
    rw [keyOp, asked, if_pos ho]
  rw [keyCmdWrite_go hw go, taken, slot]

/-- LOAD may fill a slot other than 0 that is EMPTY, with data whose halves differ; DESTROY a LIVE slot other than 0. -/
theorem keyDone_load (h0 : i ≠ 0) (hs : s.keySlots.get 0 i = 0) (hd : (keyData s).take 4 ≠ (keyData s).drop 4) (t : State) :
    keyDone t 1 i (s.keySlots.get 0 i) (keyData s) = keyAnswered (keyEntered t i (keyData s)) 0 := by
  rw [keyDone, if_neg h0, if_pos rfl, if_neg (not_or.mpr ⟨not_not_intro hs, hd⟩)]

theorem keyDone_load_invalid (h : i = 0 ∨ s.keySlots.get 0 i ≠ 0 ∨ (keyData s).take 4 = (keyData s).drop 4) (t : State) :
    keyDone t 1 i (s.keySlots.get 0 i) (keyData s) = keyAnswered t Code.keyInvalid := by
  rw [keyDone, if_pos rfl]
  rcases h with zero | invalid
  · rw [if_pos zero]
  · rw [if_pos invalid, ite_self]

theorem keyDone_destroy (h0 : i ≠ 0) (hs : s.keySlots.get 0 i = 1) (t : State) :
    keyDone t 2 i (s.keySlots.get 0 i) (keyData s) = keyAnswered (keyRemoved t i) 0 := by
  rw [keyDone, if_neg h0, if_neg (by decide), if_pos rfl, if_neg (not_not_intro hs)]

theorem keyDone_destroy_invalid (h : i = 0 ∨ s.keySlots.get 0 i ≠ 1) (t : State) :
    keyDone t 2 i (s.keySlots.get 0 i) (keyData s) = keyAnswered t Code.keyInvalid := by
  rw [keyDone, if_neg (show ¬ 2 = 1 by decide), if_pos rfl]
  rcases h with zero | invalid
  · rw [if_pos zero]
  · rw [if_pos invalid, ite_self]

/-- Asking for a key operation changes registers only. -/
theorem keyAsked_eq (s : State) (op slot : Nat) : keyAsked s op slot = { s with regs := (keyAsked s op slot).regs } := by
  rw [keyAsked, clearKeyData_eq]
  rfl

theorem keyAsked_cleared (s : State) (op slot : Nat) {k : Nat} (hk : k < 8) : (keyAsked s op slot).regs.get 0 (0x300100 + 8 * k) = 0 := clearKeyData_cleared _ hk

theorem keyAsked_memory (s : State) (op slot : Nat) : (keyAsked s op slot).pages = s.pages ∧ (keyAsked s op slot).dev = s.dev ∧ (keyAsked s op slot).models = s.models := by
  rw [keyAsked_eq]
  exact ⟨rfl, rfl, rfl⟩

theorem keyAsked_keys (s : State) (op slot : Nat) : (keyAsked s op slot).keySlots = s.keySlots ∧ (keyAsked s op slot).cx = s.cx := by
  rw [keyAsked_eq]
  exact ⟨rfl, rfl⟩

/-- A key operation touches no page, region memory or model. -/
theorem keyDone_memory (t : State) (op slot st : Nat) (d : List W64) :
    (keyDone t op slot st d).pages = t.pages ∧ (keyDone t op slot st d).dev = t.dev ∧ (keyDone t op slot st d).models = t.models := by
  unfold keyDone
  repeat' split
  all_goals exact ⟨rfl, rfl, rfl⟩

variable (hh : s.halted = false) (hw : isPhysical who = true) (hi : i < 1024)
include hh hw hi

theorem alive_keyCmdWrite (ho : op = 1 ∨ op = 2) :
    alive s (keyCmdWrite s who (keyCmd op i)) = .next (keyDone (keyAsked s op i) op i (s.keySlots.get 0 i) (keyData s)) := by
  obtain ⟨pages, dev, models⟩ := keyDone_memory (keyAsked s op i) op i (s.keySlots.get 0 i) (keyData s)
  obtain ⟨pages', dev', models'⟩ := keyAsked_memory s op i
  exact alive_leads_plain hh (keyCmdWrite_op hw hi ho) (pages.trans pages') (dev.trans dev') (models.trans models')

theorem execKeyLoad_loads (h0 : i ≠ 0) (hs : s.keySlots.get 0 i = 0) (hd : (keyData s).take 4 ≠ (keyData s).drop 4) :
    exec (.keyLoad who i) s = .next (keyAnswered (keyEntered (keyAsked s 1 i) i (keyData s)) 0) := by
  rw [execKeyLoad_writes, alive_keyCmdWrite hh hw hi (.inl rfl), keyDone_load h0 hs hd]

theorem execKeyLoad_invalid (h : i = 0 ∨ s.keySlots.get 0 i ≠ 0 ∨ (keyData s).take 4 = (keyData s).drop 4) :
    exec (.keyLoad who i) s = .next (keyAnswered (keyAsked s 1 i) Code.keyInvalid) := by
  rw [execKeyLoad_writes, alive_keyCmdWrite hh hw hi (.inl rfl), keyDone_load_invalid h]

theorem execKeyDestroy_destroys (h0 : i ≠ 0) (hs : s.keySlots.get 0 i = 1) :
    exec (.keyDestroy who i) s = .next (keyAnswered (keyRemoved (keyAsked s 2 i) i) 0) := by
  rw [execKeyDestroy_writes, alive_keyCmdWrite hh hw hi (.inr rfl), keyDone_destroy h0 hs]

theorem execKeyDestroy_invalid (h : i = 0 ∨ s.keySlots.get 0 i ≠ 1) : exec (.keyDestroy who i) s = .next (keyAnswered (keyAsked s 2 i) Code.keyInvalid) := by
  rw [execKeyDestroy_writes, alive_keyCmdWrite hh hw hi (.inr rfl), keyDone_destroy_invalid h]
end

/-! ### What a step keeps of the pages it leaves -/

/-- The tags' part of a step leaves the pages, or takes look-ahead marks off some of them (R191). -/
theorem retag_pages (s k : State) : (retag s k).pages = k.pages ∨ ∃ ns : List Nat, (retag s k).pages = mapIf (fun p => ns.contains p.number) (fun p => { p with lookahead := false }) k.pages := by
  have dropped : (dropStale s k).pages = k.pages ∨ ∃ ns : List Nat, (dropStale s k).pages = mapIf (fun p => ns.contains p.number) (fun p => { p with lookahead := false }) k.pages := by
    unfold dropStale
    dsimp only
    split
    · exact .inl rfl
    · exact .inr ⟨_, rfl⟩
  unfold retag
  split
  · exact .inl rfl
  · rw [← rearm_pages (dropStale s k)] at dropped
    exact dropped

/-- A page after a step is one that the step left, its look-ahead mark apart. -/
theorem retag_pages_from {s k : State} {q : Page} (hq : q ∈ (retag s k).pages) : ∃ p ∈ k.pages, q = p ∨ q = { p with lookahead := false } := by
  rcases retag_pages s k with same | ⟨ns, marked⟩
  · exact ⟨q, same ▸ hq, .inl rfl⟩
  · rw [marked] at hq
    obtain ⟨p, hp, rfl⟩ := List.mem_map.mp hq
    exact ⟨p, hp, (ite_eq_or_eq _ _ _).symm⟩

/-- A page that the step left is there after it, its look-ahead mark apart. -/
theorem retag_pages_to {s k : State} {p : Page} (hp : p ∈ k.pages) : p ∈ (retag s k).pages ∨ { p with lookahead := false } ∈ (retag s k).pages := by
  rcases retag_pages s k with same | ⟨ns, marked⟩
  · exact .inl (same ▸ hp)
  · rw [marked]
    cases named : ns.contains p.number with
    | false => exact .inl (mem_mapIf_of_not hp named)
    | true => exact .inr (List.mem_map.mpr ⟨p, hp, if_pos named⟩)

/-! ### The sweep of a destroyed slot (R327, R333, R391) -/

/-- The pages under a slot. -/
def pagesUnder (s : State) (slot : Nat) : List Page := s.pages.filter (fun p => pageKeySlot s p == slot)

/-- A page in no tier, lost. -/
def pageGone (p : Page) : Page := { p with stack := none, host := none, flash := none, lost := true, rows := [], pin := 0 }

/-- The numbers of the pages under a slot. -/
def goneUnder (s : State) (slot : Nat) : List Nat := (pagesUnder s slot).map (·.number)

/-- Every page under the slot freed in every tier and lost. -/
def pagesFreed (s : State) (slot : Nat) : State := { s with pages := mapIf (fun p => (goneUnder s slot).contains p.number) pageGone s.pages }

/-- The objects of some pages, each once. -/
def objectsAmong (ps : List Page) : List Handle := ps.foldl (fun l p => if l.contains p.obj then l else l ++ [p.obj]) []

/-- The homes of some objects hear of the pages that changed since `before`. -/
def homesTold (s : State) (objs : List Handle) (before : List Page) : State := objs.foldl (fun s o => tellTokens s o before) s

/-- A registered region or key entry is of a customer under the slot. -/
def entryUnder (s : State) (slot : Nat) (k : KeyEntry) : Bool := k.state != .free && customerSlot s k.customer == slot

/-- A key entry whose relocated pages and draft units hold no bytes. -/
def unitsCleared (k : KeyEntry) : KeyEntry :=
  { k with relocated := k.relocated.map (fun u => { u with bytes := [] }), drafts := k.drafts.map (fun d => { d with units := d.units.map (fun u => { u with bytes := [] }) }) }

/-- The bytes of the carve's regions under the slot become zero, with those of drafts and relocated pages. -/
def regionsZeroed (s : State) (slot : Nat) : State :=
  let regions := (s.rgn.keys.filter (fun k => k.2.state != .free && k.2.loc == 1 && customerSlot s k.2.customer == slot)).map (·.2)
  let u := regions.foldl (fun s k => { s with dev := s.dev.filter (fun c => !(decide (k.addr ≤ c.1 ∧ c.1 < k.addr + k.len))) }) s
  { u with rgn := { u.rgn with keys := u.rgn.keys.map (fun x => if entryUnder u slot x.2 then (x.1, unitsCleared x.2) else x) } }

/-- The saved tasks of customers under the slot go, and their instructions end. -/
def tasksLost (s : State) (slot : Nat) : State :=
  let saved := s.til.tasks.filter (fun k => customerSlot s k.customer == slot && s.til.tiles.any (fun x => x.2.saved.contains k.id))
  let u := cancelWork s (saved.map (·.instr)) Code.memUncorrectable
  { u with til := { u.til with tiles := u.til.tiles.map (fun x => (x.1, { x.2 with saved := x.2.saved.filter (fun i => !(saved.any (fun k => k.id == i))) })) } }

/-- The sweep of a slot: what is under it goes, and the slot is EMPTY. -/
def slotSwept (s : State) (slot : Nat) : State :=
  let u := tasksLost (regionsZeroed (homesTold (pagesFreed s slot) (objectsAmong (pagesUnder s slot)) s.pages) slot) slot
  { u with keySlots := u.keySlots.del slot, fl := { u.fl with toErase := u.fl.toErase ++ (pagesUnder s slot).filterMap (·.flash) } }

theorem homesTold_none {s : State} (hc : s.own.copies = []) (objs : List Handle) (before : List Page) : homesTold s objs before = s := by
  induction objs with
  | nil => rfl
  | cons o objs ih =>
    have none_here : findCopy s o = none := by rw [findCopy, hc, List.find?_nil]
    have silent : tellTokens s o before = s := by rw [tellTokens, none_here]
    rwa [homesTold, List.foldl_cons, silent]

theorem regionsZeroed_none {s : State} (hk : s.rgn.keys = []) (slot : Nat) : regionsZeroed s slot = s := by
  simp only [regionsZeroed, hk, List.filter_nil, List.map_nil, List.foldl_nil]
  rw [← hk]

theorem tasksLost_none {s : State} (ht : s.til.tasks = []) (slot : Nat) : ∃ til, tasksLost s slot = { s with til := til } := by
  rw [tasksLost, ht]
  exact ⟨_, rfl⟩

section
variable {s : State} {i : Nat}

theorem execKeySweep_rests (hh : s.halted = false) (h : s.keySlots.get 0 i ≠ 2 ∨ sweepOn s = false ∨ braking s = true) : exec (.keySweep i) s = .next s :=
  alive_unchanged hh (if_pos h)

theorem execKeySweep_sweeps (hh : s.halted = false) (hs : s.keySlots.get 0 i = 2) (ho : sweepOn s = true) (hb : braking s = false) :
    exec (.keySweep i) s = .next (retag s (slotSwept s i)) := by
  refine alive_leads hh (if_neg ?_)
  exact not_or.mpr ⟨not_not_intro hs, not_or.mpr ⟨ne_false_of_eq_true ho, ne_true_of_eq_false hb⟩⟩
end

section
variable {s : State} {i : Nat} (hc : s.own.copies = []) (hk : s.rgn.keys = []) (ht : s.til.tasks = [])
include hc hk ht

/-- Where no sequence, region or task is here, the sweep changes only the pages, the slot, what is to be erased and the tiles. -/
theorem slotSwept_bare : ∃ til, slotSwept s i =
    { pagesFreed s i with til := til, keySlots := s.keySlots.del i, fl := { s.fl with toErase := s.fl.toErase ++ (pagesUnder s i).filterMap (·.flash) } } := by
  have told : homesTold (pagesFreed s i) (objectsAmong (pagesUnder s i)) s.pages = pagesFreed s i := homesTold_none (s := pagesFreed s i) hc _ _
  have zeroed : regionsZeroed (pagesFreed s i) i = pagesFreed s i := regionsZeroed_none (s := pagesFreed s i) hk i
  obtain ⟨til, lost⟩ := tasksLost_none (s := pagesFreed s i) ht i
  rw [slotSwept, told, zeroed, lost]
  exact ⟨til, rfl⟩
end

theorem mem_goneUnder {s : State} {i n : Nat} : (goneUnder s i).contains n = true ↔ ∃ q ∈ s.pages, pageKeySlot s q = i ∧ q.number = n := by
  simp [goneUnder, pagesUnder, and_assoc]

/-- A page freed by a sweep, whatever its look-ahead mark. -/
theorem pagesFreed_gone {s k : State} {i : Nat} {q p : Page} (hk : k.pages = (pagesFreed s i).pages) (hq : q ∈ s.pages) (hs : pageKeySlot s q = i)
    (hp : p ∈ (retag s k).pages) (hn : p.number = q.number) : p.stack = none ∧ p.host = none ∧ p.flash = none ∧ p.lost = true := by
  obtain ⟨left, hleft, marked⟩ := retag_pages_from hp
  have unmarked : left.number = p.number := by rcases marked with rfl | rfl <;> rfl
  rw [hk] at hleft
  obtain ⟨before, -, rfl⟩ := List.mem_map.mp hleft
  have number : q.number = before.number := by
    rw [← hn, ← unmarked, apply_ite Page.number]
    exact ite_self _
  rw [if_pos (mem_goneUnder.mpr ⟨q, hq, hs, number⟩)] at marked
  rcases marked with rfl | rfl <;> exact ⟨rfl, rfl, rfl, rfl⟩

/-- A page under another slot, whatever its look-ahead mark. -/
theorem pagesFreed_kept {s k : State} {i : Nat} {p : Page} (hk : k.pages = (pagesFreed s i).pages) (hp : p ∈ s.pages)
    (hs : ∀ q ∈ s.pages, q.number = p.number → pageKeySlot s q ≠ i) : p ∈ (retag s k).pages ∨ { p with lookahead := false } ∈ (retag s k).pages := by
  refine retag_pages_to (hk ▸ mem_mapIf_of_not hp (Bool.eq_false_iff.mpr (fun gone => ?_)))
  obtain ⟨q, hq, under, number⟩ := mem_goneUnder.mp gone
  exact hs q hq number under

/-- Settles O44, by the lemma of each row and of each of its outcomes, and by what a step keeps of the pages it leaves. -/
theorem tableAndKeyRows : Obligations.TableAndKeyRows := by
  unfold Obligations.TableAndKeyRows
  refine ⟨fun s who v hh => ⟨fun hw => ⟨execTableLoad_virtual hh hw, execCxeCompSelWrite_virtual hh hw⟩, fun hw => execTableLoad_ignored hw hh,
    fun hw hk hl => execTableLoad_waits hw hk hl hh, fun hw hk hl hs h5 h40 => ⟨execTableLoad_invalid hw hk hl hh hs h5 h40, fun id lens runs i => execTableLoad_enters hw hk hl hh hs h5 h40⟩,
    execCxeCompSelWrite_selects hh, fun place => execRecodeBlock_off hh place, fun i ho hb => ⟨execRecodeBlock_carve_retiring hh ho hb, execRecodeBlock_carve_other hh ho hb⟩⟩,
    fun s who i hh hw hi => ⟨?load, ?load_invalid, ?destroy, ?destroy_invalid⟩, fun s i hh => ⟨execKeySweep_rests hh, ?sweep⟩⟩
  case load =>
    intro h0 hs hd
    obtain ⟨asked_slots, asked_cx⟩ := keyAsked_keys s 1 i
    obtain ⟨asked_pages, asked_dev, -⟩ := keyAsked_memory s 1 i
    obtain ⟨slots, keys, result, regs, pages, dev⟩ := keyAnswered_entered (keyAsked s 1 i) i 0 (keyData s)
    refine ⟨_, execKeyLoad_loads hh hw hi h0 hs hd, ?_, ?_, result, fun k hk => ?_, fun j hj => ?_, pages.trans asked_pages, dev.trans asked_dev⟩
    · rw [slots, Tbl.get_set_self]
    · rw [keys, Tbl.get_set_self]
    · rw [regs, keyAsked_cleared s 1 i hk]
    · rw [slots, Tbl.get_set_ne _ _ _ _ _ hj.symm, asked_slots]
  case destroy =>
    intro h0 hs
    obtain ⟨asked_pages, -, -⟩ := keyAsked_memory s 2 i
    obtain ⟨slots, keys, result, pages⟩ := keyAnswered_removed (keyAsked s 2 i) i 0
    refine ⟨_, execKeyDestroy_destroys hh hw hi h0 hs, ?_, ?_, result, pages.trans asked_pages⟩
    · rw [slots, Tbl.get_set_self]
    · rw [keys, Tbl.find_del, if_pos rfl]
  case load_invalid =>
    intro h
    obtain ⟨slots, cx⟩ := keyAsked_keys s 1 i
    obtain ⟨slots', keys', result⟩ := keyAnswered_keys (keyAsked s 1 i) Code.keyInvalid
    exact ⟨_, execKeyLoad_invalid hh hw hi h, slots'.trans slots, keys'.trans (congrArg Cx.keys cx), result⟩
  case destroy_invalid =>
    intro h
    obtain ⟨slots, cx⟩ := keyAsked_keys s 2 i
    obtain ⟨slots', keys', result⟩ := keyAnswered_keys (keyAsked s 2 i) Code.keyInvalid
    exact ⟨_, execKeyDestroy_invalid hh hw hi h, slots'.trans slots, keys'.trans (congrArg Cx.keys cx), result⟩
  case sweep =>
    intro hs ho hb hc _ hk ht
    obtain ⟨til, swept⟩ := slotSwept_bare (i := i) hc hk ht
    have pages : (slotSwept s i).pages = (pagesFreed s i).pages := by rw [swept]
    refine ⟨_, execKeySweep_sweeps hh hs ho hb, ?_, ?_, ?_, fun q hq under p => pagesFreed_gone pages hq under, fun p => pagesFreed_kept pages, ?_⟩
    · rw [retag_keySlots, swept, Tbl.get_del_self]
    · rw [retag_host, swept]; rfl
    · rw [retag_dev, swept]; rfl
    · rw [retag_fl, swept]; rfl

end Sys2Proof.Machine
end

section
/-!
PROOF. The flash back end: what its shared operations change, as relations between the states before and after. Wear checking changes the tier, room finding changes blocks and journal
too, and the upkeep of the map changes frames as well; none of them touches pages, memories, registers or copies, and none takes the tier out of service.
-/

namespace Sys2Proof

/-- What a table finds is listed. -/
theorem Tbl.mem_of_find {α : Type} {t : Tbl α} {i : Nat} {a : α} (h : Tbl.find t i = some a) : (i, a) ∈ t := by
  induction t with
  | nil => exact absurd h (Option.some_ne_none a).symm
  | cons e t ih =>
    obtain ⟨k, v⟩ := e
    by_cases hk : k = i
    · subst hk
      rw [Tbl.find, if_pos (beq_self_eq_true k)] at h
      rw [Option.some.inj h]
      exact List.mem_cons_self
    · rw [Tbl.find, if_neg (by simpa using hk)] at h
      exact List.mem_cons_of_mem _ (ih h)

end Sys2Proof

namespace Sys2Proof.Machine

open Sys2Proof

/-! ### Three sizes of change -/

/-- Two states that differ in the tier, the reason shown, the error records, the log and what an error stops, at most. -/
def WearOnly (s t : State) : Prop :=
  t = { s with err := t.err, logQ := t.logQ, halted := t.halted, fwRun := t.fwRun, fl := { s.fl with tier := t.fl.tier, reason := t.fl.reason } } ∧ (2 ≤ s.fl.tier → 2 ≤ t.fl.tier)

/-- Two states that differ, besides, in blocks, write points, retired blocks and records to be programmed at most. -/
def RoomOnly (s t : State) : Prop :=
  t = { s with
    err := t.err, logQ := t.logQ, halted := t.halted, fwRun := t.fwRun
    fl := { s.fl with tier := t.fl.tier, reason := t.fl.reason, blocks := t.fl.blocks, opens := t.fl.opens, next := t.fl.next, retired := t.fl.retired, jq := t.fl.jq } } ∧
  (2 ≤ s.fl.tier → 2 ≤ t.fl.tier)

/-- Two states that differ, besides, in frames, shard list, erases and refreshes that wait, and free values taken at most. -/
def MapOnly (s t : State) : Prop :=
  t = { s with
    err := t.err, logQ := t.logQ, halted := t.halted, fwRun := t.fwRun, free := t.free
    fl := { s.fl with
      tier := t.fl.tier, reason := t.fl.reason, blocks := t.fl.blocks, opens := t.fl.opens, next := t.fl.next, retired := t.fl.retired, jq := t.fl.jq
      frames := t.fl.frames, shards := t.fl.shards, erasing := t.fl.erasing, refresh := t.fl.refresh } } ∧
  (2 ≤ s.fl.tier → 2 ≤ t.fl.tier)

theorem WearOnly.refl (s : State) : WearOnly s s := ⟨rfl, id⟩
theorem RoomOnly.refl (s : State) : RoomOnly s s := ⟨rfl, id⟩
theorem MapOnly.refl (s : State) : MapOnly s s := ⟨rfl, id⟩

theorem WearOnly.room {s t : State} (h : WearOnly s t) : RoomOnly s t := by
  obtain ⟨fields, tier⟩ := h
  refine ⟨?_, tier⟩
  rw [fields]

theorem RoomOnly.map {s t : State} (h : RoomOnly s t) : MapOnly s t := by
  obtain ⟨fields, tier⟩ := h
  refine ⟨?_, tier⟩
  rw [fields]

theorem RoomOnly.trans {s t u : State} (h : RoomOnly s t) (k : RoomOnly t u) : RoomOnly s u := by
  obtain ⟨fields, tier⟩ := h
  obtain ⟨fields', tier'⟩ := k
  refine ⟨?_, tier' ∘ tier⟩
  rw [fields] at fields'
  exact fields'

theorem MapOnly.trans {s t u : State} (h : MapOnly s t) (k : MapOnly t u) : MapOnly s u := by
  obtain ⟨fields, tier⟩ := h
  obtain ⟨fields', tier'⟩ := k
  refine ⟨?_, tier' ∘ tier⟩
  rw [fields] at fields'
  exact fields'

/-- A fold of such changes is one. -/
theorem MapOnly.foldl {α : Type} {f : State → α → State} (hf : ∀ s x, MapOnly s (f s x)) (l : List α) (s : State) : MapOnly s (l.foldl f s) :=
  List.foldlRecOn l f (MapOnly.refl s) (fun b hb a _ => hb.trans (hf b a))

section
variable {s t : State}

theorem WearOnly.blocks (h : WearOnly s t) : t.fl.blocks = s.fl.blocks := by rw [h.1]
theorem WearOnly.retired (h : WearOnly s t) : t.fl.retired = s.fl.retired := by rw [h.1]
theorem WearOnly.jq (h : WearOnly s t) : t.fl.jq = s.fl.jq := by rw [h.1]
theorem RoomOnly.frames (h : RoomOnly s t) : t.fl.frames = s.fl.frames := by rw [h.1]
theorem RoomOnly.shards (h : RoomOnly s t) : t.fl.shards = s.fl.shards := by rw [h.1]
theorem RoomOnly.warmFound (h : RoomOnly s t) : t.fl.warmFound = s.fl.warmFound := by rw [h.1]
theorem RoomOnly.patrolled (h : RoomOnly s t) : t.fl.patrolled = s.fl.patrolled := by rw [h.1]
theorem RoomOnly.patrolAt (h : RoomOnly s t) : t.fl.patrolAt = s.fl.patrolAt := by rw [h.1]
theorem RoomOnly.dirty (h : RoomOnly s t) : t.fl.dirty = s.fl.dirty := by rw [h.1]
theorem RoomOnly.copies (h : RoomOnly s t) : t.fl.copyA = s.fl.copyA ∧ t.fl.copyB = s.fl.copyB := by rw [h.1]; exact ⟨rfl, rfl⟩
theorem RoomOnly.now (h : RoomOnly s t) : t.now = s.now := by rw [h.1]
theorem RoomOnly.cfg (h : RoomOnly s t) : t.cfg = s.cfg := by rw [h.1]
theorem RoomOnly.memory (h : RoomOnly s t) : t.pages = s.pages ∧ t.dev = s.dev ∧ t.models = s.models := by rw [h.1]; exact ⟨rfl, rfl, rfl⟩
theorem MapOnly.tier (h : MapOnly s t) : 2 ≤ s.fl.tier → 2 ≤ t.fl.tier := h.2
theorem MapOnly.geom (h : MapOnly s t) : t.fl.geom = s.fl.geom := by rw [h.1]
theorem MapOnly.toErase (h : MapOnly s t) : t.fl.toErase = s.fl.toErase := by rw [h.1]
theorem MapOnly.targetsOut (h : MapOnly s t) : t.fl.targetsOut = s.fl.targetsOut := by rw [h.1]
theorem MapOnly.regs (h : MapOnly s t) : t.regs = s.regs := by rw [h.1]
theorem MapOnly.braking (h : MapOnly s t) : braking t = braking s := by rw [h.1]; rfl
theorem MapOnly.memory (h : MapOnly s t) : t.pages = s.pages ∧ t.dev = s.dev ∧ t.models = s.models := by rw [h.1]; exact ⟨rfl, rfl, rfl⟩
end

/-! ### Wear (R351) -/

/-- An error changes the error records, the log and what it stops, at most. -/
theorem raiseErr_only (s : State) (u i own code cause obj : Nat) : WearOnly s (raiseErr s u i own code cause obj) := by
  by_cases h : s.err.cause = 0
  · cases hp : s.err.primary with
    | none =>
      rw [raiseErr_primary h hp, fatalIf]
      split <;> exact ⟨rfl, id⟩
    | some p =>
      cases hs : s.err.secondary with
      | none =>
        rw [raiseErr_secondary h hp hs, fatalIf]
        split <;> exact ⟨rfl, id⟩
      | some q =>
        rw [raiseErr_third h hp hs]
        exact ⟨rfl, id⟩
  · rw [raiseErr_fatal h]
    exact ⟨rfl, id⟩

theorem logFl_only (s : State) (code severity a : Nat) : WearOnly s (logFl s code severity a) := ⟨rfl, id⟩

theorem putB_room (s : State) (b : Nat) (v : FlBlock) : RoomOnly s (putB s b v) := ⟨rfl, id⟩

theorem note_room (s : State) (type arg : Nat) (frame : Option FlFrame) (block : Option FlBlock) : RoomOnly s (note s type arg frame block) := ⟨rfl, id⟩

theorem checkWear_only (s : State) : WearOnly s (checkWear s) := by
  unfold checkWear
  split
  · exact WearOnly.refl s
  next g hg =>
    dsimp only
    split
    · have raised := raiseErr_only (logFl (modFl s (fun f => { f with tier := 3 })) Code.flWearLimit sevDegraded 0) 0x09 0 sevDegraded Code.flWearLimit 0x01 0
      generalize raiseErr (logFl (modFl s (fun f => { f with tier := 3 })) Code.flWearLimit sevDegraded 0) 0x09 0 sevDegraded Code.flWearLimit 0x01 0 = t at raised ⊢
      obtain ⟨fields, tier⟩ := raised
      refine ⟨?_, fun _ => tier (Nat.le_succ 2)⟩
      rw [fields]
      rfl
    · exact WearOnly.refl s

theorem markBad_room (s : State) (b : Nat) : RoomOnly s (markBad s b) := by
  have counted : RoomOnly (putB s b { getB s b with st := 6 }) (modFl (putB s b { getB s b with st := 6 }) (fun f => { f with retired := satAdd 0xFFFFFFFF f.retired 1 })) := ⟨rfl, id⟩
  exact (putB_room s b _).trans (counted.trans ((logFl_only _ _ _ _).room.trans (checkWear_only _).room))

/-! ### Room for a frame (R340, R349) -/

theorem nextFree_room (g : FlashGeom) (plane floor k : Nat) (s : State) : RoomOnly s (nextFree g plane floor k s).1 := by
  induction k generalizing s with
  | zero => exact RoomOnly.refl s
  | succ k ih =>
    unfold nextFree
    split
    · exact RoomOnly.refl s
    · split
      · exact (markBad_room s _).trans (ih _)
      · exact RoomOnly.refl s

/-- The open block of a plane is closed, padded to its end, before a new one is opened. -/
def closeOpen (s : State) (g : FlashGeom) (plane : Nat) : State :=
  match s.fl.opens.find plane with
  | some b => putB s b { getB s b with st := 3, used := blockSectors g }
  | none => s

theorem closeOpen_room (s : State) (g : FlashGeom) (plane : Nat) : RoomOnly s (closeOpen s g plane) := by
  unfold closeOpen
  split
  · exact putB_room s _ _
  · exact RoomOnly.refl s

theorem setOpen_room (s : State) (plane b : Nat) : RoomOnly s (modFl s (fun f => { f with opens := f.opens.set plane b })) := ⟨rfl, id⟩

theorem setNext_room (s : State) (n : Nat) : RoomOnly s (modFl s (fun f => { f with next := n })) := ⟨rfl, id⟩

theorem roomAt_room {s : State} {g : FlashGeom} {plane len floor : Nat} {x : State × Nat} (h : roomAt s g plane len floor = some x) : RoomOnly s x.1 := by
  unfold roomAt at h
  dsimp only at h
  split at h
  · cases h
    exact ⟨rfl, id⟩
  · have found := nextFree_room g plane floor (g.bad.length + s.fl.marked.length + 1) s
    split at h
    · cases h
    next u n hu =>
      rw [hu] at found
      cases h
      exact found.trans ((closeOpen_room u g plane).trans ((putB_room _ n _).trans (setOpen_room _ plane n)))

theorem roomFrom_room {s : State} {g : FlashGeom} {points : List Nat} {len floor n i : Nat} {x : State × Nat} (h : roomFrom s g points len floor n i = some x) : RoomOnly s x.1 := by
  induction n generalizing i with
  | zero => cases h
  | succ n ih =>
    unfold roomFrom at h
    split at h
    · cases h
    · split at h
      next y hy =>
        cases h
        exact (roomAt_room hy).trans (setNext_room _ _)
      · exact ih h

/-! ### Frames placed, moved and settled (R341, R347 to R349) -/

/-- Set a frame. -/
def setFrame (s : State) (ffn : Nat) (f : FlFrame) : State := modFl s (fun x => { x with frames := x.frames.set ffn f })

/-- A frame placed again no longer waits to be mapped where it was. -/
def forgetMaps (s : State) (ffn : Nat) : State := modFl s (fun x => { x with jq := x.jq.filter (fun j => !(j.maps ffn)) })

theorem setFrame_map (s : State) (ffn : Nat) (f : FlFrame) : MapOnly s (setFrame s ffn f) := ⟨rfl, id⟩

theorem forgetMaps_room (s : State) (ffn : Nat) : RoomOnly s (forgetMaps s ffn) := ⟨rfl, id⟩

/-- A frame that is no page's is set where room was found. -/
theorem placeOther_placed {s : State} {kind about len floor : Nat} {x : State × Nat} (h : placeOther s kind about len floor = some x) :
    ∃ u f, RoomOnly s u ∧ f.kind = kind ∧ x.1 = setFrame u x.2 f := by
  unfold placeOther at h
  split at h
  · cases h
  · obtain ⟨y, hy, rfl⟩ := Option.map_eq_some_iff.mp h
    exact ⟨y.1, { kind := kind, about := about, page := none, start := y.2, len := len, st := 0, prev := none }, roomFrom_room hy, rfl, rfl⟩

/-- A frame that is placed again stays what it is of. -/
theorem moveFrame_moved {s t : State} {ffn : Nat} (h : moveFrame s ffn = some t) :
    ∃ u f f', RoomOnly s u ∧ s.fl.frames.find ffn = some f ∧ f'.kind = f.kind ∧ t = setFrame u ffn f' := by
  unfold moveFrame at h
  split at h
  next g f _ hf =>
    dsimp only at h
    split at h
    · cases h
    next u a hu =>
      cases h
      exact ⟨forgetMaps u ffn, f, { f with start := a, st := 0, prev := if f.st = 2 then some (f.start, f.len) else f.prev }, (roomFrom_room hu).trans (forgetMaps_room u ffn), hf, rfl, rfl⟩
  · cases h

theorem tryMove_cases (s : State) (ffn : Nat) :
    tryMove s ffn = s ∨ ∃ u f f', RoomOnly s u ∧ s.fl.frames.find ffn = some f ∧ f'.kind = f.kind ∧ tryMove s ffn = setFrame u ffn f' := by
  unfold tryMove
  cases h : moveFrame s ffn with
  | none => exact .inl rfl
  | some t => exact .inr (moveFrame_moved h)

theorem tryMove_map (s : State) (ffn : Nat) : MapOnly s (tryMove s ffn) := by
  obtain same | ⟨u, f, f', room, -, -, moved⟩ := tryMove_cases s ffn
  · rw [same]
    exact MapOnly.refl s
  · rw [moved]
    exact room.map.trans (setFrame_map u ffn f')

theorem placeShard_cases (s : State) (h : NodeHold) :
    placeShard s h = s ∨ ∃ u n f, RoomOnly (takeFree 5 s).2 u ∧ f.kind = 3 ∧ placeShard s h = setFrame u n f := by
  unfold placeShard
  split
  · exact .inl rfl
  · dsimp only
    split
    next x hx =>
      obtain ⟨u, f, room, kind, placed⟩ := placeOther_placed hx
      exact .inr ⟨u, x.2, f, room, kind, placed⟩
    · exact .inl rfl

theorem placeShard_map (s : State) (h : NodeHold) : MapOnly s (placeShard s h) := by
  obtain same | ⟨u, n, f, room, -, placed⟩ := placeShard_cases s h
  · rw [same]
    exact MapOnly.refl s
  · have taken : MapOnly s (takeFree 5 s).2 := ⟨rfl, id⟩
    rw [placed]
    exact taken.trans (room.map.trans (setFrame_map u n f))

/-- The frames that are valid no longer leave, and UNMAP records for those that were mapped. -/
def dropDead (s : State) : State :=
  let dead := s.fl.frames.filter (fun x => !frameLive s x.1 x.2)
  dead.foldl (fun s x => if x.2.st = 0 ∨ x.2.st = 1 then s else note s 2 x.1 none none)
    (modFl s (fun f => { f with frames := f.frames.filter (fun x => !(dead.any (fun y => y.1 == x.1))) }))

/-- The shards that are held no longer leave the list, with SHARD_DEL. -/
def dropShards (s : State) : State :=
  let ffnOf := fun (h : NodeHold) => ((s.fl.frames.find? (fun x => x.2.kind == 3 && x.2.about == h.handle)).map (·.1)).getD 0
  let del := (s.fl.shards.filter (fun h => !(s.rgn.holds.contains h))).map (fun h => ({ seq := 0, type := 7, arg := ffnOf h, frame := none, block := none, hold := some h } : JRec))
  modFl s (fun f => { f with shards := f.shards.filter (fun h => s.rgn.holds.contains h), jq := f.jq ++ del })

theorem settle_out {s : State} (h : s.fl.tier < 2) : settle s = s := if_pos h

theorem settle_in {s : State} (h : ¬ s.fl.tier < 2) : settle s = (dropDead (dropShards s)).rgn.holds.foldl placeShard (dropDead (dropShards s)) := if_neg h

theorem dropShards_map (s : State) : MapOnly s (dropShards s) := ⟨rfl, id⟩

/-- A frame that leaves is noted where it was mapped. -/
theorem noteUnmap_room (s : State) (x : Nat × FlFrame) : RoomOnly s (if x.2.st = 0 ∨ x.2.st = 1 then s else note s 2 x.1 none none) := by
  split
  · exact RoomOnly.refl s
  · exact note_room s 2 x.1 none none

theorem dropDead_map (s : State) : MapOnly s (dropDead s) :=
  MapOnly.trans ⟨rfl, id⟩ (MapOnly.foldl (fun s x => (noteUnmap_room s x).map) _ _)

theorem settle_map (s : State) : MapOnly s (settle s) := by
  by_cases h : s.fl.tier < 2
  · rw [settle_out h]
    exact MapOnly.refl s
  · rw [settle_in h]
    exact (dropShards_map s).trans ((dropDead_map _).trans (MapOnly.foldl placeShard_map _ _))

theorem reclaimBlock_map (s : State) (b : Nat) : MapOnly s (reclaimBlock s b) := by
  have moved := MapOnly.foldl (fun s (x : Nat × FlFrame) => tryMove_map s x.1) (s.fl.frames.filter (fun x => x.2.within b && x.2.st == 2)) s
  unfold reclaimBlock
  dsimp only
  split
  · exact moved
  · exact moved.trans ⟨rfl, id⟩

end Sys2Proof.Machine
end

section
/-!
PROOF. Flash reads, programs, erases, busy timeouts, patrol and retraining (R337, R344 to R346, R348, R351, R352).
-/

namespace Sys2Proof.Machine

open Sys2Proof

/-! ### A frame becomes MISSING (R346) -/

theorem readPage_fl {s t : State} {dst cls layer index len : Nat} {node : Handle} {what : ReadFor} (h : readPage s dst cls node layer index len false what = .ok t) : t.fl = s.fl := by
  unfold readPage sendRead at h
  have sent := sendTo_fab _ _ _ _ _ _ _ h
  rw [sent]

/-- A frame, but a map page's, that is noted MISSING. -/
def missNoted (s : State) (ffn : Nat) (f : FlFrame) : State :=
  let s := if f.kind = 3 then modFl s (fun x => { x with shards := x.shards.filter (fun h => h.handle != f.about) }) else s
  let s := modFl s (fun x => { x with frames := x.frames.set ffn { f with st := 3, prev := none }, jq := x.jq.filter (fun j => !(j.maps ffn)) })
  countCorrected (logFl (note s 3 ffn (some { f with st := 3, prev := none }) none) Code.flUncorrectable sevCorrected ffn)

/-- What becomes of the page of a frame that is MISSING touches nothing of the flash. -/
theorem missFrame_content {s : State} {ffn : Nat} {f : FlFrame} (hf : s.fl.frames.find ffn = some f) (hk : f.kind ≠ 2) : (missFrame s ffn).fl = (missNoted s ffn f).fl := by
  unfold missFrame
  rw [hf]
  dsimp only
  rw [if_neg hk]
  split
  · rfl
  next p _ =>
    split
    · rfl
    · split
      next t asked =>
        obtain ⟨-, refused⟩ | ⟨-, sent⟩ := ite_eq_iff.mp asked
        · cases refused
        · exact (readPage_fl sent).trans rfl
      · rfl

/-- A map page that cannot be read leaves the frames and is to be written anew. -/
def mapPageLost (s : State) (ffn : Nat) (f : FlFrame) : State :=
  modFl s (fun x => { x with
    frames := x.frames.del ffn, jq := x.jq.filter (fun j => !(j.maps ffn)), dirty := if x.dirty.contains f.about then x.dirty else x.dirty ++ [f.about], reason := Code.flUncorrectable })

theorem missFrame_mapPage {s : State} {ffn : Nat} {f : FlFrame} (hf : s.fl.frames.find ffn = some f) (hk : f.kind = 2) : (missFrame s ffn).fl = (mapPageLost s ffn f).fl := by
  unfold missFrame
  rw [hf]
  dsimp only
  rw [if_pos hk]
  rfl

theorem mapPageLost_dirty (s : State) (ffn : Nat) (f : FlFrame) : (mapPageLost s ffn f).fl.dirty.contains f.about = true := by
  have dirty : (mapPageLost s ffn f).fl.dirty = if s.fl.dirty.contains f.about then s.fl.dirty else s.fl.dirty ++ [f.about] := rfl
  rw [dirty]
  split
  next known => exact known
  · exact List.contains_iff_mem.mpr (List.mem_append_right _ List.mem_cons_self)

theorem missNoted_fl (s : State) (ffn : Nat) (f : FlFrame) : let t := (missNoted s ffn f).fl
    t.frames = s.fl.frames.set ffn { f with st := 3, prev := none } ∧ t.uncorrectable = s.fl.uncorrectable ∧ t.blocks = s.fl.blocks ∧ t.targetsOut = s.fl.targetsOut := by
  unfold missNoted
  dsimp only
  split <;> exact ⟨rfl, rfl, rfl, rfl⟩

/-- The counts of uncorrectable codewords and of block reads, and the targets, stay. -/
theorem missFrame_keeps (s : State) (ffn : Nat) : let t := (missFrame s ffn).fl
    t.uncorrectable = s.fl.uncorrectable ∧ t.blocks = s.fl.blocks ∧ t.targetsOut = s.fl.targetsOut := by
  dsimp only
  cases hf : s.fl.frames.find ffn with
  | none =>
    rw [missFrame, hf]
    exact ⟨rfl, rfl, rfl⟩
  | some f =>
    by_cases hk : f.kind = 2
    · rw [missFrame_mapPage hf hk]
      exact ⟨rfl, rfl, rfl⟩
    · rw [missFrame_content hf hk]
      exact (missNoted_fl s ffn f).2

theorem foldl_missFrame_keeps (l : List (Nat × FlFrame)) (s : State) : let t := (l.foldl (fun s x => missFrame s x.1) s).fl
    t.uncorrectable = s.fl.uncorrectable ∧ t.blocks = s.fl.blocks ∧ t.targetsOut = s.fl.targetsOut := by
  refine List.foldlRecOn l (fun s x => missFrame s x.1) (motive := fun t : State => t.fl.uncorrectable = s.fl.uncorrectable ∧ t.fl.blocks = s.fl.blocks ∧ t.fl.targetsOut = s.fl.targetsOut)
    ⟨rfl, rfl, rfl⟩ (fun t h x _ => ?_)
  obtain ⟨lost, blocks, targets⟩ := h
  obtain ⟨lost', blocks', targets'⟩ := missFrame_keeps t x.1
  exact ⟨lost'.trans lost, blocks'.trans blocks, targets'.trans targets⟩

/-! ### Reads (R337, R344, R345) -/

/-- The counts of a codeword that was decoded. -/
def readCounted (s : State) (addr step : Nat) : State :=
  modFl s (fun f => { f with
    busFails := f.busFails.del (addr / 2 ^ 40), blocks := f.blocks.set (blockOf addr) { getB s (blockOf addr) with reads := satAdd 0xFFFFFFFF (getB s (blockOf addr)).reads 1 }
    retries := if 1 ≤ step then satAdd 0xFFFFFFFF f.retries 1 else f.retries, soft := if 9 ≤ step then satAdd 0xFFFFFFFF f.soft 1 else f.soft })

/-- The limits of R345 are reached. -/
def overLimits (s : State) (step bits : Nat) : Bool := decide (fieldOf (flPatrolCtrl s) 27 16 < bits ∨ fieldOf (flPatrolCtrl s) 3 0 ≤ step)

theorem queueRefresh_only (s : State) (b : Nat) : ∃ l, queueRefresh s b = modFl s (fun f => { f with refresh := l }) := by
  unfold queueRefresh
  split
  · exact ⟨s.fl.refresh, rfl⟩
  · exact ⟨_, rfl⟩

theorem queueRefresh_queued {s : State} {b : Nat} (h : s.fl.erasing.contains b = false) : (queueRefresh s b).fl.refresh.contains b = true := by
  unfold queueRefresh
  split
  next known => exact known.resolve_right (ne_true_of_eq_false h)
  · exact List.contains_iff_mem.mpr (List.mem_append_right _ List.mem_cons_self)

/-- The counts of a codeword that was not decoded, and its block queued where the limits are reached. -/
def lostCounted (s : State) (addr bits : Nat) : State :=
  let u := modFl (readCounted s addr 10) (fun f => { f with uncorrectable := satAdd 0xFFFFFFFF f.uncorrectable 1 })
  if overLimits s 10 bits = true then queueRefresh u (blockOf addr) else u

/-- The frames that a codeword lies in: where they are, and where they are being moved from. -/
def framesHit (s : State) (addr : Nat) : List (Nat × FlFrame) :=
  let hit := fun (a n : Nat) => decide (a ≤ addr + 63 ∧ addr < a + n)
  s.fl.frames.filter (fun x => (x.2.st == 2 && hit x.2.start x.2.len) || x.2.prev.any (fun y => hit y.1 y.2))

section
variable {s : State} {addr step bits : Nat}

theorem codewordRead_out (h : s.fl.tier = 0 ∨ s.fl.targetsOut.contains (targetOf addr) = true ∨ inFlash s addr = false) : codewordRead s addr step bits = s := if_pos h

variable (ht : s.fl.tier ≠ 0) (ho : s.fl.targetsOut.contains (targetOf addr) = false) (hi : inFlash s addr = true)
include ht ho hi

theorem codeword_in : ¬ (s.fl.tier = 0 ∨ s.fl.targetsOut.contains (targetOf addr) = true ∨ inFlash s addr = false) :=
  not_or.mpr ⟨ht, not_or.mpr ⟨ne_true_of_eq_false ho, ne_false_of_eq_true hi⟩⟩

theorem codewordRead_bus : codewordRead s addr 11 bits = modFl s (fun f => { f with busFails := f.busFails.set (addr / 2 ^ 40) (min 10 (f.busFails.get 0 (addr / 2 ^ 40) + 1)) }) :=
  (if_neg (codeword_in ht ho hi)).trans (if_pos rfl)

theorem codewordRead_decoded (hs : step < 10) :
    codewordRead s addr step bits = if overLimits s step bits = true then queueRefresh (readCounted s addr step) (blockOf addr) else readCounted s addr step := by
  have decoded : ¬ 10 ≤ step := Nat.not_le.mpr hs
  refine (if_neg (codeword_in ht ho hi)).trans ((if_neg (fun bus : step = 11 => decoded (bus ▸ by decide))).trans ?_)
  dsimp only
  rw [if_pos hs]
  simp only [if_neg decoded, overLimits, decide_eq_true_eq]
  rfl

/-- A codeword that cannot be decoded is counted, its block queued as for any other, and the frames it lies in are MISSING. -/
theorem codewordRead_lost :
    codewordRead s addr 10 bits = (framesHit (lostCounted s addr bits) addr).foldl (fun s x => missFrame s x.1) (lostCounted s addr bits) := by
  refine (if_neg (codeword_in ht ho hi)).trans ((if_neg (by decide)).trans ((if_neg (by decide)).trans ?_))
  simp only [lostCounted, overLimits, decide_eq_true_eq]
  rfl
end

theorem lostCounted_counts (s : State) (addr bits : Nat) : let t := lostCounted s addr bits
    t.fl.uncorrectable = satAdd 0xFFFFFFFF s.fl.uncorrectable 1 ∧ t.fl.blocks = (readCounted s addr 10).fl.blocks := by
  unfold lostCounted
  dsimp only
  split
  · obtain ⟨l, queued⟩ := queueRefresh_only (modFl (readCounted s addr 10) (fun f => { f with uncorrectable := satAdd 0xFFFFFFFF f.uncorrectable 1 })) (blockOf addr)
    rw [queued]
    exact ⟨rfl, rfl⟩
  · exact ⟨rfl, rfl⟩

theorem codewordRead_lost_counts {s : State} {addr : Nat} (bits : Nat) (ht : s.fl.tier ≠ 0) (ho : s.fl.targetsOut.contains (targetOf addr) = false) (hi : inFlash s addr = true) :
    let t := codewordRead s addr 10 bits
    t.fl.uncorrectable = satAdd 0xFFFFFFFF s.fl.uncorrectable 1 ∧ (getB t (blockOf addr)).reads = satAdd 0xFFFFFFFF (getB s (blockOf addr)).reads 1 := by
  obtain ⟨lost, blocks⟩ := lostCounted_counts s addr bits
  obtain ⟨lost', blocks', -⟩ := foldl_missFrame_keeps (framesHit (lostCounted s addr bits) addr) (lostCounted s addr bits)
  dsimp only
  rw [codewordRead_lost ht ho hi, lost', getB, blocks', blocks]
  exact ⟨lost, congrArg FlBlock.reads (Tbl.get_set_self _ _ _ _)⟩

section
variable {s : State} {addr step bits : Nat} (hh : s.halted = false)
include hh

theorem execFlashRead_reads : exec (.flashRead addr step bits) s = .next (retag s (codewordRead s addr step bits)) := alive_running _ _ hh

theorem execFlashRead_out (h : s.fl.tier = 0 ∨ s.fl.targetsOut.contains (targetOf addr) = true ∨ inFlash s addr = false) : exec (.flashRead addr step bits) s = .next s :=
  alive_unchanged hh (codewordRead_out h)

variable (ht : s.fl.tier ≠ 0) (ho : s.fl.targetsOut.contains (targetOf addr) = false) (hi : inFlash s addr = true)
include ht ho hi

theorem execFlashRead_bus :
    exec (.flashRead addr 11 bits) s = .next (modFl s (fun f => { f with busFails := f.busFails.set (addr / 2 ^ 40) (min 10 (f.busFails.get 0 (addr / 2 ^ 40) + 1)) })) :=
  alive_leads_plain hh (codewordRead_bus ht ho hi) rfl rfl rfl

theorem execFlashRead_below (hs : step < 10) (hl : overLimits s step bits = false) : exec (.flashRead addr step bits) s = .next (readCounted s addr step) :=
  alive_leads_plain hh ((codewordRead_decoded ht ho hi hs).trans (if_neg (ne_true_of_eq_false hl))) rfl rfl rfl

theorem execFlashRead_over (hs : step < 10) (hl : overLimits s step bits = true) :
    exec (.flashRead addr step bits) s = .next (queueRefresh (readCounted s addr step) (blockOf addr)) := by
  obtain ⟨l, queued⟩ := queueRefresh_only (readCounted s addr step) (blockOf addr)
  refine alive_leads_plain hh ((codewordRead_decoded ht ho hi hs).trans (if_pos hl)) ?_ ?_ ?_ <;> rw [queued] <;> rfl
end

/-! ### Programs (R343, R348) -/

theorem noteMap_room (s : State) (ffn : Nat) (f : FlFrame) : RoomOnly s (noteMap s ffn f) := by
  unfold noteMap
  split
  · exact note_room s 5 f.about (some f) none
  · exact note_room s 1 ffn (some f) none

section
variable {s : State} {ffn : Nat} (hh : s.halted = false)
include hh

theorem execFlashProgramComplete_unknown {ok : Bool} (hf : (settle s).fl.frames.find ffn = none) : exec (.flashProgramComplete ffn ok) s = .next (settle s) := by
  obtain ⟨pages, dev, models⟩ := (settle_map s).memory
  refine alive_leads_plain hh ?_ pages dev models
  dsimp only
  rw [hf]

variable {f : FlFrame} (hf : (settle s).fl.frames.find ffn = some f) (h0 : f.st = 0)
include hf h0

theorem execFlashProgramComplete_done : exec (.flashProgramComplete ffn true) s = .next (noteMap (setFrame (settle s) ffn { f with st := 1 }) ffn { f with st := 1 }) := by
  have noted := (settle_map s).trans ((setFrame_map (settle s) ffn { f with st := 1 }).trans (noteMap_room (setFrame (settle s) ffn { f with st := 1 }) ffn { f with st := 1 }).map)
  obtain ⟨pages, dev, models⟩ := noted.memory
  refine alive_leads_plain hh ?_ pages dev models
  dsimp only
  rw [hf]
  dsimp only
  rw [if_neg (not_not_intro h0), if_pos rfl]
  rfl

theorem execFlashProgramComplete_failed : exec (.flashProgramComplete ffn false) s = .next (retag s (retireBlock (settle s) (blockOf f.start))) := by
  refine alive_leads hh ?_
  dsimp only
  rw [hf]
  dsimp only
  rw [if_neg (not_not_intro h0), if_neg Bool.false_ne_true]
end

/-! ### Retirement and erases (R348, R349) -/

/-- In a block without a valid frame there is none of any valid state. -/
theorem filter_within_nil {l : List (Nat × FlFrame)} {b : Nat} (h : l.any (fun x => x.2.within b && decide (x.2.st < 3)) = false) {p : Nat → Bool} (hp : ∀ n, p n = true → n < 3) :
    l.filter (fun x => x.2.within b && p x.2.st) = [] := by
  refine List.filter_eq_nil_iff.mpr (fun x hx both => List.any_eq_false.mp h x hx ?_)
  obtain ⟨inside, state⟩ := Bool.and_eq_true_iff.mp both
  exact Bool.and_eq_true_iff.mpr ⟨inside, decide_eq_true (hp _ state)⟩

/-- A block is BAD, counted and logged. -/
def markRetired (s : State) (b : Nat) : State :=
  logFl (modFl (putB s b { getB s b with st := 6 }) (fun f => { f with
    retired := satAdd 0xFFFFFFFF f.retired 1, opens := f.opens.filter (fun (x : Nat × Nat) => x.2 != b),
    erasing := f.erasing.erase b, refresh := f.refresh.erase b, erasePending := f.erasePending.erase b })) Code.flBlockRetired sevInfo b

theorem retireBlock_empty {s : State} {b : Nat} (h : s.fl.frames.any (fun x => x.2.within b && decide (x.2.st < 3)) = false) : retireBlock s b = checkWear (markRetired s b) := by
  have coming : (markRetired s b).fl.frames.filter (fun x => x.2.within b && (x.2.st == 0 || x.2.st == 1)) = [] :=
    filter_within_nil (p := fun n => n == 0 || n == 1) h (fun n hn => by simp at hn; omega)
  have mapped : (markRetired s b).fl.frames.filter (fun x => x.2.within b && x.2.st == 2) = [] :=
    filter_within_nil (p := fun n => n == 2) h (fun n hn => by simp at hn; omega)
  have unfolded : retireBlock s b = checkWear
      (let s := ((markRetired s b).fl.frames.filter (fun x => x.2.within b && (x.2.st == 0 || x.2.st == 1))).foldl (fun s x => tryMove s x.1) (markRetired s b)
       (s.fl.frames.filter (fun x => x.2.within b && x.2.st == 2)).foldl (fun s x => missFrame s x.1) s) := rfl
  rw [unfolded, coming]
  dsimp only [List.foldl_nil]
  rw [mapped, List.foldl_nil]

theorem retireBlock_empty_bad {s : State} {b : Nat} (h : s.fl.frames.any (fun x => x.2.within b && decide (x.2.st < 3)) = false) :
    (retireBlock s b).fl.blocks.find b = some { getB s b with st := 6 } ∧ (retireBlock s b).fl.retired = satAdd 0xFFFFFFFF s.fl.retired 1 := by
  have checked := checkWear_only (markRetired s b)
  rw [retireBlock_empty h, checked.blocks, checked.retired]
  exact ⟨Tbl.find_set_self _ _ _, rfl⟩

/-- A block once erased: FREE, one more cycle, no reads. -/
def erasedBlock (s : State) (b : Nat) : FlBlock := { st := 0, pe := min 1048575 ((getB s b).pe + 1), reads := 0, used := 0 }

/-- The erase of a block has ended. -/
def eraseNoted (s : State) (b : Nat) : State :=
  modFl s (fun f => { f with blocks := f.blocks.set b (erasedBlock s b), erasing := f.erasing.erase b, erasePending := f.erasePending.erase b, overread := f.overread.erase b })

theorem eraseNoted_memory (s : State) (b : Nat) : (eraseNoted s b).pages = s.pages ∧ (eraseNoted s b).dev = s.dev ∧ (eraseNoted s b).models = s.models := ⟨rfl, rfl, rfl⟩

section
variable {s : State} {b : Nat} (hh : s.halted = false)
include hh

theorem execFlashEraseComplete_unasked {ok : Bool} (he : (settle s).fl.erasing.contains b = false) : exec (.flashEraseComplete b ok) s = .next (settle s) := by
  obtain ⟨pages, dev, models⟩ := (settle_map s).memory
  refine alive_leads_plain hh ?_ pages dev models
  dsimp only
  split
  · rfl
  · exact if_pos (.inl he)

variable {g : FlashGeom} (hg : s.fl.geom = some g) (he : (settle s).fl.erasing.contains b = true) (hf : (settle s).fl.frames.any (fun x => x.2.touches b && x.2.st != 3) = false)
include hg he hf

/-- Nothing valid lies in the block: it is FREE where the erase went well, below the rated count, else retired. -/
theorem execFlashEraseComplete_empty (ok : Bool) : exec (.flashEraseComplete b ok) s = .next (retag s (
    if ok = false ∨ g.rated ≤ (erasedBlock (settle s) b).pe ∨ g.bad.contains b = true then retireBlock (eraseNoted (settle s) b) b
    else putB (eraseNoted (settle s) b) b (erasedBlock (settle s) b))) := by
  refine alive_leads hh ?_
  have geom : (settle s).fl.geom = some g := (settle_map s).geom.trans hg
  generalize settle s = u at he hf geom ⊢
  dsimp only
  rw [geom]
  exact if_neg (not_or.mpr ⟨ne_false_of_eq_true he, ne_true_of_eq_false hf⟩)

theorem execFlashEraseComplete_free (hr : (erasedBlock (settle s) b).pe < g.rated) (hb : g.bad.contains b = false) :
    exec (.flashEraseComplete b true) s = .next (putB (eraseNoted (settle s) b) b (erasedBlock (settle s) b)) := by
  have free : ¬ (true = false ∨ g.rated ≤ (erasedBlock (settle s) b).pe ∨ g.bad.contains b = true) :=
    not_or.mpr ⟨ne_false_of_eq_true rfl, not_or.mpr ⟨Nat.not_le.mpr hr, ne_true_of_eq_false hb⟩⟩
  rw [execFlashEraseComplete_empty hh hg he hf, if_neg free]
  obtain ⟨pages, dev, models⟩ := (settle_map s).memory
  obtain ⟨pages', dev', models'⟩ := (putB_room (eraseNoted (settle s) b) b (erasedBlock (settle s) b)).memory
  obtain ⟨pages'', dev'', models''⟩ := eraseNoted_memory (settle s) b
  rw [retag_same s _ (pages'.trans (pages''.trans pages)) (dev'.trans (dev''.trans dev)) (models'.trans (models''.trans models))]

theorem execFlashEraseComplete_retires {ok : Bool} (h : ok = false ∨ g.rated ≤ (erasedBlock (settle s) b).pe ∨ g.bad.contains b = true) :
    exec (.flashEraseComplete b ok) s = .next (retag s (retireBlock (eraseNoted (settle s) b) b)) := by
  rw [execFlashEraseComplete_empty hh hg he hf, if_pos h]
end

/-! ### Busy timeouts (R348) -/

theorem foldl_tryMove_map (l : List (Nat × FlFrame)) (s : State) : MapOnly s (l.foldl (fun s x => tryMove s x.1) s) := MapOnly.foldl (fun s x => tryMove_map s x.1) l s

/-- A target is out of service, and none of its blocks open. -/
def targetOff (s : State) (t : Nat) : State := modFl s (fun f => { f with targetsOut := f.targetsOut ++ [t], opens := f.opens.filter (fun x => targetOf x.2 != t) })

/-- Frames on their way to a target are placed again, those journaled there are MISSING. -/
def framesOff (s : State) (t : Nat) : State :=
  let s := (s.fl.frames.filter (fun x => targetOf x.2.start == t && (x.2.st == 0 || x.2.st == 1))).foldl (fun s x => tryMove s x.1) s
  (s.fl.frames.filter (fun x => targetOf x.2.start == t && x.2.st == 2)).foldl (fun s x => missFrame s x.1) s

theorem framesOff_targets (s : State) (t : Nat) : (framesOff s t).fl.targetsOut = s.fl.targetsOut := by
  unfold framesOff
  dsimp only
  rw [(foldl_missFrame_keeps _ _).2.2, (foldl_tryMove_map _ _).targetsOut]

section
variable {s : State} {a : Nat} (hh : s.halted = false) (ht : s.fl.tier ≠ 0) (ho : s.fl.targetsOut.contains (targetOf a) = false)
include hh ht ho

/-- A second timeout within 1 s takes the target out of service. -/
theorem execFlashBusyTimeout_again {w : Nat} (hr : s.fl.resets.find (targetOf a) = some w) (hw : s.now < w + 1000000) :
    exec (.flashBusyTimeout a) s = .next (retag s (raiseErr (framesOff (targetOff s (targetOf a)) (targetOf a)) 0x08 (targetOf a) sevDegraded Code.flUncorrectable 0x03 a)) := by
  refine alive_leads hh ((if_neg (not_or.mpr ⟨ht, ne_true_of_eq_false ho⟩)).trans ?_)
  dsimp only
  rw [hr]
  exact if_pos (decide_eq_true hw)

/-- The first resets the target and retires the block. -/
theorem execFlashBusyTimeout_first (hr : s.fl.resets.find (targetOf a) = none) :
    exec (.flashBusyTimeout a) s = .next (retag s (retireBlock (modFl s (fun f => { f with resets := f.resets.set (targetOf a) s.now })) (blockOf a))) := by
  refine alive_leads hh ((if_neg (not_or.mpr ⟨ht, ne_true_of_eq_false ho⟩)).trans ?_)
  dsimp only
  rw [hr]
  exact if_neg Bool.false_ne_true
end

/-! ### Patrol (R352, R364, R365) -/

/-- Firmware's rows that have nothing to do. -/
theorem awake_rests {s k : State} (hh : s.halted = false) (hk : k = s) : awake s k = .next s := by
  refine alive_unchanged hh ?_
  split
  · rfl
  · exact hk

/-- A PERIOD has gone by since the last pass began. -/
def passDue (s : State) : Prop := s.fl.patrolAt + fieldOf (flPatrolCtrl s) 63 48 * 3600000000 ≤ s.now

/-- A pass begins, where none is on and a PERIOD has gone by. -/
def passBegun (s : State) : State :=
  if s.fl.patrolled.isNone ∧ s.fl.patrolAt + fieldOf (flPatrolCtrl s) 63 48 * 3600000000 ≤ s.now then modFl s (fun f => { f with patrolled := some 0, patrolAt := s.now }) else s

/-- The pass that is on has no further block. -/
def passEnded (s : State) : State := modFl s (fun f => { f with passes := satAdd 0xFFFFFFFF f.passes 1, patrolled := none })

section
variable {s : State}

theorem passBegun_due (hp : s.fl.patrolled = none) (hd : passDue s) : passBegun s = modFl s (fun f => { f with patrolled := some 0, patrolAt := s.now }) :=
  if_pos ⟨Option.isNone_iff_eq_none.mpr hp, hd⟩

theorem passBegun_waits (h : s.fl.patrolled = none → ¬ passDue s) : passBegun s = s := if_neg (fun due => h (Option.isNone_iff_eq_none.mp due.1) due.2)

theorem patrolPass_off (h : (passBegun s).fl.patrolled = none) : patrolPass s = passBegun s := by
  unfold passBegun at h ⊢
  unfold patrolPass
  dsimp only
  rw [h]

theorem patrolPass_on {p : Nat} (h : (passBegun s).fl.patrolled = some p) :
    patrolPass s = if (passBegun s).fl.patrolling.isSome ∨ (patrolBlocks (passBegun s)).any (fun x => decide (p < x.1)) then passBegun s else passEnded (passBegun s) := by
  unfold passBegun at h ⊢
  unfold patrolPass
  dsimp only
  rw [h]
  rfl

theorem patrolPass_between (hp : s.fl.patrolled = none) (hd : ¬ passDue s) : patrolPass s = s := by
  have begun : passBegun s = s := passBegun_waits (fun _ => hd)
  rw [patrolPass_off (begun.symm ▸ hp), begun]

/-- A pass begins at the first block. -/
theorem patrolPass_begins {b : Nat} {v : FlBlock} (hp : s.fl.patrolled = none) (hd : passDue s) (hb : (b, v) ∈ patrolBlocks s) (h0 : 0 < b) :
    patrolPass s = modFl s (fun f => { f with patrolled := some 0, patrolAt := s.now }) := by
  have begun := passBegun_due hp hd
  rw [patrolPass_on (p := 0) (congrArg (fun t : State => t.fl.patrolled) begun), begun]
  exact if_pos (.inr (List.any_eq_true.mpr ⟨(b, v), hb, decide_eq_true h0⟩))

/-- A pass with no further block ends, and is counted. -/
theorem patrolPass_ends {p : Nat} (hp : s.fl.patrolled = some p) (hr : s.fl.patrolling = none) (hb : ∀ x ∈ patrolBlocks s, x.1 ≤ p) : patrolPass s = passEnded s := by
  have begun : passBegun s = s := passBegun_waits (fun none => absurd (hp.symm.trans none) (Option.some_ne_none p))
  have last : ¬ (patrolBlocks s).any (fun x => decide (p < x.1)) = true := by
    refine ne_true_of_eq_false (List.any_eq_false.mpr (fun x hx later => ?_))
    exact Nat.not_lt.mpr (hb x hx) (of_decide_eq_true later)
  have idle : ¬ s.fl.patrolling.isSome = true := by
    rw [hr]
    exact Bool.false_ne_true
  rw [patrolPass_on (p := p) (begun.symm ▸ hp), begun, if_neg (not_or.mpr ⟨idle, last⟩)]

theorem passBegun_memory (s : State) : (passBegun s).pages = s.pages ∧ (passBegun s).dev = s.dev ∧ (passBegun s).models = s.models := by
  unfold passBegun
  split <;> exact ⟨rfl, rfl, rfl⟩

theorem patrolPass_memory (s : State) : (patrolPass s).pages = s.pages ∧ (patrolPass s).dev = s.dev ∧ (patrolPass s).models = s.models := by
  cases h : (passBegun s).fl.patrolled with
  | none =>
    rw [patrolPass_off h]
    exact passBegun_memory s
  | some p =>
    rw [patrolPass_on h]
    split
    · exact passBegun_memory s
    · exact passBegun_memory s

theorem patrolDone_memory (s : State) (b : Nat) : (patrolDone s b).pages = s.pages ∧ (patrolDone s b).dev = s.dev ∧ (patrolDone s b).models = s.models := patrolPass_memory _

/-- The block that is next while none is being read has passed RD_LIMIT, or follows in the order of a pass. -/
theorem patrolNext_free {b : Nat} (hn : patrolNext s = some b) (hr : s.fl.patrolling = none) : ∃ v, (b, v) ∈ patrolBlocks s ∧
    ((readLimit s < v.reads ∧ s.fl.overread.contains b = false) ∨ (∃ p, s.fl.patrolled = some p ∧ p < b)) := by
  unfold patrolNext at hn
  rw [hr] at hn
  dsimp only at hn
  split at hn
  next x overread =>
    cases hn
    have taken := List.find?_some (p := fun x : Nat × FlBlock => decide (readLimit s < x.2.reads) && !(s.fl.overread.contains x.1)) overread
    obtain ⟨many, unread⟩ := Bool.and_eq_true_iff.mp taken
    exact ⟨x.2, List.mem_of_find?_eq_some overread, .inl ⟨of_decide_eq_true many, (Bool.not_eq_eq_eq_not.mp unread)⟩⟩
  next =>
    obtain ⟨p, hp, next⟩ := Option.bind_eq_some_iff.mp hn
    obtain ⟨x, ordered, rfl⟩ := Option.map_eq_some_iff.mp next
    have later := List.find?_some (p := fun x : Nat × FlBlock => decide (p < x.1)) ordered
    exact ⟨x.2, List.mem_of_find?_eq_some ordered, .inr ⟨p, hp, of_decide_eq_true later⟩⟩

theorem patrol_on (ht : 2 ≤ s.fl.tier) (hb : braking s = false) (hon : bitOf (flBgCtrl s) 8 = true ∨ s.fl.patrolling ≠ none) :
    ¬ (s.fl.tier < 2 ∨ braking s = true ∨ (bitOf (flBgCtrl s) 8 = false ∧ s.fl.patrolling.isNone = true)) := by
  refine not_or.mpr ⟨Nat.not_lt.mpr ht, not_or.mpr ⟨ne_true_of_eq_false hb, fun off => ?_⟩⟩
  rcases hon with on | reading
  · exact ne_false_of_eq_true on off.1
  · exact reading (Option.isNone_iff_eq_none.mp off.2)

variable {b : Nat} (hh : s.halted = false)
include hh

theorem execFlashPatrol_rests {reads : List (Nat × Nat × Nat)} {last : Bool} (h : s.fl.tier < 2 ∨ braking s = true ∨ (bitOf (flBgCtrl s) 8 = false ∧ s.fl.patrolling = none)) :
    exec (.flashPatrol b reads last) s = .next s := by
  exact awake_rests hh (if_pos (h.imp id (Or.imp id (And.imp id Option.isNone_iff_eq_none.mpr))))

variable (hp : paused s = false) (ht : 2 ≤ s.fl.tier) (hb : braking s = false) (hon : bitOf (flBgCtrl s) 8 = true ∨ s.fl.patrolling ≠ none)
include hp ht hb hon

theorem execFlashPatrol_other (hn : patrolNext (patrolPass s) ≠ some b) (reads : List (Nat × Nat × Nat)) (last : Bool) : exec (.flashPatrol b reads last) s = .next (patrolPass s) := by
  obtain ⟨pages, dev, models⟩ := patrolPass_memory s
  exact awake_leads_plain hh hp ((if_neg (patrol_on ht hb hon)).trans (if_pos hn)) pages dev models

variable (hn : patrolNext (patrolPass s) = some b)
include hn

theorem execFlashPatrol_last : exec (.flashPatrol b [] true) s = .next (patrolDone (patrolPass s) b) := by
  obtain ⟨pages, dev, models⟩ := patrolPass_memory s
  obtain ⟨pages', dev', models'⟩ := patrolDone_memory (patrolPass s) b
  exact awake_leads_plain hh hp ((if_neg (patrol_on ht hb hon)).trans ((if_neg (not_not_intro hn)).trans (if_pos rfl))) (pages'.trans pages) (dev'.trans dev) (models'.trans models)

theorem execFlashPatrol_one {a : Nat} (ha : blockOf a = b) (step bits : Nat) :
    exec (.flashPatrol b [(a, step, bits)] false) s = .next (retag s (modFl (codewordRead (patrolPass s) a step bits) (fun f => { f with patrolling := some b }))) := by
  refine awake_leads hh hp ((if_neg (patrol_on ht hb hon)).trans ((if_neg (not_not_intro hn)).trans ((if_neg Bool.false_ne_true).trans ?_)))
  rw [List.foldl_cons, List.foldl_nil, if_pos ha]
end

/-! ### Retraining of a channel (R337) -/

section
variable {s : State} {ch : Nat} (hh : s.halted = false)
include hh

theorem execFlashChannelRetrain_none (h : s.fl.tier = 0 ∨ 16 ≤ ch) : exec (.flashChannelRetrain ch) s = .next s :=
  alive_unchanged hh (if_pos (h.imp id .inl))

theorem execFlashChannelRetrain_due (ht : s.fl.tier ≠ 0) (hc : ch < 16) (h : s.fl.retrained.find ch = none ∨ s.fl.busFails.get 0 ch = 10) :
    exec (.flashChannelRetrain ch) s = .next (modFl s (fun f => { f with retrained := f.retrained.set ch s.now, busFails := f.busFails.del ch })) := by
  refine alive_leads_plain hh (if_neg (not_or.mpr ⟨ht, not_or.mpr ⟨Nat.not_le.mpr hc, fun wait => ?_⟩⟩)) rfl rfl rfl
  obtain ⟨early, few⟩ := wait
  rcases h with never | failed
  · rw [never] at early
    exact Bool.noConfusion early
  · omega
end

/-- Settles O45, by the lemma of each row and of each of its outcomes. -/
theorem flashRows : Obligations.FlashRows := by
  unfold Obligations.FlashRows
  intro s hh
  refine ⟨fun addr step bits => ⟨execFlashRead_out hh, fun ht ho hi => ⟨fun hs => hs ▸ execFlashRead_bus hh ht ho hi, execFlashRead_below hh ht ho hi, execFlashRead_over hh ht ho hi,
      fun _ _ => queueRefresh_queued (s := readCounted s addr step), ?lost⟩⟩,
    fun ffn f hf => ⟨?missing, ?mapPage⟩,
    fun ffn f hf h0 => ⟨execFlashProgramComplete_done hh hf h0, execFlashProgramComplete_failed hh hf h0⟩, fun ffn ok => execFlashProgramComplete_unknown hh,
    fun b g hg he hf => ⟨execFlashEraseComplete_free hh hg he hf, fun h => execFlashEraseComplete_retires hh hg he hf (.inr h), execFlashEraseComplete_retires hh hg he hf (.inl rfl)⟩,
    fun b ok => execFlashEraseComplete_unasked hh, fun b => retireBlock_empty_bad,
    fun a ht ho => ⟨?again, execFlashBusyTimeout_first hh ht ho⟩,
    fun b reads last => execFlashPatrol_rests hh,
    fun b hp ht hb hon => ⟨fun reads last hn => execFlashPatrol_other hh hp ht hb hon hn reads last,
      fun hn => ⟨execFlashPatrol_last hh hp ht hb hon hn, fun a step bits ha => execFlashPatrol_one hh hp ht hb hon hn ha step bits⟩⟩,
    fun hp hd => patrolPass_between hp (Nat.not_le.mpr hd), ?begins, ?ends, fun b => patrolNext_free,
    fun ch => execFlashChannelRetrain_due hh, fun ch => execFlashChannelRetrain_none hh⟩
  case lost =>
    rintro rfl
    refine ⟨_, execFlashRead_reads hh, ?_⟩
    rw [getB, retag_fl]
    exact codewordRead_lost_counts bits ht ho hi
  case missing =>
    intro hk
    rw [missFrame_content hf hk, (missNoted_fl s ffn f).1, Tbl.find_set_self]
  case mapPage =>
    intro hk
    rw [missFrame_mapPage hf hk]
    exact ⟨(Tbl.find_del _ _ _).trans (if_pos rfl), mapPageLost_dirty s ffn f⟩
  case again =>
    intro w hr hw
    refine ⟨_, execFlashBusyTimeout_again hh ht ho hr hw, ?_⟩
    rw [retag_fl, (raiseErr_only _ _ _ _ _ _ _).room.map.targetsOut, framesOff_targets]
    rfl
  case begins =>
    intro b v hp hd hb h0
    rw [patrolPass_begins hp hd hb h0]
    exact ⟨rfl, rfl, rfl⟩
  case ends =>
    intro p hp hr hb
    rw [patrolPass_ends hp hr hb]
    exact ⟨rfl, rfl⟩

end Sys2Proof.Machine
end

section
/-!
PROOF. The journal, reclaim, refresh, wear relocation, the erasure sweep, checkpoint and recovery (R343, R345, R346, R349, R350, R355, R357 to R359, R362).
-/

namespace Sys2Proof

/-- What a table finds after each of its values was changed. -/
theorem Tbl.find_map {α β : Type} (f : α → β) (t : Tbl α) (i : Nat) : Tbl.find (t.map (fun x => (x.1, f x.2))) i = (Tbl.find t i).map f := by
  induction t with
  | nil => rfl
  | cons e t ih =>
    obtain ⟨k, v⟩ := e
    by_cases hk : k = i
    · simp [Tbl.find, hk]
    · simp [Tbl.find, hk, ih]

/-- No element of a list measures more than the maximum that a fold finds. -/
theorem le_foldl_max {α : Type} (m : α → Nat) {l : List α} {x : α} (h : x ∈ l) (n : Nat) : m x ≤ l.foldl (fun n y => max n (m y)) n := by
  have grows : ∀ (l : List α) (n : Nat), n ≤ l.foldl (fun n y => max n (m y)) n := fun l n =>
    List.foldlRecOn l _ (Nat.le_refl n) (fun _ hb _ _ => hb.trans (Nat.le_max_left _ _))
  induction l generalizing n with
  | nil => exact absurd h List.not_mem_nil
  | cons y l ih =>
    rcases List.mem_cons.mp h with rfl | h
    · exact (Nat.le_max_right _ _).trans (grows l _)
    · exact ih h _

/-- None measures less than the minimum. -/
theorem foldl_min_le {α : Type} (m : α → Nat) {l : List α} {x : α} (h : x ∈ l) (n : Nat) : l.foldl (fun n y => min n (m y)) n ≤ m x := by
  have shrinks : ∀ (l : List α) (n : Nat), l.foldl (fun n y => min n (m y)) n ≤ n := fun l n =>
    List.foldlRecOn l _ (motive := (· ≤ n)) (Nat.le_refl n) (fun _ hb _ _ => (Nat.min_le_left _ _).trans hb)
  induction l generalizing n with
  | nil => exact absurd h List.not_mem_nil
  | cons y l ih =>
    rcases List.mem_cons.mp h with rfl | h
    · exact (shrinks l _).trans (Nat.min_le_right _ _)
    · exact ih h _

end Sys2Proof

namespace Sys2Proof.Machine

open Sys2Proof

/-- What firmware's flash rows come to where they only settle the map. -/
theorem awake_settles {s k : State} (hh : s.halted = false) (hp : paused s = false) (hk : k = settle s) : awake s k = .next (settle s) := by
  obtain ⟨pages, dev, models⟩ := (settle_map s).memory
  exact awake_leads_plain hh hp hk pages dev models

/-! ### The journal (R343, R356) -/

/-- The oldest record is programmed with the next sequence number. -/
def journaled (s : State) (j : JRec) (rest : List JRec) : State :=
  modFl s (fun f => { f with jq := rest, jseq := f.jseq + 1, journal := f.journal ++ [{ j with seq := f.jseq + 1 }], dirty := j.dirties f.dirty })

section
variable {s : State} (hh : s.halted = false) (hp : paused s = false)
include hh hp

theorem execJournalRecord_none (hq : (settle s).fl.jq = []) : exec .journalRecord s = .next (settle s) := by
  refine awake_settles hh hp ?_
  dsimp only
  rw [hq]

variable {j : JRec} {rest : List JRec} (hq : (settle s).fl.jq = j :: rest)
include hq

theorem execJournalRecord_sidesOut (h0 : sideOut (settle s) 0 = true) (h1 : sideOut (settle s) 1 = true) : exec .journalRecord s = .next (settle s) := by
  refine awake_settles hh hp ?_
  dsimp only
  rw [hq]
  exact if_pos (.inr (.inr ⟨h0, h1⟩))

theorem execJournalRecord_programs (ht : 2 ≤ s.fl.tier) (hs : sideOut (settle s) 0 = false ∨ sideOut (settle s) 1 = false) :
    exec .journalRecord s = .next (retag s (
      if j.type = 1 then mapped (journaled (settle s) j rest) j.arg else if j.type = 5 then mapped (journaled (settle s) j rest) (mapKey j.arg) else journaled (settle s) j rest)) := by
  refine awake_leads hh hp ?_
  have tier := (settle_map s).tier ht
  generalize settle s = u at hq hs tier ⊢
  have usable : ¬ (u.fl.tier = 0 ∨ u.fl.tier = 1 ∨ (sideOut u 0 = true ∧ sideOut u 1 = true)) := by
    rintro (h | h | ⟨h0, h1⟩)
    · omega
    · omega
    · exact hs.elim (ne_false_of_eq_true h0) (ne_false_of_eq_true h1)
  dsimp only
  rw [hq]
  exact if_neg usable

theorem execJournalRecord_plain (ht : 2 ≤ s.fl.tier) (hs : sideOut (settle s) 0 = false ∨ sideOut (settle s) 1 = false) (h1 : j.type ≠ 1) (h5 : j.type ≠ 5) :
    exec .journalRecord s = .next (journaled (settle s) j rest) := by
  obtain ⟨pages, dev, models⟩ := (settle_map s).memory
  rw [execJournalRecord_programs hh hp hq ht hs, if_neg h1, if_neg h5]
  generalize settle s = u at pages dev models ⊢
  rw [retag_same s (journaled u j rest) pages dev models]
end

/-! ### A mapping comes into force (R343, R355) -/

/-- The page that a mapped frame is a copy of. -/
def copiedPage (ffn : Nat) (p q : Page) : Page :=
  { q with flash := some ffn, flashDirty := !(p.rows == q.rows), lost := false, newest := if q.stack.isNone ∧ q.host.isNone then tFlash else q.newest }

section
variable {s : State} {ffn : Nat} {f : FlFrame} (hf : s.fl.frames.find ffn = some f) (h1 : f.st = 1)
include hf h1

theorem mapped_page {p q : Page} (hp : f.page = some p) (hq : findPage s p.number = some q) :
    mapped s ffn = setPage (setFrame s ffn { f with st := 2, prev := none }) (copiedPage ffn p q) := by
  have found : f.page.bind (fun p => (findPage (setFrame s ffn { f with st := 2, prev := none }) p.number).map (fun q => (p, q))) = some (p, q) :=
    Option.bind_eq_some_iff.mpr ⟨p, hp, Option.map_eq_some_iff.mpr ⟨q, hq, rfl⟩⟩
  unfold mapped
  rw [hf]
  dsimp only
  unfold setFrame at found ⊢
  rw [if_neg (not_not_intro h1), found]
  rfl

theorem mapped_shard {h : NodeHold} (hp : f.page = none) (hk : f.kind = 3) (hh : s.rgn.holds.find? (fun h => h.handle == f.about) = some h) :
    mapped s ffn = modFl (setFrame s ffn { f with st := 2, prev := none }) (fun x => { x with
      shards := x.shards ++ [h], jq := x.jq ++ [{ seq := 0, type := 6, arg := ffn, frame := none, block := none, hold := some h }] }) := by
  have pageless : f.page.bind (fun p => (findPage (setFrame s ffn { f with st := 2, prev := none }) p.number).map (fun q => (p, q))) = none := Option.bind_eq_none_iff.mpr
    (fun p page => absurd (page.symm.trans hp) (Option.some_ne_none p))
  have held : (setFrame s ffn { f with st := 2, prev := none }).rgn.holds.find? (fun h => h.handle == f.about) = some h := hh
  unfold mapped
  rw [hf]
  dsimp only
  unfold setFrame at pageless held ⊢
  rw [if_neg (not_not_intro h1), pageless]
  dsimp only
  rw [if_pos hk, held]
end

/-- A page that is set is found under its number, where one of that number was. -/
theorem findPage_setPage {s : State} {q q' : Page} (h : findPage s q'.number = some q) : findPage (setPage s q') q'.number = some q' := by
  have set_ := find?_mapIf (fun x : Page => x.number == q'.number) (fun _ => q') s.pages (fun _ _ => beq_self_eq_true q'.number)
  exact set_.trans (congrArg (Option.map (fun _ => q')) h)

/-! ### Reclaim (R349) -/

theorem leastBlock_eq (l : List (Nat × FlBlock)) (m : Nat × FlBlock → Nat) : leastBlock l m =
    (l.foldl (pickBest (fun y x : Nat × FlBlock => m x < m y ∨ (m x = m y ∧ x.2.pe < y.2.pe))) none).map (·.1) := by
  unfold leastBlock
  congr 2
  funext b x
  cases b <;> rfl

/-- The block found is one of the list with the least measure: measured from its own, every other lies at 0. -/
theorem leastBlock_least {l : List (Nat × FlBlock)} {m : Nat × FlBlock → Nat} {b : Nat} (h : leastBlock l m = some b) : ∃ x ∈ l, x.1 = b ∧ ∀ y ∈ l, m x ≤ m y := by
  rw [leastBlock_eq] at h
  obtain ⟨c, found, rfl⟩ := Option.map_eq_some_iff.mp h
  have best : c ∈ l ∧ ∀ d ∈ l, m c - m d ≤ m c - m c := by
    refine foldl_pickBest_none (fun x => m c - m x) ?_ ?_ found
    · intro y x better
      omega
    · intro y x worse
      omega
  refine ⟨c, best.1, rfl, fun y hy => ?_⟩
  have := best.2 y hy
  omega

section
variable {s : State} {plane : Nat} {g : FlashGeom} (hh : s.halted = false) (hp : paused s = false) (hg : s.fl.geom = some g)
include hh hp hg

theorem execReclaim_above (hc : 2 < freeCount (settle s) g plane) : exec (.reclaim plane) s = .next (settle s) := by
  refine awake_settles hh hp ?_
  dsimp only
  rw [(settle_map s).geom, hg]
  exact if_pos (.inr hc)

theorem execReclaim_floor {b : Nat} (ht : 2 ≤ s.fl.tier) (hc : freeCount (settle s) g plane ≤ 2)
    (hb : leastBlock (closedBlocks (settle s) plane) (fun x => validSectors (settle s) x.1) = some b) : exec (.reclaim plane) s = .next (retag s (reclaimBlock (settle s) b)) := by
  have tier := (settle_map s).tier ht
  refine awake_leads hh hp ?_
  dsimp only
  rw [(settle_map s).geom, hg]
  dsimp only
  rw [if_neg (not_or.mpr ⟨Nat.not_lt.mpr tier, Nat.not_lt.mpr hc⟩), hb]
end

/-! ### Refresh (R345) -/

/-- A block that none of its frames lies in any more waits to be erased. -/
theorem reclaimBlock_empty {s : State} {b : Nat} (h : s.fl.frames.any (fun x => x.2.within b) = false) :
    reclaimBlock s b = modFl s (fun f => { f with
      opens := f.opens.filter (fun x => x.2 != b), refresh := f.refresh.erase b, erasing := if f.erasing.contains b then f.erasing else f.erasing ++ [b] }) := by
  have none_within : ∀ x ∈ s.fl.frames, ¬ (x.2.within b && x.2.st == 2) = true := fun x hx both => List.any_eq_false.mp h x hx (Bool.and_eq_true_iff.mp both).1
  unfold reclaimBlock
  rw [List.filter_eq_nil_iff.mpr none_within]
  exact if_neg (ne_true_of_eq_false (List.any_eq_false.mpr none_within))

/-- An open block that is refreshed is closed first. -/
def closeForRefresh (s : State) (b : Nat) : State :=
  if (getB s b).st = 2 then modFl (putB s b { getB s b with st := 3 }) (fun f => { f with opens := f.opens.filter (fun x => x.2 != b) }) else s

theorem closeForRefresh_fl (s : State) (b : Nat) : let t := (closeForRefresh s b).fl
    t.frames = s.fl.frames ∧ t.refresh = s.fl.refresh ∧ t.erasing = s.fl.erasing := by
  unfold closeForRefresh
  dsimp only
  split <;> exact ⟨rfl, rfl, rfl⟩

/-- A refresh that empties the block's place in the queue is counted. -/
def refreshCounted (s : State) (b : Nat) : State := if s.fl.refresh.contains b then s else modFl s (fun f => { f with refreshes := satAdd 0xFFFFFFFF f.refreshes 1 })

theorem refreshCounted_fl (s : State) (b : Nat) : (refreshCounted s b).fl.refresh = s.fl.refresh ∧ (refreshCounted s b).fl.erasing = s.fl.erasing := by
  unfold refreshCounted
  split <;> exact ⟨rfl, rfl⟩

section
variable {s : State} {b : Nat} (hh : s.halted = false) (hp : paused s = false)
include hh hp

theorem execRefresh_rests (h : (settle s).fl.refresh.contains b = false ∨ braking s = true) : exec (.refresh b) s = .next (settle s) := by
  refine awake_settles hh hp (if_pos (.inr ?_))
  rw [(settle_map s).braking]
  exact h.symm

theorem execRefresh_refreshes (ht : 2 ≤ s.fl.tier) (hb : braking s = false) (hr : (settle s).fl.refresh.contains b = true) :
    exec (.refresh b) s = .next (retag s (refreshCounted (reclaimBlock (closeForRefresh (settle s) b) b) b)) := by
  refine awake_leads hh hp ((if_neg ?_).trans rfl)
  rw [(settle_map s).braking]
  exact not_or.mpr ⟨Nat.not_lt.mpr ((settle_map s).tier ht), not_or.mpr ⟨ne_true_of_eq_false hb, ne_false_of_eq_true hr⟩⟩
end

/-- A block that holds no frame leaves the queue once and waits to be erased. -/
theorem refreshed_empty {s : State} {b : Nat} (h : s.fl.frames.any (fun x => x.2.within b) = false) : let t := refreshCounted (reclaimBlock (closeForRefresh s b) b) b
    t.fl.refresh = s.fl.refresh.erase b ∧ t.fl.erasing.contains b = true := by
  obtain ⟨frames, refresh, erasing⟩ := closeForRefresh_fl s b
  obtain ⟨refresh', erasing'⟩ := refreshCounted_fl (reclaimBlock (closeForRefresh s b) b) b
  dsimp only
  rw [refresh', erasing', reclaimBlock_empty (frames ▸ h)]
  refine ⟨congrArg (fun l => l.erase b) refresh, ?_⟩
  change (if (closeForRefresh s b).fl.erasing.contains b = true then (closeForRefresh s b).fl.erasing else (closeForRefresh s b).fl.erasing ++ [b]).contains b = true
  split
  next known => exact known
  · exact List.contains_iff_mem.mpr (List.mem_append_right _ List.mem_cons_self)

/-! ### Wear relocation (R350) -/

section
variable {s : State} {plane : Nat} (hh : s.halted = false) (hp : paused s = false)
include hh hp

theorem execWearRelocation_rests (h : bitOf (flBgCtrl s) 8 = false ∨ braking s = true) : exec (.wearRelocation plane) s = .next (settle s) := by
  have upkeep := settle_map s
  have ctrl : flBgCtrl (settle s) = flBgCtrl s := congrArg (Tbl.get · _ _) upkeep.regs
  refine awake_settles hh hp ?_
  dsimp only
  split
  · rfl
  · rw [ctrl, upkeep.braking]
    exact if_pos (.inr (h.elim (fun off => .inr (.inl off)) .inl))

/-- Blocks of a plane that count for its spread. -/
def wearBlocks (s : State) (g : FlashGeom) (plane : Nat) : List (Nat × FlBlock) := s.fl.blocks.filter (fun x => planeOf x.1 == plane && x.2.st ≤ 3 && !metaBlock g x.1)

omit hh hp in
theorem mem_wearBlocks {g : FlashGeom} {x : Nat × FlBlock} (hx : x ∈ s.fl.blocks) (hl : planeOf x.1 = plane) (hs : x.2.st ≤ 3) (hm : metaBlock g x.1 = false) :
    x ∈ wearBlocks s g plane := by
  refine List.mem_filter.mpr ⟨hx, ?_⟩
  rw [hl, hm, beq_self_eq_true, decide_eq_true hs]
  rfl

omit hh hp in
theorem ite_zero_le {c : Prop} [Decidable c] {m n : Nat} (h : m ≤ n) : (if c then 0 else m) ≤ n := by
  split
  · exact Nat.zero_le n
  · exact h

/-- The highest and the lowest count of a plane lie as far apart as any two of its blocks. -/
theorem execWearRelocation_spread {g : FlashGeom} {b : Nat} {x y : Nat × FlBlock} (hg : s.fl.geom = some g) (ht : 2 ≤ s.fl.tier) (hb : braking s = false) (hon : bitOf (flBgCtrl s) 8 = true)
    (hx : x ∈ wearBlocks (settle s) g plane) (hy : y ∈ wearBlocks (settle s) g plane) (hd : y.2.pe + fieldOf (flWearCtrl s) 31 16 < x.2.pe)
    (hl : leastBlock (closedBlocks (settle s) plane) (fun x => x.2.pe) = some b) : exec (.wearRelocation plane) s = .next (retag s (reclaimBlock (settle s) b)) := by
  have upkeep := settle_map s
  have geom := upkeep.geom.trans hg
  have tier := upkeep.tier ht
  have brake : braking (settle s) = false := upkeep.braking.trans hb
  have ctrl : bitOf (flBgCtrl (settle s)) 8 = true := (congrArg (fun r : Tbl W64 => bitOf (r.get _ _) 8) upkeep.regs).trans hon
  have spread : flWearCtrl (settle s) = flWearCtrl s := congrArg (Tbl.get · _ _) upkeep.regs
  rw [← spread] at hd
  refine awake_leads hh hp ?_
  generalize settle s = u at hx hy hd hl geom tier brake ctrl ⊢
  have top := le_foldl_max (fun x : Nat × FlBlock => x.2.pe) hx 0
  have low := foldl_min_le (fun x : Nat × FlBlock => x.2.pe) hy ((wearBlocks u g plane).foldl (fun n x => max n x.2.pe) 0)
  unfold wearBlocks at top low
  dsimp only
  rw [geom]
  dsimp only
  rw [if_neg, hl]
  refine not_or.mpr ⟨Nat.not_lt.mpr tier, not_or.mpr ⟨ne_true_of_eq_false brake, not_or.mpr ⟨ne_false_of_eq_true ctrl, Nat.not_le.mpr ?_⟩⟩⟩
  exact (Nat.lt_sub_iff_add_lt'.mpr hd).trans_le (tsub_le_tsub top (ite_zero_le low))
end

/-! ### The erasure sweep (R362) -/

/-- No frame of some FFNs is left, but a shard record placed since under one of them. -/
def Swept (l : List Nat) (s : State) : Prop := ∀ x ∈ s.fl.frames, l.contains x.1 = true → x.2.kind = 3

theorem Swept.setFrame {l : List Nat} {s : State} (h : Swept l s) {ffn : Nat} {f : FlFrame} (hf : l.contains ffn = true → f.kind = 3) : Swept l (setFrame s ffn f) := by
  intro x hx
  rcases Tbl.mem_set _ _ _ _ hx with rfl | hx
  · exact hf
  · exact h x hx

theorem Swept.of_room {l : List Nat} {s t : State} (h : Swept l s) (hr : RoomOnly s t) : Swept l t := fun x hx => h x (hr.frames ▸ hx)

theorem Swept.of_subset {l : List Nat} {s t : State} (h : Swept l s) (hs : ∀ x ∈ t.fl.frames, x ∈ s.fl.frames) : Swept l t := fun x hx => h x (hs x hx)

theorem Swept.foldl {α : Type} {l : List Nat} {f : State → α → State} (hf : ∀ s x, Swept l s → Swept l (f s x)) (xs : List α) {s : State} (h : Swept l s) : Swept l (xs.foldl f s) :=
  List.foldlRecOn xs f h (fun b hb a _ => hf b a hb)

theorem Swept.tryMove {l : List Nat} {s : State} (h : Swept l s) (ffn : Nat) : Swept l (tryMove s ffn) := by
  obtain same | ⟨u, f, f', room, found, kind, moved⟩ := tryMove_cases s ffn
  · rw [same]
    exact h
  · rw [moved]
    exact (h.of_room room).setFrame (fun hn => kind.trans (h (ffn, f) (Tbl.mem_of_find found) hn))

theorem Swept.placeShard {l : List Nat} {s : State} (h : Swept l s) (x : NodeHold) : Swept l (placeShard s x) := by
  obtain same | ⟨u, n, f, room, kind, placed⟩ := placeShard_cases s x
  · rw [same]
    exact h
  · rw [placed]
    have taken : Swept l (takeFree 5 s).2 := h
    exact (taken.of_room room).setFrame (fun _ => kind)

theorem Swept.dropDead {l : List Nat} {s : State} (h : Swept l s) : Swept l (dropDead s) :=
  Swept.foldl (fun s x h => h.of_room (noteUnmap_room s x)) _ (h.of_subset (fun _ hx => (List.mem_filter.mp hx).1))

theorem Swept.settle {l : List Nat} {s : State} (h : Swept l s) : Swept l (settle s) := by
  by_cases ht : s.fl.tier < 2
  · rw [settle_out ht]
    exact h
  · rw [settle_in ht]
    have dropped : Swept l (dropShards s) := h
    exact Swept.foldl (fun s x h => h.placeShard x) _ dropped.dropDead

theorem Swept.reclaimBlock {l : List Nat} {s : State} (h : Swept l s) (b : Nat) : Swept l (reclaimBlock s b) := by
  have moved := Swept.foldl (fun s (x : Nat × FlFrame) h => Swept.tryMove h x.1) (s.fl.frames.filter (fun x => x.2.within b && x.2.st == 2)) h
  unfold Machine.reclaimBlock
  dsimp only
  split
  · exact moved
  · exact moved

/-- The frames that a key sweep freed leave, and the blocks that hold them wait to be erased. -/
def framesErased (s : State) (blocks : List Nat) : State :=
  modFl s (fun f => { f with frames := f.frames.filter (fun x => !(f.toErase.contains x.1)), toErase := [], erasePending := blocks })

theorem framesErased_swept (s : State) (blocks : List Nat) : Swept s.fl.toErase (framesErased s blocks) := by
  intro x hx hn
  obtain ⟨-, kept⟩ := List.mem_filter.mp hx
  rw [hn] at kept
  exact absurd kept Bool.false_ne_true

section
variable {s : State} (hh : s.halted = false)
include hh

theorem execFlashErasureSweep_rests (h : s.fl.tier < 2 ∨ braking s = true) : exec .flashErasureSweep s = .next s := by
  exact awake_rests hh (if_pos h)

theorem execFlashErasureSweep_sweeps (hp : paused s = false) (ht : 2 ≤ s.fl.tier) (hb : braking s = false) : ∃ (blocks : List Nat) (hit : List (Nat × FlFrame)), exec .flashErasureSweep s =
    .next (retag s (blocks.foldl reclaimBlock (settle (hit.foldl (fun s (x : Nat × FlFrame) => note s 2 x.1 none none) (framesErased s blocks))))) :=
  ⟨_, _, awake_leads hh hp (if_neg (not_or.mpr ⟨Nat.not_lt.mpr ht, ne_true_of_eq_false hb⟩))⟩
end

theorem sweep_leaves (s : State) (blocks : List Nat) (hit : List (Nat × FlFrame)) :
    let t := blocks.foldl reclaimBlock (settle (hit.foldl (fun s (x : Nat × FlFrame) => note s 2 x.1 none none) (framesErased s blocks)))
    t.fl.toErase = [] ∧ Swept s.fl.toErase t := by
  have noted : MapOnly (framesErased s blocks) (hit.foldl (fun s (x : Nat × FlFrame) => note s 2 x.1 none none) (framesErased s blocks)) :=
    MapOnly.foldl (fun s (x : Nat × FlFrame) => (note_room s 2 x.1 none none).map) _ _
  refine ⟨?_, ?_⟩
  · exact (noted.trans ((settle_map _).trans (MapOnly.foldl reclaimBlock_map _ _))).toErase
  · exact Swept.foldl (fun s b h => h.reclaimBlock b) _ (Swept.foldl (fun s (x : Nat × FlFrame) h => h.of_room (note_room s 2 x.1 none none)) _ (framesErased_swept s blocks)).settle

/-! ### Map pages (R342, R357) -/

/-- What a map page written anew, or found empty, leaves: its frame changed, its DIR record in the journal, and the page clean. -/
def mapPageOut (s : State) (index : Nat) (change : Tbl FlFrame → Tbl FlFrame) (j : JRec) : State :=
  modFl (journalNow (modFl s (fun f => { f with frames := change f.frames })) j) (fun f => { f with dirty := f.dirty.filter (fun x => x != index) })

theorem writeMapPage_cases (s : State) (index : Nat) : writeMapPage s index = s ∨ ∃ u change j, RoomOnly s u ∧ writeMapPage s index = mapPageOut u index change j := by
  unfold writeMapPage
  dsimp only
  split
  · exact .inl rfl
  · split
    · exact .inr ⟨s, fun t => t.del (mapKey index), _, RoomOnly.refl s, rfl⟩
    · split
      · exact .inl rfl
      next u a hu => exact .inr ⟨u, fun t => t.set (mapKey index) _, _, roomFrom_room hu, rfl⟩

/-- What writing map pages keeps: the memories, the time, the checkpoint copies and the shard list; and it makes no map page dirty. -/
structure MapWritten (s t : State) : Prop where
  memory : t.pages = s.pages ∧ t.dev = s.dev ∧ t.models = s.models
  now : t.now = s.now
  copies : t.fl.copyA = s.fl.copyA ∧ t.fl.copyB = s.fl.copyB
  shards : t.fl.shards = s.fl.shards
  dirty : ∀ i, t.fl.dirty.contains i = true → s.fl.dirty.contains i = true

theorem MapWritten.refl (s : State) : MapWritten s s := ⟨⟨rfl, rfl, rfl⟩, rfl, ⟨rfl, rfl⟩, rfl, fun _ => id⟩

theorem MapWritten.trans {s t u : State} (h : MapWritten s t) (k : MapWritten t u) : MapWritten s u where
  memory := by
    obtain ⟨pages, dev, models⟩ := h.memory
    obtain ⟨pages', dev', models'⟩ := k.memory
    exact ⟨pages'.trans pages, dev'.trans dev, models'.trans models⟩
  now := k.now.trans h.now
  copies := ⟨k.copies.1.trans h.copies.1, k.copies.2.trans h.copies.2⟩
  shards := k.shards.trans h.shards
  dirty := fun i hi => h.dirty i (k.dirty i hi)

theorem RoomOnly.written {s t : State} (h : RoomOnly s t) : MapWritten s t := ⟨h.memory, h.now, h.copies, h.shards, fun _ hi => h.dirty ▸ hi⟩

theorem mapPageOut_written (s : State) (index : Nat) (change : Tbl FlFrame → Tbl FlFrame) (j : JRec) : MapWritten s (mapPageOut s index change j) := by
  have framed : MapWritten s (modFl s (fun f => { f with frames := change f.frames })) := ⟨⟨rfl, rfl, rfl⟩, rfl, ⟨rfl, rfl⟩, rfl, fun _ => id⟩
  have noted : ∀ u, MapWritten u (journalNow u j) := fun u => ⟨⟨rfl, rfl, rfl⟩, rfl, ⟨rfl, rfl⟩, rfl, fun _ => id⟩
  have cleaned : ∀ u, MapWritten u (modFl u (fun f => { f with dirty := f.dirty.filter (fun x => x != index) })) := fun u =>
    ⟨⟨rfl, rfl, rfl⟩, rfl, ⟨rfl, rfl⟩, rfl, fun _ hi => List.contains_iff_mem.mpr (List.mem_filter.mp (List.contains_iff_mem.mp hi)).1⟩
  exact framed.trans ((noted _).trans (cleaned _))

theorem writeMapPage_written (s : State) (index : Nat) : MapWritten s (writeMapPage s index) := by
  obtain same | ⟨u, change, j, room, out⟩ := writeMapPage_cases s index
  · rw [same]
    exact MapWritten.refl s
  · rw [out]
    exact room.written.trans (mapPageOut_written u index change j)

theorem writeMapPages_written (s : State) : MapWritten s (writeMapPages s) :=
  List.foldlRecOn s.fl.dirty writeMapPage (MapWritten.refl s) (fun b hb a _ => hb.trans (writeMapPage_written b a))

/-! ### Checkpoints (R355, R357) -/

/-- SEQUENCE of a copy; 0 where there is none. -/
def copySeq (c : Option FlCopy) : Nat := match c with | some c => c.seq | none => 0

/-- The checkpoint that a state with its map pages written gives, without a warm-start image. -/
def newCheckpoint (u : State) : FlCopy :=
  { seq := max (copySeq u.fl.copyA) (copySeq u.fl.copyB) + 1, journalSeq := u.fl.jseq, geom := (u.fl.geom.map (·.raw)).getD [], frames := mapNow u, blocks := u.fl.blocks
    shards := u.fl.shards, warm := none, warmFfn := 0 }

/-- The new checkpoint goes to copy A: side A is in service, and side B is not or copy A is not the newer one. -/
def goesToA (u : State) : Bool := sideOut u 0 == false && (sideOut u 1 || decide (copySeq u.fl.copyA ≤ copySeq u.fl.copyB))

/-- A new checkpoint in its place; the journal up to it is released. -/
def checkpointed (u : State) (toA : Bool) : State :=
  modFl u (fun f => { f with
    journal := [], ckptAt := u.now, copyA := if toA then some (newCheckpoint u) else f.copyA, copyB := if toA then f.copyB else some (newCheckpoint u) })

theorem checkpointed_toA {u : State} (h : goesToA u = true) : let t := (checkpointed u (goesToA u)).fl
    t.copyA = some (newCheckpoint u) ∧ t.copyB = u.fl.copyB := by
  rw [h]
  exact ⟨rfl, rfl⟩

theorem checkpointed_toB {u : State} (h : goesToA u = false) : let t := (checkpointed u (goesToA u)).fl
    t.copyB = some (newCheckpoint u) ∧ t.copyA = u.fl.copyA := by
  rw [h]
  exact ⟨rfl, rfl⟩

theorem goesToA_iff (u : State) : goesToA u = true ↔ sideOut u 0 = false ∧ (sideOut u 1 = true ∨ copySeq u.fl.copyA ≤ copySeq u.fl.copyB) := by
  simp [goesToA]

/-- With side B out of service the new checkpoint goes to A. -/
theorem goesToA_alone {u : State} (h0 : sideOut u 0 = false) (h1 : sideOut u 1 = true) : goesToA u = true := (goesToA_iff u).mpr ⟨h0, .inl h1⟩

theorem not_goesToA_out {u : State} (h0 : sideOut u 0 = true) : goesToA u = false :=
  Bool.eq_false_iff.mpr (fun a => ne_false_of_eq_true h0 ((goesToA_iff u).mp a).1)

/-- With both sides in service it goes to the older copy, A on a tie. -/
theorem goesToA_both {u : State} (h0 : sideOut u 0 = false) (h1 : sideOut u 1 = false) : goesToA u = decide (copySeq u.fl.copyA ≤ copySeq u.fl.copyB) := by
  rw [goesToA, h0, h1]
  rfl

section
variable {s : State}

theorem writeCheckpoint_sidesOut (h0 : sideOut (writeMapPages s) 0 = true) (h1 : sideOut (writeMapPages s) 1 = true) : writeCheckpoint s none = writeMapPages s := if_pos ⟨h0, h1⟩

theorem writeCheckpoint_written (h : sideOut (writeMapPages s) 0 = false ∨ sideOut (writeMapPages s) 1 = false) :
    writeCheckpoint s none = checkpointed (writeMapPages s) (goesToA (writeMapPages s)) := by
  have one_in : ¬ (sideOut (writeMapPages s) 0 = true ∧ sideOut (writeMapPages s) 1 = true) :=
    fun out => h.elim (ne_false_of_eq_true out.1) (ne_false_of_eq_true out.2)
  have place := goesToA_iff (writeMapPages s)
  unfold writeCheckpoint
  dsimp only
  generalize writeMapPages s = u at one_in place ⊢
  rw [if_neg one_in]
  cases toA : goesToA u with
  | true => exact congrArg (fun fl => { u with fl := fl }) (if_pos (place.mp toA))
  | false => exact congrArg (fun fl => { u with fl := fl }) (if_neg (fun a => ne_true_of_eq_false toA (place.mpr a)))
end

/-- Where both sides are in service the older copy, A on a tie, is replaced by one newer than both. -/
theorem checkpointed_both {u : State} (h0 : sideOut u 0 = false) (h1 : sideOut u 1 = false) : let t := (checkpointed u (goesToA u)).fl
    let c := newCheckpoint u
    (u.fl.copyA = none → t.copyA = some c ∧ t.copyB = u.fl.copyB) ∧
    (∀ x, u.fl.copyA = some x → 0 < x.seq → u.fl.copyB = none → t.copyB = some c ∧ t.copyA = u.fl.copyA ∧ c.seq = x.seq + 1) ∧
    (∀ x y, u.fl.copyA = some x → u.fl.copyB = some y →
      c.seq = max x.seq y.seq + 1 ∧ (x.seq ≤ y.seq → t.copyA = some c ∧ t.copyB = some y) ∧ (y.seq < x.seq → t.copyA = some x ∧ t.copyB = some c)) := by
  have place := goesToA_both h0 h1
  have seq : (newCheckpoint u).seq = max (copySeq u.fl.copyA) (copySeq u.fl.copyB) + 1 := rfl
  refine ⟨fun hA => ?_, fun x hA hx hB => ?_, fun x y hA hB => ⟨?_, fun hxy => ?_, fun hyx => ?_⟩⟩
  · rw [hA] at place
    exact checkpointed_toA (place.trans (decide_eq_true (Nat.zero_le _)))
  · rw [hA, hB] at place seq
    obtain ⟨copyB, copyA⟩ := checkpointed_toB (place.trans (decide_eq_false (Nat.not_le.mpr hx)))
    exact ⟨copyB, copyA, seq.trans (congrArg (· + 1) (Nat.max_zero x.seq))⟩
  · rw [hA, hB] at seq
    exact seq
  · rw [hA, hB] at place
    obtain ⟨copyA, copyB⟩ := checkpointed_toA (place.trans (decide_eq_true hxy))
    exact ⟨copyA, copyB.trans hB⟩
  · rw [hA, hB] at place
    obtain ⟨copyB, copyA⟩ := checkpointed_toB (place.trans (decide_eq_false (Nat.not_le.mpr hyx)))
    exact ⟨copyA.trans hA, copyB⟩

section
variable {s : State} (hh : s.halted = false)
include hh

theorem execCheckpoint_rests (h : s.fl.tier < 2 ∨ s.fl.journal = []) : exec .checkpoint s = .next s := by
  refine awake_rests hh (if_pos (h.imp id (fun none => ?_)))
  rw [none]
  have few : ¬ 2 ^ s.fl.ckptRecords ≤ 0 := Nat.not_le.mpr (Nat.two_pow_pos _)
  simp [few]

/-- A checkpoint is due after 2^CKPT_RECORDS records, or an interval after the last with a record. -/
theorem execCheckpoint_due (hp : paused s = false) (ht : 2 ≤ s.fl.tier)
    (hd : 2 ^ s.fl.ckptRecords ≤ s.fl.journal.length ∨ (s.fl.journal ≠ [] ∧ s.fl.ckptAt + fieldOf (flMetaCtrl s) 31 16 * 1000000 ≤ s.now)) :
    exec .checkpoint s = .next (retag s (writeCheckpoint s none)) := by
  refine awake_leads hh hp (if_neg (not_or.mpr ⟨Nat.not_lt.mpr ht, ne_false_of_eq_true ?_⟩))
  simpa using hd
end

/-! ### Recovery (R358, R359, R361) -/

/-- A copy that passes its checks and was made under the geometry in force. -/
def goodCopy (bad : Bool) (g : FlashGeom) : Option FlCopy → Option FlCopy
  | some c => if bad ∨ c.geom ≠ g.raw then none else some c
  | none => none

/-- Of two good copies the newer is used, A where they are equal; else the one there is. -/
def pickCopy (a b : Option FlCopy) : Option FlCopy :=
  match a, b with
  | some x, some y => if x.seq < y.seq then b else a
  | some _, none => a
  | none, _ => b

/-- Both copies are good and equally new. -/
def copiesTie : Option FlCopy → Option FlCopy → Bool
  | some x, some y => x.seq == y.seq
  | _, _ => false

/-- A tie is logged. -/
def tieNoted (s : State) (tie : Bool) : State := if tie then logEvent s (evOf 0x06 0 sevInfo 0 [0, 0]) else s

/-- What recovery begins anew: nothing is open or waits, and a pass of patrol is on. -/
def restarted (now : Nat) (f : Fl) : Fl :=
  { f with
    opens := [], jq := [], erasing := [], refresh := [], toErase := [], erasePending := [], tier := 2, ckptAt := now, next := 0
    patrolAt := now, patrolled := some 0, patrolling := none, overread := [] }

/-- Without a good copy the map is empty but for the initial bad blocks, and the rollback is logged. -/
def emptyMap (s : State) (g : FlashGeom) : State :=
  logFl (modFl s (fun f => restarted s.now { f with
    frames := [], blocks := g.bad.foldl (fun t a => t.set a { st := 5, pe := 0, reads := 0, used := 0 }) [], shards := [], journal := [], dirty := [] })) Code.flMetaRollback sevInfo 0

/-- No block stays open. -/
def closedBlock (v : FlBlock) : FlBlock := if v.st = 2 then { v with st := 3 } else v

/-- The map of a copy with the records that follow it. -/
def replayed (c : FlCopy) (js : List JRec) (f : Fl) : Fl := js.foldl replay { f with frames := c.frames, blocks := c.blocks, shards := c.shards, dirty := [] }

/-- That map in force, with the warm-start image where its frame is still there. -/
def copyInForce (s : State) (c : FlCopy) (js : List JRec) : State :=
  modFl s (fun f => restarted s.now { replayed c js f with
    blocks := (replayed c js f).blocks.map (fun x => (x.1, closedBlock x.2)), journal := js, jseq := max s.fl.jseq (replayed c js f).jseq
    warmFound := if ((replayed c js f).frames.find c.warmFfn).any (fun x => x.kind == 4 && x.st == 2) then c.warm else none })

/-- A map older than the newest copy is logged. -/
def rollbackNoted (s : State) (older : Bool) : State := if older then logFl s Code.flMetaRollback sevInfo 0 else s

/-- The bad blocks of the record that the map still has free are retired. -/
def badMarked (s : State) (bad : List Nat) : State := bad.foldl (fun s b => if (getB s b).st ≤ 1 then markBad s b else s) s

/-- SEQUENCE of the newest copy, good or not. -/
def newestSeq (s : State) : Nat := max ((s.fl.copyA.map (·.seq)).getD 0) ((s.fl.copyB.map (·.seq)).getD 0)

/-- What recovery from a copy leaves: its map in force, then bad blocks, wear and pages follow it. -/
def recovered (s : State) (g : FlashGeom) (c : FlCopy) (js : List JRec) : State :=
  checkWear (recoverPages (badMarked (rollbackNoted (copyInForce s c js) (decide (c.seq < newestSeq s) && js.isEmpty)) g.bad))

/-- Recovery from the copy that was picked, with the first `n` records of the journal readable. -/
def recoverFrom (s : State) (g : FlashGeom) (n : Nat) (pick : Option FlCopy) : State :=
  match pick with
  | none => emptyMap s g
  | some c => recovered s g c (journalFrom c.journalSeq (s.fl.journal.take n))

theorem insertRing_off {s : State} (h : s.cfg.insert = false) : insertRing s = s := if_neg (ne_true_of_eq_false h)

section
variable {s : State} (hh : s.halted = false)
include hh

theorem execFlashRecovery_done {a b : Bool} {n : Nat} (hi : s.cfg.insert = false) (ht : s.fl.tier ≠ 1) : exec (.flashRecovery a b n) s = .next s := by
  have work : ∀ k, k = s → insertRing k = s := fun k hk => hk ▸ insertRing_off (hk ▸ hi)
  refine alive_unchanged hh (work _ ?_)
  split
  · rfl
  · exact if_pos ht

/-- Recovery uses the copy that is picked among the good ones. -/
theorem execFlashRecovery_picks {g : FlashGeom} (hg : s.fl.geom = some g) (ht : s.fl.tier = 1) (badA badB : Bool) (n : Nat) :
    let a := goodCopy badA g s.fl.copyA
    let b := goodCopy badB g s.fl.copyB
    exec (.flashRecovery badA badB n) s = .next (retag s (insertRing (recoverFrom (tieNoted s (copiesTie a b)) g n (pickCopy a b)))) := by
  refine alive_leads hh ?_
  rw [hg]
  refine congrArg insertRing ((if_neg (not_not_intro ht)).trans ?_)
  rfl
end

theorem goodCopy_bad (g : FlashGeom) (c : Option FlCopy) : goodCopy true g c = none := by
  cases c with
  | none => rfl
  | some c => rw [goodCopy, if_pos (Or.inl rfl)]

theorem goodCopy_good {g : FlashGeom} {c : FlCopy} (hc : c.geom = g.raw) : goodCopy false g (some c) = some c :=
  if_neg (not_or.mpr ⟨Bool.false_ne_true, not_not_intro hc⟩)

/-- A copy that fails its checks, is not there, was made under another geometry or is older does not come before a good one. -/
theorem goodCopy_behind {g : FlashGeom} {b : Option FlCopy} {bad : Bool} {n : Nat} (h : bad = true ∨ b = none ∨ (∃ y, b = some y ∧ (y.geom ≠ g.raw ∨ y.seq < n))) :
    goodCopy bad g b = none ∨ ∃ y, goodCopy bad g b = some y ∧ y.seq < n := by
  rcases h with rfl | rfl | ⟨y, rfl, other | older⟩
  · exact .inl (goodCopy_bad g b)
  · exact .inl rfl
  · exact .inl (if_pos (.inr other))
  · by_cases hy : bad = true ∨ y.geom ≠ g.raw
    · exact .inl (if_pos hy)
    · exact .inr ⟨y, if_neg hy, older⟩

theorem pickCopy_first {c : FlCopy} {b : Option FlCopy} (h : b = none ∨ ∃ y, b = some y ∧ y.seq < c.seq) : pickCopy (some c) b = some c ∧ copiesTie (some c) b = false := by
  rcases h with rfl | ⟨y, rfl, older⟩
  · exact ⟨rfl, rfl⟩
  · exact ⟨if_neg (Nat.not_lt.mpr older.le), beq_false_of_ne older.ne'⟩

theorem rollbackNoted_only (s : State) (older : Bool) : WearOnly s (rollbackNoted s older) := by
  unfold rollbackNoted
  split
  · exact logFl_only s _ _ _
  · exact WearOnly.refl s

theorem badMarked_room (s : State) (bad : List Nat) : RoomOnly s (badMarked s bad) := by
  refine List.foldlRecOn bad _ (RoomOnly.refl s) (fun t ht b _ => ?_)
  split
  · exact ht.trans (markBad_room t b)
  · exact ht

/-- Where the map has every bad block of the record in use or bad, none is retired. -/
theorem badMarked_known {s : State} {bad : List Nat} (h : ∀ b ∈ bad, 1 < (getB s b).st) : badMarked s bad = s := by
  refine List.foldlRecOn bad _ (motive := (· = s)) rfl (fun t ht b hb => ?_)
  rw [ht]
  exact if_neg (Nat.not_le.mpr (h b hb))

/-- The map in force as bad blocks and wear leave it; the pages follow it. -/
theorem recovered_room (s : State) (g : FlashGeom) (c : FlCopy) (js : List JRec) : ∃ v, RoomOnly (copyInForce s c js) v ∧ RoomOnly (recoverPages v) (recovered s g c js) :=
  ⟨_, (rollbackNoted_only _ _).room.trans (badMarked_room _ _), (checkWear_only _).room⟩

section
variable (s : State) (g : FlashGeom) (c : FlCopy)

theorem recovered_cfg (js : List JRec) : (recovered s g c js).cfg = s.cfg := by
  obtain ⟨v, marked, checked⟩ := recovered_room s g c js
  exact checked.cfg.trans marked.cfg

/-- Without further records the map is the copy's, and a pass of patrol begins. -/
theorem recovered_copy : let t := (recovered s g c []).fl
    t.frames = c.frames ∧ t.shards = c.shards ∧ t.warmFound = (if (c.frames.find c.warmFfn).any (fun x => x.kind == 4 && x.st == 2) then c.warm else none) ∧
      t.patrolled = some 0 ∧ t.patrolAt = s.now := by
  obtain ⟨v, marked, checked⟩ := recovered_room s g c []
  exact ⟨checked.frames.trans marked.frames, checked.shards.trans marked.shards, checked.warmFound.trans marked.warmFound, checked.patrolled.trans marked.patrolled,
    checked.patrolAt.trans marked.patrolAt⟩

theorem closedBlock_closed (v : FlBlock) : (closedBlock v).st ≠ 2 ∧ v.st ≤ (closedBlock v).st := by
  unfold closedBlock
  split
  next opened => exact ⟨Nat.succ_ne_self 2, opened.trans_le (Nat.le_succ 2)⟩
  next other => exact ⟨other, Nat.le_refl _⟩

theorem getB_copyInForce (b : Nat) : getB (copyInForce s c []) b = closedBlock (c.blocks.get FlBlock.init b) := by
  have found := Tbl.find_map closedBlock c.blocks b
  refine (congrArg (Option.getD · FlBlock.init) found).trans ?_
  rw [Tbl.get]
  cases c.blocks.find b <;> rfl

/-- With no free block among the bad ones nothing waits to be programmed, and every block is as in the copy, but closed. -/
theorem recovered_blocks (h : ∀ b ∈ g.bad, 1 < (c.blocks.get FlBlock.init b).st) : let t := (recovered s g c []).fl
    t.jq = [] ∧ t.blocks = c.blocks.map (fun x => (x.1, closedBlock x.2)) := by
  have noted := rollbackNoted_only (copyInForce s c []) (decide (c.seq < newestSeq s) && List.isEmpty ([] : List JRec))
  have known : badMarked (rollbackNoted (copyInForce s c []) (decide (c.seq < newestSeq s) && List.isEmpty ([] : List JRec))) g.bad =
      rollbackNoted (copyInForce s c []) (decide (c.seq < newestSeq s) && List.isEmpty ([] : List JRec)) := by
    refine badMarked_known (fun b hb => ?_)
    rw [getB, noted.blocks, ← getB, getB_copyInForce]
    exact (h b hb).trans_le (closedBlock_closed _).2
  have checked := checkWear_only (recoverPages (rollbackNoted (copyInForce s c []) (decide (c.seq < newestSeq s) && List.isEmpty ([] : List JRec))))
  unfold recovered
  rw [known]
  exact ⟨checked.jq.trans noted.jq, checked.blocks.trans noted.blocks⟩
end

section
variable {s : State} {g : FlashGeom} (hh : s.halted = false) (hi : s.cfg.insert = false) (hg : s.fl.geom = some g) (ht : s.fl.tier = 1)
include hh hi hg ht

theorem execFlashRecovery_none (n : Nat) : exec (.flashRecovery true true n) s = .next (retag s (emptyMap s g)) := by
  rw [execFlashRecovery_picks hh hg ht, goodCopy_bad, goodCopy_bad]
  exact congrArg (fun u => Host.Outcome.next (retag s u)) (insertRing_off (s := emptyMap s g) hi)

theorem execFlashRecovery_copyA {c : FlCopy} {bad : Bool} (hA : s.fl.copyA = some c) (hc : c.geom = g.raw)
    (hB : bad = true ∨ s.fl.copyB = none ∨ (∃ y, s.fl.copyB = some y ∧ (y.geom ≠ g.raw ∨ y.seq < c.seq))) :
    exec (.flashRecovery false bad 0) s = .next (retag s (recovered s g c [])) := by
  obtain ⟨picked, untied⟩ := pickCopy_first (goodCopy_behind hB)
  rw [execFlashRecovery_picks hh hg ht, hA, goodCopy_good hc, picked, untied]
  exact congrArg (fun u => Host.Outcome.next (retag s u)) (insertRing_off ((congrArg Cfg.insert (recovered_cfg s g c [])).trans hi))
end

/-- Settles O46, by the lemma of each row and of each of its outcomes, and by what the upkeep of the map keeps. -/
theorem flashMapRows : Obligations.FlashMapRows := by
  unfold Obligations.FlashMapRows
  intro s hh
  refine ⟨fun j rest hp hq ht => ⟨execJournalRecord_sidesOut hh hp hq, fun hs => ⟨execJournalRecord_plain hh hp hq ht hs, ?map, ?dir⟩⟩, execJournalRecord_none hh,
    fun ffn f p q hf h1 hp hq => ?mapped, fun ffn f h hf h1 hp hk hd => ?shard,
    fun plane g hp hg ht => ⟨execReclaim_above hh hp hg, fun b hc hb => ⟨execReclaim_floor hh hp hg ht hc hb, ?least⟩⟩,
    fun b hp => execRefresh_rests hh hp, fun b hp ht hb hr hf => ?refresh,
    fun plane hp => execWearRelocation_rests hh hp,
    fun plane g b x y hp hg ht hb hon hx hy hxp hyp hxs hys hxm hym =>
      execWearRelocation_spread hh hp hg ht hb hon (mem_wearBlocks hx hxp hxs hxm) (mem_wearBlocks hy hyp hys hym),
    fun hp ht hb => ?sweep, execFlashErasureSweep_rests hh, execCheckpoint_rests hh, fun hp ht hd => ⟨?sidesOut, ?written⟩,
    (writeMapPages_written s).dirty, ?copies,
    fun g n hg ht hi => ⟨⟨_, execFlashRecovery_none hh hi hg ht n, ?empty⟩, fun c bad hA hc hB => ⟨_, execFlashRecovery_copyA hh hi hg ht hA hc hB, ?copy⟩⟩,
    fun a b n ht hi => execFlashRecovery_done hh hi ht⟩
  case map =>
    intro h1
    rw [execJournalRecord_programs hh hp hq ht hs, if_pos h1]
    rfl
  case dir =>
    intro h5
    rw [execJournalRecord_programs hh hp hq ht hs, if_neg (by omega), if_pos h5]
    rfl
  case mapped =>
    have number : p.number = (copiedPage ffn p q).number := (beq_iff_eq.mp (List.find?_some (p := fun x : Page => x.number == p.number) hq)).symm
    rw [mapped_page hf h1 hp hq]
    refine ⟨Tbl.find_set_self _ _ _, copiedPage ffn p q, ?_, rfl, rfl, rfl, rfl⟩
    rw [number] at hq ⊢
    exact findPage_setPage hq
  case shard =>
    rw [mapped_shard hf h1 hp hk hd]
    exact ⟨Tbl.find_set_self _ _ _, rfl, rfl⟩
  case least =>
    obtain ⟨x, -, rfl, least⟩ := leastBlock_least hb
    exact least
  case refresh =>
    obtain ⟨refresh, erasing⟩ := refreshed_empty hf
    refine ⟨_, execRefresh_refreshes hh hp ht hb hr, ?_, ?_⟩
    · rw [retag_fl, refresh]
    · rw [retag_fl, erasing]
  case sweep =>
    obtain ⟨blocks, hit, sweeps⟩ := execFlashErasureSweep_sweeps hh hp ht hb
    refine ⟨_, sweeps, ?_⟩
    rw [retag_fl]
    exact sweep_leaves s blocks hit
  case sidesOut =>
    intro h0 h1
    obtain ⟨pages, dev, models⟩ := (writeMapPages_written s).memory
    rw [execCheckpoint_due hh hp ht hd, writeCheckpoint_sidesOut h0 h1, retag_same s _ pages dev models]
  case written =>
    intro hs
    refine ⟨_, newCheckpoint (writeMapPages s), execCheckpoint_due hh hp ht hd, ?_⟩
    rw [retag_fl, writeCheckpoint_written hs]
    have now := (writeMapPages_written s).now
    generalize writeMapPages s = u at now
    exact ⟨rfl, now, rfl, rfl, rfl, rfl, rfl, rfl, fun h0 h1 => checkpointed_toA (goesToA_alone h0 h1), fun h0 => checkpointed_toB (not_goesToA_out h0), checkpointed_both⟩
  case copies =>
    obtain ⟨copyA, copyB⟩ := (writeMapPages_written s).copies
    exact ⟨copyA, copyB, (writeMapPages_written s).shards⟩
  case empty =>
    rw [retag_fl]
    exact ⟨rfl, rfl, rfl, rfl, rfl⟩
  case copy =>
    obtain ⟨frames, shards, warm, patrolled, patrolAt⟩ := recovered_copy s g c
    rw [retag_fl]
    refine ⟨frames, shards, warm, patrolled, patrolAt, fun known => ?_⟩
    obtain ⟨jq, blocks⟩ := recovered_blocks s g c known
    rw [blocks, List.map_map]
    refine ⟨jq, rfl, fun x hx => ?_⟩
    obtain ⟨y, -, rfl⟩ := List.mem_map.mp hx
    exact (closedBlock_closed y.2).1

end Sys2Proof.Machine
end

section
/-!
PROOF. The stop (R584, R605): no row of the table, and no microsecond without one, moves anything of the fast domains while they are stopped.
-/

namespace Sys2Proof.Machine

open Sys2Proof

/-! ### What leaves the fast domains as they are -/

@[simp] theorem setReg_fast (s : State) (off : Nat) (v : W64) : fastDomains (setReg s off v) = fastDomains s := rfl
@[simp] theorem modCpm_fast (s : State) (f : Cpm → Cpm) : fastDomains (modCpm s f) = fastDomains s := rfl
@[simp] theorem modErr_fast (s : State) (f : Err → Err) : fastDomains (modErr s f) = fastDomains s := rfl
@[simp] theorem modFw_fast (s : State) (f : Fw → Fw) : fastDomains (modFw s f) = fastDomains s := rfl
@[simp] theorem modH_fast (s : State) (p : Nat) (f : HostPort → HostPort) : fastDomains (modH s p f) = fastDomains s := rfl
@[simp] theorem modP_fast (s : State) (p : Nat) (f : Port → Port) : fastDomains (modP s p f) = fastDomains s := rfl
@[simp] theorem modSb_fast (s : State) (i : Nat) (f : SbIn → SbIn) : fastDomains (modSb s i f) = fastDomains s := rfl
@[simp] theorem logPower_fast (s : State) (code severity a b : Nat) : fastDomains (logPower s code severity a b) = fastDomains s := rfl
@[simp] theorem logStep_fast (s : State) (step : Nat) (entered : Bool) : fastDomains (logStep s step entered) = fastDomains s := rfl
@[simp] theorem setTripNow_fast (s : State) (i : Nat) (b : Bool) : fastDomains (setTripNow s i b) = fastDomains s := rfl
@[simp] theorem coastPll_fast (s : State) (i : Nat) : fastDomains (coastPll s i) = fastDomains s := rfl
@[simp] theorem releaseRecord_fast (s : State) (which : Nat) : fastDomains (releaseRecord s which) = fastDomains s := rfl
@[simp] theorem enterFatal_fast (s : State) (cause : Nat) : fastDomains (enterFatal s cause) = fastDomains s := rfl

/-- What each step of a fold keeps of the state, the fold keeps. -/
theorem foldl_keeps {α β : Type} (g : State → β) (f : State → α → State) (hf : ∀ s x, g (f s x) = g s) (l : List α) (s : State) : g (l.foldl f s) = g s := by
  induction l generalizing s with
  | nil => rfl
  | cons x l ih => exact (ih _).trans (hf s x)

/-- What both outcomes of a choice keep of the state, the choice keeps. -/
theorem ite_keeps {β : Type} (g : State → β) {c : Prop} [Decidable c] {s t u : State} (ht : g t = g s) (hu : g u = g s) : g (if c then t else u) = g s := by
  split
  · exact ht
  · exact hu

theorem ite_fast {c : Prop} [Decidable c] {s t u : State} (ht : fastDomains t = fastDomains s) (hu : fastDomains u = fastDomains s) :
    fastDomains (if c then t else u) = fastDomains s := ite_keeps fastDomains ht hu

@[simp] theorem setCause_fast (s : State) (i : Nat) (b : Bool) : fastDomains (setCause s i b) = fastDomains s := ite_fast rfl rfl

@[simp] theorem ladderEval_fast (s : State) : fastDomains (ladderEval s) = fastDomains s := by
  unfold ladderEval
  exact ite_fast rfl (ite_fast (c := _ = 0 ∧ _) rfl rfl)

@[simp] theorem relockPll_fast (s : State) (i : Nat) : fastDomains (relockPll s i) = fastDomains s := ite_fast rfl rfl

@[simp] theorem brakeClear_fast (s : State) : fastDomains (brakeClear s) = fastDomains s := ite_fast (ladderEval_fast _) rfl

@[simp] theorem toPort_fast (s : State) (p : Nat) (st : PortSt) : fastDomains (toPort s p st) = fastDomains s := ite_fast rfl rfl

@[simp] theorem bypEval_fast (s : State) : fastDomains (bypEval s) = fastDomains s := by
  unfold bypEval
  refine ite_fast rfl ((foldl_keeps fastDomains _ (fun u p => ?_) _ _).trans rfl)
  exact ite_fast rfl (ite_fast (toPort_fast u p _) rfl)

@[simp] theorem retrain_fast (s : State) (p : Nat) : fastDomains (retrain s p) = fastDomains s := by
  rw [retrain, bypEval_fast, toPort_fast, modP_fast]

@[simp] theorem fastDown_fast (s : State) : fastDomains (fastDown s) = fastDomains s := by
  rw [fastDown, bypEval_fast]
  exact ite_fast (c := s.fwRun = 3) (modFw_fast s _) rfl

@[simp] theorem trip_fast (s : State) (i : Nat) : fastDomains (trip s i) = fastDomains s := by
  have counted : fastDomains (setTripNow (setCause s i true) i true) = fastDomains s := by simp
  rw [trip]
  exact ite_fast counted ((fastDown_fast _).trans counted)

/-- An error that is captured stops the fast domains at most (R580, R584). -/
@[simp] theorem captureErr_fast (s : State) (r : ErrRec) : fastDomains (captureErr s r) = fastDomains s := by
  unfold captureErr
  dsimp only
  split
  · rfl
  · split
    · exact ite_fast rfl rfl
    · exact ite_fast rfl rfl
    · rfl

@[simp] theorem raiseErr_fast (s : State) (unit_ index own code cause object : Nat) : fastDomains (raiseErr s unit_ index own code cause object) = fastDomains s :=
  captureErr_fast s _

@[simp] theorem recordWrite_fast (s : State) (who : Req) (which : Nat) (v : W64) : fastDomains (recordWrite s who which v) = fastDomains s :=
  ite_fast rfl rfl

@[simp] theorem telemCtrlWrite_fast (s : State) (who : Req) (v : W64) : fastDomains (telemCtrlWrite s who v) = fastDomains s :=
  ite_fast rfl (ite_fast rfl rfl)

@[simp] theorem hostWrite_fast (s : State) (fid a : Nat) (bs : List Byte) : fastDomains (hostWrite s fid a bs) = fastDomains s := ite_fast rfl rfl

@[simp] theorem applyPokes_fast (s : State) (ps : List Poke) : fastDomains (applyPokes s ps) = fastDomains s := by
  unfold applyPokes
  exact foldl_keeps fastDomains _ (fun s p => by rfl) ps s

@[simp] theorem pwrWrite_fast (s : State) (v : W64) : fastDomains (pwrWrite s v) = fastDomains s := ite_fast rfl rfl

/-! ### The dump (R586) takes free values, and reads the rest -/

theorem freeBytes_fast (n : Nat) (s : State) : fastDomains (freeBytes n s).2 = fastDomains s := by
  induction n generalizing s with
  | zero => rfl
  | succ n ih => exact ih (takeFree 8 s).2

theorem openBlocks_fast (kind slot gen n lba : Nat) (s : State) : fastDomains (openBlocks kind slot gen n lba s).2 = fastDomains s := by
  induction n generalizing lba s with
  | zero => rfl
  | succ n ih =>
    rw [openBlocks_succ_state, ih]
    exact freeBytes_fast 2048 s

/-- A fold whose accumulator carries a state leaves them where its steps do. -/
theorem foldl_on_fast {α β : Type} (st : β → State) (f : β → α → β) (hf : ∀ b x, fastDomains (st (f b x)) = fastDomains (st b)) (l : List α) (b : β) :
    fastDomains (st (l.foldl f b)) = fastDomains (st b) := by
  induction l generalizing b with
  | nil => rfl
  | cons x l ih => exact (ih _).trans (hf b x)

theorem saveStored_fast (s : State) (t : Nat) : fastDomains (saveStored s t).2 = fastDomains s := by
  unfold saveStored
  refine foldl_on_fast (fun acc : (List StoredBlock × State) × Nat => acc.1.2) _ (fun acc i => ?_) _ (([], s), 0)
  dsimp only
  split
  · exact openBlocks_fast _ _ _ _ _ _
  · rfl

theorem ite_snd_fast {α : Type} {c : Prop} [Decidable c] {s : State} {x y : α × State} (hx : fastDomains x.2 = fastDomains s)
    (hy : fastDomains y.2 = fastDomains s) : fastDomains (if c then x else y).2 = fastDomains s := by
  split
  · exact hx
  · exact hy

theorem workStored_fast (s : State) (half : Nat) : fastDomains (workStored s half).2 = fastDomains s := openBlocks_fast _ _ _ _ _ _

theorem pair_fast {α : Type} {s t : State} (x : α) (h : fastDomains t = fastDomains s) : fastDomains (x, t).2 = fastDomains s := h

/-- The save areas of several tiles, one after the other. -/
theorem saves_fast (l : List Nat) (x : List StoredBlock) (s : State) :
    fastDomains (l.foldl (fun (acc : List StoredBlock × State) t => let y := saveStored acc.2 t; (acc.1 ++ y.1, y.2)) (x, s)).2 = fastDomains s := by
  refine foldl_on_fast (fun acc : List StoredBlock × State => acc.2) _ (fun acc t => ?_) l (x, s)
  exact pair_fast _ (saveStored_fast acc.2 t)

theorem dumpBlocks_fast (s : State) (areas : Nat) : fastDomains (dumpBlocks s areas).2 = fastDomains s := by
  have hub : fastDomains (hubStored s).2 = fastDomains s := freeBytes_fast _ (takeFree 16 s).2
  unfold dumpBlocks
  refine pair_fast _ (ite_snd_fast ((saves_fast (List.range 32) [] _).trans ?work) (pair_fast _ ?work))
  exact ite_snd_fast (pair_fast _ (((workStored_fast _ 1).trans (workStored_fast _ 0)).trans hub)) (pair_fast _ hub)

@[simp] theorem dumpWrite_fast (s : State) (who : Req) (v : W64) : fastDomains (dumpWrite s who v) = fastDomains s := by
  unfold dumpWrite
  dsimp only
  split
  · rfl
  · split
    · rfl
    · rw [modErr_fast, hostWrite_fast]
      exact dumpBlocks_fast _ _

theorem captureErr_stopped {s : State} (hh : s.halted = true) (r : ErrRec) : (captureErr s r).halted = true := by
  unfold captureErr
  dsimp only
  split
  · exact hh
  · split
    · split
      · rfl
      · exact hh
    · split
      · rfl
      · exact hh
    · rfl

theorem raiseErr_stopped {s : State} (hh : s.halted = true) (unit_ index own code cause object : Nat) : (raiseErr s unit_ index own code cause object).halted = true :=
  captureErr_stopped hh _

theorem ladderEval_halted (s : State) : (ladderEval s).halted = s.halted := by
  unfold ladderEval
  exact ite_keeps State.halted rfl (ite_keeps State.halted (c := _ = 0 ∧ _) rfl rfl)

/-! ### The rows of the always-on domain, the ring transit and the ERR block -/

section
variable {s : State} (hh : s.halted = true)
include hh

theorem fetching_stopped : fetching s = false := by simp [fetching, scheduling, hh]

theorem resetPort_frozen (p : Nat) : fastDomains (resetPort s p) = fastDomains s := by
  rw [resetPort, if_pos hh]
  exact ite_fast rfl rfl

theorem inputActs_frozen (i : Nat) (b : Bool) : fastDomains (inputActs s i b) = fastDomains s := by
  unfold inputActs
  split
  · exact ite_fast (setCause_fast s 2 b) ((brakeClear_fast _).trans (setCause_fast s 2 b))
  · exact ite_fast rfl (setCause_fast s 3 b)
  · rfl
  · rfl
  · exact ite_fast (resetPort_frozen hh 0) rfl
  · exact ite_fast (resetPort_frozen hh 1) rfl
  · rfl

theorem setEffective_frozen (i : Nat) (b : Bool) : fastDomains (setEffective s i b) = fastDomains s := by
  unfold setEffective
  exact ite_fast rfl (inputActs_frozen (s := modSb s i _) hh i b)

theorem gateWrite_frozen (who : Req) (v : W64) : fastDomains (gateWrite s who v) = fastDomains s := by
  unfold gateWrite
  simp only [setReg_halted, modCpm_halted, hh, ↓reduceIte]
  repeat' split
  all_goals rfl

theorem handleSlot_frozen (dir : Nat) (x : Slot) : fastDomains (handleSlot s dir x).1 = fastDomains s := by
  unfold handleSlot
  rw [if_pos hh]
  repeat' split
  all_goals rfl

end

@[simp] theorem seeXoff_fast (s : State) (x : Slot) : fastDomains (seeXoff s x) = fastDomains s := ite_fast rfl rfl
@[simp] theorem seeHungry_fast (s : State) (dir : Nat) (x : Slot) : fastDomains (seeHungry s dir x) = fastDomains s := ite_fast rfl rfl

@[simp] theorem markSlot_fast (s : State) (dir : Nat) (x : Slot) : fastDomains (markSlot s dir x).1 = fastDomains s := by
  unfold markSlot
  dsimp only
  split <;> rfl

@[simp] theorem emitSlot_fast (s : State) (dir : Nat) (x : Slot) : fastDomains (emitSlot s dir x) = fastDomains s := by
  unfold emitSlot
  dsimp only
  refine ite_fast rfl ?_
  split <;> rfl

/-! ### The resets start the device anew (R540) -/

/-- The gates of the tiles change the tiles alone. -/
theorem gateTiles_keeps {β : Type} (g : State → β) (hg : ∀ s t v, g (setT s t v) = g s) (s : State) : g (gateTiles s) = g s := by
  unfold gateTiles
  refine foldl_keeps g _ (fun s t => ?_) _ s
  exact ite_keeps g (t := s) rfl (hg s t _)

theorem gateTiles_halted (s : State) : (gateTiles s).halted = s.halted := gateTiles_keeps State.halted setT_halted s

theorem coldReset_runs (s : State) : (coldReset s).halted = false := rfl

theorem deviceReset_runs (s : State) : (deviceReset s).halted = false := gateTiles_halted _

/-- What is still stopped after a write of GLB_RESET was not reset. -/
theorem glbResetWrite_frozen {s : State} {who : Req} {v : W64} (h : (glbResetWrite s who v).halted = true) : fastDomains (glbResetWrite s who v) = fastDomains s := by
  unfold glbResetWrite at h ⊢
  split_ifs at h ⊢ with a b c d e
  · rfl
  · rfl
  · exact absurd h (by rw [coldReset_runs]; decide)
  · rfl
  · exact absurd h (by rw [deviceReset_runs]; decide)
  · rfl

/-- The registers outside the blocks that stop (R584): GLB, the always-on domain's and the ERR block's. -/
def liveOffset (off : Nat) : Prop := off < 0x10000 ∨ (0x20000 ≤ off ∧ off < 0x40000) ∨ (0xA00000 ≤ off ∧ off < 0xB00000)

theorem alive_frozen {s k t : State} (hh : s.halted = true) (e : alive s k = .next t) : fastDomains t = fastDomains s := by
  rw [alive_halted s k hh] at e
  cases e
  rfl

theorem unitWrite_stopped {off : Nat} (live : liveOffset off) (s : State) (who : Req) (v : W64) : unitWrite s who off v = none := by
  unfold liveOffset at live
  have keys : ¬ (0x300100 ≤ off ∧ off < 0x300140) := by omega
  have ports : ¬ (0x500000 ≤ off ∧ off < 0x500200) := by omega
  have shapes : ¬ (0x500800 ≤ off ∧ off < 0x500A00) := by omega
  have routes : ¬ (0x580000 ≤ off ∧ off < 0x5C0000) := by omega
  have fixed : ¬ (0x701000 ≤ off ∧ off < 0x701090) := by omega
  have customers : ¬ (0x708000 ≤ off ∧ off < 0x728000) := by omega
  have spindles : ¬ (0x808000 ≤ off ∧ off < 0x818000) := by omega
  have traces : ¬ (0xB00000 ≤ off ∧ off < 0xB00020) := by omega
  unfold unitWrite
  split
  case h_17 => rw [if_neg keys, if_neg ports, if_neg shapes, if_neg routes, if_neg fixed, if_neg customers, if_neg spindles, if_neg traces]
  all_goals omega

theorem hubWrite_frozen {s t : State} {who : Req} {off : Nat} {v : W64} (hh : s.halted = true) (live : liveOffset off) (e : hubWrite s who off v = some t)
    (ht : t.halted = true) : fastDomains t = fastDomains s := by
  unfold liveOffset at live
  unfold hubWrite at e
  split at e <;> cases e
  case h_1 => exact glbResetWrite_frozen ht
  case h_2 | h_3 | h_10 | h_11 => omega
  case h_4 => exact gateWrite_frozen hh who v
  case h_5 => exact pwrWrite_fast s v
  case h_6 => rfl
  case h_7 => exact telemCtrlWrite_fast s who v
  case h_8 | h_9 => exact ite_fast rfl rfl
  case h_12 | h_13 => exact recordWrite_fast s who _ v
  case h_14 => exact dumpWrite_fast s who v

theorem regWrite_frozen {s : State} {off : Nat} (hh : s.halted = true) (live : liveOffset off) {who : Req} {v : W64} (ht : (regWrite s who off v).halted = true) :
    fastDomains (regWrite s who off v) = fastDomains s := by
  have notQueue : ¬ (0x40000 ≤ off ∧ off < 0x80000) := by unfold liveOffset at live; omega
  have notPort : ¬ (0x900040 ≤ off ∧ off < 0xA00000) := by unfold liveOffset at live; omega
  rw [regWrite, if_neg notQueue, if_neg notPort] at ht ⊢
  split_ifs at ht ⊢ with virtual
  · rfl
  · rw [unitWrite_stopped live] at ht ⊢
    cases hub : hubWrite s who off v with
    | some t =>
      rw [hub] at ht
      exact hubWrite_frozen hh live hub ht
    | none =>
      dsimp only
      split
      · rfl
      · rfl

theorem barWrite_frozen {s : State} {off size : Nat} (hh : s.halted = true) (live : liveOffset off) {who : Req} {v : W64} (ht : (barWrite s who off size v).halted = true) :
    fastDomains (barWrite s who off size v) = fastDomains s := by
  have base : liveOffset (off / 8 * 8) := by unfold liveOffset at live ⊢; omega
  unfold barWrite at ht ⊢
  split_ifs at ht ⊢
  · exact regWrite_frozen hh live ht
  · exact regWrite_frozen hh base ht
  · rfl

/-! ### The rows -/

theorem seeXoff_halted (s : State) (x : Slot) : (seeXoff s x).halted = s.halted := ite_keeps State.halted rfl rfl
theorem seeHungry_halted (s : State) (dir : Nat) (x : Slot) : (seeHungry s dir x).halted = s.halted := ite_keeps State.halted rfl rfl

theorem execRingSlot_fast (dir : Nat) (x : Slot) (hd : HeaderRead) {s t : State} (hh : s.halted = true) (e : exec (.ringSlot dir x hd) s = .next t) :
    fastDomains t = fastDomains s := by
  cases e
  refine ite_fast rfl ?_
  split
  · exact emitSlot_fast s dir x
  · rename_i y _
    have seen : (seeHungry (seeXoff s y) dir y).halted = true := ((seeHungry_halted _ _ _).trans (seeXoff_halted _ _)).trans hh
    dsimp only
    rw [emitSlot_fast, markSlot_fast, handleSlot_frozen seen, seeHungry_fast, seeXoff_fast]

/-- What LADDER_TICK notes of the causes and the steps, before a trip or the new step. -/
theorem ite_logStep_fast {c : Prop} [Decidable c] {s u : State} (f : Cpm → Cpm) (step : Nat) (h : fastDomains u = fastDomains s) :
    fastDomains (if c then logStep (modCpm u f) step true else u) = fastDomains s := ite_fast h h

theorem execLadderTick_fast (power : Nat) (temp : Int) (crit : Bool) {s t : State} (e : exec (.ladderTick power temp crit) s = .next t) :
    fastDomains t = fastDomains s := by
  cases e
  dsimp only
  refine ite_fast rfl (ite_fast ?_ ?_)
  · rw [trip_fast]
    exact ite_logStep_fast _ _ (ite_logStep_fast _ _ ((setCause_fast _ _ _).trans (setCause_fast _ _ _)))
  · rw [ladderEval_fast]
    exact ite_logStep_fast _ _ (ite_logStep_fast _ _ ((setCause_fast _ _ _).trans (setCause_fast _ _ _)))

theorem execReferenceLoss_fast (k : Nat) {s t : State} (e : exec (.referenceLoss k) s = .next t) : fastDomains t = fastDomains s := by
  cases e
  refine ite_fast rfl (ite_fast (ite_fast rfl ?one) (ite_fast (ite_fast rfl ?common) (ite_fast ?fabric rfl)))
  case one => rw [raiseErr_fast, coastPll_fast]
  case common => rw [raiseErr_fast, foldl_keeps fastDomains _ coastPll_fast, modCpm_fast]
  case fabric => exact (foldl_keeps fastDomains _ (fun u p => ite_fast rfl (retrain_fast u p)) _ _).trans rfl

theorem execReferenceReturn_fast (k : Nat) {s t : State} (e : exec (.referenceReturn k) s = .next t) : fastDomains t = fastDomains s := by
  cases e
  refine ite_fast (ite_fast (relockPll_fast s k) rfl) (ite_fast ?_ (ite_fast rfl rfl))
  rw [foldl_keeps fastDomains _ relockPll_fast, modCpm_fast]

theorem execRegisterWrite_frozen {who : Req} {off size : Nat} {v : W64} {s t : State} (hh : s.halted = true) (e : exec (.registerWrite who off size v) s = .next t)
    (ht : t.halted = true) : fastDomains t = fastDomains s := by
  cases e
  simp only [hh, ↓reduceIte, Bool.not_true, Bool.false_or] at ht ⊢
  split_ifs at ht ⊢ with dead
  · rfl
  · refine barWrite_frozen hh ?_ ht
    unfold liveOffset
    simp at dead
    omega

/-- A row leaves the fast domains of a stopped device as they are, unless it starts the device anew. -/
theorem exec_frozen {c : Instr} {s t : State} (hh : s.halted = true) (e : exec c s = .next t) (ht : t.halted = true) : fastDomains t = fastDomains s := by
  cases c with
  | instructionFetch q pokes =>
    cases e
    rw [if_neg (by simp [fetching_stopped hh])]
    exact applyPokes_fast s pokes
  | instructionStart pokes =>
    cases e
    rw [if_neg (by simp [fetching_stopped hh])]
    exact applyPokes_fast s pokes
  | datagram h bytes => cases e; rfl
  | ringSlot dir x hd => exact execRingSlot_fast dir x hd hh e
  | bar2Access who off n bytes =>
    cases bytes with
    | none => cases e; rfl
    | some bs =>
      cases e
      simp only [hh, ↓reduceIte]
      exact ite_fast rfl rfl
  | portReset p =>
    cases e
    exact ite_fast rfl (resetPort_frozen hh p)
  | deviceReset who confirm => cases e; exact glbResetWrite_frozen ht
  | coldReset who confirm => cases e; exact glbResetWrite_frozen ht
  | stackTrainingComplete failed =>
    cases e
    rw [if_pos (by simp [hh])]
  | errorCapture x =>
    cases e
    cases x with
    | tileWord tile =>
      have stopped : (raiseErr s 0x01 tile sevContained Code.memUncorrectable 0x01 0).halted = true := raiseErr_stopped hh _ _ _ _ _ _
      dsimp only
      rw [if_pos stopped]
      exact ite_fast rfl (raiseErr_fast _ _ _ _ _ _ _)
    | hubSram => exact ite_fast rfl (raiseErr_fast _ _ _ _ _ _ _)
    | controlCore n => exact ite_fast rfl (raiseErr_fast _ _ _ _ _ _ _)
    | crossbar => exact ite_fast rfl (raiseErr_fast _ _ _ _ _ _ _)
  | errorRecordRelease who which =>
    cases e
    exact ite_fast (recordWrite_fast s who which _) rfl
  | errorHoldTimeout which =>
    cases e
    split
    · exact ite_fast rfl rfl
    · rfl
  | containedRecordLogged =>
    cases e
    split
    · exact ite_fast rfl rfl
    · rfl
  | dump who v => cases e; exact dumpWrite_fast s who _
  | referenceLoss k => exact execReferenceLoss_fast k e
  | referenceReturn k => exact execReferenceReturn_fast k e
  | crystalLoss => cases e; exact ite_fast ((trip_fast _ 5).trans rfl) rfl
  | gateHoldOff who n => cases e; exact ite_fast rfl (gateWrite_frozen hh who _)
  | gateRelease who n => cases e; exact ite_fast rfl (gateWrite_frozen hh who _)
  | ladderTick power temp crit => exact execLadderTick_fast power temp crit e
  | ladderClear step =>
    cases e
    dsimp only
    refine ite_fast rfl ?_
    rw [ladderEval_fast, logStep_fast, modCpm_fast]
  | brake =>
    cases e
    dsimp only
    refine ite_fast rfl ?_
    have stopped : (ladderEval (logStep (modCpm s (fun c => { c with brakeOn := true, brakes := satAdd 0xFFFF c.brakes 1 })) 3 true)).halted = true := (ladderEval_halted _).trans hh
    rw [if_neg (by rw [stopped]; simp), ladderEval_fast, logStep_fast, modCpm_fast]
  | trip critical => cases e; exact ite_fast (trip_fast s 4) (ite_fast (trip_fast s 3) rfl)
  | tripRestart =>
    cases e
    split_ifs at ht ⊢
    · exact absurd ht (by rw [coldReset_runs]; decide)
    · rfl
  | sidebandInputChange i b =>
    cases e
    dsimp only
    refine ite_fast rfl (ite_fast rfl (ite_fast ?_ ?_))
    · rw [setEffective_frozen, modSb_fast, modSb_fast]
      exact hh
    · rw [setEffective_frozen, logPower_fast, modSb_fast, modSb_fast]
      exact hh
  | overrunRelease i =>
    cases e
    refine ite_fast ?_ rfl
    rw [setEffective_frozen, modSb_fast]
    exact hh
  | sidebandStuck i => cases e; exact ite_fast rfl ((raiseErr_fast _ _ _ _ _ _ _).trans rfl)
  | telemetrySample tiles temps hubs powers =>
    cases e
    dsimp only
    refine ite_fast rfl ?_
    rw [if_pos (.inr hh)]
    rfl
  | registerWrite who off size v => exact execRegisterWrite_frozen hh e ht
  | pcieLinkTrained p w r => cases e; exact ite_fast rfl rfl
  | spdmRaiseSvn secured svn => cases e; exact ite_fast rfl rfl
  | spdmRevokeKeyIndex secured k => cases e; exact ite_fast rfl rfl
  | managementRequest tag r =>
    cases e
    split_ifs at ht ⊢
    · rfl
    · cases r with
      | coldReset secured =>
        dsimp only at ht ⊢
        split_ifs at ht ⊢
        · exact absurd ht (by rw [coldReset_runs]; decide)
        · rfl
      | _ => rfl
  | oscillatorQualification counted =>
    cases e
    exact ite_fast rfl (ite_fast (ite_fast rfl rfl) (ite_fast rfl (ite_fast rfl rfl)))
  | bootRomDone ok => cases e; exact ite_fast rfl (ite_fast rfl rfl)
  | aonPowerGood =>
    cases e
    split_ifs at ht ⊢
    · rfl
    · cases ht
  | aonPowerLoss => cases e; exact (fastDown_fast _).trans rfl
  | supplyDip => cases e; exact ite_fast ((fastDown_fast _).trans rfl) rfl
  | fastSuppliesInRange => cases e; exact ite_fast rfl rfl
  | avsAcknowledge =>
    cases e
    split
    · rfl
    · rfl
  | avsAckTimeout => cases e; exact ite_fast rfl rfl
  | jtagInstruction op => cases e; rfl
  | jtagTapReset => cases e; rfl
  | _ => exact alive_frozen hh e

theorem idle_frozen {s : State} (hh : s.halted = true) : fastDomains (idle s) = fastDomains s := by
  unfold idle
  dsimp only
  rw [if_pos hh]
  exact ite_fast rfl rfl

/-- Settles O60: the rows of the fast domains change nothing while they are stopped, and what the always-on domain, the ring and the ERR block do touches none of theirs. -/
theorem frozenWhileHalted : Obligations.FrozenWhileHalted := by
  unfold Obligations.FrozenWhileHalted
  intro s t hh e ht
  unfold step at e
  split at e
  · cases e
    exact idle_frozen hh
  · rename_i c rest _
    exact exec_frozen (s := { s with pending := rest }) hh e ht

end Sys2Proof.Machine
end

section
/-!
PROOF. A step takes the command at the front of the queue.
-/

namespace Sys2Proof.Machine

open Sys2Proof

/-- Settles O1: a step reads the front of the queue, and no word of the table spells a command. -/
theorem stepTakesTheFrontCommand : Obligations.StepTakesTheFrontCommand := by
  unfold Obligations.StepTakesTheFrontCommand
  refine ⟨fun c rest s h => ?_, fun s h => ?_, fun s nbits w => ?_⟩
  · rw [step, h]
  · rw [step, h]
  · rfl

end Sys2Proof.Machine
end

section
/-!
PROOF. The port states, the error records and what firmware serves again touch none of the power state: one equation for each.
-/

namespace Sys2Proof.Machine

open Sys2Proof

theorem modP_fab (s : State) (p : Nat) (f : Port → Port) : OnlyFab s (modP s p f) := rfl

theorem OnlyFab.ite {c : Prop} [Decidable c] {s t u : State} (ht : OnlyFab s t) (hu : OnlyFab s u) : OnlyFab s (if c then t else u) := by
  split
  · exact ht
  · exact hu

theorem toPort_fab (s : State) (p : Nat) (st : PortSt) : OnlyFab s (toPort s p st) := OnlyFab.ite rfl rfl

theorem bypEval_fab (s : State) : OnlyFab s (bypEval s) := by
  unfold bypEval
  refine OnlyFab.ite rfl (OnlyFab.trans (t := { s with fab := { s.fab with ring := { s.fab.ring with bypEn := _ } } }) rfl (OnlyFab.foldl _ (fun u p => ?_) _ _))
  exact OnlyFab.ite rfl (OnlyFab.ite (toPort_fab u p _) rfl)

theorem retrain_fab (s : State) (p : Nat) : OnlyFab s (retrain s p) := (OnlyFab.trans (modP_fab s p _) (toPort_fab _ p _)).trans (bypEval_fab _)

theorem OnlyFab.cpm {s t : State} (h : OnlyFab s t) : t.cpm = s.cpm := by rw [h]
theorem OnlyFab.ladder {s t : State} (h : OnlyFab s t) : t.ladder = s.ladder := by rw [h]
theorem OnlyFab.halted {s t : State} (h : OnlyFab s t) : t.halted = s.halted := by rw [h]
theorem OnlyFab.tripped {s t : State} (h : OnlyFab s t) : t.tripped = s.tripped := by rw [h]

theorem toPort_ring (s : State) (p : Nat) (st : PortSt) : (toPort s p st).fab.ring = s.fab.ring := by
  unfold toPort
  split <;> rfl

/-- The bypass is never driven while the fast domains are without supplies or at trip (R416, R605). -/
theorem bypEval_tripped {s : State} (h : s.tripped = true) : (bypEval s).fab.ring.bypEn = false := by
  have step (u : State) (p : Nat) : (if (getP u p).st = .up then toPort u p .bypassed else u).fab.ring = u.fab.ring := by
    split
    · exact toPort_ring u p _
    · rfl
  unfold bypEval
  simp only [h, Bool.not_true, Bool.and_false, Bool.false_eq_true, ↓reduceIte, List.foldl_cons, List.foldl_nil]
  split
  · rename_i off
    exact off.symm
  · rw [step, step]

/-- The fast domains down (R605): what stops, and what stays. -/
theorem fastDown_down (s : State) : (fastDown s).halted = true ∧ (fastDown s).tripped = true ∧ (fastDown s).ladder = s.ladder ∧ (fastDown s).cpm = s.cpm ∧
    (fastDown s).fab.ring.bypEn = false := by
  refine ⟨(bypEval_fab _).halted, (bypEval_fab _).tripped, (bypEval_fab _).ladder.trans ?_, (bypEval_fab _).cpm.trans ?_, bypEval_tripped rfl⟩
  · dsimp only
    split <;> rfl
  · dsimp only
    split <;> rfl

/-- An error that is captured changes no power state. -/
theorem raiseErr_cpm (s : State) (u i own code cause obj : Nat) : (raiseErr s u i own code cause obj).cpm = s.cpm := by rw [(raiseErr_only s u i own code cause obj).1]

/-! ### The steps of the ladder (R601 to R605) -/

section
variable (s : State) (i : Nat) (b : Bool)

theorem setCause_ladder : (setCause s i b).ladder = s.ladder := by
  unfold setCause
  split <;> rfl

/-- The cause changes nothing else of the power state. -/
theorem setCause_cpm : (setCause s i b).cpm = { s.cpm with cause := (setCause s i b).cpm.cause } := by
  unfold setCause
  split <;> rfl
end

/-- The step the ladder stands at, by what is on. -/
def stepOf (c : Cpm) : Nat := if c.brakeOn then 3 else if c.throttle.on then 2 else if c.notice.on then 1 else 0

theorem stepOf_le (c : Cpm) : stepOf c ≤ 3 := by
  unfold stepOf
  split_ifs <;> omega

theorem ladderEval_ladder {s : State} (h : s.ladder ≠ 4) : (ladderEval s).ladder = stepOf s.cpm := by
  unfold ladderEval
  rw [if_neg h]
  rfl

theorem ladderEval_cpm (s : State) : (ladderEval s).cpm = { s.cpm with clearAt := (ladderEval s).cpm.clearAt } := by
  have timed (n : Nat) : (if n = 0 ∧ s.ladder ≠ 0 then modCpm s (fun c => { c with clearAt := s.now }) else s).cpm =
      { s.cpm with clearAt := (if n = 0 ∧ s.ladder ≠ 0 then modCpm s (fun c => { c with clearAt := s.now }) else s).cpm.clearAt } := by
    split <;> rfl
  unfold ladderEval
  split
  · rfl
  · exact timed (stepOf s.cpm)

/-- A trip stops the fast domains and lets go of the bypass, and leaves the sources of the clocks as they are. -/
theorem trip_trips {s : State} (h : s.ladder ≠ 4) (i : Nat) :
    (trip s i).ladder = 4 ∧ (trip s i).halted = true ∧ (trip s i).tripped = true ∧ (trip s i).fab.ring.bypEn = false ∧ (trip s i).cpm.osc = s.cpm.osc := by
  have off : (setTripNow (setCause s i true) i true).ladder ≠ 4 := by
    rw [show (setTripNow (setCause s i true) i true).ladder = (setCause s i true).ladder from rfl, setCause_ladder]
    exact h
  have down : trip s i = fastDown { setTripNow (setCause s i true) i true with ladder := 4 } := if_neg off
  obtain ⟨halted, tripped, ladder, cpm, byp⟩ := fastDown_down { setTripNow (setCause s i true) i true with ladder := 4 }
  rw [down]
  refine ⟨ladder, halted, tripped, byp, ?_⟩
  rw [cpm]
  exact (congrArg Cpm.osc (setCause_cpm s i true) :)

/-- Notice and throttle after a LADDER_TICK (R601, R602). -/
def noticeAfter (s : State) (p : Nat) (t : Int) : Step :=
  s.cpm.notice.eval s.now (decide (fieldOf (pwrCtrl s) 47 32 * 1000 < p) || decide ((16 * fieldOf (pwrCtrl s) 31 24 : Int) ≤ t))
    (decide (20 * p ≤ 19 * (fieldOf (pwrCtrl s) 47 32 * 1000) ∧ t ≤ (16 * fieldOf (pwrCtrl s) 31 24 : Int) - 48))

def throttleAfter (s : State) (p : Nat) (t : Int) : Step :=
  s.cpm.throttle.eval s.now (decide ((16 * fieldOf (pwrCtrl s) 23 16 : Int) ≤ t) ||
      (s.cpm.notice.on && decide (s.cpm.notice.at_ + 10000 ≤ s.now) && decide (fieldOf (pwrCtrl s) 47 32 * 1000 < p)))
    (decide (p ≤ fieldOf (pwrCtrl s) 47 32 * 1000 ∧ t ≤ (16 * fieldOf (pwrCtrl s) 23 16 : Int) - 48))

/-- What is entered is counted and logged. -/
def noteStep (entered : Prop) [Decidable entered] (s : State) (count : Cpm → Cpm) (step : Nat) : State :=
  if entered then logStep (modCpm s count) step true else s

theorem noteStep_ladder (c : Prop) [Decidable c] (s : State) (f : Cpm → Cpm) (k : Nat) : (noteStep c s f k).ladder = s.ladder := by
  unfold noteStep
  split <;> rfl

theorem noteStep_cpm (c : Prop) [Decidable c] (s : State) (f : Cpm → Cpm) (k : Nat) : (noteStep c s f k).cpm = if c then f s.cpm else s.cpm := by
  unfold noteStep
  split <;> rfl

/-- The causes as a LADDER_TICK finds them, with notice and throttle evaluated. -/
def evaluated (s : State) (p : Nat) (t : Int) : State :=
  modCpm (setCause (setCause s 0 (decide (fieldOf (pwrCtrl s) 47 32 * 1000 < p))) 1 (decide ((16 * fieldOf (pwrCtrl s) 31 24 : Int) ≤ t)))
    (fun c => { c with notice := noticeAfter s p t, throttle := throttleAfter s p t })

/-- The state a LADDER_TICK brings to the trip or the new step. -/
def ticked (s : State) (p : Nat) (t : Int) : State :=
  noteStep ((throttleAfter s p t).on ∧ s.cpm.throttle.on = false)
    (noteStep ((noticeAfter s p t).on ∧ s.cpm.notice.on = false) (evaluated s p t) (fun c => { c with notices := satAdd 0xFFFF c.notices 1 }) 1)
    (fun c => { c with throttles := satAdd 0xFFFF c.throttles 1 }) 2

/-- LADDER_TICK below the trip: the device trips, or takes the step of what is on. -/
theorem execLadderTick_evals {s : State} {p : Nat} {t : Int} {c : Bool} (h : s.ladder ≠ 4) :
    exec (.ladderTick p t c) s = .next (if c || decide (16 * 110 ≤ t) then trip (ticked s p t) 4 else ladderEval (ticked s p t)) := by
  refine congrArg Host.Outcome.next ((if_neg h).trans ?_)
  have causes (b c : Bool) : setCause (setCause s 0 b) 1 c = modCpm (modCpm s (fun x => { x with cause := x.cause - x.cause / 2 ^ 0 % 2 * 2 ^ 0 + bit b * 2 ^ 0 }))
      (fun x => { x with cause := x.cause - x.cause / 2 ^ 1 % 2 * 2 ^ 1 + bit c * 2 ^ 1 }) := by
    rw [setCause, if_neg (by rw [setCause_ladder]; exact h), setCause, if_neg h]
  unfold ticked evaluated
  rw [causes]
  rfl

end Sys2Proof.Machine
end

section
/-!
PROOF. What firmware serves as it runs again (R501, R508): the mailbox, the table load that waited and the log rings, each with all it may change.
-/

namespace Sys2Proof.Machine

open Sys2Proof

/-! ### The log rings -/

/-- Two states that differ in host memory, the ports' own state and vectors at most. -/
def LogOnly (s t : State) : Prop := t = { s with host := t.host, hosts := t.hosts, vecPending := t.vecPending, vecSent := t.vecSent }

theorem LogOnly.refl (s : State) : LogOnly s s := rfl

theorem LogOnly.trans {s t u : State} (h : LogOnly s t) (k : LogOnly t u) : LogOnly s u := by
  unfold LogOnly at *
  rw [h] at k
  exact k

theorem modH_log (s : State) (p : Nat) (f : HostPort → HostPort) : LogOnly s (modH s p f) := rfl
theorem modLog_log (s : State) (p : Nat) (f : LogRing → LogRing) : LogOnly s (modLog s p f) := rfl

theorem hostWrite_log (s : State) (fid a : Nat) (bs : List Byte) : LogOnly s (hostWrite s fid a bs) := by
  unfold hostWrite
  split <;> rfl

theorem raiseVec_log (s : State) (fid vec : Nat) : LogOnly s (raiseVec s fid vec) := by
  unfold LogOnly
  rw [raiseVec_eq]

theorem ringWrite_log (s : State) (p : Nat) (e : LogEv) : LogOnly s (ringWrite s p e) := by
  have written := (hostWrite_log s (fidOf p 0) (fieldOf (logBase s p) 63 12 * 4096 + 64 * ((getH s p).log.head % logSize s p))
    (logBytes e (getH s p).log.seq (((getH s p).log.head / logSize s p + 1) % 2))).trans (modLog_log _ p (fun L => { L with head := L.head + 1, seq := L.seq + 1 }))
  unfold ringWrite
  dsimp only
  split
  · exact written.trans (raiseVec_log _ _ _)
  · exact written

theorem drainRing_log (n : Nat) (s : State) (p : Nat) : LogOnly s (drainRing n s p) := by
  induction n generalizing s with
  | zero => rfl
  | succ n ih =>
    unfold drainRing
    dsimp only
    split
    · rfl
    · split
      · rfl
      · split
        · exact ((ringWrite_log s p _).trans (modLog_log _ p _)).trans (ih _)
        · exact ((ringWrite_log s p _).trans (modLog_log _ p _)).trans (ih _)

theorem drainLog_log (s : State) (p : Nat) : LogOnly s (drainLog s p) := drainRing_log _ s p

theorem toRing_log (s : State) (p : Nat) (e : LogEv) : LogOnly s (toRing s p e) := by
  unfold toRing
  split
  · rfl
  · split
    · exact ringWrite_log s p e
    · exact (modLog_log s p _).trans (drainLog_log _ p)

theorem LogOnly.tz {s t : State} (h : LogOnly s t) : t.tz = s.tz := by rw [h]
theorem LogOnly.ident {s t : State} (h : LogOnly s t) : t.ident = s.ident := by rw [h]
theorem LogOnly.own {s t : State} (h : LogOnly s t) : t.own = s.own := by rw [h]
theorem LogOnly.pages {s t : State} (h : LogOnly s t) : t.pages = s.pages := by rw [h]
theorem LogOnly.dev {s t : State} (h : LogOnly s t) : t.dev = s.dev := by rw [h]
theorem LogOnly.models {s t : State} (h : LogOnly s t) : t.models = s.models := by rw [h]
theorem LogOnly.regs {s t : State} (h : LogOnly s t) : t.regs = s.regs := by rw [h]
theorem LogOnly.logQ {s t : State} (h : LogOnly s t) : t.logQ = s.logQ := by rw [h]

/-! ### The mailbox (R537 to R539) -/

/-- Two states that differ in queues and counters, the ports' own state and notifications at most. -/
def MboxOnly (s t : State) : Prop := t = { s with tz := t.tz, hosts := t.hosts, notify := t.notify }

theorem MboxOnly.ite {c : Prop} [Decidable c] {s : State} {x y : MboxOut} (hx : MboxOnly s x.2.2) (hy : MboxOnly s y.2.2) : MboxOnly s (if c then x else y).2.2 := by
  split
  · exact hx
  · exact hy

/-- What is done where a counter is the function's own, else the failure. -/
theorem ownCounter_only (s : State) (n : Nat) {x : MboxOut} (hx : MboxOnly s x.2.2) :
    MboxOnly s (match n with | 0 => x | c => mboxFail s c).2.2 := by
  split
  · exact hx
  · rfl

theorem mboxAlloc_only (s : State) (fid : Nat) (req : List Byte) : MboxOnly s (mboxAlloc s fid req).2.2 := by
  unfold mboxAlloc
  refine MboxOnly.ite rfl ?_
  dsimp only
  split <;> rfl

theorem mboxRun_only (s : State) (p : Nat) (req : List Byte) : MboxOnly s (mboxRun s p req).2.2 := by
  unfold mboxRun
  refine MboxOnly.ite rfl (MboxOnly.ite rfl ?_)
  split
  · exact mboxAlloc_only s _ req
  · exact MboxOnly.ite rfl (MboxOnly.ite rfl rfl)
  · exact MboxOnly.ite rfl (ownCounter_only s _ rfl)
  · exact MboxOnly.ite rfl (ownCounter_only s _ rfl)
  · exact ownCounter_only s _ rfl
  · exact MboxOnly.ite rfl (MboxOnly.ite rfl rfl)
  · exact MboxOnly.ite rfl (MboxOnly.ite rfl rfl)
  · exact MboxOnly.ite rfl (MboxOnly.ite rfl rfl)
  · exact MboxOnly.ite rfl (MboxOnly.ite rfl rfl)
  · rfl

/-! ### All that firmware serves -/

/-- Two states that differ in what the mailbox, a table load and the log rings change, at most. -/
def ServeOnly (s t : State) : Prop :=
  t = { s with
    tz := t.tz, hosts := t.hosts, notify := t.notify, host := t.host, vecPending := t.vecPending, vecSent := t.vecSent, regs := t.regs, cx := t.cx, logQ := t.logQ }

theorem ServeOnly.refl (s : State) : ServeOnly s s := rfl

theorem ServeOnly.trans {s t u : State} (h : ServeOnly s t) (k : ServeOnly t u) : ServeOnly s u := by
  unfold ServeOnly at *
  rw [h] at k
  exact k

theorem ServeOnly.foldl {α : Type} (f : State → α → State) (hf : ∀ s x, ServeOnly s (f s x)) (l : List α) (s : State) : ServeOnly s (l.foldl f s) :=
  List.foldlRecOn l f (ServeOnly.refl s) (fun b hb a _ => hb.trans (hf b a))

theorem LogOnly.serve {s t : State} (h : LogOnly s t) : ServeOnly s t := by
  unfold LogOnly at h
  unfold ServeOnly
  rw [h]

theorem MboxOnly.serve {s t : State} (h : MboxOnly s t) : ServeOnly s t := by
  unfold MboxOnly at h
  unfold ServeOnly
  rw [h]

theorem mboxGo_serve (s : State) (p : Nat) : ServeOnly s (mboxGo s p) := by
  have run : ServeOnly s (modH (mboxRun s p (mboxReq s p)).2.2 p (fun h => { h with mboxResult := (mboxRun s p (mboxReq s p)).1, mboxRsp := (mboxRun s p (mboxReq s p)).2.1 })) :=
    (mboxRun_only s p _).serve.trans (modH_log _ p _).serve
  unfold mboxGo
  dsimp only
  split
  · exact run.trans (raiseVec_log _ _ _).serve
  · exact run

theorem mboxServe_serve (s : State) : ServeOnly s (mboxServe s) := by
  refine ServeOnly.foldl _ (fun u p => ?_) [0, 1] s
  split
  · exact ServeOnly.trans (t := setReg u _ _) rfl (mboxGo_serve _ p)
  · rfl

theorem loadFails_serve (s : State) (code : Nat) : ServeOnly s (loadFails s code) := rfl
theorem loadDone_serve (s : State) (slot kinds : Nat) : ServeOnly s (loadDone s slot kinds) := rfl

theorem tableLoad_serve (s : State) (v : W64) : ServeOnly s (tableLoad s v) := by
  unfold tableLoad
  dsimp only
  split
  · exact loadFails_serve s _
  · split
    · exact loadFails_serve s _
    · split
      · exact loadDone_serve s _ _
      · split
        · exact loadFails_serve s _
        · exact loadDone_serve (modCx s _) _ _

theorem tableServe_serve (s : State) : ServeOnly s (tableServe s) := by
  unfold tableServe
  split
  · split
    · exact tableLoad_serve (modCx s _) _
    · rfl
  · rfl

theorem served (s : State) : ServeOnly s ([0, 1].foldl drainLog (tableServe (mboxServe s))) :=
  ((mboxServe_serve s).trans (tableServe_serve _)).trans (ServeOnly.foldl _ (fun u p => (drainLog_log u p).serve) _ _)

/-! ### Firmware runs again -/

theorem resume_serves (s : State) : ServeOnly (extendTimers { s with fwRun := 1 } (s.now - s.fw.since)) (resume s) := served _

theorem resume_fwRun (s : State) : (resume s).fwRun = 1 := by rw [resume_serves s]; rfl
theorem resume_fw (s : State) : (resume s).fw = s.fw := by rw [resume_serves s]; rfl
theorem resume_cpm (s : State) : (resume s).cpm = s.cpm := by rw [resume_serves s]; rfl
theorem resume_ladder (s : State) : (resume s).ladder = s.ladder := by rw [resume_serves s]; rfl

/-- The abort of a handoff as it is noted, before firmware runs again. -/
def abortNoted (s : State) : State :=
  let u := modFw s (fun f => { f with result := Code.fwHandoffAborted, tenon := f.tenon.map (fun t => { t with sealed := false }) })
  logFw u Code.fwHandoffAborted sevInfo (fwSlot u u.fw.active).version (fwSlot u u.fw.goal).version u.fw.goal

theorem handoffAbort_eq (s : State) : handoffAbort s = resume (abortNoted s) := rfl

/-- An abort of the handoff (R512): firmware runs on as before, and FW_HANDOFF_ABORTED is reported. -/
theorem handoffAbort_runs (s : State) : (handoffAbort s).fwRun = 1 ∧ (handoffAbort s).fw.active = s.fw.active ∧ (handoffAbort s).fw.slots = s.fw.slots ∧
    (handoffAbort s).fw.result = Code.fwHandoffAborted := by
  rw [handoffAbort_eq, resume_fwRun, resume_fw]
  exact ⟨rfl, rfl, rfl, rfl⟩

theorem handoffAbort_power (s : State) : (handoffAbort s).cpm = s.cpm ∧ (handoffAbort s).ladder = s.ladder := by
  rw [handoffAbort_eq, resume_cpm, resume_ladder]
  exact ⟨rfl, rfl⟩

end Sys2Proof.Machine
end

section
/-!
PROOF. The emergency ladder, the sideband inputs, the references of the clocks and the gates (R593 to R609), row by row.
-/

namespace Sys2Proof.Machine

open Sys2Proof

/-! ### LADDER_TICK, LADDER_CLEAR and the trips (R601 to R605) -/

section
variable {s : State} {p : Nat} {t : Int}

theorem execLadderTick_atTrip (h : s.ladder = 4) (c : Bool) : exec (.ladderTick p t c) s = .next (setTripNow s 4 (c || decide (16 * 110 ≤ t))) :=
  congrArg Host.Outcome.next (if_pos h)

theorem setCause_brakeOn (s : State) (i : Nat) (b : Bool) : (setCause s i b).cpm.brakeOn = s.cpm.brakeOn := by rw [setCause_cpm]
theorem setCause_notices (s : State) (i : Nat) (b : Bool) : (setCause s i b).cpm.notices = s.cpm.notices := by rw [setCause_cpm]

theorem evaluated_ladder : (evaluated s p t).ladder = s.ladder := (setCause_ladder _ _ _).trans (setCause_ladder _ _ _)

theorem evaluated_brakeOn : (evaluated s p t).cpm.brakeOn = s.cpm.brakeOn := (setCause_brakeOn _ _ _).trans (setCause_brakeOn _ _ _)

theorem evaluated_notices : (evaluated s p t).cpm.notices = s.cpm.notices := (setCause_notices _ _ _).trans (setCause_notices _ _ _)

/-- What LADDER_TICK evaluated, in the state it brings to the new step. -/
theorem ticked_steps : (ticked s p t).ladder = s.ladder ∧ (ticked s p t).cpm.notice = noticeAfter s p t ∧ (ticked s p t).cpm.throttle = throttleAfter s p t ∧
    (ticked s p t).cpm.brakeOn = s.cpm.brakeOn ∧
    ((noticeAfter s p t).on = true → s.cpm.notice.on = false → (ticked s p t).cpm.notices = satAdd 0xFFFF s.cpm.notices 1) := by
  have notice : (evaluated s p t).cpm.notice = noticeAfter s p t := rfl
  have throttle : (evaluated s p t).cpm.throttle = throttleAfter s p t := rfl
  rw [ticked, noteStep_ladder, noteStep_ladder, noteStep_cpm, noteStep_cpm, ← notice, ← throttle, ← evaluated_brakeOn (s := s) (p := p) (t := t),
    ← evaluated_notices (s := s) (p := p) (t := t), ← evaluated_ladder (s := s) (p := p) (t := t)]
  generalize (evaluated s p t).cpm = c
  refine ⟨rfl, ?_, ?_, ?_, fun on off => ?_⟩
  · split <;> split <;> rfl
  · split <;> split <;> rfl
  · split <;> split <;> rfl
  · rw [if_pos (c := c.notice.on = true ∧ s.cpm.notice.on = false) ⟨on, off⟩]
    split <;> rfl

theorem execLadderTick_steps (h : s.ladder ≠ 4) (ht : t < 16 * 110) : exec (.ladderTick p t false) s = .next (ladderEval (ticked s p t)) := by
  rw [execLadderTick_evals h, if_neg (by simpa using ht)]

/-- The step after a LADDER_TICK, and what of the causes it keeps. -/
theorem tick_leaves (h : s.ladder ≠ 4) : (ladderEval (ticked s p t)).cpm.notice = noticeAfter s p t ∧ (ladderEval (ticked s p t)).cpm.throttle = throttleAfter s p t ∧
    (ladderEval (ticked s p t)).cpm.notices = (ticked s p t).cpm.notices ∧ (ladderEval (ticked s p t)).ladder = stepOf (ticked s p t).cpm := by
  obtain ⟨ladder, notice, throttle, -, -⟩ := ticked_steps (s := s) (p := p) (t := t)
  rw [ladderEval_cpm]
  exact ⟨notice, throttle, rfl, ladderEval_ladder (ladder ▸ h)⟩

theorem execLadderTick_notice (h : s.ladder ≠ 4) (ht : t < 16 * 110)
    (hn : fieldOf (pwrCtrl s) 47 32 * 1000 < p ∨ (16 * fieldOf (pwrCtrl s) 31 24 : Nat) ≤ t) :
    ∃ u, exec (.ladderTick p t false) s = .next u ∧ u.cpm.notice.on = true ∧ 1 ≤ u.ladder ∧ u.ladder ≤ 3 ∧
      (s.cpm.notice.on = false → u.cpm.notices = satAdd 0xFFFF s.cpm.notices 1) := by
  have on : (noticeAfter s p t).on = true := by
    unfold noticeAfter Step.eval
    rw [if_pos]
    simpa using hn
  obtain ⟨notice, -, notices, ladder⟩ := tick_leaves (p := p) (t := t) h
  obtain ⟨-, ticked_notice, -, -, counted⟩ := ticked_steps (s := s) (p := p) (t := t)
  refine ⟨_, execLadderTick_steps h ht, notice ▸ on, ?_, ladder ▸ stepOf_le _, fun off => notices.trans (counted on off)⟩
  rw [ladder, stepOf, ticked_notice, on]
  simp only [↓reduceIte]
  split_ifs <;> omega

theorem execLadderTick_throttle (h : s.ladder ≠ 4) (ht : t < 16 * 110) (hn : (16 * fieldOf (pwrCtrl s) 23 16 : Nat) ≤ t) :
    ∃ u, exec (.ladderTick p t false) s = .next u ∧ u.cpm.throttle.on = true ∧ 2 ≤ u.ladder ∧ u.ladder ≤ 3 := by
  have on : (throttleAfter s p t).on = true := by
    unfold throttleAfter Step.eval
    rw [if_pos]
    simp only [Nat.cast_mul, Nat.cast_ofNat] at hn
    simp [hn]
  obtain ⟨-, throttle, -, ladder⟩ := tick_leaves (p := p) (t := t) h
  obtain ⟨-, -, ticked_throttle, -, -⟩ := ticked_steps (s := s) (p := p) (t := t)
  refine ⟨_, execLadderTick_steps h ht, throttle ▸ on, ?_, ladder ▸ stepOf_le _⟩
  rw [ladder, stepOf, ticked_throttle, on]
  simp only [↓reduceIte]
  split_ifs <;> omega

/-- A step that is off stays off while its condition is not met. -/
theorem Step.eval_off (now : Nat) (clear : Bool) : (Step.off.eval now false clear).on = false := by
  unfold Step.eval
  rw [if_neg Bool.false_ne_true]
  split <;> rfl

theorem execLadderTick_quiet (h : s.ladder ≠ 4) (ht : t < 16 * 110) (hp : p ≤ fieldOf (pwrCtrl s) 47 32 * 1000) (hn : t < (16 * fieldOf (pwrCtrl s) 31 24 : Nat))
    (htt : t < (16 * fieldOf (pwrCtrl s) 23 16 : Nat)) (n0 : s.cpm.notice = Step.off) (t0 : s.cpm.throttle = Step.off) (b0 : s.cpm.brakeOn = false) :
    ∃ u, exec (.ladderTick p t false) s = .next u ∧ u.cpm.notice.on = false ∧ u.cpm.throttle.on = false ∧ u.ladder = 0 := by
  simp only [Nat.cast_mul, Nat.cast_ofNat] at hn htt
  have notice_off : (noticeAfter s p t).on = false := by
    have none : (decide (fieldOf (pwrCtrl s) 47 32 * 1000 < p) || decide ((16 * fieldOf (pwrCtrl s) 31 24 : Int) ≤ t)) = false := by simp [hp, hn]
    rw [noticeAfter, none, n0, Step.eval_off]
  have throttle_off : (throttleAfter s p t).on = false := by
    have none : (decide ((16 * fieldOf (pwrCtrl s) 23 16 : Int) ≤ t) ||
        (s.cpm.notice.on && decide (s.cpm.notice.at_ + 10000 ≤ s.now) && decide (fieldOf (pwrCtrl s) 47 32 * 1000 < p))) = false := by simp [hp, htt]
    rw [throttleAfter, none, t0, Step.eval_off]
  obtain ⟨notice, throttle, -, ladder⟩ := tick_leaves (p := p) (t := t) h
  obtain ⟨-, ticked_notice, ticked_throttle, ticked_brake, -⟩ := ticked_steps (s := s) (p := p) (t := t)
  refine ⟨_, execLadderTick_steps h ht, notice ▸ notice_off, throttle ▸ throttle_off, ?_⟩
  rw [ladder, stepOf, ticked_notice, ticked_throttle, ticked_brake, b0, notice_off, throttle_off]
  rfl

theorem execLadderTick_trips (h : s.ladder ≠ 4) : ∃ u, exec (.ladderTick p t true) s = .next u ∧ u.ladder = 4 ∧ u.halted = true := by
  obtain ⟨ladder, -⟩ := ticked_steps (s := s) (p := p) (t := t)
  obtain ⟨four, halted, -⟩ := trip_trips (s := ticked s p t) (ladder ▸ h) 4
  exact ⟨_, (execLadderTick_evals h).trans (congrArg Host.Outcome.next (if_pos (Bool.true_or _))), four, halted⟩

theorem execTrip_critical (h : s.ladder ≠ 4) : ∃ u, exec (.trip true) s = .next u ∧ u.ladder = 4 ∧ u.halted = true ∧ u.tripped = true ∧ u.fab.ring.bypEn = false := by
  obtain ⟨four, halted, tripped, byp, -⟩ := trip_trips h 4
  exact ⟨_, rfl, four, halted, tripped, byp⟩

theorem execTrip_input (h : s.ladder ≠ 4) (hi : (sbIn s 1).effective = true) : ∃ u, exec (.trip false) s = .next u ∧ u.ladder = 4 ∧ u.halted = true := by
  obtain ⟨four, halted, -⟩ := trip_trips h 3
  exact ⟨_, congrArg Host.Outcome.next ((if_neg Bool.false_ne_true).trans (if_pos hi)), four, halted⟩

theorem execTrip_none (hi : (sbIn s 1).effective = false) : exec (.trip false) s = .next s :=
  congrArg Host.Outcome.next ((if_neg Bool.false_ne_true).trans (if_neg (Bool.eq_false_iff.mp hi)))

theorem execTripRestart_starts (h : s.ladder = 4) (h0 : s.cpm.tripNow = 0) (ht : s.cpm.tripGone + 1000000 ≤ s.now) : exec .tripRestart s = .next (coldReset s) :=
  congrArg Host.Outcome.next (if_pos ⟨h, h0, ht⟩)

theorem execTripRestart_waits (h : s.ladder ≠ 4 ∨ s.cpm.tripNow ≠ 0 ∨ s.now < s.cpm.tripGone + 1000000) : exec .tripRestart s = .next s :=
  congrArg Host.Outcome.next (if_neg (by omega))

theorem execCrystalLoss_trips (ho : s.cpm.osc = true) (h : s.ladder ≠ 4) : ∃ u, exec .crystalLoss s = .next u ∧ u.cpm.osc = false ∧ u.ladder = 4 ∧ u.halted = true := by
  obtain ⟨four, halted, -, -, osc⟩ := trip_trips (s := modCpm s (fun c => { c with osc := false })) h 5
  exact ⟨_, congrArg Host.Outcome.next (if_pos ho), osc, four, halted⟩

theorem execCrystalLoss_lost (ho : s.cpm.osc = false) : exec .crystalLoss s = .next s := congrArg Host.Outcome.next (if_neg (Bool.eq_false_iff.mp ho))
end

section
variable {s : State} {step at_ : Nat} (hs : step = 1 ∨ step = 2) (hc : (if step = 1 then s.cpm.notice else s.cpm.throttle).ceased = some at_)
include hc

theorem execLadderClear_waits (h : s.now < at_ + 10000 ∨ s.ladder = 4) : exec (.ladderClear step) s = .next s := by
  refine congrArg Host.Outcome.next (if_pos ?_)
  obtain early | four := h
  · refine .inr (.inl ?_)
    rw [hc]
    simp [early]
  · exact .inl four

include hs in
theorem execLadderClear_clears (on : (if step = 1 then s.cpm.notice else s.cpm.throttle).on = true) (ht : at_ + 10000 ≤ s.now) (h : s.ladder ≠ 4) :
    ∃ u, exec (.ladderClear step) s = .next u ∧
      (step = 1 → u.cpm.notice = Step.off ∧ u.cpm.throttle = s.cpm.throttle) ∧ (step = 2 → u.cpm.throttle = Step.off ∧ u.cpm.notice = s.cpm.notice) := by
  refine ⟨_, congrArg Host.Outcome.next (if_neg ?_), ?_⟩
  · rw [hc]
    simp [on, ht, h, hs]
  · rw [ladderEval_cpm]
    refine ⟨?_, ?_⟩
    · rintro rfl
      exact ⟨rfl, rfl⟩
    · rintro rfl
      exact ⟨rfl, rfl⟩
end

/-! ### BRAKE (R603) -/

section
variable {s : State}

theorem execBrake_rests (h : s.ladder = 4 ∨ s.cpm.brakeOn = true ∨ (sbIn s 0).effective = false) : exec .brake s = .next s := congrArg Host.Outcome.next (if_pos h)

/-- The state BRAKE enters, before a handoff that runs is aborted. -/
def braked (s : State) : State := ladderEval (logStep (modCpm s (fun c => { c with brakeOn := true, brakes := satAdd 0xFFFF c.brakes 1 })) 3 true)

theorem braked_brakes (h : s.ladder ≠ 4) : (braked s).cpm.brakeOn = true ∧ (braked s).ladder = 3 ∧ (braked s).cpm.brakes = satAdd 0xFFFF s.cpm.brakes 1 := by
  have cpm := ladderEval_cpm (logStep (modCpm s (fun c => { c with brakeOn := true, brakes := satAdd 0xFFFF c.brakes 1 })) 3 true)
  exact ⟨congrArg Cpm.brakeOn cpm, ladderEval_ladder (s := logStep (modCpm s _) 3 true) h, congrArg Cpm.brakes cpm⟩

theorem ladderEval_fwRun (s : State) : (ladderEval s).fwRun = s.fwRun := by
  have timed (n : Nat) : (if n = 0 ∧ s.ladder ≠ 0 then modCpm s (fun c => { c with clearAt := s.now }) else s).fwRun = s.fwRun := by
    split <;> rfl
  unfold ladderEval
  split
  · rfl
  · exact timed (stepOf s.cpm)

theorem braked_fwRun : (braked s).fwRun = s.fwRun := ladderEval_fwRun _

theorem braked_halted : (braked s).halted = s.halted := ladderEval_halted _

theorem execBrake_enters (h : s.ladder ≠ 4) (hb : s.cpm.brakeOn = false) (hi : (sbIn s 0).effective = true) :
    exec .brake s = .next (if s.fwRun = 3 ∧ s.halted = false then handoffAbort (braked s) else braked s) := by
  rw [← braked_fwRun (s := s), ← braked_halted (s := s)]
  exact congrArg Host.Outcome.next (if_neg (by simp [h, hb, hi]))

theorem execBrake_brakes (h : s.ladder ≠ 4) (hb : s.cpm.brakeOn = false) (hi : (sbIn s 0).effective = true) :
    ∃ u, exec .brake s = .next u ∧ u.cpm.brakeOn = true ∧ u.ladder = 3 ∧ u.cpm.brakes = satAdd 0xFFFF s.cpm.brakes 1 ∧
      (s.halted = false → s.fwRun = 3 → u.fw.result = Code.fwHandoffAborted) := by
  obtain ⟨on, ladder, brakes⟩ := braked_brakes h
  obtain ⟨-, -, -, result⟩ := handoffAbort_runs (braked s)
  obtain ⟨cpm, step⟩ := handoffAbort_power (braked s)
  rw [execBrake_enters h hb hi]
  refine ⟨_, rfl, ?_⟩
  split
  · rw [cpm, step, result]
    exact ⟨on, ladder, brakes, fun _ _ => rfl⟩
  · rename_i none
    exact ⟨on, ladder, brakes, fun running handoff => absurd ⟨handoff, running⟩ none⟩
end

/-! ### Sideband inputs (R607 to R609) -/

section
variable {s : State} {i : Nat}

/-- What an input reads after a change of it. -/
theorem sbIn_modSb (f : SbIn → SbIn) (h : i < s.cpm.sb.length) : sbIn (modSb s i f) i = f (sbIn s i) := by
  simp [sbIn, modSb, modCpm, List.getD_eq_getElem?_getD, h]

theorem execSidebandInputChange_same {b : Bool} (h : 6 ≤ i ∨ s.cpm.aon = false ∨ (sbIn s i).filtered = b) : exec (.sidebandInputChange i b) s = .next s :=
  congrArg Host.Outcome.next (if_pos h)

theorem execSidebandInputChange_taken {b : Bool} (hi : i < 6) (ha : s.cpm.aon = true) (hf : (sbIn s i).filtered ≠ b) :
    exec (.sidebandInputChange i b) s = .next (
      let u := modSb s i (fun x => { x with filtered := b, offSince := s.now })
      if (sbIn s i).held then u
      else if (match (sbIn s i).last with | some t => decide (t + 100 ≤ s.now) | none => true) then setEffective (modSb u i (fun x => { x with last := some s.now })) i b
      else setEffective (logPower (modSb u i (fun x => { x with held := true, overrun := true })) Code.sbInputOverrun sevInfo i 0) i true) :=
  congrArg Host.Outcome.next (if_neg (by simp [hi, ha, hf]))

section
variable {b : Bool} (hi : i < 6) (ha : s.cpm.aon = true) (hf : (sbIn s i).filtered ≠ b)
include hi ha hf

theorem execSidebandInputChange_held (hh : (sbIn s i).held = true) :
    exec (.sidebandInputChange i b) s = .next (modSb s i (fun x => { x with filtered := b, offSince := s.now })) := by
  rw [execSidebandInputChange_taken hi ha hf]
  exact congrArg Host.Outcome.next (if_pos hh)

theorem execSidebandInputChange_passes (hh : (sbIn s i).held = false) (hl : (sbIn s i).last = none ∨ (∃ t, (sbIn s i).last = some t ∧ t + 100 ≤ s.now)) :
    exec (.sidebandInputChange i b) s =
      .next (setEffective (modSb (modSb s i (fun x => { x with filtered := b, offSince := s.now })) i (fun x => { x with last := some s.now })) i b) := by
  rw [execSidebandInputChange_taken hi ha hf]
  refine congrArg Host.Outcome.next ((if_neg (Bool.eq_false_iff.mp hh)).trans (if_pos ?_))
  obtain never | ⟨t, once, long⟩ := hl
  · rw [never]
  · rw [once]
    exact decide_eq_true long

theorem execSidebandInputChange_overruns (hl : s.cpm.sb.length = 6) {t : Nat} (hh : (sbIn s i).held = false) (ht : (sbIn s i).last = some t) (short : s.now < t + 100) :
    ∃ u, exec (.sidebandInputChange i b) s = .next (setEffective u i true) ∧ (sbIn u i).held = true ∧ (sbIn u i).overrun = true := by
  rw [execSidebandInputChange_taken hi ha hf]
  have fresh : ¬ (match (sbIn s i).last with | some t => decide (t + 100 ≤ s.now) | none => true) = true := by
    rw [ht]
    simp [short]
  refine ⟨_, congrArg Host.Outcome.next ((if_neg (Bool.eq_false_iff.mp hh)).trans (if_neg fresh)), ?_⟩
  have first : i < (modSb s i (fun x => { x with filtered := b, offSince := s.now })).cpm.sb.length := by simp [modSb, modCpm, hl, hi]
  have reads (u : State) (code sev a c : Nat) : sbIn (logPower u code sev a c) i = sbIn u i := rfl
  rw [reads, sbIn_modSb _ first]
  exact ⟨rfl, rfl⟩
end

theorem execOverrunRelease_waits (h : (sbIn s i).held = false ∨ (sbIn s i).filtered = true ∨ s.now < (sbIn s i).offSince + 10000) : exec (.overrunRelease i) s = .next s := by
  refine congrArg Host.Outcome.next (if_neg ?_)
  rintro ⟨held, off, long⟩
  rw [held, off] at h
  simp [Nat.not_lt.mpr long] at h

theorem execOverrunRelease_releases (hh : (sbIn s i).held = true) (hf : (sbIn s i).filtered = false) (ht : (sbIn s i).offSince + 10000 ≤ s.now) :
    exec (.overrunRelease i) s = .next (setEffective (modSb s i (fun x => { x with held := false, last := some s.now })) i false) :=
  congrArg Host.Outcome.next (if_pos ⟨hh, hf, ht⟩)

theorem execSidebandStuck_records (hi : i < 2) (he : (sbIn s i).effective = true) (hs : (sbIn s i).stuck = false) (ht : (sbIn s i).onSince + (sbIn s i).limit * 1000000 < s.now) :
    exec (.sidebandStuck i) s = .next (raiseErr (modSb s i (fun x => { x with stuck := true })) 0x0B i sevDegraded Code.sbInputStuck 0x07 0) :=
  congrArg Host.Outcome.next (if_neg (by simp [hi, he, hs, ht]))

theorem execSidebandStuck_rests (h : 2 ≤ i ∨ (sbIn s i).effective = false ∨ (sbIn s i).stuck = true) : exec (.sidebandStuck i) s = .next s :=
  congrArg Host.Outcome.next (if_pos (h.imp_right (Or.imp_right .inl)))
end

/-! ### References (R593 to R595) -/

section
variable {s : State} {k : Nat}

theorem coastPll_contains (s : State) (i j : Nat) : (coastPll s i).cpm.coast.contains j = (decide (j = i) || s.cpm.coast.contains j) := by
  simp only [coastPll, modCpm]
  split
  · rename_i h
    by_cases e : j = i
    · subst e
      simp only [h, Bool.or_true]
    · simp [e]
  · simp [List.contains_eq_mem, List.mem_append, or_comm]

theorem coastPll_ref100 (s : State) (i : Nat) : (coastPll s i).cpm.ref100 = s.cpm.ref100 := rfl

theorem relockPll_ref100 (s : State) (i : Nat) : (relockPll s i).cpm.ref100 = s.cpm.ref100 := by
  unfold relockPll
  split <;> rfl

theorem relockPll_contains (s : State) (i j : Nat) : (relockPll s i).cpm.coast.contains j = (decide (j ≠ i) && s.cpm.coast.contains j) := by
  unfold relockPll
  split
  · change (s.cpm.coast.filter (fun x => x != i)).contains j = _
    simp [List.contains_eq_mem, List.mem_filter, and_comm]
  · rename_i h
    by_cases e : j = i
    · subst e
      simpa using h
    · simp [e]

theorem execReferenceLoss_pll (ht : s.tripped = false) (hk : k < 3) (hc : s.cpm.coast.contains k = false) :
    exec (.referenceLoss k) s = .next (raiseErr (coastPll s k) 0x0A k sevDegraded Code.clkRefLost 0x02 0) :=
  congrArg Host.Outcome.next ((if_neg (Bool.eq_false_iff.mp ht)).trans ((if_pos hk).trans (if_neg (Bool.eq_false_iff.mp hc))))

theorem execReferenceLoss_none (h : s.tripped = true ∨ 8 ≤ k ∨ (k < 3 ∧ s.cpm.coast.contains k = true)) : exec (.referenceLoss k) s = .next s := by
  refine congrArg Host.Outcome.next ?_
  by_cases tripped : s.tripped = true
  · exact if_pos tripped
  · refine (if_neg tripped).trans ?_
    obtain t | big | ⟨small, coasts⟩ := h
    · exact absurd t tripped
    · rw [if_neg (by omega), if_neg (by omega), if_neg (by omega)]
    · rw [if_pos small, if_pos coasts]

theorem execReferenceLoss_common (ht : s.tripped = false) (hr : s.cpm.ref100 = true) : ∃ u, exec (.referenceLoss 3) s = .next u ∧ u.cpm.ref100 = false ∧
    u.cpm.coast.contains 0 = true ∧ u.cpm.coast.contains 1 = true ∧ u.cpm.coast.contains 2 = true := by
  refine ⟨_, congrArg Host.Outcome.next ((if_neg (Bool.eq_false_iff.mp ht)).trans ((if_neg (by decide)).trans ((if_pos rfl).trans (if_neg (by simp [hr]))))), ?_⟩
  rw [raiseErr_cpm]
  simp only [List.foldl_cons, List.foldl_nil, coastPll_contains, coastPll_ref100]
  exact ⟨rfl, by simp, by simp, by simp⟩

theorem cleared_div (n k : Nat) : (n - n / 2 ^ k % 2 * 2 ^ k) / 2 ^ k = n / 2 ^ k - n / 2 ^ k % 2 := by
  have bit_le : 2 ^ k * (n / 2 ^ k % 2) ≤ n := (Nat.mul_le_mul_left _ (Nat.mod_le _ _)).trans (Nat.mul_div_le n _)
  rw [Nat.mul_comm (n / 2 ^ k % 2), Nat.sub_mul_div_of_le _ _ _ bit_le]

theorem natBit_cleared (n k : Nat) : natBit (n - n / 2 ^ k % 2 * 2 ^ k) k = false := by
  rw [natBit, cleared_div, beq_eq_false_iff_ne]
  omega

theorem natBit_set (n k : Nat) : natBit (n - n / 2 ^ k % 2 * 2 ^ k + 2 ^ k) k = true := by
  rw [natBit, Nat.add_div_right _ (Nat.two_pow_pos k), cleared_div, beq_iff_eq]
  omega

theorem execReferenceLoss_fabric (ht : s.tripped = false) (hk : k < 4) : ∃ u, exec (.referenceLoss (4 + k)) s = .next u ∧ natBit u.cpm.fabRef k = false := by
  have retrains (u : State) (p : Nat) : OnlyFab u (if (getP u p).st = .disabled ∨ (getP u p).st = .failed then u else retrain u p) := by
    split
    · exact OnlyFab.refl u
    · exact retrain_fab u p
  refine ⟨_, congrArg Host.Outcome.next ((if_neg (Bool.eq_false_iff.mp ht)).trans ((if_neg (by omega)).trans ((if_neg (by omega)).trans (if_pos (by omega))))), ?_⟩
  dsimp only
  rw [(OnlyFab.foldl _ retrains _ _).cpm, Nat.add_sub_cancel_left]
  exact natBit_cleared _ _

theorem execReferenceReturn_common : ∃ u, exec (.referenceReturn 3) s = .next u ∧ u.cpm.ref100 = true ∧ u.cpm.coast.contains 0 = false ∧ u.cpm.coast.contains 1 = false ∧
    u.cpm.coast.contains 2 = false := by
  refine ⟨_, congrArg Host.Outcome.next ((if_neg (by decide)).trans (if_pos rfl)), ?_⟩
  simp only [List.foldl_cons, List.foldl_nil, relockPll_contains, relockPll_ref100]
  exact ⟨rfl, by simp, by simp, by simp⟩

theorem execReferenceReturn_fabric (hk : k < 4) : ∃ u, exec (.referenceReturn (4 + k)) s = .next u ∧ natBit u.cpm.fabRef k = true := by
  refine ⟨_, congrArg Host.Outcome.next ((if_neg (by omega)).trans ((if_neg (by omega)).trans (if_pos (by omega)))), ?_⟩
  rw [Nat.add_sub_cancel_left]
  exact natBit_set _ _
end

/-! ### Gates (R596 to R598) -/

section
variable {s : State} {who : Req} {n : Nat}

/-- The tiles follow the gates where they run. -/
theorem followed_keeps {β : Type} (g : State → β) (hg : ∀ s t v, g (setT s t v) = g s) (s : State) : g (if s.halted then s else gateTiles s) = g s :=
  ite_keeps g rfl (gateTiles_keeps g hg s)

theorem gateWrite_virtual (v : W64) (h : isPhysical who = false) : gateWrite s who v = s := if_pos h

theorem execGateHoldOff_none (h : isPhysical who = false ∨ s.tripped = true) : exec (.gateHoldOff who n) s = .next s := by
  refine congrArg Host.Outcome.next ?_
  by_cases tripped : s.tripped = true
  · exact if_pos tripped
  · exact (if_neg tripped).trans (gateWrite_virtual _ (h.resolve_right tripped))

theorem execGateRelease_none (h : isPhysical who = false ∨ s.tripped = true) : exec (.gateRelease who n) s = .next s := by
  refine congrArg Host.Outcome.next ?_
  by_cases tripped : s.tripped = true
  · exact if_pos tripped
  · exact (if_neg tripped).trans (gateWrite_virtual _ (h.resolve_right tripped))

/-- The command of CPM_GATE_CMD that a row writes: hold off or release, of a node (R598). -/
theorem gateCommand (hold : Bool) (n : Nat) (h : n < 4096) : let v : W64 := BitVec.ofNat 64 ((if hold then 0x11000 else 0x12000) + n % 4096)
    bitOf v 16 = true ∧ fieldOf v 13 12 = (if hold then 1 else 2) ∧ fieldOf v 11 0 = n := by
  cases hold <;> simp [bitOf, fieldOf, BitVec.toNat_ofNat] <;> omega

/-- CPM_GATE_CMD as a hold-off or a release of a node leaves it. -/
def gateNoted (s : State) (op n : Nat) : State := setReg s 0x20008 (BitVec.ofNat 64 (op * 4096 + n))

section
variable (hw : isPhysical who = true) (ht : s.tripped = false) (hn : n < 4096)
include hw ht hn

theorem execGateHoldOff_holds : exec (.gateHoldOff who n) s = .next (
    match gateBelow n with
    | none => modCpm (gateNoted s 1 n) (fun c => { c with gateResult := Code.tzFormat })
    | some kids =>
      if kids.all (fun k => s.cpm.held.contains k) then
        let u := modCpm (gateNoted s 1 n) (fun c => { c with gateResult := 0, held := if c.held.contains n then c.held else c.held ++ [n] })
        if u.halted then u else gateTiles u
      else modCpm (gateNoted s 1 n) (fun c => { c with gateResult := Code.clkChildActive })) := by
  obtain ⟨go, op, node⟩ := gateCommand true n hn
  simp only [↓reduceIte] at go op node
  refine congrArg Host.Outcome.next ((if_neg (Bool.eq_false_iff.mp ht)).trans ?_)
  unfold gateWrite
  simp only [hw, go, op, node, gateNoted, ↓reduceIte, reduceCtorEq, true_or, Nat.one_ne_zero]
  rfl

theorem execGateRelease_releases {kids : List Nat} (hk : gateBelow n = some kids) : exec (.gateRelease who n) s = .next (
    let u := modCpm (gateNoted s 2 n) (fun c =>
      { c with gateResult := 0, held := c.held.filter (fun x => !((n :: kids ++ kids.flatMap (fun k => (gateBelow k).getD [])).contains x)) })
    if u.halted then u else gateTiles u) := by
  obtain ⟨go, op, node⟩ := gateCommand false n hn
  simp only [Bool.false_eq_true, ↓reduceIte] at go op node
  refine congrArg Host.Outcome.next ((if_neg (Bool.eq_false_iff.mp ht)).trans ?_)
  unfold gateWrite
  simp only [hw, go, op, node, hk, gateNoted, ↓reduceIte, reduceCtorEq, or_true, OfNat.ofNat_ne_zero, OfNat.ofNat_ne_one]
  rfl

theorem execGateHoldOff_noNode (hk : gateBelow n = none) : ∃ u, exec (.gateHoldOff who n) s = .next u ∧ u.cpm.gateResult = Code.tzFormat ∧ u.cpm.held = s.cpm.held := by
  rw [execGateHoldOff_holds hw ht hn, hk]
  exact ⟨_, rfl, rfl, rfl⟩

variable {kids : List Nat} (hk : gateBelow n = some kids)
include hk

theorem execGateHoldOff_held (hc : kids.all (fun k => s.cpm.held.contains k) = true) :
    ∃ u, exec (.gateHoldOff who n) s = .next u ∧ u.cpm.gateResult = 0 ∧ u.cpm.held.contains n = true ∧ u.tz = s.tz := by
  rw [execGateHoldOff_holds hw ht hn, hk]
  refine ⟨_, congrArg Host.Outcome.next (if_pos hc), ?_⟩
  dsimp only
  rw [followed_keeps State.cpm setT_cpm, followed_keeps State.tz setT_tz]
  refine ⟨rfl, ?_, rfl⟩
  change (if s.cpm.held.contains n then s.cpm.held else s.cpm.held ++ [n]).contains n = true
  split
  · assumption
  · simp

theorem execGateHoldOff_childActive (hc : kids.all (fun k => s.cpm.held.contains k) = false) :
    ∃ u, exec (.gateHoldOff who n) s = .next u ∧ u.cpm.gateResult = Code.clkChildActive ∧ u.cpm.held = s.cpm.held := by
  rw [execGateHoldOff_holds hw ht hn, hk]
  exact ⟨_, congrArg Host.Outcome.next (if_neg (Bool.eq_false_iff.mp hc)), rfl, rfl⟩

theorem execGateRelease_frees : ∃ u, exec (.gateRelease who n) s = .next u ∧ u.cpm.gateResult = 0 ∧ u.cpm.held.contains n = false ∧ ∀ k ∈ kids, u.cpm.held.contains k = false := by
  refine ⟨_, execGateRelease_releases hw ht hn hk, ?_⟩
  dsimp only
  rw [followed_keeps State.cpm setT_cpm]
  have freed (x : Nat) (hx : x ∈ n :: kids) : ((s.cpm.held.filter (fun x => !((n :: kids ++ kids.flatMap (fun k => (gateBelow k).getD [])).contains x))).contains x) = false := by
    simp only [List.contains_eq_mem, decide_eq_false_iff_not, List.mem_filter, Bool.not_eq_true', List.mem_append, not_and, not_not]
    exact fun _ => .inl hx
  exact ⟨rfl, freed n List.mem_cons_self, fun k hk => freed k (List.mem_cons_of_mem n hk)⟩
end

theorem gateBelow_leaf {t e : Nat} (ht : t < 32) (he : e < 6) : gateBelow (0x100 + 8 * t + e) = some [] := by
  unfold gateBelow
  dsimp only
  rw [if_neg (by omega), if_neg (by omega), if_pos (by omega)]
end

/-- Settles O54, by the lemma of each row and of each of its outcomes. -/
theorem ladderRows : Obligations.LadderRows := by
  unfold Obligations.LadderRows
  intro s
  exact ⟨fun p t c h => execLadderTick_atTrip h c,
    fun p t h ht => ⟨execLadderTick_notice h ht, execLadderTick_throttle h ht, execLadderTick_quiet h ht⟩,
    fun p t h => ⟨execLadderTick_trips h, execTrip_critical h⟩, execTrip_input, execTrip_none,
    fun step t hs hc => ⟨execLadderClear_clears hs hc, execLadderClear_waits hc⟩,
    execBrake_rests, execBrake_brakes, execTripRestart_starts, execTripRestart_waits, fun i b => execSidebandInputChange_same,
    fun i b hi ha hf hl => ⟨execSidebandInputChange_held hi ha hf, execSidebandInputChange_passes hi ha hf, fun t => execSidebandInputChange_overruns hi ha hf hl⟩,
    fun i => execOverrunRelease_waits, fun i => execOverrunRelease_releases, fun i => execSidebandStuck_records, fun i => execSidebandStuck_rests,
    fun k => execReferenceLoss_pll, fun k => execReferenceLoss_none, execReferenceLoss_common, fun k => execReferenceLoss_fabric, execReferenceReturn_common,
    fun k => execReferenceReturn_fabric, execCrystalLoss_lost, execCrystalLoss_trips, fun who n h => ⟨execGateHoldOff_none h, execGateRelease_none h⟩,
    fun who n hw ht hn => ⟨execGateHoldOff_noNode hw ht hn, fun kids => execGateHoldOff_held hw ht hn, fun kids => execGateHoldOff_childActive hw ht hn,
      fun kids => execGateRelease_frees hw ht hn⟩,
    fun t e => gateBelow_leaf⟩

end Sys2Proof.Machine
end

section
/-!
PROOF. Start-up before the host, supplies and core voltage, idle units, telemetry and the TAP (R567, R610 to R633), row by row.
-/

namespace Sys2Proof.Machine

open Sys2Proof

section
variable {s : State}

/-! ### The always-on domain, the supplies and the crystal (R567, R600, R623) -/

theorem execAonPowerGood_up (h : s.cpm.aon = true) : exec .aonPowerGood s = .next s := congrArg Host.Outcome.next (if_pos h)

theorem execAonPowerGood_starts (h : s.cpm.aon = false) :
    exec .aonPowerGood s = .next { coldReset s with cpm := { (coldReset s).cpm with aon := true, supplies := false } } :=
  congrArg Host.Outcome.next (if_neg (Bool.eq_false_iff.mp h))

theorem execAonPowerLoss_down : ∃ t, exec .aonPowerLoss s = .next t ∧ t.halted = true ∧ t.tripped = true ∧ t.cpm.aon = false ∧ t.cpm.osc = false ∧ t.cpm.supplies = false ∧
    t.fab.ring.bypEn = false := by
  obtain ⟨halted, tripped, -, cpm, byp⟩ := fastDown_down (modCpm s (fun c => { c with aon := false, osc := false, rom := false, supplies := false }))
  refine ⟨_, rfl, halted, tripped, ?_, ?_, ?_, byp⟩ <;> rw [cpm] <;> rfl

theorem execSupplyDip_down (h : s.cpm.supplies = true) : ∃ t, exec .supplyDip s = .next t ∧ t.halted = true ∧ t.tripped = true ∧ t.cpm.supplies = false ∧ t.ladder = s.ladder ∧
    t.fab.ring.bypEn = false := by
  obtain ⟨halted, tripped, ladder, cpm, byp⟩ := fastDown_down (modCpm s (fun c => { c with supplies := false }))
  exact ⟨_, congrArg Host.Outcome.next (if_pos h), halted, tripped, congrArg Cpm.supplies cpm, ladder, byp⟩

theorem execSupplyDip_none (h : s.cpm.supplies = false) : exec .supplyDip s = .next s := congrArg Host.Outcome.next (if_neg (Bool.eq_false_iff.mp h))

theorem execOscillatorQualification_counts (ha : s.cpm.aon = true) (hl : s.ladder ≠ 4) (ho : s.cpm.osc = false) (b : Bool) :
    exec (.oscillatorQualification b) s = .next (if b then modCpm s (fun c => { c with osc := true, oscReason := 0 })
      else modCpm s (fun c => { c with oscReason := Code.clkOscNotStable })) :=
  congrArg Host.Outcome.next ((if_neg (by simp [ha])).trans ((if_neg hl).trans (if_neg (Bool.eq_false_iff.mp ho))))

theorem execOscillatorQualification_rests {b : Bool} (h : s.cpm.aon = false ∨ (s.cpm.osc = true ∧ s.ladder ≠ 4)) : exec (.oscillatorQualification b) s = .next s := by
  refine congrArg Host.Outcome.next ?_
  by_cases off : s.cpm.aon = false
  · exact if_pos off
  · obtain ⟨osc, ladder⟩ := h.resolve_left off
    exact (if_neg off).trans ((if_neg ladder).trans (if_pos osc))

theorem execBootRomDone_done (ho : s.cpm.osc = true) (hr : s.cpm.rom = false) (ok : Bool) :
    exec (.bootRomDone ok) s = .next (if ok then modCpm s (fun c => { c with rom := true }) else enterFatal s 0) :=
  congrArg Host.Outcome.next (if_neg (by simp [ho, hr]))

theorem execBootRomDone_rests {ok : Bool} (h : s.cpm.osc = false ∨ s.cpm.rom = true) : exec (.bootRomDone ok) s = .next s := congrArg Host.Outcome.next (if_pos h)

theorem execFastSuppliesInRange_starts (ha : s.cpm.aon = true) (hl : s.ladder ≠ 4) (hs : s.cpm.supplies = false) :
    exec .fastSuppliesInRange s =
      .next (modCpm s (fun c => { c with supplies := true, avs := 850, avsDue := some (max s.part.avsTarget 825), avsAt := s.now, avsLate := false })) :=
  congrArg Host.Outcome.next (if_neg (by simp [ha, hl, hs]))

theorem execFastSuppliesInRange_rests (h : s.cpm.aon = false ∨ s.ladder = 4 ∨ s.cpm.supplies = true) : exec .fastSuppliesInRange s = .next s :=
  congrArg Host.Outcome.next (if_pos h)

/-! ### The core voltage (R624 to R626) -/

theorem execAvsAcknowledge_none (h : s.cpm.avsDue = none) : exec .avsAcknowledge s = .next s := by
  refine congrArg Host.Outcome.next ?_
  rw [h]

theorem execAvsAckTimeout_none (h : s.cpm.avsDue = none) : exec .avsAckTimeout s = .next s := congrArg Host.Outcome.next (if_neg (by simp [h]))

theorem execAvsAckTimeout_early (ht : s.now < s.cpm.avsAt + 10000) : exec .avsAckTimeout s = .next s := congrArg Host.Outcome.next (if_neg (by simp [ht]))

section
variable {v : Nat} (h : s.cpm.avsDue = some v)
include h

theorem execAvsAckTimeout_late (ht : s.cpm.avsAt + 10000 ≤ s.now) : exec .avsAckTimeout s = .next (modCpm s (fun c => { c with avsDue := none, avsLate := true })) :=
  congrArg Host.Outcome.next (if_pos (by simp [h, ht]))

theorem execAvsAcknowledge_steps : exec .avsAcknowledge s = .next (modCpm s (fun c =>
    { c with avs := v, avsDue := if v = s.part.avsTarget then none else some (max s.part.avsTarget (v - 25)), avsAt := s.now, avsLate := false })) := by
  refine congrArg Host.Outcome.next ?_
  rw [h]

theorem execAvsAcknowledge_ends (ht : v = s.part.avsTarget) :
    exec .avsAcknowledge s = .next (modCpm s (fun c => { c with avs := v, avsDue := none, avsAt := s.now, avsLate := false })) := by
  rw [execAvsAcknowledge_steps h, if_pos ht]

theorem execAvsAcknowledge_lowers (ht : s.part.avsTarget < v) :
    ∃ t w, exec .avsAcknowledge s = .next t ∧ t.cpm.avs = v ∧ t.cpm.avsDue = some w ∧ w < v ∧ v ≤ w + 25 ∧ s.part.avsTarget ≤ w :=
  ⟨_, max s.part.avsTarget (v - 25), execAvsAcknowledge_steps h, rfl, if_neg (Nat.ne_of_gt ht), by omega, by omega, Nat.le_max_left _ _⟩
end

/-! ### The stacks and the link (R567) -/

theorem execStackTrainingComplete_rests {l : List Nat} (h : s.cpm.rom = false ∨ s.cpm.supplies = false ∨ s.cpm.trained = true ∨ s.halted = true) :
    exec (.stackTrainingComplete l) s = .next s := congrArg Host.Outcome.next (if_pos h)

section
variable (hr : s.cpm.rom = true) (hs : s.cpm.supplies = true) (ht : s.cpm.trained = false) (hh : s.halted = false)
include hr hs ht hh

theorem execStackTrainingComplete_sound : exec (.stackTrainingComplete []) s = .next (modCpm s (fun c => { c with trained := true })) :=
  congrArg Host.Outcome.next (if_neg (by simp [hr, hs, ht, hh]))

/-- Two failed halves are fatal. -/
theorem execStackTrainingComplete_failed : ∃ t, exec (.stackTrainingComplete [0, 3]) s = .next t ∧ t.halted = true := by
  refine ⟨_, congrArg Host.Outcome.next (if_neg (by simp [hr, hs, ht, hh])), ?_⟩
  have both : [0, 1].filter (fun h => [0, 3].any (fun k => k < 6 && k / 3 == h)) = [0, 1] := rfl
  dsimp only
  rw [both]
  split
  · rfl
  · rename_i stopped
    simpa using stopped
end

theorem execPcieLinkTrained_up {p w r : Nat} (hp : p < 2) (ht : s.tripped = false) (hr : s.cpm.trained = true) (he : (sbIn s (4 + p)).effective = false)
    (hw : 1 ≤ w) (hw' : w ≤ 16) (h25 : 25 ≤ r) (h640 : r ≤ 640) : exec (.pcieLinkTrained p w r) s = .next (modH s p (fun h => { h with link := true, width := w, rate := r })) := by
  have takes : ¬ (2 ≤ p ∨ s.tripped = true ∨ s.cpm.trained = false ∨ (sbIn s (4 + p)).effective = true ∨ w = 0 ∨ 16 < w ∨ r < 25 ∨ 640 < r) := by
    simp [ht, hr, he]
    omega
  exact congrArg Host.Outcome.next (if_neg takes)

theorem execPcieLinkTrained_rests {p w r : Nat} (h : 2 ≤ p ∨ s.tripped = true ∨ s.cpm.trained = false ∨ (sbIn s (4 + p)).effective = true) :
    exec (.pcieLinkTrained p w r) s = .next s :=
  congrArg Host.Outcome.next (if_pos (h.imp_right (Or.imp_right (Or.imp_right .inl))))

/-! ### Idle units and telemetry (R600, R610 to R612) -/

theorem execIdleLowPowerEntry_notes (hh : s.halted = false) {u i : Nat} (hu : u < 4) (hi : i < (if u = 2 then 8 else if u = 3 then (if s.fl.tier = 0 then 0 else 16) else 192)) :
    ∃ t, exec (.idleLowPowerEntry u i) s = .next t ∧ (u, i) ∈ t.cpm.idle ∧ ∀ x ∈ t.cpm.idle, x = (u, i) ∨ x ∈ s.cpm.idle := by
  refine ⟨_, alive_leads hh (if_neg (not_or.mpr ⟨Nat.not_le.mpr hu, Nat.not_le.mpr hi⟩)), ?_⟩
  rw [retag_cpm]
  refine ⟨List.mem_append_right _ (List.mem_singleton_self _), fun x hx => ?_⟩
  obtain kept | new := List.mem_append.mp hx
  · exact .inr (List.mem_filter.mp kept).1
  · exact .inl (List.mem_singleton.mp new)

section
variable {a b c d : List Nat}

theorem execTelemetrySample_early (ht : s.now < s.cpm.telem.lastAt + fieldOf (telemCtrl s) 15 8 * 1000) : exec (.telemetrySample a b c d) s = .next s :=
  congrArg Host.Outcome.next (if_pos ht)

variable (ht : s.cpm.telem.lastAt + fieldOf (telemCtrl s) 15 8 * 1000 ≤ s.now)
include ht

theorem execTelemetrySample_keeps (hoff : bitOf (telemCtrl s) 0 = false ∨ s.halted = true) :
    exec (.telemetrySample a b c d) s = .next (modCpm s (fun c' => { c' with telem := { c'.telem with last := telemBytes s a b c d, lastAt := s.now } })) :=
  congrArg Host.Outcome.next ((if_neg (Nat.not_lt.mpr ht)).trans (if_pos hoff))

/-- A record that is due and may be sent, as it is numbered. -/
def numbered (s : State) (bytes : List Byte) : State :=
  modCpm (modCpm s (fun c => { c with telem := { c.telem with last := bytes, lastAt := s.now } })) (fun c => { c with telem := { c.telem with seq := c.telem.seq + 1 } })

theorem execTelemetrySample_sends (hon : bitOf (telemCtrl s) 0 = true) (hh : s.halted = false) :
    exec (.telemetrySample a b c d) s =
      .next (telemToFabric (telemToHost (numbered s (telemBytes s a b c d)) (telemBytes s a b c d)) (telemBytes s a b c d)) :=
  congrArg Host.Outcome.next ((if_neg (Nat.not_lt.mpr ht)).trans (if_neg (by simp [hon, hh])))
end

theorem telemToFabric_nowhere {bytes : List Byte} (h : fieldOf (telemCtrl s) 46 32 = noDevice) : telemToFabric s bytes = s := if_pos h

/-- A record that has room goes to the host (R611, R612). -/
theorem telemToHost_written {bytes : List Byte} (hs : telemShare s 0 = true) (ho : s.orphans.contains (telemPort s) = false)
    (hr : s.cpm.telem.head - s.cpm.telem.tail < telemSize s) (hf : s.resetting (fidOf (telemPort s) 0) = false) :
    telemToHost s bytes = modCpm (telemSent { s with host := s.host.write (hostKey (fidOf (telemPort s) 0)
      (fieldOf (telemBuf s) 63 12 * 4096 + 256 * (s.cpm.telem.head % telemSize s))) bytes } 0) (fun c => { c with telem := { c.telem with head := c.telem.head + 1 } }) := by
  unfold telemToHost
  dsimp only
  have room : ¬ (telemShare s 0 = false ∨ s.orphans.contains (telemPort s) = true ∨ telemSize s ≤ s.cpm.telem.head - s.cpm.telem.tail) := by
    rw [hs, ho]
    simp [hr]
  rw [if_neg room, hostWrite, if_neg (Bool.eq_false_iff.mp hf)]

theorem telemToHost_regs (s : State) (bytes : List Byte) : (telemToHost s bytes).regs = s.regs := by
  unfold telemToHost
  dsimp only
  split
  · rfl
  · exact (hostWrite_log s _ _ _).regs

theorem telemCtrl_regs {t : State} (h : t.regs = s.regs) : telemCtrl t = telemCtrl s := by rw [telemCtrl, h, ← telemCtrl]

theorem telemShare_numbered (l : List Byte) (path : Nat) : telemShare (numbered s l) path = telemShare s path := by
  unfold telemShare
  rfl

theorem execTelemetrySample_writes {a b c d : List Nat} (ht : s.cpm.telem.lastAt + fieldOf (telemCtrl s) 15 8 * 1000 ≤ s.now) (hon : bitOf (telemCtrl s) 0 = true)
    (hh : s.halted = false) (hd : fieldOf (telemCtrl s) 46 32 = noDevice) (hs : telemShare s 0 = true) (ho : s.orphans.contains (telemPort s) = false)
    (hr : s.cpm.telem.head - s.cpm.telem.tail < telemSize s) (hf : s.resetting (fidOf (telemPort s) 0) = false) :
    ∃ t, exec (.telemetrySample a b c d) s = .next t ∧ t.cpm.telem.seq = s.cpm.telem.seq + 1 ∧ t.cpm.telem.head = s.cpm.telem.head + 1 ∧ t.host = s.host.write (hostKey
      (fidOf (telemPort s) 0) (fieldOf (telemBuf s) 63 12 * 4096 + 256 * (s.cpm.telem.head % telemSize s))) (telemBytes s a b c d) := by
  generalize bytes : telemBytes s a b c d = l
  have share : telemShare (numbered s l) 0 = true := by rw [telemShare_numbered, hs]
  have written := telemToHost_written (s := numbered s l) (bytes := l) share ho hr hf
  have ctrl : telemCtrl (telemToHost (numbered s l) l) = telemCtrl s := telemCtrl_regs (telemToHost_regs _ _)
  have nowhere : telemToFabric (telemToHost (numbered s l) l) l = telemToHost (numbered s l) l := telemToFabric_nowhere (by rw [ctrl, hd])
  refine ⟨_, execTelemetrySample_sends ht hon hh, ?_⟩
  rw [bytes, nowhere, written]
  exact ⟨rfl, rfl, rfl⟩

/-! ### The TAP and the output balls (R628, R632, R633) -/

theorem tapActs_bypass {op : Nat} (h1 : op ≠ 1) (h2 : op ≠ 2) (h : 6 < op ∨ s.cfgState ≠ 0) : tapActs s op = 0xFF := by
  unfold tapActs
  rw [if_neg (by omega), if_neg (by omega)]

theorem ballNow_off (h : s.cpm.aon = false) (b : Ball) : ballNow s b = .highZ := if_pos h
end

/-- Settles O53, by the lemma of each row and of each of its outcomes. -/
theorem powerUpRows : Obligations.PowerUpRows := by
  unfold Obligations.PowerUpRows
  intro s
  exact ⟨execAonPowerGood_up, execAonPowerGood_starts, execAonPowerLoss_down, execSupplyDip_down, execSupplyDip_none,
    fun ha hl ho => ⟨execOscillatorQualification_counts ha hl ho true, execOscillatorQualification_counts ha hl ho false⟩, fun b => execOscillatorQualification_rests,
    fun ho hr => ⟨execBootRomDone_done ho hr true, execBootRomDone_done ho hr false⟩, fun b => execBootRomDone_rests,
    execFastSuppliesInRange_starts, execFastSuppliesInRange_rests, fun h => ⟨execAvsAcknowledge_none h, execAvsAckTimeout_none h⟩,
    fun v h => ⟨execAvsAckTimeout_late h, execAvsAckTimeout_early, execAvsAcknowledge_ends h, execAvsAcknowledge_lowers h⟩,
    fun hr hs ht hh => ⟨execStackTrainingComplete_sound hr hs ht hh, execStackTrainingComplete_failed hr hs ht hh⟩, fun l => execStackTrainingComplete_rests,
    fun p w r => execPcieLinkTrained_up, fun p w r => execPcieLinkTrained_rests, fun hh u i => execIdleLowPowerEntry_notes hh,
    fun a b c d => execTelemetrySample_early, fun a b c d => execTelemetrySample_keeps, fun a b c d => execTelemetrySample_writes,
    rfl, fun op => rfl, ⟨rfl, rfl⟩, fun op h => tapActs_bypass (by omega) (by omega) (.inl h), fun op h1 h2 hc => tapActs_bypass h1 h2 (.inr hc), fun op => rfl, ballNow_off⟩

end Sys2Proof.Machine
end

section
/-!
PROOF. What a PCIe port reads after a change of it, and the log ring and the trace buffer (R521 to R528).
-/

namespace Sys2Proof.Machine

open Sys2Proof

/-! ### A port after a change -/

theorem modH_length (s : State) (p : Nat) (f : HostPort → HostPort) : (modH s p f).hosts.length = s.hosts.length := by simp [modH]

theorem getH_modH {s : State} {p : Nat} (f : HostPort → HostPort) (h : p < s.hosts.length) : getH (modH s p f) p = f (getH s p) := by
  simp [getH, modH, List.getD_eq_getElem?_getD, h]

/-- What a change of a port keeps of it, the port keeps, whether it is there or not. -/
theorem getH_modH_keeps {β : Type} (g : HostPort → β) {f : HostPort → HostPort} (hf : ∀ h, g (f h) = g h) (s : State) (p : Nat) : g (getH (modH s p f) p) = g (getH s p) := by
  by_cases h : p < s.hosts.length
  · rw [getH_modH f h, hf]
  · simp [getH, modH, List.getD_eq_getElem?_getD, Nat.not_lt.mp h]

theorem getH_modLog {s : State} {p : Nat} (f : LogRing → LogRing) (h : p < s.hosts.length) : (getH (modLog s p f) p).log = f (getH s p).log :=
  congrArg HostPort.log (getH_modH _ h)

theorem raiseVec_hosts (s : State) (fid vec : Nat) : (raiseVec s fid vec).hosts = s.hosts := by rw [raiseVec_eq]

theorem hostWrite_hosts (s : State) (fid a : Nat) (bs : List Byte) : (hostWrite s fid a bs).hosts = s.hosts := by
  unfold hostWrite
  split <;> rfl

theorem hostWrite_writes {s : State} {fid a : Nat} {bs : List Byte} (h : s.resetting fid = false) : hostWrite s fid a bs = { s with host := s.host.write (hostKey fid a) bs } :=
  if_neg (Bool.eq_false_iff.mp h)

theorem getH_of_hosts {s t : State} (h : t.hosts = s.hosts) (p : Nat) : getH t p = getH s p := by rw [getH, h, ← getH]

/-- The port's own physical function names a port that is there. -/
theorem ownsPort_lt {who : Req} {p : Nat} (h : ownsPort who p = true) : p < 2 := by
  simp only [ownsPort, Bool.and_eq_true, decide_eq_true_eq] at h
  exact h.2

/-! ### The log ring -/

section
variable {s : State} {p : Nat} {e : LogEv}

/-- A ring that does not take entries keeps its backlog (R523). -/
theorem drainLog_closed (h : logOpen s p = false) : drainLog s p = s := by
  unfold drainLog drainRing
  exact if_pos h

theorem drainLog_empty (h : (getH s p).log.backlog = []) : drainLog s p = s := by
  unfold drainLog drainRing
  dsimp only
  split
  · rfl
  · rw [h]

/-- Whether a ring takes entries rests on HEAD and TAIL alone. -/
theorem logOpen_modLog {f : LogRing → LogRing} (hf : ∀ L, (f L).head = L.head ∧ (f L).tail = L.tail) : logOpen (modLog s p f) p = logOpen s p := by
  have orphans : (modLog s p f).orphans = s.orphans := by
    unfold State.orphans
    refine List.filter_congr (fun q _ => ?_)
    simp only [modLog, modH, List.getElem?_map, List.getElem?_zipIdx, Option.map_map]
    cases s.hosts[q]? with
    | none => rfl
    | some x =>
      simp only [Option.map_some, Function.comp_apply]
      split <;> rfl
  have head : (getH (modLog s p f) p).log.head = (getH s p).log.head := getH_modH_keeps (fun h => h.log.head) (fun h => (hf h.log).1) s p
  have tail : (getH (modLog s p f) p).log.tail = (getH s p).log.tail := getH_modH_keeps (fun h => h.log.tail) (fun h => (hf h.log).2) s p
  unfold logOpen
  rw [orphans, head, tail]
  rfl

theorem loseEntry_ends (L : LogRing) (e : LogEv) : (loseEntry L e).head = L.head ∧ (loseEntry L e).tail = L.tail := ⟨rfl, rfl⟩

theorem backlogEntry_ends (L : LogRing) (e : LogEv) : (backlogEntry L e).head = L.head ∧ (backlogEntry L e).tail = L.tail := by
  unfold backlogEntry
  split
  · exact ⟨rfl, rfl⟩
  · split
    · exact loseEntry_ends L e
    · split
      · exact loseEntry_ends _ _
      · exact loseEntry_ends L e

theorem backlogEntry_room {L : LogRing} (h : L.backlog.length < 4096) : backlogEntry L e = { L with backlog := L.backlog ++ [e] } := if_pos h

theorem backlogEntry_full {L : LogRing} (h : 4096 ≤ L.backlog.length) (he : e.severity < sevDegraded) :
    (backlogEntry L e).backlog = L.backlog ∧ (backlogEntry L e).lost = satAdd 0xFFFFFFFF L.lost 1 := by
  rw [backlogEntry, if_neg (Nat.not_lt.mpr h), if_pos he]
  exact ⟨rfl, rfl⟩

theorem toRing_below (h : e.severity < fieldOf (logCtrl s p) 19 17) : toRing s p e = s := if_pos h

theorem toRing_writes (h : fieldOf (logCtrl s p) 19 17 ≤ e.severity) (ho : logOpen s p = true) (hb : (getH s p).log.backlog = []) (hl : (getH s p).log.lostNew = 0) :
    toRing s p e = ringWrite s p e := by
  rw [toRing, if_neg (Nat.not_lt.mpr h), if_pos ⟨ho, by rw [hb]; rfl, hl⟩]

theorem toRing_waits (h : fieldOf (logCtrl s p) 19 17 ≤ e.severity) (ho : logOpen s p = false) : toRing s p e = modLog s p (fun L => backlogEntry L e) := by
  rw [toRing, if_neg (Nat.not_lt.mpr h), if_neg (fun x => Bool.eq_false_iff.mp ho x.1)]
  exact drainLog_closed ((logOpen_modLog (fun L => backlogEntry_ends L e)).trans ho)

/-- One entry written at HEAD (R521, R523). -/
theorem ringWrite_entry (hp : p < 2) (hl : s.hosts.length = 2) (hf : s.resetting (fidOf p 0) = false) :
    (getH (ringWrite s p e) p).log.head = (getH s p).log.head + 1 ∧ (getH (ringWrite s p e) p).log.seq = (getH s p).log.seq + 1 ∧
      (ringWrite s p e).host = s.host.write (hostKey (fidOf p 0) (fieldOf (logBase s p) 63 12 * 4096 + 64 * ((getH s p).log.head % logSize s p)))
        (logBytes e (getH s p).log.seq (((getH s p).log.head / logSize s p + 1) % 2)) := by
  have vector (c : Prop) [Decidable c] (u : State) (f v : Nat) : (if c then raiseVec u f v else u).hosts = u.hosts ∧ (if c then raiseVec u f v else u).host = u.host := by
    split
    · exact ⟨raiseVec_hosts u f v, raiseVec_host u f v⟩
    · exact ⟨rfl, rfl⟩
  unfold ringWrite
  dsimp only
  rw [getH_of_hosts (vector _ _ _ _).1, (vector _ _ _ _).2, getH_modLog, hostWrite_writes hf]
  · exact ⟨rfl, rfl, rfl⟩
  · rw [hostWrite_hosts, hl]
    exact hp
end

section
variable {s : State}

theorem exec_logEntryWrite (hh : s.halted = false) {e : LogEv} {rest : List LogEv} (hq : s.logQ = e :: rest) :
    exec .logEntryWrite s = .next ((logPorts s e).foldl (fun s p => toRing s p e) { s with logQ := rest }) := by
  have only : LogOnly { s with logQ := rest } ((logPorts s e).foldl (fun s p => toRing s p e) { s with logQ := rest }) :=
    List.foldlRecOn (logPorts s e) _ (LogOnly.refl _) (fun b hb p _ => hb.trans (toRing_log b p e))
  refine alive_leads_plain hh ?_ only.pages only.dev only.models
  rw [hq]

theorem logPorts_bound (e : LogEv) (hp : e.port = none) (hq : e.queue < firmwareQueue) : logPorts s e = [(getQ s e.queue).fid / 64] := by
  rw [logPorts, hp]
  exact if_pos hq

theorem logPorts_both (e : LogEv) (hp : e.port = none) (hq : firmwareQueue ≤ e.queue) : logPorts s e = [0, 1] := by
  rw [logPorts, hp]
  exact if_neg (Nat.not_lt.mpr hq)

section
variable (hh : s.halted = false)
include hh

theorem execLogEnable_foreign {who : Req} {v : W64} (h : ownsPort who who.port = false) : exec (.logEnable who v) s = .next s := alive_unchanged hh (if_pos h)

theorem execLogTailWrite_outside {who : Req} {t : Nat} (h : ownsPort who who.port = false ∨ t < (getH s who.port).log.tail ∨ (getH s who.port).log.head < t) :
    exec (.logTailWrite who t) s = .next s := alive_unchanged hh (if_pos h)

theorem execLogTailWrite_moves {who : Req} {t : Nat} (ho : ownsPort who who.port = true) (ht : (getH s who.port).log.tail ≤ t) (hd : t ≤ (getH s who.port).log.head)
    (hb : (getH s who.port).log.backlog = []) (hl : s.hosts.length = 2) : exec (.logTailWrite who t) s = .next (modLog s who.port (fun L => { L with tail := t })) := by
  have inside : ¬ (ownsPort who who.port = false ∨ t < (getH s who.port).log.tail ∨ (getH s who.port).log.head < t) := by
    rw [ho]
    simp only [Bool.true_eq_false, false_or]
    omega
  refine alive_leads_plain hh ((if_neg inside).trans (drainLog_empty ?_)) rfl rfl rfl
  rw [getH_modLog _ (by rw [hl]; exact ownsPort_lt ho)]
  exact hb

end

/-- FWM_LOG_CTRL as LOG_ENABLE leaves it: MIN_SEV, ENABLE, VEC_EN and VECTOR (R524). -/
theorem logCtrl_enabled (sev vec : Nat) (b : Bool) (hv : vec < 2048) :
    bitOf (BitVec.ofNat 64 (sev * 2 ^ 17 + bit true * 2 ^ 16 + bit b * 2 ^ 15 + vec)) 16 = true := by
  rw [bitOf, beq_iff_eq, BitVec.toNat_ofNat]
  cases b <;> simp [bit] <;> omega

theorem setReg_same (s : State) (off : Nat) (v d : W64) : (setReg s off v).regs.get d off = v := Tbl.get_set_self _ _ _ _

/-- FWM_LOG_CTRL written with ENABLE over a log that was off: the register takes the bit, and the ring starts empty (R524). -/
theorem logCtrlWrite_starts {who : Req} {p : Nat} {v : W64} (ho : ownsPort who p = true) (hp : p < s.hosts.length) (on : bitOf v 16 = true) (off : bitOf (logCtrl s p) 16 = false)
    (hb : (getH s p).log.backlog = []) :
    ∃ w, bitOf w 16 = true ∧ logCtrlWrite s who p v = modLog (setReg s (portKey p 0x900098) w) p (fun L => { L with head := 0, tail := 0 }) := by
  have vector : (if fieldOf v 10 0 < vecTable (fidOf p 0) then fieldOf v 10 0 else fieldOf (logCtrl s p) 10 0) < 2048 := by
    split
    · exact fieldOf_lt v 10 0
    · exact fieldOf_lt (logCtrl s p) 10 0
  refine ⟨_, logCtrl_enabled (if fieldOf v 19 17 ≤ 4 then fieldOf v 19 17 else fieldOf (logCtrl s p) 19 17) _ (bitOf v 15) vector, ?_⟩
  unfold logCtrlWrite
  rw [if_neg (by simp [ho])]
  dsimp only
  rw [if_pos ⟨on, off⟩, on]
  exact drainLog_empty ((congrArg LogRing.backlog (getH_modLog (s := setReg s _ _) _ hp)).trans hb)

theorem execLogEnable_starts (hh : s.halted = false) {who : Req} {v : W64} (ho : ownsPort who who.port = true) (hl : s.hosts.length = 2) (hoff : bitOf (logCtrl s who.port) 16 = false)
    (hb : (getH s who.port).log.backlog = []) :
    ∃ t, exec (.logEnable who v) s = .next t ∧ (getH t who.port).log = { (getH s who.port).log with head := 0, tail := 0 } ∧ bitOf (logCtrl t who.port) 16 = true := by
  have hp : who.port < s.hosts.length := hl ▸ ownsPort_lt ho
  obtain ⟨w, on, written⟩ := logCtrlWrite_starts ho hp ((bitOf_or v 0x10000 16).trans (Bool.or_true _)) hoff hb
  refine ⟨_, alive_leads_plain hh written rfl rfl rfl, getH_modLog _ hp, ?_⟩
  exact (congrArg (fun x => bitOf x 16) (setReg_same s _ w 0)).trans on
end

/-! ### The trace buffer (R525 to R528) -/

section
variable {s : State} {e : TraceEv}

theorem traceWrite_log (s : State) (e : TraceEv) : (traceWrite s e).pages = s.pages ∧ (traceWrite s e).dev = s.dev ∧ (traceWrite s e).models = s.models := by
  unfold traceWrite
  dsimp only
  generalize (if s.trc.second = s.now / 1000000 then s.trc.count else 0) = n
  split
  · exact ⟨rfl, rfl, rfl⟩
  · split
    · exact ⟨rfl, rfl, rfl⟩
    · have written := hostWrite_log s
      exact ⟨(written _ _ _).pages, (written _ _ _).dev, (written _ _ _).models⟩

theorem traceWrite_off (h : bitOf (trcCtrl s) 0 = false) : traceWrite s e = s := if_pos h

theorem traceWrite_full (hon : bitOf (trcCtrl s) 0 = true) (hw : bitOf (trcCtrl s) 1 = false) (hf : trcSize s ≤ s.trc.head - s.trc.tail) : traceWrite s e = trcDrop s :=
  (if_neg (by simp [hon])).trans (if_pos (.inr (.inr ⟨hw, hf⟩)))

theorem traceWrite_room (hon : bitOf (trcCtrl s) 0 = true) (ho : s.orphans.contains (fieldOf (trcCtrl s) 2 2) = false) (hr : s.trc.head - s.trc.tail < trcSize s)
    (hn : s.trc.second = s.now / 1000000 → s.trc.count < 31250000) (hf : s.resetting (fidOf (fieldOf (trcCtrl s) 2 2) 0) = false) :
    (traceWrite s e).trc.head = s.trc.head + 1 ∧ (traceWrite s e).host =
      s.host.write (hostKey (fidOf (fieldOf (trcCtrl s) 2 2) 0) (fieldOf (trcBuf s) 63 12 * 4096 + 64 * (s.trc.head % trcSize s))) (traceBytes s.now e) := by
  have rate : ¬ 31250000 ≤ (if s.trc.second = s.now / 1000000 then s.trc.count else 0) := by
    split
    · rename_i same
      exact Nat.not_le.mpr (hn same)
    · norm_num
  have takes : ¬ (31250000 ≤ (if s.trc.second = s.now / 1000000 then s.trc.count else 0) ∨ s.orphans.contains (fieldOf (trcCtrl s) 2 2) = true ∨
      (bitOf (trcCtrl s) 1 = false ∧ trcSize s ≤ s.trc.head - s.trc.tail)) := by
    rw [ho]
    simp only [rate, false_or, Bool.false_eq_true]
    omega
  unfold traceWrite
  dsimp only
  rw [if_neg (by simp [hon]), if_neg takes]
  exact ⟨rfl, by rw [hostWrite_writes hf]⟩

/-- TRC_CTRL as TRACE_ENABLE leaves it (R528). -/
theorem trcCtrl_enabled (x y : Bool) : bitOf (BitVec.ofNat 64 (4 * bit x + 2 * bit y + bit true)) 0 = true := by
  cases x <;> cases y <;> rfl

section
variable {a b c d : Nat} {pl : List Byte} (hh : s.halted = false)
include hh

theorem execTraceRecord_oldest {rest : List TraceEv} (hq : s.traceQ = e :: rest) : exec (.traceRecord a b c d pl) s = .next (traceWrite { s with traceQ := rest } e) := by
  obtain ⟨pages, dev, models⟩ := traceWrite_log { s with traceQ := rest } e
  refine alive_leads_plain hh ?_ pages dev models
  rw [hq]

theorem execTraceRecord_point (hq : s.traceQ = []) (ha : a < 0xE0) (hb : b ≤ 8) (ht : traceOn s a = true) : exec (.traceRecord a b c d pl) s =
    .next (traceWrite s { point := a, source := b, queue := c % 2 ^ 16, customer := d % 2 ^ 16, payload := pl }) := by
  obtain ⟨pages, dev, models⟩ := traceWrite_log s { point := a, source := b, queue := c % 2 ^ 16, customer := d % 2 ^ 16, payload := pl }
  refine alive_leads_plain hh ?_ pages dev models
  rw [hq]
  exact if_pos ⟨ha, hb, ht⟩

theorem execTraceRecord_none (hq : s.traceQ = []) (h : 0xE0 ≤ a ∨ 8 < b ∨ traceOn s a = false) : exec (.traceRecord a b c d pl) s = .next s := by
  refine alive_unchanged hh ?_
  rw [hq]
  refine if_neg ?_
  rintro ⟨low, source, on⟩
  rw [on] at h
  simp only [Bool.true_eq_false, or_false] at h
  omega

theorem execTraceEnable_virtual {who : Req} {v : W64} (h : isPhysical who = false) : exec (.traceEnable who v) s = .next s := alive_unchanged hh (if_pos h)

theorem execTraceEnable_enables {who : Req} {v : W64} (h : isPhysical who = true) : ∃ t, exec (.traceEnable who v) s = .next t ∧ bitOf (trcCtrl t) 0 = true ∧
    (bitOf (trcCtrl s) 0 = false → t.trc = { s.trc with head := 0, tail := 0 }) ∧ (bitOf (trcCtrl s) 0 = true → t.trc = s.trc) := by
  have physical : ¬ isPhysical who = false := by simp [h]
  refine ⟨_, alive_leads hh (if_neg physical), ?_⟩
  dsimp only
  rw [trcCtrl, retag_regs, retag_trc, bitOf_swap]
  refine ⟨?_, fun off => ?_, fun on => ?_⟩
  · split <;> exact (congrArg (fun w => bitOf w 0) (setReg_same s _ _ _)).trans (trcCtrl_enabled _ _)
  · rw [if_pos ⟨rfl, off⟩]
    rfl
  · rw [if_neg (by simp [on])]
    rfl
end
end

/-- Settles O50, by the lemma of each row and of each of its outcomes. -/
theorem logAndTraceRows : Obligations.LogAndTraceRows := by
  unfold Obligations.LogAndTraceRows
  intro s hh
  exact ⟨fun e rest => exec_logEntryWrite hh, fun e => ⟨fun p hp => by rw [logPorts, hp], logPorts_bound e, logPorts_both e⟩,
    fun p e => toRing_below, fun p e => toRing_writes, fun p e => toRing_waits, fun p e => ringWrite_entry, fun L e => backlogEntry_room, fun L e => backlogEntry_full,
    fun who v h => ⟨execLogEnable_foreign hh h, fun t => execLogTailWrite_outside hh (.inl h)⟩, fun who v => execLogEnable_starts hh,
    fun who t _ h => execLogTailWrite_outside hh (.inr h), fun who t => execLogTailWrite_moves hh,
    fun a b c d pl e rest => execTraceRecord_oldest hh, fun a b c d pl => execTraceRecord_point hh, fun a b c d pl => execTraceRecord_none hh,
    fun e => traceWrite_off, fun e => traceWrite_full, fun e => traceWrite_room, fun who v => execTraceEnable_virtual hh, fun who v => execTraceEnable_enables hh⟩

end Sys2Proof.Machine
end

section
/-!
PROOF. Resets of functions, ports and the device, the part's fuses, the management endpoint, vectors and BAR2 (R518, R534 to R546).
-/

namespace Sys2Proof.Machine

open Sys2Proof

/-! ### What a reset of functions keeps -/

/-- What a change of a port makes of it, where a port that is not there reads so too. -/
theorem getH_modH_becomes {β : Type} {v : β} (g : HostPort → β) {f : HostPort → HostPort} (s : State) (p : Nat) (hf : ∀ h, g (f h) = v := by intro _; rfl)
    (h0 : g HostPort.init = v := by rfl) :
    g (getH (modH s p f) p) = v := by
  by_cases h : p < s.hosts.length
  · rw [getH_modH f h, hf]
  · have absent : getH (modH s p f) p = HostPort.init := by simp [getH, modH, List.getD_eq_getElem?_getD, Nat.not_lt.mp h]
    rw [absent, h0]

/-- Revoking the regions of a host changes key entries only. -/
theorem revokeHostRegions_keeps {β : Type} (g : State → β) (hg : ∀ s i k, g (setK s i k) = g s) (s : State) (fids : List Nat) : g (revokeHostRegions s fids) = g s :=
  foldl_keeps g _ (fun s (k : Nat × KeyEntry) => hg s k.1 _) _ s

/-- Functions reset but for their queues and the regions in their host: counters, apertures, vectors and notifications (R518). -/
def clearedFunctions (s : State) (p : Nat) (fns : List Nat) : State :=
  let fids := fns.map (fun n => fidOf p n)
  let s := freeCounters s fids
  let s := modH s p (fun h => { h with
    apertures := h.apertures.filter (fun x => !(fns.contains x.1)), resets := fns.foldl (fun t n => t.set n s.now) h.resets })
  { s with
    vecPending := s.vecPending.filter (fun x => !(fids.contains x.1)), vecOpen := s.vecOpen.filter (fun x => !(fids.contains x.1))
    notify := s.notify.filter (fun x => !(fids.contains x.1)) }

section
variable {s : State} {p : Nat} {fns : List Nat}

theorem resetFunctions_eq (s : State) (p : Nat) (fns : List Nat) :
    resetFunctions s p fns = revokeHostRegions ((queuesOf s (fns.map (fun n => fidOf p n))).foldl resetQueue (clearedFunctions s p fns)) (fns.map (fun n => fidOf p n)) := rfl

/-- Without a queue of theirs, functions are reset without a change of anything but what `clearedFunctions` changes, and key entries. -/
theorem resetFunctions_idle {β : Type} (g : State → β) (hg : ∀ s i k, g (setK s i k) = g s) (h : queuesOf s (fns.map (fun n => fidOf p n)) = []) :
    g (resetFunctions s p fns) = g (clearedFunctions s p fns) := by
  rw [resetFunctions_eq, h]
  exact revokeHostRegions_keeps g hg _ _

theorem freeCounters_owner (s : State) (fids : List Nat) : ∀ x ∈ (freeCounters s fids).tz.counters, ∀ f, x.2.owner = some f → f ∉ fids := by
  intro x hx f hf
  obtain ⟨y, hy, rfl⟩ := List.mem_map.mp hx
  obtain ⟨-, kept⟩ := List.mem_filter.mp hy
  have owner : y.2.owner = some f := hf
  rw [owner] at kept
  simpa using kept

theorem freeCounters_grants (s : State) (fids : List Nat) : ∀ x ∈ (freeCounters s fids).tz.counters, ∀ g ∈ x.2.grants, g.1 ∉ fids := by
  intro x hx g hg
  obtain ⟨y, -, rfl⟩ := List.mem_map.mp hx
  simpa using (List.mem_filter.mp hg).2

/-- A list without the entries of some functions holds none of one of them. -/
theorem cleared_absent {α : Type} {l : List (Nat × α)} {fid : Nat} : ∀ v ∈ l.filter (fun x => !([fid].contains x.1)), v.1 ≠ fid := by
  intro v hv
  simpa using (List.mem_filter.mp hv).2

theorem resetFunction_idle {fn : Nat} (h : queuesOf s [fidOf p fn] = []) :
    (resetFunctions s p [fn]).tz = (freeCounters s [fidOf p fn]).tz ∧ (∀ v ∈ (resetFunctions s p [fn]).vecPending, v.1 ≠ fidOf p fn) ∧
      (∀ v ∈ (resetFunctions s p [fn]).notify, v.1 ≠ fidOf p fn) := by
  refine ⟨resetFunctions_idle State.tz setK_tz h, ?_, ?_⟩
  · rw [resetFunctions_idle State.vecPending setK_vecPending h]
    exact cleared_absent
  · rw [resetFunctions_idle State.notify setK_notify h]
    exact cleared_absent

/-- A queue with nothing under way is DISABLED by the reset of its function, and without a peer (R518). -/
theorem resetQueue_idle {q : Nat} (hf : (getQ s q).fetched = []) (hi : inFlight s q = []) : (getQ (resetQueue s q) q).state = .disabled ∧ (getQ (resetQueue s q) q).peer = none := by
  unfold resetQueue
  dsimp only
  split
  · rename_i disabled
    rw [getQ_setQ_same]
    exact ⟨disabled, rfl⟩
  · have failed (u : State) (h : (getQ u q).fetched = []) : failAllFetched u q = modQ u q (fun Q => { Q with fetched := [] }) := by rw [failAllFetched, h]; rfl
    have idle : inFlight (failAllFetched (endWaits (setQ s q { getQ s q with peer := none, state := .draining, prior := .disabled }) q) q) q = [] := by
      rw [failed _ (by rw [getQ_endWaits, getQ_setQ_same]; exact hf)]
      have none : ∀ r ∈ s.tz.started, (r.queue == q) = false := fun r hr => Bool.eq_false_iff.mpr (List.filter_eq_nil_iff.mp hi r hr)
      refine List.filter_eq_nil_iff.mpr (fun r hr => ?_)
      obtain ⟨x, hx, rfl⟩ := List.mem_map.mp hr
      split <;> simp [none x hx]
    have draining : (getQ (failAllFetched (endWaits (setQ s q { getQ s q with peer := none, state := .draining, prior := .disabled }) q) q) q).state = .draining ∧
        (getQ (failAllFetched (endWaits (setQ s q { getQ s q with peer := none, state := .draining, prior := .disabled }) q) q) q).peer = none := by
      rw [failed _ (by rw [getQ_endWaits, getQ_setQ_same]; exact hf), getQ_modQ_same, getQ_endWaits, getQ_setQ_same]
      exact ⟨rfl, rfl⟩
    rw [drainEnd, if_pos ⟨draining.1, by rw [idle]; rfl⟩, getQ_modQ_same]
    exact ⟨rfl, draining.2⟩

/-! ### The retirement of a port's windows (R519) -/

/-- Where no copy is held, nobody is told of a lost page. -/
theorem tellTokens_uncopied (h : s.own.copies = []) (x : Handle) (before : List Page) : tellTokens s x before = s := by
  rw [tellTokens, findCopy, h]
  rfl

theorem tellTokens_foldl_uncopied (before : List Page) (l : List Handle) (h : s.own.copies = []) : l.foldl (fun s o => tellTokens s o before) s = s :=
  List.foldlRecOn (motive := fun t => t = s) l _ rfl (fun _ ht o _ => ht ▸ tellTokens_uncopied h o before)

/-- What a page keeps when the windows into the host of a port are retired: no page is left in that host. -/
theorem retireWindows_pages (h : s.own.copies = []) : ∀ x ∈ (retireWindows s p).pages, x.host ≠ some p := by
  unfold retireWindows
  dsimp only
  rw [tellTokens_foldl_uncopied _ _ (by exact h)]
  intro x hx
  obtain ⟨y, -, rfl⟩ := List.mem_map.mp hx
  split
  · assumption
  · have dropped : (y.dropTier tHost).host ≠ some p := Option.some_ne_none p ∘ Eq.symm
    split
    · split
      · exact dropped
      · split <;> exact dropped
    · exact dropped

theorem retireWindows_windows (h : s.own.copies = []) : ∀ w ∈ (retireWindows s p).ident.windows, w.port = p → w.retired = true := by
  unfold retireWindows
  dsimp only
  rw [tellTokens_foldl_uncopied _ _ (by exact h)]
  intro w hw
  obtain ⟨v, -, rfl⟩ := List.mem_map.mp hw
  split
  · exact fun _ => rfl
  · exact fun hp => absurd hp ‹_›

theorem retireWindows_tz (h : s.own.copies = []) : (retireWindows s p).tz = s.tz := by
  unfold retireWindows
  dsimp only
  rw [tellTokens_foldl_uncopied _ _ (by exact h)]

/-! ### The reset of a port's physical function -/

theorem resetPhysical_detached (s : State) (p : Nat) : (getH (resetPhysical s p) p).att = 0 ∧ (getH (resetPhysical s p) p).vfs = 0 ∧ (getH (resetPhysical s p) p).mboxResult = 0 :=
  ⟨getH_modH_becomes HostPort.att _ p, getH_modH_becomes HostPort.vfs _ p, getH_modH_becomes HostPort.mboxResult _ p⟩

theorem resetPhysical_pages (hc : s.own.copies = []) (hq : queuesOf s (portFids p) = []) : ∀ x ∈ (resetPhysical s p).pages, x.host ≠ some p := by
  have uncopied : (resetFunctions s p (List.range 64)).own.copies = [] := (resetFunctions_idle (fun s => s.own.copies) (fun s i k => rfl) hq).trans hc
  exact retireWindows_pages (s := resetFunctions s p (List.range 64)) uncopied
end

/-! ### The rows of FUNCTION_RESET and PORT_RESET -/

section
variable {s : State} {p fn : Nat}

theorem execFunctionReset_virtual (hh : s.halted = false) (hp : p < 2) (h1 : 1 ≤ fn) (hf : fn < 64) : exec (.functionReset p fn) s = .next (retag s (resetFunctions s p [fn])) := by
  have inside : ¬ (2 ≤ p ∨ 64 ≤ fn) := by omega
  exact alive_leads hh ((if_neg inside).trans (if_neg (Nat.ne_of_gt h1)))

theorem execFunctionReset_physical (hh : s.halted = false) (hp : p < 2) : exec (.functionReset p 0) s = .next (retag s (resetPhysical s p)) := by
  have inside : ¬ (2 ≤ p ∨ 64 ≤ 0) := by omega
  exact alive_leads hh ((if_neg inside).trans (if_pos rfl))

theorem execFunctionReset_outside (hh : s.halted = false) (h : 2 ≤ p ∨ 64 ≤ fn) : exec (.functionReset p fn) s = .next s := alive_unchanged hh (if_pos h)

theorem execFunctionReset_detaches (hh : s.halted = false) (hp : p < 2) : ∃ t, exec (.functionReset p 0) s = .next t ∧
    (getH t p).att = 0 ∧ (getH t p).vfs = 0 ∧ (getH t p).mboxResult = 0 ∧ (s.own.copies = [] → queuesOf s (portFids p) = [] → ∀ x ∈ t.pages, x.host ≠ some p) := by
  refine ⟨_, execFunctionReset_physical hh hp, ?_⟩
  rw [getH_of_hosts (retag_hosts s _)]
  obtain ⟨att, vfs, result⟩ := resetPhysical_detached s p
  refine ⟨att, vfs, result, fun hc hq x hx => ?_⟩
  obtain ⟨y, hy, same⟩ := retag_pages_from hx
  have host : x.host = y.host := by rcases same with rfl | rfl <;> rfl
  exact host ▸ resetPhysical_pages hc hq y hy

theorem execPortReset_untaken (h : 2 ≤ p ∨ s.tripped = true) : exec (.portReset p) s = .next s := by
  refine congrArg Host.Outcome.next ?_
  obtain hp | ht := h
  · exact if_pos hp
  · exact ite_keeps id rfl (if_pos ht)

/-- A port reset takes the link down; stopped, it touches the port alone, and running, it detaches the host (R545). -/
theorem execPortReset_resets (hp : p < 2) (ht : s.tripped = false) : ∃ t, exec (.portReset p) s = .next t ∧
    (getH t p).link = false ∧ (getH t p).vfs = 0 ∧ (s.halted = true → t.tz = s.tz ∧ t.pages = s.pages) ∧ (s.halted = false → (getH t p).att = 0) := by
  refine ⟨resetPort s p, congrArg Host.Outcome.next (if_neg (Nat.not_le.mpr hp)), ?_⟩
  rw [resetPort, if_neg (Bool.eq_false_iff.mp ht)]
  split
  next stopped =>
    exact ⟨getH_modH_becomes HostPort.link s p, getH_modH_becomes HostPort.vfs s p, fun _ => ⟨rfl, rfl⟩, fun h => absurd stopped (Bool.eq_false_iff.mp h)⟩
  next running =>
    obtain ⟨att, vfs, -⟩ := resetPhysical_detached s p
    rw [getH_of_hosts (retag_hosts s _)]
    generalize resetPhysical s p = u at att vfs
    exact ⟨getH_modH_becomes HostPort.link u p, (getH_modH_keeps HostPort.vfs (f := fun h => { h with link := false, width := 0, rate := 0 }) (fun _ => rfl) u p).trans vfs, fun h => absurd h running,
      fun _ => (getH_modH_keeps HostPort.att (f := fun h => { h with link := false, width := 0, rate := 0 }) (fun _ => rfl) u p).trans att⟩
end

/-! ### The device reset and the cold reset (R540, R541) -/

section
variable {s : State} {who : Req} {k : Nat}

/-- The word of GLB_RESET that a row writes: its confirmation code, and its two bits. -/
theorem resetWord_fields (k : Nat) :
    fieldOf (BitVec.ofNat 64 (k % 65536 * 65536 + 1)) 31 16 = k % 65536 ∧ bitOf (BitVec.ofNat 64 (k % 65536 * 65536 + 1)) 1 = false ∧
      bitOf (BitVec.ofNat 64 (k % 65536 * 65536 + 1)) 0 = true ∧
      fieldOf (BitVec.ofNat 64 (k % 65536 * 65536 + 2)) 31 16 = k % 65536 ∧ bitOf (BitVec.ofNat 64 (k % 65536 * 65536 + 2)) 1 = true := by
  simp only [fieldOf, bitOf, BitVec.toNat_ofNat, beq_iff_eq, beq_eq_false_iff_ne]
  omega

theorem exec_reset_unconfirmed (h : isPhysical who = false ∨ k % 65536 ≠ 0xC0DE) : exec (.deviceReset who k) s = .next s ∧ exec (.coldReset who k) s = .next s := by
  obtain ⟨code, -, -, coldCode, -⟩ := resetWord_fields k
  exact ⟨congrArg Host.Outcome.next (if_pos (by rw [code]; exact h)), congrArg Host.Outcome.next (if_pos (by rw [coldCode]; exact h))⟩

theorem execDeviceReset_confirmed (hw : isPhysical who = true) (hk : k % 65536 = 0xC0DE) : exec (.deviceReset who k) s = .next (if s.tripped then s else deviceReset s) := by
  obtain ⟨code, bit1, bit0, -⟩ := resetWord_fields k
  refine congrArg Host.Outcome.next ?_
  rw [glbResetWrite, if_neg (by rw [code, hw, hk]; simp), if_neg (by simp [bit1]), if_pos bit0]

theorem execColdReset_confirmed (hw : isPhysical who = true) (hk : k % 65536 = 0xC0DE) : exec (.coldReset who k) s = .next (if s.ladder = 4 then s else coldReset s) := by
  obtain ⟨-, -, -, code, bit1⟩ := resetWord_fields k
  refine congrArg Host.Outcome.next ?_
  rw [glbResetWrite, if_neg (by rw [code, hw, hk]; simp), if_pos bit1]

theorem exec_reset_confirmed (hw : isPhysical who = true) (hk : k % 65536 = 0xC0DE) :
    (s.tripped = false → exec (.deviceReset who k) s = .next (deviceReset s)) ∧ (s.tripped = true → exec (.deviceReset who k) s = .next s) ∧
      (s.ladder ≠ 4 → exec (.coldReset who k) s = .next (coldReset s)) ∧ (s.ladder = 4 → exec (.coldReset who k) s = .next s) := by
  rw [execDeviceReset_confirmed hw hk, execColdReset_confirmed hw hk]
  exact ⟨fun h => by rw [if_neg (Bool.eq_false_iff.mp h)], fun h => by rw [if_pos h], fun h => by rw [if_neg h], fun h => by rw [if_pos h]⟩

/-- What a device reset leaves as it is, and what it clears (R540). -/
theorem deviceReset_leaves (s : State) : let t := deviceReset s
    t.tz = State.reset.tz ∧ t.fwRun = 0 ∧ t.cfgState = 0 ∧ t.comps = [] ∧ t.pages = [] ∧ t.halted = false ∧ t.dev = [] ∧ t.fab.ring.bypEn = State.reset.fab.ring.bypEn ∧
    t.fl.copyA = s.fl.copyA ∧ t.fl.copyB = s.fl.copyB ∧ t.fl.journal = s.fl.journal ∧ t.host = s.host ∧ t.part = s.part ∧ t.cfg.lastSeq = s.cfg.lastSeq ∧ t.now = s.now ∧
    t.hosts.map (fun h => h.link) = s.hosts.map (fun h => h.link) := by
  have flash : (deviceReset s).fl = flashKept s.fl := by rw [deviceReset, gateTiles_keeps State.fl setT_fl]
  have config : (deviceReset s).cfg = { State.reset.cfg with lastSeq := s.cfg.lastSeq } := by rw [deviceReset, gateTiles_keeps State.cfg setT_cfg]
  have bypass : (deviceReset s).fab.ring.bypEn = State.reset.fab.ring.bypEn := by rw [deviceReset, gateTiles_keeps State.fab setT_fab]
  have ports : (deviceReset s).hosts = s.hosts.map portKept := by rw [deviceReset, gateTiles_keeps State.hosts setT_hosts]
  have links : (deviceReset s).hosts.map (fun h => h.link) = s.hosts.map (fun h => h.link) := by
    rw [ports, List.map_map]
    rfl
  exact ⟨gateTiles_keeps State.tz setT_tz _, (gateTiles_keeps State.fwRun setT_fwRun _).trans rfl, (gateTiles_keeps State.cfgState setT_cfgState _).trans rfl,
    gateTiles_keeps State.comps setT_comps _, gateTiles_keeps State.pages setT_pages _, gateTiles_halted _, gateTiles_keeps State.dev setT_dev _, bypass,
    (congrArg Fl.copyA flash :), (congrArg Fl.copyB flash :), (congrArg Fl.journal flash :), gateTiles_keeps State.host setT_host _, gateTiles_keeps State.part setT_part _,
    (congrArg Cfg.lastSeq config :), gateTiles_keeps State.now setT_now _, links⟩

/-! ### Fuses and management -/

theorem execSpdmRaiseSvn_rows (s : State) (v : Nat) : (s.part.minSvn < v → v < 2 ^ 32 → exec (.spdmRaiseSvn true v) s = .next { s with part := { s.part with minSvn := v } }) ∧
    (v ≤ s.part.minSvn → exec (.spdmRaiseSvn true v) s = .next s) ∧ exec (.spdmRaiseSvn false v) s = .next s :=
  ⟨fun h hv => congrArg Host.Outcome.next (if_pos ⟨rfl, h, hv⟩), fun h => congrArg Host.Outcome.next (if_neg (fun x => Nat.not_lt.mpr h x.2.1)),
    congrArg Host.Outcome.next (if_neg (fun x => Bool.noConfusion x.1))⟩

theorem execSpdmRevokeKeyIndex_rows (s : State) (k : Nat) : exec (.spdmRevokeKeyIndex false k) s = .next s ∧
    (s.fw.slots.any (fun x => x.st == 3 && x.keyIndex == k) = true → exec (.spdmRevokeKeyIndex true k) s = .next s) ∧
    (k < 4 → s.fw.slots.any (fun x => x.st == 3 && x.keyIndex == k) = false → s.part.revoked.contains k = false →
      exec (.spdmRevokeKeyIndex true k) s = .next { s with part := { s.part with revoked := s.part.revoked ++ [k] } }) :=
  ⟨congrArg Host.Outcome.next (if_neg (fun x => Bool.noConfusion x.1)), fun h => congrArg Host.Outcome.next (if_neg (fun x => Bool.eq_false_iff.mp x.2.2.1 h)),
    fun hk ha hr => congrArg Host.Outcome.next (if_pos ⟨rfl, hk, ha, hr⟩)⟩

theorem execManagementRequest_rows (s : State) (tag : Nat) (r : MgmtReq) : (s.cpm.aon = false → exec (.managementRequest tag r) s = .next s) ∧
    (s.cpm.aon = true → (∀ b, r ≠ .coldReset b) → exec (.managementRequest tag r) s = .next (modCpm s (fun c => { c with mgmt := c.mgmt ++ [(tag, mgmtAnswer s r)] }))) ∧
    (s.cpm.aon = true → s.ladder ≠ 4 → r = .coldReset true → exec (.managementRequest tag r) s = .next (coldReset s)) ∧
    (r = .coldReset false → exec (.managementRequest tag r) s = .next s) := by
  refine ⟨fun h => congrArg Host.Outcome.next (if_pos h), fun h hr => ?_, fun h hl hr => ?_, fun hr => ?_⟩
  · refine congrArg Host.Outcome.next ((if_neg (Bool.not_eq_false _ ▸ h)).trans ?_)
    cases r with
    | coldReset b => exact absurd rfl (hr b)
    | _ => rfl
  · subst hr
    exact congrArg Host.Outcome.next ((if_neg (Bool.not_eq_false _ ▸ h)).trans (if_pos ⟨rfl, hl⟩))
  · subst hr
    by_cases h : s.cpm.aon = false
    · exact congrArg Host.Outcome.next (if_pos h)
    · exact congrArg Host.Outcome.next ((if_neg h).trans (if_neg (fun x => Bool.noConfusion x.1)))
end

/-! ### Vectors, virtual functions and BAR2 -/

section
variable {s : State} {p fn vec : Nat}

theorem execMsiXUnmask_untaken (hh : s.halted = false) (h : 2 ≤ p ∨ 64 ≤ fn ∨ vecTable (fidOf p fn) ≤ vec ∨ s.vecOpen.contains (fidOf p fn, vec) = true) :
    exec (.msiXUnmask p fn vec) s = .next s := alive_unchanged hh (if_pos h)

/-- A vector opened is no longer pending, and is sent where it was, unless its port is orphaned or its function in reset (R536). -/
theorem execMsiXUnmask_opens (hh : s.halted = false) (hp : p < 2) (hf : fn < 64) (hv : vec < vecTable (fidOf p fn)) (ho : s.vecOpen.contains (fidOf p fn, vec) = false) :
    ∃ t, exec (.msiXUnmask p fn vec) s = .next t ∧ t.vecOpen = s.vecOpen ++ [(fidOf p fn, vec)] ∧ t.vecPending = s.vecPending.filter (fun x => x != (fidOf p fn, vec)) ∧
      (s.vecPending.contains (fidOf p fn, vec) = true → s.orphans.contains (fidOf p fn / 64) = false → s.resetting (fidOf p fn) = false → t.vecSent = s.vecSent ++ [(fidOf p fn, vec)]) ∧
      (s.vecPending.contains (fidOf p fn, vec) = false → t.vecSent = s.vecSent) := by
  have taken : ¬ (2 ≤ p ∨ 64 ≤ fn ∨ vecTable (fidOf p fn) ≤ vec ∨ s.vecOpen.contains (fidOf p fn, vec) = true) := by
    simp only [ho, Bool.false_eq_true, or_false]
    omega
  generalize hs1 : ({ s with vecOpen := s.vecOpen ++ [(fidOf p fn, vec)], vecPending := s.vecPending.filter (fun x => x != (fidOf p fn, vec)) } : State) = s1
  have opened : s1.vecOpen.contains (fidOf p fn, vec) = true := by simp [← hs1]
  have reads : s1.vecOpen = s.vecOpen ++ [(fidOf p fn, vec)] ∧ s1.vecPending = s.vecPending.filter (fun x => x != (fidOf p fn, vec)) ∧ s1.vecSent = s.vecSent ∧
      s1.pages = s.pages ∧ s1.dev = s.dev ∧ s1.models = s.models ∧ s1.orphans = s.orphans ∧ s1.resetting (fidOf p fn) = s.resetting (fidOf p fn) := by
    rw [← hs1]
    exact ⟨rfl, rfl, rfl, rfl, rfl, rfl, rfl, rfl⟩
  obtain ⟨vecOpen, vecPending, vecSent, pages, dev, models, orphans, resetting⟩ := reads
  have row : exec (.msiXUnmask p fn vec) s = alive s (if s.vecPending.contains (fidOf p fn, vec) then raiseVec s1 (fidOf p fn) vec else s1) := by
    rw [← hs1]
    exact congrArg (alive s) (if_neg taken)
  by_cases waiting : s.vecPending.contains (fidOf p fn, vec) = true
  · refine ⟨_, row.trans (alive_leads_plain hh (if_pos waiting) ((raiseVec_pages _ _ _).trans pages) ((raiseVec_dev _ _ _).trans dev) ((raiseVec_models _ _ _).trans models)), ?_⟩
    unfold raiseVec
    rw [opened, orphans, resetting]
    split
    next shut =>
      refine ⟨vecOpen, vecPending, fun _ alive idle => ?_, fun h => absurd waiting (Bool.eq_false_iff.mp h)⟩
      rw [alive, idle] at shut
      simp at shut
    next => exact ⟨vecOpen, vecPending, fun _ _ _ => by simp [vecSent], fun h => absurd waiting (Bool.eq_false_iff.mp h)⟩
  · exact ⟨s1, row.trans (alive_leads_plain hh (if_neg waiting) pages dev models), vecOpen, vecPending, fun h => absurd h waiting, fun _ => vecSent⟩

theorem execSriovVfEnable_rows (hh : s.halted = false) (p n : Nat) : (p < 2 → n ≤ 63 → exec (.sriovVfEnable p n) s = .next (modH s p (fun h => { h with vfs := n }))) ∧
    (2 ≤ p ∨ 63 < n → exec (.sriovVfEnable p n) s = .next s) := by
  refine ⟨fun hp hn => ?_, fun h => alive_unchanged hh (if_pos h)⟩
  have taken : ¬ (2 ≤ p ∨ 63 < n) := by omega
  exact alive_leads_plain hh (if_neg taken) rfl rfl rfl

/-- How many bytes of the window lie from the address on that an access reaches. -/
theorem bar2_room (hh : s.halted = false) (a room : Nat) : (if s.halted = true ∨ a < carveBase then 0 else room) = (if a < carveBase then 0 else room) := by
  simp only [hh, Bool.false_eq_true, false_or]

theorem execBar2Access_reads (hh : s.halted = false) (who : Req) (off n : Nat) : exec (.bar2Access who off n none) s =
    .next { s with bar2Out := s.dev.read (bar2At s who off).1 (min n (if (bar2At s who off).1 < carveBase then 0 else (bar2At s who off).2)) ++
      List.replicate (n - min n (if (bar2At s who off).1 < carveBase then 0 else (bar2At s who off).2)) 0 } := by
  refine congrArg (fun o => Host.Outcome.next { s with bar2Out := o }) ?_
  rw [if_neg (Bool.eq_false_iff.mp hh), bar2_room hh]

theorem execBar2Access_writes (hh : s.halted = false) (who : Req) (off n : Nat) (bs : List Byte) : exec (.bar2Access who off n (some bs)) s =
    .next (retag s (if (if (bar2At s who off).1 < carveBase then 0 else (bar2At s who off).2) < bs.length then
      modH { s with dev := s.dev.write (bar2At s who off).1 (bs.take (if (bar2At s who off).1 < carveBase then 0 else (bar2At s who off).2)) } who.port
        (fun h => { h with discarded := satAdd 0xFFFFFFFF h.discarded 1 })
      else { s with dev := s.dev.write (bar2At s who off).1 (bs.take (if (bar2At s who off).1 < carveBase then 0 else (bar2At s who off).2)) })) := by
  refine congrArg Host.Outcome.next ((if_neg (Bool.eq_false_iff.mp hh)).trans ?_)
  simp only [bar2_room hh, if_neg (Bool.eq_false_iff.mp hh)]

theorem execBar2Access_halted (hh : s.halted = true) (who : Req) (off n : Nat) : exec (.bar2Access who off n none) s = .next { s with bar2Out := List.replicate n 0 } := by
  refine congrArg (fun o => Host.Outcome.next { s with bar2Out := o }) ?_
  exact if_pos hh

/-- Bytes of a write beyond the window are counted as discarded (R534). -/
theorem execBar2Access_discards (hh : s.halted = false) {who : Req} (off n : Nat) {bs : List Byte}
    (h : (if (bar2At s who off).1 < carveBase then 0 else (bar2At s who off).2) < bs.length) (hl : s.hosts.length = 2) (hp : who.port < 2) :
    ∃ t, exec (.bar2Access who off n (some bs)) s = .next t ∧ (getH t who.port).discarded = satAdd 0xFFFFFFFF (getH s who.port).discarded 1 := by
  refine ⟨_, execBar2Access_writes hh who off n bs, ?_⟩
  rw [if_pos h, getH_of_hosts (retag_hosts s _), getH_modH _ (by rw [← hl] at hp; exact hp)]
  rfl
end

/-- Settles O51, by the lemma of each row and of each of its outcomes. -/
theorem resetRows : Obligations.ResetRows := by
  unfold Obligations.ResetRows
  exact ⟨fun s p fn hh hp h1 hf => ⟨execFunctionReset_virtual hh hp h1 hf, resetFunction_idle⟩, fun s q => resetQueue_idle, fun s p hh hp _ => execFunctionReset_detaches hh hp,
    fun s p fn => execFunctionReset_outside, fun s p hp _ => execPortReset_resets hp, fun s p => execPortReset_untaken, fun s who k => exec_reset_unconfirmed,
    fun s who k => exec_reset_confirmed, deviceReset_leaves, fun s => ⟨rfl, rfl, rfl, rfl, rfl, rfl, rfl, rfl, rfl, rfl, rfl, rfl, rfl⟩, execSpdmRaiseSvn_rows, execSpdmRevokeKeyIndex_rows,
    execManagementRequest_rows, fun s p fn vec hh => ⟨execMsiXUnmask_untaken hh, execMsiXUnmask_opens hh⟩, fun s p n hh => execSriovVfEnable_rows hh p n,
    fun s who off n hh => ⟨execBar2Access_reads hh who off n, fun bs h => (execBar2Access_writes hh who off n bs).trans (by rw [if_neg (Nat.not_lt.mpr h)]),
      fun bs => execBar2Access_discards hh off n⟩, fun s who off n hh => execBar2Access_halted hh who off n⟩

end Sys2Proof.Machine
end

section
/-!
PROOF. A host port's attachment: heartbeats, orphaning and reattachment, and the end of the reattach lease (R516 to R520).
-/

namespace Sys2Proof.Machine

open Sys2Proof

/-! ### A row that goes over the queues of a port -/

/-- Two states that differ in the queues' registers at most. -/
def QueuesOnly (s t : State) : Prop := t = { s with tz := { s.tz with queues := t.tz.queues } }

theorem QueuesOnly.refl (s : State) : QueuesOnly s s := rfl

theorem QueuesOnly.trans {s t u : State} (h : QueuesOnly s t) (k : QueuesOnly t u) : QueuesOnly s u := by
  unfold QueuesOnly at *
  rw [h] at k
  exact k

theorem QueuesOnly.foldl {f : State → Nat → State} (hf : ∀ s q, QueuesOnly s (f s q)) (l : List Nat) (s : State) : QueuesOnly s (l.foldl f s) :=
  List.foldlRecOn l f (QueuesOnly.refl s) (fun b hb q _ => hb.trans (hf b q))

theorem QueuesOnly.hosts {s t : State} (h : QueuesOnly s t) : t.hosts = s.hosts := by rw [h]
theorem QueuesOnly.pages {s t : State} (h : QueuesOnly s t) : t.pages = s.pages := by rw [h]
theorem QueuesOnly.dev {s t : State} (h : QueuesOnly s t) : t.dev = s.dev := by rw [h]
theorem QueuesOnly.models {s t : State} (h : QueuesOnly s t) : t.models = s.models := by rw [h]
theorem QueuesOnly.counters {s t : State} (h : QueuesOnly s t) : t.tz.counters = s.tz.counters := by rw [h]
theorem QueuesOnly.started {s t : State} (h : QueuesOnly s t) : t.tz.started = s.tz.started := by rw [h]

/-- A fold over queues, each of which is changed by its own step alone, leaves a queue not in the list as it was. -/
theorem getQ_foldl_other {f : State → Nat → State} {q : Nat} (other : ∀ s j, j ≠ q → getQ (f s j) q = getQ s q) {l : List Nat} (h : q ∉ l) (s : State) : getQ (l.foldl f s) q = getQ s q :=
  List.foldlRecOn (motive := fun t => getQ t q = getQ s q) l f rfl (fun b hb j hj => (other b j (fun e => h (e ▸ hj))).trans hb)

/-- A fold over queues whose step makes `g Q` of a queue `Q`, and nothing more the second time, leaves `g Q` in each queue of the list. -/
theorem getQ_foldl_same {f : State → Nat → State} {q : Nat} {g : Queue → Queue} {K : State → Prop} (keeps : ∀ s j, K s → K (f s j)) (same : ∀ s, K s → getQ (f s q) q = g (getQ s q))
    (other : ∀ s j, j ≠ q → getQ (f s j) q = getQ s q) {l : List Nat} (h : q ∈ l) {s : State} (hs : K s) (once : g (g (getQ s q)) = g (getQ s q)) :
    getQ (l.foldl f s) q = g (getQ s q) := by
  have settled : ∀ (l : List Nat) (s : State), K s → g (getQ s q) = getQ s q → getQ (l.foldl f s) q = getQ s q := by
    intro l
    induction l with
    | nil => exact fun _ _ _ => rfl
    | cons j l ih =>
      intro s hs fixed
      have step : getQ (f s j) q = getQ s q := if h : j = q then by rw [h, same s hs, fixed] else other s j h
      exact (ih (f s j) (keeps s j hs) (by rw [step]; exact fixed)).trans step
  induction l generalizing s with
  | nil => exact absurd h List.not_mem_nil
  | cons j l ih =>
    by_cases e : j = q
    · subst e
      exact (settled l _ (keeps s j hs) (by rw [same s hs]; exact once)).trans (same s hs)
    · have step := other s j e
      exact (ih ((List.mem_cons.mp h).resolve_left (Ne.symm e)) (keeps s j hs) (by rw [step]; exact once)).trans (by rw [step])

theorem queuesOf_of_tz {s t : State} (h : t.tz = s.tz) (fids : List Nat) : queuesOf t fids = queuesOf s fids := by rw [queuesOf, h, queuesOf]

theorem mem_portFids {p fid : Nat} : fid ∈ portFids p ↔ p * 64 ≤ fid ∧ fid < p * 64 + 64 := by
  simp only [portFids, List.mem_map, List.mem_range, fidOf]
  constructor
  · rintro ⟨n, hn, rfl⟩
    omega
  · rintro ⟨hl, hu⟩
    exact ⟨fid - p * 64, by omega, by omega⟩

theorem mem_queuesOf_port {s : State} {p q : Nat} : q ∈ queuesOf s (portFids p) ↔ q < firmwareQueue ∧ ∃ x ∈ s.tz.queues, x.1 = q ∧ p * 64 ≤ x.2.fid ∧ x.2.fid < p * 64 + 64 := by
  simp only [queuesOf, List.mem_map, List.mem_filter, Bool.and_eq_true, decide_eq_true_eq, List.contains_iff_mem, mem_portFids]
  constructor
  · rintro ⟨x, ⟨hx, hq, hf⟩, rfl⟩
    exact ⟨hq, x, hx, rfl, hf⟩
  · rintro ⟨hq, x, hx, rfl, hf⟩
    exact ⟨x, ⟨hx, hq, hf⟩, rfl⟩

/-! ### Orphaning (R517) -/

/-- A queue as the orphaning of its port leaves it. -/
def queueOrphaned (Q : Queue) : Queue := if Q.state = .active ∨ Q.state = .waiting then { Q with state := .orphaned, prior := Q.state } else Q

theorem queueOrphaned_twice (Q : Queue) : queueOrphaned (queueOrphaned Q) = queueOrphaned Q := by
  by_cases h : Q.state = .active ∨ Q.state = .waiting
  · rw [queueOrphaned, queueOrphaned, if_pos h, if_neg (by simp)]
  · rw [queueOrphaned, queueOrphaned, if_neg h, if_neg h]

theorem orphanQueue_queues (s : State) (q : Nat) : QueuesOnly s (orphanQueue s q) := by
  unfold orphanQueue
  dsimp only
  split <;> rfl

theorem getQ_orphanQueue (s : State) (q : Nat) : getQ (orphanQueue s q) q = queueOrphaned (getQ s q) := by
  unfold orphanQueue queueOrphaned
  dsimp only
  split
  · rw [getQ_setQ_same]
  · rfl

theorem getQ_orphanQueue_other (s : State) {j q : Nat} (h : j ≠ q) : getQ (orphanQueue s j) q = getQ s q := by
  unfold orphanQueue
  dsimp only
  split
  · exact getQ_setQ_other s _ h.symm
  · rfl

section
variable {s : State} {p : Nat}

theorem orphanPort_queues (s : State) (p : Nat) : QueuesOnly (modH s p (fun h => { h with att := 2, orphanAt := s.now, lease := fieldOf (hbCtrl s p) 47 32, reason := Code.fwHostOrphaned }))
    ((queuesOf (modH s p (fun h => { h with att := 2, orphanAt := s.now, lease := fieldOf (hbCtrl s p) 47 32, reason := Code.fwHostOrphaned })) (portFids p)).foldl orphanQueue
      (modH s p (fun h => { h with att := 2, orphanAt := s.now, lease := fieldOf (hbCtrl s p) 47 32, reason := Code.fwHostOrphaned }))) :=
  QueuesOnly.foldl orphanQueue_queues _ _

theorem orphanPort_att (hp : p < s.hosts.length) : (getH (orphanPort s p) p).att = 2 ∧ (getH (orphanPort s p) p).orphanAt = s.now := by
  have port : getH (orphanPort s p) p = _ := (getH_of_hosts (orphanPort_queues s p).hosts p).trans (getH_modH _ hp)
  rw [port]
  exact ⟨rfl, rfl⟩

theorem orphanPort_plain (s : State) (p : Nat) : (orphanPort s p).pages = s.pages ∧ (orphanPort s p).dev = s.dev ∧ (orphanPort s p).models = s.models :=
  ⟨(orphanPort_queues s p).pages, (orphanPort_queues s p).dev, (orphanPort_queues s p).models⟩

theorem orphanPort_orphans {q : Nat} {Q : Queue} (hf : s.tz.queues.find q = some Q) (hq : q < firmwareQueue) (hl : p * 64 ≤ Q.fid) (hu : Q.fid < p * 64 + 64) :
    getQ (orphanPort s p) q = if Q.state = .active ∨ Q.state = .waiting then { Q with state := .orphaned, prior := Q.state } else Q := by
  have present : getQ s q = Q := by rw [getQ, Tbl.get, hf]; rfl
  have mine : q ∈ queuesOf s (portFids p) := mem_queuesOf_port.mpr ⟨hq, (q, Q), Tbl.mem_of_find hf, rfl, hl, hu⟩
  have done := getQ_foldl_same (K := fun _ => True) (fun _ _ _ => trivial) (fun s _ => getQ_orphanQueue s q) (fun s _ => getQ_orphanQueue_other s) mine
    (s := modH s p (fun h => { h with att := 2, orphanAt := s.now, lease := fieldOf (hbCtrl s p) 47 32, reason := Code.fwHostOrphaned })) trivial (queueOrphaned_twice _)
  exact done.trans (congrArg queueOrphaned present)

theorem orphanPort_others {q : Nat} (h : ∀ x ∈ s.tz.queues, x.1 = q → x.2.fid < p * 64 ∨ p * 64 + 64 ≤ x.2.fid) : getQ (orphanPort s p) q = getQ s q := by
  have foreign : q ∉ queuesOf s (portFids p) := by
    rintro hm
    obtain ⟨-, x, hx, e, hl, hu⟩ := mem_queuesOf_port.mp hm
    have := h x hx e
    omega
  exact getQ_foldl_other (fun s _ => getQ_orphanQueue_other s) foreign
    (modH s p (fun h => { h with att := 2, orphanAt := s.now, lease := fieldOf (hbCtrl s p) 47 32, reason := Code.fwHostOrphaned }))
end

/-! ### Reattachment (R519) -/

/-- A queue as the reattachment of its port leaves it, with a WAITCNT of it still waiting or none. -/
def queueRestored (waits : Bool) (Q : Queue) : Queue :=
  if Q.state = .orphaned then { Q with state := if Q.prior = .waiting ∧ waits = false then .active else Q.prior, prior := .disabled } else Q

theorem queueRestored_state {waits : Bool} {Q : Queue} (ho : Q.state = .orphaned) :
    (queueRestored waits Q).state = (if Q.prior = .waiting ∧ waits = false then .active else Q.prior) ∧ (queueRestored waits Q).head = Q.head ∧ (queueRestored waits Q).tail = Q.tail := by
  rw [queueRestored, if_pos ho]
  exact ⟨rfl, rfl, rfl⟩

theorem queueRestored_twice {waits : Bool} {Q : Queue} (hp : Q.prior ≠ .orphaned) : queueRestored waits (queueRestored waits Q) = queueRestored waits Q := by
  by_cases ho : Q.state = .orphaned
  · have live : (queueRestored waits Q).state ≠ .orphaned := by
      rw [(queueRestored_state ho).1]
      split
      · decide
      · exact hp
    generalize queueRestored waits Q = R at live
    rw [queueRestored, if_neg live]
  · rw [queueRestored, queueRestored, if_neg ho, if_neg ho]

theorem restoreQueue_queues (s : State) (q : Nat) : QueuesOnly s (restoreQueue s q) := by
  unfold restoreQueue
  dsimp only
  split <;> rfl

theorem getQ_restoreQueue (s : State) (q : Nat) : getQ (restoreQueue s q) q = queueRestored ((inFlight s q).any pendingWait) (getQ s q) := by
  unfold restoreQueue queueRestored
  dsimp only
  split
  · rw [getQ_setQ_same]
  · rfl

theorem getQ_restoreQueue_other (s : State) {j q : Nat} (h : j ≠ q) : getQ (restoreQueue s j) q = getQ s q := by
  unfold restoreQueue
  dsimp only
  split
  · exact getQ_setQ_other s _ h.symm
  · rfl

theorem echoCounter_log (s : State) (i : Nat) : LogOnly s (echoCounter s i) := by
  unfold echoCounter
  dsimp only
  split
  · exact hostWrite_log s _ _ _
  · rfl

theorem echoCounter_hosts (s : State) (i : Nat) : (echoCounter s i).hosts = s.hosts := by
  unfold echoCounter
  dsimp only
  split
  · exact hostWrite_hosts s _ _ _
  · rfl

/-- What a write of a log ring keeps of its port: all but the ring. -/
theorem ringWrite_port {β : Type} (g : HostPort → β) (hg : ∀ h L, g { h with log := L } = g h) (s : State) (p : Nat) (e : LogEv) : g (getH (ringWrite s p e) p) = g (getH s p) := by
  unfold ringWrite
  dsimp only
  generalize hu : hostWrite s (fidOf p 0) (fieldOf (logBase s p) 63 12 * 4096 + 64 * ((getH s p).log.head % logSize s p))
    (logBytes e (getH s p).log.seq (((getH s p).log.head / logSize s p + 1) % 2)) = u
  have written : g (getH (modLog u p (fun L => { L with head := L.head + 1, seq := L.seq + 1 })) p) = g (getH s p) := by
    rw [modLog, getH_modH_keeps g (fun h => hg h _), ← hu, getH_of_hosts (hostWrite_hosts s _ _ _)]
  split
  · rw [getH_of_hosts (raiseVec_hosts _ _ _), written]
  · exact written

theorem drainRing_port {β : Type} (g : HostPort → β) (hg : ∀ h L, g { h with log := L } = g h) (n : Nat) (s : State) (p : Nat) : g (getH (drainRing n s p) p) = g (getH s p) := by
  have taken (u : State) (f : LogRing → LogRing) (e : LogEv) : g (getH (modLog (ringWrite u p e) p f) p) = g (getH u p) := by
    rw [modLog, getH_modH_keeps g (fun h => hg h _), ringWrite_port g hg]
  induction n generalizing s with
  | zero => rfl
  | succ n ih =>
    unfold drainRing
    dsimp only
    split
    · rfl
    · split
      · rfl
      · split
        · exact (ih _).trans (taken s _ _)
        · exact (ih _).trans (taken s _ _)

/-- The port as ATTACH takes it. -/
def portAttached (s : State) (p : Nat) : State :=
  logEvent (modH s p (fun h => { h with att := 1, hbAt := s.now, limit := hbLimit s p, reason := 0, orphanAt := 0, lease := 0 })) (evOf 0x0D 0 sevInfo 0 [p, 1])

/-- The port and its queues as a reattachment takes them. -/
def portRestored (s : State) (p : Nat) : State := (queuesOf (portAttached s p) (portFids p)).foldl restoreQueue (portAttached s p)

/-- The counters of a port's functions. -/
def countersOf (s : State) (p : Nat) : List Nat := (s.tz.counters.filter (fun x => match x.2.owner with | some f => f / 64 == p | none => false)).map (·.1)

section
variable {s : State} {p : Nat}

theorem attachPort_attached (h : (getH s p).att = 1) : attachPort s p = s := if_pos h

theorem attachPort_detached (h : (getH s p).att = 0) : attachPort s p = portAttached s p := (if_neg (by rw [h]; decide)).trans (if_pos (by rw [h]; decide))

theorem attachPort_orphaned (h : (getH s p).att = 2) : attachPort s p = drainLog ((countersOf (portRestored s p) p).foldl echoCounter (portRestored s p)) p :=
  (if_neg (by rw [h]; decide)).trans (if_neg (by rw [h]; decide))

theorem getH_portAttached (hp : p < s.hosts.length) : (getH (portAttached s p) p).att = 1 ∧ (getH (portAttached s p) p).limit = hbLimit s p := by
  have port : getH (portAttached s p) p = { getH s p with att := 1, hbAt := s.now, limit := hbLimit s p, reason := 0, orphanAt := 0, lease := 0 } :=
    getH_modH (fun h => { h with att := 1, hbAt := s.now, limit := hbLimit s p, reason := 0, orphanAt := 0, lease := 0 }) hp
  rw [port]
  exact ⟨rfl, rfl⟩

theorem portRestored_queues (s : State) (p : Nat) : QueuesOnly (portAttached s p) (portRestored s p) := QueuesOnly.foldl restoreQueue_queues _ _

theorem echoed_log (u : State) (p : Nat) (l : List Nat) : LogOnly u (drainLog (l.foldl echoCounter u) p) :=
  (List.foldlRecOn (motive := LogOnly u) l echoCounter (LogOnly.refl u) (fun b hb i _ => hb.trans (echoCounter_log b i))).trans (drainLog_log _ p)

theorem echoed_att (u : State) (p : Nat) (l : List Nat) : (getH (drainLog (l.foldl echoCounter u) p) p).att = (getH u p).att := by
  rw [drainLog, drainRing_port HostPort.att (fun _ _ => rfl)]
  exact congrArg HostPort.att (getH_of_hosts (foldl_keeps State.hosts echoCounter echoCounter_hosts l u) p)

/-- The queues of an orphaned port as its reattachment leaves them. -/
theorem getQ_portRestored {q : Nat} {Q : Queue} (hf : s.tz.queues.find q = some Q) (hq : q < firmwareQueue) (hl : p * 64 ≤ Q.fid) (hu : Q.fid < p * 64 + 64) (ho : Q.prior ≠ .orphaned) :
    getQ (portRestored s p) q = queueRestored ((inFlight s q).any pendingWait) Q := by
  have present : getQ (portAttached s p) q = Q := by change getQ s q = Q; rw [getQ, Tbl.get, hf]; rfl
  have mine : q ∈ queuesOf s (portFids p) := mem_queuesOf_port.mpr ⟨hq, (q, Q), Tbl.mem_of_find hf, rfl, hl, hu⟩
  have done := getQ_foldl_same (K := fun u => u.tz.started = s.tz.started) (g := queueRestored ((inFlight s q).any pendingWait)) (fun u j hu => (restoreQueue_queues u j).started.trans hu)
    (fun u hu => by rw [getQ_restoreQueue, inFlight, hu, ← inFlight]) (fun u _ => getQ_restoreQueue_other u) mine (s := portAttached s p) rfl (queueRestored_twice (by rw [present]; exact ho))
  exact done.trans (congrArg _ present)
end

/-! ### The rows -/

section
variable {s : State} {p : Nat} {who : Req}

theorem ownsPort_self (hp : p < 2) : ownsPort { port := p, fn := 0, peer := none } p = true := by simp [ownsPort, hp]

theorem exec_attachment_foreign (hh : s.halted = false) (v : W64) (h : ownsPort who who.port = false) :
    exec (.heartbeat who v) s = .next s ∧ exec (.attach who) s = .next s ∧ exec (.detach who) s = .next s :=
  ⟨alive_unchanged hh (if_pos h), alive_unchanged hh (if_pos h), alive_unchanged hh (if_pos h)⟩

theorem execHeartbeat_orphaned (hh : s.halted = false) (v : W64) (ho : ownsPort who who.port = true) (h : (getH s who.port).att = 2) : exec (.heartbeat who v) s = .next s :=
  alive_unchanged hh ((if_neg (by rw [ho]; decide)).trans (if_pos h))

theorem execHeartbeat_beats (hh : s.halted = false) (v : W64) (ho : ownsPort who who.port = true) (h : (getH s who.port).att ≠ 2) :
    exec (.heartbeat who v) s = .next (renewHost (modH s who.port (fun h => { h with att := 1, hb := v, hbAt := s.now, limit := hbLimit s who.port })) who.port) :=
  alive_leads_plain hh ((if_neg (by rw [ho]; decide)).trans (if_neg h)) rfl rfl rfl

theorem renewHost_renews {d : DraftNode} (hd : d ∈ s.rgn.drafts) (hr : d.reserver = self s) (hp : d.port = p) :
    { d with renewed := s.now, term := leaseTerm s } ∈ (renewHost s p).rgn.drafts :=
  List.mem_map.mpr ⟨d, hd, if_pos (by simp [hr, hp])⟩

theorem renewHost_others {d : DraftNode} (hd : d ∈ s.rgn.drafts) (h : d.reserver ≠ self s ∨ d.port ≠ p) : d ∈ (renewHost s p).rgn.drafts :=
  List.mem_map.mpr ⟨d, hd, if_neg (by simpa [← not_and_or] using h)⟩

theorem execHeartbeatMiss_orphans (hh : s.halted = false) (ha : (getH s p).att = 1) (hl : (getH s p).hbAt + (getH s p).limit ≤ s.now) : exec (.heartbeatMiss p) s = .next (orphanPort s p) := by
  obtain ⟨pages, dev, models⟩ := orphanPort_plain s p
  exact alive_leads_plain hh (if_pos ⟨ha, hl⟩) pages dev models

theorem execHeartbeatMiss_before (hh : s.halted = false) (h : (getH s p).att ≠ 1 ∨ s.now < (getH s p).hbAt + (getH s p).limit) : exec (.heartbeatMiss p) s = .next s := by
  refine alive_unchanged hh (if_neg ?_)
  rintro ⟨ha, hl⟩
  exact h.elim (absurd ha) (Nat.not_lt.mpr hl)

theorem attachWrite_detach (ho : ownsPort who p = true) : attachWrite s who p 2 = if (getH s p).att = 1 then orphanPort s p else s := by
  have detach : bitOf 2 1 = true := rfl
  have attach : bitOf 2 0 = false := rfl
  rw [attachWrite, detach, attach, ho]
  simp

theorem execDetach_attached (hh : s.halted = false) (ho : ownsPort who who.port = true) (ha : (getH s who.port).att = 1) : exec (.detach who) s = .next (orphanPort s who.port) := by
  obtain ⟨pages, dev, models⟩ := orphanPort_plain s who.port
  exact alive_leads_plain hh ((attachWrite_detach ho).trans (if_pos ha)) pages dev models

theorem execDetach_other (hh : s.halted = false) (ho : ownsPort who who.port = true) (ha : (getH s who.port).att ≠ 1) : exec (.detach who) s = .next s :=
  alive_unchanged hh ((attachWrite_detach ho).trans (if_neg ha))

theorem attachWrite_attaches (ho : ownsPort who p = true) : attachWrite s who p 1 = attachPort s p := (attachWrite_attach s who p).trans (if_neg (by rw [ho]; decide))

theorem execAttach_attached (hh : s.halted = false) (ho : ownsPort who who.port = true) (ha : (getH s who.port).att = 1) : exec (.attach who) s = .next s :=
  alive_unchanged hh ((attachWrite_attaches ho).trans (attachPort_attached ha))

theorem execAttach_detached (hh : s.halted = false) (hp : who.port < s.hosts.length) (ho : ownsPort who who.port = true) (ha : (getH s who.port).att = 0) :
    ∃ t, exec (.attach who) s = .next t ∧ (getH t who.port).att = 1 ∧ (getH t who.port).limit = hbLimit s who.port ∧ t.tz = s.tz := by
  obtain ⟨att, limit⟩ := getH_portAttached hp
  exact ⟨_, alive_leads_plain hh ((attachWrite_attaches ho).trans (attachPort_detached ha)) rfl rfl rfl, att, limit, rfl⟩

theorem execAttach_orphaned (hh : s.halted = false) (hp : who.port < s.hosts.length) (ho : ownsPort who who.port = true) (ha : (getH s who.port).att = 2) :
    ∃ t, exec (.attach who) s = .next t ∧ (getH t who.port).att = 1 ∧ t.tz.counters = s.tz.counters ∧
      ∀ q Q, s.tz.queues.find q = some Q → q < firmwareQueue → who.port * 64 ≤ Q.fid → Q.fid < who.port * 64 + 64 → Q.state = .orphaned → Q.prior ≠ .orphaned →
        ((getQ t q).state = (if Q.prior = .waiting ∧ (inFlight s q).any pendingWait = false then .active else Q.prior) ∧ (getQ t q).head = Q.head ∧ (getQ t q).tail = Q.tail) := by
  have restoring := portRestored_queues s who.port
  have echoing := echoed_log (portRestored s who.port) who.port (countersOf (portRestored s who.port) who.port)
  refine ⟨_, alive_leads_plain hh ((attachWrite_attaches ho).trans (attachPort_orphaned ha)) (echoing.pages.trans restoring.pages) (echoing.dev.trans restoring.dev)
    (echoing.models.trans restoring.models), ?_, ?_, fun q Q hf hq hl hu hs hr => ?_⟩
  · rw [echoed_att, getH_of_hosts restoring.hosts]
    exact (getH_portAttached hp).1
  · rw [echoing.tz, restoring.counters]
    rfl
  · rw [getQ_of_queues (congrArg Tz.queues echoing.tz), getQ_portRestored hf hq hl hu hr]
    exact queueRestored_state hs

theorem execReattachLeaseExpiry_before (hh : s.halted = false) (h : (getH s p).att ≠ 2 ∨ s.now < (getH s p).orphanAt + (getH s p).lease * 1000000) :
    exec (.reattachLeaseExpiry p) s = .next s := by
  refine alive_unchanged hh (if_neg ?_)
  rintro ⟨ha, hl⟩
  exact h.elim (absurd ha) (Nat.not_lt.mpr hl)

/-- The port of a host whose lease is over: its regions revoked, its windows retired, its functions reset. -/
def leaseOver (s : State) (p : Nat) : State := resetFunctions (retireWindows (revokeHostRegions s (portFids p)) p) p (List.range 64)

/-- The state as the end of the lease leaves it, the port DETACHED and the event logged. -/
def portLeft (s : State) (p : Nat) : State := logEvent (modH (leaseOver s p) p (fun h => { h with att := 0, orphanAt := 0, lease := 0 })) (evOf 0x0D 0 sevInfo 0 [p, 0])

theorem portLeft_keeps (s : State) (p : Nat) : (portLeft s p).tz = (leaseOver s p).tz ∧ (portLeft s p).ident = (leaseOver s p).ident ∧ (portLeft s p).pages = (leaseOver s p).pages := by
  rw [portLeft, logEvent_tz, logEvent_ident, logEvent_pages, modH_tz, modH_ident, modH_pages]
  exact ⟨rfl, rfl, rfl⟩

theorem leaseOver_retired (hq : queuesOf s (portFids p) = []) (hc : s.own.copies = []) :
    (leaseOver s p).tz.counters = (freeCounters s (portFids p)).tz.counters ∧ (∀ w ∈ (leaseOver s p).ident.windows, w.port = p → w.retired = true) ∧
      ∀ x ∈ (leaseOver s p).pages, x.host ≠ some p := by
  have tz : (revokeHostRegions s (portFids p)).tz = s.tz := revokeHostRegions_keeps State.tz setK_tz _ _
  have uncopied : (revokeHostRegions s (portFids p)).own.copies = [] := (revokeHostRegions_keeps (fun s => s.own.copies) (fun _ _ _ => rfl) _ _).trans hc
  have retired := (retireWindows_tz (p := p) uncopied).trans tz
  have idle : queuesOf (retireWindows (revokeHostRegions s (portFids p)) p) (portFids p) = [] := (queuesOf_of_tz retired _).trans hq
  refine ⟨?_, ?_, ?_⟩
  · refine (resetFunctions_idle (fun s => s.tz.counters) (fun _ _ _ => rfl) idle).trans ?_
    change (freeCounters _ (portFids p)).tz.counters = _
    rw [freeCounters, retired, freeCounters]
  · have windows : (leaseOver s p).ident = _ := resetFunctions_idle State.ident setK_ident idle
    rw [windows]
    exact retireWindows_windows uncopied
  · have pages : (leaseOver s p).pages = _ := resetFunctions_idle State.pages setK_pages idle
    rw [pages]
    exact retireWindows_pages uncopied

theorem execReattachLeaseExpiry_detaches (hh : s.halted = false) (ha : (getH s p).att = 2) (hl : (getH s p).orphanAt + (getH s p).lease * 1000000 ≤ s.now) :
    ∃ t, exec (.reattachLeaseExpiry p) s = .next t ∧ (getH t p).att = 0 ∧
      (queuesOf s (portFids p) = [] → s.own.copies = [] → t.tz.counters = (freeCounters s (portFids p)).tz.counters ∧ (∀ w ∈ t.ident.windows, w.port = p → w.retired = true) ∧
        ∀ x ∈ t.pages, x.host ≠ some p) := by
  refine ⟨retag s (portLeft s p), alive_leads hh (if_pos ⟨ha, hl⟩), ?_, fun hq hc => ?_⟩
  · rw [getH_of_hosts (retag_hosts s _), portLeft, getH_of_hosts (logEvent_hosts _ _)]
    exact getH_modH_becomes HostPort.att (leaseOver s p) p
  · obtain ⟨counters, windows, pages⟩ := leaseOver_retired hq hc
    obtain ⟨sameTz, sameIdent, samePages⟩ := portLeft_keeps s p
    rw [retag_tz, retag_ident, sameTz, sameIdent]
    refine ⟨counters, windows, fun x hx => ?_⟩
    obtain ⟨y, hy, same⟩ := retag_pages_from hx
    have host : x.host = y.host := by rcases same with rfl | rfl <;> rfl
    exact host ▸ pages y (samePages ▸ hy)
end

/-- Settles O48, by the lemma of each row and of each state of the port. -/
theorem attachmentRows : Obligations.AttachmentRows := by
  unfold Obligations.AttachmentRows
  intro s p hh hp hl
  have here : p < s.hosts.length := hl ▸ hp
  have own := ownsPort_self hp
  obtain ⟨orphaned, orphanedAt⟩ := orphanPort_att here
  exact ⟨fun who v => exec_attachment_foreign hh v, fun v => execHeartbeat_orphaned hh v own, fun v => execHeartbeat_beats hh v own, fun d => renewHost_renews, fun d => renewHost_others,
    rfl, rfl, rfl, execHeartbeatMiss_orphans hh, execHeartbeatMiss_before hh, orphaned, orphanedAt, fun q Q => orphanPort_orphans, fun q => orphanPort_others,
    execDetach_attached hh own, execDetach_other hh own, execAttach_attached hh own, execAttach_detached hh here own, execAttach_orphaned hh here own,
    execReattachLeaseExpiry_before hh, execReattachLeaseExpiry_detaches hh, fun fids => ⟨freeCounters_owner s fids, freeCounters_grants s fids⟩⟩

end Sys2Proof.Machine
end

section
/-!
PROOF. The mailbox: a row stores its request and runs the command in it, and what each of the nine commands answers (R537 to R539, R543).
-/

namespace Sys2Proof.Machine

open Sys2Proof

/-! ### A request stored in registers reads back -/

theorem sliceBytes_length (bs : List Byte) (off n : Nat) : (sliceBytes bs off n).length = n := by
  simp only [sliceBytes, List.length_append, List.length_take, List.length_drop, List.length_replicate]
  omega

theorem leVal_lt (bs : List Byte) : leVal bs < 256 ^ bs.length := by
  induction bs with
  | nil => exact Nat.one_pos
  | cons b bs ih =>
    rw [leVal, List.length_cons, Nat.pow_succ]
    have := b.isLt
    omega

theorem leBytes_leVal (bs : List Byte) : leBytes bs.length (leVal bs) = bs := by
  induction bs with
  | nil => rfl
  | cons b bs ih =>
    have low : BitVec.ofNat 8 (b.toNat + 256 * leVal bs) = b := by
      apply BitVec.eq_of_toNat_eq
      rw [BitVec.toNat_ofNat]
      have := b.isLt
      omega
    have high : (b.toNat + 256 * leVal bs) / 256 = leVal bs := by
      have := b.isLt
      omega
    rw [List.length_cons, leBytes, leVal, low, high, ih]

/-- A word of eight bytes stored and read back. -/
theorem leBytes_word (bs : List Byte) (off : Nat) : leBytes 8 (BitVec.ofNat 64 (fieldBytes bs off 8)).toNat = sliceBytes bs off 8 := by
  have len := sliceBytes_length bs off 8
  have small : fieldBytes bs off 8 < 2 ^ 64 := by
    have := leVal_lt (sliceBytes bs off 8)
    rw [len] at this
    exact this
  rw [BitVec.toNat_ofNat, Nat.mod_eq_of_lt small]
  have back := leBytes_leVal (sliceBytes bs off 8)
  rwa [len] at back

theorem sliceBytes_inside {bs : List Byte} {off n : Nat} (h : off + n ≤ bs.length) : sliceBytes bs off n = (bs.drop off).take n := by
  have none : n - (bs.length - off) = 0 := by omega
  rw [sliceBytes, none, List.replicate_zero, List.append_nil]

/-- The words of a list of bytes, one after the other, are its bytes. -/
theorem flatMap_words (bs : List Byte) (n : Nat) (h : 8 * n ≤ bs.length) : (List.range n).flatMap (fun k => sliceBytes bs (8 * k) 8) = bs.take (8 * n) := by
  induction n with
  | zero => rfl
  | succ n ih =>
    rw [List.range_succ, List.flatMap_append, ih (by omega), List.flatMap_singleton, sliceBytes_inside (by omega), Nat.mul_succ, List.take_add]

/-- A register of a family, each written once, reads what was written to it. -/
theorem foldl_setReg_reads {key : Nat → Nat} (inj : ∀ a b, key a = key b → a = b) (f : Nat → W64) (d : W64) (s : State) (n k : Nat) (h : k < n) :
    ((List.range n).foldl (fun s k => setReg s (key k) (f k)) s).regs.get d (key k) = f k := by
  induction n with
  | zero => exact absurd h (Nat.not_lt_zero k)
  | succ n ih =>
    rw [List.range_succ, List.foldl_append]
    by_cases e : k = n
    · subst e
      exact setReg_same _ _ _ d
    · exact (Tbl.get_set_ne _ d _ _ _ (fun x => e (inj _ _ x).symm)).trans (ih (by omega))

theorem foldl_setReg_regs {key : Nat → Nat} (f : Nat → W64) (s : State) (l : List Nat) : ∃ r : Tbl W64, l.foldl (fun s k => setReg s (key k) (f k)) s = { s with regs := r } :=
  List.foldlRecOn (motive := fun t => ∃ r : Tbl W64, t = { s with regs := r }) l _ ⟨s.regs, rfl⟩ (fun t ht k _ => ht.elim (fun r hr => ⟨(setReg t (key k) (f k)).regs, by rw [hr]; rfl⟩))

/-- The request bytes of a mailbox row: its command byte is forced. -/
def mboxBytes (cmd : Nat) (req : List Byte) : List Byte := leBytes 1 cmd ++ sliceBytes req 1 63

/-- The state with a request in the mailbox's registers. -/
def mboxStored (s : State) (p cmd : Nat) (req : List Byte) : State :=
  (List.range 8).foldl (fun s k => setReg s (portKey p (0x900100 + 8 * k)) (BitVec.ofNat 64 (fieldBytes (mboxBytes cmd req) (8 * k) 8))) s

theorem mboxBytes_length (cmd : Nat) (req : List Byte) : (mboxBytes cmd req).length = 64 := by
  rw [mboxBytes, List.length_append, leBytes_length, sliceBytes_length]

/-- The request read back is the request stored, whatever FWM_MBOX_CTRL holds. -/
theorem mboxReq_stored (s : State) (p cmd : Nat) (req : List Byte) (w : W64) : mboxReq (setReg (mboxStored s p cmd req) (portKey p 0x900180) w) p = mboxBytes cmd req := by
  have word (k : Nat) (h : k < 8) : leBytes 8 (portReg (setReg (mboxStored s p cmd req) (portKey p 0x900180) w) p (0x900100 + 8 * k) 0).toNat =
      sliceBytes (mboxBytes cmd req) (8 * k) 8 := by
    have stored : portReg (setReg (mboxStored s p cmd req) (portKey p 0x900180) w) p (0x900100 + 8 * k) 0 = BitVec.ofNat 64 (fieldBytes (mboxBytes cmd req) (8 * k) 8) :=
      (Tbl.get_set_ne _ _ _ _ _ (by unfold portKey; omega)).trans
        (foldl_setReg_reads (key := fun k => portKey p (0x900100 + 8 * k)) (fun a b e => by unfold portKey at e; omega) _ _ s 8 k h)
    rw [stored, leBytes_word]
  have words : mboxReq (setReg (mboxStored s p cmd req) (portKey p 0x900180) w) p = (List.range 8).flatMap (fun k => sliceBytes (mboxBytes cmd req) (8 * k) 8) :=
    List.flatMap_congr (fun k hk => word k (List.mem_range.mp hk))
  have len := mboxBytes_length cmd req
  rw [words, flatMap_words _ _ (by omega), List.take_of_length_le (by omega)]

/-! ### A command looks at no register -/

/-- What a mailbox command does, with other registers. -/
def withRegs (r : Tbl W64) (x : MboxOut) : MboxOut := (x.1, x.2.1, { x.2.2 with regs := r })

section
variable {r : Tbl W64} {s : State} {p fid : Nat} {req : List Byte}

theorem withRegs_ite {c : Prop} [Decidable c] {a b a' b' : MboxOut} (ha : a' = withRegs r a) (hb : b' = withRegs r b) :
    (if c then a' else b') = withRegs r (if c then a else b) := by
  split
  · exact ha
  · exact hb

theorem withRegs_own (n : Nat) {a a' : MboxOut} (ha : a' = withRegs r a) :
    (match n with | 0 => a' | c => mboxFail { s with regs := r } c) = withRegs r (match n with | 0 => a | c => mboxFail s c) := by
  cases n with
  | zero => exact ha
  | succ n => rfl

theorem mboxAlloc_regs : mboxAlloc { s with regs := r } fid req = withRegs r (mboxAlloc s fid req) := by
  refine withRegs_ite rfl ?_
  change (match firstFrom (fun i => decide (i + fieldBytes req 8 2 ≤ 65535) && (List.range (fieldBytes req 8 2)).all (fun k => (getC s (i + k)).owner.isNone)) 65535 0 with
    | none => _ | some i => _) = withRegs r (match firstFrom (fun i => decide (i + fieldBytes req 8 2 ≤ 65535) && (List.range (fieldBytes req 8 2)).all (fun k => (getC s (i + k)).owner.isNone)) 65535 0 with
    | none => _ | some i => _)
  cases firstFrom (fun i => decide (i + fieldBytes req 8 2 ≤ 65535) && (List.range (fieldBytes req 8 2)).all (fun k => (getC s (i + k)).owner.isNone)) 65535 0 <;> rfl

/-- The command that a request names, run without the checks common to all of them. -/
def mboxDo (s : State) (p : Nat) (req : List Byte) : MboxOut :=
  match fieldBytes req 0 1 with
  | 1 => mboxAlloc s (fidOf p (fieldBytes req 1 1)) req
  | 2 => mboxFree s (fidOf p (fieldBytes req 1 1)) req
  | 3 => mboxEcho s (fidOf p (fieldBytes req 1 1)) req
  | 4 => mboxGrant s (fidOf p (fieldBytes req 1 1)) req
  | 5 => mboxFabric s (fidOf p (fieldBytes req 1 1)) req
  | 6 => mboxPeer s (fidOf p (fieldBytes req 1 1)) req (some (fieldBytes req 10 2))
  | 7 => mboxPeer s (fidOf p (fieldBytes req 1 1)) req none
  | 8 => mboxAperture s p (fieldBytes req 1 1) req
  | 9 => mboxNotify s p (fieldBytes req 1 1) req
  | _ => mboxFail s Code.tzFormat

theorem mboxRun_eq (s : State) (p : Nat) (req : List Byte) : mboxRun s p req =
    if 64 ≤ fieldBytes req 1 1 ∨ mboxReserved req = true ∨ (mboxDo s p req).1 = Code.tzFormat then mboxFail s Code.tzFormat
    else if fnEnabled s p (fieldBytes req 1 1) = false then mboxFail s Code.tzRights else mboxDo s p req := rfl

theorem mboxDo_regs : mboxDo { s with regs := r } p req = withRegs r (mboxDo s p req) := by
  unfold mboxDo
  split
  · exact mboxAlloc_regs
  · exact withRegs_ite rfl (withRegs_ite rfl rfl)
  · exact withRegs_ite rfl (withRegs_own _ rfl)
  · exact withRegs_ite rfl (withRegs_own _ rfl)
  · exact withRegs_own _ rfl
  · exact withRegs_ite rfl (withRegs_ite rfl rfl)
  · exact withRegs_ite rfl (withRegs_ite rfl rfl)
  · exact withRegs_ite rfl (withRegs_ite rfl rfl)
  · exact withRegs_ite rfl (withRegs_ite rfl rfl)
  · rfl

theorem mboxRun_regs : mboxRun { s with regs := r } p req = withRegs r (mboxRun s p req) := by
  rw [mboxRun_eq, mboxRun_eq, mboxDo_regs]
  exact withRegs_ite rfl (withRegs_ite rfl rfl)

/-- A command changes the number of no ports. -/
theorem mboxRun_ports : (mboxRun s p req).2.2.hosts.length = s.hosts.length := by
  have either {c : Prop} [Decidable c] {x y : MboxOut} (hx : x.2.2.hosts.length = s.hosts.length) (hy : y.2.2.hosts.length = s.hosts.length) :
      (if c then x else y).2.2.hosts.length = s.hosts.length := by
    split
    · exact hx
    · exact hy
  have own (n : Nat) {x : MboxOut} (hx : x.2.2.hosts.length = s.hosts.length) : (match n with | 0 => x | c => mboxFail s c).2.2.hosts.length = s.hosts.length := by
    split
    · exact hx
    · rfl
  rw [mboxRun_eq]
  refine either rfl (either rfl ?_)
  unfold mboxDo
  split
  · refine either rfl ?_
    dsimp only
    split <;> rfl
  · exact either rfl (either rfl rfl)
  · exact either rfl (own _ rfl)
  · exact either rfl (own _ rfl)
  · exact own _ rfl
  · exact either rfl (either rfl rfl)
  · exact either rfl (either rfl rfl)
  · exact either rfl (either rfl (modH_length s p _))
  · exact either rfl (either rfl rfl)
  · rfl
end

/-! ### The rows -/

section
variable {s : State} {who : Req} {req : List Byte} {n : Nat}

/-- What firmware leaves that serves the mailbox: queues, counters and notifications as the command leaves them, its code and response at the port. -/
theorem mboxGo_leaves {u : State} {p : Nat} (hp : p < u.hosts.length) : let x := mboxRun u p (mboxReq u p)
    (mboxGo u p).tz = x.2.2.tz ∧ (mboxGo u p).notify = x.2.2.notify ∧ (getH (mboxGo u p) p).mboxResult = x.1 ∧ (getH (mboxGo u p) p).mboxRsp = x.2.1 ∧
      (getH (mboxGo u p) p).apertures = (getH x.2.2 p).apertures := by
  dsimp only
  have ports : (mboxRun u p (mboxReq u p)).2.2.hosts.length = u.hosts.length := mboxRun_ports
  unfold mboxGo
  generalize mboxRun u p (mboxReq u p) = x at ports
  have port : getH (modH x.2.2 p (fun h => { h with mboxResult := x.1, mboxRsp := x.2.1 })) p = _ := getH_modH _ (ports ▸ hp)
  dsimp only
  split
  · rw [getH_of_hosts (raiseVec_hosts _ _ _), port, raiseVec_tz, raiseVec_eq]
    exact ⟨rfl, rfl, rfl, rfl, rfl⟩
  · rw [port]
    exact ⟨rfl, rfl, rfl, rfl, rfl⟩

theorem mboxCommand_taken (ho : ownsPort who who.port = true) (hb : bitOf (mboxCtrl s who.port) 47 = false) :
    mboxCommand s who n req = mboxCtrlWrite (mboxStored s who.port n req) who who.port (mboxCtrl (mboxStored s who.port n req) who.port ||| 0x10000) :=
  if_neg (by rw [ho, hb]; decide)

theorem mboxStored_regs (s : State) (p n : Nat) (req : List Byte) : ∃ r : Tbl W64, mboxStored s p n req = { s with regs := r } :=
  foldl_setReg_regs (key := fun k => portKey p (0x900100 + 8 * k)) _ s (List.range 8)

/-- The word that a row leaves in FWM_MBOX_CTRL: BUSY where firmware does not serve it yet, VEC_EN and VECTOR. -/
def mboxWord (busy vecOn : Bool) (vec : Nat) : W64 := BitVec.ofNat 64 (bit busy * 2 ^ 47 + bit vecOn * 2 ^ 15 + vec)

theorem mboxWord_busy (b : Bool) {vec : Nat} (h : vec < 2048) : bitOf (mboxWord true b vec) 47 = true := by
  rw [mboxWord, bitOf, beq_iff_eq, BitVec.toNat_ofNat]
  cases b <;> simp [bit] <;> omega

/-- GO starts the command where firmware serves it, and leaves BUSY where it does not (R537). -/
theorem mboxCtrlWrite_goes {u : State} {p : Nat} {v : W64} (ho : ownsPort who p = true) (go : bitOf v 16 = true) : ∃ b vec, vec < 2048 ∧
    mboxCtrlWrite u who p v = (if fwServes u then mboxGo (setReg u (portKey p 0x900180) (mboxWord (!fwServes u) b vec)) p
      else setReg u (portKey p 0x900180) (mboxWord (!fwServes u) b vec)) := by
  refine ⟨bitOf v 15, if fieldOf v 10 0 < vecTable (fidOf p 0) then fieldOf v 10 0 else fieldOf (mboxCtrl u p) 10 0, ?_, ?_⟩
  · split
    · exact fieldOf_lt v 10 0
    · exact fieldOf_lt (mboxCtrl u p) 10 0
  · unfold mboxCtrlWrite mboxWord
    rw [if_neg (by simp [ho]), go]
    simp only [Bool.true_or, Bool.true_and]
    rfl

theorem go_set (w : W64) : bitOf (w ||| 0x10000) 16 = true := (bitOf_or w 0x10000 16).trans (Bool.or_true _)

theorem mboxCommand_served (hh : s.halted = false) (ho : ownsPort who who.port = true) (hb : bitOf (mboxCtrl s who.port) 47 = false) (hf : fwServes s = true) (hl : s.hosts.length = 2) :
    ∃ t, alive s (mboxCommand s who n req) = .next t ∧ mboxLeft s who n req t := by
  obtain ⟨b, vec, -, goes⟩ := mboxCtrlWrite_goes (u := mboxStored s who.port n req) ho (go_set (mboxCtrl (mboxStored s who.port n req) who.port))
  obtain ⟨r, stored⟩ := mboxStored_regs s who.port n req
  have serves : fwServes (mboxStored s who.port n req) = true := by rw [stored]; exact hf
  rw [serves, if_pos rfl] at goes
  generalize hu : setReg (mboxStored s who.port n req) (portKey who.port 0x900180) (mboxWord (!true) b vec) = u at goes
  have regs : u = { s with regs := u.regs } := by rw [← hu, stored]; rfl
  have back : mboxReq u who.port = mboxBytes n req := hu ▸ mboxReq_stored s who.port n req _
  have only := mboxGo_serve u who.port
  have plain : (mboxGo u who.port).pages = s.pages ∧ (mboxGo u who.port).dev = s.dev ∧ (mboxGo u who.port).models = s.models := by
    rw [only, regs]
    exact ⟨rfl, rfl, rfl⟩
  obtain ⟨pages, dev, models⟩ := plain
  refine ⟨_, alive_leads_plain hh ((mboxCommand_taken ho hb).trans goes) pages dev models, ?_⟩
  have left := mboxGo_leaves (u := u) (p := who.port) (by rw [regs]; exact hl ▸ ownsPort_lt ho)
  have run : mboxRun u who.port (mboxReq u who.port) = withRegs u.regs (mboxRun s who.port (mboxBytes n req)) := by
    rw [back, regs, mboxRun_regs]
  rw [run] at left
  exact left

theorem mboxCommand_waits (hh : s.halted = false) (ho : ownsPort who who.port = true) (hb : bitOf (mboxCtrl s who.port) 47 = false) (hf : fwServes s = false) :
    ∃ t, alive s (mboxCommand s who n req) = .next t ∧ t.tz = s.tz ∧ bitOf (mboxCtrl t who.port) 47 = true := by
  obtain ⟨b, vec, small, goes⟩ := mboxCtrlWrite_goes (u := mboxStored s who.port n req) ho (go_set (mboxCtrl (mboxStored s who.port n req) who.port))
  obtain ⟨r, stored⟩ := mboxStored_regs s who.port n req
  have serves : fwServes (mboxStored s who.port n req) = false := by rw [stored]; exact hf
  rw [serves, if_neg (by decide)] at goes
  have kept : (mboxStored s who.port n req).tz = s.tz ∧ (mboxStored s who.port n req).pages = s.pages ∧ (mboxStored s who.port n req).dev = s.dev ∧
      (mboxStored s who.port n req).models = s.models := by
    rw [stored]
    exact ⟨rfl, rfl, rfl, rfl⟩
  obtain ⟨tz, pages, dev, models⟩ := kept
  refine ⟨_, alive_leads_plain hh ((mboxCommand_taken ho hb).trans goes) pages dev models, tz, ?_⟩
  exact (congrArg (fun w => bitOf w 47) (setReg_same _ _ _ 0)).trans (mboxWord_busy b small)

theorem mboxCommand_ignored (h : ownsPort who who.port = false ∨ bitOf (mboxCtrl s who.port) 47 = true) : mboxCommand s who n req = s := if_pos h

/-- Each mailbox row is `mboxCommand` of its command byte. -/
theorem exec_mailbox {c : Instr} (h : (n, c) ∈ [(1, Instr.counterAlloc who req), (2, .counterFree who req), (3, .counterEcho who req), (4, .counterGrant who req), (5, .counterFabric who req),
    (6, .peerOpen who req), (7, .peerClose who req), (8, .vfAperture who req), (9, .notify who req)]) : exec c s = alive s (mboxCommand s who n req) := by
  simp only [List.mem_cons, List.not_mem_nil, or_false, Prod.mk.injEq] at h
  rcases h with ⟨rfl, rfl⟩ | ⟨rfl, rfl⟩ | ⟨rfl, rfl⟩ | ⟨rfl, rfl⟩ | ⟨rfl, rfl⟩ | ⟨rfl, rfl⟩ | ⟨rfl, rfl⟩ | ⟨rfl, rfl⟩ | ⟨rfl, rfl⟩ <;> rfl
end

/-! ### The checks common to the commands -/

section
variable {s : State} {p : Nat} {req : List Byte}

theorem mboxRun_malformed (h : 64 ≤ fieldBytes req 1 1 ∨ mboxReserved req = true ∨ 9 < fieldBytes req 0 1 ∨ fieldBytes req 0 1 = 0) : mboxRun s p req = (Code.tzFormat, [], s) := by
  rw [mboxRun_eq]
  refine if_pos (h.imp_right (Or.imp_right fun unknown => ?_))
  unfold mboxDo
  split
  case h_10 => rfl
  all_goals omega

theorem mboxRun_disabled (hv : (getH s p).vfs < fieldBytes req 1 1) :
    (mboxRun s p req).1 = Code.tzFormat ∨ mboxRun s p req = (Code.tzRights, [], s) := by
  rw [mboxRun_eq]
  split
  · exact .inl rfl
  · exact .inr (if_pos (decide_eq_false (Nat.not_le.mpr hv)))

section
variable (hf : fieldBytes req 1 1 < 64) (hr : mboxReserved req = false) (hv : fieldBytes req 1 1 ≤ (getH s p).vfs)
include hf hr hv

/-- A request that passes the checks answers what its command does. -/
theorem mboxRun_passes {code : Nat} {rsp : List Byte} {u : State} (h : mboxDo s p req = (code, rsp, u)) (hx : code ≠ Code.tzFormat) : mboxRun s p req = (code, rsp, u) := by
  have enabled : fnEnabled s p (fieldBytes req 1 1) = true := decide_eq_true hv
  rw [mboxRun_eq, h, if_neg (by rw [hr]; simp [hx, hf]), enabled]
  rfl
end

theorem mboxRun_misformed (h : (mboxDo s p req).1 = Code.tzFormat) : mboxRun s p req = (Code.tzFormat, [], s) := by
  rw [mboxRun_eq]
  exact if_pos (.inr (.inr h))
end

/-! ### The commands -/

section
variable {s : State} {p fid : Nat} {req : List Byte}

theorem mboxDo_alloc (h : fieldBytes req 0 1 = 1) : mboxDo s p req = mboxAlloc s (fidOf p (fieldBytes req 1 1)) req := by rw [mboxDo, h]; rfl
theorem mboxDo_free (h : fieldBytes req 0 1 = 2) : mboxDo s p req = mboxFree s (fidOf p (fieldBytes req 1 1)) req := by rw [mboxDo, h]; rfl
theorem mboxDo_echo (h : fieldBytes req 0 1 = 3) : mboxDo s p req = mboxEcho s (fidOf p (fieldBytes req 1 1)) req := by rw [mboxDo, h]; rfl
theorem mboxDo_grant (h : fieldBytes req 0 1 = 4) : mboxDo s p req = mboxGrant s (fidOf p (fieldBytes req 1 1)) req := by rw [mboxDo, h]; rfl
theorem mboxDo_fabric (h : fieldBytes req 0 1 = 5) : mboxDo s p req = mboxFabric s (fidOf p (fieldBytes req 1 1)) req := by rw [mboxDo, h]; rfl
theorem mboxDo_peer (h : fieldBytes req 0 1 = 6 ∨ fieldBytes req 0 1 = 7) :
    mboxDo s p req = mboxPeer s (fidOf p (fieldBytes req 1 1)) req (if fieldBytes req 0 1 = 6 then some (fieldBytes req 10 2) else none) := by
  rcases h with h | h <;> rw [mboxDo, h] <;> rfl
theorem mboxDo_aperture (h : fieldBytes req 0 1 = 8) : mboxDo s p req = mboxAperture s p (fieldBytes req 1 1) req := by rw [mboxDo, h]; rfl
theorem mboxDo_notify (h : fieldBytes req 0 1 = 9) : mboxDo s p req = mboxNotify s p (fieldBytes req 1 1) req := by rw [mboxDo, h]; rfl

/-- The counters from `k` on, `n` of them, each of one function. -/
def ownedRun (t : Tbl Counter) (fid k n : Nat) : Tbl Counter := (List.range n).foldl (fun t j => t.set (k + j) { Counter.init with owner := some fid }) t

theorem ownedRun_find (t : Tbl Counter) (fid k n i : Nat) : (ownedRun t fid k n).find i = if k ≤ i ∧ i < k + n then some { Counter.init with owner := some fid } else t.find i := by
  unfold ownedRun
  induction n with
  | zero => exact (if_neg (by omega)).symm
  | succ n ih =>
    rw [List.range_succ, List.foldl_append]
    refine (Tbl.find_set _ _ _ _).trans ?_
    rw [ih]
    by_cases e : k + n = i
    · rw [if_pos e, if_pos (by omega)]
    · rw [if_neg e]
      exact if_congr (by omega) rfl rfl

/-- The lowest run of free counters, where there is one (R538). -/
def freeRun (s : State) (n : Nat) : Option Nat := firstFrom (fun a => decide (a + n ≤ 65535) && (List.range n).all (fun j => (getC s (a + j)).owner.isNone)) 65535 0

theorem mboxAlloc_grants {k : Nat} (h1 : 1 ≤ fieldBytes req 8 2) (h2 : fieldBytes req 8 2 ≤ 4096) (hk : freeRun s (fieldBytes req 8 2) = some k) :
    mboxAlloc s fid req = (0, leBytes 2 k, { s with tz := { s.tz with counters := ownedRun s.tz.counters fid k (fieldBytes req 8 2) } }) := by
  refine (if_neg (by omega)).trans ?_
  change (match freeRun s (fieldBytes req 8 2) with | none => _ | some i => _) = _
  rw [hk]
  rfl

theorem mboxAlloc_exhausted (h1 : 1 ≤ fieldBytes req 8 2) (h2 : fieldBytes req 8 2 ≤ 4096) (hk : freeRun s (fieldBytes req 8 2) = none) :
    mboxAlloc s fid req = (Code.memExhausted, [], s) := by
  refine (if_neg (by omega)).trans ?_
  change (match freeRun s (fieldBytes req 8 2) with | none => _ | some i => _) = _
  rw [hk]
  rfl

theorem mboxAlloc_misformed (h : fieldBytes req 8 2 = 0 ∨ 4096 < fieldBytes req 8 2) : mboxAlloc s fid req = (Code.tzFormat, [], s) := if_pos (by omega)

theorem mboxFree_foreign {j : Nat} (h1 : 1 ≤ fieldBytes req 10 2) (h2 : fieldBytes req 10 2 ≤ 4096) (h3 : fieldBytes req 8 2 + fieldBytes req 10 2 ≤ 65535)
    (hj : j < fieldBytes req 10 2) (ho : (getC s (fieldBytes req 8 2 + j)).owner ≠ some fid) : mboxFree s fid req = (Code.tzBadHandle, [], s) := by
  have foreign : ((List.range (fieldBytes req 10 2)).any fun k => (getC s (fieldBytes req 8 2 + k)).owner != some fid) = true :=
    List.any_eq_true.mpr ⟨j, List.mem_range.mpr hj, bne_iff_ne.mpr ho⟩
  exact (if_neg (by omega)).trans (if_pos foreign)

theorem mboxFree_frees (h1 : 1 ≤ fieldBytes req 10 2) (h2 : fieldBytes req 10 2 ≤ 4096) (h3 : fieldBytes req 8 2 + fieldBytes req 10 2 ≤ 65535)
    (ho : ∀ j, j < fieldBytes req 10 2 → (getC s (fieldBytes req 8 2 + j)).owner = some fid) : ∃ u, mboxFree s fid req = (0, [], u) ∧
      u.tz.counters = s.tz.counters.filter (fun x => decide (x.1 < fieldBytes req 8 2 ∨ fieldBytes req 8 2 + fieldBytes req 10 2 ≤ x.1)) := by
  refine ⟨_, (if_neg (by omega)).trans (if_neg ?_), rfl⟩
  simp only [List.any_eq_true, List.mem_range, bne_iff_ne, not_exists, not_and, not_not]
  exact ho

theorem ownCounter_own {i : Nat} (hi : i < 65535) (ho : (getC s i).owner = some fid) : ownCounter s fid i = 0 := (if_neg (Nat.not_le.mpr hi)).trans (if_pos ho)
theorem ownCounter_foreign {i : Nat} (hi : i < 65535) (ho : (getC s i).owner ≠ some fid) : ownCounter s fid i = Code.tzBadHandle := (if_neg (Nat.not_le.mpr hi)).trans (if_neg ho)

theorem mboxEcho_misformed (h : fieldBytes req 16 8 % 8 ≠ 0 ∨ vecTable fid ≤ fieldBytes req 12 2) : mboxEcho s fid req = (Code.tzFormat, [], s) := if_pos (.inr h)

theorem mboxEcho_own (hi : fieldBytes req 8 2 < 65535) (ho : (getC s (fieldBytes req 8 2)).owner = some fid) (ha : fieldBytes req 16 8 % 8 = 0) (hv : fieldBytes req 12 2 < vecTable fid) :
    mboxEcho s fid req = (0, [], setC s (fieldBytes req 8 2) { getC s (fieldBytes req 8 2) with
      echo := if natBit (fieldBytes req 10 1) 0 then some (fieldBytes req 16 8) else none, vecOn := natBit (fieldBytes req 10 1) 1, vector := fieldBytes req 12 2,
      coalesce := fieldBytes req 11 1, vecDue := false, vecAt := 0 }) := by
  unfold mboxEcho
  rw [if_neg (by omega), ownCounter_own hi ho]
  rfl

theorem mboxGrant_own (hi : fieldBytes req 8 2 < 65535) (ho : (getC s (fieldBytes req 8 2)).owner = some fid) (hp : fieldBytes req 10 1 < 2) (hf : fieldBytes req 11 1 < 64)
    (hr : fieldBytes req 12 1 < 4) : mboxGrant s fid req = (0, [], setC s (fieldBytes req 8 2) { getC s (fieldBytes req 8 2) with
      grants := (getC s (fieldBytes req 8 2)).grants.filter (fun x => x.1 != fidOf (fieldBytes req 10 1) (fieldBytes req 11 1)) ++
        (if fieldBytes req 12 1 = 0 then [] else [(fidOf (fieldBytes req 10 1) (fieldBytes req 11 1), fieldBytes req 12 1)]) }) := by
  unfold mboxGrant
  rw [if_neg (by omega), ownCounter_own hi ho]
  by_cases h : fieldBytes req 12 1 = 0
  · rw [if_pos h, List.append_nil]
    simp only [h, if_true]
  · rw [if_neg h]
    simp only [if_neg h]

theorem mboxGrant_foreign (hi : fieldBytes req 8 2 < 65535) (ho : (getC s (fieldBytes req 8 2)).owner ≠ some fid) (hp : fieldBytes req 10 1 < 2) (hf : fieldBytes req 11 1 < 64)
    (hr : fieldBytes req 12 1 < 4) : mboxGrant s fid req = (Code.tzBadHandle, [], s) := by
  unfold mboxGrant
  rw [if_neg (by omega), ownCounter_foreign hi ho]
  rfl

theorem mboxFabric_own (hi : fieldBytes req 8 2 < 65535) (ho : (getC s (fieldBytes req 8 2)).owner = some fid) : mboxFabric s fid req =
    (0, [], setC s (fieldBytes req 8 2) { getC s (fieldBytes req 8 2) with fabric := if natBit (fieldBytes req 12 1) 0 then some (fieldBytes req 10 2) else none }) := by
  unfold mboxFabric
  rw [ownCounter_own hi ho]
  rfl

theorem mboxFabric_foreign (hi : fieldBytes req 8 2 < 65535) (ho : (getC s (fieldBytes req 8 2)).owner ≠ some fid) : mboxFabric s fid req = (Code.tzBadHandle, [], s) := by
  unfold mboxFabric
  rw [ownCounter_foreign hi ho]
  rfl

theorem mboxPeer_own {peer : Option Nat} (hq : fieldBytes req 8 2 < firmwareQueue) (hf : (getQ s (fieldBytes req 8 2)).fid = fid) :
    mboxPeer s fid req peer = (0, [], modQ s (fieldBytes req 8 2) (fun Q => { Q with peer := peer })) := by
  have low : ¬ 4096 ≤ fieldBytes req 8 2 := by
    rw [firmwareQueue] at hq
    omega
  exact (if_neg low).trans (if_neg (fun x => x.elim (Nat.not_le.mpr hq) (absurd hf)))

theorem mboxPeer_foreign {peer : Option Nat} (hq : fieldBytes req 8 2 < 4096) (h : firmwareQueue ≤ fieldBytes req 8 2 ∨ (getQ s (fieldBytes req 8 2)).fid ≠ fid) :
    mboxPeer s fid req peer = (Code.tzBadHandle, [], s) := (if_neg (Nat.not_le.mpr hq)).trans (if_pos h)

theorem mboxAperture_sets {fn : Nat} (h0 : fn ≠ 0) (hv : fn ≤ (getH s p).vfs) (hb : fieldBytes req 8 8 % 2 ^ 21 = 0) (hl : fieldBytes req 16 4 % 2 ^ 21 = 0) (hm : fieldBytes req 16 4 ≤ 2 ^ 28)
    (hc : carveBase ≤ fieldBytes req 8 8) :
    mboxAperture s p fn req = (0, [], modH s p (fun h => { h with apertures := h.apertures.set fn (fieldBytes req 8 8, fieldBytes req 16 4) })) := by
  have formed : ¬ (fn = 0 ∨ fieldBytes req 8 8 % 2 ^ 21 ≠ 0 ∨ fieldBytes req 16 4 % 2 ^ 21 ≠ 0 ∨ 2 ^ 28 < fieldBytes req 16 4 ∨ fieldBytes req 8 8 < carveBase) := by omega
  have enabled : fnEnabled s p fn = true := decide_eq_true hv
  exact (if_neg formed).trans (if_neg (by rw [enabled]; decide))

theorem mboxNotify_physical (hi : fieldBytes req 8 2 < 2048) : mboxNotify s p 0 req = (0, [], { s with notify := s.notify.filter (fun x => x.1 != fidOf p 0) ++
    (if natBit (fieldBytes req 10 1) 0 then [(fidOf p 0, fieldBytes req 8 2)] else []) }) := by
  have table : vecTable (fidOf p 0) = 2048 := if_pos (by rw [fidOf]; omega)
  unfold mboxNotify
  rw [table, if_neg (Nat.not_le.mpr hi), if_neg (by simp)]
  cases natBit (fieldBytes req 10 1) 0
  · simp
  · rfl
end

section
variable {s : State} {p : Nat} {req : List Byte} (hf : fieldBytes req 1 1 < 64) (hr : mboxReserved req = false) (hv : fieldBytes req 1 1 ≤ (getH s p).vfs)
include hf hr hv

theorem mboxRun_alloc_grants (hc : fieldBytes req 0 1 = 1) (h1 : 1 ≤ fieldBytes req 8 2) (h2 : fieldBytes req 8 2 ≤ 4096) {k : Nat} (hk : freeRun s (fieldBytes req 8 2) = some k) :
    (mboxRun s p req).1 = 0 ∧ (mboxRun s p req).2.1 = leBytes 2 k ∧
      (∀ j, j < fieldBytes req 8 2 → (mboxRun s p req).2.2.tz.counters.find (k + j) = some { Counter.init with owner := some (fidOf p (fieldBytes req 1 1)) }) ∧
      (∀ j, j < k ∨ k + fieldBytes req 8 2 ≤ j → (mboxRun s p req).2.2.tz.counters.find j = s.tz.counters.find j) := by
  rw [mboxRun_passes hf hr hv ((mboxDo_alloc hc).trans (mboxAlloc_grants h1 h2 hk)) (by decide)]
  exact ⟨rfl, rfl, fun j hj => (ownedRun_find _ _ _ _ _).trans (if_pos (by omega)), fun j hj => (ownedRun_find _ _ _ _ _).trans (if_neg (by omega))⟩

theorem mboxRun_free_frees (hc : fieldBytes req 0 1 = 2) (h1 : 1 ≤ fieldBytes req 10 2) (h2 : fieldBytes req 10 2 ≤ 4096) (h3 : fieldBytes req 8 2 + fieldBytes req 10 2 ≤ 65535)
    (ho : ∀ j, j < fieldBytes req 10 2 → (getC s (fieldBytes req 8 2 + j)).owner = some (fidOf p (fieldBytes req 1 1))) : (mboxRun s p req).1 = 0 ∧
      (mboxRun s p req).2.2.tz.counters = s.tz.counters.filter (fun x => decide (x.1 < fieldBytes req 8 2 ∨ fieldBytes req 8 2 + fieldBytes req 10 2 ≤ x.1)) := by
  obtain ⟨u, freed, counters⟩ := mboxFree_frees h1 h2 h3 ho
  rw [mboxRun_passes hf hr hv ((mboxDo_free hc).trans freed) (by decide)]
  exact ⟨rfl, counters⟩

theorem mboxRun_grant_own (hc : fieldBytes req 0 1 = 4) (hi : fieldBytes req 8 2 < 65535) (ho : (getC s (fieldBytes req 8 2)).owner = some (fidOf p (fieldBytes req 1 1)))
    (hp : fieldBytes req 10 1 < 2) (hg : fieldBytes req 11 1 < 64) (hm : fieldBytes req 12 1 < 4) : (mboxRun s p req).1 = 0 ∧
      (getC (mboxRun s p req).2.2 (fieldBytes req 8 2)).grants = (getC s (fieldBytes req 8 2)).grants.filter (fun x => x.1 != fidOf (fieldBytes req 10 1) (fieldBytes req 11 1)) ++
        (if fieldBytes req 12 1 = 0 then [] else [(fidOf (fieldBytes req 10 1) (fieldBytes req 11 1), fieldBytes req 12 1)]) := by
  rw [mboxRun_passes hf hr hv ((mboxDo_grant hc).trans (mboxGrant_own hi ho hp hg hm)) (by decide)]
  exact ⟨rfl, congrArg Counter.grants (Tbl.get_set_self _ _ _ _)⟩
end

/-- Settles O49, by what a mailbox row leaves, by the checks common to the commands, and by the lemma of each command. -/
theorem mailboxRows : Obligations.MailboxRows := by
  unfold Obligations.MailboxRows
  have served (s : State) (who : Req) (req : List Byte) (hh : s.halted = false) (ho : ownsPort who who.port = true) (hb : bitOf (mboxCtrl s who.port) 47 = false)
      (hf : fwServes s = true) (hl : s.hosts.length = 2) (n : Nat) : ∃ t, alive s (mboxCommand s who n req) = .next t ∧ mboxLeft s who n req t := mboxCommand_served hh ho hb hf hl
  refine ⟨fun s who req n c hh hc => ?_, fun s who req hh ho hb hf hl => ?_, fun s p req => mboxRun_malformed, fun s p req _ _ => mboxRun_disabled, fun s p req hf hr hv => ?_⟩
  · rw [exec_mailbox hc]
    exact ⟨fun h => alive_unchanged hh (mboxCommand_ignored h), fun ho hb hf hl => served s who req hh ho hb hf hl n, mboxCommand_waits hh⟩
  · have each := served s who req hh ho hb hf hl
    exact ⟨each 1, each 2, each 3, each 4, each 5, each 6, each 7, each 8, each 9⟩
  · have passes {code : Nat} {rsp : List Byte} {u : State} := mboxRun_passes hf hr hv (code := code) (rsp := rsp) (u := u)
    exact ⟨fun hc h1 h2 k => mboxRun_alloc_grants hf hr hv hc h1 h2, fun hc h1 h2 hk => passes ((mboxDo_alloc hc).trans (mboxAlloc_exhausted h1 h2 hk)) (by decide),
      fun hc h => mboxRun_misformed (by rw [mboxDo_alloc hc, mboxAlloc_misformed h]),
      fun hc h1 h2 h3 => ⟨mboxRun_free_frees hf hr hv hc h1 h2 h3, fun j hj ho => passes ((mboxDo_free hc).trans (mboxFree_foreign h1 h2 h3 hj ho)) (by decide)⟩,
      fun hi ho => ⟨fun hc ha ht => passes ((mboxDo_echo hc).trans (mboxEcho_own hi ho ha ht)) (by decide),
        fun hc h => mboxRun_misformed (by rw [mboxDo_echo hc, mboxEcho_misformed h]),
        fun hc => mboxRun_grant_own hf hr hv hc hi ho, fun hc => passes ((mboxDo_fabric hc).trans (mboxFabric_own hi ho)) (by decide)⟩,
      fun hi ho => ⟨fun hc => passes ((mboxDo_fabric hc).trans (mboxFabric_foreign hi ho)) (by decide),
        fun hc hp hg hm => passes ((mboxDo_grant hc).trans (mboxGrant_foreign hi ho hp hg hm)) (by decide)⟩,
      fun hc hq hf => passes ((mboxDo_peer hc).trans (mboxPeer_own hq hf)) (by decide), fun hc hq h => passes ((mboxDo_peer hc).trans (mboxPeer_foreign hq h)) (by decide),
      fun hc h0 hb hl hm hs => passes ((mboxDo_aperture hc).trans (mboxAperture_sets h0 hv hb hl hm hs)) (by decide),
      fun hc h0 hi => passes ((mboxDo_notify hc).trans ((congrArg (fun n => mboxNotify s p n req) h0).trans (mboxNotify_physical hi))) (by decide)⟩

end Sys2Proof.Machine
end

section
/-!
PROOF. Firmware images, activation, the handoff of a live update, and the pause of firmware (R501 to R514).
-/

namespace Sys2Proof.Machine

open Sys2Proof

/-! ### Loading an image (R505) -/

section
variable {s : State} {who : Req} {v : W64}

/-- A slot that runs, or is to be activated, takes no image. -/
def slotBusy (s : State) (i : Nat) : Prop := (fwSlot s i).st = 3 ∨ (s.fwRun = 2 ∧ s.fw.goal = i) ∨ (s.fwRun = 3 ∧ s.fw.goal = i)

theorem slotBusy_iff (s : State) (i : Nat) : (((s.fwRun == 2 || s.fwRun == 3) && s.fw.goal == i) || (fwSlot s i).st == 3) = true ↔ slotBusy s i := by
  simp only [slotBusy, Bool.or_eq_true, Bool.and_eq_true, beq_iff_eq]
  tauto

theorem not_slotBusy {i : Nat} (h : (fwSlot s i).st ≠ 3 ∧ ((s.fwRun ≠ 2 ∧ s.fwRun ≠ 3) ∨ s.fw.goal ≠ i)) : ¬ slotBusy s i := by
  unfold slotBusy
  tauto

/-- FWM_LOAD_CMD as FIRMWARE_LOAD leaves it. -/
def loadNoted (s : State) (v : W64) : State := setReg s 0x900008 ((v ||| 1) &&& 0x3FFF0002)

theorem loadGo (v : W64) : bitOf (v ||| 1) 0 = true := (bitOf_or v 1 0).trans (Bool.or_true _)

theorem loadCmdWrite_busy (hw : isPhysical who = true) (h : slotBusy s (fieldOf (v ||| 1) 1 1)) : loadCmdWrite s who (v ||| 1) = loadNoted s v :=
  (if_neg (by rw [hw]; decide)).trans (if_pos (.inr ((slotBusy_iff s _).mpr h)))

/-- The image that FIRMWARE_LOAD reads, taken where it passes (R505). -/
theorem loadCmdWrite_idle (hw : isPhysical who = true) (h : ¬ slotBusy s (fieldOf (v ||| 1) 1 1)) : loadCmdWrite s who (v ||| 1) =
    if fieldOf (v ||| 1) 29 16 < 2 ∨ 0x2000 < fieldOf (v ||| 1) 29 16 then modFw (setSlot (loadNoted s v) (fieldOf (v ||| 1) 1 1) FwSlot.empty) (fun f => { f with result := Code.fwSignature })
    else if imageOk s.part (hostRead s (fidOf who.port 0) (fieldOf (s.regs.get 0 0x900000) 63 12 * 4096) (fieldOf (v ||| 1) 29 16 * 4096)) (fieldOf (v ||| 1) 29 16 * 4096) then
      modFw (setSlot (loadNoted s v) (fieldOf (v ||| 1) 1 1)
        (slotOf (hostRead s (fidOf who.port 0) (fieldOf (s.regs.get 0 0x900000) 63 12 * 4096) (fieldOf (v ||| 1) 29 16 * 4096)))) (fun f => { f with result := 0 })
    else modFw (setSlot (loadNoted s v) (fieldOf (v ||| 1) 1 1) FwSlot.empty) (fun f => { f with result := Code.fwSignature }) := by
  have address : (loadNoted s v).regs.get 0 0x900000 = s.regs.get 0 0x900000 := Tbl.get_set_ne _ _ _ _ _ (by decide)
  have idle : ¬ (bitOf (v ||| 1) 0 = false ∨
      (((loadNoted s v).fwRun == 2 || (loadNoted s v).fwRun == 3) && (loadNoted s v).fw.goal == fieldOf (v ||| 1) 1 1 || (fwSlot (loadNoted s v) (fieldOf (v ||| 1) 1 1)).st == 3) = true) := by
    rw [loadGo, Bool.true_eq_false, false_or]
    exact fun x => h ((slotBusy_iff s _).mp x)
  refine ((if_neg (by rw [hw]; decide)).trans (if_neg idle)).trans ?_
  rw [← address]
  rfl

theorem execFirmwareLoad_busy (hh : s.halted = false) (hw : isPhysical who = true) (h : slotBusy s (fieldOf (v ||| 1) 1 1)) : exec (.firmwareLoad who v) s = .next (loadNoted s v) :=
  alive_leads_plain hh (loadCmdWrite_busy hw h) rfl rfl rfl

theorem execFirmwareLoad_misfit (hh : s.halted = false) (hw : isPhysical who = true) (h : ¬ slotBusy s (fieldOf (v ||| 1) 1 1))
    (hn : fieldOf (v ||| 1) 29 16 < 2 ∨ 0x2000 < fieldOf (v ||| 1) 29 16) :
    exec (.firmwareLoad who v) s = .next (modFw (setSlot (loadNoted s v) (fieldOf (v ||| 1) 1 1) FwSlot.empty) (fun f => { f with result := Code.fwSignature })) :=
  alive_leads_plain hh ((loadCmdWrite_idle hw h).trans (if_pos hn)) rfl rfl rfl

theorem execFirmwareLoad_refused (hh : s.halted = false) (hw : isPhysical who = true) (h : ¬ slotBusy s (fieldOf (v ||| 1) 1 1))
    (h2 : 2 ≤ fieldOf (v ||| 1) 29 16) (hn : fieldOf (v ||| 1) 29 16 ≤ 0x2000)
    (hi : imageOk s.part (hostRead s (fidOf who.port 0) (fieldOf (s.regs.get 0 0x900000) 63 12 * 4096) (fieldOf (v ||| 1) 29 16 * 4096)) (fieldOf (v ||| 1) 29 16 * 4096) = false) :
    exec (.firmwareLoad who v) s = .next (modFw (setSlot (loadNoted s v) (fieldOf (v ||| 1) 1 1) FwSlot.empty) (fun f => { f with result := Code.fwSignature })) :=
  alive_leads_plain hh ((loadCmdWrite_idle hw h).trans ((if_neg (by omega)).trans (if_neg (Bool.eq_false_iff.mp hi)))) rfl rfl rfl

theorem execFirmwareLoad_verified (hh : s.halted = false) (hw : isPhysical who = true) (h : ¬ slotBusy s (fieldOf (v ||| 1) 1 1))
    (h2 : 2 ≤ fieldOf (v ||| 1) 29 16) (hn : fieldOf (v ||| 1) 29 16 ≤ 0x2000)
    (hi : imageOk s.part (hostRead s (fidOf who.port 0) (fieldOf (s.regs.get 0 0x900000) 63 12 * 4096) (fieldOf (v ||| 1) 29 16 * 4096)) (fieldOf (v ||| 1) 29 16 * 4096) = true) :
    exec (.firmwareLoad who v) s = .next (modFw (setSlot (loadNoted s v) (fieldOf (v ||| 1) 1 1)
      (slotOf (hostRead s (fidOf who.port 0) (fieldOf (s.regs.get 0 0x900000) 63 12 * 4096) (fieldOf (v ||| 1) 29 16 * 4096)))) (fun f => { f with result := 0 })) :=
  alive_leads_plain hh ((loadCmdWrite_idle hw h).trans ((if_neg (by omega)).trans (if_pos hi))) rfl rfl rfl
end

/-! ### Activation and its cancellation (R506, R507, R513) -/

section
variable {s : State} {who : Req} {i : Nat}

/-- The slot that ACTIVATE names is the target. -/
def targeted (s : State) (i : Nat) : State := modFw s (fun f => { f with target := i })

theorem fwCtrlWrite_activates (hw : isPhysical who = true) (hi : i < 2) : fwCtrlWrite s who (BitVec.ofNat 64 (2 + i % 2)) = activateSlot (targeted s i) i := by
  have fields : fieldOf (BitVec.ofNat 64 (2 + i % 2)) 0 0 = i ∧ bitOf (BitVec.ofNat 64 (2 + i % 2)) 2 = false ∧ bitOf (BitVec.ofNat 64 (2 + i % 2)) 1 = true := by
    simp only [fieldOf, bitOf, BitVec.toNat_ofNat, beq_iff_eq, beq_eq_false_iff_ne]
    omega
  obtain ⟨target, cancel, activate⟩ := fields
  rw [fwCtrlWrite, if_neg (by rw [hw]; decide), target, cancel, activate]
  exact (if_neg (fun x => Bool.noConfusion x.1)).trans (if_pos rfl)

theorem fwCtrlWrite_cancels (hw : isPhysical who = true) : fwCtrlWrite s who (BitVec.ofNat 64 (4 + s.fw.target % 2)) =
    if s.fwRun = 2 then cancelActivation (targeted s (s.fw.target % 2)) else targeted s (s.fw.target % 2) := by
  have fields : fieldOf (BitVec.ofNat 64 (4 + s.fw.target % 2)) 0 0 = s.fw.target % 2 ∧ bitOf (BitVec.ofNat 64 (4 + s.fw.target % 2)) 2 = true ∧
      bitOf (BitVec.ofNat 64 (4 + s.fw.target % 2)) 1 = false := by
    simp only [fieldOf, bitOf, BitVec.toNat_ofNat, beq_iff_eq, beq_eq_false_iff_ne]
    omega
  obtain ⟨target, cancel, activate⟩ := fields
  rw [fwCtrlWrite, if_neg (by rw [hw]; decide), target, cancel, activate]
  exact if_congr ⟨And.right, fun h => ⟨rfl, h⟩⟩ rfl (if_neg Bool.false_ne_true)

theorem activateSlot_busy (h : s.fwRun = 3 ∨ s.fwRun = 4) : activateSlot s i = s := if_pos (.inr h)

theorem activateSlot_unloaded (hr : s.fwRun < 2) (hs : (fwSlot s i).st ≠ 2) : activateSlot s i = modFw s (fun f => { f with result := Code.fwLoadRequired }) :=
  (if_neg (by omega)).trans (if_pos hs)

theorem activateSlot_first (hr : s.fwRun = 0) (hs : (fwSlot s i).st = 2) :
    activateSlot s i = { modFw (setSlot s i { fwSlot s i with st := 3 }) (fun f => { f with active := i, goal := i, result := 0 }) with fwRun := 1 } :=
  (if_neg (by omega)).trans ((if_neg (not_not_intro hs)).trans (if_pos hr))

theorem activateSlot_deferred (hr : s.fwRun = 1) (hs : (fwSlot s i).st = 2) (hl : s.ladder ≠ 0) : activateSlot s i =
    { modFw (logFw s Code.fwActivationDeferred sevInfo (fwSlot s s.fw.active).version (fwSlot s i).version i) (fun f => { f with goal := i, result := Code.fwActivationDeferred }) with fwRun := 2 } :=
  (if_neg (by omega)).trans ((if_neg (not_not_intro hs)).trans ((if_neg (by omega)).trans (if_pos hl)))

theorem activateSlot_starts (hr : s.fwRun = 1) (hs : (fwSlot s i).st = 2) (hl : s.ladder = 0) : activateSlot s i = handoffStart s i :=
  (if_neg (by omega)).trans ((if_neg (not_not_intro hs)).trans ((if_neg (by omega)).trans (if_neg (not_not_intro hl))))

theorem exec_firmware_virtual (hh : s.halted = false) (v : W64) (target : Nat) (h : isPhysical who = false) :
    exec (.firmwareLoad who v) s = .next s ∧ exec (.firmwareActivate who target) s = .next s ∧ exec (.activationCancel who) s = .next s :=
  ⟨alive_unchanged hh (if_pos h), alive_unchanged hh (if_pos h), alive_unchanged hh (if_pos h)⟩

section
variable (hh : s.halted = false) (hw : isPhysical who = true)
include hh hw

theorem execFirmwareActivate_unloaded (hi : i < 2) (hr : s.fwRun < 2) (hs : (fwSlot s i).st ≠ 2) :
    exec (.firmwareActivate who i) s = .next (modFw s (fun f => { f with target := i, result := Code.fwLoadRequired })) :=
  alive_leads_plain hh ((fwCtrlWrite_activates hw hi).trans (activateSlot_unloaded (s := targeted s i) hr hs)) rfl rfl rfl

theorem execFirmwareActivate_first (hi : i < 2) (hr : s.fwRun = 0) (hs : (fwSlot s i).st = 2) : ∃ t, exec (.firmwareActivate who i) s = .next t ∧ t.fwRun = 1 ∧ t.fw.active = i ∧
    t.fw.result = 0 ∧ t.fw.slots = s.fw.slots.set i { fwSlot s i with st := 3 } :=
  ⟨_, alive_leads_plain hh ((fwCtrlWrite_activates hw hi).trans (activateSlot_first (s := targeted s i) hr hs)) rfl rfl rfl, rfl, rfl, rfl, rfl⟩

theorem execFirmwareActivate_deferred (hi : i < 2) (hr : s.fwRun = 1) (hs : (fwSlot s i).st = 2) (hl : s.ladder ≠ 0) : ∃ t, exec (.firmwareActivate who i) s = .next t ∧ t.fwRun = 2 ∧
    t.fw.goal = i ∧ t.fw.active = s.fw.active ∧ t.fw.result = Code.fwActivationDeferred :=
  ⟨_, alive_leads_plain hh ((fwCtrlWrite_activates hw hi).trans (activateSlot_deferred (s := targeted s i) hr hs hl)) rfl rfl rfl, rfl, rfl, rfl, rfl⟩

theorem execFirmwareActivate_starts (hi : i < 2) (hr : s.fwRun = 1) (hs : (fwSlot s i).st = 2) (hl : s.ladder = 0) :
    exec (.firmwareActivate who i) s = .next (handoffStart (modFw s (fun f => { f with target := i })) i) :=
  alive_leads_plain hh ((fwCtrlWrite_activates hw hi).trans (activateSlot_starts (s := targeted s i) hr hs hl)) rfl rfl rfl

theorem execFirmwareActivate_busy (hi : i < 2) (hr : s.fwRun = 3 ∨ s.fwRun = 4) : exec (.firmwareActivate who i) s = .next (modFw s (fun f => { f with target := i })) :=
  alive_leads_plain hh ((fwCtrlWrite_activates hw hi).trans (activateSlot_busy (s := targeted s i) hr)) rfl rfl rfl

theorem execActivationCancel_ends (hr : s.fwRun = 2) : ∃ t, exec (.activationCancel who) s = .next t ∧ t.fwRun = 1 ∧ t.fw.result = 0 ∧ t.fw.slots = s.fw.slots ∧ t.fw.active = s.fw.active :=
  ⟨_, alive_leads_plain hh ((fwCtrlWrite_cancels hw).trans ((if_pos hr).trans (if_pos hr))) rfl rfl rfl, rfl, rfl, rfl, rfl⟩

theorem execActivationCancel_none (hr : s.fwRun ≠ 2) : exec (.activationCancel who) s = .next (modFw s (fun f => { f with target := f.target % 2 })) :=
  alive_leads_plain hh ((fwCtrlWrite_cancels hw).trans (if_neg hr)) rfl rfl rfl
end

/-! ### The handoff (R508 to R514) -/

theorem handoffStart_seals (s : State) (i : Nat) : (handoffStart s i).fwRun = 3 ∧ (handoffStart s i).fw.goal = i ∧ (handoffStart s i).fw.since = s.now ∧
    (handoffStart s i).fw.active = s.fw.active ∧ ∃ t, (handoffStart s i).fw.tenon = some t ∧ t.sealed = true ∧ t.version = (fwSlot s s.fw.active).tenonOut :=
  ⟨rfl, rfl, rfl, rfl, _, rfl, rfl, rfl⟩

/-- The handoff as its commit notes it, before firmware runs again. -/
def commitNoted (s : State) : State :=
  logFw (modFw (setSlot (setSlot s s.fw.active { fwSlot s s.fw.active with st := 2 }) s.fw.goal { fwSlot s s.fw.goal with st := 3 })
    (fun f => { f with active := s.fw.goal, result := 0, tenon := f.tenon.map (fun t => { t with sealed := false }) })) 0 sevInfo (fwSlot s s.fw.active).version (fwSlot s s.fw.goal).version s.fw.goal

section
variable (hh : s.halted = false)
include hh

theorem execDeferredActivationStart_starts (hr : s.fwRun = 2) (hl : s.ladder = 0) (hc : s.cpm.clearAt + 100000 ≤ s.now) :
    exec .deferredActivationStart s = .next (handoffStart s s.fw.goal) := alive_leads_plain hh (if_pos ⟨hr, hl, hc⟩) rfl rfl rfl

theorem execDeferredActivationStart_waits (h : s.fwRun ≠ 2 ∨ s.ladder ≠ 0 ∨ s.now < s.cpm.clearAt + 100000) : exec .deferredActivationStart s = .next s := by
  refine alive_unchanged hh (if_neg ?_)
  rintro ⟨hr, hl, hc⟩
  exact h.elim (absurd hr) (fun h => h.elim (absurd hl) (Nat.not_lt.mpr hc))

theorem exec_handoff_none (hr : s.fwRun ≠ 3) : exec .handoffCommitPoint s = .next s ∧ ∀ r, exec (.handoffAbort r) s = .next s :=
  ⟨alive_unchanged hh (if_pos hr), fun _ => alive_unchanged hh (if_neg (fun x => hr x.1))⟩

theorem execHandoffCommitPoint_commits (hr : s.fwRun = 3) (ht : tenonFits s = true) (hn : s.now ≤ s.fw.since + 4500) : ∃ t, exec .handoffCommitPoint s = .next t ∧ t.fwRun = 1 ∧
    t.fw.active = s.fw.goal ∧ t.fw.result = 0 ∧ t.fw.slots = (s.fw.slots.set s.fw.active { fwSlot s s.fw.active with st := 2 }).set s.fw.goal { fwSlot s s.fw.goal with st := 3 } := by
  have fits : ¬ (tenonFits s = false ∨ s.fw.since + 4500 < s.now) := fun x => x.elim (fun h => Bool.noConfusion (ht.symm.trans h)) (Nat.not_lt.mpr hn)
  refine ⟨_, alive_leads hh (u := resume (commitNoted s)) ((if_neg (not_not_intro hr)).trans (if_neg fits)), ?_⟩
  rw [retag_fwRun, retag_fw, resume_fwRun, resume_fw]
  exact ⟨rfl, rfl, rfl, rfl⟩

theorem execHandoffCommitPoint_aborts (hr : s.fwRun = 3) (h : tenonFits s = false ∨ s.fw.since + 4500 < s.now) : ∃ t, exec .handoffCommitPoint s = .next t ∧ t.fwRun = 1 ∧
    t.fw.active = s.fw.active ∧ t.fw.slots = s.fw.slots ∧ t.fw.result = Code.fwHandoffAborted := by
  refine ⟨_, alive_leads hh ((if_neg (not_not_intro hr)).trans (if_pos h)), ?_⟩
  rw [retag_fwRun, retag_fw]
  exact handoffAbort_runs s

theorem execHandoffAbort_refused (hr : s.fwRun = 3) : exec (.handoffAbort true) s = .next (retag s (handoffAbort s)) := alive_leads hh (if_pos ⟨hr, .inl rfl⟩)

theorem execHandoffAbort_aborts (hr : s.fwRun = 3) : ∃ t, exec (.handoffAbort true) s = .next t ∧ t.fwRun = 1 ∧ t.fw.active = s.fw.active ∧ t.fw.result = Code.fwHandoffAborted := by
  refine ⟨_, execHandoffAbort_refused hh hr, ?_⟩
  obtain ⟨run, active, -, result⟩ := handoffAbort_runs s
  rw [retag_fwRun, retag_fw]
  exact ⟨run, active, result⟩

theorem execHandoffAbort_none (ht : tenonFits s = true) (hb : braking s = false) (hn : s.now ≤ s.fw.since + 4500) : exec (.handoffAbort false) s = .next s := by
  refine alive_unchanged hh (if_neg ?_)
  rw [ht, hb]
  simpa using fun _ => hn

theorem execHubWatchdogExpiry_handoff (hr : s.fwRun = 3) : exec .hubWatchdogExpiry s = exec (.handoffAbort true) s :=
  Eq.trans (b := Host.Outcome.next (retag s (handoffAbort s))) (alive_leads hh (if_pos hr)) (execHandoffAbort_refused hh hr).symm

theorem execHubWatchdogExpiry_stopped (hr : s.fwRun = 0 ∨ s.fwRun = 4) : exec .hubWatchdogExpiry s = .next s := alive_unchanged hh ((if_neg (by omega)).trans (if_neg (by omega)))
end

/-- A fatal error with none before it stops the device (R584). -/
theorem raiseErr_fatal_stops (hc : s.err.cause = 0) (unit_ index code cause obj : Nat) :
    (raiseErr s unit_ index sevFatal code cause obj).halted = true ∧ (raiseErr s unit_ index sevFatal code cause obj).fwRun = 4 := by
  cases hp : s.err.primary with
  | none =>
    rw [raiseErr_primary hc hp]
    exact ⟨rfl, rfl⟩
  | some p =>
    cases hs : s.err.secondary with
    | none =>
      rw [raiseErr_secondary hc hp hs]
      exact ⟨rfl, rfl⟩
    | some q =>
      rw [raiseErr_third hc hp hs]
      exact ⟨rfl, rfl⟩

theorem execHubWatchdogExpiry_fatal (hh : s.halted = false) (hr : s.fwRun = 1 ∨ s.fwRun = 2) (hc : s.err.cause = 0) : ∃ t, exec .hubWatchdogExpiry s = .next t ∧ t.halted = true ∧ t.fwRun = 4 := by
  refine ⟨_, alive_leads hh ((if_neg (by omega)).trans (if_pos hr)), ?_⟩
  rw [retag_halted, retag_fwRun]
  exact raiseErr_fatal_stops hc _ _ _ _ _
end

/-! ### A pause of firmware (R501) -/

section
variable {s : State}

/-- Every row that firmware handles is `awake`. -/
theorem exec_firmwareRow (s : State) {c : Instr} (h : firmwareRow c = true) : ∃ k, exec c s = awake s k := by
  cases c
  case deterministicPassTwoStart | offer | decline | pull | page | accept | abort | commit | committed | take => exact ⟨_, rfl⟩
  case taken | ask | hold | arbiterHoldExpiry | arbiterRule | ruling | castleTimeoutExpiry | entries | entriesAck => exact ⟨_, rfl⟩
  case release | released | record | recordAck | recordDelete | mirrorRetryTimeout | preemption | sequenceSwap | renew => exact ⟨_, rfl⟩
  case leaseRenewalTick | leaseExpiry | lookup | lookupResult | reserve | reserved | shardMapReq | shardMap | ref => exact ⟨_, rfl⟩
  case distribute | share | distributed | indexCommit | indexCommitted | retire | nodeRetirement | tree | treeAck => exact ⟨_, rfl⟩
  case revokeDrainComplete | foldBack | destage | propose | prepare | vote | compositionCommit | compositionAbort => exact ⟨_, rfl⟩
  case applied | compositionResult | voteTimeout | leaderSilenceTimeout | memberLoss | removedSelf | ringMove | restoreReq => exact ⟨_, rfl⟩
  case drainDone | drainDeadlineExpiry | partingCastleIssue | mirrorRebuild | image | imageDone | imageAck | managementMessage => exact ⟨_, rfl⟩
  case submit | complete | journalRecord | refresh | reclaim | wearRelocation | flashPatrol | checkpoint | flashErasureSweep => exact ⟨_, rfl⟩
  all_goals exact absurd h Bool.false_ne_true

theorem exec_firmwareRow_paused (hp : paused s = true) {c : Instr} (h : firmwareRow c = true) : exec c s = .next s := by
  obtain ⟨k, row⟩ := exec_firmwareRow s h
  exact row.trans (awake_paused s k hp)

theorem runOp_paused {id : Nat} {r : Running} (hh : s.halted = false) (hp : paused s = true) (hr : findRun s id = some r) (ho : firmwareOp r.ent = true) (is : Entry → Bool) (f : Running → State) :
    runOp s id is f = .next s := by
  refine alive_unchanged hh ?_
  rw [hr]
  exact if_neg (fun x => Bool.noConfusion ((Bool.and_eq_false_iff.mp x.2.2.2).elim hp.symm.trans ho.symm.trans))

theorem exec_firmwareOp_paused {id : Nat} {r : Running} (hh : s.halted = false) (hp : paused s = true) (hr : findRun s id = some r) (ho : firmwareOp r.ent = true) :
    ∀ c ∈ [Instr.pmove id, .pcopy id, .pingest id, .pevictVacate id, .pevictRelease id, .ppin id, .punpin id, .pmatch id, .register id,
      .revoke id, .publish id, .publishDraftNode id, .discard id, .castle id, .claimCreate id, .claimAssert id], exec c s = .next s := by
  have row {o : Out} (h : ∃ is f, o = runOp s id is f) : o = .next s := by
    obtain ⟨is, f, rfl⟩ := h
    exact runOp_paused hh hp hr ho is f
  simp only [List.forall_mem_cons]
  refine ⟨?_, ?_, ?_, ?_, ?_, ?_, ?_, ?_, ?_, ?_, ?_, ?_, ?_, ?_, ?_, ?_, fun _ h => absurd h List.not_mem_nil⟩
  · exact row (o := execPmove id s) (by unfold execPmove; exact ⟨_, _, rfl⟩)
  · exact row (o := execPcopy id s) (by unfold execPcopy; exact ⟨_, _, rfl⟩)
  · exact row (o := execPingest id s) (by unfold execPingest; exact ⟨_, _, rfl⟩)
  · exact row (o := execPevictVacate id s) (by unfold execPevictVacate; exact ⟨_, _, rfl⟩)
  · exact row (o := execPevictRelease id s) (by unfold execPevictRelease; exact ⟨_, _, rfl⟩)
  · exact row (o := execPpin id s) (by unfold execPpin; exact ⟨_, _, rfl⟩)
  · exact row (o := execPunpin id s) (by unfold execPunpin; exact ⟨_, _, rfl⟩)
  · exact row (o := execPmatch id s) (by unfold execPmatch; exact ⟨_, _, rfl⟩)
  · exact row (o := execRegister id s) (by unfold execRegister; exact ⟨_, _, rfl⟩)
  · exact row (o := execRevoke id s) (by unfold execRevoke; exact ⟨_, _, rfl⟩)
  · exact row (o := execPublish id s) (by unfold execPublish; exact ⟨_, _, rfl⟩)
  · exact row (o := execPublishDraftNode id s) (by unfold execPublishDraftNode; exact ⟨_, _, rfl⟩)
  · exact row (o := execDiscard id s) (by unfold execDiscard; exact ⟨_, _, rfl⟩)
  · exact row (o := execCastle id s) (by unfold execCastle; exact ⟨_, _, rfl⟩)
  · exact row (o := execClaimCreate id s) (by unfold execClaimCreate; exact ⟨_, _, rfl⟩)
  · exact row (o := execClaimAssert id s) (by unfold execClaimAssert; exact ⟨_, _, rfl⟩)
end

/-- Settles O47, by the lemma of each row and of each of its outcomes. -/
theorem firmwareRows : Obligations.FirmwareRows := by
  unfold Obligations.FirmwareRows
  intro s hh
  exact ⟨fun who v target => exec_firmware_virtual hh v target,
    fun who v hw => ⟨execFirmwareLoad_busy hh hw, fun h => execFirmwareLoad_misfit hh hw (not_slotBusy h), fun h => execFirmwareLoad_refused hh hw (not_slotBusy h),
      fun h => execFirmwareLoad_verified hh hw (not_slotBusy h)⟩,
    fun who i hw hi => ⟨execFirmwareActivate_unloaded hh hw hi, execFirmwareActivate_first hh hw hi, execFirmwareActivate_deferred hh hw hi, execFirmwareActivate_starts hh hw hi,
      execFirmwareActivate_busy hh hw hi⟩,
    handoffStart_seals s, fun who hw => ⟨execActivationCancel_ends hh hw, execActivationCancel_none hh hw⟩, execDeferredActivationStart_starts hh, execDeferredActivationStart_waits hh,
    exec_handoff_none hh, execHandoffCommitPoint_commits hh, execHandoffCommitPoint_aborts hh, execHandoffAbort_aborts hh, fun _ => execHandoffAbort_none hh,
    execHubWatchdogExpiry_handoff hh, execHubWatchdogExpiry_fatal hh, execHubWatchdogExpiry_stopped hh,
    fun hp => ⟨fun c => exec_firmwareRow_paused hp, fun id r hr ho => exec_firmwareOp_paused hh hp hr ho⟩⟩

end Sys2Proof.Machine
end

section
/-!
PROOF. Configuration: loading a copy, the check of an enable, putting a copy in force, shutdown and the warm-start import (R560 to R574).
-/

namespace Sys2Proof.Machine

open Sys2Proof

/-! ### Bits of CFG_CONTROL -/

theorem bitOf_and (v w : W64) (i : Nat) : bitOf (v &&& w) i = (bitOf v i && bitOf w i) := by
  rw [bitOf_eq_testBit, bitOf_eq_testBit, bitOf_eq_testBit, BitVec.toNat_and, Nat.testBit_and]

theorem bitOf_putField_zero (w : W64) (i : Nat) (h : i < 64) : bitOf (putField w i i 0) i = false := by
  have cleared : bit (bitOf (putField w i i 0) i) = 0 := by rw [bit_bitOf, fieldOf_putField w i i 0 (Nat.le_refl i) h, Nat.zero_mod]
  cases b : bitOf (putField w i i 0) i
  · rfl
  · rw [b] at cleared
    exact absurd cleared (by decide)

/-! ### Tables filtered by key -/

theorem Tbl.find_filter {α : Type} (p : Nat → Bool) (t : Tbl α) (i : Nat) : Tbl.find (t.filter (fun x => p x.1)) i = if p i then Tbl.find t i else none := by
  induction t with
  | nil => simp [Tbl.find]
  | cons x t ih =>
    by_cases hp : p x.1 = true
    · have kept : List.filter (fun x => p x.1) (x :: t) = x :: List.filter (fun x => p x.1) t := List.filter_cons_of_pos hp
      rw [kept]
      by_cases e : x.1 = i
      · simp [Tbl.find, ← e, hp]
      · simp [Tbl.find, e, ih]
    · have dropped : List.filter (fun x => p x.1) (x :: t) = List.filter (fun x => p x.1) t := List.filter_cons_of_neg hp
      rw [dropped, ih]
      by_cases e : x.1 = i
      · rw [e] at hp
        rw [if_neg hp, if_neg hp]
      · simp [Tbl.find, e]

/-! ### What the check of a copy looks at -/

/-- Two states that the check of a copy does not tell apart: they differ in CFG_CONTROL and in what no step of R562 reads. -/
def CheckSame (s u : State) : Prop :=
  (∀ j, j ≠ 0x10028 → u.regs.find j = s.regs.find j) ∧ u.hosts = s.hosts ∧ u.cpm = s.cpm ∧ u.part = s.part ∧ u.til = s.til

section
variable {s u : State}

theorem CheckSame.reg (h : CheckSame s u) (d : W64) {j : Nat} (hj : j ≠ 0x10028) : u.regs.get d j = s.regs.get d j := congrArg (fun o => Option.getD o d) (h.1 j hj)

theorem CheckSame.filtered (h : CheckSame s u) (p : Nat → Bool) : CheckSame { s with regs := s.regs.filter (fun x => p x.1) } { u with regs := u.regs.filter (fun x => p x.1) } := by
  refine ⟨fun j hj => ?_, h.2⟩
  change Tbl.find (u.regs.filter (fun x => p x.1)) j = Tbl.find (s.regs.filter (fun x => p x.1)) j
  rw [Tbl.find_filter, Tbl.find_filter, h.1 j hj]

theorem CheckSame.written (h : CheckSame s u) (off : Nat) (v : W64) : CheckSame (setReg s off v) (setReg u off v) := by
  refine ⟨fun j hj => ?_, h.2⟩
  change Tbl.find (Tbl.set u.regs off v) j = Tbl.find (Tbl.set s.regs off v) j
  rw [Tbl.find_set, Tbl.find_set, h.1 j hj]

theorem CheckSame.foldl {α : Type} {f : State → α → State} (hf : ∀ s u x, CheckSame s u → CheckSame (f s x) (f u x)) (l : List α) (h : CheckSame s u) : CheckSame (l.foldl f s) (l.foldl f u) := by
  induction l generalizing s u with
  | nil => exact h
  | cons x l ih => exact ih (hf s u x h)

/-- A spindle table loaded into a bank reads the same words whatever CFG_CONTROL holds. -/
theorem CheckSame.loadSpindle (h : CheckSame s u) (bank : Nat) (b : List Byte) : CheckSame (loadSpindle s bank b) (loadSpindle u bank b) := by
  refine CheckSame.foldl (fun s u i same => ?_) _ (h.filtered (fun k => decide (k < 0x808000 + 0x8000 * bank ∨ 0x810000 + 0x8000 * bank ≤ k)))
  dsimp only
  split
  · exact same
  · exact same.written _ _

theorem CheckSame.spindleWord (h : CheckSame s u) (bank k w : Nat) : spindleWord u bank k w = spindleWord s bank k w := h.reg 0 (by omega)

theorem CheckSame.grantBits (h : CheckSame s u) (bank k c : Nat) : grantBits u bank k c = grantBits s bank k c := by rw [Machine.grantBits, h.spindleWord, Machine.grantBits]

theorem CheckSame.holdsClass0 (h : CheckSame s u) (bank t k : Nat) : holdsClass0 u bank t k = holdsClass0 s bank t k := by rw [Machine.holdsClass0, h.grantBits, Machine.holdsClass0]

theorem CheckSame.runFrom (h : CheckSame s u) (bank t cycle n k : Nat) : runFrom u bank t cycle n k = runFrom s bank t cycle n k := by
  induction n generalizing k with
  | zero => rfl
  | succ n ih => rw [Machine.runFrom, h.holdsClass0, ih, Machine.runFrom]

theorem CheckSame.getT (h : CheckSame s u) (t : Nat) : getT u t = getT s t := by
  obtain ⟨-, -, -, -, til⟩ := h
  rw [Machine.getT, til, Machine.getT]

theorem CheckSame.spindleFails (h : CheckSame s u) (bank cycle len : Nat) : spindleFails u bank cycle len = spindleFails s bank cycle len := by
  have entry : entryFails u bank cycle len = entryFails s bank cycle len := by
    funext k
    simp only [entryFails, h.spindleWord, h.grantBits, h.holdsClass0, h.runFrom, h.getT]
  rw [Machine.spindleFails, entry, Machine.spindleFails]

theorem CheckSame.check11 (h : CheckSame s u) (rs : List CRec) : check11 u rs = check11 s rs := by
  obtain ⟨-, -, -, -, til⟩ := id h
  unfold Machine.check11
  simp only [til, (h.loadSpindle _ _).spindleFails]

theorem CheckSame.metaFits (h : CheckSame s u) : metaFits u = metaFits s := by
  have control : flMetaCtrl u = flMetaCtrl s := h.reg _ (by decide)
  funext b
  rw [Machine.metaFits, control, Machine.metaFits]

/-- The check of a copy answers the same (R562). -/
theorem CheckSame.checkRecords (h : CheckSame s u) (rs : List CRec) (flash : Option (Nat × Nat)) : checkRecords u rs flash = checkRecords s rs flash := by
  obtain ⟨-, hosts, cpm, part, til⟩ := id h
  have four : check4 u rs flash = check4 s rs flash := by simp only [check4, Machine.getH, hosts]
  have five : check5 u rs = check5 s rs := by rw [check5, cpm, check5]
  have six : check6 u rs = check6 s rs := by
    have halves : halvesIn u = halvesIn s := by rw [halvesIn, til, halvesIn]
    have capacity : capacityIn u = capacityIn s := by rw [capacityIn, part, halves, capacityIn]
    simp only [check6, halves, capacity, h.metaFits]
  rw [Machine.checkRecords, four, five, six, h.check11, Machine.checkRecords]
end

/-! ### A check that ends in a failure (R562, R568, R569) -/

section
variable {u : State} {from_ code record copy seq : Nat}

theorem selectCopy_none (above : Bool) (ha : u.cfg.copyA.st ≠ 2) (hb : u.cfg.copyB.st ≠ 2) : ∃ t, selectCopy u above = (t, .error Code.cfgNoValidCopy) ∧ t.tz = u.tz := by
  refine ⟨_, (if_neg (fun x => ha x.1)).trans ((if_neg ha).trans (if_neg hb)), ?_⟩
  exact ite_keeps State.tz (ite_keeps State.tz rfl rfl) (ite_keeps State.tz rfl rfl)

/-- Copy A alone is valid: it is the one selected, unless its SEQUENCE is stale (R561). -/
theorem selectCopy_first (above : Bool) (ha : u.cfg.copyA.st = 2) (hb : u.cfg.copyB.st = 0) : selectCopy u above =
    (u, if (decide (imageSeq u.cfg.copyA.bytes < u.cfg.lastSeq) || (above && decide (imageSeq u.cfg.copyA.bytes = u.cfg.lastSeq))) = true then .error Code.cfgSequenceStale
      else .ok (1, u.cfg.copyA.bytes, imageSeq u.cfg.copyA.bytes)) := by
  have noA : ¬ u.cfg.copyA.st = 3 := by rw [ha]; decide
  have noB : ¬ u.cfg.copyB.st = 3 := by rw [hb]; decide
  have one : ¬ (u.cfg.copyA.st = 2 ∧ u.cfg.copyB.st = 2) := by rw [hb]; exact fun x => absurd x.2 (by decide)
  unfold selectCopy
  dsimp only
  rw [if_neg noA, if_neg noB, if_neg one, if_pos ha]

theorem noteSpindle_cfg (rs : List CRec) (found : Option (Nat × Nat)) : (noteSpindle u rs found).cfg = u.cfg ∧ (noteSpindle u rs found).tz = u.tz := by
  unfold noteSpindle
  dsimp only
  split
  · split <;> exact ⟨rfl, rfl⟩
  · split <;> exact ⟨rfl, rfl⟩
end

theorem OnlyFab.cfg {s t : State} (h : OnlyFab s t) : t.cfg = s.cfg := by rw [h]
theorem OnlyFab.cfgState {s t : State} (h : OnlyFab s t) : t.cfgState = s.cfgState := by rw [h]

/-- A live re-enable that takes effect (R568): the copy is the one in force. -/
theorem applyLive_takes (t : State) (copy : Nat) (bs : List Byte) : (applyLive t copy bs).cfg.used = copy ∧ (applyLive t copy bs).cfg.force = bs ∧ (applyLive t copy bs).cfg.lastSeq = imageSeq bs := by
  unfold applyLive
  dsimp only
  rw [(serve_fab _).cfg]
  exact ⟨rfl, rfl, rfl⟩

section
variable {u t : State} {from_ : Nat} {replace : Bool} {flash : Option (Nat × Nat)}

theorem runCheck_mismatch (h : u.comps ≠ []) : runCheck u 3 true flash = checkFails u 3 Code.cfgAttachmentMismatch 0xFFFF 0 0 :=
  if_pos ⟨rfl, rfl, by simpa using h⟩

theorem runCheck_unloaded (hf : from_ ≠ 3) (hr : u.fwRun ≠ 1) : runCheck u from_ false flash = checkFails u from_ Code.fwLoadRequired 0xFFFF 0 0 :=
  (if_neg (fun x => hf x.1)).trans (if_pos ⟨by simp [hf], hr⟩)

/-- The enable goes on to the selection of a copy. -/
def GoesOn (u : State) (from_ : Nat) (replace : Bool) : Prop :=
  ¬ (from_ = 3 ∧ replace = true ∧ u.comps.isEmpty = false) ∧ ¬ ((from_ == 3 && !replace) = false ∧ u.fwRun ≠ 1)

theorem goesOn_full (h : u.fwRun = 1) : GoesOn u from_ false := ⟨fun x => Bool.noConfusion x.2.1, fun x => x.2 h⟩

theorem runCheck_unselected {c : Nat} (hg : GoesOn u from_ replace) (hs : selectCopy u (from_ == 3) = (t, .error c)) :
    runCheck u from_ replace flash = checkFails t from_ c 0xFFFF 0 0 := by
  unfold runCheck
  dsimp only
  rw [if_neg hg.1, if_neg hg.2, hs]

section
variable {copy seq : Nat} {bs : List Byte} (hg : GoesOn u from_ replace) (hs : selectCopy u (from_ == 3) = (u, .ok (copy, bs, seq)))
include hg hs

theorem runCheck_fails {code r : Nat} (hc : checkRecords u (imageRecords bs) (if (ofType (imageRecords bs) 0xD).isEmpty then none else flash) = some (code, r)) :
    ∃ t, runCheck u from_ replace flash = checkFails t from_ code r copy seq := by
  unfold runCheck
  dsimp only
  rw [if_neg hg.1, if_neg hg.2, hs]
  dsimp only
  rw [hc]
  exact ⟨_, rfl⟩

theorem runCheck_passes (hc : checkRecords u (imageRecords bs) (if (ofType (imageRecords bs) 0xD).isEmpty then none else flash) = none) (hl : (from_ == 3 && !replace) = false) :
    ∃ t, runCheck u from_ replace flash = t ∧ t.cfgState = (if replace then 1 else 2) ∧ t.cfg.reason = Code.cfgOk ∧ t.cfg.chosen = copy ∧ t.tz = u.tz := by
  obtain ⟨-, tz⟩ := noteSpindle_cfg (u := u) (imageRecords bs) none
  unfold runCheck
  dsimp only
  rw [if_neg hg.1, if_neg hg.2, hs]
  dsimp only
  rw [hc, hl]
  generalize noteSpindle u (imageRecords bs) none = n at tz
  exact ⟨_, rfl, rfl, rfl, rfl, tz⟩

theorem runCheck_live (hc : checkRecords u (imageRecords bs) (if (ofType (imageRecords bs) 0xD).isEmpty then none else flash) = none) (hl : (from_ == 3 && !replace) = true)
    (hd : liveFails (imageRecords u.cfg.force) (imageRecords bs) = none) :
    ∃ t, runCheck u from_ replace flash = t ∧ t.cfgState = 3 ∧ t.cfg.used = copy ∧ t.cfg.force = bs ∧ t.cfg.lastSeq = imageSeq bs := by
  obtain ⟨cfg, -⟩ := noteSpindle_cfg (u := u) (imageRecords bs) none
  unfold runCheck
  dsimp only
  rw [if_neg hg.1, if_neg hg.2, hs]
  dsimp only
  rw [hc, hl, cfg, if_pos rfl, hd]
  have enabled (r : State) (h : r.cfg.used = copy ∧ r.cfg.force = bs ∧ r.cfg.lastSeq = imageSeq bs) : ∃ t, ({ r with cfgState := 3 } : State) = t ∧ t.cfgState = 3 ∧
      t.cfg.used = copy ∧ t.cfg.force = bs ∧ t.cfg.lastSeq = imageSeq bs := ⟨_, rfl, rfl, h⟩
  exact enabled _ (applyLive_takes _ copy bs)
end
end

/-! ### ENABLE -/

/-- The state whose copies an enable checks: CFG_CONTROL written, no check waiting. -/
def asked (s : State) (w : W64) : State := modCfg (setReg s 0x10028 w) (fun g => { g with waiting := none })

theorem asked_same (s : State) (w : W64) : CheckSame s (asked s w) :=
  ⟨fun _ hj => (Tbl.find_set _ _ _ _).trans (if_neg (Ne.symm hj)), rfl, rfl, rfl, rfl⟩

/-- An enable asked of a device whose firmware runs goes on to the selection of a copy. -/
theorem goesOn_asked {s : State} {w : W64} {from_ : Nat} (h : s.fwRun = 1) : GoesOn (asked s w) from_ false := goesOn_full h

section
variable {s : State} {who : Req} {v w : W64} {flash : Option (Nat × Nat)}

theorem enableNow_busy (h : s.cfgState = 1 ∨ s.cfgState = 2 ∨ s.cfgState = 5) : enableNow s flash = s := if_pos h

/-- The check starts at once where firmware runs and no pending table stands in the way of a live one. -/
theorem enableNow_checks {replace : Bool} (hc : s.cfgState = 0 ∨ s.cfgState = 4 ∨ s.cfgState = 3) (hr : (s.cfgState == 3 && bitOf w 3) = replace) (hf : s.fwRun ≠ 3)
    (hs : s.cfgState ≠ 3 ∨ replace = true ∨ s.til.swap = 0) : enableNow (setReg s 0x10028 w) flash = runCheck (asked s w) s.cfgState replace flash := by
  have control : bitOf (cfgControl (setReg s 0x10028 w)) 3 = bitOf w 3 := congrArg (fun x => bitOf x 3) (setReg_same s 0x10028 w 0)
  have free : ¬ (s.cfgState = 1 ∨ s.cfgState = 2 ∨ s.cfgState = 5) := by omega
  refine (if_neg free).trans ?_
  dsimp only
  rw [control, show (setReg s 0x10028 w).cfgState = s.cfgState from rfl, hr]
  refine if_neg ?_
  rintro (h3 | ⟨h3, hn, hw⟩)
  · exact hf h3
  · rcases hs with hs | hs | hs
    · exact hs h3
    · exact Bool.noConfusion (hn.symm.trans hs)
    · exact hw hs

theorem cfgControlWrite_enables (hw : isPhysical who = true) (h0 : bitOf v 0 = true) (h1 : bitOf v 1 = false) :
    cfgControlWrite s who v flash = enableNow (setReg s 0x10028 (v &&& 12)) flash := by
  refine (if_neg (by rw [hw]; decide)).trans ?_
  dsimp only
  rw [h0, h1]
  rfl

theorem cfgControlWrite_shuts (hw : isPhysical who = true) (h0 : bitOf v 0 = false) (h1 : bitOf v 1 = true) : cfgControlWrite s who v flash = shutdownNow (setReg s 0x10028 (v &&& 12)) := by
  refine (if_neg (by rw [hw]; decide)).trans ?_
  dsimp only
  rw [h0, h1]
  rfl

theorem full_selects (hc : s.cfgState = 0 ∨ s.cfgState = 4) (ha : s.cfg.copyA.st = 2) (hb : s.cfg.copyB.st = 0) (hs : s.cfg.lastSeq ≤ imageSeq s.cfg.copyA.bytes) (w : W64) :
    selectCopy (asked s w) (s.cfgState == 3) = (asked s w, .ok (1, s.cfg.copyA.bytes, imageSeq s.cfg.copyA.bytes)) := by
  have full : (s.cfgState == 3) = false := beq_eq_false_iff_ne.mpr (by omega)
  refine (selectCopy_first (u := asked s w) _ ha hb).trans (congrArg _ (if_neg ?_))
  rw [full, Bool.false_and, Bool.or_false]
  exact fun x => absurd (of_decide_eq_true x) (Nat.not_lt.mpr hs)

theorem exec_config_virtual (hh : s.halted = false) (cut : Bool) (h : isPhysical who = false) : exec (.configLoad who v cut) s = .next s ∧ exec (.configEnable who v flash) s = .next s ∧
    exec (.liveReEnable who v flash) s = .next s ∧ exec (.replacingEnable who v flash) s = .next s ∧ exec (.shutdown who v) s = .next s :=
  ⟨alive_unchanged hh (if_pos h), alive_unchanged hh (if_pos h), alive_unchanged hh (if_pos h), alive_unchanged hh (if_pos h), alive_unchanged hh (if_pos h)⟩

section
variable (hw : isPhysical who = true) (hv : bitOf v 1 = false)
include hw hv

theorem configEnable_writes : cfgControlWrite s who (v ||| 1) flash = enableNow (setReg s 0x10028 ((v ||| 1) &&& 12)) flash :=
  cfgControlWrite_enables hw ((bitOf_or v 1 0).trans (Bool.or_true _)) ((bitOf_or v 1 1).trans (by rw [hv]; rfl))

theorem liveReEnable_writes : cfgControlWrite s who (putField (v ||| 1) 3 3 0) flash = enableNow (setReg s 0x10028 (putField (v ||| 1) 3 3 0 &&& 12)) flash := by
  have outside (i : Nat) (h : i < 3) : bitOf (putField (v ||| 1) 3 3 0) i = (bitOf v i || bitOf 1 i) :=
    (bitOf_putField_outside _ 3 3 0 i (by decide) (by decide) (.inl h)).trans (bitOf_or v 1 i)
  exact cfgControlWrite_enables hw ((outside 0 (by decide)).trans (Bool.or_true _)) ((outside 1 (by decide)).trans (by rw [hv]; rfl))

theorem replacingEnable_writes : cfgControlWrite s who (v ||| 9) flash = enableNow (setReg s 0x10028 ((v ||| 9) &&& 12)) flash :=
  cfgControlWrite_enables hw ((bitOf_or v 9 0).trans (Bool.or_true _)) ((bitOf_or v 9 1).trans (by rw [hv]; rfl))

variable (hh : s.halted = false)
include hh

theorem execConfigEnable_busy (hc : s.cfgState = 1 ∨ s.cfgState = 2 ∨ s.cfgState = 5) : exec (.configEnable who v flash) s = .next (setReg s 0x10028 ((v ||| 1) &&& 12)) :=
  alive_leads_plain hh ((configEnable_writes hw hv).trans (enableNow_busy (s := setReg s 0x10028 _) hc)) rfl rfl rfl

/-! A full enable, of a device that is unconfigured or failed. -/

section
variable (hc : s.cfgState = 0 ∨ s.cfgState = 4)
include hc

theorem execConfigEnable_checks (hf : s.fwRun ≠ 3) :
    exec (.configEnable who v flash) s = .next (retag s (runCheck (asked s ((v ||| 1) &&& 12)) s.cfgState false flash)) := by
  have full : s.cfgState ≠ 3 := by omega
  exact alive_leads hh ((configEnable_writes hw hv).trans (enableNow_checks (by omega) (by simp [full]) hf (.inl full)))

theorem execConfigEnable_uncopied (hf : s.fwRun = 1) (ha : s.cfg.copyA.st ≠ 2) (hb : s.cfg.copyB.st ≠ 2) :
    ∃ t, exec (.configEnable who v flash) s = .next t ∧ t.cfgState = 4 ∧ t.cfg.reason = Code.cfgNoValidCopy := by
  obtain ⟨u, none, -⟩ := selectCopy_none (u := asked s ((v ||| 1) &&& 12)) (s.cfgState == 3) ha hb
  refine ⟨_, execConfigEnable_checks hw hv hh hc (by omega), ?_⟩
  rw [runCheck_unselected (goesOn_asked hf) none, retag_cfgState, retag_cfg]
  exact ⟨if_neg (by omega), rfl⟩

theorem execConfigEnable_unloaded (hf : s.fwRun = 0 ∨ s.fwRun = 2) : ∃ t, exec (.configEnable who v flash) s = .next t ∧ t.cfgState = 4 ∧ t.cfg.reason = Code.fwLoadRequired := by
  refine ⟨_, execConfigEnable_checks hw hv hh hc (by omega), ?_⟩
  rw [runCheck_unloaded (u := asked s _) (by omega) (show s.fwRun ≠ 1 by omega), retag_cfgState, retag_cfg]
  exact ⟨if_neg (by omega), rfl⟩

theorem execConfigEnable_waits (hf : s.fwRun = 3) : ∃ t, exec (.configEnable who v flash) s = .next t ∧ t.cfgState = 1 ∧ t.cfg.waiting = some (s.cfgState, false, flash) := by
  have full : (s.cfgState == 3 && bitOf (cfgControl (setReg s 0x10028 ((v ||| 1) &&& 12))) 3) = false := by
    have : s.cfgState ≠ 3 := by omega
    simp [this]
  have free : ¬ (s.cfgState = 1 ∨ s.cfgState = 2 ∨ s.cfgState = 5) := by omega
  refine ⟨_, alive_leads_plain hh ((configEnable_writes hw hv).trans ((if_neg free).trans (if_pos (.inl hf)))) rfl rfl rfl, rfl, ?_⟩
  exact congrArg (fun b => some (s.cfgState, b, flash)) full

section
variable (hf : s.fwRun = 1) (ha : s.cfg.copyA.st = 2) (hb : s.cfg.copyB.st = 0)
include hf ha hb

theorem execConfigEnable_stale (hs : imageSeq s.cfg.copyA.bytes < s.cfg.lastSeq) :
    ∃ t, exec (.configEnable who v flash) s = .next t ∧ t.cfgState = 4 ∧ t.cfg.reason = Code.cfgSequenceStale := by
  have stale : selectCopy (asked s ((v ||| 1) &&& 12)) (s.cfgState == 3) = (asked s ((v ||| 1) &&& 12), .error Code.cfgSequenceStale) :=
    (selectCopy_first (u := asked s ((v ||| 1) &&& 12)) _ ha hb).trans (congrArg _ (if_pos (Bool.or_eq_true_iff.mpr (.inl (decide_eq_true hs)))))
  refine ⟨_, execConfigEnable_checks hw hv hh hc (by omega), ?_⟩
  rw [runCheck_unselected (goesOn_asked hf) stale, retag_cfgState, retag_cfg]
  exact ⟨if_neg (by omega), rfl⟩

section
variable (hs : s.cfg.lastSeq ≤ imageSeq s.cfg.copyA.bytes)
include hs

theorem execConfigEnable_fails {code r : Nat}
    (hr : checkRecords s (imageRecords s.cfg.copyA.bytes) (if (ofType (imageRecords s.cfg.copyA.bytes) 0xD).isEmpty then none else flash) = some (code, r)) :
    ∃ t, exec (.configEnable who v flash) s = .next t ∧ t.cfgState = 4 ∧ t.cfg.reason = code ∧ t.cfg.record = r := by
  obtain ⟨u, fails⟩ := runCheck_fails (goesOn_asked hf) (full_selects hc ha hb hs _) (((asked_same s _).checkRecords _ _).trans hr)
  refine ⟨_, execConfigEnable_checks hw hv hh hc (by omega), ?_⟩
  rw [fails, retag_cfgState, retag_cfg]
  exact ⟨if_neg (by omega), rfl, rfl⟩

theorem execConfigEnable_passes
    (hr : checkRecords s (imageRecords s.cfg.copyA.bytes) (if (ofType (imageRecords s.cfg.copyA.bytes) 0xD).isEmpty then none else flash) = none) :
    ∃ t, exec (.configEnable who v flash) s = .next t ∧ t.cfgState = 2 ∧ t.cfg.reason = Code.cfgOk ∧ t.cfg.chosen = 1 ∧ t.tz = s.tz := by
  have full : (s.cfgState == 3) = false := beq_eq_false_iff_ne.mpr (by omega)
  obtain ⟨u, passes, state, reason, chosen, tz⟩ := runCheck_passes (goesOn_asked hf) (full_selects hc ha hb hs _) (((asked_same s _).checkRecords _ _).trans hr)
    (by rw [full]; rfl)
  refine ⟨_, execConfigEnable_checks hw hv hh hc (by omega), ?_⟩
  rw [passes, retag_cfgState, retag_cfg, retag_tz]
  exact ⟨state, reason, chosen, tz⟩
end
end
end

/-! A live re-enable, and a replacing one in a composition. -/

section
variable (hc : s.cfgState = 3)
include hc

theorem execReplacingEnable_member (hm : s.comps ≠ []) (hf : s.fwRun ≠ 3) :
    ∃ t, exec (.replacingEnable who v flash) s = .next t ∧ t.cfgState = 3 ∧ t.cfg.reason = Code.cfgAttachmentMismatch := by
  have replace : bitOf ((v ||| 9) &&& 12) 3 = true := by
    rw [bitOf_and, bitOf_or, show bitOf 9 3 = true from rfl, Bool.or_true]
    rfl
  have checks := enableNow_checks (s := s) (w := (v ||| 9) &&& 12) (flash := flash) (replace := true) (by omega) (by rw [hc, replace]; rfl) hf (.inr (.inl rfl))
  rw [hc] at checks
  refine ⟨_, alive_leads hh ((replacingEnable_writes hw hv).trans checks), ?_⟩
  rw [runCheck_mismatch (u := asked s _) hm, retag_cfgState, retag_cfg]
  exact ⟨rfl, rfl⟩

variable (hs : s.til.swap = 0) (hf : s.fwRun = 1)
include hs hf

theorem execLiveReEnable_checks : exec (.liveReEnable who v flash) s = .next (retag s (runCheck (asked s (putField (v ||| 1) 3 3 0 &&& 12)) 3 false flash)) := by
  have live : bitOf (putField (v ||| 1) 3 3 0 &&& 12) 3 = false := by rw [bitOf_and, bitOf_putField_zero _ 3 (by decide), Bool.false_and]
  have checks := enableNow_checks (s := s) (w := putField (v ||| 1) 3 3 0 &&& 12) (flash := flash) (replace := false) (by omega) (by rw [live, Bool.and_false]) (by omega) (.inr (.inr hs))
  rw [hc] at checks
  exact alive_leads hh ((liveReEnable_writes hw hv).trans checks)

theorem execLiveReEnable_uncopied (ha : s.cfg.copyA.st ≠ 2) (hb : s.cfg.copyB.st ≠ 2) :
    ∃ t, exec (.liveReEnable who v flash) s = .next t ∧ t.cfgState = 3 ∧ t.cfg.reason = Code.cfgNoValidCopy ∧ t.tz = s.tz := by
  obtain ⟨u, none, tz⟩ := selectCopy_none (u := asked s (putField (v ||| 1) 3 3 0 &&& 12)) true ha hb
  refine ⟨_, execLiveReEnable_checks hw hv hh hc hs hf, ?_⟩
  rw [runCheck_unselected (goesOn_asked hf) none, retag_cfgState, retag_cfg, retag_tz]
  exact ⟨rfl, rfl, tz⟩

theorem execLiveReEnable_takes (ha : s.cfg.copyA.st = 2) (hb : s.cfg.copyB.st = 0) (hq : s.cfg.lastSeq < imageSeq s.cfg.copyA.bytes)
    (hr : checkRecords s (imageRecords s.cfg.copyA.bytes) (if (ofType (imageRecords s.cfg.copyA.bytes) 0xD).isEmpty then none else flash) = none)
    (hd : liveFails (imageRecords s.cfg.force) (imageRecords s.cfg.copyA.bytes) = none) :
    ∃ t, exec (.liveReEnable who v flash) s = .next t ∧ t.cfgState = 3 ∧ t.cfg.used = 1 ∧ t.cfg.force = s.cfg.copyA.bytes ∧ t.cfg.lastSeq = imageSeq s.cfg.copyA.bytes := by
  have selects : selectCopy (asked s (putField (v ||| 1) 3 3 0 &&& 12)) true = (asked s (putField (v ||| 1) 3 3 0 &&& 12), .ok (1, s.cfg.copyA.bytes, imageSeq s.cfg.copyA.bytes)) := by
    refine (selectCopy_first (u := asked s _) _ ha hb).trans (congrArg _ (if_neg ?_))
    rw [Bool.true_and, ← Bool.decide_or, decide_eq_true_eq]
    exact fun x => x.elim (Nat.lt_asymm hq) (Nat.ne_of_gt hq)
  obtain ⟨u, takes, state, copy⟩ := runCheck_live (goesOn_asked (from_ := 3) hf) selects (((asked_same s _).checkRecords _ _).trans hr) rfl hd
  refine ⟨_, execLiveReEnable_checks hw hv hh hc hs hf, ?_⟩
  rw [takes, retag_cfgState, retag_cfg]
  exact ⟨state, copy⟩
end
end
end

/-! ### Putting a copy in force (R563) -/

section
variable (s : State)

theorem loadSpindle_cfg (bank : Nat) (b : List Byte) : (loadSpindle s bank b).cfg = s.cfg := by
  refine (foldl_keeps State.cfg _ (fun u i => ?_) _ _).trans rfl
  exact ite_keeps State.cfg rfl rfl

theorem putRoutes_cfg (rs : List CRec) : (putRoutes s rs).cfg = s.cfg := by
  refine (foldl_keeps State.cfg _ (fun u x => ?_) _ _).trans rfl
  exact ite_keeps State.cfg rfl rfl

theorem putPort_cfg (b : List Byte) : (putPort s b).cfg = s.cfg := by
  unfold putPort
  dsimp only
  exact ite_keeps State.cfg rfl ((toPort_fab _ _ _).cfg.trans rfl)

/-- What becomes part of the ring keeps the copy in force. -/
theorem insertRing_copy : (insertRing s).cfgState = s.cfgState ∧ (insertRing s).cfg.used = s.cfg.used ∧ (insertRing s).cfg.force = s.cfg.force ∧ (insertRing s).cfg.lastSeq = s.cfg.lastSeq := by
  unfold insertRing
  split
  · rw [(bypEval_fab _).cfg, (bypEval_fab _).cfgState]
    exact ⟨rfl, rfl, rfl, rfl⟩
  · exact ⟨rfl, rfl, rfl, rfl⟩

theorem standIn_cfg : (standIn s).cfg = s.cfg ∧ (standIn s).cfgState = s.cfgState := by
  unfold standIn
  extract_lets me pos tell u
  have told : OnlyFab s u := OnlyFab.foldl tell (fun s d => OnlyFab.ite rfl (transmit_fab _ _ _)) _ s
  split
  · exact ⟨told.cfg, told.cfgState⟩
  · rw [(transmit_fab _ _ _).cfg, (transmit_fab _ _ _).cfgState]
    exact ⟨told.cfg, told.cfgState⟩

theorem applyConfig_enables : (applyConfig s).cfgState = 3 ∧ (applyConfig s).cfg.used = s.cfg.chosen ∧
    (applyConfig s).cfg.force = (if s.cfg.chosen = 2 then s.cfg.copyB.bytes else s.cfg.copyA.bytes) ∧ (applyConfig s).cfg.lastSeq = imageSeq (applyConfig s).cfg.force := by
  unfold applyConfig
  extract_lets bs rs was s1 s2 fab2 cx2 s3 s4 sp s5 til5 s6 s7 s8 clock geom cpm8 fl8 cfg9 s9 s10
  have cfg1 : s1.cfg = s.cfg := ite_keeps State.cfg rfl rfl
  have cfg2 : s2.cfg = s1.cfg := foldl_keeps State.cfg loadKey (fun _ _ => rfl) _ s1
  have cfg4 : s4.cfg = s3.cfg := foldl_keeps State.cfg (fun s (x : List Byte × Nat) => putCustomer s x.2 x.1) (fun _ _ => rfl) _ s3
  have cfg5 : s5.cfg = s4.cfg := loadSpindle_cfg s4 0 sp
  have cfg7 : s7.cfg = s6.cfg := putRoutes_cfg s6 rs
  have cfg8 : s8.cfg = s7.cfg := (bypEval_fab _).cfg.trans (foldl_keeps State.cfg putPort putPort_cfg _ _)
  have chosen : s8.cfg.chosen = s.cfg.chosen := congrArg Cfg.chosen (cfg8.trans (cfg7.trans (cfg5.trans (cfg4.trans (cfg2.trans cfg1)))))
  obtain ⟨state, used, force, seq⟩ := insertRing_copy s9
  obtain ⟨standCfg, standState⟩ := standIn_cfg s10
  rw [(serve_fab _).cfg, (serve_fab _).cfgState, ite_keeps State.cfg standCfg rfl, ite_keeps State.cfgState standState rfl]
  refine ⟨ite_keeps State.cfgState state rfl, (ite_keeps (fun s => s.cfg.used) used rfl).trans chosen, ite_keeps (fun s => s.cfg.force) force rfl, ?_⟩
  have forced : s10.cfg.force = bs := ite_keeps (fun s => s.cfg.force) force rfl
  rw [forced]
  exact ite_keeps (fun s => s.cfg.lastSeq) seq rfl
end

/-! ### CONFIG_LOAD (R560) -/

section
variable {s : State} {who : Req} {v : W64} {cut : Bool}

/-- The copy that CONFIG_LOAD reads, as it is kept. -/
def loadedCopy (s : State) (who : Req) (v : W64) (cut : Bool) : CfgCopy :=
  let n := fieldOf v 36 16
  let bs := hostRead s (fidOf who.port 0) (fieldOf (s.regs.get 0 0x10000) 63 12 * 4096) n
  let bad := decide (n < 64 ∨ 1048576 < n) || cut || !(getH s who.port).link
  if bad then { st := 3, bytes := [] } else if imageValid bs then { st := 2, bytes := bs } else { st := 3, bytes := [] }

theorem cfgLoadWrite_busy (hw : isPhysical who = true) (hc : s.cfgState = 1 ∨ s.cfgState = 2) : cfgLoadWrite s who v cut = setReg s 0x10008 (v &&& 0x1FFFFF0002) :=
  (if_neg (by rw [hw]; decide)).trans (if_pos (.inr hc))

theorem cfgLoadWrite_loads (hw : isPhysical who = true) (h0 : bitOf v 0 = true) (h1 : s.cfgState ≠ 1) (h2 : s.cfgState ≠ 2) : cfgLoadWrite s who v cut =
    modCfg (setReg s 0x10008 (v &&& 0x1FFFFF0002)) (fun g => if bitOf v 1 then { g with copyB := loadedCopy s who v cut } else { g with copyA := loadedCopy s who v cut }) := by
  have address : (setReg s 0x10008 (v &&& 0x1FFFFF0002)).regs.get 0 0x10000 = s.regs.get 0 0x10000 := Tbl.get_set_ne _ _ _ _ _ (by decide)
  have free : ¬ (bitOf v 0 = false ∨ s.cfgState = 1 ∨ s.cfgState = 2) := by
    rw [h0]
    exact fun x => x.elim (absurd · (by decide)) (fun x => x.elim h1 h2)
  refine ((if_neg (by rw [hw]; decide)).trans (if_neg free)).trans ?_
  unfold loadedCopy
  rw [← address]
  rfl

section
variable (hh : s.halted = false) (hw : isPhysical who = true)
include hh hw

theorem execConfigLoad_busy (hc : s.cfgState = 1 ∨ s.cfgState = 2) : exec (.configLoad who v cut) s = .next (setReg s 0x10008 ((v ||| 1) &&& 0x1FFFFF0002)) :=
  alive_leads_plain hh (cfgLoadWrite_busy hw hc) rfl rfl rfl

theorem execConfigLoad_first (h1 : s.cfgState ≠ 1) (h2 : s.cfgState ≠ 2) (hv : bitOf (v ||| 1) 1 = false) :
    exec (.configLoad who v cut) s = .next (modCfg (setReg s 0x10008 ((v ||| 1) &&& 0x1FFFFF0002)) (fun g => { g with copyA := loadedCopy s who (v ||| 1) cut })) := by
  refine alive_leads_plain hh ((cfgLoadWrite_loads hw (bitOf_swap v) h1 h2).trans ?_) rfl rfl rfl
  rw [hv]
  rfl

theorem execConfigLoad_second (h1 : s.cfgState ≠ 1) (h2 : s.cfgState ≠ 2) (hv : bitOf (v ||| 1) 1 = true) :
    exec (.configLoad who v cut) s = .next (modCfg (setReg s 0x10008 ((v ||| 1) &&& 0x1FFFFF0002)) (fun g => { g with copyB := loadedCopy s who (v ||| 1) cut })) := by
  refine alive_leads_plain hh ((cfgLoadWrite_loads hw (bitOf_swap v) h1 h2).trans ?_) rfl rfl rfl
  rw [hv]
  rfl
end

/-! ### CONFIG_APPLY (R563, R569) -/

section
variable (hh : s.halted = false)
include hh

theorem execConfigApply_clears (hc : s.cfgState = 1) (hr : s.cfg.replacing = true) (hw : s.cfg.waiting = none) (ht : s.tz.started = []) :
    exec .configApply s = .next (retag s { clearService s with cfgState := 2 }) := alive_leads hh (if_pos ⟨hc, hr, hw, by rw [ht]; rfl⟩)

theorem execConfigApply_applies (hc : s.cfgState = 2) : exec .configApply s = .next (retag s (applyConfig s)) := by
  have checked : ¬ s.cfgState = 1 := by omega
  exact alive_leads hh ((if_neg (fun x => checked x.1)).trans (if_pos hc))

theorem execConfigApply_rests (h1 : s.cfgState ≠ 1) (h2 : s.cfgState ≠ 2) : exec .configApply s = .next s := alive_unchanged hh ((if_neg (fun x => h1 x.1)).trans (if_neg h2))
end

/-! ### SHUTDOWN (R571) -/

theorem shutdownTick_waits (h : s.tz.started ≠ []) : shutdownTick s = s := if_pos (.inr (.inl (by simpa using h)))

theorem shutdownTick_flashless (hc : s.cfgState = 5) (h : s.tz.started = []) (ht : s.fl.tier = 0) : (shutdownTick s).cfgState = 6 := by
  rw [shutdownTick, if_neg (by simp [hc, h, ht])]

/-- SHUTDOWN of a device that is in no composition. -/
theorem shutdownNow_lone (hc : s.cfgState = 3) (hm : s.comps = []) : shutdownNow s = shutdownTick { modCfg s (fun g => { g with member := false }) with cfgState := 5 } := by
  rw [shutdownNow, if_neg (not_not_intro hc), if_neg (by simp [hm]), hm]
  rfl

section
variable (hh : s.halted = false) (hw : isPhysical who = true) (hv : bitOf v 0 = false)
include hw hv

theorem shutdown_writes : cfgControlWrite s who (v ||| 2) none = shutdownNow (setReg s 0x10028 ((v ||| 2) &&& 12)) :=
  cfgControlWrite_shuts hw ((bitOf_or v 2 0).trans (by rw [hv]; rfl)) (bitOf_abort v)

include hh

theorem execShutdown_disabled (hc : s.cfgState ≠ 3) : exec (.shutdown who v) s = .next (setReg s 0x10028 ((v ||| 2) &&& 12)) :=
  alive_leads_plain hh ((shutdown_writes hw hv).trans (if_pos hc)) rfl rfl rfl

theorem execShutdown_quiesces (hc : s.cfgState = 3) (hm : s.comps = []) (ht : s.tz.started ≠ []) : ∃ t, exec (.shutdown who v) s = .next t ∧ t.cfgState = 5 ∧ t.cfg.member = false :=
  ⟨_, alive_leads_plain hh ((shutdown_writes hw hv).trans ((shutdownNow_lone (s := setReg s 0x10028 _) hc hm).trans
    (shutdownTick_waits (s := { modCfg (setReg s 0x10028 _) (fun g => { g with member := false }) with cfgState := 5 }) ht))) rfl rfl rfl, rfl, rfl⟩

theorem execShutdown_ends (hc : s.cfgState = 3) (hm : s.comps = []) (ht : s.tz.started = []) (hf : s.fl.tier = 0) : ∃ t, exec (.shutdown who v) s = .next t ∧ t.cfgState = 6 := by
  refine ⟨_, alive_leads hh ((shutdown_writes hw hv).trans (shutdownNow_lone (s := setReg s 0x10028 _) hc hm)), ?_⟩
  rw [retag_cfgState]
  exact shutdownTick_flashless (s := { modCfg (setReg s 0x10028 _) (fun g => { g with member := false }) with cfgState := 5 }) rfl ht hf

theorem execShutdown_member (hc : s.cfgState = 3) (hm : s.comps ≠ []) (hf : bitOf v 2 = false) :
    ∃ t, exec (.shutdown who v) s = .next t ∧ t.cfgState = 3 ∧ t.cfg.member = true ∧ t.comps = s.comps := by
  have force : bitOf (cfgControl (setReg s 0x10028 ((v ||| 2) &&& 12))) 2 = false := by
    rw [cfgControl, setReg_same, bitOf_and, bitOf_or, hf]
    rfl
  have member : shutdownNow (setReg s 0x10028 ((v ||| 2) &&& 12)) = modCfg (setReg s 0x10028 ((v ||| 2) &&& 12)) (fun g => { g with member := true }) :=
    (if_neg (not_not_intro hc)).trans (if_pos ⟨by simpa using hm, force⟩)
  exact ⟨_, alive_leads_plain hh ((shutdown_writes hw hv).trans member) rfl rfl rfl, hc, rfl, rfl⟩
end
end

/-! ### The warm-start import (R572, R573) -/

theorem importServes {s : State} (he : enabled s = true) (ht : 2 ≤ s.fl.tier) : ¬ (enabled s = false ∨ s.fl.tier < 2) := by
  rw [he]
  exact fun x => x.elim (absurd · (by decide)) (Nat.not_lt.mpr ht)

/-- Holds, trees and weights as an import takes them, before its pages. -/
def warmTaken (s : State) (w : WarmImage) : State :=
  { modFl s (fun f => { f with warmFound := none }) with
    rgn := { s.rgn with
      holds := s.rgn.holds ++ w.holds.filter (fun h => !(s.rgn.holds.any (fun x => x.handle == h.handle)))
      tree := s.rgn.tree ++ w.tree.filter (fun t => !(s.rgn.tree.any (fun x => x.handle == t.handle)))
      mirrorTree := s.rgn.mirrorTree ++ w.mirrorTree.filter (fun t => !(s.rgn.mirrorTree.any (fun x => x.handle == t.handle))) }
    models := s.models.map (fun m => match w.weights.find? (fun x => x.1 == m.number) with | some x => { m with weights := x.2 } | none => m) }

section
variable {s : State} {bad : List Nat} {broken : Bool} {w : WarmImage} (hh : s.halted = false)
include hh

theorem execWarmStartImport_none (h : s.fl.warmFound = none) : exec (.warmStartImport bad broken) s = .next s := by
  refine alive_unchanged hh ?_
  rw [h]

variable (h : s.fl.warmFound = some w) (he : enabled s = true) (ht : 2 ≤ s.fl.tier) (hr : s.cfg.replacing = false)
include h he ht hr

theorem execWarmStartImport_keys (hk : w.keys ≠ (warmImage s).keys) :
    exec (.warmStartImport bad broken) s = .next (logCfg (modFl s (fun f => { f with warmFound := none })) Code.keyInvalid 0xFFFF s.cfg.used s.cfg.seq) := by
  have serves := importServes he ht
  refine alive_leads_plain hh ?_ rfl rfl rfl
  rw [h]
  exact (if_neg serves).trans ((if_neg (Bool.eq_false_iff.mp hr)).trans (if_pos hk))

theorem execWarmStartImport_foreign (hk : w.keys = (warmImage s).keys) (hd : w.device ≠ self s) :
    exec (.warmStartImport bad broken) s = .next (logCfg (modFl s (fun f => { f with warmFound := none })) Code.cfgAttachmentMismatch 0xFFFF s.cfg.used s.cfg.seq) := by
  have serves := importServes he ht
  refine alive_leads_plain hh ?_ rfl rfl rfl
  rw [h]
  exact (if_neg serves).trans ((if_neg (Bool.eq_false_iff.mp hr)).trans ((if_neg (not_not_intro hk)).trans (if_pos (.inl hd))))

theorem execWarmStartImport_holds (hk : w.keys = (warmImage s).keys) (hd : w.device = self s) (hc : w.carve = (warmImage s).carve) (hi : w.tableIds = []) (hb : broken = false)
    (hx : w.weights = []) (hp : w.pages = []) : ∃ t, exec (.warmStartImport bad broken) s = .next t ∧
      t.rgn.holds = s.rgn.holds ++ w.holds.filter (fun h => !(s.rgn.holds.any (fun x => x.handle == h.handle))) ∧ t.pages = s.pages := by
  have own : ¬ (w.device ≠ self s ∨ w.carve ≠ (warmImage s).carve ∨
      w.tableIds.all (fun id => s.cx.slots.any (fun t => (t.st == 2 || t.st == 3) && t.id == id)) = false) := by simp [hd, hc, hi]
  have models : s.models.map (fun m => match w.weights.find? (fun x => x.1 == m.number) with | some x => { m with weights := x.2 } | none => m) = s.models := by
    rw [hx]
    exact List.map_id' _
  have serves := importServes he ht
  refine ⟨warmTaken s w, alive_leads_plain hh ?_ rfl rfl models, rfl, rfl⟩
  rw [h]
  refine (if_neg serves).trans ((if_neg (Bool.eq_false_iff.mp hr)).trans ((if_neg (not_not_intro hk)).trans ((if_neg own).trans ((if_neg (Bool.eq_false_iff.mp hb)).trans ?_))))
  rw [hp]
  rfl
end

/-- Settles O52, by the lemma of each row and of each of its outcomes. -/
theorem configRows : Obligations.ConfigRows := by
  unfold Obligations.ConfigRows
  intro s hh
  exact ⟨fun who v f cut => exec_config_virtual hh cut, fun who v cut hw => ⟨execConfigLoad_busy hh hw, execConfigLoad_first hh hw, execConfigLoad_second hh hw⟩,
    fun who v f hw hv => execConfigEnable_busy hw hv hh,
    fun who v f hw hv hc => ⟨execConfigEnable_uncopied hw hv hh hc, execConfigEnable_unloaded hw hv hh hc, execConfigEnable_waits hw hv hh hc,
      fun hf ha hb hs => ⟨fun code r => execConfigEnable_fails hw hv hh hc hf ha hb hs, execConfigEnable_passes hw hv hh hc hf ha hb hs⟩, execConfigEnable_stale hw hv hh hc⟩,
    fun who v f hw hv hc hs => ⟨execLiveReEnable_uncopied hw hv hh hc hs, execLiveReEnable_takes hw hv hh hc hs⟩,
    fun who v f hw hv hc => execReplacingEnable_member hw hv hh hc,
    execConfigApply_clears hh, execConfigApply_applies hh, execConfigApply_rests hh, applyConfig_enables s,
    fun who v hw hv => ⟨execShutdown_disabled hh hw hv, execShutdown_quiesces hh hw hv, execShutdown_ends hh hw hv, execShutdown_member hh hw hv⟩,
    fun bad broken => execWarmStartImport_none hh,
    fun bad broken w h he ht hr => ⟨execWarmStartImport_keys hh h he ht hr, execWarmStartImport_foreign hh h he ht hr, execWarmStartImport_holds hh h he ht hr⟩⟩

end Sys2Proof.Machine
end

section
/-!
PROOF. Customers: an entry's number written, the buckets refilled, and admission (R463 to R472).
-/

namespace Sys2Proof.Machine

open Sys2Proof

/-! ### A customer's entry written (R464) -/

/-- The state with one customer entry replaced. -/
def setCustomer (s : State) (i : Nat) (k : Customer) : State := { s with adm := { s.adm with customers := s.adm.customers.set i k } }

section
variable {s : State} {who : Req} {i : Nat} {v : W64}

theorem vtBefore_self (v : Nat) : vtBefore v v = false := by
  have same : ¬ v ≠ v := fun h => h rfl
  rw [vtBefore]
  simp only [same, and_false, decide_false]

/-- The later of two virtual times, as they are compared modulo 2^64 (R471). -/
def laterVt (a b : Nat) : Nat := if vtBefore a b = true then b else a

/-- The virtual times an entry is given when it is made valid. -/
theorem validate_vt_eq (s : State) (k : Customer) :
    (validate s k).vt = (List.range 4).map (fun c => laterVt (k.vt.getD c 0) (classVt s c)) := rfl

/-- The later of two virtual times is not before the second. -/
theorem vtBefore_later (a b : Nat) : vtBefore (laterVt a b) b = false := by
  unfold laterVt
  by_cases h : vtBefore a b = true
  · rw [if_pos h, vtBefore_self]
  · rw [if_neg h, Bool.eq_false_iff.mpr h]

/-- No virtual time of an entry made valid lies before its class (R471). -/
theorem validate_vt (s : State) (k : Customer) {c : Nat} (h : c < 4) : vtBefore ((validate s k).vt.getD c 0) (classVt s c) = false := by
  rw [validate_vt_eq, List.getD_eq_getElem?_getD, List.getElem?_map, List.getElem?_range h, Option.map_some, Option.getD_some, vtBefore_later]

section
variable (hh : s.halted = false)
include hh

theorem execAdmCustIdWrite_untaken (h : byPhysical who = false ∨ 4096 ≤ i) : exec (.admCustIdWrite who i v) s = .next s := alive_unchanged hh (if_pos h)

variable (hw : byPhysical who = true) (hi : i < 4096)
include hw hi

theorem execAdmCustIdWrite_taken {k : Customer} (hk : (if bitOf v 63 then
      (if (s.adm.customers.get Customer.init i).valid = true ∨ (custFields (s.adm.customers.get Customer.init i) v).customer = 0xFFFF ∨
        s.adm.customers.any (fun x => x.1 != i && x.2.valid && x.2.customer == (custFields (s.adm.customers.get Customer.init i) v).customer) = true
        then custFields (s.adm.customers.get Customer.init i) v else validate s (custFields (s.adm.customers.get Customer.init i) v))
      else { custFields (s.adm.customers.get Customer.init i) v with valid := false }) = k) : exec (.admCustIdWrite who i v) s = .next (setCustomer s i k) := by
  have taken : ¬ (byPhysical who = false ∨ 4096 ≤ i) := by
    rw [hw]
    exact fun x => x.elim (absurd · (by decide)) (Nat.not_le.mpr hi)
  exact alive_leads_plain hh ((if_neg taken).trans (congrArg (setCustomer s i) hk)) rfl rfl rfl

theorem execAdmCustIdWrite_invalidates (hv : bitOf v 63 = false) :
    exec (.admCustIdWrite who i v) s = .next (setCustomer s i { custFields (s.adm.customers.get Customer.init i) v with valid := false }) :=
  execAdmCustIdWrite_taken hh hw hi (if_neg (Bool.eq_false_iff.mp hv))

theorem execAdmCustIdWrite_keeps (hv : bitOf v 63 = true) (hk : (s.adm.customers.get Customer.init i).valid = true) :
    exec (.admCustIdWrite who i v) s = .next (setCustomer s i (custFields (s.adm.customers.get Customer.init i) v)) :=
  execAdmCustIdWrite_taken hh hw hi ((if_pos hv).trans (if_pos (.inl hk)))

theorem execAdmCustIdWrite_repeats (hv : bitOf v 63 = true)
    (hx : ∃ x ∈ s.adm.customers, x.1 ≠ i ∧ x.2.valid = true ∧ x.2.customer = (custFields (s.adm.customers.get Customer.init i) v).customer) :
    exec (.admCustIdWrite who i v) s = .next (setCustomer s i (custFields (s.adm.customers.get Customer.init i) v)) := by
  obtain ⟨x, hm, hne, valid, same⟩ := hx
  have taken : s.adm.customers.any (fun x => x.1 != i && x.2.valid && x.2.customer == (custFields (s.adm.customers.get Customer.init i) v).customer) = true :=
    List.any_eq_true.mpr ⟨x, hm, by simp [hne, valid, same]⟩
  exact execAdmCustIdWrite_taken hh hw hi ((if_pos hv).trans (if_pos (.inr (.inr taken))))

theorem execAdmCustIdWrite_validates (hv : bitOf v 63 = true) (hk : (s.adm.customers.get Customer.init i).valid = false)
    (hc : (custFields (s.adm.customers.get Customer.init i) v).customer ≠ 0xFFFF)
    (hx : ∀ x ∈ s.adm.customers, x.1 ≠ i → x.2.valid = true → x.2.customer ≠ (custFields (s.adm.customers.get Customer.init i) v).customer) :
    exec (.admCustIdWrite who i v) s = .next (setCustomer s i (validate s (custFields (s.adm.customers.get Customer.init i) v))) := by
  have single : ¬ (s.adm.customers.any (fun x => x.1 != i && x.2.valid && x.2.customer == (custFields (s.adm.customers.get Customer.init i) v).customer) = true) := by
    rw [List.any_eq_true]
    rintro ⟨x, hm, h⟩
    simp only [Bool.and_eq_true, bne_iff_ne, beq_iff_eq] at h
    obtain ⟨⟨hne, valid⟩, same⟩ := h
    exact hx x hm hne valid same
  refine execAdmCustIdWrite_taken hh hw hi ((if_pos hv).trans (if_neg ?_))
  rintro (h | h | h)
  · exact Bool.noConfusion (hk.symm.trans h)
  · exact hc h
  · exact single h
end

theorem custFields_valid {k : Customer} (h : k.valid = true) : (custFields k v).customer = k.customer ∧ (custFields k v).keySlot = k.keySlot ∧
    (custFields k v).weight = (if fieldOf v 47 32 = 0 then k.weight else fieldOf v 47 32) := ⟨if_pos h, if_pos h, rfl⟩
end

/-! ### The buckets refilled (R465) -/

theorem refilled_bounded (k : Customer) (now : Nat) (h : (k.refilled now).valid = true) : (k.refilled now).level ≤ (k.refilled now).burst * 1000 := by
  unfold Customer.refilled at h ⊢
  split at h
  · rw [if_pos ‹_›]
    exact Nat.min_le_left _ _
  · exact absurd h ‹_›

theorem execBucketRefillTick_refills {s : State} (hh : s.halted = false) : ∃ t, exec .bucketRefillTick s = .next t ∧ t = { s with adm := { s.adm with customers := t.adm.customers } } ∧
    t.adm.customers.map (·.1) = s.adm.customers.map (·.1) ∧
    (∀ i k, (i, k) ∈ s.adm.customers → (i, if k.valid then { k with level := min (k.burst * 1000) (k.level + k.rate * (s.now - k.filledAt)), filledAt := s.now } else k) ∈ t.adm.customers) ∧
    (∀ x ∈ t.adm.customers, x.2.valid = true → x.2.level ≤ x.2.burst * 1000) := by
  refine ⟨_, alive_leads_plain hh rfl rfl rfl rfl, rfl, ?_, fun i k hk => List.mem_map_of_mem hk, fun x hx hv => ?_⟩
  · rw [List.map_map]
    rfl
  · obtain ⟨y, -, rfl⟩ := List.mem_map.mp hx
    exact refilled_bounded y.2 s.now hv

/-! ### Admission (R466 to R472) -/

section
variable {s : State} {q charge i : Nat} {e : Entry}

theorem admitEntry_firmware (h : firmwareQueue ≤ q) : admitEntry s q e charge = (s, 0) := if_pos h

section
variable (hq : q < firmwareQueue)
include hq

theorem admitEntry_closed (h : natBit (fieldOf (s.regs.get 0xF 0x700000) 3 0) e.prio = false) :
    admitEntry s q e charge = ({ s with adm := { s.adm with closed := satAdd 0xFFFF s.adm.closed 1 } }, Code.admClassClosed) :=
  (if_neg (Nat.not_le.mpr hq)).trans (if_pos (by rw [h]; rfl))

variable (ho : natBit (fieldOf (s.regs.get 0xF 0x700000) 3 0) e.prio = true)
include ho

theorem admitEntry_unknown (h : knownCustomer s e.customer = none) : admitEntry s q e charge = (s, Code.tzRights) := by
  refine ((if_neg (Nat.not_le.mpr hq)).trans (if_neg (by rw [ho]; decide))).trans ?_
  rw [h]

variable (hk : knownCustomer s e.customer = some i)
include hk

theorem admitEntry_pays (h : charge * 1000 ≤ (s.adm.customers.get Customer.init i).level) : admitEntry s q e charge =
    (refreshVt (setCustomer s i { s.adm.customers.get Customer.init i with
      level := (s.adm.customers.get Customer.init i).level - charge * 1000, admitted := wrapAdd 32 (s.adm.customers.get Customer.init i).admitted 1
      vt := (s.adm.customers.get Customer.init i).vt.set e.prio (((s.adm.customers.get Customer.init i).vt.getD e.prio 0 +
        ceilDiv (charge * 65536) (s.adm.customers.get Customer.init i).weight) % 2 ^ 64) }) e.prio, 0) := by
  refine ((if_neg (Nat.not_le.mpr hq)).trans (if_neg (by rw [ho]; decide))).trans ?_
  rw [hk]
  exact if_pos h

theorem admitEntry_exhausts (h : (s.adm.customers.get Customer.init i).level < charge * 1000)
    (hb : (s.adm.customers.get Customer.init i).burst < charge ∨ (s.adm.customers.get Customer.init i).rate = 0) : ∃ n, admitEntry s q e charge =
      ({ s with adm := { s.adm with
        customers := s.adm.customers.set i { s.adm.customers.get Customer.init i with exhausted := satAdd 0xFFFFFFFF (s.adm.customers.get Customer.init i).exhausted 1 }, exhausted := n } },
        Code.admBudgetExhausted) := by
  refine ⟨satAdd 0xFFFF s.adm.exhausted 1, ((if_neg (Nat.not_le.mpr hq)).trans (if_neg (by rw [ho]; decide))).trans ?_⟩
  rw [hk]
  exact (if_neg (Nat.not_le.mpr h)).trans (if_pos hb)

theorem admitEntry_polices (h : (s.adm.customers.get Customer.init i).level < charge * 1000)
    (hb : charge ≤ (s.adm.customers.get Customer.init i).burst) (hr : (s.adm.customers.get Customer.init i).rate ≠ 0) : ∃ n, admitEntry s q e charge =
      ({ s with adm := { s.adm with
        customers := s.adm.customers.set i { s.adm.customers.get Customer.init i with policed := satAdd 0xFFFFFFFF (s.adm.customers.get Customer.init i).policed 1 }, policed := n } },
        Code.admPoliced) := by
  refine ⟨satAdd 0xFFFFFFFF s.adm.policed 1, ((if_neg (Nat.not_le.mpr hq)).trans (if_neg (by rw [ho]; decide))).trans ?_⟩
  rw [hk]
  exact (if_neg (Nat.not_le.mpr h)).trans (if_neg (fun x => x.elim (Nat.not_lt.mpr hb) hr))
end

/-- Admission changes admission's state alone. -/
theorem admitEntry_only : ∃ a, (admitEntry s q e charge).1 = { s with adm := a } := by
  unfold admitEntry
  split
  · exact ⟨s.adm, rfl⟩
  · split
    · exact ⟨_, rfl⟩
    · split
      · exact ⟨s.adm, rfl⟩
      · dsimp only
        split
        · exact ⟨_, rfl⟩
        · split <;> exact ⟨_, rfl⟩

theorem setCustomer_get (t : Tbl Customer) (i : Nat) (k : Customer) : (t.set i k).get Customer.init i = k := Tbl.get_set_self t Customer.init i k
end

/-- Settles O40, by the lemma of each outcome of a written entry, of a refill and of admission. -/
theorem customerRows : Obligations.CustomerRows := by
  unfold Obligations.CustomerRows
  refine ⟨fun s who i v hh => ⟨execAdmCustIdWrite_untaken hh, fun hw hi => ⟨execAdmCustIdWrite_invalidates hh hw hi,
      fun hv hk => ⟨execAdmCustIdWrite_keeps hh hw hi hv hk, custFields_valid hk⟩, fun hv hk hx => ⟨execAdmCustIdWrite_repeats hh hw hi hv hx, hk⟩,
      fun hv hk hc hx => ⟨execAdmCustIdWrite_validates hh hw hi hv hk hc hx, rfl, rfl, rfl, fun c => validate_vt s _⟩⟩⟩,
    fun s => execBucketRefillTick_refills, fun s q charge i e => ?_⟩
  refine ⟨admitEntry_firmware, fun hq ho => ?_, admitEntry_unknown, fun hq ho hk => ⟨fun h => ?_, fun h hb => ?_, fun h hb hr => ?_⟩, ?_⟩
  · rw [admitEntry_closed hq ho]
    exact ⟨rfl, rfl, rfl⟩
  · rw [admitEntry_pays hq ho hk h]
    refine ⟨rfl, ?_⟩
    dsimp only [refreshVt, setCustomer]
    rw [setCustomer_get]
    exact ⟨rfl, rfl, rfl⟩
  · obtain ⟨n, exhausts⟩ := admitEntry_exhausts hq ho hk h hb
    rw [exhausts]
    refine ⟨rfl, ?_⟩
    dsimp only
    rw [setCustomer_get]
    exact ⟨rfl, rfl⟩
  · obtain ⟨n, polices⟩ := admitEntry_polices hq ho hk h hb hr
    rw [polices]
    refine ⟨rfl, ?_⟩
    dsimp only
    rw [setCustomer_get]
    exact ⟨rfl, rfl⟩
  · obtain ⟨a, only⟩ := admitEntry_only (s := s) (q := q) (e := e) (charge := charge)
    rw [only]
    exact ⟨rfl, rfl, rfl, rfl⟩

end Sys2Proof.Machine
end

section
/-!
PROOF. The port states (R404 to R410, R429): a port after its own change, and one lemma for each outcome of a port's rows.
-/

namespace Sys2Proof.Machine

open Sys2Proof

/-! ### A port after a change of it -/

theorem getP_modP {s : State} {p : Nat} (f : Port → Port) (h : p < s.fab.ports.length) : getP (modP s p f) p = f (getP s p) := by
  simp [getP, modP, List.getD_eq_getElem?_getD, h]

/-- A change of a port that is not there changes nothing that reads it. -/
theorem getP_modP_cases (s : State) (p : Nat) (f : Port → Port) : getP (modP s p f) p = f (getP s p) ∨ getP (modP s p f) p = getP s p := by
  by_cases h : p < s.fab.ports.length
  · exact .inl (getP_modP f h)
  · right
    simp [getP, modP, List.getD_eq_getElem?_getD, Nat.not_lt.mp h]

theorem modP_congr {s : State} {p : Nat} {f g : Port → Port} (h : f (getP s p) = g (getP s p)) : modP s p f = modP s p g := by
  have same : s.fab.ports.zipIdx.map (fun x => if x.2 = p then f x.1 else x.1) = s.fab.ports.zipIdx.map (fun x => if x.2 = p then g x.1 else x.1) := by
    refine List.map_congr_left fun x hx => ?_
    by_cases hp : x.2 = p
    · have at_ : x.1 = getP s p := by
        rw [getP, ← hp, List.getD_eq_getElem?_getD, (List.mem_zipIdx_iff_getElem?.mp hx), Option.getD_some]
      rw [if_pos hp, if_pos hp, at_, h]
    · rw [if_neg hp, if_neg hp]
  unfold modP
  rw [same]

section
variable {s : State} {who : Req} {p : Nat} {v : W64}

/-! ### PORT_CTRL written: enabling and CLEAR_STALL (R404, R409) -/

/-- PORT_CTRL with its medium and EN as the write leaves them (R404). -/
def portCtrlSet (s : State) (p : Nat) (v : W64) (en : Bool) : State :=
  setReg s (0x500000 + 0x40 * p)
    (BitVec.ofNat 64 ((if bitOf (portCtrl s p) 0 = false ∧ fieldOf v 19 18 ≠ 3 then fieldOf v 19 18 else fieldOf (portCtrl s p) 19 18) * 2 ^ 18 + bit en))

theorem portCtrlSet_getP (en : Bool) : getP (portCtrlSet s p v en) p = getP s p := rfl

theorem portCtrlWrite_virtual (h : isPhysical who = false) : portCtrlWrite s who p v = s := if_pos (.inl h)

section
variable (hw : isPhysical who = true) (hp : p < 8)
include hw hp

theorem portCtrlWrite_physical (h : ¬ (bitOf v 0 = false ∧ (getP s p).onRing = true ∧ s.fab.ring.bypEn = true)) : portCtrlWrite s who p v =
    (let t := if bitOf (portCtrl s p) 0 = false ∧ bitOf v 0 = true then
          toPort (modP (portCtrlSet s p v (bitOf v 0)) p (fun x => { x with attempts := 0, lanes := 0 })) p .training
        else if bitOf (portCtrl s p) 0 = true ∧ bitOf v 0 = false then
          bypEval (toPort (modP (portCtrlSet s p v (bitOf v 0)) p (fun x => { x with lanes := 0 })) p .disabled)
        else portCtrlSet s p v (bitOf v 0)
      if bitOf v 1 = false then t
      else if (getP s p).onRing = true then { t with fab := { t.fab with ring := { t.fab.ring with stalled := t.fab.ring.stalled.filter (fun x => x.1 != p ||
        t.fab.ring.xoffs.any (fun y => y.device == x.2 && decide (t.now < y.last + 10))) } } }
      else if (getP t p).st = .stalled ∧ (getP s p).xoffIn = 0 then serve (toPort t p .up)
      else t) := by
  refine (if_neg ?_).trans ?_
  · rw [hw]
    exact fun x => x.elim (absurd · (by decide)) (Nat.not_le.mpr hp)
  · dsimp only
    rw [if_neg h]
    rfl
end

section
variable (hh : s.halted = false)
include hh

theorem execPortEnable_virtual (h : isPhysical who = false) : exec (.portEnable who p v) s = .next s := alive_unchanged hh (portCtrlWrite_virtual h)

theorem execClearStall_virtual (h : isPhysical who = false) : exec (.clearStall who p) s = .next s := alive_unchanged hh (portCtrlWrite_virtual h)

/-- A row whose work touches the fabric's state alone carries no tag. -/
theorem alive_fab {k u : State} (hk : k = u) (h : OnlyFab s u) : alive s k = .next u := alive_leads_plain hh hk h.pages h.dev h.models

theorem alive_fab_reg {k u r : State} (hk : k = u) (h : OnlyFab r u) (hp : r.pages = s.pages) (hd : r.dev = s.dev) (hm : r.models = s.models) : alive s k = .next u :=
  alive_leads_plain hh hk (h.pages.trans hp) (h.dev.trans hd) (h.models.trans hm)

theorem execPortEnable_enables (hw : isPhysical who = true) (hp : p < 8) (hc : bitOf v 1 = false) (ho : bitOf (portCtrl s p) 0 = false) (hv : bitOf v 0 = true) :
    exec (.portEnable who p v) s = .next (toPort (modP (portCtrlSet s p v true) p (fun x => { x with attempts := 0, lanes := 0 })) p .training) := by
  refine alive_fab_reg hh ?_ (OnlyFab.trans (modP_fab (portCtrlSet s p v true) p _) (toPort_fab _ p _)) rfl rfl rfl
  rw [portCtrlWrite_physical hw hp (fun x => by simp [hv] at x)]
  dsimp only
  rw [if_pos hc, if_pos ⟨ho, hv⟩, hv]

theorem execPortEnable_disables (hw : isPhysical who = true) (hp : p < 8) (hc : bitOf v 1 = false) (ho : bitOf (portCtrl s p) 0 = true) (hv : bitOf v 0 = false)
    (hr : (getP s p).onRing = false) :
    exec (.portEnable who p v) s = .next (bypEval (toPort (modP (portCtrlSet s p v false) p (fun x => { x with lanes := 0 })) p .disabled)) := by
  refine alive_fab_reg hh ?_ ((OnlyFab.trans (modP_fab (portCtrlSet s p v false) p _) (toPort_fab _ p _)).trans (bypEval_fab _)) rfl rfl rfl
  rw [portCtrlWrite_physical hw hp (fun x => by simp [hr] at x)]
  dsimp only
  rw [if_pos hc, if_neg (fun x => by simp [ho] at x), if_pos ⟨ho, hv⟩, hv]

theorem execClearStall_clears (hw : isPhysical who = true) (hp : p < 8) (ho : bitOf (portCtrl s p) 0 = true) (hr : (getP s p).onRing = false)
    (hs : (getP s p).st = .stalled) (hx : (getP s p).xoffIn = 0) : exec (.clearStall who p) s =
      .next (retag s (serve (toPort (setReg s (0x500000 + 0x40 * p) (BitVec.ofNat 64 (fieldOf (portCtrl s p) 19 18 * 2 ^ 18 + 1))) p .up))) := by
  refine alive_leads hh ?_
  have hv : bitOf (portCtrl s p ||| 2) 0 = true := by rw [bitOf_or, ho, Bool.true_or]
  have set_ : portCtrlSet s p (portCtrl s p ||| 2) true = setReg s (0x500000 + 0x40 * p) (BitVec.ofNat 64 (fieldOf (portCtrl s p) 19 18 * 2 ^ 18 + 1)) := by
    unfold portCtrlSet
    rw [if_neg (fun x => by simp [ho] at x)]
    rfl
  rw [portCtrlWrite_physical hw hp (fun x => by simp [hr] at x), hv]
  dsimp only
  have swept : bitOf (portCtrl s p ||| 2) 1 ≠ false := fun x => absurd ((bitOf_abort _).symm.trans x) (by decide)
  have enabled : ¬ (bitOf (portCtrl s p) 0 = false ∧ true = true) := fun x => absurd (ho.symm.trans x.1) (by decide)
  have stays : ¬ (bitOf (portCtrl s p) 0 = true ∧ true = false) := fun x => absurd x.2 (by decide)
  rw [if_neg enabled, if_neg stays, if_neg swept, if_neg (Bool.eq_false_iff.mp hr), portCtrlSet_getP, if_pos ⟨hs, hx⟩, set_]

/-! ### Training (R405, R406) -/

theorem execTrainingComplete_untaken (h : (getP s p).st ≠ .training) : exec (.trainingComplete p) s = .next s := alive_unchanged hh (if_neg h)

theorem execTrainingFailed_untaken (h : (getP s p).st ≠ .training) : exec (.trainingFailed p) s = .next s := alive_unchanged hh (if_pos h)

section
variable (ht : (getP s p).st = .training)
include ht

theorem execTrainingComplete_up : exec (.trainingComplete p) s =
    .next (retag s (serve (bypEval (toPort (modP s p (fun x => { x with lanes := 0xFF, attempts := 0 })) p .up)))) := alive_leads hh (if_pos ht)

theorem execTrainingFailed_retries (h : (getP s p).attempts + 1 < 3) : exec (.trainingFailed p) s =
    .next (modP s p (fun x => { x with attempts := x.attempts + 1, since := s.now })) :=
  alive_fab hh ((if_neg (not_not.mpr ht)).trans (if_pos h)) (modP_fab s p _)

theorem execTrainingFailed_fails (h : 3 ≤ (getP s p).attempts + 1) : exec (.trainingFailed p) s =
    .next (retag s (bypEval (raiseErr (fabricLog (toPort (modP s p (fun x => { x with attempts := 3, lanes := 0 })) p .failed) p 0 sevDegraded .training .failed)
      0x07 p sevDegraded 0 0x05 0))) :=
  alive_leads hh ((if_neg (not_not.mpr ht)).trans (if_neg (Nat.not_lt.mpr h)))
end

/-! ### Signal loss, the relock and adaptation windows (R407, R408, R410) -/

theorem execSignalLoss_untaken (h : (getP s p).st ≠ .up) : exec (.signalLoss p) s = .next s := alive_unchanged hh (if_pos h)

theorem execSignalLoss_breaks (hu : (getP s p).st = .up) (h : (getP s p).onRing = true) : exec (.signalLoss p) s =
    .next (toPort { s with fab := { s.fab with ring := { s.fab.ring with breaks := wrapAdd 32 s.fab.ring.breaks 1 } } } p .relock) :=
  alive_fab hh ((if_neg (not_not.mpr hu)).trans (if_pos h)) (OnlyFab.trans (t := { s with fab := { s.fab with ring := { s.fab.ring with breaks := wrapAdd 32 s.fab.ring.breaks 1 } } }) rfl (toPort_fab _ p _))

theorem execSignalLoss_retrains (hu : (getP s p).st = .up) (h : (getP s p).onRing = false) : exec (.signalLoss p) s = .next (retag s (retrain s p)) :=
  alive_leads hh ((if_neg (not_not.mpr hu)).trans (if_neg (Bool.eq_false_iff.mp h)))

omit hh in
theorem adaptDue_trunk (h : 2 ≤ p) : adaptDue s p = ((getP s p).adaptEnd == 0 || decide ((getP s p).adaptEnd + 250 * fieldOf (adaptCtrl s) 6 0 ≤ s.now + 1)) := by
  have h0 : (p != 0) = true := bne_iff_ne.mpr (Nat.pos_iff_ne_zero.mp (Nat.lt_of_lt_of_le Nat.zero_lt_two h))
  have h1 : (p != 1) = true := bne_iff_ne.mpr (Nat.ne_of_gt (Nat.lt_of_lt_of_le Nat.one_lt_two h))
  unfold adaptDue
  dsimp only
  rw [h0, h1, Bool.true_or, Bool.true_or, Bool.true_or, Bool.and_true, Bool.and_true]

theorem execAdaptationWindow_stops (hu : (getP s p).st = .up) (ha : bitOf (adaptCtrl s) 7 = true) (hp : 2 ≤ p)
    (h : (getP s p).adaptEnd = 0 ∨ (getP s p).adaptEnd + 250 * fieldOf (adaptCtrl s) 6 0 ≤ s.now + 1) :
    exec (.adaptationWindow p) s = .next (modP s p (fun x => { x with adaptEnd := s.now + 1, xoffOut := 0 })) :=
  alive_fab hh (if_pos ⟨ha, hu, by rw [adaptDue_trunk hp, Bool.or_eq_true, beq_iff_eq, decide_eq_true_eq]; exact h⟩) (modP_fab s p _)

theorem execAdaptationWindow_early (hp : 2 ≤ p) (hz : (getP s p).adaptEnd ≠ 0) (h : s.now + 1 < (getP s p).adaptEnd + 250 * fieldOf (adaptCtrl s) 6 0) :
    exec (.adaptationWindow p) s = .next s := by
  refine alive_unchanged hh (if_neg fun x => ?_)
  obtain ⟨_, _, due⟩ := x
  rw [adaptDue_trunk hp, Bool.or_eq_true, beq_iff_eq, decide_eq_true_eq] at due
  exact due.elim hz (Nat.not_le.mpr h)

theorem execAdaptationWindow_off (ha : bitOf (adaptCtrl s) 7 = false) : exec (.adaptationWindow p) s = .next s :=
  alive_unchanged hh (if_neg fun x => Bool.eq_false_iff.mp ha x.1)

section
variable (hr : (getP s p).st = .relock)
include hr

theorem execRelock_in_time (h : s.now ≤ (getP s p).since + 10) : exec (.relock p) s = .next (retag s (serve (toPort s p .up))) := alive_leads hh (if_pos ⟨.inl hr, h⟩)

omit hr in
theorem execRelock_late (h : (getP s p).since + 10 < s.now) : exec (.relock p) s = .next s := alive_unchanged hh (if_neg fun x => Nat.not_le.mpr h x.2)

theorem execRelockTimeout_due (h : (getP s p).since + 10 ≤ s.now) : exec (.relockTimeout p) s =
    .next (retag s (bypEval (toPort (modP s p (fun x => { x with attempts := 0, lanes := 0 })) p .training))) := alive_leads hh (if_pos ⟨.inl hr, h⟩)

omit hr in
theorem execRelockTimeout_early (h : s.now < (getP s p).since + 10) : exec (.relockTimeout p) s = .next s := alive_unchanged hh (if_neg fun x => Nat.not_le.mpr h x.2)
end

/-! ### A trunk flit, the pause watchdog and the stall hold (R409, R417, R429) -/

/-- What an uncorrectable trunk flit leaves of the port's counts and marks (R429). -/
def badFlit (full out crc noRoom : Nat) (bad : List Nat) (x : Port) : Port :=
  { x with
    congested := full, xoffOut := out, uncorrectable := satAdd 0xFFFFFFFF x.uncorrectable 1, badAt := bad
    crcErrors := satAdd 0xFFFF x.crcErrors crc, rxDrops := satAdd 0xFFFF x.rxDrops noRoom }

/-- The classes of a trunk port that its buffer's contents ask to stop (R417). -/
def trunkMarks (s : State) (p : Nat) (occupied : List Nat) : Nat := congestedIn (2 ^ 20) (2 ^ 16) (getP s p).congested occupied

/-- The port after its first uncorrectable flit. -/
def flitCounted (s : State) (p : Nat) (occupied : List Nat) : Port → Port :=
  badFlit (trunkMarks s p occupied) (if s.now < (getP s p).adaptEnd then 0 else trunkMarks s p occupied) 1 2 [s.now]

theorem execTrunkFlitReceive_foreign (h : (getP s p).role ≠ 3) (a : Nat) (b c : Bool) (d e : Nat) (f : List Nat) : exec (.trunkFlitReceive p a b c d e f) s = .next s :=
  alive_unchanged hh (if_pos (.inl h))

/-- The first uncorrectable flit of a port counts, and does not retrain it (R429). -/
theorem execTrunkFlitReceive_bad (hr : (getP s p).role = 3) (hu : (getP s p).st = .up) (hb : (getP s p).badAt = []) (occupied : List Nat) :
    exec (.trunkFlitReceive p 0xFF false true 1 2 occupied) s = .next (retag s (release (modP s p (flitCounted s p occupied)))) := by
  have few : ¬ 16 < (getP (modP s p (flitCounted s p occupied)) p).badAt.length := by
    obtain h | h := getP_modP_cases s p (flitCounted s p occupied)
    · rw [h]
      exact (by decide : ¬ 16 < 1)
    · rw [h, hb]
      exact (by decide : ¬ 16 < 0)
  refine alive_leads hh ((if_neg fun x => x.elim (absurd hr) (absurd (.inl hu))).trans ?_)
  refine (congrArg (fun t => release (if (getP t p).st = .up ∧ 16 < (getP t p).badAt.length then retrain t p else t))
    (modP_congr (g := flitCounted s p occupied) ?_)).trans (congrArg release (if_neg fun x => few x.2))
  dsimp only
  rw [if_pos rfl, hb]
  rfl

section
variable {dest cls t : Nat} (hr : (getP s p).onRing = false)
include hr

section
variable (hu : (getP s p).st = .up) (hc : cls < 7) (ht : (getP s p).paused.find cls = some t)
include hu hc ht

theorem execPauseWatchdogExpiry_early (h : s.now ≤ t + fieldOf (pauseCtrl s) 15 0 * 100) : exec (.pauseWatchdogExpiry p dest cls) s = .next s := by
  refine alive_unchanged hh ((if_neg fun x => x.elim (absurd hu) (Nat.not_le.mpr hc)).trans ((if_neg (Bool.eq_false_iff.mp hr)).trans (if_neg ?_)))
  rw [ht]
  simp [h]

theorem execPauseWatchdogExpiry_stalls (hx : natBit (getP s p).xoffIn cls = true) (h : t + fieldOf (pauseCtrl s) 15 0 * 100 < s.now) :
    exec (.pauseWatchdogExpiry p dest cls) s = .next (retag s (serve (raiseErr (fabricLog (failQueued
      (modP s p (fun x => { x with st := .stalled, since := s.now, lastReason := Code.xptPortStalled, wdTrips := satAdd 0xFFFF x.wdTrips 1 })) (fun e => e.port == p))
      p Code.xptPortStalled sevDegraded .up .stalled) 0x07 p sevDegraded Code.xptPortStalled 0x03 0))) := by
  refine alive_leads hh ((if_neg fun x => x.elim (absurd hu) (Nat.not_le.mpr hc)).trans ((if_neg (Bool.eq_false_iff.mp hr)).trans (if_pos ?_)))
  rw [ht, hx]
  simp [h]
end

omit hr in
theorem execStallHoldExpiry_forever (h : fieldOf (pauseCtrl s) 31 16 = 0) : exec (.stallHoldExpiry p dest) s = .next s :=
  alive_unchanged hh (if_pos (by rw [h]))

theorem execStallHoldExpiry_ends (hs : (getP s p).st = .stalled) (hx : (getP s p).xoffIn = 0) (hf : fieldOf (pauseCtrl s) 31 16 ≠ 0)
    (h : (getP s p).released.all (fun r => decide (r.2 + fieldOf (pauseCtrl s) 31 16 * 100 ≤ s.now)) = true) :
    exec (.stallHoldExpiry p dest) s = .next (retag s (serve (toPort (modP s p (fun x => { x with paused := [], released := [] })) p .up))) := by
  refine alive_leads hh ((if_neg fun x => ?_).trans ((if_neg (Bool.eq_false_iff.mp hr)).trans (if_pos ⟨hs, hx, h⟩)))
  exact hf ((Nat.mul_eq_zero.mp x).resolve_right (by decide))
end
end
end

/-- Settles O38, by the lemma of each outcome of a port's rows. -/
theorem portRows : Obligations.PortRows := by
  unfold Obligations.PortRows
  intro s p hh P
  exact ⟨fun who v hw => ⟨execPortEnable_virtual hh hw, execClearStall_virtual hh hw⟩,
    fun who v hw hp hc => ⟨execPortEnable_enables hh hw hp hc, execPortEnable_disables hh hw hp hc⟩,
    fun who hw hp ho hr hs hx => ⟨_, execClearStall_clears hh hw hp ho hr hs hx, rfl⟩,
    fun ht => ⟨execTrainingComplete_up hh ht, execTrainingFailed_retries hh ht, execTrainingFailed_fails hh ht⟩,
    fun ht => ⟨execTrainingComplete_untaken hh ht, execTrainingFailed_untaken hh ht⟩,
    fun hu => ⟨execSignalLoss_breaks hh hu, execSignalLoss_retrains hh hu, execAdaptationWindow_stops hh hu, fun _ => execAdaptationWindow_early hh,
      execAdaptationWindow_off hh⟩,
    execSignalLoss_untaken hh,
    fun hr => ⟨execRelock_in_time hh hr, execRelock_late hh, execRelockTimeout_due hh hr, execRelockTimeout_early hh⟩,
    fun hr hu hb occupied => ⟨_, execTrunkFlitReceive_bad hh hr hu hb occupied, rfl⟩,
    execTrunkFlitReceive_foreign hh,
    fun dest cls t hr hu hc ht => ⟨execPauseWatchdogExpiry_early hh hr hu hc ht, execPauseWatchdogExpiry_stalls hh hr hu hc ht⟩,
    fun dest hr hs hx => ⟨execStallHoldExpiry_forever hh, execStallHoldExpiry_ends hh hr hs hx⟩⟩

end Sys2Proof.Machine
end

section
/-!
PROOF. The ring and the flows (R404 to R415, R453 to R475): what a slot leaves, which classes are congested, and one lemma for each outcome of the rows.
-/

namespace Sys2Proof.Machine

open Sys2Proof

/-! ### What a ring slot leaves (R412 to R415) -/

/-- Two states that differ in the fabric and the egress buckets at most, with the same queue pairs. -/
def SlotOnly (s t : State) : Prop := t = { s with fab := t.fab, adm := { s.adm with shape := t.adm.shape } } ∧ t.fab.qps = s.fab.qps

theorem SlotOnly.refl (s : State) : SlotOnly s s := ⟨rfl, rfl⟩

theorem SlotOnly.trans {s t u : State} (h : SlotOnly s t) (k : SlotOnly t u) : SlotOnly s u := by
  obtain ⟨hs, hq⟩ := h
  obtain ⟨ks, kq⟩ := k
  refine ⟨?_, kq.trans hq⟩
  rw [hs] at ks
  exact ks

section
variable (s : State) (dir : Nat) (x : Slot)

theorem seeXoff_slot : SlotOnly s (seeXoff s x) := by
  unfold seeXoff
  split <;> exact ⟨rfl, rfl⟩

theorem seeHungry_slot : SlotOnly s (seeHungry s dir x) := by
  unfold seeHungry
  split <;> exact ⟨rfl, rfl⟩

theorem shapeTake_slot (t b : Nat) : SlotOnly s (shapeTake s dir t b) := by
  unfold shapeTake
  split <;> exact ⟨rfl, rfl⟩

theorem fillSlot_slot : SlotOnly s (fillSlot s dir x).1 := by
  unfold fillSlot
  split
  · exact .refl s
  · exact SlotOnly.trans (shapeTake_slot s dir _ _) ⟨rfl, rfl⟩

theorem handleSlot_slot : SlotOnly s (handleSlot s dir x).1 := by
  unfold handleSlot
  split
  · exact .refl s
  · split
    · split
      · exact .refl s
      · exact fillSlot_slot s dir x
    · split
      · exact ⟨rfl, rfl⟩
      · exact .refl s

theorem markSlot_slot : SlotOnly s (markSlot s dir x).1 := by
  unfold markSlot
  extract_lets
  split
  · exact ⟨rfl, rfl⟩
  · exact .refl s

theorem emitSlot_slot : SlotOnly s (emitSlot s dir x) := by
  unfold emitSlot
  dsimp only
  split
  · exact ⟨rfl, rfl⟩
  · split <;> exact ⟨rfl, rfl⟩
end

section
variable {s : State} {dir : Nat} {x : Slot} {hd : HeaderRead}

/-- A slot sent on as it is handled and marked, its own marks apart. -/
def slotTaken (s : State) (dir : Nat) (z : Slot) : State :=
  emitSlot (markSlot (handleSlot s dir z).1 dir (handleSlot s dir z).2).1 dir (markSlot (handleSlot s dir z).1 dir (handleSlot s dir z).2).2

theorem slotTaken_slot (s : State) (dir : Nat) (z : Slot) : SlotOnly s (slotTaken s dir z) :=
  ((handleSlot_slot s dir z).trans (markSlot_slot _ dir _)).trans (emitSlot_slot _ dir _)

theorem execRingSlot_untaken (h : s.tripped = true ∨ 2 ≤ dir ∨ (getP s (1 - dir)).st ≠ .up ∨ (getP s (1 - dir)).onRing = false) :
    exec (.ringSlot dir x hd) s = .next s := congrArg Host.Outcome.next (if_pos h)

section
variable (h : ¬ (s.tripped = true ∨ 2 ≤ dir ∨ (getP s (1 - dir)).st ≠ .up ∨ (getP s (1 - dir)).onRing = false))
include h

theorem execRingSlot_unread (hx : checkedHeader s x hd = none) : exec (.ringSlot dir x hd) s = .next (emitSlot s dir x) := by
  refine congrArg Host.Outcome.next ((if_neg h).trans ?_)
  rw [hx]

theorem execRingSlot_read {z : Slot} (hx : checkedHeader s x hd = some z) :
    exec (.ringSlot dir x hd) s = .next (slotTaken (seeHungry (seeXoff s z) dir z) dir z) := by
  refine congrArg Host.Outcome.next ((if_neg h).trans ?_)
  rw [hx]
  rfl

/-- A slot without marks is handled in the state it finds. -/
theorem execRingSlot_unmarked {z : Slot} (hx : checkedHeader s x hd = some z) (ho : z.xoff = 0) (hh : z.hungry = false) :
    exec (.ringSlot dir x hd) s = .next (slotTaken s dir z) := by
  have noXoff : seeXoff s z = s := if_pos (.inl ho)
  have noHungry : seeHungry s dir z = s := if_neg fun y => absurd (hh.symm.trans y.1) (by decide)
  rw [execRingSlot_read h hx, noXoff, noHungry]
end

theorem checkedHeader_fails {y : Option Slot} (h : bitOf (ringCtrl s) 8 = false ∨ y = none) : checkedHeader s x (.fails y) = none := by
  obtain h | h := h
  · exact if_neg (Bool.eq_false_iff.mp h)
  · subst h
    exact ite_self _

theorem checkedHeader_corrected {z : Slot} (h : bitOf (ringCtrl s) 8 = true) : checkedHeader s x (.fails (some z)) = some z := if_pos h

theorem execRingSlot_only : ∃ t, exec (.ringSlot dir x hd) s = .next t ∧ SlotOnly s t := by
  by_cases h : s.tripped = true ∨ 2 ≤ dir ∨ (getP s (1 - dir)).st ≠ .up ∨ (getP s (1 - dir)).onRing = false
  · exact ⟨s, execRingSlot_untaken h, .refl s⟩
  · cases hx : checkedHeader s x hd with
    | none => exact ⟨_, execRingSlot_unread h hx, emitSlot_slot s dir x⟩
    | some z => exact ⟨_, execRingSlot_read h hx, ((seeXoff_slot s z).trans (seeHungry_slot _ dir z)).trans (slotTaken_slot _ dir z)⟩

theorem slot_port_up (ht : s.tripped = false) (hd : dir < 2) (hu : (getP s (1 - dir)).st = .up) (hr : (getP s (1 - dir)).onRing = true) :
    ¬ (s.tripped = true ∨ 2 ≤ dir ∨ (getP s (1 - dir)).st ≠ .up ∨ (getP s (1 - dir)).onRing = false) := by
  rw [ht, hr]
  simp [hd, hu]

section
variable (hf : x.full = true)
include hf

theorem handleSlot_mine (h : x.dest = self s) : handleSlot s dir x = (s, { x with full := false, dest := 0x7FFF, bytes := 0 }) := if_pos ⟨hf, h⟩

theorem handleSlot_passes (h : x.dest ≠ self s) (hp : 1 < x.hops) : handleSlot s dir x = (s, { x with hops := x.hops - 1 }) :=
  (if_neg fun y => h y.2).trans ((if_neg (by rw [hf]; decide)).trans (if_neg (Nat.not_le.mpr hp)))

theorem handleSlot_expires (h : x.dest ≠ self s) (hp : x.hops ≤ 1) : handleSlot s dir x =
    ({ s with fab := { s.fab with ring := { s.fab.ring with hopsExpired := satAdd 0xFFFFFFFF s.fab.ring.hopsExpired 1 } } },
      { x with full := false, dest := 0x7FFF, hops := 0, bytes := 0 }) :=
  (if_neg fun y => h y.2).trans ((if_neg (by rw [hf]; decide)).trans (if_pos hp))
end
end

/-! ### Which classes are congested (R405) -/

theorem natBit_testBit (n i : Nat) : natBit n i = n.testBit i := by
  rw [natBit, Nat.testBit_eq_decide_div_mod_eq]
  rfl

/-- Bits collected class by class: each stands exactly where its class is named. -/
theorem natBit_collected (P : Nat → Prop) [DecidablePred P] (n : Nat) :
    (List.range n).foldl (fun m c => if P c then m + 2 ^ c else m) 0 < 2 ^ n ∧
      ∀ c < n, natBit ((List.range n).foldl (fun m c => if P c then m + 2 ^ c else m) 0) c = decide (P c) := by
  induction n with
  | zero => exact ⟨Nat.one_pos, fun c hc => absurd hc (Nat.not_lt_zero c)⟩
  | succ n ih =>
    obtain ⟨below, bits⟩ := ih
    rw [List.range_succ, List.foldl_append, List.foldl_cons, List.foldl_nil]
    generalize (List.range n).foldl (fun m c => if P c then m + 2 ^ c else m) 0 = m at below bits ⊢
    by_cases h : P n
    · rw [if_pos h]
      refine ⟨by rw [Nat.pow_succ]; omega, fun c hc => ?_⟩
      rw [natBit_testBit, Nat.add_comm]
      obtain hl | rfl := Nat.lt_succ_iff_lt_or_eq.mp hc
      · rw [Nat.testBit_two_pow_add_gt hl, ← natBit_testBit, bits c hl]
      · rw [Nat.testBit_two_pow_add_eq, Nat.testBit_lt_two_pow below, decide_eq_true h]
        rfl
    · rw [if_neg h]
      refine ⟨below.trans (Nat.pow_lt_pow_succ Nat.one_lt_two), fun c hc => ?_⟩
      obtain hl | rfl := Nat.lt_succ_iff_lt_or_eq.mp hc
      · exact bits c hl
      · rw [natBit_testBit, Nat.testBit_lt_two_pow below, decide_eq_false h]

theorem congestedIn_iff (size headroom was : Nat) (occupied : List Nat) {c : Nat} (hc : c < 7) :
    natBit (congestedIn size headroom was occupied) c = true ↔
      size < 7 * (occupied.getD c 0 + headroom) ∨ (natBit was c = true ∧ size ≤ 14 * occupied.getD c 0) := by
  have bits := (natBit_collected (fun c => size < 7 * (occupied.getD c 0 + headroom) ∨ (natBit was c = true ∧ size ≤ 14 * occupied.getD c 0)) 7).2 c hc
  rw [show congestedIn size headroom was occupied = _ from rfl]
  exact (Bool.eq_iff_iff.mp bits).trans decide_eq_true_iff

theorem modQp_congr {s : State} {p : QPair → Bool} {f g : QPair → QPair} (h : ∀ q ∈ s.fab.qps, p q = true → f q = g q) : modQp s p f = modQp s p g := by
  have same : mapIf p f s.fab.qps = mapIf p g s.fab.qps := by
    refine List.map_congr_left fun q hq => ?_
    by_cases hp : p q = true
    · rw [if_pos hp, if_pos hp, h q hq hp]
    · rw [if_neg hp, if_neg hp]
  unfold modQp
  rw [same]

/-! ### Hungry and XOFF marks, a queue pair that moves, the flow key, the monitor's window and the shaping registers -/

section
variable {s : State} {who : Req} {dir : Nat} {v : W64}
variable (hh : s.halted = false)
include hh

theorem execHungry_marks {e : Egress} (hn : s.fab.ring.hungry.contains dir = false) (he : e ∈ s.fab.egress) (hp : e.port = dir) (hc : e.cls < 7)
    (ht : e.since + 2 ≤ s.now) (hr : (getP s dir).onRing = true) : exec (.hungry dir) s = .next { s with fab := { s.fab with ring := { s.fab.ring with
      hungry := s.fab.ring.hungry ++ [dir], hungryCnt := satAdd 0xFFFFFFFF s.fab.ring.hungryCnt 1 } } } :=
  alive_leads_plain hh (if_pos ⟨hn, List.any_eq_true.mpr ⟨e, he, by simp [hp, hc, ht, hr]⟩⟩) rfl rfl rfl

theorem execHungry_nothing_waits (h : s.fab.egress = []) : exec (.hungry dir) s = .next s := by
  refine alive_unchanged hh (if_neg fun x => ?_)
  rw [h] at x
  exact absurd x.2 Bool.false_ne_true

theorem execRingXoffTick_early {occupied : List Nat} (h : s.now ≤ s.fab.ring.xoffAt) : exec (.ringXoffTick occupied) s = .next s := alive_unchanged hh (if_pos h)

theorem execRingXoffTick_due {occupied : List Nat} {full : Nat} (h : s.fab.ring.xoffAt < s.now)
    (hf : congestedIn (2 ^ 22) (Config.ringCircuit (fieldOf (ringCtrl s) 41 32)) s.fab.ring.congested occupied = full) :
    ∃ t, exec (.ringXoffTick occupied) s = .next t ∧ t.fab.ring.congested = full ∧ t.fab.ring.xoffAt = s.now ∧
      t.fab.ring.xoffDue = (if full = 0 then [] else [(0, full), (1, full)]) ∧ t.fab.qps = s.fab.qps ∧ t.dev = s.dev ∧ t.tz = s.tz := by
  subst hf
  exact ⟨_, alive_leads_plain hh (if_neg (Nat.not_le.mpr h)) rfl rfl rfl, rfl, rfl, rfl, rfl, rfl, rfl⟩

section
variable {peer cls p : Nat} {q : QPair} (hq : findQp s peer cls = some q) (hm : q.moveTo = some p)
include hq hm

theorem execQueuePairMove_moves (h : q.unacked = []) : exec (.queuePairMove peer cls) s = .next (retag s (pumpQp (modQp
    { s with fab := { s.fab with flowMoves := if q.rekey then s.fab.flowMoves else min 64 (s.fab.flowMoves + 1) } } (fun x => x.peer == peer && x.cls == cls)
    (fun x => { x with port := some p, moveTo := none, rekey := false, movedAt := s.now })) peer cls)) := by
  refine alive_leads hh ?_
  rw [hq]
  dsimp only
  rw [hm]
  exact if_pos (by rw [h]; rfl)

theorem execQueuePairMove_waits (h : q.unacked ≠ []) (ht : s.now < q.moveBy) : exec (.queuePairMove peer cls) s = .next s := by
  refine alive_unchanged hh ?_
  rw [hq]
  dsimp only
  rw [hm]
  exact (if_neg fun x => h (List.isEmpty_iff.mp x)).trans (if_neg (Nat.not_le.mpr ht))
end

theorem execFabFlowKeyNextWrite_starts (hw : isPhysical who = true) (hn : s.fab.nextKey = none) : ∃ t, exec (.fabFlowKeyNextWrite who v) s = .next t ∧
    t.fab.nextKey = some v ∧ t.fab.flowKey = s.fab.flowKey ∧ t.fab.keyEnd = max s.now s.fab.flowEnd + flowWindow s :=
  ⟨_, alive_leads_plain hh (if_neg (by rw [hw, hn]; decide)) rfl rfl rfl, rfl, rfl, rfl⟩

theorem execFabFlowKeyNextWrite_untaken (h : isPhysical who = false ∨ s.fab.nextKey.isSome = true) : exec (.fabFlowKeyNextWrite who v) s = .next s :=
  alive_unchanged hh (if_pos h)

theorem execFlowKeyReplacementEnd_takes (hn : s.fab.nextKey = some v) (h : s.fab.keyEnd ≤ s.now) :
    exec .flowKeyReplacementEnd s = .next { s with fab := { s.fab with flowKey := v, nextKey := none } } := by
  refine alive_leads_plain hh ?_ rfl rfl rfl
  rw [if_pos h, hn]

theorem execFlowKeyReplacementEnd_early (h : s.now < s.fab.keyEnd) : exec .flowKeyReplacementEnd s = .next s := by
  refine alive_unchanged hh ?_
  rw [if_neg (Nat.not_le.mpr h)]

theorem execFlowKeyReplacementEnd_none (h : s.fab.nextKey = none) : exec .flowKeyReplacementEnd s = .next s := by
  refine alive_unchanged hh ?_
  rw [h, ite_self]

theorem execFlowMonitorWindow_early {queued : List Nat} (h : s.now < s.fab.flowEnd) : exec (.flowMonitorWindow queued) s = .next s := alive_unchanged hh (if_pos h)

/-- What the end of a window does to a queue pair that follows no new key (R454). -/
theorem execFlowMonitorWindow_quiet {queued : List Nat} (h : s.fab.flowEnd ≤ s.now) (hn : hottest s queued = none) (hq : ∀ q ∈ s.fab.qps, q.rekey = false) :
    exec (.flowMonitorWindow queued) s =
      .next (modQp { s with fab := { s.fab with flowEnd := s.now + flowWindow s } } (fun _ => true) (fun q => { q with sent := 0 })) := by
  have nothingHot : hottest { s with fab := { s.fab with flowEnd := s.now + flowWindow s } } queued = none := hn
  refine alive_leads_plain hh ((if_neg (Nat.not_lt.mpr h)).trans ?_) rfl rfl rfl
  dsimp only
  rw [nothingHot]
  dsimp only
  exact modQp_congr fun q hm _ => if_neg fun x => absurd ((hq q hm).symm.trans x.1) (by decide)

section
variable {p t : Nat}

theorem execFabShapeWrite_untaken (h : byPhysical who = false ∨ 8 ≤ p ∨ 8 ≤ t) : exec (.fabShapeWrite who p t v) s = .next s := alive_unchanged hh (if_pos h)

/-- The burst and the rate of an egress bucket as a write leaves them (R475): illegal fields keep what stood. -/
def shapeBurst (s : State) (p t : Nat) (v : W64) : Nat := if 5 ≤ fieldOf v 47 32 then fieldOf v 47 32 else fieldOf (shapeReg s p t) 47 32
def shapeRate (s : State) (p t : Nat) (v : W64) : Nat := if fieldOf v 15 0 = 0 then fieldOf (shapeReg s p t) 15 0 else fieldOf v 15 0

/-- The state with an egress bucket's register written. -/
def shapeSet (s : State) (p t : Nat) (v : W64) : State :=
  { s with regs := s.regs.set (0x500800 + 0x40 * p + 8 * t) (BitVec.ofNat 64 (shapeBurst s p t v * 2 ^ 32 + shapeRate s p t v)) }

variable (hw : byPhysical who = true) (hp : p < 8) (ht : t < 8)
include hw hp ht

omit hh in
theorem shape_in_range : ¬ (byPhysical who = false ∨ 8 ≤ p ∨ 8 ≤ t) := by
  rw [hw]
  simp [hp, ht]

theorem execFabShapeWrite_keeps (h : ¬ (fieldOf (shapeReg s p t) 15 0 = 0xFFFF ∧ shapeRate s p t v ≠ 0xFFFF)) :
    exec (.fabShapeWrite who p t v) s = .next (shapeSet s p t v) :=
  alive_leads_plain hh ((if_neg (shape_in_range hw hp ht)).trans (if_neg h)) rfl rfl rfl

theorem execFabShapeWrite_fills (ho : fieldOf (shapeReg s p t) 15 0 = 0xFFFF) (hr : shapeRate s p t v ≠ 0xFFFF) : exec (.fabShapeWrite who p t v) s =
    .next { shapeSet s p t v with adm := { s.adm with shape := s.adm.shape.set (8 * p + t) (shapeBurst s p t v * 1024 : Int) } } :=
  alive_leads_plain hh ((if_neg (shape_in_range hw hp ht)).trans (if_pos ⟨ho, hr⟩)) rfl rfl rfl
end
end

/-- Settles O39, by the lemma of each outcome of the ring's and the flows' rows. -/
theorem ringAndFlowRows : Obligations.RingAndFlowRows := by
  unfold Obligations.RingAndFlowRows
  refine ⟨fun s dir x hd => ⟨execRingSlot_untaken, ?_, fun ht hl hu hr => ⟨fun y hy hn => ?_, fun z hz hb ho hg => ?_, fun hp ho hg => ?_⟩, handleSlot_mine,
      handleSlot_passes, fun hf h hp => ?_⟩,
    fun s hh => ⟨fun dir e hn he hp hc ht hr => execHungry_marks hh hn he hp hc ht hr, fun dir => execHungry_nothing_waits hh, fun o => execRingXoffTick_early hh,
      fun o h => execRingXoffTick_due hh h rfl, fun size headroom was o c hc => congestedIn_iff size headroom was o hc,
      fun peer cls q p hq hm => ⟨execQueuePairMove_moves hh hq hm, execQueuePairMove_waits hh hq hm⟩, fun who v => execFabFlowKeyNextWrite_starts hh,
      fun v hn => ⟨execFlowKeyReplacementEnd_takes hh hn, execFlowKeyReplacementEnd_early hh⟩, fun who v => execFabFlowKeyNextWrite_untaken hh,
      execFlowKeyReplacementEnd_none hh, fun q => execFlowMonitorWindow_early hh, fun q => execFlowMonitorWindow_quiet hh,
      fun who p t v => execFabShapeWrite_untaken hh, fun who p t v hw hp ht => ⟨execFabShapeWrite_keeps hh hw hp ht, execFabShapeWrite_fills hh hw hp ht⟩⟩⟩
  · obtain ⟨t, he, only, qps⟩ := execRingSlot_only (s := s) (dir := dir) (x := x) (hd := hd)
    exact ⟨t, he, by rw [only], by rw [only], by rw [only], qps⟩
  · rw [hy]
    exact execRingSlot_unread (slot_port_up ht hl hu hr) (checkedHeader_fails hn)
  · rw [hz]
    exact execRingSlot_unmarked (slot_port_up ht hl hu hr) (checkedHeader_corrected hb) ho hg
  · rw [hp]
    exact execRingSlot_unmarked (slot_port_up ht hl hu hr) rfl ho hg
  · rw [handleSlot_expires hf h hp]
    exact ⟨rfl, rfl⟩

end Sys2Proof.Machine
end

section
/-!
PROOF. Go-back-N (R422 to R425): what a frame that arrives does, by the distance of its PSN from the one expected.
-/

namespace Sys2Proof.Machine

open Sys2Proof

section
variable {s : State} {h : Hdr} {q : QPair}

theorem sendNak_fab (s : State) (dst qp inc psn kind : Nat) : OnlyFab s (sendNak s dst qp inc psn kind) := OnlyFab.ite rfl rfl

theorem sendNak_qps (s : State) (dst qp inc psn kind : Nat) : (sendNak s dst qp inc psn kind).fab.qps = s.fab.qps := by
  unfold sendNak
  split <;> rfl

theorem sendNak_staleInc (s : State) (dst qp inc psn kind : Nat) : (sendNak s dst qp inc psn kind).fab.staleInc = s.fab.staleInc := by
  unfold sendNak
  split <;> rfl

/-- A NAK leaves unless one left within the timeout (R423). -/
theorem sendNak_frames {dst qp : Nat} (inc psn kind : Nat) (hn : s.fab.naks.any (fun x => x.1 == dst && x.2.1 == qp && decide (s.now < x.2.2 + rtoOf s)) = false) :
    (sendNak s dst qp inc psn kind).fab.frames = s.fab.frames ++ [.nak dst qp inc psn kind] := by
  rw [sendNak, if_neg (Bool.eq_false_iff.mp hn)]

theorem arrive_foreign (hq : qpOf s h = none) : arrive s h = (staleFrame s h, false) := by
  unfold arrive
  rw [hq]
  rfl

theorem staleFrame_counts (s : State) (h : Hdr) : (staleFrame s h).fab.staleInc = satAdd 0xFFFF s.fab.staleInc 1 := sendNak_staleInc _ _ _ _ _ _

theorem staleFrame_fab (s : State) (h : Hdr) : OnlyFab s (staleFrame s h) :=
  OnlyFab.trans (t := { s with fab := { s.fab with staleInc := satAdd 0xFFFF s.fab.staleInc 1 } }) rfl (sendNak_fab _ _ _ _ _ _)

/-- How far a frame's PSN is ahead of the one its queue pair expects, modulo 2^24 (R422). -/
def psnAhead (q : QPair) (h : Hdr) : Nat := (h.psn + 2 ^ 24 - q.expPsn) % 2 ^ 24

/-- The state with the frame's packets taken. -/
def packetsTaken (s : State) (h : Hdr) (q : QPair) : State :=
  modQp s (fun x => x.num == q.num && x.peer == q.peer) (fun x => { x with
    expPsn := (x.expPsn + h.packets) % 2 ^ 24, lastUse := s.now, owed := x.owed + h.packets, owedAt := if x.owed = 0 then s.now else x.owedAt })

section
variable (hq : qpOf s h = some q) (ha : h.ack = none)
include hq ha

theorem arrive_frame : arrive s h = if psnAhead q h = 0 then (packetsTaken s h q, true)
    else if psnAhead q h ≤ 4095 then (sendNak s q.peer q.peerNum q.peerInc q.expPsn 1, false)
    else if 2 ^ 24 - 4096 ≤ psnAhead q h then (sendAck { s with fab := { s.fab with duplicates := wrapAdd 32 s.fab.duplicates 1 } } q 0, false)
    else ({ s with fab := { s.fab with discards := s.fab.discards + 1 } }, false) := by
  unfold arrive
  rw [ha]
  dsimp only
  rw [hq]
  rfl

theorem arrive_expected (hd : psnAhead q h = 0) : arrive s h = (packetsTaken s h q, true) := by rw [arrive_frame hq ha, if_pos hd]

theorem arrive_early (hz : psnAhead q h ≠ 0) (hd : psnAhead q h ≤ 4095) : arrive s h = (sendNak s q.peer q.peerNum q.peerInc q.expPsn 1, false) := by
  rw [arrive_frame hq ha, if_neg hz, if_pos hd]

theorem arrive_late (hd : 4095 < psnAhead q h) (hl : 2 ^ 24 - 4096 ≤ psnAhead q h) :
    arrive s h = (sendAck { s with fab := { s.fab with duplicates := wrapAdd 32 s.fab.duplicates 1 } } q 0, false) := by
  rw [arrive_frame hq ha, if_neg (Nat.ne_zero_of_lt hd), if_neg (Nat.not_le.mpr hd), if_pos hl]

theorem arrive_between (hd : 4095 < psnAhead q h) (hl : psnAhead q h < 2 ^ 24 - 4096) :
    arrive s h = ({ s with fab := { s.fab with discards := s.fab.discards + 1 } }, false) := by
  rw [arrive_frame hq ha, if_neg (Nat.ne_zero_of_lt hd), if_neg (Nat.not_le.mpr hd), if_neg (Nat.not_le.mpr hl)]

theorem arrive_frame_fab : OnlyFab s (arrive s h).1 := by
  rw [arrive_frame hq ha]
  split
  · exact modQp_fab s _ _
  · split
    · exact sendNak_fab s _ _ _ _ _
    · split <;> exact rfl

theorem arrive_taken_iff : (arrive s h).2 = true ↔ psnAhead q h = 0 := by
  rw [arrive_frame hq ha]
  split
  · exact iff_of_true rfl ‹_›
  · refine iff_of_false (fun x => ?_) ‹_›
    split at x
    · exact Bool.false_ne_true x
    · split at x <;> exact Bool.false_ne_true x
end
end

/-- Settles O36, by the four distances of a frame's PSN from the expected one. -/
theorem goBackN : Obligations.GoBackN := by
  unfold Obligations.GoBackN
  refine fun s h => ⟨fun hq => ?_, fun q hq ha => ⟨arrive_taken_iff hq ha, fun hd => ?_, fun hz hd => ?_, fun hd hl => ?_, fun hd hl => ?_, ?_⟩⟩
  · rw [arrive_foreign hq]
    exact ⟨rfl, staleFrame_counts s h⟩
  · rw [arrive_expected hq ha hd]
    rfl
  · rw [arrive_early hq ha hz hd]
    exact ⟨sendNak_qps s _ _ _ _ _, sendNak_frames _ _ _⟩
  · rw [arrive_late hq ha hd hl]
    exact ⟨rfl, rfl⟩
  · rw [arrive_between hq ha hd hl]
  · have only := arrive_frame_fab hq ha
    exact ⟨only.dev, only.host, only.pages, only.rgn, only.tz, only.own⟩

end Sys2Proof.Machine
end

section
/-!
PROOF. Sequencing (R401 to R403, R420 to R424, R488): one lemma for each outcome of a queue pair's rows.
-/

namespace Sys2Proof.Machine

open Sys2Proof

section
variable {s : State} {h : Hdr} {q : QPair} {psn code peer cls t qp inc : Nat}

/-- A queue pair that is told to send again: the try it is counted for and the doubled timeout (R421). -/
def timedOut (s : State) (q : QPair) : QPair := { q.tried q.oldest with rto := 2 * q.rto, timer := some (s.now + 2 * q.rto) }

/-- The state with one more queue pair, established by its peer's CONNECT (R420). -/
def connectedPair (u : State) (h : Hdr) (qp inc : Nat) : State :=
  let i := nextInc u h.src
  let num := freeQpNum i.2
  { i.2 with fab := { i.2.fab with
    qps := i.2.fab.qps ++ [{ newQp i.2 h.src h.cls num i.1 [] with peerNum := qp, peerInc := inc, up := true, timer := none }]
    madeAt := i.2.fab.madeAt.set (8 * h.src + h.cls) i.2.now, frames := i.2.fab.frames ++ [.connected h.src h.cls num i.1] } }

section
variable (hh : s.halted = false)
include hh

/-! ### Acknowledgements and NAKs (R422 to R424) -/

section
variable (hn : h.qp < 0x8000)
include hn

theorem execAck_applies (hq : qpOf s h = some q) : exec (.ack h psn code) s = .next (retag s (ackApply s q psn code)) := by
  refine alive_leads hh ((if_neg (Nat.not_le.mpr hn)).trans ?_)
  rw [hq]

theorem execAck_stale (hq : qpOf s h = none) : exec (.ack h psn code) s = .next (staleFrame s h) := by
  refine alive_fab hh ((if_neg (Nat.not_le.mpr hn)).trans ?_) (staleFrame_fab s h)
  rw [hq]

theorem execNak_sequence (hq : qpOf s h = some q) : exec (.nak h psn 1) s =
    .next (retag s (retransmit (modQp s (fun x => x.num == q.num && x.peer == q.peer) (fun _ => q.tried psn)) (q.tried psn) psn)) := by
  refine alive_leads hh ((if_neg (Nat.not_le.mpr hn)).trans ((if_neg (by decide)).trans ?_))
  rw [hq]
  exact if_pos rfl

theorem execNak_notReady (hq : qpOf s h = some q) : exec (.nak h psn 2) s =
    .next (modQp s (fun x => x.num == q.num && x.peer == q.peer) (fun x => { x with timer := some (s.now + x.rto) })) := by
  refine alive_fab hh ((if_neg (Nat.not_le.mpr hn)).trans ((if_neg (by decide)).trans ?_)) (modQp_fab s _ _)
  rw [hq]
  exact (if_neg (by decide)).trans (if_pos rfl)

theorem execNak_staleIncarnation (hq : s.fab.qps.find? (fun q => q.peer == h.src && q.peerNum == h.qp && q.peerInc == h.inc && q.up) = some q) :
    exec (.nak h psn 3) s = .next (retag s (serve (closeQp s q Code.xptStaleIncarnation false))) := by
  refine alive_leads hh ((if_neg (Nat.not_le.mpr hn)).trans ((if_pos rfl).trans ?_))
  rw [hq]
end

/-! ### The retransmit timer (R421, R424) -/

section
variable (hp : peer ≠ 0x7FFF) (hq : findQp s peer cls = some q) (ht : q.timer = some t)
include hp hq ht

theorem execRetransmitTimerExpiry_of {u : State} (hk : (if s.now < t then s
    else if 7 ≤ q.tries then
      serve (closeQp { s with fab := { s.fab with retryExceeded := satAdd 0xFFFF s.fab.retryExceeded 1 } } q Code.xptRetryExceeded (!q.up))
    else if q.up then retransmit (modQp s (fun x => x.num == q.num && x.peer == q.peer) (fun _ => timedOut s q)) (timedOut s q) q.oldest
    else { modQp s (fun x => x.num == q.num && x.peer == q.peer) (fun _ => timedOut s q) with
      fab := { (modQp s (fun x => x.num == q.num && x.peer == q.peer) (fun _ => timedOut s q)).fab with
        frames := s.fab.frames ++ [.connect peer cls q.num q.inc] } }) = u) :
    exec (.retransmitTimerExpiry peer cls) s = .next (retag s u) := by
  refine alive_leads hh ((if_neg hp).trans ?_)
  rw [hq]
  dsimp only
  rw [ht]
  exact hk

theorem execRetransmitTimerExpiry_early (h : s.now < t) : exec (.retransmitTimerExpiry peer cls) s = .next s := by
  rw [execRetransmitTimerExpiry_of hh hp hq ht (if_pos h), retag_same s s rfl rfl rfl]

theorem execRetransmitTimerExpiry_resends (h : t ≤ s.now) (hr : q.tries < 7) (hu : q.up = true) : exec (.retransmitTimerExpiry peer cls) s =
    .next (retag s (retransmit (modQp s (fun x => x.num == q.num && x.peer == q.peer) (fun _ => timedOut s q)) (timedOut s q) q.oldest)) :=
  execRetransmitTimerExpiry_of hh hp hq ht ((if_neg (Nat.not_lt.mpr h)).trans ((if_neg (Nat.not_le.mpr hr)).trans (if_pos hu)))

theorem execRetransmitTimerExpiry_gives_up (h : t ≤ s.now) (hr : 7 ≤ q.tries) : exec (.retransmitTimerExpiry peer cls) s =
    .next (retag s (serve (closeQp { s with fab := { s.fab with retryExceeded := satAdd 0xFFFF s.fab.retryExceeded 1 } } q Code.xptRetryExceeded (!q.up)))) :=
  execRetransmitTimerExpiry_of hh hp hq ht ((if_neg (Nat.not_lt.mpr h)).trans (if_pos hr))
end

/-! ### Establishment and release (R401, R402, R420) -/

theorem execConnect_establishes {u : State} (hq : findQp s h.src h.cls = none) (hm : mayEstablish s h.src h.cls = true) (hu : qpRoom s = some u) :
    exec (.connect h qp inc) s = .next (retag s (pumpReads (connectedPair u h qp inc))) := by
  refine alive_leads hh ?_
  rw [hq]
  dsimp only
  rw [if_neg (by rw [hm]; decide), hu]
  rfl

theorem execConnected_unknown (hq : findQp s h.src h.cls = none) : exec (.connected h qp inc) s = .next s := by
  refine alive_unchanged hh ?_
  rw [hq]

section
variable (hq : findQp s peer cls = some q)
include hq

theorem execQueuePairIdleClose_closes (hu : q.unacked = []) (hm : q.msgs = []) (ht : q.lastUse + 10000 ≤ s.now) : exec (.queuePairIdleClose peer cls) s =
    .next { s with fab := { s.fab with
      qps := s.fab.qps.filter (fun x => !(x.num == q.num && x.peer == q.peer)), frames := s.fab.frames ++ [.close peer cls] } } := by
  refine alive_leads_plain hh ?_ rfl rfl rfl
  rw [hq]
  exact if_pos ⟨List.isEmpty_iff.mpr hu, List.isEmpty_iff.mpr hm, ht⟩

theorem execQueuePairIdleClose_young (ht : s.now < q.lastUse + 10000) : exec (.queuePairIdleClose peer cls) s = .next s := by
  refine alive_unchanged hh ?_
  rw [hq]
  exact if_neg fun x => Nat.not_le.mpr ht x.2.2

theorem execAckDelayExpiry_sends (ho : 0 < q.owed) (ht : 10 * q.owedAt + fieldOf (xptCtrl s) 15 8 ≤ 10 * s.now) :
    exec (.ackDelayExpiry peer cls) s = .next (sendAck s q 0) := by
  refine alive_fab hh ?_ (sendAck_fab s q 0)
  rw [hq]
  exact if_pos ⟨ho, ht⟩

theorem execAckDelayExpiry_nothing (ho : q.owed = 0) : exec (.ackDelayExpiry peer cls) s = .next s := by
  refine alive_unchanged hh ?_
  rw [hq]
  exact if_neg fun x => Nat.ne_of_gt x.1 ho
end

section
variable (hq : findQp s h.src h.cls = some q)
include hq

theorem execConnected_up (hu : q.up = true) : exec (.connected h qp inc) s = .next s := by
  refine alive_unchanged hh ?_
  rw [hq]
  exact if_pos hu

theorem execConnected_establishes (hu : q.up = false) : exec (.connected h qp inc) s =
    .next (retag s (pumpReads (pumpQp (modQp s (fun x => x.num == q.num && x.peer == q.peer)
      (fun x => { x with peerNum := qp, peerInc := inc, up := true, timer := none, tries := 1, rto := rtoOf s, nextPsn := 0, expPsn := 0, lastUse := s.now }))
      h.src h.cls))) := by
  refine alive_leads hh ?_
  rw [hq]
  exact if_neg (Bool.eq_false_iff.mp hu)

theorem execClose_releases : exec (.close h) s = .next (retag s (serve (closeQp s q Code.xptStaleIncarnation false))) := by
  refine alive_leads hh ?_
  rw [hq]
end

/-! ### A message refused for its epoch (R403, R488) -/

/-- The state without a refused message. -/
def withoutRefused (s : State) (id : Nat) : State := { s with fab := { s.fab with refused := s.fab.refused.filter (fun x => !(x.id == id)) } }

/-- The message as it is sent once more, to the address it has now. -/
def redirected (o : OutMsg) (a : Nat × CompMap × Bool) : OutMsg := { o with dst := a.1, comp := a.2.1.comp, epoch := a.2.1.epoch % 2 ^ 16, redirected := a.2.2 }

theorem execRedirectResend_resends {id : Nat} {m : SendMsg} {a : Nat × CompMap × Bool} (hm : s.fab.refused.find? (fun m => m.id == id) = some m)
    (ha : address (withoutRefused s id) m.out.dst m.out.cls = .ok a) : exec (.redirectResend id) s =
      .next (retag s (enqueue { withoutRefused s id with sent := s.sent ++ [redirected m.out a], fab := { (withoutRefused s id).fab with nextMsg := s.fab.nextMsg + 1 } }
        { m with id := s.fab.nextMsg, out := redirected m.out a, cut := 0, resent := true })) := by
  refine alive_leads hh ?_
  rw [hm]
  dsimp only
  unfold withoutRefused at ha
  dsimp only at ha
  rw [ha]
  rfl
end

theorem handled_controlUnknownType (he : epochCheck (arrive s h).1 h = 0) : HandledHw (.controlUnknownType h) s h (arrive s h).1 Code.tzFormat := by
  refine handledHw_of (k := fun s => (s, if epochCheck s h ≠ 0 then epochCheck s h else Code.tzFormat)) rfl ?_
  rw [he, if_neg (not_not.mpr rfl)]
end

/-- Settles O35, by the lemma of each outcome of a queue pair's rows. -/
theorem sequencingRows : Obligations.SequencingRows := by
  unfold Obligations.SequencingRows
  intro s h hh
  exact ⟨fun hn => ⟨fun q psn code => execAck_applies hh hn, fun psn code hq => ⟨execAck_stale hh hn hq, staleFrame_counts s h⟩,
      fun q psn hq => ⟨execNak_sequence hh hn hq, execNak_notReady hh hn hq⟩, fun q psn => execNak_staleIncarnation hh hn⟩,
    fun peer cls q t hp hq ht => ⟨execRetransmitTimerExpiry_early hh hp hq ht, execRetransmitTimerExpiry_resends hh hp hq ht,
      execRetransmitTimerExpiry_gives_up hh hp hq ht⟩,
    fun qp inc u => execConnect_establishes hh,
    fun qp inc => execConnected_unknown hh,
    fun qp inc q hq => ⟨execConnected_up hh hq, execConnected_establishes hh hq, execClose_releases hh hq, execQueuePairIdleClose_closes hh hq,
      execQueuePairIdleClose_young hh hq, execAckDelayExpiry_sends hh hq, execAckDelayExpiry_nothing hh hq⟩,
    fun _ => rfl,
    handled_controlUnknownType,
    fun id m a hm ha => execRedirectResend_resends hh hm ha⟩

end Sys2Proof.Machine
end

section
/-!
PROOF. Combining (R443 to R448): one lemma for each outcome of a combinable request, its response and its repeats.
-/

namespace Sys2Proof.Machine

open Sys2Proof

/-! ### Weight units brought up change pages and the host traffic alone -/

/-- Two states that differ in the pages and the host traffic at most. -/
def UnitsOnly (s t : State) : Prop := t = { s with pages := t.pages, hostTraffic := t.hostTraffic }

theorem UnitsOnly.refl (s : State) : UnitsOnly s s := rfl

theorem UnitsOnly.trans {s t u : State} (h : UnitsOnly s t) (k : UnitsOnly t u) : UnitsOnly s u := by
  unfold UnitsOnly at *
  rw [h] at k
  exact k

theorem UnitsOnly.rgn {s t : State} (h : UnitsOnly s t) : t.rgn = s.rgn := by rw [h]
theorem UnitsOnly.fab {s t : State} (h : UnitsOnly s t) : t.fab = s.fab := by rw [h]
theorem UnitsOnly.dev {s t : State} (h : UnitsOnly s t) : t.dev = s.dev := by rw [h]
theorem UnitsOnly.host {s t : State} (h : UnitsOnly s t) : t.host = s.host := by rw [h]

theorem trimWeights_units (n : Nat) (s : State) : UnitsOnly s (trimWeights n s) := by
  induction n generalizing s with
  | zero => exact .refl s
  | succ n ih =>
    unfold trimWeights
    split
    · exact .refl s
    · split
      · exact .refl s
      · exact UnitsOnly.trans (t := setPage s _) rfl (ih _)

theorem unitsUp_units (s : State) (i off n : Nat) : UnitsOnly s (unitsUp s i off n) := by
  unfold unitsUp
  extract_lets hit up down u
  split
  · exact .refl s
  · have brought : UnitsOnly s u := by
      refine List.foldlRecOn down _ (UnitsOnly.refl s) fun b hb p _ => ?_
      split
      · exact hb.trans rfl
      · exact hb
    exact brought.trans (UnitsOnly.trans (t := { u with pages := mapIf hit up u.pages }) rfl (trimWeights_units _ _))

theorem getK_of_rgn {s t : State} (h : t.rgn = s.rgn) (i : Nat) : getK t i = getK s i := by rw [getK, h, ← getK]

section
variable {s : State} {h : Hdr} {q : QPair} {x : Handle} {key off len tag code : Nat}

/-- The device, queue pair and tag a request's answer goes to (R444). -/
def joinerOf (h : Hdr) (q : QPair) (tag : Nat) : Joiner := { device := h.src, qp := q.peerNum, inc := q.peerInc, tag := tag }

/-- The pending read of the first requester (R443). -/
def firstRead (s : State) (h : Hdr) (q : QPair) (x : Handle) (key off len tag : Nat) (bs : List Byte) (i : Nat) : CombRead :=
  { id := s.fab.nextMsg, dst := self s, subject := x, key := key, off := off, len := len, comp := h.comp, epoch := h.epoch, cls := h.cls, first := joinerOf h q tag, joiners := [],
    left := false, code := 0, bytes := bs, index := some i, version := (getK s i).version }

/-- The state with a pending read noted, whose key it has entered. -/
def readPending (s : State) (e : CombRead) (off len i : Nat) : State :=
  let u := keyEnter (unitsUp s i off len) i
  { u with fab := { u.fab with nextMsg := u.fab.nextMsg + 1, combReads := u.fab.combReads ++ [e] } }

theorem readPending_fab (s : State) (e : CombRead) (off len i : Nat) : (readPending s e off len i).fab.combReads = s.fab.combReads ++ [e] := by
  refine (congrArg (fun f : Fab => f.combReads ++ [e]) ?_ : (keyEnter (unitsUp s i off len) i).fab.combReads ++ [e] = _)
  exact (unitsUp_units s i off len).fab

theorem readPending_accepted (s : State) (e : CombRead) (off len i : Nat) : (getK (readPending s e off len i) i).accepted = (getK s i).accepted + 1 :=
  (congrArg KeyEntry.accepted (getK_keyEnter (unitsUp s i off len) i)).trans (by rw [getK_of_rgn (unitsUp_units s i off len).rgn])

theorem combReadIn_repeated (hj : s.fab.combReads.any (fun e => e.dst == self s && (e.first == joinerOf h q tag || e.joiners.contains (joinerOf h q tag))) = true) :
    combReadIn s h q x key off len tag = s := if_pos hj

theorem combReadIn_pends {bs : List Byte} {i : Nat} (hn : s.fab.combReads = []) (he : bitOf (combCtrl s) 0 = true)
    (ha : readAnswer s h x key off len true = .ok (bs, some i)) :
    combReadIn s h q x key off len tag = readPending s (firstRead s h q x key off len tag bs i) off len i := by
  have fab : (keyEnter (unitsUp s i off len) i).fab = s.fab := (unitsUp_units s i off len).fab
  have room : ¬ (bitOf (combCtrl s) 0 = false ∨ 16384 ≤ (keyEnter (unitsUp s i off len) i).fab.combReads.length) := by
    rw [he, fab, hn]
    exact fun x => x.elim (absurd · (by decide)) (absurd · (by decide))
  have fresh : joinable s (self s) x key off len h.comp h.epoch h.cls = none := by rw [joinable, hn, List.find?_nil]
  refine (if_neg (by rw [hn]; exact Bool.false_ne_true)).trans ?_
  rw [if_pos he, fresh, ha]
  exact if_neg room

section
variable (hh : s.halted = false)
include hh

theorem execCombinableRequest_stale (adds : List AddEntry) (hq : qpOf s h = none) : exec (.combinableRequest h x key off len tag adds) s = .next (staleFrame s h) := by
  refine alive_fab hh ?_ (staleFrame_fab s h)
  rw [hq]

theorem execCombinableRequest_read {u : State} (hq : qpOf s h = some q) (hk : combReadIn s h q x key off len tag = u) :
    exec (.combinableRequest h x key off len tag []) s = .next (retag s u) := by
  refine alive_leads hh ?_
  rw [hq]
  exact hk

theorem execCombinableRequest_repeated (hq : qpOf s h = some q)
    (hj : s.fab.combReads.any (fun e => e.dst == self s && (e.first == joinerOf h q tag || e.joiners.contains (joinerOf h q tag))) = true) :
    exec (.combinableRequest h x key off len tag []) s = .next s := by
  rw [execCombinableRequest_read hh hq (combReadIn_repeated hj), retag_same s s rfl rfl rfl]

theorem execCombinableRequest_pends {bs : List Byte} {i : Nat} (hq : qpOf s h = some q) (hn : s.fab.combReads = []) (he : bitOf (combCtrl s) 0 = true)
    (ha : readAnswer s h x key off len true = .ok (bs, some i)) :
    ∃ e t, exec (.combinableRequest h x key off len tag []) s = .next t ∧ t.fab.combReads = [e] ∧ e.first = joinerOf h q tag ∧ e.joiners = [] ∧ e.bytes = bs ∧
      e.code = 0 ∧ e.index = some i ∧ (getK t i).accepted = (getK s i).accepted + 1 ∧ t.dev = s.dev ∧ t.host = s.host := by
  refine ⟨firstRead s h q x key off len tag bs i, _, execCombinableRequest_read hh hq (combReadIn_pends hn he ha), ?_, rfl, rfl, rfl, rfl, rfl, ?_, ?_, ?_⟩
  · rw [retag_fab, readPending_fab, hn, List.nil_append]
  · rw [getK_of_rgn (retag_rgn s _), readPending_accepted]
  · rw [retag_dev]
    exact (unitsUp_units s i off len).dev
  · rw [retag_host]
    exact (unitsUp_units s i off len).host

/-! ### Combinable adds (R446, R447) -/

section
variable {e : AddEntry} {l : List AddEntry} (hq : qpOf s h = some q) (he : epochCheck s h = 0)
include hq

theorem execCombinableRequest_add {u : State} (hk : combAddIn s h q key off (e :: l) = u) :
    exec (.combinableRequest h x key off len tag (e :: l)) s = .next (retag s u) := by
  refine alive_leads hh ?_
  rw [hq]
  exact hk

include he

theorem execCombinableRequest_add_refused {c : Nat} (hc : c ≠ 0) (hr : remoteCheck s h key off (8 * e.vals.length) rReduce = c) :
    exec (.combinableRequest h x key off len tag (e :: l)) s = .next (retag s (launchFrame (keyRefused s c)
      ⟨h.src, h.comp, h.epoch, h.cls, false, 0, .combAddResp c ((e :: l).map (fun e => { e with vals := [] }))⟩ q)) := by
  refine execCombinableRequest_add hh hq ?_
  unfold combAddIn
  dsimp only [List.head?_cons, Option.map_some, Option.getD_some]
  rw [he, if_neg (not_not.mpr rfl), hr, if_pos hc]

theorem execCombinableRequest_add_applied (hr : remoteCheck s h key off (8 * e.vals.length) rReduce = 0) (hd : (getK s (keyIndex key)).drafted = false) :
    exec (.combinableRequest h x key off len tag (e :: l)) s = .next (retag s (launchFrame ((e :: l).foldl (applyAdd key off) (s, [])).1
      ⟨h.src, h.comp, h.epoch, h.cls, false, 0, .combAddResp 0 ((e :: l).foldl (applyAdd key off) (s, [])).2⟩ q)) := by
  refine execCombinableRequest_add hh hq ?_
  unfold combAddIn
  dsimp only [List.head?_cons, Option.map_some, Option.getD_some]
  rw [he, if_neg (not_not.mpr rfl), hr, if_neg (not_not.mpr rfl), if_neg (by rw [hd]; exact fun x => Bool.false_ne_true x.1)]
end

/-! ### Responses, repeats and records (R444, R445, R448) -/

section
variable {last : Bool} {bytes : List Byte} (hs : h.src = self s)
include hs

theorem execCombinedResponse_answers {e : CombRead} (he : s.fab.combReads.find? (fun e => e.id == tag && e.dst == self s) = some e) (hi : e.index = none) {u : State}
    (hu : (e.first :: e.joiners).foldl (fun s j => respond s e j) s = u) : exec (.combinedResponse h tag code off last bytes []) s =
      .next (retag s { u with fab := { u.fab with combReads := u.fab.combReads.filter (fun x => !(x.id == tag)) } }) := by
  subst hu
  refine alive_leads hh ((if_pos hs).trans ?_)
  rw [he]
  dsimp only
  rw [hi]

theorem execCombinedResponse_unknown (he : s.fab.combReads.find? (fun e => e.id == tag && e.dst == self s) = none) :
    exec (.combinedResponse h tag code off last bytes []) s = .next s := by
  refine alive_unchanged hh ((if_pos hs).trans ?_)
  rw [he]
end

section
variable {id : Nat} {w : ReadWait} (hw : s.reads.find? (fun w => w.id == id && w.comb) = some w)
include hw

theorem execCombinableRepeatExpiry_early (h : w.tries = 0 ∨ s.now < w.due) : exec (.combinableRepeatExpiry id) s = .next s := by
  refine alive_unchanged hh ?_
  rw [hw]
  exact if_pos h

theorem execCombinableRepeatExpiry_repeats (hz : 0 < w.tries) (hd : w.due ≤ s.now) (h7 : w.tries < 7) :
    exec (.combinableRepeatExpiry id) s = .next (retag s (issueComb s w)) := by
  refine alive_leads hh ?_
  rw [hw]
  exact (if_neg fun x => x.elim (Nat.ne_of_gt hz) (Nat.not_lt.mpr hd)).trans (if_neg (Nat.not_le.mpr h7))

theorem execCombinableRepeatExpiry_fails (hd : w.due ≤ s.now) (h7 : 7 ≤ w.tries) : exec (.combinableRepeatExpiry id) s =
    .next (retag s (readFailed { s with fab := { s.fab with
      combReads := s.fab.combReads.filter (fun e => !(e.dst != self s && e.first.tag == id)) } } id Code.xptRetryExceeded)) := by
  refine alive_leads hh ?_
  rw [hw]
  exact (if_neg fun x => x.elim (Nat.ne_of_gt (Nat.lt_of_lt_of_le (by decide) h7)) (Nat.not_lt.mpr hd)).trans (if_pos h7)
end

theorem execCombinedAddRecordExpiry_drops : exec .combinedAddRecordExpiry s =
    .next { s with fab := { s.fab with addRecs := s.fab.addRecs.filter (fun r => !(decide (r.at_ + 5000 ≤ s.now))) } } := alive_leads_plain hh rfl rfl rfl rfl
end

theorem applyAdd_recorded (l : List AddEntry) {e : AddEntry} {r : AddRec} (hr : s.fab.addRecs.find? (fun r => r.device == e.device && r.tag == e.tag) = some r) :
    applyAdd key off (s, l) e = (s, l ++ [{ e with vals := r.prev }]) := by
  unfold applyAdd
  dsimp only
  rw [hr]
end

/-- Settles O37, by the lemma of each outcome of the combining rows. -/
theorem combiningRows : Obligations.CombiningRows := by
  unfold Obligations.CombiningRows
  intro s h hh
  exact ⟨fun x key off len tag adds => execCombinableRequest_stale hh adds,
    fun q x key off len tag hq => ⟨execCombinableRequest_repeated hh hq, fun bs i => execCombinableRequest_pends hh hq⟩,
    fun q key off e l hq he => ⟨fun c => execCombinableRequest_add_refused hh hq he, execCombinableRequest_add_applied hh hq he⟩,
    fun key off l e r hr => applyAdd_recorded l hr,
    fun tag code off last bytes e hs he hi => execCombinedResponse_answers hh hs he hi rfl,
    fun tag code off last bytes => execCombinedResponse_unknown hh,
    fun id w hw => ⟨fun h => execCombinableRepeatExpiry_early hh hw (.inl h), fun h => execCombinableRepeatExpiry_early hh hw (.inr h),
      execCombinableRepeatExpiry_repeats hh hw, execCombinableRepeatExpiry_fails hh hw⟩,
    execCombinedAddRecordExpiry_drops hh⟩

end Sys2Proof.Machine
end

section
/-!
PROOF. The operations of a map change (R482 to R492): what leaving a composition leaves, a prepared map, the leader, and the map that removes members.
-/

namespace Sys2Proof.Machine

open Sys2Proof

section
variable {α : Type} {p : α → Bool} {l : List α} {a : α}

/-- An element that a filter keeps meets its test. -/
theorem of_mem_kept (h : a ∈ l.filter p) : p a = true := (List.mem_filter.mp h).2

theorem ne_of_mem_kept {f : α → Nat} {n : Nat} (h : a ∈ l.filter (fun x => f x != n)) : f a ≠ n := bne_iff_ne.mp (of_mem_kept (p := fun x => f x != n) h)

theorem find?_kept_none {f : α → Nat} (n : Nat) : (l.filter (fun x => f x != n)).find? (fun x => f x == n) = none := by
  refine List.find?_eq_none.mpr fun x hx => ?_
  rw [beq_iff_eq]
  exact ne_of_mem_kept hx
end

/-! ### Leaving a composition (R492) -/

/-- Ending work touches instructions and tiles alone. -/
theorem cancelWork_tile (s : State) (ids : List Nat) (code : Nat) : ∃ z y, cancelWork s ids code = { s with tz := z, til := y } := by
  have finished : ∃ z, ids.foldl (fun s i => finish s i code) s = { s with tz := z } := by
    refine List.foldlRecOn (motive := fun u => ∃ z, u = { s with tz := z }) ids _ ⟨s.tz, rfl⟩ fun u hu i _ => ?_
    obtain ⟨z, hz⟩ := hu
    subst hz
    exact ⟨_, rfl⟩
  obtain ⟨z, hz⟩ := finished
  unfold cancelWork
  rw [hz]
  exact ⟨z, _, rfl⟩

/-- The composition's membership, its agreement's state and its losses gone. -/
def withoutComp (s : State) (comp : Nat) : State :=
  { s with
    comps := s.comps.filter (fun m => m.map.comp != comp)
    cmp := { s.cmp with
      changes := s.cmp.changes.filter (fun c => c.map.comp != comp), votes := s.cmp.votes.filter (fun v => v.comp != comp)
      beats := s.cmp.beats.filter (fun b => b.comp != comp), lost := s.cmp.lost.filter (fun y => y.1 != comp)
      drains := s.cmp.drains.filter (fun y => y.1 != comp), drained := s.cmp.drained.filter (fun y => y.1 != comp)
      told := s.cmp.told.filter (fun y => y != comp) } }

/-- The copies this device serves through a composition. -/
def servedThrough (s : State) (comp : Nat) : List Handle :=
  (s.own.copies.filter (fun c => servedBy (withoutComp s comp) c.desc.comp comp (self s))).map (·.handle)

/-- The copies, records and nodes of a composition gone. -/
def withoutObjects (s : State) (comp : Nat) (seqs : List Handle) : State :=
  { s with
    own := { s.own with
      copies := s.own.copies.filter (fun c => !(seqs.contains c.handle)), homes := s.own.homes.filter (fun r => r.desc.comp != comp)
      mirrors := s.own.mirrors.filter (fun r => r.comp != comp), preempting := s.own.preempting.filter (fun h => !(seqs.contains h)) }
    rgn := { s.rgn with
      holds := s.rgn.holds.filter (fun n => n.comp != comp), drafts := s.rgn.drafts.filter (fun n => n.comp != comp)
      tree := s.rgn.tree.filter (fun n => n.comp != comp), mirrorTree := s.rgn.mirrorTree.filter (fun n => n.comp != comp) } }

theorem leaveComp_eq (s : State) (comp : Nat) : ∃ z y p, leaveComp s comp =
    withoutObjects { withoutComp s comp with tz := z, til := y, pages := p } comp (servedThrough s comp) := by
  have steps : ∃ busy gone, leaveComp s comp =
      withoutObjects (freePages (cancelWork (withoutComp s comp) busy Code.cmpLostMember) gone) comp (servedThrough s comp) := ⟨_, _, rfl⟩
  obtain ⟨busy, gone, h⟩ := steps
  obtain ⟨z, y, ended⟩ := cancelWork_tile (withoutComp s comp) busy Code.cmpLostMember
  rw [h, ended]
  exact ⟨z, y, _, rfl⟩

theorem servedThrough_handle {s : State} {comp : Nat} {c : SeqCopy} (hc : c ∈ s.own.copies) (h : c.desc.comp = comp) : c.handle ∈ servedThrough s comp := by
  refine List.mem_map_of_mem (List.mem_filter.mpr ⟨hc, ?_⟩)
  rw [servedBy, h, beq_self_eq_true, Bool.true_or]

/-- No copy served through the composition is left. -/
theorem withoutServed_copies {s : State} {comp : Nat} {c : SeqCopy} (h : c ∈ s.own.copies.filter (fun c => !((servedThrough s comp).contains c.handle))) : c.desc.comp ≠ comp := by
  obtain ⟨hc, hk⟩ := List.mem_filter.mp h
  intro e
  rw [List.contains_iff_mem.mpr (servedThrough_handle hc e)] at hk
  exact Bool.false_ne_true hk

/-! ### A prepared map and a dropped one (R482, R484) -/

section
variable (s : State)

theorem mapIf_keeps {α β : Type} (g : α → β) {p : α → Bool} {f : α → α} (hf : ∀ a, g (f a) = g a) (l : List α) : (mapIf p f l).map g = l.map g := by
  unfold mapIf
  rw [List.map_map]
  refine List.map_congr_left fun a _ => ?_
  dsimp only [Function.comp_apply]
  split
  · exact hf a
  · rfl

/-- The vote this device records for a map. -/
def voteFor (s : State) (m : CompMap) : Voted := { comp := m.comp, epoch := m.epoch, at_ := s.now }

/-- The state with a map stored as prepared, before the vote is recorded. -/
def mapStored (s : State) (m : CompMap) : State :=
  match membership? s m.comp with
  | some _ => { s with comps := mapIf (fun x => x.map.comp == m.comp) (fun x => { x with prepared := some m }) s.comps }
  | none => { s with cmp := { s.cmp with joins := s.cmp.joins.filter (fun (j : CompMap) => j.comp != m.comp) ++ [m] } }

theorem mapStored_only (m : CompMap) : ∃ cs k, mapStored s m = { s with comps := cs, cmp := k } ∧ cs.map (·.map) = s.comps.map (·.map) := by
  unfold mapStored
  split
  · exact ⟨_, s.cmp, rfl, mapIf_keeps (·.map) (f := fun x => { x with prepared := some m }) (fun _ => rfl) s.comps⟩
  · exact ⟨s.comps, _, rfl, rfl⟩

theorem prepareMap_eq (m : CompMap) : ∃ (cs : List Membership) (k : Cmp), prepareMap s m =
    { s with comps := cs, cmp := { k with votes := k.votes.filter (fun (v : Voted) => v.comp != m.comp) ++ [voteFor s m] } } ∧
    cs.map (·.map) = s.comps.map (·.map) := by
  obtain ⟨cs, k, h, maps⟩ := mapStored_only s m
  refine ⟨cs, k, ?_, maps⟩
  have stored : prepareMap s m = (fun u : State => { u with cmp := { u.cmp with
      votes := u.cmp.votes.filter (fun (v : Voted) => v.comp != m.comp) ++ [voteFor u m] } }) (mapStored s m) := rfl
  rw [stored, h]
  rfl

theorem dropPrepared_maps (comp epoch : Nat) : (dropPrepared s comp epoch).comps.map (·.map) = s.comps.map (·.map) :=
  mapIf_keeps (·.map) (f := fun x => { x with prepared := none }) (fun _ => rfl) s.comps
end

/-! ### The leader (R483) -/

theorem foldl_min_le (l : List Nat) (n : Nat) : l.foldl min n ≤ n ∧ ∀ x ∈ l, l.foldl min n ≤ x := by
  induction l generalizing n with
  | nil => exact ⟨Nat.le_refl n, fun x hx => absurd hx List.not_mem_nil⟩
  | cons y l ih =>
    obtain ⟨start, rest⟩ := ih (min n y)
    refine ⟨start.trans (Nat.min_le_left n y), fun x hx => ?_⟩
    obtain rfl | hx := List.mem_cons.mp hx
    · exact start.trans (Nat.min_le_right n x)
    · exact rest x hx

theorem foldl_min_mem (l : List Nat) (n : Nat) : l.foldl min n = n ∨ l.foldl min n ∈ l := by
  induction l generalizing n with
  | nil => exact .inl rfl
  | cons y l ih =>
    obtain h | h := ih (min n y)
    · rw [List.foldl_cons, h]
      obtain hm | hm := Nat.le_total n y
      · exact .inl (Nat.min_eq_left hm)
      · rw [Nat.min_eq_right hm]
        exact .inr List.mem_cons_self
    · exact .inr (List.mem_cons_of_mem y h)

/-- A member that may lead: not parting, not declared lost (R483). -/
def soundIn (s : State) (comp : Nat) (x : MapMember) : Prop := x.parting = false ∧ isLost s comp x.device = false

/-- The numbers of the members that may lead. -/
def soundDevices (s : State) (m : CompMap) : List Nat := (m.members.filter (fun x => !x.parting && !(isLost s m.comp x.device))).map (·.device)

section
variable {s : State} {m : CompMap}

theorem mem_soundDevices {d : Nat} : d ∈ soundDevices s m ↔ ∃ x ∈ m.members, soundIn s m.comp x ∧ x.device = d := by
  simp only [soundDevices, List.mem_map, List.mem_filter, Bool.and_eq_true, Bool.not_eq_true', soundIn, and_assoc]

theorem leaderOf_lowest {x : MapMember} (hx : x ∈ m.members) (h : soundIn s m.comp x) : leaderOf s m ≤ x.device :=
  (foldl_min_le (soundDevices s m) noDevice).2 _ (mem_soundDevices.mpr ⟨x, hx, h, rfl⟩)

theorem leaderOf_sound (h : ∃ x ∈ m.members, soundIn s m.comp x ∧ x.device ≤ noDevice) : ∃ x ∈ m.members, soundIn s m.comp x ∧ x.device = leaderOf s m := by
  obtain ⟨x, hx, hs, hd⟩ := h
  obtain e | e := foldl_min_mem (soundDevices s m) noDevice
  · exact ⟨x, hx, hs, Nat.le_antisymm (hd.trans_eq e.symm) (leaderOf_lowest hx hs)⟩
  · exact mem_soundDevices.mp e

theorem leaderOf_none (h : ∀ x ∈ m.members, ¬ soundIn s m.comp x) : leaderOf s m = noDevice := by
  obtain e | e := foldl_min_mem (soundDevices s m) noDevice
  · exact e
  · obtain ⟨x, hx, hs, _⟩ := mem_soundDevices.mp e
    exact absurd hs (h x hx)
end

/-! ### The map that removes members (R485, R489) -/

section
variable {m : CompMap} {gone : List Nat} {x : MapMember}

theorem removalMap_left : x ∈ (removalMap m gone).members ↔ x ∈ m.members ∧ x.device ∉ gone := by
  refine List.mem_filter.trans (and_congr_right fun _ => ?_)
  rw [Bool.not_eq_true', ← Bool.not_eq_true, List.contains_iff_mem]

theorem removalMap_departed (hx : x ∈ m.members) (hg : x.device ∈ gone) : ∃ d ∈ (removalMap m gone).departed, d.device = x.device ∧ d.epoch = m.epoch + 1 :=
  ⟨_, List.mem_append_right _ (List.mem_map_of_mem (List.mem_filter.mpr ⟨hx, List.contains_iff_mem.mpr hg⟩)), rfl, rfl⟩
end

/-- Settles O31, by what each operation of a map change leaves. -/
theorem mapChangeOperations : Obligations.MapChangeOperations := by
  unfold Obligations.MapChangeOperations
  refine ⟨fun s comp => ?_, fun s m => ?_, fun s m => ⟨fun x => leaderOf_lowest, leaderOf_sound, leaderOf_none⟩,
    fun m gone => ⟨rfl, rfl, rfl, fun x hx => (removalMap_left.mp hx).2, fun x hx hg => removalMap_left.mpr ⟨hx, hg⟩, fun x => removalMap_departed⟩,
    fun s comp epoch => ⟨dropPrepared_maps s comp epoch, rfl⟩⟩
  · obtain ⟨z, y, p, h⟩ := leaveComp_eq s comp
    dsimp only
    rw [h]
    exact ⟨find?_kept_none comp, find?_kept_none comp, fun v => ne_of_mem_kept, fun b => ne_of_mem_kept, fun x => ne_of_mem_kept, fun x => ne_of_mem_kept,
      fun c => withoutServed_copies, fun r => ne_of_mem_kept, fun r => ne_of_mem_kept, fun n => ne_of_mem_kept, fun n => ne_of_mem_kept, fun n => ne_of_mem_kept, rfl, rfl, rfl⟩
  · obtain ⟨cs, k, h, maps⟩ := prepareMap_eq s m
    dsimp only
    rw [h]
    exact ⟨maps, ⟨voteFor s m, List.mem_append_right _ List.mem_cons_self, rfl, rfl⟩, rfl, rfl, rfl, rfl⟩

end Sys2Proof.Machine
end

section
/-!
PROOF. Map agreement (R482 to R486, R500): one lemma for each outcome of a proposal, of its messages and of its timeouts.
-/

namespace Sys2Proof.Machine

open Sys2Proof

/-! ### CMP_MAP_GO (R482, R483) -/

section
variable {s : State} {who : Req} {v : W64} {x : Membership}

/-- The register as CMP_MAP_GO leaves it, the map it names, and the state with that map's proposal under way. -/
def mapGoSet (s : State) (v : W64) : State := setReg s 0x800008 (BitVec.ofNat 64 (fieldOf v 63 12 * 4096))
def mapGoMap (s : State) (v : W64) : CompMap := mapNamed (mapGoSet s v) (fieldOf v 63 12 * 4096)
def mapGoBusy (s : State) (v : W64) : State := { mapGoSet s v with cmp := { s.cmp with busy := some (mapGoMap s v).comp } }

theorem proposalDone_ends {comp code voter : Nat} {epoch : Option Nat} (h : s.cmp.busy = some comp) : proposalDone s comp code voter epoch =
    { s with cmp := { s.cmp with busy := none, result := code, voter := voter, epoch := epoch.getD s.cmp.epoch } } := if_pos h

/-- What a proposal does at a device that is in the composition of its map. -/
def proposeHere (s : State) (m : CompMap) (x : Membership) : State :=
  if leaderOf s x.map = self s then
    if (findChange s m.comp).isSome = true ∨ m.baseEpoch ≠ x.map.epoch then proposalDone s m.comp Code.cmpEpochConflict noDevice (some x.map.epoch)
    else leaderGo (startChange s m (self s) false) m.comp
  else ctl s m.comp (leaderOf s x.map) (.propose m)

section
variable (hh : s.halted = false)
include hh

theorem execCmpMapGo_virtual (h : isPhysical who = false) : exec (.cmpMapGo who v) s = .next s := alive_unchanged hh (if_pos h)

section
variable (hw : isPhysical who = true)
include hw

theorem execCmpMapGo_idle (h : bitOf v 0 = false ∨ s.cmp.busy.isSome = true) : exec (.cmpMapGo who v) s = .next (mapGoSet s v) :=
  alive_leads_plain hh ((if_neg (Bool.eq_false_iff.not.mpr (not_not.mpr hw))).trans (if_pos h)) rfl rfl rfl

theorem execCmpMapGo_member (hg : bitOf v 0 = true) (hb : s.cmp.busy = none) (hc : mapCheck1 (mapGoMap s v) = true) (hx : membership? s (mapGoMap s v).comp = some x) :
    exec (.cmpMapGo who v) s = .next (retag s (proposeHere (mapGoBusy s v) (mapGoMap s v) x)) := by
  have go : ¬ (bitOf v 0 = false ∨ s.cmp.busy.isSome = true) := by
    rw [hg, hb]
    decide
  refine alive_leads hh ((if_neg (Bool.eq_false_iff.not.mpr (not_not.mpr hw))).trans ((if_neg go).trans ((if_neg (Bool.eq_false_iff.not.mpr (not_not.mpr hc))).trans ?_)))
  split
  · exact absurd (‹membership? _ _ = none›.symm.trans hx) (by simp)
  · obtain rfl := Option.some.inj (‹membership? _ _ = some _›.symm.trans hx)
    rfl
end
end

theorem proposeHere_starts (hl : leaderOf s x.map = self s) {m : CompMap} (hn : findChange s m.comp = none) (he : m.baseEpoch = x.map.epoch) :
    proposeHere s m x = leaderGo (startChange s m (self s) false) m.comp := by
  have fits : ¬ ((findChange s m.comp).isSome = true ∨ m.baseEpoch ≠ x.map.epoch) := by
    rw [hn]
    exact fun y => y.elim (absurd · (by decide)) (absurd he)
  exact (if_pos hl).trans (if_neg fits)

theorem proposeHere_conflicts (hl : leaderOf s x.map = self s) {m : CompMap} (he : m.baseEpoch ≠ x.map.epoch) (hb : s.cmp.busy = some m.comp) : proposeHere s m x =
    { s with cmp := { s.cmp with busy := none, result := Code.cmpEpochConflict, voter := noDevice, epoch := x.map.epoch } } :=
  (if_pos hl).trans ((if_pos (.inr he)).trans (proposalDone_ends hb))

theorem proposeHere_forwards (hl : leaderOf s x.map ≠ self s) (m : CompMap) : proposeHere s m x = ctl s m.comp (leaderOf s x.map) (.propose m) := if_neg hl
end

/-! ### The messages of a change (R484 to R486) -/

section
variable (s : State) (h : Hdr) (map : CompMap) (epoch code voter : Nat)

theorem exec_propose : exec (.propose h map) s = execPropose h map s := rfl
theorem exec_prepare : exec (.prepare h map) s = execPrepare h map s := rfl
theorem exec_vote : exec (.vote h epoch code) s = execVote h epoch code s := rfl
theorem exec_applied : exec (.applied h epoch) s = execApplied h epoch s := rfl
theorem exec_compositionCommit : exec (.compositionCommit h epoch) s = execCompositionCommit h epoch s := rfl
theorem exec_compositionAbort : exec (.compositionAbort h epoch code) s = execCompositionAbort h epoch code s := rfl
theorem exec_compositionResult : exec (.compositionResult h epoch code voter) s = execCompositionResult h epoch code voter s := rfl
end

section
variable {s : State} {h : Hdr} {map : CompMap} {m : Membership} {c : CmpChange} {epoch code : Nat}

section
variable (hm : membership? (arrive s h).1 map.comp = some m)
include hm

theorem handled_propose_refused (hn : leaderOf (arrive s h).1 m.map ≠ self (arrive s h).1 ∨ (findChange (arrive s h).1 map.comp).isSome = true ∨ map.baseEpoch ≠ m.map.epoch) :
    HandledAs (.propose h map) s h (ctl (arrive s h).1 map.comp h.src (.result m.map.epoch Code.cmpEpochConflict noDevice)) 0 := by
  refine handledAs_of (by rw [exec_propose, execPropose]) ?_
  dsimp only
  rw [hm]
  refine congrArg (·, 0) ((if_pos ?_).trans rfl)
  rw [beq_eq_false_iff_ne]
  exact hn

theorem handled_propose_starts (hl : leaderOf (arrive s h).1 m.map = self (arrive s h).1) (hn : findChange (arrive s h).1 map.comp = none) (he : map.baseEpoch = m.map.epoch) :
    HandledAs (.propose h map) s h (leaderGo (startChange (arrive s h).1 map h.src false) map.comp) 0 := by
  refine handledAs_of (by rw [exec_propose, execPropose]) ?_
  dsimp only
  rw [hm]
  refine congrArg (·, 0) (if_neg ?_)
  rw [beq_eq_false_iff_ne, hn]
  exact fun x => x.elim (absurd hl) fun y => y.elim (absurd · (by decide)) (absurd he)

theorem handled_prepare_applied (he : m.map.epoch = map.epoch) : HandledAs (.prepare h map) s h (ctl (arrive s h).1 map.comp h.src (.applied map.epoch)) 0 := by
  refine handledAs_of (by rw [exec_prepare, execPrepare]) ?_
  dsimp only
  rw [hm]
  exact congrArg (·, 0) (if_pos (beq_iff_eq.mpr he))

theorem handled_prepare_votes (he : m.map.epoch ≠ map.epoch) (hp : m.prepared ≠ some map) (hj : (arrive s h).1.cmp.joins.contains map = false) :
    HandledAs (.prepare h map) s h (ctl (if checkMap (arrive s h).1 map false = 0 then prepareMap (arrive s h).1 map else (arrive s h).1) map.comp h.src
      (.vote map.epoch (checkMap (arrive s h).1 map false))) 0 := by
  refine handledAs_of (by rw [exec_prepare, execPrepare]) ?_
  dsimp only
  rw [hm, hj, Bool.or_false]
  exact congrArg (·, 0) ((if_neg (mt beq_iff_eq.mp he)).trans (if_neg (mt beq_iff_eq.mp hp)))
end

section
variable (hc : findChange (arrive s h).1 h.comp = some c)
include hc

section
variable (hf : c.committed = false)
include hf

theorem handled_vote_no (hz : code ≠ 0) (ht : c.takeover = false) : HandledAs (.vote h c.map.epoch code) s h (leaderGo (abortChange (arrive s h).1 h.comp code h.src) h.comp) 0 := by
  refine handledAs_of (by rw [exec_vote, execVote]) ?_
  dsimp only
  rw [hc]
  refine congrArg (fun u => (leaderGo u h.comp, 0)) ((if_neg ?_).trans (if_pos ⟨hz, ht⟩))
  rw [hf]
  exact fun x => x.elim (absurd rfl) (absurd · (by decide))

theorem handled_vote_yes : HandledAs (.vote h c.map.epoch 0) s h
    (leaderGo (tryCommit (modChange (arrive s h).1 h.comp (fun x => { x with yes := x.yes ++ [h.src] })) h.comp) h.comp) 0 := by
  refine handledAs_of (by rw [exec_vote, execVote]) ?_
  dsimp only
  rw [hc]
  refine congrArg (fun u => (leaderGo u h.comp, 0)) ((if_neg ?_).trans (if_neg fun x => x.1 rfl))
  rw [hf]
  exact fun x => x.elim (absurd rfl) (absurd · (by decide))
end

theorem handled_applied_counts (hf : c.committed = true) : HandledAs (.applied h c.map.epoch) s h
    (leaderGo (tryEnd (modChange (arrive s h).1 h.comp (fun x => { x with applied := x.applied ++ [h.src] })) h.comp) h.comp) 0 := by
  refine handledAs_of (by rw [exec_applied, execApplied]) ?_
  dsimp only
  rw [hc]
  exact congrArg (fun u => (leaderGo u h.comp, 0)) ((if_neg (not_not.mpr rfl)).trans (if_pos hf))
end

theorem handled_compositionCommit_applies {mp : CompMap} (hk : knownMap (arrive s h).1 h.comp epoch = some mp)
    (hd : (membership? (arrive s h).1 h.comp).any (fun x => x.map.epoch == epoch) = false) :
    HandledAs (.compositionCommit h epoch) s h (ctl (applyMap (arrive s h).1 mp) h.comp h.src (.applied epoch)) 0 := by
  refine handledAs_of (by rw [exec_compositionCommit, execCompositionCommit]) ?_
  dsimp only
  rw [hk]
  dsimp only
  rw [hd, if_neg Bool.false_ne_true]

theorem handled_compositionAbort : HandledAs (.compositionAbort h epoch code) s h (dropPrepared (arrive s h).1 h.comp epoch) 0 := handledAs_of (by rw [exec_compositionAbort, execCompositionAbort]) rfl

theorem handled_compositionResult {voter : Nat} : HandledAs (.compositionResult h epoch code voter) s h (proposalDone (arrive s h).1 h.comp code voter (some epoch)) 0 :=
  handledAs_of (by rw [exec_compositionResult, execCompositionResult]) rfl
end

/-! ### Late votes and a silent leader (R484, R485) -/

/-- The members whose vote on an uncommitted change is late (R484). -/
def lateVoters (s : State) (comp : Nat) (c : CmpChange) : List Nat :=
  c.asked.filter (fun d => d != self s && !(isLost s comp d) && !(c.yes.contains d) && decide (c.since + voteTo s +
    (if s.cmp.beats.any (fun b => b.comp == comp && b.device == d && b.updating) then 5000 else 0) ≤ s.now))

/-- The vote of a composition whose leader has been silent for two vote times (R485). -/
def silentVote (s : State) (comp : Nat) : Option Voted := s.cmp.votes.find? (fun v => v.comp == comp && decide (v.at_ + 2 * voteTo s ≤ s.now))

/-- The lowest member of a map that is not declared lost. -/
def lowestLeft (s : State) (comp : Nat) (m : Membership) : Nat := lowest ((mapDevices m.map).filter (fun d => !(isLost s comp d)))

section
variable {s : State} {comp : Nat} (hh : s.halted = false) (hp : paused s = false)
include hh hp

theorem execVoteTimeout_none (hc : findChange s comp = none) : exec (.voteTimeout comp) s = .next s := by
  refine awake_unchanged hh hp ?_
  rw [hc]

theorem execVoteTimeout_aborts {c : CmpChange} {d : Nat} {l : List Nat} (hc : findChange s comp = some c) (hf : c.committed = false) (ht : c.takeover = false)
    (hl : lateVoters s comp c = d :: l) : exec (.voteTimeout comp) s =
      .next (retag s (leaderGo (abortChange ((d :: l).foldl (fun s d => declareLost s comp d) s) comp Code.cmpLostMember d) comp)) := by
  refine awake_leads hh hp ?_
  unfold lateVoters at hl
  rw [hc]
  dsimp only
  rw [hf, ht]
  simp only [Bool.false_eq_true, if_false]
  rw [hl]

theorem execLeaderSilenceTimeout_none (hv : silentVote s comp = none) : exec (.leaderSilenceTimeout comp) s = .next s := by
  refine awake_unchanged hh hp ?_
  rw [show s.cmp.votes.find? _ = none from hv]

theorem execLeaderSilenceTimeout_asks {v : Voted} {m : Membership} (hv : silentVote s comp = some v) (hc : findChange s comp = none) (hm : membership? s comp = some m)
    (ht : lowestLeft s comp m ≠ self s) : exec (.leaderSilenceTimeout comp) s = .next (retag s (ctl
      { s with cmp := { s.cmp with votes := mapIf (fun x => x == v) (fun x => { x with at_ := s.now }) s.cmp.votes } } comp (lowestLeft s comp m) (.vote v.epoch 0))) := by
  refine awake_leads hh hp ?_
  rw [show s.cmp.votes.find? _ = some v from hv]
  dsimp only
  rw [hc, hm]
  exact (if_neg Bool.false_ne_true).trans (if_neg ht)
end

/-- Settles O28, by the lemma of each outcome of a proposal, of its messages and of its timeouts. -/
theorem mapAgreementRows : Obligations.MapAgreementRows := by
  unfold Obligations.MapAgreementRows
  refine ⟨fun s who v hh => ⟨execCmpMapGo_virtual hh, fun hw => execCmpMapGo_idle hh hw, fun x hw hg hb hc hx => ⟨fun hl hn he => ?_, fun hl he => ?_, fun hl => ?_⟩⟩,
    fun s h => ⟨fun map m hm => ⟨handled_propose_refused hm, handled_propose_starts hm, handled_prepare_applied hm, handled_prepare_votes hm⟩,
      fun c code hc hf ht => ⟨fun hz => handled_vote_no hc hf hz ht, handled_vote_yes hc hf⟩, fun epoch m => handled_compositionCommit_applies,
      fun epoch code => handled_compositionAbort, fun c => handled_applied_counts, fun epoch code voter => handled_compositionResult⟩,
    fun s comp hh hp => ⟨execVoteTimeout_none hh hp, fun c d l => execVoteTimeout_aborts hh hp, execLeaderSilenceTimeout_none hh hp,
      fun v m => execLeaderSilenceTimeout_asks hh hp⟩⟩
  · exact (execCmpMapGo_member hh hw hg hb hc hx).trans (congrArg (fun u => Host.Outcome.next (retag s u)) (proposeHere_starts (s := mapGoBusy s v) hl hn he))
  · refine (execCmpMapGo_member hh hw hg hb hc hx).trans (congrArg Host.Outcome.next ?_)
    exact (congrArg (retag s) (proposeHere_conflicts (s := mapGoBusy s v) hl he rfl)).trans (retag_same s _ rfl rfl rfl)
  · exact (execCmpMapGo_member hh hw hg hb hc hx).trans (congrArg (fun u => Host.Outcome.next (retag s u)) (proposeHere_forwards (s := mapGoBusy s v) hl _))

end Sys2Proof.Machine
end

section
/-!
PROOF. Regions (R370 to R380): where a write reaches region memory, and what a commit, a write to a draft and a fold-back leave of the version in force.
-/

namespace Sys2Proof.Machine

open Sys2Proof

/-- A test that implies a filter's finds the same element through it. -/
theorem find?_filter_of_imp {α : Type} {p q : α → Bool} (h : ∀ a, q a = true → p a = true) (l : List α) : (l.filter p).find? q = l.find? q := by
  induction l with
  | nil => rfl
  | cons x l ih =>
    by_cases hp : p x = true
    · rw [List.filter_cons_of_pos hp, List.find?_cons, List.find?_cons, ih]
    · rw [List.filter_cons_of_neg hp, ih, List.find?_cons_of_neg (mt (h x) hp)]

/-! ### A write that reaches the carve (R374) -/

section
variable {s : State} {i : Nat}

theorem baseWrite_carve {k : KeyEntry} (hl : k.loc = 1) (off : Nat) (bs : List Byte) : baseWrite s k off bs = { s with dev := s.dev.write (k.addr + off) bs } := if_pos hl

theorem regionWrite_carve (hd : (getK s i).drafted = false) (hl : (getK s i).loc = 1) (w : Writer) (off : Nat) (bs : List Byte) :
    regionWrite s i w off bs = { s with dev := s.dev.write ((getK s i).addr + off) bs } := (if_neg (Bool.eq_false_iff.mp hd)).trans (baseWrite_carve hl off bs)

/-- The bytes written at an address of region memory, and no other, are as written. -/
theorem written_exactly (m : Mem) (b : Nat) (bs : List Byte) :
    (∀ i, i < bs.length → Mem.byte (m.write b bs) (b + i) = bs.getD i 0) ∧ ∀ a, ¬ (b ≤ a ∧ a < b + bs.length) → Mem.byte (m.write b bs) a = Mem.byte m a := by
  refine ⟨fun i hi => ?_, fun a ha => Mem.byte_write_outside m b bs a (by omega)⟩
  rw [Mem.byte_write_inside m b bs i hi, List.getD_eq_getElem?_getD, List.getElem?_eq_getElem hi, Option.getD_some]
end

/-! ### The version in force (R376, R377) -/

section
variable {s t : State} {k k' : KeyEntry} {off : Nat}

theorem baseByte_carve (h : k.loc = 1) : baseByte s k off = Mem.byte s.dev (k.addr + off) := if_pos h

theorem versionByte_relocated {u : Unit4K} (h : k.relocated.find? (fun u => u.page == off / 4096) = some u) : versionByte s k off = Mem.byte u.bytes (off % 4096) := by
  rw [versionByte, h]

theorem versionByte_base (h : k.relocated.find? (fun u => u.page == off / 4096) = none) : versionByte s k off = baseByte s k off := by rw [versionByte, h]

/-- A byte of the version reads the page's relocated unit and the base byte, nothing else. -/
theorem versionByte_congr (hr : k'.relocated.find? (fun u => u.page == off / 4096) = k.relocated.find? (fun u => u.page == off / 4096))
    (hb : baseByte t k' off = baseByte s k off) : versionByte t k' off = versionByte s k off := by
  unfold versionByte
  rw [hr, hb]

/-! ### A commit (R376) -/

section
variable {d : Draft}

theorem commitDraft_relocated : (commitDraft k d).relocated = k.relocated.filter (fun u => !(d.units.any (fun v => v.page == u.page))) ++ d.units := rfl

theorem commitDraft_drafted {u : Unit4K} (h : d.units.find? (fun u => u.page == off / 4096) = some u) : versionByte s (commitDraft k d) off = Mem.byte u.bytes (off % 4096) := by
  refine versionByte_relocated ?_
  have gone : (k.relocated.filter (fun u => !(d.units.any (fun v => v.page == u.page)))).find? (fun u => u.page == off / 4096) = none := by
    refine List.find?_eq_none.mpr fun x hx hp => ?_
    have held : d.units.any (fun v => v.page == x.page) = true := by
      rw [beq_iff_eq.mp hp]
      exact List.any_eq_true.mpr ⟨u, List.mem_of_find?_eq_some h, List.find?_some (p := fun u : Unit4K => u.page == off / 4096) h⟩
    exact absurd (of_mem_kept (p := fun u : Unit4K => !(d.units.any (fun v => v.page == u.page))) hx) (by rw [held]; decide)
  rw [commitDraft_relocated, List.find?_append, gone, Option.none_or, h]

theorem commitDraft_undrafted (h : d.units.find? (fun u => u.page == off / 4096) = none) : versionByte s (commitDraft k d) off = versionByte s k off := by
  refine versionByte_congr ?_ rfl
  rw [commitDraft_relocated, List.find?_append, h, Option.or_none]
  refine find?_filter_of_imp (fun x hx => ?_) _
  rw [beq_iff_eq.mp hx, Bool.not_eq_true', List.any_eq_false]
  exact List.find?_eq_none.mp h
end
end

/-! ### A write into a draft (R374) -/

section
variable {s : State} {i : Nat} {w : Writer}

theorem putByte_writer (d : Draft) (off : Nat) (b : Byte) : (d.putByte off b).writer = d.writer := rfl

theorem write_writer (d : Draft) (off : Nat) (bs : List Byte) : (d.write off bs).writer = d.writer := by
  induction bs generalizing d off with
  | nil => rfl
  | cons b bs ih => exact (ih _ _).trans (putByte_writer d off b)

theorem draftOf_writer {k : KeyEntry} {d : Draft} (h : draftOf k w = some d) : d.writer = w := beq_iff_eq.mp (List.find?_some (p := fun d : Draft => d.writer == w) h)

/-- The draft a writer's write begins from: its own, else an empty one. -/
def draftBegun (s : State) (k : KeyEntry) (w : Writer) : Draft :=
  (draftOf k w).getD { writer := w, startVersion := k.version, units := [], holds := 0, renewed := s.now, term := leaseTerm s }

theorem draftBegun_writer (k : KeyEntry) : (draftBegun s k w).writer = w := by
  unfold draftBegun
  cases h : draftOf k w with
  | none => rfl
  | some d => exact draftOf_writer h

/-- The writer's draft with every page that a write touches. -/
def draftFilled (s : State) (k : KeyEntry) (w : Writer) (off n : Nat) : Draft :=
  { draftBegun s k w with
    units := (draftBegun s k w).units ++ ((pagesOf off n).filter (fun p => !((draftBegun s k w).units.any (fun u => u.page == p)))).map (unitOf s k)
    renewed := s.now, term := leaseTerm s }

/-- A write into a draft replaces the writer's draft and clears the record of an earlier end, and changes nothing else. -/
theorem draftWrite_eq (off : Nat) (bs : List Byte) : ∃ d, d.writer = w ∧ draftWrite s i w off bs =
    setK s i { getK s i with
      drafts := (getK s i).drafts.filter (fun x => !(x.writer == w)) ++ [d]
      ended := (getK s i).ended.filter (fun x => !(x.1 == w)) } :=
  ⟨(draftFilled s (getK s i) w off bs.length).write off bs, (write_writer _ off bs).trans (draftBegun_writer (getK s i)), rfl⟩

/-- A writer's draft replaced leaves every other writer's. -/
theorem find?_draft_replaced {l : List Draft} {d : Draft} {v : Writer} (hd : d.writer = w) (hv : v ≠ w) :
    (l.filter (fun x => !(x.writer == w)) ++ [d]).find? (fun x => x.writer == v) = l.find? (fun x => x.writer == v) := by
  have other : ([d] : List Draft).find? (fun x => x.writer == v) = none :=
    List.find?_cons_of_neg (by rw [beq_iff_eq, hd]; exact hv.symm)
  rw [List.find?_append, other, Option.or_none]
  refine find?_filter_of_imp (fun x hx => ?_) l
  rw [Bool.not_eq_true', beq_eq_false_iff_ne, beq_iff_eq.mp hx]
  exact hv
end

/-! ### A fold-back (R377) -/

section
variable {s : State} {i : Nat} {u : Unit4K}

/-- A key index without the relocated units of a page. -/
def withoutUnit (k : KeyEntry) (p : Nat) : KeyEntry := { k with relocated := k.relocated.filter (fun v => !(v.page == p)) }

@[simp] theorem withoutUnit_addr (k : KeyEntry) (p : Nat) : (withoutUnit k p).addr = k.addr := rfl

theorem withoutUnit_same {k : KeyEntry} {p q : Nat} (h : q = p) : (withoutUnit k p).relocated.find? (fun v => v.page == q) = none := by
  refine List.find?_eq_none.mpr fun x hx => ?_
  have kept := of_mem_kept (p := fun v : Unit4K => !(v.page == p)) hx
  rw [Bool.not_eq_true', ← h] at kept
  exact Bool.eq_false_iff.mp kept

theorem withoutUnit_other {k : KeyEntry} {p q : Nat} (h : q ≠ p) : (withoutUnit k p).relocated.find? (fun v => v.page == q) = k.relocated.find? (fun v => v.page == q) := by
  refine find?_filter_of_imp (fun x hx => ?_) _
  rw [beq_iff_eq.mp hx, Bool.not_eq_true', beq_eq_false_iff_ne]
  exact h

/-- The state of a LOC 1 region with a page folded back: the key index without it, and its bytes in the carve. -/
theorem foldBack_carve (hl : (getK s i).loc = 1) : foldBack s i u =
    setK { s with dev := s.dev.write ((getK s i).addr + u.page * 4096) (Mem.read u.bytes 0 4096) } i (withoutUnit (getK s i) u.page) :=
  congrArg (fun t => setK t i (withoutUnit (getK s i) u.page)) (baseWrite_carve (s := s) hl (u.page * 4096) (Mem.read u.bytes 0 4096))

theorem read_length (m : Mem) (a n : Nat) : (Mem.read m a n).length = n := by rw [Mem.read, List.length_map, List.length_range]

theorem foldBack_version (hl : (getK s i).loc = 1) (hu : (getK s i).relocated.find? (fun v => v.page == u.page) = some u) (a : Nat) :
    versionByte (foldBack s i u) (getK (foldBack s i u) i) a = versionByte s (getK s i) a := by
  rw [foldBack_carve hl, getK_setK_same]
  by_cases hp : a / 4096 = u.page
  · have inside : a % 4096 < (Mem.read u.bytes 0 4096).length := by
      rw [read_length]
      exact Nat.mod_lt a (by decide)
    have place : (getK s i).addr + a = (getK s i).addr + u.page * 4096 + a % 4096 := by omega
    rw [versionByte_base (withoutUnit_same hp), versionByte_relocated (hp ▸ hu), baseByte_carve (k := withoutUnit (getK s i) u.page) hl, setK_dev, withoutUnit_addr]
    dsimp only
    rw [place, Mem.byte_write_inside _ _ _ _ inside]
    simp only [Mem.read, List.getElem_map, List.getElem_range, Nat.zero_add]
  · refine versionByte_congr (withoutUnit_other hp) ?_
    rw [baseByte_carve (k := withoutUnit (getK s i) u.page) hl, baseByte_carve hl, setK_dev, withoutUnit_addr]
    dsimp only
    have apart : (getK s i).addr + a < (getK s i).addr + u.page * 4096 ∨
        (getK s i).addr + u.page * 4096 + (Mem.read u.bytes 0 4096).length ≤ (getK s i).addr + a := by
      rw [read_length]
      omega
    rw [Mem.byte_write_outside _ _ _ _ apart]
end

/-! ### Generations (R370) -/

theorem genOlder_genNext (g : Nat) : genOlder g (genNext g) = true := by
  have next : (genNext g + 65535 - g) % 65535 = 1 := by
    unfold genNext
    split <;> omega
  unfold genOlder
  rw [next]
  rfl

/-- Settles O14, by what a commit, a write into a draft and a fold-back leave of each byte of the version in force. -/
theorem regionVersionsAndDrafts : Obligations.RegionVersionsAndDrafts := by
  unfold Obligations.RegionVersionsAndDrafts
  refine ⟨fun s k d off => ⟨rfl, fun u => commitDraft_drafted, commitDraft_undrafted⟩, fun s i w off bs => ?_, fun s i u a hl hu => foldBack_version hl hu a,
    fun g => rfl, fun g _ _ => genOlder_genNext g⟩
  obtain ⟨d, hd, h⟩ := draftWrite_eq (s := s) (i := i) (w := w) off bs
  rw [h, getK_setK_same]
  exact ⟨fun a => versionByte_congr rfl rfl, rfl, rfl, rfl, fun v hv => find?_draft_replaced hd hv⟩

end Sys2Proof.Machine
end

section
/-!
PROOF. A local result and a one-packet WRITE (R371, R372, R374, R423): the bytes stand where the piece or the packet says, or nothing is written.
-/

namespace Sys2Proof.Machine

open Sys2Proof

/-! ### A result of one written piece (R372) -/

section
variable {s : State} {r : Running} {buf : BufRef} {off c : Nat} {bs : List Byte}

/-- The result that writes one piece. -/
def onePiece (buf : BufRef) (off : Nat) (bs : List Byte) : Result := { buf := buf, how := .write, pieces := [(off, bs)] }

theorem firstFail_single (c : Nat) : firstFail [(c == 0, c)] = c := by
  by_cases h : c = 0
  · rw [h]
    rfl
  · exact if_neg (mt beq_iff_eq.mp h)

section
variable (hb : buf.device = self s)
include hb

omit hb in
theorem keyCheck_span (hk : keyCheck s buf.key buf.offset (off + bs.length) rWrite none = c) : keyCheck s buf.key buf.offset (max 0 (off + bs.length)) rWrite none = c := by
  rw [Nat.max_eq_right (Nat.zero_le _)]
  exact hk

theorem resultCode_onePiece_refused (w : Writer) (hk : keyCheck s buf.key buf.offset (off + bs.length) rWrite none = c) (hc : c ≠ 0) : resultCode s w (onePiece buf off bs) = c :=
  (if_neg (not_not.mpr hb)).trans ((if_pos fun h0 => hc ((keyCheck_span hk).symm.trans h0)).trans (keyCheck_span hk))

theorem resultCode_onePiece_passes (w : Writer) (hk : keyCheck s buf.key buf.offset (off + bs.length) rWrite none = 0) (hd : (getK s (keyIndex buf.key)).drafted = false) :
    resultCode s w (onePiece buf off bs) = 0 :=
  (if_neg (not_not.mpr hb)).trans ((if_neg (not_not.mpr (keyCheck_span hk))).trans (if_neg fun x => Bool.false_ne_true (hd.symm.trans x.1)))

omit hb in
/-- The code of a single result's delivery is that result's. -/
theorem firstFail_result {w : Writer} (h : resultCode s w (onePiece buf off bs) = c) :
    firstFail ([onePiece buf off bs].map (fun x => (resultCode s w x == 0, resultCode s w x))) = c := (firstFail_single _).trans h

theorem emit_refused (hk : keyCheck s buf.key buf.offset (off + bs.length) rWrite none = c) (hc : c ≠ 0) :
    emit s r [onePiece buf off bs] = finish (keyRefused s c) r.id c := by
  unfold emit
  dsimp only
  rw [firstFail_result (resultCode_onePiece_refused hb _ hk hc), if_pos hc]

theorem emit_writes (hk : keyCheck s buf.key buf.offset (off + bs.length) rWrite none = 0) (hd : (getK s (keyIndex buf.key)).drafted = false) :
    emit s r [onePiece buf off bs] = finish (regionWrite s (keyIndex buf.key) (writerOf s r) (buf.offset + off) bs) r.id 0 := by
  have here : [onePiece buf off bs].filter (fun x => x.buf.device == self s) = [onePiece buf off bs] := List.filter_cons_of_pos (beq_iff_eq.mpr hb)
  have away : [onePiece buf off bs].filter (fun x => x.buf.device != self s) = [] :=
    List.filter_cons_of_neg (by rw [bne_iff_ne]; exact not_not.mpr hb)
  unfold emit
  dsimp only
  rw [firstFail_result (resultCode_onePiece_passes hb _ hk hd), if_neg (not_not.mpr rfl), here, away]
  rfl
end

theorem findRun_finished {t : State} (ht : t.tz = s.tz) (hr : findRun s r.id = some r) : ∃ r', findRun (finish t r.id c) r.id = some r' ∧ r'.phase = .done c := by
  have found : findRun t r.id = some r := by
    rw [findRun, ht]
    exact hr
  refine ⟨{ r with phase := .done c }, ?_, rfl⟩
  rw [finish, findRun_modRun t r.id (fun r => { r with phase := .done c }) (fun _ => rfl), found]
  rfl
end

/-- Settles O18, by the check of the whole range: refused, nothing is written; passed, the piece alone is. -/
theorem resultDelivery : Obligations.ResultDelivery := by
  unfold Obligations.ResultDelivery
  intro s r buf off bs hb
  refine ⟨fun hc => ?_, fun hc hd hl _ => ?_⟩
  · have refused := emit_refused (r := r) hb rfl hc
    exact ⟨refused, (congrArg State.dev refused).trans rfl, (congrArg State.host refused).trans rfl⟩
  · have written := (emit_writes (r := r) hb hc hd).trans (congrArg (finish · r.id 0) (regionWrite_carve hd hl (writerOf s r) (buf.offset + off) bs))
    obtain ⟨inside, outside⟩ := written_exactly s.dev ((getK s (keyIndex buf.key)).addr + (buf.offset + off)) bs
    rw [show emit s r [{ buf := buf, how := .write, pieces := [(off, bs)] }] = _ from written]
    exact ⟨inside, outside, rfl, findRun_finished rfl⟩

end Sys2Proof.Machine
end

section
/-!
PROOF. A WRITE of one packet (R370, R371, R374, R423): refused or out of sequence it changes no memory; taken, it changes exactly the bytes it carries.
-/

namespace Sys2Proof.Machine

open Sys2Proof

section
variable {s : State} {h : Hdr} {p : Packet} {i : Nat} {w : Writer}

/-- A message that leaves its key index changes its count and its writer's draft alone. -/
theorem leaveMsg_dev (s : State) (i : Nat) (w : Writer) : (leaveMsg s i w).dev = s.dev := rfl

theorem leaveMsg_host (s : State) (i : Nat) (w : Writer) : (leaveMsg s i w).host = s.host := rfl

theorem leaveMsg_version (s : State) (i : Nat) (w : Writer) : (getK (leaveMsg s i w) i).version = (getK s i).version := by
  unfold leaveMsg
  dsimp only
  rw [getK_setK_same]
  dsimp only
  rw [keyLeave, getK_setK_same]

theorem keyEnter_dev (s : State) (i : Nat) : (keyEnter s i).dev = s.dev := rfl

theorem keyEnter_host (s : State) (i : Nat) : (keyEnter s i).host = s.host := rfl

/-- A message entered for an undrafted carve region writes its bytes there. -/
theorem regionWrite_entered (hd : (getK s i).drafted = false) (hl : (getK s i).loc = 1) (w : Writer) (off : Nat) (bs : List Byte) :
    regionWrite (keyEnter s i) i w off bs = { keyEnter s i with dev := s.dev.write ((getK s i).addr + off) bs } := by
  have drafted : (getK (keyEnter s i) i).drafted = false := by
    rw [getK_keyEnter]
    exact hd
  have loc : (getK (keyEnter s i) i).loc = 1 := by
    rw [getK_keyEnter]
    exact hl
  rw [regionWrite_carve drafted loc, getK_keyEnter, keyEnter_dev]

/-- The state of a taken one-packet WRITE before its acknowledgement. -/
def writeLanded (u : State) (i : Nat) (w : Writer) (off : Nat) (bs : List Byte) : State := leaveMsg (regionWrite (keyEnter u i) i w off bs) i w

section
variable {u : State} (hd : (getK u i).drafted = false) (hl : (getK u i).loc = 1)
include hd hl

theorem writeLanded_dev (w : Writer) (off : Nat) (bs : List Byte) : (writeLanded u i w off bs).dev = u.dev.write ((getK u i).addr + off) bs := by
  rw [writeLanded, leaveMsg_dev, regionWrite_entered hd hl]

theorem writeLanded_host (w : Writer) (off : Nat) (bs : List Byte) : (writeLanded u i w off bs).host = u.host := by
  rw [writeLanded, leaveMsg_host, regionWrite_entered hd hl]
  exact keyEnter_host u i

theorem writeLanded_version (w : Writer) (off : Nat) (bs : List Byte) : (getK (writeLanded u i w off bs) i).version = (getK u i).version := by
  have entered : getK { keyEnter u i with dev := u.dev.write ((getK u i).addr + off) bs } i = getK (keyEnter u i) i := rfl
  rw [writeLanded, leaveMsg_version, regionWrite_entered hd hl, entered, getK_keyEnter]
end

section
variable (hh : s.halted = false) (hq : h.qp < 0x8000)
include hh hq

/-- A WRITE that is out of sequence or refused leaves the memory as the frame's arrival does. -/
theorem execWrite_keeps (hf : p.first = true) (hl : p.last = true)
    (hc : (arrive s h).2 = false ∨ writeCheck (arrive s h).1 h p.key p.off p.msgLen rWrite ≠ 0) :
    ∃ t, exec (.write h p) s = .next t ∧ t.dev = (arrive s h).1.dev ∧ t.host = (arrive s h).1.host := by
  cases ha : (arrive s h).2 with
  | false => exact ⟨_, execWrite_untaken hh hq ha, retag_dev s _, retag_host s _⟩
  | true =>
    have refused := hc.resolve_left (by rw [ha]; exact Bool.true_eq_false.mp)
    obtain ⟨dev, host⟩ := refused_memory (arrive s h).1 h (writeCheck (arrive s h).1 h p.key p.off p.msgLen rWrite)
    exact ⟨_, execWrite_refused hh hq ⟨ha, hf, hl⟩ rfl refused, (retag_dev s _).trans dev, (retag_host s _).trans host⟩

/-- A WRITE that is taken into an undrafted carve region changes the bytes it carries alone. -/
theorem execWrite_writes (hf : p.first = true) (hl : p.last = true) (ha : (arrive s h).2 = true)
    (hc : writeCheck (arrive s h).1 h p.key p.off p.msgLen rWrite = 0) (hi : keyIndex p.key ≠ 0) (hd : (getK (arrive s h).1 (keyIndex p.key)).drafted = false)
    (hloc : (getK (arrive s h).1 (keyIndex p.key)).loc = 1) : ∃ t, exec (.write h p) s = .next t ∧
      t.dev = (arrive s h).1.dev.write ((getK (arrive s h).1 (keyIndex p.key)).addr + p.off) p.bytes ∧ t.host = (arrive s h).1.host ∧
      (getK t (keyIndex p.key)).version = (getK (arrive s h).1 (keyIndex p.key)).version := by
  have acked := ackLast_fab (writeLanded (arrive s h).1 (keyIndex p.key) (msgWriter h p.port p.fn) p.off p.bytes) h 0
  refine ⟨_, execWrite_whole hh hq ⟨ha, hf, hl⟩ hc hi hd, ?_, ?_, ?_⟩
  · exact (retag_dev s _).trans (acked.dev.trans (writeLanded_dev hd hloc _ _ _))
  · exact (retag_host s _).trans (acked.host.trans (writeLanded_host hd hloc _ _ _))
  · exact (congrArg KeyEntry.version (getK_of_rgn ((retag_rgn s _).trans acked.rgn) _)).trans (writeLanded_version hd hloc _ _ _)
end

/-- A WRITE always leads to one next state. -/
theorem execWrite_next : ∃ t, exec (.write h p) s = .next t := ⟨_, rfl⟩
end

/-- Settles O34, by the two ways a one-packet WRITE can go. -/
theorem writeReachesItsBytes : Obligations.WriteReachesItsBytes := by
  unfold Obligations.WriteReachesItsBytes
  intro s h p hh hq hf hl dev host
  obtain ⟨t, ht⟩ := execWrite_next (s := s) (h := h) (p := p)
  refine ⟨t, ht, fun hc => ?_, fun ha hc hi hd hloc => ?_⟩
  · obtain ⟨t', ht', dev', host'⟩ := execWrite_keeps hh hq hf hl hc
    obtain rfl := Host.Outcome.next.inj (ht.symm.trans ht')
    exact ⟨dev'.trans dev, host'.trans host⟩
  · obtain ⟨t', ht', dev', host', version⟩ := execWrite_writes hh hq hf hl ha hc hi hd hloc
    obtain rfl := Host.Outcome.next.inj (ht.symm.trans ht')
    obtain ⟨inside, outside⟩ := written_exactly s.dev ((getK (arrive s h).1 (keyIndex p.key)).addr + p.off) p.bytes
    rw [dev', dev]
    exact ⟨inside, outside, host'.trans host, version⟩

end Sys2Proof.Machine
end
